-- ==== Sys2Proof/Word.lean ====
section
/-!
DEFINITION. The word types of the TDN-2304 and nothing else: every helper that reads a field, extends a sign or
joins bytes stands in `Sys2Proof/Machine/Bits.lean`.
-/

namespace Sys2Proof

/-- A 64-bit scalar, pointer or CSR value (R38, R73). -/
abbrev Word := BitVec 64

/-- One byte. -/
abbrev Byte := BitVec 8

/-- An instruction word (R31). -/
abbrev IWord := BitVec 32

/-- A vector register v0–v31 or a scalar register s0–s31 field (R33). -/
abbrev Reg := BitVec 5

/-- A mask register field; 0–23 are masks, 24–31 make the word illegal (R35). -/
abbrev MReg := BitVec 5

/-- A handle register field h0–h15 (R35). -/
abbrev HReg := BitVec 4

end Sys2Proof
end

