-- ==== Sys2Proof/Config.lean ====
section
/-!
DEFINITION. The figures that are fixed for the part (R2) and the free values: constants without a body, of which
nothing can be evaluated or proved.
-/

namespace Sys2Proof.Config

/-- The draw q of stochastic rounding (R53): uniform in hardware, so here a free value for each draw.
(log entry 9: DESIGN CHOICE.) -/
opaque stochasticDraw : Nat → BitVec 16

/-- A word that the spec states no value for (a tval of an instruction that names no register): a free value for each
use. (log entry 10: DESIGN CHOICE.) -/
opaque freeWord : Nat → BitVec 64

/-- The number of a context's page pool, which tval of POOL_EMPTY holds (R93): the spec numbers no pool.
(log entry 11: DESIGN CHOICE.) -/
opaque poolNumber : Nat → BitVec 64

/-- The data records of a save, by save sequence number: the spec gives the header's layout and no more (R296).
(log entry 12: DESIGN CHOICE.) -/
opaque saveData : Nat → List (BitVec 512)

/-- What the run table of a peer context on another chip holds for a handle, at each use: none when a check of R152 fails
there, else whether the run is OPEN, and its record size (R360). This chip does not hold it.
(log entry 13: DESIGN CHOICE.) -/
opaque peerRun : Nat → BitVec 64 → Option (Bool × Nat)

/-- Whether a peer chip refuses the import of a value, at each use: its sequencer may not be in EXPORTED with that generation,
and of two imports that race the exporter decides which succeeds (R244). This chip does not hold it.
(log entry 14: DESIGN CHOICE.) -/
opaque importRefused : Nat → BitVec 64 → Bool

/-- A context's share of a die's receive buffer in slots: Kennel divides the buffer (R352).
(log entry 15: DESIGN CHOICE.) -/
opaque recvShare : Nat → Nat → Nat

/-- Where the address hash that Kennel fixes at bring-up places a 2 KiB block of a run's bytes, by context, run-table entry,
generation and block (R329). (log entry 16: DESIGN CHOICE.) -/
opaque blockHash : Nat → Nat → Nat → Nat → Nat

/-- Where the map places a block of a retiring channel among the other channels' spare space, by the number of channels retired
before, context, entry, generation and block (R330). (log entry 16: DESIGN CHOICE.) -/
opaque spareHash : Nat → Nat → Nat → Nat → Nat → Nat

/-- A context's weighted share of a die's queued merge-engine jobs, by die and context: the weights are Kennel's (R260).
(log entry 68: DESIGN CHOICE.) -/
opaque jobWeight : Nat → Nat → Nat

/-- What CONFIG of a queue holds, by context and queue: Kennel sets it when it creates the queue (R271, R278).
(log entry 17: DESIGN CHOICE.) -/
opaque queueConfig : Nat → Nat → BitVec 4

/-- The order in which Kennel prefers an interface's cores for a new partition, at each use: which of the free cores a
context gets is Kennel's choice (R258, R260). (log entry 18: DESIGN CHOICE.) -/
opaque corePreference : Nat → Nat → Nat

/-- Whether a signature over a digest is one of the key of a digest: RSA-3072 over SHA-256 (R372).
(log entry 20: DESIGN CHOICE.) -/
opaque signedBy : BitVec 256 → BitVec 256 → BitVec 3072 → Bool

/-- SHA-256 digests of measurement blocks (R268): the spec names the function and gives no bytes.
(log entry 20: DESIGN CHOICE.) -/
opaque digest : List Nat → BitVec 256

/-- The device identity's RSA-3072 signature over a report (R268, R372). (log entry 20: DESIGN CHOICE.) -/
opaque signature : List Nat → BitVec 3072

/-- The certificate chain of the device identity key (R372). (log entry 20: DESIGN CHOICE.) -/
opaque certificate : Nat → List (BitVec 8)

/-- A number that no group and no core has: the host's appends are no hart's (R370). -/
def noGroup : Nat := 2 ^ 32

/-- Dies of the module (R1, R16). -/
def dies : Nat := 8

/-- Cores of a die (R2). -/
def coresPerDie : Nat := 64

/-- Bytes of a core's local store, 2 MiB (R19). -/
def lsBytes : Nat := 0x20_0000

/-- Bytes of a core's operand store, 8 MiB (R20). -/
def osBytes : Nat := 0x80_0000

/-- Rows of the operand store (R20). -/
def osRows : Nat := 16384

/-- Memory channels of a die, 32 on each of its three stacks (R16). -/
def channels : Nat := 96

/-- Iteration and routing counters of a die, of each kind (R16). -/
def countersPerDie : Nat := 256

/-- Launches a queue holds (R269). -/
def queueDepth : Nat := 1024

/-- Queues of the device (R2). -/
def queues : Nat := 4096

/-- Live contexts (R259). -/
def contexts : Nat := 512

/-- Virtual interfaces (R2). -/
def interfaces : Nat := 256

/-- Run-table entries a context may have (R153). -/
def maxRuns : Nat := 262144

/-- Merge-engine jobs queued on a die (R183). -/
def mergeQueue : Nat := 256

/-- Receive-buffer slots of a die, 256 bytes each (R352). -/
def recvSlots : Nat := 16384

/-- 2 MiB page units of a die: three 96 GiB stacks (R1, R2), of which 31/32 may be drawn on (R329). -/
def dieUnits : Nat := 3 * 96 * 512 * 31 / 32

/-- Cycles of the tile engine's ramp (R211). -/
def tileRamp : Nat := 256

end Sys2Proof.Config
end

