-- ==== Sys2Proof/Machine/Objects.lean ====
section
/-!
DEFINITION. The objects the spec gives the chip, each as plain data: runs, handles, bindings, operations in flight,
queues, groups, contexts, sessions, messages. `Syntax.lean` uses some of them as arguments of the event rows of the
opcode table; `State.lean` holds all of them.
-/

namespace Sys2Proof.Machine

/-- Trap causes (R93); the device raises no other code. -/
inductive Cause
  | none | illegalInstr | privilege | badSpace | misaligned | badAddr | codeWrite | fetchBound | trapInstr
  | syscall | breakpoint | vdead | strandStop | engineOwned | engineStop | tileShape | sparsity | runHandle
  | runState | extent | poison | mapStale | handleExhausted | handleBad | semOverflow | barrierBroken
  | launchRefused | peerGone | ticketCancelled | poolEmpty | machineCheck
  deriving DecidableEq, Repr

/-- Privilege of a hart (R29); F is the management core's and no hart's. -/
inductive Priv | p | s
  deriving DecidableEq, Repr

/-- States of a hart (R68). -/
inductive HartState | free | bound | run | wait | suspended | saved | halted
  deriving DecidableEq, Repr

/-- States of a vector register set (R106). -/
inductive SetState | free | held | retained | evicted
  deriving DecidableEq, Repr

/-- A hart of a group: group number, cluster rank, hart within its core (R28, R290). -/
structure HartId where
  group : Nat
  rank : Nat
  hart : Nat
  deriving DecidableEq, Repr

/-- The key under which a hart is held: at most 64 ranks of 8 harts (R290). -/
def HartId.key (h : HartId) : Nat := h.group * 512 + h.rank * 8 + h.hart

/-- The engine sequencers of a core (R87). -/
inductive Eng | tile | stream
  deriving DecidableEq, Repr

/-- Who issues the word being executed (R42); `fold` is a USER combine's block on its hart's lanes (R188). A word that has issued
already is executed by its hart's lanes, out of the vector instruction queue (R111), or as the operation that it entered (R248). -/
inductive Issuer
  | hart (h : HartId)
  | seq (h : HartId) (e : Eng)
  | strand (h : HartId) (lane : Nat)
  | fold (h : HartId)
  | queued (h : HartId)
  | late (h : HartId) (op : Nat)
  deriving DecidableEq, Repr

/-- The hart an issuer belongs to. -/
def Issuer.owner : Issuer → HartId
  | .hart h => h
  | .seq h _ => h
  | .strand h _ => h
  | .fold h => h
  | .queued h => h
  | .late h _ => h

/-- A counted loop's state (R91). -/
structure LoopCtr where
  count : BitVec 32
  start : Word
  active : Bool
  deriving DecidableEq, Repr

/-- An affine pattern of local-store units (R172, R173): base, unit size, and a (count, stride) per dimension. -/
structure Pattern where
  base : Word
  unit : Nat
  dims : List (Nat × Word)
  deriving DecidableEq, Repr

/-- The kinds of a stream binding (R165). -/
inductive BindKind | read | append | patRead | patWrite
  deriving DecidableEq, Repr

/-- A stream binding of one vector register (R165, R171). An append cursor keeps the map generation under which it translated
the extent it is in (R327, R331). -/
structure Binding where
  reg : Nat
  kind : BindKind
  handle : Word
  seq : Nat
  pos : Nat
  part : List Byte
  pat : Pattern
  mapExt : Nat
  mapGen : BitVec 16
  deriving DecidableEq, Repr

/-- Why a strand or an engine sequencer stopped (R89, R147). -/
structure StopInfo where
  cause : Cause
  tval : Word
  pc : BitVec 32
  vstart : BitVec 12
  kstart : BitVec 32
  deriving DecidableEq, Repr

/-- A strand: one lane running its own blocks (R143–R146). `block` is its fetch buffer, not yet issued words first. -/
structure Strand where
  lane : Nat
  pc : Word
  block : List IWord
  vstart : BitVec 12
  vl : BitVec 13
  vsew : BitVec 7
  frm : BitVec 2
  nbedge : BitVec 4
  flags : BitVec 5
  stop : Option StopInfo
  running : Bool
  deriving DecidableEq, Repr

/-- The converter buffer of a vector set: 4096 f32 elements (R129, R131). -/
structure Converter where
  opened : Bool
  stages : Nat
  buf : BitVec 131072
  deriving DecidableEq, Repr

/-- A vector register set (R106): bits 16,383:64 of v0–v31 (bits 63:0 are the hart's scalars, R149), the masks, the
replay and converter buffers, the stream bindings and the strands. `resume` is R141's index and VAGAIN address; `strands` are
those of the last TFETCH, and `unjoined` the stopped ones of earlier TFETCHes that no VJOIN has met (R143, R147). -/
structure VSet where
  state : SetState
  hi : Vector (BitVec 16320) 32
  masks : Vector (BitVec 4096) 24
  replay : List IWord
  resume : Option (Nat × Word)
  conv : Converter
  binds : List Binding
  strands : List Strand
  unjoined : List Strand
  deriving DecidableEq, Repr

/-- An engine sequencer's forked program (R87, R88): its snapshot, position and outcome. `id` tells it from the programs forked
before and after it (R89). -/
structure SeqProg where
  id : Nat
  entry : Nat
  words : Nat
  pc : Nat
  sregs : Vector Word 32
  hregs : Vector (Option Nat) 16
  created : List Nat
  vl : BitVec 13
  vsew : BitVec 7
  frm : BitVec 2
  nbedge : BitVec 4
  vstart : BitVec 12
  kstart : BitVec 32
  loops : Vector LoopCtr 8
  ended : Bool
  stop : Option StopInfo
  stopAt : Nat
  /-- The key that a held MMS-family instruction took at issue, and the rows that it writes (R204, R208, R216). -/
  key : Option (Word × List Nat)
  /-- Held by a blocking instruction whose condition is unmet. -/
  waiting : Bool
  /-- The operations that a waiting HWAIT waits for (R242). -/
  hwait : Option (List Nat)
  /-- Suspended by a cause that escalates to F (R88). -/
  suspended : Bool
  deriving DecidableEq, Repr

/-- What the lanes do with an entry of the vector instruction queue: execute it; execute it as the operation that it entered under
the handle of the binding that it writes (R167); or, when it accesses memory or is the tile engine's, hand the operation that it
entered the registers as its turn finds them (R114, R207). -/
inductive LaneWork
  | execute
  | bound (op : Nat)
  | access (op : Nat)
  | tile (op : Nat)
  deriving DecidableEq, Repr

/-- An entry of a vector instruction queue (R111): a word, the vector registers that it names and, as 32 + n, the masks, the control
values at its issue, the tile rows that a TMOV reads, the number of the first operation that issued after it, whether more words of its
replayed or fetched body follow it, and what the lanes do with it. -/
structure Queued where
  word : IWord
  names : List Nat
  vl : BitVec 13
  vsew : BitVec 7
  vstart : BitVec 12
  frm : BitVec 2
  nbedge : BitVec 4
  rows : List Nat
  before : Nat
  more : Bool
  work : LaneWork
  deriving DecidableEq, Repr

/-- A trap on its way to a hart (R85): the deferred ones, and a broken barrier's (R313), which is not deferred. -/
structure Report where
  cause : Cause
  tval : Word
  source : Nat
  inner : Cause
  enginePc : BitVec 32
  deferred : Bool
  deriving DecidableEq, Repr

/-- A ticket a hart holds (R361). -/
structure Held where
  chip : BitVec 10
  die : Nat
  number : BitVec 32
  called : Bool
  cancelled : Bool
  lost : Bool
  deriving DecidableEq, Repr

/-- A near-memory job's status as NMSTAT reads it (R341). -/
structure NmJob where
  token : BitVec 32
  op : Nat
  status : Word
  deriving DecidableEq, Repr

/-- States of a run-table entry (R154). -/
inductive RunState | free | opened | sealed
  deriving DecidableEq, Repr

/-- A run-table entry (R150–R157, R326, R371). `mapped` sizes are bytes of device extents, `hostExt` host addresses
and bytes; `poison` and `damage` are by 64-byte line of run bytes (R334). -/
structure Run where
  gen : BitVec 24
  layout : Word
  len : Nat
  pub : Nat
  state : RunState
  host : Bool
  home : Nat
  mapped : List Nat
  hostExt : List (Nat × Nat)
  poison : List Nat
  damage : List (Nat × List Nat)
  deriving DecidableEq, Repr

/-- The classes WAITC counts (R86). -/
inductive OpClass | load | store | both | copy | tile | barrier | uncounted
  deriving DecidableEq, Repr

/-- A copy descriptor as read at issue (R172, R227). -/
structure CopyDesc where
  run : Word
  off : Nat
  fill : BitVec 32
  pat : Pattern
  deriving DecidableEq, Repr

/-- An OSLD descriptor (R227). -/
structure OsDesc where
  run : Word
  off : Nat
  stride : Nat
  fill : BitVec 32
  row : Nat
  rows : Nat
  deriving DecidableEq, Repr

/-- The merge-engine jobs (R181). -/
inductive JobKind | sort | merge | part | tag | join
  deriving DecidableEq, Repr

/-- A job descriptor as read at issue (R181). `table` is an RPART's partition table: destinations and split keys. -/
structure JobDesc where
  kind : JobKind
  ptr : Word
  flags : Nat
  dest : Word
  comb : Word
  tagBase : Word
  a : Nat
  b : Nat
  c : Nat
  e : Nat
  inputs : List Word
  dests : List Word
  splits : List Word
  frm : BitVec 2
  deriving DecidableEq, Repr

/-- A scan descriptor (R343). -/
structure ScanDesc where
  ptr : Word
  src : Word
  dst : Word
  thr : Word
  voff : Nat
  type : Nat
  flags : Nat
  deriving DecidableEq, Repr

/-- A bulk send's descriptor (R360). -/
structure SendDesc where
  dst : Word
  src : Word
  bytes : Nat
  sem : Option Nat
  wake : Bool
  publish : Bool
  ticket : Option (BitVec 32)
  deriving DecidableEq, Repr

/-- Where an atomic's or a remote load's result goes and how it is extended (R83, R256). -/
structure LoadDest where
  reg : Reg
  bytes : Nat
  signed : Bool
  deriving DecidableEq, Repr

/-- What an instruction needs before it is performed: the sequencer that it enters, its class, the registers that wait for it, whether
it writes vl, where its accesses lie (other chips, this chip, and the 8-byte words of this chip's stores), and for an instruction of
the tile engine the rows that it writes, each as tile × 128 + row. `vec` marks vector memory, `cells` a drain or a load of cells, and
`mode` is the tile whose mode it sets, with that mode; `zero` is the width and the numbers of the elements that it writes. -/
structure Needs where
  q : Option Nat
  cls : OpClass
  dest : Option Reg
  vdest : Option Reg
  setsVl : Bool
  chips : List (BitVec 10)
  near : Bool
  touch : List Nat
  tile : Bool
  rows : List Nat
  vec : Bool
  cells : Bool
  mode : Option (Nat × Bool)
  zero : Nat × List Nat
  deriving DecidableEq, Repr

/-- An instruction that has issued and waits to be performed: its word, and every register and control value that it reads, as they
stood when it issued. -/
structure Late where
  word : IWord
  needs : Needs
  sregs : Vector Word 32
  vregs : Vector (BitVec 16384) 32
  masks : Vector (BitVec 4096) 24
  vl : BitVec 13
  vsew : BitVec 7
  vstart : BitVec 12
  kstart : BitVec 32
  deriving DecidableEq, Repr

/-- What an operation in flight does. -/
inductive OpKind
  | publish (run : Word)
  | sealRun (run : Word)
  | freeRun (run : Word)
  | copyIn (d : CopyDesc) (sem : Option Nat)
  | copyOut (d : CopyDesc) (sem : Option Nat)
  | copyRun (src dst : Word)
  | fill (d : CopyDesc) (sem : Option Nat)
  | osld (d : OsDesc) (sem : Option Nat)
  | append (run : Word) (data : List Byte)
  | patStore (b : Binding) (words : List Nat)
  | job (j : JobDesc)
  | nmc (run : Word) (first : Nat) (token : BitVec 32)
  | scan (d : ScanDesc) (dest : Option Reg)
  | remote (chip : BitVec 10) (dest : Option LoadDest)
  | remoteVec (chip : BitVec 10) (vd : Option Reg) (elems : List (Nat × Word)) (width : Nat) (first : Bool)
  | ticket (chip : BitVec 10) (die : Nat) (dest : Reg)
  | send (d : SendDesc) (chip : BitVec 10)
  | imported (chip : BitVec 10) (value : Word)
  | launch (queue ord : Nat)
  | fetch (chip : BitVec 10) (parent : Nat) (elems : List (Nat × Word))
  | patFetch (chip : BitVec 10) (reg pos : Nat) (elems : List (Nat × Word))
  | tileLoad (chip : BitVec 10) (tile : Nat) (elems : List (Nat × Word)) (width : Nat)
  | late (x : Late)
  deriving DecidableEq, Repr

/-- How far an operation has come. `writing` has run positions or emissions still to write, `replay` has had a write refused once and
is to make it again (R331), `extent` waits for one (R328), `spread` is performed but for the observers that `State.hidden` names (R248),
and `stopped` is an error to be reported (R184). -/
inductive OpPhase
  | queued
  | working
  | writing
  | replay
  | extent
  | sent
  | spread
  | stopped (cause : Cause) (tval : Word) (status : Nat)
  deriving DecidableEq, Repr

/-- Run positions taken by an append that are not yet complete (R155, R158); `start` is the first that it took. -/
structure Taken where
  run : Word
  start : Nat
  first : Nat
  count : Nat
  data : List Byte
  deriving DecidableEq, Repr

/-- One operation in flight (R245). `entered` is the sequencer it entered; `preds` the operations that precede it and were
unperformed when it issued (R246); `prog` the program that issued it, for an engine sequencer's (R89); `parent` the operation that
it is a part of, which is performed when all its parts are. -/
structure Op where
  id : Nat
  parent : Option Nat
  issuer : Issuer
  prog : Nat
  ctx : Nat
  core : Nat
  pc : BitVec 32
  cls : OpClass
  entered : Nat
  preds : List Nat
  phase : OpPhase
  taken : List Taken
  counts : Word × Word × Word
  /-- The translations that it holds, by run-table entry: the extent that it writes in, and the map generation of the run's home die when
  it entered that (R327, R331). -/
  maps : List (Nat × (Nat × BitVec 16))
  buf : List (Nat × Word)
  kind : OpKind
  deriving DecidableEq, Repr

/-- A byte that a hart still sees as it was before an operation wrote it: the operation has been performed for other observers
(R245, R248). -/
structure Hidden where
  hart : HartId
  op : Nat
  key : Nat
  old : Byte
  deriving DecidableEq, Repr

/-- Who reads and writes a hart's vector registers beside others: a strand, its forked tile program, or its own vector instructions
(R145, R207). -/
inductive Reader
  | strand (h : HartId) (lane : Nat)
  | engine (h : HartId)
  | lanes (h : HartId)
  deriving DecidableEq, Repr

/-- The hart whose registers they are. -/
def Reader.hart : Reader → HartId
  | .strand h _ | .engine h | .lanes h => h

/-- Whether a reader is a strand of a hart. -/
def Reader.isStrand (h : HartId) : Reader → Bool
  | .strand k _ => k == h
  | _ => false

/-- Whether a reader is a hart's forked tile program, or the hart's own instructions beside it. -/
def Reader.beside (h : HartId) : Reader → Bool
  | .engine k | .lanes k => k == h
  | _ => false

/-- A 128-bit element group of a register that a reader still sees as it was before another's write: its reads and writes of it come
first (R145, R207). -/
structure Under where
  reader : Reader
  reg : Nat
  group : Nat
  old : BitVec 128
  deriving DecidableEq, Repr

/-- States of a handle sequencer (R233). -/
inductive SeqState | free | live | exported | retiring
  deriving DecidableEq, Repr

/-- A handle sequencer (R231, R233): references, scope, generation, the key of the hart that allocated it, the operations
that entered it and those that precede it by fork, join, import or acquire; `broken` names the chip of a broken import
(R244). -/
structure Sequencer where
  state : SeqState
  gen : BitVec 32
  scope : BitVec 3
  refs : Nat
  owner : Nat
  entered : List Nat
  before : List Nat
  broken : Option (BitVec 10)
  deriving DecidableEq, Repr

/-- A tile (R201). -/
structure Tile where
  c64 : Bool
  dirty : Bool
  rows : Vector (BitVec 4096) 128
  deriving DecidableEq, Repr

/-- A core's tile engine (R202); `ramp` is the rest of R211's quarter rate. -/
structure TileEngine where
  owner : Option Nat
  forked : Option HartId
  tiles : Vector Tile 8
  ramp : Bool
  deriving DecidableEq, Repr

/-- A waiter of a semaphore (R301, R304). -/
structure SemWaiter where
  sem : Nat
  who : Issuer
  amount : Word
  dest : Reg
  seq : Nat
  /-- What precedes the SEMACQ under its handle (R247). -/
  preds : List Nat
  deriving DecidableEq, Repr

/-- A core (R17). Its stores lie in the one memory. -/
structure Core where
  sems : Vector Word 64
  waiters : List SemWaiter
  seqs : Vector Sequencer 64
  tile : TileEngine
  streamFork : Option HartId
  ibase : List (Nat × Word)
  key : Word
  deriving DecidableEq, Repr

/-- States of a barrier (R310). -/
inductive BarState | free | armed | broken | empty
  deriving DecidableEq, Repr

/-- A barrier of a group (R308). Harts are numbered rank × 8 + hart. -/
structure Barrier where
  state : BarState
  cfg : Word
  phase : BitVec 32
  arrived : List Nat
  deriving DecidableEq, Repr

/-- States of a group (R291); QUEUED groups are those of a kernel not yet bound. -/
inductive GroupState | run | saving | saved | exiting | gone
  deriving DecidableEq, Repr

/-- A bound group (R290–R298). -/
structure Group where
  ctx : Nat
  queue : Nat
  seq : BitVec 32
  index : Nat
  die : Nat
  cores : List Nat
  harts : Nat
  vec : Bool
  tile : Bool
  image : Nat
  state : GroupState
  bases : List Nat
  range : Nat
  code : Nat
  bars : Vector Barrier 32
  started : List Nat
  request : Bool
  status : BitVec 8
  word0 : Word
  handler : Option Nat
  deriving DecidableEq, Repr

/-- A group that Kennel kills in a context: a bound one, or the next unbound group of a launch, by its queue and place of acceptance
(R291). -/
inductive KillTarget
  | bound (g : Nat)
  | queued (queue ord : Nat)
  deriving DecidableEq, Repr

/-- States of a kernel (R279, R280). -/
inductive KernelState | queued | binding | running | finished | cancelled
  deriving DecidableEq, Repr

/-- A launch in its queue (R273, R279). `ord` counts acceptances from 1; `eligible` says that it has met the conditions of
R275. -/
structure Kernel where
  seq : BitVec 32
  ord : Nat
  words : Vector Word 8
  state : KernelState
  status : BitVec 8
  exited : Nat
  bound : Nat
  eligible : Bool
  launcher : Option HartId
  preds : List Nat
  passedOver : Nat
  /-- The die whose cores Kennel holds for its group, and when it began to (R278). -/
  held : Option (Nat × Nat)
  /-- The queue has forgotten it (R279). -/
  forgotten : Bool
  deriving DecidableEq, Repr

/-- States of a queue, in the code order of R270. -/
inductive QueueState | free | opened | blocked | draining | error
  deriving DecidableEq, Repr

/-- A queue (R269–R271). -/
structure Queue where
  state : QueueState
  seq : BitVec 32
  done : BitVec 32
  prio : BitVec 3
  preempt : Bool
  stage : Vector Word 8
  reason : BitVec 8
  errSeq : BitVec 32
  last : Word
  accepted : Nat
  leftError : Nat
  kernels : List Kernel
  deriving DecidableEq, Repr

/-- A run declared by an image (R7). (log entry 37: DEDUCED.) -/
structure ImageRun where
  layout : Word
  count : Nat
  data : List Byte
  deriving DecidableEq, Repr

/-- A loaded image (R6, R7, R263): code words, initialised data by offset in the data area, the data area's size with its
reservations, kernel entries, `shandler`'s index, its runs, and the 8-byte places in the data area that hold a run's label
(offset and run), which the loader fills with the handle. -/
structure Image where
  code : List IWord
  data : List (Nat × List Byte)
  area : Nat
  entries : List Nat
  shandler : Option Nat
  runs : List ImageRun
  labels : List (Nat × Nat)
  deriving DecidableEq, Repr

/-- A routing configuration (R193). -/
structure Routing where
  first : Nat
  count : Nat
  field : Nat
  shift : Nat
  deriving DecidableEq, Repr

/-- A waiting or called ticket at its dispenser (R361). -/
structure Ticket where
  number : BitVec 32
  chip : BitVec 10
  tag : BitVec 32
  slots : Nat
  called : Bool
  /-- An XSEND that names it has begun. -/
  consumed : Bool
  deriving DecidableEq, Repr

/-- A ticket dispenser: one per context and die (R361). -/
structure Dispenser where
  next : BitVec 32
  called : BitVec 32
  tickets : List Ticket
  deriving DecidableEq, Repr

/-- A train element (R358): offset and data. -/
structure TrainElem where
  off : Nat
  data : Word
  deriving DecidableEq, Repr

/-- How a request addresses its elements (R357): consecutive ones from a base, ones a stride apart, or by an offset each. -/
inductive ReqShape
  | unit (base : Nat)
  | strided (base : Nat) (stride : Word)
  | offsets (offs : List Nat)
  deriving DecidableEq, Repr

/-- A vector request packet (R357): the target core, the width in bits, vl, the first element of its range with the range's mask
bits, the addressing, and for a store the data of the selected elements. -/
structure ReqPacket where
  core : Nat
  store : Bool
  add : Bool
  width : Nat
  vl : Nat
  first : Nat
  mask : List Bool
  shape : ReqShape
  data : List Word
  deriving DecidableEq, Repr

/-- The destination of a bulk send's piece (R360). -/
structure DataPiece where
  dst : Word
  off : Nat
  bytes : List Byte
  last : Bool
  total : Nat
  sem : Option Nat
  ticket : Option (BitVec 32)
  deriving DecidableEq, Repr

/-- A refusal record of a RET (R353). -/
structure RefusalRec where
  seq : BitVec 32
  cause : Cause
  index : Word
  deriving DecidableEq, Repr

/-- Message bodies (R352). -/
inductive MsgBody
  | req (r : ReqPacket)
  | train (es : List TrainElem)
  | tail (count : BitVec 32) (core : Nat) (add : Bool) (width : Nat)
  | data (d : DataPiece)
  | rdata (elems : List (Nat × Word))
  | tkreq (die : Nat) (bytes : Nat) (ends : Option (BitVec 32))
  | tkcall (die : Nat) (number : BitVec 32) (cancelled : Bool)
  | note (word : Word) (value : Word) (pass : Bool)
  | done (value : Word)
  | ret (applied refused seen : Nat) (recs : List RefusalRec)
  | close (reason : BitVec 8)
  | reserved (type : BitVec 8)
  deriving DecidableEq, Repr

/-- A message (R352): the session it belongs to, its sequence number and tag, and its flags. (log entry 49: DEDUCED.) -/
structure Msg where
  ctx : Nat
  chip : BitVec 10
  seq : BitVec 32
  tag : BitVec 32
  wake : Bool
  publish : Bool
  body : MsgBody
  deriving DecidableEq, Repr

/-- States of a session (R351). -/
inductive SessState | closed | opened | gone
  deriving DecidableEq, Repr

/-- A fabric session (R351–R353). `applied` counts the messages applied from the other end, `refused` are the refusal
records that it has not confirmed and `confirmed` how many it has; `seenF` counts its own refusals seen. `held` are early
arrivals, `trains` and `parts` the bodies and pieces that wait for the last of theirs, by tag; `stopped` the tags of
instructions that an element's refusal has stopped (R357); `owed` are the exported values that the peer has imported, each with
the operations that its DONE waits for (R362); `dones` are reports that arrived before their import; `imported` are the peer's
values that this context has imported (R244); `ret` is the last return sent, which takes no sequence number.
(log entry 49: DEDUCED.) -/
structure Session where
  chip : BitVec 10
  peer : Nat
  state : SessState
  sendSeq : BitVec 32
  sent : List Msg
  applied : Nat
  refused : List RefusalRec
  confirmed : Nat
  seenF : Nat
  held : List Msg
  trains : List (BitVec 32 × List (List TrainElem))
  parts : List (BitVec 32 × List Byte)
  stopped : List (BitVec 32)
  owed : List (Word × List Nat)
  dones : List Word
  imported : List Word
  ret : Option Msg
  deriving DecidableEq, Repr

/-- States of a context (R258). -/
inductive CtxState | free | idle | active | suspended | resetting
  deriving DecidableEq, Repr

/-- A page unit that lines have been poisoned or damaged in, by line of the unit (R334). -/
structure Stain where
  poison : List Nat
  damage : List (Nat × List Nat)
  deriving DecidableEq, Repr

/-- A context (R258–R267). Counters are keyed die × 256 + number; `iter` and `route` list those not zero. -/
structure Ctx where
  vf : Nat
  ctxid : BitVec 9
  state : CtxState
  /-- A suspension is in progress: dispatch has stopped and the groups are being saved. -/
  suspending : Bool
  part : List (List Nat)
  table : Nat
  runs : List (Nat × Run)
  queues : List (Nat × Queue)
  /-- The page units that back no extent, by die (R325). -/
  pools : List (Nat × Nat)
  /-- The pooled units, by die, that keep poisoned or damaged lines of a run that they backed (R325, R334). -/
  stained : List (Nat × Stain)
  images : List (Nat × Image)
  /-- The pool's page units at its creation (R268, R370). -/
  granted : Nat
  iters : Nat
  routes : Nat
  iter : List (Nat × (Word × Word))
  route : List (Nat × Word)
  routing : List (Nat × Routing)
  sessions : List Session
  tickets : List (Nat × Dispenser)
  faults : Nat
  saves : Nat
  served : List (Nat × Nat)
  deriving DecidableEq, Repr

/-- Limits the physical function sets for a virtual function (R367). -/
structure Limits where
  cores : Nat
  iters : Nat
  routes : Nat
  pool : Nat
  queues : Nat
  contexts : Nat
  peers : List (BitVec 10)
  deriving DecidableEq, Repr

/-- A report given on the DOE mailbox (R268, R372). -/
structure Spdm where
  body : List (BitVec 256)
  sign : BitVec 3072
  cert : List Byte
  deriving DecidableEq, Repr

/-- What a running host command waits for (R369, R381): the change of a context's state, or an append to a run of a context. -/
inductive HostWait
  | context (ctx : Nat)
  | append (ctx : Nat) (run : Word) (op : Nat)
  deriving DecidableEq, Repr

/-- A virtual function: its cores, limits and command window (R368, R369). `cmap` gives, for each virtual die, the
physical cores of its virtual core numbers (R262). -/
structure VFunc where
  enabled : Bool
  limits : Limits
  cmap : List (List Nat)
  cstage : Vector Word 8
  /-- The number of the command that CSTATUS shows, and of the next one. -/
  seq : BitVec 32
  next : BitVec 32
  waits : Option HostWait
  /-- The images loaded, by context and image number, in load order (R268). -/
  loads : List (Nat × Nat)
  busy : Bool
  overrun : Bool
  result : BitVec 8
  cresult : Word
  mailbox : List Spdm
  deriving DecidableEq, Repr

/-- States of a station's link (R348). -/
inductive LinkState | down | training | up | narrow
  deriving DecidableEq, Repr

/-- A station (R348, R350). -/
structure Station where
  state : LinkState
  lanes : Nat
  spareUsed : Bool
  replays : Nat
  deriving DecidableEq, Repr

/-- A standing bind record (R282). -/
structure BindRecord where
  ctx : Nat
  queue : Nat
  image : Nat
  kernel : Nat
  cores : List Nat
  ncores : Nat
  harts : Nat
  tile : Bool
  vec : Bool
  bases : List Nat
  deriving DecidableEq, Repr

/-- What is per die: slot table, free page units, map generation, retired channels, failed TSV groups by stack,
power share and issue rate (R282, R325, R329, R330, R334, R374, R376). -/
structure Die where
  slots : List (Nat × BindRecord)
  units : Nat
  mapGen : BitVec 16
  retired : List Nat
  tsv : List (Nat × Nat)
  rate : Nat
  hot : Bool
  deriving DecidableEq, Repr

/-- A signed firmware image: the SHA-256 digest of what it holds, its security version, the digest of the key that signs it, and the
signature (R372). -/
structure Firmware where
  body : BitVec 256
  version : Nat
  key : BitVec 256
  sign : BitVec 3072
  deriving DecidableEq, Repr

/-- What the management core starts from: the digest of Tladom's key in its ROM, the version in the fuses, and the images of Kennel
and of the base dies (R372). -/
structure Boot where
  rom : BitVec 256
  fuses : Nat
  kennel : Firmware
  base : Firmware
  deriving DecidableEq, Repr

/-- The physical function and the bring-up sequence (R367, R373). -/
structure PFunc where
  status : Nat
  ready : Bool
  vfs : Nat
  capMw : Nat
  deriving DecidableEq, Repr

/-- A 64-byte line of a run, by context, run-table entry and line index (R332, R334). -/
structure RunLine where
  ctx : Nat
  run : Nat
  line : Nat
  deriving DecidableEq, Repr

/-- A UALink request this chip has sent or received (R349, R355). -/
inductive UaKind
  | read | write | amo (op : Nat) (cmp : Word)
  deriving DecidableEq, Repr

/-- The windows that a chip exposes to a session (R349). -/
inductive UaWindow | store | message
  deriving DecidableEq, Repr

/-- A UALink request: its window, the session, a tag, the target core and offset, width in bytes and data. A write of whole
messages to the message window is those messages, not one of these. -/
structure UaReq where
  window : UaWindow
  ctx : Nat
  chip : BitVec 10
  tag : Nat
  kind : UaKind
  die : Nat
  core : Nat
  off : Nat
  bytes : Nat
  data : Word
  deriving DecidableEq, Repr

/-- A UALink completion: data, or the cause of a refusal (R349, R356). -/
structure UaDone where
  chip : BitVec 10
  tag : Nat
  data : Word
  err : Option Cause
  deriving DecidableEq, Repr

end Sys2Proof.Machine
end

