-- ==== Sys2Proof/Syntax.lean ====
section
/-!
DEFINITION. The instructions and events: one constructor per row of spec/opcode_table.json, in the table's order.
A word's fields are bit vectors of the widths its format gives them (R32, R33); an event's arguments say which object
it befalls and what the outside world supplies.
-/

namespace Sys2Proof

open Machine

/-- One constructor per row of the opcode table. For a word, `d` is the destination field, `a` and `b` the first and
second sources, `m` `r` `c` masks, `h` a handle, `i` an immediate, `o` an offset or mode, `n` the neighbour selector
of R34 (or a count), `t` a type. -/
inductive Instr
  /-- `ADD` (R74). Writes d with s1 plus s2, wrapping modulo 2^64. -/
  | add (d : BitVec 5) (a : BitVec 5) (b : BitVec 5)
  /-- `SUB` (R74). Writes d with s1 minus s2. -/
  | sub (d : BitVec 5) (a : BitVec 5) (b : BitVec 5)
  /-- `AND` (R74). Writes d with the bitwise AND of s1 and s2. -/
  | and (d : BitVec 5) (a : BitVec 5) (b : BitVec 5)
  /-- `OR` (R74). Writes d with the bitwise OR of s1 and s2. -/
  | or (d : BitVec 5) (a : BitVec 5) (b : BitVec 5)
  /-- `XOR` (R74). Writes d with the exclusive OR of s1 and s2. -/
  | xor (d : BitVec 5) (a : BitVec 5) (b : BitVec 5)
  /-- `ANDN` (R74). Writes d with s1 AND NOT s2. -/
  | andn (d : BitVec 5) (a : BitVec 5) (b : BitVec 5)
  /-- `SLL` (R74). Writes d with s1 shifted left by s2[5:0]. -/
  | sll (d : BitVec 5) (a : BitVec 5) (b : BitVec 5)
  /-- `SRL` (R74). Writes d with s1 shifted right logically by s2[5:0]. -/
  | srl (d : BitVec 5) (a : BitVec 5) (b : BitVec 5)
  /-- `SRA` (R74). Writes d with s1 shifted right arithmetically by s2[5:0]. -/
  | sra (d : BitVec 5) (a : BitVec 5) (b : BitVec 5)
  /-- `ROL` (R74). Writes d with s1 rotated left by s2[5:0]. -/
  | rol (d : BitVec 5) (a : BitVec 5) (b : BitVec 5)
  /-- `ROR` (R74). Writes d with s1 rotated right by s2[5:0]. -/
  | ror (d : BitVec 5) (a : BitVec 5) (b : BitVec 5)
  /-- `SLT` (R74). Writes d with 1 if s1 is less than s2 as i64, else 0. -/
  | slt (d : BitVec 5) (a : BitVec 5) (b : BitVec 5)
  /-- `SLTN` (R74). Writes d with 1 if s1 is less than s2 as n64, else 0. -/
  | sltn (d : BitVec 5) (a : BitVec 5) (b : BitVec 5)
  /-- `MIN` (R74). Writes d with the lesser of s1 and s2 as i64. -/
  | min (d : BitVec 5) (a : BitVec 5) (b : BitVec 5)
  /-- `MAX` (R74). Writes d with the greater of s1 and s2 as i64. -/
  | max (d : BitVec 5) (a : BitVec 5) (b : BitVec 5)
  /-- `MINN` (R74). Writes d with the lesser of s1 and s2 as n64. -/
  | minn (d : BitVec 5) (a : BitVec 5) (b : BitVec 5)
  /-- `MAXN` (R74). Writes d with the greater of s1 and s2 as n64. -/
  | maxn (d : BitVec 5) (a : BitVec 5) (b : BitVec 5)
  /-- `MUL` (R75). Writes d with the low 64 bits of s1 times s2. -/
  | mul (d : BitVec 5) (a : BitVec 5) (b : BitVec 5)
  /-- `MULH` (R75). Writes d with the high 64 bits of the signed product. -/
  | mulh (d : BitVec 5) (a : BitVec 5) (b : BitVec 5)
  /-- `MULHN` (R75). Writes d with the high 64 bits of the unsigned product. -/
  | mulhn (d : BitVec 5) (a : BitVec 5) (b : BitVec 5)
  /-- `DIV` (R75). Writes d with the signed quotient, with fixed results for division by zero and overflow. -/
  | div (d : BitVec 5) (a : BitVec 5) (b : BitVec 5)
  /-- `DIVN` (R75). Writes d with the unsigned quotient, all ones for division by zero. -/
  | divn (d : BitVec 5) (a : BitVec 5) (b : BitVec 5)
  /-- `REM` (R75). Writes d with the signed remainder. -/
  | rem (d : BitVec 5) (a : BitVec 5) (b : BitVec 5)
  /-- `REMN` (R75). Writes d with the unsigned remainder. -/
  | remn (d : BitVec 5) (a : BitVec 5) (b : BitVec 5)
  /-- `CLZ` (R75). Writes d with the count of leading zero bits of s1. -/
  | clz (d : BitVec 5) (a : BitVec 5)
  /-- `CTZ` (R75). Writes d with the count of trailing zero bits of s1. -/
  | ctz (d : BitVec 5) (a : BitVec 5)
  /-- `POPC` (R75). Writes d with the count of one bits of s1. -/
  | popc (d : BitVec 5) (a : BitVec 5)
  /-- `BREV` (R75). Writes d with s1 bit-reversed. -/
  | brev (d : BitVec 5) (a : BitVec 5)
  /-- `ADDI` (R76). Writes d with s1 plus the sign-extended immediate. -/
  | addi (d : BitVec 5) (a : BitVec 5) (i : BitVec 15)
  /-- `ANDI` (R76). Writes d with s1 AND the immediate. -/
  | andi (d : BitVec 5) (a : BitVec 5) (i : BitVec 15)
  /-- `ORI` (R76). Writes d with s1 OR the immediate. -/
  | ori (d : BitVec 5) (a : BitVec 5) (i : BitVec 15)
  /-- `XORI` (R76). Writes d with s1 XOR the immediate. -/
  | xori (d : BitVec 5) (a : BitVec 5) (i : BitVec 15)
  /-- `SLLI` (R76). Writes d with s1 shifted left by an immediate amount. -/
  | slli (d : BitVec 5) (a : BitVec 5) (n : BitVec 6)
  /-- `SRLI` (R76). Writes d with s1 shifted right logically by an immediate amount. -/
  | srli (d : BitVec 5) (a : BitVec 5) (n : BitVec 6)
  /-- `SRAI` (R76). Writes d with s1 shifted right arithmetically by an immediate amount. -/
  | srai (d : BitVec 5) (a : BitVec 5) (n : BitVec 6)
  /-- `SLTI` (R76). Writes d with 1 if s1 is less than the immediate as i64. -/
  | slti (d : BitVec 5) (a : BitVec 5) (i : BitVec 15)
  /-- `LUI` (R77). Writes d with the sign-extended 32-bit value imm20 times 2^12. -/
  | lui (d : BitVec 5) (i : BitVec 20)
  /-- `AUIPC` (R77). Writes d with its own PC plus the sign-extended upper immediate. -/
  | auipc (d : BitVec 5) (i : BitVec 20)
  /-- `BEQ` (R79). Branches when s1 equals s2. -/
  | beq (a : BitVec 5) (b : BitVec 5) (o : BitVec 15)
  /-- `BNE` (R79). Branches when s1 differs from s2. -/
  | bne (a : BitVec 5) (b : BitVec 5) (o : BitVec 15)
  /-- `BLT` (R79). Branches when s1 is less than s2 as i64. -/
  | blt (a : BitVec 5) (b : BitVec 5) (o : BitVec 15)
  /-- `BGE` (R79). Branches when s1 is at least s2 as i64. -/
  | bge (a : BitVec 5) (b : BitVec 5) (o : BitVec 15)
  /-- `BLTN` (R79). Branches when s1 is less than s2 as n64. -/
  | bltn (a : BitVec 5) (b : BitVec 5) (o : BitVec 15)
  /-- `BGEN` (R79). Branches when s1 is at least s2 as n64. -/
  | bgen (a : BitVec 5) (b : BitVec 5) (o : BitVec 15)
  /-- `JAL` (R80). Writes the link and jumps by a word offset, trapping FETCH_BOUND outside the code area. -/
  | jal (d : BitVec 5) (o : BitVec 20)
  /-- `JALR` (R80). Jumps to s1 plus an immediate byte offset, writing the link. -/
  | jalr (d : BitVec 5) (a : BitVec 5) (i : BitVec 15)
  /-- `JTAB` (R81). Jumps through an entry of a local-store table of n offsets, or falls through when the index is out of range. -/
  | jtab (d : BitVec 5) (a : BitVec 5) (b : BitVec 5) (n : BitVec 10)
  /-- `WAITC` (R86). Holds the hart until outstanding loads, stores, copies and tile operations fall within the limits. -/
  | waitc (s : BitVec 5) (c : BitVec 5) (l : BitVec 5) (t : BitVec 5)
  /-- `FORK` (R87). Checks two descriptors and starts the tile and stream sequencers on forked programs with a register snapshot. -/
  | fork (a : BitVec 5) (b : BitVec 5)
  /-- `RDV` (R89). Waits for forked programs to end, frees the engines and reports a stopped sequencer as ENGINE_STOP. -/
  | rdv
  /-- `RDCYC` (R92). Writes d with the core's cycle count since reset. -/
  | rdcyc (d : BitVec 5)
  /-- `LOOP` (R91). Arms loop counter cN with s1[31:0], or skips to after the matching ENDLOOP when the count is zero. -/
  | loop (a : BitVec 5) (c : BitVec 5)
  /-- `ENDLOOP` (R91). Decrements an active loop counter and returns to the loop start until it reaches zero. -/
  | endloop (c : BitVec 5)
  /-- `LD` (R83). Loads a sign- or zero-extended value of the access type into d under a handle. -/
  | ld (d : BitVec 5) (b : BitVec 5) (i : BitVec 8) (w : BitVec 3) (h : BitVec 4)
  /-- `ST` (R83). Stores the low bytes of d under a handle. -/
  | st (d : BitVec 5) (b : BitVec 5) (i : BitVec 8) (w : BitVec 3) (h : BitVec 4)
  /-- `TRAP` (R100). Raises TRAP_INSTR with tval s1. -/
  | trap (a : BitVec 5)
  /-- `ERET` (R97). Returns from a trap to S, restoring PC, privilege, vstart and kstart from the trap CSRs. -/
  | eret
  /-- `SYSC` (R100). Raises SYSCALL, a service request to Kennel when issued at S. -/
  | sysc (a : BitVec 5)
  /-- `BREAK` (R100). Raises BREAKPOINT. -/
  | brk
  /-- `WFE` (R101). Waits until the hart's event latch is nonzero, then returns and clears it. -/
  | wfe (d : BitVec 5) (a : BitVec 5)
  /-- `HALTH` (R103). Waits for all the hart's work, ends bindings, retires handles, gives up the vector set and halts the hart. -/
  | halth
  /-- `CSRR` (R104). Reads a CSR into d. -/
  | csrr (d : BitVec 5) (c : BitVec 12)
  /-- `CSRW` (R104). Writes s1 to a CSR. -/
  | csrw (a : BitVec 5) (c : BitVec 12)
  /-- `CSRSET` (R104). Sets the CSR bits that s1 holds. -/
  | csrset (a : BitVec 5) (c : BitVec 12)
  /-- `CSRCLR` (R104). Clears the CSR bits that s1 holds. -/
  | csrclr (a : BitVec 5) (c : BitVec 12)
  /-- `VADD` (R119). Adds integer elements modulo 2^w. -/
  | vadd (d : BitVec 5) (a : BitVec 5) (b : BitVec 5) (n : BitVec 2) (m : BitVec 5) (t : BitVec 2)
  /-- `VSUB` (R119). Subtracts integer elements modulo 2^w. -/
  | vsub (d : BitVec 5) (a : BitVec 5) (b : BitVec 5) (n : BitVec 2) (m : BitVec 5) (t : BitVec 2)
  /-- `VMUL` (R119). Multiplies integer elements modulo 2^w. -/
  | vmul (d : BitVec 5) (a : BitVec 5) (b : BitVec 5) (n : BitVec 2) (m : BitVec 5) (t : BitVec 2)
  /-- `VMULH` (R119). Writes the high half of the signed element products. -/
  | vmulh (d : BitVec 5) (a : BitVec 5) (b : BitVec 5) (n : BitVec 2) (m : BitVec 5) (t : BitVec 2)
  /-- `VMIN` (R119). Writes the signed lesser element. -/
  | vmin (d : BitVec 5) (a : BitVec 5) (b : BitVec 5) (n : BitVec 2) (m : BitVec 5) (t : BitVec 2)
  /-- `VMAX` (R119). Writes the signed greater element. -/
  | vmax (d : BitVec 5) (a : BitVec 5) (b : BitVec 5) (n : BitVec 2) (m : BitVec 5) (t : BitVec 2)
  /-- `VMINN` (R119). Writes the unsigned lesser element. -/
  | vminn (d : BitVec 5) (a : BitVec 5) (b : BitVec 5) (n : BitVec 2) (m : BitVec 5) (t : BitVec 2)
  /-- `VMAXN` (R119). Writes the unsigned greater element. -/
  | vmaxn (d : BitVec 5) (a : BitVec 5) (b : BitVec 5) (n : BitVec 2) (m : BitVec 5) (t : BitVec 2)
  /-- `VAND` (R119). Bitwise AND of elements. -/
  | vand (d : BitVec 5) (a : BitVec 5) (b : BitVec 5) (n : BitVec 2) (m : BitVec 5) (t : BitVec 2)
  /-- `VOR` (R119). Bitwise OR of elements. -/
  | vor (d : BitVec 5) (a : BitVec 5) (b : BitVec 5) (n : BitVec 2) (m : BitVec 5) (t : BitVec 2)
  /-- `VXOR` (R119). Bitwise XOR of elements. -/
  | vxor (d : BitVec 5) (a : BitVec 5) (b : BitVec 5) (n : BitVec 2) (m : BitVec 5) (t : BitVec 2)
  /-- `VSLL` (R119). Shifts elements left by b mod w. -/
  | vsll (d : BitVec 5) (a : BitVec 5) (b : BitVec 5) (n : BitVec 2) (m : BitVec 5) (t : BitVec 2)
  /-- `VSRL` (R119). Shifts elements right logically by b mod w. -/
  | vsrl (d : BitVec 5) (a : BitVec 5) (b : BitVec 5) (n : BitVec 2) (m : BitVec 5) (t : BitVec 2)
  /-- `VSRA` (R119). Shifts elements right arithmetically by b mod w. -/
  | vsra (d : BitVec 5) (a : BitVec 5) (b : BitVec 5) (n : BitVec 2) (m : BitVec 5) (t : BitVec 2)
  /-- `VADDS` (R119). Adds elements with signed saturation. -/
  | vadds (d : BitVec 5) (a : BitVec 5) (b : BitVec 5) (n : BitVec 2) (m : BitVec 5) (t : BitVec 2)
  /-- `VSUBS` (R119). Subtracts elements with signed saturation. -/
  | vsubs (d : BitVec 5) (a : BitVec 5) (b : BitVec 5) (n : BitVec 2) (m : BitVec 5) (t : BitVec 2)
  /-- `VWADD_I8` (R120). Widening signed add of i8 elements to i32. -/
  | vwaddI8 (d : BitVec 5) (a : BitVec 5) (b : BitVec 5) (n : BitVec 2) (m : BitVec 5)
  /-- `VWADD_I16` (R120). Widening signed add of i16 elements to i32. -/
  | vwaddI16 (d : BitVec 5) (a : BitVec 5) (b : BitVec 5) (n : BitVec 2) (m : BitVec 5)
  /-- `VWADD_I32` (R120). Widening signed add of i32 elements to i64. -/
  | vwaddI32 (d : BitVec 5) (a : BitVec 5) (b : BitVec 5) (n : BitVec 2) (m : BitVec 5)
  /-- `VWADD_N8` (R120). Widening unsigned add of n8 elements to 32 bits. -/
  | vwaddN8 (d : BitVec 5) (a : BitVec 5) (b : BitVec 5) (n : BitVec 2) (m : BitVec 5)
  /-- `VWADD_N16` (R120). Widening unsigned add of n16 elements to 32 bits. -/
  | vwaddN16 (d : BitVec 5) (a : BitVec 5) (b : BitVec 5) (n : BitVec 2) (m : BitVec 5)
  /-- `VWADD_N32` (R120). Widening unsigned add of n32 elements to 64 bits. -/
  | vwaddN32 (d : BitVec 5) (a : BitVec 5) (b : BitVec 5) (n : BitVec 2) (m : BitVec 5)
  /-- `VWMAC_I8` (R120). Widening multiply-accumulate of i8 elements into i32. -/
  | vwmacI8 (d : BitVec 5) (a : BitVec 5) (b : BitVec 5) (n : BitVec 2) (m : BitVec 5)
  /-- `VWMAC_I16` (R120). Widening multiply-accumulate of i16 elements into i32. -/
  | vwmacI16 (d : BitVec 5) (a : BitVec 5) (b : BitVec 5) (n : BitVec 2) (m : BitVec 5)
  /-- `VFADD_F64` (R121). Adds f64 elements with one rounding under frm. -/
  | vfaddF64 (d : BitVec 5) (a : BitVec 5) (b : BitVec 5) (n : BitVec 2) (m : BitVec 5)
  /-- `VFSUB_F64` (R121). Subtracts f64 elements. -/
  | vfsubF64 (d : BitVec 5) (a : BitVec 5) (b : BitVec 5) (n : BitVec 2) (m : BitVec 5)
  /-- `VFMUL_F64` (R121). Multiplies f64 elements. -/
  | vfmulF64 (d : BitVec 5) (a : BitVec 5) (b : BitVec 5) (n : BitVec 2) (m : BitVec 5)
  /-- `VFMA_F64` (R121). Fused multiply-add of f64 elements into vd. -/
  | vfmaF64 (d : BitVec 5) (a : BitVec 5) (b : BitVec 5) (n : BitVec 2) (m : BitVec 5)
  /-- `VFMIN_F64` (R121). minimumNumber of f64 elements. -/
  | vfminF64 (d : BitVec 5) (a : BitVec 5) (b : BitVec 5) (n : BitVec 2) (m : BitVec 5)
  /-- `VFMAX_F64` (R121). maximumNumber of f64 elements. -/
  | vfmaxF64 (d : BitVec 5) (a : BitVec 5) (b : BitVec 5) (n : BitVec 2) (m : BitVec 5)
  /-- `VFDIV_F64` (R121). Divides f64 elements. -/
  | vfdivF64 (d : BitVec 5) (a : BitVec 5) (b : BitVec 5) (n : BitVec 2) (m : BitVec 5)
  /-- `VFSQRT_F64` (R121). Square root of f64 elements. -/
  | vfsqrtF64 (d : BitVec 5) (a : BitVec 5) (m : BitVec 5)
  /-- `VFADD_F32` (R121). Adds f32 elements with one rounding under frm. -/
  | vfaddF32 (d : BitVec 5) (a : BitVec 5) (b : BitVec 5) (n : BitVec 2) (m : BitVec 5)
  /-- `VFSUB_F32` (R121). Subtracts f32 elements. -/
  | vfsubF32 (d : BitVec 5) (a : BitVec 5) (b : BitVec 5) (n : BitVec 2) (m : BitVec 5)
  /-- `VFMUL_F32` (R121). Multiplies f32 elements. -/
  | vfmulF32 (d : BitVec 5) (a : BitVec 5) (b : BitVec 5) (n : BitVec 2) (m : BitVec 5)
  /-- `VFMA_F32` (R121). Fused multiply-add of f32 elements into vd. -/
  | vfmaF32 (d : BitVec 5) (a : BitVec 5) (b : BitVec 5) (n : BitVec 2) (m : BitVec 5)
  /-- `VFMIN_F32` (R121). minimumNumber of f32 elements. -/
  | vfminF32 (d : BitVec 5) (a : BitVec 5) (b : BitVec 5) (n : BitVec 2) (m : BitVec 5)
  /-- `VFMAX_F32` (R121). maximumNumber of f32 elements. -/
  | vfmaxF32 (d : BitVec 5) (a : BitVec 5) (b : BitVec 5) (n : BitVec 2) (m : BitVec 5)
  /-- `VFDIV_F32` (R121). Divides f32 elements. -/
  | vfdivF32 (d : BitVec 5) (a : BitVec 5) (b : BitVec 5) (n : BitVec 2) (m : BitVec 5)
  /-- `VFSQRT_F32` (R121). Square root of f32 elements. -/
  | vfsqrtF32 (d : BitVec 5) (a : BitVec 5) (m : BitVec 5)
  /-- `VFADD_BF16` (R121). Adds bf16 elements with one rounding under frm. -/
  | vfaddBf16 (d : BitVec 5) (a : BitVec 5) (b : BitVec 5) (n : BitVec 2) (m : BitVec 5)
  /-- `VFSUB_BF16` (R121). Subtracts bf16 elements. -/
  | vfsubBf16 (d : BitVec 5) (a : BitVec 5) (b : BitVec 5) (n : BitVec 2) (m : BitVec 5)
  /-- `VFMUL_BF16` (R121). Multiplies bf16 elements. -/
  | vfmulBf16 (d : BitVec 5) (a : BitVec 5) (b : BitVec 5) (n : BitVec 2) (m : BitVec 5)
  /-- `VFMA_BF16` (R121). Fused multiply-add of bf16 elements into vd. -/
  | vfmaBf16 (d : BitVec 5) (a : BitVec 5) (b : BitVec 5) (n : BitVec 2) (m : BitVec 5)
  /-- `VFMIN_BF16` (R121). minimumNumber of bf16 elements. -/
  | vfminBf16 (d : BitVec 5) (a : BitVec 5) (b : BitVec 5) (n : BitVec 2) (m : BitVec 5)
  /-- `VFMAX_BF16` (R121). maximumNumber of bf16 elements. -/
  | vfmaxBf16 (d : BitVec 5) (a : BitVec 5) (b : BitVec 5) (n : BitVec 2) (m : BitVec 5)
  /-- `VFDIV_BF16` (R121). Divides bf16 elements. -/
  | vfdivBf16 (d : BitVec 5) (a : BitVec 5) (b : BitVec 5) (n : BitVec 2) (m : BitVec 5)
  /-- `VFSQRT_BF16` (R121). Square root of bf16 elements. -/
  | vfsqrtBf16 (d : BitVec 5) (a : BitVec 5) (m : BitVec 5)
  /-- `VFADD_F16` (R121). Adds f16 elements with one rounding under frm. -/
  | vfaddF16 (d : BitVec 5) (a : BitVec 5) (b : BitVec 5) (n : BitVec 2) (m : BitVec 5)
  /-- `VFSUB_F16` (R121). Subtracts f16 elements. -/
  | vfsubF16 (d : BitVec 5) (a : BitVec 5) (b : BitVec 5) (n : BitVec 2) (m : BitVec 5)
  /-- `VFMUL_F16` (R121). Multiplies f16 elements. -/
  | vfmulF16 (d : BitVec 5) (a : BitVec 5) (b : BitVec 5) (n : BitVec 2) (m : BitVec 5)
  /-- `VFMA_F16` (R121). Fused multiply-add of f16 elements into vd. -/
  | vfmaF16 (d : BitVec 5) (a : BitVec 5) (b : BitVec 5) (n : BitVec 2) (m : BitVec 5)
  /-- `VFMIN_F16` (R121). minimumNumber of f16 elements. -/
  | vfminF16 (d : BitVec 5) (a : BitVec 5) (b : BitVec 5) (n : BitVec 2) (m : BitVec 5)
  /-- `VFMAX_F16` (R121). maximumNumber of f16 elements. -/
  | vfmaxF16 (d : BitVec 5) (a : BitVec 5) (b : BitVec 5) (n : BitVec 2) (m : BitVec 5)
  /-- `VFDIV_F16` (R121). Divides f16 elements. -/
  | vfdivF16 (d : BitVec 5) (a : BitVec 5) (b : BitVec 5) (n : BitVec 2) (m : BitVec 5)
  /-- `VFSQRT_F16` (R121). Square root of f16 elements. -/
  | vfsqrtF16 (d : BitVec 5) (a : BitVec 5) (m : BitVec 5)
  /-- `VFRECIP` (R122). Correctly rounded f32 reciprocal of each element. -/
  | vfrecip (d : BitVec 5) (a : BitVec 5) (m : BitVec 5)
  /-- `VFRSQRT` (R122). Correctly rounded f32 reciprocal square root. -/
  | vfrsqrt (d : BitVec 5) (a : BitVec 5) (m : BitVec 5)
  /-- `VFEXP2` (R122). Correctly rounded f32 power of two. -/
  | vfexp2 (d : BitVec 5) (a : BitVec 5) (m : BitVec 5)
  /-- `VFLOG2` (R122). Correctly rounded f32 base-2 logarithm. -/
  | vflog2 (d : BitVec 5) (a : BitVec 5) (m : BitVec 5)
  /-- `VFABS` (R122). Clears the sign bit of each f32 element. -/
  | vfabs (d : BitVec 5) (a : BitVec 5) (m : BitVec 5)
  /-- `VFNEG` (R122). Flips the sign bit of each f32 element. -/
  | vfneg (d : BitVec 5) (a : BitVec 5) (m : BitVec 5)
  /-- `VFCLASS` (R122). Writes a one-hot class mask for each f32 element. -/
  | vfclass (d : BitVec 5) (a : BitVec 5) (m : BitVec 5)
  /-- `VFSGNJ` (R122). Replaces each element's sign bit by that of b. -/
  | vfsgnj (d : BitVec 5) (a : BitVec 5) (b : BitVec 5) (n : BitVec 2) (m : BitVec 5)
  /-- `VCMPEQ_I8` (R123). Sets mask bits where i8 elements are equal. -/
  | vcmpeqI8 (d : BitVec 5) (a : BitVec 5) (b : BitVec 5) (n : BitVec 2) (m : BitVec 5)
  /-- `VCMPNE_I8` (R123). Sets mask bits where i8 elements differ. -/
  | vcmpneI8 (d : BitVec 5) (a : BitVec 5) (b : BitVec 5) (n : BitVec 2) (m : BitVec 5)
  /-- `VCMPLT_I8` (R123). Signed less-than compare of i8 elements. -/
  | vcmpltI8 (d : BitVec 5) (a : BitVec 5) (b : BitVec 5) (n : BitVec 2) (m : BitVec 5)
  /-- `VCMPLE_I8` (R123). Signed less-or-equal compare of i8 elements. -/
  | vcmpleI8 (d : BitVec 5) (a : BitVec 5) (b : BitVec 5) (n : BitVec 2) (m : BitVec 5)
  /-- `VCMPLTN_I8` (R123). Unsigned less-than compare of 8-bit elements. -/
  | vcmpltnI8 (d : BitVec 5) (a : BitVec 5) (b : BitVec 5) (n : BitVec 2) (m : BitVec 5)
  /-- `VCMPLEN_I8` (R123). Unsigned less-or-equal compare of 8-bit elements. -/
  | vcmplenI8 (d : BitVec 5) (a : BitVec 5) (b : BitVec 5) (n : BitVec 2) (m : BitVec 5)
  /-- `VBOUND_I8` (R123). Sets mask bit i where i is below the scalar bound. -/
  | vboundI8 (d : BitVec 5) (b : BitVec 5) (m : BitVec 5)
  /-- `VCMPEQ_I16` (R123). Sets mask bits where i16 elements are equal. -/
  | vcmpeqI16 (d : BitVec 5) (a : BitVec 5) (b : BitVec 5) (n : BitVec 2) (m : BitVec 5)
  /-- `VCMPNE_I16` (R123). Sets mask bits where i16 elements differ. -/
  | vcmpneI16 (d : BitVec 5) (a : BitVec 5) (b : BitVec 5) (n : BitVec 2) (m : BitVec 5)
  /-- `VCMPLT_I16` (R123). Signed less-than compare of i16 elements. -/
  | vcmpltI16 (d : BitVec 5) (a : BitVec 5) (b : BitVec 5) (n : BitVec 2) (m : BitVec 5)
  /-- `VCMPLE_I16` (R123). Signed less-or-equal compare of i16 elements. -/
  | vcmpleI16 (d : BitVec 5) (a : BitVec 5) (b : BitVec 5) (n : BitVec 2) (m : BitVec 5)
  /-- `VCMPLTN_I16` (R123). Unsigned less-than compare of 16-bit elements. -/
  | vcmpltnI16 (d : BitVec 5) (a : BitVec 5) (b : BitVec 5) (n : BitVec 2) (m : BitVec 5)
  /-- `VCMPLEN_I16` (R123). Unsigned less-or-equal compare of 16-bit elements. -/
  | vcmplenI16 (d : BitVec 5) (a : BitVec 5) (b : BitVec 5) (n : BitVec 2) (m : BitVec 5)
  /-- `VBOUND_I16` (R123). Sets mask bit i where i is below the scalar bound. -/
  | vboundI16 (d : BitVec 5) (b : BitVec 5) (m : BitVec 5)
  /-- `VCMPEQ_I32` (R123). Sets mask bits where i32 elements are equal. -/
  | vcmpeqI32 (d : BitVec 5) (a : BitVec 5) (b : BitVec 5) (n : BitVec 2) (m : BitVec 5)
  /-- `VCMPNE_I32` (R123). Sets mask bits where i32 elements differ. -/
  | vcmpneI32 (d : BitVec 5) (a : BitVec 5) (b : BitVec 5) (n : BitVec 2) (m : BitVec 5)
  /-- `VCMPLT_I32` (R123). Signed less-than compare of i32 elements. -/
  | vcmpltI32 (d : BitVec 5) (a : BitVec 5) (b : BitVec 5) (n : BitVec 2) (m : BitVec 5)
  /-- `VCMPLE_I32` (R123). Signed less-or-equal compare of i32 elements. -/
  | vcmpleI32 (d : BitVec 5) (a : BitVec 5) (b : BitVec 5) (n : BitVec 2) (m : BitVec 5)
  /-- `VCMPLTN_I32` (R123). Unsigned less-than compare of 32-bit elements. -/
  | vcmpltnI32 (d : BitVec 5) (a : BitVec 5) (b : BitVec 5) (n : BitVec 2) (m : BitVec 5)
  /-- `VCMPLEN_I32` (R123). Unsigned less-or-equal compare of 32-bit elements. -/
  | vcmplenI32 (d : BitVec 5) (a : BitVec 5) (b : BitVec 5) (n : BitVec 2) (m : BitVec 5)
  /-- `VBOUND_I32` (R123). Sets mask bit i where i is below the scalar bound. -/
  | vboundI32 (d : BitVec 5) (b : BitVec 5) (m : BitVec 5)
  /-- `VCMPEQ_I64` (R123). Sets mask bits where i64 elements are equal. -/
  | vcmpeqI64 (d : BitVec 5) (a : BitVec 5) (b : BitVec 5) (n : BitVec 2) (m : BitVec 5)
  /-- `VCMPNE_I64` (R123). Sets mask bits where i64 elements differ. -/
  | vcmpneI64 (d : BitVec 5) (a : BitVec 5) (b : BitVec 5) (n : BitVec 2) (m : BitVec 5)
  /-- `VCMPLT_I64` (R123). Signed less-than compare of i64 elements. -/
  | vcmpltI64 (d : BitVec 5) (a : BitVec 5) (b : BitVec 5) (n : BitVec 2) (m : BitVec 5)
  /-- `VCMPLE_I64` (R123). Signed less-or-equal compare of i64 elements. -/
  | vcmpleI64 (d : BitVec 5) (a : BitVec 5) (b : BitVec 5) (n : BitVec 2) (m : BitVec 5)
  /-- `VCMPLTN_I64` (R123). Unsigned less-than compare of 64-bit elements. -/
  | vcmpltnI64 (d : BitVec 5) (a : BitVec 5) (b : BitVec 5) (n : BitVec 2) (m : BitVec 5)
  /-- `VCMPLEN_I64` (R123). Unsigned less-or-equal compare of 64-bit elements. -/
  | vcmplenI64 (d : BitVec 5) (a : BitVec 5) (b : BitVec 5) (n : BitVec 2) (m : BitVec 5)
  /-- `VBOUND_I64` (R123). Sets mask bit i where i is below the scalar bound. -/
  | vboundI64 (d : BitVec 5) (b : BitVec 5) (m : BitVec 5)
  /-- `VFCMPEQ_F32` (R123). Sets mask bits where f32 elements compare equal. -/
  | vfcmpeqF32 (d : BitVec 5) (a : BitVec 5) (b : BitVec 5) (n : BitVec 2) (m : BitVec 5)
  /-- `VFCMPLT_F32` (R123). f32 less-than compare into a mask. -/
  | vfcmpltF32 (d : BitVec 5) (a : BitVec 5) (b : BitVec 5) (n : BitVec 2) (m : BitVec 5)
  /-- `VFCMPLE_F32` (R123). f32 less-or-equal compare into a mask. -/
  | vfcmpleF32 (d : BitVec 5) (a : BitVec 5) (b : BitVec 5) (n : BitVec 2) (m : BitVec 5)
  /-- `VFCMPUN_F32` (R123). f32 unordered compare into a mask. -/
  | vfcmpunF32 (d : BitVec 5) (a : BitVec 5) (b : BitVec 5) (n : BitVec 2) (m : BitVec 5)
  /-- `VFCMPEQ_F64` (R123). Sets mask bits where f64 elements compare equal. -/
  | vfcmpeqF64 (d : BitVec 5) (a : BitVec 5) (b : BitVec 5) (n : BitVec 2) (m : BitVec 5)
  /-- `VFCMPLT_F64` (R123). f64 less-than compare into a mask. -/
  | vfcmpltF64 (d : BitVec 5) (a : BitVec 5) (b : BitVec 5) (n : BitVec 2) (m : BitVec 5)
  /-- `VFCMPLE_F64` (R123). f64 less-or-equal compare into a mask. -/
  | vfcmpleF64 (d : BitVec 5) (a : BitVec 5) (b : BitVec 5) (n : BitVec 2) (m : BitVec 5)
  /-- `VFCMPUN_F64` (R123). f64 unordered compare into a mask. -/
  | vfcmpunF64 (d : BitVec 5) (a : BitVec 5) (b : BitVec 5) (n : BitVec 2) (m : BitVec 5)
  /-- `MAND` (R124). ANDs two masks into md. -/
  | mand (d : BitVec 5) (a : BitVec 5) (b : BitVec 5) (m : BitVec 5)
  /-- `MOR` (R124). ORs two masks into md. -/
  | mor (d : BitVec 5) (a : BitVec 5) (b : BitVec 5) (m : BitVec 5)
  /-- `MXOR` (R124). XORs two masks into md. -/
  | mxor (d : BitVec 5) (a : BitVec 5) (b : BitVec 5) (m : BitVec 5)
  /-- `MANDN` (R124). ANDs a mask with the complement of another. -/
  | mandn (d : BitVec 5) (a : BitVec 5) (b : BitVec 5) (m : BitVec 5)
  /-- `MNOT` (R124). Complements a mask into md. -/
  | mnot (d : BitVec 5) (a : BitVec 5) (m : BitVec 5)
  /-- `MPOPC` (R124). Writes the scalar count of selected set mask bits. -/
  | mpopc (d : BitVec 5) (a : BitVec 5) (m : BitVec 5)
  /-- `MFIRST` (R124). Writes the index of the first selected set mask bit, or all ones. -/
  | mfirst (d : BitVec 5) (a : BitVec 5) (m : BitVec 5)
  /-- `MSETVL` (R124). Sets mask bits before the first selected set bit and clears the rest. -/
  | msetvl (d : BitVec 5) (a : BitVec 5) (m : BitVec 5)
  /-- `VPERMX` (R125). Gathers elements of vs1 by indices from the second source. -/
  | vpermx (d : BitVec 5) (a : BitVec 5) (b : BitVec 5) (n : BitVec 2) (m : BitVec 5)
  /-- `VSLIDEUP` (R125). Slides elements up by a scalar amount. -/
  | vslideup (d : BitVec 5) (a : BitVec 5) (b : BitVec 5) (m : BitVec 5)
  /-- `VSLIDEDN` (R125). Slides elements down by a scalar amount. -/
  | vslidedn (d : BitVec 5) (a : BitVec 5) (b : BitVec 5) (m : BitVec 5)
  /-- `VCOMPRESS` (R125). Packs the elements selected by mk into consecutive places. -/
  | vcompress (d : BitVec 5) (a : BitVec 5) (m : BitVec 5)
  /-- `VEXPAND` (R125). Spreads consecutive elements to the places selected by mk. -/
  | vexpand (d : BitVec 5) (a : BitVec 5) (m : BitVec 5)
  /-- `VBCAST` (R125). Broadcasts one element of vs1 to every processed element. -/
  | vbcast (d : BitVec 5) (a : BitVec 5) (b : BitVec 5) (m : BitVec 5)
  /-- `VEXTR` (R125). Extracts one element into a scalar. -/
  | vextr (d : BitVec 5) (a : BitVec 5) (b : BitVec 5)
  /-- `VINS` (R125). Inserts a scalar value into one element. -/
  | vins (d : BitVec 5) (a : BitVec 5) (b : BitVec 5)
  /-- `VSCAN_I32` (R126). Inclusive prefix sum of i32 elements, resumable from vd. -/
  | vscanI32 (d : BitVec 5) (a : BitVec 5) (m : BitVec 5)
  /-- `VSCAN_I64` (R126). Inclusive prefix sum of i64 elements. -/
  | vscanI64 (d : BitVec 5) (a : BitVec 5) (m : BitVec 5)
  /-- `VSCAN_F32` (R126). Inclusive prefix sum of f32 elements rounded after each addition. -/
  | vscanF32 (d : BitVec 5) (a : BitVec 5) (m : BitVec 5)
  /-- `VREDSUM_I32` (R127). Sums i32 elements into a scalar. -/
  | vredsumI32 (d : BitVec 5) (a : BitVec 5) (m : BitVec 5)
  /-- `VREDSUM_I64` (R127). Sums i64 elements into a scalar. -/
  | vredsumI64 (d : BitVec 5) (a : BitVec 5) (m : BitVec 5)
  /-- `VREDSUM_F32` (R127). Sums f32 elements in order into a scalar. -/
  | vredsumF32 (d : BitVec 5) (a : BitVec 5) (m : BitVec 5)
  /-- `VREDMAX_I32` (R127). Writes the greatest i32 element to a scalar. -/
  | vredmaxI32 (d : BitVec 5) (a : BitVec 5) (m : BitVec 5)
  /-- `VREDMAX_F32` (R127). Writes the greatest f32 element to a scalar. -/
  | vredmaxF32 (d : BitVec 5) (a : BitVec 5) (m : BitVec 5)
  /-- `VCVT` (R128). Converts elements between formats under the rounding field. -/
  | vcvt (d : BitVec 5) (a : BitVec 5) (s : BitVec 4) (r : BitVec 2) (m : BitVec 5) (f : BitVec 4)
  /-- `VHAD` (R130). Performs one Hadamard stage at distance 2^j between register groups. -/
  | vhad (d : BitVec 5) (a : BitVec 5) (m : BitVec 5) (j : BitVec 5)
  /-- `VHADC` (R131). Performs one Hadamard stage into the converter buffer, opening or extending a chain. -/
  | vhadc (a : BitVec 5) (j : BitVec 5)
  /-- `VCVTB` (R132). Quantises f32 elements to e2m1 in blocks of 32 with E3M5 scales. -/
  | vcvtb (d : BitVec 5) (a : BitVec 5) (o : BitVec 5)
  /-- `VGAUSS` (R133). Writes Gaussian generator values for a key, base index and member. -/
  | vgauss (d : BitVec 5) (a : BitVec 5) (b : BitVec 5) (m : BitVec 5)
  /-- `VLD` (R134). Unit-stride vector load under a handle. -/
  | vld (d : BitVec 5) (b : BitVec 5) (m : BitVec 5) (h : BitVec 4)
  /-- `VLDS` (R134). Strided vector load. -/
  | vlds (d : BitVec 5) (b : BitVec 5) (s : BitVec 5) (m : BitVec 5) (h : BitVec 4)
  /-- `VLDX` (R134). Indexed vector load. -/
  | vldx (d : BitVec 5) (b : BitVec 5) (x : BitVec 5) (m : BitVec 5) (h : BitVec 4)
  /-- `VLDFF` (R137). Fault-first vector load that shortens vl at a failing later element. -/
  | vldff (d : BitVec 5) (b : BitVec 5) (m : BitVec 5) (h : BitVec 4)
  /-- `VST` (R134). Unit-stride vector store committed in element order. -/
  | vst (d : BitVec 5) (b : BitVec 5) (m : BitVec 5) (h : BitVec 4)
  /-- `VSTS` (R134). Strided vector store. -/
  | vsts (d : BitVec 5) (b : BitVec 5) (s : BitVec 5) (m : BitVec 5) (h : BitVec 4)
  /-- `VSTX` (R134). Indexed vector store. -/
  | vstx (d : BitVec 5) (b : BitVec 5) (x : BitVec 5) (m : BitVec 5) (h : BitVec 4)
  /-- `VSTXADD` (R138). Indexed atomic add that merges equal addresses and adds once per address. -/
  | vstxadd (d : BitVec 5) (b : BitVec 5) (x : BitVec 5) (m : BitVec 5) (h : BitVec 4)
  /-- `VFETCH` (R142). Checks a block in the code area, loads it into the replay buffer and issues it. -/
  | vfetch (a : BitVec 5)
  /-- `TFETCH` (R143). Turns the selected lanes into strands at their own strand PCs. -/
  | tfetch (a : BitVec 5) (m : BitVec 5)
  /-- `STOP` (R146). Stops a strand; no effect in SIMD execution. -/
  | stop
  /-- `VJOIN` (R147). Waits until every lane has stopped, merges strand flags and reports a faulted strand. -/
  | vjoin
  /-- `VRELEASE` (R148). Waits for vector work, ends bindings and returns the vector set to FREE. -/
  | vrelease
  /-- `VLOOP` (R140). Checks the next k vector words and captures them in the replay buffer. -/
  | vloop (k : BitVec 5)
  /-- `VAGAIN` (R141). Replays the buffer's instructions under the current vl and vsew. -/
  | vagain
  /-- `SETVL` (R118). Sets vsew and vl from s1 and writes vl to d. -/
  | setvl (d : BitVec 5) (a : BitVec 5) (t : BitVec 3)
  /-- `SETVLI` (R118). Sets vsew and vl from s1 plus an immediate count. -/
  | setvli (d : BitVec 5) (a : BitVec 5) (n : BitVec 11) (t : BitVec 3)
  /-- `ROPEN` (R160). Opens a run in the lowest FREE run-table entry and reserves its extents. -/
  | ropen (d : BitVec 5) (a : BitVec 5) (b : BitVec 5)
  /-- `RPUB` (R161). Issues a publication of a run's complete prefix under a handle. -/
  | rpub (a : BitVec 5) (h : BitVec 4)
  /-- `RSEAL` (R162). Issues the sealing of a run under a handle. -/
  | rseal (a : BitVec 5) (h : BitVec 4)
  /-- `RFREE` (R163). Issues the freeing of a run under a handle. -/
  | rfree (a : BitVec 5) (h : BitVec 4)
  /-- `RLEN` (R164). Loads a run's published mark P in handle order. -/
  | rlen (d : BitVec 5) (a : BitVec 5) (h : BitVec 4)
  /-- `RINFO` (R164). Reads a run-table field at issue with no ordering. -/
  | rinfo (d : BitVec 5) (a : BitVec 5) (b : BitVec 5)
  /-- `SBIND` (R165). Binds a vector register as a read or append cursor or a pattern stream. -/
  | sbind (d : BitVec 5) (a : BitVec 5) (b : BitVec 5) (h : BitVec 4)
  /-- `SUNBIND` (R169). Ends a stream binding, padding and emitting a partial appended record. -/
  | sunbind (d : BitVec 5) (h : BitVec 4)
  /-- `SSKIP` (R170). Moves a read cursor or pattern read forward by a byte count. -/
  | sskip (d : BitVec 5) (a : BitVec 5)
  /-- `SPOS` (R170). Writes the byte position of a binding to a scalar. -/
  | spos (d : BitVec 5) (a : BitVec 5)
  /-- `RCOPYIN` (R175). Issues a copy of run bytes into a local-store pattern, with fill beyond P. -/
  | rcopyin (a : BitVec 5) (b : BitVec 5) (h : BitVec 4)
  /-- `RCOPYOUT` (R176). Issues a copy of a local-store pattern appended to a run as records. -/
  | rcopyout (a : BitVec 5) (b : BitVec 5) (h : BitVec 4)
  /-- `RCOPYRR` (R177). Appends every published record of one run to another. -/
  | rcopyrr (a : BitVec 5) (b : BitVec 5) (h : BitVec 4)
  /-- `RFILL` (R178). Writes the fill word along a local-store pattern. -/
  | rfill (a : BitVec 5) (b : BitVec 5) (h : BitVec 4)
  /-- `RSORT` (R185). Issues a stable sort job on the die's merge engine. -/
  | rsort (a : BitVec 5) (h : BitVec 4)
  /-- `RMERGE` (R186). Issues a merge job with an optional combine of equal keys. -/
  | rmerge (a : BitVec 5) (h : BitVec 4)
  /-- `RPART` (R190). Issues a partition job splitting records by split keys. -/
  | rpart (a : BitVec 5) (h : BitVec 4)
  /-- `RTAG` (R191). Issues a job tagging each record with its position. -/
  | rtag (a : BitVec 5) (h : BitVec 4)
  /-- `RJOIN` (R192). Issues a sorted merge-join job of a probe against a build run. -/
  | rjoin (a : BitVec 5) (h : BitVec 4)
  /-- `VLDW` (R180). Loads one window of run elements and clears the indices it serves from the mask. -/
  | vldw (d : BitVec 5) (a : BitVec 5) (b : BitVec 5) (h : BitVec 4)
  /-- `CSET` (R193). Sets the context's routing-counter configuration on the die. -/
  | cset (a : BitVec 5) (h : BitVec 4)
  /-- `CSNAP` (R194). Atomically snapshots routing counters into a vector and zeroes them. -/
  | csnap (d : BitVec 5) (a : BitVec 5) (h : BitVec 4)
  /-- `RCOMB` (R189). Checks a USER combine block and returns its combine word. -/
  | rcomb (d : BitVec 5) (a : BitVec 5) (b : BitVec 5)
  /-- `NMC` (R336). Submits a run of near-memory command records as one job and returns its token. -/
  | nmc (d : BitVec 5) (a : BitVec 5) (b : BitVec 5) (h : BitVec 4)
  /-- `NMSTAT` (R341). Loads the status word of a near-memory job. -/
  | nmstat (d : BitVec 5) (a : BitVec 5) (h : BitVec 4)
  /-- `SCAN` (R344). Issues a threshold scan emitting the passing records to a new run. -/
  | scan (a : BitVec 5) (h : BitVec 4)
  /-- `SCANTH` (R345). Counts the records that pass a threshold without appending. -/
  | scanth (d : BitVec 5) (a : BitVec 5) (h : BitVec 4)
  /-- `OPA_F64` (R213). Outer-product accumulate of f64 vectors into a c64 tile. -/
  | opaF64 (d : BitVec 3) (a : BitVec 5) (b : BitVec 5) (c : BitVec 5) (r : BitVec 5)
  /-- `OPA_F32` (R213). Outer-product accumulate of f32 vectors. -/
  | opaF32 (d : BitVec 3) (a : BitVec 5) (b : BitVec 5) (c : BitVec 5) (r : BitVec 5)
  /-- `OPA_BF16` (R213). Outer-product accumulate of bf16 pairs into f32 cells. -/
  | opaBf16 (d : BitVec 3) (a : BitVec 5) (b : BitVec 5) (c : BitVec 5) (r : BitVec 5)
  /-- `OPA_F16` (R213). Outer-product accumulate of f16 pairs into f32 cells. -/
  | opaF16 (d : BitVec 3) (a : BitVec 5) (b : BitVec 5) (c : BitVec 5) (r : BitVec 5)
  /-- `OPA_E4M3` (R213). Outer-product accumulate of e4m3 quadruples. -/
  | opaE4m3 (d : BitVec 3) (a : BitVec 5) (b : BitVec 5) (c : BitVec 5) (r : BitVec 5)
  /-- `OPA_E5M2` (R213). Outer-product accumulate of e5m2 quadruples. -/
  | opaE5m2 (d : BitVec 3) (a : BitVec 5) (b : BitVec 5) (c : BitVec 5) (r : BitVec 5)
  /-- `OPA_E2M1` (R213). Outer-product accumulate of unscaled e2m1 octets. -/
  | opaE2m1 (d : BitVec 3) (a : BitVec 5) (b : BitVec 5) (c : BitVec 5) (r : BitVec 5)
  /-- `OPA_I8` (R213). Outer-product accumulate of i8 quadruples into i32 cells. -/
  | opaI8 (d : BitVec 3) (a : BitVec 5) (b : BitVec 5) (c : BitVec 5) (r : BitVec 5)
  /-- `MMS_BF16` (R215). Streams bf16 A blocks against operand-store B rows, K steps. -/
  | mmsBf16 (d : BitVec 3) (v : BitVec 5) (a : BitVec 5) (b : BitVec 5) (r : BitVec 5)
  /-- `MMS_E4M3` (R215). Streamed matrix product in e4m3. -/
  | mmsE4m3 (d : BitVec 3) (v : BitVec 5) (a : BitVec 5) (b : BitVec 5) (r : BitVec 5)
  /-- `MMS_E2M1` (R215). Streamed matrix product in e2m1. -/
  | mmsE2m1 (d : BitVec 3) (v : BitVec 5) (a : BitVec 5) (b : BitVec 5) (r : BitVec 5)
  /-- `MMS_I8` (R215). Streamed matrix product in i8. -/
  | mmsI8 (d : BitVec 3) (v : BitVec 5) (a : BitVec 5) (b : BitVec 5) (r : BitVec 5)
  /-- `MMSP_BF16` (R216). Streamed product against perturbed GW32 weights with bf16 A. -/
  | mmspBf16 (d : BitVec 3) (v : BitVec 5) (a : BitVec 5) (b : BitVec 5) (r : BitVec 5)
  /-- `MMSP_E4M3` (R216). Streamed product against perturbed GW32 weights with e4m3 A. -/
  | mmspE4m3 (d : BitVec 3) (v : BitVec 5) (a : BitVec 5) (b : BitVec 5) (r : BitVec 5)
  /-- `MMSS_BF16` (R217). Streamed 4-of-8 structured-sparse product in bf16. -/
  | mmssBf16 (d : BitVec 3) (v : BitVec 5) (a : BitVec 5) (b : BitVec 5) (r : BitVec 5)
  /-- `MMSS_E4M3` (R217). Streamed 4-of-8 structured-sparse product in e4m3. -/
  | mmssE4m3 (d : BitVec 3) (v : BitVec 5) (a : BitVec 5) (b : BitVec 5) (r : BitVec 5)
  /-- `SCACC` (R219). Adds a tile scaled by block and band scales into another tile with one rounding. -/
  | scacc (d : BitVec 3) (p : BitVec 3) (a : BitVec 5) (b : BitVec 5) (q : BitVec 5)
  /-- `TZERO` (R220). Sets a tile's mode and zeroes the selected cells, or all on a mode change. -/
  | tzero (d : BitVec 3) (o : BitVec 5) (c : BitVec 5) (r : BitVec 5)
  /-- `TMOV` (R221). Copies four tile rows into a vector register. -/
  | tmov (d : BitVec 3) (v : BitVec 5) (s : BitVec 5) (m : BitVec 5)
  /-- `TRD` (R224). Stores tile cells through per-row offsets. -/
  | trd (d : BitVec 3) (b : BitVec 5) (x : BitVec 5) (c : BitVec 5) (r : BitVec 5)
  /-- `TWR` (R222). Writes four tile rows from a vector register. -/
  | twr (d : BitVec 3) (v : BitVec 5) (s : BitVec 5) (m : BitVec 5)
  /-- `TST` (R223). Stores selected tile rows with a stride. -/
  | tst (d : BitVec 3) (b : BitVec 5) (s : BitVec 5) (r : BitVec 5) (h : BitVec 4)
  /-- `TLDT` (R225). Loads a tile transposed from strided lines. -/
  | tldt (d : BitVec 3) (b : BitVec 5) (s : BitVec 5) (r : BitVec 5) (h : BitVec 4)
  /-- `OSLD` (R227). Issues a copy of run bytes into operand-store rows, setting the row index table. -/
  | osld (a : BitVec 5) (b : BitVec 5) (h : BitVec 4)
  /-- `OSMETA` (R228). Reads the row index table or reads and sets the perturbation key. -/
  | osmeta (d : BitVec 5) (a : BitVec 5) (b : BitVec 5)
  /-- `HNEW` (R238). Allocates a handle sequencer with a given scope. -/
  | hnew (d : BitVec 4) (s : BitVec 5)
  /-- `HFORK` (R239). Allocates a handle that follows everything earlier under the source handle. -/
  | hfork (d : BitVec 4) (a : BitVec 4)
  /-- `HJOIN` (R240). Allocates a handle that follows both source handles. -/
  | hjoin (d : BitVec 4) (a : BitVec 4) (b : BitVec 4)
  /-- `HRET` (R241). Drops a handle reference without waiting. -/
  | hret (a : BitVec 4)
  /-- `HWAIT` (R242). Waits until every operation under a handle is performed within its scope. -/
  | hwait (a : BitVec 4)
  /-- `HSCOPE` (R239). Allocates a handle following the source with a new scope. -/
  | hscope (d : BitVec 4) (a : BitVec 4) (s : BitVec 5)
  /-- `HEXP` (R243). Allocates an exported sequencer and writes its value to a scalar. -/
  | hexp (d : BitVec 5) (a : BitVec 4)
  /-- `HIMP` (R244). Imports an exported handle value into a new local handle. -/
  | himp (d : BitVec 4) (a : BitVec 5)
  /-- `AMOADD` (R256). Atomic add returning the old value. -/
  | amoadd (d : BitVec 5) (a : BitVec 5) (b : BitVec 5) (x : BitVec 1) (h : BitVec 4)
  /-- `AMOAND` (R256). Atomic AND returning the old value. -/
  | amoand (d : BitVec 5) (a : BitVec 5) (b : BitVec 5) (x : BitVec 1) (h : BitVec 4)
  /-- `AMOOR` (R256). Atomic OR returning the old value. -/
  | amoor (d : BitVec 5) (a : BitVec 5) (b : BitVec 5) (x : BitVec 1) (h : BitVec 4)
  /-- `AMOXOR` (R256). Atomic XOR returning the old value. -/
  | amoxor (d : BitVec 5) (a : BitVec 5) (b : BitVec 5) (x : BitVec 1) (h : BitVec 4)
  /-- `AMOMIN` (R256). Atomic signed minimum. -/
  | amomin (d : BitVec 5) (a : BitVec 5) (b : BitVec 5) (x : BitVec 1) (h : BitVec 4)
  /-- `AMOMAX` (R256). Atomic signed maximum. -/
  | amomax (d : BitVec 5) (a : BitVec 5) (b : BitVec 5) (x : BitVec 1) (h : BitVec 4)
  /-- `AMOMINN` (R256). Atomic unsigned minimum. -/
  | amominn (d : BitVec 5) (a : BitVec 5) (b : BitVec 5) (x : BitVec 1) (h : BitVec 4)
  /-- `AMOMAXN` (R256). Atomic unsigned maximum. -/
  | amomaxn (d : BitVec 5) (a : BitVec 5) (b : BitVec 5) (x : BitVec 1) (h : BitVec 4)
  /-- `AMOSWAP` (R256). Atomic swap. -/
  | amoswap (d : BitVec 5) (a : BitVec 5) (b : BitVec 5) (x : BitVec 1) (h : BitVec 4)
  /-- `AMOCAS` (R256). Atomic compare-and-swap against the old d. -/
  | amocas (d : BitVec 5) (a : BitVec 5) (b : BitVec 5) (x : BitVec 1) (h : BitVec 4)
  /-- `LAUNCH` (R286). Presents a launch record to a queue from the device and returns the kernel reference. -/
  | launch (d : BitVec 5) (a : BitVec 5) (b : BitVec 5) (h : BitVec 4)
  /-- `KSTAT` (R287). Loads a kernel's status word. -/
  | kstat (d : BitVec 5) (a : BitVec 5) (h : BitVec 4)
  /-- `CLAIM` (R288). Atomically takes a strip of work from an iteration counter into base and vl. -/
  | claim (d : BitVec 5) (a : BitVec 5) (b : BitVec 5) (h : BitVec 4)
  /-- `SEMACQ` (R301). Waits in queue order for a semaphore count and takes it. -/
  | semacq (d : BitVec 5) (a : BitVec 5) (b : BitVec 5) (h : BitVec 4)
  /-- `SEMREL` (R302). Adds to a semaphore as a release and sets every core hart's latch bit 0. -/
  | semrel (a : BitVec 5) (b : BitVec 5) (h : BitVec 4)
  /-- `SEMRD` (R303). Loads a semaphore's value without acquiring. -/
  | semrd (d : BitVec 5) (a : BitVec 5) (h : BitVec 4)
  /-- `GINFO` (R305). Reads group information by selector. -/
  | ginfo (d : BitVec 5) (a : BitVec 5)
  /-- `GEXIT` (R306). Ends the group: halts the issuer and stops every other hart. -/
  | gexit
  /-- `HYIELD` (R307). Pre-empts the group at once if a request is pending, else returns 0. -/
  | hyield (d : BitVec 5)
  /-- `BARINIT` (R316). Arms or re-arms a barrier with a configuration word. -/
  | barinit (a : BitVec 5) (b : BitVec 5)
  /-- `BARARR` (R317). Arrives at a barrier and returns the phase token without waiting. -/
  | bararr (d : BitVec 5) (a : BitVec 5) (h : BitVec 4)
  /-- `BARWAIT` (R318). Waits for the barrier phase after a token. -/
  | barwait (a : BitVec 5) (b : BitVec 5) (h : BitVec 4)
  /-- `BARARW` (R319). Arrives at a barrier and waits on the resulting token. -/
  | bararw (d : BitVec 5) (a : BitVec 5) (h : BitVec 4)
  /-- `BARQ` (R320). Reads a barrier's status with no ordering. -/
  | barq (d : BitVec 5) (a : BitVec 5)
  /-- `XSEND` (R360). Sends local-store bytes to another chip's local store or run. -/
  | xsend (a : BitVec 5) (b : BitVec 5) (h : BitVec 4)
  /-- `XTICKET` (R361). Takes a ticket from a remote die's dispenser for receive-buffer slots. -/
  | xticket (d : BitVec 5) (a : BitVec 5) (b : BitVec 5) (h : BitVec 4)
  /-- `XTKWAIT` (R361). Waits until a held ticket has been called. -/
  | xtkwait (a : BitVec 5) (b : BitVec 5) (h : BitVec 4)
  /-- `XPASS` (R362). Delivers an exported handle value to a remote word. -/
  | xpass (a : BitVec 5) (b : BitVec 5) (h : BitVec 4)
  /-- `XNOTE` (R362). Delivers an 8-byte note to a remote word and wakes its group. -/
  | xnote (a : BitVec 5) (b : BitVec 5) (h : BitVec 4)
  /-- `XQUERY` (R363). Reads fabric session, station, ticket or outstanding-operation information. -/
  | xquery (d : BitVec 5) (a : BitVec 5) (b : BitVec 5)
  /-- `DEFERRED_TRAP` (R85). A refusal or error report arrives and the hart takes a deferred trap before its next issue. -/
  | deferredTrap (h : HartId) (k : Nat)
  /-- `HART_WAIT_ENDS` (R69). The condition of a blocking instruction becomes true and the hart continues after it. -/
  | hartWaitEnds (h : HartId)
  /-- `WFE_TIMEOUT` (R101). s1 cycles after a WFE issued, bit 4 of the event latch is set. -/
  | wfeTimeout (h : HartId)
  /-- `SEMAPHORE_GRANT` (R301). The head waiter of a semaphore finds enough count and takes it. -/
  | semaphoreGrant (core sem : Nat)
  /-- `STREAM_STALL_END` (R168). A stalled stream read resumes as P passes the element, or traps as the run seals. -/
  | streamStallEnd (h : HartId)
  /-- `RPUB_PERFORMED` (R161). An RPUB is performed and moves P to the complete prefix. -/
  | rpubPerformed (op : Nat)
  /-- `RSEAL_PERFORMED` (R162). An RSEAL is performed and seals the run or raises RUN_STATE. -/
  | rsealPerformed (op : Nat)
  /-- `RFREE_PERFORMED` (R163). An RFREE is performed and frees the entry or raises RUN_STATE. -/
  | rfreePerformed (op : Nat)
  /-- `COPY_PERFORMED` (R175). A copy, fill or OSLD is performed after earlier operations under its handle. -/
  | copyPerformed (op : Nat)
  /-- `COPY_COMPLETE` (R179). A copy finishes its writes or append and posts its semaphore. -/
  | copyComplete (op : Nat)
  /-- `OSLD_PERFORMED` (R227). An OSLD fills its operand-store rows, sets Ibase and posts its semaphore. -/
  | osldPerformed (op : Nat)
  /-- `MERGE_JOB_START` (R183). A queued merge job is performed, taking P of its inputs and emitting records. -/
  | mergeJobStart (op : Nat)
  /-- `MERGE_JOB_COMPLETE` (R183). A job writes its status, publishes and optionally seals its destinations. -/
  | mergeJobComplete (op : Nat)
  /-- `MERGE_JOB_STOP` (R184). A job meets an error, stops unpublished and reports a deferred trap. -/
  | mergeJobStop (op : Nat)
  /-- `EXTENT_RESUME` (R328). Kennel maps the next extent and resumes the stalled append. -/
  | extentResume (op : Nat)
  /-- `NMC_JOB_RUN` (R336). The executors apply a near-memory job's commands in order. -/
  | nmcJobRun (op : Nat)
  /-- `SCAN_RUN` (R344). The scan units read the source below P and emit or count passing records. -/
  | scanRun (op : Nat)
  /-- `HART_START` (R294). At its staggered start time a bound hart leaves BOUND for RUN. -/
  | hartStart (g rank : Nat)
  /-- `TILE_RAMP_END` (R211). 256 cycles after bind or resumption the tile engine leaves quarter rate. -/
  | tileRampEnd (core : Nat)
  /-- `LAUNCH_ELIGIBLE` (R275). A queued launch meets its order, chain and after conditions and may bind. -/
  | launchEligible (ctx queue : Nat)
  /-- `GROUP_BIND` (R282). Dispatch binds an eligible group against a standing bind record. -/
  | groupBind (die slot : Nat)
  /-- `KENNEL_BIND_GROUP` (R282). Kennel binds a group for which no standing record matches. -/
  | kennelBindGroup (ctx queue die : Nat) (cores : List Nat)
  /-- `BIND_RECORD_WRITE` (R282). Kennel writes, renews or withdraws a standing bind record and prepares its ranges. -/
  | bindRecordWrite (die slot : Nat) (rec : Option BindRecord)
  /-- `KENNEL_PREEMPT_REQUEST` (R307). Kennel requests pre-emption of a RUN group and starts the grace period. -/
  | kennelPreemptRequest (g : Nat)
  /-- `PREEMPT_GRACE_EXPIRY` (R307). The 50 µs grace ends and the group enters SAVING regardless. -/
  | preemptGraceExpiry (g : Nat)
  /-- `SAVE_COMPLETE` (R295). Every core's state is saved and the group becomes SAVED. -/
  | saveComplete (g : Nat)
  /-- `GROUP_RESUME` (R297). Kennel resumes a SAVED group on its cores once resources are free. -/
  | groupResume (g : Nat)
  /-- `VECTOR_SET_EVICT` (R106). Kennel evicts a RETAINED vector set's dirty contents to the save run. -/
  | vectorSetEvict (h : HartId)
  /-- `GROUP_EXIT_COMPLETE` (R298). An EXITING group's operations complete and it releases everything. -/
  | groupExitComplete (g : Nat)
  /-- `KENNEL_KILL_GROUP` (R298). Kennel kills a group of a context, stopping its harts and recording the kill. -/
  | kennelKillGroup (ctx : Nat) (t : KillTarget) (who : Option HartId)
  /-- `KENNEL_RESUME_HART` (R98). Kennel resumes a SUSPENDED hart at its resumable position. -/
  | kennelResumeHart (h : HartId)
  /-- `KENNEL_REFLECT_TRAP` (R98). Kennel reflects an escalated trap to the context's S handler. -/
  | kennelReflectTrap (h : HartId)
  /-- `KENNEL_SUSPEND_CONTEXT` (R258). Kennel suspends or resumes a context by its own policy. -/
  | kennelSuspendContext (ctx : Nat) (suspend : Bool)
  /-- `REPARTITION` (R261). Kennel changes an IDLE context's cores, counters or queues. -/
  | repartition (ctx : Nat) (part : List (List Nat)) (iters routes queues : Nat)
  /-- `KENNEL_GROW_POOL` (R325). Kennel moves FREE pages into a context's pool. -/
  | kennelGrowPool (ctx die units : Nat)
  /-- `KENNEL_SHRINK_POOL` (R325). Kennel zeroes pooled pages and returns them to free memory. -/
  | kennelShrinkPool (ctx die units : Nat)
  /-- `MACHINE_CHECK` (R265). An uncorrectable soft error in core state kills a group or resets the context. -/
  | machineCheck (h : HartId) (unit : Word) (shared : Bool)
  /-- `SCRUB` (R334). A base die scrubs a line, writing it back corrected or poisoning it. -/
  | scrub (l : RunLine)
  /-- `CHANNEL_RETIRE` (R330). Kennel retires a channel, advancing the map generation and moving its blocks. -/
  | channelRetire (die channel : Nat)
  /-- `SUBMIT` (R272). A host write to SUBMIT presents the staged launch record to the queue. -/
  | submit (ctx queue : Nat)
  /-- `CTRL_BLOCK` (R275). CTRL value 1 stops further launches of the queue from starting. -/
  | ctrlBlock (ctx queue : Nat)
  /-- `CTRL_OPEN` (R270). CTRL value 2 reopens a BLOCKED queue. -/
  | ctrlOpen (ctx queue : Nat)
  /-- `CTRL_DRAIN` (R270). CTRL value 3 puts the queue into DRAINING. -/
  | ctrlDrain (ctx queue : Nat)
  /-- `CTRL_CLEAR` (R276). CTRL value 4 resumes an ERROR queue with the launches it holds. -/
  | ctrlClear (ctx queue : Nat)
  /-- `CTRL_DISCARD` (R276). CTRL value 5 cancels unstarted launches and reopens the queue. -/
  | ctrlDiscard (ctx queue : Nat)
  /-- `REGISTER_WRITE` (R271). A host write to a window register with no behaviour of its own, such as STAGE or CSTAGE. -/
  | registerWrite (vf bar off : Nat) (value : Word)
  /-- `CTXNEW` (R370). Creates an IDLE context with its cores, counters, queues and pool. -/
  | ctxnew (vf : Nat)
  /-- `CTXDEL` (R370). Tears down a context through RESETTING. -/
  | ctxdel (vf : Nat)
  /-- `CTXSUSP` (R370). Suspends a context, pre-empting its groups. -/
  | ctxsusp (vf : Nat)
  /-- `CTXRES` (R370). Resumes a suspended context. -/
  | ctxres (vf : Nat)
  /-- `LOAD` (R370). Loads an image and creates its declared runs. -/
  | loadImage (vf : Nat) (img : Image)
  /-- `UNLOAD` (R370). Unloads an image that no launch holds or runs. -/
  | unload (vf : Nat)
  /-- `RNEW` (R370). Creates a device run with a given home die. -/
  | rnew (vf : Nat)
  /-- `HRUN` (R370). Creates a host-resident run and writes its header. -/
  | hrun (vf : Nat)
  /-- `HPUB` (R370). Publishes the host's own appends to a host run. -/
  | hpub (vf : Nat)
  /-- `RREAD` (R370). Copies published records of a run to host memory. -/
  | rread (vf : Nat)
  /-- `RWRITE` (R370). Appends host records to a run as one append and publishes it. -/
  | rwrite (vf : Nat)
  /-- `SETCTR` (R370). Stores an iteration counter's value and limit. -/
  | setctr (vf : Nat)
  /-- `SESSION` (R370). Permits a fabric session between a context and a peer context. -/
  | session (vf : Nat)
  /-- `HEXT` (R371). Adds a host-memory extent to a host run, resuming a stalled append. -/
  | hext (vf : Nat)
  /-- `COMMAND_DONE` (R369). A host command's effects are performed and CSTATUS busy clears. -/
  | commandDone (vf : Nat)
  /-- `GET_MEASUREMENTS` (R268). An SPDM request returns the interface's signed measurement report. -/
  | getMeasurements (vf : Nat)
  /-- `GET_CERTIFICATE` (R372). An SPDM request returns the device identity certificate chain. -/
  | getCertificate (vf : Nat)
  /-- `PF_ENABLE_VFS` (R367). The physical function enables virtual functions. -/
  | pfEnableVfs (n : Nat)
  /-- `PF_SET_LIMITS` (R367). The physical function sets a virtual function's limits. -/
  | pfSetLimits (vf : Nat) (l : Limits)
  /-- `PF_SET_POWER_CAP` (R367). The physical function sets the module power cap. -/
  | pfSetPowerCap (mw : Nat)
  /-- `COLD_RESET` (R373). Runs the verified boot and bring-up sequence from rails to ready. -/
  | coldReset (fails : Option Nat) (chip : BitVec 10)
  /-- `PF_HOT_RESET` (R373). A hot reset of the physical function runs the bring-up sequence. -/
  | pfHotReset (fails : Option Nat) (chip : BitVec 10)
  /-- `VF_FLR` (R373). A function-level reset of a virtual function resets its contexts. -/
  | vfFlr (vf : Nat)
  /-- `GOVERNOR_TICK` (R374). Every 10 µs the governor meters each die and sets its issue rate. -/
  | governorTick (die demand : Nat)
  /-- `THERMAL_LIMIT_95C` (R376). A die reaching 95 °C has its power share halved. -/
  | thermalLimit (die : Nat)
  /-- `THERMAL_BELOW_90C` (R376). A throttled die falling below 90 °C regains its share. -/
  | thermalBelow (die : Nat)
  /-- `THERMAL_STOP_110C` (R376). A die reaching 110 °C makes Kennel stop the module. -/
  | thermalStop (die : Nat)
  /-- `LINK_TRAIN_START` (R348). Bring-up or Kennel starts training a station's link. -/
  | linkTrainStart (st : Nat)
  /-- `LINK_TRAIN_UP` (R348). Training succeeds at full width and the link is UP. -/
  | linkTrainUp (st : Nat)
  /-- `LINK_TRAIN_NARROW` (R348). Training succeeds at reduced width and the link is NARROW. -/
  | linkTrainNarrow (st lanes : Nat)
  /-- `LANE_FAIL` (R348). An active lane fails and the spare replaces it or the width halves. -/
  | laneFail (st : Nat)
  /-- `LINK_DOWN` (R348). A link loses its last good lane or fails training and goes DOWN. -/
  | linkDown (st : Nat)
  /-- `WATCHDOG_SAMPLE` (R350). Watchdog samples lane error rates and eye margins. -/
  | watchdogSample (st : Nat) (weak : Bool)
  /-- `SESSION_OPEN` (R351). Kennel opens a fabric session between two permitted contexts. -/
  | sessionOpen (ctx : Nat) (chip : BitVec 10) (peer : Nat)
  /-- `SESSION_PEER_GONE` (R351). The peer's Kennel reports the peer context gone and the session becomes GONE. -/
  | sessionPeerGone (ctx : Nat) (chip : BitVec 10)
  /-- `SESSION_ROUTE_TIMEOUT` (R351). No station reaches the peer for 10 ms and the session becomes GONE. -/
  | sessionRouteTimeout (ctx : Nat) (chip : BitVec 10)
  /-- `SESSION_SETTLED` (R354). Every operation to a GONE peer completes and the session closes. -/
  | sessionSettled (ctx : Nat) (chip : BitVec 10)
  /-- `REQ` (R357). A vector request packet is applied at the target in element order. -/
  | reqMsg (m : Msg)
  /-- `TRAIN` (R358). Train elements arrive and are held until their TAIL. -/
  | trainMsg (m : Msg)
  /-- `TAIL` (R358). A train's TAIL is applied and the train is written whole or refused. -/
  | tailMsg (m : Msg)
  /-- `DATA` (R360). A piece of a bulk send is written to its destination. -/
  | dataMsg (m : Msg)
  /-- `RDATA` (R357). Load data returned for a REQ is written at the issuer. -/
  | rdataMsg (m : Msg)
  /-- `TKREQ` (R361). A ticket request takes a number from the die's dispenser. -/
  | tkreqMsg (m : Msg)
  /-- `TKCALL` (R361). A ticket call arrives at the holder. -/
  | tkcallMsg (m : Msg)
  /-- `NOTE` (R362). A note or handle pass is written to its word and wakes the owning group. -/
  | noteMsg (m : Msg)
  /-- `DONE` (R362). An exporter's report that its operations are performed releases the imported handle's operations. -/
  | doneMsg (m : Msg)
  /-- `RET` (R353). A cumulative return acknowledges messages and carries refusal records. -/
  | retMsg (m : Msg)
  /-- `CLOSE` (R352). A session-closing message with its reason arrives. -/
  | closeMsg (m : Msg)
  /-- `RESERVED_MESSAGE` (R352). A message of reserved type is discarded and counted. -/
  | reservedMessage (m : Msg)
  /-- `RET_SEND` (R353). After 256 flits or when the link idles, an end sends a RET. -/
  | retSend (ctx : Nat) (chip : BitVec 10)
  /-- `UALINK_READ` (R349). A UALink read request to a local-store window is performed at the bank. -/
  | ualinkRead (r : UaReq)
  /-- `UALINK_WRITE` (R349). A UALink write request to a window is performed or answered with an error. -/
  | ualinkWrite (r : UaReq)
  /-- `UALINK_ATOMIC` (R349). A UALink atomic request is performed at the target bank. -/
  | ualinkAtomic (r : UaReq)
  /-- `UALINK_COMPLETION` (R356). A UALink completion arrives at the issuer and completes the remote access. -/
  | ualinkCompletion (d : UaDone)
  /-- `TICKET_CALL` (R361). The dispenser calls the next ticket once the free share covers its slots. -/
  | ticketCall (ctx die : Nat)
  /-- `TICKET_TIMEOUT` (R361). A called ticket not consumed within 1 ms is cancelled and its slots freed. -/
  | ticketTimeout (ctx die : Nat) (number : BitVec 32)
  /-- `ILLEGAL_WORD` (R40). The hart comes to execute a word whose major is 0x00, 0x7F or reserved, whose function is unlisted, or that is all zeros or all ones, and traps ILLEGAL_INSTR. -/
  | illegalWord (w : IWord)
  /-- `LINK_LEVEL_REPLAY` (R349). A flit lost or corrupted on a station is repaired by UALink link-level replay, and a replay that fails leaves the next cumulative RET to heal the loss. -/
  | linkLevelReplay (st : Nat) (repaired : Bool)
  /-- `SOFT_ERROR` (R334). A soft error damages the symbols of a stored HBM line, so that later reads correct it or find it uncorrectable and poison it. -/
  | softError (l : RunLine) (symbols : List Nat)
  /-- `TSV_GROUP_MARKED_FAILED` (R334). Kennel marks a TSV group of a stack as failed, after which the base die corrects errors together with that group's symbols whenever 2e + f is at most 8. -/
  | tsvGroupMarkedFailed (die stack tsv : Nat)
  /-- `CLEARING_COMPLETE` (R266). The clearing of a RESETTING context finishes, its pages and stores are zeroed, and the context becomes FREE. -/
  | clearingComplete (ctx : Nat)
  deriving DecidableEq, Repr

end Sys2Proof
end

