-- ==== Sys2Proof/WellFormed.lean ====
section
/-!
DEFINITION. Which field values make an instruction legal (R34–R39, R117, R132, R212, R237): a field value marked
illegal or reserved makes the word illegal whatever else it holds (R40).
-/

namespace Sys2Proof

/-- A mask field holds 0–23 (R35). -/
def mask (m : MReg) : Bool := decide (m.toNat < 24)

/-- A group field holds 8, 16 or 24 (R117). -/
def group (v : Reg) : Bool := v == 8 || v == 16 || v == 24

/-- The CSR numbers of R38. -/
def csrListed (c : BitVec 12) : Bool :=
  (decide (0x001 ≤ c.toNat) && decide (c.toNat ≤ 0x009)) || (decide (0x010 ≤ c.toNat) && decide (c.toNat ≤ 0x013)) ||
    (decide (0x100 ≤ c.toNat) && decide (c.toNat ≤ 0x103))

/-- The floating formats of R37 by code: 8 f64, 9 f32, 10 f16, 11 bf16, 12 e4m3, 13 e5m2, 14 e2m1. -/
def cvtNarrowing (df sf : BitVec 4) : Bool :=
  match sf.toNat with
  | 8 => decide (df.toNat = 9 ∨ df.toNat = 10 ∨ df.toNat = 11)
  | 9 => decide (df.toNat = 10 ∨ df.toNat = 11 ∨ df.toNat = 12 ∨ df.toNat = 13 ∨ df.toNat = 14)
  | 10 => decide (df.toNat = 11 ∨ df.toNat = 12 ∨ df.toNat = 13 ∨ df.toNat = 14)
  | 11 => decide (df.toNat = 10 ∨ df.toNat = 12 ∨ df.toNat = 13 ∨ df.toNat = 14)
  | _ => false

/-- The exact floating pairs of R128's table. -/
def cvtExact (df sf : BitVec 4) : Bool :=
  match sf.toNat with
  | 9 => decide (df.toNat = 8)
  | 10 => decide (df.toNat = 8 ∨ df.toNat = 9)
  | 11 => decide (df.toNat = 8 ∨ df.toNat = 9)
  | 12 => decide (df.toNat = 9 ∨ df.toNat = 10 ∨ df.toNat = 11)
  | 13 => decide (df.toNat = 9 ∨ df.toNat = 10 ∨ df.toNat = 11)
  | 14 => decide (df.toNat = 9 ∨ df.toNat = 10 ∨ df.toNat = 11)
  | _ => false

/-- The pairs and rm values that R128 lists. -/
def cvtPair (df sf : BitVec 4) (rm : BitVec 2) : Bool :=
  if sf.toNat < 8 then
    if df.toNat < 8 then decide (df ≠ sf) && decide (rm = 0)
    else decide (df.toNat < 12) && decide (rm ≠ 2)
  else if df.toNat < 8 then decide (sf.toNat < 12) && decide (rm ≠ 2)
  else cvtNarrowing df sf || (cvtExact df sf && decide (rm ≠ 2))

/-- No field of the instruction holds a value that the spec marks illegal or reserved. -/
def Instr.wf : Instr → Bool
  | .add _ _ _ => true
  | .sub _ _ _ => true
  | .and _ _ _ => true
  | .or _ _ _ => true
  | .xor _ _ _ => true
  | .andn _ _ _ => true
  | .sll _ _ _ => true
  | .srl _ _ _ => true
  | .sra _ _ _ => true
  | .rol _ _ _ => true
  | .ror _ _ _ => true
  | .slt _ _ _ => true
  | .sltn _ _ _ => true
  | .min _ _ _ => true
  | .max _ _ _ => true
  | .minn _ _ _ => true
  | .maxn _ _ _ => true
  | .mul _ _ _ => true
  | .mulh _ _ _ => true
  | .mulhn _ _ _ => true
  | .div _ _ _ => true
  | .divn _ _ _ => true
  | .rem _ _ _ => true
  | .remn _ _ _ => true
  | .clz _ _ => true
  | .ctz _ _ => true
  | .popc _ _ => true
  | .brev _ _ => true
  | .addi _ _ _ => true
  | .andi _ _ _ => true
  | .ori _ _ _ => true
  | .xori _ _ _ => true
  | .slli _ _ _ => true
  | .srli _ _ _ => true
  | .srai _ _ _ => true
  | .slti _ _ _ => true
  | .lui _ _ => true
  | .auipc _ _ => true
  | .beq _ _ _ => true
  | .bne _ _ _ => true
  | .blt _ _ _ => true
  | .bge _ _ _ => true
  | .bltn _ _ _ => true
  | .bgen _ _ _ => true
  | .jal _ _ => true
  | .jalr _ _ _ => true
  | .jtab _ _ _ n => decide (n ≠ 0)
  | .waitc _ _ _ _ => true
  | .fork _ _ => true
  | .rdv => true
  | .rdcyc _ => true
  | .loop _ c => decide (c.toNat < 8)
  | .endloop c => decide (c.toNat < 8)
  | .ld _ _ _ w _ => decide (w.toNat < 7)
  | .st _ _ _ w _ => decide (w.toNat < 4)
  | .trap _ => true
  | .eret => true
  | .sysc _ => true
  | .brk => true
  | .wfe _ _ => true
  | .halth => true
  | .csrr _ c => csrListed c
  | .csrw _ c => csrListed c
  | .csrset _ c => csrListed c
  | .csrclr _ c => csrListed c
  | .vadd _ _ _ _ m _ => mask m
  | .vsub _ _ _ _ m _ => mask m
  | .vmul _ _ _ _ m _ => mask m
  | .vmulh _ _ _ _ m _ => mask m
  | .vmin _ _ _ _ m _ => mask m
  | .vmax _ _ _ _ m _ => mask m
  | .vminn _ _ _ _ m _ => mask m
  | .vmaxn _ _ _ _ m _ => mask m
  | .vand _ _ _ _ m _ => mask m
  | .vor _ _ _ _ m _ => mask m
  | .vxor _ _ _ _ m _ => mask m
  | .vsll _ _ _ _ m _ => mask m
  | .vsrl _ _ _ _ m _ => mask m
  | .vsra _ _ _ _ m _ => mask m
  | .vadds _ _ _ _ m _ => mask m
  | .vsubs _ _ _ _ m _ => mask m
  | .vwaddI8 _ _ _ _ m => mask m
  | .vwaddI16 _ _ _ _ m => mask m
  | .vwaddI32 _ _ _ _ m => mask m
  | .vwaddN8 _ _ _ _ m => mask m
  | .vwaddN16 _ _ _ _ m => mask m
  | .vwaddN32 _ _ _ _ m => mask m
  | .vwmacI8 _ _ _ _ m => mask m
  | .vwmacI16 _ _ _ _ m => mask m
  | .vfaddF64 _ _ _ _ m => mask m
  | .vfsubF64 _ _ _ _ m => mask m
  | .vfmulF64 _ _ _ _ m => mask m
  | .vfmaF64 _ _ _ _ m => mask m
  | .vfminF64 _ _ _ _ m => mask m
  | .vfmaxF64 _ _ _ _ m => mask m
  | .vfdivF64 _ _ _ _ m => mask m
  | .vfsqrtF64 _ _ m => mask m
  | .vfaddF32 _ _ _ _ m => mask m
  | .vfsubF32 _ _ _ _ m => mask m
  | .vfmulF32 _ _ _ _ m => mask m
  | .vfmaF32 _ _ _ _ m => mask m
  | .vfminF32 _ _ _ _ m => mask m
  | .vfmaxF32 _ _ _ _ m => mask m
  | .vfdivF32 _ _ _ _ m => mask m
  | .vfsqrtF32 _ _ m => mask m
  | .vfaddBf16 _ _ _ _ m => mask m
  | .vfsubBf16 _ _ _ _ m => mask m
  | .vfmulBf16 _ _ _ _ m => mask m
  | .vfmaBf16 _ _ _ _ m => mask m
  | .vfminBf16 _ _ _ _ m => mask m
  | .vfmaxBf16 _ _ _ _ m => mask m
  | .vfdivBf16 _ _ _ _ m => mask m
  | .vfsqrtBf16 _ _ m => mask m
  | .vfaddF16 _ _ _ _ m => mask m
  | .vfsubF16 _ _ _ _ m => mask m
  | .vfmulF16 _ _ _ _ m => mask m
  | .vfmaF16 _ _ _ _ m => mask m
  | .vfminF16 _ _ _ _ m => mask m
  | .vfmaxF16 _ _ _ _ m => mask m
  | .vfdivF16 _ _ _ _ m => mask m
  | .vfsqrtF16 _ _ m => mask m
  | .vfrecip _ _ m => mask m
  | .vfrsqrt _ _ m => mask m
  | .vfexp2 _ _ m => mask m
  | .vflog2 _ _ m => mask m
  | .vfabs _ _ m => mask m
  | .vfneg _ _ m => mask m
  | .vfclass _ _ m => mask m
  | .vfsgnj _ _ _ _ m => mask m
  | .vcmpeqI8 d _ _ _ m => mask m && mask d
  | .vcmpneI8 d _ _ _ m => mask m && mask d
  | .vcmpltI8 d _ _ _ m => mask m && mask d
  | .vcmpleI8 d _ _ _ m => mask m && mask d
  | .vcmpltnI8 d _ _ _ m => mask m && mask d
  | .vcmplenI8 d _ _ _ m => mask m && mask d
  | .vboundI8 d _ m => mask m && mask d
  | .vcmpeqI16 d _ _ _ m => mask m && mask d
  | .vcmpneI16 d _ _ _ m => mask m && mask d
  | .vcmpltI16 d _ _ _ m => mask m && mask d
  | .vcmpleI16 d _ _ _ m => mask m && mask d
  | .vcmpltnI16 d _ _ _ m => mask m && mask d
  | .vcmplenI16 d _ _ _ m => mask m && mask d
  | .vboundI16 d _ m => mask m && mask d
  | .vcmpeqI32 d _ _ _ m => mask m && mask d
  | .vcmpneI32 d _ _ _ m => mask m && mask d
  | .vcmpltI32 d _ _ _ m => mask m && mask d
  | .vcmpleI32 d _ _ _ m => mask m && mask d
  | .vcmpltnI32 d _ _ _ m => mask m && mask d
  | .vcmplenI32 d _ _ _ m => mask m && mask d
  | .vboundI32 d _ m => mask m && mask d
  | .vcmpeqI64 d _ _ _ m => mask m && mask d
  | .vcmpneI64 d _ _ _ m => mask m && mask d
  | .vcmpltI64 d _ _ _ m => mask m && mask d
  | .vcmpleI64 d _ _ _ m => mask m && mask d
  | .vcmpltnI64 d _ _ _ m => mask m && mask d
  | .vcmplenI64 d _ _ _ m => mask m && mask d
  | .vboundI64 d _ m => mask m && mask d
  | .vfcmpeqF32 d _ _ _ m => mask m && mask d
  | .vfcmpltF32 d _ _ _ m => mask m && mask d
  | .vfcmpleF32 d _ _ _ m => mask m && mask d
  | .vfcmpunF32 d _ _ _ m => mask m && mask d
  | .vfcmpeqF64 d _ _ _ m => mask m && mask d
  | .vfcmpltF64 d _ _ _ m => mask m && mask d
  | .vfcmpleF64 d _ _ _ m => mask m && mask d
  | .vfcmpunF64 d _ _ _ m => mask m && mask d
  | .mand d a b m => mask m && mask d && mask a && mask b
  | .mor d a b m => mask m && mask d && mask a && mask b
  | .mxor d a b m => mask m && mask d && mask a && mask b
  | .mandn d a b m => mask m && mask d && mask a && mask b
  | .mnot d a m => mask m && mask d && mask a
  | .mpopc _ a m => mask m && mask a
  | .mfirst _ a m => mask m && mask a
  | .msetvl d a m => mask m && mask d && mask a
  | .vpermx _ _ _ _ m => mask m
  | .vslideup _ _ _ m => mask m
  | .vslidedn _ _ _ m => mask m
  | .vcompress _ _ m => mask m
  | .vexpand _ _ m => mask m
  | .vbcast _ _ _ m => mask m
  | .vextr _ _ _ => true
  | .vins _ _ _ => true
  | .vscanI32 _ _ m => mask m
  | .vscanI64 _ _ m => mask m
  | .vscanF32 _ _ m => mask m
  | .vredsumI32 _ _ m => mask m
  | .vredsumI64 _ _ m => mask m
  | .vredsumF32 _ _ m => mask m
  | .vredmaxI32 _ _ m => mask m
  | .vredmaxF32 _ _ m => mask m
  | .vcvt _ _ s r m f => mask m && cvtPair f s r
  | .vhad d a m j => mask m && group d && group a && decide (j.toNat < 12)
  | .vhadc a j => decide (j.toNat < 12) && (group a || a == 0)
  | .vcvtb d a o => (group a || a == 0) && decide (o.toNat < 2) && decide (1 ≤ d.toNat ∧ d.toNat ≤ 30)
  | .vgauss _ _ b m => mask m && decide (b ≠ 31)
  | .vld _ _ m _ => mask m
  | .vlds _ _ _ m _ => mask m
  | .vldx _ _ _ m _ => mask m
  | .vldff _ _ m _ => mask m
  | .vst _ _ m _ => mask m
  | .vsts _ _ _ m _ => mask m
  | .vstx _ _ _ m _ => mask m
  | .vstxadd _ _ _ m _ => mask m
  | .vfetch _ => true
  | .tfetch _ m => mask m
  | .stop => true
  | .vjoin => true
  | .vrelease => true
  | .vloop _ => true
  | .vagain => true
  | .setvl _ _ t => decide (t.toNat < 5)
  | .setvli _ _ _ t => decide (t.toNat < 5)
  | .ropen _ _ _ => true
  | .rpub _ _ => true
  | .rseal _ _ => true
  | .rfree _ _ => true
  | .rlen _ _ _ => true
  | .rinfo _ _ _ => true
  | .sbind _ _ _ _ => true
  | .sunbind _ _ => true
  | .sskip _ _ => true
  | .spos _ _ => true
  | .rcopyin _ _ _ => true
  | .rcopyout _ _ _ => true
  | .rcopyrr _ _ _ => true
  | .rfill _ _ _ => true
  | .rsort _ _ => true
  | .rmerge _ _ => true
  | .rpart _ _ => true
  | .rtag _ _ => true
  | .rjoin _ _ => true
  | .vldw _ _ b _ => mask b
  | .cset _ _ => true
  | .csnap _ _ _ => true
  | .rcomb _ _ _ => true
  | .nmc _ _ _ _ => true
  | .nmstat _ _ _ => true
  | .scan _ _ => true
  | .scanth _ _ _ => true
  | .opaF64 _ _ _ c r => mask r && mask c
  | .opaF32 _ _ _ c r => mask r && mask c
  | .opaBf16 _ _ _ c r => mask r && mask c
  | .opaF16 _ _ _ c r => mask r && mask c
  | .opaE4m3 _ _ _ c r => mask r && mask c
  | .opaE5m2 _ _ _ c r => mask r && mask c
  | .opaE2m1 _ _ _ c r => mask r && mask c
  | .opaI8 _ _ _ c r => mask r && mask c
  | .mmsBf16 _ _ _ _ r => mask r
  | .mmsE4m3 _ _ _ _ r => mask r
  | .mmsE2m1 _ _ _ _ r => mask r
  | .mmsI8 _ _ _ _ r => mask r
  | .mmspBf16 _ _ _ _ r => mask r
  | .mmspE4m3 _ _ _ _ r => mask r
  | .mmssBf16 _ _ _ _ r => mask r
  | .mmssE4m3 _ _ _ _ r => mask r
  | .scacc _ _ _ _ _ => true
  | .tzero _ o c r => mask r && mask c && decide (o.toNat < 2)
  | .tmov _ _ _ m => mask m
  | .trd _ _ _ c r => mask r && mask c
  | .twr _ _ _ m => mask m
  | .tst _ _ _ r _ => mask r
  | .tldt _ _ _ r _ => mask r
  | .osld _ _ _ => true
  | .osmeta _ _ _ => true
  | .hnew _ s => decide (s.toNat < 6)
  | .hfork _ _ => true
  | .hjoin _ _ _ => true
  | .hret _ => true
  | .hwait _ => true
  | .hscope _ _ s => decide (s.toNat < 6)
  | .hexp _ _ => true
  | .himp _ _ => true
  | .amoadd _ _ _ _ _ => true
  | .amoand _ _ _ _ _ => true
  | .amoor _ _ _ _ _ => true
  | .amoxor _ _ _ _ _ => true
  | .amomin _ _ _ _ _ => true
  | .amomax _ _ _ _ _ => true
  | .amominn _ _ _ _ _ => true
  | .amomaxn _ _ _ _ _ => true
  | .amoswap _ _ _ _ _ => true
  | .amocas _ _ _ _ _ => true
  | .launch _ _ _ _ => true
  | .kstat _ _ _ => true
  | .claim _ _ _ _ => true
  | .semacq _ _ _ _ => true
  | .semrel _ _ _ => true
  | .semrd _ _ _ => true
  | .ginfo _ _ => true
  | .gexit => true
  | .hyield _ => true
  | .barinit _ _ => true
  | .bararr _ _ _ => true
  | .barwait _ _ _ => true
  | .bararw _ _ _ => true
  | .barq _ _ => true
  | .xsend _ _ _ => true
  | .xticket _ _ _ _ => true
  | .xtkwait _ _ _ => true
  | .xpass _ _ _ => true
  | .xnote _ _ _ => true
  | .xquery _ _ _ => true
  | .deferredTrap _ _ => true
  | .hartWaitEnds _ => true
  | .wfeTimeout _ => true
  | .semaphoreGrant _ _ => true
  | .streamStallEnd _ => true
  | .rpubPerformed _ => true
  | .rsealPerformed _ => true
  | .rfreePerformed _ => true
  | .copyPerformed _ => true
  | .copyComplete _ => true
  | .osldPerformed _ => true
  | .mergeJobStart _ => true
  | .mergeJobComplete _ => true
  | .mergeJobStop _ => true
  | .extentResume _ => true
  | .nmcJobRun _ => true
  | .scanRun _ => true
  | .hartStart _ _ => true
  | .tileRampEnd _ => true
  | .launchEligible _ _ => true
  | .groupBind _ _ => true
  | .kennelBindGroup _ _ _ _ => true
  | .bindRecordWrite _ _ _ => true
  | .kennelPreemptRequest _ => true
  | .preemptGraceExpiry _ => true
  | .saveComplete _ => true
  | .groupResume _ => true
  | .vectorSetEvict _ => true
  | .groupExitComplete _ => true
  | .kennelKillGroup _ _ _ => true
  | .kennelResumeHart _ => true
  | .kennelReflectTrap _ => true
  | .kennelSuspendContext _ _ => true
  | .repartition _ _ _ _ _ => true
  | .kennelGrowPool _ _ _ => true
  | .kennelShrinkPool _ _ _ => true
  | .machineCheck _ _ _ => true
  | .scrub _ => true
  | .channelRetire _ _ => true
  | .submit _ _ => true
  | .ctrlBlock _ _ => true
  | .ctrlOpen _ _ => true
  | .ctrlDrain _ _ => true
  | .ctrlClear _ _ => true
  | .ctrlDiscard _ _ => true
  | .registerWrite _ _ _ _ => true
  | .ctxnew _ => true
  | .ctxdel _ => true
  | .ctxsusp _ => true
  | .ctxres _ => true
  | .loadImage _ _ => true
  | .unload _ => true
  | .rnew _ => true
  | .hrun _ => true
  | .hpub _ => true
  | .rread _ => true
  | .rwrite _ => true
  | .setctr _ => true
  | .session _ => true
  | .hext _ => true
  | .commandDone _ => true
  | .getMeasurements _ => true
  | .getCertificate _ => true
  | .pfEnableVfs _ => true
  | .pfSetLimits _ _ => true
  | .pfSetPowerCap _ => true
  | .coldReset _ _ => true
  | .pfHotReset _ _ => true
  | .vfFlr _ => true
  | .governorTick _ _ => true
  | .thermalLimit _ => true
  | .thermalBelow _ => true
  | .thermalStop _ => true
  | .linkTrainStart _ => true
  | .linkTrainUp _ => true
  | .linkTrainNarrow _ _ => true
  | .laneFail _ => true
  | .linkDown _ => true
  | .watchdogSample _ _ => true
  | .sessionOpen _ _ _ => true
  | .sessionPeerGone _ _ => true
  | .sessionRouteTimeout _ _ => true
  | .sessionSettled _ _ => true
  | .reqMsg _ => true
  | .trainMsg _ => true
  | .tailMsg _ => true
  | .dataMsg _ => true
  | .rdataMsg _ => true
  | .tkreqMsg _ => true
  | .tkcallMsg _ => true
  | .noteMsg _ => true
  | .doneMsg _ => true
  | .retMsg _ => true
  | .closeMsg _ => true
  | .reservedMessage _ => true
  | .retSend _ _ => true
  | .ualinkRead _ => true
  | .ualinkWrite _ => true
  | .ualinkAtomic _ => true
  | .ualinkCompletion _ => true
  | .ticketCall _ _ => true
  | .ticketTimeout _ _ _ => true
  | .illegalWord _ => true
  | .linkLevelReplay _ _ => true
  | .softError _ _ => true
  | .tsvGroupMarkedFailed _ _ _ => true
  | .clearingComplete _ => true

/-- The instruction is one of the words of the table, not an event. -/
def Instr.isWord : Instr → Bool
  | .add _ _ _ => true
  | .sub _ _ _ => true
  | .and _ _ _ => true
  | .or _ _ _ => true
  | .xor _ _ _ => true
  | .andn _ _ _ => true
  | .sll _ _ _ => true
  | .srl _ _ _ => true
  | .sra _ _ _ => true
  | .rol _ _ _ => true
  | .ror _ _ _ => true
  | .slt _ _ _ => true
  | .sltn _ _ _ => true
  | .min _ _ _ => true
  | .max _ _ _ => true
  | .minn _ _ _ => true
  | .maxn _ _ _ => true
  | .mul _ _ _ => true
  | .mulh _ _ _ => true
  | .mulhn _ _ _ => true
  | .div _ _ _ => true
  | .divn _ _ _ => true
  | .rem _ _ _ => true
  | .remn _ _ _ => true
  | .clz _ _ => true
  | .ctz _ _ => true
  | .popc _ _ => true
  | .brev _ _ => true
  | .addi _ _ _ => true
  | .andi _ _ _ => true
  | .ori _ _ _ => true
  | .xori _ _ _ => true
  | .slli _ _ _ => true
  | .srli _ _ _ => true
  | .srai _ _ _ => true
  | .slti _ _ _ => true
  | .lui _ _ => true
  | .auipc _ _ => true
  | .beq _ _ _ => true
  | .bne _ _ _ => true
  | .blt _ _ _ => true
  | .bge _ _ _ => true
  | .bltn _ _ _ => true
  | .bgen _ _ _ => true
  | .jal _ _ => true
  | .jalr _ _ _ => true
  | .jtab _ _ _ _ => true
  | .waitc _ _ _ _ => true
  | .fork _ _ => true
  | .rdv => true
  | .rdcyc _ => true
  | .loop _ _ => true
  | .endloop _ => true
  | .ld _ _ _ _ _ => true
  | .st _ _ _ _ _ => true
  | .trap _ => true
  | .eret => true
  | .sysc _ => true
  | .brk => true
  | .wfe _ _ => true
  | .halth => true
  | .csrr _ _ => true
  | .csrw _ _ => true
  | .csrset _ _ => true
  | .csrclr _ _ => true
  | .vadd _ _ _ _ _ _ => true
  | .vsub _ _ _ _ _ _ => true
  | .vmul _ _ _ _ _ _ => true
  | .vmulh _ _ _ _ _ _ => true
  | .vmin _ _ _ _ _ _ => true
  | .vmax _ _ _ _ _ _ => true
  | .vminn _ _ _ _ _ _ => true
  | .vmaxn _ _ _ _ _ _ => true
  | .vand _ _ _ _ _ _ => true
  | .vor _ _ _ _ _ _ => true
  | .vxor _ _ _ _ _ _ => true
  | .vsll _ _ _ _ _ _ => true
  | .vsrl _ _ _ _ _ _ => true
  | .vsra _ _ _ _ _ _ => true
  | .vadds _ _ _ _ _ _ => true
  | .vsubs _ _ _ _ _ _ => true
  | .vwaddI8 _ _ _ _ _ => true
  | .vwaddI16 _ _ _ _ _ => true
  | .vwaddI32 _ _ _ _ _ => true
  | .vwaddN8 _ _ _ _ _ => true
  | .vwaddN16 _ _ _ _ _ => true
  | .vwaddN32 _ _ _ _ _ => true
  | .vwmacI8 _ _ _ _ _ => true
  | .vwmacI16 _ _ _ _ _ => true
  | .vfaddF64 _ _ _ _ _ => true
  | .vfsubF64 _ _ _ _ _ => true
  | .vfmulF64 _ _ _ _ _ => true
  | .vfmaF64 _ _ _ _ _ => true
  | .vfminF64 _ _ _ _ _ => true
  | .vfmaxF64 _ _ _ _ _ => true
  | .vfdivF64 _ _ _ _ _ => true
  | .vfsqrtF64 _ _ _ => true
  | .vfaddF32 _ _ _ _ _ => true
  | .vfsubF32 _ _ _ _ _ => true
  | .vfmulF32 _ _ _ _ _ => true
  | .vfmaF32 _ _ _ _ _ => true
  | .vfminF32 _ _ _ _ _ => true
  | .vfmaxF32 _ _ _ _ _ => true
  | .vfdivF32 _ _ _ _ _ => true
  | .vfsqrtF32 _ _ _ => true
  | .vfaddBf16 _ _ _ _ _ => true
  | .vfsubBf16 _ _ _ _ _ => true
  | .vfmulBf16 _ _ _ _ _ => true
  | .vfmaBf16 _ _ _ _ _ => true
  | .vfminBf16 _ _ _ _ _ => true
  | .vfmaxBf16 _ _ _ _ _ => true
  | .vfdivBf16 _ _ _ _ _ => true
  | .vfsqrtBf16 _ _ _ => true
  | .vfaddF16 _ _ _ _ _ => true
  | .vfsubF16 _ _ _ _ _ => true
  | .vfmulF16 _ _ _ _ _ => true
  | .vfmaF16 _ _ _ _ _ => true
  | .vfminF16 _ _ _ _ _ => true
  | .vfmaxF16 _ _ _ _ _ => true
  | .vfdivF16 _ _ _ _ _ => true
  | .vfsqrtF16 _ _ _ => true
  | .vfrecip _ _ _ => true
  | .vfrsqrt _ _ _ => true
  | .vfexp2 _ _ _ => true
  | .vflog2 _ _ _ => true
  | .vfabs _ _ _ => true
  | .vfneg _ _ _ => true
  | .vfclass _ _ _ => true
  | .vfsgnj _ _ _ _ _ => true
  | .vcmpeqI8 _ _ _ _ _ => true
  | .vcmpneI8 _ _ _ _ _ => true
  | .vcmpltI8 _ _ _ _ _ => true
  | .vcmpleI8 _ _ _ _ _ => true
  | .vcmpltnI8 _ _ _ _ _ => true
  | .vcmplenI8 _ _ _ _ _ => true
  | .vboundI8 _ _ _ => true
  | .vcmpeqI16 _ _ _ _ _ => true
  | .vcmpneI16 _ _ _ _ _ => true
  | .vcmpltI16 _ _ _ _ _ => true
  | .vcmpleI16 _ _ _ _ _ => true
  | .vcmpltnI16 _ _ _ _ _ => true
  | .vcmplenI16 _ _ _ _ _ => true
  | .vboundI16 _ _ _ => true
  | .vcmpeqI32 _ _ _ _ _ => true
  | .vcmpneI32 _ _ _ _ _ => true
  | .vcmpltI32 _ _ _ _ _ => true
  | .vcmpleI32 _ _ _ _ _ => true
  | .vcmpltnI32 _ _ _ _ _ => true
  | .vcmplenI32 _ _ _ _ _ => true
  | .vboundI32 _ _ _ => true
  | .vcmpeqI64 _ _ _ _ _ => true
  | .vcmpneI64 _ _ _ _ _ => true
  | .vcmpltI64 _ _ _ _ _ => true
  | .vcmpleI64 _ _ _ _ _ => true
  | .vcmpltnI64 _ _ _ _ _ => true
  | .vcmplenI64 _ _ _ _ _ => true
  | .vboundI64 _ _ _ => true
  | .vfcmpeqF32 _ _ _ _ _ => true
  | .vfcmpltF32 _ _ _ _ _ => true
  | .vfcmpleF32 _ _ _ _ _ => true
  | .vfcmpunF32 _ _ _ _ _ => true
  | .vfcmpeqF64 _ _ _ _ _ => true
  | .vfcmpltF64 _ _ _ _ _ => true
  | .vfcmpleF64 _ _ _ _ _ => true
  | .vfcmpunF64 _ _ _ _ _ => true
  | .mand _ _ _ _ => true
  | .mor _ _ _ _ => true
  | .mxor _ _ _ _ => true
  | .mandn _ _ _ _ => true
  | .mnot _ _ _ => true
  | .mpopc _ _ _ => true
  | .mfirst _ _ _ => true
  | .msetvl _ _ _ => true
  | .vpermx _ _ _ _ _ => true
  | .vslideup _ _ _ _ => true
  | .vslidedn _ _ _ _ => true
  | .vcompress _ _ _ => true
  | .vexpand _ _ _ => true
  | .vbcast _ _ _ _ => true
  | .vextr _ _ _ => true
  | .vins _ _ _ => true
  | .vscanI32 _ _ _ => true
  | .vscanI64 _ _ _ => true
  | .vscanF32 _ _ _ => true
  | .vredsumI32 _ _ _ => true
  | .vredsumI64 _ _ _ => true
  | .vredsumF32 _ _ _ => true
  | .vredmaxI32 _ _ _ => true
  | .vredmaxF32 _ _ _ => true
  | .vcvt _ _ _ _ _ _ => true
  | .vhad _ _ _ _ => true
  | .vhadc _ _ => true
  | .vcvtb _ _ _ => true
  | .vgauss _ _ _ _ => true
  | .vld _ _ _ _ => true
  | .vlds _ _ _ _ _ => true
  | .vldx _ _ _ _ _ => true
  | .vldff _ _ _ _ => true
  | .vst _ _ _ _ => true
  | .vsts _ _ _ _ _ => true
  | .vstx _ _ _ _ _ => true
  | .vstxadd _ _ _ _ _ => true
  | .vfetch _ => true
  | .tfetch _ _ => true
  | .stop => true
  | .vjoin => true
  | .vrelease => true
  | .vloop _ => true
  | .vagain => true
  | .setvl _ _ _ => true
  | .setvli _ _ _ _ => true
  | .ropen _ _ _ => true
  | .rpub _ _ => true
  | .rseal _ _ => true
  | .rfree _ _ => true
  | .rlen _ _ _ => true
  | .rinfo _ _ _ => true
  | .sbind _ _ _ _ => true
  | .sunbind _ _ => true
  | .sskip _ _ => true
  | .spos _ _ => true
  | .rcopyin _ _ _ => true
  | .rcopyout _ _ _ => true
  | .rcopyrr _ _ _ => true
  | .rfill _ _ _ => true
  | .rsort _ _ => true
  | .rmerge _ _ => true
  | .rpart _ _ => true
  | .rtag _ _ => true
  | .rjoin _ _ => true
  | .vldw _ _ _ _ => true
  | .cset _ _ => true
  | .csnap _ _ _ => true
  | .rcomb _ _ _ => true
  | .nmc _ _ _ _ => true
  | .nmstat _ _ _ => true
  | .scan _ _ => true
  | .scanth _ _ _ => true
  | .opaF64 _ _ _ _ _ => true
  | .opaF32 _ _ _ _ _ => true
  | .opaBf16 _ _ _ _ _ => true
  | .opaF16 _ _ _ _ _ => true
  | .opaE4m3 _ _ _ _ _ => true
  | .opaE5m2 _ _ _ _ _ => true
  | .opaE2m1 _ _ _ _ _ => true
  | .opaI8 _ _ _ _ _ => true
  | .mmsBf16 _ _ _ _ _ => true
  | .mmsE4m3 _ _ _ _ _ => true
  | .mmsE2m1 _ _ _ _ _ => true
  | .mmsI8 _ _ _ _ _ => true
  | .mmspBf16 _ _ _ _ _ => true
  | .mmspE4m3 _ _ _ _ _ => true
  | .mmssBf16 _ _ _ _ _ => true
  | .mmssE4m3 _ _ _ _ _ => true
  | .scacc _ _ _ _ _ => true
  | .tzero _ _ _ _ => true
  | .tmov _ _ _ _ => true
  | .trd _ _ _ _ _ => true
  | .twr _ _ _ _ => true
  | .tst _ _ _ _ _ => true
  | .tldt _ _ _ _ _ => true
  | .osld _ _ _ => true
  | .osmeta _ _ _ => true
  | .hnew _ _ => true
  | .hfork _ _ => true
  | .hjoin _ _ _ => true
  | .hret _ => true
  | .hwait _ => true
  | .hscope _ _ _ => true
  | .hexp _ _ => true
  | .himp _ _ => true
  | .amoadd _ _ _ _ _ => true
  | .amoand _ _ _ _ _ => true
  | .amoor _ _ _ _ _ => true
  | .amoxor _ _ _ _ _ => true
  | .amomin _ _ _ _ _ => true
  | .amomax _ _ _ _ _ => true
  | .amominn _ _ _ _ _ => true
  | .amomaxn _ _ _ _ _ => true
  | .amoswap _ _ _ _ _ => true
  | .amocas _ _ _ _ _ => true
  | .launch _ _ _ _ => true
  | .kstat _ _ _ => true
  | .claim _ _ _ _ => true
  | .semacq _ _ _ _ => true
  | .semrel _ _ _ => true
  | .semrd _ _ _ => true
  | .ginfo _ _ => true
  | .gexit => true
  | .hyield _ => true
  | .barinit _ _ => true
  | .bararr _ _ _ => true
  | .barwait _ _ _ => true
  | .bararw _ _ _ => true
  | .barq _ _ => true
  | .xsend _ _ _ => true
  | .xticket _ _ _ _ => true
  | .xtkwait _ _ _ => true
  | .xpass _ _ _ => true
  | .xnote _ _ _ => true
  | .xquery _ _ _ => true
  | _ => false

end Sys2Proof
end

