-- ==== Sys2Proof/Decode.lean ====
section
/-!
DEFINITION. The decoder and the encoder of instruction words (R31, R32, R39, R40). `decodeFields` reads the fields
that the opcode map gives; `decode` then refuses, by name, a word with a nonzero unused field or a field value that
the spec marks illegal. (`noncomputable`: Lean's runtime has no tags for an inductive of more than 244 constructors
with fields; the kernel evaluates all of it.)
-/

noncomputable section

namespace Sys2Proof

/-- Why bytes are no instruction (R40). -/
inductive DecodeError
  /-- Fewer than four bytes are left. -/
  | short
  /-- The major is 0x00, 0x7F or reserved, or its function value is not listed. -/
  | unlisted
  /-- A field that the instruction does not use is not zero. -/
  | unusedField
  /-- A field holds a value that the spec marks illegal or reserved. -/
  | illegalField
  deriving DecidableEq, Repr

/-- The `k`-bit field of `n` whose lowest bit is bit `lo`. -/
def fld (k n lo : Nat) : BitVec k := BitVec.ofNat k (n / 2 ^ lo)

/-- The word of an instruction: the sum of its fields shifted into place (R32); an event has no word. -/
def encode : Instr → IWord
  | .add d a b => BitVec.ofNat 32 (1 + d.toNat * 128 + a.toNat * 4096 + b.toNat * 131072)
  | .sub d a b => BitVec.ofNat 32 (4194305 + d.toNat * 128 + a.toNat * 4096 + b.toNat * 131072)
  | .and d a b => BitVec.ofNat 32 (8388609 + d.toNat * 128 + a.toNat * 4096 + b.toNat * 131072)
  | .or d a b => BitVec.ofNat 32 (12582913 + d.toNat * 128 + a.toNat * 4096 + b.toNat * 131072)
  | .xor d a b => BitVec.ofNat 32 (16777217 + d.toNat * 128 + a.toNat * 4096 + b.toNat * 131072)
  | .andn d a b => BitVec.ofNat 32 (20971521 + d.toNat * 128 + a.toNat * 4096 + b.toNat * 131072)
  | .sll d a b => BitVec.ofNat 32 (25165825 + d.toNat * 128 + a.toNat * 4096 + b.toNat * 131072)
  | .srl d a b => BitVec.ofNat 32 (29360129 + d.toNat * 128 + a.toNat * 4096 + b.toNat * 131072)
  | .sra d a b => BitVec.ofNat 32 (33554433 + d.toNat * 128 + a.toNat * 4096 + b.toNat * 131072)
  | .rol d a b => BitVec.ofNat 32 (37748737 + d.toNat * 128 + a.toNat * 4096 + b.toNat * 131072)
  | .ror d a b => BitVec.ofNat 32 (41943041 + d.toNat * 128 + a.toNat * 4096 + b.toNat * 131072)
  | .slt d a b => BitVec.ofNat 32 (46137345 + d.toNat * 128 + a.toNat * 4096 + b.toNat * 131072)
  | .sltn d a b => BitVec.ofNat 32 (50331649 + d.toNat * 128 + a.toNat * 4096 + b.toNat * 131072)
  | .min d a b => BitVec.ofNat 32 (54525953 + d.toNat * 128 + a.toNat * 4096 + b.toNat * 131072)
  | .max d a b => BitVec.ofNat 32 (58720257 + d.toNat * 128 + a.toNat * 4096 + b.toNat * 131072)
  | .minn d a b => BitVec.ofNat 32 (62914561 + d.toNat * 128 + a.toNat * 4096 + b.toNat * 131072)
  | .maxn d a b => BitVec.ofNat 32 (67108865 + d.toNat * 128 + a.toNat * 4096 + b.toNat * 131072)
  | .mul d a b => BitVec.ofNat 32 (2 + d.toNat * 128 + a.toNat * 4096 + b.toNat * 131072)
  | .mulh d a b => BitVec.ofNat 32 (4194306 + d.toNat * 128 + a.toNat * 4096 + b.toNat * 131072)
  | .mulhn d a b => BitVec.ofNat 32 (8388610 + d.toNat * 128 + a.toNat * 4096 + b.toNat * 131072)
  | .div d a b => BitVec.ofNat 32 (12582914 + d.toNat * 128 + a.toNat * 4096 + b.toNat * 131072)
  | .divn d a b => BitVec.ofNat 32 (16777218 + d.toNat * 128 + a.toNat * 4096 + b.toNat * 131072)
  | .rem d a b => BitVec.ofNat 32 (20971522 + d.toNat * 128 + a.toNat * 4096 + b.toNat * 131072)
  | .remn d a b => BitVec.ofNat 32 (25165826 + d.toNat * 128 + a.toNat * 4096 + b.toNat * 131072)
  | .clz d a => BitVec.ofNat 32 (29360130 + d.toNat * 128 + a.toNat * 4096)
  | .ctz d a => BitVec.ofNat 32 (33554434 + d.toNat * 128 + a.toNat * 4096)
  | .popc d a => BitVec.ofNat 32 (37748738 + d.toNat * 128 + a.toNat * 4096)
  | .brev d a => BitVec.ofNat 32 (41943042 + d.toNat * 128 + a.toNat * 4096)
  | .addi d a i => BitVec.ofNat 32 (3 + d.toNat * 128 + a.toNat * 4096 + i.toNat * 131072)
  | .andi d a i => BitVec.ofNat 32 (4 + d.toNat * 128 + a.toNat * 4096 + i.toNat * 131072)
  | .ori d a i => BitVec.ofNat 32 (5 + d.toNat * 128 + a.toNat * 4096 + i.toNat * 131072)
  | .xori d a i => BitVec.ofNat 32 (6 + d.toNat * 128 + a.toNat * 4096 + i.toNat * 131072)
  | .slli d a n => BitVec.ofNat 32 (7 + d.toNat * 128 + a.toNat * 4096 + n.toNat * 131072)
  | .srli d a n => BitVec.ofNat 32 (8 + d.toNat * 128 + a.toNat * 4096 + n.toNat * 131072)
  | .srai d a n => BitVec.ofNat 32 (9 + d.toNat * 128 + a.toNat * 4096 + n.toNat * 131072)
  | .slti d a i => BitVec.ofNat 32 (10 + d.toNat * 128 + a.toNat * 4096 + i.toNat * 131072)
  | .lui d i => BitVec.ofNat 32 (11 + d.toNat * 128 + i.toNat * 4096)
  | .auipc d i => BitVec.ofNat 32 (12 + d.toNat * 128 + i.toNat * 4096)
  | .beq a b o => BitVec.ofNat 32 (13 + a.toNat * 128 + b.toNat * 4096 + o.toNat * 131072)
  | .bne a b o => BitVec.ofNat 32 (14 + a.toNat * 128 + b.toNat * 4096 + o.toNat * 131072)
  | .blt a b o => BitVec.ofNat 32 (15 + a.toNat * 128 + b.toNat * 4096 + o.toNat * 131072)
  | .bge a b o => BitVec.ofNat 32 (16 + a.toNat * 128 + b.toNat * 4096 + o.toNat * 131072)
  | .bltn a b o => BitVec.ofNat 32 (17 + a.toNat * 128 + b.toNat * 4096 + o.toNat * 131072)
  | .bgen a b o => BitVec.ofNat 32 (18 + a.toNat * 128 + b.toNat * 4096 + o.toNat * 131072)
  | .jal d o => BitVec.ofNat 32 (19 + d.toNat * 128 + o.toNat * 4096)
  | .jalr d a i => BitVec.ofNat 32 (20 + d.toNat * 128 + a.toNat * 4096 + i.toNat * 131072)
  | .jtab d a b n => BitVec.ofNat 32 (21 + d.toNat * 128 + a.toNat * 4096 + b.toNat * 131072 + n.toNat * 4194304)
  | .waitc s c l t => BitVec.ofNat 32 (22 + l.toNat * 128 + s.toNat * 4096 + c.toNat * 131072 + t.toNat * 4194304)
  | .fork a b => BitVec.ofNat 32 (23 + a.toNat * 4096 + b.toNat * 131072)
  | .rdv => BitVec.ofNat 32 (4194327)
  | .rdcyc d => BitVec.ofNat 32 (8388631 + d.toNat * 128)
  | .loop a c => BitVec.ofNat 32 (12582935 + c.toNat * 128 + a.toNat * 4096)
  | .endloop c => BitVec.ofNat 32 (16777239 + c.toNat * 128)
  | .ld d b i w h => BitVec.ofNat 32 (24 + d.toNat * 128 + b.toNat * 4096 + h.toNat * 131072 + w.toNat * 2097152 + i.toNat * 16777216)
  | .st d b i w h => BitVec.ofNat 32 (25 + d.toNat * 128 + b.toNat * 4096 + h.toNat * 131072 + w.toNat * 2097152 + i.toNat * 16777216)
  | .trap a => BitVec.ofNat 32 (28 + a.toNat * 4096)
  | .eret => BitVec.ofNat 32 (4194332)
  | .sysc a => BitVec.ofNat 32 (8388636 + a.toNat * 4096)
  | .brk => BitVec.ofNat 32 (12582940)
  | .wfe d a => BitVec.ofNat 32 (16777244 + d.toNat * 128 + a.toNat * 4096)
  | .halth => BitVec.ofNat 32 (20971548)
  | .csrr d c => BitVec.ofNat 32 (29 + d.toNat * 128 + c.toNat * 131072)
  | .csrw a c => BitVec.ofNat 32 (536870941 + a.toNat * 4096 + c.toNat * 131072)
  | .csrset a c => BitVec.ofNat 32 (1073741853 + a.toNat * 4096 + c.toNat * 131072)
  | .csrclr a c => BitVec.ofNat 32 (1610612765 + a.toNat * 4096 + c.toNat * 131072)
  | .vadd d a b n m t => BitVec.ofNat 32 (32 + t.toNat * 1 + d.toNat * 128 + a.toNat * 4096 + b.toNat * 131072 + m.toNat * 4194304 + n.toNat * 134217728)
  | .vsub d a b n m t => BitVec.ofNat 32 (536870944 + t.toNat * 1 + d.toNat * 128 + a.toNat * 4096 + b.toNat * 131072 + m.toNat * 4194304 + n.toNat * 134217728)
  | .vmul d a b n m t => BitVec.ofNat 32 (1073741856 + t.toNat * 1 + d.toNat * 128 + a.toNat * 4096 + b.toNat * 131072 + m.toNat * 4194304 + n.toNat * 134217728)
  | .vmulh d a b n m t => BitVec.ofNat 32 (1610612768 + t.toNat * 1 + d.toNat * 128 + a.toNat * 4096 + b.toNat * 131072 + m.toNat * 4194304 + n.toNat * 134217728)
  | .vmin d a b n m t => BitVec.ofNat 32 (2147483680 + t.toNat * 1 + d.toNat * 128 + a.toNat * 4096 + b.toNat * 131072 + m.toNat * 4194304 + n.toNat * 134217728)
  | .vmax d a b n m t => BitVec.ofNat 32 (2684354592 + t.toNat * 1 + d.toNat * 128 + a.toNat * 4096 + b.toNat * 131072 + m.toNat * 4194304 + n.toNat * 134217728)
  | .vminn d a b n m t => BitVec.ofNat 32 (3221225504 + t.toNat * 1 + d.toNat * 128 + a.toNat * 4096 + b.toNat * 131072 + m.toNat * 4194304 + n.toNat * 134217728)
  | .vmaxn d a b n m t => BitVec.ofNat 32 (3758096416 + t.toNat * 1 + d.toNat * 128 + a.toNat * 4096 + b.toNat * 131072 + m.toNat * 4194304 + n.toNat * 134217728)
  | .vand d a b n m t => BitVec.ofNat 32 (36 + t.toNat * 1 + d.toNat * 128 + a.toNat * 4096 + b.toNat * 131072 + m.toNat * 4194304 + n.toNat * 134217728)
  | .vor d a b n m t => BitVec.ofNat 32 (536870948 + t.toNat * 1 + d.toNat * 128 + a.toNat * 4096 + b.toNat * 131072 + m.toNat * 4194304 + n.toNat * 134217728)
  | .vxor d a b n m t => BitVec.ofNat 32 (1073741860 + t.toNat * 1 + d.toNat * 128 + a.toNat * 4096 + b.toNat * 131072 + m.toNat * 4194304 + n.toNat * 134217728)
  | .vsll d a b n m t => BitVec.ofNat 32 (1610612772 + t.toNat * 1 + d.toNat * 128 + a.toNat * 4096 + b.toNat * 131072 + m.toNat * 4194304 + n.toNat * 134217728)
  | .vsrl d a b n m t => BitVec.ofNat 32 (2147483684 + t.toNat * 1 + d.toNat * 128 + a.toNat * 4096 + b.toNat * 131072 + m.toNat * 4194304 + n.toNat * 134217728)
  | .vsra d a b n m t => BitVec.ofNat 32 (2684354596 + t.toNat * 1 + d.toNat * 128 + a.toNat * 4096 + b.toNat * 131072 + m.toNat * 4194304 + n.toNat * 134217728)
  | .vadds d a b n m t => BitVec.ofNat 32 (3221225508 + t.toNat * 1 + d.toNat * 128 + a.toNat * 4096 + b.toNat * 131072 + m.toNat * 4194304 + n.toNat * 134217728)
  | .vsubs d a b n m t => BitVec.ofNat 32 (3758096420 + t.toNat * 1 + d.toNat * 128 + a.toNat * 4096 + b.toNat * 131072 + m.toNat * 4194304 + n.toNat * 134217728)
  | .vwaddI8 d a b n m => BitVec.ofNat 32 (40 + d.toNat * 128 + a.toNat * 4096 + b.toNat * 131072 + m.toNat * 4194304 + n.toNat * 134217728)
  | .vwaddI16 d a b n m => BitVec.ofNat 32 (536870952 + d.toNat * 128 + a.toNat * 4096 + b.toNat * 131072 + m.toNat * 4194304 + n.toNat * 134217728)
  | .vwaddI32 d a b n m => BitVec.ofNat 32 (1073741864 + d.toNat * 128 + a.toNat * 4096 + b.toNat * 131072 + m.toNat * 4194304 + n.toNat * 134217728)
  | .vwaddN8 d a b n m => BitVec.ofNat 32 (1610612776 + d.toNat * 128 + a.toNat * 4096 + b.toNat * 131072 + m.toNat * 4194304 + n.toNat * 134217728)
  | .vwaddN16 d a b n m => BitVec.ofNat 32 (2147483688 + d.toNat * 128 + a.toNat * 4096 + b.toNat * 131072 + m.toNat * 4194304 + n.toNat * 134217728)
  | .vwaddN32 d a b n m => BitVec.ofNat 32 (2684354600 + d.toNat * 128 + a.toNat * 4096 + b.toNat * 131072 + m.toNat * 4194304 + n.toNat * 134217728)
  | .vwmacI8 d a b n m => BitVec.ofNat 32 (3221225512 + d.toNat * 128 + a.toNat * 4096 + b.toNat * 131072 + m.toNat * 4194304 + n.toNat * 134217728)
  | .vwmacI16 d a b n m => BitVec.ofNat 32 (3758096424 + d.toNat * 128 + a.toNat * 4096 + b.toNat * 131072 + m.toNat * 4194304 + n.toNat * 134217728)
  | .vfaddF64 d a b n m => BitVec.ofNat 32 (41 + d.toNat * 128 + a.toNat * 4096 + b.toNat * 131072 + m.toNat * 4194304 + n.toNat * 134217728)
  | .vfsubF64 d a b n m => BitVec.ofNat 32 (536870953 + d.toNat * 128 + a.toNat * 4096 + b.toNat * 131072 + m.toNat * 4194304 + n.toNat * 134217728)
  | .vfmulF64 d a b n m => BitVec.ofNat 32 (1073741865 + d.toNat * 128 + a.toNat * 4096 + b.toNat * 131072 + m.toNat * 4194304 + n.toNat * 134217728)
  | .vfmaF64 d a b n m => BitVec.ofNat 32 (1610612777 + d.toNat * 128 + a.toNat * 4096 + b.toNat * 131072 + m.toNat * 4194304 + n.toNat * 134217728)
  | .vfminF64 d a b n m => BitVec.ofNat 32 (2147483689 + d.toNat * 128 + a.toNat * 4096 + b.toNat * 131072 + m.toNat * 4194304 + n.toNat * 134217728)
  | .vfmaxF64 d a b n m => BitVec.ofNat 32 (2684354601 + d.toNat * 128 + a.toNat * 4096 + b.toNat * 131072 + m.toNat * 4194304 + n.toNat * 134217728)
  | .vfdivF64 d a b n m => BitVec.ofNat 32 (3221225513 + d.toNat * 128 + a.toNat * 4096 + b.toNat * 131072 + m.toNat * 4194304 + n.toNat * 134217728)
  | .vfsqrtF64 d a m => BitVec.ofNat 32 (3758096425 + d.toNat * 128 + a.toNat * 4096 + m.toNat * 4194304)
  | .vfaddF32 d a b n m => BitVec.ofNat 32 (42 + d.toNat * 128 + a.toNat * 4096 + b.toNat * 131072 + m.toNat * 4194304 + n.toNat * 134217728)
  | .vfsubF32 d a b n m => BitVec.ofNat 32 (536870954 + d.toNat * 128 + a.toNat * 4096 + b.toNat * 131072 + m.toNat * 4194304 + n.toNat * 134217728)
  | .vfmulF32 d a b n m => BitVec.ofNat 32 (1073741866 + d.toNat * 128 + a.toNat * 4096 + b.toNat * 131072 + m.toNat * 4194304 + n.toNat * 134217728)
  | .vfmaF32 d a b n m => BitVec.ofNat 32 (1610612778 + d.toNat * 128 + a.toNat * 4096 + b.toNat * 131072 + m.toNat * 4194304 + n.toNat * 134217728)
  | .vfminF32 d a b n m => BitVec.ofNat 32 (2147483690 + d.toNat * 128 + a.toNat * 4096 + b.toNat * 131072 + m.toNat * 4194304 + n.toNat * 134217728)
  | .vfmaxF32 d a b n m => BitVec.ofNat 32 (2684354602 + d.toNat * 128 + a.toNat * 4096 + b.toNat * 131072 + m.toNat * 4194304 + n.toNat * 134217728)
  | .vfdivF32 d a b n m => BitVec.ofNat 32 (3221225514 + d.toNat * 128 + a.toNat * 4096 + b.toNat * 131072 + m.toNat * 4194304 + n.toNat * 134217728)
  | .vfsqrtF32 d a m => BitVec.ofNat 32 (3758096426 + d.toNat * 128 + a.toNat * 4096 + m.toNat * 4194304)
  | .vfaddBf16 d a b n m => BitVec.ofNat 32 (43 + d.toNat * 128 + a.toNat * 4096 + b.toNat * 131072 + m.toNat * 4194304 + n.toNat * 134217728)
  | .vfsubBf16 d a b n m => BitVec.ofNat 32 (536870955 + d.toNat * 128 + a.toNat * 4096 + b.toNat * 131072 + m.toNat * 4194304 + n.toNat * 134217728)
  | .vfmulBf16 d a b n m => BitVec.ofNat 32 (1073741867 + d.toNat * 128 + a.toNat * 4096 + b.toNat * 131072 + m.toNat * 4194304 + n.toNat * 134217728)
  | .vfmaBf16 d a b n m => BitVec.ofNat 32 (1610612779 + d.toNat * 128 + a.toNat * 4096 + b.toNat * 131072 + m.toNat * 4194304 + n.toNat * 134217728)
  | .vfminBf16 d a b n m => BitVec.ofNat 32 (2147483691 + d.toNat * 128 + a.toNat * 4096 + b.toNat * 131072 + m.toNat * 4194304 + n.toNat * 134217728)
  | .vfmaxBf16 d a b n m => BitVec.ofNat 32 (2684354603 + d.toNat * 128 + a.toNat * 4096 + b.toNat * 131072 + m.toNat * 4194304 + n.toNat * 134217728)
  | .vfdivBf16 d a b n m => BitVec.ofNat 32 (3221225515 + d.toNat * 128 + a.toNat * 4096 + b.toNat * 131072 + m.toNat * 4194304 + n.toNat * 134217728)
  | .vfsqrtBf16 d a m => BitVec.ofNat 32 (3758096427 + d.toNat * 128 + a.toNat * 4096 + m.toNat * 4194304)
  | .vfaddF16 d a b n m => BitVec.ofNat 32 (44 + d.toNat * 128 + a.toNat * 4096 + b.toNat * 131072 + m.toNat * 4194304 + n.toNat * 134217728)
  | .vfsubF16 d a b n m => BitVec.ofNat 32 (536870956 + d.toNat * 128 + a.toNat * 4096 + b.toNat * 131072 + m.toNat * 4194304 + n.toNat * 134217728)
  | .vfmulF16 d a b n m => BitVec.ofNat 32 (1073741868 + d.toNat * 128 + a.toNat * 4096 + b.toNat * 131072 + m.toNat * 4194304 + n.toNat * 134217728)
  | .vfmaF16 d a b n m => BitVec.ofNat 32 (1610612780 + d.toNat * 128 + a.toNat * 4096 + b.toNat * 131072 + m.toNat * 4194304 + n.toNat * 134217728)
  | .vfminF16 d a b n m => BitVec.ofNat 32 (2147483692 + d.toNat * 128 + a.toNat * 4096 + b.toNat * 131072 + m.toNat * 4194304 + n.toNat * 134217728)
  | .vfmaxF16 d a b n m => BitVec.ofNat 32 (2684354604 + d.toNat * 128 + a.toNat * 4096 + b.toNat * 131072 + m.toNat * 4194304 + n.toNat * 134217728)
  | .vfdivF16 d a b n m => BitVec.ofNat 32 (3221225516 + d.toNat * 128 + a.toNat * 4096 + b.toNat * 131072 + m.toNat * 4194304 + n.toNat * 134217728)
  | .vfsqrtF16 d a m => BitVec.ofNat 32 (3758096428 + d.toNat * 128 + a.toNat * 4096 + m.toNat * 4194304)
  | .vfrecip d a m => BitVec.ofNat 32 (45 + d.toNat * 128 + a.toNat * 4096 + m.toNat * 4194304)
  | .vfrsqrt d a m => BitVec.ofNat 32 (536870957 + d.toNat * 128 + a.toNat * 4096 + m.toNat * 4194304)
  | .vfexp2 d a m => BitVec.ofNat 32 (1073741869 + d.toNat * 128 + a.toNat * 4096 + m.toNat * 4194304)
  | .vflog2 d a m => BitVec.ofNat 32 (1610612781 + d.toNat * 128 + a.toNat * 4096 + m.toNat * 4194304)
  | .vfabs d a m => BitVec.ofNat 32 (2147483693 + d.toNat * 128 + a.toNat * 4096 + m.toNat * 4194304)
  | .vfneg d a m => BitVec.ofNat 32 (2684354605 + d.toNat * 128 + a.toNat * 4096 + m.toNat * 4194304)
  | .vfclass d a m => BitVec.ofNat 32 (3221225517 + d.toNat * 128 + a.toNat * 4096 + m.toNat * 4194304)
  | .vfsgnj d a b n m => BitVec.ofNat 32 (3758096429 + d.toNat * 128 + a.toNat * 4096 + b.toNat * 131072 + m.toNat * 4194304 + n.toNat * 134217728)
  | .vcmpeqI8 d a b n m => BitVec.ofNat 32 (46 + d.toNat * 128 + a.toNat * 4096 + b.toNat * 131072 + m.toNat * 4194304 + n.toNat * 134217728)
  | .vcmpneI8 d a b n m => BitVec.ofNat 32 (536870958 + d.toNat * 128 + a.toNat * 4096 + b.toNat * 131072 + m.toNat * 4194304 + n.toNat * 134217728)
  | .vcmpltI8 d a b n m => BitVec.ofNat 32 (1073741870 + d.toNat * 128 + a.toNat * 4096 + b.toNat * 131072 + m.toNat * 4194304 + n.toNat * 134217728)
  | .vcmpleI8 d a b n m => BitVec.ofNat 32 (1610612782 + d.toNat * 128 + a.toNat * 4096 + b.toNat * 131072 + m.toNat * 4194304 + n.toNat * 134217728)
  | .vcmpltnI8 d a b n m => BitVec.ofNat 32 (2147483694 + d.toNat * 128 + a.toNat * 4096 + b.toNat * 131072 + m.toNat * 4194304 + n.toNat * 134217728)
  | .vcmplenI8 d a b n m => BitVec.ofNat 32 (2684354606 + d.toNat * 128 + a.toNat * 4096 + b.toNat * 131072 + m.toNat * 4194304 + n.toNat * 134217728)
  | .vboundI8 d b m => BitVec.ofNat 32 (3221225518 + d.toNat * 128 + b.toNat * 131072 + m.toNat * 4194304)
  | .vcmpeqI16 d a b n m => BitVec.ofNat 32 (47 + d.toNat * 128 + a.toNat * 4096 + b.toNat * 131072 + m.toNat * 4194304 + n.toNat * 134217728)
  | .vcmpneI16 d a b n m => BitVec.ofNat 32 (536870959 + d.toNat * 128 + a.toNat * 4096 + b.toNat * 131072 + m.toNat * 4194304 + n.toNat * 134217728)
  | .vcmpltI16 d a b n m => BitVec.ofNat 32 (1073741871 + d.toNat * 128 + a.toNat * 4096 + b.toNat * 131072 + m.toNat * 4194304 + n.toNat * 134217728)
  | .vcmpleI16 d a b n m => BitVec.ofNat 32 (1610612783 + d.toNat * 128 + a.toNat * 4096 + b.toNat * 131072 + m.toNat * 4194304 + n.toNat * 134217728)
  | .vcmpltnI16 d a b n m => BitVec.ofNat 32 (2147483695 + d.toNat * 128 + a.toNat * 4096 + b.toNat * 131072 + m.toNat * 4194304 + n.toNat * 134217728)
  | .vcmplenI16 d a b n m => BitVec.ofNat 32 (2684354607 + d.toNat * 128 + a.toNat * 4096 + b.toNat * 131072 + m.toNat * 4194304 + n.toNat * 134217728)
  | .vboundI16 d b m => BitVec.ofNat 32 (3221225519 + d.toNat * 128 + b.toNat * 131072 + m.toNat * 4194304)
  | .vcmpeqI32 d a b n m => BitVec.ofNat 32 (48 + d.toNat * 128 + a.toNat * 4096 + b.toNat * 131072 + m.toNat * 4194304 + n.toNat * 134217728)
  | .vcmpneI32 d a b n m => BitVec.ofNat 32 (536870960 + d.toNat * 128 + a.toNat * 4096 + b.toNat * 131072 + m.toNat * 4194304 + n.toNat * 134217728)
  | .vcmpltI32 d a b n m => BitVec.ofNat 32 (1073741872 + d.toNat * 128 + a.toNat * 4096 + b.toNat * 131072 + m.toNat * 4194304 + n.toNat * 134217728)
  | .vcmpleI32 d a b n m => BitVec.ofNat 32 (1610612784 + d.toNat * 128 + a.toNat * 4096 + b.toNat * 131072 + m.toNat * 4194304 + n.toNat * 134217728)
  | .vcmpltnI32 d a b n m => BitVec.ofNat 32 (2147483696 + d.toNat * 128 + a.toNat * 4096 + b.toNat * 131072 + m.toNat * 4194304 + n.toNat * 134217728)
  | .vcmplenI32 d a b n m => BitVec.ofNat 32 (2684354608 + d.toNat * 128 + a.toNat * 4096 + b.toNat * 131072 + m.toNat * 4194304 + n.toNat * 134217728)
  | .vboundI32 d b m => BitVec.ofNat 32 (3221225520 + d.toNat * 128 + b.toNat * 131072 + m.toNat * 4194304)
  | .vcmpeqI64 d a b n m => BitVec.ofNat 32 (49 + d.toNat * 128 + a.toNat * 4096 + b.toNat * 131072 + m.toNat * 4194304 + n.toNat * 134217728)
  | .vcmpneI64 d a b n m => BitVec.ofNat 32 (536870961 + d.toNat * 128 + a.toNat * 4096 + b.toNat * 131072 + m.toNat * 4194304 + n.toNat * 134217728)
  | .vcmpltI64 d a b n m => BitVec.ofNat 32 (1073741873 + d.toNat * 128 + a.toNat * 4096 + b.toNat * 131072 + m.toNat * 4194304 + n.toNat * 134217728)
  | .vcmpleI64 d a b n m => BitVec.ofNat 32 (1610612785 + d.toNat * 128 + a.toNat * 4096 + b.toNat * 131072 + m.toNat * 4194304 + n.toNat * 134217728)
  | .vcmpltnI64 d a b n m => BitVec.ofNat 32 (2147483697 + d.toNat * 128 + a.toNat * 4096 + b.toNat * 131072 + m.toNat * 4194304 + n.toNat * 134217728)
  | .vcmplenI64 d a b n m => BitVec.ofNat 32 (2684354609 + d.toNat * 128 + a.toNat * 4096 + b.toNat * 131072 + m.toNat * 4194304 + n.toNat * 134217728)
  | .vboundI64 d b m => BitVec.ofNat 32 (3221225521 + d.toNat * 128 + b.toNat * 131072 + m.toNat * 4194304)
  | .vfcmpeqF32 d a b n m => BitVec.ofNat 32 (50 + d.toNat * 128 + a.toNat * 4096 + b.toNat * 131072 + m.toNat * 4194304 + n.toNat * 134217728)
  | .vfcmpltF32 d a b n m => BitVec.ofNat 32 (536870962 + d.toNat * 128 + a.toNat * 4096 + b.toNat * 131072 + m.toNat * 4194304 + n.toNat * 134217728)
  | .vfcmpleF32 d a b n m => BitVec.ofNat 32 (1073741874 + d.toNat * 128 + a.toNat * 4096 + b.toNat * 131072 + m.toNat * 4194304 + n.toNat * 134217728)
  | .vfcmpunF32 d a b n m => BitVec.ofNat 32 (1610612786 + d.toNat * 128 + a.toNat * 4096 + b.toNat * 131072 + m.toNat * 4194304 + n.toNat * 134217728)
  | .vfcmpeqF64 d a b n m => BitVec.ofNat 32 (2147483698 + d.toNat * 128 + a.toNat * 4096 + b.toNat * 131072 + m.toNat * 4194304 + n.toNat * 134217728)
  | .vfcmpltF64 d a b n m => BitVec.ofNat 32 (2684354610 + d.toNat * 128 + a.toNat * 4096 + b.toNat * 131072 + m.toNat * 4194304 + n.toNat * 134217728)
  | .vfcmpleF64 d a b n m => BitVec.ofNat 32 (3221225522 + d.toNat * 128 + a.toNat * 4096 + b.toNat * 131072 + m.toNat * 4194304 + n.toNat * 134217728)
  | .vfcmpunF64 d a b n m => BitVec.ofNat 32 (3758096434 + d.toNat * 128 + a.toNat * 4096 + b.toNat * 131072 + m.toNat * 4194304 + n.toNat * 134217728)
  | .mand d a b m => BitVec.ofNat 32 (51 + d.toNat * 128 + a.toNat * 4096 + b.toNat * 131072 + m.toNat * 4194304)
  | .mor d a b m => BitVec.ofNat 32 (536870963 + d.toNat * 128 + a.toNat * 4096 + b.toNat * 131072 + m.toNat * 4194304)
  | .mxor d a b m => BitVec.ofNat 32 (1073741875 + d.toNat * 128 + a.toNat * 4096 + b.toNat * 131072 + m.toNat * 4194304)
  | .mandn d a b m => BitVec.ofNat 32 (1610612787 + d.toNat * 128 + a.toNat * 4096 + b.toNat * 131072 + m.toNat * 4194304)
  | .mnot d a m => BitVec.ofNat 32 (2147483699 + d.toNat * 128 + a.toNat * 4096 + m.toNat * 4194304)
  | .mpopc d a m => BitVec.ofNat 32 (2684354611 + d.toNat * 128 + a.toNat * 4096 + m.toNat * 4194304)
  | .mfirst d a m => BitVec.ofNat 32 (3221225523 + d.toNat * 128 + a.toNat * 4096 + m.toNat * 4194304)
  | .msetvl d a m => BitVec.ofNat 32 (3758096435 + d.toNat * 128 + a.toNat * 4096 + m.toNat * 4194304)
  | .vpermx d a b n m => BitVec.ofNat 32 (52 + d.toNat * 128 + a.toNat * 4096 + b.toNat * 131072 + m.toNat * 4194304 + n.toNat * 134217728)
  | .vslideup d a b m => BitVec.ofNat 32 (536870964 + d.toNat * 128 + a.toNat * 4096 + b.toNat * 131072 + m.toNat * 4194304)
  | .vslidedn d a b m => BitVec.ofNat 32 (1073741876 + d.toNat * 128 + a.toNat * 4096 + b.toNat * 131072 + m.toNat * 4194304)
  | .vcompress d a m => BitVec.ofNat 32 (1610612788 + d.toNat * 128 + a.toNat * 4096 + m.toNat * 4194304)
  | .vexpand d a m => BitVec.ofNat 32 (2147483700 + d.toNat * 128 + a.toNat * 4096 + m.toNat * 4194304)
  | .vbcast d a b m => BitVec.ofNat 32 (2684354612 + d.toNat * 128 + a.toNat * 4096 + b.toNat * 131072 + m.toNat * 4194304)
  | .vextr d a b => BitVec.ofNat 32 (3221225524 + d.toNat * 128 + a.toNat * 4096 + b.toNat * 131072)
  | .vins d a b => BitVec.ofNat 32 (3758096436 + d.toNat * 128 + a.toNat * 4096 + b.toNat * 131072)
  | .vscanI32 d a m => BitVec.ofNat 32 (53 + d.toNat * 128 + a.toNat * 4096 + m.toNat * 4194304)
  | .vscanI64 d a m => BitVec.ofNat 32 (536870965 + d.toNat * 128 + a.toNat * 4096 + m.toNat * 4194304)
  | .vscanF32 d a m => BitVec.ofNat 32 (1073741877 + d.toNat * 128 + a.toNat * 4096 + m.toNat * 4194304)
  | .vredsumI32 d a m => BitVec.ofNat 32 (1610612789 + d.toNat * 128 + a.toNat * 4096 + m.toNat * 4194304)
  | .vredsumI64 d a m => BitVec.ofNat 32 (2147483701 + d.toNat * 128 + a.toNat * 4096 + m.toNat * 4194304)
  | .vredsumF32 d a m => BitVec.ofNat 32 (2684354613 + d.toNat * 128 + a.toNat * 4096 + m.toNat * 4194304)
  | .vredmaxI32 d a m => BitVec.ofNat 32 (3221225525 + d.toNat * 128 + a.toNat * 4096 + m.toNat * 4194304)
  | .vredmaxF32 d a m => BitVec.ofNat 32 (3758096437 + d.toNat * 128 + a.toNat * 4096 + m.toNat * 4194304)
  | .vcvt d a s r m f => BitVec.ofNat 32 (54 + d.toNat * 128 + a.toNat * 4096 + s.toNat * 131072 + f.toNat * 2097152 + r.toNat * 33554432 + m.toNat * 134217728)
  | .vhad d a m j => BitVec.ofNat 32 (55 + d.toNat * 128 + a.toNat * 4096 + j.toNat * 131072 + m.toNat * 4194304)
  | .vhadc a j => BitVec.ofNat 32 (536870967 + a.toNat * 4096 + j.toNat * 131072)
  | .vcvtb d a o => BitVec.ofNat 32 (1073741879 + d.toNat * 128 + a.toNat * 4096 + o.toNat * 131072)
  | .vgauss d a b m => BitVec.ofNat 32 (1610612791 + d.toNat * 128 + a.toNat * 4096 + b.toNat * 131072 + m.toNat * 4194304)
  | .vld d b m h => BitVec.ofNat 32 (56 + d.toNat * 128 + b.toNat * 4096 + m.toNat * 4194304 + h.toNat * 134217728)
  | .vlds d b s m h => BitVec.ofNat 32 (2147483704 + d.toNat * 128 + b.toNat * 4096 + s.toNat * 131072 + m.toNat * 4194304 + h.toNat * 134217728)
  | .vldx d b x m h => BitVec.ofNat 32 (57 + d.toNat * 128 + b.toNat * 4096 + x.toNat * 131072 + m.toNat * 4194304 + h.toNat * 134217728)
  | .vldff d b m h => BitVec.ofNat 32 (2147483705 + d.toNat * 128 + b.toNat * 4096 + m.toNat * 4194304 + h.toNat * 134217728)
  | .vst d b m h => BitVec.ofNat 32 (58 + d.toNat * 128 + b.toNat * 4096 + m.toNat * 4194304 + h.toNat * 134217728)
  | .vsts d b s m h => BitVec.ofNat 32 (2147483706 + d.toNat * 128 + b.toNat * 4096 + s.toNat * 131072 + m.toNat * 4194304 + h.toNat * 134217728)
  | .vstx d b x m h => BitVec.ofNat 32 (59 + d.toNat * 128 + b.toNat * 4096 + x.toNat * 131072 + m.toNat * 4194304 + h.toNat * 134217728)
  | .vstxadd d b x m h => BitVec.ofNat 32 (2147483707 + d.toNat * 128 + b.toNat * 4096 + x.toNat * 131072 + m.toNat * 4194304 + h.toNat * 134217728)
  | .vfetch a => BitVec.ofNat 32 (60 + a.toNat * 4096)
  | .tfetch a m => BitVec.ofNat 32 (536870972 + a.toNat * 4096 + m.toNat * 4194304)
  | .stop => BitVec.ofNat 32 (1073741884)
  | .vjoin => BitVec.ofNat 32 (1610612796)
  | .vrelease => BitVec.ofNat 32 (2147483708)
  | .vloop k => BitVec.ofNat 32 (2684354620 + k.toNat * 131072)
  | .vagain => BitVec.ofNat 32 (3221225532)
  | .setvl d a t => BitVec.ofNat 32 (61 + d.toNat * 128 + a.toNat * 4096 + t.toNat * 131072)
  | .setvli d a n t => BitVec.ofNat 32 (2147483709 + d.toNat * 128 + a.toNat * 4096 + t.toNat * 131072 + n.toNat * 1048576)
  | .ropen d a b => BitVec.ofNat 32 (64 + d.toNat * 128 + a.toNat * 65536 + b.toNat * 2097152)
  | .rpub a h => BitVec.ofNat 32 (67108928 + h.toNat * 4096 + a.toNat * 65536)
  | .rseal a h => BitVec.ofNat 32 (134217792 + h.toNat * 4096 + a.toNat * 65536)
  | .rfree a h => BitVec.ofNat 32 (201326656 + h.toNat * 4096 + a.toNat * 65536)
  | .rlen d a h => BitVec.ofNat 32 (268435520 + d.toNat * 128 + h.toNat * 4096 + a.toNat * 65536)
  | .rinfo d a b => BitVec.ofNat 32 (335544384 + d.toNat * 128 + a.toNat * 65536 + b.toNat * 2097152)
  | .sbind d a b h => BitVec.ofNat 32 (65 + d.toNat * 128 + h.toNat * 4096 + a.toNat * 65536 + b.toNat * 2097152)
  | .sunbind d h => BitVec.ofNat 32 (67108929 + d.toNat * 128 + h.toNat * 4096)
  | .sskip d a => BitVec.ofNat 32 (134217793 + d.toNat * 128 + a.toNat * 65536)
  | .spos d a => BitVec.ofNat 32 (201326657 + d.toNat * 128 + a.toNat * 65536)
  | .rcopyin a b h => BitVec.ofNat 32 (66 + h.toNat * 4096 + a.toNat * 65536 + b.toNat * 2097152)
  | .rcopyout a b h => BitVec.ofNat 32 (67108930 + h.toNat * 4096 + a.toNat * 65536 + b.toNat * 2097152)
  | .rcopyrr a b h => BitVec.ofNat 32 (134217794 + h.toNat * 4096 + a.toNat * 65536 + b.toNat * 2097152)
  | .rfill a b h => BitVec.ofNat 32 (201326658 + h.toNat * 4096 + a.toNat * 65536 + b.toNat * 2097152)
  | .rsort a h => BitVec.ofNat 32 (67 + h.toNat * 4096 + a.toNat * 65536)
  | .rmerge a h => BitVec.ofNat 32 (67108931 + h.toNat * 4096 + a.toNat * 65536)
  | .rpart a h => BitVec.ofNat 32 (134217795 + h.toNat * 4096 + a.toNat * 65536)
  | .rtag a h => BitVec.ofNat 32 (201326659 + h.toNat * 4096 + a.toNat * 65536)
  | .rjoin a h => BitVec.ofNat 32 (268435523 + h.toNat * 4096 + a.toNat * 65536)
  | .vldw d a b h => BitVec.ofNat 32 (68 + d.toNat * 128 + h.toNat * 4096 + a.toNat * 65536 + b.toNat * 2097152)
  | .cset a h => BitVec.ofNat 32 (69 + h.toNat * 4096 + a.toNat * 65536)
  | .csnap d a h => BitVec.ofNat 32 (67108933 + d.toNat * 128 + h.toNat * 4096 + a.toNat * 65536)
  | .rcomb d a b => BitVec.ofNat 32 (70 + d.toNat * 128 + a.toNat * 65536 + b.toNat * 2097152)
  | .nmc d a b h => BitVec.ofNat 32 (76 + d.toNat * 128 + h.toNat * 4096 + a.toNat * 65536 + b.toNat * 2097152)
  | .nmstat d a h => BitVec.ofNat 32 (67108940 + d.toNat * 128 + h.toNat * 4096 + a.toNat * 65536)
  | .scan a h => BitVec.ofNat 32 (77 + h.toNat * 4096 + a.toNat * 65536)
  | .scanth d a h => BitVec.ofNat 32 (67108941 + d.toNat * 128 + h.toNat * 4096 + a.toNat * 65536)
  | .opaF64 d a b c r => BitVec.ofNat 32 (80 + d.toNat * 128 + a.toNat * 1024 + b.toNat * 32768 + r.toNat * 1048576 + c.toNat * 33554432)
  | .opaF32 d a b c r => BitVec.ofNat 32 (1073741904 + d.toNat * 128 + a.toNat * 1024 + b.toNat * 32768 + r.toNat * 1048576 + c.toNat * 33554432)
  | .opaBf16 d a b c r => BitVec.ofNat 32 (81 + d.toNat * 128 + a.toNat * 1024 + b.toNat * 32768 + r.toNat * 1048576 + c.toNat * 33554432)
  | .opaF16 d a b c r => BitVec.ofNat 32 (1073741905 + d.toNat * 128 + a.toNat * 1024 + b.toNat * 32768 + r.toNat * 1048576 + c.toNat * 33554432)
  | .opaE4m3 d a b c r => BitVec.ofNat 32 (82 + d.toNat * 128 + a.toNat * 1024 + b.toNat * 32768 + r.toNat * 1048576 + c.toNat * 33554432)
  | .opaE5m2 d a b c r => BitVec.ofNat 32 (1073741906 + d.toNat * 128 + a.toNat * 1024 + b.toNat * 32768 + r.toNat * 1048576 + c.toNat * 33554432)
  | .opaE2m1 d a b c r => BitVec.ofNat 32 (83 + d.toNat * 128 + a.toNat * 1024 + b.toNat * 32768 + r.toNat * 1048576 + c.toNat * 33554432)
  | .opaI8 d a b c r => BitVec.ofNat 32 (1073741907 + d.toNat * 128 + a.toNat * 1024 + b.toNat * 32768 + r.toNat * 1048576 + c.toNat * 33554432)
  | .mmsBf16 d v a b r => BitVec.ofNat 32 (84 + d.toNat * 128 + v.toNat * 1024 + a.toNat * 32768 + b.toNat * 1048576 + r.toNat * 33554432)
  | .mmsE4m3 d v a b r => BitVec.ofNat 32 (1073741908 + d.toNat * 128 + v.toNat * 1024 + a.toNat * 32768 + b.toNat * 1048576 + r.toNat * 33554432)
  | .mmsE2m1 d v a b r => BitVec.ofNat 32 (2147483732 + d.toNat * 128 + v.toNat * 1024 + a.toNat * 32768 + b.toNat * 1048576 + r.toNat * 33554432)
  | .mmsI8 d v a b r => BitVec.ofNat 32 (3221225556 + d.toNat * 128 + v.toNat * 1024 + a.toNat * 32768 + b.toNat * 1048576 + r.toNat * 33554432)
  | .mmspBf16 d v a b r => BitVec.ofNat 32 (85 + d.toNat * 128 + v.toNat * 1024 + a.toNat * 32768 + b.toNat * 1048576 + r.toNat * 33554432)
  | .mmspE4m3 d v a b r => BitVec.ofNat 32 (1073741909 + d.toNat * 128 + v.toNat * 1024 + a.toNat * 32768 + b.toNat * 1048576 + r.toNat * 33554432)
  | .mmssBf16 d v a b r => BitVec.ofNat 32 (86 + d.toNat * 128 + v.toNat * 1024 + a.toNat * 32768 + b.toNat * 1048576 + r.toNat * 33554432)
  | .mmssE4m3 d v a b r => BitVec.ofNat 32 (1073741910 + d.toNat * 128 + v.toNat * 1024 + a.toNat * 32768 + b.toNat * 1048576 + r.toNat * 33554432)
  | .scacc d p a b q => BitVec.ofNat 32 (87 + d.toNat * 128 + a.toNat * 1024 + b.toNat * 32768 + q.toNat * 1048576 + p.toNat * 33554432)
  | .tzero d o c r => BitVec.ofNat 32 (88 + d.toNat * 128 + o.toNat * 1024 + r.toNat * 1048576 + c.toNat * 33554432)
  | .tmov d v s m => BitVec.ofNat 32 (1073741912 + d.toNat * 128 + v.toNat * 1024 + s.toNat * 32768 + m.toNat * 1048576)
  | .trd d b x c r => BitVec.ofNat 32 (2147483736 + d.toNat * 128 + b.toNat * 1024 + x.toNat * 32768 + r.toNat * 1048576 + c.toNat * 33554432)
  | .twr d v s m => BitVec.ofNat 32 (3221225560 + d.toNat * 128 + v.toNat * 1024 + s.toNat * 32768 + m.toNat * 1048576)
  | .tst d b s r h => BitVec.ofNat 32 (89 + d.toNat * 128 + h.toNat * 1024 + b.toNat * 32768 + s.toNat * 1048576 + r.toNat * 33554432)
  | .tldt d b s r h => BitVec.ofNat 32 (1073741913 + d.toNat * 128 + h.toNat * 1024 + b.toNat * 32768 + s.toNat * 1048576 + r.toNat * 33554432)
  | .osld a b h => BitVec.ofNat 32 (90 + h.toNat * 4096 + a.toNat * 65536 + b.toNat * 2097152)
  | .osmeta d a b => BitVec.ofNat 32 (67108954 + d.toNat * 128 + a.toNat * 65536 + b.toNat * 2097152)
  | .hnew d s => BitVec.ofNat 32 (96 + d.toNat * 128 + s.toNat * 4096)
  | .hfork d a => BitVec.ofNat 32 (4194400 + d.toNat * 128 + a.toNat * 4096)
  | .hjoin d a b => BitVec.ofNat 32 (8388704 + d.toNat * 128 + a.toNat * 4096 + b.toNat * 131072)
  | .hret a => BitVec.ofNat 32 (12583008 + a.toNat * 4096)
  | .hwait a => BitVec.ofNat 32 (16777312 + a.toNat * 4096)
  | .hscope d a s => BitVec.ofNat 32 (20971616 + d.toNat * 128 + a.toNat * 4096 + s.toNat * 131072)
  | .hexp d a => BitVec.ofNat 32 (25165920 + d.toNat * 128 + a.toNat * 4096)
  | .himp d a => BitVec.ofNat 32 (29360224 + d.toNat * 128 + a.toNat * 4096)
  | .amoadd d a b x h => BitVec.ofNat 32 (100 + d.toNat * 128 + a.toNat * 4096 + b.toNat * 131072 + h.toNat * 4194304 + x.toNat * 67108864)
  | .amoand d a b x h => BitVec.ofNat 32 (134217828 + d.toNat * 128 + a.toNat * 4096 + b.toNat * 131072 + h.toNat * 4194304 + x.toNat * 67108864)
  | .amoor d a b x h => BitVec.ofNat 32 (268435556 + d.toNat * 128 + a.toNat * 4096 + b.toNat * 131072 + h.toNat * 4194304 + x.toNat * 67108864)
  | .amoxor d a b x h => BitVec.ofNat 32 (402653284 + d.toNat * 128 + a.toNat * 4096 + b.toNat * 131072 + h.toNat * 4194304 + x.toNat * 67108864)
  | .amomin d a b x h => BitVec.ofNat 32 (536871012 + d.toNat * 128 + a.toNat * 4096 + b.toNat * 131072 + h.toNat * 4194304 + x.toNat * 67108864)
  | .amomax d a b x h => BitVec.ofNat 32 (671088740 + d.toNat * 128 + a.toNat * 4096 + b.toNat * 131072 + h.toNat * 4194304 + x.toNat * 67108864)
  | .amominn d a b x h => BitVec.ofNat 32 (805306468 + d.toNat * 128 + a.toNat * 4096 + b.toNat * 131072 + h.toNat * 4194304 + x.toNat * 67108864)
  | .amomaxn d a b x h => BitVec.ofNat 32 (939524196 + d.toNat * 128 + a.toNat * 4096 + b.toNat * 131072 + h.toNat * 4194304 + x.toNat * 67108864)
  | .amoswap d a b x h => BitVec.ofNat 32 (1073741924 + d.toNat * 128 + a.toNat * 4096 + b.toNat * 131072 + h.toNat * 4194304 + x.toNat * 67108864)
  | .amocas d a b x h => BitVec.ofNat 32 (1207959652 + d.toNat * 128 + a.toNat * 4096 + b.toNat * 131072 + h.toNat * 4194304 + x.toNat * 67108864)
  | .launch d a b h => BitVec.ofNat 32 (104 + d.toNat * 128 + h.toNat * 4096 + a.toNat * 65536 + b.toNat * 2097152)
  | .kstat d a h => BitVec.ofNat 32 (67108968 + d.toNat * 128 + h.toNat * 4096 + a.toNat * 65536)
  | .claim d a b h => BitVec.ofNat 32 (134217832 + d.toNat * 128 + h.toNat * 4096 + a.toNat * 65536 + b.toNat * 2097152)
  | .semacq d a b h => BitVec.ofNat 32 (108 + d.toNat * 128 + h.toNat * 4096 + a.toNat * 65536 + b.toNat * 2097152)
  | .semrel a b h => BitVec.ofNat 32 (67108972 + h.toNat * 4096 + a.toNat * 65536 + b.toNat * 2097152)
  | .semrd d a h => BitVec.ofNat 32 (134217836 + d.toNat * 128 + h.toNat * 4096 + a.toNat * 65536)
  | .ginfo d a => BitVec.ofNat 32 (201326700 + d.toNat * 128 + a.toNat * 65536)
  | .gexit => BitVec.ofNat 32 (268435564)
  | .hyield d => BitVec.ofNat 32 (335544428 + d.toNat * 128)
  | .barinit a b => BitVec.ofNat 32 (112 + a.toNat * 65536 + b.toNat * 2097152)
  | .bararr d a h => BitVec.ofNat 32 (67108976 + d.toNat * 128 + h.toNat * 4096 + a.toNat * 65536)
  | .barwait a b h => BitVec.ofNat 32 (134217840 + h.toNat * 4096 + a.toNat * 65536 + b.toNat * 2097152)
  | .bararw d a h => BitVec.ofNat 32 (201326704 + d.toNat * 128 + h.toNat * 4096 + a.toNat * 65536)
  | .barq d a => BitVec.ofNat 32 (268435568 + d.toNat * 128 + a.toNat * 65536)
  | .xsend a b h => BitVec.ofNat 32 (116 + h.toNat * 4096 + a.toNat * 65536 + b.toNat * 2097152)
  | .xticket d a b h => BitVec.ofNat 32 (67108980 + d.toNat * 128 + h.toNat * 4096 + a.toNat * 65536 + b.toNat * 2097152)
  | .xtkwait a b h => BitVec.ofNat 32 (134217844 + h.toNat * 4096 + a.toNat * 65536 + b.toNat * 2097152)
  | .xpass a b h => BitVec.ofNat 32 (201326708 + h.toNat * 4096 + a.toNat * 65536 + b.toNat * 2097152)
  | .xnote a b h => BitVec.ofNat 32 (268435572 + h.toNat * 4096 + a.toNat * 65536 + b.toNat * 2097152)
  | .xquery d a b => BitVec.ofNat 32 (335544436 + d.toNat * 128 + a.toNat * 65536 + b.toNat * 2097152)
  | .deferredTrap _ _ => 0
  | .hartWaitEnds _ => 0
  | .wfeTimeout _ => 0
  | .semaphoreGrant _ _ => 0
  | .streamStallEnd _ => 0
  | .rpubPerformed _ => 0
  | .rsealPerformed _ => 0
  | .rfreePerformed _ => 0
  | .copyPerformed _ => 0
  | .copyComplete _ => 0
  | .osldPerformed _ => 0
  | .mergeJobStart _ => 0
  | .mergeJobComplete _ => 0
  | .mergeJobStop _ => 0
  | .extentResume _ => 0
  | .nmcJobRun _ => 0
  | .scanRun _ => 0
  | .hartStart _ _ => 0
  | .tileRampEnd _ => 0
  | .launchEligible _ _ => 0
  | .groupBind _ _ => 0
  | .kennelBindGroup _ _ _ _ => 0
  | .bindRecordWrite _ _ _ => 0
  | .kennelPreemptRequest _ => 0
  | .preemptGraceExpiry _ => 0
  | .saveComplete _ => 0
  | .groupResume _ => 0
  | .vectorSetEvict _ => 0
  | .groupExitComplete _ => 0
  | .kennelKillGroup _ _ _ => 0
  | .kennelResumeHart _ => 0
  | .kennelReflectTrap _ => 0
  | .kennelSuspendContext _ _ => 0
  | .repartition _ _ _ _ _ => 0
  | .kennelGrowPool _ _ _ => 0
  | .kennelShrinkPool _ _ _ => 0
  | .machineCheck _ _ _ => 0
  | .scrub _ => 0
  | .channelRetire _ _ => 0
  | .submit _ _ => 0
  | .ctrlBlock _ _ => 0
  | .ctrlOpen _ _ => 0
  | .ctrlDrain _ _ => 0
  | .ctrlClear _ _ => 0
  | .ctrlDiscard _ _ => 0
  | .registerWrite _ _ _ _ => 0
  | .ctxnew _ => 0
  | .ctxdel _ => 0
  | .ctxsusp _ => 0
  | .ctxres _ => 0
  | .loadImage _ _ => 0
  | .unload _ => 0
  | .rnew _ => 0
  | .hrun _ => 0
  | .hpub _ => 0
  | .rread _ => 0
  | .rwrite _ => 0
  | .setctr _ => 0
  | .session _ => 0
  | .hext _ => 0
  | .commandDone _ => 0
  | .getMeasurements _ => 0
  | .getCertificate _ => 0
  | .pfEnableVfs _ => 0
  | .pfSetLimits _ _ => 0
  | .pfSetPowerCap _ => 0
  | .coldReset _ _ => 0
  | .pfHotReset _ _ => 0
  | .vfFlr _ => 0
  | .governorTick _ _ => 0
  | .thermalLimit _ => 0
  | .thermalBelow _ => 0
  | .thermalStop _ => 0
  | .linkTrainStart _ => 0
  | .linkTrainUp _ => 0
  | .linkTrainNarrow _ _ => 0
  | .laneFail _ => 0
  | .linkDown _ => 0
  | .watchdogSample _ _ => 0
  | .sessionOpen _ _ _ => 0
  | .sessionPeerGone _ _ => 0
  | .sessionRouteTimeout _ _ => 0
  | .sessionSettled _ _ => 0
  | .reqMsg _ => 0
  | .trainMsg _ => 0
  | .tailMsg _ => 0
  | .dataMsg _ => 0
  | .rdataMsg _ => 0
  | .tkreqMsg _ => 0
  | .tkcallMsg _ => 0
  | .noteMsg _ => 0
  | .doneMsg _ => 0
  | .retMsg _ => 0
  | .closeMsg _ => 0
  | .reservedMessage _ => 0
  | .retSend _ _ => 0
  | .ualinkRead _ => 0
  | .ualinkWrite _ => 0
  | .ualinkAtomic _ => 0
  | .ualinkCompletion _ => 0
  | .ticketCall _ _ => 0
  | .ticketTimeout _ _ _ => 0
  | .illegalWord w => w
  | .linkLevelReplay _ _ => 0
  | .softError _ _ => 0
  | .tsvGroupMarkedFailed _ _ _ => 0
  | .clearingComplete _ => 0

/-- Functions of major 0x01 (R39). -/
def major01 (n : Nat) : Option Instr :=
  match n / 4194304 % 1024 with
  | 0 => some (.add (fld 5 n 7) (fld 5 n 12) (fld 5 n 17))
  | 1 => some (.sub (fld 5 n 7) (fld 5 n 12) (fld 5 n 17))
  | 2 => some (.and (fld 5 n 7) (fld 5 n 12) (fld 5 n 17))
  | 3 => some (.or (fld 5 n 7) (fld 5 n 12) (fld 5 n 17))
  | 4 => some (.xor (fld 5 n 7) (fld 5 n 12) (fld 5 n 17))
  | 5 => some (.andn (fld 5 n 7) (fld 5 n 12) (fld 5 n 17))
  | 6 => some (.sll (fld 5 n 7) (fld 5 n 12) (fld 5 n 17))
  | 7 => some (.srl (fld 5 n 7) (fld 5 n 12) (fld 5 n 17))
  | 8 => some (.sra (fld 5 n 7) (fld 5 n 12) (fld 5 n 17))
  | 9 => some (.rol (fld 5 n 7) (fld 5 n 12) (fld 5 n 17))
  | 10 => some (.ror (fld 5 n 7) (fld 5 n 12) (fld 5 n 17))
  | 11 => some (.slt (fld 5 n 7) (fld 5 n 12) (fld 5 n 17))
  | 12 => some (.sltn (fld 5 n 7) (fld 5 n 12) (fld 5 n 17))
  | 13 => some (.min (fld 5 n 7) (fld 5 n 12) (fld 5 n 17))
  | 14 => some (.max (fld 5 n 7) (fld 5 n 12) (fld 5 n 17))
  | 15 => some (.minn (fld 5 n 7) (fld 5 n 12) (fld 5 n 17))
  | 16 => some (.maxn (fld 5 n 7) (fld 5 n 12) (fld 5 n 17))
  | _ => none

/-- Functions of major 0x02 (R39). -/
def major02 (n : Nat) : Option Instr :=
  match n / 4194304 % 1024 with
  | 0 => some (.mul (fld 5 n 7) (fld 5 n 12) (fld 5 n 17))
  | 1 => some (.mulh (fld 5 n 7) (fld 5 n 12) (fld 5 n 17))
  | 2 => some (.mulhn (fld 5 n 7) (fld 5 n 12) (fld 5 n 17))
  | 3 => some (.div (fld 5 n 7) (fld 5 n 12) (fld 5 n 17))
  | 4 => some (.divn (fld 5 n 7) (fld 5 n 12) (fld 5 n 17))
  | 5 => some (.rem (fld 5 n 7) (fld 5 n 12) (fld 5 n 17))
  | 6 => some (.remn (fld 5 n 7) (fld 5 n 12) (fld 5 n 17))
  | 7 => some (.clz (fld 5 n 7) (fld 5 n 12))
  | 8 => some (.ctz (fld 5 n 7) (fld 5 n 12))
  | 9 => some (.popc (fld 5 n 7) (fld 5 n 12))
  | 10 => some (.brev (fld 5 n 7) (fld 5 n 12))
  | _ => none

/-- Functions of major 0x17 (R39). -/
def major17 (n : Nat) : Option Instr :=
  match n / 4194304 % 1024 with
  | 0 => some (.fork (fld 5 n 12) (fld 5 n 17))
  | 1 => some (.rdv)
  | 2 => some (.rdcyc (fld 5 n 7))
  | 3 => some (.loop (fld 5 n 12) (fld 5 n 7))
  | 4 => some (.endloop (fld 5 n 7))
  | _ => none

/-- Functions of major 0x1C (R39). -/
def major1C (n : Nat) : Option Instr :=
  match n / 4194304 % 1024 with
  | 0 => some (.trap (fld 5 n 12))
  | 1 => some (.eret)
  | 2 => some (.sysc (fld 5 n 12))
  | 3 => some (.brk)
  | 4 => some (.wfe (fld 5 n 7) (fld 5 n 12))
  | 5 => some (.halth)
  | _ => none

/-- Functions of major 0x1D (R39). -/
def major1D (n : Nat) : Option Instr :=
  match n / 536870912 % 8 with
  | 0 => some (.csrr (fld 5 n 7) (fld 12 n 17))
  | 1 => some (.csrw (fld 5 n 12) (fld 12 n 17))
  | 2 => some (.csrset (fld 5 n 12) (fld 12 n 17))
  | 3 => some (.csrclr (fld 5 n 12) (fld 12 n 17))
  | _ => none

/-- Functions of major 0x20 (R39). -/
def major20 (n : Nat) : Option Instr :=
  match n / 536870912 % 8 with
  | 0 => some (.vadd (fld 5 n 7) (fld 5 n 12) (fld 5 n 17) (fld 2 n 27) (fld 5 n 22) (fld 2 n 0))
  | 1 => some (.vsub (fld 5 n 7) (fld 5 n 12) (fld 5 n 17) (fld 2 n 27) (fld 5 n 22) (fld 2 n 0))
  | 2 => some (.vmul (fld 5 n 7) (fld 5 n 12) (fld 5 n 17) (fld 2 n 27) (fld 5 n 22) (fld 2 n 0))
  | 3 => some (.vmulh (fld 5 n 7) (fld 5 n 12) (fld 5 n 17) (fld 2 n 27) (fld 5 n 22) (fld 2 n 0))
  | 4 => some (.vmin (fld 5 n 7) (fld 5 n 12) (fld 5 n 17) (fld 2 n 27) (fld 5 n 22) (fld 2 n 0))
  | 5 => some (.vmax (fld 5 n 7) (fld 5 n 12) (fld 5 n 17) (fld 2 n 27) (fld 5 n 22) (fld 2 n 0))
  | 6 => some (.vminn (fld 5 n 7) (fld 5 n 12) (fld 5 n 17) (fld 2 n 27) (fld 5 n 22) (fld 2 n 0))
  | 7 => some (.vmaxn (fld 5 n 7) (fld 5 n 12) (fld 5 n 17) (fld 2 n 27) (fld 5 n 22) (fld 2 n 0))
  | _ => none

/-- Functions of major 0x24 (R39). -/
def major24 (n : Nat) : Option Instr :=
  match n / 536870912 % 8 with
  | 0 => some (.vand (fld 5 n 7) (fld 5 n 12) (fld 5 n 17) (fld 2 n 27) (fld 5 n 22) (fld 2 n 0))
  | 1 => some (.vor (fld 5 n 7) (fld 5 n 12) (fld 5 n 17) (fld 2 n 27) (fld 5 n 22) (fld 2 n 0))
  | 2 => some (.vxor (fld 5 n 7) (fld 5 n 12) (fld 5 n 17) (fld 2 n 27) (fld 5 n 22) (fld 2 n 0))
  | 3 => some (.vsll (fld 5 n 7) (fld 5 n 12) (fld 5 n 17) (fld 2 n 27) (fld 5 n 22) (fld 2 n 0))
  | 4 => some (.vsrl (fld 5 n 7) (fld 5 n 12) (fld 5 n 17) (fld 2 n 27) (fld 5 n 22) (fld 2 n 0))
  | 5 => some (.vsra (fld 5 n 7) (fld 5 n 12) (fld 5 n 17) (fld 2 n 27) (fld 5 n 22) (fld 2 n 0))
  | 6 => some (.vadds (fld 5 n 7) (fld 5 n 12) (fld 5 n 17) (fld 2 n 27) (fld 5 n 22) (fld 2 n 0))
  | 7 => some (.vsubs (fld 5 n 7) (fld 5 n 12) (fld 5 n 17) (fld 2 n 27) (fld 5 n 22) (fld 2 n 0))
  | _ => none

/-- Functions of major 0x28 (R39). -/
def major28 (n : Nat) : Option Instr :=
  match n / 536870912 % 8 with
  | 0 => some (.vwaddI8 (fld 5 n 7) (fld 5 n 12) (fld 5 n 17) (fld 2 n 27) (fld 5 n 22))
  | 1 => some (.vwaddI16 (fld 5 n 7) (fld 5 n 12) (fld 5 n 17) (fld 2 n 27) (fld 5 n 22))
  | 2 => some (.vwaddI32 (fld 5 n 7) (fld 5 n 12) (fld 5 n 17) (fld 2 n 27) (fld 5 n 22))
  | 3 => some (.vwaddN8 (fld 5 n 7) (fld 5 n 12) (fld 5 n 17) (fld 2 n 27) (fld 5 n 22))
  | 4 => some (.vwaddN16 (fld 5 n 7) (fld 5 n 12) (fld 5 n 17) (fld 2 n 27) (fld 5 n 22))
  | 5 => some (.vwaddN32 (fld 5 n 7) (fld 5 n 12) (fld 5 n 17) (fld 2 n 27) (fld 5 n 22))
  | 6 => some (.vwmacI8 (fld 5 n 7) (fld 5 n 12) (fld 5 n 17) (fld 2 n 27) (fld 5 n 22))
  | 7 => some (.vwmacI16 (fld 5 n 7) (fld 5 n 12) (fld 5 n 17) (fld 2 n 27) (fld 5 n 22))
  | _ => none

/-- Functions of major 0x29 (R39). -/
def major29 (n : Nat) : Option Instr :=
  match n / 536870912 % 8 with
  | 0 => some (.vfaddF64 (fld 5 n 7) (fld 5 n 12) (fld 5 n 17) (fld 2 n 27) (fld 5 n 22))
  | 1 => some (.vfsubF64 (fld 5 n 7) (fld 5 n 12) (fld 5 n 17) (fld 2 n 27) (fld 5 n 22))
  | 2 => some (.vfmulF64 (fld 5 n 7) (fld 5 n 12) (fld 5 n 17) (fld 2 n 27) (fld 5 n 22))
  | 3 => some (.vfmaF64 (fld 5 n 7) (fld 5 n 12) (fld 5 n 17) (fld 2 n 27) (fld 5 n 22))
  | 4 => some (.vfminF64 (fld 5 n 7) (fld 5 n 12) (fld 5 n 17) (fld 2 n 27) (fld 5 n 22))
  | 5 => some (.vfmaxF64 (fld 5 n 7) (fld 5 n 12) (fld 5 n 17) (fld 2 n 27) (fld 5 n 22))
  | 6 => some (.vfdivF64 (fld 5 n 7) (fld 5 n 12) (fld 5 n 17) (fld 2 n 27) (fld 5 n 22))
  | 7 => some (.vfsqrtF64 (fld 5 n 7) (fld 5 n 12) (fld 5 n 22))
  | _ => none

/-- Functions of major 0x2A (R39). -/
def major2A (n : Nat) : Option Instr :=
  match n / 536870912 % 8 with
  | 0 => some (.vfaddF32 (fld 5 n 7) (fld 5 n 12) (fld 5 n 17) (fld 2 n 27) (fld 5 n 22))
  | 1 => some (.vfsubF32 (fld 5 n 7) (fld 5 n 12) (fld 5 n 17) (fld 2 n 27) (fld 5 n 22))
  | 2 => some (.vfmulF32 (fld 5 n 7) (fld 5 n 12) (fld 5 n 17) (fld 2 n 27) (fld 5 n 22))
  | 3 => some (.vfmaF32 (fld 5 n 7) (fld 5 n 12) (fld 5 n 17) (fld 2 n 27) (fld 5 n 22))
  | 4 => some (.vfminF32 (fld 5 n 7) (fld 5 n 12) (fld 5 n 17) (fld 2 n 27) (fld 5 n 22))
  | 5 => some (.vfmaxF32 (fld 5 n 7) (fld 5 n 12) (fld 5 n 17) (fld 2 n 27) (fld 5 n 22))
  | 6 => some (.vfdivF32 (fld 5 n 7) (fld 5 n 12) (fld 5 n 17) (fld 2 n 27) (fld 5 n 22))
  | 7 => some (.vfsqrtF32 (fld 5 n 7) (fld 5 n 12) (fld 5 n 22))
  | _ => none

/-- Functions of major 0x2B (R39). -/
def major2B (n : Nat) : Option Instr :=
  match n / 536870912 % 8 with
  | 0 => some (.vfaddBf16 (fld 5 n 7) (fld 5 n 12) (fld 5 n 17) (fld 2 n 27) (fld 5 n 22))
  | 1 => some (.vfsubBf16 (fld 5 n 7) (fld 5 n 12) (fld 5 n 17) (fld 2 n 27) (fld 5 n 22))
  | 2 => some (.vfmulBf16 (fld 5 n 7) (fld 5 n 12) (fld 5 n 17) (fld 2 n 27) (fld 5 n 22))
  | 3 => some (.vfmaBf16 (fld 5 n 7) (fld 5 n 12) (fld 5 n 17) (fld 2 n 27) (fld 5 n 22))
  | 4 => some (.vfminBf16 (fld 5 n 7) (fld 5 n 12) (fld 5 n 17) (fld 2 n 27) (fld 5 n 22))
  | 5 => some (.vfmaxBf16 (fld 5 n 7) (fld 5 n 12) (fld 5 n 17) (fld 2 n 27) (fld 5 n 22))
  | 6 => some (.vfdivBf16 (fld 5 n 7) (fld 5 n 12) (fld 5 n 17) (fld 2 n 27) (fld 5 n 22))
  | 7 => some (.vfsqrtBf16 (fld 5 n 7) (fld 5 n 12) (fld 5 n 22))
  | _ => none

/-- Functions of major 0x2C (R39). -/
def major2C (n : Nat) : Option Instr :=
  match n / 536870912 % 8 with
  | 0 => some (.vfaddF16 (fld 5 n 7) (fld 5 n 12) (fld 5 n 17) (fld 2 n 27) (fld 5 n 22))
  | 1 => some (.vfsubF16 (fld 5 n 7) (fld 5 n 12) (fld 5 n 17) (fld 2 n 27) (fld 5 n 22))
  | 2 => some (.vfmulF16 (fld 5 n 7) (fld 5 n 12) (fld 5 n 17) (fld 2 n 27) (fld 5 n 22))
  | 3 => some (.vfmaF16 (fld 5 n 7) (fld 5 n 12) (fld 5 n 17) (fld 2 n 27) (fld 5 n 22))
  | 4 => some (.vfminF16 (fld 5 n 7) (fld 5 n 12) (fld 5 n 17) (fld 2 n 27) (fld 5 n 22))
  | 5 => some (.vfmaxF16 (fld 5 n 7) (fld 5 n 12) (fld 5 n 17) (fld 2 n 27) (fld 5 n 22))
  | 6 => some (.vfdivF16 (fld 5 n 7) (fld 5 n 12) (fld 5 n 17) (fld 2 n 27) (fld 5 n 22))
  | 7 => some (.vfsqrtF16 (fld 5 n 7) (fld 5 n 12) (fld 5 n 22))
  | _ => none

/-- Functions of major 0x2D (R39). -/
def major2D (n : Nat) : Option Instr :=
  match n / 536870912 % 8 with
  | 0 => some (.vfrecip (fld 5 n 7) (fld 5 n 12) (fld 5 n 22))
  | 1 => some (.vfrsqrt (fld 5 n 7) (fld 5 n 12) (fld 5 n 22))
  | 2 => some (.vfexp2 (fld 5 n 7) (fld 5 n 12) (fld 5 n 22))
  | 3 => some (.vflog2 (fld 5 n 7) (fld 5 n 12) (fld 5 n 22))
  | 4 => some (.vfabs (fld 5 n 7) (fld 5 n 12) (fld 5 n 22))
  | 5 => some (.vfneg (fld 5 n 7) (fld 5 n 12) (fld 5 n 22))
  | 6 => some (.vfclass (fld 5 n 7) (fld 5 n 12) (fld 5 n 22))
  | 7 => some (.vfsgnj (fld 5 n 7) (fld 5 n 12) (fld 5 n 17) (fld 2 n 27) (fld 5 n 22))
  | _ => none

/-- Functions of major 0x2E (R39). -/
def major2E (n : Nat) : Option Instr :=
  match n / 536870912 % 8 with
  | 0 => some (.vcmpeqI8 (fld 5 n 7) (fld 5 n 12) (fld 5 n 17) (fld 2 n 27) (fld 5 n 22))
  | 1 => some (.vcmpneI8 (fld 5 n 7) (fld 5 n 12) (fld 5 n 17) (fld 2 n 27) (fld 5 n 22))
  | 2 => some (.vcmpltI8 (fld 5 n 7) (fld 5 n 12) (fld 5 n 17) (fld 2 n 27) (fld 5 n 22))
  | 3 => some (.vcmpleI8 (fld 5 n 7) (fld 5 n 12) (fld 5 n 17) (fld 2 n 27) (fld 5 n 22))
  | 4 => some (.vcmpltnI8 (fld 5 n 7) (fld 5 n 12) (fld 5 n 17) (fld 2 n 27) (fld 5 n 22))
  | 5 => some (.vcmplenI8 (fld 5 n 7) (fld 5 n 12) (fld 5 n 17) (fld 2 n 27) (fld 5 n 22))
  | 6 => some (.vboundI8 (fld 5 n 7) (fld 5 n 17) (fld 5 n 22))
  | _ => none

/-- Functions of major 0x2F (R39). -/
def major2F (n : Nat) : Option Instr :=
  match n / 536870912 % 8 with
  | 0 => some (.vcmpeqI16 (fld 5 n 7) (fld 5 n 12) (fld 5 n 17) (fld 2 n 27) (fld 5 n 22))
  | 1 => some (.vcmpneI16 (fld 5 n 7) (fld 5 n 12) (fld 5 n 17) (fld 2 n 27) (fld 5 n 22))
  | 2 => some (.vcmpltI16 (fld 5 n 7) (fld 5 n 12) (fld 5 n 17) (fld 2 n 27) (fld 5 n 22))
  | 3 => some (.vcmpleI16 (fld 5 n 7) (fld 5 n 12) (fld 5 n 17) (fld 2 n 27) (fld 5 n 22))
  | 4 => some (.vcmpltnI16 (fld 5 n 7) (fld 5 n 12) (fld 5 n 17) (fld 2 n 27) (fld 5 n 22))
  | 5 => some (.vcmplenI16 (fld 5 n 7) (fld 5 n 12) (fld 5 n 17) (fld 2 n 27) (fld 5 n 22))
  | 6 => some (.vboundI16 (fld 5 n 7) (fld 5 n 17) (fld 5 n 22))
  | _ => none

/-- Functions of major 0x30 (R39). -/
def major30 (n : Nat) : Option Instr :=
  match n / 536870912 % 8 with
  | 0 => some (.vcmpeqI32 (fld 5 n 7) (fld 5 n 12) (fld 5 n 17) (fld 2 n 27) (fld 5 n 22))
  | 1 => some (.vcmpneI32 (fld 5 n 7) (fld 5 n 12) (fld 5 n 17) (fld 2 n 27) (fld 5 n 22))
  | 2 => some (.vcmpltI32 (fld 5 n 7) (fld 5 n 12) (fld 5 n 17) (fld 2 n 27) (fld 5 n 22))
  | 3 => some (.vcmpleI32 (fld 5 n 7) (fld 5 n 12) (fld 5 n 17) (fld 2 n 27) (fld 5 n 22))
  | 4 => some (.vcmpltnI32 (fld 5 n 7) (fld 5 n 12) (fld 5 n 17) (fld 2 n 27) (fld 5 n 22))
  | 5 => some (.vcmplenI32 (fld 5 n 7) (fld 5 n 12) (fld 5 n 17) (fld 2 n 27) (fld 5 n 22))
  | 6 => some (.vboundI32 (fld 5 n 7) (fld 5 n 17) (fld 5 n 22))
  | _ => none

/-- Functions of major 0x31 (R39). -/
def major31 (n : Nat) : Option Instr :=
  match n / 536870912 % 8 with
  | 0 => some (.vcmpeqI64 (fld 5 n 7) (fld 5 n 12) (fld 5 n 17) (fld 2 n 27) (fld 5 n 22))
  | 1 => some (.vcmpneI64 (fld 5 n 7) (fld 5 n 12) (fld 5 n 17) (fld 2 n 27) (fld 5 n 22))
  | 2 => some (.vcmpltI64 (fld 5 n 7) (fld 5 n 12) (fld 5 n 17) (fld 2 n 27) (fld 5 n 22))
  | 3 => some (.vcmpleI64 (fld 5 n 7) (fld 5 n 12) (fld 5 n 17) (fld 2 n 27) (fld 5 n 22))
  | 4 => some (.vcmpltnI64 (fld 5 n 7) (fld 5 n 12) (fld 5 n 17) (fld 2 n 27) (fld 5 n 22))
  | 5 => some (.vcmplenI64 (fld 5 n 7) (fld 5 n 12) (fld 5 n 17) (fld 2 n 27) (fld 5 n 22))
  | 6 => some (.vboundI64 (fld 5 n 7) (fld 5 n 17) (fld 5 n 22))
  | _ => none

/-- Functions of major 0x32 (R39). -/
def major32 (n : Nat) : Option Instr :=
  match n / 536870912 % 8 with
  | 0 => some (.vfcmpeqF32 (fld 5 n 7) (fld 5 n 12) (fld 5 n 17) (fld 2 n 27) (fld 5 n 22))
  | 1 => some (.vfcmpltF32 (fld 5 n 7) (fld 5 n 12) (fld 5 n 17) (fld 2 n 27) (fld 5 n 22))
  | 2 => some (.vfcmpleF32 (fld 5 n 7) (fld 5 n 12) (fld 5 n 17) (fld 2 n 27) (fld 5 n 22))
  | 3 => some (.vfcmpunF32 (fld 5 n 7) (fld 5 n 12) (fld 5 n 17) (fld 2 n 27) (fld 5 n 22))
  | 4 => some (.vfcmpeqF64 (fld 5 n 7) (fld 5 n 12) (fld 5 n 17) (fld 2 n 27) (fld 5 n 22))
  | 5 => some (.vfcmpltF64 (fld 5 n 7) (fld 5 n 12) (fld 5 n 17) (fld 2 n 27) (fld 5 n 22))
  | 6 => some (.vfcmpleF64 (fld 5 n 7) (fld 5 n 12) (fld 5 n 17) (fld 2 n 27) (fld 5 n 22))
  | 7 => some (.vfcmpunF64 (fld 5 n 7) (fld 5 n 12) (fld 5 n 17) (fld 2 n 27) (fld 5 n 22))
  | _ => none

/-- Functions of major 0x33 (R39). -/
def major33 (n : Nat) : Option Instr :=
  match n / 536870912 % 8 with
  | 0 => some (.mand (fld 5 n 7) (fld 5 n 12) (fld 5 n 17) (fld 5 n 22))
  | 1 => some (.mor (fld 5 n 7) (fld 5 n 12) (fld 5 n 17) (fld 5 n 22))
  | 2 => some (.mxor (fld 5 n 7) (fld 5 n 12) (fld 5 n 17) (fld 5 n 22))
  | 3 => some (.mandn (fld 5 n 7) (fld 5 n 12) (fld 5 n 17) (fld 5 n 22))
  | 4 => some (.mnot (fld 5 n 7) (fld 5 n 12) (fld 5 n 22))
  | 5 => some (.mpopc (fld 5 n 7) (fld 5 n 12) (fld 5 n 22))
  | 6 => some (.mfirst (fld 5 n 7) (fld 5 n 12) (fld 5 n 22))
  | 7 => some (.msetvl (fld 5 n 7) (fld 5 n 12) (fld 5 n 22))
  | _ => none

/-- Functions of major 0x34 (R39). -/
def major34 (n : Nat) : Option Instr :=
  match n / 536870912 % 8 with
  | 0 => some (.vpermx (fld 5 n 7) (fld 5 n 12) (fld 5 n 17) (fld 2 n 27) (fld 5 n 22))
  | 1 => some (.vslideup (fld 5 n 7) (fld 5 n 12) (fld 5 n 17) (fld 5 n 22))
  | 2 => some (.vslidedn (fld 5 n 7) (fld 5 n 12) (fld 5 n 17) (fld 5 n 22))
  | 3 => some (.vcompress (fld 5 n 7) (fld 5 n 12) (fld 5 n 22))
  | 4 => some (.vexpand (fld 5 n 7) (fld 5 n 12) (fld 5 n 22))
  | 5 => some (.vbcast (fld 5 n 7) (fld 5 n 12) (fld 5 n 17) (fld 5 n 22))
  | 6 => some (.vextr (fld 5 n 7) (fld 5 n 12) (fld 5 n 17))
  | 7 => some (.vins (fld 5 n 7) (fld 5 n 12) (fld 5 n 17))
  | _ => none

/-- Functions of major 0x35 (R39). -/
def major35 (n : Nat) : Option Instr :=
  match n / 536870912 % 8 with
  | 0 => some (.vscanI32 (fld 5 n 7) (fld 5 n 12) (fld 5 n 22))
  | 1 => some (.vscanI64 (fld 5 n 7) (fld 5 n 12) (fld 5 n 22))
  | 2 => some (.vscanF32 (fld 5 n 7) (fld 5 n 12) (fld 5 n 22))
  | 3 => some (.vredsumI32 (fld 5 n 7) (fld 5 n 12) (fld 5 n 22))
  | 4 => some (.vredsumI64 (fld 5 n 7) (fld 5 n 12) (fld 5 n 22))
  | 5 => some (.vredsumF32 (fld 5 n 7) (fld 5 n 12) (fld 5 n 22))
  | 6 => some (.vredmaxI32 (fld 5 n 7) (fld 5 n 12) (fld 5 n 22))
  | 7 => some (.vredmaxF32 (fld 5 n 7) (fld 5 n 12) (fld 5 n 22))
  | _ => none

/-- Functions of major 0x37 (R39). -/
def major37 (n : Nat) : Option Instr :=
  match n / 536870912 % 8 with
  | 0 => some (.vhad (fld 5 n 7) (fld 5 n 12) (fld 5 n 22) (fld 5 n 17))
  | 1 => some (.vhadc (fld 5 n 12) (fld 5 n 17))
  | 2 => some (.vcvtb (fld 5 n 7) (fld 5 n 12) (fld 5 n 17))
  | 3 => some (.vgauss (fld 5 n 7) (fld 5 n 12) (fld 5 n 17) (fld 5 n 22))
  | _ => none

/-- Functions of major 0x38 (R39). -/
def major38 (n : Nat) : Option Instr :=
  match n / 2147483648 % 2 with
  | 0 => some (.vld (fld 5 n 7) (fld 5 n 12) (fld 5 n 22) (fld 4 n 27))
  | 1 => some (.vlds (fld 5 n 7) (fld 5 n 12) (fld 5 n 17) (fld 5 n 22) (fld 4 n 27))
  | _ => none

/-- Functions of major 0x39 (R39). -/
def major39 (n : Nat) : Option Instr :=
  match n / 2147483648 % 2 with
  | 0 => some (.vldx (fld 5 n 7) (fld 5 n 12) (fld 5 n 17) (fld 5 n 22) (fld 4 n 27))
  | 1 => some (.vldff (fld 5 n 7) (fld 5 n 12) (fld 5 n 22) (fld 4 n 27))
  | _ => none

/-- Functions of major 0x3A (R39). -/
def major3A (n : Nat) : Option Instr :=
  match n / 2147483648 % 2 with
  | 0 => some (.vst (fld 5 n 7) (fld 5 n 12) (fld 5 n 22) (fld 4 n 27))
  | 1 => some (.vsts (fld 5 n 7) (fld 5 n 12) (fld 5 n 17) (fld 5 n 22) (fld 4 n 27))
  | _ => none

/-- Functions of major 0x3B (R39). -/
def major3B (n : Nat) : Option Instr :=
  match n / 2147483648 % 2 with
  | 0 => some (.vstx (fld 5 n 7) (fld 5 n 12) (fld 5 n 17) (fld 5 n 22) (fld 4 n 27))
  | 1 => some (.vstxadd (fld 5 n 7) (fld 5 n 12) (fld 5 n 17) (fld 5 n 22) (fld 4 n 27))
  | _ => none

/-- Functions of major 0x3C (R39). -/
def major3C (n : Nat) : Option Instr :=
  match n / 536870912 % 8 with
  | 0 => some (.vfetch (fld 5 n 12))
  | 1 => some (.tfetch (fld 5 n 12) (fld 5 n 22))
  | 2 => some (.stop)
  | 3 => some (.vjoin)
  | 4 => some (.vrelease)
  | 5 => some (.vloop (fld 5 n 17))
  | 6 => some (.vagain)
  | _ => none

/-- Functions of major 0x3D (R39). -/
def major3D (n : Nat) : Option Instr :=
  match n / 2147483648 % 2 with
  | 0 => some (.setvl (fld 5 n 7) (fld 5 n 12) (fld 3 n 17))
  | 1 => some (.setvli (fld 5 n 7) (fld 5 n 12) (fld 11 n 20) (fld 3 n 17))
  | _ => none

/-- Functions of major 0x40 (R39). -/
def major40 (n : Nat) : Option Instr :=
  match n / 67108864 % 64 with
  | 0 => some (.ropen (fld 5 n 7) (fld 5 n 16) (fld 5 n 21))
  | 1 => some (.rpub (fld 5 n 16) (fld 4 n 12))
  | 2 => some (.rseal (fld 5 n 16) (fld 4 n 12))
  | 3 => some (.rfree (fld 5 n 16) (fld 4 n 12))
  | 4 => some (.rlen (fld 5 n 7) (fld 5 n 16) (fld 4 n 12))
  | 5 => some (.rinfo (fld 5 n 7) (fld 5 n 16) (fld 5 n 21))
  | _ => none

/-- Functions of major 0x41 (R39). -/
def major41 (n : Nat) : Option Instr :=
  match n / 67108864 % 64 with
  | 0 => some (.sbind (fld 5 n 7) (fld 5 n 16) (fld 5 n 21) (fld 4 n 12))
  | 1 => some (.sunbind (fld 5 n 7) (fld 4 n 12))
  | 2 => some (.sskip (fld 5 n 7) (fld 5 n 16))
  | 3 => some (.spos (fld 5 n 7) (fld 5 n 16))
  | _ => none

/-- Functions of major 0x42 (R39). -/
def major42 (n : Nat) : Option Instr :=
  match n / 67108864 % 64 with
  | 0 => some (.rcopyin (fld 5 n 16) (fld 5 n 21) (fld 4 n 12))
  | 1 => some (.rcopyout (fld 5 n 16) (fld 5 n 21) (fld 4 n 12))
  | 2 => some (.rcopyrr (fld 5 n 16) (fld 5 n 21) (fld 4 n 12))
  | 3 => some (.rfill (fld 5 n 16) (fld 5 n 21) (fld 4 n 12))
  | _ => none

/-- Functions of major 0x43 (R39). -/
def major43 (n : Nat) : Option Instr :=
  match n / 67108864 % 64 with
  | 0 => some (.rsort (fld 5 n 16) (fld 4 n 12))
  | 1 => some (.rmerge (fld 5 n 16) (fld 4 n 12))
  | 2 => some (.rpart (fld 5 n 16) (fld 4 n 12))
  | 3 => some (.rtag (fld 5 n 16) (fld 4 n 12))
  | 4 => some (.rjoin (fld 5 n 16) (fld 4 n 12))
  | _ => none

/-- Functions of major 0x44 (R39). -/
def major44 (n : Nat) : Option Instr :=
  match n / 67108864 % 64 with
  | 0 => some (.vldw (fld 5 n 7) (fld 5 n 16) (fld 5 n 21) (fld 4 n 12))
  | _ => none

/-- Functions of major 0x45 (R39). -/
def major45 (n : Nat) : Option Instr :=
  match n / 67108864 % 64 with
  | 0 => some (.cset (fld 5 n 16) (fld 4 n 12))
  | 1 => some (.csnap (fld 5 n 7) (fld 5 n 16) (fld 4 n 12))
  | _ => none

/-- Functions of major 0x46 (R39). -/
def major46 (n : Nat) : Option Instr :=
  match n / 67108864 % 64 with
  | 0 => some (.rcomb (fld 5 n 7) (fld 5 n 16) (fld 5 n 21))
  | _ => none

/-- Functions of major 0x4C (R39). -/
def major4C (n : Nat) : Option Instr :=
  match n / 67108864 % 64 with
  | 0 => some (.nmc (fld 5 n 7) (fld 5 n 16) (fld 5 n 21) (fld 4 n 12))
  | 1 => some (.nmstat (fld 5 n 7) (fld 5 n 16) (fld 4 n 12))
  | _ => none

/-- Functions of major 0x4D (R39). -/
def major4D (n : Nat) : Option Instr :=
  match n / 67108864 % 64 with
  | 0 => some (.scan (fld 5 n 16) (fld 4 n 12))
  | 1 => some (.scanth (fld 5 n 7) (fld 5 n 16) (fld 4 n 12))
  | _ => none

/-- Functions of major 0x50 (R39). -/
def major50 (n : Nat) : Option Instr :=
  match n / 1073741824 % 4 with
  | 0 => some (.opaF64 (fld 3 n 7) (fld 5 n 10) (fld 5 n 15) (fld 5 n 25) (fld 5 n 20))
  | 1 => some (.opaF32 (fld 3 n 7) (fld 5 n 10) (fld 5 n 15) (fld 5 n 25) (fld 5 n 20))
  | _ => none

/-- Functions of major 0x51 (R39). -/
def major51 (n : Nat) : Option Instr :=
  match n / 1073741824 % 4 with
  | 0 => some (.opaBf16 (fld 3 n 7) (fld 5 n 10) (fld 5 n 15) (fld 5 n 25) (fld 5 n 20))
  | 1 => some (.opaF16 (fld 3 n 7) (fld 5 n 10) (fld 5 n 15) (fld 5 n 25) (fld 5 n 20))
  | _ => none

/-- Functions of major 0x52 (R39). -/
def major52 (n : Nat) : Option Instr :=
  match n / 1073741824 % 4 with
  | 0 => some (.opaE4m3 (fld 3 n 7) (fld 5 n 10) (fld 5 n 15) (fld 5 n 25) (fld 5 n 20))
  | 1 => some (.opaE5m2 (fld 3 n 7) (fld 5 n 10) (fld 5 n 15) (fld 5 n 25) (fld 5 n 20))
  | _ => none

/-- Functions of major 0x53 (R39). -/
def major53 (n : Nat) : Option Instr :=
  match n / 1073741824 % 4 with
  | 0 => some (.opaE2m1 (fld 3 n 7) (fld 5 n 10) (fld 5 n 15) (fld 5 n 25) (fld 5 n 20))
  | 1 => some (.opaI8 (fld 3 n 7) (fld 5 n 10) (fld 5 n 15) (fld 5 n 25) (fld 5 n 20))
  | _ => none

/-- Functions of major 0x54 (R39). -/
def major54 (n : Nat) : Option Instr :=
  match n / 1073741824 % 4 with
  | 0 => some (.mmsBf16 (fld 3 n 7) (fld 5 n 10) (fld 5 n 15) (fld 5 n 20) (fld 5 n 25))
  | 1 => some (.mmsE4m3 (fld 3 n 7) (fld 5 n 10) (fld 5 n 15) (fld 5 n 20) (fld 5 n 25))
  | 2 => some (.mmsE2m1 (fld 3 n 7) (fld 5 n 10) (fld 5 n 15) (fld 5 n 20) (fld 5 n 25))
  | 3 => some (.mmsI8 (fld 3 n 7) (fld 5 n 10) (fld 5 n 15) (fld 5 n 20) (fld 5 n 25))
  | _ => none

/-- Functions of major 0x55 (R39). -/
def major55 (n : Nat) : Option Instr :=
  match n / 1073741824 % 4 with
  | 0 => some (.mmspBf16 (fld 3 n 7) (fld 5 n 10) (fld 5 n 15) (fld 5 n 20) (fld 5 n 25))
  | 1 => some (.mmspE4m3 (fld 3 n 7) (fld 5 n 10) (fld 5 n 15) (fld 5 n 20) (fld 5 n 25))
  | _ => none

/-- Functions of major 0x56 (R39). -/
def major56 (n : Nat) : Option Instr :=
  match n / 1073741824 % 4 with
  | 0 => some (.mmssBf16 (fld 3 n 7) (fld 5 n 10) (fld 5 n 15) (fld 5 n 20) (fld 5 n 25))
  | 1 => some (.mmssE4m3 (fld 3 n 7) (fld 5 n 10) (fld 5 n 15) (fld 5 n 20) (fld 5 n 25))
  | _ => none

/-- Functions of major 0x57 (R39). -/
def major57 (n : Nat) : Option Instr :=
  match n / 1073741824 % 4 with
  | 0 => some (.scacc (fld 3 n 7) (fld 3 n 25) (fld 5 n 10) (fld 5 n 15) (fld 5 n 20))
  | _ => none

/-- Functions of major 0x58 (R39). -/
def major58 (n : Nat) : Option Instr :=
  match n / 1073741824 % 4 with
  | 0 => some (.tzero (fld 3 n 7) (fld 5 n 10) (fld 5 n 25) (fld 5 n 20))
  | 1 => some (.tmov (fld 3 n 7) (fld 5 n 10) (fld 5 n 15) (fld 5 n 20))
  | 2 => some (.trd (fld 3 n 7) (fld 5 n 10) (fld 5 n 15) (fld 5 n 25) (fld 5 n 20))
  | 3 => some (.twr (fld 3 n 7) (fld 5 n 10) (fld 5 n 15) (fld 5 n 20))
  | _ => none

/-- Functions of major 0x59 (R39). -/
def major59 (n : Nat) : Option Instr :=
  match n / 1073741824 % 4 with
  | 0 => some (.tst (fld 3 n 7) (fld 5 n 15) (fld 5 n 20) (fld 5 n 25) (fld 4 n 10))
  | 1 => some (.tldt (fld 3 n 7) (fld 5 n 15) (fld 5 n 20) (fld 5 n 25) (fld 4 n 10))
  | _ => none

/-- Functions of major 0x5A (R39). -/
def major5A (n : Nat) : Option Instr :=
  match n / 67108864 % 64 with
  | 0 => some (.osld (fld 5 n 16) (fld 5 n 21) (fld 4 n 12))
  | 1 => some (.osmeta (fld 5 n 7) (fld 5 n 16) (fld 5 n 21))
  | _ => none

/-- Functions of major 0x60 (R39). -/
def major60 (n : Nat) : Option Instr :=
  match n / 4194304 % 1024 with
  | 0 => some (.hnew (fld 4 n 7) (fld 5 n 12))
  | 1 => some (.hfork (fld 4 n 7) (fld 4 n 12))
  | 2 => some (.hjoin (fld 4 n 7) (fld 4 n 12) (fld 4 n 17))
  | 3 => some (.hret (fld 4 n 12))
  | 4 => some (.hwait (fld 4 n 12))
  | 5 => some (.hscope (fld 4 n 7) (fld 4 n 12) (fld 5 n 17))
  | 6 => some (.hexp (fld 5 n 7) (fld 4 n 12))
  | 7 => some (.himp (fld 4 n 7) (fld 5 n 12))
  | _ => none

/-- Functions of major 0x64 (R39). -/
def major64 (n : Nat) : Option Instr :=
  match n / 134217728 % 32 with
  | 0 => some (.amoadd (fld 5 n 7) (fld 5 n 12) (fld 5 n 17) (fld 1 n 26) (fld 4 n 22))
  | 1 => some (.amoand (fld 5 n 7) (fld 5 n 12) (fld 5 n 17) (fld 1 n 26) (fld 4 n 22))
  | 2 => some (.amoor (fld 5 n 7) (fld 5 n 12) (fld 5 n 17) (fld 1 n 26) (fld 4 n 22))
  | 3 => some (.amoxor (fld 5 n 7) (fld 5 n 12) (fld 5 n 17) (fld 1 n 26) (fld 4 n 22))
  | 4 => some (.amomin (fld 5 n 7) (fld 5 n 12) (fld 5 n 17) (fld 1 n 26) (fld 4 n 22))
  | 5 => some (.amomax (fld 5 n 7) (fld 5 n 12) (fld 5 n 17) (fld 1 n 26) (fld 4 n 22))
  | 6 => some (.amominn (fld 5 n 7) (fld 5 n 12) (fld 5 n 17) (fld 1 n 26) (fld 4 n 22))
  | 7 => some (.amomaxn (fld 5 n 7) (fld 5 n 12) (fld 5 n 17) (fld 1 n 26) (fld 4 n 22))
  | 8 => some (.amoswap (fld 5 n 7) (fld 5 n 12) (fld 5 n 17) (fld 1 n 26) (fld 4 n 22))
  | 9 => some (.amocas (fld 5 n 7) (fld 5 n 12) (fld 5 n 17) (fld 1 n 26) (fld 4 n 22))
  | _ => none

/-- Functions of major 0x68 (R39). -/
def major68 (n : Nat) : Option Instr :=
  match n / 67108864 % 64 with
  | 0 => some (.launch (fld 5 n 7) (fld 5 n 16) (fld 5 n 21) (fld 4 n 12))
  | 1 => some (.kstat (fld 5 n 7) (fld 5 n 16) (fld 4 n 12))
  | 2 => some (.claim (fld 5 n 7) (fld 5 n 16) (fld 5 n 21) (fld 4 n 12))
  | _ => none

/-- Functions of major 0x6C (R39). -/
def major6C (n : Nat) : Option Instr :=
  match n / 67108864 % 64 with
  | 0 => some (.semacq (fld 5 n 7) (fld 5 n 16) (fld 5 n 21) (fld 4 n 12))
  | 1 => some (.semrel (fld 5 n 16) (fld 5 n 21) (fld 4 n 12))
  | 2 => some (.semrd (fld 5 n 7) (fld 5 n 16) (fld 4 n 12))
  | 3 => some (.ginfo (fld 5 n 7) (fld 5 n 16))
  | 4 => some (.gexit)
  | 5 => some (.hyield (fld 5 n 7))
  | _ => none

/-- Functions of major 0x70 (R39). -/
def major70 (n : Nat) : Option Instr :=
  match n / 67108864 % 64 with
  | 0 => some (.barinit (fld 5 n 16) (fld 5 n 21))
  | 1 => some (.bararr (fld 5 n 7) (fld 5 n 16) (fld 4 n 12))
  | 2 => some (.barwait (fld 5 n 16) (fld 5 n 21) (fld 4 n 12))
  | 3 => some (.bararw (fld 5 n 7) (fld 5 n 16) (fld 4 n 12))
  | 4 => some (.barq (fld 5 n 7) (fld 5 n 16))
  | _ => none

/-- Functions of major 0x74 (R39). -/
def major74 (n : Nat) : Option Instr :=
  match n / 67108864 % 64 with
  | 0 => some (.xsend (fld 5 n 16) (fld 5 n 21) (fld 4 n 12))
  | 1 => some (.xticket (fld 5 n 7) (fld 5 n 16) (fld 5 n 21) (fld 4 n 12))
  | 2 => some (.xtkwait (fld 5 n 16) (fld 5 n 21) (fld 4 n 12))
  | 3 => some (.xpass (fld 5 n 16) (fld 5 n 21) (fld 4 n 12))
  | 4 => some (.xnote (fld 5 n 16) (fld 5 n 21) (fld 4 n 12))
  | 5 => some (.xquery (fld 5 n 7) (fld 5 n 16) (fld 5 n 21))
  | _ => none

/-- The instruction of the lanes' majors 0x20–0x35 that a word holds: the words that a USER combine's block may hold
(R32, R42, R189). -/
def laneFields (w : IWord) : Option Instr :=
  let n := w.toNat
  match n % 128 with
  | 32 => major20 n
  | 33 => major20 n
  | 34 => major20 n
  | 35 => major20 n
  | 36 => major24 n
  | 37 => major24 n
  | 38 => major24 n
  | 39 => major24 n
  | 40 => major28 n
  | 41 => major29 n
  | 42 => major2A n
  | 43 => major2B n
  | 44 => major2C n
  | 45 => major2D n
  | 46 => major2E n
  | 47 => major2F n
  | 48 => major30 n
  | 49 => major31 n
  | 50 => major32 n
  | 51 => major33 n
  | 52 => major34 n
  | 53 => major35 n
  | _ => none

/-- The instruction whose major and function a word holds, its fields read where its format places them (R32, R39). -/
def decodeFields (w : IWord) : Option Instr :=
  let n := w.toNat
  match n % 128 with
  | 1 => major01 n
  | 2 => major02 n
  | 3 => some (.addi (fld 5 n 7) (fld 5 n 12) (fld 15 n 17))
  | 4 => some (.andi (fld 5 n 7) (fld 5 n 12) (fld 15 n 17))
  | 5 => some (.ori (fld 5 n 7) (fld 5 n 12) (fld 15 n 17))
  | 6 => some (.xori (fld 5 n 7) (fld 5 n 12) (fld 15 n 17))
  | 7 => some (.slli (fld 5 n 7) (fld 5 n 12) (fld 6 n 17))
  | 8 => some (.srli (fld 5 n 7) (fld 5 n 12) (fld 6 n 17))
  | 9 => some (.srai (fld 5 n 7) (fld 5 n 12) (fld 6 n 17))
  | 10 => some (.slti (fld 5 n 7) (fld 5 n 12) (fld 15 n 17))
  | 11 => some (.lui (fld 5 n 7) (fld 20 n 12))
  | 12 => some (.auipc (fld 5 n 7) (fld 20 n 12))
  | 13 => some (.beq (fld 5 n 7) (fld 5 n 12) (fld 15 n 17))
  | 14 => some (.bne (fld 5 n 7) (fld 5 n 12) (fld 15 n 17))
  | 15 => some (.blt (fld 5 n 7) (fld 5 n 12) (fld 15 n 17))
  | 16 => some (.bge (fld 5 n 7) (fld 5 n 12) (fld 15 n 17))
  | 17 => some (.bltn (fld 5 n 7) (fld 5 n 12) (fld 15 n 17))
  | 18 => some (.bgen (fld 5 n 7) (fld 5 n 12) (fld 15 n 17))
  | 19 => some (.jal (fld 5 n 7) (fld 20 n 12))
  | 20 => some (.jalr (fld 5 n 7) (fld 5 n 12) (fld 15 n 17))
  | 21 => some (.jtab (fld 5 n 7) (fld 5 n 12) (fld 5 n 17) (fld 10 n 22))
  | 22 => some (.waitc (fld 5 n 12) (fld 5 n 17) (fld 5 n 7) (fld 5 n 22))
  | 23 => major17 n
  | 24 => some (.ld (fld 5 n 7) (fld 5 n 12) (fld 8 n 24) (fld 3 n 21) (fld 4 n 17))
  | 25 => some (.st (fld 5 n 7) (fld 5 n 12) (fld 8 n 24) (fld 3 n 21) (fld 4 n 17))
  | 28 => major1C n
  | 29 => major1D n
  | 54 => some (.vcvt (fld 5 n 7) (fld 5 n 12) (fld 4 n 17) (fld 2 n 25) (fld 5 n 27) (fld 4 n 21))
  | 55 => major37 n
  | 56 => major38 n
  | 57 => major39 n
  | 58 => major3A n
  | 59 => major3B n
  | 60 => major3C n
  | 61 => major3D n
  | 64 => major40 n
  | 65 => major41 n
  | 66 => major42 n
  | 67 => major43 n
  | 68 => major44 n
  | 69 => major45 n
  | 70 => major46 n
  | 76 => major4C n
  | 77 => major4D n
  | 80 => major50 n
  | 81 => major51 n
  | 82 => major52 n
  | 83 => major53 n
  | 84 => major54 n
  | 85 => major55 n
  | 86 => major56 n
  | 87 => major57 n
  | 88 => major58 n
  | 89 => major59 n
  | 90 => major5A n
  | 96 => major60 n
  | 100 => major64 n
  | 104 => major68 n
  | 108 => major6C n
  | 112 => major70 n
  | 116 => major74 n
  | _ => laneFields w

/-- The instruction of a word, or why it is none (R40). An unused field that is not zero is one that the encoder,
which leaves unused fields zero, does not give back. -/
def decode (w : IWord) : Except DecodeError Instr :=
  match decodeFields w with
  | none => .error .unlisted
  | some i =>
    if encode i ≠ w then .error .unusedField
    else if i.wf then .ok i
    else .error .illegalField

/-- Four bytes, least significant first, as a word (R31). -/
def wordOfBytes (a b c d : Byte) : IWord :=
  BitVec.ofNat 32 (a.toNat + b.toNat * 2 ^ 8 + c.toNat * 2 ^ 16 + d.toNat * 2 ^ 24)

/-- The next instruction of a byte list and the bytes after it. -/
def decodeBytes : List Byte → Except DecodeError (Instr × List Byte)
  | a :: b :: c :: d :: rest =>
    match decode (wordOfBytes a b c d) with
    | .ok i => .ok (i, rest)
    | .error e => .error e
  | _ => .error .short

/-- The four bytes of a word as memory holds them, least significant first (R31). -/
def bytesOfWord (w : IWord) : List Byte :=
  [BitVec.ofNat 8 w.toNat, BitVec.ofNat 8 (w.toNat / 2 ^ 8), BitVec.ofNat 8 (w.toNat / 2 ^ 16),
   BitVec.ofNat 8 (w.toNat / 2 ^ 24)]

/-- The instruction whose bits are `w`, numbered as the opcode table numbers them; every instruction is one word. -/
def decodeTableWord (nbits w : Nat) : Option Instr :=
  if nbits ≤ 32 ∧ w < 2 ^ 32 then
    match decodeBytes (bytesOfWord (BitVec.ofNat 32 w)) with
    | .ok (i, []) => some i
    | _ => none
  else none

end Sys2Proof

end
end

