-- ==== Sys2Proof/Machine/Codeword.lean ====
section
/-!
DEFINITION. The Reed-Solomon code that protects each 64-byte line of device memory, and how its symbols travel (R332, R333).
Polynomials over GF(256) are lists of coefficients, the highest power first.
-/

namespace Sys2Proof.Machine

/-- A field element times α = 0x02, modulo x⁸ + x⁴ + x³ + x² + 1 (R332). -/
def gfDouble (a : Nat) : Nat := if a < 128 then 2 * a else (2 * a) ^^^ 0x11D

/-- A field element times the low bits of another. -/
def gfMulBits : Nat → Nat → Nat → Nat
  | 0, _, _ => 0
  | n + 1, a, b => (if b % 2 = 1 then a else 0) ^^^ gfMulBits n (gfDouble a) (b / 2)

/-- The product of two field elements. -/
def gfMul (a b : Nat) : Nat := gfMulBits 8 a b

/-- A power of α. -/
def gfPow : Nat → Nat
  | 0 => 1
  | n + 1 => gfDouble (gfPow n)

/-- A polynomial times x − r; subtraction in the field is addition. -/
def timesRoot (p : List Nat) (r : Nat) : List Nat := List.zipWith (· ^^^ ·) (p ++ [0]) (0 :: p.map (gfMul r))

/-- The generator polynomial (x − α⁰)(x − α¹) ⋯ (x − α⁷) (R332). -/
def generator : List Nat := ((List.range 8).map gfPow).foldl timesRoot [1]

/-- The remainder after one coefficient more of the dividend. -/
def divideStep (rem : List Nat) (c : Nat) : List Nat :=
  let q := c ^^^ rem.headD 0
  List.zipWith (· ^^^ ·) (rem.tail ++ [0]) (generator.tail.map (gfMul q))

/-- The eight check symbols of a line: the remainder of its data polynomial modulo the generator (R332). -/
def checkSymbols (line : List Byte) : List Byte :=
  ((line.map BitVec.toNat).foldl divideStep (List.replicate 8 0)).map (BitVec.ofNat 8)

/-- The codeword of a line: its 64 bytes, then the check symbols (R332). -/
def codeword (line : List Byte) : List Byte := line ++ checkSymbols line

/-- The value of a polynomial at a point. -/
def evalAt (x : Nat) (p : List Nat) : Nat := p.foldl (fun acc c => gfMul acc x ^^^ c) 0

/-- The TSV group that carries a symbol (R333). -/
def symbolGroup (k : Nat) : Nat := k % 18

/-- The beat of the line in which a symbol travels (R333). -/
def symbolBeat (k : Nat) : Nat := k / 18

/-- Whether symbols in error can be corrected: e of them besides the four of each failed TSV group, with 2e + f ≤ 8 (R332, R334). -/
def correctable (failed : List Nat) (errors : List Nat) : Bool :=
  let e := (errors.filter (fun k => !(failed.contains (symbolGroup k)))).length
  decide (2 * e + 4 * failed.length ≤ 8)

end Sys2Proof.Machine
end

