-- ==== Sys2Proof/Machine/Bits.lean ====
section
/-!
DEFINITION. Bit fields, sign extension, byte order and keyed lists: the helpers every other file of the machine uses.
-/

namespace Sys2Proof.Machine

/-- Bits `lo + n - 1` down to `lo` of `x`, as a number (R14). -/
def bitsOf {w : Nat} (x : BitVec w) (lo n : Nat) : Nat := x.toNat / 2 ^ lo % 2 ^ n

/-- Bit `k` of `x`. -/
def bitOf {w : Nat} (x : BitVec w) (k : Nat) : Bool := x.getLsbD k

/-- A number as a two's complement integer of `n` bits (R14, Sext). -/
def sextNat (x n : Nat) : Int :=
  let y := x % 2 ^ n
  if 2 * y < 2 ^ n then (y : Int) else (y : Int) - 2 ^ n

/-- The low `n` bits of `x`, sign-extended to 64 (R15). -/
def sext64 (x n : Nat) : Word := BitVec.ofInt 64 (sextNat x n)

/-- The low `n` bits of `x`, zero-extended to 64 (R15). -/
def zext64 (x n : Nat) : Word := BitVec.ofNat 64 (x % 2 ^ n)

/-- A number from bytes, least significant first (R45). -/
def leNat : List Byte → Nat
  | [] => 0
  | b :: bs => b.toNat + 256 * leNat bs

/-- The `n` low bytes of a number, least significant first (R45). -/
def natLe : Nat → Nat → List Byte
  | 0, _ => []
  | n + 1, x => BitVec.ofNat 8 x :: natLe n (x / 256)

/-- Element `i` of width `w` of a register's bits (R15, R45). -/
def elemOf {n : Nat} (v : BitVec n) (i w : Nat) : Nat := v.toNat / 2 ^ (i * w) % 2 ^ w

/-- The bits of a register with element `i` of width `w` replaced (R15). -/
def setElemOf {n : Nat} (v : BitVec n) (i w x : Nat) : BitVec n :=
  let old := v.toNat
  BitVec.ofNat n (old - (old / 2 ^ (i * w) % 2 ^ w) * 2 ^ (i * w) + (x % 2 ^ w) * 2 ^ (i * w))

/-- The value listed under a key, or the default. -/
def lookupD {α : Type} (d : α) : List (Nat × α) → Nat → α
  | [], _ => d
  | (j, x) :: t, k => if j = k then x else lookupD d t k

/-- The value listed under a key, if any. -/
def lookup? {α : Type} : List (Nat × α) → Nat → Option α
  | [], _ => none
  | (j, x) :: t, k => if j = k then some x else lookup? t k

/-- A keyed list with the value under a key replaced or added, keys rising. -/
def insertKey {α : Type} : List (Nat × α) → Nat → α → List (Nat × α)
  | [], k, x => [(k, x)]
  | (j, y) :: t, k, x =>
    if k < j then (k, x) :: (j, y) :: t
    else if k = j then (k, x) :: t
    else (j, y) :: insertKey t k x

/-- A keyed list without a key. -/
def eraseKey {α : Type} (l : List (Nat × α)) (k : Nat) : List (Nat × α) := l.filter (fun p => p.1 ≠ k)

/-- The least number below the first argument that satisfies a test, counting up from the second. -/
def leastFrom (p : Nat → Bool) : Nat → Nat → Option Nat
  | 0, _ => none
  | n + 1, k => if p k then some k else leastFrom p n (k + 1)

/-- The least number below `n` that satisfies a test. -/
def leastBelow (n : Nat) (p : Nat → Bool) : Option Nat := leastFrom p n 0

/-- A list with the element at a place replaced, left as it is beyond its end. -/
def setAt {α : Type} : List α → Nat → α → List α
  | [], _, _ => []
  | _ :: t, 0, x => x :: t
  | y :: t, k + 1, x => y :: setAt t k x

/-- The element of a vector at a number, the default beyond its end. -/
def vecGet {α : Type} {n : Nat} (d : α) (v : Vector α n) (k : Nat) : α := v.toList.getD k d

/-- A vector with the element at a number replaced. -/
def vecSet {α : Type} {n : Nat} (v : Vector α n) (k : Nat) (x : α) : Vector α n := v.setIfInBounds k x

/-- Stable insertion of an element into a list sorted by `le`: after every element it does not precede. -/
def insertSorted {α : Type} (le : α → α → Bool) (x : α) : List α → List α
  | [] => [x]
  | y :: t => if le y x then y :: insertSorted le x t else x :: y :: t

/-- A stable sort: equal elements keep their order (R185). -/
def stableSort {α : Type} (le : α → α → Bool) (l : List α) : List α :=
  l.foldl (fun acc x => insertSorted le x acc) []

/-- A list cut into pieces of `n` elements, with fuel; a last short piece is dropped. -/
def chunksFuel {α : Type} (n : Nat) : Nat → List α → List (List α)
  | 0, _ => []
  | f + 1, l => if n = 0 ∨ l.length < n then [] else l.take n :: chunksFuel n f (l.drop n)

/-- A list cut into whole pieces of `n` elements. -/
def chunks {α : Type} (n : Nat) (l : List α) : List (List α) := chunksFuel n (l.length + 1) l

end Sys2Proof.Machine
end

