-- ==== Sys2Proof/Machine/Mem.lean ====
section
/-!
DEFINITION. The memory of the chip: one list of (key, byte) pairs in canonical form, keys strictly rising and no entry
equal to what an unlisted key reads as. Local stores, operand stores, the bytes of runs and host memory lie in
disjoint ranges of keys.
-/

namespace Sys2Proof.Machine

/-- The memory's own type. -/
abbrev Memory := List Host.Cell

/-- What a byte that nothing has written reads as: a core, a page and a run pass to a context zeroed (R261, R325,
R373 step 3). (log entry 5: DESIGN CHOICE.) -/
def Memory.unlisted : Byte := 0

/-- The byte under a key. (log entry 5: DESIGN CHOICE.) -/
def Memory.read : Memory → Nat → Byte
  | [], _ => Memory.unlisted
  | (j, b) :: t, k => if j = k then b else Memory.read t k

/-- The memory with the byte under a key replaced; writing what an unlisted key reads as removes the entry. -/
def Memory.write : Memory → Nat → Byte → Memory
  | [], k, b => if b = Memory.unlisted then [] else [(k, b)]
  | (j, c) :: t, k, b =>
    if k < j then (if b = Memory.unlisted then (j, c) :: t else (k, b) :: (j, c) :: t)
    else if k = j then (if b = Memory.unlisted then t else (k, b) :: t)
    else (j, c) :: Memory.write t k b

/-- Bytes written at rising keys from one on. -/
def Memory.writeBytes : Memory → Nat → List Byte → Memory
  | m, _, [] => m
  | m, k, b :: bs => Memory.writeBytes (Memory.write m k b) (k + 1) bs

/-- The `n` bytes from a key on. -/
def Memory.readBytes (m : Memory) (k : Nat) : Nat → List Byte
  | 0 => []
  | n + 1 => Memory.read m k :: Memory.readBytes m (k + 1) n

/-- The memory with every key of a range reading as unlisted (R261, R266 step 5). -/
def Memory.clear (m : Memory) (k n : Nat) : Memory := m.filter (fun c => c.1 < k ∨ k + n ≤ c.1)

/-- Every key of the list lies above one, the keys rise strictly, and no entry reads as unlisted. -/
def Memory.wfFrom : Nat → Memory → Bool
  | _, [] => true
  | lo, (k, b) :: t => decide (lo ≤ k) && decide (b ≠ Memory.unlisted) && Memory.wfFrom (k + 1) t

/-- The canonical form. -/
def Memory.wf (m : Memory) : Bool := Memory.wfFrom 0 m

/-- Byte `off` of the local store of physical core `core` (R19). -/
def lsKey (core off : Nat) : Nat := core * 2 ^ 21 + off

/-- Byte `off` of the operand store of physical core `core` (R20). -/
def osKey (core off : Nat) : Nat := 2 ^ 32 + core * 2 ^ 23 + off

/-- Run byte `off` of entry `run` of context `ctx` in device memory (R22, R326). (log entry 32: DESIGN CHOICE.) -/
def runKey (ctx run off : Nat) : Nat := 2 ^ 64 + (ctx * 2 ^ 18 + run) * 2 ^ 42 + off

/-- Byte `addr` of host memory (R371). (log entry 39: DESIGN CHOICE.) -/
def hostKey (addr : Nat) : Nat := 2 ^ 96 + addr

end Sys2Proof.Machine
end

