-- ==== Sys2Proof/Machine/State.lean ====
section
/-!
DEFINITION. The state of the chip as plain data, the state after reset, and the closed types of faults and refusals.
The operations on it stand in `Ops.lean`.
-/

namespace Sys2Proof.Machine

/-- A hart (R68): everything its slot holds, its vector set when it has one, and what it waits for. -/
structure Hart where
  state : HartState
  core : Nat
  priv : Priv
  /-- The PC, a byte offset into the code area (R68). -/
  pc : Word
  /-- s0–s31, which are bits 63:0 of v0–v31 (R110, R149). -/
  sregs : Vector Word 32
  vl : BitVec 13
  vsew : BitVec 7
  vstart : BitVec 12
  kstart : BitVec 32
  ffe : Word
  fflags : BitVec 5
  frm : BitVec 2
  nbedge : BitVec 4
  vdirty : Word
  tcause : Word
  tpc : Word
  tval : Word
  tstart : Word
  /-- An escalated trap that Kennel has still to settle (R98, R295). -/
  trapHeld : Bool
  hartid : BitVec 3
  rank : BitVec 6
  gsize : BitVec 7
  ctxid : BitVec 9
  /-- h0–h15: none, or the number of a sequencer of the hart's core (R231). -/
  hregs : Vector (Option Nat) 16
  loops : Vector LoopCtr 8
  latch : BitVec 5
  /-- The cycle at which a WFE in WAIT times out (R101). -/
  wfeAt : Option Nat
  /-- The operations that an HWAIT in WAIT waits for: those that had entered its sequencer when it issued (R242). -/
  hwait : Option (List Nat)
  /-- The barrier-wait record (R319): barrier and token. -/
  barRec : Option (Nat × BitVec 32)
  vset : Option VSet
  /-- Words of a replay or fetched block that are still to issue (R111, R141, R142). -/
  vqueue : List IWord
  /-- The vector instruction queue, oldest first: at most 64 entries (R111). -/
  lanes : List Queued
  /-- The lanes are within a replayed or fetched body of the hart, which keeps them for its length (R111). -/
  body : Bool
  tileProg : Option SeqProg
  streamProg : Option SeqProg
  /-- Scalar registers whose data has not arrived (R85); bit n for sn. -/
  pending : BitVec 32
  /-- Vector registers whose data has not arrived. -/
  vpending : BitVec 32
  reports : List Report
  nmIssued : BitVec 32
  nmJobs : List NmJob
  tickets : List Held
  /-- Held at a stream element that is not yet there: the register that reads it (R115, R168). -/
  stalled : Option Nat
  /-- The perturbation key that a held MMS-family instruction took at issue, and the rows that it writes (R204, R208, R216). -/
  mmspKey : Option (Word × List Nat)
  /-- A HYIELD that pre-empted: the register that receives 1 at resumption (R307). -/
  yieldDest : Option Reg
  deriving DecidableEq, Repr

/-- What moves next, when the schedule says so: an issuer, whose access may be performed later than it issues (R248); an operation that
has issued, or the head of a hart's vector instruction queue (R111); an event of the opcode table; a move of which only so much is done
now: k-steps of a stream, records of an append, emissions of a job, elements of a command (R155, R204, R254); a move whose writes of some
words, by hart, and of some element groups, by reader, come later for those (R145, R207, R248); such a word of an operation seen by a
hart at last; a peer's import of a value that this chip exported to it (R244); or time passing.
(log entry 1: DESIGN CHOICE; log entry 2: DESIGN CHOICE.) -/
inductive Move
  | issue (i : Issuer)
  | issueLate (i : Issuer)
  | perform (op : Nat)
  | lanes (h : HartId)
  | event (i : Instr)
  | bounded (n : Nat) (m : Move)
  | hiding (words : List (HartId × Nat)) (groups : List (Reader × Nat × Nat)) (m : Move)
  | reveal (op : Nat) (h : HartId) (word : Nat)
  | peerImport (ctx : Nat) (chip : BitVec 10) (value : Word)
  | elapse (cycles : Nat)
  deriving DecidableEq, Repr

/-- The chip. Its stores are one memory, keyed as `Mem.lean` lays out; `cur` and `word` are the issuer whose word is being
executed and that word; `late` is set within a move that leaves something of it for later, and `steps` within one that bounds what is done; `hidden` and `under`
list what observers of memory and readers of vector registers have still to see; `agenda` holds the moves that the outside
world and the device's free choices make, and an empty agenda leaves the choice to the default order of `Step.lean`. -/
structure State where
  chipId : BitVec 10
  cycle : Nat
  draws : Nat
  mem : List Host.Cell
  cores : List (Nat × Core)
  harts : List (Nat × Hart)
  groups : List (Nat × Group)
  ctxs : List (Nat × Ctx)
  vfs : List (Nat × VFunc)
  dies : Vector Die 8
  stations : Vector Station 16
  pf : PFunc
  boot : Boot
  ops : List Op
  nextOp : Nat
  nextGroup : Nat
  uaOut : List UaReq
  uaDone : List UaDone
  discarded : Nat
  cur : Issuer
  word : IWord
  late : Bool
  steps : Option Nat
  hidden : List Hidden
  under : List Under
  agenda : List Move
  deriving DecidableEq, Repr

/-- Ways the machine stops. None of the spec's traps is one: a trap is a next state (R95). -/
inductive Fault
  /-- Raised by `Step.lean` when an agenda names an instruction word as an event: no hart issues it. Safe: the spec
  has no such step. -/
  | notAnEvent
  deriving DecidableEq, Repr

/-- Instructions the model gives no meaning. -/
inductive Refusal
  /-- Raised by an arm of `Dispatch.lean` for an instruction not yet modelled. Safe: nothing follows from it. -/
  | notModelled (mnemonic : String)
  deriving DecidableEq, Repr

/-- A loop counter after bind (R70). -/
def LoopCtr.reset : LoopCtr := ⟨0, 0, false⟩

/-- A sequencer that has never been allocated (R233). -/
def Sequencer.reset : Sequencer := ⟨.free, 0, 0, 0, 0, [], [], none⟩

/-- A tile of a FREE engine: zero, in mode c32 and clean (R202). -/
def Tile.reset : Tile := ⟨false, false, Vector.replicate 128 0⟩

/-- A FREE tile engine (R202). -/
def TileEngine.reset : TileEngine := ⟨none, none, Vector.replicate 8 Tile.reset, false⟩

/-- A core in no context: semaphores zero (R299), sequencers FREE, index table and key zero (R203). -/
def Core.reset : Core :=
  ⟨Vector.replicate 64 0, [], Vector.replicate 64 Sequencer.reset, TileEngine.reset, none, [], 0⟩

/-- The converter buffer, closed (R293). -/
def Converter.reset : Converter := ⟨false, 0, 0⟩

/-- A vector set as a hart receives it at bind (R293). -/
def VSet.reset : VSet :=
  ⟨.held, Vector.replicate 32 0, Vector.replicate 24 0, [], none, Converter.reset, [], [], []⟩

/-- A hart as it first leaves BOUND, less what its launch and its binding give (R70); vsew is 8 (R108).
(log entry 7: DESIGN CHOICE.) -/
def Hart.reset : Hart where
  state := .free
  core := 0
  priv := .p
  pc := 0
  sregs := Vector.replicate 32 0
  vl := 0
  vsew := 8
  vstart := 0
  kstart := 0
  ffe := 0
  fflags := 0
  frm := 0
  nbedge := 0
  vdirty := 0
  tcause := 0
  tpc := 0
  tval := 0
  tstart := 0
  trapHeld := false
  hartid := 0
  rank := 0
  gsize := 0
  ctxid := 0
  hregs := Vector.replicate 16 none
  loops := Vector.replicate 8 LoopCtr.reset
  latch := 0
  wfeAt := none
  hwait := none
  barRec := none
  vset := none
  vqueue := []
  lanes := []
  body := false
  tileProg := none
  streamProg := none
  pending := 0
  vpending := 0
  reports := []
  nmIssued := 0
  nmJobs := []
  tickets := []
  stalled := none
  mmspKey := none
  yieldDest := none

/-- A barrier at bind (R308). -/
def Barrier.reset : Barrier := ⟨.free, 0, 0, []⟩

/-- A queue when its context is created (R269, R270). -/
def Queue.reset : Queue :=
  ⟨.opened, 0, 0, 0, false, Vector.replicate 8 0, 0, 0, 0, 0, 0, []⟩

/-- A die after bring-up: no bind record, every page unit free and zeroed (R373 step 3), full rate.
(log entry 8: DESIGN CHOICE.) -/
def Die.reset : Die := ⟨[], Config.dieUnits, 0, [], [], 16, false⟩

/-- A trained station (R373 step 4). -/
def Station.reset : Station := ⟨.up, 4, false, 0⟩

/-- The physical function reporting ready, no virtual function enabled, at the 5.0 kW cap (R373, R374). -/
def PFunc.reset : PFunc := ⟨0, true, 0, 5000000⟩

/-- The ROM, the fuses and the firmware, of which the spec gives no value. (log entry 71: DESIGN CHOICE.) -/
def Boot.reset : Boot := ⟨0, 0, ⟨0, 0, 0, 0⟩, ⟨0, 0, 0, 0⟩⟩

/-- The limits of a virtual function that the administrator has not set (R367). -/
def Limits.reset : Limits := ⟨0, 0, 0, 0, 0, 0, []⟩

/-- A virtual function after reset (R369). (log entry 8: DESIGN CHOICE.) -/
def VFunc.reset : VFunc :=
  ⟨false, Limits.reset, [], Vector.replicate 8 0, 0, 0, none, [], false, false, 0, 0, []⟩

/-- The chip right after the cold reset sequence of R373: ready, with no virtual function enabled, no context, every
hart slot FREE and every byte zero. A module that belongs to no fabric has ID 0x3FF (R23).
(log entry 6: DEDUCED; log entry 8: DESIGN CHOICE.) -/
def State.reset : State where
  chipId := 0x3FF
  cycle := 0
  draws := 0
  mem := []
  cores := []
  harts := []
  groups := []
  ctxs := []
  vfs := []
  dies := Vector.replicate 8 Die.reset
  stations := Vector.replicate 16 Station.reset
  pf := PFunc.reset
  boot := Boot.reset
  ops := []
  nextOp := 0
  nextGroup := 0
  uaOut := []
  uaDone := []
  discarded := 0
  cur := .hart ⟨0, 0, 0⟩
  word := 0
  late := false
  steps := none
  hidden := []
  under := []
  agenda := []

end Sys2Proof.Machine
end

