-- ==== Sys2Proof/Machine/Ops.lean ====
section
/-!
DEFINITION. The operations every meaning shares: the issuer's registers and control values, the ways an instruction
ends, taking a trap and returning from one, handles and the operations in flight.
-/

namespace Sys2Proof.Machine

/-! ## Looking objects up -/

/-- A group number that names no group reads as one that is gone. -/
def Group.reset : Group where
  ctx := 0
  queue := 0
  seq := 0
  index := 0
  die := 0
  cores := []
  harts := 0
  vec := false
  tile := false
  image := 0
  state := .gone
  bases := []
  range := 0
  code := 0
  bars := Vector.replicate 32 Barrier.reset
  started := []
  request := false
  status := 0
  word0 := 0
  handler := none

/-- A context number that names no context reads as FREE (R258). -/
def Ctx.reset : Ctx where
  vf := 0
  ctxid := 0
  state := .free
  suspending := false
  part := []
  table := 0
  runs := []
  queues := []
  pools := []
  stained := []
  images := []
  granted := 0
  iters := 0
  routes := 0
  iter := []
  route := []
  routing := []
  sessions := []
  tickets := []
  faults := 0
  saves := 0
  served := []

/-- An image that is not there. -/
def Image.reset : Image := ⟨[], [], 0, [], none, [], []⟩

/-- A FREE run-table entry (R154). -/
def Run.reset : Run := ⟨0, 0, 0, 0, .free, false, 0, [], [], [], []⟩

/-- A sequencer program that is not there. -/
def SeqProg.reset : SeqProg where
  id := 0
  entry := 0
  words := 0
  pc := 0
  sregs := Vector.replicate 32 0
  hregs := Vector.replicate 16 none
  created := []
  vl := 0
  vsew := 8
  frm := 0
  nbedge := 0
  vstart := 0
  kstart := 0
  loops := Vector.replicate 8 LoopCtr.reset
  ended := true
  stop := none
  stopAt := 0
  key := none
  waiting := false
  hwait := none
  suspended := false

/-- A strand that is not there. -/
def Strand.reset : Strand := ⟨0, 0, [], 0, 0, 8, 0, 0, 0, none, false⟩

/-- The hart of a hart name. (log entry 7: DESIGN CHOICE.) -/
def State.hart (s : State) (h : HartId) : Hart := lookupD Hart.reset s.harts h.key

/-- The state with one hart replaced. -/
def State.setHart (s : State) (h : HartId) (x : Hart) : State :=
  { s with harts := insertKey s.harts h.key x }

/-- The issuer's hart. -/
def State.me (s : State) : Hart := s.hart s.cur.owner

/-- The state with the issuer's hart replaced. -/
def State.setMe (s : State) (x : Hart) : State := s.setHart s.cur.owner x

/-- The core of a physical number. -/
def State.coreAt (s : State) (c : Nat) : Core := lookupD Core.reset s.cores c

/-- The state with one core replaced. -/
def State.setCoreAt (s : State) (c : Nat) (x : Core) : State := { s with cores := insertKey s.cores c x }

/-- The issuer's core. -/
def State.core (s : State) : Core := s.coreAt s.me.core

/-- The state with the issuer's core replaced. -/
def State.setCore (s : State) (x : Core) : State := s.setCoreAt s.me.core x

/-- The group of a number. -/
def State.groupAt (s : State) (g : Nat) : Group := lookupD Group.reset s.groups g

/-- The state with one group replaced. -/
def State.setGroupAt (s : State) (g : Nat) (x : Group) : State := { s with groups := insertKey s.groups g x }

/-- The issuer's group. -/
def State.group (s : State) : Group := s.groupAt s.cur.owner.group

/-- The state with the issuer's group replaced. -/
def State.setGroup (s : State) (x : Group) : State := s.setGroupAt s.cur.owner.group x

/-- The context of a number. -/
def State.ctxAt (s : State) (c : Nat) : Ctx := lookupD Ctx.reset s.ctxs c

/-- The state with one context replaced. -/
def State.setCtxAt (s : State) (c : Nat) (x : Ctx) : State := { s with ctxs := insertKey s.ctxs c x }

/-- The issuer's context. -/
def State.ctx (s : State) : Ctx := s.ctxAt s.group.ctx

/-- The state with the issuer's context replaced. -/
def State.setCtx (s : State) (x : Ctx) : State := s.setCtxAt s.group.ctx x

/-- The virtual function of a number. -/
def State.vfAt (s : State) (v : Nat) : VFunc := lookupD VFunc.reset s.vfs v

/-- The state with one virtual function replaced. -/
def State.setVfAt (s : State) (v : Nat) (x : VFunc) : State := { s with vfs := insertKey s.vfs v x }

/-- The program of one of a hart's engine sequencers (R87). -/
def Hart.prog (h : Hart) (e : Eng) : SeqProg :=
  match e with
  | .tile => h.tileProg.getD SeqProg.reset
  | .stream => h.streamProg.getD SeqProg.reset

/-- The hart with a sequencer's program replaced. -/
def Hart.setProg (h : Hart) (e : Eng) (p : SeqProg) : Hart :=
  match e with
  | .tile => { h with tileProg := some p }
  | .stream => { h with streamProg := some p }

/-- The strands of a hart. -/
def Hart.strands (h : Hart) : List Strand :=
  match h.vset with
  | none => []
  | some v => v.strands

/-- The strand of a lane (R143). -/
def Hart.strand (h : Hart) (lane : Nat) : Strand :=
  (h.strands.find? (fun t => t.lane = lane)).getD Strand.reset

/-- The hart with a lane's strand replaced. -/
def Hart.setStrand (h : Hart) (lane : Nat) (x : Strand) : Hart :=
  match h.vset with
  | none => h
  | some v => { h with vset := some { v with strands := v.strands.map (fun t => if t.lane = lane then x else t) } }

/-- The operation of a number. -/
def State.opAt (s : State) (id : Nat) : Option Op := s.ops.find? (fun o => o.id == id)

/-- What an instruction needs that needs nothing. -/
def Needs.nothing : Needs := ⟨.none, .uncounted, .none, .none, false, [], false, [], false, [], false, false, .none, (0, [])⟩

/-- An access that is not there. -/
def Late.reset : Late := ⟨0, Needs.nothing, Vector.replicate 32 0, Vector.replicate 32 0, Vector.replicate 24 0, 0, 8, 0, 0⟩

/-- What an operation captured at issue, if it is an access that waits. -/
def OpKind.held : OpKind → Option Late
  | .late x => some x
  | _ => .none

/-- What the access being performed captured when it issued. -/
def State.held (s : State) : Late :=
  match s.cur with
  | .late _ id => ((s.opAt id).bind (fun o => o.kind.held)).getD Late.reset
  | _ => Late.reset

/-! ## Registers -/

/-- The bits of a vector register: the set's upper bits over the scalar (R110, R149); v0 reads zero (R112). -/
def Hart.vreg (h : Hart) (n : Nat) : BitVec 16384 :=
  if n = 0 then 0
  else
    match h.vset with
    | none => 0
    | some v => BitVec.ofNat 16384 ((vecGet 0 v.hi n).toNat * 2 ^ 64 + (vecGet 0 h.sregs n).toNat)

/-- The hart after a vector write of a register: its scalar follows and its vdirty bit is set (R110, R149); a write
of v0 is discarded (R112). -/
def Hart.setVreg (h : Hart) (n : Nat) (x : BitVec 16384) : Hart :=
  if n = 0 then h
  else
    match h.vset with
    | none => h
    | some v =>
      { h with
        sregs := vecSet h.sregs n (BitVec.ofNat 64 x.toNat)
        vset := some { v with hi := vecSet v.hi n (BitVec.ofNat 16320 (x.toNat / 2 ^ 64)) }
        vdirty := h.vdirty ||| BitVec.ofNat 64 (2 ^ n) }

/-- The bits of a mask register; m0 reads all ones (R35). -/
def Hart.mreg (h : Hart) (n : Nat) : BitVec 4096 :=
  if n = 0 then BitVec.allOnes 4096
  else
    match h.vset with
    | none => 0
    | some v => vecGet 0 v.masks n

/-- The hart after a write of a mask register (R108); a write of m0 is discarded (R112). -/
def Hart.setMreg (h : Hart) (n : Nat) (x : BitVec 4096) : Hart :=
  if n = 0 then h
  else
    match h.vset with
    | none => h
    | some v =>
      { h with
        vset := some { v with masks := vecSet v.masks n x }
        vdirty := h.vdirty ||| BitVec.ofNat 64 (2 ^ (32 + n)) }

/-- A vector register as the issuer reads it: an access that waited reads what stood there when it issued. -/
def State.vregOf (s : State) (n : Nat) : BitVec 16384 :=
  match s.cur with
  | .late _ _ => vecGet 0 s.held.vregs n
  | _ => s.me.vreg n

/-- A mask register as the issuer reads it. -/
def State.mregOf (s : State) (n : Nat) : BitVec 4096 :=
  match s.cur with
  | .late _ _ => vecGet 0 s.held.masks n
  | _ => s.me.mreg n

/-- A scalar register whose data has arrived. -/
def Hart.arrive (h : Hart) (d : Reg) (v : Word) : Hart :=
  { h with
    pending := h.pending &&& ~~~(BitVec.ofNat 32 (2 ^ d.toNat))
    sregs := if d = 0 then h.sregs else vecSet h.sregs d.toNat v }

/-- A scalar result delivered to the issuer's register; a sequencer discards it (R85, R88). -/
def State.deliver (s : State) (who : Issuer) (d : Reg) (v : Word) : State :=
  match who with
  | .hart h => if (lookup? s.harts h.key).isNone then s else s.setHart h ((s.hart h).arrive d v)
  | _ => s

/-- The scalar the issuer reads: s0 is zero (R73); a sequencer reads its snapshot (R88); a strand the first 64 bits
of its slice (R144). -/
def State.rs (s : State) (r : Reg) : Word :=
  if r = 0 then 0
  else
    match s.cur with
    | .hart _ | .fold _ | .queued _ => vecGet 0 s.me.sregs r.toNat
    | .late _ _ => vecGet 0 s.held.sregs r.toNat
    | .seq _ e => vecGet 0 (s.me.prog e).sregs r.toNat
    | .strand _ j => BitVec.ofNat 64 (elemOf (s.me.vreg r.toNat) (8 * j) 64)

/-- The state after the issuer writes a scalar: s0 is not written (R73) and a sequencer's write is discarded (R88).
(log entry 85: DESIGN CHOICE.) -/
def State.setRs (s : State) (r : Reg) (x : Word) : State :=
  if r = 0 then s
  else
    match s.cur with
    | .hart _ | .fold _ | .queued _ => s.setMe { s.me with sregs := vecSet s.me.sregs r.toNat x }
    | .late _ id =>
      match s.opAt id with
      | some o => s.deliver o.issuer r x
      | none => s
    | .seq _ _ => s
    | .strand _ j => s.setMe (s.me.setVreg r.toNat (setElemOf (s.me.vreg r.toNat) (8 * j) 64 x.toNat))

/-- The issuer's handle registers (R231, R236). -/
def State.hregs (s : State) : Vector (Option Nat) 16 :=
  match s.cur with
  | .seq _ e => (s.me.prog e).hregs
  | _ => s.me.hregs

/-- The issuer's handle registers replaced. -/
def State.setHregs (s : State) (v : Vector (Option Nat) 16) : State :=
  match s.cur with
  | .seq _ e => s.setMe (s.me.setProg e { s.me.prog e with hregs := v })
  | _ => s.setMe { s.me with hregs := v }

/-- vl of the issuer (R87, R107, R143). -/
def State.vl (s : State) : Nat :=
  match s.cur with
  | .seq _ e => (s.me.prog e).vl.toNat
  | .strand _ j => (s.me.strand j).vl.toNat
  | .late _ _ => s.held.vl.toNat
  | _ => s.me.vl.toNat

/-- vsew of the issuer (R87, R107, R143). -/
def State.vsew (s : State) : Nat :=
  match s.cur with
  | .seq _ e => (s.me.prog e).vsew.toNat
  | .strand _ j => (s.me.strand j).vsew.toNat
  | .late _ _ => s.held.vsew.toNat
  | _ => s.me.vsew.toNat

/-- frm of the issuer (R51, R87). -/
def State.frm (s : State) : BitVec 2 :=
  match s.cur with
  | .seq _ e => (s.me.prog e).frm
  | .strand _ j => (s.me.strand j).frm
  | _ => s.me.frm

/-- nbedge of the issuer (R108, R109). -/
def State.nbedge (s : State) : BitVec 4 :=
  match s.cur with
  | .seq _ e => (s.me.prog e).nbedge
  | .strand _ j => (s.me.strand j).nbedge
  | _ => s.me.nbedge

/-- vstart of the issuer (R112). -/
def State.vstart (s : State) : Nat :=
  match s.cur with
  | .seq _ e => (s.me.prog e).vstart.toNat
  | .strand _ j => (s.me.strand j).vstart.toNat
  | .late _ _ => s.held.vstart.toNat
  | _ => s.me.vstart.toNat

/-- The state with the issuer's vstart replaced. -/
def State.setVstart (s : State) (i : Nat) : State :=
  let v := BitVec.ofNat 12 i
  match s.cur with
  | .seq _ e => s.setMe (s.me.setProg e { s.me.prog e with vstart := v })
  | .strand _ j => s.setMe (s.me.setStrand j { s.me.strand j with vstart := v })
  | .late _ _ => s
  | _ => s.setMe { s.me with vstart := v }

/-- kstart of the issuer (R210). -/
def State.kstart (s : State) : Nat :=
  match s.cur with
  | .seq _ e => (s.me.prog e).kstart.toNat
  | .late _ _ => s.held.kstart.toNat
  | _ => s.me.kstart.toNat

/-- The state with the issuer's kstart replaced. -/
def State.setKstart (s : State) (i : Nat) : State :=
  let v := BitVec.ofNat 32 i
  match s.cur with
  | .seq _ e => s.setMe (s.me.setProg e { s.me.prog e with kstart := v })
  | .late _ _ => s
  | _ => s.setMe { s.me with kstart := v }

/-- The loop counters of the issuer (R88, R91). -/
def State.loops (s : State) : Vector LoopCtr 8 :=
  match s.cur with
  | .seq _ e => (s.me.prog e).loops
  | _ => s.me.loops

/-- The state with a loop counter of the issuer replaced. -/
def State.setLoop (s : State) (c : Nat) (x : LoopCtr) : State :=
  match s.cur with
  | .seq _ e => s.setMe (s.me.setProg e { s.me.prog e with loops := vecSet (s.me.prog e).loops c x })
  | _ => s.setMe { s.me with loops := vecSet s.me.loops c x }

/-- The position of the word being executed: a code-area offset (R68, R88, R143). -/
def State.pc (s : State) : Word :=
  match s.cur with
  | .seq _ e => BitVec.ofNat 64 (s.me.prog e).pc
  | .strand _ j => (s.me.strand j).pc
  | .late _ id => ((s.opAt id).map (fun o => o.pc.setWidth 64)).getD 0
  | _ => s.me.pc

/-- The next free value (the spec states none for it). (log entry 10: DESIGN CHOICE.) -/
def State.freeWord (s : State) : Word := Config.freeWord s.draws

/-! ## How an instruction ends -/

/-- What a trap reports (R93, R96). `pos` replaces vstart and kstart in tstart (R89, R147). -/
structure TrapInfo where
  cause : Cause
  tval : Word
  source : Nat
  inner : Cause
  lane : Nat
  enginePc : BitVec 32
  pos : Option Word
  deferred : Bool
  deriving DecidableEq, Repr

/-- A trap raised at issue (R96, source 0). -/
def TrapInfo.at (c : Cause) (tval : Word) : TrapInfo := ⟨c, tval, 0, .none, 0, 0, none, false⟩

/-- Ways an instruction does not complete at once: a trap, a blocking condition unmet (R69), a stall within RUN (R68) after
which the instruction issues again with nothing of it done, a stall at an element of a stream register (R115, R168), which
keeps the elements below vstart, an access that is performed later (R248), and a word that enters the vector instruction queue, with the
registers that it names, the tile rows that it reads and, when it enters an operation too, what that needs (R111). -/
inductive Stop
  | trap (t : TrapInfo)
  | wait
  | stall
  | hold (reg : Nat)
  | defer (n : Needs)
  | queue (names : List Nat) (rows : List Nat) (op : Option Needs)
  deriving DecidableEq, Repr

/-- Where the issuer goes when an instruction completes: to the next word, to an offset, or nowhere. -/
inductive Flow
  | seq
  | goto (pc : Word)
  | stay
  deriving DecidableEq, Repr

/-- A computation over the state that may stop. -/
abbrev M (α : Type) := EStateM Stop State α

/-- Raise a trap at issue. -/
def trap {α : Type} (c : Cause) (tval : Word) : M α := throw (.trap (.at c tval))

/-- Raise a trap in the lanes (R96, source 1). -/
def trapLane {α : Type} (c : Cause) (tval : Word) : M α := throw (.trap { TrapInfo.at c tval with source := 1 })

/-- Code of a cause (R93). -/
def Cause.code : Cause → Nat
  | .none => 0
  | .illegalInstr => 1
  | .privilege => 2
  | .badSpace => 3
  | .misaligned => 4
  | .badAddr => 5
  | .codeWrite => 6
  | .fetchBound => 7
  | .trapInstr => 8
  | .syscall => 9
  | .breakpoint => 10
  | .vdead => 11
  | .strandStop => 12
  | .engineOwned => 13
  | .engineStop => 14
  | .tileShape => 15
  | .sparsity => 16
  | .runHandle => 17
  | .runState => 18
  | .extent => 19
  | .poison => 20
  | .mapStale => 21
  | .handleExhausted => 22
  | .handleBad => 23
  | .semOverflow => 24
  | .barrierBroken => 25
  | .launchRefused => 26
  | .peerGone => 27
  | .ticketCancelled => 28
  | .poolEmpty => 29
  | .machineCheck => 30

/-- The causes that R93 routes to F whatever the privilege. -/
def Cause.toF : Cause → Bool
  | .extent | .poolEmpty | .machineCheck => true
  | _ => false

/-- tcause (R96). -/
def tcauseOf (t : TrapInfo) (prior : Priv) : Word :=
  BitVec.ofNat 64 (t.enginePc.toNat * 2 ^ 32 + t.lane % 32 * 2 ^ 21 + (if t.deferred then 2 ^ 20 else 0) +
    (if prior = .s then 2 ^ 19 else 0) + t.source % 8 * 2 ^ 16 + t.inner.code * 2 ^ 8 + t.cause.code)

/-- A trap escalates to F when its cause always does, when the hart runs at S, or when its group has no handler
(R94, R263). -/
def escalates (t : TrapInfo) (h : Hart) (g : Group) : Bool :=
  t.cause.toF || h.priv == .s || g.handler.isNone

/-- The trap CSRs of R95, steps 2 and 3. A trap of a replayed or fetched word has source 1 (R96). -/
def Hart.trapCsrs (h : Hart) (t : TrapInfo) : Hart :=
  let t := if h.vqueue.isEmpty || t.deferred then t else { t with source := 1 }
  { h with
    tcause := tcauseOf t h.priv
    tpc := BitVec.ofNat 64 (h.pc.toNat % 2 ^ 21)
    tval := t.tval
    tstart := t.pos.getD (BitVec.ofNat 64 (h.kstart.toNat * 2 ^ 32 + h.vstart.toNat)) }

/-- Words of a replay that a trap leaves unissued become the set's resume index and VAGAIN address (R141, R142). -/
def Hart.dropQueue (h : Hart) : Hart :=
  if h.vqueue.isEmpty then h
  else
    { h with
      vqueue := []
      body := false
      vset := h.vset.map (fun v => { v with resume := some (v.replay.length - h.vqueue.length, h.pc) }) }

/-- Entry to the handler at S (R95, step 4). -/
def Hart.enterS (h : Hart) (handler : Nat) : Hart :=
  { h.dropQueue with state := .run, priv := .s, pc := BitVec.ofNat 64 handler, wfeAt := none, hwait := none, stalled := none }

/-- TAKING A TRAP on a hart (R94, R95): the trap CSRs are written, then the hart enters the handler at S, or is
SUSPENDED for Kennel. -/
def Hart.takeTrap (h : Hart) (t : TrapInfo) (g : Group) : Hart :=
  let h := { h.trapCsrs t with mmspKey := none }
  if escalates t h g then
    { h with state := .suspended, wfeAt := none, hwait := none, stalled := none, trapHeld := true, body := false }
  else h.enterS (g.handler.getD 0)

/-- RETURN FROM A TRAP (R97): PC, privilege, vstart and kstart from the trap CSRs. An ERET to the address of a replay
with a resume index continues that replay; to any other address it clears the index (R141). (log entry 64: DEDUCED.) -/
def Hart.eret (h : Hart) : Hart :=
  let pc := h.tpc
  let v := h.vset.getD VSet.reset
  let q := match v.resume with
    | some (i, a) => if a = pc then v.replay.drop i else []
    | none => []
  { h with
    pc := pc
    priv := if bitOf h.tcause 19 then .s else .p
    vstart := BitVec.ofNat 12 h.tstart.toNat
    kstart := BitVec.ofNat 32 (h.tstart.toNat / 2 ^ 32)
    vqueue := q
    vset := h.vset.map (fun v => { v with resume := none }) }

/-- A sequencer stops at a trap, or is suspended by a cause that goes to F (R88). -/
def SeqProg.takeTrap (p : SeqProg) (t : TrapInfo) (now : Nat) : SeqProg :=
  { p with
    stop := some ⟨t.cause, t.tval, BitVec.ofNat 32 p.pc, p.vstart, p.kstart⟩
    stopAt := now
    waiting := false
    hwait := none
    key := none
    suspended := t.cause.toF }

/-- A strand stops at a trap (R143, R147). -/
def Strand.takeTrap (x : Strand) (t : TrapInfo) : Strand :=
  { x with
    running := false
    block := []
    stop := some ⟨t.cause, t.tval, BitVec.ofNat 32 x.pc.toNat, x.vstart, 0⟩ }

/-- Vector accesses that are not complete: elements in flight to or from other chips, and those still to be performed. -/
def OpKind.vector : OpKind → Bool
  | .remoteVec _ _ _ _ _ => true
  | .late x => x.needs.vec
  | _ => false

/-- Vector accesses, pattern reads and counter snapshots among the operations in flight: what still writes a vector set (R106). -/
def OpKind.fillsSet : OpKind → Bool
  | .patFetch _ _ _ _ => true
  | .late x => x.needs.vec || x.needs.vdest.isSome
  | k => k.vector

/-- Tile loads in flight from other chips, and tile instructions still to be executed. -/
def OpKind.isTileLoad : OpKind → Bool
  | .tileLoad _ _ _ _ => true
  | .late x => x.needs.tile
  | _ => false

/-- A near-memory job. -/
def OpKind.isNmc : OpKind → Bool
  | .nmc _ _ _ => true
  | _ => false

/-- A merge job with a USER combine, which runs on its hart's lanes (R188). -/
def Op.userCombine (o : Op) : Bool :=
  match o.kind with
  | .job j => bitOf j.comb 63
  | _ => false

/-- A load or an atomic that is not complete, whatever register it names: one to s0 marks none (R73, R85). -/
def Op.loads (o : Op) : Bool := o.cls == .load || o.cls == .both

/-- Whether a hart may enter a trap: none of its loads is pending and every earlier vector instruction has completed, a far store's
elements too (R85, R95, R139). -/
def State.quiet (s : State) (h : HartId) : Bool :=
  (s.hart h).pending == 0 && (s.hart h).vpending == 0 && (s.hart h).lanes.isEmpty &&
    !(s.ops.any (fun o => o.issuer.owner == h && (o.kind.vector || (o.issuer == .hart h && o.loads))))

/-- The issuer takes a trap. Trap entry waits until the hart is quiet (R85, R95): until then the instruction has not issued,
which is the state `s0` it began from. (log entry 25: DEDUCED.) -/
def State.takeTrap (s0 : State) (t : TrapInfo) (s : State) : State :=
  match s.cur with
  | .hart h => if s0.quiet h then s.setMe (s.me.takeTrap t s.group) else s0
  | .seq _ e => s.setMe (s.me.setProg e ((s.me.prog e).takeTrap t s.cycle))
  | .strand _ j => s.setMe (s.me.setStrand j ((s.me.strand j).takeTrap t))
  | .fold _ | .queued _ | .late _ _ => s

/-- The hart past the word it issued: a replay's words issue from the VAGAIN's own address (R141), and the body has the lanes until
its last word (R111). -/
def Hart.retire (h : Hart) : Hart :=
  match h.vqueue with
  | [] => { h with pc := h.pc + 4 }
  | [_] => { h with vqueue := [], pc := h.pc + 4, body := false }
  | _ :: t => { h with vqueue := t, body := true }

/-- The issuer past the word it issued. -/
def State.retire (s : State) : State :=
  match s.cur with
  | .hart _ => s.setMe s.me.retire
  | .seq _ e => s.setMe (s.me.setProg e { s.me.prog e with pc := (s.me.prog e).pc + 4, waiting := false })
  | .strand _ j =>
    let x := s.me.strand j
    s.setMe (s.me.setStrand j { x with pc := x.pc + 4, block := x.block.tail })
  | .fold _ | .queued _ | .late _ _ => s

/-- The issuer at another word. -/
def State.goto (s : State) (pc : Word) : State :=
  match s.cur with
  | .hart _ => s.setMe { s.me with pc := pc }
  | .seq _ e => s.setMe (s.me.setProg e { s.me.prog e with pc := pc.toNat, waiting := false })
  | .strand _ j => s.setMe (s.me.setStrand j { s.me.strand j with pc := pc, block := [] })
  | .fold _ | .queued _ | .late _ _ => s

/-- What a waiting HWAIT of the issuer waits for (R242). -/
def State.hwait (s : State) : Option (List Nat) :=
  match s.cur with
  | .seq _ e => (s.me.prog e).hwait
  | _ => s.me.hwait

/-- The state with what the issuer's HWAIT waits for replaced. -/
def State.setHwait (s : State) (l : Option (List Nat)) : State :=
  match s.cur with
  | .seq _ e => s.setMe (s.me.setProg e { s.me.prog e with hwait := l })
  | _ => s.setMe { s.me with hwait := l }

/-- The issuer held in a blocking instruction (R68, R69). -/
def State.enterWait (s : State) : State :=
  match s.cur with
  | .hart _ => s.setMe { s.me with state := .wait }
  | .seq _ e => s.setMe (s.me.setProg e { s.me.prog e with waiting := true })
  | _ => s

/-- A pure effect as a computation. -/
def act (f : State → State) : M Unit := modify f

/-! ## Checks at issue -/

/-- The bindings of the issuer's hart (R165). -/
def State.binds (s : State) : List Binding :=
  match s.me.vset with
  | none => []
  | some v => v.binds

/-- The binding of a register. -/
def State.bindOf (s : State) (r : Nat) : Option Binding := s.binds.find? (fun b => b.reg = r)

/-- The binding found first among registers in rising order. -/
def State.boundAmong (s : State) (rs : List Reg) : Option Binding :=
  (stableSort (fun a b => decide (a ≤ b)) (rs.map BitVec.toNat)).findSome? s.bindOf

/-- tval of a RUN_STATE of R113: the run handle, or 0 for a pattern. -/
def Binding.tval (b : Binding) : Word :=
  match b.kind with
  | .read | .append => b.handle
  | .patRead | .patWrite => 0

/-- Whether a word in the hart's vector instruction queue names a register of a list: the lanes read and write it first (R110). -/
def State.queueNames (s : State) (rs : List Reg) : Bool :=
  match s.cur with
  | .hart _ => s.me.lanes.any (fun e => rs.any (fun r => e.names.contains r.toNat))
  | _ => false

/-- Whether any scalar register of a list waits for data (R85). -/
def State.pendingAmong (s : State) (rs : List Reg) : Bool := rs.any (fun r => bitOf s.me.pending r.toNat)

/-- The scalars an instruction names: RUN_STATE for a bound one (R73, R113), a stall for one that is pending (R85) or that a queued
vector instruction names (R110). A sequencer names its snapshot's. -/
def named (rs : List Reg) : M Unit := do
  let s ← get
  match s.cur with
  | .seq _ _ | .late _ _ => pure ()
  | _ =>
    match s.boundAmong rs with
    | some b => trap .runState b.tval
    | none => if s.pendingAmong rs || s.queueNames rs then throw .stall else pure ()

/-! ## Operations in flight and handle sequencers -/

/-- Whether an operation is still to be performed. -/
def State.alive (s : State) (id : Nat) : Bool := s.ops.any (fun o => o.id == id)

/-- A sequencer of a core. -/
def Core.seqr (c : Core) (q : Nat) : Sequencer := vecGet Sequencer.reset c.seqs q

/-- A core with a sequencer replaced. -/
def Core.setSeqr (c : Core) (q : Nat) (x : Sequencer) : Core := { c with seqs := vecSet c.seqs q x }

/-- The unperformed operations that precede what enters a sequencer next (R246 items 1, 2 and 5). -/
def State.predsAt (s : State) (c q : Nat) : List Nat :=
  (((s.coreAt c).seqr q).before ++ ((s.coreAt c).seqr q).entered).filter s.alive

/-- The sequencer that a handle register names: HANDLE_BAD when it names none (R236), PEER_GONE when its import is
broken (R244). (log entry 57: DEDUCED.) -/
def seqOf (h : HReg) : M Nat := do
  let s ← get
  match s.cur with
  | .late _ id => pure (((s.opAt id).map (fun o => o.entered)).getD 64)
  | _ =>
    match vecGet none s.hregs h.toNat with
    | none => trap .handleBad 0
    | some q =>
      match (s.core.seqr q).broken with
      | some chip => trap .peerGone (chip.setWidth 64)
      | none => pure q

/-- A sequencer that no reference names and whose operations are all performed becomes FREE (R233). -/
def Sequencer.settle (x : Sequencer) (alive : Nat → Bool) : Sequencer :=
  if x.state == .retiring && !(x.entered.any alive) then { x with state := .free, entered := [], before := [] }
  else x

/-- Every sequencer of a core settled. -/
def State.settleCore (s : State) (c : Nat) : State :=
  s.setCoreAt c { s.coreAt c with seqs := (s.coreAt c).seqs.map (fun x => x.settle s.alive) }

/-- One reference to a sequencer dropped; the last one leaves it RETIRING, or FREE when nothing is unperformed
(R233, R234). -/
def State.dropRef (s : State) (c q : Nat) : State :=
  let x := (s.coreAt c).seqr q
  let x := if x.refs ≤ 1 then { x with refs := 0, state := .retiring } else { x with refs := x.refs - 1 }
  s.setCoreAt c ((s.coreAt c).setSeqr q (x.settle s.alive))

/-- One reference more. -/
def State.addRef (s : State) (c q : Nat) : State :=
  let x := (s.coreAt c).seqr q
  s.setCoreAt c ((s.coreAt c).setSeqr q { x with refs := x.refs + 1 })

/-- The lowest FREE sequencer of a core (R235). -/
def Core.freeSeqr (c : Core) : Option Nat := leastBelow 64 (fun q => (c.seqr q).state == .free)

/-- The next generation, skipping 0 (R233). -/
def nextGen {w : Nat} (g : BitVec w) : BitVec w := if g + 1 = 0 then 1 else g + 1

/-- A sequencer allocated with its scope and the operations that precede its own (R233). -/
def Core.allocSeqr (c : Core) (q : Nat) (st : SeqState) (scope : BitVec 3) (before : List Nat)
    (broken : Option (BitVec 10)) (owner : Nat) : Core :=
  let x := c.seqr q
  c.setSeqr q ⟨st, nextGen x.gen, scope, if st == .live then 1 else 0, owner, [], before, broken⟩

/-- The program that an issuer is running, or 0 (R89). -/
def State.progOf (s : State) (who : Issuer) : Nat :=
  match who with
  | .seq h e => ((s.hart h).prog e).id
  | _ => 0

/-- The operation that issues now: its number, what precedes it, and what it does. -/
def State.newOp (s : State) (q : Nat) (preds : List Nat) (cls : OpClass) (kind : OpKind) : Op :=
  { id := s.nextOp, parent := none, issuer := s.cur, prog := s.progOf s.cur, ctx := s.group.ctx, core := s.me.core,
    pc := BitVec.ofNat 32 s.pc.toNat, cls := cls, entered := q, preds := preds, phase := .queued, taken := [],
    counts := (0, 0, 0), maps := [], buf := [], kind := kind }

/-- An operation in flight from now on. -/
def State.pushOp (s : State) (op : Op) : State := { s with ops := s.ops ++ [op], nextOp := s.nextOp + 1 }

/-- The next operation enters a sequencer of a core (R245). -/
def State.enter (s : State) (c q : Nat) : State :=
  let x := (s.coreAt c).seqr q
  s.setCoreAt c ((s.coreAt c).setSeqr q { x with entered := x.entered.filter s.alive ++ [s.nextOp] })

/-- The operation that the word being executed entered when it issued: an access that waited, or a word of the vector instruction queue
that writes a bound register. -/
def State.issuedAs (s : State) : Option Op :=
  match s.cur with
  | .late _ id => s.opAt id
  | .queued h =>
    match (s.hart h).lanes.head?.map Queued.work with
    | some (.bound id) => s.opAt id
    | _ => none
  | _ => none

/-- The operation that enters a sequencer now (R245). What a word starts that has entered one already is a part of that.
(log entry 22: DESIGN CHOICE.) -/
def State.addOp (s : State) (q : Nat) (cls : OpClass) (kind : OpKind) : State :=
  match s.issuedAs with
  | some o => s.pushOp { s.newOp q o.preds cls kind with parent := some o.id, issuer := o.issuer, prog := o.prog }
  | none =>
    match s.cur with
    | .late _ _ => s
    | _ => (s.enter s.me.core q).pushOp (s.newOp q (s.predsAt s.me.core q) cls kind)

/-- An operation issued under a sequencer. (log entry 22: DESIGN CHOICE.) -/
def enqueue (q : Nat) (cls : OpClass) (kind : OpKind) : M Unit := act (fun s => s.addOp q cls kind)

/-- The state with an operation replaced. -/
def State.setOp (s : State) (o : Op) : State :=
  { s with ops := s.ops.map (fun p => if p.id == o.id then o else p) }

/-- Whether an operation still has parts in flight. -/
def State.hasParts (s : State) (id : Nat) : Bool := s.ops.any (fun p => p.parent == some id)

/-- The operations after the last part of one has been performed. -/
def State.endParent (s : State) (o : Op) : State :=
  match o.parent with
  | some id => if s.hasParts id then s else { s with ops := s.ops.filter (fun p => p.id != id) }
  | none => s

/-- The state with an operation performed: it leaves the list, with the operation whose last part it was, and sequencers that waited for
it settle (R233). -/
def State.endOp (s : State) (o : Op) : State :=
  (({ s with ops := s.ops.filter (fun p => p.id != o.id) }).endParent o).settleCore o.core

/-- The state in which some readers of vector registers see them as they are (R145, R207). -/
def State.dropUnder (s : State) (p : Reader → Bool) : State := { s with under := s.under.filter (fun u => !p u.reader) }

/-- Whether an observer has still to see something that an operation wrote (R248). -/
def State.unseen (s : State) (id : Nat) : Bool := s.hidden.any (fun x => x.op == id)

/-- Whether a hart is an observer within a scope of another's (R232). -/
def State.observes (s : State) (h : HartId) (scope : Nat) (k : HartId) : Bool :=
  match scope with
  | 0 => k == h
  | 1 => (s.hart k).core == (s.hart h).core
  | 2 => k.group == h.group
  | 3 => (s.groupAt k.group).ctx == (s.groupAt h.group).ctx && (s.hart k).core / 64 == (s.hart h).core / 64
  | _ => (s.groupAt k.group).ctx == (s.groupAt h.group).ctx

/-- Whether an operation that precedes another holds it up: it is not performed for every observer within a scope of the other's hart
(R247). -/
def State.holds (s : State) (h : HartId) (scope id : Nat) : Bool :=
  s.alive id &&
    !((s.opAt id).any (fun o => o.phase == .spread) && s.hidden.all (fun x => x.op != id || !s.observes h scope x.hart))

/-- The scope of the handle of a hart's operation, by its sequencer. -/
def State.scopeOf (s : State) (h : HartId) (q : Nat) : Nat := ((s.coreAt (s.hart h).core).seqr q).scope.toNat

/-- Whether one of some operations, which precede what a hart does under a sequencer, holds it up (R247). -/
def State.heldUp (s : State) (h : HartId) (q : Nat) (ids : List Nat) : Bool := ids.any (s.holds h (s.scopeOf h q))

/-- Wait until every operation that precedes the next one under a sequencer is performed (R247), for an instruction that may trap
precisely when it is performed, within a scope no narrower than `least`: a barrier arrival that waits, a windowed gather.
(log entry 21: DESIGN CHOICE.) -/
def settled (q least : Nat) : M Unit := do
  let s ← get
  let scope := Nat.max least (s.scopeOf s.cur.owner q)
  if (s.predsAt s.me.core q).any (s.holds s.cur.owner scope) then throw .stall else pure ()

/-- Whether everything that precedes an operation is performed (R247). -/
def State.ready (s : State) (o : Op) : Bool :=
  !(s.heldUp o.issuer.owner o.entered o.preds)

/-- An issuer leaves the queue of the semaphore that it waits for (R304). -/
def State.unqueue (s : State) (who : Issuer) : State :=
  let c := (s.hart who.owner).core
  let x := s.coreAt c
  s.setCoreAt c { x with waiters := x.waiters.filter (fun w => w.who != who) }

/-- Whether an engine of a hart still holds a forked program: RDV has not freed it (R89). -/
def Hart.forked (h : Hart) (e : Eng) : Bool :=
  match e with
  | .tile => h.tileProg.isSome
  | .stream => h.streamProg.isSome

/-- Source code of an engine in tcause (R96). -/
def Eng.source : Eng → Nat
  | .tile => 2
  | .stream => 3

/-- Whether an error of a program's operations stops it: it has not stopped, or only for a cause that Kennel settles (R88, R89). -/
def SeqProg.takesStop (p : SeqProg) : Bool := p.stop.all (fun i => i.cause.toF)

/-- A report on its way to the hart of an issuer (R85). An error of an operation of the program that a sequencer still holds stops
that sequencer, which leaves the queue it waits in (R89, R304), one that POOL_EMPTY has suspended too (R88); an error of an earlier
program, or a further one of a program that is already stopped, goes to the hart as ENGINE_STOP. `prog` is the operation's program; `lane` marks a refusal of a
vector access (R96, source 1). (log entry 69: DESIGN CHOICE.) -/
def State.reportBy (s : State) (who : Issuer) (prog : Nat) (c : Cause) (tval : Word) (pc : BitVec 32) (lane : Bool) : State :=
  let h := s.hart who.owner
  if (lookup? s.harts who.owner.key).isNone then s
  else
  match who with
  | .seq k e =>
    let p := h.prog e
    if h.forked e && p.takesStop && p.id == prog then
      (s.setHart k (h.setProg e
        { p with
          stop := some ⟨c, tval, pc, p.vstart, p.kstart⟩
          stopAt := s.cycle
          ended := false
          waiting := false
          hwait := none })).unqueue who
    else s.setHart k { h with reports := h.reports ++ [⟨.engineStop, tval, e.source, c, pc, true⟩] }
  | _ =>
    let src := match who with
      | .hart _ => if lane then 1 else 0
      | _ => 1
    s.setHart who.owner { h with reports := h.reports ++ [⟨c, tval, src, .none, 0, true⟩] }

/-- A report about what an issuer does now. -/
def State.report (s : State) (who : Issuer) (c : Cause) (tval : Word) (pc : BitVec 32) (lane : Bool) : State :=
  match who with
  | .late _ id =>
    match s.opAt id with
    | some o => s.reportBy o.issuer o.prog c tval pc lane
    | none => s
  | _ => s.reportBy who (s.progOf who) c tval pc lane

/-- A report about an operation in flight (R85, R89). -/
def State.reportOp (s : State) (o : Op) (c : Cause) (tval : Word) (lane : Bool) : State :=
  s.reportBy o.issuer o.prog c tval o.pc lane

/-! ## Instructions that are performed later than they issue (R84, R206, R208, R248) -/

/-- The chip an operation addresses. -/
def OpKind.chip? : OpKind → Option (BitVec 10)
  | .remote c _ => some c
  | .remoteVec c _ _ _ _ => some c
  | .ticket c _ _ => some c
  | .send _ c => some c
  | .fetch c _ _ => some c
  | .patFetch c _ _ _ => some c
  | .tileLoad c _ _ _ => some c
  | _ => none

/-- Whether an operation addresses another chip: it has sent to it, or it has issued and is still to (R354, R363). -/
def Op.addresses (o : Op) (chip : BitVec 10) : Bool :=
  o.kind.chip? == some chip || (match o.kind with
    | .late x => o.phase == .queued && x.needs.chips.contains chip
    | _ => false)

/-- Whether an earlier operation does not hold up one to a session: it is performed, or all of it that is not has been sent to that
session (R356). -/
def State.sentAll (s : State) (chip : BitVec 10) (id : Nat) : Bool :=
  match s.opAt id with
  | none => true
  | some o =>
    o.phase != .queued &&
      (o.kind.chip? == some chip ||
        (s.hasParts id && s.ops.all (fun p => p.parent != some id || p.kind.chip? == some chip)))

/-- Whether every operation of a list is performed, but for those that have sent to the same session (R356). -/
def State.sentTo (s : State) (ids : List Nat) (chip : BitVec 10) : Bool := ids.all (s.sentAll chip)

/-- The scope within which what precedes an access is to be performed: its handle's, and a barrier arrival's no narrower than its group
(R247, R321). -/
def State.scopeFor (s : State) (h : HartId) (n : Needs) : Nat :=
  let scope := (n.q.map (s.scopeOf h)).getD 0
  if n.cls = .barrier then Nat.max 2 scope else scope

/-- Whether what precedes an access of a hart lets it be performed (R247, R356). -/
def State.follows (s : State) (h : HartId) (n : Needs) (ids : List Nat) : Bool :=
  (!n.near || !(ids.any (s.holds h (s.scopeFor h n)))) && n.chips.all (s.sentTo ids)

/-- Whether a word that an access writes has still to show a hart what another has written there: the hart's own write comes after it
(R249). -/
def State.behind (s : State) (h : HartId) (n : Needs) : Bool :=
  n.cls != .load && s.hidden.any (fun x => x.hart == h && n.touch.contains (x.key / 8) && s.alive x.op)

/-- The operations that precede an instruction which issues now. -/
def State.precede (s : State) (n : Needs) : List Nat :=
  match n.q with
  | some q => s.predsAt s.me.core q
  | none => []

/-- Whether an access of a hart to one of some 8-byte words issued before a number and is not performed: accesses by one hart to one
word are performed in program order (R84). -/
def State.touching (s : State) (h : HartId) (touch : List Nat) (before : Nat) : Bool :=
  s.ops.any (fun o => o.issuer.owner == h && decide (o.id < before) && o.phase != .spread &&
    (match o.kind with
     | .late x => x.needs.touch.any touch.contains
     | .patStore _ words => words.any touch.contains
     | _ => false))

/-- The instructions that a core's tile engine is still to execute or to complete, oldest first (R206). -/
def State.tileOps (s : State) (c : Nat) : List Op :=
  s.ops.filter (fun o => o.core == c && (match o.kind with
    | .tileLoad _ _ _ _ => true
    | .late x => x.needs.tile && o.phase == .queued
    | _ => false))

/-- The rows that another hart's held MMS-family instruction of a core writes; none when no such instruction is held (R206, R208). -/
def State.heldRows (s : State) (c : Nat) (h : HartId) : Option (List Nat) :=
  s.harts.findSome? (fun p =>
    if p.2.core = c ∧ p.1 ≠ h.key ∧ p.2.state = .run then p.2.mmspKey.map Prod.snd else none)

/-- Whether rows that a TMOV reads are still to be written: by instructions of the engine that issued before a number, or by another
hart's held one (R208). -/
def State.rowsPending (s : State) (c : Nat) (h : HartId) (rows : List Nat) (before : Nat) : Bool :=
  (s.tileOps c).any (fun o => decide (o.id < before) && (match o.kind with
    | .late y => y.needs.rows.any rows.contains
    | .tileLoad _ k _ _ => rows.any (fun r => r / 128 == k)
    | _ => false)) ||
  ((s.heldRows c h).getD []).any rows.contains

/-- The mode of a tile of the issuer's core once the engine has executed what stands before an instruction that issues now: the mode that
the instruction is checked against (R205). -/
def State.modeAt (s : State) (a : Nat) : Bool :=
  let now := (vecGet Tile.reset s.core.tile.tiles a).c64
  match s.cur with
  | .hart _ =>
    (s.tileOps s.me.core).foldl (fun m o => match o.kind.held.bind (fun x => x.needs.mode) with
      | some (k, c) => if k = a then c else m
      | none => m) now
  | _ => now

/-- Whether a TMOV of a core that issued before an operation is still to read one of some rows (R208). -/
def State.rowsAwaited (s : State) (c : Nat) (rows : List Nat) (id : Nat) : Bool :=
  s.harts.any (fun p => p.2.core == c && p.2.lanes.any (fun e => decide (e.before ≤ id) && e.rows.any rows.contains))

/-- Whether a core's tile engine is free for an instruction that issues now and writes some rows (R206, R208). -/
def State.tileFree (s : State) (rows : List Nat) : Bool :=
  (s.tileOps s.me.core).isEmpty && (s.heldRows s.me.core s.cur.owner).isNone && !s.rowsAwaited s.me.core rows s.nextOp

/-- Whether an instruction that issues now is performed in the same step. -/
def State.performsNow (s : State) (n : Needs) : Bool :=
  !s.late && s.follows s.cur.owner n (s.precede n) && !s.touching s.cur.owner n.touch s.nextOp && !s.behind s.cur.owner n &&
    (!n.tile || s.tileFree n.rows)

/-- The end of an instruction's checks: it is performed now, or later. (log entry 21: DESIGN CHOICE.) -/
def ready (n : Needs) : M Unit := do
  let s ← get
  match s.cur with
  | .late _ _ => pure ()
  | _ => if s.performsNow n then pure () else throw (.defer n)

/-- What an update or a scalar access of this chip needs. -/
def Needs.of (q : Nat) (cls : OpClass) (dest : Option Reg) : Needs :=
  { Needs.nothing with q := some q, cls := cls, dest := dest, near := true }

/-- The 8-byte words that `n` bytes from a key lie in. -/
def touched (key n : Nat) : List Nat := (List.range ((key + n - 1) / 8 + 1 - key / 8)).map (key / 8 + ·)

/-- A hart with a scalar register marked pending (R85). -/
def Hart.mark (h : Hart) (d : Reg) : Hart :=
  if d = 0 then h else { h with pending := h.pending ||| BitVec.ofNat 32 (2 ^ d.toNat) }

/-- A hart with a vector register marked pending, and the scalar inside it (R110). -/
def Hart.vmark (h : Hart) (d : Reg) : Hart :=
  let b := BitVec.ofNat 32 (2 ^ d.toNat)
  if d = 0 then h else { h with vpending := h.vpending ||| b, pending := h.pending ||| b }

/-- A hart with a vector register's data there. -/
def Hart.vectorArrived (h : Hart) (vd : Nat) : Hart :=
  let b := ~~~(BitVec.ofNat 32 (2 ^ vd))
  { h with vpending := h.vpending &&& b, pending := h.pending &&& b }

/-- The issuer after an instruction that is performed later: past its word, with its destinations pending and its progress at zero. -/
def State.issued (s : State) (n : Needs) : State :=
  let s := match s.cur with
    | .hart _ =>
      let x := match n.dest with
        | some d => s.me.mark d
        | none => s.me
      s.setMe (match n.vdest with
        | some d => x.vmark d
        | none => x)
    | _ => s
  let s := if n.vec then s.setVstart 0 else s
  (if n.cells then s.setKstart 0 else s).retire

/-- What an instruction reads, as it stands when it issues. -/
def State.capture (s : State) (n : Needs) : Late :=
  { word := s.word, needs := n, sregs := Vector.ofFn (fun k : Fin 32 => s.rs (BitVec.ofNat 5 k.val))
    vregs := Vector.ofFn (fun k : Fin 32 => s.me.vreg k.val), masks := Vector.ofFn (fun k : Fin 24 => s.me.mreg k.val)
    vl := BitVec.ofNat 13 s.vl, vsew := BitVec.ofNat 7 s.vsew, vstart := BitVec.ofNat 12 s.vstart
    kstart := BitVec.ofNat 32 s.kstart }

/-- The operation of an instruction that is performed later, in its sequencer and, for a tile instruction, in the engine's queue
(R206, R245). -/
def State.pushLate (s : State) (n : Needs) : State :=
  let queue := if n.tile then (s.tileOps s.me.core).map Op.id else []
  let op := s.newOp (n.q.getD 64) (s.precede n ++ queue) n.cls (.late (s.capture n))
  let s := match n.q with
    | some q => s.enter s.me.core q
    | none => s
  s.pushOp { op with counts := (BitVec.ofNat 64 op.id, 0, 0) }

/-- Whether the queue that an instruction of the tile engine enters is full (R206). -/
def State.tileFull (s : State) (n : Needs) : Bool := n.tile && decide (32 ≤ (s.tileOps s.me.core).length)

/-- An instruction issued that is performed later. A hart waits for room in the tile engine's queue (R68, R206); a sequencer's tile
instructions are executed one by one. (log entry 21: DESIGN CHOICE.) -/
def State.deferTo (s : State) (n : Needs) : State :=
  match s.cur with
  | .hart _ => if s.tileFull n then s.enterWait else (s.pushLate n).issued n
  | .seq _ _ => if n.tile then s else (s.pushLate n).issued n
  | _ => s

/-- Whether the lanes are still to hand an operation the registers that it reads (R114, R207). -/
def State.inLanes (s : State) (o : Op) : Bool :=
  (s.hart o.issuer.owner).lanes.any (fun e => match e.work with
    | .execute => false
    | .bound id | .access id | .tile id => id == o.id)

/-- Whether a CLAIM of the issuer is still to write vl (R288). -/
def State.vlPending (s : State) : Bool :=
  match s.cur with
  | .hart h => s.ops.any (fun o => o.issuer == .hart h && (o.kind.held.map (fun x => x.needs.setsVl)).getD false)
  | _ => false

/-- Whether an instruction that has issued can be performed now. -/
def State.mayPerform (s : State) (o : Op) (x : Late) : Bool :=
  o.phase == .queued && !s.inLanes o && s.follows o.issuer.owner x.needs o.preds && !s.touching o.issuer.owner x.needs.touch o.id &&
    !s.behind o.issuer.owner x.needs &&
    (!x.needs.tile || (!((s.tileOps o.core).any (fun p => o.preds.contains p.id || p.parent.any o.preds.contains)) &&
      (s.heldRows o.core ⟨Config.noGroup, 0, 0⟩).isNone && !s.rowsAwaited o.core x.needs.rows o.id))

/-- The registers of an instruction that has been performed wait for it no longer. -/
def State.freeDest (s : State) (o : Op) (n : Needs) : State :=
  match o.issuer with
  | .hart h =>
    if (lookup? s.harts h.key).isNone then s
    else
      let x := s.hart h
      let x := match n.dest with
        | some d => { x with pending := x.pending &&& ~~~(BitVec.ofNat 32 (2 ^ d.toNat)) }
        | none => x
      s.setHart h (match n.vdest with
        | some d => x.vectorArrived d.toNat
        | none => x)
  | _ => s

/-- An instruction that waited has been performed, but for the parts that it sent to other chips, or for the observers that see it
later (R248). -/
def State.endLate (s : State) (o : Op) : State :=
  if s.hasParts o.id then s.setOp { o with phase := .sent }
  else
    let s := match o.kind with
      | .late x => s.freeDest o x.needs
      | _ => s
    if s.late then s.setOp { o with phase := .spread } else s.endOp o

/-- A hart whose vector register's elements, as an access would have written them, are zero. -/
def Hart.zeroElems (x : Hart) (d : Reg) (z : Nat × List Nat) : Hart :=
  x.setVreg d.toNat (z.2.foldl (fun v i => setElemOf v i z.1 0) (x.vreg d.toNat))

/-- An instruction under a broken import completes without effect: a load or an atomic writes zero (R244). -/
def State.dropLate (s : State) (o : Op) (x : Late) : State :=
  let s := match x.needs.dest with
    | some d => s.deliver o.issuer d 0
    | none => s
  (match x.needs.vdest, lookup? s.harts o.issuer.owner.key with
   | some d, some y => s.setHart o.issuer.owner (y.zeroElems d x.needs.zero)
   | _, _ => s).endLate o

/-- What an instruction that waited leaves. A check that fails only now is reported. (log entry 21: DESIGN CHOICE.) -/
def finishLate (s0 : State) (id : Nat) : EStateM.Result Stop State Flow → State
  | .ok _ s => (s.opAt id).elim s s.endLate
  | .error (.trap t) _ =>
    match s0.opAt id with
    | none => s0
    | some o =>
      match o.kind with
      | .late x => (s0.reportOp o t.cause t.tval false).dropLate o x
      | _ => s0
  | .error _ _ => s0

/-! ## The vector instruction queue (R111, R143) -/

/-- Whether the lanes of a core are within another hart's replayed or fetched body, which keeps them for its length (R111, R141). -/
def State.replaying (s : State) (c : Nat) (h : HartId) : Bool :=
  s.harts.any (fun p => p.2.core == c && p.1 != h.key && p.2.body && (p.2.state == .run || p.2.state == .wait))

/-- Whether the lanes are not free for a hart's next vector instruction: earlier ones of its own wait, its strands run, or another hart
of its core has them for a body (R111, R143). -/
def State.lanesBusy (s : State) (h : HartId) : Bool :=
  !(s.hart h).lanes.isEmpty || (s.hart h).strands.any (fun t => t.running) ||
    s.replaying (s.hart h).core h

/-- Whether an entry is a vector instruction, TMOV among them: an instruction of the tile engine only marks its place (R111, R206). -/
def Queued.isVector (e : Queued) : Bool :=
  match e.work with
  | .tile _ => false
  | _ => true

/-- Whether a vector instruction queue is full (R111). -/
def Hart.lanesFull (x : Hart) : Bool := decide (64 ≤ (x.lanes.filter Queued.isVector).length)

/-- What the lanes do with an instruction that enters an operation as it enters the queue. -/
def Needs.work (n : Needs) (id : Nat) : LaneWork :=
  if n.tile then .tile id else if n.vec then .access id else .bound id

/-- A word enters the vector instruction queue of its hart, and the operation that it enters with it; a hart waits for room (R68, R111,
R206). -/
def State.enqueueLane (s : State) (names rows : List Nat) (op : Option Needs) : State :=
  match s.cur with
  | .hart _ =>
    if (match op with
      | some n => if n.tile then s.tileFull n else s.me.lanesFull
      | none => s.me.lanesFull) then s.enterWait
    else
      let e : Queued :=
        { word := s.word, names := names, vl := s.me.vl, vsew := s.me.vsew, vstart := s.me.vstart, frm := s.me.frm, nbedge := s.me.nbedge,
          rows := rows, before := s.nextOp, more := decide (1 < s.me.vqueue.length)
          work := (op.map (fun n => n.work s.nextOp)).getD .execute }
      let s := (op.map s.pushLate).getD s
      let n := { op.getD Needs.nothing with vdest := none, vec := (op.map (fun n => !n.tile)).getD true }
      let t := (s.setMe { s.me with lanes := s.me.lanes ++ [e] }).issued n
      t.setMe { t.me with body := s.me.body }
  | _ => s

/-- Whether a USER combine of a hart is running (R188). -/
def State.userJobOf (s : State) (h : HartId) : Bool :=
  s.ops.any (fun o => o.issuer.owner == h && o.phase != .queued && o.userCombine)

/-- Whether the lanes can take the word at the head of a hart's queue: its strands have stopped, the data of its registers is there,
no USER combine keeps one of them, and the rows that a TMOV reads have been written (R111, R143, R188, R208). -/
def State.laneReady (s : State) (h : HartId) (e : Queued) : Bool :=
  let x := s.hart h
  !(x.strands.any (fun t => t.running)) &&
    !(e.names.any (fun k => bitOf x.vpending k || bitOf x.pending k)) &&
    !(s.userJobOf h && e.names.any (fun k => decide (16 ≤ k % 32 ∧ k % 32 < 24))) &&
    !s.rowsPending x.core h e.rows e.before &&
    !s.replaying x.core h

/-- The state in which the lanes execute the head of a hart's queue: its control values are those at its issue. -/
def State.laneState (s : State) (h : HartId) (e : Queued) : State :=
  let x := s.hart h
  { s.setHart h { x with vl := e.vl, vsew := e.vsew, vstart := e.vstart, frm := e.frm, nbedge := e.nbedge } with
    cur := .queued h, word := e.word }

/-- The state after the lanes have executed the head of a hart's queue: the hart's own control values stand again, the entry is gone,
and an operation under a binding's handle is performed, but for what it has started. -/
def State.laneDone (s t : State) (h : HartId) (e : Queued) : State :=
  let x := s.hart h
  let t := t.setHart h { t.hart h with
    vl := x.vl, vsew := x.vsew, vstart := x.vstart, frm := x.frm, nbedge := x.nbedge, lanes := x.lanes.tail, body := e.more }
  match e.work with
  | .bound id => (t.opAt id).elim t t.endLate
  | _ => t

/-- The head of a hart's queue hands its operation the registers as they stand; a load's register waits for it from then on. -/
def State.laneHands (s : State) (h : HartId) (id : Nat) : State :=
  let x := s.hart h
  let y := { x with lanes := x.lanes.tail }
  match s.opAt id with
  | none => s.setHart h y
  | some o =>
    match o.kind with
    | .late z =>
      let z := { z with
        vregs := Vector.ofFn (fun k : Fin 32 => x.vreg k.val), masks := Vector.ofFn (fun k : Fin 24 => x.mreg k.val) }
      (s.setOp { o with kind := .late z }).setHart h (match z.needs.vdest with
        | some d => y.vmark d
        | none => y)
    | _ => s.setHart h y

/-! ## How an instruction ends -/

/-- The state an instruction that began in `s0` leaves. (log entry 25: DEDUCED.) -/
def finish (s0 : State) : EStateM.Result Stop State Flow → State
  | .ok .seq s => s.retire
  | .ok (.goto pc) s => s.goto pc
  | .ok .stay s => s
  | .error (.trap t) s => State.takeTrap s0 t s
  | .error .wait _ => s0.enterWait
  | .error .stall _ => s0
  | .error (.hold r) s =>
    match s.cur with
    | .hart _ => s.setMe { s.me with stalled := some r, body := !s.me.vqueue.isEmpty }
    | _ => s
  | .error (.defer n) _ => s0.deferTo n
  | .error (.queue names rows op) s => s.enqueueLane names rows op

/-- Which issuers accept a word (R42). Every word is the hart's; the classes name who else takes it. -/
inductive Accept
  | hart
  | lanes
  | tile
  | stream
  | engines
  deriving DecidableEq, Repr

/-- Whether the issuer accepts the word (R42). A USER fold's block is its hart's lanes (R188). -/
def Issuer.accepts : Issuer → Accept → Bool
  | .hart _, _ => true
  | .seq _ .tile, a => a == .tile || a == .engines
  | .seq _ .stream, a => a == .stream || a == .engines
  | .strand _ _, a => a == .lanes
  | .fold _, a => a == .lanes
  | .queued _, _ => true
  | .late _ _, _ => true

/-- The state that an instruction's checks and effects leave. -/
def run (m : M Flow) (s : State) : State :=
  match s.cur with
  | .late _ id => finishLate s id (m s)
  | _ => finish s (m s)

/-- An instruction: check 1 of R43, then the instruction's own checks and effects, then its end. -/
def issue (a : Accept) (m : M Flow) (s : State) : Host.Outcome State Fault Refusal :=
  if s.cur.accepts a then .next (run m s)
  else .next (State.takeTrap s (.at .illegalInstr (s.word.setWidth 64)) s)

/-- An event: its effect when it is enabled, else nothing. (log entry 1: DESIGN CHOICE.) -/
def event (ok : Bool) (f : State → State) (s : State) : Host.Outcome State Fault Refusal :=
  .next (if ok then f s else s)


end Sys2Proof.Machine
end

