-- ==== Sys2Proof/Machine/RunOps.lean ====
section
/-!
DEFINITION. Runs: handles and their checks, the run table, positions, extents and pools, the bytes of a run, poison,
and appends (R150–R158, R264, R324–R334).
-/

namespace Sys2Proof.Machine

/-- Record size S of a layout word (R150). -/
def recBytes (layout : Word) : Nat := bitsOf layout 0 11

/-- Key code of a layout word (R150). -/
def keyCode (layout : Word) : Nat := bitsOf layout 12 3

/-- Bytes of a key (R150). -/
def keyBytes (k : Nat) : Nat :=
  match k with
  | 0 => 0
  | 2 | 4 => 8
  | _ => 4

/-- A valid layout word (R150). -/
def layoutOk (w : Word) : Bool :=
  let size := recBytes w
  decide (4 ≤ size) && decide (size ≤ 1024) && decide (size % 4 = 0) && decide (keyCode w ≤ 5) &&
    decide (keyBytes (keyCode w) ≤ size) && !(bitOf w 11) && !(bitOf w 15) && decide (w.toNat < 2 ^ 17)

/-- Record size of a run. -/
def Run.size (r : Run) : Nat := recBytes r.layout

/-- Whether near-memory commands may change the run (R150). -/
def Run.upd (r : Run) : Bool := bitOf r.layout 16

/-- Total size of the mapped extents (R326, R371). -/
def Run.capacity (r : Run) : Nat :=
  if r.host then (r.hostExt.map Prod.snd).foldl (· + ·) 0 else r.mapped.foldl (· + ·) 0

/-- The run handle of an entry (R152). -/
def runHandle (s : State) (e : Nat) (r : Run) : Word :=
  BitVec.ofNat 64 ((if r.host then 6 else 5) * 2 ^ 60 + s.chipId.toNat * 2 ^ 50 + r.gen.toNat * 2 ^ 18 + e % 2 ^ 18)

/-- Entry number that a handle holds (R152). -/
def handleEntry (w : Word) : Nat := bitsOf w 0 18

/-- An entry of a context's run table. -/
def Ctx.run (c : Ctx) (e : Nat) : Run := lookupD Run.reset c.runs e

/-- The context with an entry replaced. -/
def Ctx.setRun (c : Ctx) (e : Nat) (r : Run) : Ctx := { c with runs := insertKey c.runs e r }

/-- An entry of a context of the machine. -/
def State.runAt (s : State) (c e : Nat) : Run := (s.ctxAt c).run e

/-- The state with an entry replaced. -/
def State.setRunAt (s : State) (c e : Nat) (r : Run) : State := s.setCtxAt c ((s.ctxAt c).setRun e r)

/-- R152: the first failing check traps RUN_HANDLE, which `false` says. -/
def runHandleOk (s : State) (c : Ctx) (w : Word) : Bool :=
  let sp := bitsOf w 60 4
  let e := handleEntry w
  (sp == 5 || sp == 6) && bitsOf w 42 8 == 0 && bitsOf w 50 10 == s.chipId.toNat && decide (e < c.table) &&
    (c.run e).state != .free && bitsOf w 18 24 == (c.run e).gen.toNat

/-- The entry of a run handle: RUN_HANDLE as R152 gives; at P, PRIVILEGE for the save run (R264). -/
def checkRun (w : Word) : M Nat := do
  let s ← get
  if runHandleOk s s.ctx w then
    if handleEntry w = 1 ∧ s.me.priv = .p then trap .privilege w else pure (handleEntry w)
  else trap .runHandle w

/-- The run of an entry of the issuer's context. -/
def getRun (e : Nat) : M Run := do
  let s ← get
  pure (s.ctx.run e)

/-! ## Bytes of runs -/

/-- The host address of a run byte: its extents in order (R371). -/
def hostAddr : List (Nat × Nat) → Nat → Nat
  | [], off => off
  | (a, n) :: t, off => if off < n then a + off else hostAddr t (off - n)

/-- The memory key of a run byte. -/
def runByteKey (r : Run) (c e off : Nat) : Nat :=
  if r.host then hostKey (hostAddr r.hostExt off) else runKey c e off

/-- A run byte. -/
def State.runByte (s : State) (c e off : Nat) : Byte := Memory.read s.mem (runByteKey (s.runAt c e) c e off)

/-- Run bytes from an offset on. -/
def State.runBytes (s : State) (c e off : Nat) : Nat → List Byte
  | 0 => []
  | n + 1 => s.runByte c e off :: State.runBytes s c e (off + 1) n

/-- Run bytes written from an offset on. -/
def State.putRunBytes (s : State) (c e off : Nat) : List Byte → State
  | [] => s
  | b :: bs =>
    State.putRunBytes { s with mem := Memory.write s.mem (runByteKey (s.runAt c e) c e off) b } c e (off + 1) bs

/-- Record `i` of a run. -/
def State.record (s : State) (c e i : Nat) : List Byte :=
  s.runBytes c e (i * (s.runAt c e).size) (s.runAt c e).size

/-- The least position that an append has taken and not completed, or L: C of R161. -/
def State.completeTo (s : State) (c e : Nat) : Nat :=
  let firsts := s.ops.flatMap (fun o =>
    if o.ctx = c then o.taken.filterMap (fun t => if t.run.toNat = e ∧ 0 < t.count then some t.first else none) else [])
  firsts.foldl Nat.min (s.runAt c e).len

/-! ## Poison (R334) -/

/-- A live channel of a die, chosen by a number: none of the channels retired so far. -/
def liveChannel (retired : List Nat) (n : Nat) : Nat :=
  let live := (List.range Config.channels).filter (fun k => !(retired.contains k))
  live.getD (n % live.length) 0

/-- The channel that holds a 2 KiB block of a run's bytes: where the address hash places it and, when that channel is retired,
spare space on another; a block of no retired channel stays (R329, R330). -/
def Die.channelOf (d : Die) (c e gen block : Nat) : Nat :=
  d.retired.zipIdx.foldl
    (fun ch p =>
      if ch = p.1 then liveChannel (d.retired.take (p.2 + 1)) (Config.spareHash (p.2 + 1) c e gen block) else ch)
    (Config.blockHash c e gen block % Config.channels)

/-- Whether a line's damage is past correction: 2e + f ≤ 8 corrects e errors with the f symbols of failed groups (R332); the
line's stack is its channel's. (log entry 16: DESIGN CHOICE.) -/
def State.uncorrectable (s : State) (c e line : Nat) : Bool :=
  let r := s.runAt c e
  let d := vecGet Die.reset s.dies r.home
  let syms := lookupD [] r.damage line
  if syms.isEmpty && decide (d.tsv.length < 3) then false
  else
    let failed := (d.tsv.filter (fun p => p.1 = d.channelOf c e r.gen.toNat (line / 32) / 32)).map Prod.snd
    !correctable failed syms

/-- The codeword that device memory holds for a line of a run, where no symbol is damaged (R332). -/
def State.lineWord (s : State) (c e line : Nat) : List Byte := codeword (s.runBytes c e (64 * line) 64)

/-- Whether a read of a line fails. (log entry 56: DESIGN CHOICE.) -/
def State.lineBad (s : State) (c e line : Nat) : Bool :=
  (s.runAt c e).poison.contains line || s.uncorrectable c e line

/-- The first line from one on, of `n`, whose read fails. -/
def State.firstBad (s : State) (c e line : Nat) : Nat → Option Nat
  | 0 => none
  | n + 1 => if s.lineBad c e line then some line else State.firstBad s c e (line + 1) n

/-- Lines that cover bytes `a` to `b - 1`: the first and how many. -/
def linesOf (a b : Nat) : Nat × Nat := if b ≤ a then (a / 64, 0) else (a / 64, (b - 1) / 64 - a / 64 + 1)

/-- The first failing line of a byte range of a run in device memory. -/
def State.badIn (s : State) (c e a b : Nat) : Option Nat :=
  if (s.runAt c e).host then none else s.firstBad c e (linesOf a b).1 (linesOf a b).2

/-- A line entered in the poison table at the read that found it uncorrectable. (log entry 56: DESIGN CHOICE.) -/
def State.poisonLine (s : State) (c e line : Nat) : State :=
  let r := s.runAt c e
  if r.poison.contains line then s
  else s.setRunAt c e { r with poison := r.poison ++ [line], damage := eraseKey r.damage line }

/-- A line whose whole codeword has been written: neither poisoned nor damaged. -/
def State.cleanLine (s : State) (c e line : Nat) : State :=
  let r := s.runAt c e
  s.setRunAt c e { r with poison := r.poison.filter (· ≠ line), damage := eraseKey r.damage line }

/-- Every line of a written byte range cleaned: a partial write of a correctable line writes it back corrected. -/
def State.cleanRange (s : State) (c e a b : Nat) : State :=
  (List.range (linesOf a b).2).foldl (fun s i => s.cleanLine c e ((linesOf a b).1 + i)) s

/-- The first line of a written range that refuses the write: a failing line that the range covers in part only. -/
def State.refusing (s : State) (c e a b : Nat) : Option Nat :=
  if (s.runAt c e).host then none
  else
    ((List.range (linesOf a b).2).map (fun i => (linesOf a b).1 + i)).find?
      (fun l => s.lineBad c e l && !(decide (a ≤ 64 * l) && decide (64 * l + 64 ≤ b)))

/-! ## Extents and the pool (R326, R328) -/

/-- Bytes written within one line of a run. A write of the whole line replaces its codeword; one of less reads the line first, and a
failing line refuses it and is entered in the poison table (R334). -/
def State.putLine (c e : Nat) (s : State) (p : Nat × List Byte) : State :=
  if s.lineBad c e (p.1 / 64) && !(p.1 % 64 == 0 && p.2.length == 64) then s.poisonLine c e (p.1 / 64)
  else (s.cleanLine c e (p.1 / 64)).putRunBytes c e p.1 p.2

/-- Bytes from an offset on, cut where lines begin; the fuel bounds the number of pieces. -/
def lineParts : Nat → Nat → List Byte → List (Nat × List Byte)
  | 0, _, _ => []
  | f + 1, a, bs =>
    if bs.isEmpty then []
    else (a, bs.take (64 - a % 64)) :: lineParts f (a / 64 * 64 + 64) (bs.drop (64 - a % 64))

/-- Bytes written from an offset on, line by line, whatever single lines refuse. -/
def State.putLines (s : State) (c e a : Nat) (bs : List Byte) : State :=
  if (s.runAt c e).host then s.putRunBytes c e a bs
  else (lineParts (bs.length / 64 + 2) a bs).foldl (State.putLine c e) s

/-- Size of the next extent: 2 MiB until 256 MiB are mapped, then 256 MiB. -/
def Run.nextExtent (r : Run) : Nat := if r.capacity < 2 ^ 28 then 2 ^ 21 else 2 ^ 28

/-- Pool units of 2 MiB in an extent. -/
def extentUnits (n : Nat) : Nat := n / 2 ^ 21

/-- Page units that back no extent on a die (R325). -/
def Ctx.poolAt (x : Ctx) (die : Nat) : Nat := lookupD 0 x.pools die

/-- Page units that back no extent, on every die. -/
def Ctx.pool (x : Ctx) : Nat := (x.pools.map Prod.snd).sum

/-- The context with the pool's units on a die replaced; a die that gives none is not listed. -/
def Ctx.setPool (x : Ctx) (die n : Nat) : Ctx :=
  { x with pools := if n = 0 then eraseKey x.pools die else insertKey x.pools die n }

/-- The extent of a run that holds a byte (R326). -/
def extentIndex : List Nat → Nat → Nat
  | [], _ => 0
  | n :: t, off => if off < n then 0 else extentIndex t (off - n) + 1

/-- Extents added until the run's capacity covers `need` bytes, from a pool; `none` when the pool cannot supply one.
The fuel bounds the number of extents. -/
def growTo : Nat → Run → Nat → Nat → Option (Run × Nat)
  | 0, r, pool, need => if need ≤ r.capacity then some (r, pool) else none
  | f + 1, r, pool, need =>
    if need ≤ r.capacity then some (r, pool)
    else if extentUnits r.nextExtent ≤ pool then
      growTo f { r with mapped := r.mapped ++ [r.nextExtent] } (pool - extentUnits r.nextExtent) need
    else none

/-- Page units that back a run (R325). -/
def Run.units (r : Run) : Nat := extentUnits (r.mapped.foldl (· + ·) 0)

/-- 64-byte lines of a page unit. -/
def unitLines : Nat := 2 ^ 15

/-- The page units of a run in which lines are poisoned or damaged, as they return to the pool: nothing zeroes them there (R325,
R334). -/
def Run.stains (r : Run) : List Stain :=
  (((r.poison ++ r.damage.map Prod.fst).map (· / unitLines)).eraseDups).map (fun u =>
    ⟨(r.poison.filter (fun l => l / unitLines == u)).map (· % unitLines),
     (r.damage.filter (fun p => p.1 / unitLines == u)).map (fun p => (p.1 % unitLines, p.2))⟩)

/-- A run of which such a unit backs the unit of a number. -/
def Run.stain (r : Run) (u : Nat) (t : Stain) : Run :=
  { r with
    poison := r.poison ++ t.poison.map (unitLines * u + ·)
    damage := t.damage.foldl (fun l p => insertKey l (unitLines * u + p.1) p.2) r.damage }

/-- One of the `pool` units of a die leaves a context's pool: which one is open, and only one with poisoned or damaged lines shows.
(log entry 79: DESIGN CHOICE.) -/
def State.drawUnit (s : State) (c die pool : Nat) : State × Option Stain :=
  let x := s.ctxAt c
  let mine := x.stained.filter (fun p => p.1 == die)
  if mine.isEmpty then (s, none)
  else
    let t := mine[s.freeWord.toNat % pool]?
    ({ s.setCtxAt c { x with stained := (t.map x.stained.erase).getD x.stained } with draws := s.draws + 1 }, t.map Prod.snd)

/-- Units of a die leave a pool of `pool`, to back a run's units from one on. -/
def State.backUnits (c e die : Nat) : Nat → Nat → Nat → State → State
  | 0, _, _, s => s
  | n + 1, u, pool, s =>
    match s.drawUnit c die pool with
    | (s, none) => State.backUnits c e die n (u + 1) (pool - 1) s
    | (s, some t) => State.backUnits c e die n (u + 1) (pool - 1) (s.setRunAt c e ((s.runAt c e).stain u t))

/-- A run with more extents than it had: their units leave the pool of its home die (R325). -/
def State.mapRun (s : State) (c e : Nat) (r : Run) : State :=
  let x := s.ctxAt c
  let u := (x.run e).units
  let n := r.units - u
  let pool := x.poolAt r.home
  let s := s.setCtxAt c ((x.setRun e r).setPool r.home (pool - n))
  if x.stained.isEmpty then s else State.backUnits c e r.home n u pool s

/-! ## Appends (R155, R158) -/

/-- A contiguous block of positions taken for records (R155). A run that is no longer OPEN takes none (R154). -/
def State.takePositions (s : State) (o : Op) (e : Nat) (data : List Byte) : State × Op :=
  let r := s.runAt o.ctx e
  let k := data.length / r.size
  if k = 0 ∨ r.state ≠ .opened then (s, o)
  else
    (s.setRunAt o.ctx e { r with len := r.len + k },
     { o with taken := o.taken ++ [⟨BitVec.ofNat 64 e, r.len, r.len, k, data⟩] })

/-- What a write of taken positions met: nothing, the bound that the step has, the end of the extents, a line that refuses it, a
channel's first refusal, or its second (R328, R331, R334). -/
inductive Wrote
  | all
  | more
  | extent
  | poison (line : Nat)
  | refused
  | stale
  deriving DecidableEq, Repr

/-- Zero bytes into every position of a stopped append that it did not write, poisoned lines left as they are
(R158). -/
def State.zeroFill (s : State) (c e a b : Nat) : State :=
  let zeros := List.replicate (b - a) (0 : Byte)
  (lineParts ((b - a) / 64 + 2) a zeros).foldl
    (fun s p => if (s.runAt c e).poison.contains (p.1 / 64) then s else s.putLine c e p) s

/-- The generation of the map of a run's home die (R329). -/
def State.mapGenOf (s : State) (r : Run) : BitVec 16 := (vecGet Die.reset s.dies r.home).mapGen

/-- Whether a channel refuses a write of an operation at a byte of a run: the map has advanced since the operation entered the byte's
extent and translated (R327, R331). -/
def State.stale (s : State) (o : Op) (e off : Nat) : Bool :=
  let r := s.runAt o.ctx e
  match lookup? o.maps e with
  | some (x, g) => !r.host && x == extentIndex r.mapped off && g != s.mapGenOf r
  | none => false

/-- An operation that has translated a byte of a run as the map stands (R327). -/
def State.translated (s : State) (o : Op) (e off : Nat) : Op :=
  let r := s.runAt o.ctx e
  { o with maps := insertKey o.maps e (extentIndex r.mapped off, s.mapGenOf r) }

/-- How many of `k` records at a byte can be written whole, with each line that refuses entered in the poison table (R334); the
first such line. -/
def State.wholeRecords (s : State) (c e a size : Nat) : Nat → Nat → State × Nat × Option Nat
  | 0, _ => (s, 0, none)
  | f + 1, k =>
    match s.refusing c e a (a + k * size) with
    | none => (s, k, none)
    | some l =>
      match State.wholeRecords (s.poisonLine c e l) c e a size f ((64 * l - a) / size) with
      | (s, n, none) => (s, n, some l)
      | r => r

/-- The records of one taken block written as far as the extents, the lines and the step's bound allow (R158, R328, R331, R334). A
refused write is translated again, and made once more when the operation goes on; one refused again ends it. -/
def State.writeBlock (s : State) (o : Op) (t : Taken) : State × Op × Taken × Wrote :=
  let e := t.run.toNat
  let r := s.runAt o.ctx e
  let a := t.first * r.size
  let b := (t.first + t.count) * r.size
  let room := Nat.min t.count ((r.capacity - a) / r.size)
  if room = 0 then (s, o, t, if t.count = 0 then .all else .extent)
  else if s.stale o e a then
    (if o.phase = .replay then (s.zeroFill o.ctx e a (Nat.min b r.capacity), o, { t with data := [] }, .stale)
     else (s, s.translated o e a, t, .refused))
  else
    let k := Nat.min room (s.steps.getD room)
    match s.wholeRecords o.ctx e a r.size (k + 1) k with
    | (s, n, bad) =>
      let s := s.cleanRange o.ctx e a (a + n * r.size)
      let s := s.putRunBytes o.ctx e a (t.data.take (n * r.size))
      let o := { s.translated o e (a + n * r.size - 1) with phase := .writing }
      let t := { t with first := t.first + n, count := t.count - n }
      match bad with
      | some l => (s.zeroFill o.ctx e (a + n * r.size) (Nat.min b r.capacity), o, { t with data := [] }, .poison l)
      | none => (s, o, { t with data := t.data.drop (n * r.size) }, if t.count = 0 then .all else if n < room then .more else .extent)

/-- Every taken block of an operation written as far as it goes; stops at the first that cannot be. -/
def State.writeTaken (s : State) (o : Op) : List Taken → State × Op × List Taken × Wrote
  | [] => (s, o, [], .all)
  | t :: ts =>
    match s.writeBlock o t with
    | (s, o, _, .all) => State.writeTaken s o ts
    | (s, o, t', w) => (s, o, t' :: ts, w)

/-- A word of a host run's header, which lies before its first record (R371). -/
def State.hostWord (s : State) (r : Run) (off : Nat) (v : Nat) : State :=
  match r.hostExt with
  | [] => s
  | (a, _) :: _ => { s with mem := Memory.writeBytes s.mem (hostKey (a - 64 + off)) (natLe 8 v) }

/-- The published mark of a run at a value; a host run's header shows it (R371). -/
def State.setPub (s : State) (c e p : Nat) : State :=
  let r := s.runAt c e
  let s := s.setRunAt c e { r with pub := p }
  if r.host then s.hostWord r 0 p else s

/-- RPUB's effect (R161): P moves to the complete prefix. -/
def State.publish (s : State) (c e : Nat) : State :=
  let r := s.runAt c e
  if r.state = .opened then s.setPub c e (Nat.max r.pub (s.completeTo c e)) else s

/-- A run sealed: P = L (R154). -/
def State.sealRun (s : State) (c e : Nat) : State :=
  let s := s.setPub c e (s.runAt c e).len
  s.setRunAt c e { s.runAt c e with state := .sealed }

/-- A run freed (R163): its pages return to its home die's pool, its bytes can be read no more.
What its lines have been poisoned or damaged by stays with the pages (R334). (log entry 32: DESIGN CHOICE.) -/
def State.freeRun (s : State) (c e : Nat) : State :=
  let x := s.ctxAt c
  let r := x.run e
  let s := s.setCtxAt c
    { x.setPool r.home (x.poolAt r.home + r.units) with
      runs := insertKey x.runs e { Run.reset with gen := r.gen }
      stained := x.stained ++ r.stains.map (fun t => (r.home, t)) }
  if r.host then s else { s with mem := Memory.clear s.mem (runKey c e 0) (2 ^ 42) }

/-- Extents added until the run's capacity covers `need` bytes, whatever the pool holds. -/
def growFree : Nat → Run → Nat → Run
  | 0, r, _ => r
  | f + 1, r, need =>
    if need ≤ r.capacity then r else growFree f { r with mapped := r.mapped ++ [r.nextExtent] } need

/-- Units moved from a die's free memory into a context's pool (R325). -/
def State.growPool (s : State) (c die n : Nat) : State :=
  let x := s.ctxAt c
  let d := vecGet Die.reset s.dies die
  let s := { s with dies := vecSet s.dies die { d with units := d.units - n } }
  s.setCtxAt c (x.setPool die (x.poolAt die + n))

/-- Page units that a context holds: in its pool, and mapped by its runs. Those of the two runs that only Kennel appends to are
Kennel's own, and no limit counts them. (log entry 33: DEDUCED.) -/
def Ctx.pages (x : Ctx) : Nat :=
  x.pool + ((x.runs.filter (fun (p : Nat × Run) => decide (2 ≤ p.1))).map (fun (p : Nat × Run) => p.2.units)).sum

/-- Page units that the contexts of a virtual function hold. -/
def State.pagesOf (s : State) (vf : Nat) : Nat :=
  ((s.ctxs.filter (fun (p : Nat × Ctx) => p.2.vf == vf)).map (fun (p : Nat × Ctx) => p.2.pages)).sum

/-- Whether a function's limit allows its context so many units more (R367). -/
def State.limitAllows (s : State) (c n : Nat) : Bool :=
  let vf := (s.ctxAt c).vf
  decide ((s.pagesOf vf + n) * 2 ^ 21 ≤ (s.vfAt vf).limits.pool)

/-- Whether a function's limit and a die's free memory allow so many units more (R325, R367). -/
def State.mayGrow (s : State) (c die n : Nat) : Bool :=
  s.limitAllows c n && decide (die < 8) && decide (n ≤ (vecGet Die.reset s.dies die).units)

/-- At least so many units of a die in the pool, which is grown when it must be and may be (R265, R324); else the result that a
host command gives: 4 beyond the function's limit, 2 without pages (R369). (log entry 32: DESIGN CHOICE.) -/
def State.supply (s : State) (c die n : Nat) : Except Nat State :=
  let more := n - (s.ctxAt c).poolAt die
  if more = 0 then .ok s
  else if s.limitAllows c more = false then .error 4
  else if s.mayGrow c die more then .ok (s.growPool c die more)
  else .error 2

/-- A run with extents added until its capacity covers `need` bytes. -/
def Run.grown (r : Run) (need : Nat) : Run := growFree (need / 2 ^ 21 + 1) r need

/-- Records appended and published by Kennel (R264, R265, R296): positions at the end, written whole but for lines that refuse them.
Kennel first draws the pages that they need from the home die's free memory into the pool; with too few there and in the pool it appends
nothing. (log entry 33: DEDUCED.) -/
def State.kennelAppend (s : State) (c e : Nat) (data : List Byte) : State :=
  let r := s.runAt c e
  let k := data.length / r.size
  let r' := r.grown ((r.len + k) * r.size)
  let n := r'.units - r.units
  let s := s.growPool c r.home (Nat.min n (vecGet Die.reset s.dies r.home).units)
  if (s.ctxAt c).poolAt r.home < n then s
  else
    let s := s.mapRun c e { r' with len := r.len + k }
    (s.putLines c e (r.len * r.size) data).publish c e

/-- The first byte that a waiting append could not write (R328, R371). -/
def State.noRoom (s : State) (c : Nat) (t : Taken) : Nat :=
  let r := s.runAt c t.run.toNat
  Nat.max r.capacity (t.first * r.size)

/-- The first block of an append to a run that waits for an extent. -/
def State.waitingFor (s : State) (c e : Nat) : Option Taken :=
  (s.ops.filter (fun o => o.ctx == c && o.phase == .extent)).findSome? (fun o =>
    (o.taken.head?).bind (fun t => if t.run.toNat = e then some t else none))

/-- A host run's stall word (R371): bit 63 and the run byte that found no room while an append to it waits for an extent, else 0. -/
def State.stallWord (s : State) (c e : Nat) : State :=
  let r := s.runAt c e
  if r.host then
    s.hostWord r 8 (match s.waitingFor c e with
      | some t => 2 ^ 63 + s.noRoom c t % 2 ^ 41
      | none => 0)
  else s

/-- The stall words of the runs that an operation's blocks are of. -/
def State.stallWords (s : State) (c : Nat) (ts : List Taken) : State :=
  ts.foldl (fun s t => s.stallWord c t.run.toNat) s

/-- The number of the first record that a stopped append did not write, counted from the first that it took. -/
def failedRecord (ts : List Taken) : Nat :=
  match ts with
  | [] => 0
  | t :: _ => t.first - t.start

/-- Where an operation stands whose writes have met something. -/
def Wrote.phase : Wrote → OpPhase
  | .refused => .replay
  | .extent => .extent
  | _ => .writing

/-- An operation that has taken positions writes what it can: it ends, goes on later, waits for an extent (R328), or stops with an
error reported to its issuer (R158, R331). `after` runs when the whole append is complete. -/
def State.driveAppend (s : State) (o : Op) (after : State → State) : State :=
  let stop := fun (s : State) (o : Op) (ts : List Taken) (cause : Cause) =>
    (s.endOp { o with taken := [] }).reportOp o cause (BitVec.ofNat 64 (failedRecord ts)) false
  let s := match s.writeTaken o o.taken with
    | (s, o, _, .all) => after (s.endOp { o with taken := [] })
    | (s, o, ts, .stale) => stop s o ts .mapStale
    | (s, o, ts, .poison _) => stop s o ts .poison
    | (s, o, ts, w) => s.setOp { o with taken := ts, phase := w.phase }
  s.stallWords o.ctx o.taken

/-- An event that advances an operation: nothing happens when the operation is not there or not ready for it.
(log entry 22: DESIGN CHOICE.) -/
def opEvent (id : Nat) (f : Op → State → Option State) (s : State) : Host.Outcome State Fault Refusal :=
  match s.opAt id with
  | some o => .next ((f o s).getD s)
  | none => .next s

/-- An operation that has been issued and may be performed now (R247). -/
def State.mayStart (s : State) (o : Op) : Bool := o.phase == .queued && s.ready o

end Sys2Proof.Machine
end

