-- ==== Sys2Proof/Machine/Operands.lean ====
section
/-!
DEFINITION. Every operand form: tagged pointers and their checks, local-store and operand-store bytes, the elements of
vector registers as a hart or a strand sees them, masks, second sources, and stream-mode registers.
-/

namespace Sys2Proof.Machine

/-! ## Pointers (R23–R27) -/

/-- The place a pointer names. -/
inductive Place
  | ls (core off : Nat)
  | os (core off : Nat)
  | sem (n : Nat)
  | iter (n : Nat) (limit : Bool)
  | rout (n : Nat)
  | remote (chip : BitVec 10) (die core off : Nat)
  deriving DecidableEq, Repr

/-- A failed check: its cause, tval (none for the word, R26), and whether the target's bank makes it (R27). -/
structure PtrFault where
  cause : Cause
  tval : Option Word
  late : Bool
  deriving DecidableEq, Repr

/-- Kinds of access: the spaces that R24 permits, and whether it writes. -/
structure Access where
  spaces : List Nat
  write : Bool
  atomic : Bool
  deriving DecidableEq, Repr

/-- Scalar loads (R24). -/
def Access.load : Access := ⟨[0, 1, 2, 3, 4, 7], false, false⟩

/-- Scalar stores (R24). -/
def Access.store : Access := ⟨[0, 1, 2, 3, 4, 7], true, false⟩

/-- Atomics (R257). -/
def Access.amo : Access := ⟨[0, 1, 3, 4, 7], true, true⟩

/-- Vector loads (R135). -/
def Access.vload : Access := ⟨[0, 1, 2, 4, 7], false, false⟩

/-- Vector stores (R135). -/
def Access.vstore : Access := ⟨[0, 1, 2, 4, 7], true, false⟩

/-- VSTXADD (R135). -/
def Access.vadd : Access := ⟨[0, 1, 4, 7], true, true⟩

/-- Copy-pattern reads (R24, R174). -/
def Access.patRead : Access := ⟨[0, 1, 4, 7], false, false⟩

/-- Copy-pattern writes (R24, R174). -/
def Access.patWrite : Access := ⟨[0, 1, 4, 7], true, false⟩

/-- JTAB's table (R81) and pattern-binding descriptors (R165). -/
def Access.table : Access := ⟨[0, 1, 4], false, false⟩

/-- Descriptors (R172, R181, R227, R343). -/
def Access.desc : Access := ⟨[0], false, false⟩

/-- Space field (R23). -/
def ptrSpace (p : Word) : Nat := bitsOf p 60 4

/-- Chip field (R23). -/
def ptrChip (p : Word) : BitVec 10 := BitVec.ofNat 10 (bitsOf p 50 10)

/-- Die field (R23). -/
def ptrDie (p : Word) : Nat := bitsOf p 47 3

/-- Core field (R23). -/
def ptrCore (p : Word) : Nat := bitsOf p 41 6

/-- Offset field (R23). -/
def ptrOff (p : Word) : Nat := bitsOf p 0 41

/-- The physical core of a virtual die and core of a context's partition (R262). (log entry 54: DESIGN CHOICE.) -/
def State.physCore (s : State) (c : Nat) (die core : Nat) : Option Nat :=
  let x := s.ctxAt c
  if (x.part.getD die []).contains core then ((s.vfAt x.vf).cmap.getD die [])[core]? else none

/-- Where a list holds a number first. -/
def indexIn : List Nat → Nat → Option Nat
  | [], _ => none
  | x :: t, k => if x = k then some 0 else (indexIn t k).map (· + 1)

/-- The ranges that live groups of a context hold on a core: each as its first byte, its end, and the end of its code area (R19, R27). -/
def State.rangesAt (s : State) (c core : Nat) : List (Nat × Nat × Nat) :=
  s.groups.filterMap (fun p =>
    let g := p.2
    if g.ctx = c ∧ g.state ≠ .gone then
      (indexIn g.cores core).map (fun k => let b := g.bases.getD k 0; (b, b + g.range, b + g.code))
    else none)

/-- Whether ranges, one after the other, hold `n` bytes; each is entered once at most. -/
def covered (rs : List (Nat × Nat × Nat)) : Nat → Nat → Nat → Bool
  | 0, _, n => n == 0
  | f + 1, off, n =>
    n == 0 ||
      match rs.find? (fun r => decide (r.1 ≤ off ∧ off < r.2.1)) with
      | some r => covered rs f r.2.1 (off + n - r.2.1)
      | none => false

/-- The check that a core's bank makes of an access from another party (R27): its bytes lie in ranges of live groups of the context, and
a write meets no code area. -/
def State.bankCheck (s : State) (c core off n : Nat) (write : Bool) : Option Cause :=
  let rs := s.rangesAt c core
  if (s.ctxAt c).state = .resetting ∨ covered rs rs.length off n = false then some .badAddr
  else if write && rs.any (fun r => decide (r.1 < off + n ∧ off < r.2.2)) then some .codeWrite
  else none

/-- Whether the issuer's group holds its core's tile engine and operand store (R200). -/
def State.hasTile (s : State) : Bool := s.core.tile.owner == some s.cur.owner.group

/-- First byte of the issuer's own range on its core (R19). -/
def State.myBase (s : State) : Nat := s.group.bases.getD s.me.rank.toNat 0

/-- The place of a space-4 pointer, or a late refusal. -/
def placeOnChip (s : State) (acc : Access) (n die core off : Nat) : Except PtrFault Place :=
  match s.physCore s.group.ctx die core with
  | none => .error ⟨.badAddr, none, false⟩
  | some c =>
    if off + n ≤ Config.lsBytes then
      match s.bankCheck s.group.ctx c off n acc.write with
      | some e => .error ⟨e, none, true⟩
      | none => .ok (.ls c off)
    else .error ⟨.badAddr, none, false⟩

/-- A space-3 word (R25): the counters assigned to the context on the issuing die. -/
def placeSpace3 (s : State) (acc : Access) (off : Nat) : Except PtrFault Place :=
  let x := s.ctx
  if off < 512 then (if acc.write then .error ⟨.badAddr, none, false⟩ else .ok (.sem (off / 8)))
  else if 0x1_0000 ≤ off ∧ off < 0x1_0000 + 16 * x.iters then
    .ok (.iter (s.group.die * 256 + (off - 0x1_0000) / 16) (off % 16 == 8))
  else if 0x2_0000 ≤ off ∧ off < 0x2_0000 + 8 * x.routes then
    (if acc.write then .error ⟨.badAddr, none, false⟩ else .ok (.rout (s.group.die * 256 + (off - 0x2_0000) / 8)))
  else .error ⟨.badAddr, none, false⟩

/-- The checks of R26 in their order, and those of R27, for an access of `n` bytes aligned to `al`. -/
def place (s : State) (acc : Access) (n al : Nat) (p : Word) : Except PtrFault Place :=
  let sp := ptrSpace p
  let off := ptrOff p
  if !acc.spaces.contains sp || (sp == 3 && n != 8) then .error ⟨.badSpace, some p, false⟩
  else if sp = 2 ∧ s.hasTile = false then .error ⟨.engineOwned, none, false⟩
  else if off % al ≠ 0 then .error ⟨.misaligned, some p, false⟩
  else
    let fix := fun (r : Except PtrFault Place) => match r with
      | .error f => Except.error { f with tval := some p }
      | .ok x => .ok x
    match sp with
    | 0 =>
      if off + n ≤ s.group.range then
        (if acc.write ∧ off < s.group.code then .error ⟨.codeWrite, some p, false⟩
         else .ok (.ls s.me.core (s.myBase + off)))
      else .error ⟨.badAddr, some p, false⟩
    | 1 =>
      let r := ptrCore p
      if r < s.group.cores.length ∧ off + n ≤ s.group.range then
        (if acc.write ∧ off < s.group.code then .error ⟨.codeWrite, some p, true⟩
         else .ok (.ls (s.group.cores.getD r 0) (s.group.bases.getD r 0 + off)))
      else .error ⟨.badAddr, some p, false⟩
    | 2 => if off + n ≤ Config.osBytes then .ok (.os s.me.core off) else .error ⟨.badAddr, some p, false⟩
    | 3 => fix (placeSpace3 s acc off)
    | 4 => fix (placeOnChip s acc n (ptrDie p) (ptrCore p) off)
    | _ =>
      if ptrChip p = s.chipId then fix (placeOnChip s acc n (ptrDie p) (ptrCore p) off)
      else if s.ctx.sessions.any (fun x => x.chip == ptrChip p && x.state != .closed) ∧ off + n ≤ Config.lsBytes then
        .ok (.remote (ptrChip p) (ptrDie p) (ptrCore p) off)
      else .error ⟨.badAddr, some p, false⟩

/-- The trap value of a failed check: the pointer, or the word for ENGINE_OWNED (R26). -/
def PtrFault.word (f : PtrFault) (s : State) : Word := f.tval.getD (s.word.setWidth 64)

/-- The memory key of a local place. -/
def Place.key : Place → Nat
  | .ls c o => lsKey c o
  | .os c o => osKey c o
  | _ => 0

/-- The 8-byte words of this chip's stores that `n` bytes at a place lie in (R84). -/
def Place.touch (pl : Place) (n : Nat) : List Nat :=
  match pl with
  | .ls _ _ | .os _ _ => touched pl.key n
  | _ => []

/-- The iteration counter of a key: value and limit. (log entry 54: DESIGN CHOICE.) -/
def Ctx.iterAt (x : Ctx) (k : Nat) : Word × Word := lookupD (0, 0) x.iter k

/-- A counter with its words replaced; a zero counter is not listed. -/
def Ctx.setIter (x : Ctx) (k : Nat) (v : Word × Word) : Ctx :=
  { x with iter := if v = (0, 0) then eraseKey x.iter k else insertKey x.iter k v }

/-- The routing counter of a key. -/
def Ctx.routeAt (x : Ctx) (k : Nat) : Word := lookupD 0 x.route k

/-- A routing counter replaced; a zero counter is not listed. -/
def Ctx.setRoute (x : Ctx) (k : Nat) (v : Word) : Ctx :=
  { x with route := if v = 0 then eraseKey x.route k else insertKey x.route k v }

/-- The value of `n` bytes at a place of this chip. -/
def State.loadAt (s : State) (pl : Place) (n : Nat) : Nat :=
  match pl with
  | .ls _ _ | .os _ _ => leNat (Memory.readBytes s.mem pl.key n)
  | .sem k => (vecGet 0 s.core.sems k).toNat
  | .iter k l => if l then (s.ctx.iterAt k).2.toNat else (s.ctx.iterAt k).1.toNat
  | .rout k => (s.ctx.routeAt k).toNat
  | .remote _ _ _ _ => 0

/-- The state after `n` bytes are written at a place of this chip. -/
def State.storeAt (s : State) (pl : Place) (n v : Nat) : State :=
  match pl with
  | .ls _ _ | .os _ _ => { s with mem := Memory.writeBytes s.mem pl.key (natLe n v) }
  | .iter k l =>
    let c := s.ctx.iterAt k
    s.setCtx (s.ctx.setIter k (if l then (c.1, BitVec.ofNat 64 v) else (BitVec.ofNat 64 v, c.2)))
  | _ => s

/-! ## Elements -/

/-- The register-wide number of the issuer's element `i` of width `w` (R144). -/
def State.gidx (s : State) (i w : Nat) : Nat :=
  match s.cur with
  | .strand _ j => j * (512 / w) + i
  | _ => i

/-- VLMAX(w) of the issuer (R107, R144). -/
def State.vlmax (s : State) (w : Nat) : Nat :=
  match s.cur with
  | .strand _ _ => 512 / w
  | _ => 16384 / w

/-- How many of the elements below `n` are the issuer's (R144). -/
def State.share (s : State) (n w : Nat) : Nat :=
  match s.cur with
  | .strand _ j => Nat.min (n - j * (512 / w)) (512 / w)
  | _ => n

/-- n of R107 for an instruction whose widest element is `w`. -/
def State.count (s : State) (w : Nat) : Nat := s.share (Nat.min s.vl (16384 / w)) w

/-- n of R107 for memory, permute and mask instructions: vl elements of vsew. -/
def State.countVl (s : State) : Nat := s.share s.vl s.vsew

/-- Elem(v, i, w) as the issuer sees it (R15, R144). -/
def State.elem (s : State) (v i w : Nat) : Nat := elemOf (s.vregOf v) (s.gidx i w) w

/-- SetElem(v, i, w, x) as the issuer sees it. -/
def State.setElem (s : State) (v i w x : Nat) : State :=
  s.setMe (s.me.setVreg v (setElemOf (s.me.vreg v) (s.gidx i w) w x))

/-- Mask(m, i) with the element width that numbers it (R15, R144). -/
def State.maskBit (s : State) (m i w : Nat) : Bool := m == 0 || (s.mregOf m).getLsbD (s.gidx i w)

/-- A mask bit written. -/
def State.setMaskBit (s : State) (m i w : Nat) (b : Bool) : State :=
  s.setMe (s.me.setMreg m (setElemOf (s.me.mreg m) (s.gidx i w) 1 (if b then 1 else 0)))

/-- The edge value of a neighbour source (R109): zero, wrap or clamp. `g` is the register-wide element number. -/
def State.edge (s : State) (mode : Nat) (v g w : Nat) (left : Bool) : Nat :=
  match mode with
  | 0 => 0
  | 1 => elemOf (s.me.vreg v) (if left then g + 16384 / w - 512 / w else g + 512 / w - 16384 / w) w
  | _ => elemOf (s.me.vreg v) g w

/-- Src2 (R15, R109). -/
def State.src2 (s : State) (nb : BitVec 2) (n : Reg) (i w : Nat) : Nat :=
  let g := s.gidx i w
  match nb.toNat with
  | 0 => elemOf (s.me.vreg n.toNat) g w
  | 1 =>
    if 512 / w ≤ g then elemOf (s.me.vreg n.toNat) (g - 512 / w) w
    else s.edge (bitsOf s.nbedge 0 2) n.toNat g w true
  | 2 =>
    if g + 512 / w < 16384 / w then elemOf (s.me.vreg n.toNat) (g + 512 / w) w
    else s.edge (bitsOf s.nbedge 2 2) n.toNat g w false
  | _ => (s.rs n).toNat % 2 ^ w

/-! ## Checks of R113 -/

/-- What a vector instruction names: scalars, vector sources that may be read-bound, a destination that may be
append-bound, other vectors, and masks (R113). -/
structure VNames where
  scalars : List Reg
  srcs : List Reg
  dsts : List Reg
  others : List Reg
  masks : List Reg
  deriving DecidableEq, Repr

/-- The least number of a list. -/
def minimum? (l : List Nat) : Option Nat :=
  match l with
  | [] => none
  | x :: t => some (t.foldl Nat.min x)

/-- tval of VDEAD (R113): the lowest vector register, or 32 + n for a mask; none when the instruction names neither. A
mask field of 0 names no mask. -/
def VNames.deadTval (v : VNames) : Option Nat :=
  match minimum? ((v.srcs ++ v.dsts ++ v.others).map BitVec.toNat) with
  | some n => some n
  | none => (minimum? ((v.masks.map BitVec.toNat).filter (· ≠ 0))).map (· + 32)

/-- VDEAD: tval as R113 gives, or a free value where it names no register. (log entry 10: DESIGN CHOICE.) -/
def trapDead (n : Option Nat) : M Unit := do
  match n with
  | some k => trap .vdead (BitVec.ofNat 64 k)
  | none =>
    let s ← get
    set { s with draws := s.draws + 1 }
    trap .vdead s.freeWord

/-- The binding that R113 check 2 finds misused, lowest register first. -/
def State.misused (s : State) (v : VNames) : Option Binding :=
  let strand := match s.cur with
    | .strand _ _ => true
    | _ => false
  let bad := fun (b : Binding) =>
    let r := BitVec.ofNat 5 b.reg
    let reader := b.kind == .read || b.kind == .patRead
    v.scalars.contains r || v.others.contains r || (v.srcs.contains r && (!reader || strand)) ||
      (v.dsts.contains r && (reader || strand))
  (stableSort (fun a b => decide (a.reg ≤ b.reg)) s.binds).find? bad

/-- Whether a USER combine of the issuer's hart is running (R188). -/
def State.userJob (s : State) : Bool := s.userJobOf s.cur.owner

/-- Whether a USER combine of the hart keeps one of the registers 16 to 23 that an instruction names (R188). -/
def State.userHolds (s : State) (v : VNames) : Bool :=
  s.userJob && (v.srcs ++ v.dsts ++ v.others ++ v.masks).any (fun r => decide (16 ≤ r.toNat ∧ r.toNat < 24))

/-- Whether the lanes hold an instruction: data of its vector registers is on its way, or they are not free (R111, R143, R188). -/
def State.lanesHold (s : State) (v : VNames) : Bool :=
  (v.srcs ++ v.dsts ++ v.others).any (fun r => bitOf s.me.vpending r.toNat) ||
    (match s.cur with
     | .hart h => s.lanesBusy h || s.userHolds v
     | _ => false)

/-- Whether a vector instruction cannot issue yet: a scalar that it names, or vl, is pending (R85, R288). -/
def State.vwaits (s : State) (v : VNames) : Bool :=
  s.pendingAmong v.scalars || s.vlPending ||
    (v.srcs ++ v.dsts ++ v.others).any (fun r => bitOf s.me.pending r.toNat && !bitOf s.me.vpending r.toNat)

/-- The checks of R113, and the wait for the scalars that the instruction names (R85, R288). -/
def vchecks (v : VNames) : M Unit := do
  let s ← get
  match s.cur with
  | .queued _ | .late _ _ => pure ()
  | _ =>
    if s.me.vset.isNone then trapDead v.deadTval
    else
      match s.misused v with
      | some b => trap .runState b.tval
      | none => if s.cur != .fold s.cur.owner && s.vwaits v then throw .stall else pure ()

/-- Whether the lanes do not take an instruction as it issues. -/
def State.lanesWait (s : State) (v : VNames) : Bool :=
  match s.cur with
  | .queued _ | .late _ _ | .fold _ => false
  | _ => s.lanesHold v

/-- What an entry of the vector instruction queue names: vector registers, scalars that the lanes read, and masks as 32 + n. -/
def VNames.regs (v : VNames) : List Nat :=
  (v.srcs ++ v.dsts ++ v.others ++ v.scalars).map BitVec.toNat ++ ((v.masks.map BitVec.toNat).filter (· ≠ 0)).map (32 + ·)

/-- The wait for the scalars that an instruction reads as it issues, where a word of the queue is still to write one (R110). -/
def vscalars (rs : List Reg) : M Unit := do
  let s ← get
  if s.queueNames rs then throw .stall else pure ()

/-- An instruction that the lanes do not take as it issues enters their queue (R111, R143); `rows` are the tile rows that it reads. -/
def lanesTake (v : VNames) (rows : List Nat) : M Unit := do
  let s ← get
  if s.lanesWait v then throw (.queue v.regs rows none) else pure ()

/-- The checks and waits of a vector instruction that issues only when the lanes take it (R113, R114). -/
def vnamed (v : VNames) : M Unit := do
  vchecks v
  let s ← get
  if s.lanesWait v then throw .stall else pure ()

/-- The checks of a vector instruction of registers only, which waits in the queue (R111, R113, R114). -/
def vlane (v : VNames) : M Unit := do
  vchecks v
  lanesTake v []

/-- Whether what a list of registers and masks holds is known as the instruction issues: no word of the queue, no strand and no data on
its way is still to write one (R114). -/
def State.known (s : State) (rs : List Nat) : Bool :=
  rs.isEmpty ||
    !(s.me.strands.any (fun t => t.running)) && !(s.me.lanes.any (fun e => rs.any e.names.contains)) &&
      !(rs.any (bitOf s.me.vpending))

/-- The second source's names by nb (R34): a vector that may be bound, one that may not, or a scalar. -/
def VNames.addSrc2 (v : VNames) (nb : BitVec 2) (r : Reg) : VNames :=
  match nb.toNat with
  | 0 => { v with srcs := r :: v.srcs }
  | 3 => { v with scalars := r :: v.scalars }
  | _ => { v with others := r :: v.others }

/-! ## Patterns (R173) -/

/-- Units of a pattern. -/
def Pattern.units (p : Pattern) : Nat := (p.dims.map Prod.fst).foldl (· * ·) 1

/-- Bytes of a pattern: T. -/
def Pattern.total (p : Pattern) : Nat := p.unit * p.units

/-- The offset of a unit from its base: i_0 varies fastest. -/
def unitOffset : List (Nat × Word) → Nat → Word
  | [], _ => 0
  | (n, st) :: t, u => BitVec.ofNat 64 (u % n) * st + unitOffset t (u / n)

/-- The address of byte `j` of the pattern's stream. -/
def Pattern.addr (p : Pattern) (j : Nat) : Word :=
  p.base + unitOffset p.dims (j / p.unit) + BitVec.ofNat 64 (j % p.unit)

/-- The address of unit `u`. -/
def Pattern.unitAddr (p : Pattern) (u : Nat) : Word := p.base + unitOffset p.dims u

/-! ## Flags -/

/-- Raise flags (R55, R144). -/
def State.raise (s : State) (f : BitVec 5) : State :=
  match s.cur with
  | .strand _ j => s.setMe (s.me.setStrand j { s.me.strand j with flags := (s.me.strand j).flags ||| f })
  | _ => s.setMe { s.me with fflags := s.me.fflags ||| f }

end Sys2Proof.Machine
end

