-- ==== Sys2Proof/Machine/Remote.lean ====
section
/-!
DEFINITION. What leaves the chip and when: sessions, messages, UALink requests and the order of R356.
-/

namespace Sys2Proof.Machine

/-- A session that is not there reads as CLOSED (R351). -/
def Session.reset : Session := ⟨0, 0, .closed, 0, [], 0, [], 0, 0, [], [], [], [], [], [], [], none⟩

/-- The session of a context with a chip. -/
def Ctx.session (x : Ctx) (chip : BitVec 10) : Session :=
  (x.sessions.find? (fun t => t.chip == chip)).getD Session.reset

/-- The context with a session replaced. -/
def Ctx.setSession (x : Ctx) (t : Session) : Ctx :=
  { x with
    sessions := if x.sessions.any (fun u => u.chip == t.chip) then
        x.sessions.map (fun u => if u.chip == t.chip then t else u)
      else x.sessions ++ [t] }

/-- Whether a chip's session is GONE. -/
def State.gone (s : State) (chip : BitVec 10) : Bool := (s.ctx.session chip).state == .gone

/-- A message sent on a session: it takes the next sequence number and waits to be acknowledged (R352, R353). -/
def State.send (s : State) (c : Nat) (chip : BitVec 10) (tag : Nat) (wake publish : Bool) (body : MsgBody) : State :=
  let x := s.ctxAt c
  let t := x.session chip
  let m : Msg := ⟨c, chip, t.sendSeq, BitVec.ofNat 32 tag, wake, publish, body⟩
  s.setCtxAt c (x.setSession { t with sendSeq := t.sendSeq + 1, sent := t.sent ++ [m] })

/-! ## The bodies of messages (R352, R357) -/

/-- A list cut into pieces of at most `n`, with fuel. -/
def piecesFuel {α : Type} (n : Nat) : Nat → List α → List (List α)
  | 0, _ => []
  | f + 1, l => if l.isEmpty then [] else l.take n :: piecesFuel n f (l.drop n)

/-- Elements of 16 bytes in bodies of at most 4096 (R352). -/
def pieces {α : Type} (l : List α) : List (List α) := piecesFuel 256 l.length l

/-- A list cut into the longest pieces that fit, in order: `cur` is the piece being filled. -/
def cutFitting {α : Type} (fits : List α → Bool) : List α → List α → List (List α)
  | cur, [] => if cur.isEmpty then [] else [cur]
  | cur, x :: t => if cur.isEmpty || fits (cur ++ [x]) then cutFitting fits (cur ++ [x]) t else cur :: cutFitting fits [x] t

/-- Bytes rounded up to R352's units of 16. -/
def pad16 (n : Nat) : Nat := (n + 15) / 16 * 16

/-- Bytes of a request's body: its fields in 32, a mask bit for each element of the range, and for each selected one its data of a
store and the 41-bit offset, in 8 bytes, that no base and stride gives. (log entry 49: DEDUCED.) -/
def reqBytes (indexed store : Bool) (w range chosen : Nat) : Nat :=
  pad16 (32 + (range + 7) / 8 + (if indexed then 8 * chosen else 0) + (if store then (chosen * w + 7) / 8 else 0))

/-- The elements of a range from the first of a list to its last. -/
def rangeOf (es : List (Nat × Nat × Word)) : Nat × Nat :=
  match es.head?, es.getLast? with
  | some a, some b => (a.1, b.1 + 1 - a.1)
  | _, _ => (0, 0)

/-- A request packet for elements given as (index, offset, data); without a base they carry their offsets. -/
def reqPacket (core : Nat) (store add : Bool) (w vl : Nat) (shape : Option ReqShape) (es : List (Nat × Nat × Word)) :
    ReqPacket :=
  { core := core, store := store, add := add, width := w, vl := vl, first := (rangeOf es).1
    mask := (List.range (rangeOf es).2).map (fun k => es.any (fun e => e.1 == (rangeOf es).1 + k))
    shape := shape.getD (.offsets (es.map (fun e => e.2.1)))
    data := if store then es.map (fun e => e.2.2) else [] }

/-- The request messages of an instruction for one destination: each is filled before the next is begun (R357). -/
def reqPackets (core : Nat) (store add : Bool) (w vl : Nat) (shape : Option ReqShape) (es : List (Nat × Nat × Word)) :
    List ReqPacket :=
  (cutFitting (fun l => decide (reqBytes shape.isNone store w (rangeOf l).2 l.length ≤ 4096)) [] es).map
    (reqPacket core store add w vl shape)

/-- The indices of the elements that a packet selects. -/
def ReqPacket.indices (r : ReqPacket) : List Nat :=
  ((List.range r.mask.length).filter (fun k => r.mask.getD k false)).map (r.first + ·)

/-- The offset of a packet's element: its index, and its place among the selected ones. -/
def ReqPacket.offset (r : ReqPacket) (i k : Nat) : Nat :=
  match r.shape with
  | .unit b => (b + i * r.width / 8) % 2 ^ 41
  | .strided b st => (b + i * st.toNat) % 2 ^ 41
  | .offsets l => l.getD k 0

/-- A packet's elements as (index, offset, data), in element order. -/
def ReqPacket.elems (r : ReqPacket) : List (Nat × Nat × Word) :=
  r.indices.zipIdx.map (fun p => (p.1, r.offset p.1 p.2, r.data.getD p.2 0))

/-- Bytes of a body (R352): those that the spec states, and 16 for a body of a few fields. (log entry 49: DEDUCED.) -/
def MsgBody.bytes : MsgBody → Nat
  | .req r =>
    reqBytes (match r.shape with
      | .offsets _ => true
      | _ => false) r.store r.width r.mask.length r.indices.length
  | .train es => 16 * es.length
  | .data d => 16 + pad16 d.bytes.length
  | .rdata es => 16 * es.length
  | _ => 16

/-- Slots of a number of bytes (R352). -/
def slotsOf (bytes : Nat) : Nat := (bytes + 255) / 256

/-- Receive-buffer slots that a message occupies: its header and its body (R352). -/
def Msg.slots (m : Msg) : Nat := slotsOf (16 + m.body.bytes)

/-- What an operation to another chip needs (R356). -/
def Needs.far (q : Nat) (cls : OpClass) (dest : Option Reg) (chip : BitVec 10) : Needs :=
  { Needs.of q cls dest with near := false, chips := [chip] }

/-- A remote place of a session that is GONE is refused (R354). -/
def State.placeLive (s : State) (r : Except PtrFault Place) : Except PtrFault Place :=
  match r with
  | .ok (.remote chip _ _ _) => if s.gone chip then .error ⟨.peerGone, some (chip.setWidth 64), true⟩ else r
  | _ => r

/-- The operation issued last. -/
def State.lastOp (s : State) : Nat := s.nextOp - 1

/-- An operation to another chip that has sent what it sends: it is in flight until acknowledged. `group` names the
first operation of its instruction, since each instruction counts once (R86). -/
def State.addRemote (s : State) (q : Nat) (cls : OpClass) (kind : OpKind) (group : Nat) : State :=
  let group := match s.cur with
    | .late _ id => id
    | _ => group
  let s := s.addOp q cls kind
  { s with
    ops := s.ops.map (fun o =>
      if o.id == s.lastOp then { o with phase := .sent, counts := (BitVec.ofNat 64 group, 0, 0) } else o) }

/-- A UALink request sent for the operation issued last (R349, R355). -/
def State.ualink (s : State) (kind : UaKind) (chip : BitVec 10) (die core off n v : Nat) : State :=
  { s with uaOut := s.uaOut ++ [⟨.store, s.group.ctx, chip, s.lastOp, kind, die, core, off, n, BitVec.ofNat 64 v⟩] }

/-- A scalar register marked pending (R85). -/
def State.markPending (s : State) (d : Reg) : State :=
  match s.cur with
  | .hart _ => s.setMe (s.me.mark d)
  | _ => s

/-- A failed access: a late refusal is reported to the issuer (R85), any other check traps. -/
def refuse (f : PtrFault) : M Unit := do
  let s ← get
  if f.late then set (s.report s.cur f.cause (f.word s) (BitVec.ofNat 32 s.pc.toNat) false) else trap f.cause (f.word s)

/-- An operation to a chip whose session is GONE: it completes with PEER_GONE, deferred (R354). -/
def peerGone (chip : BitVec 10) : M Unit :=
  act (fun s => s.report s.cur .peerGone (chip.setWidth 64) (BitVec.ofNat 32 s.pc.toNat) false)

end Sys2Proof.Machine
end

