-- ==== Sys2Proof/Machine/Access.lean ====
section
/-!
DEFINITION. Scalar loads and stores and the atomics (R83–R85, R256, R257).
-/

namespace Sys2Proof.Machine

/-- Bytes of an access type (R34). -/
def accBytes (w : BitVec 3) : Nat :=
  match w.toNat % 4 with
  | 0 => 1
  | 1 => 2
  | 2 => 4
  | _ => 8

/-- Whether a load's type extends by sign (R34). -/
def accSigned (w : BitVec 3) : Bool := decide (w.toNat < 4)

/-- A loaded value extended (R83). -/
def extend (n : Nat) (signed : Bool) (v : Nat) : Word := if signed then sext64 v (8 * n) else zext64 v (8 * n)

/-- The pointer of R83: s_base + Sext(imm8, 8) × width. -/
def accPtr (s : State) (b : Reg) (i : BitVec 8) (n : Nat) : Word := s.rs b + i.signExtend 64 * BitVec.ofNat 64 n

/-- R83, LD. (log entry 21: DESIGN CHOICE.) -/
def execLd (d b : Reg) (i : BitVec 8) (w : BitVec 3) (h : HReg) (s : State) : Host.Outcome State Fault Refusal :=
  issue .hart (do
    named [d, b]
    let q ← seqOf h
    let s ← get
    let n := accBytes w
    match place s .load n n (accPtr s b i n) with
    | .error f =>
      refuse f
      act (fun s => s.setRs d 0)
      pure .seq
    | .ok (.remote chip die core off) =>
      ready (.far q .load (some d) chip)
      if s.gone chip then
        peerGone chip
        act (fun s => s.setRs d 0)
      else
        act (fun s => ((s.addRemote q .load (.remote chip (some ⟨d, n, accSigned w⟩)) s.nextOp).ualink .read chip die
          core off n 0).markPending d)
      pure .seq
    | .ok pl =>
      ready { Needs.of q .load (some d) with touch := pl.touch n }
      set (s.setRs d (extend n (accSigned w) (s.loadAt pl n)))
      pure .seq) s

/-- R83, ST. (log entry 21: DESIGN CHOICE.) -/
def execSt (d b : Reg) (i : BitVec 8) (w : BitVec 3) (h : HReg) (s : State) : Host.Outcome State Fault Refusal :=
  issue .hart (do
    named [d, b]
    let q ← seqOf h
    let s ← get
    let n := accBytes w
    let v := (s.rs d).toNat % 2 ^ (8 * n)
    match place s .store n n (accPtr s b i n) with
    | .error f =>
      refuse f
      pure .seq
    | .ok (.remote chip die core off) =>
      ready (.far q .store none chip)
      if s.gone chip then peerGone chip
      else act (fun s => (s.addRemote q .store (.remote chip none) s.nextOp).ualink .write chip die core off n v)
      pure .seq
    | .ok pl =>
      ready { Needs.of q .store none with touch := pl.touch n }
      set (s.storeAt pl n v)
      pure .seq) s

/-! ## Atomics -/

/-- Positions of R256's table. -/
inductive AmoOp | add | and | or | xor | min | max | minn | maxn | swap | cas
  deriving DecidableEq, Repr

/-- Position number of an atomic (R256). -/
def AmoOp.pos : AmoOp → Nat
  | .add => 0
  | .and => 1
  | .or => 2
  | .xor => 3
  | .min => 4
  | .max => 5
  | .minn => 6
  | .maxn => 7
  | .swap => 8
  | .cas => 9

/-- The atomic of a position. -/
def AmoOp.ofPos (n : Nat) : AmoOp :=
  match n with
  | 0 => .add
  | 1 => .and
  | 2 => .or
  | 3 => .xor
  | 4 => .min
  | 5 => .max
  | 6 => .minn
  | 7 => .maxn
  | 8 => .swap
  | _ => .cas

/-- F(old, b) on `bits`-bit values, and AMOCAS's comparison with c (R256). -/
def AmoOp.apply (o : AmoOp) (bits old b c : Nat) : Nat :=
  match o with
  | .add => (old + b) % 2 ^ bits
  | .and => old &&& b
  | .or => old ||| b
  | .xor => old ^^^ b
  | .min => if sextNat b bits < sextNat old bits then b else old
  | .max => if sextNat old bits < sextNat b bits then b else old
  | .minn => Nat.min old b
  | .maxn => Nat.max old b
  | .swap => b
  | .cas => if old = c then b else old

/-- An atomic: `x` is 1 for `.d` and 0 for `.w` (R256, R257). (log entry 21: DESIGN CHOICE.) -/
def amo (o : AmoOp) (d a b : Reg) (x : BitVec 1) (h : HReg) (s : State) : Host.Outcome State Fault Refusal :=
  issue .hart (do
    named [d, a, b]
    let q ← seqOf h
    let s ← get
    let n := if x = 1 then 8 else 4
    let bits := 8 * n
    let v := (s.rs b).toNat % 2 ^ bits
    let c := (s.rs d).toNat % 2 ^ bits
    match place s .amo n n (s.rs a) with
    | .error f =>
      refuse f
      act (fun s => s.setRs d 0)
      pure .seq
    | .ok (.remote chip die core off) =>
      ready (.far q .both (some d) chip)
      if s.gone chip then
        peerGone chip
        act (fun s => s.setRs d 0)
      else
        act (fun s => ((s.addRemote q .both (.remote chip (some ⟨d, n, true⟩)) s.nextOp).ualink
          (.amo o.pos (BitVec.ofNat 64 c)) chip die core off n v).markPending d)
      pure .seq
    | .ok pl =>
      ready { Needs.of q .both (some d) with touch := pl.touch n }
      let old := s.loadAt pl n
      set ((s.storeAt pl n (o.apply bits old v c)).setRs d (sext64 old bits))
      pure .seq) s

/-- R256, AMOADD. -/
def execAmoadd (d a b : Reg) (x : BitVec 1) (h : HReg) (s : State) := amo .add d a b x h s

/-- R256, AMOAND. -/
def execAmoand (d a b : Reg) (x : BitVec 1) (h : HReg) (s : State) := amo .and d a b x h s

/-- R256, AMOOR. -/
def execAmoor (d a b : Reg) (x : BitVec 1) (h : HReg) (s : State) := amo .or d a b x h s

/-- R256, AMOXOR. -/
def execAmoxor (d a b : Reg) (x : BitVec 1) (h : HReg) (s : State) := amo .xor d a b x h s

/-- R256, AMOMIN. -/
def execAmomin (d a b : Reg) (x : BitVec 1) (h : HReg) (s : State) := amo .min d a b x h s

/-- R256, AMOMAX. -/
def execAmomax (d a b : Reg) (x : BitVec 1) (h : HReg) (s : State) := amo .max d a b x h s

/-- R256, AMOMINN. -/
def execAmominn (d a b : Reg) (x : BitVec 1) (h : HReg) (s : State) := amo .minn d a b x h s

/-- R256, AMOMAXN. -/
def execAmomaxn (d a b : Reg) (x : BitVec 1) (h : HReg) (s : State) := amo .maxn d a b x h s

/-- R256, AMOSWAP. -/
def execAmoswap (d a b : Reg) (x : BitVec 1) (h : HReg) (s : State) := amo .swap d a b x h s

/-- R256, AMOCAS. -/
def execAmocas (d a b : Reg) (x : BitVec 1) (h : HReg) (s : State) := amo .cas d a b x h s

end Sys2Proof.Machine
end

