-- ==== Sys2Proof/Machine/Code.lean ====
section
/-!
DEFINITION. The code area: fetching words, what a word's major and fields are, and the checks of blocks (R19, R42, R78,
R140, R142, R189).
-/

namespace Sys2Proof.Machine

/-- Size of the code area of the issuer's group (R19). -/
def State.codeSize (s : State) : Nat := s.group.code

/-- Whether a word of the code area lies at an offset (R78). -/
def State.inCode (s : State) (pc : Word) : Bool := decide (pc.toNat + 4 ≤ s.codeSize)

/-- The word at a code-area offset of the issuer's core (R19, R31). -/
def State.codeWord (s : State) (off : Nat) : IWord :=
  BitVec.ofNat 32 (leNat (Memory.readBytes s.mem (lsKey s.me.core (s.myBase + off)) 4))

/-- Words from a code-area offset on. -/
def State.codeWords (s : State) (off : Nat) : Nat → List IWord
  | 0 => []
  | n + 1 => s.codeWord off :: State.codeWords s (off + 4) n

/-- Major of a word (R33). -/
def major (w : IWord) : Nat := w.toNat % 128

/-- fn3 of a V-format word (R32). -/
def fn3 (w : IWord) : Nat := w.toNat / 2 ^ 29 % 8

/-- `STOP`: 0x3C, fn3 2, every field zero (R146). -/
def isStop (w : IWord) : Bool := w.toNat == 2 * 2 ^ 29 + 0x3C

/-- `TFETCH`: 0x3C, fn3 1 (R143). -/
def isTfetch (w : IWord) : Bool := major w == 0x3C && fn3 w == 1

/-- `TMOV`: 0x58, fn2 1 (R221). -/
def isTmov (w : IWord) : Bool := major w == 0x58 && w.toNat / 2 ^ 30 == 1

/-- vd or md field of a V-format word (R32). -/
def wordD (w : IWord) : Nat := w.toNat / 2 ^ 7 % 32

/-- vs1 field. -/
def wordA (w : IWord) : Nat := w.toNat / 2 ^ 12 % 32

/-- vs2 field. -/
def wordB (w : IWord) : Nat := w.toNat / 2 ^ 17 % 32

/-- mk field. -/
def wordM (w : IWord) : Nat := w.toNat / 2 ^ 22 % 32

/-- nb field. -/
def wordN (w : IWord) : Nat := w.toNat / 2 ^ 27 % 4

/-- Whether the lanes' majors of R42 hold a legal word: R117's table of fields, for every function of each major. -/
def laneLegal (w : IWord) : Bool :=
  let m := major w
  let f := fn3 w
  let one := wordB w == 0 && wordN w == 0
  let grp := fun v => v == 8 || v == 16 || v == 24
  decide (wordM w < 24) &&
    (if 0x20 ≤ m ∧ m ≤ 0x28 then true
     else if 0x29 ≤ m ∧ m ≤ 0x2C then f != 7 || one
     else if m = 0x2D then f == 7 || one
     else if 0x2E ≤ m ∧ m ≤ 0x31 then
       decide (wordD w < 24) && (decide (f < 6) || (f == 6 && wordA w == 0 && wordN w == 0))
     else if m = 0x32 then decide (wordD w < 24)
     else if m = 0x33 then
       decide (wordA w < 24) && wordN w == 0 && (f == 5 || f == 6 || decide (wordD w < 24)) &&
         (if f < 4 then decide (wordB w < 24) else wordB w == 0)
     else if m = 0x34 then
       (match f with
        | 0 => true
        | 3 | 4 => one
        | 6 | 7 => wordN w == 0 && wordM w == 0
        | _ => wordN w == 0)
     else if m = 0x35 then one
     else if m = 0x37 then
       wordN w == 0 &&
         (match f with
          | 0 => grp (wordD w) && grp (wordA w) && decide (wordB w ≤ 11)
          | 1 => wordD w == 0 && (grp (wordA w) || wordA w == 0) && decide (wordB w ≤ 11) && wordM w == 0
          | 2 => decide (1 ≤ wordD w ∧ wordD w ≤ 30) && (grp (wordA w) || wordA w == 0) && decide (wordB w ≤ 1) &&
              wordM w == 0
          | 3 => decide (wordB w ≤ 30)
          | _ => false)
     else false)

/-- A legal word that ends a block: STOP, or TFETCH with its unused fields zero. -/
def blockEnd (w : IWord) : Bool := isStop w || (isTfetch w && wordD w == 0 && wordB w == 0 && wordN w == 0 && decide (wordM w < 24))

/-- The first word of a block that R42 refuses or R40 makes illegal, up to and with its first STOP or TFETCH. -/
def blockBad : List IWord → Option IWord
  | [] => none
  | w :: t =>
    if blockEnd w then none else if laneLegal w then blockBad t else some w

/-- A block up to its first STOP or TFETCH; none when it has no end. -/
def blockTake : List IWord → Option (List IWord)
  | [] => none
  | w :: t => if blockEnd w then some [w] else (blockTake t).map (w :: ·)

/-- A block as VFETCH and a strand find it at an offset: its words, or the trap (R42, R142, R143). -/
def State.block (s : State) (at_ : Word) : Except (Cause × Word) (List IWord) :=
  let off := at_.toNat
  if off % 4 ≠ 0 ∨ s.codeSize < off + 4 then .error (.fetchBound, at_)
  else
    let n := Nat.min 32 ((s.codeSize - off) / 4)
    let ws := s.codeWords off n
    match blockBad ws with
    | some w => .error (.illegalInstr, w.setWidth 64)
    | none =>
      match blockTake ws with
      | some b => .ok b
      | none => if n < 32 then .error (.fetchBound, at_) else .error (.illegalInstr, (ws.getLastD 0).setWidth 64)

/-- The ENDLOOP of a counter (R91). -/
def endloopWord (c : Nat) : Nat := 4 * 2 ^ 22 + c * 2 ^ 7 + 0x17

/-- The offset after the next ENDLOOP naming a counter, looking at `n` words from an offset on (R91). -/
def State.findEndloop (s : State) (c : Nat) : Nat → Nat → Option Nat
  | 0, _ => none
  | n + 1, off => if (s.codeWord off).toNat = endloopWord c then some (off + 4) else State.findEndloop s c n (off + 4)

/-- A transfer's target checked (R78): outside the code area it traps FETCH_BOUND. -/
def checkTarget (t : Word) : M Unit := do
  let s ← get
  if s.inCode t then pure () else trap .fetchBound t

end Sys2Proof.Machine
end

