-- ==== Sys2Proof/Machine/Hazard.lean ====
section
/-!
DEFINITION. The bytes that operations in flight are still to write, and the reads that wait for them whatever their
handle (R115, R251).
-/

namespace Sys2Proof.Machine

/-- The local bytes that a pattern's units name for an issuer: keys and lengths. -/
def State.unitRanges (s : State) (who : Issuer) (p : Pattern) : List (Nat × Nat) :=
  let s := { s with cur := who }
  (List.range p.units).filterMap (fun u =>
    match place s .patWrite p.unit 4 (p.unitAddr u) with
    | .ok (.ls c o) => some (lsKey c o, p.unit)
    | _ => none)

/-- The local bytes at a pointer of an issuer. -/
def State.ptrRange (s : State) (who : Issuer) (p : Word) (n : Nat) : List (Nat × Nat) :=
  match place { s with cur := who } .desc n 8 p with
  | .ok pl => [(pl.key, n)]
  | .error _ => []

/-- The local-store bytes that an operation in flight writes: a copy's pattern, and the fields that a job or a scan owns
in its descriptor. -/
def State.writesOf (s : State) (o : Op) : List (Nat × Nat) :=
  match o.kind with
  | .copyIn d _ | .fill d _ => s.unitRanges o.issuer d.pat
  | .job j => s.ptrRange o.issuer j.ptr 32
  | .scan d _ => s.ptrRange o.issuer d.ptr 48
  | _ => []

/-- Whether an operation in flight writes any of `n` bytes at a key. (log entry 67: DEDUCED.) -/
def State.writesAt (s : State) (o : Op) (k n : Nat) : Bool :=
  (s.writesOf o).any (fun r => decide (r.1 < k + n ∧ k < r.1 + r.2))

/-- An instruction's read of its own operands waits for the hart's incomplete copies, jobs and stores that write those bytes
(R84, R251). (log entry 67: DEDUCED.) -/
def ownWrites (pl : Place) (n : Nat) : M Unit := do
  let s ← get
  if s.ops.any (fun o => o.issuer.owner == s.cur.owner && s.writesAt o pl.key n) ||
      s.touching s.cur.owner (pl.touch n) s.nextOp then throw .stall
  else pure ()

/-- The number that the operation of the instruction being executed has, or is to have. -/
def State.opNumber (s : State) : Nat :=
  match s.cur with
  | .late _ id => id
  | _ => s.nextOp

/-- A vector load's bytes wait for the earlier copies of its core's stream engine that will write them (R115). -/
def State.copyPending (s : State) (k n : Nat) : Bool :=
  s.ops.any (fun o => o.core == s.me.core && decide (o.id < s.opNumber) && (match o.kind with
    | .copyIn _ _ | .fill _ _ => true
    | _ => false) && s.writesAt o k n)

/-- The bytes of a descriptor in space 0 at a multiple of 8, read at issue (R172, R251). (log entry 67: DEDUCED.) -/
def readDesc (p : Word) (n : Nat) : M (List Byte) := do
  let s ← get
  match place s .desc n 8 p with
  | .error f => trap f.cause (f.word s)
  | .ok pl =>
    ownWrites pl n
    pure (Memory.readBytes s.mem pl.key n)

/-- A field of a descriptor's bytes. -/
def descField (bs : List Byte) (off n : Nat) : Nat := leNat ((bs.drop off).take n)

/-- A 64-bit field of a descriptor. -/
def descWord (bs : List Byte) (off : Nat) : Word := BitVec.ofNat 64 (descField bs off 8)

end Sys2Proof.Machine
end

