-- ==== Sys2Proof/Machine/Scalar.lean ====
section
/-!
DEFINITION. Scalar arithmetic: majors 0x01–0x0C (R73–R77). Each meaning is one shared operation applied to a function of
the sources.
-/

namespace Sys2Proof.Machine

/-- A scalar instruction that writes d with a value computed from the state it begins in (R73). -/
def alu (d : Reg) (srcs : List Reg) (f : State → Word) (s : State) : Host.Outcome State Fault Refusal :=
  issue .hart (do
    named (d :: srcs)
    let s ← get
    set (s.setRs d (f s))
    pure .seq) s

/-- Two sources (R74, R75). -/
def alu2 (d a b : Reg) (f : Word → Word → Word) (s : State) : Host.Outcome State Fault Refusal :=
  alu d [a, b] (fun s => f (s.rs a) (s.rs b)) s

/-- One source (R75, R76). -/
def alu1 (d a : Reg) (f : Word → Word) (s : State) : Host.Outcome State Fault Refusal :=
  alu d [a] (fun s => f (s.rs a)) s

/-- The shift amount s2[5:0] (R74). -/
def amount (x : Word) : Nat := x.toNat % 64

/-- Quotient of R75: s2 = 0 gives −1, and −2^63 / −1 gives −2^63. -/
def divSigned (x y : Word) : Word := if y = 0 then BitVec.allOnes 64 else BitVec.ofInt 64 (x.toInt.tdiv y.toInt)

/-- Remainder of R75: s2 = 0 gives s1. -/
def remSigned (x y : Word) : Word := if y = 0 then x else BitVec.ofInt 64 (x.toInt.tmod y.toInt)

/-- Leading zero bits of the low `n` bits. -/
def leadingZeros (x : Word) : Nat → Nat
  | 0 => 0
  | n + 1 => if x.getLsbD n then 0 else 1 + leadingZeros x n

/-- Trailing zero bits from bit 64 − n on. -/
def trailingZeros (x : Word) : Nat → Nat
  | 0 => 0
  | n + 1 => if x.getLsbD (63 - n) then 0 else 1 + trailingZeros x n

/-- One bits among the low `n` bits. -/
def oneBits {w : Nat} (x : BitVec w) : Nat → Nat
  | 0 => 0
  | n + 1 => (if x.getLsbD n then 1 else 0) + oneBits x n

/-- Bit i moved to bit 63 − i (R75), for the low `n` bits. -/
def bitReverse (x : Word) : Nat → Nat
  | 0 => 0
  | n + 1 => (if x.getLsbD n then 2 ^ (63 - n) else 0) + bitReverse x n

/-- R74, ADD. -/
def execAdd (d a b : Reg) (s : State) := alu2 d a b (· + ·) s

/-- R74, SUB. -/
def execSub (d a b : Reg) (s : State) := alu2 d a b (· - ·) s

/-- R74, AND. -/
def execAnd (d a b : Reg) (s : State) := alu2 d a b (· &&& ·) s

/-- R74, OR. -/
def execOr (d a b : Reg) (s : State) := alu2 d a b (· ||| ·) s

/-- R74, XOR. -/
def execXor (d a b : Reg) (s : State) := alu2 d a b (· ^^^ ·) s

/-- R74, ANDN. -/
def execAndn (d a b : Reg) (s : State) := alu2 d a b (fun x y => x &&& ~~~y) s

/-- R74, SLL. -/
def execSll (d a b : Reg) (s : State) := alu2 d a b (fun x y => x <<< amount y) s

/-- R74, SRL. -/
def execSrl (d a b : Reg) (s : State) := alu2 d a b (fun x y => x >>> amount y) s

/-- R74, SRA. -/
def execSra (d a b : Reg) (s : State) := alu2 d a b (fun x y => x.sshiftRight (amount y)) s

/-- R74, ROL. -/
def execRol (d a b : Reg) (s : State) := alu2 d a b (fun x y => x.rotateLeft (amount y)) s

/-- R74, ROR. -/
def execRor (d a b : Reg) (s : State) := alu2 d a b (fun x y => x.rotateRight (amount y)) s

/-- R74, SLT. -/
def execSlt (d a b : Reg) (s : State) := alu2 d a b (fun x y => if x.slt y then 1 else 0) s

/-- R74, SLTN. -/
def execSltn (d a b : Reg) (s : State) := alu2 d a b (fun x y => if x.ult y then 1 else 0) s

/-- R74, MIN. -/
def execMin (d a b : Reg) (s : State) := alu2 d a b (fun x y => if y.slt x then y else x) s

/-- R74, MAX. -/
def execMax (d a b : Reg) (s : State) := alu2 d a b (fun x y => if x.slt y then y else x) s

/-- R74, MINN. -/
def execMinn (d a b : Reg) (s : State) := alu2 d a b (fun x y => if y.ult x then y else x) s

/-- R74, MAXN. -/
def execMaxn (d a b : Reg) (s : State) := alu2 d a b (fun x y => if x.ult y then y else x) s

/-- R75, MUL. -/
def execMul (d a b : Reg) (s : State) := alu2 d a b (· * ·) s

/-- R75, MULH: bits 127:64 of the signed product. -/
def execMulh (d a b : Reg) (s : State) :=
  alu2 d a b (fun x y => BitVec.ofInt 64 (x.toInt * y.toInt / 2 ^ 64)) s

/-- R75, MULHN: bits 127:64 of the unsigned product. -/
def execMulhn (d a b : Reg) (s : State) :=
  alu2 d a b (fun x y => BitVec.ofNat 64 (x.toNat * y.toNat / 2 ^ 64)) s

/-- R75, DIV. -/
def execDiv (d a b : Reg) (s : State) := alu2 d a b divSigned s

/-- R75, DIVN. -/
def execDivn (d a b : Reg) (s : State) :=
  alu2 d a b (fun x y => if y = 0 then BitVec.allOnes 64 else BitVec.ofNat 64 (x.toNat / y.toNat)) s

/-- R75, REM. -/
def execRem (d a b : Reg) (s : State) := alu2 d a b remSigned s

/-- R75, REMN. -/
def execRemn (d a b : Reg) (s : State) :=
  alu2 d a b (fun x y => if y = 0 then x else BitVec.ofNat 64 (x.toNat % y.toNat)) s

/-- R75, CLZ. -/
def execClz (d a : Reg) (s : State) := alu1 d a (fun x => BitVec.ofNat 64 (leadingZeros x 64)) s

/-- R75, CTZ. -/
def execCtz (d a : Reg) (s : State) := alu1 d a (fun x => BitVec.ofNat 64 (trailingZeros x 64)) s

/-- R75, POPC. -/
def execPopc (d a : Reg) (s : State) := alu1 d a (fun x => BitVec.ofNat 64 (oneBits x 64)) s

/-- R75, BREV. -/
def execBrev (d a : Reg) (s : State) := alu1 d a (fun x => BitVec.ofNat 64 (bitReverse x 64)) s

/-- R76, ADDI. -/
def execAddi (d a : Reg) (i : BitVec 15) (s : State) := alu1 d a (fun x => x + i.signExtend 64) s

/-- R76, ANDI. -/
def execAndi (d a : Reg) (i : BitVec 15) (s : State) := alu1 d a (fun x => x &&& i.signExtend 64) s

/-- R76, ORI. -/
def execOri (d a : Reg) (i : BitVec 15) (s : State) := alu1 d a (fun x => x ||| i.signExtend 64) s

/-- R76, XORI. -/
def execXori (d a : Reg) (i : BitVec 15) (s : State) := alu1 d a (fun x => x ^^^ i.signExtend 64) s

/-- R76, SLLI. -/
def execSlli (d a : Reg) (n : BitVec 6) (s : State) := alu1 d a (fun x => x <<< n.toNat) s

/-- R76, SRLI. -/
def execSrli (d a : Reg) (n : BitVec 6) (s : State) := alu1 d a (fun x => x >>> n.toNat) s

/-- R76, SRAI. -/
def execSrai (d a : Reg) (n : BitVec 6) (s : State) := alu1 d a (fun x => x.sshiftRight n.toNat) s

/-- R76, SLTI. -/
def execSlti (d a : Reg) (i : BitVec 15) (s : State) :=
  alu1 d a (fun x => if x.slt (i.signExtend 64) then 1 else 0) s

/-- The upper immediate of R77: Sext(imm20 × 2^12, 32). -/
def upper (i : BitVec 20) : Word := sext64 (i.toNat * 2 ^ 12) 32

/-- R77, LUI. -/
def execLui (d : Reg) (i : BitVec 20) (s : State) := alu d [] (fun _ => upper i) s

/-- R77, AUIPC: the PC is the instruction's own address. -/
def execAuipc (d : Reg) (i : BitVec 20) (s : State) := alu d [] (fun s => s.pc + upper i) s

end Sys2Proof.Machine
end

