-- ==== Sys2Proof/Machine/Control.lean ====
section
/-!
DEFINITION. Control transfer, WAITC, the engine sequencers and counted loops: majors 0x0D–0x17 (R78–R92).
-/

namespace Sys2Proof.Machine

/-! ## Branches and jumps -/

/-- A branch: taken to PC + Sext(off15, 15) × 4 when its comparison holds (R79). -/
def branch (a b : Reg) (o : BitVec 15) (test : Word → Word → Bool) (s : State) : Host.Outcome State Fault Refusal :=
  issue .hart (do
    named [a, b]
    let s ← get
    if test (s.rs a) (s.rs b) then
      let t := s.pc + o.signExtend 64 * 4
      checkTarget t
      pure (.goto t)
    else pure .seq) s

/-- R79, BEQ. -/
def execBeq (a b : Reg) (o : BitVec 15) (s : State) := branch a b o (fun x y => x == y) s

/-- R79, BNE. -/
def execBne (a b : Reg) (o : BitVec 15) (s : State) := branch a b o (fun x y => x != y) s

/-- R79, BLT. -/
def execBlt (a b : Reg) (o : BitVec 15) (s : State) := branch a b o (fun x y => x.slt y) s

/-- R79, BGE. -/
def execBge (a b : Reg) (o : BitVec 15) (s : State) := branch a b o (fun x y => !x.slt y) s

/-- R79, BLTN. -/
def execBltn (a b : Reg) (o : BitVec 15) (s : State) := branch a b o (fun x y => x.ult y) s

/-- R79, BGEN. -/
def execBgen (a b : Reg) (o : BitVec 15) (s : State) := branch a b o (fun x y => !x.ult y) s

/-- R80, JAL. -/
def execJal (d : Reg) (o : BitVec 20) (s : State) : Host.Outcome State Fault Refusal :=
  issue .hart (do
    named [d]
    let s ← get
    let t := s.pc + o.signExtend 64 * 4
    checkTarget t
    set (s.setRs d (s.pc + 4))
    pure (.goto t)) s

/-- R80, JALR: s1 is read before d is written. -/
def execJalr (d a : Reg) (i : BitVec 15) (s : State) : Host.Outcome State Fault Refusal :=
  issue .hart (do
    named [d, a]
    let s ← get
    let t := s.rs a + i.signExtend 64
    if t.toNat % 4 ≠ 0 then trap .misaligned t else pure ()
    checkTarget t
    set (s.setRs d (s.pc + 4))
    pure (.goto t)) s

/-- R81, JTAB: the table read is an operand read (R251), and a late refusal of it is precise. -/
def execJtab (d a b : Reg) (n : BitVec 10) (s : State) : Host.Outcome State Fault Refusal :=
  issue .hart (do
    named [d, a, b]
    let s ← get
    let idx := (s.rs a).toNat
    if n.toNat ≤ idx then
      set (s.setRs d (s.pc + 4))
      pure .seq
    else
      let p := s.rs b + BitVec.ofNat 64 (4 * idx)
      match place s .table 4 4 p with
      | .error f => trap f.cause (f.word s)
      | .ok pl =>
        ownWrites pl 4
        let t := s.pc + sext64 (s.loadAt pl 4) 32
        if t.toNat % 4 ≠ 0 then trap .misaligned t else pure ()
        checkTarget t
        set (s.setRs d (s.pc + 4))
        pure (.goto t)) s

/-! ## Waiting for completion -/

/-- The operations of a class that the hart issued directly and that are not complete, each instruction once; a TMOV that waits in the
vector instruction queue is a tile operation (R86). -/
def State.outstanding (s : State) (h : HartId) (test : OpClass → Bool) : Nat :=
  let ids := (s.ops.filter (fun o => o.issuer == .hart h && test o.cls)).map
    (fun o => match o.kind.chip? with
      | some _ => o.counts.1.toNat
      | none => o.id)
  ids.eraseDups.length + (if test .tile then ((s.hart h).lanes.filter (fun e => isTmov e.word && e.work == .execute)).length else 0)

/-- A limit of 31 imposes no condition (R86). -/
def within (n : Nat) (l : BitVec 5) : Bool := l == 31 || decide (n ≤ l.toNat)

/-- R86, WAITC. -/
def execWaitc (ns nc nl nt : BitVec 5) (s : State) : Host.Outcome State Fault Refusal :=
  issue .hart (do
    let s ← get
    let h := s.cur.owner
    if within (s.outstanding h (fun c => c == .load || c == .both)) nl &&
        within (s.outstanding h (fun c => c == .store || c == .both)) ns &&
        within (s.outstanding h (fun c => c == .copy)) nc && within (s.outstanding h (fun c => c == .tile)) nt then
      pure .seq
    else throw .wait) s

/-! ## Engine sequencers -/

/-- Descriptor of a forked program (R87): entry and length, or FETCH_BOUND. -/
def forkDesc (w : Word) : M (Option (Nat × Nat)) := do
  if w = 0 then pure none
  else
    let s ← get
    let entry := bitsOf w 0 32
    let len := bitsOf w 32 16
    if bitsOf w 48 16 ≠ 0 ∨ len = 0 ∨ entry % 4 ≠ 0 ∨ s.codeSize < entry + 4 * len then trap .fetchBound w
    else pure (some (entry, len))

/-- A sequencer's program as FORK starts it: the hart's scalars, handles, vl, vsew, frm and nbedge (R87). -/
def Hart.snapshot (h : Hart) (entry words : Nat) : SeqProg :=
  { SeqProg.reset with
    entry := entry
    words := words
    pc := entry
    sregs := h.sregs
    hregs := h.hregs
    vl := h.vl
    vsew := h.vsew
    frm := h.frm
    nbedge := h.nbedge
    ended := false }

/-- A reference taken to, or dropped from, each handle of a register file (R234). -/
def State.overHandles (f : State → Nat → Nat → State) (c : Nat) (hs : Vector (Option Nat) 16) (s : State) : State :=
  hs.toList.foldl (fun s x => match x with
    | some q => f s c q
    | none => s) s

/-- One engine started (R87, step 4; R234): the program takes a number that no other has. -/
def State.startSeq (s : State) (e : Eng) (entry words : Nat) : State :=
  let h := s.me
  let s := s.setMe (h.setProg e { h.snapshot entry words with id := s.nextOp })
  let s := { s with nextOp := s.nextOp + 1 }
  let s := match e with
    | .tile => s.setCore { s.core with tile := { s.core.tile with forked := some s.cur.owner } }
    | .stream => s.setCore { s.core with streamFork := some s.cur.owner }
  s.overHandles State.addRef h.core h.hregs

/-- R87, FORK. The stream sequencer also waits for the hart's XSENDs. (log entry 72: DEDUCED.) -/
def execFork (a b : Reg) (s : State) : Host.Outcome State Fault Refusal :=
  issue .hart (do
    named [a, b]
    let s ← get
    let t ← forkDesc (s.rs a)
    let u ← forkDesc (s.rs b)
    if (t.isSome && (s.core.tile.forked.isSome || !s.hasTile)) || (u.isSome && s.core.streamFork.isSome) then
      trap .engineOwned (s.word.setWidth 64)
    else pure ()
    let h := s.cur.owner
    if s.me.pending ≠ 0 ∨ s.me.vpending ≠ 0 ∨ s.me.lanes ≠ [] ∨ s.vlPending = true ∨
        (t.isSome ∧ (s.outstanding h (fun c => c == .tile) ≠ 0 ∨ s.tileFree (List.range 1024) = false)) ∨
        (u.isSome ∧ s.outstanding h (fun c => c == .copy) ≠ 0) then throw .wait
    else pure ()
    match t with
    | some (e, n) => act (fun s => s.startSeq .tile e n)
    | none => pure ()
    match u with
    | some (e, n) => act (fun s => s.startSeq .stream e n)
    | none => pure ()
    pure .seq) s

/-- Whether a program has ended, or stopped for good (R88, R89). -/
def SeqProg.finished (p : SeqProg) : Bool := p.ended || (p.stop.isSome && !p.suspended)

/-- An engine freed: its handles' references dropped, its program gone (R89, R234). -/
def State.freeEngine (s : State) (e : Eng) : State :=
  let h := s.me
  match e with
  | .tile =>
    match h.tileProg with
    | none => s
    | some p =>
      let s := (s.setMe { h with tileProg := none }).dropUnder (Reader.beside s.cur.owner)
      let s := s.setCore { s.core with tile := { s.core.tile with forked := none } }
      s.overHandles State.dropRef h.core p.hregs
  | .stream =>
    match h.streamProg with
    | none => s
    | some p =>
      let s := s.setMe { h with streamProg := none }
      let s := s.setCore { s.core with streamFork := none }
      s.overHandles State.dropRef h.core p.hregs

/-- The ENGINE_STOP that reports a stopped sequencer (R89, R96). -/
def engineStop (src : Nat) (i : StopInfo) : TrapInfo :=
  { cause := .engineStop, tval := i.tval, source := src, inner := i.cause, lane := 0, enginePc := i.pc,
    pos := some (BitVec.ofNat 64 (i.kstart.toNat * 2 ^ 32 + i.vstart.toNat)), deferred := false }

/-- Which stop RDV reports: the earlier, and the tile engine's in the same cycle (R89). -/
def Hart.engineTrap (h : Hart) : Option TrapInfo :=
  match (h.prog .tile).stop, (h.prog .stream).stop with
  | some i, some j =>
    if (h.prog .tile).stopAt ≤ (h.prog .stream).stopAt then some (engineStop 2 i) else some (engineStop 3 j)
  | some i, none => some (engineStop 2 i)
  | none, some j => some (engineStop 3 j)
  | none, none => none

/-- RDV's wait, the freeing of both engines and its trap (R89). -/
def rendezvous : M Unit := do
  let s ← get
  let h := s.me
  if (h.prog .tile).finished && (h.prog .stream).finished then
    set ((s.freeEngine .tile).freeEngine .stream)
    match h.engineTrap with
    | some t => throw (.trap t)
    | none => pure ()
  else throw .wait

/-- R89, RDV. -/
def execRdv (s : State) : Host.Outcome State Fault Refusal :=
  issue .hart (do
    rendezvous
    pure .seq) s

/-- R92, RDCYC: arithmetic-clock cycles since the core's last reset, which the model counts for the chip.
(log entry 2: DESIGN CHOICE.) -/
def execRdcyc (d : Reg) (s : State) : Host.Outcome State Fault Refusal :=
  alu d [] (fun s => BitVec.ofNat 64 s.cycle) s

/-! ## Counted loops -/

/-- Where the issuer's code ends: the code area, or the forked program (R91). -/
def State.codeEnd (s : State) : Nat :=
  match s.cur with
  | .seq _ e => (s.me.prog e).entry + 4 * (s.me.prog e).words
  | _ => s.codeSize

/-- R91, LOOP. A zero count that finds no ENDLOOP goes on as sequential fetch past the end: on a hart that fetch traps;
a sequencer's program would end there, so the trap is raised here. -/
def execLoop (a : Reg) (c : BitVec 5) (s : State) : Host.Outcome State Fault Refusal :=
  issue .engines (do
    named [a]
    let s ← get
    let count := (s.rs a).toNat % 2 ^ 32
    let k := c.toNat % 8
    let next := s.pc + 4
    if count = 0 then
      match s.findEndloop k ((s.codeEnd - next.toNat) / 4) next.toNat with
      | some t => pure (.goto (BitVec.ofNat 64 t))
      | none =>
        let stop := BitVec.ofNat 64 s.codeEnd
        match s.cur with
        | .seq _ _ =>
          set (s.goto stop)
          trap .fetchBound stop
        | _ => pure (.goto stop)
    else
      set (s.setLoop k ⟨BitVec.ofNat 32 count, next, true⟩)
      pure .seq) s

/-- R91, ENDLOOP. -/
def execEndloop (c : BitVec 5) (s : State) : Host.Outcome State Fault Refusal :=
  issue .engines (do
    let s ← get
    let k := c.toNat % 8
    let x := vecGet LoopCtr.reset s.loops k
    if x.active then
      if x.count - 1 = 0 then
        set (s.setLoop k { x with count := x.count - 1, active := false })
        pure .seq
      else
        set (s.setLoop k { x with count := x.count - 1 })
        pure (.goto x.start)
    else pure .seq) s

end Sys2Proof.Machine
end

