-- ==== Sys2Proof/Machine/Blocks.lean ====
section
/-!
DEFINITION. Blocks, strands, replay and the release of a vector set: majors 0x3C and 0x3D (R118, R140–R149).
-/

namespace Sys2Proof.Machine

/-- The issuer's hart with its vector set changed. -/
def State.setVset (s : State) (f : VSet → VSet) : State := s.setMe { s.me with vset := s.me.vset.map f }

/-! ## Replay and fetched blocks -/

/-- Words that enter the vector instruction queue (R141, R142). -/
def State.enqueueWords (s : State) (ws : List IWord) : State := s.setMe { s.me with vqueue := ws }

/-- Majors that VLOOP captures (R140). -/
def loopMajor (w : IWord) : Bool := decide (0x20 ≤ major w ∧ major w ≤ 0x35) || major w == 0x37

/-- The next words that VLOOP reads ahead, checked in order (R140). -/
def capture (s : State) : Nat → Nat → Except (Cause × Word) (List IWord)
  | 0, _ => .ok []
  | n + 1, off =>
    if s.codeSize < off + 4 then .error (.fetchBound, BitVec.ofNat 64 s.codeSize)
    else
      let w := s.codeWord off
      if loopMajor w then (capture s n (off + 4)).map (w :: ·) else .error (.illegalInstr, w.setWidth 64)

/-- R140, VLOOP: its field holds k − 1. -/
def execVloop (k : BitVec 5) (s : State) : Host.Outcome State Fault Refusal :=
  issue .hart (do
    vchecks ⟨[], [], [], [], []⟩
    let s ← get
    match capture s (k.toNat + 1) (s.pc.toNat + 4) with
    | .error e => trap e.1 e.2
    | .ok ws =>
      set ((s.setVset (fun v => { v with replay := ws, resume := none })).setVstart 0)
      pure .seq) s

/-- R141, VAGAIN. -/
def execVagain (s : State) : Host.Outcome State Fault Refusal :=
  issue .hart (do
    vchecks ⟨[], [], [], [], []⟩
    let s ← get
    let ws := (s.me.vset.getD VSet.reset).replay
    if ws.isEmpty then trap .illegalInstr (s.word.setWidth 64) else pure ()
    set ((s.setVset (fun v => { v with resume := none })).enqueueWords ws)
    pure .stay) s

/-- R142, VFETCH. -/
def execVfetch (a : Reg) (s : State) : Host.Outcome State Fault Refusal :=
  issue .hart (do
    vchecks ⟨[a], [], [], [], []⟩
    vscalars [a]
    let s ← get
    match s.block (s.rs a) with
    | .error e => trap e.1 e.2
    | .ok ws =>
      set ((s.setVset (fun v => { v with replay := ws, resume := none })).enqueueWords ws)
      pure .stay) s

/-! ## Strands -/

/-- A strand at a strand PC: its block, or the stop that its fetch ends in (R42, R143). -/
def State.fetchStrand (s : State) (x : Strand) (pc : Word) : Strand :=
  let x := { x with pc := pc }
  match s.block pc with
  | .ok ws => { x with block := ws, running := true }
  | .error e => x.takeTrap (.at e.1 e.2)

/-- A strand as TFETCH starts it (R143). -/
def State.newStrand (s : State) (a : Reg) (j : Nat) : Strand :=
  let x := { Strand.reset with
    lane := j
    vl := BitVec.ofNat 13 s.vl
    vsew := BitVec.ofNat 7 s.vsew
    frm := s.frm
    nbedge := s.nbedge }
  s.fetchStrand x (BitVec.ofNat 64 (elemOf (s.me.vreg a.toNat) (8 * j) 64))

/-- A strand stopped at its STOP (R146). -/
def State.stopStrand (s : State) (j : Nat) : State :=
  s.setMe (s.me.setStrand j { s.me.strand j with running := false, block := [] })

/-- R143, TFETCH: on a hart it starts strands, and the stopped ones of an earlier TFETCH keep their faults and flags for the next
VJOIN (R147); in a strand it continues at the strand's own address, or stops it (R146). -/
def execTfetch (a : Reg) (m : MReg) (s : State) : Host.Outcome State Fault Refusal :=
  issue .lanes (do
    vlane ⟨[], [], [], [a], [m]⟩
    let s ← get
    match s.cur with
    | .strand _ j =>
      if (s.me.mreg m.toNat).getLsbD j then
        set (s.setMe (s.me.setStrand j (s.fetchStrand (s.me.strand j) (s.rs a))))
      else set (s.stopStrand j)
      pure .stay
    | _ =>
      let lanes := (List.range 32).filter (fun j => (s.me.mreg m.toNat).getLsbD j)
      let s := s.setVset (fun v => { v with strands := lanes.map (s.newStrand a), unjoined := v.unjoined ++ v.strands })
      set ((s.dropUnder (Reader.isStrand s.cur.owner)).setVstart 0)
      pure .seq) s

/-- R146, STOP: no effect on a hart. -/
def execStop (s : State) : Host.Outcome State Fault Refusal :=
  issue .lanes (do
    vchecks ⟨[], [], [], [], []⟩
    let s ← get
    match s.cur with
    | .strand _ j =>
      set (s.stopStrand j)
      pure .stay
    | _ =>
      set (s.setVstart 0)
      pure .seq) s

/-- The strands that a VJOIN meets: those of every TFETCH since the last (R147). -/
def Hart.joining (h : Hart) : List Strand :=
  match h.vset with
  | none => []
  | some v => v.unjoined ++ v.strands

/-- The fault of the lowest lane that stopped on one, under the earlier TFETCH where two stopped there (R147).
(log entry 83: DESIGN CHOICE.) -/
def Hart.strandTrap (h : Hart) : Option TrapInfo :=
  ((stableSort (fun x y : Strand => decide (x.lane ≤ y.lane)) h.joining).findSome? (fun x =>
    x.stop.map (fun i => (x.lane, i)))).map (fun p =>
      { cause := .strandStop, tval := p.2.tval, source := 4, inner := p.2.cause, lane := p.1, enginePc := p.2.pc,
        pos := some (BitVec.ofNat 64 (h.kstart.toNat * 2 ^ 32 + p.2.vstart.toNat)), deferred := false })

/-- Whether a hart has strands that have not stopped, or that a TFETCH in the queue is still to start (R143). -/
def Hart.unstopped (h : Hart) : Bool := h.strands.any (fun t => t.running) || h.lanes.any (fun e => isTfetch e.word)

/-- VJOIN's wait, the merging of flags, and its trap (R147). -/
def joinStrands : M Unit := do
  let s ← get
  if s.me.unstopped then throw .wait else pure ()
  let flags := s.me.joining.foldl (fun f t => f ||| t.flags) (0 : BitVec 5)
  let t := s.me.strandTrap
  let s := s.setVset (fun v => { v with strands := [], unjoined := [] })
  set (s.setMe { s.me with fflags := s.me.fflags ||| flags })
  match t with
  | some t => throw (.trap t)
  | none => pure ()

/-- R147, VJOIN. -/
def execVjoin (s : State) : Host.Outcome State Fault Refusal :=
  issue .hart (do
    let s ← get
    if s.me.vset.isNone then trapDead none else pure ()
    joinStrands
    act (fun s => s.setVstart 0)
    pure .seq) s

/-- R118's effect: vsew, vl and d. -/
def setLength (d : Reg) (r : Nat) (t : BitVec 3) (s : State) : State :=
  let w := if t.toNat = 4 then 4 else 8 * 2 ^ t.toNat
  let vl := Nat.min r (16384 / w)
  (s.setMe { s.me with vsew := BitVec.ofNat 7 w, vl := BitVec.ofNat 13 vl }).setRs d (BitVec.ofNat 64 vl)

/-- R118, SETVL. One that names a bound scalar traps as R113 gives, before all else. (log entry 57: DEDUCED.) -/
def execSetvl (d a : Reg) (t : BitVec 3) (s : State) : Host.Outcome State Fault Refusal :=
  issue .hart (do
    named [d, a]
    if s.vlPending then throw .stall else pure ()
    act (fun s => setLength d (s.rs a).toNat t s)
    pure .seq) s

/-- R118, SETVLI; a bound scalar traps as for SETVL. (log entry 57: DEDUCED.) -/
def execSetvli (d a : Reg) (n : BitVec 11) (t : BitVec 3) (s : State) : Host.Outcome State Fault Refusal :=
  issue .hart (do
    named [d, a]
    if s.vlPending then throw .stall else pure ()
    act (fun s => setLength d ((s.rs a).toNat + n.toNat) t s)
    pure .seq) s

end Sys2Proof.Machine
end

