-- ==== Sys2Proof/Machine/Streams.lean ====
section
/-!
DEFINITION. Stream-mode registers and the element loop: what a bound source pops, what a bound destination hands on, and the loop
over the elements of a vector instruction (R15, R112, R155, R165–R168).
-/

namespace Sys2Proof.Machine

/-! ## Stream-mode registers (R165–R168) -/

/-- The state with a binding of the issuer's set replaced. -/
def State.setBind (s : State) (b : Binding) : State :=
  match s.me.vset with
  | none => s
  | some v => s.setMe { s.me with vset := some { v with binds := v.binds.map (fun c => if c.reg = b.reg then b else c) } }

/-- What a read cursor finds for its next `n` bytes. -/
inductive Avail
  | ready
  | later
  | ends (c : Cause) (tval : Word)
  deriving DecidableEq, Repr

/-- Where bytes of a pattern lie, from the cursor's `k`-th byte on. -/
def State.patPlaces (s : State) (acc : Access) (b : Binding) (k n : Nat) : List (Except PtrFault Place) :=
  (List.range n).map (fun j => s.placeLive (place s acc 1 1 (b.pat.addr (b.pos + k + j))))

/-- Whether a place is on another chip. -/
def isFar : Except PtrFault Place → Bool
  | .ok (.remote _ _ _ _) => true
  | _ => false

/-- A byte of a pattern read on this chip; one that its target refuses reads zero (R85). -/
def State.nearByte (s : State) (p : Except PtrFault Place) : Byte :=
  match p with
  | .ok pl => BitVec.ofNat 8 (s.loadAt pl 1)
  | .error _ => 0

/-- The 8-byte words of this chip's stores that bytes lie in (R84). -/
def placeWords (l : List (Except PtrFault Place)) : List Nat :=
  (l.flatMap (fun p => match p with
    | .ok pl => pl.touch 1
    | .error _ => [])).eraseDups

/-- Whether a binding's handle follows an import that is broken: its reads give zero and its writes have no effect (R244). -/
def State.bindBroken (s : State) (b : Binding) : Bool := ((s.coreAt s.me.core).seqr b.seq).broken.isSome

/-- Whether a word out of the vector instruction queue is being executed: the records that it pops were in the stream buffer, past
translation and ECC, when it issued (R114). -/
def Issuer.buffered : Issuer → Bool
  | .queued _ => true
  | _ => false

/-- Whether the next `n` bytes of a read binding are there (R168): published bytes of a run, or bytes of a pattern that have been
loaded. -/
def State.avail (s : State) (b : Binding) (n : Nat) : Avail :=
  if s.bindBroken b then .ready
  else
  match b.kind with
  | .patRead =>
    if b.pat.total < b.pos + n then .ends .runState 0
    else if b.part.length < n then .later
    else .ready
  | _ =>
    let e := handleEntry b.handle
    let r := s.ctx.run e
    if b.pos + n ≤ r.pub * r.size then
      match s.badIn s.group.ctx e b.pos (b.pos + n) with
      | some _ => if s.cur.buffered then .ready else .ends .poison (BitVec.ofNat 64 (b.pos / r.size))
      | none => .ready
    else if r.state = .sealed then .ends .runState b.handle
    else .later

/-- The bytes at a read binding's position. -/
def State.peek (s : State) (b : Binding) (n : Nat) : Nat :=
  if s.bindBroken b then 0
  else
  match b.kind with
  | .patRead => leNat (b.part.take n)
  | _ => leNat (s.runBytes s.group.ctx (handleEntry b.handle) b.pos n)

/-! ## What write-bound registers hand on (R155, R167) -/

/-- An append takes its positions and writes what it can (R155). A run that is no longer OPEN takes none: it ends with RUN_STATE,
deferred, with tval the handle (R154). (log entry 23: DESIGN CHOICE.) -/
def State.startAppend (s : State) (o : Op) (run : Word) (data : List Byte) : State :=
  let e := handleEntry run
  if (s.runAt o.ctx e).state = .opened then
    let (s, o) := s.takePositions o e data
    s.driveAppend o id
  else (s.endOp o).reportOp o .runState run true

/-- Records appended through an append cursor, as one operation under the binding's handle, which takes its positions once what precedes
it is performed (R155, R247); the cursor keeps its translation while it stays in its extent (R327, R331). A run that is no longer OPEN
takes none: RUN_STATE, deferred, with tval the handle. (log entry 23: DESIGN CHOICE.) -/
def State.emit (s : State) (b : Binding) (data : List Byte) : State :=
  let e := handleEntry b.handle
  if (s.ctx.run e).state ≠ .opened then s.report s.cur .runState b.handle (BitVec.ofNat 32 s.pc.toNat) true
  else
    let s := s.addOp b.seq .uncounted (.append b.handle data)
    match s.opAt s.lastOp with
    | none => s
    | some o =>
      let o := { o with maps := [(e, (b.mapExt, b.mapGen))] }
      if s.ready o then s.startAppend o b.handle data else s.setOp o

/-- The translation that a cursor holds after an append of so many bytes (R327). -/
def State.retranslate (s : State) (b : Binding) (n : Nat) : Binding :=
  let r := s.ctx.run (handleEntry b.handle)
  { b with mapExt := extentIndex r.mapped (r.len * r.size + n - 1), mapGen := s.mapGenOf r }

/-- The whole records that an append cursor has gathered, emitted (R167); a partial one stays. -/
def State.flushRecords (s : State) (b : Binding) : State :=
  let size := (s.ctx.run (handleEntry b.handle)).size
  let n := b.part.length / size * size
  if n = 0 then s
  else (s.setBind { s.retranslate b n with part := b.part.drop n }).emit b (b.part.take n)

/-- A byte of a pattern write: its number, its address, its place, and its value. -/
structure PatByte where
  i : Nat
  p : Word
  at_ : Except PtrFault Place
  x : Byte

/-- The bytes that a pattern write has gathered. -/
def State.patBytes (s : State) (b : Binding) : List PatByte :=
  b.part.zipIdx.map (fun p =>
    let a := b.pat.addr (b.pos - b.part.length + p.2)
    ⟨p.2, a, s.placeLive (place s .patWrite 1 1 a), p.1⟩)

/-- A byte of a pattern write stored on this chip. -/
def PatByte.put (s : State) (e : PatByte) : State :=
  match e.at_ with
  | .ok pl => s.storeAt pl 1 e.x.toNat
  | .error _ => s

/-- The chip, and die and core as one number, of a byte elsewhere. -/
def PatByte.dest? (e : PatByte) : Option (BitVec 10 × Nat) :=
  match e.at_ with
  | .ok (.remote chip die core _) => some (chip, die * 64 + core)
  | _ => none

/-- The bytes of one destination on another chip sent as one request (R355). -/
def State.sendPat (q : Nat) (group : Nat) (es : List PatByte) (s : State) (t : BitVec 10 × Nat) : State :=
  let mine := es.filter (fun e => e.dest? = some t)
  let s := s.addRemote q .store (.remoteVec t.1 none (mine.map (fun e => (e.i, e.p))) 8 false) group
  let rs := reqPackets t.2 true false 8 es.length none
    (mine.map (fun e => (e.i, ptrOff e.p, BitVec.ofNat 64 e.x.toNat)))
  rs.foldl (fun s r => s.send s.group.ctx t.1 s.lastOp false false (.req r)) s

/-- The bytes that a pattern write has gathered, stored along the pattern; the lowest that a target refuses is reported (R27, R114,
R167). -/
def State.storePattern (s : State) (b : Binding) : State :=
  let es := s.patBytes b
  let s := es.foldl PatByte.put s
  let s := match es.findSome? (fun e => match e.at_ with
      | .error f => some f
      | .ok _ => none) with
    | some f => s.report s.cur f.cause (f.word s) (BitVec.ofNat 32 s.pc.toNat) true
    | none => s
  ((es.filterMap PatByte.dest?).eraseDups).foldl (State.sendPat b.seq s.nextOp es) s

/-- Whether something still holds up a store that a binding's register makes now: what precedes it under the handle, or precedes the
word which makes it (R246, R247). -/
def State.bindHeld (s : State) (b : Binding) : Bool :=
  s.heldUp s.cur.owner b.seq ((s.issuedAs.map Op.preds).getD (s.predsAt s.me.core b.seq))

/-- The bytes that a pattern write has gathered, handed on: stored now, or once what precedes the stores is performed and earlier
accesses of the hart to the same words are (R84, R247). -/
def State.flushPattern (s : State) (b : Binding) : State :=
  let t := s.setBind { b with part := [] }
  let words := placeWords ((s.patBytes b).map PatByte.at_)
  let first := (s.issuedAs.map Op.id).getD s.nextOp
  if !s.bindHeld b && !s.touching s.cur.owner words first then t.storePattern b
  else t.addOp b.seq .store (.patStore b words)

/-- What a write-bound register has gathered, handed on. -/
def State.flush (s : State) (b : Binding) : State :=
  match b.kind with
  | .append => if s.bindBroken b then s.setBind { b with part := [] } else s.flushRecords b
  | .patWrite =>
    if b.part.isEmpty then s
    else if s.bindBroken b then s.setBind { b with part := [] }
    else s.flushPattern b
  | _ => s

/-- What the write-bound registers of the issuer have gathered, handed on: at the end of the instruction, or at its trap (R155). -/
def State.flushBinds (s : State) : State := s.binds.foldl State.flush s

/-- The state at a stop of element `i`: vstart names it (R26, R168). At a trap the elements below are complete, and the records that
they filled are appended. -/
def stopAt {α : Type} (i : Nat) (st : Stop) : M α := do
  act (fun s => s.setVstart i)
  match st with
  | .trap _ => act State.flushBinds
  | _ => pure ()
  throw st

/-! ## The load that an instruction's pops of a pattern form (R166) -/

/-- Bytes of a pattern that the next `k` elements of `size` bytes take, as far as the pattern goes. -/
def Binding.patternBytes (b : Binding) (k size : Nat) : Nat := Nat.min k ((b.pat.total - b.pos) / size) * size

/-- Whether an issuer has bytes of a register's pattern on their way. -/
def State.fetching (s : State) (who : Issuer) (reg : Nat) : Bool :=
  s.ops.any (fun o => o.issuer == who && (match o.kind with
    | .patFetch _ r _ _ => r == reg
    | _ => false))

/-- The lowest byte of a pattern read that its target refuses is reported (R85, R114). -/
def State.reportBytes (s : State) (l : List (Except PtrFault Place)) : State :=
  match l.findSome? (fun p => match p with
      | .error f => some f
      | .ok _ => none) with
  | some f => s.report s.cur f.cause (f.word s) (BitVec.ofNat 32 s.pc.toNat) true
  | none => s

/-- The bytes on one core of another chip asked for, as one request of the load (R355). -/
def State.askPattern (b : Binding) (group n : Nat) (places : List (Except PtrFault Place × Nat)) (s : State) (t : BitVec 10 × Nat) :
    State :=
  let mine := (places.filter (fun p => match p.1 with
    | .ok (.remote c d k _) => c == t.1 && d * 64 + k == t.2
    | _ => false)).map (fun p => (p.2, b.pat.addr (b.pos + p.2)))
  let s := s.addRemote b.seq .load (.patFetch t.1 b.reg b.pos mine) group
  let s := (reqPackets t.2 false false 8 n none (mine.map (fun e => (e.1, ptrOff e.2, 0)))).foldl
    (fun s r => s.send s.group.ctx t.1 s.lastOp false false (.req r)) s
  { s with ops := s.ops.map (fun o =>
      if o.id == s.lastOp then { o with counts := (o.counts.1, 0, BitVec.ofNat 64 mine.length) } else o) }

/-- The bytes of a pattern up to the `n`-th from its cursor, loaded: those on other chips are asked for, a request for each core that
holds some, and the others wait with the first request for them; with none elsewhere they are there at once. One refusal of a byte on
this chip is reported. (log entry 59: DEDUCED.) -/
def State.loadPattern (s : State) (b : Binding) (n : Nat) : State :=
  let k := b.part.length
  let places := (s.patPlaces .patRead b k (n - k)).zipIdx k
  let dests := (places.filterMap (fun p => match p.1 with
    | .ok (.remote chip die core _) => some (chip, die * 64 + core)
    | _ => none)).eraseDups
  let near := places.filter (fun p => !isFar p.1)
  let s := s.reportBytes (near.map Prod.fst)
  if dests.isEmpty then s.setBind { b with part := b.part ++ near.map (fun p => s.nearByte p.1) }
  else
    let id := s.nextOp
    let values := near.map (fun p => (p.2, (s.nearByte p.1).setWidth 64))
    let s := dests.foldl (State.askPattern b id n places) s
    { s with ops := s.ops.map (fun o => if o.id == id then { o with buf := values } else o) }

/-- The pops of `k` elements of `size` bytes of a binding prepared: the state once a pattern's bytes are asked for, and whether they are
there. A load waits for accesses of the hart to the same words (R84). -/
def State.preload (s : State) (b : Binding) (k size : Nat) : State × Bool :=
  let need := b.patternBytes k size
  if b.kind ≠ .patRead ∨ s.bindBroken b ∨ need ≤ b.part.length then (s, true)
  else if s.fetching s.cur b.reg ||
      s.touching s.cur.owner (placeWords (s.patPlaces .patRead b b.part.length (need - b.part.length))) s.nextOp then (s, false)
  else
    let t := s.loadPattern b need
    (t, !t.fetching t.cur b.reg)

/-- The loads that an instruction's pops of pattern reads form: `n` elements of each register, with its element's bytes. The instruction
waits at its first element for them. -/
def loadPatterns (rs : List (Nat × Nat)) (n : Nat) : M Unit := do
  match rs with
  | [] => pure ()
  | (r, size) :: t =>
    let s ← get
    match s.bindOf r with
    | none => loadPatterns t n
    | some b =>
      let p := s.preload b n size
      set p.1
      if p.2 then loadPatterns t n else stopAt s.vstart (.hold r)

/-- Every bound source of an instruction has its element `i`; else the instruction stops there (R168). A poisoned line
is entered in the poison table by the read (R334). -/
def needSources (rs : List (Nat × Nat)) (i : Nat) : M Unit := do
  match rs with
  | [] => pure ()
  | (r, n) :: t =>
    let s ← get
    match s.bindOf r with
    | none => needSources t i
    | some b =>
      match s.avail b n with
      | .ready => needSources t i
      | .later => stopAt i (.hold r)
      | .ends c v =>
        if c = .poison then
          act (fun s => match s.badIn s.group.ctx (handleEntry b.handle) b.pos (b.pos + n) with
            | some l => s.poisonLine s.group.ctx (handleEntry b.handle) l
            | none => s)
        stopAt i (.trap { TrapInfo.at c v with source := 1 })

/-- The elements popped for one `i`, by register (R166). The list names each bound register once. -/
def popSources : List (Nat × Nat) → M (List (Nat × Nat))
  | [] => pure []
  | (r, n) :: t => do
    let s ← get
    match s.bindOf r with
    | none => popSources t
    | some b =>
      set (s.setBind { b with pos := b.pos + n, part := b.part.drop n })
      let rest ← popSources t
      pure ((r, s.peek b n) :: rest)

/-- Bytes handed to a write-bound register, low byte first; they wait in it until the instruction ends (R155, R167). -/
def State.gather (s : State) (b : Binding) (bytes : List Byte) : State :=
  s.setBind { b with part := b.part ++ bytes, pos := b.pos + bytes.length }

/-- Element `i` of a destination: its register's element, or the bytes that a write-bound register hands on (R167). -/
def State.putElem (s : State) (vd : Reg) (i w x : Nat) : State :=
  match s.bindOf vd.toNat with
  | none => s.setElem vd.toNat i w x
  | some b => s.gather b (natLe (w / 8) x)

/-- A pattern write past the pattern's end traps at its element (R168). -/
def needRoom (dst : List (Reg × Nat)) (i : Nat) : M Unit := do
  let s ← get
  if dst.any (fun p => match s.bindOf p.1.toNat with
      | some b => b.kind == .patWrite && decide (b.pat.total < b.pos + p.2 / 8)
      | none => false) then
    stopAt i (.trap { TrapInfo.at .runState 0 with source := 1 })
  else pure ()

/-- The value of a vector source at an element: what was popped for it, or the register's element. -/
def State.source (s : State) (pops : List (Nat × Nat)) (v : Reg) (i w : Nat) : Nat :=
  (lookup? pops v.toNat).getD (s.elem v.toNat i w)

/-- The value of a second source at an element (R15). -/
def State.source2 (s : State) (pops : List (Nat × Nat)) (nb : BitVec 2) (v : Reg) (i w : Nat) : Nat :=
  if nb = 0 then s.source pops v i w else s.src2 nb v i w

/-! ## The element loop (R15, R112) -/

/-- A loop body run on `k` rising numbers. (log entry 24: DEDUCED.) -/
def loopFrom (f : Nat → M Unit) : Nat → Nat → M Unit
  | 0, _ => pure ()
  | k + 1, i => do
    f i
    loopFrom f k (i + 1)

/-- A loop body run from vstart to n − 1, after which vstart is 0 (R112). (log entry 24: DEDUCED.) -/
def elements (n : Nat) (f : Nat → M Unit) : M Unit := do
  let s ← get
  loopFrom f (n - s.vstart) s.vstart
  act (fun s => s.setVstart 0)

/-- The registers of a list that are bound, each once, with the bytes that an element takes. -/
def State.boundSources (s : State) (rs : List (Reg × Nat)) : List (Nat × Nat) :=
  rs.foldl
    (fun acc p =>
      if (s.bindOf p.1.toNat).isSome && !(acc.any (fun q => q.1 = p.1.toNat)) then acc ++ [(p.1.toNat, p.2 / 8)]
      else acc) []

/-- A bound register used at width 4 traps (R166, R167). -/
def noNibbles (rs : List (Reg × Nat)) : M Unit := do
  let s ← get
  match (rs.filter (fun p => p.2 = 4)).findSome? (fun p => s.bindOf p.1.toNat) with
  | some b => trap .runState b.tval
  | none => pure ()

/-- An append-bound destination whose run is SEALED traps (R162). -/
def bindsOpen (rs : List (Reg × Nat)) : M Unit := do
  let s ← get
  match rs.findSome? (fun p => (s.bindOf p.1.toNat).bind (fun b =>
      if b.kind = .append ∧ (s.ctx.run (handleEntry b.handle)).state = .sealed then some b else none)) with
  | some b => trap .runState b.tval
  | none => pure ()

/-- The pops of a list of registers wait for what precedes them under their bindings' handles: until they are in the buffer the hart
does not pass the instruction (R114, R166). A word out of the vector instruction queue did so when it issued. -/
def bindsSettled (rs : List Reg) : M Unit := do
  let s ← get
  if !s.cur.buffered && rs.any (fun r => match s.bindOf r.toNat with
      | some b => (b.kind == .read || b.kind == .patRead) && s.heldUp s.cur.owner b.seq (s.predsAt s.me.core b.seq)
      | none => false) then throw .stall
  else pure ()

/-- The words of this chip's stores that `n` elements handed to pattern writes go to (R84). -/
def State.patWords (s : State) (dst : List (Reg × Nat)) (n : Nat) : List Nat :=
  dst.flatMap (fun p => match s.bindOf p.1.toNat with
    | some b => if b.kind = .patWrite then placeWords (s.patPlaces .patWrite b 0 (n * (p.2 / 8))) else []
    | none => [])

/-- Whether the next `n` elements of the bound sources are in the stream buffer, and a pattern written has room for as many (R114). -/
def State.buffers (s : State) (bound : List (Nat × Nat)) (dst : List (Reg × Nat)) (n : Nat) : Bool :=
  bound.all (fun p => match s.bindOf p.1 with
    | some b => s.avail b (n * p.2) == .ready
    | none => true) &&
  dst.all (fun p => match s.bindOf p.1.toNat with
    | some b => b.kind != .patWrite || decide (b.pos + n * (p.2 / 8) ≤ b.pat.total)
    | none => true)

/-- The operation under the binding's handle of a queued word that writes a bound register (R167). -/
def State.boundNeeds (s : State) (dst : List (Reg × Nat)) (n : Nat) : Option Needs :=
  dst.findSome? (fun p => (s.bindOf p.1.toNat).map (fun b =>
    { Needs.nothing with q := some b.seq, touch := s.patWords dst n }))

/-- An instruction of stream registers that the lanes do not take as it issues: the hart issues past it when the records that it will
pop are in the buffer (R114), no word of the queue names its bound registers, and nothing else stops it; else it stalls. -/
def streamsTake (v : VNames) (srcs dst : List (Reg × Nat)) (n : Nat) : M Unit := do
  let s ← get
  let bound := s.boundSources srcs
  let regs := bound.map Prod.fst ++ (dst.filter (fun p => (s.bindOf p.1.toNat).isSome)).map (fun p => p.1.toNat)
  if !s.lanesWait v then pure ()
  else if regs.isEmpty then throw (.queue v.regs [] none)
  else if s.me.lanes.any (fun e => regs.any e.names.contains) then throw .stall
  else
    bindsSettled (srcs.map Prod.fst)
    loadPatterns bound n
    let s ← get
    if s.buffers bound dst n then throw (.queue v.regs [] (s.boundNeeds dst n)) else throw .stall

/-- One element of an arithmetic instruction: its bound sources are popped, masked off or not (R166), and a processed one does the
instruction's work with what was popped. -/
def element (bound : List (Nat × Nat)) (dst : List (Reg × Nat)) (mk : MReg) (w : Nat) (f : List (Nat × Nat) → Nat → M Unit)
    (i : Nat) : M Unit := do
  needSources bound i
  let s ← get
  let on := s.maskBit mk.toNat i w
  if on then needRoom dst i else pure ()
  let pops ← popSources bound
  if on then f pops i else pure ()

/-- What stands before the element loop of an instruction that names stream registers, or may: its checks, its place in the queue, and
the loads that its pops form. `w` is the width that numbers its elements. -/
def streams (v : VNames) (srcs dst : List (Reg × Nat)) (w : Nat) : M Unit := do
  vchecks v
  noNibbles (srcs ++ dst)
  bindsOpen dst
  let s ← get
  let n := s.count w - s.vstart
  streamsTake v srcs dst n
  bindsSettled (srcs.map Prod.fst)
  loadPatterns (s.boundSources srcs) n

/-- The element loop of an arithmetic instruction: what it names, its sources and destination with their element widths, the width
that numbers mask bits, and the work of one processed element, which is given what was popped for it. A widening instruction numbers
mask bits and a strand's elements by the wider width (R144). (log entry 76: DEDUCED.) -/
def arith (v : VNames) (srcs : List (Reg × Nat)) (dst : List (Reg × Nat)) (mk : MReg) (w : Nat)
    (f : List (Nat × Nat) → Nat → M Unit) : M Unit := do
  streams v srcs dst w
  let s ← get
  elements (s.count w) (element (s.boundSources srcs) dst mk w f)
  act State.flushBinds

end Sys2Proof.Machine
end

