-- ==== Sys2Proof/Machine/Life.lean ====
section
/-!
DEFINITION. The lives of harts, groups, kernels and queues: barriers, halting, kills, exits, fault-run records, and what
follows when a kernel ends (R103, R263–R266, R270, R276, R279–R284, R298, R306, R308–R314).
-/

namespace Sys2Proof.Machine

/-! ## Harts of a group -/

/-- The harts of a group, rank by rank (R290). -/
def State.membersOf (s : State) (g : Nat) : List HartId :=
  let x := s.groupAt g
  (List.range x.cores.length).flatMap (fun r => (List.range x.harts).map (fun j => ⟨g, r, j⟩))

/-- A hart is live while it is not HALTED (R310). -/
def State.live (s : State) (h : HartId) : Bool := (s.hart h).state != .halted

/-- The number of a hart in a barrier's sets. -/
def HartId.num (h : HartId) : Nat := h.rank * 8 + h.hart

/-- A bit of a hart's event latch set (R101). -/
def State.latch (s : State) (bit : Nat) (h : HartId) : State :=
  s.setHart h { s.hart h with latch := (s.hart h).latch ||| BitVec.ofNat 5 (2 ^ bit) }

/-- A bit of the event latch set in each hart of a list, one in BOUND too. (log entry 81: DESIGN CHOICE.) -/
def State.latchAll (s : State) (bit : Nat) (hs : List HartId) : State := hs.foldl (fun s h => s.latch bit h) s

/-- What a hart's write-bound registers have gathered in an instruction that a trap from elsewhere interrupts at a stream element,
handed on: the elements below it are complete (R155, R168). -/
def State.flushStalled (s : State) (h : HartId) : State :=
  if (s.hart h).stalled.isSome then { ({ s with cur := .hart h } : State).flushBinds with cur := s.cur } else s

/-- A hart takes a trap that reached it from elsewhere: it leaves the wait it was in, with its blocking instruction not
begun (R72, R304, R313). -/
def State.hartTrap (s : State) (h : HartId) (t : TrapInfo) : State :=
  let s := (s.unqueue (.hart h)).flushStalled h
  s.setHart h ((s.hart h).takeTrap t (s.groupAt h.group))

/-! ## Barriers -/

/-- Kind of a configuration word (R309): counted. -/
def barCounted (cfg : Word) : Bool := bitOf cfg 31

/-- Target of a configuration word. -/
def barTarget (cfg : Word) : Nat := bitsOf cfg 0 10

/-- A valid configuration word for harts of `n` per core (R309). -/
def barValid (cfg : Word) (n : Nat) : Bool :=
  let mask := bitsOf cfg 16 8
  bitsOf cfg 32 32 == 0 && bitsOf cfg 24 7 == 0 && bitsOf cfg 10 6 == 0 &&
    (if barCounted cfg then mask == 0 && decide (1 ≤ barTarget cfg ∧ barTarget cfg ≤ 512)
     else barTarget cfg == 0 && mask % 2 ^ n != 0)

/-- Whether a hart is a member (R309, R311). -/
def barMember (cfg : Word) (h : HartId) : Bool := barCounted cfg || bitOf cfg (16 + h.hart)

/-- A barrier of a group. -/
def State.barrier (s : State) (g b : Nat) : Barrier := vecGet Barrier.reset (s.groupAt g).bars b

/-- The state with a barrier replaced. -/
def State.setBarrier (s : State) (g b : Nat) (x : Barrier) : State :=
  s.setGroupAt g { s.groupAt g with bars := vecSet (s.groupAt g).bars b x }

/-- The live harts of a group. -/
def State.liveOf (s : State) (g : Nat) : List HartId := (s.membersOf g).filter s.live

/-- The live members of a barrier. -/
def State.liveMembers (s : State) (g : Nat) (cfg : Word) : List HartId := (s.liveOf g).filter (barMember cfg)

/-- What a hart in WAIT at a BARWAIT or BARARW waits for: the barrier, the token, and the register that BARARW writes
(R318, R319). One that a broken barrier's trap has yet to reach waits no more (R313). (log entry 48: DEDUCED.) -/
def State.barWait? (s : State) (h : HartId) : Option (Nat × BitVec 32 × Reg) :=
  let x := s.hart h
  let s := { s with cur := .hart h }
  let w := s.codeWord x.pc.toNat
  let fn6 := w.toNat / 2 ^ 26
  if x.state ≠ .wait ∨ major w ≠ 0x70 ∨ x.reports.any (fun r => r.cause == .barrierBroken) then none
  else if fn6 = 2 then
    some ((s.rs (BitVec.ofNat 5 (w.toNat / 2 ^ 16 % 32))).toNat, (s.rs (BitVec.ofNat 5 (w.toNat / 2 ^ 21 % 32))).setWidth 32, 0)
  else if fn6 = 3 then x.barRec.map (fun r => (r.1, r.2, BitVec.ofNat 5 (w.toNat / 2 ^ 7 % 32)))
  else none

/-- Whether a token lies below a phase: (phase − token) as i32 > 0 (R318). -/
def tokenBelow (phase t : BitVec 32) : Bool := (0 : BitVec 32).slt (phase - t)

/-- A hart released from its barrier wait goes on after the instruction (R69, R311, R319). -/
def State.releaseWaiter (phase : BitVec 32) (b : Nat) (s : State) (h : HartId) : State :=
  match s.barWait? h with
  | some (c, t, d) =>
    if c = b ∧ tokenBelow phase t then
      let x := s.hart h
      s.setHart h
        { x with
          state := .run
          pc := x.pc + 4
          barRec := none
          sregs := if d = 0 then x.sregs else vecSet x.sregs d.toNat (t.setWidth 64) }
    else s
  | none => s

/-- A phase completes (R311): the waiters whose tokens lie below it go on, and the live members' latches are set. -/
def State.completePhase (s : State) (g b : Nat) : State :=
  let x := s.barrier g b
  let s := (s.setBarrier g b { x with phase := x.phase + 1, arrived := [] }).latchAll 2 (s.liveMembers g x.cfg)
  (s.membersOf g).foldl (State.releaseWaiter (x.phase + 1) b) s

/-- Every hart that waits on an EMPTY barrier goes on, with the phase as it stands (R311). -/
def State.releaseEmpty (b : Nat) (s : State) (h : HartId) : State :=
  match s.barWait? h with
  | some (c, t, _) => if c = b then State.releaseWaiter (t + 1) b s h else s
  | none => s

/-- The test of R311, and the passage of a membership barrier with no live member to EMPTY. (log entry 48: DEDUCED.) -/
def State.testBarrier (s : State) (g b : Nat) : State :=
  let x := s.barrier g b
  if x.state == .armed then
    if barCounted x.cfg then (if x.arrived.length = barTarget x.cfg then s.completePhase g b else s)
    else
      let ms := s.liveMembers g x.cfg
      let s := if ms.all (fun h => x.arrived.contains h.num) && !x.arrived.isEmpty then s.completePhase g b else s
      if ms.isEmpty then
        (s.membersOf g).foldl (State.releaseEmpty b) (s.setBarrier g b { s.barrier g b with state := .empty })
      else s
  else s

/-- A waiter of a barrier that breaks traps BARRIER_BROKEN (R313), once none of its loads is pending (R95). -/
def State.breakWaiter (b : Nat) (s : State) (h : HartId) : State :=
  let x := s.hart h
  let tval := BitVec.ofNat 64 b
  if s.quiet h then
    (s.setHart h { x with barRec := none }).hartTrap h (.at .barrierBroken tval)
  else s.setHart h { x with barRec := none, reports := x.reports ++ [⟨.barrierBroken, tval, 0, .none, 0, false⟩] }

/-- A barrier breaks (R313). -/
def State.breakBarrier (s : State) (g b : Nat) : State :=
  let waiters := (s.membersOf g).filter (fun h => (s.barWait? h).any (fun r => r.1 == b))
  let s := s.setBarrier g b { s.barrier g b with state := .broken }
  let s := s.latchAll 2 (s.liveOf g)
  waiters.foldl (State.breakWaiter b) s

/-- The condition of R312 for a counted barrier. -/
def State.unreachable (s : State) (g : Nat) (x : Barrier) : Bool :=
  decide (((s.liveOf g).filter (fun h => !x.arrived.contains h.num)).length < barTarget x.cfg - x.arrived.length)

/-- A halting hart leaves one barrier, which is then tested (R311, R312). -/
def State.leaveBarrier (h : HartId) (s : State) (b : Nat) : State :=
  let x := s.barrier h.group b
  let x := { x with arrived := x.arrived.filter (· ≠ h.num) }
  let s := s.setBarrier h.group b x
  if x.state == .armed && barCounted x.cfg then
    if s.unreachable h.group x then s.breakBarrier h.group b else s
  else s.testBarrier h.group b

/-! ## Bindings -/

/-- One binding ended (R169): an append cursor's partial record is padded and emitted, the register reads zero. `cur` is
the binding's hart. -/
def State.unbind (s : State) (b : Binding) : State :=
  let s := s.flush b
  let b := (s.bindOf b.reg).getD b
  let size := (s.ctx.run (handleEntry b.handle)).size
  let s := if b.kind = .append ∧ b.part ≠ [] then s.emit b (b.part ++ List.replicate (size - b.part.length) 0) else s
  let h := s.me
  let h := match h.vset with
    | none => h
    | some v => { h with vset := some { v with binds := v.binds.filter (fun c => c.reg ≠ b.reg) } }
  s.setMe (h.setVreg b.reg 0)

/-- Every binding of the issuer's hart ended (R103, R148). -/
def State.unbindAll (s : State) : State := s.binds.foldl State.unbind s

/-! ## Halting -/

/-- References of the handles in places 1–15 dropped (R103, R234). -/
def State.dropHandles (s : State) (h : HartId) : State :=
  let x := s.hart h
  let s := (x.hregs.toList.drop 1).foldl (fun s q => match q with
    | some q => s.dropRef x.core q
    | none => s) s
  s.setHart h
    { s.hart h with
      hregs := (Vector.replicate 16 none).setIfInBounds 0 (vecGet none x.hregs 0) }

/-- What a hart gives up as it stops: its engines, its place in queues, what it waited for or was to report, and its group's barriers see
it go (R103, R306, R312). -/
def State.stopHart (s : State) (h : HartId) : State :=
  let cur := s.cur
  let s := { s with cur := .hart h }
  let s := (s.freeEngine .tile).freeEngine .stream
  let s := { s with cur := cur }
  let s := ((s.unqueue (.hart h)).unqueue (.seq h .tile)).unqueue (.seq h .stream)
  let x := s.hart h
  let s := s.setHart h
    { x with
      state := .halted, vqueue := [], body := false, wfeAt := none, barRec := none, reports := [], stalled := none,
      trapHeld := false, mmspKey := none, yieldDest := none
      vset := x.vset.map (fun v => { v with strands := [] }) }
  (List.range 32).foldl (State.leaveBarrier h) s

/-- What a stopped hart gives up once what it has issued is complete: its bindings, its handles and its vector set (R103, R306). -/
def State.endHart (s : State) (h : HartId) : State :=
  let s := { ({ s with cur := .hart h } : State).unbindAll with cur := s.cur }
  let s := s.dropHandles h
  s.setHart h { s.hart h with vset := none, lanes := [] }

/-- A hart halts: bindings end, engines are freed, handles are retired, the set is given up (R103), and its group's
barriers see it go (R312). -/
def State.haltHart (s : State) (h : HartId) : State := (s.endHart h).stopHart h

/-- The group enters EXITING when its last hart has halted (R291). -/
def State.checkExit (s : State) (g : Nat) : State :=
  if (s.liveOf g).isEmpty then s.setGroupAt g { s.groupAt g with state := .exiting } else s

/-! ## Fault-run records (R265) -/

/-- One record of the fault run, published. -/
def State.faultRecord (s : State) (c : Nat) (tcause tval : Word) (tpc hart rank die action : Nat) : State :=
  let n := (s.ctxAt c).faults
  let bytes := natLe 8 n ++ natLe 8 tcause.toNat ++ natLe 8 tval.toNat ++ natLe 4 tpc ++ natLe 1 hart ++
    natLe 1 rank ++ natLe 1 die ++ natLe 1 action
  let s := s.setCtxAt c { s.ctxAt c with faults := n + 1 }
  s.kennelAppend c 0 bytes

/-- The record of an action on a hart. (log entry 28: DEDUCED.) -/
def State.hartRecord (s : State) (h : HartId) (action : Nat) : State :=
  let x := s.hart h
  let g := s.groupAt h.group
  s.faultRecord g.ctx x.tcause x.tval x.tpc.toNat h.hart h.rank g.die action

/-! ## Kernels and queues -/

/-- A queue of a context. -/
def Ctx.queue? (x : Ctx) (q : Nat) : Option Queue := lookup? x.queues q

/-- The context with a queue replaced. -/
def Ctx.setQueue (x : Ctx) (q : Nat) (v : Queue) : Ctx := { x with queues := insertKey x.queues q v }

/-- Groups of a launch (R273). -/
def Kernel.groups (k : Kernel) : Nat := bitsOf (vecGet 0 k.words 0) 0 16 + 1

/-- Whether a launch has finished (R269). -/
def Kernel.done (k : Kernel) : Bool := k.state == .finished || k.state == .cancelled

/-- The kernel of a sequence number: the one accepted last. -/
def Queue.kernel? (q : Queue) (seq : BitVec 32) : Option Kernel := q.kernels.reverse.find? (fun k => k.seq == seq)

/-- A queue with a kernel replaced. -/
def Queue.setKernel (q : Queue) (k : Kernel) : Queue :=
  { q with kernels := q.kernels.map (fun j => if j.ord = k.ord then k else j) }

/-- Launches that a queue holds (R269). -/
def Queue.held (q : Queue) : Nat := (q.kernels.filter (fun k => !k.done)).length

/-- Whether the queue still remembers a kernel: until 2048 further records have been accepted, and a failed one until as many have been
since its queue left the ERROR that its end puts it into (R276, R279). -/
def Queue.remembers (q : Queue) (k : Kernel) : Bool :=
  !k.forgotten && (decide (q.accepted < k.ord + 2048) ||
    (k.status != 0 && (!k.done || q.state == .error || decide (q.accepted < q.leftError + 2048))))

/-- DONE moved over the leading launches that have finished (R269). -/
def Queue.advance : Nat → Queue → Queue
  | 0, q => q
  | f + 1, q =>
    match q.kernel? q.done with
    | some k => if k.done then Queue.advance f { q with done := q.done + 1 } else q
    | none => q

/-- Whether DONE has passed a sequence number (R276). -/
def Queue.passed (q : Queue) (seq : BitVec 32) : Bool := !(q.done - seq - 1).msb

/-- The kernels that a queue has just ceased to remember marked, for good, and those that DONE has passed dropped (R279). -/
def Queue.forget (q : Queue) : Queue :=
  { q with
    kernels := (q.kernels.map (fun (k : Kernel) => if q.remembers k then k else { k with forgotten := true })).filter
      (fun k => !k.forgotten || !k.done || !q.passed k.seq) }

/-- A queue after one of its launches has finished: DONE advances, a failure puts it into ERROR, a drained queue is
BLOCKED, and what it has forgotten and DONE has passed is dropped (R270, R276, R279). -/
def Queue.finish (q : Queue) (k : Kernel) : Queue :=
  let q := (q.setKernel k).advance (q.kernels.length + 1)
  let q := if k.status ≠ 0 ∧ (q.state = .opened ∨ q.state = .blocked ∨ q.state = .draining) then
      { q with state := .error, errSeq := k.seq }
    else if q.state = .draining ∧ q.done = q.seq then { q with state := .blocked }
    else q
  q.forget

/-- The launcher's latch bit, while it is bound (R284 step 4). -/
def State.wakeLauncher (s : State) (k : Kernel) : State :=
  match k.launcher with
  | none => s
  | some h => if (lookup? s.harts h.key).isSome then s.latch 3 h else s

/-- The LAUNCH that presented a launch counts as a store no more (R286). -/
def State.endLaunch (s : State) (c q ord : Nat) : State :=
  { s with ops := s.ops.filter (fun o => !(o.ctx == c && o.kind == .launch q ord)) }

/-- A launch of a queue finished or cancelled with its status (R284). -/
def State.endKernel (s : State) (c q : Nat) (k : Kernel) : State :=
  match (s.ctxAt c).queue? q with
  | none => s
  | some x => ((s.setCtxAt c ((s.ctxAt c).setQueue q (x.finish k))).endLaunch c q k.ord).wakeLauncher k

/-- The launch that a record waits for: the queue and sequence of its after field (R273). -/
def Kernel.after? (k : Kernel) : Option (Nat × BitVec 32) :=
  let w := vecGet 0 k.words 1
  if bitOf w 63 then some (bitsOf w 48 12, BitVec.ofNat 32 (bitsOf w 0 32)) else none

/-- Whether the launch that a kernel awaits has finished with a failure that its queue remembers (R276). -/
def Ctx.awaitedFailed (x : Ctx) (k : Kernel) : Bool :=
  match k.after? with
  | none => false
  | some (q, seq) =>
    match x.queue? q with
    | none => false
    | some y =>
      match y.kernel? seq with
      | none => false
      | some j => y.remembers j && j.done && j.status != 0 && y.passed seq

/-- A queued launch whose awaited launch failed. -/
def Ctx.doomed (x : Ctx) : Option (Nat × Kernel) :=
  x.queues.findSome? (fun p =>
    (p.2.kernels.find? (fun k => k.state == .queued && x.awaitedFailed k)).map (fun k => (p.1, k)))

/-- Waiting launches cancelled as their awaited ones fail, with fuel; a SUSPENDED context's queues stand (R270, R276). -/
def State.cancelWaiters : Nat → Nat → State → State
  | 0, _, s => s
  | f + 1, c, s =>
    if (s.ctxAt c).state = .suspended then s
    else
      match (s.ctxAt c).doomed with
      | none => s
      | some (q, k) => State.cancelWaiters f c (s.endKernel c q { k with state := .cancelled, status := 3 })

/-- Launches of a context. -/
def Ctx.launches (x : Ctx) : Nat := (x.queues.map (fun p => p.2.kernels.length)).foldl (· + ·) 0

/-- Every waiter of a failed launch cancelled. -/
def State.settleQueues (s : State) (c : Nat) : State := State.cancelWaiters ((s.ctxAt c).launches + 1) c s

/-- A group of a kernel has exited or been killed: the exited count, the first failure, and the end with the last group
(R279, R280, R284, R298). -/
def State.groupEnded (s : State) (g : Group) (status : BitVec 8) : State :=
  match (s.ctxAt g.ctx).queue? g.queue with
  | none => s
  | some q =>
    match q.kernel? g.seq with
    | none => s
    | some k =>
      let k := { k with exited := k.exited + 1, status := if k.status = 0 then status else k.status }
      if k.state = .running ∧ k.exited = k.groups then
        (s.endKernel g.ctx g.queue { k with state := .finished }).settleQueues g.ctx
      else s.setCtxAt g.ctx ((s.ctxAt g.ctx).setQueue g.queue (q.setKernel k))

/-! ## The end of a group -/

/-- The engine of a core freed and zeroed when the group owns it (R202, R298). -/
def State.freeTiles (s : State) (g c : Nat) : State :=
  let x := s.coreAt c
  if x.tile.owner = some g then s.setCoreAt c { x with tile := TileEngine.reset } else s

/-- The handle sequencers of a core that a group holds become FREE (R233). -/
def State.freeSeqrs (s : State) (g c : Nat) : State :=
  let x := s.coreAt c
  s.setCoreAt c
    { x with
      seqs := x.seqs.map (fun q =>
        if q.state != .free && q.owner / 512 = g then { q with state := .free, refs := 0, entered := [], before := [], broken := none }
        else q) }

/-- What a core holds for a group released: waiters, engines, sequencers (R298). -/
def State.releaseCore (g : Nat) (s : State) (c : Nat) : State :=
  let x := s.coreAt c
  let s := s.setCoreAt c
    { x with
      waiters := x.waiters.filter (fun w => w.who.owner.group ≠ g)
      streamFork := if (x.streamFork.map HartId.group) = some g then none else x.streamFork }
  (s.freeTiles g c).freeSeqrs g c

/-- The context with no group left is IDLE (R258). -/
def State.checkIdle (s : State) (c : Nat) : State :=
  if (s.ctxAt c).state = .active ∧ !(s.groups.any (fun p => p.2.ctx = c)) then
    s.setCtxAt c { s.ctxAt c with state := .idle, suspending := false }
  else s

/-- A context whose groups are all SAVED, or gone, is SUSPENDED when a suspension is in progress (R258). -/
def State.checkSuspend (s : State) (c : Nat) : State :=
  if (s.ctxAt c).suspending ∧ s.groups.all (fun p => p.2.ctx ≠ c ∨ p.2.state = .saved) then
    s.setCtxAt c { s.ctxAt c with state := .suspended, suspending := false }
  else s

/-- Whether an entry of the list of operations is one: an import only stands for the exporter's (R362), and a launch
counts as a store until its kernel is eligible, but is no operation of its hart's (R86, R245).
(log entry 41: DEDUCED.) -/
def OpKind.own : OpKind → Bool
  | .imported _ _ | .launch _ _ => false
  | _ => true

/-- An import of another chip's handle: launches may still wait for the exporter's operations when the importer's group is gone
(R244, R286). -/
def OpKind.isImport : OpKind → Bool
  | .imported _ _ => true
  | _ => false

/-- The operations that a group's harts and sequencers issued and that are still to be performed.
(log entry 41: DEDUCED.) -/
def State.groupOps (s : State) (g : Nat) : List Op := s.ops.filter (fun o => o.issuer.owner.group = g ∧ o.kind.own)

/-- The tickets that a group's harts hold, cancelled: an exit is one of the ends of R361. The dispenser of another chip is told by a
TKREQ. (log entry 34: DEDUCED.) -/
def State.cancelTickets (s : State) (c g : Nat) : State :=
  let far := (s.membersOf g).flatMap (fun h => (s.hart h).tickets.filter (fun t => t.chip != s.chipId && !t.cancelled && !t.lost))
  let s := far.foldl (fun (s : State) t =>
    if ((s.ctxAt c).session t.chip).state = .opened then s.send c t.chip 0 false false (.tkreq t.die 0 (some t.number)) else s) s
  let x := s.ctxAt c
  s.setCtxAt c
    { x with
      tickets := x.tickets.map (fun (p : Nat × Dispenser) =>
        (p.1, { p.2 with tickets := p.2.tickets.filter (fun t =>
          !(t.chip == s.chipId && t.tag.toNat / 512 == g % 2 ^ 23)) })) }

/-- A group releases everything and is GONE; its kernel counts it (R298). -/
def State.releaseGroup (s : State) (g : Nat) (status : BitVec 8) : State :=
  let x := s.groupAt g
  let s := s.cancelTickets x.ctx g
  let s := x.cores.foldl (State.releaseCore g) s
  let s := { s with
    harts := s.harts.filter (fun p => p.1 / 512 ≠ g)
    groups := eraseKey s.groups g
    ops := s.ops.filter (fun o => o.issuer.owner.group ≠ g ∨ o.kind.isImport) }
  ((s.groupEnded x status).checkIdle x.ctx).checkSuspend x.ctx

/-- An operation abandoned (R266): positions that it took and did not write are filled with zero and complete (R158); what
was still to be written to a host run is dropped. -/
def State.abandon (s : State) (o : Op) : State :=
  let s := o.taken.foldl
    (fun s t =>
      let e := t.run.toNat
      let r := s.runAt o.ctx e
      if r.host then s
      else s.zeroFill o.ctx e (t.first * r.size) (Nat.min ((t.first + t.count) * r.size) r.capacity)) s
  (s.endOp o).stallWords o.ctx o.taken

/-- Kennel kills a group (R298): its harts stop unsaved, its operations are settled, the kill is recorded (R265), and the
status of its kernel shows it. -/
def State.killWith (s : State) (g : Nat) (record : State → State) (status : BitVec 8) : State :=
  let s := (s.ops.filter (fun o => o.issuer.owner.group = g ∧ !o.kind.isImport)).foldl State.abandon s
  (record s).releaseGroup g status

/-- A kill for the trap of a hart, or of Kennel's own accord. (log entry 30: DEDUCED.) -/
def State.killGroup (s : State) (g : Nat) (who : Option HartId) (status : BitVec 8) : State :=
  s.killWith g
    (fun s => match who with
      | some h => s.hartRecord h 1
      | none => s.faultRecord (s.groupAt g).ctx 0 0 0 0 0 (s.groupAt g).die 1) status

end Sys2Proof.Machine
end

