-- ==== Sys2Proof/Machine/System.lean ====
section
/-!
DEFINITION. The system instructions and the CSRs: majors 0x1C and 0x1D (R38, R97–R105).
-/

namespace Sys2Proof.Machine

/-! ## Traps by instruction and the return -/

/-- R100, TRAP. -/
def execTrap (a : Reg) (s : State) : Host.Outcome State Fault Refusal :=
  issue .hart (do
    named [a]
    let s ← get
    trap .trapInstr (s.rs a)) s

/-- R97, ERET; at P it traps PRIVILEGE. -/
def execEret (s : State) : Host.Outcome State Fault Refusal :=
  issue .hart (do
    let s ← get
    if s.me.priv = .p then trap .privilege (s.word.setWidth 64) else pure ()
    set (s.setMe s.me.eret)
    pure .stay) s

/-- R100, SYSC: at S the trap goes to F, a service request to Kennel (R264). -/
def execSysc (a : Reg) (s : State) : Host.Outcome State Fault Refusal :=
  issue .hart (do
    named [a]
    let s ← get
    trap .syscall (s.rs a)) s

/-- R100, BREAK. -/
def execBrk (s : State) : Host.Outcome State Fault Refusal := issue .hart (trap .breakpoint 0) s

/-! ## WFE and HALTH -/

/-- R101, WFE: its timeout counts from the issue at which it first waits (R102). -/
def execWfe (d a : Reg) (s : State) : Host.Outcome State Fault Refusal :=
  issue .hart (do
    named [d, a]
    let s ← get
    let h := s.me
    if h.latch = 0 then
      let at_ := match h.wfeAt with
        | some t => some t
        | none => if s.rs a = 0 then none else some (s.cycle + (s.rs a).toNat)
      set (s.setMe { h with state := .wait, wfeAt := at_ })
      pure .stay
    else
      set ((s.setMe { h with latch := 0, wfeAt := none }).setRs d (h.latch.setWidth 64))
      pure .seq) s

/-- HALTH's waits (R103, steps 1 and 2): as RDV, then for every operation of the hart and of its sequencers. -/
def haltWait : M Unit := do
  rendezvous
  let s ← get
  if !(s.groupOps s.cur.owner.group).all (fun o => o.issuer.owner != s.cur.owner) || s.me.strands.any (fun t => t.running) ||
      !s.me.lanes.isEmpty then
    throw .wait
  else pure ()

/-- R103, HALTH. -/
def execHalth (s : State) : Host.Outcome State Fault Refusal :=
  issue .hart (do
    haltWait
    act (fun s => (s.haltHart s.cur.owner).checkExit s.cur.owner.group)
    pure .stay) s

/-- VRELEASE's waits after its join (R148 step 2): vector and tile operations, a forked tile program's end, and a USER combine on the
hart's lanes (R188). -/
def State.releaseWaits (s : State) : Bool :=
  s.ops.any (fun o => o.issuer.owner == s.cur.owner && (o.kind.fillsSet || o.kind.isTileLoad || o.userCombine)) ||
    !(s.me.prog .tile).finished || !s.me.lanes.isEmpty

/-- R148, VRELEASE: without a set it does nothing. (log entry 84: DEDUCED.) -/
def execVrelease (s : State) : Host.Outcome State Fault Refusal :=
  issue .hart (do
    let s ← get
    if s.me.vset.isNone then pure ()
    else
      joinStrands
      let s ← get
      if s.releaseWaits then throw .wait else pure ()
      act (fun s =>
        let s := (s.unbindAll).setVstart 0
        s.setMe { s.me with vset := none, vdirty := 0 })
    pure .seq) s

/-! ## CSRs (R38, R105, R108) -/

/-- A trap CSR, which P may not access. -/
def csrTrap (c : BitVec 12) : Bool := decide (0x100 ≤ c.toNat ∧ c.toNat ≤ 0x103)

/-- A CSR of R38's table. -/
def csrKnown (c : BitVec 12) : Bool :=
  decide (1 ≤ c.toNat ∧ c.toNat ≤ 9) || decide (0x10 ≤ c.toNat ∧ c.toNat ≤ 0x13) || csrTrap c

/-- A CSR that may be written at a level; a trap CSR at P fails the privilege check instead. -/
def csrWritable (c : BitVec 12) (level : Priv) : Bool :=
  decide (3 ≤ c.toNat ∧ c.toNat ≤ 8) || (c == 9 && level == .s) || csrTrap c

/-- The value of a CSR. -/
def Hart.csr (h : Hart) (c : BitVec 12) : Word :=
  match c.toNat with
  | 0x001 => h.vl.setWidth 64
  | 0x002 => h.vsew.setWidth 64
  | 0x003 => h.vstart.setWidth 64
  | 0x004 => h.kstart.setWidth 64
  | 0x005 => h.ffe
  | 0x006 => h.fflags.setWidth 64
  | 0x007 => h.frm.setWidth 64
  | 0x008 => h.nbedge.setWidth 64
  | 0x009 => h.vdirty
  | 0x010 => h.hartid.setWidth 64
  | 0x011 => h.rank.setWidth 64
  | 0x012 => h.gsize.setWidth 64
  | 0x013 => h.ctxid.setWidth 64
  | 0x100 => h.tcause
  | 0x101 => h.tpc
  | 0x102 => h.tval
  | 0x103 => h.tstart
  | _ => 0

/-- Bits of ffe (R108). -/
def ffeBits : Word := 0x8000_0000_00FF_0FFF

/-- Bits of vdirty (R108). -/
def vdirtyBits : Word := 0x00FF_FFFE_FFFF_FFFE

/-- Bits of tcause: all but the reserved 31:26 (R96). -/
def tcauseBits : Word := 0xFFFF_FFFF_03FF_FFFF

/-- One field of nbedge: a write of 3 leaves it unchanged (R108). -/
def edgeField (old new : Nat) : Nat := if new = 3 then old else new

/-- nbedge as a write leaves it. (log entry 63: DEDUCED.) -/
def edgeWrite (old : BitVec 4) (x : Word) : BitVec 4 :=
  BitVec.ofNat 4 (edgeField (bitsOf old 0 2) (bitsOf x 0 2) + 4 * edgeField (bitsOf old 2 2) (bitsOf x 2 2))

/-- The hart after a write of a CSR: reserved bits are ignored (R104). -/
def Hart.setCsr (h : Hart) (c : BitVec 12) (x : Word) : Hart :=
  match c.toNat with
  | 0x003 => { h with vstart := x.setWidth 12 }
  | 0x004 => { h with kstart := x.setWidth 32 }
  | 0x005 => { h with ffe := x &&& ffeBits }
  | 0x006 => { h with fflags := x.setWidth 5 }
  | 0x007 => { h with frm := x.setWidth 2 }
  | 0x008 => { h with nbedge := edgeWrite h.nbedge x }
  | 0x009 => { h with vdirty := x &&& vdirtyBits }
  | 0x100 => { h with tcause := x &&& tcauseBits }
  | 0x101 => { h with tpc := BitVec.ofNat 64 (x.toNat % 2 ^ 21) }
  | 0x102 => { h with tval := x }
  | 0x103 => { h with tstart := x }
  | _ => h

/-- Earlier vector instructions, and for kstart tile operations, that an access waits for (R104): queued words, and accesses that are
not complete. vl waits for a CLAIM (R288). -/
def State.csrBusy (s : State) (c : BitVec 12) : Bool :=
  (decide (c.toNat ∈ [3, 4, 5, 6, 9]) && (!s.me.lanes.isEmpty ||
    s.ops.any (fun o => o.issuer == s.cur && ((o.kind.vector && o.cls != .tile) || (c == 4 && o.cls == .tile))))) ||
  (c == 1 && s.vlPending)

/-- The checks and waits of a CSR access. -/
def csrCheck (c : BitVec 12) (write : Bool) (r : Reg) : M Unit := do
  let s ← get
  let word := s.word.setWidth 64
  if !csrKnown c || (write && !csrWritable c s.me.priv) then trap .illegalInstr word else pure ()
  if csrTrap c && s.me.priv == .p then trap .privilege word else pure ()
  named [r]
  if s.csrBusy c then throw .stall else pure ()

/-- R104, CSRR. -/
def execCsrr (d : Reg) (c : BitVec 12) (s : State) : Host.Outcome State Fault Refusal :=
  issue .hart (do
    csrCheck c false d
    act (fun s => s.setRs d (s.me.csr c))
    pure .seq) s

/-- A CSR written with a function of its value and s1. -/
def csrUpdate (a : Reg) (c : BitVec 12) (f : Word → Word → Word) (s : State) : Host.Outcome State Fault Refusal :=
  issue .hart (do
    csrCheck c true a
    act (fun s => s.setMe (s.me.setCsr c (f (s.me.csr c) (s.rs a))))
    pure .seq) s

/-- R104, CSRW. -/
def execCsrw (a : Reg) (c : BitVec 12) (s : State) := csrUpdate a c (fun _ x => x) s

/-- R104, CSRSET. -/
def execCsrset (a : Reg) (c : BitVec 12) (s : State) := csrUpdate a c (· ||| ·) s

/-- R104, CSRCLR. -/
def execCsrclr (a : Reg) (c : BitVec 12) (s : State) := csrUpdate a c (fun v x => v &&& ~~~x) s

end Sys2Proof.Machine
end

