-- ==== Sys2Proof/Machine/Barriers.lean ====
section
/-!
DEFINITION. The barrier instructions: major 0x70 (R308–R320). The barrier object itself stands in `Life.lean`.
-/

namespace Sys2Proof.Machine

/-- The barrier that s1 names, or BAD_ADDR (R315). -/
def barNumber (a : Reg) : M Nat := do
  let s ← get
  let n := (s.rs a).toNat
  if n < 32 then pure n else trap .badAddr (s.rs a)

/-- A barrier armed at phase 0 with a valid word; an unreachable target breaks it at once, and a word without a live
member leaves it EMPTY (R310). -/
def State.armBarrier (s : State) (g b : Nat) (cfg : Word) : State :=
  let x := s.groupAt g
  let s := s.setBarrier g b ⟨.armed, cfg, 0, []⟩
  if barCounted cfg && decide (x.cores.length * x.harts < barTarget cfg) then s.breakBarrier g b
  else if barCounted cfg then s
  else s.testBarrier g b

/-- R316, BARINIT. -/
def execBarinit (a b : Reg) (s : State) : Host.Outcome State Fault Refusal :=
  issue .hart (do
    named [a, b]
    let n ← barNumber a
    let s ← get
    let cfg := s.rs b
    let g := s.cur.owner.group
    let x := s.barrier g n
    if barValid cfg s.group.harts = false then trap .badAddr cfg
    else if x.state = .armed then
      if x.cfg = cfg then pure .seq
      else
        set ((s.breakBarrier g n).armBarrier g n cfg)
        pure .seq
    else
      set (s.armBarrier g n cfg)
      pure .seq) s

/-- Whether the issuer may arrive at a barrier, and whether that is an arrival: an EMPTY one orders nothing (R317, R321). -/
def arrives (n : Nat) : M Bool := do
  let s ← get
  let h := s.cur.owner
  let x := s.barrier h.group n
  match x.state with
  | .free => trap .badAddr (BitVec.ofNat 64 n)
  | .broken => trap .barrierBroken (BitVec.ofNat 64 n)
  | .empty => pure false
  | .armed => if barMember x.cfg h then pure true else trap .badAddr (BitVec.ofNat 64 n)

/-- The arrival of the issuer at a barrier (R317): its token. -/
def arrive (n : Nat) : M (BitVec 32) := do
  let s ← get
  let h := s.cur.owner
  let x := s.barrier h.group n
  match x.state with
  | .free => trap .badAddr (BitVec.ofNat 64 n)
  | .broken => trap .barrierBroken (BitVec.ofNat 64 n)
  | .empty => pure x.phase
  | .armed =>
    if barMember x.cfg h then
      if x.arrived.contains h.num then pure ()
      else
        act (fun s => (s.setBarrier h.group n { x with arrived := x.arrived ++ [h.num] }).testBarrier h.group n)
      pure x.phase
    else trap .badAddr (BitVec.ofNat 64 n)

/-- R317, BARARR: it does not wait, and the arrival is performed after every operation that precedes it under hN. What the barrier
refuses is refused at issue; a barrier that has broken or been freed when the arrival is performed is reported.
(log entry 48: DEDUCED.) -/
def execBararr (d a : Reg) (h : HReg) (s : State) : Host.Outcome State Fault Refusal :=
  issue .hart (do
    named [d, a]
    let q ← seqOf h
    let n ← barNumber a
    if ← arrives n then ready { Needs.of q .load (some d) with cls := .barrier } else pure ()
    let t ← arrive n
    act (fun s => s.setRs d (t.setWidth 64))
    pure .seq) s

/-- Whether a wait on a token is over (R318); a FREE or BROKEN barrier traps. -/
def passed (n : Nat) (t : BitVec 32) : M Bool := do
  let s ← get
  let x := s.barrier s.cur.owner.group n
  if x.state = .free then trap .badAddr (BitVec.ofNat 64 n)
  else if tokenBelow x.phase t ∨ x.state = .empty then pure true
  else if x.state = .broken then trap .barrierBroken (BitVec.ofNat 64 n)
  else pure false

/-- R318, BARWAIT. -/
def execBarwait (a b : Reg) (h : HReg) (s : State) : Host.Outcome State Fault Refusal :=
  issue .hart (do
    named [a, b]
    let _ ← seqOf h
    let n ← barNumber a
    let s ← get
    if ← passed n ((s.rs b).setWidth 32) then pure .seq else throw .wait) s

/-- The token of a barrier-wait record, when it names a barrier (R319). (log entry 48: DEDUCED.) -/
def recordedToken (r : Option (Nat × BitVec 32)) (n : Nat) : Option (BitVec 32) :=
  match r with
  | some (b, t) => if b = n then some t else none
  | none => none

/-- R319, BARARW: an issue that finds its record waits on the recorded token and does not arrive again. Any trap of it clears the
record. -/
def execBararw (d a : Reg) (h : HReg) (s : State) : Host.Outcome State Fault Refusal :=
  issue .hart (do
    let r := s.me.barRec
    act (fun s => s.setMe { s.me with barRec := none })
    named [d, a]
    let q ← seqOf h
    let n ← barNumber a
    let t ← match recordedToken r n with
      | some t => pure t
      | none => do
        settled q 2
        arrive n
    if ← passed n t then
      act (fun s => s.setRs d (t.setWidth 64))
      pure .seq
    else
      act (fun s => (s.setMe { s.me with barRec := some (n, t) }).enterWait)
      pure .stay) s

/-- State codes of BARQ (R320). -/
def BarState.code : BarState → Nat
  | .free => 0
  | .armed => 1
  | .broken => 2
  | .empty => 3

/-- The status that BARQ reads (R320). -/
def State.barrierStatus (s : State) (g b : Nat) : Word :=
  let x := s.barrier g b
  if x.state = .free then 0
  else
    let members := if barCounted x.cfg then barTarget x.cfg else (s.liveMembers g x.cfg).length
    BitVec.ofNat 64 (x.state.code * 2 ^ 54 + (if barCounted x.cfg then 1 else 0) * 2 ^ 53 + members * 2 ^ 42 +
      x.arrived.length * 2 ^ 32 + x.phase.toNat)

/-- R320, BARQ. -/
def execBarq (d a : Reg) (s : State) : Host.Outcome State Fault Refusal :=
  issue .hart (do
    named [d, a]
    let n ← barNumber a
    let s ← get
    set (s.setRs d (s.barrierStatus s.cur.owner.group n))
    pure .seq) s

end Sys2Proof.Machine
end

