-- ==== Sys2Proof/Machine/Kernels.lean ====
section
/-!
DEFINITION. Queues and kernels: presenting launches, the queue's control values, eligibility, and majors 0x68 (R269–R281,
R284–R288).
-/

namespace Sys2Proof.Machine

/-! ## Presenting a launch record (R272–R274) -/

/-- Word 0 or 1 of a launch record, or an argument. -/
def recordWord (ws : Vector Word 8) (k : Nat) : Word := vecGet 0 ws k

/-- Cores per group of a launch record (R273). -/
def launchCores (ws : Vector Word 8) : Nat := bitsOf (recordWord ws 0) 26 6 + 1

/-- The die field of a launch record: 15 for any. -/
def launchDie (ws : Vector Word 8) : Nat := bitsOf (recordWord ws 1) 44 4

/-- The image number of a launch record. -/
def launchImage (ws : Vector Word 8) : Nat := bitsOf (recordWord ws 0) 48 16

/-- The kernel index of a launch record. -/
def launchKernel (ws : Vector Word 8) : Nat := bitsOf (recordWord ws 0) 32 16

/-- Check 3 of R274. -/
def launchReserved (ws : Vector Word 8) : Bool :=
  let w0 := recordWord ws 0
  let w1 := recordWord ws 1
  bitOf w0 16 || bitsOf w0 18 3 == 7 || bitsOf w1 60 3 != 0 || bitsOf w1 32 12 != 0 ||
    decide (8 ≤ launchDie ws ∧ launchDie ws ≤ 14) || (!bitOf w1 63 && (bitsOf w1 48 12 != 0 || bitsOf w1 0 32 != 0))

/-- Check 5 of R274: every core of the part carries a tile engine that can be granted. (log entry 43: DEDUCED.) -/
def Ctx.tooWide (x : Ctx) (ws : Vector Word 8) : Bool :=
  let die := launchDie ws
  let n := launchCores ws
  if die = 15 then x.part.all (fun l => decide (l.length < n)) else decide ((x.part.getD die []).length < n)

/-- The reason that refuses a record, 0 for none (R274). A queue that the context does not hold counts as FREE
(R286). -/
def Ctx.refusal (x : Ctx) (q : Nat) (ws : Vector Word 8) : Nat :=
  match x.queue? q with
  | none => 2
  | some y =>
    if Config.queueDepth ≤ y.held then 1
    else if y.state = .free ∨ y.state = .draining then 2
    else if launchReserved ws then 3
    else
      match lookup? x.images (launchImage ws) with
      | none => 4
      | some img =>
        if img.entries.length ≤ launchKernel ws then 4
        else if x.tooWide ws then 5
        else if bitOf (recordWord ws 1) 63 && (x.queue? (bitsOf (recordWord ws 1) 48 12)).isNone then 6
        else if img.shandler = some (launchKernel ws) then 7
        else if y.state = .error then 8
        else 0

/-- A record refused: LAST and the reason of STATE, with no sequence number, whose place in LAST is free (R271,
R272). (log entry 10: DESIGN CHOICE; log entry 42: DEDUCED.) -/
def State.refuseLaunch (s : State) (c q reason : Nat) : State :=
  match (s.ctxAt c).queue? q with
  | none => s
  | some y =>
    let last := BitVec.ofNat 64 (2 ^ 63 + reason * 2 ^ 32 + s.freeWord.toNat % 2 ^ 32)
    ({ s with draws := s.draws + 1 }).setCtxAt c
      ((s.ctxAt c).setQueue q { y with reason := BitVec.ofNat 8 reason, last := last })

/-- A record accepted: the queue creates its kernel, gives it SEQ, and forgets what R279 lets it (R272, R279, R280).
(log entry 44: DEDUCED.) -/
def State.acceptLaunch (s : State) (c q : Nat) (ws : Vector Word 8) (who : Option HartId) (preds : List Nat) : State :=
  match (s.ctxAt c).queue? q with
  | none => s
  | some y =>
    let k : Kernel :=
      { seq := y.seq, ord := y.accepted + 1, words := ws, state := .queued, status := 0, exited := 0, bound := 0,
        eligible := false, launcher := who, preds := preds, passedOver := 0, held := none, forgotten := false }
    let y := { y with seq := y.seq + 1, accepted := y.accepted + 1, last := y.seq.setWidth 64, kernels := y.kernels ++ [k] }
    (s.setCtxAt c ((s.ctxAt c).setQueue q y.forget)).settleQueues c

/-- A kernel reference (R279). -/
def kernelRef (q : Nat) (seq : BitVec 32) : Word := BitVec.ofNat 64 (q * 2 ^ 32 + seq.toNat)

/-- State codes of a status word (R279). -/
def KernelState.code : KernelState → Nat
  | .queued => 1
  | .binding => 2
  | .running => 3
  | .finished => 4
  | .cancelled => 5

/-- A kernel's status word (R279). -/
def Kernel.statusWord (k : Kernel) : Word :=
  BitVec.ofNat 64 (k.state.code * 2 ^ 61 + k.exited * 2 ^ 40 + k.status.toNat * 2 ^ 32 + k.seq.toNat)

/-- A host write to SUBMIT presents STAGE (R272). -/
def execSubmit (ctx queue : Nat) (s : State) : Host.Outcome State Fault Refusal :=
  event ((s.ctxAt ctx).queue? queue).isSome
    (fun s =>
      let y := ((s.ctxAt ctx).queue? queue).getD Queue.reset
      let r := (s.ctxAt ctx).refusal queue y.stage
      if r = 0 then s.acceptLaunch ctx queue y.stage none [] else s.refuseLaunch ctx queue r) s

/-! ## Instructions (R285–R288) -/

/-- The words of a launch record's bytes. -/
def recordWords (bs : List Byte) : Vector Word 8 := Vector.ofFn (fun k => descWord bs (8 * k.val))

/-- The LAUNCH's own entry: it counts as a store until its kernel is eligible, and enters no sequencer (R86, R286).
(log entry 41: DEDUCED.) -/
def State.addLaunch (s : State) (h queue ord : Nat) : State :=
  s.pushOp { s.newOp h [] .store (.launch queue ord) with phase := .sent }

/-- R286, LAUNCH. -/
def execLaunch (d a b : Reg) (h : HReg) (s : State) : Host.Outcome State Fault Refusal :=
  issue .hart (do
    named [d, a, b]
    let n ← seqOf h
    let s ← get
    let bs ← readDesc (s.rs a) 64
    let ws := recordWords bs
    let q := (s.rs b).toNat
    let c := s.group.ctx
    let r := s.ctx.refusal q ws
    if r ≠ 0 then
      act (fun s => s.refuseLaunch c q r)
      trap .launchRefused (BitVec.ofNat 64 r)
    else
      let y := (s.ctx.queue? q).getD Queue.reset
      let preds := s.predsAt s.me.core n
      act (fun s => (((s.addLaunch n q (y.accepted + 1)).acceptLaunch c q ws (some s.cur.owner) preds).setRs d
        (kernelRef q y.seq)))
      pure .seq) s

/-- The status word that a reference names, 0 where R287 gives it. -/
def Ctx.kernelStatus (x : Ctx) (ref : Word) : Word :=
  if bitsOf ref 44 20 ≠ 0 then 0
  else
    match x.queue? (bitsOf ref 32 12) with
    | none => 0
    | some q =>
      match q.kernel? (BitVec.ofNat 32 (bitsOf ref 0 32)) with
      | none => 0
      | some k => if q.remembers k then k.statusWord else 0

/-- R287, KSTAT: every operation of a kernel that it finds FINISHED has been performed. -/
def execKstat (d a : Reg) (h : HReg) (s : State) : Host.Outcome State Fault Refusal :=
  issue .hart (do
    named [d, a]
    let q ← seqOf h
    ready (.of q .load (some d))
    let s ← get
    set (s.setRs d (s.ctx.kernelStatus (s.rs a)))
    pure .seq) s

/-- R288, CLAIM: d and vl are pending until it is performed. -/
def execClaim (d a b : Reg) (h : HReg) (s : State) : Host.Outcome State Fault Refusal :=
  issue .hart (do
    named [d, a, b]
    let q ← seqOf h
    let s ← get
    if s.vlPending then throw .stall else pure ()
    let p := s.rs a
    if ptrSpace p = 3 then pure () else trap .badSpace p
    match place s .amo 8 8 p with
    | .error f => trap f.cause (f.word s)
    | .ok (.iter k false) =>
      ready { Needs.of q .both (some d) with setsVl := true }
      let x := s.ctx.iterAt k
      let c := x.1.toNat
      let lim := x.2.toNat
      let g := Nat.min (Nat.min (s.rs b).toNat (lim - c)) (16384 / s.vsew)
      let s := s.setCtx (s.ctx.setIter k (BitVec.ofNat 64 (c + g), x.2))
      let s := s.setRs d (BitVec.ofNat 64 c)
      set (s.setMe { s.me with vl := BitVec.ofNat 13 g })
      pure .seq
    | .ok _ => trap .badAddr p) s

/-! ## Control values (R270, R275, R276) -/

/-- A control value's effect on a queue whose context is neither SUSPENDED nor without the queue. -/
def control (ctx queue : Nat) (ok : Queue → Bool) (f : Queue → Queue) (s : State) : Host.Outcome State Fault Refusal :=
  event ((s.ctxAt ctx).state != .suspended && (((s.ctxAt ctx).queue? queue).map ok).getD false)
    (fun s => match (s.ctxAt ctx).queue? queue with
      | none => s
      | some y => s.setCtxAt ctx ((s.ctxAt ctx).setQueue queue (f y))) s

/-- R270, CTRL BLOCK. -/
def execCtrlBlock (ctx queue : Nat) (s : State) :=
  control ctx queue (fun q => q.state == .opened) (fun q => { q with state := .blocked }) s

/-- R270, CTRL OPEN. -/
def execCtrlOpen (ctx queue : Nat) (s : State) :=
  control ctx queue (fun q => q.state == .blocked) (fun q => { q with state := .opened }) s

/-- R270, CTRL DRAIN; a queue whose DONE is already SEQ is BLOCKED. (log entry 44: DEDUCED.) -/
def execCtrlDrain (ctx queue : Nat) (s : State) :=
  control ctx queue (fun q => q.state == .opened || q.state == .blocked)
    (fun q => { q with state := if q.done = q.seq then .blocked else .draining }) s

/-- R276, CTRL CLEAR. -/
def execCtrlClear (ctx queue : Nat) (s : State) :=
  control ctx queue (fun q => q.state == .error) (fun q => { q with state := .opened, leftError := q.accepted }) s

/-- A queue's launches that have not started, cancelled (R276, R280): DONE moves past them. (log entry 44: DEDUCED.) -/
def Queue.discard (q : Queue) : Queue :=
  let left := if q.state = .error then q.accepted else q.leftError
  let q := { q with
    kernels := q.kernels.map (fun (k : Kernel) =>
      if k.state = KernelState.queued then { k with state := KernelState.cancelled, status := 3 } else k) }
  let q := q.advance (q.kernels.length + 1)
  { q with state := .opened, leftError := left }

/-- R276, CTRL DISCARD: launchers are woken, and launches that awaited a cancelled one are cancelled. -/
def execCtrlDiscard (ctx queue : Nat) (s : State) : Host.Outcome State Fault Refusal :=
  event ((s.ctxAt ctx).state != .suspended &&
      (((s.ctxAt ctx).queue? queue).map (fun q => q.state == .error || q.state == .blocked)).getD false)
    (fun s => match (s.ctxAt ctx).queue? queue with
      | none => s
      | some y =>
        let ks := y.kernels.filter (fun k => k.state == .queued)
        let s := s.setCtxAt ctx ((s.ctxAt ctx).setQueue queue y.discard)
        let s := ks.foldl (fun s k => (s.endLaunch ctx queue k.ord).wakeLauncher k) s
        s.settleQueues ctx) s

/-! ## Eligibility (R275, R286) -/

/-- The launch that a queue starts next: the first that has not started. -/
def Queue.next? (q : Queue) : Option Kernel := q.kernels.find? (fun k => k.state == .queued)

/-- The launch before another in its queue. -/
def Queue.previous? (q : Queue) (k : Kernel) : Option Kernel := q.kernels.find? (fun j => j.ord + 1 == k.ord)

/-- The chain condition of R273: the previous launch has finished, or all its groups are bound. -/
def Queue.chained (q : Queue) (k : Kernel) : Bool :=
  match q.previous? k with
  | none => true
  | some j => if bitOf (recordWord k.words 0) 17 then j.state != .queued && j.state != .binding else j.done

/-- The after condition of R276. -/
def Ctx.awaited (x : Ctx) (k : Kernel) : Bool :=
  match k.after? with
  | none => true
  | some (q, seq) =>
    match x.queue? q with
    | none => true
    | some y => y.passed seq

/-- Whether a launch may become eligible (R275, R286). -/
def State.mayStartLaunch (s : State) (c : Nat) (q : Queue) (k : Kernel) : Bool :=
  (q.state == .opened || q.state == .draining) && q.chained k && (s.ctxAt c).awaited k && !(k.preds.any s.alive)

/-- R275: a launch meets its conditions; its LAUNCH counts as a store no more (R286). -/
def execLaunchEligible (ctx queue : Nat) (s : State) : Host.Outcome State Fault Refusal :=
  let next := ((s.ctxAt ctx).queue? queue).bind (fun q => q.next?.map (fun k => (q, k)))
  event ((s.ctxAt ctx).state != .suspended && (next.map (fun p => !p.2.eligible && s.mayStartLaunch ctx p.1 p.2)).getD false)
    (fun s => match next with
      | none => s
      | some (q, k) =>
        (s.setCtxAt ctx ((s.ctxAt ctx).setQueue queue (q.setKernel { k with eligible := true }))).endLaunch ctx queue k.ord) s

end Sys2Proof.Machine
end

