-- ==== Sys2Proof/Machine/Groups.lean ====
section
/-!
DEFINITION. Groups: semaphores, group information, GEXIT and HYIELD (major 0x6C), pre-emption, saving and resumption, exits
and kills (R106, R294–R307).
-/

namespace Sys2Proof.Machine

/-! ## Semaphores (R299–R304) -/

/-- The semaphore that s1 names, or BAD_ADDR (R300). -/
def semNumber (a : Reg) : M Nat := do
  let s ← get
  let n := (s.rs a).toNat
  if n < 64 then pure n else trap .badAddr (s.rs a)

/-- A semaphore of a core. -/
def Core.sem (c : Core) (n : Nat) : Word := vecGet 0 c.sems n

/-- The head of a semaphore's waiter queue (R301). -/
def Core.headWaiter (c : Core) (n : Nat) : Option SemWaiter := c.waiters.find? (fun w => w.sem == n)

/-- A count taken by the waiter at the head: the core after it. -/
def Core.takeSem (c : Core) (w : SemWaiter) : Core :=
  { c with
    sems := vecSet c.sems w.sem (c.sem w.sem - w.amount)
    waiters := c.waiters.filter (fun x => x.who != w.who) }

/-- Whether what precedes a waiter's SEMACQ under its handle holds it up (R247). -/
def State.holdsWaiter (s : State) (w : SemWaiter) : Bool := s.heldUp w.who.owner w.seq w.preds

/-- The waiter at the head, when it finds enough and nothing holds it up (R247, R301). -/
def Core.grantable (c : Core) (n : Nat) (held : SemWaiter → Bool) : Option SemWaiter :=
  match c.headWaiter n with
  | some w => if w.amount ≤ c.sem n ∧ !(held w) then some w else none
  | none => none

/-- R301, SEMACQ: it joins the waiters, and takes its amount when it is at their head, finds enough, and follows performed operations
only (R247). -/
def execSemacq (d a b : Reg) (h : HReg) (s : State) : Host.Outcome State Fault Refusal :=
  issue .engines (do
    named [d, a, b]
    let q ← seqOf h
    let n ← semNumber a
    let s ← get
    let v := s.core.sem n
    if s.rs b = 0 then
      set (s.setRs d v)
      pure .seq
    else
      let w : SemWaiter := ⟨n, s.cur, s.rs b, d, q, s.predsAt s.me.core q⟩
      let c := if s.core.waiters.any (fun x => x.who == s.cur) then s.core else { s.core with waiters := s.core.waiters ++ [w] }
      match c.grantable n s.holdsWaiter with
      | some x =>
        if x.who = s.cur then
          set ((s.setCore (c.takeSem x)).setRs d v)
          pure .seq
        else
          set (s.setCore c).enterWait
          pure .stay
      | none =>
        set (s.setCore c).enterWait
        pure .stay) s

/-- R302, SEMREL. A sum past the range changes nothing, and the issuer takes SEM_OVERFLOW deferred.
(log entry 45: DEDUCED.) -/
def execSemrel (a b : Reg) (h : HReg) (s : State) : Host.Outcome State Fault Refusal :=
  issue .engines (do
    named [a, b]
    let q ← seqOf h
    let n ← semNumber a
    ready (.of q .store none)
    let s ← get
    let v := (s.core.sem n).toNat + (s.rs b).toNat
    if s.rs b = 0 then pure .seq
    else
      let s := s.latchAll 0 (s.harts.filterMap (fun p =>
        if p.2.core = s.me.core ∧ p.2.state ≠ .saved ∧ p.2.state ≠ .halted ∧ p.2.state ≠ .free then
          some ⟨p.1 / 512, p.1 / 8 % 64, p.1 % 8⟩
        else none))
      if 2 ^ 64 ≤ v then set (s.report s.cur .semOverflow (BitVec.ofNat 64 n) (BitVec.ofNat 32 s.pc.toNat) false)
      else set (s.setCore { s.core with sems := vecSet s.core.sems n (BitVec.ofNat 64 v) })
      pure .seq) s

/-- R303, SEMRD. -/
def execSemrd (d a : Reg) (h : HReg) (s : State) : Host.Outcome State Fault Refusal :=
  issue .hart (do
    named [d, a]
    let q ← seqOf h
    let n ← semNumber a
    ready (.of q .load (some d))
    let s ← get
    set (s.setRs d (s.core.sem n))
    pure .seq) s

/-- A waiter goes on after its SEMACQ with the value that it found (R69, R301). -/
def State.grant (s : State) (w : SemWaiter) (v : Word) : State :=
  let x := s.hart w.who.owner
  match w.who with
  | .hart h =>
    s.setHart h
      { x with state := .run, pc := x.pc + 4, sregs := if w.dest = 0 then x.sregs else vecSet x.sregs w.dest.toNat v }
  | .seq h e => s.setHart h (x.setProg e { x.prog e with pc := (x.prog e).pc + 4, waiting := false })
  | _ => s

/-- Whether a waiter is held in its SEMACQ. -/
def State.heldIn (s : State) (w : SemWaiter) : Bool :=
  let x := s.hart w.who.owner
  match w.who with
  | .hart _ => x.state == .wait
  | .seq _ e => (x.prog e).waiting
  | _ => false

/-- R301: the waiter at the head of a semaphore's queue finds enough and takes it. -/
def execSemaphoreGrant (core sem : Nat) (s : State) : Host.Outcome State Fault Refusal :=
  event true (fun s =>
    let c := s.coreAt core
    match c.grantable sem s.holdsWaiter with
    | some w => if s.heldIn w then (s.setCoreAt core (c.takeSem w)).grant w (c.sem sem) else s
    | none => s) s

/-! ## Group information (R305) -/

/-- GINFO's table. -/
def Group.info (g : Group) (sel : Word) : Word :=
  match sel.toNat with
  | 0 => BitVec.ofNat 64 g.index
  | 1 => BitVec.ofNat 64 (bitsOf g.word0 0 16 + 1)
  | 2 => kernelRef g.queue g.seq
  | 3 => BitVec.ofNat 64 g.harts
  | 4 => BitVec.ofNat 64 g.range
  | 5 => BitVec.ofNat 64 g.die
  | 6 => g.word0
  | _ => 0

/-- R305, GINFO. -/
def execGinfo (d a : Reg) (s : State) : Host.Outcome State Fault Refusal :=
  issue .hart (do
    named [d, a]
    act (fun s => s.setRs d (s.group.info (s.rs a)))
    pure .seq) s

/-! ## GEXIT (R306) -/

/-- The other harts of the issuer's group that are not HALTED. -/
def State.others (s : State) : List HartId :=
  (s.liveOf s.cur.owner.group).filter (fun h => h != s.cur.owner)

/-- R306, GEXIT: it performs HALTH, and stops every other hart of the group; what those have issued goes on, and their bindings, handles
and sets end once it is complete. It waits in WAIT, as HALTH does, for what HALTH waits for, and for the start of a hart in BOUND, from
which no way leads to HALTED (R69). (log entry 77: DEDUCED.) -/
def execGexit (s : State) : Host.Outcome State Fault Refusal :=
  issue .hart (do
    haltWait
    let s ← get
    if s.others.all (fun h => (s.hart h).state != .bound) then pure () else throw .wait
    let g := s.cur.owner.group
    act (fun s =>
      let s := s.others.foldl State.stopHart (s.haltHart s.cur.owner)
      s.checkExit g)
    pure .stay) s

/-! ## Pre-emption (R295–R297, R307) -/

/-- A sequencer's program at a pre-emption: a blocking instruction counts as not begun (R72). -/
def SeqProg.pause (p : SeqProg) : SeqProg := { p with waiting := false, hwait := none }

/-- A hart saved at an instruction boundary; a HALTED one saves nothing (R295). (log entry 47: DEDUCED.) -/
def State.saveHart (s : State) (h : HartId) : State :=
  if (s.hart h).state = .halted then s
  else
    let s := ((s.unqueue (.hart h)).unqueue (.seq h .tile)).unqueue (.seq h .stream)
    let x := s.hart h
    s.setHart h
      { x with
        state := .saved
        wfeAt := none
        hwait := none
        stalled := none
        body := false
        tileProg := x.tileProg.map SeqProg.pause
        streamProg := x.streamProg.map SeqProg.pause
        vset := x.vset.map (fun v => { v with state := .retained }) }

/-- A group enters SAVING: each hart leaves for SAVED, and the request is met (R295). -/
def State.preempt (s : State) (g : Nat) : State :=
  let s := (s.membersOf g).foldl State.saveHart s
  s.setGroupAt g { s.groupAt g with state := .saving, request := false }

/-- Whether a hart waits in a GEXIT that has issued: it wins over pre-emption (R306). -/
def State.waitsExit (s : State) (h : HartId) : Bool :=
  let w := ({ s with cur := .hart h } : State).codeWord (s.hart h).pc.toNat
  (s.hart h).state == .wait && (s.hart h).vqueue.isEmpty && major w == 0x6C && w.toNat / 2 ^ 26 == 4

/-- Whether a group can be pre-empted now: it is in RUN, each hart has left BOUND, and no GEXIT has issued (R69, R291, R306).
(log entry 47: DEDUCED.) -/
def State.preemptable (s : State) (g : Nat) : Bool :=
  (s.groupAt g).state == .run && (s.membersOf g).all (fun h => (s.hart h).state != .bound && !s.waitsExit h)

/-- R307, HYIELD: with a request pending it pre-empts the group at once, and its hart saves with its PC past it. -/
def execHyield (d : Reg) (s : State) : Host.Outcome State Fault Refusal :=
  issue .hart (do
    named [d]
    let s ← get
    let g := s.cur.owner.group
    if s.group.request then
      if s.preemptable g then
        let s := s.retire
        set ((s.setMe { s.me with yieldDest := some d }).preempt g)
        pure .stay
      else throw .stall
    else
      set (s.setRs d 0)
      pure .seq) s

/-- R307: Kennel requests the pre-emption of a group in RUN. -/
def execKennelPreemptRequest (g : Nat) (s : State) : Host.Outcome State Fault Refusal :=
  event ((s.groupAt g).state == .run) (fun s => s.setGroupAt g { s.groupAt g with request := true }) s

/-- R307: the grace ends. -/
def execPreemptGraceExpiry (g : Nat) (s : State) : Host.Outcome State Fault Refusal :=
  event ((s.groupAt g).request && s.preemptable g) (fun s => s.preempt g) s

/-- A save record's header (R296). -/
def saveHeader (seq : Nat) (g : Group) (rank hart flags : Nat) (dirty : Word) (bytes : Nat) (pc : Nat) : List Byte :=
  natLe 8 seq ++ natLe 8 (kernelRef g.queue g.seq).toNat ++ natLe 4 g.index ++ natLe 1 rank ++ natLe 1 hart ++
    natLe 1 flags ++ natLe 1 0 ++ natLe 8 dirty.toNat ++ natLe 8 bytes ++ natLe 8 pc ++ natLe 16 0

/-- One save: a header and its data records (R296). (log entry 12: DESIGN CHOICE.) -/
def State.saveRecords (s : State) (g : Nat) (rank hart flags : Nat) (dirty : Word) (pc : Nat) : State :=
  let x := s.groupAt g
  let n := (s.ctxAt x.ctx).saves
  let data := Config.saveData n
  let bytes := saveHeader n x rank hart flags dirty (64 * data.length) pc ++ data.flatMap (fun r => natLe 64 r.toNat)
  let s := s.setCtxAt x.ctx { s.ctxAt x.ctx with saves := n + 1 }
  s.kennelAppend x.ctx 1 bytes

/-- The save of one hart. -/
def State.recordHart (s : State) (h : HartId) : State :=
  let x := s.hart h
  if x.state = .saved then s.saveRecords h.group h.rank h.hart 0 x.vdirty x.tpc.toNat else s

/-- The dirty bits of a core's tiles. -/
def TileEngine.dirtyBits (t : TileEngine) : Word :=
  BitVec.ofNat 64 (((List.range 8).filter (fun k => (vecGet Tile.reset t.tiles k).dirty)).map (2 ^ ·)).sum

/-- The save of the tile engine of one core (R202). -/
def State.recordTiles (s : State) (g : Nat) (rank : Nat) : State :=
  let x := s.groupAt g
  let t := (s.coreAt (x.cores.getD rank 0)).tile
  let pc := match t.forked with
    | some h => ((s.hart h).prog .tile).pc
    | none => 0
  s.saveRecords g rank 0xFF 2 t.dirtyBits pc

/-- Whether the instructions that a saved hart issued have completed (R204, R295): none of its loads and none of its vector and tile
instructions is in flight, nor a load of its pattern reads (R171); queued words wait on where its strands, which the save stops, go on
(R143, R145). -/
def State.savedWhole (s : State) (h : HartId) : Bool :=
  (s.hart h).pending == 0 && (s.hart h).vpending == 0 &&
    ((s.hart h).lanes.isEmpty || (s.hart h).strands.any (fun t => t.running)) &&
    !(s.ops.any (fun o => o.issuer.owner == h && o.kind.fillsSet && !s.inLanes o)) &&
    !(s.ops.any (fun o => o.issuer == .hart h && o.loads && !s.inLanes o)) &&
    !(s.ops.any (fun o => o.issuer.owner == h && o.kind.isTileLoad && !s.inLanes o))

/-- R295, R296: every core's state has been saved. -/
def execSaveComplete (g : Nat) (s : State) : Host.Outcome State Fault Refusal :=
  event ((s.groupAt g).state == .saving &&
      (s.membersOf g).all s.savedWhole)
    (fun s =>
      let x := s.groupAt g
      let s := (s.membersOf g).foldl State.recordHart s
      let s := if x.tile then (List.range x.cores.length).foldl (fun s r => s.recordTiles g r) s else s
      (s.setGroupAt g { s.groupAt g with state := .saved }).checkSuspend x.ctx) s

/-- A binding less what it has loaded ahead of its cursor; an append's partial record stays (R171), and what a word that has issued into
the vector instruction queue is to pop. -/
def Binding.dropAhead (queued : List Nat) (b : Binding) : Binding :=
  match b.kind with
  | .read | .patRead => if queued.contains b.reg then b else { b with part := [] }
  | .append | .patWrite => b

/-- A set evicted: a register or mask that vdirty does not mark reads zero after it has been restored (R149), and what a read binding has
loaded ahead of its cursor is dropped, to be loaded again from there (R171). -/
def VSet.evict (v : VSet) (dirty : Word) (queued : List Nat) : VSet :=
  { v with
    state := .evicted
    hi := Vector.ofFn (fun k => if bitOf dirty k.val then vecGet 0 v.hi k.val else 0)
    masks := Vector.ofFn (fun k => if bitOf dirty (32 + k.val) then vecGet 0 v.masks k.val else 0)
    binds := v.binds.map (Binding.dropAhead queued) }

/-- R106: Kennel evicts a RETAINED set to the save run. (log entry 47: DEDUCED.) -/
def execVectorSetEvict (h : HartId) (s : State) : Host.Outcome State Fault Refusal :=
  event ((s.hart h).state == .saved && ((s.hart h).vset.map (fun v => v.state == .retained)).getD false)
    (fun s =>
      let x := s.hart h
      let s := s.setHart h { x with vset := x.vset.map (fun v => v.evict x.vdirty (x.lanes.flatMap Queued.names)) }
      s.saveRecords h.group h.rank h.hart 1 x.vdirty x.tpc.toNat) s

/-- Hart slots that are bound on a core: the harts of every group there that is not SAVED (R291, R292). -/
def State.slotsUsed (s : State) (c : Nat) : Nat :=
  (s.harts.filter (fun p => p.2.core = c ∧ (s.groupAt (p.1 / 512)).state ≠ .saved)).length

/-- Whether a hart's vector set is in one of some states. -/
def Hart.setIn (h : Hart) (l : List SetState) : Bool :=
  match h.vset with
  | some v => l.contains v.state
  | none => false

/-- Physical vector sets in use on a core (R106). -/
def State.setsUsed (s : State) (c : Nat) : Nat :=
  (s.harts.filter (fun p => p.2.core == c && p.2.setIn [.held, .retained])).length

/-- Evicted sets that a group is to have back on a core. -/
def State.evictedOn (s : State) (g c : Nat) : Nat :=
  (s.harts.filter (fun p => p.2.core == c && p.1 / 512 == g && p.2.setIn [.evicted])).length

/-- Whether a SAVED group finds on a core what it needs to resume (R297). (log entry 47: DEDUCED.) -/
def State.resumable (s : State) (g c : Nat) : Bool :=
  decide (s.slotsUsed c + (s.groupAt g).harts ≤ 8) && decide (s.setsUsed c + s.evictedOn g c ≤ 4)

/-- A saved hart bound to a slot again (R297); a HYIELD that pre-empted writes 1 (R307). -/
def State.rebind (s : State) (h : HartId) : State :=
  let x := s.hart h
  if x.state = .saved then
    s.setHart h
      { x with
        state := .bound
        vset := x.vset.map (fun v => { v with state := .held })
        sregs := match x.yieldDest with
          | some d => if d = 0 then x.sregs else vecSet x.sregs d.toNat 1
          | none => x.sregs
        yieldDest := none }
  else s

/-- The tiles of a core restored: clean ones read zero, and the ramp starts (R202, R211). -/
def State.restoreTiles (s : State) (c : Nat) : State :=
  let x := s.coreAt c
  let tiles := x.tile.tiles.map (fun t => if t.dirty then t else { t with rows := Vector.replicate 128 0 })
  s.setCoreAt c { x with tile := { x.tile with tiles := tiles, ramp := true } }

/-- R297: Kennel resumes a SAVED group on its own cores; every trap that its harts held has been settled (R295). -/
def execGroupResume (g : Nat) (s : State) : Host.Outcome State Fault Refusal :=
  let x := s.groupAt g
  event (x.state == .saved && (s.ctxAt x.ctx).state == .active && !(s.ctxAt x.ctx).suspending &&
      (s.membersOf g).all (fun h => !(s.hart h).trapHeld) && x.cores.all (s.resumable g))
    (fun s =>
      let s := (s.membersOf g).foldl State.rebind s
      let s := if x.tile then x.cores.foldl State.restoreTiles s else s
      s.setGroupAt g { s.groupAt g with state := .run, started := [], request := false }) s

/-- R294: at its start time a core's harts leave BOUND together, rank after rank. -/
def execHartStart (g rank : Nat) (s : State) : Host.Outcome State Fault Refusal :=
  let x := s.groupAt g
  event (x.state == .run && decide (rank < x.cores.length) && !(x.started.contains rank) &&
      (List.range rank).all (fun r => x.started.contains r))
    (fun s =>
      let hs := (s.membersOf g).filter (fun h => h.rank == rank && (s.hart h).state == .bound)
      let s := hs.foldl (fun s h => s.setHart h { s.hart h with state := .run }) s
      s.setGroupAt g { s.groupAt g with started := x.started ++ [rank] }) s

/-! ## Exit and kill (R298) -/

/-- Whether everything that a group's harts and sequencers have issued is complete (R298). -/
def State.groupDone (s : State) (g : Nat) : Bool :=
  (s.groupOps g).isEmpty && (s.membersOf g).all (fun h => (s.hart h).lanes.isEmpty)

/-- R298: every operation of an EXITING group is complete, and it releases everything. Harts that a GEXIT stopped first end their
bindings (R306); what that appends is then to be complete. -/
def execGroupExitComplete (g : Nat) (s : State) : Host.Outcome State Fault Refusal :=
  event ((s.groupAt g).state == .exiting && s.groupDone g)
    (fun s =>
      let s := ((s.membersOf g).filter (fun h => (s.hart h).vset.isSome)).foldl State.endHart s
      if s.groupDone g then s.releaseGroup g (s.groupAt g).status else s) s

/-- The next unbound group of a launch killed (R291): it counts as bound and as exited, with status 1, but starts no launch (R275).
(log entry 30: DEDUCED.) -/
def State.killQueued (s : State) (c queue : Nat) (k : Kernel) : State :=
  match (s.ctxAt c).queue? queue with
  | none => s
  | some q =>
    let k := { k with bound := k.bound + 1, state := if k.bound + 1 = k.groups then .running else k.state }
    let s := s.faultRecord c 0 0 0 0 0 0 1
    (s.setCtxAt c ((s.ctxAt c).setQueue queue (q.setKernel k))).groupEnded { Group.reset with ctx := c, queue := queue, seq := k.seq } 1

/-- A launch of a queue that has a group that is not bound. -/
def State.queuedGroup (s : State) (c queue ord : Nat) : Option Kernel :=
  ((s.ctxAt c).queue? queue).bind (fun q => q.kernels.find? (fun k =>
    k.ord == ord && (k.state == .queued || k.state == .binding) && decide (k.bound < k.groups)))

/-- R298: Kennel kills a group, for the escalated trap of one of its harts or of its own accord, with status 1 (R279); a QUEUED
group has no hart (R291). The queues of a SUSPENDED context change no state, so Kennel waits until it is resumed (R270).
(log entry 30: DEDUCED.) -/
def execKennelKillGroup (ctx : Nat) (t : KillTarget) (who : Option HartId) (s : State) : Host.Outcome State Fault Refusal :=
  match t with
  | .bound g =>
    let x := s.groupAt g
    event (x.ctx == ctx && x.state != .gone && (s.ctxAt ctx).state == .active &&
        (match who with
         | some h => h.group == g && (s.hart h).trapHeld
         | none => true))
      (fun s => s.killGroup g who 1) s
  | .queued q ord =>
    match s.queuedGroup ctx q ord with
    | none => .next s
    | some k =>
      event (who.isNone && ((s.ctxAt ctx).state == .active || (s.ctxAt ctx).state == .idle)) (fun s => s.killQueued ctx q k) s

end Sys2Proof.Machine
end

