-- ==== Sys2Proof/Machine/Binding.lean ====
section
/-!
DEFINITION. Binding groups to cores: standing bind records, the choice among queues, what a core must have free, and what
a hart holds when it first starts (R19, R70, R278, R281, R282, R290–R293).
-/

namespace Sys2Proof.Machine

/-! ## Ranges (R19, R292) -/

/-- A number rounded up to a multiple. -/
def roundUp (n m : Nat) : Nat := (n + m - 1) / m * m

/-- Size of an image's code area (R19). -/
def Image.codeSize (i : Image) : Nat := roundUp (4 * i.code.length) 4096

/-- Footprint of an image: F of R292. -/
def Image.footprint (i : Image) : Nat := roundUp (i.codeSize + i.area) 0x1_0000

/-- Size of a group's range on each core: L of R292. (log entry 46: DEDUCED.) -/
def rangeSize (i : Image) (harts : Nat) : Nat := Nat.max i.footprint (0x4_0000 * harts)

/-- Ranges that live groups hold on a core, and ranges that bind records reserve there. -/
def State.rangesOn (s : State) (c : Nat) : List (Nat × Nat) :=
  (s.groups.filterMap (fun p => (indexIn p.2.cores c).map (fun k => (p.2.bases.getD k 0, p.2.range)))) ++
    (s.dies.toList.flatMap (fun d => d.slots.filterMap (fun p =>
      (indexIn p.2.cores c).map (fun k =>
        let img := (lookup? (s.ctxAt p.2.ctx).images p.2.image).getD Image.reset
        (p.2.bases.getD k 0, rangeSize img p.2.harts)))))

/-- Whether a range of a core is free. -/
def State.rangeFree (s : State) (c base n : Nat) : Bool :=
  decide (base % 64 = 0) && decide (base + n ≤ Config.lsBytes) &&
    (s.rangesOn c).all (fun r => decide (base + n ≤ r.1) || decide (r.1 + r.2 ≤ base))

/-- The lowest free range of a size on a core, at a multiple of 64 KiB. (log entry 46: DEDUCED.) -/
def State.freeBase (s : State) (c n : Nat) : Option Nat :=
  (leastBelow 32 (fun k => s.rangeFree c (0x1_0000 * k) n)).map (0x1_0000 * ·)

/-- A range prepared: the image's code, zero up to the code area's size, and its initialised data (R19, R282).
(log entry 46: DEDUCED.) -/
def State.prepare (s : State) (img : Image) (c base : Nat) : State :=
  let m := Memory.clear s.mem (lsKey c base) img.codeSize
  let m := Memory.writeBytes m (lsKey c base) (img.code.flatMap (fun w => natLe 4 w.toNat))
  { s with
    mem := img.data.foldl (fun m d => Memory.writeBytes m (lsKey c (base + img.codeSize + d.1)) d.2) m }

/-! ## What a core must have free (R292) -/

/-- The shape of a group: cores, harts per core, tile and vec (R273). -/
structure Shape where
  cores : Nat
  harts : Nat
  tile : Bool
  vec : Bool
  deriving DecidableEq, Repr

/-- The shape that a launch record asks for. -/
def launchShape (ws : Vector Word 8) : Shape :=
  let w := recordWord ws 0
  ⟨launchCores ws, bitsOf w 23 3 + 1, bitOf w 22, bitOf w 21⟩

/-- Everything but the local-store range. -/
def State.coreFree (s : State) (sh : Shape) (c : Nat) : Bool :=
  let x := s.coreAt c
  decide (s.slotsUsed c + sh.harts ≤ 8) &&
    decide (sh.harts ≤ (x.seqs.toList.filter (fun q => q.state == .free)).length) &&
    (!sh.vec || decide (s.setsUsed c + Nat.min sh.harts 4 ≤ 4)) && (!sh.tile || x.tile.owner.isNone)

/-- The physical cores of a context's partition on a virtual die, in rising order. -/
def State.partCores (s : State) (c die : Nat) : List Nat :=
  stableSort (fun a b => decide (a ≤ b)) (((s.ctxAt c).part.getD die []).filterMap (s.physCore c die))

/-- Whether a bind record of another queue reserves a core (R282). -/
def State.reserved (s : State) (c queue core : Nat) : Bool :=
  s.dies.toList.any (fun d => d.slots.any (fun p => p.2.cores.contains core && !(p.2.ctx == c && p.2.queue == queue)))

/-- The image of a kernel. -/
def Ctx.imageOf (x : Ctx) (k : Kernel) : Option Image := lookup? x.images (launchImage k.words)

/-- Whether a record matches a queue's launch (R282). -/
def BindRecord.matches (r : BindRecord) (c queue : Nat) (k : Kernel) : Bool :=
  r.ctx == c && r.queue == queue && r.image == launchImage k.words && r.kernel == launchKernel k.words &&
    decide (launchShape k.words = ⟨r.ncores, r.harts, r.tile, r.vec⟩)

/-- The range that a record matching a queue's launch has prepared on a core. -/
def State.preparedBase (s : State) (c queue core : Nat) (k : Kernel) : Option Nat :=
  (s.dies.toList.flatMap Die.slots).findSome? (fun p =>
    if p.2.matches c queue k then (indexIn p.2.cores core).map (fun i => p.2.bases.getD i 0) else none)

/-- A range for a launch's group on a core: a prepared one, else a free one. -/
def State.baseFor (s : State) (c queue core : Nat) (k : Kernel) (n : Nat) : Option Nat :=
  match s.preparedBase c queue core k with
  | some b => some b
  | none => s.freeBase core n

/-- The cores on a virtual die on which a kernel's group could be bound now. -/
def State.candidates (s : State) (c queue die : Nat) (k : Kernel) : List Nat :=
  match (s.ctxAt c).imageOf k with
  | none => []
  | some img =>
    let sh := launchShape k.words
    (s.partCores c die).filter (fun core =>
      s.coreFree sh core && !s.reserved c queue core && (s.baseFor c queue core k (rangeSize img sh.harts)).isSome)

/-! ## The choice among queues (R278) -/

/-- The launch of a queue that has a group to bind: one that has started, or an eligible one while the queue starts
launches. -/
def Queue.binding? (q : Queue) : Option Kernel :=
  match q.kernels.find? (fun k => k.state == .binding) with
  | some k => some k
  | none => q.kernels.find? (fun k => k.state == .queued && k.eligible && (q.state == .opened || q.state == .draining))

/-- Whether a launch may bind on a virtual die. -/
def onDie (k : Kernel) (die : Nat) : Bool := launchDie k.words == 15 || launchDie k.words == die

/-- The virtual dies on which a launch may ever bind. -/
def State.possibleDies (s : State) (c : Nat) (k : Kernel) : List Nat :=
  (List.range 8).filter (fun d => onDie k d && decide (launchCores k.words ≤ (s.partCores c d).length))

/-- The die that Kennel chooses for a group that has been passed over eight times: the possible die with most of the cores it needs
free at that moment; it stays chosen until the group binds (R278). (log entry 44: DEDUCED.) -/
def State.heldDie (s : State) (c queue : Nat) (k : Kernel) : Option Nat :=
  (s.possibleDies c k).foldl (fun acc d => match acc with
    | none => some d
    | some e =>
      if (s.candidates c queue e k).length < (s.candidates c queue d k).length then some d else some e) none

/-- The bind records that give way to a queue whose group Kennel holds cores for taken out: those of other queues (R278, R282). -/
def State.yielded (s : State) (c queue : Nat) : State :=
  { s with dies := s.dies.map (fun d => { d with slots := d.slots.filter (fun p => p.2.ctx == c && p.2.queue == queue) }) }

/-- The state against which a queue's group finds its cores on a die: where Kennel holds cores for it, other queues' records give way. -/
def State.against (s : State) (c queue die : Nat) (k : Kernel) : State :=
  if k.held.any (fun p => p.1 == die) then s.yielded c queue else s

/-- The cores on a die that a queue's group can take, or Kennel hold for it, as they stand. -/
def State.takeable (s : State) (c queue die : Nat) (k : Kernel) : List Nat := (s.against c queue die k).candidates c queue die k

/-- The queues for whose group Kennel holds cores on a die, those that it began to hold for first in front (R278). -/
def State.holders (s : State) (c die : Nat) : List (Nat × Kernel) :=
  let l := (s.ctxAt c).queues.filterMap (fun p => p.2.binding?.bind (fun k =>
    match k.held with
    | some (d, n) => if d = die then some (p.1, n, k) else none
    | none => none))
  (stableSort (fun a b => decide (a.2.1 ≤ b.2.1)) l).map (fun p => (p.1, p.2.2))

/-- The cores that Kennel holds on a die, by queue: each holder takes what it needs of what those before it leave.
(log entry 44: DEDUCED.) -/
def State.heldCores (s : State) (c die : Nat) : List (Nat × List Nat) :=
  (s.holders c die).foldl
    (fun acc p =>
      let taken := acc.flatMap Prod.snd
      acc ++ [(p.1, ((s.takeable c p.1 die p.2).filter (fun x => !taken.contains x)).take (launchCores p.2.words))]) []

/-- The cores on a die that are held for a queue other than one. -/
def State.heldFrom (s : State) (c queue die : Nat) : List Nat :=
  ((s.heldCores c die).filter (fun p => p.1 != queue)).flatMap Prod.snd

/-- The cores that a queue's group could take on a die: those that are not held for another. -/
def State.open_ (s : State) (c queue die : Nat) (k : Kernel) : List Nat :=
  (s.takeable c queue die k).filter (fun x => !(s.heldFrom c queue die).contains x)

/-- Whether a queue's group fits a die now. -/
def State.fits (s : State) (c queue die : Nat) (k : Kernel) : Bool :=
  onDie k die && decide (launchCores k.words ≤ (s.open_ c queue die k).length)

/-- The queues of a context whose group fits a die, by number. -/
def State.fitting (s : State) (c die : Nat) : List (Nat × Queue) :=
  (s.ctxAt c).queues.filter (fun p => match p.2.binding? with
    | some k => s.fits c p.1 die k
    | none => false)

/-- The queue served next on a die: of the highest priority, the first after the one that this priority served last. -/
def State.nextQueue (s : State) (c die : Nat) : Option Nat :=
  let l := s.fitting c die
  let top := (l.map (fun p => p.2.prio.toNat)).foldl Nat.max 0
  let l := l.filter (fun p => p.2.prio.toNat == top)
  match lookup? (s.ctxAt c).served top with
  | none => l.head?.map Prod.fst
  | some q =>
    match l.find? (fun p => decide (q < p.1)) with
    | some p => some p.1
    | none => l.head?.map Prod.fst

/-- A launch of a queue as the binding of another queue's group on a die leaves it: passed over once more when its group does not fit
there, and no longer in a row when it does (R278). -/
def State.passed (s : State) (c die queue : Nat) (k : Kernel) : Kernel :=
  if !onDie k die then k
  else if s.fits c queue die k then { k with passedOver := 0 }
  else
    let held := match k.held with
      | some h => some h
      | none => if 8 ≤ k.passedOver + 1 then (s.heldDie c queue k).map (fun d => (d, s.nextGroup)) else none
    { k with passedOver := k.passedOver + 1, held := held }

/-- The launches of the other queues as a group of a queue is about to bind on a die. -/
def State.passOver (s : State) (c die queue : Nat) : State :=
  let x := s.ctxAt c
  let qs := x.queues.map (fun (p : Nat × Queue) =>
    if p.1 = queue then p
    else
      match p.2.binding? with
      | some k => (p.1, p.2.setKernel (s.passed c die p.1 k))
      | none => p)
  s.setCtxAt c { x with queues := qs }

/-! ## Binding (R70, R281, R290, R293) -/

/-- The scalars of a hart at its start: argument j in s(1 + j) (R281). -/
def argRegs (ws : Vector Word 8) : Vector Word 32 :=
  let n := bitsOf (recordWord ws 0) 18 3
  Vector.ofFn (fun r => if 1 ≤ r.val ∧ r.val ≤ n then recordWord ws (1 + r.val) else 0)

/-- A hart bound to its slot, with its default handle and its vector set (R70, R292, R293). -/
def State.bindHart (x : Group) (entry : Nat) (ws : Vector Word 8) (ctxid : BitVec 9) (s : State) (h : HartId) : State :=
  let c := x.cores.getD h.rank 0
  let q := ((s.coreAt c).freeSeqr).getD 0
  let s := s.setCoreAt c ((s.coreAt c).allocSeqr q .live 1 [] none h.key)
  s.setHart h { Hart.reset with
    state := .bound
    core := c
    pc := BitVec.ofNat 64 entry
    sregs := argRegs ws
    hartid := BitVec.ofNat 3 h.hart
    rank := BitVec.ofNat 6 h.rank
    gsize := BitVec.ofNat 7 x.cores.length
    ctxid := ctxid
    hregs := (Vector.replicate 16 none).setIfInBounds 0 (some q)
    vset := if x.vec ∧ h.hart < 4 then some VSet.reset else none }

/-- The tile engine of a core granted: its table and key are zero, and the ramp starts (R200, R202, R203). -/
def State.grantTile (g : Nat) (s : State) (c : Nat) : State :=
  s.setCoreAt c { s.coreAt c with tile := { TileEngine.reset with owner := some g, ramp := true }, ibase := [], key := 0 }

/-- A group of a launch bound at prepared ranges, rank 0 first (R282, R290). -/
def State.bindGroup (s : State) (c queue die : Nat) (k : Kernel) (img : Image) (cores bases : List Nat) : State :=
  let g := s.nextGroup
  let sh := launchShape k.words
  let entry := img.entries.getD (launchKernel k.words) 0
  let x : Group :=
    { Group.reset with
      ctx := c, queue := queue, seq := k.seq, index := k.bound, die := die, cores := cores, harts := sh.harts, vec := sh.vec,
      tile := sh.tile, image := launchImage k.words, state := .run, bases := bases, range := rangeSize img sh.harts,
      code := img.codeSize, word0 := recordWord k.words 0, handler := img.shandler.map (fun i => img.entries.getD i 0) }
  let s := { s with groups := insertKey s.groups g x, nextGroup := g + 1 }
  let s := (s.membersOf g).foldl (State.bindHart x entry k.words (s.ctxAt c).ctxid) s
  let s := if sh.tile then cores.foldl (State.grantTile g) s else s
  let y := ((s.ctxAt c).queue? queue).getD Queue.reset
  let k := { k with
    bound := k.bound + 1
    passedOver := 0
    held := none
    state := if k.bound + 1 = k.groups then .running else .binding }
  let z := s.ctxAt c
  s.setCtxAt c { z.setQueue queue (y.setKernel k) with
    state := .active
    served := insertKey z.served y.prio.toNat queue }

/-- Whether a context binds groups now (R258, R270). -/
def Ctx.binds (x : Ctx) : Bool := (x.state == .idle || x.state == .active) && !x.suspending

/-- The record's cores that hold everything the group needs, lowest first. -/
def State.readyCores (s : State) (r : BindRecord) (held : List Nat) : List Nat :=
  (stableSort (fun a b => decide (a ≤ b)) r.cores).filter
    (fun core => s.coreFree ⟨r.ncores, r.harts, r.tile, r.vec⟩ core && !held.contains core)

/-- The virtual die that holds a physical core of a context. -/
def State.virtDie (s : State) (c core : Nat) : Nat :=
  ((List.range 8).find? (fun d => (s.partCores c d).contains core)).getD 0

/-- The cores and bases that a record offers a queue's group, when it does (R282). -/
def State.offer (s : State) (r : BindRecord) (k : Kernel) : Option (List (Nat × Nat)) :=
  let die := s.virtDie r.ctx (r.cores.headD 0)
  let cores := (s.readyCores r (s.heldFrom r.ctx r.queue die)).take r.ncores
  if r.matches r.ctx r.queue k && onDie k die && decide (cores.length = r.ncores) then
    some (cores.map (fun c => (c, r.bases.getD ((indexIn r.cores c).getD 0) 0)))
  else none

/-- R282: dispatch binds the next queue's group against a standing record, whose cores it uses up. -/
def execGroupBind (die slot : Nat) (s : State) : Host.Outcome State Fault Refusal :=
  let d := vecGet Die.reset s.dies die
  match lookup? d.slots slot with
  | none => .next s
  | some r =>
    let v := s.virtDie r.ctx (r.cores.headD 0)
    match ((s.ctxAt r.ctx).queue? r.queue).bind Queue.binding? with
    | none => .next s
    | some k =>
      match (s.ctxAt r.ctx).imageOf k, s.offer r k with
      | some img, some l =>
        event ((s.ctxAt r.ctx).binds && (s.nextQueue r.ctx v).getD r.queue == r.queue)
          (fun s =>
            let used := l.map Prod.fst
            let left := (r.cores.zip r.bases).filter (fun p => !used.contains p.1)
            let d := { d with slots := insertKey d.slots slot { r with cores := left.map Prod.fst, bases := left.map Prod.snd } }
            ({ s.passOver r.ctx v r.queue with dies := vecSet s.dies die d }).bindGroup r.ctx r.queue v k img used (l.map Prod.snd)) s
      | _, _ => .next s

/-- The records of a context with the cores that a group has taken struck out of them. -/
def State.strike (s : State) (c : Nat) (used : List Nat) : State :=
  let f := fun (r : BindRecord) =>
    if r.ctx = c then
      let left := (r.cores.zip r.bases).filter (fun p => !used.contains p.1)
      { r with cores := left.map Prod.fst, bases := left.map Prod.snd }
    else r
  { s with dies := s.dies.map (fun d => { d with slots := d.slots.map (fun (p : Nat × BindRecord) => (p.1, f p.2)) }) }

/-- R282: Kennel itself binds a group for which no record matches, and prepares its ranges. -/
def execKennelBindGroup (ctx queue die : Nat) (cores : List Nat) (s : State) : Host.Outcome State Fault Refusal :=
  match ((s.ctxAt ctx).queue? queue).bind Queue.binding? with
  | none => .next s
  | some k =>
    match (s.ctxAt ctx).imageOf k with
    | none => .next s
    | some img =>
      let n := rangeSize img (launchShape k.words).harts
      let bases := cores.map (fun c => ((s.against ctx queue die k).baseFor ctx queue c k n).getD 0)
      let matched := s.dies.toList.any (fun d => d.slots.any (fun p => p.2.ctx == ctx && p.2.queue == queue &&
        (s.offer p.2 k).isSome))
      event ((s.ctxAt ctx).binds && !matched && s.fits ctx queue die k && s.nextQueue ctx die == some queue &&
          decide (cores.length = launchCores k.words) && decide (cores = cores.eraseDups) &&
          cores.all (fun c => (s.open_ ctx queue die k).contains c))
        (fun s =>
          let s := (cores.zip bases).foldl (fun s p => s.prepare img p.1 p.2) ((s.passOver ctx die queue).strike ctx cores)
          s.bindGroup ctx queue die k img cores bases) s

/-- Whether Kennel may write a record: its context and image are there, its cores are the context's on one die and neither reserved by
another queue's record nor held for another queue (R278), and its ranges are free. -/
def State.recordOk (s : State) (die : Nat) (r : BindRecord) : Bool :=
  match lookup? (s.ctxAt r.ctx).images r.image with
  | none => false
  | some img =>
    let v := s.virtDie r.ctx (r.cores.headD 0)
    (s.ctxAt r.ctx).binds && ((s.ctxAt r.ctx).queue? r.queue).isSome && decide (r.kernel < img.entries.length) &&
      decide (r.cores = r.cores.eraseDups) && decide (r.cores.length = r.bases.length) &&
      r.cores.all (fun c => decide (c / 64 = die) && (s.partCores r.ctx v).contains c && !s.reserved r.ctx r.queue c &&
        !(s.heldFrom r.ctx r.queue v).contains c) &&
      (r.cores.zip r.bases).all (fun p => s.rangeFree p.1 p.2 (rangeSize img r.harts))

/-- R282: Kennel writes, renews or withdraws a record in one of a die's 64 slots, and prepares its ranges. -/
def execBindRecordWrite (die slot : Nat) (rec : Option BindRecord) (s : State) : Host.Outcome State Fault Refusal :=
  let d := vecGet Die.reset s.dies die
  let bare := { s with dies := vecSet s.dies die { d with slots := eraseKey d.slots slot } }
  match rec with
  | none => event (decide (die < 8)) (fun _ => bare) s
  | some r =>
    event (decide (die < 8) && decide (slot < 64) && bare.recordOk die r)
      (fun _ =>
        let img := (lookup? (s.ctxAt r.ctx).images r.image).getD Image.reset
        let s := (r.cores.zip r.bases).foldl (fun s p => s.prepare img p.1 p.2) bare
        { s with dies := vecSet s.dies die { d with slots := insertKey d.slots slot r } }) s

end Sys2Proof.Machine
end

