-- ==== Sys2Proof/Machine/Runs.lean ====
section
/-!
DEFINITION. The run table and the stream bindings: majors 0x40 and 0x41 (R152–R170, R197, R264).
-/

namespace Sys2Proof.Machine

/-! ## What names a run (R162, R163, R342) -/

/-- Whether a handle names an entry of a context: it passes R152's checks, so one of another chip or of an earlier run in the
entry names nothing. -/
def State.namesEntry (s : State) (c : Nat) (w : Word) (e : Nat) : Bool := runHandleOk s (s.ctxAt c) w && handleEntry w == e

/-- A field of a record's bytes. -/
def recWord (bs : List Byte) (off n : Nat) : Nat := leNat ((bs.drop off).take n)

/-- The indices of the commands that a near-memory job executes as the run stands (R336). -/
def State.nmRange (s : State) (c e first : Nat) : List Nat :=
  let p := (s.runAt c e).pub
  (List.range (Nat.min p (first + 16384) - first)).map (first + ·)

/-- Whether a command of a near-memory job names an entry as its target or source (R342). -/
def State.commandNames (s : State) (c run first e : Nat) : Bool :=
  (s.nmRange c run first).any (fun i =>
    let bs := s.record c run i
    s.namesEntry c (BitVec.ofNat 64 (recWord bs 8 8)) e || s.namesEntry c (BitVec.ofNat 64 (recWord bs 24 8)) e)

/-- Whether an operation appends to an entry of its context (R162). -/
def State.appendsTo (s : State) (o : Op) (e : Nat) : Bool :=
  match o.kind with
  | .copyOut d _ => s.namesEntry o.ctx d.run e
  | .copyRun _ b => s.namesEntry o.ctx b e
  | .append r _ => s.namesEntry o.ctx r e
  | .send d _ => s.namesEntry o.ctx d.dst e
  | .job j => j.dests.any (fun w => s.namesEntry o.ctx w e)
  | .scan d none => s.namesEntry o.ctx d.dst e
  | _ => o.taken.any (fun t => t.run.toNat == e)

/-- Whether an operation in flight names an entry (R163, R342). -/
def State.opNames (s : State) (o : Op) (e : Nat) : Bool :=
  s.appendsTo o e ||
    (match o.kind with
     | .copyIn d _ => s.namesEntry o.ctx d.run e
     | .copyRun a _ => s.namesEntry o.ctx a e
     | .osld d _ => s.namesEntry o.ctx d.run e
     | .job j => j.inputs.any (fun w => s.namesEntry o.ctx w e)
     | .scan d _ => s.namesEntry o.ctx d.src e
     | .nmc r first _ => s.namesEntry o.ctx r e || s.commandNames o.ctx (handleEntry r) first e
     | _ => false)

/-- The bindings of every hart of a context. -/
def State.ctxBinds (s : State) (c : Nat) : List Binding :=
  s.harts.flatMap (fun p =>
    if (s.groupAt (p.1 / 512)).ctx = c then
      (match p.2.vset with
       | none => []
       | some v => v.binds)
    else [])

/-- Whether a binding, copy or job names an entry of a context (R163). -/
def State.runNamed (s : State) (c e : Nat) (self : Nat) : Bool :=
  (s.ctxBinds c).any (fun b => s.namesEntry c b.handle e) ||
    s.ops.any (fun o => o.id != self && o.ctx == c && s.opNames o e)

/-- Whether an append binding of an entry exists or an append to it is pending (R162). -/
def State.appendPending (s : State) (c e : Nat) (self : Nat) : Bool :=
  (s.ctxBinds c).any (fun b => b.kind == .append && s.namesEntry c b.handle e) ||
    s.ops.any (fun o => o.id != self && o.ctx == c && s.appendsTo o e)

/-! ## The run table -/

/-- The lowest FREE entry that ROPEN may return: never a reserved one (R160, R264). -/
def Ctx.freeEntry (x : Ctx) : Option Nat :=
  leastBelow x.table (fun e => decide (2 ≤ e) && (x.run e).state == .free)

/-- R160, ROPEN. (log entry 11: DESIGN CHOICE; log entry 55: DEDUCED.) -/
def execRopen (d a b : Reg) (s : State) : Host.Outcome State Fault Refusal :=
  issue .stream (do
    named [d, a, b]
    let s ← get
    let x := s.ctx
    if layoutOk (s.rs a) then pure () else trap .runState 0
    match x.freeEntry with
    | none => trap .runState 0
    | some e =>
      let r := { Run.reset with
        gen := (x.run e).gen + 1
        layout := s.rs a
        state := .opened
        home := s.me.core / 64 }
      match growTo (x.poolAt r.home + 1) r (x.poolAt r.home) (s.rs b).toNat with
      | none => trap .poolEmpty (Config.poolNumber s.group.ctx)
      | some (r, _) =>
        set ((s.mapRun s.group.ctx e r).setRs d (runHandle s e r))
        pure .seq) s

/-- A publication, sealing or freeing issued under a handle (R161–R163). At issue, RSEAL and RFREE refuse the reserved
entries (R264). (log entry 59: DEDUCED.) -/
def markRun (a : Reg) (h : HReg) (guard : Bool) (kind : Word → OpKind) (s : State) : Host.Outcome State Fault Refusal :=
  issue .stream (do
    named [a]
    let q ← seqOf h
    let s ← get
    let e ← checkRun (s.rs a)
    if guard && decide (e < 2) then trap .runState (s.rs a) else pure ()
    enqueue q .copy (kind (s.rs a))
    pure .seq) s

/-- R161, RPUB. -/
def execRpub (a : Reg) (h : HReg) (s : State) := markRun a h false OpKind.publish s

/-- R162, RSEAL. -/
def execRseal (a : Reg) (h : HReg) (s : State) := markRun a h true OpKind.sealRun s

/-- R163, RFREE. -/
def execRfree (a : Reg) (h : HReg) (s : State) := markRun a h true OpKind.freeRun s

/-- Whether a run that was checked at issue is still there when its operation is performed. -/
def State.stillRun (s : State) (o : Op) (w : Word) : Bool := runHandleOk s (s.ctxAt o.ctx) w

/-- R161: an RPUB is performed. One of a reserved entry has no effect (R264). -/
def execRpubPerformed (id : Nat) (s : State) : Host.Outcome State Fault Refusal :=
  opEvent id (fun o s =>
    match o.kind with
    | .publish w =>
      if s.mayStart o then
        let e := handleEntry w
        some ((if s.stillRun o w && decide (2 ≤ e) then s.publish o.ctx e else s).endOp o)
      else none
    | _ => none) s

/-- R162: an RSEAL is performed. (log entry 86: DESIGN CHOICE.) -/
def execRsealPerformed (id : Nat) (s : State) : Host.Outcome State Fault Refusal :=
  opEvent id (fun o s =>
    match o.kind with
    | .sealRun w =>
      if s.mayStart o then
        let e := handleEntry w
        if s.stillRun o w && (s.runAt o.ctx e).state == .opened then
          if s.appendPending o.ctx e o.id then some ((s.endOp o).reportOp o .runState w false)
          else some ((s.sealRun o.ctx e).endOp o)
        else some (s.endOp o)
      else none
    | _ => none) s

/-- R163: an RFREE is performed. -/
def execRfreePerformed (id : Nat) (s : State) : Host.Outcome State Fault Refusal :=
  opEvent id (fun o s =>
    match o.kind with
    | .freeRun w =>
      if s.mayStart o then
        let e := handleEntry w
        if s.stillRun o w then
          if s.runNamed o.ctx e o.id then some ((s.endOp o).reportOp o .runState w false)
          else some ((s.freeRun o.ctx e).endOp o)
        else some (s.endOp o)
      else none
    | _ => none) s

/-- R164, RLEN: P as it stands when the instruction is performed. -/
def execRlen (d a : Reg) (h : HReg) (s : State) : Host.Outcome State Fault Refusal :=
  issue .stream (do
    named [d, a]
    let q ← seqOf h
    let s ← get
    let e ← checkRun (s.rs a)
    ready (.of q .load (some d))
    set (s.setRs d (BitVec.ofNat 64 (s.ctx.run e).pub))
    pure .seq) s

/-- RINFO's table (R164). -/
def State.runInfo (s : State) (c e : Nat) (sel : Word) : Word :=
  let r := s.runAt c e
  match sel.toNat with
  | 0 => r.layout
  | 1 => BitVec.ofNat 64 r.pub
  | 2 => BitVec.ofNat 64 r.len
  | 3 => if r.state = .sealed then 2 else 1
  | 4 => BitVec.ofNat 64 r.capacity
  | 5 => BitVec.ofNat 64 (s.completeTo c e)
  | _ => 0

/-- R164, RINFO. -/
def execRinfo (d a b : Reg) (s : State) : Host.Outcome State Fault Refusal :=
  issue .stream (do
    named [d, a, b]
    let s ← get
    let e ← checkRun (s.rs a)
    set (s.setRs d (s.runInfo s.group.ctx e (s.rs b)))
    pure .seq) s

/-! ## Descriptors of copies and patterns (R172–R174) -/

/-- Dimensions of a descriptor's pattern from its bytes (R172). -/
def descDims (bs : List Byte) (n : Nat) : List (Nat × Word) :=
  (List.range n).map (fun k => (descField bs (32 + 16 * k) 4, descWord bs (40 + 16 * k)))

/-- The pattern of a descriptor. -/
def descPattern (bs : List Byte) (n : Nat) : Pattern := ⟨descWord bs 16, descField bs 28 2, descDims bs n⟩

/-- Check 2 of R174 on a descriptor's pattern. -/
def patternOk (bs : List Byte) (n : Nat) : Bool :=
  let p := descPattern bs n
  descField bs 31 1 == 0 && decide (4 ≤ p.unit ∧ p.unit ≤ 65532 ∧ p.unit % 4 = 0) &&
    (List.range n).all (fun k => decide (1 ≤ descField bs (32 + 16 * k) 4) && descField bs (36 + 16 * k) 4 == 0) &&
    decide (p.total ≤ 2 ^ 40)

/-- The number of the unit at the low (or high) end of every dimension: the extreme addresses of a pattern (R174).
(log entry 59: DEDUCED.) -/
def extremeUnit (low : Bool) : List (Nat × Word) → Nat
  | [] => 0
  | (n, st) :: t => (if st.msb = low then n - 1 else 0) + n * extremeUnit low t

/-- Checks 3 and 4 of R174: spaces and alignment, then the extreme units in unit order. -/
def checkPattern (acc : Access) (p : Pattern) : M Unit := do
  let s ← get
  if acc.spaces.contains (ptrSpace p.base) then pure () else trap .badSpace p.base
  if p.base.toNat % 4 ≠ 0 ∨ p.dims.any (fun d => d.2.toNat % 4 != 0) then trap .misaligned p.base else pure ()
  let lo := extremeUnit true p.dims
  let hi := extremeUnit false p.dims
  let bad := fun (u : Nat) => match place s acc p.unit 4 (p.unitAddr u) with
    | .error f => if f.late then none else some f
    | .ok _ => none
  match bad (Nat.min lo hi) with
  | some f => trap f.cause (f.word s)
  | none =>
    match bad (Nat.max lo hi) with
    | some f => trap f.cause (f.word s)
    | none => pure ()

/-! ## Stream bindings -/

/-- SBIND, SUNBIND, SSKIP, SPOS, VLDW, CSNAP and RCOMB in a sequencer stop it (R197). -/
def hartOnly : M Unit := do
  let s ← get
  match s.cur with
  | .seq _ _ => trap .runState 0
  | _ => pure ()

/-- The vector set that an instruction of a bound register needs (R113), free of strands and of data in flight to the
register. (log entry 87: DEDUCED.) -/
def needSet (d : Reg) : M Unit := do
  let s ← get
  if s.me.vset.isNone then trap .vdead (d.setWidth 64) else pure ()
  if s.me.strands.any (fun t => t.running) || bitOf s.me.vpending d.toNat || !s.me.lanes.isEmpty then throw .stall else pure ()

/-- The bytes of a pattern's descriptor in space 0, 1 or 4, read at issue (R165); none when its target refuses the read, which is
reported (R27, R85). (log entry 59: DEDUCED.) -/
def readTable (p : Word) (n : Nat) : M (Option (List Byte)) := do
  let s ← get
  match place s .table n 8 p with
  | .error f =>
    refuse f
    pure none
  | .ok pl =>
    ownWrites pl n
    pure (some (Memory.readBytes s.mem pl.key n))

/-- The pattern of a descriptor's bytes, checked for a read or a write (R165). -/
def tablePattern (write : Bool) (bs : List Byte) (n : Nat) : M Pattern := do
  if patternOk bs n then pure () else trap .runState 0
  let pat := descPattern bs n
  checkPattern (if write then .patWrite else .patRead) pat
  pure pat

/-- The pattern that SBIND's s1 points to (R165); none when the read of its descriptor was refused. -/
def bindPattern (write : Bool) (p : Word) : M (Option Pattern) := do
  match ← readTable p 32 with
  | none => pure none
  | some head =>
    let n := descField head 30 1
    if 16 < n then trap .runState 0 else pure ()
    match ← readTable p (32 + 16 * n) with
    | none => pure none
    | some bs => some <$> tablePattern write bs n

/-- A binding made: vd reads zero and is dirty (R165). -/
def State.bind (s : State) (d : Reg) (b : Binding) : State :=
  let s := s.setMe (s.me.setVreg d.toNat 0)
  s.setVset (fun v => { v with binds := v.binds ++ [b] })

/-- R165, SBIND. (log entry 82: DESIGN CHOICE.) -/
def execSbind (d a b : Reg) (h : HReg) (s : State) : Host.Outcome State Fault Refusal :=
  issue .stream (do
    hartOnly
    let q ← seqOf h
    needSet d
    named [a, b]
    let s ← get
    let w := s.rs a
    let pos := s.rs b
    let none_ : Pattern := ⟨0, 0, []⟩
    if d.toNat < 24 then trap .illegalInstr (s.word.setWidth 64) else pure ()
    if (s.bindOf d.toNat).isSome then trap .runState w else pure ()
    let sp := ptrSpace w
    if sp = 5 ∨ sp = 6 then
      let e ← checkRun w
      if pos = BitVec.allOnes 64 then
        if (s.ctx.run e).state ≠ .opened ∨ e < 2 then trap .runState w else pure ()
        let r := s.ctx.run e
        act (fun s => s.bind d ⟨d.toNat, .append, w, q, 0, [], none_, extentIndex r.mapped (r.len * r.size),
          (vecGet Die.reset s.dies r.home).mapGen⟩)
      else act (fun s => s.bind d ⟨d.toNat, .read, w, q, pos.toNat * (s.ctx.run e).size, [], none_, 0, 0⟩)
    else if Access.table.spaces.contains sp then
      if pos = 0 ∨ pos = BitVec.allOnes 64 then pure () else trap .runState 0
      match ← bindPattern (pos ≠ 0) w with
      | none => pure ()
      | some pat => act (fun s => s.bind d ⟨d.toNat, if pos = 0 then .patRead else .patWrite, w, q, 0, [], pat, 0, 0⟩)
    else trap .badSpace w
    pure .seq) s

/-- R169, SUNBIND: the records and stores that it hands on are operations under the binding's handle. (log entry 82: DESIGN CHOICE.)
-/
def execSunbind (d : Reg) (h : HReg) (s : State) : Host.Outcome State Fault Refusal :=
  issue .stream (do
    hartOnly
    let _ ← seqOf h
    needSet d
    let s ← get
    match s.bindOf d.toNat with
    | none => pure .seq
    | some b =>
      set (s.unbind b)
      pure .seq) s

/-- R170, SSKIP. -/
def execSskip (d a : Reg) (s : State) : Host.Outcome State Fault Refusal :=
  issue .stream (do
    hartOnly
    needSet d
    named [a]
    let s ← get
    match s.bindOf d.toNat with
    | none => trap .runState 0
    | some b =>
      if b.kind = .read ∨ b.kind = .patRead then
        set (s.setBind { b with pos := b.pos + (s.rs a).toNat, part := b.part.drop (s.rs a).toNat })
        pure .seq
      else trap .runState b.tval) s

/-- R170, SPOS. -/
def execSpos (d a : Reg) (s : State) : Host.Outcome State Fault Refusal :=
  issue .stream (do
    hartOnly
    needSet a
    named [d]
    let s ← get
    match s.bindOf a.toNat with
    | none => trap .runState 0
    | some b =>
      set (s.setRs d (BitVec.ofNat 64 b.pos))
      pure .seq) s

end Sys2Proof.Machine
end

