-- ==== Sys2Proof/Machine/VMem.lean ====
section
/-!
DEFINITION. Vector memory: majors 0x38–0x3B (R134–R139), with the requests and trains that elements on other chips
travel in (R355–R358).
-/

namespace Sys2Proof.Machine

/-- What a vector access does with its elements. -/
inductive VForm | load | store | add
  deriving DecidableEq, Repr

/-- The access kind of a form (R135). -/
def VForm.access : VForm → Access
  | .load => .vload
  | .store => .vstore
  | .add => .vadd

/-- One processed element: its index, its pointer, and where it lies. -/
structure VElem where
  i : Nat
  p : Word
  at_ : Except PtrFault Place

/-- The processed elements of an access below `n` (R112). -/
def State.velems (s : State) (acc : Access) (nb n : Nat) (mk : MReg) (addr : Nat → Word) : List VElem :=
  ((List.range n).filter (fun i => decide (s.vstart ≤ i) && s.maskBit mk.toNat i s.vsew)).map
    (fun i => ⟨i, addr i, s.placeLive (place s acc nb nb (addr i))⟩)

/-- A check that traps precisely at the element. -/
def VElem.fails (e : VElem) : Option PtrFault :=
  match e.at_ with
  | .error f => if f.late then none else some f
  | .ok _ => none

/-- A refusal that is reported later (R114). -/
def VElem.refused (e : VElem) : Option PtrFault :=
  match e.at_ with
  | .error f => if f.late then some f else none
  | .ok _ => none

/-- The destination of a remote element: chip, and die and core as one number. -/
def VElem.dest? (e : VElem) : Option (BitVec 10 × Nat) :=
  match e.at_ with
  | .ok (.remote chip die core _) => some (chip, die * 64 + core)
  | _ => none

/-- Whether an element lies on this chip. -/
def VElem.isLocal (e : VElem) : Bool :=
  match e.at_ with
  | .ok (.remote _ _ _ _) => false
  | .ok _ => true
  | .error _ => false

/-- The elements below the first that fails. -/
def takeGood : List VElem → List VElem
  | [] => []
  | e :: t => if e.fails.isSome then [] else e :: takeGood t

/-- The first element that fails. -/
def firstFailing : List VElem → Option (VElem × PtrFault)
  | [] => none
  | e :: t =>
    match e.fails with
    | some f => some (e, f)
    | none => firstFailing t

/-- The elements that an access performs: those below the first that fails, and none when that one enters an operand store whose
engine the group does not hold, since vstart then names the first element (R26). (log entry 70: DEDUCED.) -/
def performed (es : List VElem) : List VElem :=
  match firstFailing es with
  | some (_, f) => if f.cause = .engineOwned then [] else takeGood es
  | none => takeGood es

/-- A value of an element width at a place: a nibble of its byte under vsew = 4 (R135). -/
def State.loadVec (s : State) (pl : Place) (w i : Nat) : Nat :=
  if w = 4 then s.loadAt pl 1 / 2 ^ (4 * (i % 2)) % 16 else s.loadAt pl (w / 8)

/-- The memory after an element is written at a place. -/
def State.storeVec (s : State) (pl : Place) (w i x : Nat) : State :=
  if w = 4 then
    let old := s.loadAt pl 1
    let sh := 2 ^ (4 * (i % 2))
    s.storeAt pl 1 (old - old / sh % 16 * sh + x % 16 * sh)
  else s.storeAt pl (w / 8) x

/-- An element of a load written: what memory holds, or zero where its target refused it. -/
def State.loadElem (d : Reg) (s : State) (e : VElem) : State :=
  match e.at_ with
  | .ok (.remote _ _ _ _) => s
  | .ok pl => s.setElem d.toNat e.i s.vsew (s.loadVec pl s.vsew e.i)
  | .error _ => s.setElem d.toNat e.i s.vsew 0

/-- The value of an element on this chip, which a VLDFF with elements on others keeps until it completes. -/
def State.localValue (s : State) (e : VElem) : Option (Nat × Word) :=
  match e.at_ with
  | .ok (.remote _ _ _ _) => none
  | .ok pl => some (e.i, BitVec.ofNat 64 (s.loadVec pl s.vsew e.i))
  | .error _ => none

/-- An element of a store, with its value, performed. -/
def State.storeElem (add : Bool) (s : State) (e : VElem × Nat) : State :=
  match e.1.at_ with
  | .ok (.remote _ _ _ _) => s
  | .ok pl =>
    s.storeVec pl s.vsew e.1.i (if add then (s.loadVec pl s.vsew e.1.i + e.2) % 2 ^ s.vsew else e.2)
  | .error _ => s

/-- Elements with equal addresses merged into the first of them, their values summed (R138). -/
def mergeAdds (w : Nat) : List (VElem × Nat) → List (VElem × Nat)
  | [] => []
  | l => l.foldl (fun acc e =>
      if acc.any (fun a => a.1.p = e.1.p) then
        acc.map (fun a => if a.1.p = e.1.p then (a.1, (a.2 + e.2) % 2 ^ w) else a)
      else acc ++ [e]) []

/-! ## Elements on other chips -/

/-- The distinct destinations of a list of elements, in order of their first elements. -/
def destsOf (es : List (VElem × Nat)) : List (BitVec 10 × Nat) :=
  es.foldl (fun acc e => match e.1.dest? with
    | some t => if acc.contains t then acc else acc ++ [t]
    | none => acc) []

/-- Messages of an operation sent on a session, in order. -/
def State.sendAll (s : State) (chip : BitVec 10) (tag : Nat) (bodies : List MsgBody) : State :=
  bodies.foldl (fun s b => s.send s.group.ctx chip tag false false b) s

/-- The bodies of a vector request, or of a train with its TAIL (R357, R358). -/
def vecBodies (train : Bool) (form : VForm) (core w vl : Nat) (shape : Option ReqShape) (es : List (VElem × Nat)) :
    List MsgBody :=
  if train then
    (pieces (es.map (fun e => (⟨ptrOff e.1.p, BitVec.ofNat 64 e.2⟩ : TrainElem)))).map MsgBody.train ++
      [.tail (BitVec.ofNat 32 es.length) core (form == .add) w]
  else
    (reqPackets core (form != .load) (form == .add) w vl shape
      (es.map (fun e => (e.1.i, ptrOff e.1.p, BitVec.ofNat 64 e.2)))).map MsgBody.req

/-- The operation issued last notes the last sequence number it sent on its session, and how many elements it awaits. -/
def State.noteSent (s : State) (chip : BitVec 10) (awaits : Nat) : State :=
  let seq := (s.ctx.session chip).sendSeq - 1
  { s with
    ops := s.ops.map (fun o =>
      if o.id == s.lastOp then { o with counts := (o.counts.1, seq.setWidth 64, BitVec.ofNat 64 awaits) } else o) }

/-- The elements of one destination sent as one operation. -/
def State.sendVec (q : Nat) (cls : OpClass) (form : VForm) (vd : Option Reg) (train first : Bool) (group : Nat)
    (shape : Option ReqShape) (es : List (VElem × Nat)) (s : State) (t : BitVec 10 × Nat) : State :=
  let mine := es.filter (fun e => e.1.dest? = some t)
  let w := s.vsew
  let s := s.addRemote q cls (.remoteVec t.1 vd (mine.map (fun e => (e.1.i, e.1.p))) w first) group
  let s := s.sendAll t.1 s.lastOp (vecBodies train form t.2 w s.vl shape mine)
  s.noteSent t.1 (if form = .load then mine.length else 0)

/-- A vector register marked pending, with the scalar inside it (R110). -/
def State.vmarkPending (s : State) (d : Reg) : State := s.setMe (s.me.vmark d)

/-- What an access to a list of elements of `n` bytes needs (R84, R247, R356). -/
def Needs.elems (q : Nat) (cls : OpClass) (n : Nat) (es : List VElem) : Needs :=
  { Needs.of q cls none with
    near := es.any VElem.isLocal
    chips := (es.filterMap (fun e => e.dest?.map Prod.fst)).eraseDups
    touch := es.flatMap (fun e => match e.at_ with
      | .ok pl => pl.touch n
      | .error _ => []) }

/-- Whether any of some elements lies in bytes that an earlier copy is still to write (R115). -/
def State.awaitsCopy (s : State) (n : Nat) (es : List VElem) : Bool :=
  es.any (fun e => match e.at_ with
    | .ok (.ls c o) => s.copyPending (lsKey c o) n
    | _ => false)

/-- The end of an access's checks. One whose every address has passed is performed now, or later: when the lanes take it, or hand over
what it reads, when what precedes it is performed and when earlier copies have written the bytes that it loads (`waits`); the registers
and masks of `reads` give its addresses. One that traps at an element, or that may, is performed in its own step (R114, R115, R143). -/
def readyWhole (v : VNames) (reads : List Nat) (whole waits : Bool) (n : Needs) : M Unit := do
  let s ← get
  match s.cur with
  | .late _ _ => if waits then throw .stall else pure ()
  | _ =>
    if s.lanesWait v then throw (if whole && s.known reads then .queue { v with scalars := [] }.regs [] (some n) else .stall)
    else if !waits && s.performsNow n then pure ()
    else throw (if whole then .defer n else .stall)

/-- A mask field as one of `reads`: 0 names no mask. -/
def maskReads (l : List MReg) : List Nat := ((l.map BitVec.toNat).filter (· ≠ 0)).map (32 + ·)

/-! ## Loads and stores -/

/-- Bytes of an element's access. -/
def State.elemBytes (s : State) : Nat := if s.vsew = 4 then 1 else s.vsew / 8

/-- What a precise failure ends in: the trap at its element; or, with elements in flight to other chips, the element is
left for the next issue, since the trap waits for their data (R95). -/
def failAt (all : List VElem) (bad : Option (VElem × PtrFault)) (sent : Bool) : M Flow := do
  match bad with
  | none =>
    act (fun s => s.setVstart 0)
    pure .seq
  | some (e, f) =>
    act (fun s => s.setVstart (if f.cause = .engineOwned then (all.head?.map VElem.i).getD e.i else e.i))
    let s ← get
    if sent then pure .stay else throw (.trap { TrapInfo.at f.cause (f.word s) with source := 1 })

/-- The refused element of the lowest index is reported (R114). -/
def reportRefused (es : List VElem) : M Unit :=
  match es.findSome? VElem.refused with
  | none => pure ()
  | some f => act (fun s => s.report s.cur f.cause (f.word s) (BitVec.ofNat 32 s.pc.toNat) true)

/-- The elements that a load takes before VLDFF's shortening: how many it keeps, and what stopped it (R137). -/
def ffSplit (es : List VElem) : List VElem × Option (VElem × PtrFault) :=
  let stops := fun (e : VElem) => match e.at_ with
    | .error f => some f
    | .ok _ => none
  match es.tail.findSome? (fun e => (stops e).map (fun f => (e, f))) with
  | some (e, f) => (es.takeWhile (fun x => decide (x.i < e.i)), some (e, f))
  | none => (es, none)

/-- VLDFF's fields of ffe (R108, R137). -/
def ffeOf (c : Cause) (i : Nat) : Word := BitVec.ofNat 64 (2 ^ 63 + c.code * 2 ^ 16 + i)

/-- How a request for one destination addresses its elements: an access that is not indexed sends its base and stride, one over
several cores its elements' offsets (R355, R357). -/
def soleShape (dests : List (BitVec 10 × Nat)) (es : List (VElem × Nat)) (shape : Option ReqShape) : Option ReqShape :=
  if dests.length = 1 ∧ es.all (fun e => e.1.dest?.isSome) then shape else none

/-- Whether a VLDFF of the issuer has elements in flight: it completes before anything else issues (R137). -/
def State.firstFaulting (s : State) : Bool :=
  s.ops.any (fun o => o.issuer == s.cur && (match o.kind with
    | .remoteVec _ _ _ _ first => first
    | _ => false))

/-- A vector load (R134–R137). (log entry 21: DESIGN CHOICE; log entry 57: DEDUCED.) -/
def vload (ff : Bool) (d : Reg) (names : VNames) (reads : List Nat) (mk : MReg) (h : HReg) (n : State → Nat) (noE4 : Bool)
    (addr : State → Nat → Word) (shape : State → Option ReqShape) (s : State) : Host.Outcome State Fault Refusal :=
  issue .hart (do
    let s ← get
    if ff && s.firstFaulting then throw .stall else pure ()
    vchecks names
    vscalars names.scalars
    if noE4 && s.vsew = 4 then trap .illegalInstr (s.word.setWidth 64) else pure ()
    let q ← seqOf h
    let all := s.velems .vload s.elemBytes (n s) mk (addr s)
    let cut := if ff then ffSplit all else (all, none)
    let good := performed cut.1
    let bad := firstFailing cut.1
    readyWhole names (reads ++ maskReads [mk]) (!ff && bad.isNone) (s.awaitsCopy s.elemBytes good)
      { Needs.elems q .load s.elemBytes good with vdest := some d, vec := true, zero := (s.vsew, good.map VElem.i) }
    let pairs := good.map (fun e => (e, 0))
    let dests := destsOf pairs
    reportRefused good
    let gather := ff && !dests.isEmpty
    let found := good.filterMap s.localValue
    let id := s.nextOp
    act (fun s => if gather then s else good.foldl (State.loadElem d) s)
    act (fun s => dests.foldl (State.sendVec q .load .load (some d) false ff s.nextOp (soleShape dests pairs (shape s)) pairs) s)
    if gather then
      act (fun s => { s with ops := s.ops.map (fun o => if o.id == id then { o with buf := found } else o) })
    else pure ()
    if dests.isEmpty then pure () else act (fun s => s.vmarkPending d)
    if ff && bad.isNone then
      act (fun s => match cut.2 with
        | some (e, f) => s.setMe { s.me with ffe := ffeOf f.cause e.i, vl := BitVec.ofNat 13 e.i }
        | none => s.setMe { s.me with ffe := 0 })
    else pure ()
    if gather && bad.isNone then pure .stay else failAt all bad (!dests.isEmpty)) s

/-- A vector store or indexed add (R134–R136, R138). (log entry 21: DESIGN CHOICE.) -/
def vstore (form : VForm) (d : Reg) (names : VNames) (reads : List Nat) (mk : MReg) (h : HReg) (n : State → Nat) (noE4 : Bool)
    (addr : State → Nat → Word) (shape : State → Option ReqShape) (s : State) : Host.Outcome State Fault Refusal :=
  issue .hart (do
    vchecks names
    vscalars names.scalars
    let s ← get
    if (noE4 && s.vsew = 4) || (form == .add && s.vsew < 32) then trap .illegalInstr (s.word.setWidth 64) else pure ()
    let q ← seqOf h
    let all := s.velems form.access s.elemBytes (n s) mk (addr s)
    let good := performed all
    let bad := firstFailing all
    readyWhole names (reads ++ maskReads [mk]) bad.isNone false { Needs.elems q .store s.elemBytes good with vec := true }
    let pairs := good.map (fun e => (e, s.elem d.toNat e.i s.vsew))
    let pairs := if form = .add then mergeAdds s.vsew pairs else pairs
    let dests := destsOf pairs
    let several := decide (1 < dests.length) || good.any VElem.isLocal
    reportRefused good
    act (fun s => pairs.foldl (State.storeElem (form == .add)) s)
    act (fun s => dests.foldl (State.sendVec q .store form none several false s.nextOp (soleShape dests pairs (shape s)) pairs) s)
    failAt all bad (!dests.isEmpty)) s

/-- n of the indexed forms: min(vl, VLMAX(max(vsew, 32))) (R134). -/
def State.countIdx (s : State) : Nat := Nat.min s.vl (16384 / Nat.max s.vsew 32)

/-- Element i of a unit-stride access. -/
def addrUnit (b : Reg) (s : State) (i : Nat) : Word := s.rs b + BitVec.ofNat 64 (i * s.vsew / 8)

/-- Element i of a strided access. -/
def addrStride (b c : Reg) (s : State) (i : Nat) : Word := s.rs b + BitVec.ofNat 64 i * s.rs c

/-- A unit-stride access as a request addresses it. -/
def shapeUnit (b : Reg) (s : State) : Option ReqShape := some (.unit (ptrOff (s.rs b)))

/-- A strided access as a request addresses it. -/
def shapeStride (b c : Reg) (s : State) : Option ReqShape := some (.strided (ptrOff (s.rs b)) (s.rs c))

/-- An indexed access sends its offsets. -/
def shapeIndex (_ : State) : Option ReqShape := none

/-- Element i of an indexed access. -/
def addrIndex (b x : Reg) (s : State) (i : Nat) : Word :=
  s.rs b + BitVec.ofNat 64 (s.elem x.toNat i (Nat.max s.vsew 32))

/-- R134, VLD. -/
def execVld (d b : Reg) (m : MReg) (h : HReg) (s : State) :=
  vload false d ⟨[b], [], [], [d], [m]⟩ [] m h State.countVl false (addrUnit b) (shapeUnit b) s

/-- R134, VLDS. -/
def execVlds (d b c : Reg) (m : MReg) (h : HReg) (s : State) :=
  vload false d ⟨[b, c], [], [], [d], [m]⟩ [] m h State.countVl true (addrStride b c) (shapeStride b c) s

/-- R134, VLDX. -/
def execVldx (d b x : Reg) (m : MReg) (h : HReg) (s : State) :=
  vload false d ⟨[b], [], [], [d, x], [m]⟩ [x.toNat] m h State.countIdx true (addrIndex b x) shapeIndex s

/-- R137, VLDFF. -/
def execVldff (d b : Reg) (m : MReg) (h : HReg) (s : State) :=
  vload true d ⟨[b], [], [], [d], [m]⟩ [] m h State.countVl false (addrUnit b) (shapeUnit b) s

/-- R134, VST. -/
def execVst (d b : Reg) (m : MReg) (h : HReg) (s : State) :=
  vstore .store d ⟨[b], [], [], [d], [m]⟩ [] m h State.countVl false (addrUnit b) (shapeUnit b) s

/-- R134, VSTS. -/
def execVsts (d b c : Reg) (m : MReg) (h : HReg) (s : State) :=
  vstore .store d ⟨[b, c], [], [], [d], [m]⟩ [] m h State.countVl true (addrStride b c) (shapeStride b c) s

/-- R134, VSTX. -/
def execVstx (d b x : Reg) (m : MReg) (h : HReg) (s : State) :=
  vstore .store d ⟨[b], [], [], [d, x], [m]⟩ [x.toNat] m h State.countIdx true (addrIndex b x) shapeIndex s

/-- R138, VSTXADD. -/
def execVstxadd (d b x : Reg) (m : MReg) (h : HReg) (s : State) :=
  vstore .add d ⟨[b], [], [], [d, x], [m]⟩ [x.toNat] m h State.countIdx true (addrIndex b x) shapeIndex s

end Sys2Proof.Machine
end

