-- ==== Sys2Proof/Machine/Copies.lean ====
section
/-!
DEFINITION. Copies between runs and local-store patterns, and the windowed gather: majors 0x42 and 0x44 (R172–R180).
-/

namespace Sys2Proof.Machine

/-! ## Issue -/

/-- A copy descriptor read and checked at issue (R174, checks 1–4). The run byte offset is checked as R172 gives.
(log entry 59: DEDUCED.) -/
def readCopy (acc : Access) (offset : Bool) (p : Word) : M CopyDesc := do
  let head ← readDesc p 32
  let n := descField head 30 1
  if 16 < n then trap .runState 0 else pure ()
  let bs ← readDesc p (32 + 16 * n)
  let off := descField bs 8 8
  if patternOk bs n && (if offset then off % 4 == 0 else off == 0) then pure () else trap .runState 0
  let pat := descPattern bs n
  checkPattern acc pat
  pure ⟨descWord bs 0, off, BitVec.ofNat 32 (descField bs 24 4), pat⟩

/-- The semaphore of a copy's post: none for all ones, else 0–63 (R174, check 6). -/
def checkSem (w : Word) : M (Option Nat) :=
  if w = BitVec.allOnes 64 then pure none
  else if w.toNat < 64 then pure (some w.toNat)
  else trap .badAddr w

/-- R175, RCOPYIN. -/
def execRcopyin (a b : Reg) (h : HReg) (s : State) : Host.Outcome State Fault Refusal :=
  issue .stream (do
    named [a, b]
    let q ← seqOf h
    let s ← get
    let d ← readCopy .patWrite true (s.rs a)
    let _ ← checkRun d.run
    let sem ← checkSem (s.rs b)
    enqueue q .copy (.copyIn d sem)
    pure .seq) s

/-- R176, RCOPYOUT. (log entry 88: DESIGN CHOICE.) -/
def execRcopyout (a b : Reg) (h : HReg) (s : State) : Host.Outcome State Fault Refusal :=
  issue .stream (do
    named [a, b]
    let q ← seqOf h
    let s ← get
    let d ← readCopy .patRead false (s.rs a)
    let e ← checkRun d.run
    let sem ← checkSem (s.rs b)
    let r := s.ctx.run e
    if e < 2 ∨ r.state ≠ .opened ∨ d.pat.total % r.size ≠ 0 then trap .runState d.run else pure ()
    enqueue q .copy (.copyOut d sem)
    pure .seq) s

/-- R178, RFILL. -/
def execRfill (a b : Reg) (h : HReg) (s : State) : Host.Outcome State Fault Refusal :=
  issue .stream (do
    named [a, b]
    let q ← seqOf h
    let s ← get
    let d ← readCopy .patWrite false (s.rs a)
    let sem ← checkSem (s.rs b)
    enqueue q .copy (.fill d sem)
    pure .seq) s

/-- R177, RCOPYRR. -/
def execRcopyrr (a b : Reg) (h : HReg) (s : State) : Host.Outcome State Fault Refusal :=
  issue .stream (do
    named [a, b]
    let q ← seqOf h
    let s ← get
    let x ← checkRun (s.rs a)
    let y ← checkRun (s.rs b)
    let src := s.ctx.run x
    let dst := s.ctx.run y
    if y < 2 ∨ dst.state ≠ .opened ∨ x = y ∨ src.size ≠ dst.size then trap .runState (s.rs b) else pure ()
    enqueue q .copy (.copyRun (s.rs a) (s.rs b))
    pure .seq) s

/-! ## The post (R179, R302) -/

/-- The hart of a key. -/
def hartOfKey (k : Nat) : HartId := ⟨k / 512, k / 8 % 64, k % 8⟩

/-- The harts bound on a core: neither saved nor halted. -/
def State.hartsOn (s : State) (c : Nat) : List HartId :=
  (s.harts.filter (fun p => p.2.core = c ∧ p.2.state ≠ .saved ∧ p.2.state ≠ .halted ∧ p.2.state ≠ .free)).map
    (fun p => hartOfKey p.1)

/-- A copy's post: the value saturates, and an overflow is reported to the copy's issuer (R302).
(log entry 45: DEDUCED.) -/
def State.postSem (s : State) (o : Op) (core n amount : Nat) : State :=
  let x := s.coreAt core
  let v := (vecGet 0 x.sems n).toNat + amount
  let s := s.setCoreAt core { x with sems := vecSet x.sems n (BitVec.ofNat 64 (Nat.min v (2 ^ 64 - 1))) }
  if 2 ^ 64 ≤ v then s.reportOp o .semOverflow (BitVec.ofNat 64 n) false else s

/-- The post of a copy that names a semaphore. -/
def State.postCopy (s : State) (o : Op) (sem : Option Nat) (amount : Nat) : State :=
  match sem with
  | some n => s.postSem o o.core n amount
  | none => s

/-! ## Units on this chip and on others -/

/-- A unit of a pattern on another chip: its number, chip, die and core as one number, and offset. -/
structure FarUnit where
  unit : Nat
  chip : BitVec 10
  core : Nat
  off : Nat

/-- Where a unit of an operation's pattern lies, for its issuer. -/
def State.unitAt (s : State) (o : Op) (acc : Access) (p : Pattern) (u : Nat) : Except PtrFault Place :=
  let s := { s with cur := o.issuer }
  s.placeLive (place s acc p.unit 4 (p.unitAddr u))

/-- The units on other chips below a unit number. -/
def State.farUnits (s : State) (o : Op) (acc : Access) (p : Pattern) (n : Nat) : List FarUnit :=
  (List.range n).filterMap (fun u =>
    match s.unitAt o acc p u with
    | .ok (.remote chip die core off) => some ⟨u, chip, die * 64 + core, off⟩
    | _ => none)

/-- The first unit below a number that its target refuses. -/
def State.refusedUnit (s : State) (o : Op) (acc : Access) (p : Pattern) (n : Nat) : Option PtrFault :=
  (List.range n).findSome? (fun u =>
    match s.unitAt o acc p u with
    | .error f => some f
    | .ok _ => none)

/-- One unit written at its place on this chip. -/
def State.putUnit (o : Op) (p : Pattern) (bytes : Nat → List Byte) (s : State) (u : Nat) : State :=
  match s.unitAt o .patWrite p u with
  | .ok (.ls c off) => { s with mem := Memory.writeBytes s.mem (lsKey c off) (bytes u) }
  | _ => s

/-- A part of a copy that goes to another chip, as an operation of its own; the copy's parts are of one instruction. -/
def State.spawn (s : State) (o : Op) (kind : OpKind) : State × Nat :=
  let id := s.nextOp
  (s.pushOp
    { o with
      id := id, parent := none, cls := .uncounted, preds := [], phase := .sent, taken := [], counts := (BitVec.ofNat 64 o.id, 0, 0)
      maps := [], buf := [], kind := kind }, id)

/-- The word of a unit that a chip's element carries: its place in the pattern, its offset and its value. -/
def unitWords (p : Pattern) (bytes : Nat → List Byte) (x : FarUnit) : List (Nat × Nat × Word) :=
  (List.range (p.unit / 4)).map (fun k =>
    (x.unit * (p.unit / 4) + k, x.off + 4 * k, BitVec.ofNat 64 (leNat (((bytes x.unit).drop (4 * k)).take 4))))

/-- Units to or from one core of another chip: request packets of 4-byte elements in unit order, and an operation that
lasts until they are acknowledged. (log entry 59: DEDUCED.) -/
def State.sendUnits (o : Op) (store : Bool) (p : Pattern) (bytes : Nat → List Byte) (xs : List FarUnit)
    (acc : State × List Nat) (t : BitVec 10 × Nat) : State × List Nat :=
  let mine := xs.filter (fun x => x.chip = t.1 ∧ x.core = t.2)
  let words := mine.flatMap (unitWords p bytes)
  let ptrs := words.map (fun w => (w.1, p.unitAddr (w.1 / (p.unit / 4))))
  let (s, id) := acc.1.spawn o (if store then .remoteVec t.1 none ptrs 32 false else .fetch t.1 o.id ptrs)
  let s := (reqPackets t.2 store false 32 words.length none words).foldl
    (fun s r => s.send o.ctx t.1 id false false (.req r)) s
  let seq := ((s.ctxAt o.ctx).session t.1).sendSeq - 1
  let s := { s with
    ops := s.ops.map (fun q =>
      if q.id == id then
        { q with counts := (q.counts.1, seq.setWidth 64, if store then 0 else BitVec.ofNat 64 words.length) }
      else q) }
  (s, acc.2 ++ [id])

/-- Every unit on another chip sent or asked for; the copy waits for them. -/
def State.sendFar (s : State) (o : Op) (store : Bool) (p : Pattern) (bytes : Nat → List Byte) (xs : List FarUnit) :
    State :=
  let dests := (xs.map (fun x => (x.chip, x.core))).eraseDups
  let (s, ids) := dests.foldl (State.sendUnits o store p bytes xs) (s, [])
  s.setOp { o with phase := .sent, preds := ids }

/-! ## Performing copies -/

/-- Byte `j` of a fill word's stream (R175, R178). -/
def fillByte (fill : BitVec 32) (j : Nat) : Byte := BitVec.ofNat 8 (bitsOf fill (8 * (j % 4)) 8)

/-- The bytes that a unit of an RCOPYIN receives: run bytes below the limit that the copy took, else fill bytes
(R175). -/
def State.copyBytes (s : State) (o : Op) (d : CopyDesc) (limit u : Nat) : List Byte :=
  (List.range d.pat.unit).map (fun k =>
    let j := u * d.pat.unit + k
    if d.off + j < limit then s.runByte o.ctx (handleEntry d.run) (d.off + j) else fillByte d.fill j)

/-- The bytes that a unit of an RFILL receives. -/
def fillBytes (d : CopyDesc) (u : Nat) : List Byte :=
  (List.range d.pat.unit).map (fun k => fillByte d.fill (u * d.pat.unit + k))

/-- The bytes of a unit read for an RCOPYOUT: on this chip, or as another has sent them. -/
def State.unitBytes (s : State) (o : Op) (p : Pattern) (u : Nat) : List Byte :=
  match s.unitAt o .patRead p u with
  | .ok (.ls c off) => Memory.readBytes s.mem (lsKey c off) p.unit
  | .ok (.remote _ _ _ _) =>
    (List.range (p.unit / 4)).flatMap (fun k => natLe 4 (lookupD 0 o.buf (u * (p.unit / 4) + k)).toNat)
  | _ => []

/-- A copy takes its positions and translates what it will write (R155, R327). A run that is no longer OPEN takes none: the copy ends
with RUN_STATE, deferred, tval the handle (R154). (log entry 59: DEDUCED.) -/
def State.takeCopy (s : State) (o : Op) (run : Word) (data : List Byte) : State :=
  let e := handleEntry run
  if data.isEmpty || (s.runAt o.ctx e).state == .opened then
    let r := s.runAt o.ctx e
    let (s, o) := s.takePositions (s.translated o e (r.len * r.size)) e data
    s.setOp { o with phase := .working, preds := [] }
  else (s.endOp o).reportOp o .runState run false

/-- An RCOPYOUT whose units have all been read posts and takes its positions (R176). -/
def State.copyOutRead (s : State) (o : Op) (d : CopyDesc) (sem : Option Nat) : State :=
  let data := (List.range d.pat.units).flatMap (s.unitBytes o d.pat)
  (s.postCopy o sem d.pat.total).takeCopy o d.run data

/-- An RCOPYRR takes the source's P and the destination's positions. A poisoned line ends its data; the rest of its
positions is zero (R158, R177, R179). -/
def State.copyRunStart (s : State) (o : Op) (src dst : Word) : State :=
  let e := handleEntry src
  let r := s.runAt o.ctx e
  let n := r.pub * r.size
  match s.badIn o.ctx e 0 n with
  | none => s.takeCopy o dst (s.runBytes o.ctx e 0 n)
  | some l =>
    let k := 64 * l / r.size
    (s.poisonLine o.ctx e l).takeCopy { o with counts := (0, 1, BitVec.ofNat 64 k) } dst
      (s.runBytes o.ctx e 0 (k * r.size) ++ List.replicate (n - k * r.size) 0)

/-- Whether an operation waits to go on: nothing that it spawned is in flight, and every observer sees what it wrote. -/
def State.mayGoOn (s : State) (o : Op) (p : OpPhase) : Bool := o.phase == p && s.ready o && !s.unseen o.id

/-- A copy is performed: it takes P, or reads its source and takes its positions (R175–R178). -/
def State.startCopy (s : State) (o : Op) : Option State :=
  match o.kind with
  | .copyIn d _ =>
    if s.mayStart o then
      let r := s.runAt o.ctx (handleEntry d.run)
      some (s.setOp { o with phase := .working, preds := [], counts := (BitVec.ofNat 64 (r.pub * r.size), 0, 0) })
    else none
  | .osld d _ =>
    if s.mayStart o then
      let r := s.runAt o.ctx (handleEntry d.run)
      some (s.setOp { o with phase := .working, preds := [], counts := (BitVec.ofNat 64 (r.pub * r.size), 0, 0) })
    else none
  | .fill _ _ => if s.mayStart o then some (s.setOp { o with phase := .working, preds := [] }) else none
  | .copyRun a b => if s.mayStart o then some (s.copyRunStart o a b) else none
  | .copyOut d sem =>
    if s.mayStart o then
      match s.refusedUnit o .patRead d.pat d.pat.units with
      | some f => some ((s.endOp o).reportOp o f.cause (f.tval.getD 0) false)
      | none =>
        let xs := s.farUnits o .patRead d.pat d.pat.units
        if xs.isEmpty then some (s.copyOutRead o d sem) else some (s.sendFar o false d.pat (fun _ => []) xs)
    else if s.mayGoOn o .sent then some (s.copyOutRead o d sem)
    else none
  | _ => none

/-- An RCOPYIN or RFILL of which a target has refused a unit. -/
def Op.refuseUnit (o : Op) : Op :=
  match o.kind with
  | .copyIn _ _ | .fill _ _ => if o.counts.2.1 = 0 then { o with counts := (o.counts.1, 2, o.counts.2.2) } else o
  | _ => o

/-- A part of a copy that another chip has refused, noted in the copy. -/
def State.refusePart (s : State) (id : Nat) : State :=
  { s with ops := s.ops.map (fun o => if o.phase == .sent && o.preds.contains id then o.refuseUnit else o) }

/-- The end of an RCOPYIN or RFILL: its post when every unit is written, or the poisoned unit it stopped at (R175, R178, R179).
(log entry 59: DEDUCED.) -/
def State.copyInEnd (s : State) (o : Op) (sem : Option Nat) (total : Nat) : State :=
  if o.counts.2.1 = 0 then (s.postCopy o sem total).endOp o
  else if o.counts.2.1 = 2 then s.endOp o
  else (s.endOp o).reportOp o .poison o.counts.2.2 false

/-- Units below a number written, the first refused one reported, and the copy ended once units on other chips are
acknowledged (R27, R85, R175). -/
def State.writeUnits (s : State) (o : Op) (p : Pattern) (bytes : Nat → List Byte) (n : Nat) (sem : Option Nat) : State :=
  let xs := s.farUnits o .patWrite p n
  let bad := s.refusedUnit o .patWrite p n
  let s := (List.range n).foldl (State.putUnit o p bytes) s
  let (s, o) := match bad with
    | some f => (s.reportOp o f.cause (f.tval.getD 0) false, o.refuseUnit)
    | none => (s, o)
  if xs.isEmpty && !s.late then s.copyInEnd o sem p.total else s.sendFar o true p bytes xs

/-- R179: a copy finishes its writes or its append, and posts. (log entry 59: DEDUCED.) -/
def execCopyComplete (id : Nat) (s : State) : Host.Outcome State Fault Refusal :=
  opEvent id (fun o s =>
    match o.kind with
    | .copyIn d sem =>
      if o.phase = .working then
        let e := handleEntry d.run
        let limit := o.counts.1.toNat
        match s.badIn o.ctx e d.off (Nat.min (d.off + d.pat.total) limit) with
        | none => some (s.writeUnits o d.pat (s.copyBytes o d limit) d.pat.units sem)
        | some l =>
          let n := (64 * l - d.off) / d.pat.unit
          let o := { o with counts := (o.counts.1, 1, BitVec.ofNat 64 n) }
          let s := s.poisonLine o.ctx e l
          some (s.writeUnits o d.pat (s.copyBytes o d limit) n sem)
      else if s.mayGoOn o .sent then some (s.copyInEnd o sem d.pat.total)
      else none
    | .fill d sem =>
      if o.phase = .working then some (s.writeUnits o d.pat (fillBytes d) d.pat.units sem)
      else if s.mayGoOn o .sent then some (s.copyInEnd o sem d.pat.total)
      else none
    | .copyOut _ _ =>
      match o.phase with
      | .working => some (s.driveAppend o (fun s => s))
      | .stopped c v _ => if s.ready o then some ((s.endOp o).reportOp o c v false) else none
      | _ => none
    | .copyRun _ _ =>
      if o.phase = .working then
        some (s.driveAppend o (fun s =>
          if o.counts.2.1 = 0 then s else s.reportOp o .poison o.counts.2.2 false))
      else none
    | _ => none) s

/-! ## The windowed gather (R180) -/

/-- The outstanding indices of a VLDW. -/
def State.windowIdx (s : State) (m : MReg) (n : Nat) : List Nat :=
  (List.range n).filter (fun i => (s.me.mreg m.toNat).getLsbD i)

/-- A window's elements, zero where the run's published bytes end. -/
def State.window (s : State) (e w first : Nat) : Nat → Nat
  | 0 => 0
  | n + 1 =>
    let r := s.runAt s.group.ctx e
    let x := (first + n) * w / 8
    State.window s e w first n +
      (if x + w / 8 ≤ r.pub * r.size then leNat (s.runBytes s.group.ctx e x (w / 8)) else 0) * 2 ^ (n * w)

/-- R180, VLDW. A sequencer's RUN_STATE (R197) is tested before the illegal registers, and those before R113's checks.
(log entry 57: DEDUCED.) -/
def execVldw (d a : Reg) (m : MReg) (h : HReg) (s : State) : Host.Outcome State Fault Refusal :=
  issue .stream (do
    hartOnly
    let s ← get
    if d = 0 ∨ d = 31 ∨ m = 0 then trap .illegalInstr (s.word.setWidth 64) else pure ()
    vnamed ⟨[a], [], [], [d, d + 1], [m]⟩
    let w := s.vsew
    if w = 4 then trap .illegalInstr (s.word.setWidth 64) else pure ()
    let q ← seqOf h
    let e ← checkRun (s.rs a)
    settled q 0
    let s ← get
    let c := s.group.ctx
    let wl := 16384 / w
    let idx := fun i => s.elem (d.toNat + 1) i 32
    let out := s.windowIdx m (Nat.min s.vl 512)
    match minimum? (out.map idx) with
    | none =>
      set (s.setVstart 0)
      pure .seq
    | some lo =>
      let b := lo - lo % wl
      let r := s.ctx.run e
      match s.badIn c e (b * w / 8) (Nat.min ((b + wl) * w / 8) (r.pub * r.size)) with
      | some l =>
        act (fun s => s.poisonLine c e l)
        trap .poison (BitVec.ofNat 64 (Nat.max b (64 * l * 8 / w)))
      | none =>
        let served := out.filter (fun i => decide (b ≤ idx i ∧ idx i < b + wl))
        let md := served.foldl (fun x i => setElemOf x i 1 0) (s.me.mreg m.toNat)
        let h := (s.me.setVreg d.toNat (BitVec.ofNat 16384 (s.window e w b wl))).setMreg m.toNat md
        set ((s.setMe h).setVstart 0)
        pure .seq) s

end Sys2Proof.Machine
end

