-- ==== Sys2Proof/Machine/Handles.lean ====
section
/-!
DEFINITION. The handle instructions: major 0x60 (R231–R244).
-/

namespace Sys2Proof.Machine

/-- A function whose destination is h0 is illegal (R237). -/
def notH0 (h : HReg) : M Unit := do
  let s ← get
  if h = 0 then trap .illegalInstr (s.word.setWidth 64) else pure ()

/-- The sequencer to allocate (R235): the lowest FREE one; the issuer waits while one is RETIRING. -/
def freeSequencer : M Nat := do
  let s ← get
  match s.core.freeSeqr with
  | some q => pure q
  | none =>
    if s.core.seqs.toList.any (fun x => x.state == .retiring) then throw .wait else trap .handleExhausted 0

/-- A handle register of the issuer replaced. -/
def State.setHreg (s : State) (h : HReg) (q : Option Nat) : State := s.setHregs (vecSet s.hregs h.toNat q)

/-- A sequencer's program notes a handle that it created (R88). -/
def State.noteCreated (s : State) (q : Nat) : State :=
  match s.cur with
  | .seq _ e => s.setMe (s.me.setProg e { s.me.prog e with created := (s.me.prog e).created ++ [q] })
  | _ => s

/-- A sequencer allocated and put into hd, whose old reference is dropped (R233, R234). -/
def State.newHandle (s : State) (d : HReg) (q : Nat) (scope : BitVec 3) (before : List Nat)
    (broken : Option (BitVec 10)) : State :=
  let old := vecGet none s.hregs d.toNat
  let s := s.setCore (s.core.allocSeqr q .live scope before broken s.cur.owner.key)
  let s := (s.setHreg d (some q)).noteCreated q
  match old with
  | some o => s.dropRef s.me.core o
  | none => s

/-- The unperformed operations that a handle's next operation follows (R239). -/
def State.following (s : State) (q : Nat) : List Nat := s.predsAt s.me.core q

/-- R238, HNEW. -/
def execHnew (d : HReg) (k : BitVec 5) (s : State) : Host.Outcome State Fault Refusal :=
  issue .engines (do
    notH0 d
    let q ← freeSequencer
    act (fun s => s.newHandle d q (k.setWidth 3) [] none)
    pure .seq) s

/-- A handle made from one source (R239): its scope is a function of the source's. -/
def derive1 (d a : HReg) (f : BitVec 3 → BitVec 3) (s : State) : Host.Outcome State Fault Refusal :=
  issue .engines (do
    notH0 d
    let o ← seqOf a
    let q ← freeSequencer
    act (fun s => s.newHandle d q (f (s.core.seqr o).scope) (s.following o) none)
    pure .seq) s

/-- R239, HFORK. -/
def execHfork (d a : HReg) (s : State) := derive1 d a id s

/-- R239, HSCOPE. -/
def execHscope (d a : HReg) (k : BitVec 5) (s : State) := derive1 d a (fun _ => k.setWidth 3) s

/-- The wider of two scopes (R232). -/
def wider (x y : BitVec 3) : BitVec 3 := if x.ult y then y else x

/-- R240, HJOIN. -/
def execHjoin (d a b : HReg) (s : State) : Host.Outcome State Fault Refusal :=
  issue .engines (do
    notH0 d
    let o ← seqOf a
    let p ← seqOf b
    let q ← freeSequencer
    act (fun s => s.newHandle d q (wider (s.core.seqr o).scope (s.core.seqr p).scope)
      (s.following o ++ s.following p).eraseDups none)
    pure .seq) s

/-- R241, HRET: a broken import's handle may be dropped (R244). -/
def execHret (a : HReg) (s : State) : Host.Outcome State Fault Refusal :=
  issue .engines (do
    notH0 a
    let s ← get
    match vecGet none s.hregs a.toNat with
    | none => trap .handleBad 0
    | some q =>
      set ((s.setHreg a none).dropRef s.me.core q)
      pure .seq) s

/-- R242, HWAIT: it waits for the operations that had entered when it issued, until every observer within the scope sees them. -/
def execHwait (a : HReg) (s : State) : Host.Outcome State Fault Refusal :=
  issue .engines (do
    let q ← seqOf a
    let s ← get
    let ids := s.hwait.getD ((s.core.seqr q).entered.filter s.alive)
    if s.heldUp s.cur.owner q ids then
      set (s.setHwait (some ids)).enterWait
      pure .stay
    else
      set (s.setHwait none)
      pure .seq) s

/-! ## Export and import (R231, R243, R244) -/

/-- The virtual die and core of a physical core, as the issuer's interface numbers them (R28). -/
def State.virtCore (s : State) (c : Nat) : Nat :=
  let die := s.group.die
  ((indexIn ((s.vfAt s.ctx.vf).cmap.getD die []) c).getD 0) % 64

/-- The value of an exported handle (R231). -/
def State.handleValue (s : State) (q : Nat) : Word :=
  let x := s.core.seqr q
  BitVec.ofNat 64 (s.chipId.toNat * 2 ^ 54 + s.group.die % 8 * 2 ^ 51 + s.virtCore s.me.core * 2 ^ 45 +
    q % 64 * 2 ^ 39 + x.scope.toNat * 2 ^ 36 + x.gen.toNat)

/-- R243, HEXP. -/
def execHexp (d : Reg) (a : HReg) (s : State) : Host.Outcome State Fault Refusal :=
  issue .engines (do
    named [d]
    let o ← seqOf a
    let q ← freeSequencer
    act (fun s =>
      let s := s.setCore (s.core.allocSeqr q .exported (s.core.seqr o).scope (s.following o) none s.cur.owner.key)
      s.setRs d (s.handleValue q))
    pure .seq) s

/-- Chip field of a handle value. -/
def valueChip (v : Word) : BitVec 10 := BitVec.ofNat 10 (bitsOf v 54 10)

/-- Sequencer field of a handle value. -/
def valueSeq (v : Word) : Nat := bitsOf v 39 6

/-- Scope field of a handle value. -/
def valueScope (v : Word) : BitVec 3 := BitVec.ofNat 3 (bitsOf v 36 3)

/-- Generation field of a handle value. -/
def valueGen (v : Word) : BitVec 32 := BitVec.ofNat 32 (bitsOf v 0 32)

/-- The physical core that a handle value of this chip names in the issuer's context. -/
def State.valueCore (s : State) (v : Word) : Option Nat := s.physCore s.group.ctx (bitsOf v 51 3) (bitsOf v 45 6)

/-- Whether the issuer lies within a scope of an exporting hart on a core (R232, R244). -/
def State.inScope (s : State) (scope : Nat) (owner core die : Nat) : Bool :=
  match scope with
  | 0 => owner == s.cur.owner.key
  | 1 => core == s.me.core
  | 2 => owner / 512 == s.cur.owner.group
  | 3 => die == s.group.die
  | _ => true

/-- An exported value of this chip, when it may be imported: its core. -/
def State.importable (s : State) (v : Word) : Option Nat :=
  match s.valueCore v with
  | none => none
  | some c =>
    let x := (s.coreAt c).seqr (valueSeq v)
    if x.state = .exported ∧ x.gen = valueGen v ∧
        s.inScope (valueScope v).toNat x.owner c (bitsOf v 51 3) then some c else none

/-- The exporting sequencer moves to RETIRING, or FREE (R233). -/
def State.retireExport (s : State) (c q : Nat) : State :=
  let x := (s.coreAt c).seqr q
  s.setCoreAt c ((s.coreAt c).setSeqr q ({ x with state := .retiring }.settle s.alive))

/-- An import from another chip: an operation that lasts until the exporter's DONE, or none when it has arrived.
(log entry 14: DESIGN CHOICE.) -/
def State.importRemote (s : State) (d : HReg) (q : Nat) (v : Word) : State :=
  let chip := valueChip v
  let t := s.ctx.session chip
  let s := s.setCtx (s.ctx.setSession { t with dones := t.dones.erase v, imported := t.imported ++ [v] })
  if t.dones.contains v then
    s.newHandle d q (valueScope v) [] none
  else
    let id := s.nextOp
    let s := s.pushOp { s.newOp q [] .uncounted (.imported chip v) with phase := .sent }
    s.newHandle d q (valueScope v) [id] none

/-- R244, HIMP. A value of another chip is good for one import, and the exporter decides between imports of which this chip
sees only its own (R362). -/
def execHimp (d : HReg) (a : Reg) (s : State) : Host.Outcome State Fault Refusal :=
  issue .engines (do
    notH0 d
    named [a]
    let s ← get
    let v := s.rs a
    if bitsOf v 32 4 ≠ 0 ∨ 5 < (valueScope v).toNat ∨ v = 0 then trap .handleBad v else pure ()
    if valueChip v = s.chipId then
      match s.importable v with
      | none => trap .handleBad v
      | some c =>
        let q ← freeSequencer
        act (fun s => (s.newHandle d q (valueScope v) (s.predsAt c (valueSeq v)) ((s.coreAt c).seqr (valueSeq v)).broken).retireExport
          c (valueSeq v))
        pure .seq
    else
      let here := s.ctx.sessions.any (fun t => t.chip == valueChip v && t.state == .opened && !t.imported.contains v)
      set { s with draws := s.draws + 1 }
      if valueScope v = 5 ∧ here ∧ Config.importRefused s.draws v = false then
        let q ← freeSequencer
        act (fun s => s.importRemote d q v)
        pure .seq
      else trap .handleBad v) s

end Sys2Proof.Machine
end

