-- ==== Sys2Proof/Machine/Links.lean ====
section
/-!
DEFINITION. The link instructions: major 0x74, and the start of bulk sends (R355–R363).
-/

namespace Sys2Proof.Machine

/-! ## What arrives in a local store or a run (R360, R362) -/

/-- How an arrival ended: done, refused with a cause and an index, or not to be applied before a run has room. -/
inductive Landed
  | done
  | refused (cause : Cause) (index : Word)
  | full
  deriving DecidableEq, Repr

/-- Where an arrival at a die, core and offset of a context lies, or the cause that refuses it (R27). -/
def State.landing (s : State) (c die core off n : Nat) (write : Bool) : Except Cause Nat :=
  match s.physCore c die core with
  | none => .error .badAddr
  | some k =>
    if off + n ≤ Config.lsBytes then
      match s.bankCheck c k off n write with
      | some e => .error e
      | none => .ok k
    else .error .badAddr

/-- The harts on a core of the group that holds an offset's bytes (R362). -/
def State.ownersAt (s : State) (c core off : Nat) : List HartId :=
  s.harts.filterMap (fun p =>
    let g := s.groupAt (p.1 / 512)
    let here := match indexIn g.cores core with
      | some k => g.ctx == c && decide (g.bases.getD k 0 ≤ off) && decide (off < g.bases.getD k 0 + g.range)
      | none => false
    if here && p.2.core == core then some (hartOfKey p.1) else none)

/-- A copy's post at a core for a sender elsewhere: the value saturates (R302). -/
def State.postAt (s : State) (core n amount : Nat) : State × Bool :=
  let x := s.coreAt core
  let v := (vecGet 0 x.sems n).toNat + amount
  let s := s.setCoreAt core { x with sems := vecSet x.sems n (BitVec.ofNat 64 (Nat.min v (2 ^ 64 - 1))) }
  (s, decide (2 ^ 64 ≤ v))

/-- The first aligned word, among `n` from a byte on, that the target refuses, and why (R27). -/
def State.wordRefused (s : State) (c die core off : Nat) (n : Nat) : Option (Nat × Cause) :=
  (List.range n).findSome? (fun k =>
    match s.landing c die core (off + 4 * k) 4 true with
    | .error e => some (k, e)
    | .ok _ => none)

/-- A piece of a bulk send written to a local store, word by word up to the first that is refused; the last piece posts and wakes
(R360). -/
def State.landBytes (s : State) (c : Nat) (d : DataPiece) (wake : Bool) : State × Landed :=
  let off := ptrOff d.dst + d.off
  let bad := s.wordRefused c (ptrDie d.dst) (ptrCore d.dst) off (d.bytes.length / 4)
  match bad, s.physCore c (ptrDie d.dst) (ptrCore d.dst) with
  | none, none => (s, .refused .badAddr (BitVec.ofNat 64 d.off))
  | some (n, e), k =>
    (match k with
     | some k => { s with mem := Memory.writeBytes s.mem (lsKey k off) (d.bytes.take (4 * n)) }
     | none => s, .refused e (BitVec.ofNat 64 (d.off + 4 * n)))
  | none, some k =>
    let s := { s with mem := Memory.writeBytes s.mem (lsKey k off) d.bytes }
    if d.last then
      let (s, excess) := match d.sem with
        | some n => s.postAt k n d.total
        | none => (s, false)
      let s := if wake then s.latchAll 1 (s.ownersAt c k (ptrOff d.dst)) else s
      (s, if excess then .refused .semOverflow (BitVec.ofNat 64 (d.sem.getD 0)) else .done)
    else (s, .done)

/-- The harts of a context that are bound on a physical die. -/
def State.hartsOnDie (s : State) (c die : Nat) : List HartId :=
  s.harts.filterMap (fun p =>
    if (s.groupAt (p.1 / 512)).ctx = c ∧ p.2.core / 64 = die ∧ p.2.state ≠ .saved ∧ p.2.state ≠ .halted then
      some (hartOfKey p.1)
    else none)

/-- Records appended to a run as one operation by a party that no operation here stands for; Kennel maps the extents from the home
die's pool, which it grows when it may; without pages it waits (R265, R326, R328, R360). (log entry 51: DEDUCED.) -/
def State.landRecords (s : State) (c e : Nat) (bytes : List Byte) (publish : Bool) : State × Landed :=
  let r := s.runAt c e
  let n := bytes.length / r.size
  let need := (r.len + n) * r.size
  let r' := if r.host then r else r.grown need
  if r'.capacity < need then (s, .full)
  else
    match s.supply c r.home (r'.units - r.units) with
    | .error _ => (s, .full)
    | .ok s =>
      let s := s.mapRun c e { r' with len := r.len + n }
      let a := r.len * r.size
      match s.wholeRecords c e a r.size (n + 1) n with
      | (s, k, some _) =>
        let s := (s.cleanRange c e a (a + k * r.size)).putRunBytes c e a (bytes.take (k * r.size))
        (s.zeroFill c e (a + k * r.size) (a + bytes.length), .refused .poison (BitVec.ofNat 64 k))
      | (s, _, none) =>
        let s := (s.cleanRange c e a (a + bytes.length)).putRunBytes c e a bytes
        (if publish then s.publish c e else s, .done)

/-- The whole of a bulk send appended to a run (R360). (log entry 51: DEDUCED.) -/
def State.landRun (s : State) (c : Nat) (run : Word) (bytes : List Byte) (publish wake : Bool) : State × Landed :=
  let x := s.ctxAt c
  let e := handleEntry run
  let r := x.run e
  if !runHandleOk s x run then (s, .refused .runHandle 0)
  else if r.state ≠ .opened ∨ e < 2 ∨ bytes.length % r.size ≠ 0 then (s, .refused .runState 0)
  else
    match s.landRecords c e bytes publish with
    | (s, .done) => (if wake then s.latchAll 1 (s.hartsOnDie c r.home) else s, .done)
    | out => out

/-- A note written to its word: the harts of the group that owns it wake (R362). -/
def State.landNote (s : State) (c : Nat) (p v : Word) : State × Landed :=
  match s.landing c (ptrDie p) (ptrCore p) (ptrOff p) 8 true with
  | .error e => (s, .refused e p)
  | .ok k =>
    let s := { s with mem := Memory.writeBytes s.mem (lsKey k (ptrOff p)) (natLe 8 v.toNat) }
    (s.latchAll 1 (s.ownersAt c k (ptrOff p)), .done)

/-! ## Checks of pointers (R359) -/

/-- A chip whose session is GONE traps precisely. -/
def sessionLive (chip : BitVec 10) : M Unit := do
  let s ← get
  if s.gone chip then trap .peerGone (chip.setWidth 64) else pure ()

/-- A space-7 pointer for a store of `n` bytes, checked under R26 and then for its session. -/
def farPointer (p : Word) (n al : Nat) : M (Except PtrFault Place) := do
  let s ← get
  if ptrSpace p = 7 then pure () else trap .badSpace p
  match place s .store n al p with
  | .error f => if f.late then pure (.error f) else trap f.cause (f.word s)
  | .ok pl =>
    sessionLive (ptrChip p)
    pure (.ok pl)

/-- A pointer of which only the chip and die count (R361). -/
def farDie (p : Word) : M Unit := do
  let s ← get
  if ptrSpace p = 7 then pure () else trap .badSpace p
  let chip := ptrChip p
  if chip = s.chipId then
    (if (s.ctx.part.getD (ptrDie p) []).isEmpty then trap .badAddr p else pure ())
  else if s.ctx.sessions.any (fun t => t.chip == chip && t.state != .closed) then sessionLive chip
  else trap .badAddr p

/-! ## Bulk sends (R360) -/

/-- The fields of an XSEND's descriptor (R360). -/
def sendDesc (bs : List Byte) (ticket : Option (BitVec 32)) : SendDesc :=
  let sem := descField bs 20 4
  let flags := descField bs 24 4
  ⟨descWord bs 0, descWord bs 8, descField bs 16 4, if sem < 64 then some sem else none, flags % 2 == 1, decide (2 ≤ flags),
    ticket⟩

/-- Check 2 of R360. -/
def sendOk (bs : List Byte) : Bool :=
  let b := descField bs 16 4
  let sem := descField bs 20 4
  let flags := descField bs 24 4
  let run := ptrSpace (descWord bs 0) == 5
  decide (4 ≤ b ∧ b ≤ 2 ^ 24 ∧ b % 4 = 0) && (sem == 2 ^ 32 - 1 || (decide (sem < 64) && !run)) &&
    (decide (flags < 2) || (decide (flags < 4) && run)) && descField bs 28 4 == 0

/-- Check 4 of R360: a destination run. What the peer's run table holds is free. (log entry 13: DESIGN CHOICE.) -/
def sendRun (w : Word) (b : Nat) : M Unit := do
  let s ← get
  let chip := ptrChip w
  if chip = s.chipId then
    let e ← checkRun w
    let r := s.ctx.run e
    if r.state ≠ .opened ∨ e < 2 ∨ b % r.size ≠ 0 then trap .runState w else pure ()
  else
    sessionLive chip
    if bitsOf w 42 8 ≠ 0 ∨ s.ctx.sessions.all (fun t => t.chip != chip || t.state != .opened) then trap .runHandle w
    else pure ()
    if handleEntry w < 2 then
      if bitsOf w 18 24 ≠ 1 then trap .runHandle w
      else if handleEntry w = 1 ∧ s.me.priv = .p then trap .privilege w
      else trap .runState w
    else
      set { s with draws := s.draws + 1 }
      match Config.peerRun s.draws w with
      | none => trap .runHandle w
      | some (opened, size) => if !opened || b % size != 0 then trap .runState w else pure ()

/-- A ticket that the issuer's hart holds at a chip's die; any die where a run names none (R361). -/
def Hart.ticketAt (h : Hart) (chip : BitVec 10) (die : Option Nat) (n : Word) : Option Held :=
  h.tickets.find? (fun t => t.chip == chip && (die.map (· == t.die)).getD true && t.number.setWidth 64 == n)

/-- The die of a send's destination (R361): the pointer's, or the run's home die, which this chip knows of its own runs. -/
def State.sendDie (s : State) (d : SendDesc) : Option Nat :=
  if ptrSpace d.dst = 5 then (if ptrChip d.dst = s.chipId then some (s.ctx.run (handleEntry d.dst)).home else none)
  else some (ptrDie d.dst)

/-- Check 5 of R360: a ticket whose request was larger than the share traps; one cancelled since is reported when the send
finds it (R361). -/
def sendTicket (chip : BitVec 10) (die : Option Nat) (n : Word) : M (Option (BitVec 32)) := do
  let s ← get
  if n = BitVec.allOnes 64 then pure none
  else
    match s.me.ticketAt chip die n with
    | none => trap .ticketCancelled n
    | some t =>
      if t.lost then trap .peerGone (chip.setWidth 64)
      else if t.cancelled && !t.called then trap .ticketCancelled n
      else pure (some t.number)

/-- R360, XSEND: issued as one operation, which COPY_PERFORMED starts. -/
def execXsend (a b : Reg) (h : HReg) (s : State) : Host.Outcome State Fault Refusal :=
  issue .hart (do
    named [a, b]
    let q ← seqOf h
    let s ← get
    let bs ← readDesc (s.rs a) 32
    if sendOk bs then pure () else trap .runState 0
    let d := sendDesc bs none
    match place s .table d.bytes 1 d.src with
    | .error f => if f.late then pure () else trap f.cause (f.word s)
    | .ok _ => pure ()
    let run := ptrSpace d.dst == 5
    if run then sendRun d.dst d.bytes
    else
      let _ ← farPointer d.dst d.bytes 4
    let chip := ptrChip d.dst
    let t ← sendTicket chip (s.sendDie d) (s.rs b)
    act (fun s =>
      let id := s.nextOp
      let s := s.addOp q .copy (.send { d with ticket := t } chip)
      { s with ops := s.ops.map (fun o => if o.id == id then { o with counts := (BitVec.ofNat 64 id, 0, 0) } else o) })
    pure .seq) s

/-- What an operation to another chip, or a send, still waits for: earlier operations to the same session apart, what
precedes it (R356). -/
def State.mayStartSend (s : State) (o : Op) (chip : BitVec 10) : Bool :=
  o.phase == .queued && (if chip = s.chipId then s.ready o else s.sentTo o.preds chip)

/-- A held ticket of a hart replaced, or given up. -/
def Hart.setHeld (h : Hart) (chip : BitVec 10) (die : Nat) (n : BitVec 32) (f : Held → Option Held) : Hart :=
  { h with
    tickets := h.tickets.filterMap (fun t => if t.chip = chip ∧ t.die = die ∧ t.number = n then f t else some t) }

/-- The dispenser of a context on a die (R361). -/
def Ctx.dispenser (x : Ctx) (die : Nat) : Dispenser := lookupD ⟨0, 0, []⟩ x.tickets die

/-- The state with a dispenser replaced. -/
def State.setDispenser (s : State) (c die : Nat) (d : Dispenser) : State :=
  s.setCtxAt c { s.ctxAt c with tickets := insertKey (s.ctxAt c).tickets die d }

/-- The pieces of a bulk send: bodies of at most 4096 bytes (R352, R360). (log entry 49: DEDUCED.) -/
def sendPieces (d : SendDesc) (bytes : List Byte) : List DataPiece :=
  let ps := piecesOf 4080 bytes.length bytes
  (List.range ps.length).map (fun k =>
    { dst := d.dst, off := 4080 * k, bytes := ps.getD k [], last := k + 1 == ps.length, total := d.bytes, sem := d.sem,
      ticket := d.ticket })
where
  /-- Pieces of `n` bytes, with fuel. -/
  piecesOf (n : Nat) : Nat → List Byte → List (List Byte)
    | 0, _ => []
    | f + 1, l => if l.isEmpty then [] else l.take n :: piecesOf n f (l.drop n)

/-- A send whose source has been read: messages to another chip, or its effect on this one. -/
def State.startSend (s : State) (o : Op) (d : SendDesc) (chip : BitVec 10) (bytes : List Byte) : Option State :=
  if chip = s.chipId then
    let out := if ptrSpace d.dst = 5 then s.landRun o.ctx d.dst bytes d.publish d.wake
      else s.landBytes o.ctx ⟨d.dst, 0, bytes, true, d.bytes, d.sem, none⟩ d.wake
    match out with
    | (s, .done) => some (s.endOp o)
    | (s, .refused c v) => some ((s.endOp o).reportOp o c v false)
    | (_, .full) => none
  else
    let s := (sendPieces d bytes).foldl
      (fun s p => s.send o.ctx chip o.id (d.wake && p.last) (d.publish && p.last) (.data p)) s
    some (s.setOp { o with phase := .sent, preds := [] })

/-- A send's ticket as its hart holds it. (log entry 34: DEDUCED.) -/
def State.sendTicketOf (s : State) (o : Op) (d : SendDesc) (chip : BitVec 10) : Option Held :=
  match d.ticket with
  | none => none
  | some n =>
    (s.hart o.issuer.owner).ticketAt chip (({ s with cur := o.issuer } : State).sendDie d) (n.setWidth 64)

/-- A ticket of this chip's own dispenser consumed. -/
def State.consumeOwn (s : State) (c : Nat) (t : Held) : State :=
  let x := (s.ctxAt c).dispenser t.die
  s.setDispenser c t.die { x with tickets := x.tickets.filter (fun k => k.number != t.number) }

/-- A bulk send begins: with a ticket, once it has been called. A cancelled ticket sends nothing (R361).
(log entry 51: DEDUCED.) -/
def State.performSend (s : State) (o : Op) (d : SendDesc) (chip : BitVec 10) : Option State :=
  let h := o.issuer.owner
  let go := fun (s : State) =>
    match ({ s with cur := o.issuer } : State).placeLive (place { s with cur := o.issuer } .table d.bytes 1 d.src) with
    | .error f => some ((s.endOp o).reportOp o f.cause 0 false)
    | .ok pl => s.startSend o d chip (Memory.readBytes s.mem pl.key d.bytes)
  match d.ticket, s.sendTicketOf o d chip with
  | none, _ => go s
  | some n, none => some ((s.endOp o).reportOp o .ticketCancelled (n.setWidth 64) false)
  | some n, some t =>
    let drop := fun (s : State) => s.setHart h ((s.hart h).setHeld t.chip t.die t.number (fun _ => none))
    if t.cancelled then some (((drop s).endOp o).reportOp o .ticketCancelled (n.setWidth 64) false)
    else if t.called then
      match go (if chip = s.chipId then s.consumeOwn o.ctx t else s) with
      | some s => some (drop s)
      | none => none
    else none

/-- R175–R178, R227, R360: a copy, a fill, an OSLD or a bulk send is performed after what precedes it. -/
def execCopyPerformed (id : Nat) (s : State) : Host.Outcome State Fault Refusal :=
  opEvent id (fun o s =>
    match o.kind with
    | .send d chip => if s.mayStartSend o chip then s.performSend o d chip else none
    | _ => s.startCopy o) s

/-! ## Tickets (R361) -/

/-- A ticket taken at a dispenser: its number, and whether it is cancelled at once.
(log entry 15: DESIGN CHOICE; log entry 50: DEDUCED.) -/
def State.takeTicket (s : State) (c die : Nat) (chip : BitVec 10) (tag : BitVec 32) (bytes : Nat) :
    State × BitVec 32 × Bool :=
  let x := (s.ctxAt c).dispenser die
  let n := slotsOf bytes
  let excess := decide (Nat.min Config.recvSlots (Config.recvShare c die) < n)
  let t : Ticket := ⟨x.next, chip, tag, n, false, false⟩
  (s.setDispenser c die { x with next := x.next + 1, tickets := if excess then x.tickets else x.tickets ++ [t] }, x.next, excess)

/-- Tickets that a hart holds, and those on their way to it. -/
def State.heldTickets (s : State) (h : HartId) : Nat :=
  (s.hart h).tickets.length + (s.ops.filter (fun o => o.issuer == .hart h && (match o.kind with
    | .ticket _ _ _ => true
    | .late x => o.phase == .queued && major x.word == 0x74 && x.word.toNat / 2 ^ 26 == 1
    | _ => false))).length

/-- R361, XTICKET. (log entry 50: DEDUCED.) -/
def execXticket (d a b : Reg) (h : HReg) (s : State) : Host.Outcome State Fault Refusal :=
  issue .hart (do
    named [d, a, b]
    let q ← seqOf h
    let s ← get
    let p := s.rs a
    farDie p
    if s.cur = .hart s.cur.owner ∧ 16 ≤ s.heldTickets s.cur.owner then trap .ticketCancelled 0xFFFF_FFFF else pure ()
    let chip := ptrChip p
    let n := (s.rs b).toNat
    if chip = s.chipId then
      ready (.of q .load (some d))
      let (s, t, excess) := s.takeTicket s.group.ctx (ptrDie p) chip (BitVec.ofNat 32 s.cur.owner.key) n
      let held : Held := ⟨chip, ptrDie p, t, false, excess, false⟩
      set ((s.setMe { s.me with tickets := s.me.tickets ++ [held] }).setRs d (t.setWidth 64))
    else
      ready (.far q .load (some d) chip)
      act (fun s =>
        let s := s.addRemote q .load (.ticket chip (ptrDie p) d) s.nextOp
        (s.send s.group.ctx chip s.lastOp false false (.tkreq (ptrDie p) n none)).markPending d)
    pure .seq) s

/-- R361, XTKWAIT. (log entry 50: DEDUCED.) -/
def execXtkwait (a b : Reg) (h : HReg) (s : State) : Host.Outcome State Fault Refusal :=
  issue .hart (do
    named [a, b]
    let _ ← seqOf h
    let s ← get
    let p := s.rs a
    farDie p
    match s.me.ticketAt (ptrChip p) (some (ptrDie p)) (s.rs b) with
    | none => trap .ticketCancelled (s.rs b)
    | some t =>
      if t.lost then trap .peerGone ((ptrChip p).setWidth 64)
      else if t.cancelled then trap .ticketCancelled (s.rs b)
      else if t.called then pure .seq
      else throw .wait) s

/-! ## Notes and handle passes (R362) -/

/-- A value delivered to a remote word, as one operation under hN. -/
def deliverNote (q : Nat) (p v : Word) (pass : Bool) : M Unit := do
  match ← farPointer p 8 8 with
  | .error f =>
    ready (.of q .store none)
    act (fun s => s.report s.cur f.cause p (BitVec.ofNat 32 s.pc.toNat) false)
  | .ok (.remote chip _ _ _) =>
    ready (.far q .store none chip)
    act (fun s =>
      let s := s.addRemote q .store (.remote chip none) s.nextOp
      s.send s.group.ctx chip s.lastOp true false (.note p v pass))
  | .ok _ =>
    ready (.of q .store none)
    act (fun s => (s.landNote s.group.ctx p v).1)

/-- R362, XNOTE. -/
def execXnote (a b : Reg) (h : HReg) (s : State) : Host.Outcome State Fault Refusal :=
  issue .hart (do
    named [a, b]
    let q ← seqOf h
    let s ← get
    deliverNote q (s.rs a) (s.rs b) false
    pure .seq) s

/-- Whether a value names a sequencer of the issuing core that is EXPORTED with that generation (R362). -/
def State.exportedHere (s : State) (v : Word) : Bool :=
  (s.core.seqr (valueSeq v)).state == .exported && s.handleValue (valueSeq v) == v

/-- R362, XPASS. Its value is checked at issue and not again. -/
def execXpass (a b : Reg) (h : HReg) (s : State) : Host.Outcome State Fault Refusal :=
  issue .hart (do
    named [a, b]
    let q ← seqOf h
    let s ← get
    let _ ← farPointer (s.rs a) 8 8
    let issued := match s.cur with
      | .late _ _ => true
      | _ => false
    if issued || s.exportedHere (s.rs b) then pure () else trap .handleBad (s.rs b)
    deliverNote q (s.rs a) (s.rs b) true
    pure .seq) s

/-! ## Queries (R363) -/

/-- Whether a hart waits in an XTKWAIT for a ticket at a chip. (log entry 50: DEDUCED.) -/
def State.waitsTicket (s : State) (chip : BitVec 10) (h : HartId) : Bool :=
  let t := { s with cur := .hart h }
  let w := t.codeWord t.me.pc.toNat
  t.me.state == .wait && major w == 0x74 && w.toNat / 2 ^ 26 == 2 &&
    ptrChip (t.rs (BitVec.ofNat 5 (w.toNat / 2 ^ 16 % 32))) == chip

/-- Harts of the issuer's core and context that wait in an XTKWAIT for a ticket at a chip. -/
def State.ticketWaits (s : State) (chip : BitVec 10) : Nat :=
  (s.harts.filter (fun p =>
    p.2.core == s.me.core && (s.groupAt (p.1 / 512)).ctx == s.group.ctx && s.waitsTicket chip (hartOfKey p.1))).length

/-- Operations to a chip issued from the issuer's core: every request, train and message of an operation counts once, and so does an
instruction that has issued and sent nothing yet (R363). -/
def State.farOps (s : State) (chip : BitVec 10) : Nat :=
  (s.ops.filter (fun o => o.ctx == s.group.ctx && o.core == s.me.core && o.addresses chip)).length +
    s.ticketWaits chip

/-- One bit for each station in a state. -/
def State.stationBits (s : State) (x : LinkState) : Nat :=
  (((List.range 16).filter (fun k => (vecGet Station.reset s.stations k).state == x)).map (2 ^ ·)).sum

/-- XQUERY's table. -/
def State.linkInfo (s : State) (chip : BitVec 10) (sel : Word) : Word :=
  match sel.toNat with
  | 0 =>
    match (s.ctx.session chip).state with
    | .closed => 0
    | .opened => 1
    | .gone => 2
  | 1 => s.chipId.setWidth 64
  | 2 => BitVec.ofNat 64 (s.stationBits .narrow * 2 ^ 16 + s.stationBits .up)
  | 3 => BitVec.ofNat 64 (Nat.min 16 s.me.tickets.length)
  | 4 => BitVec.ofNat 64 (s.farOps chip)
  | _ => 0

/-- R363, XQUERY. -/
def execXquery (d a b : Reg) (s : State) : Host.Outcome State Fault Refusal :=
  issue .hart (do
    named [d, a, b]
    let s ← get
    let c := s.rs a
    set (s.setRs d (if bitsOf c 10 54 ≠ 0 then 0 else s.linkInfo (c.setWidth 10) (s.rs b)))
    pure .seq) s

end Sys2Proof.Machine
end

