-- ==== Sys2Proof/Machine/Flags.lean ====
section
/-!
DEFINITION. The flags of fflags (R55).
-/

namespace Sys2Proof.Machine

/-- Flags of one result, by the bits of R55. -/
abbrev FFlags := BitVec 5

/-- A rounded result differs from the exact value. -/
def flagNX : FFlags := 1

/-- A result is tiny and inexact. -/
def flagUF : FFlags := 2

/-- A result overflows or is saturated. -/
def flagOF : FFlags := 4

/-- A finite nonzero value divided by zero. -/
def flagDZ : FFlags := 8

/-- An invalid operation. -/
def flagNV : FFlags := 16

/-- Flags that a condition raises. -/
def flagIf (c : Bool) (f : FFlags) : FFlags := if c then f else 0

end Sys2Proof.Machine
end

