-- ==== Sys2Proof/Machine/Float.lean ====
section
/-!
DEFINITION. Floating-point formats, exact values, the single rounding of R52 and R53, and the functions of R47, R54 and
R58. Everything is exact over naturals until one rounding.
-/

namespace Sys2Proof.Machine

/-- What a format keeps beside numbers: infinities and NaNs, one NaN code, or neither (R46). -/
inductive FKind | ieee | oneNan | finite
  deriving DecidableEq, Repr

/-- A floating-point format (R46). `top` is the code of its largest finite value, `nan` its canonical NaN (R47). -/
structure Fmt where
  width : Nat
  exp : Nat
  frac : Nat
  bias : Nat
  kind : FKind
  top : Nat
  nan : Nat
  deriving DecidableEq, Repr

/-- binary64. -/
def f64 : Fmt := ⟨64, 11, 52, 1023, .ieee, 0x7FEF_FFFF_FFFF_FFFF, 0x7FF8_0000_0000_0000⟩

/-- binary32. -/
def f32 : Fmt := ⟨32, 8, 23, 127, .ieee, 0x7F7F_FFFF, 0x7FC0_0000⟩

/-- binary16. -/
def f16 : Fmt := ⟨16, 5, 10, 15, .ieee, 0x7BFF, 0x7E00⟩

/-- The top half of binary32. -/
def bf16 : Fmt := ⟨16, 8, 7, 127, .ieee, 0x7F7F, 0x7FC0⟩

/-- OCP e5m2. -/
def e5m2 : Fmt := ⟨8, 5, 2, 15, .ieee, 0x7B, 0x7F⟩

/-- OCP e4m3. -/
def e4m3 : Fmt := ⟨8, 4, 3, 7, .oneNan, 0x7E, 0x7F⟩

/-- OCP e2m1. -/
def e2m1 : Fmt := ⟨4, 2, 1, 1, .finite, 0x7, 0⟩

/-- A value: a NaN, an infinity, or the exact number ± m × 2^e. -/
inductive FVal
  | nan (signalling : Bool)
  | inf (neg : Bool)
  | num (neg : Bool) (m : Nat) (e : Int)
  deriving DecidableEq, Repr

/-- Rounding modes (R51). -/
inductive RMode | rne | rz | rd | ru | sr
  deriving DecidableEq, Repr

/-- The mode of a frm value (R51). -/
def RMode.ofFrm (x : BitVec 2) : RMode :=
  match x.toNat with
  | 0 => .rne
  | 1 => .rz
  | 2 => .rd
  | _ => .ru

/-- The sign bit of a code. -/
def Fmt.neg (f : Fmt) (x : Nat) : Bool := x / 2 ^ (f.width - 1) % 2 == 1

/-- The code of a zero. -/
def Fmt.zero (f : Fmt) (neg : Bool) : Nat := if neg then 2 ^ (f.width - 1) else 0

/-- The code with its magnitude given. -/
def Fmt.signed (f : Fmt) (neg : Bool) (mag : Nat) : Nat := if neg then 2 ^ (f.width - 1) + mag else mag

/-- The code of an infinity, or the largest finite value where the format has none. -/
def Fmt.infinity (f : Fmt) (neg : Bool) : Nat :=
  match f.kind with
  | .ieee => f.signed neg (f.top + 1)
  | _ => f.signed neg f.top

/-- The value of a code (R46). -/
def Fmt.decode (f : Fmt) (x : Nat) : FVal :=
  let neg := f.neg x
  let ex := x / 2 ^ f.frac % 2 ^ f.exp
  let fr := x % 2 ^ f.frac
  let low : Int := 1 - (f.bias : Int) - (f.frac : Int)
  match f.kind with
  | .ieee =>
    if ex = 2 ^ f.exp - 1 then (if fr = 0 then .inf neg else .nan (fr / 2 ^ (f.frac - 1) == 0))
    else if ex = 0 then .num neg fr low
    else .num neg (2 ^ f.frac + fr) (low + ex - 1)
  | .oneNan =>
    if x % 2 ^ (f.width - 1) = 2 ^ (f.width - 1) - 1 then .nan false
    else if ex = 0 then .num neg fr low
    else .num neg (2 ^ f.frac + fr) (low + ex - 1)
  | .finite =>
    if ex = 0 then .num neg fr low else .num neg (2 ^ f.frac + fr) (low + ex - 1)

/-- Number of bits of a natural. -/
def bitLen (n : Nat) : Nat := if n = 0 then 0 else Nat.log2 n + 1

/-- Whether rounding moves a magnitude up from `lo`, by the remainder out of 2^sh and what lies below it. -/
def roundsUp (mode : RMode) (neg : Bool) (lo rem sh : Nat) (sticky : Bool) (draw : Nat) : Bool :=
  let inexact := rem != 0 || sticky
  match mode with
  | .rne => decide (2 * rem > 2 ^ sh) || (2 * rem == 2 ^ sh && (sticky || lo % 2 == 1))
  | .rz => false
  | .rd => neg && inexact
  | .ru => !neg && inexact
  | .sr => decide (draw < rem * 65536 / 2 ^ sh)

/-- A magnitude m × 2^e (and something more when `sticky`) rounded at the bit of weight 2^q: the significand, whether
it is inexact. -/
def roundAt (mode : RMode) (neg : Bool) (m : Nat) (e q : Int) (sticky : Bool) (draw : Nat) : Nat × Bool :=
  if q ≤ e then (m * 2 ^ (e - q).toNat, sticky)
  else
    let sh := (q - e).toNat
    let lo := m / 2 ^ sh
    let rem := m % 2 ^ sh
    (if roundsUp mode neg lo rem sh sticky draw then lo + 1 else lo, rem != 0 || sticky)

/-- The magnitude code of significand `sig` at the bit of weight 2^q, exponent unbounded above. -/
def Fmt.pack (f : Fmt) (sig : Nat) (q : Int) : Nat :=
  let low : Int := 1 - (f.bias : Int) - (f.frac : Int)
  if sig < 2 ^ f.frac then sig
  else if 2 ^ (f.frac + 1) ≤ sig then ((q - low).toNat + 2) * 2 ^ f.frac + (sig / 2 - 2 ^ f.frac)
  else ((q - low).toNat + 1) * 2 ^ f.frac + (sig - 2 ^ f.frac)

/-- What overflow gives (R52): an infinity or the largest finite value by mode, always the latter without infinities. -/
def Fmt.overflow (f : Fmt) (mode : RMode) (neg : Bool) : Nat :=
  match f.kind, mode with
  | .ieee, .rne | .ieee, .sr => f.infinity neg
  | .ieee, .rd => if neg then f.infinity neg else f.signed neg f.top
  | .ieee, .ru => if neg then f.signed neg f.top else f.infinity neg
  | _, _ => f.signed neg f.top

/-- RN(x, mode) of R52 for a nonzero exact magnitude: the code and its flags. Tininess is judged after rounding. Above
the largest finite value stochastic rounding is RNE (R53). (log entry 62: DEDUCED.) -/
def Fmt.round (f : Fmt) (mode : RMode) (neg : Bool) (m : Nat) (e : Int) (sticky : Bool) (draw : Nat) : Nat × FFlags :=
  let low : Int := 1 - (f.bias : Int) - (f.frac : Int)
  let top : Int := e + (bitLen m : Int) - 1
  let q := max (top - f.frac) low
  let topVal := f.decode f.top
  let mode := match mode, topVal with
    | .sr, .num _ tm te =>
      let d := max 0 (te - e)
      if m * 2 ^ (e - te).toNat > tm * 2 ^ d.toNat || (m * 2 ^ (e - te).toNat == tm * 2 ^ d.toNat && sticky) then RMode.rne
      else RMode.sr
    | mode, _ => mode
  let (sig, inexact) := roundAt mode neg m e q sticky draw
  let code := f.pack sig q
  let free := roundAt mode neg m e (top - f.frac) sticky draw
  let tiny := decide (top < low + f.frac - 1) || (top == low + f.frac - 1 && decide (free.1 < 2 ^ (f.frac + 1)))
  if f.top < code then (f.overflow mode neg, flagOF ||| flagNX)
  else (f.signed neg code, flagIf inexact flagNX ||| flagIf (tiny && inexact) flagUF)

/-- A value rounded to a format (R52): NaN becomes the canonical NaN, or +0 with NV in e2m1. -/
def Fmt.ofVal (f : Fmt) (mode : RMode) (v : FVal) (draw : Nat) : Nat × FFlags :=
  match v with
  | .nan s => (f.nan, flagIf (s || f.kind == .finite) flagNV)
  | .inf neg =>
    match f.kind with
    | .ieee => (f.infinity neg, 0)
    | _ => (f.signed neg f.top, flagOF ||| flagNX)
  | .num neg m e => if m = 0 then (f.zero neg, 0) else f.round mode neg m e false draw

/-! ## Exact sums -/

/-- The least exponent of a list of numbers. -/
def minExp : List FVal → Int → Int
  | [], a => a
  | .num _ m e :: t, a => minExp t (if m = 0 then a else min a e)
  | _ :: t, a => minExp t a

/-- The exact sum of numbers as an integer at an exponent at or below all of theirs. -/
def sumAt (e0 : Int) : List FVal → Int
  | [] => 0
  | .num neg m e :: t =>
    (if neg then -((m * 2 ^ (e - e0).toNat : Nat) : Int) else ((m * 2 ^ (e - e0).toNat : Nat) : Int)) + sumAt e0 t
  | _ :: t => sumAt e0 t

/-- Whether a value is a signalling NaN. -/
def FVal.signals : FVal → Bool
  | .nan s => s
  | _ => false

/-- Whether a value is a NaN. -/
def FVal.isNan : FVal → Bool
  | .nan _ => true
  | _ => false

/-- Whether a value is an infinity of a sign. -/
def FVal.isInf (v : FVal) (neg : Bool) : Bool :=
  match v with
  | .inf n => n == neg
  | _ => false

/-- Whether a value is a zero of a sign. -/
def FVal.isZero (v : FVal) (neg : Bool) : Bool :=
  match v with
  | .num n m _ => n == neg && m == 0
  | _ => false

/-- The exact sum of terms, rounded once (R52): NaN when a term is one or infinities meet. -/
def Fmt.sum (f : Fmt) (mode : RMode) (ts : List FVal) : Nat × FFlags :=
  if ts.any FVal.isNan then (f.nan, flagIf (ts.any FVal.signals) flagNV)
  else if ts.any (·.isInf false) then (if ts.any (·.isInf true) then (f.nan, flagNV) else (f.infinity false, 0))
  else if ts.any (·.isInf true) then (f.infinity true, 0)
  else
    let e0 := minExp ts 0
    let total := sumAt e0 ts
    if total = 0 then
      (if ts.all (·.isZero true) then f.zero true
       else if ts.all (·.isZero false) then f.zero false
       else f.zero (mode == .rd), 0)
    else f.round mode (decide (total < 0)) total.natAbs e0 false 0

/-- A value with its sign changed. -/
def FVal.negate : FVal → FVal
  | .nan s => .nan s
  | .inf n => .inf (!n)
  | .num n m e => .num (!n) m e

/-- An exact product; ∞ × 0 is a NaN, with NV. -/
def FVal.mul (a b : FVal) : FVal × FFlags :=
  match a, b with
  | .nan s, .nan t => (.nan (s || t), flagIf (s || t) flagNV)
  | .nan s, _ | _, .nan s => (.nan s, flagIf s flagNV)
  | .inf n, .inf k => (.inf (n != k), 0)
  | .inf n, .num k m _ | .num k m _, .inf n => if m = 0 then (.nan false, flagNV) else (.inf (n != k), 0)
  | .num n m e, .num k l d => (.num (n != k) (m * l) (e + d), 0)

/-- a × b, rounded once. -/
def Fmt.mul (f : Fmt) (mode : RMode) (a b : FVal) : Nat × FFlags :=
  let p := a.mul b
  let r := f.ofVal mode p.1 0
  (r.1, r.2 ||| p.2)

/-- a × b + c, rounded once (R58). A product of 0 and infinity raises NV beside a quiet NaN too. (log entry 62: DEDUCED.) -/
def Fmt.fma (f : Fmt) (mode : RMode) (a b c : FVal) : Nat × FFlags :=
  let p := a.mul b
  let r := f.sum mode [p.1, c]
  (r.1, r.2 ||| p.2)

/-- a / b, rounded once (R58). The quotient is taken to 160 bits past the divisor's. -/
def Fmt.div (f : Fmt) (mode : RMode) (a b : FVal) (draw : Nat) : Nat × FFlags :=
  match a, b with
  | .nan s, .nan t => (f.nan, flagIf (s || t) flagNV)
  | .nan s, _ | _, .nan s => (f.nan, flagIf s flagNV)
  | .inf _, .inf _ => (f.nan, flagNV)
  | .inf n, .num k _ _ => (f.infinity (n != k), 0)
  | .num n _ _, .inf k => (f.zero (n != k), 0)
  | .num n m e, .num k l d =>
    if l = 0 then (if m = 0 then (f.nan, flagNV) else (f.infinity (n != k), flagDZ))
    else if m = 0 then (f.zero (n != k), 0)
    else
      let sh := bitLen l + 160
      let x := m * 2 ^ sh
      f.round mode (n != k) (x / l) (e - d - sh) (x % l != 0) draw

/-- The integer square root, one bit at a time from the given bit down. -/
def isqrtFrom (n : Nat) : Nat → Nat → Nat
  | 0, r => r
  | k + 1, r =>
    let r' := r + 2 ^ k
    isqrtFrom n k (if r' * r' ≤ n then r' else r)

/-- The integer square root. -/
def isqrt (n : Nat) : Nat := isqrtFrom n (bitLen n / 2 + 1) 0

/-- √a, rounded once (R58). -/
def Fmt.sqrt (f : Fmt) (mode : RMode) (a : FVal) : Nat × FFlags :=
  match a with
  | .nan s => (f.nan, flagIf s flagNV)
  | .inf true => (f.nan, flagNV)
  | .inf false => (f.infinity false, 0)
  | .num n m e =>
    if m = 0 then (f.zero n, 0)
    else if n then (f.nan, flagNV)
    else
      let odd : Nat := if e % 2 = 0 then 0 else 1
      let x := m * 2 ^ (200 + odd)
      let r := isqrt x
      f.round mode false r ((e - odd) / 2 - 100) (r * r != x) 0

/-- 1/√a, rounded once (R58). -/
def Fmt.rsqrt (f : Fmt) (mode : RMode) (a : FVal) : Nat × FFlags :=
  match a with
  | .nan s => (f.nan, flagIf s flagNV)
  | .inf true => (f.nan, flagNV)
  | .inf false => (f.zero false, 0)
  | .num n m e =>
    if m = 0 then (f.infinity n, flagDZ)
    else if n then (f.nan, flagNV)
    else
      let odd : Nat := if e % 2 = 0 then 0 else 1
      let m := m * 2 ^ odd
      let r := isqrt (2 ^ 400 / m)
      f.round mode false r (-((e - odd) / 2) - 200) (r * r * m != 2 ^ 400) 0

/-! ## Powers and logarithms (R58) -/

/-- ln 2 × 2^p from Σ 1 / (k 2^k), the terms from `k` on. -/
def ln2From (p : Nat) : Nat → Nat → Nat
  | 0, _ => 0
  | n + 1, k => 2 ^ (p - k) / k + ln2From p n (k + 1)

/-- exp(y) × 2^p for y given × 2^p, from its series: `term` is the current one. -/
def expFrom (p y : Nat) : Nat → Nat → Nat → Nat
  | 0, _, _ => 0
  | n + 1, k, term => term + expFrom p y n (k + 1) (term * y / 2 ^ p / (k + 1))

/-- 2^f × 2^320 for a fraction f given × 2^320. -/
def pow2Frac (x : Nat) : Nat := expFrom 320 (x * ln2From 320 320 1 / 2 ^ 320) 90 0 (2 ^ 320)

/-- 2^a, rounded once (R58). -/
def Fmt.exp2 (f : Fmt) (mode : RMode) (a : FVal) : Nat × FFlags :=
  match a with
  | .nan s => (f.nan, flagIf s flagNV)
  | .inf true => (f.zero false, 0)
  | .inf false => (f.infinity false, 0)
  | .num n m e =>
    if m = 0 then f.round mode false 1 0 false 0
    else
      -- beyond ±2^10 the result is as at that bound
      let top := e + bitLen m
      if 11 ≤ top then f.round mode false 1 (if n then -1024 else 1024) true 0
      else
        let x : Int := if e ≤ 0 then (m : Int) * 2 ^ (320 - (-e).toNat) else (m : Int) * 2 ^ (320 + e.toNat)
        let x := if n then -x else x
        let whole := x / 2 ^ 320
        let fr := (x % 2 ^ 320).toNat
        if fr = 0 then f.round mode false 1 whole false 0
        else f.round mode false (pow2Frac fr) (whole - 320) true 0

/-- The bits of log₂ t for t in [1, 2) given × 2^400, by repeated squaring. -/
def log2Bits : Nat → Nat → Nat → Nat
  | 0, _, acc => acc
  | n + 1, t, acc =>
    let u := t * t / 2 ^ 400
    if 2 ^ 401 ≤ u then log2Bits n (u / 2) (2 * acc + 1) else log2Bits n u (2 * acc)

/-- log₂ a, rounded once (R58). -/
def Fmt.log2 (f : Fmt) (mode : RMode) (a : FVal) : Nat × FFlags :=
  match a with
  | .nan s => (f.nan, flagIf s flagNV)
  | .inf true => (f.nan, flagNV)
  | .inf false => (f.infinity false, 0)
  | .num n m e =>
    if m = 0 then (f.infinity true, flagDZ)
    else if n then (f.nan, flagNV)
    else
      let len : Nat := bitLen m
      let whole : Int := e + (len : Int) - 1
      let t := m * 2 ^ (401 - len)
      if m = 2 ^ (len - 1) then
        (if whole = 0 then (f.zero false, 0)
        else f.round mode (decide (whole < 0)) whole.natAbs 0 false 0)
      else
        let v : Int := whole * 2 ^ 160 + (log2Bits 160 t 0 : Int)
        if 0 ≤ v then f.round mode false v.toNat (-160) true 0
        else f.round mode true (v.natAbs - 1) (-160) true 0

/-! ## Comparison, minimum and maximum -/

/-- Two numbers or infinities compared: less, equal or greater; zeros are equal. -/
def FVal.cmp (a b : FVal) : Ordering :=
  match a, b with
  | .inf n, .inf k => if n = k then .eq else if n then .lt else .gt
  | .inf n, _ => if n then .lt else .gt
  | _, .inf k => if k then .gt else .lt
  | a, b =>
    let e0 := minExp [a, b] 0
    compare (sumAt e0 [a]) (sumAt e0 [b])

/-- minimumNumber or maximumNumber (R47): a NaN is ignored beside a number, and −0 is less than +0. -/
def Fmt.minmax (f : Fmt) (wantMax : Bool) (x y : Nat) : Nat × FFlags :=
  let a := f.decode x
  let b := f.decode y
  let fl := flagIf (a.signals || b.signals) flagNV
  if a.isNan then (if b.isNan then (f.nan, fl) else (y, fl))
  else if b.isNan then (x, fl)
  else
    match a.cmp b with
    | .lt => (if wantMax then y else x, fl)
    | .gt => (if wantMax then x else y, fl)
    | .eq => if f.neg x = wantMax then (y, fl) else (x, fl)

/-- VFCLASS's bit (R122). -/
def Fmt.classBit (f : Fmt) (x : Nat) : Nat :=
  match f.decode x with
  | .nan s => if s then 8 else 9
  | .inf n => if n then 0 else 7
  | .num n m _ =>
    let sub := x / 2 ^ f.frac % 2 ^ f.exp == 0
    if m = 0 then (if n then 3 else 4)
    else if sub then (if n then 2 else 5)
    else if n then 1 else 6

/-! ## Integers (R54) -/

/-- A number rounded to an integer under a mode: the integer and whether it is inexact. -/
def toInteger (mode : RMode) (neg : Bool) (m : Nat) (e : Int) : Int × Bool :=
  let r := roundAt mode neg m e 0 false 0
  (if neg then -(r.1 : Int) else r.1, r.2)

/-- A value converted to an integer range (R54). -/
def toRange (mode : RMode) (lo hi : Int) (v : FVal) : Int × FFlags :=
  match v with
  | .nan _ => (0, flagNV)
  | .inf n => (if n then lo else hi, flagNV)
  | .num n m e =>
    let r := toInteger mode n m e
    if r.1 < lo then (lo, flagNV) else if hi < r.1 then (hi, flagNV) else (r.1, flagIf r.2 flagNX)

/-- An integer converted to a format (R54). -/
def Fmt.ofInt (f : Fmt) (mode : RMode) (x : Int) : Nat × FFlags :=
  if x = 0 then (0, 0) else f.round mode (decide (x < 0)) x.natAbs 0 false 0

/-! ## Scales, weights and the generator (R48–R50, R64–R66) -/

/-- An E3M5 block scale as an exact number; `none` for NaN (R48). -/
def e3m5 (x : Nat) : Option (Nat × Int) :=
  if x % 256 = 0xFF then none
  else
    let e := x % 256 / 32
    let fr := x % 32
    if e = 0 then some (fr, (-7 : Int)) else some (32 + fr, (e : Int) - 8)

/-- T[j] of R50: the f32 nearest 2^(j/16). -/
def sigmaTable : List Nat :=
  [0x3F800000, 0x3F85AAC3, 0x3F8B95C2, 0x3F91C3D3, 0x3F9837F0, 0x3F9EF532, 0x3FA5FED7, 0x3FAD583F, 0x3FB504F3,
   0x3FBD08A4, 0x3FC5672A, 0x3FCE248C, 0x3FD744FD, 0x3FE0CCDF, 0x3FEAC0C7, 0x3FF5257D]

/-- Sigma(ρ) as f32 bits (R50). -/
def sigma (rho : Nat) : Nat :=
  let r : Int := sextNat rho 16
  let n : Int := r / 16
  let j : Nat := (r % 16).toNat
  if n < -126 then 0
  else if 127 < n then f32.top
  else ((n + 127).toNat) * 2 ^ 23 + (sigmaTable.getD j 0 - 0x3F800000)

/-- Gauss(K, I, M) as f32 bits (R65). -/
def gauss (k i m : Nat) : Nat :=
  let w := 2 ^ 64
  let x := k % w ^^^ (i * 0xD1B54A32D192ED03 % w) ^^^ (m % 2 ^ 32 * 0x8CB92BA72F3D8DD7 % w)
  let x := (x ^^^ (x / 2 ^ 30)) * 0xBF58476D1CE4E5B9 % w
  let x := (x ^^^ (x / 2 ^ 27)) * 0x94D049BB133111EB % w
  let x := x ^^^ (x / 2 ^ 31)
  let s : Nat := x % 2 ^ 16 + x / 2 ^ 16 % 2 ^ 16 + x / 2 ^ 32 % 2 ^ 16 + x / 2 ^ 48
  let d : Int := (s : Int) - 131070
  match f32.decode 0x3FDDB3D7 with
  | .num _ cm ce =>
    if d = 0 then 0 else (f32.round .rne (decide (d < 0)) (d.natAbs * cm) (ce - 16) false 0).1
  | _ => 0

/-- RN32(Sigma(ρ) × z) of R66. -/
def sigmaZ (rho z : Nat) : FVal := f32.decode (f32.mul .rne (f32.decode (sigma rho)) (f32.decode z)).1

/-- The perturbed weight of R66 in a format: mean + RN32(Sigma(ρ) × z), rounded once. -/
def perturbed (f : Fmt) (mean rho z : Nat) : Nat := (f.sum .rne [bf16.decode mean, sigmaZ rho z]).1

/-- An exact magnitude compared with 6 × an E3M5 value. -/
def fitsScale (m : Nat) (e : Int) (x : Nat) : Bool :=
  match e3m5 x with
  | none => true
  | some (sm, se) =>
    let e0 := min e se
    decide (m * 2 ^ (e - e0).toNat ≤ 6 * sm * 2 ^ (se - e0).toNat)

/-- The least E3M5 code v with A ≤ 6 v, or 0xFE (R64). -/
def leastScale (m : Nat) (e : Int) : Nat := (leastBelow 0xFF (fitsScale m e)).getD 0xFE

/-- The scale of a block of f32 codes (R64): `none` stands for a block whose elements all become 0. -/
def blockScale (xs : List Nat) : Nat × Bool :=
  let vs := xs.map f32.decode
  if vs.any FVal.isNan then (0xFF, false)
  else if vs.any (fun v => v.isInf true || v.isInf false) then (0xFE, true)
  else
    let e0 := minExp vs 0
    let a := (vs.map (fun v => (sumAt e0 [v]).natAbs)).foldl Nat.max 0
    if a = 0 then (0, false) else (leastScale a e0, true)

end Sys2Proof.Machine
end

