-- ==== Sys2Proof/Machine/Tiles.lean ====
section
/-!
DEFINITION. Accumulator tiles and the operand store: majors 0x50–0x5A (R59–R61, R200–R228).
-/

namespace Sys2Proof.Machine

/-! ## Tiles -/

/-- A tile of the issuer's core. -/
def State.tile (s : State) (a : BitVec 3) : Tile := vecGet Tile.reset s.core.tile.tiles a.toNat

/-- A tile of the issuer's core in the mode that an instruction which issues now is checked against. -/
def State.tileSeen (s : State) (a : BitVec 3) : Tile := { s.tile a with c64 := s.modeAt a.toNat }

/-- The state with a tile of a core replaced. -/
def State.setTileOf (s : State) (c a : Nat) (t : Tile) : State :=
  let x := s.coreAt c
  s.setCoreAt c { x with tile := { x.tile with tiles := vecSet x.tile.tiles a t } }

/-- The state with a tile of the issuer's core replaced. -/
def State.setTile (s : State) (a : BitVec 3) (t : Tile) : State := s.setTileOf s.me.core a.toNat t

/-- Columns of a tile's mode: C (R201). -/
def Tile.cols (t : Tile) : Nat := if t.c64 then 64 else 128

/-- Bits of a cell of a tile's mode. -/
def Tile.bits (t : Tile) : Nat := if t.c64 then 64 else 32

/-- Cell(a, r, c) (R201). -/
def Tile.cell (t : Tile) (r c : Nat) : Nat := elemOf (vecGet 0 t.rows r) c t.bits

/-- A cell written: the tile is dirty (R201). -/
def Tile.setCell (t : Tile) (r c x : Nat) : Tile :=
  { t with dirty := true, rows := vecSet t.rows r (setElemOf (vecGet 0 t.rows r) c t.bits x) }

/-- `n` cells of `w` bits as a row. -/
def packRow (w : Nat) (f : Nat → Nat) : Nat → Nat
  | 0 => 0
  | n + 1 => packRow w f n + f n % 2 ^ w * 2 ^ (w * n)

/-- Every selected cell of a tile replaced by a function of its row, its column and itself; the tile is dirty when any is
selected. -/
def Tile.update (t : Tile) (row : Nat → Bool) (col : Nat → Nat → Bool) (f : Nat → Nat → Nat → Nat) : Tile :=
  { t with
    dirty := t.dirty || (List.range 128).any (fun r => row r && (List.range t.cols).any (col r))
    rows := Vector.ofFn (fun r : Fin 128 =>
      let old := vecGet 0 t.rows r.val
      if row r.val && (List.range t.cols).any (col r.val) then
        BitVec.ofNat 4096 (packRow t.bits
          (fun c => let x := elemOf old c t.bits; if col r.val c then f r.val c x else x) t.cols)
      else old) }

/-- Bit `k` of a mask field: row k or column k (R212). -/
def State.lineOn (s : State) (m : MReg) (k : Nat) : Bool := m == 0 || (s.mregOf m.toNat).getLsbD k

/-- The rows of a tile that a row mask selects, each as tile × 128 + row (R208). -/
def State.rowsOn (s : State) (d : BitVec 3) (m : MReg) : List Nat :=
  ((List.range 128).filter (s.lineOn m)).map (d.toNat * 128 + ·)

/-- The four rows from one on. -/
def fourRows (d : BitVec 3) (r : Word) : List Nat := (List.range 4).map (d.toNat * 128 + r.toNat + ·)

/-! ## Checks at issue (R205) -/

/-- ENGINE_OWNED: the group does not hold the engine, or the issuer is a hart while a program is forked.
(log entry 57: DEDUCED.) -/
def ownsEngine (direct : Bool) : M Unit := do
  let s ← get
  let hart := match s.cur with
    | .seq _ _ => false
    | _ => true
  if !s.hasTile || (direct && hart && s.core.tile.forked.isSome) then trap .engineOwned (s.word.setWidth 64) else pure ()

/-- What a tile instruction names; a sequencer's scalars are its snapshot's. -/
def State.tileNames (s : State) (v : VNames) : VNames :=
  match s.cur with
  | .seq _ _ => { v with scalars := [] }
  | _ => v

/-- The first three checks of a tile instruction: the engine, the vector set and the bindings. -/
def tileCheck (v : VNames) : M Unit := do
  ownsEngine true
  let s ← get
  let v := s.tileNames v
  if v.deadTval.isSome then vchecks v else named v.scalars
  vscalars v.scalars
  let s ← get
  if s.vlPending then throw .stall else pure ()

/-- Whether the lanes are still to write what a tile instruction reads, or to read what it writes (R207). -/
def State.tileWaits (s : State) (v : VNames) : Bool := (s.tileNames v).deadTval.isSome && s.lanesWait (s.tileNames v)

/-- A tile instruction that has passed its checks is executed, or enters the engine's queue; one that names vector registers or masks
which the lanes are still to write enters it behind them (R206, R207). -/
def tileReady (v : VNames) (n : Needs) : M Unit := do
  let s ← get
  match s.cur with
  | .late _ _ => pure ()
  | _ => if s.tileWaits v then throw (.queue { s.tileNames v with scalars := [] }.regs [] (some n)) else ready n

/-- What a tile instruction that writes some rows needs; all rows of the tile, where its row mask is not known yet. -/
def State.tileNeeds (s : State) (d : BitVec 3) (mr : MReg) (mode : Option (Nat × Bool)) (rows : List Nat) : Needs :=
  { Needs.nothing with
    cls := .tile, tile := true, mode := mode
    rows := if mr = 0 ∨ s.known [32 + mr.toNat] then rows else s.rowsOn d 0 }

/-- TILE_SHAPE unless a condition holds (R205). -/
def shape (ok : Bool) : M Unit := do
  let s ← get
  if ok then pure () else trap .tileShape (s.word.setWidth 64)

/-! ## Cell arithmetic (R59–R61) -/

/-- An operand format of the tile engine: element width, terms per cell, and the format, none for i8 (R59). -/
structure TileFmt where
  w : Nat
  k : Nat
  f : Option Fmt

/-- The cell format of an operand format. -/
def TileFmt.cell (t : TileFmt) : Fmt := if t.w = 64 then f64 else f32

/-- A cell and exact products summed and rounded once (R59). -/
def TileFmt.update (t : TileFmt) (c : Nat) (ps : List (Nat × Nat)) : Nat :=
  match t.f with
  | none =>
    let products : List Int := ps.map (fun p : Nat × Nat => sextNat p.1 8 * sextNat p.2 8)
    (((c : Int) + products.foldl (· + ·) 0) % 2 ^ 32).toNat
  | some f =>
    (t.cell.sum .rne (t.cell.decode c :: ps.map (fun p => ((f.decode p.1).mul (f.decode p.2)).1))).1

/-! ## Outer products (R213) -/

/-- OPA. -/
def opa (t : TileFmt) (d : BitVec 3) (a b : Reg) (mc mr : MReg) (s : State) : Host.Outcome State Fault Refusal :=
  issue .tile (do
    let names : VNames := ⟨[], [], [], [a, b], [mr, mc]⟩
    tileCheck names
    let s ← get
    let x := s.tileSeen d
    shape (x.c64 == (t.w == 64))
    tileReady names (s.tileNeeds d mr none (s.rowsOn d mr))
    let nA := Nat.min s.vl (128 * t.k)
    let nB := Nat.min s.vl (x.cols * t.k)
    let terms := fun (r c : Nat) => (List.range t.k).filter (fun i => decide (r * t.k + i < nA ∧ c * t.k + i < nB))
    let va := s.vregOf a.toNat
    let vb := s.vregOf b.toNat
    let y := x.update (s.lineOn mr) (fun r c => s.lineOn mc c && !(terms r c).isEmpty)
      (fun r c cell => t.update cell
        ((terms r c).map (fun i => (elemOf va (r * t.k + i) t.w, elemOf vb (c * t.k + i) t.w))))
    set (s.setTile d y)
    pure .seq) s

/-- R213, OPA.f64. -/
def execOpaF64 (d : BitVec 3) (a b : Reg) (c r : MReg) (s : State) := opa ⟨64, 1, some f64⟩ d a b c r s

/-- R213, OPA.f32. -/
def execOpaF32 (d : BitVec 3) (a b : Reg) (c r : MReg) (s : State) := opa ⟨32, 1, some f32⟩ d a b c r s

/-- R213, OPA.bf16. -/
def execOpaBf16 (d : BitVec 3) (a b : Reg) (c r : MReg) (s : State) := opa ⟨16, 2, some bf16⟩ d a b c r s

/-- R213, OPA.f16. -/
def execOpaF16 (d : BitVec 3) (a b : Reg) (c r : MReg) (s : State) := opa ⟨16, 2, some f16⟩ d a b c r s

/-- R213, OPA.e4m3. -/
def execOpaE4m3 (d : BitVec 3) (a b : Reg) (c r : MReg) (s : State) := opa ⟨8, 4, some e4m3⟩ d a b c r s

/-- R213, OPA.e5m2. -/
def execOpaE5m2 (d : BitVec 3) (a b : Reg) (c r : MReg) (s : State) := opa ⟨8, 4, some e5m2⟩ d a b c r s

/-- R213, OPA.e2m1. -/
def execOpaE2m1 (d : BitVec 3) (a b : Reg) (c r : MReg) (s : State) := opa ⟨4, 8, some e2m1⟩ d a b c r s

/-- R213, OPA.i8. -/
def execOpaI8 (d : BitVec 3) (a b : Reg) (c r : MReg) (s : State) := opa ⟨8, 4, none⟩ d a b c r s

/-! ## Streamed products (R214–R218) -/

/-- The three streamed forms. -/
inductive MmsKind | dense | perturbed | sparse
  deriving DecidableEq, Repr

/-- A streamed product: its kind, operand format with the A elements of a row per step, and the operand-store rows of a
step. -/
structure MmsForm where
  kind : MmsKind
  t : TileFmt
  h : Nat

/-- Bytes that a step pops. -/
def MmsForm.bytes (f : MmsForm) : Nat := 128 * f.t.k * f.t.w / 8

/-- The slice word of column `c` in an operand-store row of the issuer's core (R215). -/
def State.slice (s : State) (row c : Nat) : Nat := leNat (Memory.readBytes s.mem (osKey s.me.core (512 * row + 4 * c)) 4)

/-- Four positions of a metadata code, or none for an illegal one (R217). -/
def sparsePositions (code : Nat) : Option (List Nat) :=
  let p := fun (i : Nat) => code / 2 ^ (3 * i) % 8
  if code < 2 ^ 12 ∧ p 0 < p 1 ∧ p 1 < p 2 ∧ p 2 < p 3 then some [p 0, p 1, p 2, p 3] else none

/-- The metadata code of a column at a step (R217). -/
def State.sparseCode (s : State) (y0 st c : Nat) : Option (List Nat) :=
  sparsePositions (s.slice (y0 + st / 2) c / 2 ^ (16 * (st % 2)) % 2 ^ 16)

/-- The least step from one on that holds an illegal code. -/
def State.illegalCode (s : State) (y0 st n : Nat) : Option Nat :=
  ((List.range n).map (st + ·)).find? (fun i => (List.range 128).any (fun c => (s.sparseCode y0 i c).isNone))

/-- Stored value `j` of a column at a step of a sparse product (R217). -/
def State.sparseValue (s : State) (f : MmsForm) (x0 st c j : Nat) : Nat :=
  if f.h = 2 then s.slice (x0 + 2 * st + j / 2) c / 2 ^ (16 * (j % 2)) % 2 ^ 16
  else s.slice (x0 + st) c / 2 ^ (8 * j) % 2 ^ 8

/-- The cell of row `r` and column `c` after a step on a block of A (R60, R215–R217). -/
def State.mmsCell (s : State) (f : MmsForm) (key : Word) (m x0 y0 st blk r c cell : Nat) : Nat :=
  let a := fun (i : Nat) => blk / 2 ^ ((r * f.t.k + i) * f.t.w) % 2 ^ f.t.w
  match f.kind with
  | .dense =>
    f.t.update cell ((List.range f.t.k).map (fun i => (a i, s.slice (x0 + st) c / 2 ^ (i * f.t.w) % 2 ^ f.t.w)))
  | .perturbed =>
    let g := s.slice (x0 + st) c
    let i := ((lookupD 0 s.core.ibase (x0 + st)).toNat + c) % 2 ^ 64
    f.t.update cell [(a 0, perturbed (f.t.f.getD bf16) (g / 2 ^ 16) (g % 2 ^ 16) (gauss key.toNat i m))]
  | .sparse =>
    let zero := FVal.num false 0 0
    let v := (f.t.f.getD bf16).decode
    let ps := match s.sparseCode y0 st c with
      | some ps => (List.range 4).map (fun j => ((v (a (ps.getD j 0))).mul (v (s.sparseValue f x0 st c j))).1)
      | none => []
    (f32.sum .rne (f32.decode cell :: zero :: ps)).1

/-- What a held MMS-family instruction took at issue. -/
def State.heldKey (s : State) : Option (Word × List Nat) :=
  match s.cur with
  | .seq _ e => (s.me.prog e).key
  | _ => s.me.mmspKey

/-- The state with that note replaced. -/
def State.setHeldKey (s : State) (k : Option (Word × List Nat)) : State :=
  match s.cur with
  | .seq _ e => s.setMe (s.me.setProg e { s.me.prog e with key := k })
  | _ => s.setMe { s.me with mmspKey := k }

/-- Whether an OSLD or a space-2 store of the same issuer has rows of a range still to write (R209). (log entry 61: DEDUCED.) -/
def State.osldPending (s : State) (row n : Nat) : Bool :=
  s.ops.any (fun o => o.issuer == s.cur && (match o.kind with
    | .osld d _ => decide (d.row < row + n ∧ row < d.row + d.rows)
    | .late x =>
      let low := osKey s.me.core (512 * row) / 8
      x.needs.touch.any (fun k => decide (low ≤ k ∧ k < low + 64 * n))
    | _ => false))

/-- An MMS-family instruction stops at step `st` (R210, R218). -/
def mmsStop {α : Type} (st : Nat) (key : Option (Word × List Nat)) (x : Stop) : M α := do
  act (fun s => (s.setKstart st).setHeldKey key)
  throw x

/-- Steps from `st` on (R215). (log entry 61: DEDUCED.) -/
def mmsSteps (f : MmsForm) (d : BitVec 3) (v : Reg) (mr : MReg) (key : Word) (m x0 y0 : Nat) : Nat → Nat → M Unit
  | 0, _ => pure ()
  | k + 1, st => do
    let s ← get
    let note := some (key, s.rowsOn d mr)
    if s.osldPending (x0 + st * f.h) f.h then mmsStop st note (.hold v.toNat) else pure ()
    let p := ((s.bindOf v.toNat).map (fun b => s.preload b 1 f.bytes)).getD (s, true)
    set p.1
    if p.2 then pure () else mmsStop st note (.hold v.toNat)
    let s ← get
    match s.bindOf v.toNat with
    | none => pure ()
    | some b =>
      match s.avail b f.bytes with
      | .later => mmsStop st note (.hold v.toNat)
      | .ends c t =>
        act (fun s => match s.badIn s.group.ctx (handleEntry b.handle) b.pos (b.pos + f.bytes) with
          | some l => if c = .poison then s.poisonLine s.group.ctx (handleEntry b.handle) l else s
          | none => s)
        mmsStop st none (.trap (.at c t))
      | .ready =>
        let blk := s.peek b f.bytes
        let x := (s.tile d).update (s.lineOn mr) (fun _ _ => true) (s.mmsCell f key m x0 y0 st blk)
        set ((s.setBind { b with pos := b.pos + f.bytes, part := b.part.drop f.bytes }).setTile d x)
        mmsSteps f d v mr key m x0 y0 k (st + 1)

/-- Checks of R214 on the row and step words. -/
def mmsShape (f : MmsForm) (sa sb : Word) : Bool :=
  let x0 := bitsOf sa 0 14
  let y0 := bitsOf sa 32 14
  let k := bitsOf sb 0 15
  bitsOf sa 14 18 == 0 && bitsOf sa 46 18 == 0 && (f.kind == .sparse || y0 == 0) && bitsOf sb 15 17 == 0 &&
    (f.kind == .perturbed || bitsOf sb 32 32 == 0) && decide (k ≤ 16384) && decide (x0 + k * f.h ≤ 16384) &&
    (f.kind != .sparse || decide (y0 + (k + 1) / 2 ≤ 16384))

/-- MMS, MMSP and MMSS. They go on as far as their streams, unless the move bounds their steps: a pre-emption stops them at any k-step
boundary (R204). -/
def mms (f : MmsForm) (d : BitVec 3) (v a b : Reg) (mr : MReg) (s : State) : Host.Outcome State Fault Refusal :=
  issue .tile (do
    tileCheck ⟨[a, b], [v], [], [], [mr]⟩
    let s ← get
    if s.tileWaits ⟨[a, b], [v], [], [], [mr]⟩ then throw .stall else pure ()
    if (s.bindOf v.toNat).isNone then trap .runState 0 else pure ()
    let sa := s.rs a
    let sb := s.rs b
    shape (mmsShape f sa sb && !(s.tileSeen d).c64)
    bindsSettled [v]
    if s.heldKey.isNone && !s.tileFree (s.rowsOn d mr) then throw .stall else pure ()
    let x0 := bitsOf sa 0 14
    let y0 := bitsOf sa 32 14
    let k := bitsOf sb 0 15
    let from_ := s.kstart
    if k ≤ from_ then
      set (s.setKstart 0)
      pure .seq
    else
      let key := (s.heldKey.map Prod.fst).getD s.core.key
      if f.kind = .sparse ∧ s.heldKey.isNone then
        if s.osldPending (y0 + from_ / 2) ((k + 1) / 2 - from_ / 2) then throw .stall else pure ()
        match s.illegalCode y0 from_ (k - from_) with
        | some i => trap .sparsity (BitVec.ofNat 64 i)
        | none => pure ()
      else pure ()
      let n := Nat.min (k - from_) (s.steps.getD (k - from_))
      mmsSteps f d v mr key (bitsOf sb 32 32) x0 y0 n from_
      if n < k - from_ then mmsStop (from_ + n) (some (key, s.rowsOn d mr)) (.hold v.toNat) else pure ()
      act (fun s => (s.setKstart 0).setHeldKey none)
      pure .seq) s

/-- R215, MMS.bf16. -/
def execMmsBf16 (d : BitVec 3) (v a b : Reg) (r : MReg) (s : State) := mms ⟨.dense, ⟨16, 2, some bf16⟩, 1⟩ d v a b r s

/-- R215, MMS.e4m3. -/
def execMmsE4m3 (d : BitVec 3) (v a b : Reg) (r : MReg) (s : State) := mms ⟨.dense, ⟨8, 4, some e4m3⟩, 1⟩ d v a b r s

/-- R215, MMS.e2m1. -/
def execMmsE2m1 (d : BitVec 3) (v a b : Reg) (r : MReg) (s : State) := mms ⟨.dense, ⟨4, 8, some e2m1⟩, 1⟩ d v a b r s

/-- R215, MMS.i8. -/
def execMmsI8 (d : BitVec 3) (v a b : Reg) (r : MReg) (s : State) := mms ⟨.dense, ⟨8, 4, none⟩, 1⟩ d v a b r s

/-- R216, MMSP.bf16. -/
def execMmspBf16 (d : BitVec 3) (v a b : Reg) (r : MReg) (s : State) :=
  mms ⟨.perturbed, ⟨16, 1, some bf16⟩, 1⟩ d v a b r s

/-- R216, MMSP.e4m3. -/
def execMmspE4m3 (d : BitVec 3) (v a b : Reg) (r : MReg) (s : State) :=
  mms ⟨.perturbed, ⟨8, 1, some e4m3⟩, 1⟩ d v a b r s

/-- R217, MMSS.bf16. -/
def execMmssBf16 (d : BitVec 3) (v a b : Reg) (r : MReg) (s : State) :=
  mms ⟨.sparse, ⟨16, 8, some bf16⟩, 2⟩ d v a b r s

/-- R217, MMSS.e4m3. -/
def execMmssE4m3 (d : BitVec 3) (v a b : Reg) (r : MReg) (s : State) :=
  mms ⟨.sparse, ⟨8, 8, some e4m3⟩, 1⟩ d v a b r s

/-! ## Scaling (R219) -/

/-- A scale of one side: block scale times band scale, exactly; none for a NaN block scale. -/
def sideScale (block band : Nat) : Option FVal :=
  (e3m5 block).map (fun p => ((FVal.num false p.1 p.2).mul (bf16.decode band)).1)

/-- SCACC's cell (R61). -/
def scaledCell (dst part : Nat) (x y : Option FVal) : Nat :=
  match x, y with
  | some x, some y => (f32.sum .rne [f32.decode dst, (((f32.decode part).mul x).1.mul y).1]).1
  | _, _ => f32.nan

/-- R219, SCACC. -/
def execScacc (d p : BitVec 3) (a b q : Reg) (s : State) : Host.Outcome State Fault Refusal :=
  issue .tile (do
    let names : VNames := ⟨[], [], [], [a, b, q], []⟩
    tileCheck names
    let s ← get
    let x := s.tileSeen d
    let y := s.tileSeen p
    shape (!x.c64 && !y.c64)
    tileReady names (s.tileNeeds d 0 none (s.rowsOn d 0))
    let band := fun (i : Nat) => elemOf (s.vregOf q.toNat) i 16
    let row := fun (r : Nat) => sideScale (elemOf (s.vregOf a.toNat) r 8) (band (r / 64))
    let col := fun (c : Nat) => sideScale (elemOf (s.vregOf b.toNat) c 8) (band (2 + c / 64))
    set (s.setTile d (x.update (fun _ => true) (fun _ _ => true)
      (fun r c dst => scaledCell dst (y.cell r c) (row r) (col c))))
    pure .seq) s

/-! ## Zeroing and moving (R220–R222) -/

/-- R220, TZERO. One that changes the mode sets every row, and later instructions are checked against the new mode (R205). -/
def execTzero (d : BitVec 3) (o : Reg) (c r : MReg) (s : State) : Host.Outcome State Fault Refusal :=
  issue .tile (do
    let names : VNames := ⟨[], [], [], [], [r, c]⟩
    tileCheck names
    let s ← get
    let x := s.tileSeen d
    let mode := o == 1
    tileReady names (s.tileNeeds d r (some (d.toNat, mode)) (if mode ≠ x.c64 then s.rowsOn d 0 else s.rowsOn d r))
    let all := (List.range 128).all (s.lineOn r) && (List.range x.cols).all (s.lineOn c)
    set (s.setTile d
      (if mode ≠ x.c64 ∨ all then { Tile.reset with c64 := mode }
       else x.update (s.lineOn r) (fun _ c' => s.lineOn c c') (fun _ _ _ => 0)))
    pure .seq) s

/-- The row scalar of TMOV and TWR: a multiple of 4 below 128. -/
def rowOk (w : Word) : Bool := w.toNat % 4 == 0 && decide (w.toNat < 128)

/-- The waits of TMOV: its place among the instructions of the lanes, and the chaining bits of its rows; in the vector instruction queue,
or in its sequencer (R206, R208). -/
def moveReady (v : VNames) (rows : List Nat) : M Unit := do
  let s ← get
  match s.cur with
  | .queued _ => pure ()
  | _ =>
    if s.tileWaits v || s.rowsPending s.me.core s.cur.owner rows s.nextOp then throw (.queue (s.tileNames v).regs rows none) else pure ()

/-- R221, TMOV. -/
def execTmov (d : BitVec 3) (v a : Reg) (m : MReg) (s : State) : Host.Outcome State Fault Refusal :=
  issue .tile (do
    let names : VNames := ⟨[a], [], [], [v], [m]⟩
    tileCheck names
    let s ← get
    let x := s.tile d
    let r0 := (s.rs a).toNat
    shape (rowOk (s.rs a))
    moveReady names (fourRows d (s.rs a))
    elements (Nat.min s.vl (4 * x.cols)) (fun i => act (fun s =>
      if s.maskBit m.toNat i x.bits then s.setElem v.toNat i x.bits (x.cell (r0 + i / x.cols) (i % x.cols)) else s))
    pure .seq) s

/-- R222, TWR. -/
def execTwr (d : BitVec 3) (v a : Reg) (m : MReg) (s : State) : Host.Outcome State Fault Refusal :=
  issue .tile (do
    let names : VNames := ⟨[a], [], [], [v], [m]⟩
    tileCheck names
    let s ← get
    let x := s.tile d
    let r0 := (s.rs a).toNat
    shape (rowOk (s.rs a))
    tileReady names (s.tileNeeds d 0 none (fourRows d (s.rs a)))
    let n := Nat.min s.vl (4 * x.cols)
    let on := (List.range n).filter (fun i => s.maskBit m.toNat i x.bits)
    set (s.setTile d
      (on.foldl (fun t i => t.setCell (r0 + i / x.cols) (i % x.cols) (elemOf (s.vregOf v.toNat) i x.bits)) x))
    pure .seq) s

/-! ## Drains and loads (R223–R226) -/

/-- Cells of an access from kstart on, in cell order, with their pointers and places. -/
def State.cellsAt (s : State) (acc : Access) (cw cols : Nat) (rows : List Nat) (cs : List Nat) (addr : Nat → Nat → Word) :
    List VElem :=
  ((rows.flatMap (fun r => cs.map (fun c => r * cols + c))).filter (fun i => decide (s.kstart ≤ i))).map
    (fun i => ⟨i, addr (i / cols) (i % cols), s.placeLive (place s acc cw cw (addr (i / cols) (i % cols)))⟩)

/-- Cells of one destination core of another chip sent or asked for as one operation (R355). (log entry 61: DEDUCED.) -/
def State.sendCells (q : Nat) (form : VForm) (tile : Nat) (w : Nat) (train : Bool) (group : Nat) (es : List (VElem × Nat))
    (s : State) (t : BitVec 10 × Nat) : State :=
  let mine := es.filter (fun e => e.1.dest? = some t)
  let ptrs := mine.map (fun e => (e.1.i, e.1.p))
  let s := s.addRemote q .tile (if form = .load then .tileLoad t.1 tile ptrs w else .remoteVec t.1 none ptrs w false) group
  let s := s.sendAll t.1 s.lastOp (vecBodies train form t.2 w es.length none mine)
  s.noteSent t.1 (if form = .load then mine.length else 0)

/-- The end of a cell access: kstart 0, or the trap at its first failing cell, which waits for loads in flight (R95,
R226). -/
def cellsEnd (bad : Option (VElem × PtrFault)) (waits : Bool) : M Flow := do
  match bad with
  | none =>
    act (fun s => s.setKstart 0)
    pure .seq
  | some (e, f) =>
    act (fun s => s.setKstart e.i)
    let s ← get
    if waits then pure .stay else trap f.cause (f.word s)

/-- Refused cells reported (R114, R226). (log entry 53: DEDUCED.) -/
def cellsRefused (es : List VElem) : M Unit :=
  match es.findSome? VElem.refused with
  | none => pure ()
  | some f => act (fun s => s.report s.cur f.cause (f.word s) (BitVec.ofNat 32 s.pc.toNat) false)

/-- The end of a cell access's checks: it is executed, or enters the engine's queue, behind what the lanes are still to do (R206, R207). -/
def cellsReady (v : VNames) (reads : List Nat) (whole waits : Bool) (n : Needs) : M Unit := do
  let s ← get
  let v := s.tileNames v
  if v.deadTval.isSome then readyWhole v reads whole waits n
  else
    match s.cur with
    | .late _ _ => if waits then throw .stall else pure ()
    | _ => if !waits && s.performsNow n then pure () else throw (if whole then .defer n else .stall)

/-- A store of cells. -/
def cellStore (d : BitVec 3) (h : HReg) (v : VNames) (reads : List Nat) (rows cs : State → List Nat) (addr : State → Nat → Nat → Word) : M Flow := do
  let q ← seqOf h
  let s ← get
  let x := s.tileSeen d
  let all := s.cellsAt .vstore (x.bits / 8) x.cols (rows s) (cs s) (addr s)
  let good := takeGood all
  cellsReady v reads (firstFailing all).isNone false { Needs.elems q .tile (x.bits / 8) good with tile := true, cells := true }
  let pairs := good.map (fun e => (e, x.cell (e.i / x.cols) (e.i % x.cols)))
  let dests := destsOf pairs
  let several := decide (1 < dests.length) || good.any VElem.isLocal
  cellsRefused good
  act (fun s => pairs.foldl (fun s e => match e.1.at_ with
    | .ok (.remote _ _ _ _) => s
    | .ok pl => s.storeAt pl (x.bits / 8) e.2
    | .error _ => s) s)
  act (fun s => dests.foldl (State.sendCells q .store d.toNat x.bits several s.nextOp pairs) s)
  cellsEnd (firstFailing all) false

/-- Rows that a drain stores: below min(vl, 128) and selected (R223). -/
def State.drainRows (s : State) (m : MReg) : List Nat := (List.range (Nat.min s.vl 128)).filter (s.lineOn m)

/-- R223, TST. -/
def execTst (d : BitVec 3) (b c : Reg) (r : MReg) (h : HReg) (s : State) : Host.Outcome State Fault Refusal :=
  issue .tile (do
    let names : VNames := ⟨[b, c], [], [], [], [r]⟩
    tileCheck names
    let s ← get
    let x := s.tileSeen d
    cellStore d h names (maskReads [r]) (fun s => s.drainRows r) (fun _ => List.range x.cols)
      (fun s i j => s.rs b + BitVec.ofNat 64 i * s.rs c + BitVec.ofNat 64 (j * (x.bits / 8)))) s

/-- R224, TRD. -/
def execTrd (d : BitVec 3) (b v : Reg) (c r : MReg) (s : State) : Host.Outcome State Fault Refusal :=
  issue .tile (do
    let names : VNames := ⟨[b], [], [], [v], [r, c]⟩
    tileCheck names
    let s ← get
    let x := s.tileSeen d
    cellStore d 0 names (v.toNat :: maskReads [r, c]) (fun s => s.drainRows r) (fun s => (List.range x.cols).filter (s.lineOn c))
      (fun s i j => s.rs b + BitVec.ofNat 64 (elemOf (s.vregOf v.toNat) i 64) + BitVec.ofNat 64 (j * (x.bits / 8)))) s

/-- R225, TLDT. -/
def execTldt (d : BitVec 3) (b c : Reg) (r : MReg) (h : HReg) (s : State) : Host.Outcome State Fault Refusal :=
  issue .tile (do
    let names : VNames := ⟨[b, c], [], [], [], [r]⟩
    tileCheck names
    let q ← seqOf h
    let s ← get
    let x := s.tileSeen d
    let cw := x.bits / 8
    let all := s.cellsAt .vload cw x.cols ((List.range 128).filter (s.lineOn r)) (List.range (Nat.min s.vl x.cols))
      (fun i j => s.rs b + BitVec.ofNat 64 j * s.rs c + BitVec.ofNat 64 (i * cw))
    let good := takeGood all
    cellsReady names (maskReads [r]) (firstFailing all).isNone (s.awaitsCopy cw good)
      { Needs.elems q .tile cw good with tile := true, cells := true, rows := s.rowsOn d r }
    let pairs := good.map (fun e => (e, 0))
    let dests := destsOf pairs
    cellsRefused good
    act (fun s => s.setTile d (good.foldl (fun t e => match e.at_ with
      | .ok (.remote _ _ _ _) => t
      | .ok pl => t.setCell (e.i / x.cols) (e.i % x.cols) (s.loadAt pl cw)
      | .error _ => t.setCell (e.i / x.cols) (e.i % x.cols) 0) x))
    act (fun s => dests.foldl (State.sendCells q .load d.toNat x.bits false s.nextOp pairs) s)
    cellsEnd (firstFailing all) (!dests.isEmpty)) s

/-! ## The operand store (R227, R228) -/

/-- R227, OSLD: checked as R174 with rows in place of units. -/
def execOsld (a b : Reg) (h : HReg) (s : State) : Host.Outcome State Fault Refusal :=
  issue .stream (do
    ownsEngine false
    named [a, b]
    let q ← seqOf h
    let s ← get
    let bs ← readDesc (s.rs a) 40
    let d : OsDesc := ⟨descWord bs 0, descField bs 8 8, descField bs 16 8, BitVec.ofNat 32 (descField bs 24 4),
      descField bs 28 2, descField bs 30 2⟩
    if descField bs 32 8 ≠ 0 ∨ d.off % 4 ≠ 0 ∨ d.stride % 4 ≠ 0 ∨ Config.osRows ≤ d.row ∨ d.rows < 1 ∨
        Config.osRows < d.row + d.rows then trap .runState 0
    else pure ()
    let _ ← checkRun d.run
    let sem ← checkSem (s.rs b)
    enqueue q .copy (.osld d sem)
    pure .seq) s

/-- Row `t` of an OSLD: the bytes that it receives. -/
def State.osRow (s : State) (o : Op) (d : OsDesc) (t : Nat) : List Byte :=
  (List.range 512).map (fun j =>
    let x := d.off + t * d.stride + j
    if x < o.counts.1.toNat then s.runByte o.ctx (handleEntry d.run) x else fillByte d.fill j)

/-- Rows of an OSLD written from row `t` on, with their index entries, up to the first that meets a failing line. -/
def State.osRows (o : Op) (d : OsDesc) : Nat → Nat → State → State × Option Nat
  | 0, _, s => (s, none)
  | k + 1, t, s =>
    let x := d.off + t * d.stride
    let e := handleEntry d.run
    match s.badIn o.ctx e x (Nat.min (x + 512) o.counts.1.toNat) with
    | some l => (s.poisonLine o.ctx e l, some t)
    | none =>
      let s := { s with mem := Memory.writeBytes s.mem (osKey o.core (512 * (d.row + t))) (s.osRow o d t) }
      let c := s.coreAt o.core
      let s := s.setCoreAt o.core { c with ibase := insertKey c.ibase (d.row + t) (BitVec.ofNat 64 (x / 4)) }
      State.osRows o d k (t + 1) s

/-- R227: an OSLD fills its rows, sets the row index table and posts. -/
def execOsldPerformed (id : Nat) (s : State) : Host.Outcome State Fault Refusal :=
  opEvent id (fun o s =>
    match o.kind with
    | .osld d sem =>
      if o.phase = .working then
        match State.osRows o d d.rows 0 s with
        | (s, none) => some ((s.postCopy o sem (512 * d.rows)).endOp o)
        | (s, some t) => some ((s.endOp o).reportOp o .poison (BitVec.ofNat 64 t) false)
      else none
    | _ => none) s

/-- R228, OSMETA: after every earlier OSLD of the issuer. -/
def execOsmeta (d a b : Reg) (s : State) : Host.Outcome State Fault Refusal :=
  issue .stream (do
    ownsEngine false
    named [d, a, b]
    let s ← get
    if s.osldPending 0 Config.osRows then throw .stall else pure ()
    let x := s.rs a
    let c := s.core
    match (s.rs b).toNat with
    | 0 => set (s.setRs d (lookupD 0 c.ibase (bitsOf x 0 14)))
    | 1 => set (s.setRs d c.key)
    | 2 => set ((s.setCore { c with key := x }).setRs d c.key)
    | _ => set (s.setRs d 0)
    pure .seq) s

/-- R211: the ramp of a core's engine ends; it changes times only. -/
def execTileRampEnd (core : Nat) (s : State) : Host.Outcome State Fault Refusal :=
  event true (fun s =>
    let x := s.coreAt core
    if x.tile.ramp then s.setCoreAt core { x with tile := { x.tile with ramp := false } } else s) s

end Sys2Proof.Machine
end

