-- ==== Sys2Proof/Machine/Fabric.lean ====
section
/-!
DEFINITION. Sessions, the messages that arrive on them, UALink requests and completions, tickets at their dispensers, and
stations (R348–R362). What another chip does is an argument of the event.
-/

namespace Sys2Proof.Machine

/-! ## Operations to another chip as they complete (R356) -/

/-- The state with a hart changed, when it is there. -/
def State.onHart (s : State) (h : HartId) (f : Hart → Hart) : State :=
  if (lookup? s.harts h.key).isNone then s else s.setHart h (f (s.hart h))

/-- Elements of a vector register written as their data arrives. -/
def Hart.putElems (h : Hart) (vd w : Nat) (es : List (Nat × Word)) : Hart :=
  h.setVreg vd (es.foldl (fun v e => setElemOf v e.1 w e.2.toNat) (h.vreg vd))

/-- Bytes of a pattern read that have arrived, given by their number from a cursor position on: they follow those that its register
holds, unless the cursor has moved in the meantime (R170). -/
def Hart.takePattern (h : Hart) (reg pos : Nat) (es : List (Nat × Word)) : Hart :=
  let es := stableSort (fun a b => decide (a.1 ≤ b.1)) es
  let fits := fun (b : Binding) => b.reg == reg && b.pos == pos && b.kind == .patRead && es.head?.map Prod.fst == some b.part.length
  { h with
    vset := h.vset.map (fun v =>
      { v with binds := v.binds.map (fun b => if fits b then { b with part := b.part ++ es.map (fun e => e.2.setWidth 8) } else b) }) }

/-- Whether an operation has been acknowledged and awaits no data. -/
def State.opDone (s : State) (o : Op) : Bool :=
  match o.kind.chip? with
  | some chip =>
    o.phase != .queued && o.counts.2.2 == 0 &&
      !(((s.ctxAt o.ctx).session chip).sent.any (fun m => m.tag.toNat == o.id))
  | none => false

/-- The operations of the instruction that an operation belongs to. -/
def State.siblings (s : State) (o : Op) : List Op :=
  s.ops.filter (fun p => p.issuer == o.issuer && p.kind.chip?.isSome && p.counts.1 == o.counts.1)

/-- The element that stopped a VLDFF part, with its cause. -/
def Op.stopOf (o : Op) : Option (Nat × Cause) :=
  match o.phase with
  | .stopped c _ i => some (i, c)
  | _ => none

/-- The lowest of a list of stops. -/
def lowestStop (l : List (Nat × Cause)) : Option (Nat × Cause) :=
  l.foldl (fun acc x => match acc with
    | none => some x
    | some y => if x.1 < y.1 then some x else some y) none

/-- A VLDFF whose every part has arrived (R137): the elements below the stop are written, vl and ffe follow, and the hart
goes on. -/
def State.endFirstFault (s : State) (o : Op) (vd w : Nat) : State :=
  let ops := s.siblings o
  if ops.all s.opDone then
    let h := o.issuer.owner
    let stop := lowestStop (ops.filterMap Op.stopOf)
    let n := match stop with
      | some (i, _) => i
      | none => 4096
    let s := ops.foldl State.endOp s
    s.onHart h (fun x =>
      let x := (x.putElems vd w ((ops.flatMap Op.buf).filter (fun e => decide (e.1 < n)))).vectorArrived vd
      let x := match stop with
        | some (i, c) => { x with vl := BitVec.ofNat 13 i, ffe := ffeOf c i }
        | none => x
      { x with vstart := 0 }.retire)
  else s

/-- A load of a pattern's bytes whose every request has been answered (R166): the bytes are in the stream buffer. -/
def State.endPattern (s : State) (o : Op) (reg pos : Nat) : State :=
  let ops := s.siblings o
  if ops.all s.opDone then
    (ops.foldl State.endOp s).onHart o.issuer.owner (fun x => x.takePattern reg pos (ops.flatMap Op.buf))
  else s

/-- An operation to another chip ends once it is acknowledged and its data is there. -/
def State.checkDone (s : State) (id : Nat) : State :=
  match s.opAt id with
  | none => s
  | some o =>
    if s.opDone o then
      match o.kind with
      | .remoteVec _ (some vd) _ w true => s.endFirstFault o vd.toNat w
      | .remoteVec _ (some vd) _ _ _ =>
        let s := s.endOp o
        if s.ops.any (fun p => p.issuer == o.issuer && (match p.kind with
            | .remoteVec _ (some v) _ _ _ => v == vd
            | _ => false)) then s
        else s.onHart o.issuer.owner (fun x => x.vectorArrived vd.toNat)
      | .patFetch _ reg pos _ => s.endPattern o reg pos
      | _ => s.endOp o
    else s

/-- Data that has arrived for an operation (R355, R357). -/
def State.takeData (s : State) (id : Nat) (es : List (Nat × Word)) : State :=
  match s.opAt id with
  | none => s
  | some o =>
    let left := o.counts.2.2 - BitVec.ofNat 64 es.length
    let o := { o with counts := (o.counts.1, o.counts.2.1, left) }
    match o.kind with
    | .remoteVec _ (some _) _ _ true => (s.setOp { o with buf := o.buf ++ es }).checkDone id
    | .remoteVec _ (some vd) _ w _ =>
      ((s.setOp o).onHart o.issuer.owner (fun x => x.putElems vd.toNat w es)).checkDone id
    | .fetch _ parent _ =>
      let s := s.setOp o
      let s := match s.opAt parent with
        | some p => s.setOp { p with buf := p.buf ++ es }
        | none => s
      s.checkDone id
    | .tileLoad _ tile _ _ =>
      let t := vecGet Tile.reset (s.coreAt o.core).tile.tiles tile
      let t := es.foldl (fun t e => t.setCell (e.1 / t.cols) (e.1 % t.cols) e.2.toNat) t
      ((s.setOp o).setTileOf o.core tile t).checkDone id
    | .patFetch _ _ _ _ => (s.setOp { o with buf := o.buf ++ es }).checkDone id
    | .ticket chip die d =>
      let n := BitVec.ofNat 32 ((es.head?.map Prod.snd).getD 0).toNat
      let s := (s.setOp { o with counts := (o.counts.1, o.counts.2.1, 0) }).deliver o.issuer d (n.setWidth 64)
      (s.onHart o.issuer.owner (fun x => { x with tickets := x.tickets ++ [⟨chip, die, n, false, false, false⟩] })).checkDone id
    | _ => s

/-- The pointer of an element of an operation: its element number, or its place in a train. -/
def elemPtr (elems : List (Nat × Word)) (train : Bool) (i : Nat) : Word :=
  if train then ((elems.map Prod.snd)[i]?).getD (BitVec.ofNat 64 i)
  else ((elems.find? (fun e => e.1 == i)).map Prod.snd).getD 0

/-- Elements from one on that a refused load leaves at zero. (log entry 53: DEDUCED.) -/
def zeroElems (elems : List (Nat × Word)) (i : Nat) : List (Nat × Word) :=
  (elems.filter (fun e => decide (i ≤ e.1))).map (fun e => (e.1, 0))

/-- An operation that awaits the elements from one on no longer. -/
def Op.awaitBelow (o : Op) (elems : List (Nat × Word)) (i : Nat) : Op :=
  let n := (elems.filter (fun e => decide (i ≤ e.1))).length
  { o with counts := (o.counts.1, o.counts.2.1, BitVec.ofNat 64 (o.counts.2.2.toNat - n)) }

/-- Whether an element is the first that a VLDFF processes (R137). -/
def State.firstOf (s : State) (o : Op) (i : Nat) : Bool :=
  (s.siblings o).all (fun p => p.buf.all (fun e => decide (i ≤ e.1)) && (match p.kind with
    | .remoteVec _ _ l _ _ => l.all (fun e => decide (i ≤ e.1))
    | _ => true))

/-- A vector load refused at an element: a VLDFF stops there when an earlier element was processed; else the refusal is
reported as `say` does, and the elements from there on read zero. (log entry 53: DEDUCED.) -/
def State.refuseLoad (s : State) (o : Op) (vd : Nat) (elems : List (Nat × Word)) (w : Nat) (first : Bool) (cause : Cause)
    (say : State → State) (i : Nat) : State :=
  let p := o.awaitBelow elems i
  if first && !s.firstOf o i then s.setOp { p with phase := .stopped cause 0 i }
  else if first then say (s.setOp { p with buf := p.buf ++ zeroElems elems i })
  else (say (s.setOp p)).onHart o.issuer.owner (fun x => x.putElems vd w (zeroElems elems i))

/-- A refusal of an operation's element, reported to its issuer (R85, R114, R137, R353): one report for each destination core of
another chip that refuses. (log entry 74: DEDUCED.) -/
def State.refuseOp (s : State) (id : Nat) (train : Bool) (cause : Cause) (index : Word) : State :=
  match s.opAt id with
  | none => s
  | some o =>
    let i := index.toNat
    match o.kind with
    | .remoteVec _ (some vd) elems w first =>
      s.refuseLoad o vd.toNat elems w first cause (fun s => s.reportOp o cause (elemPtr elems false i) true) i
    | .remoteVec _ none elems _ _ => (s.refusePart id).reportOp o cause (elemPtr elems train i) (o.cls != .tile)
    | .fetch _ parent elems =>
      let s := s.setOp (o.awaitBelow elems i)
      match s.opAt parent with
      | some p => s.setOp { p with phase := .stopped cause (elemPtr elems false i) 0 }
      | none => s
    | .tileLoad _ tile elems _ =>
      let t := vecGet Tile.reset (s.coreAt o.core).tile.tiles tile
      let t := (zeroElems elems i).foldl (fun t e => t.setCell (e.1 / t.cols) (e.1 % t.cols) 0) t
      ((s.setOp (o.awaitBelow elems i)).setTileOf o.core tile t).reportOp o cause (elemPtr elems false i) false
    | .patFetch _ _ _ elems =>
      (s.setOp { o.awaitBelow elems i with buf := o.buf ++ zeroElems elems i }).reportOp o cause (elemPtr elems false i) true
    | .ticket chip die d =>
      let p := BitVec.ofNat 64 (7 * 2 ^ 60 + chip.toNat * 2 ^ 50 + die % 8 * 2 ^ 47)
      ((s.setOp { o with counts := (o.counts.1, o.counts.2.1, 0) }).deliver o.issuer d 0).reportOp o cause p false
    | _ => s.reportOp o cause index false

/-- An operation to a lost peer completes with PEER_GONE, said once for its instruction; a part of a copy stops the copy
(R354). Elements come in order, so those still awaited are the last. -/
def State.losePeer (chip : BitVec 10) (s : State) (o : Op) : State :=
  let tval := chip.setWidth 64
  let said := fun (s : State) =>
    if s.ops.any (fun p => decide (o.id < p.id) && p.issuer == o.issuer && p.kind.chip? == some chip &&
        p.counts.1 == o.counts.1) then s
    else s.reportOp o .peerGone tval false
  match o.kind with
  | .remote _ (some d) => ((said s).deliver o.issuer d.reg 0).endOp o
  | .remoteVec _ (some vd) elems w first =>
    match elems[elems.length - o.counts.2.2.toNat]? with
    | some e => (s.refuseLoad o vd.toNat elems w first .peerGone said e.1).checkDone o.id
    | none => (said s).checkDone o.id
  | .patFetch _ _ _ elems =>
    let rest := (elems.drop (elems.length - o.counts.2.2.toNat)).map (fun e => (e.1, (0 : Word)))
    (said (s.setOp { o with counts := (o.counts.1, o.counts.2.1, 0), buf := o.buf ++ rest })).checkDone o.id
  | .fetch _ parent _ =>
    match s.opAt parent with
    | some p => (s.setOp { p with phase := .stopped .peerGone tval 0 }).endOp o
    | none => s.endOp o
  | .ticket _ _ d => ((said s).deliver o.issuer d 0).endOp o
  | _ => ((said s).refusePart o.id).endOp o

/-- Handles whose operations follow an import that is broken (R244). -/
def State.breakHandles (chip : BitVec 10) (ids : List Nat) (p : Nat × Core) : Nat × Core :=
  (p.1, { p.2 with
    seqs := p.2.seqs.map (fun q => if q.before.any ids.contains then { q with broken := some chip } else q) })

/-- Waiters of a core whose SEMACQ follows an import that is broken complete with zero in their destination and take no count
(R244). -/
def State.breakWaiters (ids : List Nat) (s : State) (c : Nat) : State :=
  let x := s.coreAt c
  let lost := x.waiters.filter (fun w => w.preds.any ids.contains)
  let s := s.setCoreAt c { x with waiters := x.waiters.filter (fun w => !(w.preds.any ids.contains)) }
  lost.foldl (fun s w => if s.heldIn w then s.grant w 0 else s) s

/-- Imports from a lost chip break: the operations that follow them complete without effect, and each importing hart takes
one PEER_GONE (R244). An instruction that has issued and is still to be performed does so when its turn comes. -/
def State.breakImports (s : State) (c : Nat) (chip : BitVec 10) : State :=
  let lost := s.ops.filter (fun o => o.ctx == c && (match o.kind with
    | .imported k _ => k == chip
    | _ => false))
  let ids := lost.map Op.id
  let after := s.ops.filter (fun o => o.preds.any ids.contains && o.kind.held.isNone)
  let s := { s with cores := s.cores.map (State.breakHandles chip ids) }
  let s := (s.cores.map Prod.fst).foldl (State.breakWaiters ids) s
  let s := after.foldl (fun s o => match o.kind with
    | .scan _ (some d) => (s.deliver o.issuer d 0).endOp o
    | _ => s.endOp o) s
  lost.foldl (fun s o => (s.endOp o).reportOp o .peerGone (chip.setWidth 64) false) s

/-- A hart's tickets at a chip, lost. -/
def Hart.loseTickets (chip : BitVec 10) (h : Hart) : Hart :=
  { h with tickets := h.tickets.map (fun t => if t.chip = chip then { t with lost := true } else t) }

/-- Every hart of a context changed. -/
def State.onHartsOf (s : State) (c : Nat) (f : Hart → Hart) : State :=
  { s with harts := s.harts.map (fun (p : Nat × Hart) => if (s.groupAt (p.1 / 512)).ctx = c then (p.1, f p.2) else p) }

/-- A context's dispensers changed. -/
def Ctx.onDispensers (x : Ctx) (f : Dispenser → Dispenser) : Ctx :=
  { x with tickets := x.tickets.map (fun (p : Nat × Dispenser) => (p.1, f p.2)) }

/-- Tickets at a lost dispenser, and those that the lost peer held here (R361, R267). -/
def State.loseTickets (s : State) (c : Nat) (chip : BitVec 10) : State :=
  let s := s.onHartsOf c (Hart.loseTickets chip)
  s.setCtxAt c ((s.ctxAt c).onDispensers (fun d => { d with tickets := d.tickets.filter (fun t => t.chip != chip) }))

/-- A hart that waits in an XTKWAIT for a ticket at a lost dispenser leaves it with PEER_GONE, deferred (R267).
(log entry 50: DEDUCED.) -/
def State.leaveTicketWait (chip : BitVec 10) (s : State) (h : HartId) : State :=
  if s.waitsTicket chip h then
    s.onHart h (fun x =>
      { x.retire with state := .run, reports := x.reports ++ [⟨.peerGone, chip.setWidth 64, 0, .none, 0, true⟩] })
  else s

/-- The harts of a context. -/
def State.hartsOfCtx (s : State) (c : Nat) : List HartId :=
  (s.harts.filter (fun p => (s.groupAt (p.1 / 512)).ctx == c)).map (fun p => hartOfKey p.1)

/-- A session becomes GONE (R351, R354): what addresses the peer completes, and the fault run tells of it (R265). -/
def State.sessionGone (s : State) (c : Nat) (chip : BitVec 10) : State :=
  let t := (s.ctxAt c).session chip
  if t.state = .opened then
    let s := s.setCtxAt c ((s.ctxAt c).setSession
      { t with state := .gone, sent := [], held := [], trains := [], parts := [], owed := [] })
    let s := { s with uaOut := s.uaOut.filter (fun r => !(r.ctx == c && r.chip == chip)) }
    let s := (s.ops.filter (fun o => o.ctx == c && o.kind.chip? == some chip)).foldl (State.losePeer chip) s
    let s := (s.hartsOfCtx c).foldl (State.leaveTicketWait chip) s
    let s := (s.breakImports c chip).loseTickets c chip
    s.faultRecord c 0 (chip.setWidth 64) 0 0 0 0 3
  else s

/-- R351: Kennel opens a session between two permitted contexts; a context holds at most one with each other chip. -/
def execSessionOpen (ctx : Nat) (chip : BitVec 10) (peer : Nat) (s : State) : Host.Outcome State Fault Refusal :=
  let x := s.ctxAt ctx
  event ((x.state == .idle || x.state == .active || x.state == .suspended) && chip != s.chipId &&
      (x.sessions.any (fun t => t.chip == chip && t.peer == peer && t.state == .closed)))
    (fun s => s.setCtxAt ctx (x.setSession { Session.reset with chip := chip, peer := peer, state := .opened })) s

/-- R351, R267: the peer's Kennel reports the peer context gone. -/
def execSessionPeerGone (ctx : Nat) (chip : BitVec 10) (s : State) : Host.Outcome State Fault Refusal :=
  event (((s.ctxAt ctx).session chip).state == .opened) (fun s => s.sessionGone ctx chip) s

/-- R351: no station has reached the peer for 10 ms. -/
def execSessionRouteTimeout (ctx : Nat) (chip : BitVec 10) (s : State) : Host.Outcome State Fault Refusal :=
  event (((s.ctxAt ctx).session chip).state == .opened) (fun s => s.sessionGone ctx chip) s

/-- R354: every operation to a GONE peer is settled, and the session is CLOSED. Its permission went with the peer. -/
def execSessionSettled (ctx : Nat) (chip : BitVec 10) (s : State) : Host.Outcome State Fault Refusal :=
  event (((s.ctxAt ctx).session chip).state == .gone && s.ops.all (fun o => o.ctx != ctx || !o.addresses chip))
    (fun s => s.setCtxAt ctx { s.ctxAt ctx with sessions := (s.ctxAt ctx).sessions.filter (fun t => t.chip != chip) }) s

/-! ## Applying messages (R352–R362) -/

/-- What applying a message came to. -/
inductive Applied
  | ok
  | refused (cause : Cause) (index : Word)
  | later
  deriving DecidableEq, Repr

/-- Elements of a request performed in order; the first refused one stops them. Values loaded, with their indices. -/
def State.reqElems (c : Nat) (r : ReqPacket) : List (Nat × Nat × Word) → State → List (Nat × Word) →
    State × List (Nat × Word) × Option (Cause × Nat)
  | [], s, out => (s, out, none)
  | (i, off, v) :: t, s, out =>
    let n := if r.width = 4 then 1 else r.width / 8
    match s.landing c (r.core / 64) (r.core % 64) off n r.store with
    | .error e => (s, out, some (e, i))
    | .ok k =>
      let pl := Place.ls k off
      let old := s.loadVec pl r.width i
      if r.store then
        State.reqElems c r t
          (s.storeVec pl r.width i (if r.add then (old + v.toNat) % 2 ^ r.width else v.toNat)) out
      else State.reqElems c r t s (out ++ [(i, BitVec.ofNat 64 old)])

/-- A vector request (R357). A request of an instruction that has been stopped performs nothing. -/
def State.applyReq (s : State) (m : Msg) (r : ReqPacket) : State × Applied :=
  let t := (s.ctxAt m.ctx).session m.chip
  if t.stopped.contains m.tag then (s, .ok)
  else
    let (s, out, bad) := State.reqElems m.ctx r r.elems s []
    let s := (pieces out).foldl (fun s es => s.send m.ctx m.chip m.tag.toNat false false (.rdata es)) s
    match bad with
    | none => (s, .ok)
    | some (e, i) =>
      let t := (s.ctxAt m.ctx).session m.chip
      (s.setCtxAt m.ctx ((s.ctxAt m.ctx).setSession { t with stopped := t.stopped ++ [m.tag] }),
        .refused e (BitVec.ofNat 64 i))

/-- One element of a train written, or added. -/
def State.trainElem (c core : Nat) (add : Bool) (w : Nat) (s : State) (p : Nat × TrainElem) : State :=
  match s.landing c (core / 64) (core % 64) p.2.off (Nat.max 1 (w / 8)) true with
  | .error _ => s
  | .ok k =>
    let pl := Place.ls k p.2.off
    let old := s.loadVec pl w p.1
    s.storeVec pl w p.1 (if add then (old + p.2.data.toNat) % 2 ^ w else p.2.data.toNat)

/-- The first element of a train that its target refuses. -/
def State.trainBad (s : State) (c core w : Nat) (es : List TrainElem) : Option (Cause × Nat) :=
  (List.range es.length).findSome? (fun i =>
    match s.landing c (core / 64) (core % 64) ((es.map TrainElem.off).getD i 0) (Nat.max 1 (w / 8)) true with
    | .error e => some (e, i)
    | .ok _ => none)

/-- A train's TAIL: the train is written whole, or refused (R250, R358). -/
def State.applyTail (s : State) (m : Msg) (count core : Nat) (add : Bool) (w : Nat) : State × Applied :=
  let t := (s.ctxAt m.ctx).session m.chip
  let es := (((t.trains.find? (fun p => p.1 == m.tag)).map Prod.snd).getD []).flatten
  let s := s.setCtxAt m.ctx ((s.ctxAt m.ctx).setSession { t with trains := t.trains.filter (fun p => p.1 != m.tag) })
  if es.length ≠ count then (s, .refused .badAddr (BitVec.ofNat 64 es.length))
  else
    match s.trainBad m.ctx core w es with
    | some (e, i) => (s, .refused e (BitVec.ofNat 64 i))
    | none =>
      ((List.range es.length).foldl
        (fun s i => match es[i]? with
          | some e => s.trainElem m.ctx core add w (i, e)
          | none => s) s, .ok)

/-- A list kept by tag with something more under one tag. -/
def addParts {α : Type} (l : List (BitVec 32 × List α)) (tag : BitVec 32) (x : List α) : List (BitVec 32 × List α) :=
  if l.any (fun p => p.1 == tag) then l.map (fun p => if p.1 = tag then (p.1, p.2 ++ x) else p) else l ++ [(tag, x)]

/-- The die that a piece of a bulk send arrives at: its pointer's, or its run's home die (R324, R361). -/
def State.pieceDie (s : State) (c : Nat) (d : DataPiece) : Nat :=
  if ptrSpace d.dst = 5 then (s.runAt c (handleEntry d.dst)).home else ptrDie d.dst

/-- The reservation that a piece of a bulk send uses at its die's dispenser: the last piece gives it up (R361). -/
def State.useTicket (s : State) (m : Msg) (d : DataPiece) : State :=
  match d.ticket with
  | none => s
  | some n =>
    let die := s.pieceDie m.ctx d
    let use := fun (t : Ticket) =>
      if t.chip = m.chip ∧ t.number = n ∧ t.called then
        (if d.last then none else some { t with consumed := true, slots := t.slots - m.slots })
      else some t
    let x := (s.ctxAt m.ctx).dispenser die
    s.setDispenser m.ctx die { x with tickets := x.tickets.filterMap use }

/-- How an arrival that has landed counts. -/
def Landed.applied : Landed → Applied
  | .done => .ok
  | .refused c v => .refused c v
  | .full => .later

/-- A piece of a bulk send (R360): to a local store at once, to a run when the last piece is there.
(log entry 51: DEDUCED.) -/
def State.applyData (s : State) (m : Msg) (d : DataPiece) : State × Applied :=
  let t := (s.ctxAt m.ctx).session m.chip
  if t.stopped.contains m.tag then (s.useTicket m d, .ok)
  else if ptrSpace d.dst = 5 then
    let all := addParts t.parts m.tag d.bytes
    if d.last then
      let bytes := ((all.find? (fun p => p.1 == m.tag)).map Prod.snd).getD []
      match s.landRun m.ctx d.dst bytes m.publish m.wake with
      | (_, .full) => (s, .later)
      | (s, l) =>
        let t := (s.ctxAt m.ctx).session m.chip
        ((s.setCtxAt m.ctx ((s.ctxAt m.ctx).setSession { t with parts := t.parts.filter (fun p => p.1 != m.tag) })).useTicket
          m d, l.applied)
    else (((s.setCtxAt m.ctx ((s.ctxAt m.ctx).setSession { t with parts := all }))).useTicket m d, .ok)
  else
    match s.landBytes m.ctx d m.wake with
    | (s, .refused c v) =>
      let t := (s.ctxAt m.ctx).session m.chip
      let s := if d.last then s
        else s.setCtxAt m.ctx ((s.ctxAt m.ctx).setSession { t with stopped := t.stopped ++ [m.tag] })
      (s.useTicket m d, .refused c v)
    | (s, _) => (s.useTicket m d, .ok)

/-- A ticket that its holder can use no more leaves its dispenser: cancelled, and called past when it was not yet called (R361). -/
def State.endTicket (s : State) (c die : Nat) (chip : BitVec 10) (n : BitVec 32) : State :=
  let x := (s.ctxAt c).dispenser die
  s.setDispenser c die { x with tickets := x.tickets.filter (fun t => !(t.chip == chip && t.number == n)) }

/-- A ticket request from another chip: its number goes back, and a request larger than the share is cancelled; or the end of a
ticket whose holder's group has exited (R361). (log entry 50: DEDUCED.) -/
def State.applyTkreq (s : State) (m : Msg) (die bytes : Nat) (ends : Option (BitVec 32)) : State × Applied :=
  match ends with
  | some n => (s.endTicket m.ctx die m.chip n, .ok)
  | none =>
  if ((s.ctxAt m.ctx).part.getD die []).isEmpty then (s, .refused .badAddr 0)
  else
    let (s, n, excess) := s.takeTicket m.ctx die m.chip m.tag bytes
    let s := s.send m.ctx m.chip m.tag.toNat false false (.rdata [(0, n.setWidth 64)])
    (if excess then s.send m.ctx m.chip m.tag.toNat false false (.tkcall die n true) else s, .ok)

/-- A ticket call or cancellation reaches the hart that holds the ticket (R361). -/
def State.ticketCalled (s : State) (c : Nat) (chip : BitVec 10) (die : Nat) (n : BitVec 32) (cancelled : Bool) : State :=
  let mark := fun (t : Held) =>
    some (if cancelled then { t with cancelled := true } else { t with called := true })
  s.onHartsOf c (fun h => h.setHeld chip die n mark)

/-- An exporter's report (R362): the import's operations wait no longer. -/
def State.applyDone (s : State) (m : Msg) (v : Word) : State :=
  match s.ops.find? (fun o => o.ctx == m.ctx && o.kind == .imported m.chip v) with
  | some o => s.endOp o
  | none =>
    let t := (s.ctxAt m.ctx).session m.chip
    s.setCtxAt m.ctx ((s.ctxAt m.ctx).setSession { t with dones := t.dones ++ [v] })

/-- The body of a sequenced message applied. -/
def State.applyBody (s : State) (m : Msg) : State × Applied :=
  match m.body with
  | .req r => s.applyReq m r
  | .train es =>
    let t := (s.ctxAt m.ctx).session m.chip
    (s.setCtxAt m.ctx ((s.ctxAt m.ctx).setSession { t with trains := addParts t.trains m.tag [es] }), .ok)
  | .tail count core add w => s.applyTail m count.toNat core add w
  | .data d => s.applyData m d
  | .rdata es => (s.takeData m.tag.toNat es, .ok)
  | .tkreq die bytes ends => s.applyTkreq m die bytes ends
  | .tkcall die n cancelled => (s.ticketCalled m.ctx m.chip die n cancelled, .ok)
  | .note w v _ =>
    let (s, l) := s.landNote m.ctx w v
    (s, l.applied)
  | .done v => (s.applyDone m v, .ok)
  | _ => (s, .ok)

/-- A message whose turn has come is applied and counted (R353); none when it must wait. (log entry 49: DEDUCED.) -/
def State.applyMsg (s : State) (m : Msg) : Option State :=
  match s.applyBody m with
  | (_, .later) => none
  | (s, out) =>
    let t := (s.ctxAt m.ctx).session m.chip
    let t := { t with applied := t.applied + 1 }
    let t := match out with
      | .refused c v => { t with refused := t.refused ++ [⟨m.seq, c, v⟩] }
      | _ => t
    some (s.setCtxAt m.ctx ((s.ctxAt m.ctx).setSession t))

/-- Early arrivals applied as their turns come, with fuel (R352). -/
def State.applyHeld : Nat → Nat → BitVec 10 → State → State
  | 0, _, _, s => s
  | f + 1, c, chip, s =>
    let t := (s.ctxAt c).session chip
    match t.held.find? (fun m => m.seq == BitVec.ofNat 32 t.applied) with
    | none => s
    | some m =>
      match s.applyMsg m with
      | none => s
      | some s =>
        let t := (s.ctxAt c).session chip
        State.applyHeld f c chip
          (s.setCtxAt c ((s.ctxAt c).setSession { t with held := t.held.filter (fun k => k.seq != m.seq) }))

/-- The die whose receive buffer a message occupies: that of the place or the dispenser it names. A body that names none counts on
every die. (log entry 15: DESIGN CHOICE.) -/
def State.msgDie (s : State) (m : Msg) : Option Nat :=
  match m.body with
  | .req r => some (r.core / 64)
  | .tail _ core _ _ => some (core / 64)
  | .data d => some (s.pieceDie m.ctx d)
  | .tkreq die _ _ => some die
  | .note p _ _ => some (ptrDie p)
  | .rdata _ => (s.opAt m.tag.toNat).map (fun o => o.core / 64)
  | _ => none

/-- Whether a message counts on a die. -/
def State.msgOn (s : State) (die : Nat) (m : Msg) : Bool := ((s.msgDie m).map (· == die)).getD true

/-- Whether a piece of a bulk send uses slots that a called ticket has reserved (R361). -/
def State.ticketed (s : State) (m : Msg) : Bool :=
  match m.body with
  | .data d =>
    match d.ticket with
    | some n =>
      ((s.ctxAt m.ctx).dispenser (s.pieceDie m.ctx d)).tickets.any (fun t => t.chip == m.chip && t.number == n && t.called)
    | none => false
  | _ => false

/-- Slots of a die's share that are reserved or occupied: called tickets, messages that wait for their turn, TRAIN bodies until their
TAIL, and the pieces of a send to a run (R352, R361). A train's core is known with its TAIL only, so trains count on every die. -/
def State.slotsBusy (s : State) (c die : Nat) : Nat :=
  let x := s.ctxAt c
  ((((x.dispenser die).tickets.filter Ticket.called).map Ticket.slots).sum) +
    (x.sessions.map (fun t =>
      (t.trains.map (fun p => (p.2.map (fun es => slotsOf (16 + 16 * es.length))).sum)).sum +
        ((t.held.filter (fun m => s.msgOn die m && !s.ticketed m)).map Msg.slots).sum)).sum

/-- Slots of a context's share of a die's receive buffer (R352). (log entry 15: DESIGN CHOICE.) -/
def shareOf (c die : Nat) : Nat := Nat.min Config.recvSlots (Config.recvShare c die)

/-- Whether a message finds room: its slots are free in the share of each die that it counts on, or are its ticket's (R354, R361).
-/
def State.hasRoom (s : State) (m : Msg) : Bool :=
  s.ticketed m || (List.range 8).all (fun die => !s.msgOn die m || decide (s.slotsBusy m.ctx die + m.slots ≤ shareOf m.ctx die))

/-- Whether a message may be taken from the link: it finds room, or it is its turn and it is applied at once without staying in the
buffer; else it waits in the link layer (R354). (log entry 15: DESIGN CHOICE.) -/
def State.takesMsg (s : State) (m : Msg) : Bool :=
  s.hasRoom m ||
    (m.seq == BitVec.ofNat 32 ((s.ctxAt m.ctx).session m.chip).applied && (s.applyMsg m).isSome && (match m.body with
      | .train _ => false
      | _ => true))

/-- Whether a station carries traffic: one is UP or NARROW (R348). -/
def State.linked (s : State) : Bool := s.stations.toList.any (fun x => x.state == .up || x.state == .narrow)

/-- A sequenced message arrives: it waits in the link layer while the buffer has no room, is applied in its turn, held when it is
early, and dropped when it is a repeat (R352, R354). No station that is DOWN or TRAINING carries it (R348). -/
def arrive_ (ok : Bool) (m : Msg) (s : State) : Host.Outcome State Fault Refusal :=
  let t := (s.ctxAt m.ctx).session m.chip
  let ahead := (m.seq - BitVec.ofNat 32 t.applied).toNat
  event (ok && s.linked && t.state == .opened && decide (ahead < 2 ^ 31) && !(t.held.any (fun k => k.seq == m.seq)) && s.takesMsg m)
    (fun s =>
      let s := s.setCtxAt m.ctx ((s.ctxAt m.ctx).setSession { t with held := t.held ++ [m] })
      State.applyHeld (t.held.length + 1) m.ctx m.chip s) s

/-- R357, REQ. -/
def execReqMsg (m : Msg) (s : State) := arrive_ (match m.body with
  | .req _ => true
  | _ => false) m s

/-- R358, TRAIN. -/
def execTrainMsg (m : Msg) (s : State) := arrive_ (match m.body with
  | .train _ => true
  | _ => false) m s

/-- R358, TAIL. -/
def execTailMsg (m : Msg) (s : State) := arrive_ (match m.body with
  | .tail _ _ _ _ => true
  | _ => false) m s

/-- R360, DATA. -/
def execDataMsg (m : Msg) (s : State) := arrive_ (match m.body with
  | .data _ => true
  | _ => false) m s

/-- R357, RDATA. -/
def execRdataMsg (m : Msg) (s : State) := arrive_ (match m.body with
  | .rdata _ => true
  | _ => false) m s

/-- R361, TKREQ. -/
def execTkreqMsg (m : Msg) (s : State) := arrive_ (match m.body with
  | .tkreq _ _ _ => true
  | _ => false) m s

/-- R361, TKCALL. -/
def execTkcallMsg (m : Msg) (s : State) := arrive_ (match m.body with
  | .tkcall _ _ _ => true
  | _ => false) m s

/-- R362, NOTE. -/
def execNoteMsg (m : Msg) (s : State) := arrive_ (match m.body with
  | .note _ _ _ => true
  | _ => false) m s

/-- R362, DONE. -/
def execDoneMsg (m : Msg) (s : State) := arrive_ (match m.body with
  | .done _ => true
  | _ => false) m s

/-- Refusals that a RET carries and this end has not seen (R353): record k of the last is number F − n + k. -/
def freshRefusals (refused seen : Nat) (recs : List RefusalRec) : List RefusalRec :=
  recs.drop (recs.length - (refused - seen))

/-- Whether the message of a refusal record was a train's. -/
def Session.isTrain (t : Session) (seq : BitVec 32) : Bool :=
  t.sent.any (fun m => m.seq == seq && (match m.body with
    | .tail _ _ _ _ => true
    | _ => false))

/-- One refusal record reported. -/
def State.takeRefusal (t : Session) (s : State) (r : RefusalRec) : State :=
  match t.sent.find? (fun m => m.seq == r.seq) with
  | some m => s.refuseOp m.tag.toNat (t.isTrain r.seq) r.cause r.index
  | none => s

/-- R353: a RET acknowledges every message with a lower number, and carries refusals and what the other end has seen of
ours. It takes no sequence number. -/
def execRetMsg (m : Msg) (s : State) : Host.Outcome State Fault Refusal :=
  match m.body with
  | .ret a f seen recs =>
    event (s.linked && ((s.ctxAt m.ctx).session m.chip).state == .opened)
      (fun s =>
        let t := (s.ctxAt m.ctx).session m.chip
        let s := (freshRefusals f t.seenF recs).foldl (State.takeRefusal t) s
        let t := (s.ctxAt m.ctx).session m.chip
        let acked := fun (k : Msg) => (0 : BitVec 32).slt (BitVec.ofNat 32 a - k.seq)
        let tags := ((t.sent.filter acked).map (fun k => k.tag.toNat)).eraseDups
        let t := { t with
          sent := t.sent.filter (fun k => !acked k)
          seenF := Nat.max t.seenF f
          refused := t.refused.drop (seen - t.confirmed)
          confirmed := Nat.max t.confirmed seen }
        let s := s.setCtxAt m.ctx ((s.ctxAt m.ctx).setSession t)
        tags.foldl State.checkDone s) s
  | _ => .next s

/-- R352: the other end closes the session. -/
def execCloseMsg (m : Msg) (s : State) : Host.Outcome State Fault Refusal :=
  match m.body with
  | .close _ => event (s.linked && ((s.ctxAt m.ctx).session m.chip).state == .opened) (fun s => s.sessionGone m.ctx m.chip) s
  | _ => .next s

/-- R352: a message of a reserved type is discarded, and Kennel counts it. -/
def execReservedMessage (m : Msg) (s : State) : Host.Outcome State Fault Refusal :=
  match m.body with
  | .reserved n => event (s.linked && (n == 0 || decide (12 ≤ n.toNat))) (fun s => { s with discarded := s.discarded + 1 }) s
  | _ => .next s

/-- Another chip imports a value exported here (R244): the exporting sequencer moves to RETIRING, and its chip is owed a DONE. A
second import, or one of a value that is not of the whole fabric, changes nothing here. (log entry 14: DESIGN CHOICE.) -/
def State.peerImports (s : State) (c : Nat) (chip : BitVec 10) (v : Word) : State :=
  let t := (s.ctxAt c).session chip
  match s.physCore c (bitsOf v 51 3) (bitsOf v 45 6) with
  | none => s
  | some k =>
    let q := valueSeq v
    let x := (s.coreAt k).seqr q
    if s.linked ∧ t.state = .opened ∧ valueChip v = s.chipId ∧ valueScope v = 5 ∧ x.scope = 5 ∧ x.state = .exported ∧ x.gen = valueGen v ∧
        (s.groupAt (x.owner / 512)).ctx = c then
      let s := s.setCtxAt c ((s.ctxAt c).setSession { t with owed := t.owed ++ [(v, s.predsAt k q)] })
      s.retireExport k q
    else s

/-- The DONEs that have fallen due: the operations before an imported value are performed (R362). -/
def State.sendDones (s : State) (c : Nat) (chip : BitVec 10) : State :=
  let t := (s.ctxAt c).session chip
  let due := t.owed.filter (fun p => !(p.2.any s.alive))
  let s := s.setCtxAt c ((s.ctxAt c).setSession { t with owed := t.owed.filter (fun p => p.2.any s.alive) })
  due.foldl (fun s p => s.send c chip 0 false false (.done p.1)) s

/-- The return that an end of a session sends (R353): the messages that it has applied, those that it refused, what it has seen of
its own refusals, and the records that the other end has not confirmed. It takes no sequence number. -/
def retOf (c : Nat) (t : Session) : Msg :=
  ⟨c, t.chip, t.sendSeq, 0, false, false, .ret t.applied (t.confirmed + t.refused.length) t.seenF t.refused⟩

/-- R353: an end sends its return, and the DONEs that have fallen due go with it. (log entry 49: DEDUCED.) -/
def execRetSend (ctx : Nat) (chip : BitVec 10) (s : State) : Host.Outcome State Fault Refusal :=
  event (s.linked && ((s.ctxAt ctx).session chip).state == .opened)
    (fun s =>
      let s := s.sendDones ctx chip
      let t := (s.ctxAt ctx).session chip
      s.setCtxAt ctx ((s.ctxAt ctx).setSession { t with ret := some (retOf ctx t) })) s

/-! ## UALink (R349, R355, R356) -/

/-- A UALink request from another chip: to a local-store window it is performed at the bank, or answered with the error completion
when no session maps its address or the bank refuses it; the message window takes whole messages only, and answers anything else with
the error completion; a request from a peer that is lost is discarded (R349, R351). (log entry 52: DEDUCED.) -/
def ualink (ok : UaKind → Bool) (f : UaReq → Nat → Nat → Option Nat) (r : UaReq) (s : State) :
    Host.Outcome State Fault Refusal :=
  event (ok r.kind && s.linked && ((s.ctxAt r.ctx).session r.chip).state != .gone)
    (fun s =>
      let answer := fun (s : State) (v : Nat) (e : Option Cause) =>
        { s with uaDone := s.uaDone ++ [⟨r.chip, r.tag, BitVec.ofNat 64 v, e⟩] }
      let bits := 8 * r.bytes
      if ((s.ctxAt r.ctx).session r.chip).state ≠ .opened ∨ r.window = .message then answer s 0 (some .badAddr)
      else
        let write := match r.kind with
          | .read => false
          | _ => true
        match s.landing r.ctx r.die r.core r.off r.bytes write with
        | .error e => answer s 0 (some e)
        | .ok k =>
          let old := s.loadAt (.ls k r.off) r.bytes
          match f r old (r.data.toNat % 2 ^ bits) with
          | some v => answer (s.storeAt (.ls k r.off) r.bytes v) old none
          | none => answer s old none) s

/-- R349, a UALink read. (log entry 52: DEDUCED.) -/
def execUalinkRead (r : UaReq) (s : State) : Host.Outcome State Fault Refusal :=
  ualink (fun k => k == .read) (fun _ _ _ => none) r s

/-- R349, a UALink write. (log entry 52: DEDUCED.) -/
def execUalinkWrite (r : UaReq) (s : State) : Host.Outcome State Fault Refusal :=
  ualink (fun k => k == .write) (fun _ _ v => some v) r s

/-- R349, a UALink atomic: R256's function at the target's bank. (log entry 52: DEDUCED.) -/
def execUalinkAtomic (r : UaReq) (s : State) : Host.Outcome State Fault Refusal :=
  ualink (fun k => match k with
      | .amo _ _ => true
      | _ => false)
    (fun r old v => match r.kind with
      | .amo n c => some ((AmoOp.ofPos n).apply (8 * r.bytes) old v (c.toNat % 2 ^ (8 * r.bytes)))
      | _ => none) r s

/-- The pointer of a request of this chip's (R23). -/
def UaReq.pointer (r : UaReq) : Word :=
  BitVec.ofNat 64 (7 * 2 ^ 60 + r.chip.toNat * 2 ^ 50 + r.die % 8 * 2 ^ 47 + r.core % 64 * 2 ^ 41 + r.off % 2 ^ 41)

/-- R356: a completion arrives for a scalar access: its data goes to the register, or its refusal is reported (R85). -/
def execUalinkCompletion (d : UaDone) (s : State) : Host.Outcome State Fault Refusal :=
  match s.uaOut.find? (fun r => r.chip == d.chip && r.tag == d.tag), s.opAt d.tag with
  | some r, some o =>
    match o.kind with
    | .remote chip dest =>
      event (s.linked && chip == d.chip)
        (fun s =>
          let s := { s with uaOut := s.uaOut.filter (fun q => !(q.chip == d.chip && q.tag == d.tag)) }
          let value := fun (x : LoadDest) => if d.err.isSome then 0 else extend x.bytes x.signed d.data.toNat
          let s := match dest with
            | some x => s.deliver o.issuer x.reg (value x)
            | none => s
          let s := match d.err with
            | some e => s.reportOp o e r.pointer false
            | none => s
          s.endOp o) s
    | _ => .next s
  | _, _ => .next s

/-! ## Tickets at the dispenser (R361) -/

/-- Whether the ticket CALLED is still waiting; a cancelled one is called past. -/
def Dispenser.waiting (d : Dispenser) : Option Ticket := d.tickets.find? (fun t => t.number == d.called && !t.called)

/-- R361: the dispenser calls its next ticket, or calls past a cancelled one. (log entry 15: DESIGN CHOICE.) -/
def execTicketCall (ctx die : Nat) (s : State) : Host.Outcome State Fault Refusal :=
  let x := s.ctxAt ctx
  let d := x.dispenser die
  let free := shareOf ctx die - s.slotsBusy ctx die
  match d.waiting with
  | none =>
    event (d.called != d.next) (fun s => s.setDispenser ctx die { d with called := d.called + 1 }) s
  | some t =>
    event (decide (t.slots ≤ free))
      (fun s =>
        let s := s.setDispenser ctx die { d with
          called := d.called + 1
          tickets := d.tickets.map (fun k => if k.number = t.number then { k with called := true } else k) }
        if t.chip = s.chipId then s.ticketCalled ctx t.chip die t.number false
        else s.send ctx t.chip t.tag.toNat false false (.tkcall die t.number false)) s

/-- R361: a called ticket that no XSEND has consumed within 1 ms is cancelled, and its slots are free.
(log entry 34: DEDUCED.) -/
def execTicketTimeout (ctx die : Nat) (number : BitVec 32) (s : State) : Host.Outcome State Fault Refusal :=
  let d := (s.ctxAt ctx).dispenser die
  match d.tickets.find? (fun t => t.number == number && t.called && !t.consumed) with
  | none => .next s
  | some t =>
    event true
      (fun s =>
        let s := s.setDispenser ctx die { d with tickets := d.tickets.filter (fun k => k.number != number) }
        if t.chip = s.chipId then s.ticketCalled ctx t.chip die number true
        else s.send ctx t.chip t.tag.toNat false false (.tkcall die number true)) s

/-! ## Stations (R348–R350) -/

/-- A station changed. -/
def station (st : Nat) (ok : Station → Bool) (f : Station → Station) (s : State) : Host.Outcome State Fault Refusal :=
  let x := vecGet Station.reset s.stations st
  event (decide (st < 16) && ok x) (fun s => { s with stations := vecSet s.stations st (f x) }) s

/-- R348: training starts. -/
def execLinkTrainStart (st : Nat) (s : State) : Host.Outcome State Fault Refusal :=
  station st (fun x => x.state == .down) (fun x => { x with state := .training }) s

/-- R348: training succeeds at full width. -/
def execLinkTrainUp (st : Nat) (s : State) : Host.Outcome State Fault Refusal :=
  station st (fun x => x.state == .training) (fun x => { x with state := .up, lanes := 4, spareUsed := false }) s

/-- R348: training succeeds at reduced width, two lanes or one. -/
def execLinkTrainNarrow (st lanes : Nat) (s : State) : Host.Outcome State Fault Refusal :=
  station st (fun x => x.state == .training && (lanes == 1 || lanes == 2))
    (fun x => { x with state := .narrow, lanes := lanes, spareUsed := true }) s

/-- R348: an active lane fails: the unused spare replaces it, or the width halves; without a lane left the link is DOWN. -/
def execLaneFail (st : Nat) (s : State) : Host.Outcome State Fault Refusal :=
  station st (fun x => x.state == .up || x.state == .narrow)
    (fun x =>
      if x.state = .up ∧ x.spareUsed = false then { x with spareUsed := true }
      else if x.lanes / 2 = 0 then { x with state := .down, lanes := 0 }
      else { x with state := .narrow, lanes := x.lanes / 2, spareUsed := true }) s

/-- R348: fewer than one good lane, or training fails. -/
def execLinkDown (st : Nat) (s : State) : Host.Outcome State Fault Refusal :=
  station st (fun x => x.state != .down) (fun x => { x with state := .down, lanes := 0 }) s

/-- R350: Watchdog samples a station, and moves a weak lane onto the unused spare. -/
def execWatchdogSample (st : Nat) (weak : Bool) (s : State) : Host.Outcome State Fault Refusal :=
  station st (fun x => weak && x.state == .up && !x.spareUsed) (fun x => { x with spareUsed := true }) s

/-- R349, R353: link-level replay repairs a flit; one that fails is healed by the next return, so nothing is lost. -/
def execLinkLevelReplay (st : Nat) (repaired : Bool) (s : State) : Host.Outcome State Fault Refusal :=
  station st (fun x => x.state == .up || x.state == .narrow)
    (fun x => if repaired then { x with replays := x.replays + 1 } else x) s

end Sys2Proof.Machine
end

