-- ==== Sys2Proof/Machine/Vector.lean ====
section
/-!
DEFINITION. Element-wise vector arithmetic: majors 0x20–0x2D (R119–R122). Each meaning is one shared loop applied to a
function of the elements.
-/

namespace Sys2Proof.Machine

/-- A two-source element-wise instruction: sources of width `ws`, a result of width `wd`, and a function of a, b and the
old element of vd, which yields the result and the flags it raises (R15, R112). A write-bound vd of VFMA or VWMAC is no source of
R113: its old elements are the register's own bits. (log entry 73: DEDUCED.) -/
def vop (ws wd : Nat) (d a b : Reg) (nb : BitVec 2) (mk : MReg) (f : State → Nat → Nat → Nat → Nat × FFlags) (s : State) :
    Host.Outcome State Fault Refusal :=
  issue .lanes (do
    arith (VNames.addSrc2 ⟨[], [a], [d], [], [mk]⟩ nb b) (if nb = 0 then [(a, ws), (b, ws)] else [(a, ws)]) [(d, wd)] mk (Nat.max ws wd) (fun pops i =>
      act (fun s =>
        let r := f s (s.source pops a i ws) (s.source2 pops nb b i ws) (s.elem d.toNat i wd)
        (s.raise r.2).putElem d i wd r.1))
    pure .seq) s

/-- A one-source element-wise instruction. -/
def vop1 (ws wd : Nat) (d a : Reg) (mk : MReg) (f : State → Nat → Nat × FFlags) (s : State) :
    Host.Outcome State Fault Refusal :=
  issue .lanes (do
    arith ⟨[], [a], [d], [], [mk]⟩ [(a, ws)] [(d, wd)] mk (Nat.max ws wd) (fun pops i =>
      act (fun s =>
        let r := f s (s.source pops a i ws)
        (s.raise r.2).putElem d i wd r.1))
    pure .seq) s

/-! ## Integer instructions (R119, R120) -/

/-- The element width of an integer type field: i8, i16, i32, i64. -/
def intWidth (t : BitVec 2) : Nat := 8 * 2 ^ t.toNat

/-- An integer instruction of type `t`: a function of the width and two unsigned elements, taken modulo 2^w. -/
def vint (f : Nat → Nat → Nat → Int) (d a b : Reg) (nb : BitVec 2) (mk : MReg) (t : BitVec 2) (s : State) :
    Host.Outcome State Fault Refusal :=
  let w := intWidth t
  vop w w d a b nb mk (fun _ x y _ => ((f w x y % 2 ^ w).toNat, 0)) s

/-- A value clamped to the signed range of a width. -/
def clampSigned (w : Nat) (x : Int) : Int := max (-(2 ^ (w - 1))) (min (2 ^ (w - 1) - 1) x)

/-- R119, VADD. -/
def execVadd (d a b : Reg) (n : BitVec 2) (m : MReg) (t : BitVec 2) (s : State) :=
  vint (fun _ x y => (x : Int) + y) d a b n m t s

/-- R119, VSUB. -/
def execVsub (d a b : Reg) (n : BitVec 2) (m : MReg) (t : BitVec 2) (s : State) :=
  vint (fun _ x y => (x : Int) - y) d a b n m t s

/-- R119, VMUL. -/
def execVmul (d a b : Reg) (n : BitVec 2) (m : MReg) (t : BitVec 2) (s : State) :=
  vint (fun _ x y => (x : Int) * y) d a b n m t s

/-- R119, VMULH. -/
def execVmulh (d a b : Reg) (n : BitVec 2) (m : MReg) (t : BitVec 2) (s : State) :=
  vint (fun w x y => sextNat x w * sextNat y w / 2 ^ w) d a b n m t s

/-- R119, VMIN. -/
def execVmin (d a b : Reg) (n : BitVec 2) (m : MReg) (t : BitVec 2) (s : State) :=
  vint (fun w x y => min (sextNat x w) (sextNat y w)) d a b n m t s

/-- R119, VMAX. -/
def execVmax (d a b : Reg) (n : BitVec 2) (m : MReg) (t : BitVec 2) (s : State) :=
  vint (fun w x y => max (sextNat x w) (sextNat y w)) d a b n m t s

/-- R119, VMINN. -/
def execVminn (d a b : Reg) (n : BitVec 2) (m : MReg) (t : BitVec 2) (s : State) :=
  vint (fun _ x y => (Nat.min x y : Nat)) d a b n m t s

/-- R119, VMAXN. -/
def execVmaxn (d a b : Reg) (n : BitVec 2) (m : MReg) (t : BitVec 2) (s : State) :=
  vint (fun _ x y => (Nat.max x y : Nat)) d a b n m t s

/-- R119, VAND. -/
def execVand (d a b : Reg) (n : BitVec 2) (m : MReg) (t : BitVec 2) (s : State) :=
  vint (fun _ x y => (x &&& y : Nat)) d a b n m t s

/-- R119, VOR. -/
def execVor (d a b : Reg) (n : BitVec 2) (m : MReg) (t : BitVec 2) (s : State) :=
  vint (fun _ x y => (x ||| y : Nat)) d a b n m t s

/-- R119, VXOR. -/
def execVxor (d a b : Reg) (n : BitVec 2) (m : MReg) (t : BitVec 2) (s : State) :=
  vint (fun _ x y => (x ^^^ y : Nat)) d a b n m t s

/-- R119, VSLL: the amount is b mod w. -/
def execVsll (d a b : Reg) (n : BitVec 2) (m : MReg) (t : BitVec 2) (s : State) :=
  vint (fun w x y => (x * 2 ^ (y % w) : Nat)) d a b n m t s

/-- R119, VSRL. -/
def execVsrl (d a b : Reg) (n : BitVec 2) (m : MReg) (t : BitVec 2) (s : State) :=
  vint (fun w x y => (x / 2 ^ (y % w) : Nat)) d a b n m t s

/-- R119, VSRA. -/
def execVsra (d a b : Reg) (n : BitVec 2) (m : MReg) (t : BitVec 2) (s : State) :=
  vint (fun w x y => sextNat x w / 2 ^ (y % w)) d a b n m t s

/-- R119, VADDS. -/
def execVadds (d a b : Reg) (n : BitVec 2) (m : MReg) (t : BitVec 2) (s : State) :=
  vint (fun w x y => clampSigned w (sextNat x w + sextNat y w)) d a b n m t s

/-- R119, VSUBS. -/
def execVsubs (d a b : Reg) (n : BitVec 2) (m : MReg) (t : BitVec 2) (s : State) :=
  vint (fun w x y => clampSigned w (sextNat x w - sextNat y w)) d a b n m t s

/-- A source extended by its type (R120). -/
def extendBy (signed : Bool) (x w : Nat) : Int := if signed then sextNat x w else (x : Int)

/-- R120, a widening sum from width `w` to `wd`. -/
def vwadd (signed : Bool) (w wd : Nat) (d a b : Reg) (n : BitVec 2) (m : MReg) (s : State) :
    Host.Outcome State Fault Refusal :=
  vop w wd d a b n m (fun _ x y _ => (((extendBy signed x w + extendBy signed y w) % 2 ^ wd).toNat, 0)) s

/-- R120, a widening multiply-accumulate into 32 bits. -/
def vwmac (w : Nat) (d a b : Reg) (n : BitVec 2) (m : MReg) (s : State) : Host.Outcome State Fault Refusal :=
  vop w 32 d a b n m (fun _ x y c => ((((c : Int) + sextNat x w * sextNat y w) % 2 ^ 32).toNat, 0)) s

/-- R120, VWADD.i8. -/
def execVwaddI8 (d a b : Reg) (n : BitVec 2) (m : MReg) (s : State) := vwadd true 8 32 d a b n m s

/-- R120, VWADD.i16. -/
def execVwaddI16 (d a b : Reg) (n : BitVec 2) (m : MReg) (s : State) := vwadd true 16 32 d a b n m s

/-- R120, VWADD.i32. -/
def execVwaddI32 (d a b : Reg) (n : BitVec 2) (m : MReg) (s : State) := vwadd true 32 64 d a b n m s

/-- R120, VWADD.n8. -/
def execVwaddN8 (d a b : Reg) (n : BitVec 2) (m : MReg) (s : State) := vwadd false 8 32 d a b n m s

/-- R120, VWADD.n16. -/
def execVwaddN16 (d a b : Reg) (n : BitVec 2) (m : MReg) (s : State) := vwadd false 16 32 d a b n m s

/-- R120, VWADD.n32. -/
def execVwaddN32 (d a b : Reg) (n : BitVec 2) (m : MReg) (s : State) := vwadd false 32 64 d a b n m s

/-- R120, VWMAC.i8. -/
def execVwmacI8 (d a b : Reg) (n : BitVec 2) (m : MReg) (s : State) := vwmac 8 d a b n m s

/-- R120, VWMAC.i16. -/
def execVwmacI16 (d a b : Reg) (n : BitVec 2) (m : MReg) (s : State) := vwmac 16 d a b n m s

/-! ## Floating-point instructions (R121, R122) -/

/-- The issuer's rounding mode (R51). -/
def State.mode (s : State) : RMode := RMode.ofFrm s.frm

/-- A two-source floating-point instruction of a format. -/
def vfp (t : Fmt) (f : Fmt → RMode → Nat → Nat → Nat → Nat × FFlags) (d a b : Reg) (n : BitVec 2) (m : MReg)
    (s : State) : Host.Outcome State Fault Refusal :=
  vop t.width t.width d a b n m (fun s x y c => f t s.mode x y c) s

/-- A one-source floating-point instruction of a format. -/
def vfp1 (t : Fmt) (f : Fmt → RMode → Nat → Nat × FFlags) (d a : Reg) (m : MReg) (s : State) :
    Host.Outcome State Fault Refusal :=
  vop1 t.width t.width d a m (fun s x => f t s.mode x) s

/-- a + b, rounded once (R58). -/
def fAdd (t : Fmt) (r : RMode) (x y _c : Nat) : Nat × FFlags := t.sum r [t.decode x, t.decode y]

/-- a − b, rounded once (R58). -/
def fSub (t : Fmt) (r : RMode) (x y _c : Nat) : Nat × FFlags := t.sum r [t.decode x, (t.decode y).negate]

/-- a × b, rounded once (R58). -/
def fMul (t : Fmt) (r : RMode) (x y _c : Nat) : Nat × FFlags := t.mul r (t.decode x) (t.decode y)

/-- a × b + c, rounded once (R58). -/
def fFma (t : Fmt) (r : RMode) (x y c : Nat) : Nat × FFlags := t.fma r (t.decode x) (t.decode y) (t.decode c)

/-- minimumNumber (R47). -/
def fMin (t : Fmt) (_r : RMode) (x y _c : Nat) : Nat × FFlags := t.minmax false x y

/-- maximumNumber (R47). -/
def fMax (t : Fmt) (_r : RMode) (x y _c : Nat) : Nat × FFlags := t.minmax true x y

/-- a / b, rounded once (R58). -/
def fDiv (t : Fmt) (r : RMode) (x y _c : Nat) : Nat × FFlags := t.div r (t.decode x) (t.decode y) 0

/-- √a, rounded once (R58). -/
def fSqrt (t : Fmt) (r : RMode) (x : Nat) : Nat × FFlags := t.sqrt r (t.decode x)

/-- R121, VFADD.f64. -/
def execVfaddF64 (d a b : Reg) (n : BitVec 2) (m : MReg) (s : State) := vfp f64 fAdd d a b n m s

/-- R121, VFSUB.f64. -/
def execVfsubF64 (d a b : Reg) (n : BitVec 2) (m : MReg) (s : State) := vfp f64 fSub d a b n m s

/-- R121, VFMUL.f64. -/
def execVfmulF64 (d a b : Reg) (n : BitVec 2) (m : MReg) (s : State) := vfp f64 fMul d a b n m s

/-- R121, VFMA.f64. -/
def execVfmaF64 (d a b : Reg) (n : BitVec 2) (m : MReg) (s : State) := vfp f64 fFma d a b n m s

/-- R121, VFMIN.f64. -/
def execVfminF64 (d a b : Reg) (n : BitVec 2) (m : MReg) (s : State) := vfp f64 fMin d a b n m s

/-- R121, VFMAX.f64. -/
def execVfmaxF64 (d a b : Reg) (n : BitVec 2) (m : MReg) (s : State) := vfp f64 fMax d a b n m s

/-- R121, VFDIV.f64. -/
def execVfdivF64 (d a b : Reg) (n : BitVec 2) (m : MReg) (s : State) := vfp f64 fDiv d a b n m s

/-- R121, VFSQRT.f64. -/
def execVfsqrtF64 (d a : Reg) (m : MReg) (s : State) := vfp1 f64 fSqrt d a m s

/-- R121, VFADD.f32. -/
def execVfaddF32 (d a b : Reg) (n : BitVec 2) (m : MReg) (s : State) := vfp f32 fAdd d a b n m s

/-- R121, VFSUB.f32. -/
def execVfsubF32 (d a b : Reg) (n : BitVec 2) (m : MReg) (s : State) := vfp f32 fSub d a b n m s

/-- R121, VFMUL.f32. -/
def execVfmulF32 (d a b : Reg) (n : BitVec 2) (m : MReg) (s : State) := vfp f32 fMul d a b n m s

/-- R121, VFMA.f32. -/
def execVfmaF32 (d a b : Reg) (n : BitVec 2) (m : MReg) (s : State) := vfp f32 fFma d a b n m s

/-- R121, VFMIN.f32. -/
def execVfminF32 (d a b : Reg) (n : BitVec 2) (m : MReg) (s : State) := vfp f32 fMin d a b n m s

/-- R121, VFMAX.f32. -/
def execVfmaxF32 (d a b : Reg) (n : BitVec 2) (m : MReg) (s : State) := vfp f32 fMax d a b n m s

/-- R121, VFDIV.f32. -/
def execVfdivF32 (d a b : Reg) (n : BitVec 2) (m : MReg) (s : State) := vfp f32 fDiv d a b n m s

/-- R121, VFSQRT.f32. -/
def execVfsqrtF32 (d a : Reg) (m : MReg) (s : State) := vfp1 f32 fSqrt d a m s

/-- R121, VFADD.bf16. -/
def execVfaddBf16 (d a b : Reg) (n : BitVec 2) (m : MReg) (s : State) := vfp bf16 fAdd d a b n m s

/-- R121, VFSUB.bf16. -/
def execVfsubBf16 (d a b : Reg) (n : BitVec 2) (m : MReg) (s : State) := vfp bf16 fSub d a b n m s

/-- R121, VFMUL.bf16. -/
def execVfmulBf16 (d a b : Reg) (n : BitVec 2) (m : MReg) (s : State) := vfp bf16 fMul d a b n m s

/-- R121, VFMA.bf16. -/
def execVfmaBf16 (d a b : Reg) (n : BitVec 2) (m : MReg) (s : State) := vfp bf16 fFma d a b n m s

/-- R121, VFMIN.bf16. -/
def execVfminBf16 (d a b : Reg) (n : BitVec 2) (m : MReg) (s : State) := vfp bf16 fMin d a b n m s

/-- R121, VFMAX.bf16. -/
def execVfmaxBf16 (d a b : Reg) (n : BitVec 2) (m : MReg) (s : State) := vfp bf16 fMax d a b n m s

/-- R121, VFDIV.bf16. -/
def execVfdivBf16 (d a b : Reg) (n : BitVec 2) (m : MReg) (s : State) := vfp bf16 fDiv d a b n m s

/-- R121, VFSQRT.bf16. -/
def execVfsqrtBf16 (d a : Reg) (m : MReg) (s : State) := vfp1 bf16 fSqrt d a m s

/-- R121, VFADD.f16. -/
def execVfaddF16 (d a b : Reg) (n : BitVec 2) (m : MReg) (s : State) := vfp f16 fAdd d a b n m s

/-- R121, VFSUB.f16. -/
def execVfsubF16 (d a b : Reg) (n : BitVec 2) (m : MReg) (s : State) := vfp f16 fSub d a b n m s

/-- R121, VFMUL.f16. -/
def execVfmulF16 (d a b : Reg) (n : BitVec 2) (m : MReg) (s : State) := vfp f16 fMul d a b n m s

/-- R121, VFMA.f16. -/
def execVfmaF16 (d a b : Reg) (n : BitVec 2) (m : MReg) (s : State) := vfp f16 fFma d a b n m s

/-- R121, VFMIN.f16. -/
def execVfminF16 (d a b : Reg) (n : BitVec 2) (m : MReg) (s : State) := vfp f16 fMin d a b n m s

/-- R121, VFMAX.f16. -/
def execVfmaxF16 (d a b : Reg) (n : BitVec 2) (m : MReg) (s : State) := vfp f16 fMax d a b n m s

/-- R121, VFDIV.f16. -/
def execVfdivF16 (d a b : Reg) (n : BitVec 2) (m : MReg) (s : State) := vfp f16 fDiv d a b n m s

/-- R121, VFSQRT.f16. -/
def execVfsqrtF16 (d a : Reg) (m : MReg) (s : State) := vfp1 f16 fSqrt d a m s

/-- R122, VFRECIP: 1/x, rounded once. -/
def execVfrecip (d a : Reg) (m : MReg) (s : State) :=
  vfp1 f32 (fun t r x => t.div r (.num false 1 0) (t.decode x) 0) d a m s

/-- R122, VFRSQRT. -/
def execVfrsqrt (d a : Reg) (m : MReg) (s : State) := vfp1 f32 (fun t r x => t.rsqrt r (t.decode x)) d a m s

/-- R122, VFEXP2. -/
def execVfexp2 (d a : Reg) (m : MReg) (s : State) := vfp1 f32 (fun t r x => t.exp2 r (t.decode x)) d a m s

/-- R122, VFLOG2. -/
def execVflog2 (d a : Reg) (m : MReg) (s : State) := vfp1 f32 (fun t r x => t.log2 r (t.decode x)) d a m s

/-- R122, VFABS: the sign bit cleared, NaNs kept. -/
def execVfabs (d a : Reg) (m : MReg) (s : State) := vfp1 f32 (fun _ _ x => (x % 2 ^ 31, 0)) d a m s

/-- R122, VFNEG: the sign bit flipped, NaNs kept. -/
def execVfneg (d a : Reg) (m : MReg) (s : State) := vfp1 f32 (fun _ _ x => (x ^^^ 2 ^ 31, 0)) d a m s

/-- R122, VFCLASS. -/
def execVfclass (d a : Reg) (m : MReg) (s : State) := vfp1 f32 (fun t _ x => (2 ^ t.classBit x, 0)) d a m s

/-- R122, VFSGNJ: a with b's sign bit. -/
def execVfsgnj (d a b : Reg) (n : BitVec 2) (m : MReg) (s : State) :=
  vfp f32 (fun _ _ x y _ => (x % 2 ^ 31 + y / 2 ^ 31 * 2 ^ 31, 0)) d a b n m s

end Sys2Proof.Machine
end

