-- ==== Sys2Proof/Machine/VMask.lean ====
section
/-!
DEFINITION. Compares, mask instructions, permutes, scans and reductions: majors 0x2E–0x35 (R123–R127).
-/

namespace Sys2Proof.Machine

/-! ## Compares (R123) -/

/-- A compare of width `w` into mask `d`. -/
def vcmp (w : Nat) (d : MReg) (a b : Reg) (nb : BitVec 2) (mk : MReg) (f : Nat → Nat → Bool × FFlags) (s : State) :
    Host.Outcome State Fault Refusal :=
  issue .lanes (do
    arith (VNames.addSrc2 ⟨[], [a], [], [], [mk, d]⟩ nb b) (if nb = 0 then [(a, w), (b, w)] else [(a, w)]) [] mk w (fun pops i =>
      act (fun s =>
        let r := f (s.source pops a i w) (s.source2 pops nb b i w)
        (s.raise r.2).setMaskBit d.toNat i w r.1))
    pure .seq) s

/-- An integer compare. -/
def vcmpInt (w : Nat) (f : Nat → Nat → Bool) (d : MReg) (a b : Reg) (n : BitVec 2) (m : MReg) (s : State) :
    Host.Outcome State Fault Refusal :=
  vcmp w d a b n m (fun x y => (f x y, 0)) s

/-- VBOUND (R123): bit i is set when i < sN as n64. -/
def vbound (w : Nat) (d : MReg) (b : Reg) (m : MReg) (s : State) : Host.Outcome State Fault Refusal :=
  issue .lanes (do
    arith ⟨[b], [], [], [], [m, d]⟩ [] [] m w (fun _ i => act (fun s => s.setMaskBit d.toNat i w (decide (i < (s.rs b).toNat))))
    pure .seq) s

/-- A floating-point compare: `quiet` raises NV for a signalling NaN only. -/
def vcmpFp (t : Fmt) (quiet : Bool) (f : Option Ordering → Bool) (d : MReg) (a b : Reg) (n : BitVec 2) (m : MReg)
    (s : State) : Host.Outcome State Fault Refusal :=
  vcmp t.width d a b n m (fun x y =>
    let p := t.decode x
    let q := t.decode y
    let nan := p.isNan || q.isNan
    (f (if nan then none else some (p.cmp q)), flagIf (p.signals || q.signals || (nan && !quiet)) flagNV)) s

/-- Equal. -/
def isEq (o : Option Ordering) : Bool := o == some .eq

/-- Less. -/
def isLt (o : Option Ordering) : Bool := o == some .lt

/-- Less or equal. -/
def isLe (o : Option Ordering) : Bool := o == some .lt || o == some .eq

/-- Unordered. -/
def isUn (o : Option Ordering) : Bool := o == none

/-- R123, VCMPEQ.i8. -/
def execVcmpeqI8 (d : MReg) (a b : Reg) (n : BitVec 2) (m : MReg) (s : State) :=
  vcmpInt 8 (fun x y => x == y) d a b n m s

/-- R123, VCMPNE.i8. -/
def execVcmpneI8 (d : MReg) (a b : Reg) (n : BitVec 2) (m : MReg) (s : State) :=
  vcmpInt 8 (fun x y => x != y) d a b n m s

/-- R123, VCMPLT.i8. -/
def execVcmpltI8 (d : MReg) (a b : Reg) (n : BitVec 2) (m : MReg) (s : State) :=
  vcmpInt 8 (fun x y => decide (sextNat x 8 < sextNat y 8)) d a b n m s

/-- R123, VCMPLE.i8. -/
def execVcmpleI8 (d : MReg) (a b : Reg) (n : BitVec 2) (m : MReg) (s : State) :=
  vcmpInt 8 (fun x y => decide (sextNat x 8 ≤ sextNat y 8)) d a b n m s

/-- R123, VCMPLTN.i8. -/
def execVcmpltnI8 (d : MReg) (a b : Reg) (n : BitVec 2) (m : MReg) (s : State) :=
  vcmpInt 8 (fun x y => decide (x < y)) d a b n m s

/-- R123, VCMPLEN.i8. -/
def execVcmplenI8 (d : MReg) (a b : Reg) (n : BitVec 2) (m : MReg) (s : State) :=
  vcmpInt 8 (fun x y => decide (x ≤ y)) d a b n m s

/-- R123, VBOUND.i8. -/
def execVboundI8 (d : MReg) (b : Reg) (m : MReg) (s : State) := vbound 8 d b m s

/-- R123, VCMPEQ.i16. -/
def execVcmpeqI16 (d : MReg) (a b : Reg) (n : BitVec 2) (m : MReg) (s : State) :=
  vcmpInt 16 (fun x y => x == y) d a b n m s

/-- R123, VCMPNE.i16. -/
def execVcmpneI16 (d : MReg) (a b : Reg) (n : BitVec 2) (m : MReg) (s : State) :=
  vcmpInt 16 (fun x y => x != y) d a b n m s

/-- R123, VCMPLT.i16. -/
def execVcmpltI16 (d : MReg) (a b : Reg) (n : BitVec 2) (m : MReg) (s : State) :=
  vcmpInt 16 (fun x y => decide (sextNat x 16 < sextNat y 16)) d a b n m s

/-- R123, VCMPLE.i16. -/
def execVcmpleI16 (d : MReg) (a b : Reg) (n : BitVec 2) (m : MReg) (s : State) :=
  vcmpInt 16 (fun x y => decide (sextNat x 16 ≤ sextNat y 16)) d a b n m s

/-- R123, VCMPLTN.i16. -/
def execVcmpltnI16 (d : MReg) (a b : Reg) (n : BitVec 2) (m : MReg) (s : State) :=
  vcmpInt 16 (fun x y => decide (x < y)) d a b n m s

/-- R123, VCMPLEN.i16. -/
def execVcmplenI16 (d : MReg) (a b : Reg) (n : BitVec 2) (m : MReg) (s : State) :=
  vcmpInt 16 (fun x y => decide (x ≤ y)) d a b n m s

/-- R123, VBOUND.i16. -/
def execVboundI16 (d : MReg) (b : Reg) (m : MReg) (s : State) := vbound 16 d b m s

/-- R123, VCMPEQ.i32. -/
def execVcmpeqI32 (d : MReg) (a b : Reg) (n : BitVec 2) (m : MReg) (s : State) :=
  vcmpInt 32 (fun x y => x == y) d a b n m s

/-- R123, VCMPNE.i32. -/
def execVcmpneI32 (d : MReg) (a b : Reg) (n : BitVec 2) (m : MReg) (s : State) :=
  vcmpInt 32 (fun x y => x != y) d a b n m s

/-- R123, VCMPLT.i32. -/
def execVcmpltI32 (d : MReg) (a b : Reg) (n : BitVec 2) (m : MReg) (s : State) :=
  vcmpInt 32 (fun x y => decide (sextNat x 32 < sextNat y 32)) d a b n m s

/-- R123, VCMPLE.i32. -/
def execVcmpleI32 (d : MReg) (a b : Reg) (n : BitVec 2) (m : MReg) (s : State) :=
  vcmpInt 32 (fun x y => decide (sextNat x 32 ≤ sextNat y 32)) d a b n m s

/-- R123, VCMPLTN.i32. -/
def execVcmpltnI32 (d : MReg) (a b : Reg) (n : BitVec 2) (m : MReg) (s : State) :=
  vcmpInt 32 (fun x y => decide (x < y)) d a b n m s

/-- R123, VCMPLEN.i32. -/
def execVcmplenI32 (d : MReg) (a b : Reg) (n : BitVec 2) (m : MReg) (s : State) :=
  vcmpInt 32 (fun x y => decide (x ≤ y)) d a b n m s

/-- R123, VBOUND.i32. -/
def execVboundI32 (d : MReg) (b : Reg) (m : MReg) (s : State) := vbound 32 d b m s

/-- R123, VCMPEQ.i64. -/
def execVcmpeqI64 (d : MReg) (a b : Reg) (n : BitVec 2) (m : MReg) (s : State) :=
  vcmpInt 64 (fun x y => x == y) d a b n m s

/-- R123, VCMPNE.i64. -/
def execVcmpneI64 (d : MReg) (a b : Reg) (n : BitVec 2) (m : MReg) (s : State) :=
  vcmpInt 64 (fun x y => x != y) d a b n m s

/-- R123, VCMPLT.i64. -/
def execVcmpltI64 (d : MReg) (a b : Reg) (n : BitVec 2) (m : MReg) (s : State) :=
  vcmpInt 64 (fun x y => decide (sextNat x 64 < sextNat y 64)) d a b n m s

/-- R123, VCMPLE.i64. -/
def execVcmpleI64 (d : MReg) (a b : Reg) (n : BitVec 2) (m : MReg) (s : State) :=
  vcmpInt 64 (fun x y => decide (sextNat x 64 ≤ sextNat y 64)) d a b n m s

/-- R123, VCMPLTN.i64. -/
def execVcmpltnI64 (d : MReg) (a b : Reg) (n : BitVec 2) (m : MReg) (s : State) :=
  vcmpInt 64 (fun x y => decide (x < y)) d a b n m s

/-- R123, VCMPLEN.i64. -/
def execVcmplenI64 (d : MReg) (a b : Reg) (n : BitVec 2) (m : MReg) (s : State) :=
  vcmpInt 64 (fun x y => decide (x ≤ y)) d a b n m s

/-- R123, VBOUND.i64. -/
def execVboundI64 (d : MReg) (b : Reg) (m : MReg) (s : State) := vbound 64 d b m s

/-- R123, VFCMPEQ.f32. -/
def execVfcmpeqF32 (d : MReg) (a b : Reg) (n : BitVec 2) (m : MReg) (s : State) := vcmpFp f32 true isEq d a b n m s

/-- R123, VFCMPLT.f32. -/
def execVfcmpltF32 (d : MReg) (a b : Reg) (n : BitVec 2) (m : MReg) (s : State) := vcmpFp f32 false isLt d a b n m s

/-- R123, VFCMPLE.f32. -/
def execVfcmpleF32 (d : MReg) (a b : Reg) (n : BitVec 2) (m : MReg) (s : State) := vcmpFp f32 false isLe d a b n m s

/-- R123, VFCMPUN.f32. -/
def execVfcmpunF32 (d : MReg) (a b : Reg) (n : BitVec 2) (m : MReg) (s : State) := vcmpFp f32 true isUn d a b n m s

/-- R123, VFCMPEQ.f64. -/
def execVfcmpeqF64 (d : MReg) (a b : Reg) (n : BitVec 2) (m : MReg) (s : State) := vcmpFp f64 true isEq d a b n m s

/-- R123, VFCMPLT.f64. -/
def execVfcmpltF64 (d : MReg) (a b : Reg) (n : BitVec 2) (m : MReg) (s : State) := vcmpFp f64 false isLt d a b n m s

/-- R123, VFCMPLE.f64. -/
def execVfcmpleF64 (d : MReg) (a b : Reg) (n : BitVec 2) (m : MReg) (s : State) := vcmpFp f64 false isLe d a b n m s

/-- R123, VFCMPUN.f64. -/
def execVfcmpunF64 (d : MReg) (a b : Reg) (n : BitVec 2) (m : MReg) (s : State) := vcmpFp f64 true isUn d a b n m s

/-! ## Mask instructions (R124) -/

/-- A mask instruction that writes md bit by bit. -/
def mlogic (names : List MReg) (d mk : MReg) (f : State → Nat → Nat → Bool) (s : State) :
    Host.Outcome State Fault Refusal :=
  issue .lanes (do
    vlane ⟨[], [], [], [], mk :: d :: names⟩
    let s ← get
    elements s.countVl (fun i => act (fun s =>
      if s.maskBit mk.toNat i s.vsew then s.setMaskBit d.toNat i s.vsew (f s i s.vsew) else s))
    pure .seq) s

/-- R124, MAND. -/
def execMand (d a b m : MReg) (s : State) :=
  mlogic [a, b] d m (fun s i w => s.maskBit a.toNat i w && s.maskBit b.toNat i w) s

/-- R124, MOR. -/
def execMor (d a b m : MReg) (s : State) :=
  mlogic [a, b] d m (fun s i w => s.maskBit a.toNat i w || s.maskBit b.toNat i w) s

/-- R124, MXOR. -/
def execMxor (d a b m : MReg) (s : State) :=
  mlogic [a, b] d m (fun s i w => s.maskBit a.toNat i w != s.maskBit b.toNat i w) s

/-- R124, MANDN. -/
def execMandn (d a b m : MReg) (s : State) :=
  mlogic [a, b] d m (fun s i w => s.maskBit a.toNat i w && !s.maskBit b.toNat i w) s

/-- R124, MNOT. -/
def execMnot (d a m : MReg) (s : State) := mlogic [a] d m (fun s i w => !s.maskBit a.toNat i w) s

/-- The i < n that a mask instruction selects. -/
def State.selected (s : State) (a mk : MReg) : List Nat :=
  (List.range s.countVl).filter (fun i => s.maskBit mk.toNat i s.vsew && s.maskBit a.toNat i s.vsew)

/-- A mask instruction that writes a scalar; it never stops part-way. -/
def mcount (d : Reg) (a m : MReg) (f : List Nat → Word) (s : State) : Host.Outcome State Fault Refusal :=
  issue .lanes (do
    vlane ⟨[d], [], [], [], [m, a]⟩
    act (fun s => (s.setRs d (f (s.selected a m))).setVstart 0)
    pure .seq) s

/-- R124, MPOPC. -/
def execMpopc (d : Reg) (a m : MReg) (s : State) := mcount d a m (fun l => BitVec.ofNat 64 l.length) s

/-- R124, MFIRST. -/
def execMfirst (d : Reg) (a m : MReg) (s : State) :=
  mcount d a m (fun l => match l with
    | [] => BitVec.allOnes 64
    | i :: _ => BitVec.ofNat 64 i) s

/-- R124, MSETVL: the first selected set bit is found before md is written. -/
def execMsetvl (d a m : MReg) (s : State) : Host.Outcome State Fault Refusal :=
  let first := (s.selected a m).headD s.countVl
  mlogic [a] d m (fun _ i _ => decide (i < first)) s

/-! ## Permutes (R125) -/

/-- A permute's element loop: the sources are those of the state it begins in. -/
def permute (v : VNames) (d : Reg) (mk : MReg) (f : State → Nat → Option Nat) (s : State) :
    Host.Outcome State Fault Refusal :=
  issue .lanes (do
    vlane v
    let s0 ← get
    let w := s0.vsew
    elements s0.countVl (fun i => act (fun s =>
      if s0.maskBit mk.toNat i w then
        match f s0 i with
        | some x => s.setElem d.toNat i w x
        | none => s
      else s))
    pure .seq) s

/-- An element of vs1, or 0 beyond VLMAX. -/
def State.elemOr0 (s : State) (a : Reg) (x : Nat) : Nat := if x < s.vlmax s.vsew then s.elem a.toNat x s.vsew else 0

/-- R125, VPERMX. -/
def execVpermx (d a b : Reg) (n : BitVec 2) (m : MReg) (s : State) :=
  permute (if n = 3 then ⟨[b], [], [], [d, a], [m]⟩ else ⟨[], [], [], [d, a, b], [m]⟩) d m
    (fun s i => some (s.elemOr0 a (s.src2 n b i s.vsew))) s

/-- R125, VSLIDEUP. -/
def execVslideup (d a b : Reg) (m : MReg) (s : State) :=
  permute ⟨[b], [], [], [d, a], [m]⟩ d m
    (fun s i => if (s.rs b).toNat ≤ i then some (s.elem a.toNat (i - (s.rs b).toNat) s.vsew) else none) s

/-- R125, VSLIDEDN. -/
def execVslidedn (d a b : Reg) (m : MReg) (s : State) :=
  permute ⟨[b], [], [], [d, a], [m]⟩ d m (fun s i => some (s.elemOr0 a (i + (s.rs b).toNat))) s

/-- The elements below `i` that mk selects. -/
def State.selectedBelow (s : State) (mk : MReg) (i : Nat) : Nat :=
  ((List.range i).filter (fun j => s.maskBit mk.toNat j s.vsew)).length

/-- R125, VCOMPRESS: mk selects elements and is not a write mask. -/
def execVcompress (d a : Reg) (m : MReg) (s : State) : Host.Outcome State Fault Refusal :=
  issue .lanes (do
    vlane ⟨[], [], [], [d, a], [m]⟩
    let s0 ← get
    let w := s0.vsew
    elements s0.countVl (fun i => act (fun s =>
      if s0.maskBit m.toNat i w then s.setElem d.toNat (s0.selectedBelow m i) w (s0.elem a.toNat i w) else s))
    pure .seq) s

/-- R125, VEXPAND. -/
def execVexpand (d a : Reg) (m : MReg) (s : State) :=
  permute ⟨[], [], [], [d, a], [m]⟩ d m (fun s i => some (s.elem a.toNat (s.selectedBelow m i) s.vsew)) s

/-- R125, VBCAST. -/
def execVbcast (d a b : Reg) (m : MReg) (s : State) :=
  permute ⟨[b], [], [], [d, a], [m]⟩ d m (fun s _ => some (s.elemOr0 a (s.rs b).toNat)) s

/-- R125, VEXTR. -/
def execVextr (d a b : Reg) (s : State) : Host.Outcome State Fault Refusal :=
  issue .lanes (do
    vlane ⟨[d, b], [], [], [a], []⟩
    act (fun s =>
      let x := (s.rs b).toNat
      (s.setRs d (if x < s.countVl then BitVec.ofNat 64 (s.elem a.toNat x s.vsew) else 0)).setVstart 0)
    pure .seq) s

/-- R125, VINS: element sB is written whatever vstart holds. (log entry 75: DEDUCED.) -/
def execVins (d a b : Reg) (s : State) : Host.Outcome State Fault Refusal :=
  issue .lanes (do
    vlane ⟨[a, b], [], [], [d], []⟩
    act (fun s =>
      let x := (s.rs b).toNat
      (if x < s.countVl then s.setElem d.toNat x s.vsew (s.rs a).toNat else s).setVstart 0)
    pure .seq) s

/-! ## Scans and reductions (R126, R127) -/

/-- An accumulation over elements of a width: how two values combine, its identity, and how the result extends. -/
structure Fold where
  w : Nat
  identity : Nat
  comb : RMode → Nat → Nat → Nat
  signed : Bool

/-- Integer sums. -/
def foldSum (w : Nat) : Fold := ⟨w, 0, fun _ x y => (x + y) % 2 ^ w, true⟩

/-- f32 sums, rounded after each addition; the identity is −0. -/
def foldSumF : Fold := ⟨32, 2 ^ 31, fun r x y => (f32.sum r [f32.decode x, f32.decode y]).1, false⟩

/-- The i32 maximum. -/
def foldMax : Fold := ⟨32, 2 ^ 31, fun _ x y => if sextNat x 32 < sextNat y 32 then y else x, true⟩

/-- The f32 maximum; the identity is −∞. -/
def foldMaxF : Fold := ⟨32, 0xFF80_0000, fun _ x y => (f32.minmax true x y).1, false⟩

/-- Whether the pops of elements `vstart` to `n − 1` would stall now (R168). -/
def State.scanStalls (s : State) (bound : List (Nat × Nat)) (n : Nat) : Bool :=
  bound.any (fun p => match s.bindOf p.1 with
    | none => false
    | some b => (List.range (n - s.vstart)).any (fun k =>
        s.avail { b with pos := b.pos + k * p.2, part := b.part.drop (k * p.2) } p.2 == .later))

/-- A scan's loop from element `i` with the running value (R126). -/
def scanLoop (g : Fold) (d a : Reg) (mk : MReg) (bound : List (Nat × Nat)) : Nat → Nat → Nat → M Unit
  | 0, _, _ => pure ()
  | k + 1, i, y => do
    needSources bound i
    needRoom [(d, g.w)] i
    let pops ← popSources bound
    let s ← get
    let y := if s.maskBit mk.toNat i g.w then g.comb s.mode y (s.source pops a i g.w) else y
    set (s.putElem d i g.w y)
    scanLoop g d a mk bound k (i + 1) y

/-- VSCAN (R126). With a write-bound vd, which keeps no partial result, it waits for its whole source.
(log entry 62: DEDUCED.) -/
def vscan (g : Fold) (d a : Reg) (mk : MReg) (s : State) : Host.Outcome State Fault Refusal :=
  issue .lanes (do
    streams ⟨[], [a], [d], [], [mk]⟩ [(a, g.w)] [(d, g.w)] g.w
    let s ← get
    let bound := s.boundSources [(a, g.w)]
    let n := s.count g.w
    if (s.bindOf d.toNat).isSome && s.scanStalls bound n then stopAt s.vstart (.hold a.toNat) else pure ()
    let y := if s.vstart = 0 then g.identity else s.elem d.toNat (s.vstart - 1) g.w
    scanLoop g d a mk bound (n - s.vstart) s.vstart y
    act (fun s => s.setVstart 0)
    act State.flushBinds
    pure .seq) s

/-- A reduction's result in d. -/
def Fold.result (g : Fold) (x : Nat) : Word := if g.signed then sext64 x g.w else zext64 x g.w

/-- A reduction's loop from element `i`: a stop leaves the partial result in d (R127). -/
def redLoop (g : Fold) (d a : Reg) (mk : MReg) (bound : List (Nat × Nat)) : Nat → Nat → Nat → M Nat
  | 0, _, y => pure y
  | k + 1, i, y => do
    try needSources bound i
    catch e =>
      act (fun s => if i = 0 then s else s.setRs d (g.result y))
      throw e
    let pops ← popSources bound
    let s ← get
    let y := if s.maskBit mk.toNat i g.w then g.comb s.mode y (s.source pops a i g.w) else y
    redLoop g d a mk bound k (i + 1) y

/-- A reduction (R127). (log entry 62: DEDUCED.) -/
def vred (g : Fold) (d a : Reg) (mk : MReg) (s : State) : Host.Outcome State Fault Refusal :=
  issue .lanes (do
    streams ⟨[d], [a], [], [], [mk]⟩ [(a, g.w)] [] g.w
    let s ← get
    let bound := s.boundSources [(a, g.w)]
    let n := s.count g.w
    if s.vstart = 0 ∨ s.vstart < n then
      let y := if s.vstart = 0 then g.identity else (s.rs d).toNat % 2 ^ g.w
      let r ← redLoop g d a mk bound (n - s.vstart) s.vstart y
      act (fun s => s.setRs d (g.result r))
    else pure ()
    act (fun s => s.setVstart 0)
    pure .seq) s

/-- R126, VSCAN.i32. -/
def execVscanI32 (d a : Reg) (m : MReg) (s : State) := vscan (foldSum 32) d a m s

/-- R126, VSCAN.i64. -/
def execVscanI64 (d a : Reg) (m : MReg) (s : State) := vscan (foldSum 64) d a m s

/-- R126, VSCAN.f32. -/
def execVscanF32 (d a : Reg) (m : MReg) (s : State) := vscan foldSumF d a m s

/-- R127, VREDSUM.i32. -/
def execVredsumI32 (d a : Reg) (m : MReg) (s : State) := vred (foldSum 32) d a m s

/-- R127, VREDSUM.i64. -/
def execVredsumI64 (d a : Reg) (m : MReg) (s : State) := vred (foldSum 64) d a m s

/-- R127, VREDSUM.f32. -/
def execVredsumF32 (d a : Reg) (m : MReg) (s : State) := vred foldSumF d a m s

/-- R127, VREDMAX.i32. -/
def execVredmaxI32 (d a : Reg) (m : MReg) (s : State) := vred foldMax d a m s

/-- R127, VREDMAX.f32. -/
def execVredmaxF32 (d a : Reg) (m : MReg) (s : State) := vred foldMaxF d a m s

end Sys2Proof.Machine
end

