-- ==== Sys2Proof/Machine/VConv.lean ====
section
/-!
DEFINITION. Conversion, Hadamard stages, block quantisation and the generator: majors 0x36 and 0x37 (R128–R133).
-/

namespace Sys2Proof.Machine

/-! ## VCVT (R128) -/

/-- A format code of R37: an integer width with its signedness, or a floating-point format. -/
inductive CvtFmt
  | int (w : Nat) (signed : Bool)
  | fp (t : Fmt)

/-- The format of a code (R37). -/
def CvtFmt.ofCode (c : BitVec 4) : CvtFmt :=
  match c.toNat with
  | 8 => .fp f64
  | 9 => .fp f32
  | 10 => .fp f16
  | 11 => .fp bf16
  | 12 => .fp e4m3
  | 13 => .fp e5m2
  | 14 => .fp e2m1
  | n => .int (8 * 2 ^ (n % 4)) (decide (n < 4))

/-- Width of a format. -/
def CvtFmt.width : CvtFmt → Nat
  | .int w _ => w
  | .fp t => t.width

/-- The least value of an integer format. -/
def intLow (w : Nat) (signed : Bool) : Int := if signed then -(2 ^ (w - 1)) else 0

/-- The greatest value of an integer format. -/
def intHigh (w : Nat) (signed : Bool) : Int := if signed then 2 ^ (w - 1) - 1 else 2 ^ w - 1

/-- The rounding of rm: RNE, RZ, stochastic, or frm (R51). -/
def State.cvtMode (s : State) (r : BitVec 2) : RMode :=
  match r.toNat with
  | 0 => .rne
  | 1 => .rz
  | 2 => .sr
  | _ => s.mode

/-- One element converted (R54, R128). -/
def convert (sf df : CvtFmt) (mode : RMode) (draw x : Nat) : Nat × FFlags :=
  match sf, df with
  | .fp t, .fp u => u.ofVal mode (t.decode x) draw
  | .fp t, .int w sg =>
    let r := toRange mode (intLow w sg) (intHigh w sg) (t.decode x)
    ((r.1 % 2 ^ w).toNat, r.2)
  | .int w sg, .fp u => u.ofInt mode (extendBy sg x w)
  | .int w sg, .int v sh =>
    let y := max (intLow v sh) (min (intHigh v sh) (extendBy sg x w))
    ((y % 2 ^ v).toNat, 0)

/-- R128, VCVT: `k` is sf, `r` rm and `f` df. Each element of a stochastic conversion takes its own draw (R53).
(log entry 9: DESIGN CHOICE.) -/
def execVcvt (d a : Reg) (k : BitVec 4) (r : BitVec 2) (m : MReg) (f : BitVec 4) (s : State) :
    Host.Outcome State Fault Refusal :=
  issue .hart (do
    let sf := CvtFmt.ofCode k
    let df := CvtFmt.ofCode f
    arith ⟨[], [a], [], [d], [m]⟩ [(a, sf.width)] [] m (Nat.max sf.width df.width) (fun pops i =>
      act (fun s =>
        let y := convert sf df (s.cvtMode r) (Config.stochasticDraw s.draws).toNat (s.source pops a i sf.width)
        let s := if r = 2 then { s with draws := s.draws + 1 } else s
        (s.raise y.2).setElem d.toNat i df.width y.1))
    pure .seq) s

/-! ## Groups of eight registers (R129–R132) -/

/-- Element `i` of the group at register `g`. -/
def Hart.groupElem (h : Hart) (g i : Nat) : Nat := elemOf (h.vreg (g + i / 512)) (i % 512) 32

/-- The hart with an element of a group replaced. -/
def Hart.setGroupElem (h : Hart) (g i x : Nat) : Hart :=
  h.setVreg (g + i / 512) (setElemOf (h.vreg (g + i / 512)) (i % 512) 32 x)

/-- The registers of a group. -/
def groupRegs (g : Reg) : List Reg := (List.range 8).map (fun k => g + BitVec.ofNat 5 k)

/-- VHAD, VHADC and VCVTB stop a strand with ILLEGAL_INSTR (R144). -/
def noStrand : M Unit := do
  let s ← get
  match s.cur with
  | .strand _ _ => trap .illegalInstr (s.word.setWidth 64)
  | _ => pure ()

/-- The sum and difference of a pair, and their flags (R63). -/
def hadamard (mode : RMode) (x y : Nat) : (Nat × Nat) × FFlags :=
  let p := f32.decode x
  let q := f32.decode y
  let u := f32.sum mode [p, q]
  let v := f32.sum mode [p, q.negate]
  ((u.1, v.1), u.2 ||| v.2)

/-- R130, VHAD. Masks are numbered by the elements of the group. -/
def execVhad (d a : Reg) (m : MReg) (j : BitVec 5) (s : State) : Host.Outcome State Fault Refusal :=
  issue .lanes (do
    noStrand
    vlane ⟨[], [], [], groupRegs d ++ groupRegs a, [m]⟩
    let s ← get
    let n := s.vl
    let dist := 2 ^ j.toNat
    elements n (fun i => act (fun s =>
      if i / dist % 2 = 0 ∧ i + dist < n ∧ s.maskBit m.toNat i 32 then
        let r := hadamard s.mode (s.me.groupElem a.toNat i) (s.me.groupElem a.toNat (i + dist))
        let s := s.raise r.2
        s.setMe ((s.me.setGroupElem d.toNat i r.1.1).setGroupElem d.toNat (i + dist) r.1.2)
      else s))
    pure .seq) s

/-- The converter buffer of the issuer's set. -/
def State.conv (s : State) : Converter := (s.me.vset.getD VSet.reset).conv

/-- The state with the converter buffer replaced. -/
def State.setConv (s : State) (c : Converter) : State :=
  s.setMe { s.me with vset := s.me.vset.map (fun v => { v with conv := c }) }

/-- The 131,072 bits of a group. -/
def Hart.groupBits (h : Hart) (g : Nat) : BitVec 131072 :=
  BitVec.ofNat 131072 ((List.range 8).foldl (fun acc k => acc + (h.vreg (g + k)).toNat * 2 ^ (16384 * k)) 0)

/-- An element's pair in the converter buffer replaced by its stage, when `i` is the lower of a pair below `n`; below vstart it raises
no flags (R56). (log entry 80: DESIGN CHOICE.) -/
def State.convPair (n dist : Nat) (s : State) (i : Nat) : State :=
  if i / dist % 2 = 0 ∧ i + dist < n then
    let b := s.conv.buf
    let r := hadamard s.mode (elemOf b i 32) (elemOf b (i + dist) 32)
    (if s.vstart ≤ i then s.raise r.2 else s).setConv { s.conv with buf := setElemOf (setElemOf b i 32 r.1.1) (i + dist) 32 r.1.2 }
  else s

/-- The chain that a VHADC or VCVTB of the hart's is checked against: open or closed, and its stages, as the words of the queue leave
it (R113, R131, R132). -/
def State.chain (s : State) : Bool × Nat :=
  s.me.lanes.foldl (fun c e =>
    if major e.word = 0x37 ∧ fn3 e.word = 1 then (if wordA e.word = 0 then (c.1, c.2 + 1) else (true, 1))
    else if major e.word = 0x37 ∧ fn3 e.word = 2 ∧ wordA e.word = 0 then (false, 0)
    else c) (s.conv.opened, s.conv.stages)

/-- The rules of the chain for a source in the converter buffer (R131, R132); the lanes execute a queued word, which has passed them. -/
def chainOk (ok : Bool × Nat → Bool) : M Unit := do
  let s ← get
  match s.cur with
  | .queued _ => pure ()
  | _ => if ok s.chain then pure () else trap .illegalInstr (s.word.setWidth 64)

/-- R131, VHADC: `a` is the group, or 0 for the buffer. It acts on all n elements and takes no vstart; opening a chain copies the
whole group. (log entry 62: DEDUCED.) -/
def execVhadc (a : Reg) (j : BitVec 5) (s : State) : Host.Outcome State Fault Refusal :=
  issue .lanes (do
    noStrand
    let names : VNames := ⟨[], [], [], if a = 0 then [] else groupRegs a, []⟩
    vchecks names
    chainOk (fun c => a != 0 || (c.1 && decide (c.2 < 12)))
    lanesTake names []
    let s ← get
    let s := if a = 0 then s.setConv { s.conv with stages := s.conv.stages + 1 }
      else s.setConv ⟨true, 1, s.me.groupBits a.toNat⟩
    set (((List.range s.vl).foldl (State.convPair s.vl (2 ^ j.toNat)) s).setVstart 0)
    pure .seq) s

/-- One element quantised by its block's scale (R64). `live` is false in a block whose elements all become 0; a NaN converted there
raises NV (R55). -/
def quantise (mode : RMode) (scale : Nat) (live : Bool) (draw x : Nat) : Nat × FFlags :=
  if live then
    match f32.decode x with
    | .inf n => e2m1.ofVal mode (.inf n) draw
    | v =>
      match e3m5 scale with
      | some (m, e) => e2m1.div mode v (.num false m e) draw
      | none => (0, 0)
  else (0, flagIf (f32.decode x).isNan flagNV)

/-- One processed element of VCVTB: its quantised code and its block's scale written. `src` holds the n elements.
(log entry 9: DESIGN CHOICE; log entry 62: DEDUCED.) -/
def State.quantElem (d : Nat) (src : Nat → Nat) (n : Nat) (mode : RMode) (s : State) (i : Nat) : State :=
  let b := i / 32
  let xs := (List.range 32).map (fun t => if 32 * b + t < n then src (32 * b + t) else 0)
  let sc := blockScale xs
  let q := quantise mode sc.1 sc.2 (Config.stochasticDraw s.draws).toNat (src i)
  let s := if mode = .sr then { s with draws := s.draws + 1 } else s
  let s := s.raise q.2
  let h := s.me.setVreg d (setElemOf (s.me.vreg d) i 4 q.1)
  s.setMe (h.setVreg (d + 1) (setElemOf (h.vreg (d + 1)) b 8 sc.1))

/-- R132, VCVTB: its source is read whole before it writes. A source from the buffer closes the chain. -/
def execVcvtb (d a : Reg) (o : BitVec 5) (s : State) : Host.Outcome State Fault Refusal :=
  issue .lanes (do
    noStrand
    let names : VNames := ⟨[], [], [], (if a = 0 then [] else groupRegs a) ++ [d, d + 1], []⟩
    vchecks names
    chainOk (fun c => a != 0 || c.1)
    lanesTake names []
    let s ← get
    let src := fun i => if a = 0 then elemOf s.conv.buf i 32 else s.me.groupElem a.toNat i
    elements s.vl (fun i => act (fun t => t.quantElem d.toNat src s.vl (if o = 0 then .rne else .sr) i))
    act (fun s => if a = 0 then s.setConv Converter.reset else s)
    pure .seq) s

/-- R133, VGAUSS: M is the scalar after `b`; a strand uses the hart-wide element index (R144). -/
def execVgauss (d a b : Reg) (m : MReg) (s : State) : Host.Outcome State Fault Refusal :=
  issue .lanes (do
    arith ⟨[a, b, b + 1], [], [], [d], [m]⟩ [] [] m 32 (fun _ i => act (fun s =>
      s.setElem d.toNat i 32 (gauss (s.rs a).toNat (((s.rs b).toNat + s.gidx i 32) % 2 ^ 64) (s.rs (b + 1)).toNat)))
    pure .seq) s

end Sys2Proof.Machine
end

