-- ==== Sys2Proof/Machine/Lanes.lean ====
section
/-!
DEFINITION. USER combines: the checks of their blocks, and running a block on its hart's lanes (R188, R189).
-/

namespace Sys2Proof.Machine

/-! ## The check of a block (R189) -/

/-- Registers that a USER block may name: 0 and 16–23. -/
def userReg (n : Nat) : Bool := n == 0 || decide (16 ≤ n ∧ n < 24)

/-- A legal word of majors 0x20–0x35 whose vector and mask fields are those that a USER block may name, and whose second
source is a vector or a scalar of the same range (R117, R189). -/
def userWord (w : IWord) : Bool :=
  let m := major w
  let f := fn3 w
  let second := decide (m ≤ 0x2C) || (m == 0x2D && f == 7) || (decide (0x2E ≤ m ∧ m ≤ 0x31) && decide (f < 6)) ||
    m == 0x32 || (m == 0x34 && f == 0)
  let scalarD := (m == 0x33 && (f == 5 || f == 6)) || (m == 0x34 && f == 6) || (m == 0x35 && decide (3 ≤ f))
  let scalarA := m == 0x34 && f == 7
  decide (0x20 ≤ m ∧ m ≤ 0x35) && laneLegal w && userReg (wordM w) && (scalarD || userReg (wordD w)) &&
    (scalarA || userReg (wordA w)) &&
    (if second then (wordN w == 0 || wordN w == 3) && userReg (wordB w)
     else if m = 0x33 then userReg (wordB w)
     else true)

/-- The words of a block before its STOP, looking at `n` words from an offset on. `at_` is the block's offset, which a
block that leaves the code area reports. -/
def State.userScan (s : State) (at_ : Word) : Nat → Nat → Except (Cause × Word) (List IWord)
  | 0, off => .error (.illegalInstr, (s.codeWord (off - 4)).setWidth 64)
  | n + 1, off =>
    if s.codeSize < off + 4 then .error (.fetchBound, at_)
    else
      let w := s.codeWord off
      if isStop w then .ok []
      else if userWord w then (State.userScan s at_ n (off + 4)).map (w :: ·)
      else .error (.illegalInstr, w.setWidth 64)

/-- The block at an offset, or the trap of its check (R189). -/
def State.userBlock (s : State) (at_ : Word) : Except (Cause × Word) (List IWord) :=
  if at_.toNat % 4 ≠ 0 then .error (.fetchBound, at_) else s.userScan at_ 32 at_.toNat

/-! ## Running a block (R188) -/

/-- The meanings of the words of majors 0x20–0x35. -/
def laneExec (i : Instr) (s : State) : Host.Outcome State Fault Refusal :=
  match i with
  | .vadd d a b n m t => execVadd d a b n m t s
  | .vsub d a b n m t => execVsub d a b n m t s
  | .vmul d a b n m t => execVmul d a b n m t s
  | .vmulh d a b n m t => execVmulh d a b n m t s
  | .vmin d a b n m t => execVmin d a b n m t s
  | .vmax d a b n m t => execVmax d a b n m t s
  | .vminn d a b n m t => execVminn d a b n m t s
  | .vmaxn d a b n m t => execVmaxn d a b n m t s
  | .vand d a b n m t => execVand d a b n m t s
  | .vor d a b n m t => execVor d a b n m t s
  | .vxor d a b n m t => execVxor d a b n m t s
  | .vsll d a b n m t => execVsll d a b n m t s
  | .vsrl d a b n m t => execVsrl d a b n m t s
  | .vsra d a b n m t => execVsra d a b n m t s
  | .vadds d a b n m t => execVadds d a b n m t s
  | .vsubs d a b n m t => execVsubs d a b n m t s
  | .vwaddI8 d a b n m => execVwaddI8 d a b n m s
  | .vwaddI16 d a b n m => execVwaddI16 d a b n m s
  | .vwaddI32 d a b n m => execVwaddI32 d a b n m s
  | .vwaddN8 d a b n m => execVwaddN8 d a b n m s
  | .vwaddN16 d a b n m => execVwaddN16 d a b n m s
  | .vwaddN32 d a b n m => execVwaddN32 d a b n m s
  | .vwmacI8 d a b n m => execVwmacI8 d a b n m s
  | .vwmacI16 d a b n m => execVwmacI16 d a b n m s
  | .vfaddF64 d a b n m => execVfaddF64 d a b n m s
  | .vfsubF64 d a b n m => execVfsubF64 d a b n m s
  | .vfmulF64 d a b n m => execVfmulF64 d a b n m s
  | .vfmaF64 d a b n m => execVfmaF64 d a b n m s
  | .vfminF64 d a b n m => execVfminF64 d a b n m s
  | .vfmaxF64 d a b n m => execVfmaxF64 d a b n m s
  | .vfdivF64 d a b n m => execVfdivF64 d a b n m s
  | .vfsqrtF64 d a m => execVfsqrtF64 d a m s
  | .vfaddF32 d a b n m => execVfaddF32 d a b n m s
  | .vfsubF32 d a b n m => execVfsubF32 d a b n m s
  | .vfmulF32 d a b n m => execVfmulF32 d a b n m s
  | .vfmaF32 d a b n m => execVfmaF32 d a b n m s
  | .vfminF32 d a b n m => execVfminF32 d a b n m s
  | .vfmaxF32 d a b n m => execVfmaxF32 d a b n m s
  | .vfdivF32 d a b n m => execVfdivF32 d a b n m s
  | .vfsqrtF32 d a m => execVfsqrtF32 d a m s
  | .vfaddBf16 d a b n m => execVfaddBf16 d a b n m s
  | .vfsubBf16 d a b n m => execVfsubBf16 d a b n m s
  | .vfmulBf16 d a b n m => execVfmulBf16 d a b n m s
  | .vfmaBf16 d a b n m => execVfmaBf16 d a b n m s
  | .vfminBf16 d a b n m => execVfminBf16 d a b n m s
  | .vfmaxBf16 d a b n m => execVfmaxBf16 d a b n m s
  | .vfdivBf16 d a b n m => execVfdivBf16 d a b n m s
  | .vfsqrtBf16 d a m => execVfsqrtBf16 d a m s
  | .vfaddF16 d a b n m => execVfaddF16 d a b n m s
  | .vfsubF16 d a b n m => execVfsubF16 d a b n m s
  | .vfmulF16 d a b n m => execVfmulF16 d a b n m s
  | .vfmaF16 d a b n m => execVfmaF16 d a b n m s
  | .vfminF16 d a b n m => execVfminF16 d a b n m s
  | .vfmaxF16 d a b n m => execVfmaxF16 d a b n m s
  | .vfdivF16 d a b n m => execVfdivF16 d a b n m s
  | .vfsqrtF16 d a m => execVfsqrtF16 d a m s
  | .vfrecip d a m => execVfrecip d a m s
  | .vfrsqrt d a m => execVfrsqrt d a m s
  | .vfexp2 d a m => execVfexp2 d a m s
  | .vflog2 d a m => execVflog2 d a m s
  | .vfabs d a m => execVfabs d a m s
  | .vfneg d a m => execVfneg d a m s
  | .vfclass d a m => execVfclass d a m s
  | .vfsgnj d a b n m => execVfsgnj d a b n m s
  | .vcmpeqI8 d a b n m => execVcmpeqI8 d a b n m s
  | .vcmpneI8 d a b n m => execVcmpneI8 d a b n m s
  | .vcmpltI8 d a b n m => execVcmpltI8 d a b n m s
  | .vcmpleI8 d a b n m => execVcmpleI8 d a b n m s
  | .vcmpltnI8 d a b n m => execVcmpltnI8 d a b n m s
  | .vcmplenI8 d a b n m => execVcmplenI8 d a b n m s
  | .vboundI8 d b m => execVboundI8 d b m s
  | .vcmpeqI16 d a b n m => execVcmpeqI16 d a b n m s
  | .vcmpneI16 d a b n m => execVcmpneI16 d a b n m s
  | .vcmpltI16 d a b n m => execVcmpltI16 d a b n m s
  | .vcmpleI16 d a b n m => execVcmpleI16 d a b n m s
  | .vcmpltnI16 d a b n m => execVcmpltnI16 d a b n m s
  | .vcmplenI16 d a b n m => execVcmplenI16 d a b n m s
  | .vboundI16 d b m => execVboundI16 d b m s
  | .vcmpeqI32 d a b n m => execVcmpeqI32 d a b n m s
  | .vcmpneI32 d a b n m => execVcmpneI32 d a b n m s
  | .vcmpltI32 d a b n m => execVcmpltI32 d a b n m s
  | .vcmpleI32 d a b n m => execVcmpleI32 d a b n m s
  | .vcmpltnI32 d a b n m => execVcmpltnI32 d a b n m s
  | .vcmplenI32 d a b n m => execVcmplenI32 d a b n m s
  | .vboundI32 d b m => execVboundI32 d b m s
  | .vcmpeqI64 d a b n m => execVcmpeqI64 d a b n m s
  | .vcmpneI64 d a b n m => execVcmpneI64 d a b n m s
  | .vcmpltI64 d a b n m => execVcmpltI64 d a b n m s
  | .vcmpleI64 d a b n m => execVcmpleI64 d a b n m s
  | .vcmpltnI64 d a b n m => execVcmpltnI64 d a b n m s
  | .vcmplenI64 d a b n m => execVcmplenI64 d a b n m s
  | .vboundI64 d b m => execVboundI64 d b m s
  | .vfcmpeqF32 d a b n m => execVfcmpeqF32 d a b n m s
  | .vfcmpltF32 d a b n m => execVfcmpltF32 d a b n m s
  | .vfcmpleF32 d a b n m => execVfcmpleF32 d a b n m s
  | .vfcmpunF32 d a b n m => execVfcmpunF32 d a b n m s
  | .vfcmpeqF64 d a b n m => execVfcmpeqF64 d a b n m s
  | .vfcmpltF64 d a b n m => execVfcmpltF64 d a b n m s
  | .vfcmpleF64 d a b n m => execVfcmpleF64 d a b n m s
  | .vfcmpunF64 d a b n m => execVfcmpunF64 d a b n m s
  | .mand d a b m => execMand d a b m s
  | .mor d a b m => execMor d a b m s
  | .mxor d a b m => execMxor d a b m s
  | .mandn d a b m => execMandn d a b m s
  | .mnot d a m => execMnot d a m s
  | .mpopc d a m => execMpopc d a m s
  | .mfirst d a m => execMfirst d a m s
  | .msetvl d a m => execMsetvl d a m s
  | .vpermx d a b n m => execVpermx d a b n m s
  | .vslideup d a b m => execVslideup d a b m s
  | .vslidedn d a b m => execVslidedn d a b m s
  | .vcompress d a m => execVcompress d a m s
  | .vexpand d a m => execVexpand d a m s
  | .vbcast d a b m => execVbcast d a b m s
  | .vextr d a b => execVextr d a b s
  | .vins d a b => execVins d a b s
  | .vscanI32 d a m => execVscanI32 d a m s
  | .vscanI64 d a m => execVscanI64 d a m s
  | .vscanF32 d a m => execVscanF32 d a m s
  | .vredsumI32 d a m => execVredsumI32 d a m s
  | .vredsumI64 d a m => execVredsumI64 d a m s
  | .vredsumF32 d a m => execVredsumF32 d a m s
  | .vredmaxI32 d a m => execVredmaxI32 d a m s
  | .vredmaxF32 d a m => execVredmaxF32 d a m s
  | _ => .next s

/-- One word of a block on the lanes, from element 0 on. -/
def State.runWord (s : State) (w : IWord) : State :=
  let s := ({ s with word := w }).setVstart 0
  match laneFields w with
  | none => s
  | some i =>
    match laneExec i s with
    | .next t => t
    | _ => s

/-- A value placed in a register's elements from 0 on. -/
def State.placeElems (s : State) (v w : Nat) (xs : List Nat) : State :=
  let x := (List.range xs.length).foldl (fun b i => setElemOf b i w (xs.getD i 0)) (s.me.vreg v)
  s.setMe (s.me.setVreg v x)

/-- One batch: the accumulators in v16 and the next values in v17, the block run with vl the batch's size, and the new
accumulators from v16. -/
def State.runBatch (s : State) (ws : List IWord) (w : Nat) (pairs : List (Nat × Nat)) : State × List Nat :=
  let s := (s.placeElems 16 w (pairs.map Prod.fst)).placeElems 17 w (pairs.map Prod.snd)
  let s := s.setMe { s.me with vl := BitVec.ofNat 13 pairs.length, vsew := BitVec.ofNat 7 w }
  let s := ws.foldl State.runWord s
  (s, (List.range pairs.length).map (fun i => elemOf (s.me.vreg 16) i w))

/-- A group that a USER fold works on: its accumulator and the values still to come. -/
structure FoldGroup where
  acc : Nat
  rest : List Nat

/-- The groups that take part in the next batch: the first that still have a value, at most `n`. -/
def batchOf (n : Nat) (gs : List FoldGroup) : List (Nat × Nat) :=
  ((gs.filterMap (fun g => match g.rest with
    | [] => none
    | x :: _ => some (g.acc, x))).take n)

/-- The groups after a batch: those that took part have the new accumulators. -/
def afterBatch : Nat → List Nat → List FoldGroup → List FoldGroup
  | _, _, [] => []
  | n, accs, g :: t =>
    match n, accs, g.rest with
    | n + 1, a :: accs, _ :: r => ⟨a, r⟩ :: afterBatch n accs t
    | n, accs, _ => g :: afterBatch n accs t

/-- Batches until no group has a value left, with fuel. -/
def State.foldBatches (ws : List IWord) (w : Nat) : Nat → State → List FoldGroup → State × List FoldGroup
  | 0, s, gs => (s, gs)
  | f + 1, s, gs =>
    let pairs := batchOf (16384 / w) gs
    if pairs.isEmpty then (s, gs)
    else
      let (s, accs) := s.runBatch ws w pairs
      State.foldBatches ws w f s (afterBatch pairs.length accs gs)

/-- A USER combine of groups of values on a hart's lanes; the hart's vl, vsew, vstart, frm and flags stand as they were,
and the flags that the block raised come with the results. (log entry 58: DEDUCED.) -/
def State.userFold (s : State) (h : HartId) (ws : List IWord) (w : Nat) (frm : BitVec 2) (groups : List (List Nat)) :
    State × List Nat × BitVec 5 :=
  let cur := s.cur
  let word := s.word
  let x := s.hart h
  let s := { s with cur := .fold h }
  let s := s.setMe { x with frm := frm, fflags := 0 }
  let gs := groups.map (fun l => FoldGroup.mk (l.headD 0) l.tail)
  let fuel := (groups.map List.length).foldl (· + ·) 1
  let (s, gs) := s.foldBatches ws w fuel gs
  let flags := s.me.fflags
  let s := s.setMe
    { s.me with vl := x.vl, vsew := x.vsew, vstart := x.vstart, frm := x.frm, fflags := x.fflags }
  ({ s with cur := cur, word := word }, gs.map FoldGroup.acc, flags)

end Sys2Proof.Machine
end

