-- ==== Sys2Proof/Machine/Merge.lean ====
section
/-!
DEFINITION. The merge engine: its jobs, USER combines and the routing counters: majors 0x43, 0x45 and 0x46 (R181–R197).
-/

namespace Sys2Proof.Machine

/-! ## Keys and values -/

/-- A key mapped so that the order of R151 is the order of numbers. -/
def keyOrder (code x : Nat) : Nat :=
  match code with
  | 3 => (x + 2 ^ 31) % 2 ^ 32
  | 4 => (x + 2 ^ 63) % 2 ^ 64
  | 5 => if 2 ^ 31 ≤ x then 2 ^ 32 - 1 - x else x + 2 ^ 31
  | _ => x

/-- The key of a record, mapped (R150, R151). -/
def recKey (code : Nat) (bs : List Byte) : Nat := keyOrder code (leNat (bs.take (keyBytes code)))

/-- Bytes of a value type of a combine word (R186). -/
def valueBytes (t : Nat) : Nat := if t = 2 ∨ t = 3 then 8 else 4

/-- Fields of a combine word (R186). -/
def combCode (w : Word) : Nat := bitsOf w 0 8

/-- Value type of a combine word. -/
def combType (w : Word) : Nat := bitsOf w 8 8

/-- Value offset of a combine word. -/
def combOff (w : Word) : Nat := bitsOf w 16 16

/-- Block offset of a combine word. -/
def combBlock (w : Word) : Nat := bitsOf w 32 21

/-- A combine word that keeps R186, for records of a layout. -/
def combOk (w layout : Word) : Bool :=
  let c := combCode w
  let v := valueBytes (combType w)
  decide (c ≤ 7) && bitsOf w 53 10 == 0 && bitOf w 63 == (c == 7) &&
    (if c ≤ 2 then w.toNat == c
     else decide (combType w ≤ 4) && !(c == 6 && combType w == 4) && combOff w % v == 0 &&
       decide (combOff w + v ≤ recBytes layout) && decide (keyBytes (keyCode layout) ≤ combOff w))

/-- Bytes of a record with a field replaced. -/
def setBytes (bs : List Byte) (off n v : Nat) : List Byte := bs.take off ++ natLe n v ++ bs.drop (off + n)

/-- The value of a signed or unsigned integer type mapped so that order is the order of numbers. -/
def valueOrder (t x : Nat) : Nat :=
  match t with
  | 0 => (x + 2 ^ 31) % 2 ^ 32
  | 2 => (x + 2 ^ 63) % 2 ^ 64
  | _ => x

/-- One step of a combine: sum, least or greatest (R62, R187). -/
def combStep (code t acc x : Nat) : Nat :=
  if t = 4 then
    (match code with
     | 3 => (f32.sum .rne [f32.decode acc, f32.decode x]).1
     | 4 => (f32.minmax false acc x).1
     | _ => (f32.minmax true acc x).1)
  else
    (match code with
     | 3 => (acc + x) % 2 ^ (8 * valueBytes t)
     | 4 => if valueOrder t x < valueOrder t acc then x else acc
     | _ => if valueOrder t acc < valueOrder t x then x else acc)

/-! ## Issue -/

/-- Which fields a job may set, and its parameters (R181, R182 check 2). -/
def jobFieldsOk (k : JobKind) (flags m a b c e : Nat) (comb tag : Word) : Bool :=
  decide (flags < 4) && (k == .merge || comb == 0) && (k == .tag || tag == 0) &&
    (match k with
     | .sort => m == 1 && a == 0 && b == 0 && c == 0 && e == 0
     | .merge => decide (1 ≤ m ∧ m ≤ 64) && a == 0 && b == 0 && c == 0 && e == 0
     | .part => m == 1 && decide (1 ≤ a ∧ a ≤ 64) && b == 0 && c == 0 && e == 0
     | .tag => m == 1 && (a == 4 || a == 8) && decide (b ≤ 1) && c == 0 && e == 0
     | .join => m == 2 && decide (4 ≤ b))

/-- Words of 8 bytes in a list of bytes from an offset on. -/
def wordsAt (bs : List Byte) (off n : Nat) : List Word := (List.range n).map (fun k => descWord bs (off + 8 * k))

/-- A job's descriptor and partition table, read and checked at issue (R181, R182 checks 1 and 2, R190). -/
def readJob (k : JobKind) (p : Word) : M JobDesc := do
  let head ← readDesc p 64
  let flags := descField head 4 4
  let comb := descWord head 40
  let tag := descWord head 48
  let a := descField head 56 2
  let b := descField head 58 2
  let c := descField head 60 2
  let e := descField head 62 1
  let m := descField head 63 1
  if jobFieldsOk k flags m a b c e comb tag then pure () else trap .runState 0
  let bs ← readDesc p (64 + 8 * m)
  let dest := descWord head 32
  let s ← get
  let j : JobDesc := ⟨k, p, flags, dest, comb, tag, a, b, c, e, wordsAt bs 64 m, [dest], [], s.frm⟩
  if k = .part then
    let t ← readDesc dest (16 * a - 8)
    pure { j with dests := wordsAt t 0 a, splits := wordsAt t (8 * a) (a - 1) }
  else pure j

/-- A handle of a list whose run fails a test. -/
def failing (s : State) (hs : List Word) (f : Run → Bool) : Option Word :=
  hs.find? (fun w => f (s.ctx.run (handleEntry w)))

/-- A handle that names the same entry as an earlier one of the list. -/
def repeated : List Nat → List Word → Option Word
  | _, [] => none
  | seen, w :: t => if seen.contains (handleEntry w) then some w else repeated (handleEntry w :: seen) t

/-- Whether numbers do not fall. -/
def rising : List Nat → Bool
  | x :: y :: t => decide (x ≤ y) && rising (y :: t)
  | _ => true

/-- The routing configuration of a context on a die: an empty one counts nothing (R193). -/
def Ctx.routingAt (x : Ctx) (die : Nat) : Routing := lookupD ⟨0, 0, 0, 0⟩ x.routing die

/-- Check 5 of R182, in the order of its cases: the handle whose run fails, or 0. -/
def jobFault (s : State) (j : JobDesc) : Option Word :=
  let entry := fun (w : Word) => handleEntry w
  let first := j.inputs.headD 0
  let r0 := s.ctx.run (entry first)
  let same := fun (r : Run) => r.size != r0.size || keyCode r.layout != keyCode r0.layout
  let build := j.inputs.getD 1 0
  let rb := s.ctx.run (entry build)
  let cfg := s.ctx.routingAt s.group.die
  let layout : Option Word := match j.kind with
    | .sort | .merge | .part => failing s (j.inputs ++ j.dests) same
    | .tag => failing s j.dests (fun r => r.size != r0.size + j.a)
    | .join =>
      if keyCode rb.layout ≠ keyCode r0.layout then some build
      else if r0.size < j.a + j.b ∨ j.a % 4 ≠ 0 then some first
      else if rb.size < j.c + 4 * j.e ∨ j.c % 4 ≠ 0 then some build
      else failing s j.dests (fun r => r.size != j.b + 4 * j.e + 4)
  (failing s j.dests (fun r => r.state != .opened)) <|>
  (j.dests.find? (fun w => j.inputs.any (fun i => entry i = entry w))) <|>
  (j.dests.find? (fun w => decide (entry w < 2))) <|>
  (if j.kind = .tag then none else failing s j.inputs (fun r => keyCode r.layout == 0)) <|>
  layout <|>
  (if j.kind = .merge ∧ combOk j.comb r0.layout = false then some 0 else none) <|>
  (if bitOf (BitVec.ofNat 64 j.flags) 1 ∧ cfg.count ≠ 0 ∧ (failing s j.inputs (fun r => decide (r.size < cfg.field + 4))).isSome then
     some 0 else none) <|>
  (if j.kind = .part then
     (if !rising (j.splits.map (fun w => keyOrder (keyCode r0.layout) (w.toNat % 2 ^ (8 * keyBytes (keyCode r0.layout))))) ||
         j.splits.any (fun w => decide (2 ^ (8 * keyBytes (keyCode r0.layout)) ≤ w.toNat)) then some 0
      else repeated [] j.dests)
   else none)

/-- Every handle checked, in the job's handle order (R182, checks 3 and 4). -/
def checkRuns : List Word → M Unit
  | [] => pure ()
  | w :: t => do
    let _ ← checkRun w
    checkRuns t

/-- Whether an operation is a merge-engine job. -/
def OpKind.isJob : OpKind → Bool
  | .job _ => true
  | _ => false

/-- Jobs of a context that are queued or running on a die's engine (R183, R260). -/
def State.jobsOf (s : State) (c die : Nat) : Nat :=
  (s.ops.filter (fun o => o.ctx = c ∧ o.core / 64 = die ∧ o.kind.isJob)).length

/-- Whether a context holds a core of a die. -/
def State.coresOn (s : State) (c die : Nat) : Bool :=
  (s.ctxAt c).part.zipIdx.any (fun p => p.1.any (fun k => match s.physCore c p.2 k with
    | some n => n / 64 == die
    | none => false))

/-- A context's share of a die's 256 queued jobs: one, and its weighted part of those that are left (R260).
(log entry 68: DESIGN CHOICE.) -/
def State.jobShare (s : State) (c die : Nat) : Nat :=
  let others := (s.ctxs.map Prod.fst).filter (fun k => k != c && s.coresOn k die)
  let weight := fun (k : Nat) => Config.jobWeight die k + 1
  1 + (Config.mergeQueue - (others.length + 1)) * weight c / (weight c + (others.map weight).sum)

/-- The checks of a USER combine at issue: RCOMB's, then the vector set (R182 check 6, R189). -/
def checkUser (j : JobDesc) : M Unit := do
  if j.kind = .merge ∧ combCode j.comb = 7 then
    let s ← get
    match s.userBlock (BitVec.ofNat 64 (combBlock j.comb)) with
    | .error e => trap e.1 e.2
    | .ok _ => if s.me.vset.isNone then trapDead none else pure ()
  else pure ()

/-- A job issued (R181–R183): the issuer waits while its context's share of the die's queue is full (R260). -/
def job (k : JobKind) (a : Reg) (h : HReg) (s : State) : Host.Outcome State Fault Refusal :=
  issue .stream (do
    named [a]
    let q ← seqOf h
    let s ← get
    let j ← readJob k (s.rs a)
    let hs := j.inputs ++ j.dests
    checkRuns hs
    match hs.find? (fun w => ptrSpace w = 6) with
    | some w => trap .badSpace w
    | none => pure ()
    match jobFault s j with
    | some w => trap .runState w
    | none => pure ()
    checkUser j
    if s.jobShare s.group.ctx (s.me.core / 64) ≤ s.jobsOf s.group.ctx (s.me.core / 64) then throw .wait else pure ()
    enqueue q .copy (.job j)
    pure .seq) s

/-- R185, RSORT. -/
def execRsort (a : Reg) (h : HReg) (s : State) := job .sort a h s

/-- R186, RMERGE. -/
def execRmerge (a : Reg) (h : HReg) (s : State) := job .merge a h s

/-- R190, RPART. -/
def execRpart (a : Reg) (h : HReg) (s : State) := job .part a h s

/-- R191, RTAG. -/
def execRtag (a : Reg) (h : HReg) (s : State) := job .tag a h s

/-- R192, RJOIN. -/
def execRjoin (a : Reg) (h : HReg) (s : State) := job .join a h s

/-- R189, RCOMB. -/
def execRcomb (d a b : Reg) (s : State) : Host.Outcome State Fault Refusal :=
  issue .stream (do
    hartOnly
    named [d, a, b]
    let s ← get
    let at_ := s.rs a
    let v := s.rs b
    match s.userBlock at_ with
    | .error e => trap e.1 e.2
    | .ok _ =>
      if 2 ^ 32 ≤ v.toNat ∨ bitsOf v 0 8 ≠ 0 ∨ 4 < bitsOf v 8 8 then trap .runState 0 else pure ()
      set (s.setRs d (BitVec.ofNat 64 (2 ^ 63 + at_.toNat * 2 ^ 32 + v.toNat + 7)))
      pure .seq) s

/-! ## What a job computes -/

/-- Why a job stops: its status, its tval, and the input's handle (R184). -/
structure JobStop where
  status : Nat
  tval : Word
  input : Word
  deriving DecidableEq, Repr

/-- An input's records that can be read, and what ends them. -/
structure JobInput where
  recs : List (List Byte)
  stop : Option JobStop

/-- The place of the first record whose key is below its predecessor's. -/
def orderBreak (code : Nat) : Nat → List (List Byte) → Option Nat
  | i, x :: y :: t => if recKey code y < recKey code x then some (i + 1) else orderBreak code (i + 1) (y :: t)
  | _, _ => none

/-- Records of a run from position 0 on. -/
def State.recordsBelow (s : State) (c e n : Nat) : List (List Byte) := (List.range n).map (s.record c e)

/-- An input of a job, below its P (R183, R184). -/
def State.loadInput (s : State) (c : Nat) (ordered : Bool) (w : Word) : JobInput :=
  let e := handleEntry w
  let r := s.runAt c e
  let (recs, poison) : List (List Byte) × Option JobStop := match s.badIn c e 0 (r.pub * r.size) with
    | none => (s.recordsBelow c e r.pub, none)
    | some l => (s.recordsBelow c e (64 * l / r.size), some ⟨2, BitVec.ofNat 64 (64 * l / r.size), w⟩)
  match (if ordered then orderBreak (keyCode r.layout) 0 recs else none) with
  | some i => ⟨recs.take i, some ⟨1, w, w⟩⟩
  | none => ⟨recs, poison⟩

/-- One record of a merge: its key, its input, its bytes. -/
structure MergeRec where
  key : Nat
  input : Nat
  bytes : List Byte

/-- The stable merge order (R186): by key, then input index, then position. -/
def mergeOrder (code : Nat) (ins : List JobInput) : List MergeRec :=
  stableSort (fun a b => decide (a.key ≤ b.key))
    ((List.range ins.length).flatMap (fun i => ((ins.getD i ⟨[], none⟩).recs.map (fun b => ⟨recKey code b, i, b⟩))))

/-- How many records an input's stop lets be merged: up to and with its last good record. -/
def cutOf (ms : List MergeRec) (i : Nat) : Nat :=
  ms.length - ((ms.reverse.takeWhile (fun r => r.input ≠ i)).length)

/-- The stop that the merge meets first. -/
def mergeCut (ms : List MergeRec) : List (Nat × JobStop) → Option (Nat × JobStop)
  | [] => none
  | (i, x) :: t =>
    match mergeCut ms t with
    | some (n, y) => if cutOf ms i ≤ n then some (cutOf ms i, x) else some (n, y)
    | none => some (cutOf ms i, x)

/-- Records with equal keys that stand together, as groups in order. -/
def groupKeys : List MergeRec → List (List MergeRec)
  | [] => []
  | x :: t =>
    match groupKeys t with
    | (y :: g) :: gs => if x.key = y.key then (x :: y :: g) :: gs else [x] :: (y :: g) :: gs
    | gs => [x] :: gs

/-- What a group emits under codes 0–6 (R187). The value of a group of one record is its own, a NaN's payload included.
(log entry 58: DEDUCED.) -/
def combine (w : Word) (g : List (List Byte)) : List (List Byte) :=
  let t := combType w
  let n := valueBytes t
  let off := combOff w
  let vals := g.map (fun b => recWord b off n)
  match combCode w, g with
  | _, [] => []
  | 0, _ => g
  | 1, x :: _ => [x]
  | 2, x :: _ => [g.getLastD x]
  | 6, x :: _ => [setBytes x off n (g.length % 2 ^ (8 * n))]
  | c, x :: _ => [setBytes x off n (vals.tail.foldl (combStep c t) (vals.headD 0))]

/-- What a job emits, reads and ends in. `steps` gives for each emission the records read and the misses counted when the engine
makes it (R184). (log entry 58: DEDUCED.) -/
structure JobResult where
  emits : List (Nat × List Byte)
  steps : List (Nat × Nat)
  reads : List (List Byte)
  miss : Nat
  stop : Option JobStop
  flags : BitVec 5

/-- The records read when each emission of a merge is made: under code 0 those up to the record, else those up to the group's last.
(log entry 58: DEDUCED.) -/
def mergeSteps (each : Bool) : Nat → List (List (List Byte)) → List (Nat × Nat)
  | _, [] => []
  | n, g :: t =>
    (if each then (List.range g.length).map (fun k => (n + k + 1, 0)) else [(n + g.length, 0)]) ++
      mergeSteps each (n + g.length) t

/-- An RMERGE (R184, R186–R188): the state changes only in the lanes of a USER combine. -/
def State.runMerge (s : State) (o : Op) (j : JobDesc) : State × JobResult :=
  let code := keyCode (s.runAt o.ctx (handleEntry (j.inputs.headD 0))).layout
  let ins := j.inputs.map (s.loadInput o.ctx true)
  let ms := mergeOrder code ins
  let stops := (List.range ins.length).filterMap (fun i => ((ins.getD i ⟨[], none⟩).stop.map (fun x => (i, x))))
  let cut := mergeCut ms stops
  let used := match cut with
    | some (n, _) => ms.take n
    | none => ms
  let out := match cut with
    | some _ => if combCode j.comb = 0 then used else used.filter (fun r => some r.key ≠ (used.getLast?.map MergeRec.key))
    | none => used
  let groups := (groupKeys out).map (fun g => g.map MergeRec.bytes)
  let res := fun (es : List (List Byte)) (f : BitVec 5) =>
    JobResult.mk (es.map (fun b => (0, b))) (mergeSteps (combCode j.comb == 0) 0 groups) (used.map MergeRec.bytes) 0
      (cut.map Prod.snd) f
  if combCode j.comb = 7 then
    let n := valueBytes (combType j.comb)
    let off := combOff j.comb
    let ws := match ({ s with cur := .hart o.issuer.owner } : State).userBlock (BitVec.ofNat 64 (combBlock j.comb)) with
      | .ok ws => ws
      | .error _ => []
    let (s, accs, flags) := s.userFold o.issuer.owner ws (8 * n) j.frm (groups.map (fun g => g.map (fun b => recWord b off n)))
    (s, res ((List.zip groups accs).map (fun p => setBytes (p.1.headD []) off n p.2)) flags)
  else (s, res (groups.flatMap (combine j.comb)) 0)

/-- How far an RJOIN has come: its emissions with their steps, the records that it has read in order with how many of them are build
records, its misses, and whether it stopped in the build (R184, R192). -/
structure Joined where
  emits : List (List Byte)
  steps : List (Nat × Nat)
  reads : List (List Byte)
  built : Nat
  misses : Nat
  broken : Bool

/-- An RJOIN's work on its probe records in order: a record's output is emitted once the whole of its build group has been read
(R184, R192). -/
def joinLoop (j : JobDesc) (code : Nat) (build : List (List Byte)) (broken : Bool) : Joined → List (List Byte) → Joined
  | x, [] => x
  | x, p :: t =>
    let k := recKey code p
    let upTo := build.filter (fun b => decide (recKey code b ≤ k))
    if broken && upTo.length == build.length then { x with broken := true }
    else
      let carry := (p.drop j.a).take j.b
      let g := upTo.filter (fun b => recKey code b == k)
      let mine :=
        if g.isEmpty then [carry ++ List.replicate (4 * j.e) 0 ++ natLe 4 1]
        else g.map (fun b => carry ++ (b.drop j.c).take (4 * j.e) ++ natLe 4 0)
      let misses := x.misses + (if g.isEmpty then 1 else 0)
      let reads := x.reads ++ p :: upTo.drop x.built
      joinLoop j code build broken
        { x with
          emits := x.emits ++ mine
          steps := x.steps ++ mine.map (fun _ => (reads.length, misses))
          reads := reads
          built := upTo.length
          misses := misses } t

/-- An RJOIN: both inputs are read whole unless it stops. (log entry 58: DEDUCED.) -/
def State.runJoin (s : State) (o : Op) (j : JobDesc) : JobResult :=
  let code := keyCode (s.runAt o.ctx (handleEntry (j.inputs.headD 0))).layout
  let probe := s.loadInput o.ctx true (j.inputs.headD 0)
  let build := s.loadInput o.ctx true (j.inputs.getD 1 0)
  let r := joinLoop j code build.recs build.stop.isSome ⟨[], [], [], 0, 0, false⟩ probe.recs
  let stop := if r.broken then build.stop else probe.stop <|> build.stop
  ⟨r.emits.map (fun b => (0, b)), r.steps, r.reads ++ build.recs.drop r.built, r.misses, stop, 0⟩

/-- The tag of the record at a position (R191). -/
def tagged (j : JobDesc) (q : Nat) (b : List Byte) : List Byte :=
  let t := natLe j.a ((j.tagBase.toNat + q) % 2 ^ (8 * j.a))
  if j.b = 0 then b ++ t else t ++ b

/-- What a job computes when it starts (R183–R192). (log entry 58: DEDUCED.) -/
def State.runJob (s : State) (o : Op) (j : JobDesc) : State × JobResult :=
  let first := j.inputs.headD 0
  let code := keyCode (s.runAt o.ctx (handleEntry first)).layout
  match j.kind with
  | .merge => s.runMerge o j
  | .join => (s, s.runJoin o j)
  | .sort =>
    let x := s.loadInput o.ctx false first
    let sorted := stableSort (fun a b => decide (recKey code a ≤ recKey code b)) x.recs
    (s, ⟨if x.stop.isSome then [] else sorted.map (fun b => (0, b)), sorted.map (fun _ => (x.recs.length, 0)), x.recs, 0, x.stop, 0⟩)
  | .part =>
    let x := s.loadInput o.ctx false first
    let split := fun (w : Word) => keyOrder code (w.toNat % 2 ^ (8 * keyBytes code))
    (s, ⟨x.recs.map (fun b => ((j.splits.filter (fun w => decide (split w ≤ recKey code b))).length, b)),
      (List.range x.recs.length).map (fun q => (q + 1, 0)), x.recs, 0, x.stop, 0⟩)
  | .tag =>
    let x := s.loadInput o.ctx false first
    (s, ⟨(List.range x.recs.length).map (fun q => (0, tagged j q (x.recs.getD q []))),
      (List.range x.recs.length).map (fun q => (q + 1, 0)), x.recs, 0, x.stop, 0⟩)

/-! ## Emission (R155, R183, R184) -/

/-- Records still to be emitted, one append operation each (R155): a record takes its position when its turn comes. A destination
that is no longer OPEN refuses its record as one that refuses its writes does (R154, R184). A step that bounds the work emits no more
than so many. -/
def State.emitList (s : State) (o : Op) : List Taken → State × Op × List Taken × Wrote
  | [] => (s, o, [], .all)
  | t :: ts =>
    if s.steps = some 0 then (s, o, t :: ts, .more)
    else
      let e := t.run.toNat
      let r := s.runAt o.ctx e
      let n := t.data.length / r.size
      if t.count = 0 ∧ r.state ≠ .opened then (s, o, t :: ts, .stale)
      else
        let (s, t) := if t.count = 0 then
            (s.setRunAt o.ctx e { r with len := r.len + n }, { t with start := r.len, first := r.len, count := n })
          else (s, t)
        match s.writeBlock o t with
        | (s, o, _, .all) => State.emitList { s with steps := s.steps.map (· - 1) } o ts
        | (s, o, t', w) => (s, o, t' :: ts, w)

/-- Causes of the status codes of R184. -/
def statusCause (status : Nat) : Cause := if status = 2 then .poison else .runState

/-- What an emitting operation keeps: the status, the tval and the flags that it will end in, then for each emission the records
read and the misses counted when it is made, then for each record that it reads the routing counter that it advances, numbered from 1, or 0
(R184, R193). -/
def emitBuf (stop : JobStop) (flags : BitVec 5) (steps : List (Nat × Nat)) (routes : List Nat) : List (Nat × Word) :=
  [(0, BitVec.ofNat 64 stop.status), (1, stop.tval), (2, flags.setWidth 64)] ++
    steps.map (fun p => (p.1, BitVec.ofNat 64 p.2)) ++ routes.map (fun k => (k, 0))

/-- The counter that a record advances, by its number in the context from 1, or 0 for none (R193). -/
def Routing.counter (cfg : Routing) (die : Nat) (b : List Byte) : Nat :=
  let v := recWord b cfg.field 4 / 2 ^ cfg.shift
  if v < cfg.count ∧ cfg.field + 4 ≤ b.length then die * 256 + cfg.first + v + 1 else 0

/-- The counters that the records which a job reads advance, as its context's routing configuration stands when it starts; none without
flag bit 1 (R193). -/
def State.routesOf (s : State) (o : Op) (j : JobDesc) (reads : List (List Byte)) : List Nat :=
  if bitOf (BitVec.ofNat 64 j.flags) 1 then
    let die := (s.groupAt o.issuer.owner.group).die
    reads.map (((s.ctxAt o.ctx).routingAt die).counter die)
  else []

/-- A counter advanced. -/
def Ctx.countRoute (x : Ctx) (k : Nat) : Ctx := if k = 0 then x else x.setRoute (k - 1) (x.routeAt (k - 1) + 1)

/-- Routing counted for the first records that a job has read (R193). -/
def State.countRouting (s : State) (o : Op) (emissions reads : Nat) : State :=
  let ks := ((o.buf.drop (3 + emissions)).take reads).map Prod.fst
  if ks.isEmpty then s else s.setCtxAt o.ctx (ks.foldl Ctx.countRoute (s.ctxAt o.ctx))

/-- The engine goes on with a job's or a scan's emissions: all are written, or it goes on later, or it waits for an extent, or a
destination refuses one (status 3), and the counts are those of that emission (R184). The records that it has read are counted then
(R193). -/
def State.emitOn (s : State) (o : Op) (dests : List Word) : State :=
  let total := o.counts.2.1.toNat
  let s := match s.emitList o o.taken with
    | (s, o, _, .all) =>
      let status := (lookupD 0 o.buf 0).toNat
      (s.countRouting o total o.counts.1.toNat).setOp { o with
        taken := []
        preds := []
        phase := if status = 0 then .working else .stopped (statusCause status) (lookupD 0 o.buf 1) status }
    | (s, o, ts, .stale) | (s, o, ts, .poison _) =>
      let dest := match ts with
        | [] => 0
        | t :: _ => (dests.find? (fun w => handleEntry w = t.run.toNat)).getD 0
      let made := total - ts.length
      let step := (o.buf.drop 3).getD made (o.counts.1.toNat, o.counts.2.2)
      (s.countRouting o total step.1).setOp { o with
        taken := []
        preds := []
        counts := (BitVec.ofNat 64 step.1, BitVec.ofNat 64 made, step.2)
        phase := .stopped .runState dest 3 }
    | (s, o, ts, w) => s.setOp { o with taken := ts, preds := [], phase := w.phase }
  s.stallWords o.ctx o.taken

/-- Emissions as records to be written: the destination's entry and the bytes. -/
def emission (dests : List Word) (es : List (Nat × List Byte)) : List Taken :=
  es.map (fun p => ⟨BitVec.ofNat 64 (handleEntry (dests.getD p.1 0)), 0, 0, 0, p.2⟩)

/-- Whether a USER combine's lanes are free for it: the set is HELD, no strand runs and no data is on its way to its
registers (R188). -/
def State.lanesFree (s : State) (h : HartId) : Bool :=
  let x := s.hart h
  (x.vset.map VSet.state == some .held) && !(x.strands.any (fun t => t.running)) && x.lanes.isEmpty && x.state != .saved &&
    bitsOf x.pending 16 8 == 0 && bitsOf x.vpending 16 8 == 0

/-- Whether a job goes on: one with a USER combine does while its hart's set is HELD (R183, R188). -/
def State.jobRuns (s : State) (o : Op) (j : JobDesc) : Bool :=
  let x := s.hart o.issuer.owner
  combCode j.comb != 7 || j.kind != .merge || ((x.vset.map VSet.state == some .held) && x.state != .saved)

/-- A poisoned line that stopped a read is entered in the poison table (R334). -/
def State.notePoison (s : State) (c : Nat) (x : Option JobStop) : State :=
  match x with
  | some x =>
    let e := handleEntry x.input
    let r := s.runAt c e
    if x.status = 2 then
      (match s.badIn c e 0 (r.pub * r.size) with
       | some l => s.poisonLine c e l
       | none => s)
    else s
  | none => s

/-- R183: a job is performed: it takes P of its inputs, counts routing, and emits. -/
def execMergeJobStart (id : Nat) (s : State) : Host.Outcome State Fault Refusal :=
  opEvent id (fun o s =>
    match o.kind with
    | .job j =>
      if s.mayStart o && (combCode j.comb != 7 || j.kind != .merge || s.lanesFree o.issuer.owner) then
        let routes := s.routesOf o j
        let (s, r) := s.runJob o j
        let s := s.notePoison o.ctx r.stop
        some (s.emitOn { o with
          phase := .working
          taken := emission j.dests r.emits
          counts := (BitVec.ofNat 64 r.reads.length, BitVec.ofNat 64 r.emits.length, BitVec.ofNat 64 r.miss)
          buf := emitBuf (r.stop.getD ⟨0, 0, 0⟩) r.flags r.steps (routes r.reads) } j.dests)
      else none
    | _ => none) s

/-- Fields that an engine stores in a descriptor, each a store of the operation's issuer: one that lies in the code area is not
written (R19, R181); the first that is refused is reported, deferred. (log entry 58: DEDUCED.) -/
def State.storeFields (s : State) (o : Op) (p : Word) (fields : List (Nat × List Byte)) : State :=
  let at_ := fun (off n : Nat) => place { s with cur := o.issuer } .store n 4 (p + BitVec.ofNat 64 off)
  let s' := fields.foldl (fun (s : State) f => match at_ f.1 f.2.length with
    | .ok pl => { s with mem := Memory.writeBytes s.mem pl.key f.2 }
    | .error _ => s) s
  match fields.findSome? (fun f => match at_ f.1 f.2.length with
      | .ok _ => none
      | .error e => some e) with
  | some e => s'.reportOp o e.cause (e.tval.getD 0) false
  | none => s'

/-- The fields that the engine owns in a job's descriptor (R181). -/
def State.jobFields (s : State) (o : Op) (j : JobDesc) (status : Nat) : State :=
  s.storeFields o j.ptr
    [(0, natLe 4 status), (8, natLe 8 o.counts.1.toNat), (16, natLe 8 o.counts.2.1.toNat), (24, natLe 8 o.counts.2.2.toNat)]

/-- The flags of a USER combine merged when its job completes (R188). -/
def State.jobFlags (s : State) (o : Op) : State :=
  let h := o.issuer.owner
  if (lookup? s.harts h.key).isNone then s
  else s.setHart h { s.hart h with fflags := (s.hart h).fflags ||| (lookupD 0 o.buf 2).setWidth 5 }

/-- A destination published, and sealed when its job asks for it (R183). -/
def State.publishDest (seals : Bool) (c : Nat) (s : State) (w : Word) : State :=
  let s := s.publish c (handleEntry w)
  if seals then s.sealRun c (handleEntry w) else s

/-- Whether every position that appends have taken in the destinations is complete. -/
def State.allComplete (s : State) (c : Nat) (dests : List Word) : Bool :=
  dests.all (fun w => s.completeTo c (handleEntry w) == (s.runAt c (handleEntry w)).len)

/-- R183: a job completes. One that seals waits until every position of its destinations is complete.
(log entry 58: DEDUCED.) -/
def execMergeJobComplete (id : Nat) (s : State) : Host.Outcome State Fault Refusal :=
  opEvent id (fun o s =>
    match o.kind with
    | .job j =>
      let seals := bitOf (BitVec.ofNat 64 j.flags) 0
      if o.phase = .working ∧ s.jobRuns o j ∧ (seals = false ∨ s.allComplete o.ctx j.dests) then
        let s := (s.jobFields o j 0).jobFlags o
        some ((j.dests.foldl (State.publishDest seals o.ctx) s).endOp o)
      else none
    | _ => none) s

/-- R184: a job stops: its status and counts stand, nothing is published, and its hart takes the trap deferred. -/
def execMergeJobStop (id : Nat) (s : State) : Host.Outcome State Fault Refusal :=
  opEvent id (fun o s =>
    match o.kind, o.phase with
    | .job j, .stopped c v status =>
      if s.jobRuns o j then some ((((s.jobFields o j status).jobFlags o).endOp o).reportOp o c v false) else none
    | _, _ => none) s

/-! ## Routing counters (R193, R194) -/

/-- Whether counters from one on are assigned to the issuer's context on its die. -/
def State.routesOk (s : State) (first count : Nat) : Bool :=
  decide (first + count ≤ s.ctx.routes) && decide (first + count ≤ 256)

/-- R193, CSET. -/
def execCset (a : Reg) (h : HReg) (s : State) : Host.Outcome State Fault Refusal :=
  issue .stream (do
    named [a]
    let q ← seqOf h
    let s ← get
    let w := s.rs a
    let cfg : Routing := ⟨bitsOf w 0 8, bitsOf w 8 8 + 1, bitsOf w 16 16, bitsOf w 32 8⟩
    if bitsOf w 40 24 ≠ 0 ∨ cfg.field % 4 ≠ 0 ∨ s.routesOk cfg.first cfg.count = false then trap .badAddr w else pure ()
    ready (.of q .copy none)
    set (s.setCtx { s.ctx with routing := insertKey s.ctx.routing s.group.die cfg })
    pure .seq) s

/-- Counters copied into elements 0 upward of a register's bits. -/
def Ctx.snapshot (x : Ctx) (k : Nat) : Nat → Nat
  | 0 => 0
  | n + 1 => Ctx.snapshot x k n + (x.routeAt (k + n)).toNat * 2 ^ (64 * n)

/-- Counters from one on set to zero. -/
def Ctx.clearRoutes (x : Ctx) (k : Nat) : Nat → Ctx
  | 0 => x
  | n + 1 => (Ctx.clearRoutes x k n).setRoute (k + n) 0

/-- R194, CSNAP. -/
def execCsnap (d a : Reg) (h : HReg) (s : State) : Host.Outcome State Fault Refusal :=
  issue .stream (do
    hartOnly
    vnamed ⟨[a], [], [], [d], []⟩
    let q ← seqOf h
    let s ← get
    let w := s.rs a
    let first := bitsOf w 0 8
    let n := bitsOf w 8 8 + 1
    if s.routesOk first n then pure () else trap .badAddr w
    ready { Needs.of q .load none with vdest := some d, zero := (64, List.range 256) }
    let k := s.group.die * 256 + first
    let v := BitVec.ofNat 16384 (s.ctx.snapshot k n)
    set ((s.setCtx (s.ctx.clearRoutes k n)).setMe (s.me.setVreg d.toNat v))
    pure .seq) s

end Sys2Proof.Machine
end

