-- ==== Sys2Proof/Machine/NearMem.lean ====
section
/-!
DEFINITION. Near-memory commands and scans: majors 0x4C and 0x4D (R335–R345).
-/

namespace Sys2Proof.Machine

/-! ## Near-memory jobs -/

/-- A status word of R341. -/
def nmStatus (state code command element : Nat) : Word :=
  BitVec.ofNat 64 (state * 2 ^ 62 + code % 256 * 2 ^ 54 + command % 2 ^ 14 * 2 ^ 40 + element % 2 ^ 40)

/-- Near-memory jobs of a hart that are still running (R336). -/
def State.nmRunning (s : State) (h : HartId) : Nat :=
  (s.ops.filter (fun o => o.issuer.owner = h ∧ o.kind.isNmc)).length

/-- R336, NMC: a sequencer's job takes the next token of the hart that forked it. -/
def execNmc (d a b : Reg) (h : HReg) (s : State) : Host.Outcome State Fault Refusal :=
  issue .stream (do
    named [d, a, b]
    let q ← seqOf h
    let s ← get
    let w := s.rs a
    let e ← checkRun w
    if ptrSpace w = 6 then trap .badSpace w else pure ()
    if (s.ctx.run e).size ≠ 64 then trap .runState w else pure ()
    if 8 ≤ s.nmRunning s.cur.owner then throw .wait else pure ()
    let token := s.me.nmIssued
    let jobs := s.me.nmJobs ++ [⟨token, s.nextOp, nmStatus 1 0 0 0⟩]
    enqueue q .copy (.nmc w (s.rs b).toNat token)
    act (fun s =>
      (s.setMe { s.me with nmIssued := token + 1, nmJobs := jobs.drop (jobs.length - 8) }).setRs d (token.setWidth 64))
    pure .seq) s

/-- R341, NMSTAT. -/
def execNmstat (d a : Reg) (h : HReg) (s : State) : Host.Outcome State Fault Refusal :=
  issue .stream (do
    named [d, a]
    let q ← seqOf h
    ready (.of q .load (some d))
    let s ← get
    let t := s.rs a
    let x := (s.me.nmJobs.find? (fun j => j.token.setWidth 64 == t)).map NmJob.status
    set (s.setRs d (x.getD 0))
    pure .seq) s

/-- A command of a near-memory job (R337). -/
structure NmCommand where
  op : Nat
  n : Nat
  target : Word
  e0 : Nat
  source : Word
  j0 : Nat
  a : Nat
  b : Nat
  clean : Bool
  deriving DecidableEq, Repr

/-- A command record read (R337). (log entry 60: DEDUCED.) -/
def nmCommand (bs : List Byte) : NmCommand :=
  ⟨recWord bs 0 1, recWord bs 4 4, BitVec.ofNat 64 (recWord bs 8 8), recWord bs 16 8, BitVec.ofNat 64 (recWord bs 24 8),
    recWord bs 32 8, recWord bs 40 4, recWord bs 44 4, recWord bs 1 3 == 0 && recWord bs 48 16 == 0⟩

/-- Whether an operation takes a source (R338). -/
def NmCommand.sourced (c : NmCommand) : Bool := decide (1 ≤ c.op ∧ c.op ≤ 5)

/-- The checks of R339 in their order: the tval of the first that fails. -/
def State.commandFault (s : State) (ctx : Nat) (run : Word) (c : NmCommand) : Option Word :=
  let x := s.ctxAt ctx
  let t := x.run (handleEntry c.target)
  let r := x.run (handleEntry c.source)
  let ok := fun (w : Word) => runHandleOk s x w && ptrSpace w == 5
  let holds := fun (r : Run) (e : Nat) => decide (e + c.n - 1 < r.pub * r.size / 4)
  if decide (7 < c.op) || !c.clean || decide (c.n < 1 ∨ 2 ^ 24 < c.n) || (!c.sourced && c.source != 0) then some run
  else if ok c.target = false then some c.target
  else if c.sourced && (!ok c.source || r.home != t.home) then some c.source
  else if t.state ≠ .opened ∨ t.upd = false ∨ handleEntry c.target < 2 then some c.target
  else if holds t c.e0 = false then some c.target
  else if c.sourced && !holds r c.j0 then some c.source
  else none

/-- The new value of a target element (R338). -/
def NmCommand.value (c : NmCommand) (t s : Nat) : Nat :=
  let mul := fun (x y : Nat) => (f32.mul .rne (f32.decode x) (f32.decode y)).1
  match c.op with
  | 0 => t
  | 1 => (f32.sum .rne [f32.decode (mul t c.a), (f32.decode (mul c.b s)).negate]).1
  | 2 => (f32.sum .rne [f32.decode t, f32.decode (mul c.a s)]).1
  | 3 => (t + s) % 2 ^ 32
  | 4 => (f32.minmax true t s).1
  | 5 => s
  | 6 => c.a
  | _ => mul t c.a

/-- The failing line that element `i` of a command meets, and its run's entry (R340). COPY and FILL write whole lines that
they cover, and do not read them. -/
def State.commandBad (s : State) (ctx : Nat) (c : NmCommand) (i : Nat) : Option (Nat × Nat) :=
  let t := c.e0 + i
  let line := t / 16
  let whole := (c.op = 5 ∨ c.op = 6) ∧ c.e0 ≤ 16 * line ∧ 16 * line + 16 ≤ c.e0 + c.n
  let src := fun (k : Nat) => c.sourced && s.lineBad ctx (handleEntry c.source) ((c.j0 + k) / 16)
  let readable := (List.range 16).all (fun k => !src (16 * line + k - c.e0))
  if c.op = 0 then none
  else if src i then some (handleEntry c.source, (c.j0 + i) / 16)
  else if s.lineBad ctx (handleEntry c.target) line && !(decide whole && readable) then some (handleEntry c.target, line)
  else none

/-- Element `i` of a command updated. -/
def State.applyElement (s : State) (ctx : Nat) (c : NmCommand) (i : Nat) : State :=
  if c.op = 0 then s
  else
    let e := handleEntry c.target
    let at_ := 4 * (c.e0 + i)
    let t := leNat (s.runBytes ctx e at_ 4)
    let x := if c.sourced then leNat (s.runBytes ctx (handleEntry c.source) (4 * (c.j0 + i)) 4) else 0
    (s.cleanLine ctx e ((c.e0 + i) / 16)).putRunBytes ctx e at_ (natLe 4 (c.value t x))

/-- How a job stops: its code, its tval and the element of its status word. -/
structure NmStop where
  cause : Cause
  tval : Word
  element : Nat
  deriving DecidableEq, Repr

/-- How far a command has come: it is applied, it goes on later with an element, or it has stopped the job. -/
inductive NmOut
  | applied
  | later (i : Nat)
  | stopped (x : NmStop)

/-- A command stopped at an element of its target. -/
def NmCommand.stopAt (c : NmCommand) (cause : Cause) (i : Nat) : NmOut :=
  .stopped ⟨cause, BitVec.ofNat 64 (c.e0 + i), c.e0 + i⟩

/-- Elements of a command applied in order from `i` on, `k` of them: up to the first that meets a failing line or whose write is refused
twice, or as far as the step goes. An executor translates when it enters an extent, and again for the replay of a refused write (R327,
R331, R340). -/
def State.applyFrom (c : NmCommand) : Nat → Nat → Op → State → State × Op × NmOut
  | 0, _, o, s => (s, o, .applied)
  | k + 1, i, o, s =>
    let e := handleEntry c.target
    let at_ := 4 * (c.e0 + i)
    if s.steps = some 0 then (s, o, .later i)
    else
      match s.commandBad o.ctx c i with
      | some (e, l) => (s.poisonLine o.ctx e l, o, c.stopAt .poison i)
      | none =>
        if c.op ≠ 0 ∧ s.stale o e at_ then
          (if o.phase = .replay then (s, o, c.stopAt .mapStale i) else (s, { s.translated o e at_ with phase := .replay }, .later i))
        else
          State.applyFrom c k (i + 1) (if c.op = 0 then o else { s.translated o e at_ with phase := .working })
            { s.applyElement o.ctx c i with steps := s.steps.map (· - 1) }

/-- One command executed from an element on; it is checked as it starts (R338–R340). -/
def State.runCommand (s : State) (o : Op) (run : Word) (pos i : Nat) : State × Op × NmOut :=
  let e := handleEntry run
  if i = 0 ∧ s.lineBad o.ctx e pos then
    (s.poisonLine o.ctx e pos, o, .stopped ⟨.poison, BitVec.ofNat 64 pos, 2 ^ 40 - 1⟩)
  else
    let c := nmCommand (s.record o.ctx e pos)
    match (if i = 0 then s.commandFault o.ctx run c else none) with
    | some w => (s, o, .stopped ⟨.runState, w, 0⟩)
    | none => State.applyFrom c (c.n - i) i o s

/-- How far a job has come: the commands applied, and the element of the next to go on with; or how it has ended. -/
inductive NmDone
  | later (k i : Nat)
  | ended (k : Nat) (stop : Option NmStop)

/-- Commands executed in record order from an element of the first on, until one stops the job or the step's bound is reached. -/
def State.runCommands (run : Word) : List Nat → Nat → Nat → Op → State → State × Op × NmDone
  | [], k, _, o, s => (s, o, .ended k none)
  | p :: t, k, i, o, s =>
    match s.runCommand o run p i with
    | (s, o, .applied) => State.runCommands run t (k + 1) 0 o s
    | (s, o, .later i) => (s, o, .later k i)
    | (s, o, .stopped x) => (s, o, .ended k (some x))

/-- The status of a hart's job replaced. -/
def State.setNmStatus (s : State) (h : HartId) (op : Nat) (w : Word) : State :=
  if (lookup? s.harts h.key).isNone then s
  else
    let x := s.hart h
    s.setHart h { x with nmJobs := x.nmJobs.map (fun j => if j.op = op then { j with status := w } else j) }

/-- A job that takes P of its command run as it starts: the commands applied, the next element, and that P (R336). -/
def State.nmStart (s : State) (o : Op) (run : Word) : Op :=
  { o with phase := .working, preds := [], counts := (0, 0, BitVec.ofNat 64 (s.runAt o.ctx (handleEntry run)).pub) }

/-- A job complete once every observer sees its updates: its status, and the trap of one that has stopped (R245, R254, R341). -/
def State.nmEnd (s : State) (o : Op) : State :=
  let s := (s.setNmStatus o.issuer.owner o.id o.counts.1).endOp o
  match o.phase with
  | .stopped c v _ => s.reportOp o c v false
  | _ => s

/-- A job goes on with its commands, as far as the step does. -/
def State.nmGo (s : State) (o : Op) (run : Word) (first : Nat) : State :=
  let k := o.counts.1.toNat
  let todo := (List.range (Nat.min o.counts.2.2.toNat (first + 16384) - first)).map (first + ·)
  match State.runCommands run (todo.drop k) k o.counts.2.1.toNat o s with
  | (s, o, .later k i) => s.setOp { o with counts := (BitVec.ofNat 64 k, BitVec.ofNat 64 i, o.counts.2.2) }
  | (s, o, .ended k stop) =>
    let o := match stop with
      | none => { o with phase := .sent, counts := (nmStatus 2 0 k 0, 0, 0) }
      | some x => { o with phase := .stopped x.cause x.tval 0, counts := (nmStatus 3 x.cause.code k x.element, 0, 0) }
    if s.late then s.setOp o else s.nmEnd o

/-- R336: a near-memory job is performed: its commands are applied in order, in one step or in several (R254). -/
def execNmcJobRun (id : Nat) (s : State) : Host.Outcome State Fault Refusal :=
  opEvent id (fun o s =>
    match o.kind with
    | .nmc run first _ =>
      match o.phase with
      | .queued => if s.ready o then some (s.nmGo (s.nmStart o run) run first) else none
      | .working | .replay => some (s.nmGo o run first)
      | .sent | .stopped _ _ _ => if s.unseen id then none else some (s.nmEnd o)
      | _ => none
    | _ => none) s

/-! ## Scans -/

/-- Key codes of the value types of R343. -/
def scanKey (t : Nat) : Nat :=
  match t with
  | 0 => 3
  | 1 => 1
  | _ => 5

/-- A scan's descriptor read and checked at issue (R343, R344). (log entry 60: DEDUCED.) -/
def readScan (emit : Bool) (p : Word) : M ScanDesc := do
  let bs ← readDesc p 48
  let d : ScanDesc := ⟨p, descWord bs 0, descWord bs 8, descWord bs 16, descField bs 28 2, descField bs 30 1,
    descField bs 31 1⟩
  if 2 ^ 32 ≤ d.thr.toNat ∨ d.voff % 4 ≠ 0 ∨ 2 < d.type ∨ 3 < d.flags then trap .runState 0 else pure ()
  let a ← checkRun d.src
  let b ← if emit then checkRun d.dst else pure 0
  let s ← get
  let r := s.ctx.run a
  let t := s.ctx.run b
  if ptrSpace d.src = 6 ∨ r.size < d.voff + 4 then trap .runState d.src else pure ()
  if emit && (ptrSpace d.dst == 6 || t.state != .opened || decide (b < 2) || t.size != 16 ||
      keyCode t.layout != scanKey d.type || t.home != r.home) then trap .runState d.dst
  else pure ()
  pure d

/-- R344, SCAN. -/
def execScan (a : Reg) (h : HReg) (s : State) : Host.Outcome State Fault Refusal :=
  issue .stream (do
    named [a]
    let q ← seqOf h
    let s ← get
    let d ← readScan true (s.rs a)
    enqueue q .copy (.scan d none)
    pure .seq) s

/-- R345, SCANTH: d is pending until the count arrives. -/
def execScanth (d a : Reg) (h : HReg) (s : State) : Host.Outcome State Fault Refusal :=
  issue .stream (do
    named [d, a]
    let q ← seqOf h
    let s ← get
    let x ← readScan false (s.rs a)
    enqueue q .copy (.scan x (some d))
    act (fun s => s.markPending d)
    pure .seq) s

/-- Whether a record passes the threshold (R343). -/
def ScanDesc.passes (d : ScanDesc) (b : List Byte) : Bool :=
  let v := keyOrder (scanKey d.type) (recWord b d.voff 4)
  let t := keyOrder (scanKey d.type) (d.thr.toNat % 2 ^ 32)
  decide (t < v) || (bitOf (BitVec.ofNat 64 d.flags) 0 && v == t)

/-- The scan units read the source: records examined, positions that pass, and what stopped them. -/
def State.scanRecords (s : State) (c : Nat) (d : ScanDesc) : List (List Byte) × List Nat × Option JobStop :=
  let x := s.loadInput c false d.src
  (x.recs, (List.range x.recs.length).filter (fun q => d.passes (x.recs.getD q [])), x.stop)

/-- The fields that the engine owns in a scan's descriptor (R343). -/
def State.scanFields (s : State) (o : Op) (d : ScanDesc) (status : Nat) : State :=
  s.storeFields o d.ptr [(24, natLe 4 status), (32, natLe 8 o.counts.1.toNat), (40, natLe 8 o.counts.2.1.toNat)]

/-- A scan completes or stops (R183, R184, R344, R345). -/
def State.scanEnd (s : State) (o : Op) (d : ScanDesc) (dest : Option Reg) : State :=
  let seals := bitOf (BitVec.ofNat 64 d.flags) 1
  match o.phase with
  | .working =>
    match dest with
    | some r => ((s.scanFields o d 0).deliver o.issuer r o.counts.2.2).endOp o
    | none =>
      if seals && !s.allComplete o.ctx [d.dst] then s
      else (State.publishDest seals o.ctx (s.scanFields o d 0) d.dst).endOp o
  | .stopped c v status =>
    let s := match dest with
      | some r => s.deliver o.issuer r 0
      | none => s
    ((s.scanFields o d status).endOp o).reportOp o c v false
  | _ => s

/-- R344, R345: a scan is performed, emits or counts, and ends. -/
def execScanRun (id : Nat) (s : State) : Host.Outcome State Fault Refusal :=
  opEvent id (fun o s =>
    match o.kind with
    | .scan d dest =>
      if s.mayStart o then
        let (recs, hits, stop) := s.scanRecords o.ctx d
        let s := s.notePoison o.ctx stop
        let recOf := fun (q : Nat) => (((recs.getD q []).drop d.voff).take 4) ++ natLe 4 0 ++ natLe 8 q
        let out := if dest.isSome then [] else hits.map (fun q => (0, recOf q))
        let s := s.emitOn { o with
          phase := .working
          taken := emission [d.dst] out
          counts := (BitVec.ofNat 64 recs.length, BitVec.ofNat 64 out.length, BitVec.ofNat 64 hits.length)
          buf := emitBuf (stop.getD ⟨0, 0, 0⟩) 0 (hits.map (fun q => (q + 1, hits.length))) [] } [d.dst]
        match s.opAt o.id with
        | some o => some (s.scanEnd o d dest)
        | none => some s
      else some (s.scanEnd o d dest)
    | _ => none) s

end Sys2Proof.Machine
end

