-- ==== Sys2Proof/Machine/Wait.lean ====
section
/-!
DEFINITION. What ends a hart's waits and stalls: the condition of a blocking instruction, a WFE's timeout, the element of a
stream, a deferred report; illegal words (R40, R68, R69, R85, R101, R168).
-/

namespace Sys2Proof.Machine

/-! ## Illegal words (R40) -/

/-- R40: the issuer comes to a word that is no instruction, and traps ILLEGAL_INSTR with the word in tval. -/
def execIllegalWord (w : IWord) (s : State) : Host.Outcome State Fault Refusal :=
  .next (State.takeTrap s (.at .illegalInstr (w.setWidth 64)) s)

/-! ## Deferred reports (R85) -/

/-- A report as the trap that it becomes: a deferred one keeps the tstart of the hart's own position. -/
def Report.trap (r : Report) : TrapInfo :=
  { cause := r.cause, tval := r.tval, source := r.source, inner := r.inner, lane := 0, enginePc := r.enginePc,
    pos := none, deferred := r.deferred }

/-- Whether a hart can take a report now: it is between two instructions or held in one, and it is quiet (R85, R95). -/
def State.takesReports (s : State) (h : HartId) : Bool :=
  ((s.hart h).state == .run || (s.hart h).state == .wait) && s.quiet h

/-- R85: a hart takes the `k`-th report that has reached it before it issues its next instruction. -/
def execDeferredTrap (h : HartId) (k : Nat) (s : State) : Host.Outcome State Fault Refusal :=
  let x := s.hart h
  match x.reports[k]? with
  | none => .next s
  | some r =>
    event (s.takesReports h)
      (fun s => (s.setHart h { s.hart h with reports := x.reports.eraseIdx k }).hartTrap h r.trap) s

/-! ## Blocking instructions (R68, R69) -/

/-- A blocking instruction's word as the instruction that tests its condition. -/
def blocking (w : IWord) : Option (State → Host.Outcome State Fault Refusal) :=
  let n := w.toNat
  let r := fun (lo : Nat) => (BitVec.ofNat 5 (n / 2 ^ lo) : Reg)
  let k := fun (lo : Nat) => (BitVec.ofNat 4 (n / 2 ^ lo) : HReg)
  match n % 128 with
  | 0x16 => some (execWaitc (r 12) (r 17) (r 7) (r 22))
  | 0x17 =>
    match n / 2 ^ 22 with
    | 0 => some (execFork (r 12) (r 17))
    | 1 => some execRdv
    | _ => none
  | 0x1C =>
    match n / 2 ^ 22 with
    | 4 => some (execWfe (r 7) (r 12))
    | 5 => some execHalth
    | _ => none
  | 0x3C =>
    match n / 2 ^ 29 with
    | 3 => some execVjoin
    | 4 => some execVrelease
    | _ => none
  | 0x43 =>
    match n / 2 ^ 26 with
    | 0 => some (execRsort (r 16) (k 12))
    | 1 => some (execRmerge (r 16) (k 12))
    | 2 => some (execRpart (r 16) (k 12))
    | 3 => some (execRtag (r 16) (k 12))
    | 4 => some (execRjoin (r 16) (k 12))
    | _ => none
  | 0x4C => if n / 2 ^ 26 = 0 then some (execNmc (r 7) (r 16) (r 21) (k 12)) else none
  | 0x60 =>
    match n / 2 ^ 22 with
    | 0 => some (execHnew (k 7) (r 12))
    | 1 => some (execHfork (k 7) (k 12))
    | 2 => some (execHjoin (k 7) (k 12) (k 17))
    | 4 => some (execHwait (k 12))
    | 5 => some (execHscope (k 7) (k 12) (r 17))
    | 6 => some (execHexp (r 7) (k 12))
    | 7 => some (execHimp (k 7) (r 12))
    | _ => none
  | 0x6C =>
    match n / 2 ^ 26 with
    | 0 => some (execSemacq (r 7) (r 16) (r 21) (k 12))
    | 4 => some execGexit
    | _ => none
  | 0x70 =>
    match n / 2 ^ 26 with
    | 2 => some (execBarwait (r 16) (r 21) (k 12))
    | 3 => some (execBararw (r 7) (r 16) (k 12))
    | _ => none
  | 0x74 => if n / 2 ^ 26 = 2 then some (execXtkwait (r 16) (r 21) (k 12)) else none
  | _ => none

/-- The state in which a hart in WAIT tests its blocking instruction afresh. (log entry 26: DEDUCED.) -/
def State.testing (s : State) (h : HartId) : State :=
  let s := { s with cur := .hart h }
  { s.setHart h { s.hart h with state := .run } with word := s.codeWord (s.hart h).pc.toNat }

/-- Whether the queue that a hart's next word enters has room: the tile engine's for majors 0x50–0x59 but TMOV, else the vector
instruction queue (R68, R111, R206). -/
def State.queueRoom (s : State) (h : HartId) : Bool :=
  let x := s.hart h
  let w := x.vqueue.headD (({ s with cur := .hart h } : State).codeWord x.pc.toNat)
  if decide (0x50 ≤ major w ∧ major w ≤ 0x59) && !isTmov w then decide ((s.tileOps x.core).length < 32) else !x.lanesFull

/-- A hart in WAIT whose condition is met: past its blocking instruction, or about to issue the word for which there was no room; none
while the condition is unmet. (log entry 26: DEDUCED.) -/
def State.unblock (s : State) (h : HartId) : Option State :=
  if (s.hart h).state == .wait && (s.hart h).reports.isEmpty then
    let t := s.testing h
    match (if (s.hart h).vqueue.isEmpty then blocking t.word else none) with
    | none => if s.queueRoom h then some (s.setHart h { s.hart h with state := .run }) else none
    | some f =>
      match f t with
      | .next u =>
        if (u.hart h).state = .wait ∨ u = t then none else some { u with cur := s.cur, word := s.word }
      | _ => none
  else none

/-- R69: the condition of a hart's blocking instruction is met, and the hart goes on after it.
(log entry 26: DEDUCED.) -/
def execHartWaitEnds (h : HartId) (s : State) : Host.Outcome State Fault Refusal :=
  .next ((s.unblock h).getD s)

/-- R101: s1 cycles have passed since a WFE that waits was issued. (log entry 26: DEDUCED.) -/
def execWfeTimeout (h : HartId) (s : State) : Host.Outcome State Fault Refusal :=
  event ((s.hart h).state == .wait && ((s.hart h).wfeAt.map (fun t => decide (t ≤ s.cycle))).getD false)
    (fun s => s.latch 4 h) s

/-! ## Stream elements (R115, R168) -/

/-- Whether a read binding's next byte has been published, or its run sealed; a pattern's next bytes are not on their way. -/
def State.streamReady (s : State) (h : HartId) (b : Binding) : Bool :=
  match b.kind with
  | .read =>
    let r := ({ s with cur := .hart h } : State).ctx.run (handleEntry b.handle)
    r.state != .opened || decide (b.pos < r.pub * r.size)
  | _ => !s.fetching (.hart h) b.reg

/-- R168: P has passed the element that a stalled instruction reads, or the run is sealed; the instruction goes on, or
traps, at its element. -/
def execStreamStallEnd (h : HartId) (s : State) : Host.Outcome State Fault Refusal :=
  let x := s.hart h
  event (match x.stalled with
      | none => false
      | some r =>
        match (({ s with cur := .hart h } : State).bindOf r) with
        | some b => s.streamReady h b
        | none => true)
    (fun s => s.setHart h { s.hart h with stalled := none }) s

end Sys2Proof.Machine
end

