-- ==== Sys2Proof/Machine/Contexts.lean ====
section
/-!
DEFINITION. What Kennel does to contexts: page pools and extents, the settling of escalated traps, suspension,
repartition, resets and clearing, soft errors and channels (R98, R258–R266, R325–R334).
-/

namespace Sys2Proof.Machine

/-! ## Page pools (R325) -/

/-- Whether a context is there and not being cleared. -/
def Ctx.standing (x : Ctx) : Bool := x.state == .idle || x.state == .active || x.state == .suspended

/-- R325: Kennel grows a pool. -/
def execKennelGrowPool (ctx die units : Nat) (s : State) : Host.Outcome State Fault Refusal :=
  event ((s.ctxAt ctx).standing && s.mayGrow ctx die units) (fun s => s.growPool ctx die units) s

/-- Units returned to a die's free memory. -/
def State.returnUnits (s : State) (die n : Nat) : State :=
  let d := vecGet Die.reset s.dies die
  { s with dies := vecSet s.dies die { d with units := d.units + n } }

/-- Units of a die leave a pool of `pool`, to be zeroed. -/
def State.dropUnits (c die : Nat) : Nat → Nat → State → State
  | 0, _, s => s
  | n + 1, pool, s => State.dropUnits c die n (pool - 1) (s.drawUnit c die pool).1

/-- R325: Kennel zeroes pooled pages and returns them to their die. -/
def execKennelShrinkPool (ctx die units : Nat) (s : State) : Host.Outcome State Fault Refusal :=
  let x := s.ctxAt ctx
  event (x.standing && decide (units ≤ x.poolAt die) && decide (die < 8))
    (fun s =>
      let s := State.dropUnits ctx die units (x.poolAt die) s
      (s.returnUnits die units).setCtxAt ctx ((s.ctxAt ctx).setPool die (x.poolAt die - units))) s

/-! ## Extents (R328) -/

/-- An append that has stopped goes on with what its run has room for now. -/
def State.goOn (s : State) (o : Op) : State :=
  match o.kind with
  | .job j => if s.jobRuns o j then s.emitOn o j.dests else s.setOp { o with phase := .writing }
  | .scan d _ => s.emitOn o [d.dst]
  | .copyRun _ _ =>
    s.driveAppend o (fun s => if o.counts.2.1 = 0 then s else s.reportOp o .poison o.counts.2.2 false)
  | _ => s.driveAppend o id

/-- An operation goes on that no row of its own drives: an append or a pattern's stores once what precedes them is performed, what is
still to be written, and a refused write's replay (R84, R155, R247, R331). -/
def State.drive (s : State) (o : Op) : Option State :=
  match o.phase, o.kind with
  | .spread, _ => if s.unseen o.id then none else some (s.endOp o)
  | .writing, _ | .replay, _ => if o.kind.isNmc then none else some (s.goOn o)
  | .queued, .append run data => if s.ready o then some (s.startAppend o run data) else none
  | .queued, .patStore b words =>
    if s.ready o && !s.touching o.issuer.owner words (o.parent.getD o.id) then
      some ((({ s with cur := .late o.issuer.owner o.id } : State).storePattern b).endLate o)
    else none
  | _, _ => none

/-- Kennel kills the group of an append that finds no page, for its EXTENT at the first run byte that it could not write (R265, R328).
(log entry 27: DEDUCED.) -/
def State.killForExtent (s : State) (o : Op) (t : Taken) : State :=
  let h := o.issuer.owner
  let off := BitVec.ofNat 64 (s.noRoom o.ctx t)
  let code := tcauseOf (.at .extent off) (s.hart h).priv
  s.killWith h.group
    (fun s => s.faultRecord o.ctx code off o.pc.toNat h.hart h.rank (s.groupAt h.group).die 1) 1

/-- The block of positions for which an operation waits for an extent: one that it has taken, or that a bulk send to a run of this chip
would take (R328, R360). -/
def State.awaits (s : State) (o : Op) : Option Taken :=
  match o.kind with
  | .send d chip =>
    let e := handleEntry d.dst
    let r := s.runAt o.ctx e
    if s.mayStartSend o chip && chip == s.chipId && ptrSpace d.dst == 5 && runHandleOk s (s.ctxAt o.ctx) d.dst then
      some ⟨BitVec.ofNat 64 e, r.len, r.len, d.bytes / r.size, []⟩
    else none
  | _ => if o.phase = .extent then o.taken.head? else none

/-- R328: Kennel maps extents of the run that an append waits on, up to the end of the first record that it is to write, and resumes the
append; without a page to be had it kills the group. A host run waits for the host's HEXT instead (R371). (log entry 27: DEDUCED.) -/
def execExtentResume (op : Nat) (s : State) : Host.Outcome State Fault Refusal :=
  opEvent op (fun o s =>
    match s.awaits o with
    | none => none
    | some t =>
      let e := t.run.toNat
      let r := s.runAt o.ctx e
      if r.host then none
      else
        let r' := r.grown ((t.first + 1) * r.size)
        match s.supply o.ctx r.home (r'.units - r.units), o.kind with
        | .ok s, .send _ _ => some (s.mapRun o.ctx e r')
        | .ok s, _ => some ((s.mapRun o.ctx e r').goOn o)
        | .error _, _ => if (s.ctxAt o.ctx).state = .active then some (s.killForExtent o t) else none) s

/-! ## Escalated traps (R98, R264, R265) -/

/-- The hart past an escalated trap: it goes on, or stays SAVED. -/
def Hart.settled (h : Hart) : Hart :=
  { h with trapHeld := false, state := if h.state = .suspended then .run else h.state }

/-- The units that an ROPEN with a reservation of so many bytes takes from the pool (R326). -/
def reservationUnits (bytes : Nat) : Nat := (growFree (bytes / 2 ^ 21 + 1) Run.reset bytes).units

/-- The bytes that an ROPEN word reserves: its s2. -/
def reserveOf (w : IWord) (rs : Vector Word 32) : Nat :=
  let b := w.toNat / 2 ^ 21 % 32
  if b = 0 then 0 else (vecGet 0 rs b).toNat

/-- A hart's service request done (R264), the service's number in s1 and its argument in s2: the hart goes on at S after its SYSC, but for KILL.
(log entry 19: DEDUCED; log entry 28: DEDUCED.) -/
def State.serve (s : State) (h : HartId) : State :=
  let x := s.hart h
  let g := s.groupAt h.group
  let v := vecGet 0 x.sregs 2
  let number := vecGet 0 x.sregs 1
  let done := fun (s : State) (r : Option Word) =>
    let x := s.hart h
    s.setHart h { x.settled with
      priv := .s
      pc := x.tpc + 4
      sregs := match r with
        | some r => vecSet x.sregs 2 r
        | none => x.sregs }
  match number.toNat with
  | 1 => s.killGroup h.group (some h) (BitVec.ofNat 8 (128 + v.toNat % 128))
  | 2 => done (s.faultRecord g.ctx x.tcause v x.tpc.toNat h.hart h.rank g.die 4) none
  | 3 =>
    let n := (v.toNat + 2 ^ 21 - 1) / 2 ^ 21
    if s.mayGrow g.ctx (x.core / 64) n then done (s.growPool g.ctx (x.core / 64) n) (some 1) else done s (some 0)
  | _ => done s (some (BitVec.allOnes 64))

/-- A POOL_EMPTY settled (R265): the pool is grown and the ROPEN issues again, or the group is killed.
(log entry 27: DEDUCED.) -/
def State.settlePool (s : State) (h : HartId) : State :=
  let x := s.hart h
  let c := (s.groupAt h.group).ctx
  let w := ({ s with cur := .hart h } : State).codeWord x.tpc.toNat
  match s.supply c (x.core / 64) (reservationUnits (reserveOf w x.sregs)) with
  | .ok s => s.setHart h (s.hart h).settled
  | .error _ => s.killGroup h.group (some h) 1

/-- A sequencer that POOL_EMPTY suspended, settled (R88, R265): it issues the ROPEN again, unless an error of an operation of its own has
stopped it since (R89). (log entry 27: DEDUCED.) -/
def State.settleSeq (s : State) (h : HartId) (e : Eng) : State :=
  let x := s.hart h
  let p := x.prog e
  if p.suspended then
    let c := (s.groupAt h.group).ctx
    let w := ({ s with cur := .seq h e } : State).codeWord p.pc
    match s.supply c (x.core / 64) (reservationUnits (reserveOf w p.sregs)) with
    | .ok s => s.setHart h ((s.hart h).setProg e { p with suspended := false, stop := if p.takesStop then none else p.stop })
    | .error _ =>
      let t := TrapInfo.at .poolEmpty (Config.poolNumber c)
      s.killWith h.group
        (fun s => s.faultRecord c (tcauseOf t x.priv) t.tval p.pc h.hart h.rank (s.groupAt h.group).die 1) 1
  else s

/-- The cause of the trap that a hart's trap CSRs hold. -/
def Hart.trapCode (h : Hart) : Nat := bitsOf h.tcause 0 8

/-- The privilege at which it arose. -/
def Hart.trapPrior (h : Hart) : Priv := if bitOf h.tcause 19 then .s else .p

/-- R98: Kennel resumes a hart whose trap it can settle: a service request from S (R264), or a POOL_EMPTY (R265); and the
hart's sequencers that POOL_EMPTY suspended (R88). (log entry 27: DEDUCED.) -/
def execKennelResumeHart (h : HartId) (s : State) : Host.Outcome State Fault Refusal :=
  let x := s.hart h
  let seqs := (x.prog .tile).suspended || (x.prog .stream).suspended
  event (((s.ctxAt (s.groupAt h.group).ctx).state == .active) && (x.trapHeld || seqs))
    (fun s =>
      if x.trapHeld then
        if x.trapCode = 9 ∧ x.trapPrior = .s then s.serve h
        else if x.trapCode = 29 then s.settlePool h
        else s
      else
        let s := s.settleSeq h .tile
        if (lookup? s.harts h.key).isSome then s.settleSeq h .stream else s) s

/-- R98: Kennel reflects a trap that its cause alone sent to F to the context's handler, as if it had been routed to S from
P. -/
def execKennelReflectTrap (h : HartId) (s : State) : Host.Outcome State Fault Refusal :=
  let x := s.hart h
  let g := s.groupAt h.group
  event (x.trapHeld && x.trapCode == 29 && x.trapPrior == .p && g.handler.isSome)
    (fun s =>
      let y := x.enterS (g.handler.getD 0)
      s.setHart h { y with trapHeld := false, state := if x.state = .suspended then HartState.run else x.state }) s

/-! ## Suspension (R258) -/

/-- A context's suspension begins: dispatch stops, and each of its groups in RUN is to be pre-empted. -/
def State.suspendContext (s : State) (c : Nat) : State :=
  let s := s.setCtxAt c { s.ctxAt c with suspending := true }
  let s := { s with
    groups := s.groups.map (fun (p : Nat × Group) =>
      if p.2.ctx = c ∧ p.2.state = GroupState.run then (p.1, { p.2 with request := true }) else p) }
  s.checkSuspend c

/-- A suspended context resumed: dispatch restarts. -/
def State.resumeContext (s : State) (c : Nat) : State :=
  (s.setCtxAt c { s.ctxAt c with state := .active }).settleQueues c

/-- R258: Kennel suspends or resumes a context by its own policy. -/
def execKennelSuspendContext (ctx : Nat) (suspend : Bool) (s : State) : Host.Outcome State Fault Refusal :=
  let x := s.ctxAt ctx
  event (if suspend then x.state == .active && !x.suspending else x.state == .suspended)
    (fun s => if suspend then s.suspendContext ctx else s.resumeContext ctx) s

/-! ## Reset and clearing (R266) -/

/-- A function whose RWRITE waits for an append to a run of a context that is reset: the append is dropped, and the command ends with
result 3. (log entry 36: DEDUCED.) -/
def VFunc.dropWait (c : Nat) (v : VFunc) : VFunc :=
  match v.waits with
  | some (.append k _ _) => if k = c then { v with waits := none, result := 3, cresult := 0 } else v
  | _ => v

/-- R266, steps 1–4: the fault run tells of the reset (R265), the bind records leave, every hart, sequencer and operation of
the context stops and is settled, its queues are FREE and its sessions closed. (log entry 30: DEDUCED.) -/
def State.resetContext (s : State) (c : Nat) (record : State → State) : State :=
  let s := record s
  let s := { s with
    dies := s.dies.map (fun (d : Die) => { d with slots := d.slots.filter (fun (p : Nat × BindRecord) => p.2.ctx ≠ c) }) }
  let s := (s.ops.filter (fun (o : Op) => o.ctx = c)).foldl State.abandon s
  let gs := s.groups.filter (fun (p : Nat × Group) => p.2.ctx = c)
  let s := gs.foldl (fun s p => p.2.cores.foldl (State.releaseCore p.1) s) s
  let s := { s with
    harts := s.harts.filter (fun (p : Nat × Hart) => !(gs.any (fun q => q.1 == p.1 / 512)))
    groups := s.groups.filter (fun (p : Nat × Group) => p.2.ctx ≠ c)
    ops := s.ops.filter (fun (o : Op) => o.ctx ≠ c)
    uaOut := s.uaOut.filter (fun (r : UaReq) => r.ctx ≠ c)
    vfs := s.vfs.map (fun (p : Nat × VFunc) => (p.1, p.2.dropWait c)) }
  s.setCtxAt c
    { s.ctxAt c with state := .resetting, suspending := false, queues := [], sessions := [], tickets := [], served := [] }

/-- The record of a reset that no trap caused. -/
def plainReset (c : Nat) (s : State) : State := s.faultRecord c 0 0 0 0 0 0 2

/-- A core zeroed: local store, operand store, tiles, sets, semaphores and handle sequencers (R266 step 5, R261). -/
def State.zeroCore (s : State) (core : Nat) : State :=
  { s with
    mem := Memory.clear (Memory.clear s.mem (lsKey core 0) Config.lsBytes) (osKey core 0) Config.osBytes
    cores := eraseKey s.cores core }

/-- The physical cores of a context. -/
def State.allCores (s : State) (c : Nat) : List Nat := (List.range 8).flatMap (s.partCores c)

/-- R266, steps 5 and 6: the cores and pages are zeroed and returned, and the context is FREE.
(log entry 30: DEDUCED.) -/
def execClearingComplete (ctx : Nat) (s : State) : Host.Outcome State Fault Refusal :=
  event ((s.ctxAt ctx).state == .resetting)
    (fun s =>
      let x := s.ctxAt ctx
      let s := (s.allCores ctx).foldl State.zeroCore s
      let s := (x.pools ++ x.runs.map (fun p => (p.2.home, p.2.units))).foldl (fun s p => s.returnUnits p.1 p.2) s
      { s with
        mem := Memory.clear s.mem (runKey ctx 0 0) (2 ^ 60)
        vfs := s.vfs.map (fun (p : Nat × VFunc) => (p.1, { p.2 with loads := p.2.loads.filter (fun l => l.1 ≠ ctx) }))
        ctxs := eraseKey s.ctxs ctx }) s

/-- R265: an uncorrectable soft error in core state kills the group that held it, or resets the context when the error lies
in state that the context shares. (log entry 29: DEDUCED.) -/
def execMachineCheck (h : HartId) (unit : Word) (shared : Bool) (s : State) : Host.Outcome State Fault Refusal :=
  let g := s.groupAt h.group
  let st := (s.ctxAt g.ctx).state
  event ((lookup? s.harts h.key).isSome && (st == .active || (shared && st == .suspended)))
    (fun s =>
      let s := s.setHart h ((s.hart h).trapCsrs (.at .machineCheck unit))
      if shared then s.resetContext g.ctx (fun s => s.hartRecord h 2) else s.killGroup h.group (some h) 2) s

/-! ## Repartition (R261) -/

/-- Whether another context holds a virtual core of an interface. -/
def State.coreTaken (s : State) (vf self die core : Nat) : Bool :=
  s.ctxs.any (fun (p : Nat × Ctx) => p.1 != self && p.2.vf == vf && (p.2.part.getD die []).contains core)

/-- Whether lists of virtual cores can be a context's partition. -/
def State.partOk (s : State) (vf self : Nat) (part : List (List Nat)) : Bool :=
  part.length == 8 &&
    (List.range 8).all (fun d =>
      let l := part.getD d []
      decide (l = l.eraseDups) && l.all (fun k => decide (k < ((s.vfAt vf).cmap.getD d []).length) && !s.coreTaken vf self d k))

/-- A queue as Kennel creates it, with its CONFIG (R269, R278). (log entry 17: DESIGN CHOICE.) -/
def newQueue (c q : Nat) : Queue :=
  let v := Config.queueConfig c q
  { Queue.reset with prio := v.setWidth 3, preempt := v.getLsbD 3 }

/-- Queues numbered from one number below another. -/
def newQueues (c first count : Nat) : List (Nat × Queue) :=
  (List.range (count - first)).map (fun k => (first + k, newQueue c (first + k)))

/-- Counters that a die's contexts hold, but for one of them: iteration and routing (R16, R370). -/
def State.countersOn (s : State) (self die : Nat) : Nat × Nat :=
  let xs := (s.ctxs.filter (fun (p : Nat × Ctx) => p.1 != self && !(p.2.part.getD die []).isEmpty)).map Prod.snd
  ((xs.map Ctx.iters).sum, (xs.map Ctx.routes).sum)

/-- Whether every die of a partition has counters left. -/
def State.countersFree (s : State) (self : Nat) (part : List (List Nat)) (iters routes : Nat) : Bool :=
  (List.range 8).all (fun d =>
    (part.getD d []).isEmpty ||
      (decide ((s.countersOn self d).1 + iters ≤ Config.countersPerDie) &&
        decide ((s.countersOn self d).2 + routes ≤ Config.countersPerDie)))

/-- Queues of the device that contexts hold, but for one of them. -/
def State.queuesHeld (s : State) (self : Nat) : Nat :=
  ((s.ctxs.filter (fun (p : Nat × Ctx) => p.1 != self)).map (fun (p : Nat × Ctx) => p.2.queues.length)).sum

/-- R261: Kennel changes an IDLE context's cores, counters or queues. What the context gives up is zeroed; a queue that it
gives up holds no launch; the routing configuration of a die whose counters are reassigned is empty (R193). (log entry 31: DEDUCED.) -/
def execRepartition (ctx : Nat) (part : List (List Nat)) (iters routes queues : Nat) (s : State) :
    Host.Outcome State Fault Refusal :=
  let x := s.ctxAt ctx
  let kept := x.queues.filter (fun (p : Nat × Queue) => decide (p.1 < queues))
  let lost := x.queues.filter (fun (p : Nat × Queue) => !decide (p.1 < queues))
  event (x.state == .idle && s.partOk x.vf ctx part && decide (iters ≤ 256) && decide (routes ≤ 256) &&
      s.countersFree ctx part iters routes && decide (1 ≤ queues) && decide (s.queuesHeld ctx + queues ≤ Config.queues) &&
      lost.all (fun (p : Nat × Queue) => p.2.held == 0))
    (fun s =>
      let before := s.allCores ctx
      let s := s.setCtxAt ctx
        { x with
          part := part
          iters := iters
          routes := routes
          routing := if routes = x.routes then
              x.routing.filter (fun p => !(x.part.getD p.1 []).isEmpty && !(part.getD p.1 []).isEmpty)
            else []
          queues := kept ++ newQueues ctx x.queues.length queues
          iter := x.iter.filter (fun p => decide (p.1 % 256 < iters) && !(part.getD (p.1 / 256) []).isEmpty)
          route := x.route.filter (fun p => decide (p.1 % 256 < routes) && !(part.getD (p.1 / 256) []).isEmpty) }
      let after := s.allCores ctx
      let s := { s with
        dies := s.dies.map (fun (d : Die) => { d with slots := d.slots.filter (fun (p : Nat × BindRecord) => p.2.ctx ≠ ctx) }) }
      (before.filter (fun c => !after.contains c)).foldl State.zeroCore s) s

/-! ## Soft errors, scrubbing and channels (R330, R334) -/

/-- Whether a line is one of a run in device memory. -/
def State.deviceLine (s : State) (l : RunLine) : Bool :=
  let r := s.runAt l.ctx l.run
  r.state != .free && !r.host && decide (64 * l.line < r.capacity)

/-- R334: a soft error damages symbols of a stored line. -/
def execSoftError (l : RunLine) (symbols : List Nat) (s : State) : Host.Outcome State Fault Refusal :=
  event (s.deviceLine l && symbols.all (fun k => decide (k < 72)))
    (fun s =>
      let r := s.runAt l.ctx l.run
      let all := (lookupD [] r.damage l.line ++ symbols).eraseDups
      s.setRunAt l.ctx l.run { r with damage := insertKey r.damage l.line all }) s

/-- A line read by its base die: poisoned when it cannot be corrected, else written back corrected.
(log entry 35: DEDUCED.) -/
def State.scrubLine (s : State) (c e line : Nat) : State :=
  if s.uncorrectable c e line then s.poisonLine c e line
  else
    let r := s.runAt c e
    s.setRunAt c e { r with damage := eraseKey r.damage line }

/-- R334: a base die scrubs a line. -/
def execScrub (l : RunLine) (s : State) : Host.Outcome State Fault Refusal :=
  event (s.deviceLine l) (fun s => s.scrubLine l.ctx l.run l.line) s

/-- R334: Kennel marks a TSV group of a stack as failed. -/
def execTsvGroupMarkedFailed (die stack tsv : Nat) (s : State) : Host.Outcome State Fault Refusal :=
  let d := vecGet Die.reset s.dies die
  event (decide (die < 8) && decide (stack < 3) && decide (tsv < 18) && !d.tsv.contains (stack, tsv))
    (fun s => { s with dies := vecSet s.dies die { d with tsv := d.tsv ++ [(stack, tsv)] } }) s

/-- The lines, of the runs whose home is a die, that lie on one of its channels and that its copy may find past correction: damaged ones,
and every one where three TSV groups of the channel's stack have failed.
(log entry 16: DESIGN CHOICE; log entry 35: DEDUCED.) -/
def State.damagedOn (s : State) (die channel : Nat) : List RunLine :=
  let d := vecGet Die.reset s.dies die
  let whole := decide (3 ≤ (d.tsv.filter (fun p => p.1 = channel / 32)).length)
  s.ctxs.flatMap (fun (p : Nat × Ctx) => p.2.runs.flatMap (fun (q : Nat × Run) =>
    if q.2.home = die ∧ q.2.host = false then
      (if whole then List.range (q.2.capacity / 64) else q.2.damage.map Prod.fst).filterMap (fun l =>
        if d.channelOf p.1 q.1 q.2.gen.toNat (l / 32) = channel then some ⟨p.1, q.1, l⟩ else none)
    else []))

/-- R330: Kennel retires a channel: the map generation advances, its blocks move, and lines that cannot be corrected in the
copy are poisoned at their new place. (log entry 35: DEDUCED.) -/
def execChannelRetire (die channel : Nat) (s : State) : Host.Outcome State Fault Refusal :=
  let d := vecGet Die.reset s.dies die
  event (decide (die < 8) && decide (channel < Config.channels) && decide (d.retired.length < 2) && !d.retired.contains channel)
    (fun s =>
      let s := (s.damagedOn die channel).foldl (fun s l => s.scrubLine l.ctx l.run l.line) s
      { s with dies := vecSet s.dies die { d with mapGen := d.mapGen + 1, retired := d.retired ++ [channel] } }) s

end Sys2Proof.Machine
end

