-- ==== Sys2Proof/Machine/Window.lean ====
section
/-!
DEFINITION. The host's side: the command window and its fourteen commands, the queue windows, and measurement reports (R268,
R271, R367–R372, R381).
-/

namespace Sys2Proof.Machine

/-! ## Running a command (R369, R381) -/

/-- What a command leaves: the state, its result and output, and what it waits for. -/
structure Answer where
  state : State
  result : Nat
  value : Word
  waits : Option HostWait

/-- Word `k` of the command in a function's CSTAGE. -/
def VFunc.arg (v : VFunc) (k : Nat) : Word := vecGet 0 v.cstage k

/-- A command refused with a result: nothing of it is done. -/
def State.refusal (s : State) (n : Nat) : Answer := ⟨s, n, 0, none⟩

/-- A command done, with its output. -/
def State.answer (s : State) (v : Word) : Answer := ⟨s, 0, v, none⟩

/-- A write to CSUBMIT with an opcode in CSTAGE: the command is performed and the function is busy; while it is busy the write
is ignored and sets overrun. (log entry 36: DEDUCED.) -/
def command (vf : Nat) (here : Nat → Bool) (f : VFunc → State → Answer) (s : State) : Host.Outcome State Fault Refusal :=
  let v := s.vfAt vf
  event (v.enabled && here (bitsOf (v.arg 0) 0 8))
    (fun s =>
      if v.busy then s.setVfAt vf { v with overrun := true }
      else
        let a := f v s
        let v := a.state.vfAt vf
        a.state.setVfAt vf
          { v with
            seq := v.next
            next := v.next + 1
            busy := true
            overrun := false
            result := BitVec.ofNat 8 a.result
            cresult := a.value
            waits := a.waits }) s

/-- The context that a command's ctxid names: the function's own (R259, R370). -/
def State.ctxNamed (s : State) (vf : Nat) (w : Word) : Option Nat :=
  (s.ctxs.find? (fun (p : Nat × Ctx) => p.2.vf == vf && p.2.state != .free && p.2.ctxid.setWidth 64 == w)).map Prod.fst

/-- A command on a context that its word 1 names: result 1 for none, result 3 while it is RESETTING.
(log entry 36: DEDUCED.) -/
def onContext (vf : Nat) (f : VFunc → Nat → State → Answer) (v : VFunc) (s : State) : Answer :=
  match s.ctxNamed vf (v.arg 1) with
  | none => s.refusal 1
  | some c => if (s.ctxAt c).state = .resetting then s.refusal 3 else f v c s

/-- A command on a run of a context: its word 2 is checked under R152. -/
def onRun (vf : Nat) (f : VFunc → Nat → Nat → State → Answer) : VFunc → State → Answer :=
  onContext vf (fun v c s =>
    if runHandleOk s (s.ctxAt c) (v.arg 2) then f v c (handleEntry (v.arg 2)) s else s.refusal 1)

/-! ## Contexts (R370) -/

/-- Free virtual cores of an interface on a die, in the order in which Kennel prefers them.
(log entry 18: DESIGN CHOICE.) -/
def State.freeCores (s : State) (vf die : Nat) : List Nat :=
  let all := (List.range ((s.vfAt vf).cmap.getD die []).length).filter (fun k => !s.coreTaken vf Config.contexts die k)
  let key := fun (k : Nat) => Config.corePreference s.draws (die * Config.coresPerDie + k)
  stableSort (fun a b => decide (key a ≤ key b)) all

/-- Cores that an interface's contexts hold on a die. -/
def State.coresHeld (s : State) (vf die : Nat) : Nat :=
  ((s.ctxs.filter (fun (p : Nat × Ctx) => p.2.vf == vf)).map (fun (p : Nat × Ctx) => (p.2.part.getD die []).length)).sum

/-- Counters of each kind that an interface's contexts hold on a die. -/
def State.vfCounters (s : State) (vf die : Nat) : Nat × Nat :=
  let xs := (s.ctxs.filter (fun (p : Nat × Ctx) => p.2.vf == vf && !(p.2.part.getD die []).isEmpty)).map Prod.snd
  ((xs.map Ctx.iters).sum, (xs.map Ctx.routes).sum)

/-- What CTXNEW asks for. -/
structure NewCtx where
  cores : List Nat
  table : Nat
  queues : Nat
  units : Nat
  iters : Nat
  routes : Nat

/-- CTXNEW's operands. -/
def VFunc.newCtx (v : VFunc) : NewCtx where
  cores := (List.range 8).map (fun d => bitsOf (v.arg 1) (8 * d) 8)
  table := (v.arg 2).toNat
  queues := (v.arg 3).toNat
  units := ((v.arg 4).toNat + 2 ^ 21 - 1) / 2 ^ 21
  iters := bitsOf (v.arg 5) 0 9
  routes := bitsOf (v.arg 5) 16 9

/-- Operands that CTXNEW admits. -/
def NewCtx.ok (n : NewCtx) (counters : Word) : Bool :=
  n.cores.all (fun k => decide (k ≤ 64)) && decide (2 ≤ n.table ∧ n.table ≤ Config.maxRuns) &&
    decide (1 ≤ n.queues ∧ n.queues ≤ Config.queues) && decide (n.iters ≤ 256 ∧ n.routes ≤ 256) &&
    counters &&& 0xFFFF_FFFF_FE00_FE00 == 0

/-- Whether the function's limits allow it (R367). -/
def NewCtx.allowed (n : NewCtx) (s : State) (vf : Nat) : Bool :=
  let l := (s.vfAt vf).limits
  let mine := (s.ctxs.filter (fun (p : Nat × Ctx) => p.2.vf == vf)).map Prod.snd
  (List.range 8).all (fun d => n.cores.getD d 0 == 0 ||
      (decide (s.coresHeld vf d + n.cores.getD d 0 ≤ l.cores) && decide ((s.vfCounters vf d).1 + n.iters ≤ l.iters) &&
        decide ((s.vfCounters vf d).2 + n.routes ≤ l.routes))) &&
    decide ((s.pagesOf vf + n.units) * 2 ^ 21 ≤ l.pool) && decide ((mine.map (fun x => x.queues.length)).sum + n.queues ≤ l.queues) &&
    decide (mine.length + 1 ≤ l.contexts)

/-- Pages drawn from the dies in turn, as far as each has them (R324, R325). -/
def State.drawPages (s : State) (c : Nat) : List Nat → Nat → State
  | [], _ => s
  | d :: ds, n =>
    let k := Nat.min n (vecGet Die.reset s.dies d).units
    State.drawPages (if k = 0 then s else s.growPool c d k) c ds (n - k)

/-- An equal part of a pool's pages drawn from each of its context's dies, as far as it has them. (log entry 32: DESIGN CHOICE.) -/
def State.drawParts (s : State) (c : Nat) (own : List Nat) (n : Nat) : State :=
  own.foldl (fun s d => s.drawPages c [d] (n / own.length)) s

/-- Pages that the dies have free. -/
def State.freePages (s : State) : Nat := (s.dies.toList.map Die.units).sum

/-- A reserved run of Kennel's (R264): OPEN, with an n64 key, of generation 1. -/
def kennelRun (size home : Nat) : Run :=
  { Run.reset with gen := 1, layout := BitVec.ofNat 64 (size + 2 * 2 ^ 12), state := .opened, home := home }

/-- R370, CTXNEW. (log entry 36: DEDUCED.) -/
def newContext (vf : Nat) (v : VFunc) (s : State) : Answer :=
  let n := v.newCtx
  if !n.ok (v.arg 5) then s.refusal 1
  else if !n.allowed s vf then s.refusal 4
  else
    let free := (List.range 8).map (s.freeCores vf)
    let part := (List.range 8).map (fun d =>
      stableSort (fun a b => decide (a ≤ b)) ((free.getD d []).take (n.cores.getD d 0)))
    let id := leastBelow Config.contexts (fun i => (s.ctxNamed vf (BitVec.ofNat 64 i)).isNone)
    let key := leastBelow Config.contexts (fun i => (lookup? s.ctxs i).isNone)
    match id, key with
    | some id, some key =>
      if !((List.range 8).all (fun d => decide (n.cores.getD d 0 ≤ (free.getD d []).length))) ||
          !s.countersFree key part n.iters n.routes || decide (Config.queues < s.queuesHeld key + n.queues) ||
          decide (s.freePages < n.units) then s.refusal 2
      else
        let home := ((List.range 8).find? (fun d => n.cores.getD d 0 != 0)).getD 0
        let x := { Ctx.reset with
          vf := vf
          ctxid := BitVec.ofNat 9 id
          state := .idle
          part := part
          table := n.table
          runs := [(0, kennelRun 32 home), (1, kennelRun 64 home)]
          queues := newQueues key 0 n.queues
          granted := n.units
          iters := n.iters
          routes := n.routes }
        let own := (List.range 8).filter (fun d => n.cores.getD d 0 != 0)
        let dies := own ++ (List.range 8).filter (fun d => n.cores.getD d 0 == 0)
        let s := ({ s.setCtxAt key x with draws := s.draws + 1 }).drawParts key own n.units
        (s.drawPages key dies (n.units - (s.ctxAt key).pool)).answer (BitVec.ofNat 64 id)
    | _, _ => s.refusal 2

/-- R370, CTXNEW. -/
def execCtxnew (vf : Nat) (s : State) : Host.Outcome State Fault Refusal := command vf (· == 1) (newContext vf) s

/-- R370, CTXDEL: teardown (R266); the command ends once the context is FREE. -/
def execCtxdel (vf : Nat) (s : State) : Host.Outcome State Fault Refusal :=
  command vf (· == 2) (onContext vf (fun _ c s => ⟨s.resetContext c (plainReset c), 0, 0, some (.context c)⟩)) s

/-- R370, CTXSUSP: an ACTIVE context is suspended (R258). -/
def execCtxsusp (vf : Nat) (s : State) : Host.Outcome State Fault Refusal :=
  command vf (· == 3)
    (onContext vf (fun _ c s =>
      if (s.ctxAt c).state = .active ∧ (s.ctxAt c).suspending = false then ⟨s.suspendContext c, 0, 0, some (.context c)⟩
      else s.refusal 3)) s

/-- R370, CTXRES: a SUSPENDED context is resumed (R258). -/
def execCtxres (vf : Nat) (s : State) : Host.Outcome State Fault Refusal :=
  command vf (· == 4)
    (onContext vf (fun _ c s =>
      if (s.ctxAt c).state = .suspended then (s.resumeContext c).answer 0 else s.refusal 3)) s

/-! ## Images and runs (R370, R371) -/

/-- A run created in the lowest FREE entry, with extents for so many bytes of its home die; Kennel draws the pages that the pool
lacks; else the command's result (R324, R369, R370, R381). (log entry 78: DESIGN CHOICE.) -/
def State.newRun (s : State) (c : Nat) (layout : Word) (home bytes : Nat) : Except Nat (State × Nat) :=
  match (s.ctxAt c).freeEntry with
  | none => .error 2
  | some e =>
    let r := growFree (bytes / 2 ^ 21 + 1)
      { Run.reset with gen := ((s.ctxAt c).run e).gen + 1, layout := layout, state := .opened, home := home } bytes
    match s.supply c home r.units with
    | .error n => .error n
    | .ok s => .ok (s.mapRun c e r, e)

/-- A run that an image declares: created with its records published (R7). -/
def State.declare (s : State) (c home : Nat) (d : ImageRun) : Except Nat (State × Nat) :=
  match s.newRun c d.layout home d.data.length with
  | .error n => .error n
  | .ok (s, e) =>
    let r := s.runAt c e
    let s := s.setRunAt c e { r with len := d.data.length / r.size, pub := d.data.length / r.size }
    .ok (s.putLines c e 0 d.data, e)

/-- The runs of an image created in order: their entries. -/
def State.declareAll (c home : Nat) : List ImageRun → State → Except Nat (State × List Nat)
  | [], s => .ok (s, [])
  | d :: ds, s =>
    match s.declare c home d with
    | .error n => .error n
    | .ok (s, e) =>
      match State.declareAll c home ds s with
      | .error n => .error n
      | .ok (s, es) => .ok (s, e :: es)

/-- An image that the loader takes: its kernels lie in its code, its data in its area, its footprint in a local store (R6,
R7, R263, R292). (log entry 37: DEDUCED.) -/
def Image.ok (i : Image) : Bool :=
  i.entries.all (fun e => decide (e % 4 = 0 ∧ e < 4 * i.code.length)) &&
    (i.shandler.map (fun k => decide (k < i.entries.length))).getD true &&
    i.data.all (fun (d : Nat × List Byte) => decide (d.1 + d.2.length ≤ i.area)) &&
    i.labels.all (fun (l : Nat × Nat) => decide (l.1 + 8 ≤ i.area ∧ l.2 < i.runs.length)) &&
    i.runs.all (fun d => layoutOk d.layout && decide (d.data.length = d.count * recBytes d.layout)) &&
    decide (i.footprint ≤ Config.lsBytes)

/-- R370, LOAD: the image at the host address that the command names, its runs created and their handles in place.
(log entry 37: DEDUCED.) -/
def execLoadImage (vf : Nat) (img : Image) (s : State) : Host.Outcome State Fault Refusal :=
  command vf (· == 5)
    (onContext vf (fun _ c s =>
      let x := s.ctxAt c
      let home := ((List.range 8).find? (fun d => !(x.part.getD d []).isEmpty)).getD 0
      if !img.ok then s.refusal 1
      else
        match leastBelow 65536 (fun k => (lookup? x.images k).isNone), State.declareAll c home img.runs s with
        | some n, .ok (t, es) =>
          let handle := fun (k : Nat) => runHandle t (es.getD k 0) (t.runAt c (es.getD k 0))
          let img := { img with data := img.data ++ img.labels.map (fun (l : Nat × Nat) => (l.1, natLe 8 (handle l.2).toNat)) }
          let y := t.ctxAt c
          let t := t.setCtxAt c { y with images := insertKey y.images n img }
          (t.setVfAt vf { t.vfAt vf with loads := (t.vfAt vf).loads ++ [(c, n)] }).answer (BitVec.ofNat 64 n)
        | _, .error k => s.refusal k
        | none, _ => s.refusal 2)) s

/-- Whether a launch of an image is held or running. -/
def State.imageUsed (s : State) (c n : Nat) : Bool :=
  (s.ctxAt c).queues.any (fun (p : Nat × Queue) => p.2.kernels.any (fun k => !k.done && launchImage k.words == n)) ||
    s.groups.any (fun (p : Nat × Group) => p.2.ctx == c && p.2.image == n)

/-- R370, UNLOAD. Bind records that name the image leave. -/
def execUnload (vf : Nat) (s : State) : Host.Outcome State Fault Refusal :=
  command vf (· == 6)
    (onContext vf (fun v c s =>
      let n := (v.arg 2).toNat
      let x := s.ctxAt c
      if (lookup? x.images n).isNone then s.refusal 1
      else if s.imageUsed c n then s.refusal 3
      else
        let s := { s with
          dies := s.dies.map (fun (d : Die) =>
            { d with slots := d.slots.filter (fun (p : Nat × BindRecord) => !(p.2.ctx == c && p.2.image == n)) }) }
        let s := s.setVfAt vf { s.vfAt vf with loads := (s.vfAt vf).loads.filter (· ≠ (c, n)) }
        (s.setCtxAt c { x with images := eraseKey x.images n }).answer 0)) s

/-- R370, RNEW: the home die is the virtual die named, whether or not the context has cores there.
(log entry 55: DEDUCED.) -/
def execRnew (vf : Nat) (s : State) : Host.Outcome State Fault Refusal :=
  command vf (· == 7)
    (onContext vf (fun v c s =>
      if layoutOk (v.arg 2) && decide ((v.arg 3).toNat < 8) then
        match s.newRun c (v.arg 2) (v.arg 3).toNat (v.arg 4).toNat with
        | .error n => s.refusal n
        | .ok (s, e) => s.answer (runHandle s e (s.runAt c e))
      else s.refusal 1)) s

/-- R370, R371, HRUN: a host run whose first extent begins with a header of zeros. -/
def execHrun (vf : Nat) (s : State) : Host.Outcome State Fault Refusal :=
  command vf (· == 8)
    (onContext vf (fun v c s =>
      let a := (v.arg 3).toNat
      let n := (v.arg 4).toNat
      if layoutOk (v.arg 2) && decide (a % 4096 = 0) && decide (64 ≤ n) then
        match s.newRun c (v.arg 2) 0 0 with
        | .error n => s.refusal n
        | .ok (s, e) =>
          let s := s.setRunAt c e { s.runAt c e with host := true, hostExt := [(a + 64, n - 64)] }
          let s := { s with mem := Memory.clear s.mem (hostKey a) 64 }
          s.answer (runHandle s e (s.runAt c e))
      else s.refusal 1)) s

/-- R370, HPUB: records that the host has written count as appended up to P, and are published.
(log entry 36: DEDUCED.) -/
def execHpub (vf : Nat) (s : State) : Host.Outcome State Fault Refusal :=
  command vf (· == 9)
    (onRun vf (fun v c e s =>
      let r := s.runAt c e
      let p := (v.arg 3).toNat
      if !r.host || decide (r.capacity < p * r.size) then s.refusal 1
      else if r.state ≠ .opened then s.refusal 3
      else
        let s := s.setRunAt c e { r with len := Nat.max r.len p }
        (s.setPub c e (Nat.max r.pub (Nat.min p (s.completeTo c e)))).answer 0)) s

/-- R370, RREAD: records below P, up to the first that lies in a poisoned line. -/
def execRread (vf : Nat) (s : State) : Host.Outcome State Fault Refusal :=
  command vf (· == 10)
    (onRun vf (fun v c e s =>
      let r := s.runAt c e
      let first := (v.arg 3).toNat
      let n := Nat.min (v.arg 4).toNat (r.pub - first)
      let put := fun (s : State) (k : Nat) =>
        { s with mem := Memory.writeBytes s.mem (hostKey (v.arg 5).toNat) (s.runBytes c e (first * r.size) (k * r.size)) }
      match s.badIn c e (first * r.size) ((first + n) * r.size) with
      | none => (put s n).answer (BitVec.ofNat 64 n)
      | some l =>
        let k := (64 * l - first * r.size) / r.size
        ⟨put (s.poisonLine c e l) k, 5, BitVec.ofNat 64 k, none⟩)) s

/-- An append of the host's own that has found no room in a host run: it has taken its positions, and waits for an extent (R155,
R371). No hart issued it. (log entry 36: DEDUCED.) -/
def State.hostAppend (s : State) (c e : Nat) (run : Word) (bytes : List Byte) : State :=
  let o : Op :=
    { id := s.nextOp, parent := none, issuer := .hart ⟨Config.noGroup, 0, 0⟩, prog := 0, ctx := c, core := Config.noGroup,
      pc := 0, cls := .uncounted,
      entered := 0, preds := [], phase := .queued, taken := [], counts := (0, 0, 0), maps := [], buf := [],
      kind := .append run bytes }
  let (s, o) := (s.pushOp o).takePositions o e bytes
  s.driveAppend o id

/-- R370, RWRITE: one append of the host's records, complete and published; it waits while a host run has no room (R371).
(log entry 36: DEDUCED.) -/
def execRwrite (vf : Nat) (s : State) : Host.Outcome State Fault Refusal :=
  command vf (· == 11)
    (onRun vf (fun v c e s =>
      let r := s.runAt c e
      let n := (v.arg 4).toNat
      if e < 2 then s.refusal 4
      else if r.state ≠ .opened then s.refusal 3
      else
        let need := (r.len + n) * r.size
        let more := if r.host then 0 else (r.grown need).units - r.units
        match s.supply c r.home more with
        | .error k => s.refusal k
        | .ok t =>
          let bytes := Memory.readBytes t.mem (hostKey (v.arg 3).toNat) (n * r.size)
          match t.landRun c (v.arg 2) bytes true false with
          | (u, .done) => u.answer (BitVec.ofNat 64 n)
          | (u, .refused _ k) => ⟨u, 5, k, none⟩
          | (_, .full) => ⟨t.hostAppend c e (v.arg 2) bytes, 0, BitVec.ofNat 64 n, some (.append c (v.arg 2) t.nextOp)⟩)) s

/-- R370, SETCTR: both words of an iteration counter (R289). -/
def execSetctr (vf : Nat) (s : State) : Host.Outcome State Fault Refusal :=
  command vf (· == 12)
    (onContext vf (fun v c s =>
      let x := s.ctxAt c
      let die := (v.arg 2).toNat
      let k := (v.arg 3).toNat
      if die < 8 ∧ (x.part.getD die []).isEmpty = false ∧ k < x.iters then
        (s.setCtxAt c (x.setIter (die * 256 + k) (v.arg 4, v.arg 5))).answer 0
      else s.refusal 1)) s

/-- R370, SESSION: the context permits a session with one context on another chip (R351). -/
def execSession (vf : Nat) (s : State) : Host.Outcome State Fault Refusal :=
  command vf (· == 13)
    (onContext vf (fun v c s =>
      let x := s.ctxAt c
      let chip := BitVec.ofNat 10 (v.arg 2).toNat
      if 1024 ≤ (v.arg 2).toNat ∨ chip = s.chipId ∨ 512 ≤ (v.arg 3).toNat then s.refusal 1
      else if x.sessions.any (fun t => t.chip == chip) then s.refusal 3
      else if !v.limits.peers.contains chip then s.refusal 4
      else
        (s.setCtxAt c { x with sessions := x.sessions ++ [{ Session.reset with chip := chip, peer := (v.arg 3).toNat }] }).answer
          0)) s

/-- An append that waits for an extent of a host run goes on. -/
def State.wakeAppend (c e : Nat) (s : State) (id : Nat) : State :=
  match s.opAt id with
  | none => s
  | some o =>
    match o.phase, o.taken with
    | .extent, t :: _ => if o.ctx = c ∧ t.run.toNat = e then s.goOn o else s
    | _, _ => s

/-- R370, R371, HEXT: a further extent, which stalled appends go on into. The run's capacity is that of its extents, the
header with them. (log entry 36: DEDUCED.) -/
def execHext (vf : Nat) (s : State) : Host.Outcome State Fault Refusal :=
  command vf (· == 14)
    (onRun vf (fun v c e s =>
      let r := s.runAt c e
      let a := (v.arg 3).toNat
      if r.host && decide (a % 4096 = 0) then
        let r := { r with hostExt := r.hostExt ++ [(a, (v.arg 4).toNat)] }
        let s := s.setRunAt c e r
        ((s.ops.map Op.id).foldl (State.wakeAppend c e) s).answer (BitVec.ofNat 64 (r.capacity + 64))
      else s.refusal 1)) s

/-- Whether what a function's running command waits for has come about. -/
def State.hostWaitOver (s : State) (vf : Nat) : Option HostWait → Bool
  | none => true
  | some (.context c) => (s.ctxAt c).vf != vf || ((s.ctxAt c).state != .resetting && !(s.ctxAt c).suspending)
  | some (.append _ _ id) => !s.alive id

/-- What a command does when what it has waited for has come about: an RWRITE publishes its records (R370). -/
def State.hostWaited (s : State) : Option HostWait → State
  | some (.append c run _) => if runHandleOk s (s.ctxAt c) run then s.publish c (handleEntry run) else s
  | _ => s

/-- R369, R381: busy clears once the command's effects are performed. -/
def execCommandDone (vf : Nat) (s : State) : Host.Outcome State Fault Refusal :=
  let v := s.vfAt vf
  event (v.busy && s.hostWaitOver vf v.waits)
    (fun s => (s.hostWaited v.waits).setVfAt vf { v with busy := false, waits := none }) s

/-! ## Registers (R271, R369) -/

/-- A queue changed by a write to its window. -/
def State.onQueue (s : State) (vf off : Nat) (f : Queue → Queue) : State :=
  match s.ctxNamed vf (BitVec.ofNat 64 (off / 0x100_0000)) with
  | none => s
  | some c =>
    match (s.ctxAt c).queue? (off / 0x1000 % 0x1000) with
    | none => s
    | some q => s.setCtxAt c ((s.ctxAt c).setQueue (off / 0x1000 % 0x1000) (f q))

/-- R271, R369: a host write of 8 bytes. CSTAGE and STAGE hold what is written; CSUBMIT with no command's opcode ends with
result 1; the other registers that a write acts on have rows of their own; every other write is ignored. -/
def execRegisterWrite (vf bar off : Nat) (value : Word) (s : State) : Host.Outcome State Fault Refusal :=
  let v := s.vfAt vf
  if bar = 0 ∧ off = 0x40 then command vf (fun n => n == 0 || decide (14 < n)) (fun _ s => s.refusal 1) s
  else
    event (v.enabled && decide (off % 8 = 0))
      (fun s =>
        if bar = 0 then
          if off < 0x40 then s.setVfAt vf { v with cstage := vecSet v.cstage (off / 8) value } else s
        else if bar = 2 ∧ off % 0x1000 < 0x40 then
          s.onQueue vf off (fun q => { q with stage := vecSet q.stage (off % 0x1000 / 8) value })
        else s) s

/-- State codes of STATE (R270). -/
def QueueState.code : QueueState → Nat
  | .free => 0
  | .opened => 1
  | .blocked => 2
  | .draining => 3
  | .error => 4

/-- A register of a queue's window as the host reads it (R271). (log entry 42: DEDUCED.) -/
def Queue.register (q : Queue) (reg : Nat) : Word :=
  match reg with
  | 0x48 => q.seq.setWidth 64
  | 0x50 => q.done.setWidth 64
  | 0x58 => BitVec.ofNat 64 (q.state.code + q.reason.toNat * 2 ^ 8 + q.held * 2 ^ 16 + q.errSeq.toNat * 2 ^ 32)
  | 0x68 => BitVec.ofNat 64 (q.prio.toNat + (if q.preempt then 8 else 0))
  | 0x70 => q.last
  | _ => 0

/-- CSTATUS (R369). (log entry 36: DEDUCED.) -/
def VFunc.status (v : VFunc) : Word :=
  BitVec.ofNat 64 ((if v.busy then 2 ^ 63 else 0) + (if v.overrun then 2 ^ 62 else 0) + v.result.toNat * 2 ^ 32 + v.seq.toNat)

/-- What a host read of 8 bytes of a function's BAR returns (R271, R369). It changes nothing. -/
def State.register (s : State) (vf bar off : Nat) : Word :=
  if off % 8 ≠ 0 then 0
  else if bar = 0 then
    if off = 0x48 then (s.vfAt vf).status else if off = 0x50 then (s.vfAt vf).cresult else 0
  else
    match s.ctxNamed vf (BitVec.ofNat 64 (off / 0x100_0000)) with
    | none => 0
    | some c =>
      match (s.ctxAt c).queue? (off / 0x1000 % 0x1000) with
      | none => 0
      | some q => if q.state = .free then 0 else q.register (off % 0x1000)

/-! ## Attestation (R268, R372) -/

/-- A context's creation record: its number, its virtual cores on each die, run table, queues, pool and counters.
(log entry 20: DESIGN CHOICE.) -/
def Ctx.creation (x : Ctx) : List Nat :=
  [x.ctxid.toNat] ++ x.part.flatMap (fun l => l.length :: l) ++ [x.table, x.queues.length, x.granted, x.iters, x.routes]

/-- What a function's configuration comes to in a report: its cores, the virtual ones that its contexts hold with their counters, its
page-pool limit, its queues, and its session peers; a repartition changes it (R261, R268). (log entry 20: DESIGN CHOICE.) -/
def VFunc.configuration (v : VFunc) (xs : List Ctx) : List Nat :=
  [v.limits.cores] ++ v.cmap.map List.length ++
    xs.flatMap (fun x => [x.ctxid.toNat, x.iters, x.routes] ++ x.part.flatMap (fun l => l.length :: l)) ++
    [v.limits.pool, v.limits.queues, (xs.map (fun x => x.queues.length)).sum] ++ v.limits.peers.map BitVec.toNat

/-- What an image holds, as numbers. -/
def Image.content (i : Image) : List Nat :=
  i.code.map BitVec.toNat ++ i.data.flatMap (fun (d : Nat × List Byte) => d.1 :: d.2.map BitVec.toNat) ++
    i.runs.flatMap (fun d => [d.layout.toNat, d.count] ++ d.data.map BitVec.toNat)

/-- The contexts of a function in ctxid order. -/
def State.ctxsOf (s : State) (vf : Nat) : List Ctx :=
  stableSort (fun (a b : Ctx) => decide (a.ctxid.toNat ≤ b.ctxid.toNat))
    ((s.ctxs.map Prod.snd).filter (fun (x : Ctx) => x.vf == vf && x.state != .free))

/-- The five blocks of a report (R268): firmware, configuration, contexts and images of one interface.
(log entry 20: DESIGN CHOICE.) -/
def State.blocks (s : State) (vf : Nat) : List (BitVec 256) :=
  let v := s.vfAt vf
  let xs := s.ctxsOf vf
  [s.boot.kennel.body, s.boot.base.body, Config.digest (v.configuration xs), Config.digest (xs.flatMap Ctx.creation),
   Config.digest (v.loads.flatMap (fun p => ((lookup? (s.ctxAt p.1).images p.2).getD Image.reset).content))]

/-- R268: GET_MEASUREMENTS is answered on the function's mailbox with a signed report of its own interface. -/
def execGetMeasurements (vf : Nat) (s : State) : Host.Outcome State Fault Refusal :=
  event (s.vfAt vf).enabled
    (fun s =>
      let b := s.blocks vf
      let v := s.vfAt vf
      s.setVfAt vf { v with mailbox := v.mailbox ++ [⟨b, Config.signature (b.map BitVec.toNat), []⟩] }) s

/-- R372: GET_CERTIFICATE is answered with the certificate chain of the device identity. -/
def execGetCertificate (vf : Nat) (s : State) : Host.Outcome State Fault Refusal :=
  event (s.vfAt vf).enabled
    (fun s =>
      let v := s.vfAt vf
      s.setVfAt vf { v with mailbox := v.mailbox ++ [⟨[], 0, Config.certificate 0⟩] }) s

end Sys2Proof.Machine
end

