-- ==== Sys2Proof/Machine/Power.lean ====
section
/-!
DEFINITION. The physical function, resets and bring-up, and the governor (R262, R367, R373–R376).
-/

namespace Sys2Proof.Machine

/-! ## The physical function (R367) -/

/-- A virtual function enabled. -/
def State.enableVf (s : State) (vf : Nat) : State := s.setVfAt vf { s.vfAt vf with enabled := true }

/-- R367: the physical function enables its first `n` virtual functions. -/
def execPfEnableVfs (n : Nat) (s : State) : Host.Outcome State Fault Refusal :=
  event (s.pf.ready && decide (s.pf.vfs ≤ n) && decide (n ≤ Config.interfaces))
    (fun s => { (List.range n).foldl State.enableVf s with pf := { s.pf with vfs := n } }) s

/-- Physical cores of a die that no interface holds (R262). -/
def State.unheldCores (s : State) (die : Nat) : List Nat :=
  ((List.range Config.coresPerDie).map (fun k => die * Config.coresPerDie + k)).filter
    (fun c => !(s.vfs.any (fun (p : Nat × VFunc) => (p.2.cmap.getD die []).contains c)))

/-- An interface's cores on a die brought up to a number: those that it has keep their places (R262).
(log entry 38: DEDUCED.) -/
def State.moreCores (s : State) (vf die n : Nat) : List Nat :=
  let have_ := (s.vfAt vf).cmap.getD die []
  have_ ++ (s.unheldCores die).take (n - have_.length)

/-- R367: the physical function sets a virtual function's limits; Kennel gives the interface its cores.
(log entry 38: DEDUCED.) -/
def execPfSetLimits (vf : Nat) (l : Limits) (s : State) : Host.Outcome State Fault Refusal :=
  event (s.pf.ready && decide (vf < Config.interfaces))
    (fun s =>
      let cores := (List.range Config.dies).map (fun d => s.moreCores vf d l.cores)
      s.setVfAt vf { s.vfAt vf with limits := l, cmap := cores }) s

/-- R367, R374: the physical function sets the module power cap, 3.5 to 5.0 kW. -/
def execPfSetPowerCap (mw : Nat) (s : State) : Host.Outcome State Fault Refusal :=
  event (s.pf.ready && decide (3500000 ≤ mw ∧ mw ≤ 5000000)) (fun s => { s with pf := { s.pf with capMw := mw } }) s

/-! ## Resets (R373) -/

/-- The chip with every context lost: the state of a reset, with the host's own memory and what the model itself keeps.
(log entry 39: DESIGN CHOICE.) -/
def State.cleared (s : State) : State :=
  { State.reset with
    chipId := s.chipId
    boot := s.boot
    draws := s.draws
    mem := s.mem.filter (fun (c : Host.Cell) => decide (hostKey 0 ≤ c.1))
    cur := s.cur
    word := s.word
    agenda := s.agenda }

/-- A station that is not trained. -/
def Station.untrained : Station := ⟨.down, 0, false, 0⟩

/-- Whether a firmware image may run: Tladom's key has signed it, and its security version is not below the fuses' (R372).
(log entry 20: DESIGN CHOICE.) -/
def Boot.verifies (b : Boot) (i : Firmware) : Bool :=
  i.key == b.rom && Config.signedBy i.key i.body i.sign && decide (b.fuses ≤ i.version)

/-- The step of R373 that an image fails: the ROM's check of Kennel in step 1, Kennel's of the base-die firmware in step 2. -/
def Boot.failing (b : Boot) : Option Nat :=
  if !b.verifies b.kennel then some 1 else if !b.verifies b.base then some 2 else none

/-- The step at which the sequence stops: that of the images, or an earlier one that fails for another reason. -/
def Boot.stopsAt (b : Boot) (fails : Option Nat) : Option Nat :=
  match b.failing, fails with
  | some k, some n => some (Nat.min k n)
  | some k, none => some k
  | none, n => n

/-- The sequence of R373, up to the step that fails when one does. (log entry 38: DEDUCED.) -/
def bringUp (fails : Option Nat) (chip : BitVec 10) (s : State) : Host.Outcome State Fault Refusal :=
  match s.boot.stopsAt fails with
  | none => .next { s.cleared with chipId := chip }
  | some n =>
    event (decide (1 ≤ n ∧ n ≤ 5))
      (fun s =>
        { s.cleared with
          chipId := chip
          stations := if n ≤ 4 then Vector.replicate 16 Station.untrained else State.reset.stations
          pf := { PFunc.reset with status := n, ready := false } }) s

/-- R373: a cold reset. (log entry 6: DEDUCED.) -/
def execColdReset (fails : Option Nat) (chip : BitVec 10) (s : State) := bringUp fails chip s

/-- R373: a hot reset of the physical function. (log entry 6: DEDUCED.) -/
def execPfHotReset (fails : Option Nat) (chip : BitVec 10) (s : State) := bringUp fails chip s

/-- R373: a function-level reset of a virtual function resets its contexts (R258, R266). -/
def execVfFlr (vf : Nat) (s : State) : Host.Outcome State Fault Refusal :=
  let cs := (s.ctxs.filter (fun (p : Nat × Ctx) => p.2.vf == vf && p.2.standing)).map Prod.fst
  event (s.vfAt vf).enabled (fun s => cs.foldl (fun s c => s.resetContext c (plainReset c)) s) s

/-! ## Power and temperature (R374, R376) -/

/-- Sixteen times a die's share of the cap, in milliwatts: an eighth of what is left of it, halved while the die is hot.
(log entry 40: DEDUCED.) -/
def State.dieShare (s : State) (d : Die) : Nat := (s.pf.capMw - 3000000) * (if d.hot then 1 else 2)

/-- The largest n of 16 with n sixteenths of a demand within a share, given sixteenfold. (log entry 40: DEDUCED.) -/
def rateFor (share demand : Nat) : Nat := if demand * 16 ≤ share then 16 else share / demand

/-- A die changed. -/
def die (k : Nat) (ok : Die → Bool) (f : Die → Die) (s : State) : Host.Outcome State Fault Refusal :=
  let d := vecGet Die.reset s.dies k
  event (decide (k < 8) && ok d) (fun s => { s with dies := vecSet s.dies k (f d) }) s

/-- R374: the governor meters a die and sets the rate at which its tile engines and lane arrays issue.
(log entry 40: DEDUCED.) -/
def execGovernorTick (d demand : Nat) (s : State) : Host.Outcome State Fault Refusal :=
  die d (fun _ => true) (fun x => { x with rate := rateFor (s.dieShare x) demand }) s

/-- R376: a die at 95 °C has its share halved. -/
def execThermalLimit (d : Nat) (s : State) : Host.Outcome State Fault Refusal :=
  die d (fun x => !x.hot) (fun x => { x with hot := true }) s

/-- R376: it falls below 90 °C. -/
def execThermalBelow (d : Nat) (s : State) : Host.Outcome State Fault Refusal :=
  die d Die.hot (fun x => { x with hot := false }) s

/-- R376: at 110 °C Kennel stops the module: every context is lost and the link to the host goes down.
(log entry 38: DEDUCED.) -/
def execThermalStop (d : Nat) (s : State) : Host.Outcome State Fault Refusal :=
  event (decide (d < 8))
    (fun s =>
      { s.cleared with
        stations := Vector.replicate 16 Station.untrained
        pf := { PFunc.reset with ready := false } }) s

end Sys2Proof.Machine
end

