-- ==== Sys2Proof/Machine/Dispatch.lean ====
section
/-!
DEFINITION. One arm per instruction or event, each a direct call of its meaning.
-/

namespace Sys2Proof.Machine

def exec (instr : Instr) (state : State) : Host.Outcome State Fault Refusal :=
  match instr with
  | .add d a b => Sys2Proof.Machine.execAdd d a b state
  | .sub d a b => Sys2Proof.Machine.execSub d a b state
  | .and d a b => Sys2Proof.Machine.execAnd d a b state
  | .or d a b => Sys2Proof.Machine.execOr d a b state
  | .xor d a b => Sys2Proof.Machine.execXor d a b state
  | .andn d a b => Sys2Proof.Machine.execAndn d a b state
  | .sll d a b => Sys2Proof.Machine.execSll d a b state
  | .srl d a b => Sys2Proof.Machine.execSrl d a b state
  | .sra d a b => Sys2Proof.Machine.execSra d a b state
  | .rol d a b => Sys2Proof.Machine.execRol d a b state
  | .ror d a b => Sys2Proof.Machine.execRor d a b state
  | .slt d a b => Sys2Proof.Machine.execSlt d a b state
  | .sltn d a b => Sys2Proof.Machine.execSltn d a b state
  | .min d a b => Sys2Proof.Machine.execMin d a b state
  | .max d a b => Sys2Proof.Machine.execMax d a b state
  | .minn d a b => Sys2Proof.Machine.execMinn d a b state
  | .maxn d a b => Sys2Proof.Machine.execMaxn d a b state
  | .mul d a b => Sys2Proof.Machine.execMul d a b state
  | .mulh d a b => Sys2Proof.Machine.execMulh d a b state
  | .mulhn d a b => Sys2Proof.Machine.execMulhn d a b state
  | .div d a b => Sys2Proof.Machine.execDiv d a b state
  | .divn d a b => Sys2Proof.Machine.execDivn d a b state
  | .rem d a b => Sys2Proof.Machine.execRem d a b state
  | .remn d a b => Sys2Proof.Machine.execRemn d a b state
  | .clz d a => Sys2Proof.Machine.execClz d a state
  | .ctz d a => Sys2Proof.Machine.execCtz d a state
  | .popc d a => Sys2Proof.Machine.execPopc d a state
  | .brev d a => Sys2Proof.Machine.execBrev d a state
  | .addi d a i => Sys2Proof.Machine.execAddi d a i state
  | .andi d a i => Sys2Proof.Machine.execAndi d a i state
  | .ori d a i => Sys2Proof.Machine.execOri d a i state
  | .xori d a i => Sys2Proof.Machine.execXori d a i state
  | .slli d a n => Sys2Proof.Machine.execSlli d a n state
  | .srli d a n => Sys2Proof.Machine.execSrli d a n state
  | .srai d a n => Sys2Proof.Machine.execSrai d a n state
  | .slti d a i => Sys2Proof.Machine.execSlti d a i state
  | .lui d i => Sys2Proof.Machine.execLui d i state
  | .auipc d i => Sys2Proof.Machine.execAuipc d i state
  | .beq a b o => Sys2Proof.Machine.execBeq a b o state
  | .bne a b o => Sys2Proof.Machine.execBne a b o state
  | .blt a b o => Sys2Proof.Machine.execBlt a b o state
  | .bge a b o => Sys2Proof.Machine.execBge a b o state
  | .bltn a b o => Sys2Proof.Machine.execBltn a b o state
  | .bgen a b o => Sys2Proof.Machine.execBgen a b o state
  | .jal d o => Sys2Proof.Machine.execJal d o state
  | .jalr d a i => Sys2Proof.Machine.execJalr d a i state
  | .jtab d a b n => Sys2Proof.Machine.execJtab d a b n state
  | .waitc s c l t => Sys2Proof.Machine.execWaitc s c l t state
  | .fork a b => Sys2Proof.Machine.execFork a b state
  | .rdv => Sys2Proof.Machine.execRdv state
  | .rdcyc d => Sys2Proof.Machine.execRdcyc d state
  | .loop a c => Sys2Proof.Machine.execLoop a c state
  | .endloop c => Sys2Proof.Machine.execEndloop c state
  | .ld d b i w h => Sys2Proof.Machine.execLd d b i w h state
  | .st d b i w h => Sys2Proof.Machine.execSt d b i w h state
  | .trap a => Sys2Proof.Machine.execTrap a state
  | .eret => Sys2Proof.Machine.execEret state
  | .sysc a => Sys2Proof.Machine.execSysc a state
  | .brk => Sys2Proof.Machine.execBrk state
  | .wfe d a => Sys2Proof.Machine.execWfe d a state
  | .halth => Sys2Proof.Machine.execHalth state
  | .csrr d c => Sys2Proof.Machine.execCsrr d c state
  | .csrw a c => Sys2Proof.Machine.execCsrw a c state
  | .csrset a c => Sys2Proof.Machine.execCsrset a c state
  | .csrclr a c => Sys2Proof.Machine.execCsrclr a c state
  | .vadd d a b n m t => Sys2Proof.Machine.execVadd d a b n m t state
  | .vsub d a b n m t => Sys2Proof.Machine.execVsub d a b n m t state
  | .vmul d a b n m t => Sys2Proof.Machine.execVmul d a b n m t state
  | .vmulh d a b n m t => Sys2Proof.Machine.execVmulh d a b n m t state
  | .vmin d a b n m t => Sys2Proof.Machine.execVmin d a b n m t state
  | .vmax d a b n m t => Sys2Proof.Machine.execVmax d a b n m t state
  | .vminn d a b n m t => Sys2Proof.Machine.execVminn d a b n m t state
  | .vmaxn d a b n m t => Sys2Proof.Machine.execVmaxn d a b n m t state
  | .vand d a b n m t => Sys2Proof.Machine.execVand d a b n m t state
  | .vor d a b n m t => Sys2Proof.Machine.execVor d a b n m t state
  | .vxor d a b n m t => Sys2Proof.Machine.execVxor d a b n m t state
  | .vsll d a b n m t => Sys2Proof.Machine.execVsll d a b n m t state
  | .vsrl d a b n m t => Sys2Proof.Machine.execVsrl d a b n m t state
  | .vsra d a b n m t => Sys2Proof.Machine.execVsra d a b n m t state
  | .vadds d a b n m t => Sys2Proof.Machine.execVadds d a b n m t state
  | .vsubs d a b n m t => Sys2Proof.Machine.execVsubs d a b n m t state
  | .vwaddI8 d a b n m => Sys2Proof.Machine.execVwaddI8 d a b n m state
  | .vwaddI16 d a b n m => Sys2Proof.Machine.execVwaddI16 d a b n m state
  | .vwaddI32 d a b n m => Sys2Proof.Machine.execVwaddI32 d a b n m state
  | .vwaddN8 d a b n m => Sys2Proof.Machine.execVwaddN8 d a b n m state
  | .vwaddN16 d a b n m => Sys2Proof.Machine.execVwaddN16 d a b n m state
  | .vwaddN32 d a b n m => Sys2Proof.Machine.execVwaddN32 d a b n m state
  | .vwmacI8 d a b n m => Sys2Proof.Machine.execVwmacI8 d a b n m state
  | .vwmacI16 d a b n m => Sys2Proof.Machine.execVwmacI16 d a b n m state
  | .vfaddF64 d a b n m => Sys2Proof.Machine.execVfaddF64 d a b n m state
  | .vfsubF64 d a b n m => Sys2Proof.Machine.execVfsubF64 d a b n m state
  | .vfmulF64 d a b n m => Sys2Proof.Machine.execVfmulF64 d a b n m state
  | .vfmaF64 d a b n m => Sys2Proof.Machine.execVfmaF64 d a b n m state
  | .vfminF64 d a b n m => Sys2Proof.Machine.execVfminF64 d a b n m state
  | .vfmaxF64 d a b n m => Sys2Proof.Machine.execVfmaxF64 d a b n m state
  | .vfdivF64 d a b n m => Sys2Proof.Machine.execVfdivF64 d a b n m state
  | .vfsqrtF64 d a m => Sys2Proof.Machine.execVfsqrtF64 d a m state
  | .vfaddF32 d a b n m => Sys2Proof.Machine.execVfaddF32 d a b n m state
  | .vfsubF32 d a b n m => Sys2Proof.Machine.execVfsubF32 d a b n m state
  | .vfmulF32 d a b n m => Sys2Proof.Machine.execVfmulF32 d a b n m state
  | .vfmaF32 d a b n m => Sys2Proof.Machine.execVfmaF32 d a b n m state
  | .vfminF32 d a b n m => Sys2Proof.Machine.execVfminF32 d a b n m state
  | .vfmaxF32 d a b n m => Sys2Proof.Machine.execVfmaxF32 d a b n m state
  | .vfdivF32 d a b n m => Sys2Proof.Machine.execVfdivF32 d a b n m state
  | .vfsqrtF32 d a m => Sys2Proof.Machine.execVfsqrtF32 d a m state
  | .vfaddBf16 d a b n m => Sys2Proof.Machine.execVfaddBf16 d a b n m state
  | .vfsubBf16 d a b n m => Sys2Proof.Machine.execVfsubBf16 d a b n m state
  | .vfmulBf16 d a b n m => Sys2Proof.Machine.execVfmulBf16 d a b n m state
  | .vfmaBf16 d a b n m => Sys2Proof.Machine.execVfmaBf16 d a b n m state
  | .vfminBf16 d a b n m => Sys2Proof.Machine.execVfminBf16 d a b n m state
  | .vfmaxBf16 d a b n m => Sys2Proof.Machine.execVfmaxBf16 d a b n m state
  | .vfdivBf16 d a b n m => Sys2Proof.Machine.execVfdivBf16 d a b n m state
  | .vfsqrtBf16 d a m => Sys2Proof.Machine.execVfsqrtBf16 d a m state
  | .vfaddF16 d a b n m => Sys2Proof.Machine.execVfaddF16 d a b n m state
  | .vfsubF16 d a b n m => Sys2Proof.Machine.execVfsubF16 d a b n m state
  | .vfmulF16 d a b n m => Sys2Proof.Machine.execVfmulF16 d a b n m state
  | .vfmaF16 d a b n m => Sys2Proof.Machine.execVfmaF16 d a b n m state
  | .vfminF16 d a b n m => Sys2Proof.Machine.execVfminF16 d a b n m state
  | .vfmaxF16 d a b n m => Sys2Proof.Machine.execVfmaxF16 d a b n m state
  | .vfdivF16 d a b n m => Sys2Proof.Machine.execVfdivF16 d a b n m state
  | .vfsqrtF16 d a m => Sys2Proof.Machine.execVfsqrtF16 d a m state
  | .vfrecip d a m => Sys2Proof.Machine.execVfrecip d a m state
  | .vfrsqrt d a m => Sys2Proof.Machine.execVfrsqrt d a m state
  | .vfexp2 d a m => Sys2Proof.Machine.execVfexp2 d a m state
  | .vflog2 d a m => Sys2Proof.Machine.execVflog2 d a m state
  | .vfabs d a m => Sys2Proof.Machine.execVfabs d a m state
  | .vfneg d a m => Sys2Proof.Machine.execVfneg d a m state
  | .vfclass d a m => Sys2Proof.Machine.execVfclass d a m state
  | .vfsgnj d a b n m => Sys2Proof.Machine.execVfsgnj d a b n m state
  | .vcmpeqI8 d a b n m => Sys2Proof.Machine.execVcmpeqI8 d a b n m state
  | .vcmpneI8 d a b n m => Sys2Proof.Machine.execVcmpneI8 d a b n m state
  | .vcmpltI8 d a b n m => Sys2Proof.Machine.execVcmpltI8 d a b n m state
  | .vcmpleI8 d a b n m => Sys2Proof.Machine.execVcmpleI8 d a b n m state
  | .vcmpltnI8 d a b n m => Sys2Proof.Machine.execVcmpltnI8 d a b n m state
  | .vcmplenI8 d a b n m => Sys2Proof.Machine.execVcmplenI8 d a b n m state
  | .vboundI8 d b m => Sys2Proof.Machine.execVboundI8 d b m state
  | .vcmpeqI16 d a b n m => Sys2Proof.Machine.execVcmpeqI16 d a b n m state
  | .vcmpneI16 d a b n m => Sys2Proof.Machine.execVcmpneI16 d a b n m state
  | .vcmpltI16 d a b n m => Sys2Proof.Machine.execVcmpltI16 d a b n m state
  | .vcmpleI16 d a b n m => Sys2Proof.Machine.execVcmpleI16 d a b n m state
  | .vcmpltnI16 d a b n m => Sys2Proof.Machine.execVcmpltnI16 d a b n m state
  | .vcmplenI16 d a b n m => Sys2Proof.Machine.execVcmplenI16 d a b n m state
  | .vboundI16 d b m => Sys2Proof.Machine.execVboundI16 d b m state
  | .vcmpeqI32 d a b n m => Sys2Proof.Machine.execVcmpeqI32 d a b n m state
  | .vcmpneI32 d a b n m => Sys2Proof.Machine.execVcmpneI32 d a b n m state
  | .vcmpltI32 d a b n m => Sys2Proof.Machine.execVcmpltI32 d a b n m state
  | .vcmpleI32 d a b n m => Sys2Proof.Machine.execVcmpleI32 d a b n m state
  | .vcmpltnI32 d a b n m => Sys2Proof.Machine.execVcmpltnI32 d a b n m state
  | .vcmplenI32 d a b n m => Sys2Proof.Machine.execVcmplenI32 d a b n m state
  | .vboundI32 d b m => Sys2Proof.Machine.execVboundI32 d b m state
  | .vcmpeqI64 d a b n m => Sys2Proof.Machine.execVcmpeqI64 d a b n m state
  | .vcmpneI64 d a b n m => Sys2Proof.Machine.execVcmpneI64 d a b n m state
  | .vcmpltI64 d a b n m => Sys2Proof.Machine.execVcmpltI64 d a b n m state
  | .vcmpleI64 d a b n m => Sys2Proof.Machine.execVcmpleI64 d a b n m state
  | .vcmpltnI64 d a b n m => Sys2Proof.Machine.execVcmpltnI64 d a b n m state
  | .vcmplenI64 d a b n m => Sys2Proof.Machine.execVcmplenI64 d a b n m state
  | .vboundI64 d b m => Sys2Proof.Machine.execVboundI64 d b m state
  | .vfcmpeqF32 d a b n m => Sys2Proof.Machine.execVfcmpeqF32 d a b n m state
  | .vfcmpltF32 d a b n m => Sys2Proof.Machine.execVfcmpltF32 d a b n m state
  | .vfcmpleF32 d a b n m => Sys2Proof.Machine.execVfcmpleF32 d a b n m state
  | .vfcmpunF32 d a b n m => Sys2Proof.Machine.execVfcmpunF32 d a b n m state
  | .vfcmpeqF64 d a b n m => Sys2Proof.Machine.execVfcmpeqF64 d a b n m state
  | .vfcmpltF64 d a b n m => Sys2Proof.Machine.execVfcmpltF64 d a b n m state
  | .vfcmpleF64 d a b n m => Sys2Proof.Machine.execVfcmpleF64 d a b n m state
  | .vfcmpunF64 d a b n m => Sys2Proof.Machine.execVfcmpunF64 d a b n m state
  | .mand d a b m => Sys2Proof.Machine.execMand d a b m state
  | .mor d a b m => Sys2Proof.Machine.execMor d a b m state
  | .mxor d a b m => Sys2Proof.Machine.execMxor d a b m state
  | .mandn d a b m => Sys2Proof.Machine.execMandn d a b m state
  | .mnot d a m => Sys2Proof.Machine.execMnot d a m state
  | .mpopc d a m => Sys2Proof.Machine.execMpopc d a m state
  | .mfirst d a m => Sys2Proof.Machine.execMfirst d a m state
  | .msetvl d a m => Sys2Proof.Machine.execMsetvl d a m state
  | .vpermx d a b n m => Sys2Proof.Machine.execVpermx d a b n m state
  | .vslideup d a b m => Sys2Proof.Machine.execVslideup d a b m state
  | .vslidedn d a b m => Sys2Proof.Machine.execVslidedn d a b m state
  | .vcompress d a m => Sys2Proof.Machine.execVcompress d a m state
  | .vexpand d a m => Sys2Proof.Machine.execVexpand d a m state
  | .vbcast d a b m => Sys2Proof.Machine.execVbcast d a b m state
  | .vextr d a b => Sys2Proof.Machine.execVextr d a b state
  | .vins d a b => Sys2Proof.Machine.execVins d a b state
  | .vscanI32 d a m => Sys2Proof.Machine.execVscanI32 d a m state
  | .vscanI64 d a m => Sys2Proof.Machine.execVscanI64 d a m state
  | .vscanF32 d a m => Sys2Proof.Machine.execVscanF32 d a m state
  | .vredsumI32 d a m => Sys2Proof.Machine.execVredsumI32 d a m state
  | .vredsumI64 d a m => Sys2Proof.Machine.execVredsumI64 d a m state
  | .vredsumF32 d a m => Sys2Proof.Machine.execVredsumF32 d a m state
  | .vredmaxI32 d a m => Sys2Proof.Machine.execVredmaxI32 d a m state
  | .vredmaxF32 d a m => Sys2Proof.Machine.execVredmaxF32 d a m state
  | .vcvt d a s r m f => Sys2Proof.Machine.execVcvt d a s r m f state
  | .vhad d a m j => Sys2Proof.Machine.execVhad d a m j state
  | .vhadc a j => Sys2Proof.Machine.execVhadc a j state
  | .vcvtb d a o => Sys2Proof.Machine.execVcvtb d a o state
  | .vgauss d a b m => Sys2Proof.Machine.execVgauss d a b m state
  | .vld d b m h => Sys2Proof.Machine.execVld d b m h state
  | .vlds d b s m h => Sys2Proof.Machine.execVlds d b s m h state
  | .vldx d b x m h => Sys2Proof.Machine.execVldx d b x m h state
  | .vldff d b m h => Sys2Proof.Machine.execVldff d b m h state
  | .vst d b m h => Sys2Proof.Machine.execVst d b m h state
  | .vsts d b s m h => Sys2Proof.Machine.execVsts d b s m h state
  | .vstx d b x m h => Sys2Proof.Machine.execVstx d b x m h state
  | .vstxadd d b x m h => Sys2Proof.Machine.execVstxadd d b x m h state
  | .vfetch a => Sys2Proof.Machine.execVfetch a state
  | .tfetch a m => Sys2Proof.Machine.execTfetch a m state
  | .stop => Sys2Proof.Machine.execStop state
  | .vjoin => Sys2Proof.Machine.execVjoin state
  | .vrelease => Sys2Proof.Machine.execVrelease state
  | .vloop k => Sys2Proof.Machine.execVloop k state
  | .vagain => Sys2Proof.Machine.execVagain state
  | .setvl d a t => Sys2Proof.Machine.execSetvl d a t state
  | .setvli d a n t => Sys2Proof.Machine.execSetvli d a n t state
  | .ropen d a b => Sys2Proof.Machine.execRopen d a b state
  | .rpub a h => Sys2Proof.Machine.execRpub a h state
  | .rseal a h => Sys2Proof.Machine.execRseal a h state
  | .rfree a h => Sys2Proof.Machine.execRfree a h state
  | .rlen d a h => Sys2Proof.Machine.execRlen d a h state
  | .rinfo d a b => Sys2Proof.Machine.execRinfo d a b state
  | .sbind d a b h => Sys2Proof.Machine.execSbind d a b h state
  | .sunbind d h => Sys2Proof.Machine.execSunbind d h state
  | .sskip d a => Sys2Proof.Machine.execSskip d a state
  | .spos d a => Sys2Proof.Machine.execSpos d a state
  | .rcopyin a b h => Sys2Proof.Machine.execRcopyin a b h state
  | .rcopyout a b h => Sys2Proof.Machine.execRcopyout a b h state
  | .rcopyrr a b h => Sys2Proof.Machine.execRcopyrr a b h state
  | .rfill a b h => Sys2Proof.Machine.execRfill a b h state
  | .rsort a h => Sys2Proof.Machine.execRsort a h state
  | .rmerge a h => Sys2Proof.Machine.execRmerge a h state
  | .rpart a h => Sys2Proof.Machine.execRpart a h state
  | .rtag a h => Sys2Proof.Machine.execRtag a h state
  | .rjoin a h => Sys2Proof.Machine.execRjoin a h state
  | .vldw d a b h => Sys2Proof.Machine.execVldw d a b h state
  | .cset a h => Sys2Proof.Machine.execCset a h state
  | .csnap d a h => Sys2Proof.Machine.execCsnap d a h state
  | .rcomb d a b => Sys2Proof.Machine.execRcomb d a b state
  | .nmc d a b h => Sys2Proof.Machine.execNmc d a b h state
  | .nmstat d a h => Sys2Proof.Machine.execNmstat d a h state
  | .scan a h => Sys2Proof.Machine.execScan a h state
  | .scanth d a h => Sys2Proof.Machine.execScanth d a h state
  | .opaF64 d a b c r => Sys2Proof.Machine.execOpaF64 d a b c r state
  | .opaF32 d a b c r => Sys2Proof.Machine.execOpaF32 d a b c r state
  | .opaBf16 d a b c r => Sys2Proof.Machine.execOpaBf16 d a b c r state
  | .opaF16 d a b c r => Sys2Proof.Machine.execOpaF16 d a b c r state
  | .opaE4m3 d a b c r => Sys2Proof.Machine.execOpaE4m3 d a b c r state
  | .opaE5m2 d a b c r => Sys2Proof.Machine.execOpaE5m2 d a b c r state
  | .opaE2m1 d a b c r => Sys2Proof.Machine.execOpaE2m1 d a b c r state
  | .opaI8 d a b c r => Sys2Proof.Machine.execOpaI8 d a b c r state
  | .mmsBf16 d v a b r => Sys2Proof.Machine.execMmsBf16 d v a b r state
  | .mmsE4m3 d v a b r => Sys2Proof.Machine.execMmsE4m3 d v a b r state
  | .mmsE2m1 d v a b r => Sys2Proof.Machine.execMmsE2m1 d v a b r state
  | .mmsI8 d v a b r => Sys2Proof.Machine.execMmsI8 d v a b r state
  | .mmspBf16 d v a b r => Sys2Proof.Machine.execMmspBf16 d v a b r state
  | .mmspE4m3 d v a b r => Sys2Proof.Machine.execMmspE4m3 d v a b r state
  | .mmssBf16 d v a b r => Sys2Proof.Machine.execMmssBf16 d v a b r state
  | .mmssE4m3 d v a b r => Sys2Proof.Machine.execMmssE4m3 d v a b r state
  | .scacc d p a b q => Sys2Proof.Machine.execScacc d p a b q state
  | .tzero d o c r => Sys2Proof.Machine.execTzero d o c r state
  | .tmov d v s m => Sys2Proof.Machine.execTmov d v s m state
  | .trd d b x c r => Sys2Proof.Machine.execTrd d b x c r state
  | .twr d v s m => Sys2Proof.Machine.execTwr d v s m state
  | .tst d b s r h => Sys2Proof.Machine.execTst d b s r h state
  | .tldt d b s r h => Sys2Proof.Machine.execTldt d b s r h state
  | .osld a b h => Sys2Proof.Machine.execOsld a b h state
  | .osmeta d a b => Sys2Proof.Machine.execOsmeta d a b state
  | .hnew d s => Sys2Proof.Machine.execHnew d s state
  | .hfork d a => Sys2Proof.Machine.execHfork d a state
  | .hjoin d a b => Sys2Proof.Machine.execHjoin d a b state
  | .hret a => Sys2Proof.Machine.execHret a state
  | .hwait a => Sys2Proof.Machine.execHwait a state
  | .hscope d a s => Sys2Proof.Machine.execHscope d a s state
  | .hexp d a => Sys2Proof.Machine.execHexp d a state
  | .himp d a => Sys2Proof.Machine.execHimp d a state
  | .amoadd d a b x h => Sys2Proof.Machine.execAmoadd d a b x h state
  | .amoand d a b x h => Sys2Proof.Machine.execAmoand d a b x h state
  | .amoor d a b x h => Sys2Proof.Machine.execAmoor d a b x h state
  | .amoxor d a b x h => Sys2Proof.Machine.execAmoxor d a b x h state
  | .amomin d a b x h => Sys2Proof.Machine.execAmomin d a b x h state
  | .amomax d a b x h => Sys2Proof.Machine.execAmomax d a b x h state
  | .amominn d a b x h => Sys2Proof.Machine.execAmominn d a b x h state
  | .amomaxn d a b x h => Sys2Proof.Machine.execAmomaxn d a b x h state
  | .amoswap d a b x h => Sys2Proof.Machine.execAmoswap d a b x h state
  | .amocas d a b x h => Sys2Proof.Machine.execAmocas d a b x h state
  | .launch d a b h => Sys2Proof.Machine.execLaunch d a b h state
  | .kstat d a h => Sys2Proof.Machine.execKstat d a h state
  | .claim d a b h => Sys2Proof.Machine.execClaim d a b h state
  | .semacq d a b h => Sys2Proof.Machine.execSemacq d a b h state
  | .semrel a b h => Sys2Proof.Machine.execSemrel a b h state
  | .semrd d a h => Sys2Proof.Machine.execSemrd d a h state
  | .ginfo d a => Sys2Proof.Machine.execGinfo d a state
  | .gexit => Sys2Proof.Machine.execGexit state
  | .hyield d => Sys2Proof.Machine.execHyield d state
  | .barinit a b => Sys2Proof.Machine.execBarinit a b state
  | .bararr d a h => Sys2Proof.Machine.execBararr d a h state
  | .barwait a b h => Sys2Proof.Machine.execBarwait a b h state
  | .bararw d a h => Sys2Proof.Machine.execBararw d a h state
  | .barq d a => Sys2Proof.Machine.execBarq d a state
  | .xsend a b h => Sys2Proof.Machine.execXsend a b h state
  | .xticket d a b h => Sys2Proof.Machine.execXticket d a b h state
  | .xtkwait a b h => Sys2Proof.Machine.execXtkwait a b h state
  | .xpass a b h => Sys2Proof.Machine.execXpass a b h state
  | .xnote a b h => Sys2Proof.Machine.execXnote a b h state
  | .xquery d a b => Sys2Proof.Machine.execXquery d a b state
  | .deferredTrap h k => Sys2Proof.Machine.execDeferredTrap h k state
  | .hartWaitEnds h => Sys2Proof.Machine.execHartWaitEnds h state
  | .wfeTimeout h => Sys2Proof.Machine.execWfeTimeout h state
  | .semaphoreGrant core sem => Sys2Proof.Machine.execSemaphoreGrant core sem state
  | .streamStallEnd h => Sys2Proof.Machine.execStreamStallEnd h state
  | .rpubPerformed op => Sys2Proof.Machine.execRpubPerformed op state
  | .rsealPerformed op => Sys2Proof.Machine.execRsealPerformed op state
  | .rfreePerformed op => Sys2Proof.Machine.execRfreePerformed op state
  | .copyPerformed op => Sys2Proof.Machine.execCopyPerformed op state
  | .copyComplete op => Sys2Proof.Machine.execCopyComplete op state
  | .osldPerformed op => Sys2Proof.Machine.execOsldPerformed op state
  | .mergeJobStart op => Sys2Proof.Machine.execMergeJobStart op state
  | .mergeJobComplete op => Sys2Proof.Machine.execMergeJobComplete op state
  | .mergeJobStop op => Sys2Proof.Machine.execMergeJobStop op state
  | .extentResume op => Sys2Proof.Machine.execExtentResume op state
  | .nmcJobRun op => Sys2Proof.Machine.execNmcJobRun op state
  | .scanRun op => Sys2Proof.Machine.execScanRun op state
  | .hartStart g rank => Sys2Proof.Machine.execHartStart g rank state
  | .tileRampEnd core => Sys2Proof.Machine.execTileRampEnd core state
  | .launchEligible ctx queue => Sys2Proof.Machine.execLaunchEligible ctx queue state
  | .groupBind die slot => Sys2Proof.Machine.execGroupBind die slot state
  | .kennelBindGroup ctx queue die cores => Sys2Proof.Machine.execKennelBindGroup ctx queue die cores state
  | .bindRecordWrite die slot rec => Sys2Proof.Machine.execBindRecordWrite die slot rec state
  | .kennelPreemptRequest g => Sys2Proof.Machine.execKennelPreemptRequest g state
  | .preemptGraceExpiry g => Sys2Proof.Machine.execPreemptGraceExpiry g state
  | .saveComplete g => Sys2Proof.Machine.execSaveComplete g state
  | .groupResume g => Sys2Proof.Machine.execGroupResume g state
  | .vectorSetEvict h => Sys2Proof.Machine.execVectorSetEvict h state
  | .groupExitComplete g => Sys2Proof.Machine.execGroupExitComplete g state
  | .kennelKillGroup ctx t who => Sys2Proof.Machine.execKennelKillGroup ctx t who state
  | .kennelResumeHart h => Sys2Proof.Machine.execKennelResumeHart h state
  | .kennelReflectTrap h => Sys2Proof.Machine.execKennelReflectTrap h state
  | .kennelSuspendContext ctx suspend => Sys2Proof.Machine.execKennelSuspendContext ctx suspend state
  | .repartition ctx part iters routes queues => Sys2Proof.Machine.execRepartition ctx part iters routes queues state
  | .kennelGrowPool ctx die units => Sys2Proof.Machine.execKennelGrowPool ctx die units state
  | .kennelShrinkPool ctx die units => Sys2Proof.Machine.execKennelShrinkPool ctx die units state
  | .machineCheck h unit shared => Sys2Proof.Machine.execMachineCheck h unit shared state
  | .scrub l => Sys2Proof.Machine.execScrub l state
  | .channelRetire die channel => Sys2Proof.Machine.execChannelRetire die channel state
  | .submit ctx queue => Sys2Proof.Machine.execSubmit ctx queue state
  | .ctrlBlock ctx queue => Sys2Proof.Machine.execCtrlBlock ctx queue state
  | .ctrlOpen ctx queue => Sys2Proof.Machine.execCtrlOpen ctx queue state
  | .ctrlDrain ctx queue => Sys2Proof.Machine.execCtrlDrain ctx queue state
  | .ctrlClear ctx queue => Sys2Proof.Machine.execCtrlClear ctx queue state
  | .ctrlDiscard ctx queue => Sys2Proof.Machine.execCtrlDiscard ctx queue state
  | .registerWrite vf bar off value => Sys2Proof.Machine.execRegisterWrite vf bar off value state
  | .ctxnew vf => Sys2Proof.Machine.execCtxnew vf state
  | .ctxdel vf => Sys2Proof.Machine.execCtxdel vf state
  | .ctxsusp vf => Sys2Proof.Machine.execCtxsusp vf state
  | .ctxres vf => Sys2Proof.Machine.execCtxres vf state
  | .loadImage vf img => Sys2Proof.Machine.execLoadImage vf img state
  | .unload vf => Sys2Proof.Machine.execUnload vf state
  | .rnew vf => Sys2Proof.Machine.execRnew vf state
  | .hrun vf => Sys2Proof.Machine.execHrun vf state
  | .hpub vf => Sys2Proof.Machine.execHpub vf state
  | .rread vf => Sys2Proof.Machine.execRread vf state
  | .rwrite vf => Sys2Proof.Machine.execRwrite vf state
  | .setctr vf => Sys2Proof.Machine.execSetctr vf state
  | .session vf => Sys2Proof.Machine.execSession vf state
  | .hext vf => Sys2Proof.Machine.execHext vf state
  | .commandDone vf => Sys2Proof.Machine.execCommandDone vf state
  | .getMeasurements vf => Sys2Proof.Machine.execGetMeasurements vf state
  | .getCertificate vf => Sys2Proof.Machine.execGetCertificate vf state
  | .pfEnableVfs n => Sys2Proof.Machine.execPfEnableVfs n state
  | .pfSetLimits vf l => Sys2Proof.Machine.execPfSetLimits vf l state
  | .pfSetPowerCap mw => Sys2Proof.Machine.execPfSetPowerCap mw state
  | .coldReset fails chip => Sys2Proof.Machine.execColdReset fails chip state
  | .pfHotReset fails chip => Sys2Proof.Machine.execPfHotReset fails chip state
  | .vfFlr vf => Sys2Proof.Machine.execVfFlr vf state
  | .governorTick die demand => Sys2Proof.Machine.execGovernorTick die demand state
  | .thermalLimit die => Sys2Proof.Machine.execThermalLimit die state
  | .thermalBelow die => Sys2Proof.Machine.execThermalBelow die state
  | .thermalStop die => Sys2Proof.Machine.execThermalStop die state
  | .linkTrainStart st => Sys2Proof.Machine.execLinkTrainStart st state
  | .linkTrainUp st => Sys2Proof.Machine.execLinkTrainUp st state
  | .linkTrainNarrow st lanes => Sys2Proof.Machine.execLinkTrainNarrow st lanes state
  | .laneFail st => Sys2Proof.Machine.execLaneFail st state
  | .linkDown st => Sys2Proof.Machine.execLinkDown st state
  | .watchdogSample st weak => Sys2Proof.Machine.execWatchdogSample st weak state
  | .sessionOpen ctx chip peer => Sys2Proof.Machine.execSessionOpen ctx chip peer state
  | .sessionPeerGone ctx chip => Sys2Proof.Machine.execSessionPeerGone ctx chip state
  | .sessionRouteTimeout ctx chip => Sys2Proof.Machine.execSessionRouteTimeout ctx chip state
  | .sessionSettled ctx chip => Sys2Proof.Machine.execSessionSettled ctx chip state
  | .reqMsg m => Sys2Proof.Machine.execReqMsg m state
  | .trainMsg m => Sys2Proof.Machine.execTrainMsg m state
  | .tailMsg m => Sys2Proof.Machine.execTailMsg m state
  | .dataMsg m => Sys2Proof.Machine.execDataMsg m state
  | .rdataMsg m => Sys2Proof.Machine.execRdataMsg m state
  | .tkreqMsg m => Sys2Proof.Machine.execTkreqMsg m state
  | .tkcallMsg m => Sys2Proof.Machine.execTkcallMsg m state
  | .noteMsg m => Sys2Proof.Machine.execNoteMsg m state
  | .doneMsg m => Sys2Proof.Machine.execDoneMsg m state
  | .retMsg m => Sys2Proof.Machine.execRetMsg m state
  | .closeMsg m => Sys2Proof.Machine.execCloseMsg m state
  | .reservedMessage m => Sys2Proof.Machine.execReservedMessage m state
  | .retSend ctx chip => Sys2Proof.Machine.execRetSend ctx chip state
  | .ualinkRead r => Sys2Proof.Machine.execUalinkRead r state
  | .ualinkWrite r => Sys2Proof.Machine.execUalinkWrite r state
  | .ualinkAtomic r => Sys2Proof.Machine.execUalinkAtomic r state
  | .ualinkCompletion d => Sys2Proof.Machine.execUalinkCompletion d state
  | .ticketCall ctx die => Sys2Proof.Machine.execTicketCall ctx die state
  | .ticketTimeout ctx die number => Sys2Proof.Machine.execTicketTimeout ctx die number state
  | .illegalWord w => Sys2Proof.Machine.execIllegalWord w state
  | .linkLevelReplay st repaired => Sys2Proof.Machine.execLinkLevelReplay st repaired state
  | .softError l symbols => Sys2Proof.Machine.execSoftError l symbols state
  | .tsvGroupMarkedFailed die stack tsv => Sys2Proof.Machine.execTsvGroupMarkedFailed die stack tsv state
  | .clearingComplete ctx => Sys2Proof.Machine.execClearingComplete ctx state

end Sys2Proof.Machine
end

