-- ==== Sys2Proof/Machine/Views.lean ====
section
/-!
DEFINITION. What observers see of writes that have been performed for others and not yet for them: words of memory by hart (R245–R250,
R254), and element groups of a hart's vector registers by strand, forked tile program and vector instruction (R145, R207). A move is made
in the view of the one that makes it.
-/

namespace Sys2Proof.Machine

/-! ## Memory (R248) -/

/-- The bytes that a hart has still to see, the earliest write of each last. -/
def State.hiddenFrom (s : State) (h : HartId) : List Hidden := (s.hidden.filter (fun x => x.hart == h && s.alive x.op)).reverse

/-- Memory as a hart sees it. -/
def State.seenMem (s : State) (h : HartId) : Memory := (s.hiddenFrom h).foldl (fun m x => Memory.write m x.key x.old) s.mem

/-- A byte of memory after a hart's move made in its view `seen`: as the move wrote it, else as it stood. -/
def settleByte (mem seen : Memory) (m : Memory) (k : Nat) : Memory :=
  if Memory.read m k = Memory.read seen k then Memory.write m k (Memory.read mem k) else m

/-- Words of an operation that observers see as a whole (R250): 8 bytes of an access, 4 of what a copy or a near-memory job writes. -/
def Op.grain (o : Op) : Nat := if o.kind.held.isSome then 8 else 4

/-- Whether a byte of memory has more than one observer: it is one of a local store or of a run in device memory. -/
def sharedKey (k : Nat) : Bool := decide (k < 2 ^ 32) || (decide (2 ^ 64 ≤ k) && decide (k < 2 ^ 96))

/-- The bytes of a word that an operation has changed, as a hart still sees them. A hart's own accesses hide nothing from it (R84). -/
def State.hideWord (s t : State) (o : Op) (p : HartId × Nat) : List Hidden :=
  if o.kind.held.isSome && p.1 == o.issuer.owner then []
  else
    ((List.range o.grain).map (fun j => o.grain * p.2 + j)).filterMap (fun k =>
      if sharedKey k && Memory.read s.mem k != Memory.read t.mem k then some ⟨p.1, o.id, k, Memory.read s.mem k⟩ else none)

/-- A word of an operation seen by a hart at last. -/
def State.reveal (s : State) (id : Nat) (h : HartId) (word : Nat) : State :=
  let grain := ((s.opAt id).map Op.grain).getD 4
  { s with hidden := s.hidden.filter (fun x => !(x.op == id && x.hart == h && x.key / grain == word)) }

/-! ## Vector registers (R145, R207) -/

/-- A 128-bit element group of a hart's vector register. -/
def Hart.group (h : Hart) (reg g : Nat) : BitVec 128 := BitVec.ofNat 128 ((h.vreg reg).toNat / 2 ^ (128 * g))

/-- The hart with an element group at another value. -/
def Hart.setGroup (h : Hart) (reg g : Nat) (v : BitVec 128) : Hart :=
  { h.setVreg reg (setElemOf (h.vreg reg) g 128 v.toNat) with vdirty := h.vdirty }

/-- What a reader has still to see. -/
def State.underOf (s : State) (r : Reader) : List Under := s.under.filter (fun u => u.reader == r)

/-- The state with one of a hart's element groups at another value. -/
def State.setGroup_ (s : State) (h : HartId) (reg g : Nat) (v : BitVec 128) : State := s.setHart h ((s.hart h).setGroup reg g v)

/-- An element group after a reader's move made in its view: as it stood, with what the move wrote of it under that; where the two have
met in the move, as the move left it. -/
def State.settleGroup (s : State) (t : State) (u : Under) : State :=
  let h := u.reader.hart
  let new := (t.hart h).group u.reg u.group
  let same := fun (x : Under) => x.reader == u.reader && x.reg == u.reg && x.group == u.group
  if t.under.any same then
    let t := t.setGroup_ h u.reg u.group ((s.hart h).group u.reg u.group)
    { t with under := t.under.map (fun x => if same x then { x with old := new } else x) }
  else if new = u.old then t.setGroup_ h u.reg u.group ((s.hart h).group u.reg u.group)
  else t

/-- Whether a reader's accesses to the registers have no order with a writer's: strands of one hart (R145), and a forked tile program
and the instructions of its hart (R207). -/
def State.unordered (s : State) (writer reader : Reader) : Bool :=
  match writer, reader with
  | .strand h j, .strand k l => h == k && j != l && ((s.hart h).strand l).running
  | .lanes h, .engine k | .engine h, .lanes k => h == k && (s.hart h).tileProg.isSome
  | _, _ => false

/-- An element group that a move has changed, as a reader still sees it. -/
def State.hideGroup (s t : State) (writer : Reader) (p : Reader × Nat × Nat) : Option Under :=
  let h := p.1.hart
  let old := (s.hart h).group p.2.1 p.2.2
  if t.unordered writer p.1 && old != (t.hart h).group p.2.1 p.2.2 &&
      !(s.under.any (fun u => u.reader == p.1 && u.reg == p.2.1 && u.group == p.2.2)) then
    some ⟨p.1, p.2.1, p.2.2, old⟩
  else none

/-! ## Moves in the view of who makes them -/

/-- The operation that an event advances. -/
def eventOp (x : Instr) : Option Nat :=
  match x with
  | .copyPerformed id | .copyComplete id | .osldPerformed id | .mergeJobStart id | .mergeJobComplete id | .mergeJobStop id
  | .nmcJobRun id | .scanRun id | .extentResume id => some id
  | _ => none

/-- The operation that a move advances. -/
def Move.op? : Move → Option Nat
  | .perform id => some id
  | .event x => eventOp x
  | _ => none

/-- The hart whose view of memory a move is made in: copies, jobs and scans observe as the hart that issued them (R232). -/
def State.observer (s : State) (m : Move) : Option HartId :=
  match m with
  | .issue i | .issueLate i => some i.owner
  | .lanes h => some h
  | _ => (m.op?.bind s.opAt).map (fun o => o.issuer.owner)

/-- The reader of vector registers whose view a move is made in. -/
def Move.reader : Move → Option Reader
  | .issue (.strand h j) | .issueLate (.strand h j) => some (.strand h j)
  | .issue (.seq h .tile) | .issueLate (.seq h .tile) => some (.engine h)
  | .issue (.hart h) | .issueLate (.hart h) | .lanes h => some (.lanes h)
  | _ => none

/-- The state as the one that makes a move sees it. -/
def State.viewed (s : State) (m : Move) : State :=
  let s := match s.observer m with
    | some h => if s.hidden.isEmpty then s else { s with mem := s.seenMem h }
    | none => s
  match m.reader with
  | some r => (s.underOf r).foldl (fun s u => s.setGroup_ r.hart u.reg u.group u.old) s
  | none => s

/-- The state after a move from `s` that was made in that view and left `t`. -/
def State.unviewed (s t : State) (m : Move) : State :=
  let t := match m.reader with
    | some r => (s.underOf r).foldl (State.settleGroup s) t
    | none => t
  match s.observer m with
  | some h =>
    if s.hidden.isEmpty then t
    else
      let seen := s.seenMem h
      let keys := ((s.hiddenFrom h).map Hidden.key).eraseDups
      { t with
        mem := keys.foldl (settleByte s.mem seen) t.mem
        hidden := t.hidden.filter (fun x => !(x.hart == h && keys.contains x.key && Memory.read t.mem x.key != Memory.read seen x.key)) }
  | none => t

/-- The state after a move from `s` that left `t` and whose writes of some words and element groups come later for some observers. -/
def State.hide (s t : State) (m : Move) (words : List (HartId × Nat)) (groups : List (Reader × Nat × Nat)) : State :=
  let t := match m.op?.bind t.opAt with
    | some o => { t with hidden := t.hidden ++ words.flatMap (s.hideWord t o) }
    | none => t
  match m.reader with
  | some w => { t with under := t.under ++ groups.filterMap (s.hideGroup t w) }
  | none => t

end Sys2Proof.Machine
end

