-- ==== Sys2Proof/Machine/Fetch.lean ====
section
/-!
DEFINITION. What an issuer does when its turn comes: the word that it fetches, the end of a forked program, a report or a
wait; and how a program is placed for a hart to run (R19, R31, R42, R68, R78, R85, R88, R145).
-/

namespace Sys2Proof.Machine

/-- The row ILLEGAL_WORD: an issuer comes to it, and no agenda names it. -/
def isIllegal (x : Instr) : Bool :=
  match x with
  | .illegalWord _ => true
  | _ => false

/-- What an issuer's turn is: a word that it issues, a fetch past the code area's end, a report that its hart takes first, a
blocking instruction that tests its condition, the end of a forked program, or nothing. -/
inductive Turn
  | word (w : IWord)
  | pastEnd (pc : Word)
  | report (h : HartId)
  | waits (h : HartId)
  | ends (h : HartId) (e : Eng)
  | idle
  deriving DecidableEq, Repr

/-- A hart that reports have reached takes one before anything else, once it is quiet (R85, R95). -/
def State.reportTurn (s : State) (h : HartId) : Turn := if s.takesReports h then .report h else .idle

/-- The fetch of a hart between two instructions: the rest of its replay, else the word at its PC (R78, R141).
(log entry 64: DEDUCED.) -/
def State.fetchTurn (s : State) (x : Hart) : Turn :=
  match x.vqueue with
  | w :: _ => .word w
  | [] => if s.inCode x.pc then .word (s.codeWord x.pc.toNat) else .pastEnd x.pc

/-- A hart's turn (R68, R69). -/
def State.hartTurn (s : State) (h : HartId) : Turn :=
  let x := s.hart h
  match x.state with
  | .run =>
    if !x.reports.isEmpty then s.reportTurn h
    else if x.stalled.isSome then .idle
    else ({ s with cur := .hart h } : State).fetchTurn x
  | .wait => if !x.reports.isEmpty then s.reportTurn h else .waits h
  | _ => .idle

/-- Whether a hart's strands and sequencers go on: it is on its slot and has started. -/
def Hart.onSlot (x : Hart) : Bool := x.state == .run || x.state == .wait || x.state == .suspended

/-- A sequencer's turn (R88). -/
def State.seqTurn (s : State) (h : HartId) (e : Eng) : Turn :=
  let x := s.hart h
  let p := x.prog e
  if x.onSlot && !p.ended && p.stop.isNone then
    if p.entry + 4 * p.words ≤ p.pc then .ends h e else .word (({ s with cur := .seq h e } : State).codeWord p.pc)
  else .idle

/-- A strand's turn: the head of its fetched block (R143). -/
def State.strandTurn (s : State) (h : HartId) (j : Nat) : Turn :=
  let t := (s.hart h).strand j
  if (s.hart h).onSlot && t.running then
    match t.block with
    | w :: _ => .word w
    | [] => .idle
  else .idle

/-- An instruction that has issued and is not performed: it waits, its sequencer follows a broken import, or it can be performed. -/
inductive LateTurn
  | waits
  | broken (o : Op) (x : Late)
  | ready (o : Op) (x : Late)

/-- What an instruction that has issued may do now (R244, R247, R248). -/
def State.lateAt (s : State) (id : Nat) : LateTurn :=
  match s.opAt id with
  | none => .waits
  | some o =>
    match o.kind with
    | .late x =>
      if o.phase ≠ .queued then .waits
      else if ((s.coreAt o.core).seqr o.entered).broken.isSome ∧ s.inLanes o = false then .broken o x
      else if s.mayPerform o x then .ready o x
      else .waits
    | _ => .waits

/-- The word that the lanes take next from a hart's queue, when they can (R111). -/
def State.laneHead (s : State) (h : HartId) : Option Queued :=
  match (s.hart h).lanes with
  | e :: _ => if s.laneReady h e then some e else none
  | [] => none

/-- An issuer's turn. (log entry 65: DESIGN CHOICE.) -/
def State.turn (s : State) (i : Issuer) : Turn :=
  match i with
  | .hart h => s.hartTurn h
  | .seq h e => s.seqTurn h e
  | .strand h j => s.strandTurn h j
  | .fold _ | .queued _ | .late _ _ => .idle

/-- Sequential fetch past the end of the code area: FETCH_BOUND at the address that would have been fetched (R78). -/
def State.fetchPastEnd (s : State) (i : Issuer) (pc : Word) : State :=
  let s := { s with cur := i }
  State.takeTrap s (.at .fetchBound pc) s

/-- A sequencer's program ends, and the handles that it created and still holds are retired (R88).
(log entry 64: DEDUCED.) -/
def State.endProgram (s : State) (h : HartId) (e : Eng) : State :=
  let x := s.hart h
  let p := x.prog e
  let mine : Option Nat → Bool := fun q => match q with
    | some q => p.created.contains q
    | none => false
  let gone := (p.hregs.toList.filter mine).filterMap id
  let s := s.setHart h
    (x.setProg e { p with ended := true, hregs := p.hregs.map (fun (q : Option Nat) => if mine q then none else q) })
  gone.foldl (fun s q => s.dropRef x.core q) s

/-- Whether Kennel's answer to a hart's escalated trap is to kill the group: it is neither a service request nor a
POOL_EMPTY (R98). -/
def Hart.kennelKills (x : Hart) : Bool := x.trapHeld && !(x.trapCode == 29 || (x.trapCode == 9 && x.trapPrior == .s))

/-! ## A program placed -/

/-- The core that a program is placed on: its engine granted, handle sequencer 0 the hart's default handle. -/
def loadedCore : Core :=
  { Core.reset.allocSeqr 0 .live 1 [] none 0 with tile := { TileEngine.reset with owner := some 0 } }

/-- The interface's one core, in a partition. -/
def loadedPart : List (List Nat) := [[0], [], [], [], [], [], [], []]

/-- The context of the placed program: its two reserved runs, and one group bound. -/
def loadedCtx : Ctx :=
  { Ctx.reset with state := .active, part := loadedPart, table := 1024, runs := [(0, kennelRun 32 0), (1, kennelRun 64 0)] }

/-- The group: one core, one hart with a vector set and the tile engine, a code area of 4 KiB at the start of its range. -/
def loadedGroup : Group :=
  { Group.reset with
    cores := [0], harts := 1, vec := true, tile := true, state := .run, bases := [0], range := 0x4_0000, code := 4096,
    started := [0] }

/-- The hart as it leaves BOUND (R70). -/
def loadedHart : Hart :=
  { Hart.reset with
    state := .run, gsize := 1, hregs := (Vector.replicate 16 none).setIfInBounds 0 (some 0), vset := some VSet.reset }

/-- The placed hart. -/
def loadedId : HartId := ⟨0, 0, 0⟩

/-- A state with a word placed at offset 0 of the code area of a group of one hart, which issues next: what loading an image,
launching its kernel, binding its group and starting it leave, for the word alone. (log entry 4: DESIGN CHOICE.) -/
def State.loaded (s : State) (w : IWord) : State :=
  { s with
    mem := Memory.writeBytes s.mem (lsKey 0 0) (natLe 4 w.toNat)
    cores := insertKey s.cores 0 loadedCore
    harts := insertKey s.harts loadedId.key loadedHart
    groups := insertKey s.groups 0 loadedGroup
    ctxs := insertKey s.ctxs 0 loadedCtx
    vfs := insertKey s.vfs 0 { VFunc.reset with enabled := true, cmap := loadedPart }
    nextGroup := Nat.max 1 s.nextGroup
    hidden := []
    under := []
    agenda := [.issue (.hart loadedId)] }

end Sys2Proof.Machine
end

