-- ==== Sys2Proof/Machine/Step.lean ====
section
/-!
DEFINITION. One step: a move of the agenda or, when it is empty, the next of the moves that the chip may make by itself. An
issuer's move fetches its word, decodes it and executes it; an event's move executes the event. (`noncomputable`: the
decoder is, see `Decode.lean`; the kernel evaluates all of it.)
-/

noncomputable section

namespace Sys2Proof.Machine

/-- A fetched word executed by an issuer: the instruction that it decodes to, or the trap of a word that is none (R40). -/
def runWord (i : Issuer) (w : IWord) (s : State) : Host.Outcome State Fault Refusal :=
  let s := { s with cur := i, word := w }
  match decode w with
  | .ok x => exec x s
  | .error _ => exec (.illegalWord w) s

/-- An issuer's turn: it issues its next word, or does what its state has instead. -/
def issueMove (i : Issuer) (s : State) : Host.Outcome State Fault Refusal :=
  match s.turn i with
  | .word w => runWord i w s
  | .pastEnd pc => .next (s.fetchPastEnd i pc)
  | .report h => exec (.deferredTrap h 0) s
  | .waits h => exec (.hartWaitEnds h) s
  | .ends h e => .next (s.endProgram h e)
  | .idle => .next s

/-- An operation that issued earlier goes on, or is performed, when what it waits for has been; one under a broken import has no effect
(R244, R248). -/
def performMove (id : Nat) (s : State) : Host.Outcome State Fault Refusal :=
  match (s.opAt id).bind s.drive with
  | some t => .next t
  | none =>
    match s.lateAt id with
    | .waits => .next s
    | .broken o x => .next (s.dropLate o x)
    | .ready o x => runWord (.late o.issuer.owner id) x.word s

/-- The lanes take the word at the head of a hart's vector instruction queue (R111). -/
def lanesMove (h : HartId) (s : State) : Host.Outcome State Fault Refusal :=
  match s.laneHead h with
  | none => .next s
  | some e =>
    match e.work with
    | .access id | .tile id => .next (s.laneHands h id)
    | _ =>
      match runWord (.queued h) e.word (s.laneState h e) with
      | .next t => .next (s.laneDone t h e)
      | r => r

/-- The outcome of a move in which something is left for later, or what is done is bounded, without that mark. -/
def unmarked (r : Host.Outcome State Fault Refusal) : Host.Outcome State Fault Refusal :=
  match r with
  | .next t => .next { t with late := false, steps := none }
  | r => r

/-- The outcome of a move with what it leaves changed. -/
def after (f : State → State) (r : Host.Outcome State Fault Refusal) : Host.Outcome State Fault Refusal :=
  match r with
  | .next t => .next (f t)
  | r => r

/-- A move made on what the one that makes it sees. An event of the agenda is a row that no issuer issues. -/
def makeMove (m : Move) (s : State) : Host.Outcome State Fault Refusal :=
  match m with
  | .issue i => issueMove i s
  | .issueLate i => unmarked (issueMove i { s with late := true })
  | .perform id => performMove id s
  | .lanes h => lanesMove h s
  | .event x => if x.isWord || isIllegal x then .fault .notAnEvent else exec x s
  | .peerImport c chip v => .next (s.peerImports c chip v)
  | .reveal id h word => .next (s.reveal id h word)
  | .elapse n => .next { s with cycle := s.cycle + n }
  | .bounded _ _ | .hiding _ _ _ => .next s

/-- A move made, in the view of the one that makes it. (log entry 1: DESIGN CHOICE; log entry 66: DESIGN CHOICE.) -/
def move (m : Move) (s : State) : Host.Outcome State Fault Refusal :=
  match m with
  | .bounded n m => unmarked (move m { s with steps := some n })
  | .hiding words groups m => after (fun t => s.hide t m words groups) (unmarked (move m { s with late := m.op?.isSome }))
  | m => after (fun t => s.unviewed t m) (makeMove m (s.viewed m))

/-- Moves that an operation in flight may be ready for. -/
def opMoves (o : Op) : List Instr :=
  match o.kind with
  | .publish _ => [.rpubPerformed o.id]
  | .sealRun _ => [.rsealPerformed o.id]
  | .freeRun _ => [.rfreePerformed o.id]
  | .copyIn _ _ | .copyOut _ _ | .copyRun _ _ | .fill _ _ =>
    [.copyPerformed o.id, .copyComplete o.id, .extentResume o.id]
  | .osld _ _ => [.copyPerformed o.id, .osldPerformed o.id]
  | .append _ _ => [.extentResume o.id]
  | .job _ => [.mergeJobStart o.id, .mergeJobComplete o.id, .mergeJobStop o.id, .extentResume o.id]
  | .nmc _ _ _ => [.nmcJobRun o.id]
  | .scan _ _ => [.scanRun o.id, .extentResume o.id]
  | .send _ _ => [.copyPerformed o.id, .extentResume o.id]
  | _ => []

/-- Whether an operation goes on, or is performed, by a move of its own. -/
def Op.performs (o : Op) : Bool :=
  o.phase == .writing || o.phase == .replay || (match o.kind with
    | .late _ | .append _ _ | .patStore _ _ => true
    | _ => false)

/-- Moves of a hart, its strands and its sequencers. -/
def hartMoves (s : State) (p : Nat × Hart) : List Move :=
  let h := hartOfKey p.1
  let x := p.2
  let own := match x.state with
    | .run => if x.stalled.isSome then [.event (.streamStallEnd h), .issue (.hart h)] else [.issue (.hart h)]
    | .wait => [.issue (.hart h), .event (.wfeTimeout h)]
    | .suspended | .saved =>
      if x.trapHeld then
        .event (.kennelResumeHart h) ::
          (if x.kennelKills then [.event (.kennelKillGroup (s.groupAt h.group).ctx (.bound h.group) (some h))] else [])
      else []
    | _ => []
  let seqs := (if x.tileProg.isSome then [Move.issue (.seq h .tile)] else []) ++
    (if x.streamProg.isSome then [Move.issue (.seq h .stream)] else []) ++
    (if (x.prog .tile).suspended || (x.prog .stream).suspended then [.event (.kennelResumeHart h)] else [])
  (if x.lanes.isEmpty then [] else [.lanes h]) ++ own ++ seqs ++ (x.strands.filter Strand.running).map (fun t => .issue (.strand h t.lane))

/-- Moves of a core: the semaphores that harts wait on, and the end of its tile engine's ramp. -/
def coreMoves (p : Nat × Core) : List Move :=
  p.2.waiters.map (fun w => .event (.semaphoreGrant p.1 w.sem)) ++ (if p.2.tile.ramp then [.event (.tileRampEnd p.1)] else [])

/-- Moves of a group: its harts' start, the end of a pre-emption's grace, the end of a save, its resumption, and its end. -/
def groupMoves (p : Nat × Group) : List Move :=
  match p.2.state with
  | .run =>
    (if p.2.request then [.event (.preemptGraceExpiry p.1)] else []) ++
      (List.range p.2.cores.length).filterMap (fun r =>
        if p.2.started.contains r then none else some (.event (.hartStart p.1 r)))
  | .saved => [.event (.groupResume p.1)]
  | .saving => [.event (.saveComplete p.1)]
  | .exiting => [.event (.groupExitComplete p.1)]
  | _ => []

/-- Kennel's binding of a queue's next group where no record offers one, on the lowest cores that are open. -/
def State.kennelBinds (s : State) (c q : Nat) : List Move :=
  match ((s.ctxAt c).queue? q).bind Queue.binding? with
  | none => []
  | some k =>
    (List.range Config.dies).filterMap (fun d =>
      let cores := (s.open_ c q d k).take (launchCores k.words)
      if cores.length = launchCores k.words then some (.event (.kennelBindGroup c q d cores)) else none)

/-- Moves of a context: launches that become eligible, groups that Kennel binds, and the end of its clearing. -/
def State.ctxMoves (s : State) (p : Nat × Ctx) : List Move :=
  p.2.queues.flatMap (fun q => if q.2.held = 0 then [] else .event (.launchEligible p.1 q.1) :: s.kennelBinds p.1 q.1) ++
    (if p.2.state = .resetting then [.event (.clearingComplete p.1)] else [])

/-- Moves of dispatch on a die: its standing bind records. -/
def dieMoves (p : Nat × Die) : List Move := p.2.slots.map (fun r => .event (.groupBind p.1 r.1))

/-- The moves that the chip may be ready to make by itself: nothing that the outside world decides.
(log entry 3: DESIGN CHOICE.) -/
def State.moves (s : State) : List Move :=
  s.hidden.map (fun x => .reveal x.op x.hart (x.key / ((s.opAt x.op).map Op.grain).getD 4)) ++
    (s.ops.filter Op.performs).map (fun o => .perform o.id) ++ (s.ops.flatMap opMoves).map Move.event ++
    s.harts.flatMap (hartMoves s) ++ s.cores.flatMap coreMoves ++ s.groups.flatMap groupMoves ++
    (s.dies.toList.zipIdx.map (fun p => (p.2, p.1))).flatMap dieMoves ++
    s.ctxs.flatMap s.ctxMoves ++
    (s.vfs.filter (fun (p : Nat × VFunc) => p.2.busy)).map (fun (p : Nat × VFunc) => .event (.commandDone p.1))

/-- Whose turn it is when the agenda is empty: the moves come round with the cycles. (log entry 3: DESIGN CHOICE.) -/
def State.nextMove (s : State) : Option Move := s.moves[s.cycle % s.moves.length]?

/-- One step: one move, in one cycle. (log entry 1: DESIGN CHOICE; log entry 2: DESIGN CHOICE.) -/
def step (s : State) : Host.Outcome State Fault Refusal :=
  match s.agenda with
  | m :: rest => move m { s with agenda := rest, cycle := s.cycle + 1 }
  | [] =>
    match s.nextMove with
    | some m => move m { s with cycle := s.cycle + 1 }
    | none => .next { s with cycle := s.cycle + 1 }

/-- The instruction stored where the next step fetches: the program is placed by `State.loaded`. Its bits above `nbits` are
zero; every instruction is one word. (log entry 4: DESIGN CHOICE.) -/
def State.withFetchWord (s : State) (nbits w : Nat) : State := s.loaded (BitVec.ofNat 32 (w % 2 ^ nbits))

end Sys2Proof.Machine

end
end

