-- ==== Sys2Proof/Safety.lean ====
section
/-!
DEFINITION. The terms that claims use: the form of memory that every state is to keep, a step that goes on, and the
conditions on a state and its operands under which an instruction runs to its end.
-/

namespace Sys2Proof

open Machine

/-- The memory is in its canonical form, so that equal memories are equal data. -/
def Canonical (s : State) : Prop := Memory.wf s.mem = true

/-- A step that answers a next state: neither a fault nor a refusal. A trap of the spec is such a step. -/
def GoesOn (o : Host.Outcome State Fault Refusal) : Prop := ∃ t, o = .next t

/-- A run of `n` steps in which every step goes on. -/
def SafeRun : Nat → State → Prop
  | 0, _ => True
  | n + 1, s => ∃ t, step s = .next t ∧ SafeRun n t

/-- The issuer is a hart, not an engine sequencer, a strand or a USER combine (R42). -/
def ByHart (s : State) : Prop := ∃ h, s.cur = .hart h

/-- Scalar registers that an instruction may name: none is bound to a stream (R73, R113), none waits for its data (R85), and no word
in the vector instruction queue names one (R110). -/
def Named (s : State) (rs : List Reg) : Prop :=
  ∀ r ∈ rs, s.bindOf r.toNat = none ∧ bitOf s.me.pending r.toNat = false ∧
    s.me.lanes.all (fun e => !e.names.contains r.toNat) = true

/-- A handle register that names sequencer `q`, not a broken import's (R236, R244). -/
def Handle (s : State) (h : HReg) (q : Nat) : Prop :=
  vecGet none s.hregs h.toNat = some q ∧ (s.core.seqr q).broken = none

/-- Every operation that precedes the next one under sequencer `q` is performed (R247). -/
def Ordered (s : State) (q : Nat) : Prop := s.predsAt s.me.core q = []

/-- An operation under sequencer `q` is performed in the step that issues it: what precedes it is performed (R247), no access of the
hart to one of the 8-byte words `touch` waits (R84), the hart has nothing of another's still to see there (R249), and the move leaves
no access for later (R248). -/
def Prompt (s : State) (q : Nat) (touch : List Nat) : Prop :=
  Ordered s q ∧ s.touching s.cur.owner touch s.nextOp = false ∧
    (∀ x ∈ s.hidden, x.hart = s.cur.owner → touch.contains (x.key / 8) = false) ∧ s.late = false

/-- A hart whose vector set is there, with no register bound to a stream, none that waits for data, no word queued for the lanes, no
strand running, no other hart's replay on its core, no CLAIM that is to write vl, and no USER combine (R85, R111, R113, R143, R188,
R288). -/
def VectorReady (s : State) : Prop :=
  ByHart s ∧ s.me.vset.isSome = true ∧ s.binds = [] ∧ s.me.pending = 0 ∧ s.me.vpending = 0 ∧ s.me.strands = [] ∧
    s.userJob = false ∧ s.me.lanes = [] ∧ s.replaying s.me.core s.cur.owner = false ∧ s.vlPending = false

/-- A hart whose group holds its core's tile engine, which no program is forked on and which has executed every instruction before,
and a move that leaves no access for later (R200, R205, R206, R208). -/
def EngineFree (s : State) : Prop :=
  s.hasTile = true ∧ s.core.tile.forked = none ∧ (∀ rows, s.tileFree rows = true) ∧ s.late = false ∧ s.vlPending = false

/-- The element loop of R15 where no register is bound: elements vstart to n − 1 in rising order, those whose mask bit is 1
processed by `f`, and vstart 0 at the end (R112). (log entry 24: DEDUCED.) -/
def eachElement (s : State) (n w : Nat) (mk : MReg) (f : State → Nat → State) : State :=
  ((List.range' s.vstart (n - s.vstart)).foldl (fun t i => if t.maskBit mk.toNat i w then f t i else t) s).setVstart 0

/-- The bytes of an operand in space 0 at a multiple of 8, within the group's range, which nothing that the hart has issued is still
to write (R26, R84, R172, R251). -/
def Descriptor (s : State) (p : Word) (n : Nat) (bs : List Byte) : Prop :=
  let k := lsKey s.me.core (s.myBase + ptrOff p)
  ptrSpace p = 0 ∧ ptrOff p % 8 = 0 ∧ ptrOff p + n ≤ s.group.range ∧ bs = Memory.readBytes s.mem k n ∧
    (∀ o ∈ s.ops, o.issuer.owner = s.cur.owner → s.writesAt o k n = false) ∧
    s.touching s.cur.owner (touched k n) s.nextOp = false

/-- A move that bounds nothing of what is done and leaves nothing for later. -/
def Whole (s : State) : Prop := s.late = false ∧ s.steps = none

/-- A run of device memory that takes `n` records more from an operation, in one move and without a wait or a refusal: it is OPEN, its
extents have room within its part of memory, none of its lines is poisoned or past correction, and the channels accept the operation's
translation (R154, R158, R331, R334). -/
def Takes (s : State) (o : Op) (e n : Nat) : Prop :=
  let r := s.runAt o.ctx e
  Whole s ∧ r.state = .opened ∧ r.host = false ∧ 0 < r.size ∧ (r.len + n) * r.size ≤ r.capacity ∧ r.capacity ≤ 2 ^ 42 ∧
    (∀ line, s.lineBad o.ctx e line = false) ∧ ∀ off, s.stale o e off = false

/-- Records that a run holds more than it did, in their order after its last (R155). -/
def Appended (s t : State) (c e : Nat) (recs : List (List Byte)) : Prop :=
  (t.runAt c e).len = (s.runAt c e).len + recs.length ∧
    ∀ i < recs.length, t.record c e ((s.runAt c e).len + i) = recs.getD i []

/-- Every processed element of a vector access lies at a place of this chip and passes its checks (R26). -/
def AllHere (es : List VElem) : Prop :=
  ∀ e ∈ es, ∃ pl, e.at_ = .ok pl ∧ ∀ chip die core off, pl ≠ .remote chip die core off

/-- The byte at a memory key. -/
def byteAt (s : State) (k : Nat) : Byte := Memory.read s.mem k

end Sys2Proof
end

