-- ==== Sys2Proof/Certificates/Slice0/Obligations.lean ====
section
/-!
DEFINITION. The statements for the provers: every one says in its docstring which rule of the spec it comes from. A statement
of an instruction's result has as its conclusion the next state in which that result stands.
-/

open Sys2Proof Sys2Proof.Machine

/-! ## The machine as a whole -/

/-- When the bytes at the program counter of a running hart, with nothing reported or held, decode to an instruction, the
hart's turn executes that instruction, in the state in which the step has counted its cycle and taken the move, as the hart
sees it; where the move leaves accesses for later, with that mark for the length of the step. An instruction that has issued
and can be performed, and the word at the head of a vector instruction queue whose turn has come, are executed in the same way
as their moves say (log entry 21). A move that is bounded, or whose writes some observers see later, is the move made with
that bound or mark (log entry 1). What others' writes have left for the one that makes a move to see stays so after it (log
entry 1); where nothing has been left, it sees the state itself. -/
def Obligations.StepRunsTheDecodedInstruction : Prop :=
  ∀ (s : State) (h : HartId) (rest : List Move) (i : Instr),
    let t : State := { s with agenda := rest, cycle := s.cycle + 1 }
    (let m := Move.issue (.hart h)
     let x : State := { t.viewed m with cur := .hart h }
     let w := x.codeWord (x.hart h).pc.toNat
     (x.hart h).state = .run → (x.hart h).reports = [] → (x.hart h).stalled = none → (x.hart h).vqueue = [] →
       x.inCode (x.hart h).pc = true → decode w = .ok i →
       (s.agenda = m :: rest → step s = after (fun u => t.unviewed u m) (exec i { x with word := w })) ∧
       (s.agenda = .issueLate (.hart h) :: rest →
         step s = after (fun u => t.unviewed u m) (unmarked (exec i { x with word := w, late := true })))) ∧
    (∀ (id : Nat) (o : Op) (y : Late),
       let m := Move.perform id
       let x := t.viewed m
       s.agenda = m :: rest → x.lateAt id = .ready o y → decode y.word = .ok i →
         step s = after (fun u => t.unviewed u m) (exec i { x with cur := .late o.issuer.owner id, word := y.word })) ∧
    (∀ (e : Queued) (u : State),
       let m := Move.lanes h
       let x := t.viewed m
       s.agenda = m :: rest → x.laneHead h = some e → (e.work = .execute ∨ ∃ n, e.work = .bound n) → decode e.word = .ok i →
         exec i (x.laneState h e) = .next u → step s = .next (t.unviewed (x.laneDone u h e) m)) ∧
    (∀ (n : Nat) (m : Move), s.agenda = .bounded n m :: rest → step s = unmarked (move m { t with steps := some n })) ∧
    (∀ (words : List (HartId × Nat)) (groups : List (Reader × Nat × Nat)) (m : Move), s.agenda = .hiding words groups m :: rest →
       step s = after (fun u => t.hide u m words groups) (unmarked (move m { t with late := m.op?.isSome }))) ∧
    (∀ (m : Move) (u : State), s.hidden = [] → s.under = [] → t.viewed m = t ∧ t.unviewed u m = u)

/-- A few words written out from the encoding maps of R74, R76, R79, R83, R119, R161 and R238 decode to the instructions
that they stand for, and words with a nonzero unused field, an illegal mask field or an unlisted major to none (R40). -/
def Obligations.WordsDecodeToTheirInstructions : Prop :=
  decode (0b0000000000_00011_00010_00001_0000001#32) = .ok (.add 1 2 3) ∧
  decode (0b111111111111111_00010_00001_0000011#32) = .ok (.addi 1 2 0x7FFF) ∧
  decode (0b000000000000010_00011_00010_0001101#32) = .ok (.beq 2 3 2) ∧
  decode (0b0000000111_00001_00010_00001_0000010#32) = .error .unusedField ∧
  decode (0b00000001_011_0000_00010_00001_0011000#32) = .ok (.ld 1 2 1 3 0) ∧
  decode (0b000_00_00101_00011_00010_00001_0100010#32) = .ok (.vadd 1 2 3 0 5 2) ∧
  decode (0b010_00_00101_00011_00010_00001_0100000#32) = .ok (.vmul 1 2 3 0 5 0) ∧
  decode (0b00000100000_00110_1001_00000_1000000#32) = .ok (.rpub 6 9) ∧
  decode (0b000000_0000_00000_00101_0_1001_1100000#32) = .ok (.hnew 9 5) ∧
  decode (0b010_00_11000_00011_00010_00001_0100000#32) = .error .illegalField ∧
  decode (0b0000000000_00000_00000_00001_1111111#32) = .error .unlisted

/-- Decoding an encoded instruction gives it back, with every operand at every value that its encoding admits: no bit of an
encoding is dropped (R31, R32, R39). -/
def Obligations.DecodeOfEncode : Prop :=
  ∀ i : Instr, i.isWord = true → i.wf = true → decode (encode i) = .ok i

/-- The memory keeps its canonical form through every step, from every state that has it. -/
def Obligations.StepKeepsMemoryCanonical : Prop :=
  ∀ s t : State, Canonical s → step s = .next t → Canonical t

/-- R373, R261 and R368: right after reset the device reports ready with no step failed and no virtual function enabled; there
is no context, hart, group or operation; the stations are trained; every die has its page units, no bind record, no retired
channel, map generation 0 and the full rate; the power cap is 5.0 kW (R374).
A hart as it leaves BOUND is at P with zero scalars and latch, zero CSRs but for a vsew of 8, and its loops inactive (R70).
These values are the model's: the chip's number 0x3FF (log entry 6), the map generation and the full rate (log entry 8), the fields
of a core that nothing has written (log entry 7) and, of memory, the bytes of the host (log entry 5).

The memory right after reset has its canonical form and lists nothing. -/
def Obligations.ResetState : Prop :=
  ((State.reset.pf.ready = true ∧ State.reset.pf.status = 0 ∧ State.reset.pf.capMw = 5000000 ∧ State.reset.chipId = 0x3FF ∧
     (∀ vf, (State.reset.vfAt vf).enabled = false)) ∧
   (State.reset.ctxs = [] ∧ State.reset.harts = [] ∧ State.reset.groups = [] ∧ State.reset.ops = []) ∧
   (∀ st < 16, (vecGet Station.reset State.reset.stations st).state = .up) ∧
   (∀ d < 8, vecGet Die.reset State.reset.dies d = ⟨[], 142848, 0, [], [], 16, false⟩) ∧
   (∀ core, State.reset.coreAt core = Core.reset ∧ ∀ n < 64, (State.reset.coreAt core).sem n = 0) ∧
   (Hart.reset.priv = .p ∧ (∀ r < 32, vecGet 0 Hart.reset.sregs r = 0) ∧ Hart.reset.vl = 0 ∧ Hart.reset.vsew = 8 ∧
     Hart.reset.vstart = 0 ∧ Hart.reset.kstart = 0 ∧ Hart.reset.ffe = 0 ∧ Hart.reset.fflags = 0 ∧ Hart.reset.frm = 0 ∧
     Hart.reset.nbedge = 0 ∧ Hart.reset.vdirty = 0 ∧ Hart.reset.tcause = 0 ∧ Hart.reset.tpc = 0 ∧ Hart.reset.tval = 0 ∧
     Hart.reset.tstart = 0 ∧ Hart.reset.latch = 0 ∧ Hart.reset.barRec = none ∧
     ∀ c < 8, vecGet LoopCtr.reset Hart.reset.loops c = ⟨0, 0, false⟩)) ∧
  (Canonical State.reset ∧ ∀ k, byteAt State.reset k = 0)

/-- Every instruction word and every event answers a next state in every state: none stops the machine (R93, R95). -/
def Obligations.EveryInstructionGoesOn : Prop :=
  ∀ (i : Instr) (s : State), GoesOn (exec i s)

/-! ## Scalar instructions and control transfer -/

/-- R74: each instruction of major 0x01 runs to its end on any issuing hart whose named scalars are free, writes d with the
value of the table, and goes to the next word; its word is fn10, s2, s1 and d in the places of the map, over the major.

R75, products, quotients and remainders: the product of the integers that the words stand for, its high half, and the
quotient truncated toward zero with its remainder; a zero divisor and −2⁶³ / −1 give what the table says.

R75, the unary functions: leading and trailing zero bits (64 for zero), the number of one bits, and the bits in reverse
order.

R76: the immediate instructions write d as their table gives. -/
def Obligations.ScalarArithmetic : Prop :=
  (∀ (d a b : Reg) (s : State), ByHart s → Named s [d, a, b] →
     let x := s.rs a
     let y := s.rs b
     let n := y.toNat % 64
     let done := fun (v : Word) => Host.Outcome.next (φ := Fault) (ρ := Refusal) (s.setRs d v).retire
     (∀ (f : Nat) (i : Instr), (f, i) ∈ [
         (0, .add d a b), (1, .sub d a b), (2, .and d a b), (3, .or d a b), (4, .xor d a b), (5, .andn d a b),
         (6, .sll d a b), (7, .srl d a b), (8, .sra d a b), (9, .rol d a b), (10, .ror d a b), (11, .slt d a b),
         (12, .sltn d a b), (13, .min d a b), (14, .max d a b), (15, .minn d a b), (16, .maxn d a b)] →
       decode (BitVec.ofNat 10 f ++ b ++ a ++ d ++ 0x01#7 : BitVec 32) = .ok i) ∧
     exec (.add d a b) s = done (x + y) ∧
     exec (.sub d a b) s = done (x - y) ∧
     exec (.and d a b) s = done (x &&& y) ∧
     exec (.or d a b) s = done (x ||| y) ∧
     exec (.xor d a b) s = done (x ^^^ y) ∧
     exec (.andn d a b) s = done (x &&& ~~~y) ∧
     exec (.sll d a b) s = done (x <<< n) ∧
     exec (.srl d a b) s = done (x >>> n) ∧
     exec (.sra d a b) s = done (x.sshiftRight n) ∧
     exec (.rol d a b) s = done (x.rotateLeft n) ∧
     exec (.ror d a b) s = done (x.rotateRight n) ∧
     exec (.slt d a b) s = done (if x.toInt < y.toInt then 1 else 0) ∧
     exec (.sltn d a b) s = done (if x.toNat < y.toNat then 1 else 0) ∧
     exec (.min d a b) s = done (if x.toInt ≤ y.toInt then x else y) ∧
     exec (.max d a b) s = done (if x.toInt ≤ y.toInt then y else x) ∧
     exec (.minn d a b) s = done (if x.toNat ≤ y.toNat then x else y) ∧
     exec (.maxn d a b) s = done (if x.toNat ≤ y.toNat then y else x)) ∧
  (∀ (d a b : Reg) (s : State), ByHart s → Named s [d, a, b] →
     let x := s.rs a
     let y := s.rs b
     let done := fun (v : Word) => Host.Outcome.next (φ := Fault) (ρ := Refusal) (s.setRs d v).retire
     (∀ (f : Nat) (i : Instr), (f, i) ∈ [
         (0, .mul d a b), (1, .mulh d a b), (2, .mulhn d a b), (3, .div d a b), (4, .divn d a b), (5, .rem d a b),
         (6, .remn d a b)] →
       decode (BitVec.ofNat 10 f ++ b ++ a ++ d ++ 0x02#7 : BitVec 32) = .ok i) ∧
     exec (.mul d a b) s = done (BitVec.ofNat 64 (x.toNat * y.toNat)) ∧
     exec (.mulh d a b) s = done (BitVec.ofInt 64 (x.toInt * y.toInt / 2 ^ 64)) ∧
     exec (.mulhn d a b) s = done (BitVec.ofNat 64 (x.toNat * y.toNat / 2 ^ 64)) ∧
     (∃ q, exec (.div d a b) s = done q ∧
       (y = 0 → q = BitVec.allOnes 64) ∧
       (x = BitVec.intMin 64 ∧ y = BitVec.allOnes 64 → q = BitVec.intMin 64) ∧
       (y ≠ 0 ∧ ¬(x = BitVec.intMin 64 ∧ y = BitVec.allOnes 64) → q.toInt = x.toInt.tdiv y.toInt)) ∧
     (∃ q, exec (.divn d a b) s = done q ∧
       (y = 0 → q = BitVec.allOnes 64) ∧ (y ≠ 0 → q.toNat = x.toNat / y.toNat)) ∧
     (∃ r, exec (.rem d a b) s = done r ∧
       (y = 0 → r = x) ∧ (x = BitVec.intMin 64 ∧ y = BitVec.allOnes 64 → r = 0) ∧
       (y ≠ 0 → r.toInt = x.toInt - y.toInt * x.toInt.tdiv y.toInt)) ∧
     (∃ r, exec (.remn d a b) s = done r ∧
       (y = 0 → r = x) ∧ (y ≠ 0 → r.toNat = x.toNat % y.toNat))) ∧
  (∀ (d a : Reg) (s : State), ByHart s → Named s [d, a] →
     let x := s.rs a
     let done := fun (v : Word) => Host.Outcome.next (φ := Fault) (ρ := Refusal) (s.setRs d v).retire
     (∀ (f : Nat) (i : Instr), (f, i) ∈ [(7, .clz d a), (8, .ctz d a), (9, .popc d a), (10, .brev d a)] →
       decode (BitVec.ofNat 10 f ++ 0#5 ++ a ++ d ++ 0x02#7 : BitVec 32) = .ok i) ∧
     (∃ n ≤ 64, exec (.clz d a) s = done (BitVec.ofNat 64 n) ∧ (∀ k, 64 - n ≤ k → k < 64 → x.getLsbD k = false) ∧
       (n < 64 → x.getLsbD (63 - n) = true)) ∧
     (∃ n ≤ 64, exec (.ctz d a) s = done (BitVec.ofNat 64 n) ∧ (∀ k < n, x.getLsbD k = false) ∧
       (n < 64 → x.getLsbD n = true)) ∧
     exec (.popc d a) s = done (BitVec.ofNat 64 ((List.range 64).filter (fun k => x.getLsbD k)).length) ∧
     (∃ v : Word, exec (.brev d a) s = done v ∧ ∀ k < 64, v.getLsbD (63 - k) = x.getLsbD k)) ∧
  (∀ (d a : Reg) (i : BitVec 15) (n : BitVec 6) (s : State), ByHart s → Named s [d, a] →
     let x := s.rs a
     let imm := i.signExtend 64
     let done := fun (v : Word) => Host.Outcome.next (φ := Fault) (ρ := Refusal) (s.setRs d v).retire
     (∀ (f : Nat) (j : Instr), (f, j) ∈ [(3, .addi d a i), (4, .andi d a i), (5, .ori d a i), (6, .xori d a i),
         (10, .slti d a i)] → decode (i ++ a ++ d ++ BitVec.ofNat 7 f : BitVec 32) = .ok j) ∧
     (∀ (f : Nat) (j : Instr), (f, j) ∈ [(7, .slli d a n), (8, .srli d a n), (9, .srai d a n)] →
       decode (0#9 ++ n ++ a ++ d ++ BitVec.ofNat 7 f : BitVec 32) = .ok j) ∧
     exec (.addi d a i) s = done (x + imm) ∧
     exec (.andi d a i) s = done (x &&& imm) ∧
     exec (.ori d a i) s = done (x ||| imm) ∧
     exec (.xori d a i) s = done (x ^^^ imm) ∧
     exec (.slli d a n) s = done (x <<< n.toNat) ∧
     exec (.srli d a n) s = done (x >>> n.toNat) ∧
     exec (.srai d a n) s = done (x.sshiftRight n.toNat) ∧
     exec (.slti d a i) s = done (if x.toInt < imm.toInt then 1 else 0))

/-- R73, where a result goes: s0 reads as zero and discards a write; any other d reads as written and every other scalar as
before; going to the next word, from the code area, moves the PC by 4 and nothing else of the hart.

The frame of the register instructions (R73): an instruction of majors 0x01–0x0C or an RDCYC that goes on leaves every
scalar but d, the flags and every other CSR, the bindings and the handles of its hart, every other hart, every core, every
byte of memory and everything in flight as they were. -/
def Obligations.ScalarFrame : Prop :=
  (∀ (s : State) (d r : Reg) (x : Word), ByHart s →
     (s.setRs d x).rs 0 = 0 ∧
     s.setRs 0 x = s ∧
     (d ≠ 0 → (s.setRs d x).rs r = if r = d then x else s.rs r) ∧
     (s.me.vqueue = [] → s.retire = s.setMe { s.me with pc := s.me.pc + 4 })) ∧
  (∀ (s t : State) (d a b : Reg) (n : BitVec 15) (k : BitVec 6) (u : BitVec 20) (i : Instr),
     i ∈ [.add d a b, .sub d a b, .and d a b, .or d a b, .xor d a b, .andn d a b, .sll d a b, .srl d a b, .sra d a b,
       .rol d a b, .ror d a b, .slt d a b, .sltn d a b, .min d a b, .max d a b, .minn d a b, .maxn d a b, .mul d a b,
       .mulh d a b, .mulhn d a b, .div d a b, .divn d a b, .rem d a b, .remn d a b, .clz d a, .ctz d a, .popc d a,
       .brev d a, .addi d a n, .andi d a n, .ori d a n, .xori d a n, .slli d a k, .srli d a k, .srai d a k, .slti d a n,
       .lui d u, .auipc d u, .rdcyc d] →
     ByHart s → Named s [d, a, b] → exec i s = .next t →
     (∀ k, byteAt t k = byteAt s k) ∧ t.cores = s.cores ∧ t.groups = s.groups ∧ t.ctxs = s.ctxs ∧ t.ops = s.ops ∧
     (∀ h, h.key ≠ s.cur.owner.key → t.hart h = s.hart h) ∧
     (∀ r, r ≠ d → t.rs r = s.rs r) ∧
     (∀ c, t.me.csr c = s.me.csr c) ∧
     t.me.priv = s.me.priv ∧ t.me.state = s.me.state ∧ t.me.hregs = s.me.hregs ∧ t.me.loops = s.me.loops ∧
     t.me.latch = s.me.latch ∧ t.me.reports = s.me.reports ∧ t.binds = s.binds)

/-- R79 and R78: a branch whose comparison holds goes to PC + Sext(off15) × 4, which lies in the code area, and otherwise to
the next word; a taken branch whose target lies outside traps FETCH_BOUND with the target in tval. -/
def Obligations.Branches : Prop :=
  ∀ (a b : Reg) (o : BitVec 15) (s : State), ByHart s → Named s [a, b] →
    let x := s.rs a
    let y := s.rs b
    let dest := s.pc + o.signExtend 64 * 4
    ∀ (m : Nat) (i : Instr) (p : Prop),
      (m, i, p) ∈ [(0x0D, .beq a b o, x = y), (0x0E, .bne a b o, x ≠ y), (0x0F, .blt a b o, x.toInt < y.toInt),
        (0x10, .bge a b o, y.toInt ≤ x.toInt), (0x11, .bltn a b o, x.toNat < y.toNat),
        (0x12, .bgen a b o, y.toNat ≤ x.toNat)] →
      decode (o ++ b ++ a ++ BitVec.ofNat 7 m : BitVec 32) = .ok i ∧
      (¬p → exec i s = .next s.retire) ∧
      (p → dest.toNat + 4 ≤ s.codeSize → exec i s = .next (s.goto dest)) ∧
      (p → ¬(dest.toNat + 4 ≤ s.codeSize) → exec i s = .next (State.takeTrap s (.at .fetchBound dest) s))

/-- R80: JAL and JALR write d with PC + 4 and go to their target, which JALR takes from s1 before d is written; JALR traps
MISALIGNED with the target where it is no multiple of 4; a target outside the code area traps FETCH_BOUND and the link
register is not written (R78).

R81: an index at or beyond n writes d with PC + 4 and goes to the next word; another jumps to the JTAB's address plus
the entry's signed offset, read at s2 + 4 × s1, when no operation of the hart is still to write the entry (R251).

R77: LUI writes d with its immediate's upper 20 bits, sign-extended, and AUIPC with its own address plus that. -/
def Obligations.JumpsAndTables : Prop :=
  (∀ (d : Reg) (u : BitVec 20) (s : State), ByHart s → Named s [d] →
     let upper : Word := (u ++ (0 : BitVec 12)).signExtend 64
     decode (u ++ d ++ 0x0B#7 : BitVec 32) = .ok (.lui d u) ∧ decode (u ++ d ++ 0x0C#7 : BitVec 32) = .ok (.auipc d u) ∧
     exec (.lui d u) s = .next (s.setRs d upper).retire ∧ exec (.auipc d u) s = .next (s.setRs d (s.pc + upper)).retire) ∧
  (∀ (d a : Reg) (o : BitVec 20) (i : BitVec 15) (s : State), ByHart s → Named s [d, a] →
     let t := s.pc + o.signExtend 64 * 4
     let u := s.rs a + i.signExtend 64
     (t.toNat + 4 ≤ s.codeSize → exec (.jal d o) s = .next ((s.setRs d (s.pc + 4)).goto t)) ∧
     (¬(t.toNat + 4 ≤ s.codeSize) → exec (.jal d o) s = .next (State.takeTrap s (.at .fetchBound t) s)) ∧
     (u.toNat % 4 = 0 → u.toNat + 4 ≤ s.codeSize → exec (.jalr d a i) s = .next ((s.setRs d (s.pc + 4)).goto u)) ∧
     (u.toNat % 4 = 0 → ¬(u.toNat + 4 ≤ s.codeSize) →
       exec (.jalr d a i) s = .next (State.takeTrap s (.at .fetchBound u) s)) ∧
     (u.toNat % 4 ≠ 0 → exec (.jalr d a i) s = .next (State.takeTrap s (.at .misaligned u) s))) ∧
  (∀ (d a b : Reg) (n : BitVec 10) (s : State), ByHart s → Named s [d, a, b] →
     let k := (s.rs a).toNat
     (n.toNat ≤ k → exec (.jtab d a b n) s = .next (s.setRs d (s.pc + 4)).retire) ∧
     (∀ pl, k < n.toNat → place s .table 4 4 (s.rs b + BitVec.ofNat 64 (4 * k)) = .ok pl →
       s.ops.any (fun o => o.issuer.owner == s.cur.owner && s.writesAt o pl.key 4) = false →
       s.touching s.cur.owner (pl.touch 4) s.nextOp = false →
       let t := s.pc + (BitVec.ofNat 32 (s.loadAt pl 4)).signExtend 64
       t.toNat % 4 = 0 → t.toNat + 4 ≤ s.codeSize →
       exec (.jtab d a b n) s = .next ((s.setRs d (s.pc + 4)).goto t)) ∧
     (ptrSpace (s.rs b + BitVec.ofNat 64 (4 * k)) ∈ [2, 3, 5, 6, 7, 8, 9, 10, 11, 12, 13, 14, 15] → k < n.toNat →
       exec (.jtab d a b n) s =
         .next (State.takeTrap s (.at .badSpace (s.rs b + BitVec.ofNat 64 (4 * k))) s)))

/-- R91: LOOP with a nonzero count arms its counter with the count, the next word as its start, and active; with a zero count
it goes to the word after the next ENDLOOP that names the counter. ENDLOOP counts down and returns to the start, or ends the
loop at zero; an inactive counter does nothing.

R86: WAITC goes on when no more operations of a class are outstanding than its limit, where 31 is no limit; else the hart
waits.

R87 and R89: FORK of a stream program, a tile program or both at once starts each with the hart's scalars, handles, vl, vsew,
frm and nbedge, at its entry, once the hart's accesses to that engine have completed, for the stream sequencer all its copies
and sends (log entry 72); with both descriptors zero it starts none. RDV waits for both programs; where none is running it
goes on, and where one has ended, or both have, it frees their engines; where one has stopped it frees both and traps
ENGINE_STOP with the sequencer's own cause, PC, tval and position, whether there is no other or the other has ended, the
earlier stop's where both have stopped.

R92: RDCYC writes the cycles counted, which the model counts for the chip (log entry 2). -/
def Obligations.LoopsForksAndWaits : Prop :=
  (∀ (d : Reg) (s : State), ByHart s → Named s [d] →
     exec (.rdcyc d) s = .next (s.setRs d (BitVec.ofNat 64 s.cycle)).retire) ∧
  (∀ (a : Reg) (c : BitVec 5) (s : State), ByHart s → Named s [a] → c.toNat < 8 →
     let count := (s.rs a).setWidth 32
     let x := vecGet LoopCtr.reset s.loops c.toNat
     (count ≠ 0 → exec (.loop a c) s = .next (s.setLoop c.toNat ⟨count, s.pc + 4, true⟩).retire) ∧
     (∀ t, count = 0 → s.findEndloop c.toNat ((s.codeEnd - (s.pc + 4).toNat) / 4) (s.pc + 4).toNat = some t →
       exec (.loop a c) s = .next (s.goto (BitVec.ofNat 64 t))) ∧
     (x.active = false → exec (.endloop c) s = .next s.retire) ∧
     (x.active = true → x.count - 1 ≠ 0 →
       exec (.endloop c) s = .next ((s.setLoop c.toNat { x with count := x.count - 1 }).goto x.start)) ∧
     (x.active = true → x.count - 1 = 0 →
       exec (.endloop c) s = .next (s.setLoop c.toNat { x with count := 0, active := false }).retire)) ∧
  (∀ (ns nc nl nt : BitVec 5) (s : State), ByHart s →
     let met := fun (l : BitVec 5) (p : OpClass → Bool) => l = 31 ∨ s.outstanding s.cur.owner p ≤ l.toNat
     let all := met nl (fun c => c == .load || c == .both) ∧ met ns (fun c => c == .store || c == .both) ∧
       met nc (fun c => c == .copy) ∧ met nt (fun c => c == .tile)
     (all → exec (.waitc ns nc nl nt) s = .next s.retire) ∧
     (¬all → exec (.waitc ns nc nl nt) s = .next (s.setMe { s.me with state := .wait }))) ∧
  (∀ (a b : Reg) (s : State), ByHart s → Named s [a, b] → s.me.pending = 0 → s.me.vpending = 0 → s.me.lanes = [] →
     s.vlPending = false →
     let desc := fun (w : Word) (e n : Nat) =>
       w = BitVec.ofNat 64 (n * 2 ^ 32 + e) ∧ e < 2 ^ 32 ∧ 0 < n ∧ n < 2 ^ 16 ∧ e % 4 = 0 ∧ e + 4 * n ≤ s.codeSize
     let starts := fun (t : State) (p : SeqProg) (e n : Nat) =>
       p.entry = e ∧ p.words = n ∧ p.pc = e ∧ p.sregs = s.me.sregs ∧ p.hregs = s.me.hregs ∧ p.vl = s.me.vl ∧
         p.vsew = s.me.vsew ∧ p.frm = s.me.frm ∧ p.nbedge = s.me.nbedge ∧ p.ended = false ∧ p.stop = none ∧ p.vstart = 0 ∧
         p.kstart = 0 ∧ t.me.pc = s.me.retire.pc ∧ t.mem = s.mem
     (s.rs a = 0 → s.rs b = 0 → exec (.fork a b) s = .next s.retire) ∧
     (∀ e n : Nat, s.rs a = 0 → desc (s.rs b) e n → s.core.streamFork = none →
       (s.outstanding s.cur.owner (fun c => c == .copy) = 0 →
         ∃ t p, exec (.fork a b) s = .next t ∧ t.me.streamProg = some p ∧ t.me.tileProg = s.me.tileProg ∧ starts t p e n ∧
           t.core.streamFork = some s.cur.owner) ∧
       (s.outstanding s.cur.owner (fun c => c == .copy) ≠ 0 →
         exec (.fork a b) s = .next (s.setMe { s.me with state := .wait }))) ∧
     (∀ e n : Nat, desc (s.rs a) e n → s.rs b = 0 → s.hasTile = true → s.core.tile.forked = none →
       (s.outstanding s.cur.owner (fun c => c == .tile) = 0 → s.tileFree (List.range 1024) = true →
         ∃ t p, exec (.fork a b) s = .next t ∧ t.me.tileProg = some p ∧ t.me.streamProg = s.me.streamProg ∧ starts t p e n ∧
           t.core.tile.forked = some s.cur.owner) ∧
       (s.outstanding s.cur.owner (fun c => c == .tile) ≠ 0 →
         exec (.fork a b) s = .next (s.setMe { s.me with state := .wait }))) ∧
     (∀ e n k m : Nat, desc (s.rs a) e n → desc (s.rs b) k m → s.hasTile = true → s.core.tile.forked = none →
       s.core.streamFork = none →
       (s.outstanding s.cur.owner (fun c => c == .tile) = 0 → s.tileFree (List.range 1024) = true →
         s.outstanding s.cur.owner (fun c => c == .copy) = 0 →
         ∃ t p q, exec (.fork a b) s = .next t ∧ t.me.tileProg = some p ∧ t.me.streamProg = some q ∧ starts t p e n ∧
           starts t q k m ∧ t.core.tile.forked = some s.cur.owner ∧ t.core.streamFork = some s.cur.owner) ∧
       (s.outstanding s.cur.owner (fun c => c == .tile) ≠ 0 ∨ s.outstanding s.cur.owner (fun c => c == .copy) ≠ 0 →
         exec (.fork a b) s = .next (s.setMe { s.me with state := .wait })))) ∧
  (∀ s : State, ByHart s →
     (s.me.tileProg = none → s.me.streamProg = none → exec .rdv s = .next s.retire) ∧
     (∀ p, s.me.tileProg = none → s.me.streamProg = some p → p.ended = true → p.stop = none →
       ∃ t, exec .rdv s = .next t ∧ t.me.streamProg = none ∧ t.me.pc = s.me.retire.pc ∧ t.core.streamFork = none) ∧
     (∀ p, s.me.tileProg = some p → s.me.streamProg = none → p.ended = true → p.stop = none →
       ∃ t, exec .rdv s = .next t ∧ t.me.tileProg = none ∧ t.me.pc = s.me.retire.pc ∧ t.core.tile.forked = none) ∧
     (∀ p q, s.me.tileProg = some p → s.me.streamProg = some q → p.ended = true → q.ended = true → p.stop = none → q.stop = none →
       ∃ t, exec .rdv s = .next t ∧ t.me.tileProg = none ∧ t.me.streamProg = none ∧ t.me.pc = s.me.retire.pc ∧
         t.core.tile.forked = none ∧ t.core.streamFork = none) ∧
     (∀ p, s.me.streamProg = some p → p.ended = false → p.stop = none →
       exec .rdv s = .next (s.setMe { s.me with state := .wait })) ∧
     (∀ p, s.me.tileProg = some p → p.ended = false → p.stop = none →
       exec .rdv s = .next (s.setMe { s.me with state := .wait })) ∧
     (s.quiet s.cur.owner = true → s.me.vqueue = [] →
       let stops := fun (source : Nat) (i : StopInfo) =>
         ∃ t, exec .rdv s = .next t ∧ t.me.tileProg = none ∧ t.me.streamProg = none ∧ bitsOf t.me.tcause 0 8 = 14 ∧
           bitsOf t.me.tcause 8 8 = i.cause.code ∧ bitsOf t.me.tcause 16 3 = source ∧ bitsOf t.me.tcause 32 32 = i.pc.toNat ∧
           t.me.tval = i.tval ∧ bitsOf t.me.tstart 0 32 = i.vstart.toNat ∧ bitsOf t.me.tstart 32 32 = i.kstart.toNat ∧
           t.mem = s.mem
       (∀ p i, s.me.tileProg = none → s.me.streamProg = some p → p.stop = some i → p.suspended = false → stops 3 i) ∧
       (∀ p i, s.me.tileProg = some p → s.me.streamProg = none → p.stop = some i → p.suspended = false → stops 2 i) ∧
       (∀ p q i, s.me.tileProg = some p → s.me.streamProg = some q → p.stop = some i → p.suspended = false → q.ended = true →
         q.stop = none → stops 2 i) ∧
       (∀ p q i, s.me.tileProg = some p → s.me.streamProg = some q → q.stop = some i → q.suspended = false → p.ended = true →
         p.stop = none → stops 3 i) ∧
       (∀ p q i j, s.me.tileProg = some p → s.me.streamProg = some q → p.stop = some i → q.stop = some j →
         p.suspended = false → q.suspended = false → if p.stopAt ≤ q.stopAt then stops 2 i else stops 3 j)))

/-! ## Traps, returns and the system instructions -/

/-- R95, entry to S: a trap that a quiet hart at P takes, with no replay under way, in a group with a handler, writes tcause
with the code, zero for every other field, tpc with the instruction's own address, tval as given and tstart with vstart and
kstart, which keep their values; the level becomes S and the PC the handler's entry. R94: at S, without a handler, or for a
cause that R93 routes to F, the hart is SUSPENDED at its level instead. No register changes.

R95, step 1: while a load is pending, one to s0 too, or an earlier vector instruction has not completed, the trap is not
entered. That nothing of the instruction has happened until then is the model's choice (log entry 25).

A trap and the ERET that follows it give the hart back as it was, its trap CSRs apart: PC, level, vstart, kstart and every
scalar. -/
def Obligations.TrapEntry : Prop :=
  (∀ (c : Cause) (v : Word) (s : State), ByHart s → s.quiet s.cur.owner = true → s.me.vqueue = [] →
     s.me.pc.toNat < 2 ^ 21 →
     let t := State.takeTrap s (.at c v) s
     let x := t.me
     x.tpc = s.me.pc ∧ x.tval = v ∧
     x.tstart = s.me.kstart.setWidth 64 <<< 32 ||| s.me.vstart.setWidth 64 ∧
     x.tcause = BitVec.ofNat 64 (c.code + if s.me.priv = .s then 2 ^ 19 else 0) ∧
     x.vstart = s.me.vstart ∧ x.kstart = s.me.kstart ∧ x.sregs = s.me.sregs ∧ x.hregs = s.me.hregs ∧
     t.mem = s.mem ∧
     (∀ e, s.me.priv = .p → s.group.handler = some e → c ∉ [.extent, .poolEmpty, .machineCheck] →
       x.priv = .s ∧ x.pc = BitVec.ofNat 64 e ∧ x.state = .run) ∧
     (s.me.priv = .s ∨ s.group.handler = none ∨ c ∈ [.extent, .poolEmpty, .machineCheck] →
       x.priv = s.me.priv ∧ x.state = .suspended ∧ x.trapHeld = true)) ∧
  (∀ (t : TrapInfo) (s u : State), ByHart u → s.cur = u.cur →
     (s.me.pending ≠ 0 ∨ s.me.vpending ≠ 0 ∨ s.me.lanes ≠ [] ∨
       (∃ o ∈ s.ops, o.issuer.owner = s.cur.owner ∧ (o.kind.vector = true ∨ (o.issuer = s.cur ∧ o.loads = true)))) →
     State.takeTrap s t u = s) ∧
  (∀ (c : Cause) (v : Word) (s : State) (e : Nat), ByHart s → s.quiet s.cur.owner = true → s.me.vqueue = [] →
     s.me.pc.toNat < 2 ^ 21 → s.me.priv = .p → s.group.handler = some e → c ∉ [.extent, .poolEmpty, .machineCheck] →
     ∃ t, exec .eret (State.takeTrap s (.at c v) s) = .next t ∧
       t.me.pc = s.me.pc ∧ t.me.priv = s.me.priv ∧ t.me.vstart = s.me.vstart ∧ t.me.kstart = s.me.kstart ∧
       t.me.sregs = s.me.sregs ∧ t.me.vl = s.me.vl ∧ t.me.vsew = s.me.vsew ∧ t.me.fflags = s.me.fflags ∧ t.mem = s.mem)

/-- R100: TRAP, SYSC and BREAK take the traps of their causes with s1, s1 and 0 in tval; a word that is no instruction takes
ILLEGAL_INSTR with the word (R40). On a quiet hart at P, in a group with a handler, each writes its cause's code, its own address
and that value into the trap CSRs and enters the handler at S; at S, or without a handler, it leaves the hart SUSPENDED.

R42 and R43: a word that its issuer does not accept takes ILLEGAL_INSTR with the word in tval, before any other check: one in an
engine sequencer stops the sequencer, one in a strand the strand, with the word's own position; the words that each accepts are
those of R42's majors. -/
def Obligations.TrapInstructions : Prop :=
  (∀ (a : Reg) (w : IWord) (s : State), ByHart s → Named s [a] →
     exec (.trap a) s = .next (State.takeTrap s (.at .trapInstr (s.rs a)) s) ∧
     exec (.sysc a) s = .next (State.takeTrap s (.at .syscall (s.rs a)) s) ∧
     exec .brk s = .next (State.takeTrap s (.at .breakpoint 0) s) ∧
     exec (.illegalWord w) s = .next (State.takeTrap s (.at .illegalInstr (w.setWidth 64)) s)) ∧
  (∀ (a : Reg) (w : IWord) (i : Instr) (code : Nat) (v : Word) (s : State), ByHart s → Named s [a] →
     s.quiet s.cur.owner = true → s.me.vqueue = [] → s.me.pc.toNat < 2 ^ 21 →
     (i, code, v) ∈ [(Instr.trap a, 8, s.rs a), (.sysc a, 9, s.rs a), (.brk, 10, 0), (.illegalWord w, 1, w.setWidth 64)] →
     ∃ t, exec i s = .next t ∧ bitsOf t.me.tcause 0 8 = code ∧ t.me.tval = v ∧ t.me.tpc = s.me.pc ∧ t.me.sregs = s.me.sregs ∧
       t.mem = s.mem ∧
       (∀ e, s.me.priv = .p → s.group.handler = some e →
         t.me.priv = .s ∧ t.me.pc = BitVec.ofNat 64 e ∧ t.me.state = .run) ∧
       (s.me.priv = .s ∨ s.group.handler = none → t.me.priv = s.me.priv ∧ t.me.state = .suspended ∧ t.me.trapHeld = true)) ∧
  (∀ (x : IWord) (i : Instr) (s : State) (h : HartId), decode x = .ok i → s.word = x →
     let m := major x
     let order := m = 0x60 ∨ (m = 0x6C ∧ x.toNat / 2 ^ 26 < 2) ∨
       (m = 0x17 ∧ (x.toNat / 2 ^ 22 = 3 ∨ x.toNat / 2 ^ 22 = 4))
     (∀ e : Eng, s.cur = .seq h e →
       (¬(order ∨ (e = .tile ∧ 0x50 ≤ m ∧ m ≤ 0x59) ∨
         (e = .stream ∧ ((0x40 ≤ m ∧ m ≤ 0x46) ∨ m = 0x4C ∨ m = 0x4D ∨ m = 0x5A))) →
       ∃ t, exec i s = .next t ∧
         (t.me.prog e).stop = some ⟨.illegalInstr, x.setWidth 64, BitVec.ofNat 32 (s.me.prog e).pc, (s.me.prog e).vstart,
           (s.me.prog e).kstart⟩ ∧ t.mem = s.mem ∧ t.ops = s.ops)) ∧
     (∀ j : Nat, s.cur = .strand h j → s.me.vset.isSome = true → (∃ y ∈ s.me.strands, y.lane = j) →
       ¬((0x20 ≤ m ∧ m ≤ 0x35) ∨ m = 0x37 ∨ (m = 0x3C ∧ (x.toNat / 2 ^ 29 = 1 ∨ x.toNat / 2 ^ 29 = 2))) →
       ∃ t, exec i s = .next t ∧ (t.me.strand j).running = false ∧
         (t.me.strand j).stop = some ⟨.illegalInstr, x.setWidth 64, BitVec.ofNat 32 (s.me.strand j).pc.toNat,
           (s.me.strand j).vstart, 0⟩ ∧ t.mem = s.mem ∧ t.ops = s.ops))

/-- R97: ERET, the word of major 0x1C and fn10 1 with every register field zero, at S goes to tpc at the level of tcause.prior,
with vstart and kstart from tstart, and keeps the scalars, tpc, tcause and memory; at P it
traps PRIVILEGE. -/
def Obligations.ReturnFromTrap : Prop :=
  (∀ w : IWord, decode w = .ok .eret ↔ w = BitVec.ofNat 10 1 ++ 0#5 ++ 0#5 ++ 0#5 ++ 0x1C#7) ∧
  ∀ s : State, ByHart s →
    (s.me.priv = .s → ∃ t, exec .eret s = .next t ∧ t.me.pc = s.me.tpc ∧
      t.me.priv = (if s.me.tcause.getLsbD 19 then .s else .p) ∧ t.me.vstart = s.me.tstart.setWidth 12 ∧
      t.me.kstart = (s.me.tstart >>> 32).setWidth 32 ∧ t.me.sregs = s.me.sregs ∧ t.me.tpc = s.me.tpc ∧
      t.me.tcause = s.me.tcause ∧ t.mem = s.mem) ∧
    (s.me.priv = .p → exec .eret s = .next (State.takeTrap s (.at .privilege (s.word.setWidth 64)) s))

/-- R101 and R103: WFE with a latch that is not zero writes it to d and clears it; with a zero latch the hart waits, its
timeout s1 cycles off when s1 is not zero. HALTH, with no program, operation or strand of the hart left, ends its bindings,
retires the handles of h1–h15, of which none names a sequencer any more, and places it in HALTED without its vector set. -/
def Obligations.WaitingAndHalting : Prop :=
  ∀ (d a : Reg) (s : State), ByHart s → Named s [d, a] →
    (s.me.latch ≠ 0 → exec (.wfe d a) s =
      .next (((s.setMe { s.me with latch := 0, wfeAt := none }).setRs d (s.me.latch.setWidth 64)).retire)) ∧
    (s.me.latch = 0 → s.me.wfeAt = none → exec (.wfe d a) s =
      .next (s.setMe { s.me with
        state := .wait
        wfeAt := if s.rs a = 0 then none else some (s.cycle + (s.rs a).toNat) })) ∧
    (s.me.tileProg = none → s.me.streamProg = none → s.me.strands = [] → s.me.lanes = [] →
      (∀ o ∈ s.ops, o.issuer.owner ≠ s.cur.owner) →
      ∃ t, exec .halth s = .next t ∧ (t.hart s.cur.owner).state = .halted ∧ (t.hart s.cur.owner).vset = none ∧
        ∀ k, 1 ≤ k → k < 16 → vecGet none (t.hart s.cur.owner).hregs k = none ∧
          ∀ q, vecGet none s.me.hregs k = some q → q < 64 → (s.core.seqr q).refs ≤ 1 →
            ((t.coreAt s.me.core).seqr q).state ∈ [.retiring, .free])

/-- R38, R104: CSRR writes d with the CSR; CSRW, CSRSET and CSRCLR write a CSR that may be written with s1, with the union
and with what s1 does not clear, of which the CSR keeps the bits that its layout has (R55, R105, R108). No access waits here:
no vector instruction of the hart is queued or in flight.

R38: at P an access to a trap CSR traps PRIVILEGE, and a write of vdirty, or of a CSR that may only be read,
ILLEGAL_INSTR; nothing is written. -/
def Obligations.ControlRegisters : Prop :=
  (∀ (d : Reg) (s : State), ByHart s → Named s [d] → s.ops = [] → s.me.lanes = [] →
     (∀ c : BitVec 12, (c.toNat ∈ [1, 2, 3, 4, 5, 6, 7, 8, 9, 0x10, 0x11, 0x12, 0x13] ∨
         (c.toNat ∈ [0x100, 0x101, 0x102, 0x103] ∧ s.me.priv = .s)) →
       exec (.csrr d c) s = .next (s.setRs d (s.me.csr c)).retire) ∧
     (∀ c : BitVec 12, (c.toNat ∈ [3, 4, 5, 6, 7, 8] ∨ (c.toNat ∈ [9, 0x100, 0x101, 0x102, 0x103] ∧ s.me.priv = .s)) →
       exec (.csrw d c) s = .next (s.setMe (s.me.setCsr c (s.rs d))).retire ∧
       exec (.csrset d c) s = .next (s.setMe (s.me.setCsr c (s.me.csr c ||| s.rs d))).retire ∧
       exec (.csrclr d c) s = .next (s.setMe (s.me.setCsr c (s.me.csr c &&& ~~~s.rs d))).retire) ∧
     (∀ (h : Hart) (x : Word),
       (h.setCsr 3 x).csr 3 = x &&& 0xFFF ∧ (h.setCsr 4 x).csr 4 = x &&& 0xFFFF_FFFF ∧
       (h.setCsr 5 x).csr 5 = x &&& 0x8000_0000_00FF_0FFF ∧ (h.setCsr 6 x).csr 6 = x &&& 0x1F ∧
       (h.setCsr 7 x).csr 7 = x &&& 3 ∧
       (∀ k ∈ [0, 2], bitsOf ((h.setCsr 8 x).csr 8) k 2 = if bitsOf x k 2 = 3 then bitsOf h.nbedge k 2 else bitsOf x k 2) ∧
       (h.setCsr 0x100 x).csr 0x100 = x &&& 0xFFFF_FFFF_03FF_FFFF ∧ (h.setCsr 9 x).csr 9 = x &&& 0x00FF_FFFE_FFFF_FFFE ∧
       (h.setCsr 0x101 x).csr 0x101 = x &&& 0x1F_FFFF ∧ (h.setCsr 0x102 x).csr 0x102 = x ∧
       (h.setCsr 0x103 x).csr 0x103 = x)) ∧
  (∀ (d : Reg) (c : BitVec 12) (s : State), ByHart s → Named s [d] →
     let privileged := Host.Outcome.next (φ := Fault) (ρ := Refusal)
       (State.takeTrap s (.at .privilege (s.word.setWidth 64)) s)
     let illegal := Host.Outcome.next (φ := Fault) (ρ := Refusal)
       (State.takeTrap s (.at .illegalInstr (s.word.setWidth 64)) s)
     (c.toNat ∈ [0x100, 0x101, 0x102, 0x103] → s.me.priv = .p →
       exec (.csrr d c) s = privileged ∧ exec (.csrw d c) s = privileged ∧ exec (.csrset d c) s = privileged ∧
       exec (.csrclr d c) s = privileged) ∧
     (c.toNat ∈ [1, 2, 0x10, 0x11, 0x12, 0x13] ∨ (c.toNat = 9 ∧ s.me.priv = .p) →
       exec (.csrw d c) s = illegal ∧ exec (.csrset d c) s = illegal ∧ exec (.csrclr d c) s = illegal))

/-! ## Scalar memory -/

/-- R83: a load from a place of this chip writes d with the bytes there, extended as its type says; a store writes the low
bytes of d there; both under a handle whose earlier operations are performed.

R84, R85, R247, R248 and R249: where what precedes a load or a store is not performed for every observer within the scope of
its handle, an earlier access of the hart to its 8-byte words is not performed, a store's hart has still to see a write there,
or the move leaves it for later, the hart goes on past it, a load's d is pending, the access is in flight under its handle
behind what precedes it, and memory is as it was; when a load is performed, at a pointer that its base held when it issued, d
receives the bytes and is pending no more, and the load has left or, where the move leaves something for later, stays in
flight for the observers still to come (log entries 1 and 21).

R256 and R257: an atomic at a place of this chip writes F(old, s2) there and d with the old value, sign-extended: a sum, the
three bitwise operations, the signed and unsigned minimum and maximum, the exchange, and the exchange when the old value
equals d's. -/
def Obligations.ScalarMemory : Prop :=
  (∀ (d b : Reg) (i : BitVec 8) (w : BitVec 3) (h : HReg) (q : Nat) (s : State) (pl : Place), ByHart s → Named s [d, b] →
     Handle s h q → (∀ chip die core off, pl ≠ .remote chip die core off) →
     let n := 2 ^ (w.toNat % 4)
     let p := s.rs b + i.signExtend 64 * BitVec.ofNat 64 n
     (Prompt s q (pl.touch n) →
       (place s .load n n p = .ok pl →
         exec (.ld d b i w h) s = .next (s.setRs d
           (if w.toNat < 4 then BitVec.ofInt 64 (sextNat (s.loadAt pl n) (8 * n))
            else BitVec.ofNat 64 (s.loadAt pl n % 2 ^ (8 * n)))).retire) ∧
       (place s .store n n p = .ok pl →
         exec (.st d b i w h) s = .next (s.storeAt pl n ((s.rs d).toNat % 2 ^ (8 * n))).retire)) ∧
     (let held := s.late = true ∨ s.touching s.cur.owner (pl.touch n) s.nextOp = true ∨
         ∃ id ∈ s.predsAt s.me.core q, s.holds s.cur.owner (s.scopeOf s.cur.owner q) id = true
       let behind := ∃ x ∈ s.hidden, x.hart = s.cur.owner ∧ (pl.touch n).contains (x.key / 8) = true ∧ s.alive x.op = true
       let waits := fun (t : State) => (∃ o, t.ops = s.ops ++ [o] ∧ o.entered = q ∧ o.preds = s.predsAt s.me.core q ∧
           o.issuer = s.cur) ∧ t.me.pc = s.me.retire.pc ∧ t.me.sregs = s.me.sregs ∧ t.mem = s.mem
       (held → place s .load n n p = .ok pl →
         ∃ t, exec (.ld d b i w h) s = .next t ∧ waits t ∧ (d ≠ 0 → bitOf t.me.pending d.toNat = true)) ∧
       (held ∨ behind → place s .store n n p = .ok pl →
         ∃ t, exec (.st d b i w h) s = .next t ∧ waits t ∧ t.me.pending = s.me.pending))) ∧
  (∀ (d b : Reg) (i : BitVec 8) (w : BitVec 3) (h : HReg) (k : HartId) (id : Nat) (o : Op) (x : Late) (s : State) (pl : Place),
     s.cur = .late k id → s.opAt id = some o → o.id = id → o.kind = .late x → o.issuer = .hart k → lookup? s.harts k.key ≠ none →
     s.hasParts id = false → (∀ chip die core off, pl ≠ .remote chip die core off) →
     let n := 2 ^ (w.toNat % 4)
     place s .load n n ((if b = 0 then 0 else vecGet 0 x.sregs b.toNat) + i.signExtend 64 * BitVec.ofNat 64 n) = .ok pl →
     ∃ t, exec (.ld d b i w h) s = .next t ∧ t.mem = s.mem ∧
       (if s.late then ∃ y, t.opAt id = some y ∧ y.phase = .spread else t.opAt id = none) ∧
       (d ≠ 0 → bitOf (t.hart k).pending d.toNat = false ∧ vecGet 0 (t.hart k).sregs d.toNat =
         if w.toNat < 4 then BitVec.ofInt 64 (sextNat (s.loadAt pl n) (8 * n))
         else BitVec.ofNat 64 (s.loadAt pl n % 2 ^ (8 * n)))) ∧
  (∀ (d a b : Reg) (x : BitVec 1) (h : HReg) (q : Nat) (s : State) (pl : Place), ByHart s → Named s [d, a, b] →
     Handle s h q → (∀ chip die core off, pl ≠ .remote chip die core off) →
     let n := if x = 1 then 8 else 4
     Prompt s q (pl.touch n) →
     let m := 2 ^ (8 * n)
     let old := s.loadAt pl n
     let v := (s.rs b).toNat % m
     let sg := fun (y : Nat) => sextNat y (8 * n)
     let done := fun (y : Nat) => Host.Outcome.next (φ := Fault) (ρ := Refusal)
       ((s.storeAt pl n y).setRs d (BitVec.ofInt 64 (sg old))).retire
     place s .amo n n (s.rs a) = .ok pl →
     exec (.amoadd d a b x h) s = done ((old + v) % m) ∧
     exec (.amoand d a b x h) s = done (old &&& v) ∧
     exec (.amoor d a b x h) s = done (old ||| v) ∧
     exec (.amoxor d a b x h) s = done (old ^^^ v) ∧
     exec (.amomin d a b x h) s = done (if sg v < sg old then v else old) ∧
     exec (.amomax d a b x h) s = done (if sg old < sg v then v else old) ∧
     exec (.amominn d a b x h) s = done (min old v) ∧
     exec (.amomaxn d a b x h) s = done (max old v) ∧
     exec (.amoswap d a b x h) s = done v ∧
     exec (.amocas d a b x h) s = done (if old = (s.rs d).toNat % m then v else old))

/-- The frame of a store (R83): every byte of memory outside the width bytes at the place of its pointer reads as before, and
no scalar, CSR or flag of its hart changes; a place that is a counter of space 3 leaves all of memory.

R83: a load changes no byte of memory. What a store wrote is what a load of the same width at the same place then gives. -/
def Obligations.MemoryFrames : Prop :=
  (∀ (d b : Reg) (i : BitVec 8) (w : BitVec 3) (h : HReg) (q : Nat) (s t : State) (pl : Place), Canonical s → ByHart s →
     Named s [d, b] → Handle s h q → (∀ chip die core off, pl ≠ .remote chip die core off) →
     let n := 2 ^ (w.toNat % 4)
     Prompt s q (pl.touch n) →
     place s .store n n (s.rs b + i.signExtend 64 * BitVec.ofNat 64 n) = .ok pl → exec (.st d b i w h) s = .next t →
     (∀ k, k < pl.key ∨ pl.key + n ≤ k → byteAt t k = byteAt s k) ∧
     ((∀ c o, pl ≠ .ls c o) → (∀ c o, pl ≠ .os c o) → ∀ k, byteAt t k = byteAt s k) ∧
     (∀ r, t.rs r = s.rs r) ∧ (∀ c, t.me.csr c = s.me.csr c) ∧ t.me.hregs = s.me.hregs ∧ t.ops = s.ops ∧
     (∀ x : HartId, x.key ≠ s.cur.owner.key → t.hart x = s.hart x)) ∧
  ((∀ (d b : Reg) (i : BitVec 8) (w : BitVec 3) (h : HReg) (q : Nat) (s t : State) (pl : Place), ByHart s →
     Named s [d, b] → Handle s h q → (∀ chip die core off, pl ≠ .remote chip die core off) →
     place s .load (2 ^ (w.toNat % 4)) (2 ^ (w.toNat % 4)) (s.rs b + i.signExtend 64 * BitVec.ofNat 64 (2 ^ (w.toNat % 4)))
       = .ok pl →
     exec (.ld d b i w h) s = .next t → (∀ k, byteAt t k = byteAt s k) ∧ ∀ r, r ≠ d → t.rs r = s.rs r) ∧
   (∀ (s : State) (c o n v : Nat), Canonical s →
     (s.storeAt (.ls c o) n v).loadAt (.ls c o) n = v % 2 ^ (8 * n) ∧
     (s.storeAt (.os c o) n v).loadAt (.os c o) n = v % 2 ^ (8 * n)))

/-- R26, in its order, for a scalar load or store: a space that is not permitted traps BAD_SPACE; in a permitted one, an
offset that is no multiple of the width traps MISALIGNED; an aligned one that reaches past the group's range in space 0
BAD_ADDR; and a store into its code area CODE_WRITE. tval holds the pointer.

R152: a word that is no handle of a live run of the context traps RUN_HANDLE with the word, in RPUB, RSEAL, RFREE, RLEN,
RINFO and RCOPYRR.

R233 and R236: a handle register that names no sequencer traps HANDLE_BAD, with tval 0 and nothing else done, in LD, ST,
AMOADD, RPUB, RLEN, RCOPYIN, SEMREL, LAUNCH and XPASS. -/
def Obligations.OperandChecks : Prop :=
  (∀ (d b : Reg) (i : BitVec 8) (w : BitVec 3) (h : HReg) (q : Nat) (s : State), ByHart s → Named s [d, b] →
     Handle s h q →
     let n := 2 ^ (w.toNat % 4)
     let p := s.rs b + i.signExtend 64 * BitVec.ofNat 64 n
     let traps := fun (c : Cause) => Host.Outcome.next (φ := Fault) (ρ := Refusal) (State.takeTrap s (.at c p) s)
     (ptrSpace p ∉ [0, 1, 2, 3, 4, 7] ∨ (ptrSpace p = 3 ∧ w.toNat % 4 ≠ 3) →
       exec (.ld d b i w h) s = traps .badSpace ∧ exec (.st d b i w h) s = traps .badSpace) ∧
     (ptrSpace p ∈ [0, 1, 4, 7] → ptrOff p % n ≠ 0 →
       exec (.ld d b i w h) s = traps .misaligned ∧ exec (.st d b i w h) s = traps .misaligned) ∧
     (ptrSpace p = 0 → ptrOff p % n = 0 → s.group.range < ptrOff p + n →
       exec (.ld d b i w h) s = traps .badAddr ∧ exec (.st d b i w h) s = traps .badAddr) ∧
     (ptrSpace p = 0 → ptrOff p % n = 0 → ptrOff p + n ≤ s.group.range → ptrOff p < s.group.code →
       exec (.st d b i w h) s = traps .codeWrite)) ∧
  (∀ (d a b : Reg) (h : HReg) (q : Nat) (s : State), ByHart s → Named s [d, a, b] → Handle s h q →
     runHandleOk s s.ctx (s.rs a) = false →
     let traps := Host.Outcome.next (φ := Fault) (ρ := Refusal) (State.takeTrap s (.at .runHandle (s.rs a)) s)
     exec (.rpub a h) s = traps ∧ exec (.rseal a h) s = traps ∧ exec (.rfree a h) s = traps ∧
     exec (.rlen d a h) s = traps ∧ exec (.rinfo d a b) s = traps ∧ exec (.rcopyrr a b h) s = traps) ∧
  (∀ (d a b : Reg) (i : BitVec 8) (w : BitVec 3) (x : BitVec 1) (h : HReg) (s : State), ByHart s → Named s [d, a, b] →
     vecGet none s.hregs h.toNat = none →
     let traps := Host.Outcome.next (φ := Fault) (ρ := Refusal) (State.takeTrap s (.at .handleBad 0) s)
     exec (.ld d b i w h) s = traps ∧ exec (.st d b i w h) s = traps ∧ exec (.amoadd d a b x h) s = traps ∧
     exec (.rpub a h) s = traps ∧ exec (.rlen d a h) s = traps ∧ exec (.rcopyin a b h) s = traps ∧
     exec (.semrel a b h) s = traps ∧ exec (.launch d a b h) s = traps ∧ exec (.xpass a b h) s = traps)

/-! ## Vector instructions -/

/-- R119 with R15: on a hart with its vector set and no bound register, each integer instruction of majors 0x20–0x23
processes the elements vstart to n − 1 that the mask selects, in rising order: element i of vd becomes the table's value of
element i of vs1 and of the second source that nb names, modulo 2^w; then vstart is 0 and the hart goes on.

R120: the widening sums extend both elements by their type and write the sum at the wider width; the widening
multiply-accumulates add the product of the sign-extended elements to element i of vd, modulo 2³². -/
def Obligations.VectorIntegers : Prop :=
  (∀ (d a b : Reg) (n : BitVec 2) (m : MReg) (t : BitVec 2) (s : State), VectorReady s →
     let w := 8 * 2 ^ t.toNat
     let done := fun (f : Nat → Nat → Int) => Host.Outcome.next (φ := Fault) (ρ := Refusal)
       (eachElement s (s.count w) w m (fun u i =>
         let x := u.elem a.toNat i w
         let y := if n = 0 then u.elem b.toNat i w else u.src2 n b i w
         u.setElem d.toNat i w (f x y % 2 ^ w).toNat)).retire
     exec (.vadd d a b n m t) s = done (fun x y => (x : Int) + y) ∧
     exec (.vsub d a b n m t) s = done (fun x y => (x : Int) - y) ∧
     exec (.vmul d a b n m t) s = done (fun x y => (x : Int) * y) ∧
     exec (.vmulh d a b n m t) s = done (fun x y => sextNat x w * sextNat y w / 2 ^ w) ∧
     exec (.vmin d a b n m t) s = done (fun x y => min (sextNat x w) (sextNat y w)) ∧
     exec (.vmax d a b n m t) s = done (fun x y => max (sextNat x w) (sextNat y w)) ∧
     exec (.vminn d a b n m t) s = done (fun x y => ((min x y : Nat) : Int)) ∧
     exec (.vmaxn d a b n m t) s = done (fun x y => ((max x y : Nat) : Int)) ∧
     exec (.vand d a b n m t) s = done (fun x y => ((x &&& y : Nat) : Int)) ∧
     exec (.vor d a b n m t) s = done (fun x y => ((x ||| y : Nat) : Int)) ∧
     exec (.vxor d a b n m t) s = done (fun x y => ((x ^^^ y : Nat) : Int)) ∧
     exec (.vsll d a b n m t) s = done (fun x y => ((x * 2 ^ (y % w) : Nat) : Int)) ∧
     exec (.vsrl d a b n m t) s = done (fun x y => ((x / 2 ^ (y % w) : Nat) : Int)) ∧
     exec (.vsra d a b n m t) s = done (fun x y => sextNat x w / 2 ^ (y % w)) ∧
     exec (.vadds d a b n m t) s = done (fun x y => max (-(2 ^ (w - 1))) (min (2 ^ (w - 1) - 1) (sextNat x w + sextNat y w))) ∧
     exec (.vsubs d a b n m t) s = done (fun x y => max (-(2 ^ (w - 1))) (min (2 ^ (w - 1) - 1) (sextNat x w - sextNat y w)))) ∧
  (∀ (d a b : Reg) (n : BitVec 2) (m : MReg) (s : State), VectorReady s →
     let done := fun (w wd : Nat) (f : Nat → Nat → Nat → Int) => Host.Outcome.next (φ := Fault) (ρ := Refusal)
       (eachElement s (s.count wd) wd m (fun u i =>
         let x := u.elem a.toNat i w
         let y := if n = 0 then u.elem b.toNat i w else u.src2 n b i w
         u.setElem d.toNat i wd (f x y (u.elem d.toNat i wd) % 2 ^ wd).toNat)).retire
     exec (.vwaddI8 d a b n m) s = done 8 32 (fun x y _ => sextNat x 8 + sextNat y 8) ∧
     exec (.vwaddI16 d a b n m) s = done 16 32 (fun x y _ => sextNat x 16 + sextNat y 16) ∧
     exec (.vwaddI32 d a b n m) s = done 32 64 (fun x y _ => sextNat x 32 + sextNat y 32) ∧
     exec (.vwaddN8 d a b n m) s = done 8 32 (fun x y _ => (x : Int) + y) ∧
     exec (.vwaddN16 d a b n m) s = done 16 32 (fun x y _ => (x : Int) + y) ∧
     exec (.vwaddN32 d a b n m) s = done 32 64 (fun x y _ => (x : Int) + y) ∧
     exec (.vwmacI8 d a b n m) s = done 8 32 (fun x y c => (c : Int) + sextNat x 8 * sextNat y 8) ∧
     exec (.vwmacI16 d a b n m) s = done 16 32 (fun x y c => (c : Int) + sextNat x 16 * sextNat y 16))

/-- R121 with R15, R51 and R58: each floating-point instruction of majors 0x29–0x2C writes element i of vd with the sum,
difference, product, fused product and sum, minimum, maximum, quotient or square root of its elements, rounded once in the
format by frm, and raises that result's flags (R55).

R122: reciprocal, reciprocal root, power and logarithm of two by frm, and the functions of the bits alone: the sign
cleared, flipped or taken from the second source, and the class bit. -/
def Obligations.VectorFloats : Prop :=
  (∀ (d a b : Reg) (n : BitVec 2) (m : MReg) (s : State), VectorReady s →
     let done := fun (t : Fmt) (f : Fmt → RMode → Nat → Nat → Nat → Nat × FFlags) =>
       Host.Outcome.next (φ := Fault) (ρ := Refusal) (eachElement s (s.count t.width) t.width m (fun u i =>
         let x := u.elem a.toNat i t.width
         let y := if n = 0 then u.elem b.toNat i t.width else u.src2 n b i t.width
         let v := f t u.mode x y (u.elem d.toNat i t.width)
         (u.raise v.2).setElem d.toNat i t.width v.1)).retire
     let done1 := fun (t : Fmt) (f : Fmt → RMode → Nat → Nat × FFlags) =>
       Host.Outcome.next (φ := Fault) (ρ := Refusal) (eachElement s (s.count t.width) t.width m (fun u i =>
         let v := f t u.mode (u.elem a.toNat i t.width)
         (u.raise v.2).setElem d.toNat i t.width v.1)).retire
     exec (.vfaddF64 d a b n m) s = done f64 (fun t r x y _ => t.sum r [t.decode x, t.decode y]) ∧
     exec (.vfsubF64 d a b n m) s = done f64 (fun t r x y _ => t.sum r [t.decode x, (t.decode y).negate]) ∧
     exec (.vfmulF64 d a b n m) s = done f64 (fun t r x y _ => t.mul r (t.decode x) (t.decode y)) ∧
     exec (.vfmaF64 d a b n m) s = done f64 (fun t r x y c => t.fma r (t.decode x) (t.decode y) (t.decode c)) ∧
     exec (.vfminF64 d a b n m) s = done f64 (fun t _ x y _ => t.minmax false x y) ∧
     exec (.vfmaxF64 d a b n m) s = done f64 (fun t _ x y _ => t.minmax true x y) ∧
     exec (.vfdivF64 d a b n m) s = done f64 (fun t r x y _ => t.div r (t.decode x) (t.decode y) 0) ∧
     exec (.vfsqrtF64 d a m) s = done1 f64 (fun t r x => t.sqrt r (t.decode x)) ∧
     exec (.vfaddF32 d a b n m) s = done f32 (fun t r x y _ => t.sum r [t.decode x, t.decode y]) ∧
     exec (.vfsubF32 d a b n m) s = done f32 (fun t r x y _ => t.sum r [t.decode x, (t.decode y).negate]) ∧
     exec (.vfmulF32 d a b n m) s = done f32 (fun t r x y _ => t.mul r (t.decode x) (t.decode y)) ∧
     exec (.vfmaF32 d a b n m) s = done f32 (fun t r x y c => t.fma r (t.decode x) (t.decode y) (t.decode c)) ∧
     exec (.vfminF32 d a b n m) s = done f32 (fun t _ x y _ => t.minmax false x y) ∧
     exec (.vfmaxF32 d a b n m) s = done f32 (fun t _ x y _ => t.minmax true x y) ∧
     exec (.vfdivF32 d a b n m) s = done f32 (fun t r x y _ => t.div r (t.decode x) (t.decode y) 0) ∧
     exec (.vfsqrtF32 d a m) s = done1 f32 (fun t r x => t.sqrt r (t.decode x)) ∧
     exec (.vfaddBf16 d a b n m) s = done bf16 (fun t r x y _ => t.sum r [t.decode x, t.decode y]) ∧
     exec (.vfsubBf16 d a b n m) s = done bf16 (fun t r x y _ => t.sum r [t.decode x, (t.decode y).negate]) ∧
     exec (.vfmulBf16 d a b n m) s = done bf16 (fun t r x y _ => t.mul r (t.decode x) (t.decode y)) ∧
     exec (.vfmaBf16 d a b n m) s = done bf16 (fun t r x y c => t.fma r (t.decode x) (t.decode y) (t.decode c)) ∧
     exec (.vfminBf16 d a b n m) s = done bf16 (fun t _ x y _ => t.minmax false x y) ∧
     exec (.vfmaxBf16 d a b n m) s = done bf16 (fun t _ x y _ => t.minmax true x y) ∧
     exec (.vfdivBf16 d a b n m) s = done bf16 (fun t r x y _ => t.div r (t.decode x) (t.decode y) 0) ∧
     exec (.vfsqrtBf16 d a m) s = done1 bf16 (fun t r x => t.sqrt r (t.decode x)) ∧
     exec (.vfaddF16 d a b n m) s = done f16 (fun t r x y _ => t.sum r [t.decode x, t.decode y]) ∧
     exec (.vfsubF16 d a b n m) s = done f16 (fun t r x y _ => t.sum r [t.decode x, (t.decode y).negate]) ∧
     exec (.vfmulF16 d a b n m) s = done f16 (fun t r x y _ => t.mul r (t.decode x) (t.decode y)) ∧
     exec (.vfmaF16 d a b n m) s = done f16 (fun t r x y c => t.fma r (t.decode x) (t.decode y) (t.decode c)) ∧
     exec (.vfminF16 d a b n m) s = done f16 (fun t _ x y _ => t.minmax false x y) ∧
     exec (.vfmaxF16 d a b n m) s = done f16 (fun t _ x y _ => t.minmax true x y) ∧
     exec (.vfdivF16 d a b n m) s = done f16 (fun t r x y _ => t.div r (t.decode x) (t.decode y) 0) ∧
     exec (.vfsqrtF16 d a m) s = done1 f16 (fun t r x => t.sqrt r (t.decode x))) ∧
  (∀ (d a b : Reg) (n : BitVec 2) (m : MReg) (s : State), VectorReady s →
     let done1 := fun (f : RMode → Nat → Nat × FFlags) =>
       Host.Outcome.next (φ := Fault) (ρ := Refusal) (eachElement s (s.count 32) 32 m (fun u i =>
         let v := f u.mode (u.elem a.toNat i 32)
         (u.raise v.2).setElem d.toNat i 32 v.1)).retire
     exec (.vfrecip d a m) s = done1 (fun r x => f32.div r (.num false 1 0) (f32.decode x) 0) ∧
     exec (.vfrsqrt d a m) s = done1 (fun r x => f32.rsqrt r (f32.decode x)) ∧
     exec (.vfexp2 d a m) s = done1 (fun r x => f32.exp2 r (f32.decode x)) ∧
     exec (.vflog2 d a m) s = done1 (fun r x => f32.log2 r (f32.decode x)) ∧
     exec (.vfabs d a m) s = done1 (fun _ x => (x % 2 ^ 31, 0)) ∧
     exec (.vfneg d a m) s = done1 (fun _ x => (x ^^^ 2 ^ 31, 0)) ∧
     exec (.vfclass d a m) s = done1 (fun _ x => (2 ^ f32.classBit x, 0)) ∧
     exec (.vfsgnj d a b n m) s = .next (eachElement s (s.count 32) 32 m (fun u i =>
       let x := u.elem a.toNat i 32
       let y := if n = 0 then u.elem b.toNat i 32 else u.src2 n b i 32
       (u.raise 0).setElem d.toNat i 32 (x % 2 ^ 31 + y / 2 ^ 31 * 2 ^ 31))).retire)

/-- R112 and R119, element by element: after VADD with nb = 0 from vstart 0, every element of vd that the mask selects below n
is the sum of the two source elements as they were, whichever register vd is, and every other element is as before.

R110, R112 and R149: a vector write of vn, n ≥ 1, is what vn then reads; bits 63:0 of it are sn; bit n of vdirty is set; no
other vector or mask register changes. v0 reads zero and discards a write, and m0 reads all ones (R35). -/
def Obligations.VectorElements : Prop :=
  (∀ (d a b : Reg) (m : MReg) (t : BitVec 2) (s u : State) (i : Nat), VectorReady s → d ≠ 0 → s.me.vstart = 0 →
     exec (.vadd d a b 0 m t) s = .next u →
     let w := 8 * 2 ^ t.toNat
     let n := min s.vl (16384 / w)
     (i < n → s.maskBit m.toNat i w = true → u.elem d.toNat i w = (s.elem a.toNat i w + s.elem b.toNat i w) % 2 ^ w) ∧
     (i < 16384 / w → (n ≤ i ∨ s.maskBit m.toNat i w = false) → u.elem d.toNat i w = s.elem d.toNat i w) ∧
     u.vstart = 0) ∧
  (∀ (h : Hart) (n k : Nat) (x : BitVec 16384), h.vset.isSome = true → 0 < n → n < 32 → k < 32 →
     let g := h.setVreg n x
     g.vreg n = x ∧ vecGet 0 g.sregs n = BitVec.ofNat 64 (x.toNat % 2 ^ 64) ∧ (k ≠ n → g.vreg k = h.vreg k) ∧
     g.vdirty = h.vdirty ||| BitVec.ofNat 64 (2 ^ n) ∧ g.vreg 0 = 0 ∧ h.setVreg 0 x = h ∧
     (∀ j, g.mreg j = h.mreg j) ∧ g.mreg 0 = BitVec.allOnes 4096)

/-- R123: the integer compares write bit i of md with the comparison of elements i, signed or, with suffix N, unsigned; VBOUND
writes it with i < sN. Bits that the mask does not select, or at or beyond n, keep their values.

R123: the floating-point compares write bit i of md with equal, less, less or equal, or unordered; a comparison with a NaN
is only unordered. Less and less-or-equal raise NV for any NaN, the others for a signalling one. -/
def Obligations.VectorCompares : Prop :=
  (∀ (d m : MReg) (a b : Reg) (n : BitVec 2) (s : State), VectorReady s →
     let int := fun (w : Nat) (f : Nat → Nat → Bool) => Host.Outcome.next (φ := Fault) (ρ := Refusal)
       (eachElement s (s.count w) w m (fun u i =>
         let x := u.elem a.toNat i w
         let y := if n = 0 then u.elem b.toNat i w else u.src2 n b i w
         u.setMaskBit d.toNat i w (f x y))).retire
     exec (.vcmpeqI8 d a b n m) s = int 8 (fun x y => x = y) ∧
     exec (.vcmpneI8 d a b n m) s = int 8 (fun x y => x ≠ y) ∧
     exec (.vcmpltI8 d a b n m) s = int 8 (fun x y => sextNat x 8 < sextNat y 8) ∧
     exec (.vcmpleI8 d a b n m) s = int 8 (fun x y => sextNat x 8 ≤ sextNat y 8) ∧
     exec (.vcmpltnI8 d a b n m) s = int 8 (fun x y => x < y) ∧
     exec (.vcmplenI8 d a b n m) s = int 8 (fun x y => x ≤ y) ∧
     exec (.vboundI8 d b m) s = .next (eachElement s (s.count 8) 8 m (fun u i =>
       u.setMaskBit d.toNat i 8 (decide (i < (s.rs b).toNat)))).retire ∧
     exec (.vcmpeqI16 d a b n m) s = int 16 (fun x y => x = y) ∧
     exec (.vcmpneI16 d a b n m) s = int 16 (fun x y => x ≠ y) ∧
     exec (.vcmpltI16 d a b n m) s = int 16 (fun x y => sextNat x 16 < sextNat y 16) ∧
     exec (.vcmpleI16 d a b n m) s = int 16 (fun x y => sextNat x 16 ≤ sextNat y 16) ∧
     exec (.vcmpltnI16 d a b n m) s = int 16 (fun x y => x < y) ∧
     exec (.vcmplenI16 d a b n m) s = int 16 (fun x y => x ≤ y) ∧
     exec (.vboundI16 d b m) s = .next (eachElement s (s.count 16) 16 m (fun u i =>
       u.setMaskBit d.toNat i 16 (decide (i < (s.rs b).toNat)))).retire ∧
     exec (.vcmpeqI32 d a b n m) s = int 32 (fun x y => x = y) ∧
     exec (.vcmpneI32 d a b n m) s = int 32 (fun x y => x ≠ y) ∧
     exec (.vcmpltI32 d a b n m) s = int 32 (fun x y => sextNat x 32 < sextNat y 32) ∧
     exec (.vcmpleI32 d a b n m) s = int 32 (fun x y => sextNat x 32 ≤ sextNat y 32) ∧
     exec (.vcmpltnI32 d a b n m) s = int 32 (fun x y => x < y) ∧
     exec (.vcmplenI32 d a b n m) s = int 32 (fun x y => x ≤ y) ∧
     exec (.vboundI32 d b m) s = .next (eachElement s (s.count 32) 32 m (fun u i =>
       u.setMaskBit d.toNat i 32 (decide (i < (s.rs b).toNat)))).retire ∧
     exec (.vcmpeqI64 d a b n m) s = int 64 (fun x y => x = y) ∧
     exec (.vcmpneI64 d a b n m) s = int 64 (fun x y => x ≠ y) ∧
     exec (.vcmpltI64 d a b n m) s = int 64 (fun x y => sextNat x 64 < sextNat y 64) ∧
     exec (.vcmpleI64 d a b n m) s = int 64 (fun x y => sextNat x 64 ≤ sextNat y 64) ∧
     exec (.vcmpltnI64 d a b n m) s = int 64 (fun x y => x < y) ∧
     exec (.vcmplenI64 d a b n m) s = int 64 (fun x y => x ≤ y) ∧
     exec (.vboundI64 d b m) s = .next (eachElement s (s.count 64) 64 m (fun u i =>
       u.setMaskBit d.toNat i 64 (decide (i < (s.rs b).toNat)))).retire) ∧
  (∀ (d m : MReg) (a b : Reg) (n : BitVec 2) (s : State), VectorReady s →
     let done := fun (t : Fmt) (quiet : Bool) (f : Option Ordering → Bool) => Host.Outcome.next (φ := Fault) (ρ := Refusal)
       (eachElement s (s.count t.width) t.width m (fun u i =>
         let p := t.decode (u.elem a.toNat i t.width)
         let q := t.decode (if n = 0 then u.elem b.toNat i t.width else u.src2 n b i t.width)
         let nan := p.isNan || q.isNan
         (u.raise (if p.signals || q.signals || (nan && !quiet) then 16 else 0)).setMaskBit d.toNat i t.width
           (f (if nan then none else some (p.cmp q))))).retire
     exec (.vfcmpeqF32 d a b n m) s = done f32 true (fun r => r = some .eq) ∧
     exec (.vfcmpltF32 d a b n m) s = done f32 false (fun r => r = some .lt) ∧
     exec (.vfcmpleF32 d a b n m) s = done f32 false (fun r => r = some .lt ∨ r = some .eq) ∧
     exec (.vfcmpunF32 d a b n m) s = done f32 true (fun r => r = none) ∧
     exec (.vfcmpeqF64 d a b n m) s = done f64 true (fun r => r = some .eq) ∧
     exec (.vfcmpltF64 d a b n m) s = done f64 false (fun r => r = some .lt) ∧
     exec (.vfcmpleF64 d a b n m) s = done f64 false (fun r => r = some .lt ∨ r = some .eq) ∧
     exec (.vfcmpunF64 d a b n m) s = done f64 true (fun r => r = none))

/-- R124: the logical mask instructions write the selected bits of md below vl; MPOPC and MFIRST write d with how many selected
bits of the source are set and with the lowest, or all ones; MSETVL sets the bits below the first.

R125: the permutes take their elements from the sources as the instruction found them, zero from beyond VLMAX: by index, slid
up or down by a scalar, packed to the front by the mask, unpacked from it, or one element to all; VEXTR reads one element into
a scalar and VINS writes one from a scalar, at whatever vstart, which takes no part in them (log entry 75). -/
def Obligations.MasksAndPermutes : Prop :=
  (∀ (d a b m : MReg) (x : Reg) (s : State), VectorReady s →
     let w := s.vsew
     let n := s.vl
     let bits := fun (f : State → Nat → Bool) => Host.Outcome.next (φ := Fault) (ρ := Refusal)
       (eachElement s n w m (fun u i => u.setMaskBit d.toNat i w (f u i))).retire
     let hits := (List.range n).filter (fun i => s.maskBit m.toNat i w && s.maskBit a.toNat i w)
     let count := fun (v : Word) => Host.Outcome.next (φ := Fault) (ρ := Refusal) ((s.setRs x v).setVstart 0).retire
     exec (.mand d a b m) s = bits (fun u i => u.maskBit a.toNat i w && u.maskBit b.toNat i w) ∧
     exec (.mor d a b m) s = bits (fun u i => u.maskBit a.toNat i w || u.maskBit b.toNat i w) ∧
     exec (.mxor d a b m) s = bits (fun u i => u.maskBit a.toNat i w != u.maskBit b.toNat i w) ∧
     exec (.mandn d a b m) s = bits (fun u i => u.maskBit a.toNat i w && !u.maskBit b.toNat i w) ∧
     exec (.mnot d a m) s = bits (fun u i => !u.maskBit a.toNat i w) ∧
     exec (.mpopc x a m) s = count (BitVec.ofNat 64 hits.length) ∧
     exec (.mfirst x a m) s = count (match hits.head? with
       | some i => BitVec.ofNat 64 i
       | none => BitVec.allOnes 64) ∧
     exec (.msetvl d a m) s = bits (fun _ i => decide (i < hits.headD n))) ∧
  (∀ (d a b : Reg) (n : BitVec 2) (m : MReg) (s : State), VectorReady s →
     let w := s.vsew
     let max_ := 16384 / w
     let src := fun (j : Nat) => if j < max_ then s.elem a.toNat j w else 0
     let each := fun (f : Nat → State → State) => Host.Outcome.next (φ := Fault) (ρ := Refusal)
       (eachElement s s.vl w m (fun u i => f i u)).retire
     let rank := fun (i : Nat) => ((List.range i).filter (fun j => s.maskBit m.toNat j w)).length
     let k := (s.rs b).toNat
     exec (.vpermx d a b n m) s = each (fun i u => u.setElem d.toNat i w (src (s.src2 n b i w))) ∧
     exec (.vslideup d a b m) s =
       each (fun i u => if k ≤ i then u.setElem d.toNat i w (s.elem a.toNat (i - k) w) else u) ∧
     exec (.vslidedn d a b m) s = each (fun i u => u.setElem d.toNat i w (src (i + k))) ∧
     exec (.vcompress d a m) s = each (fun i u => u.setElem d.toNat (rank i) w (s.elem a.toNat i w)) ∧
     exec (.vexpand d a m) s = each (fun i u => u.setElem d.toNat i w (s.elem a.toNat (rank i) w)) ∧
     exec (.vbcast d a b m) s = each (fun i u => u.setElem d.toNat i w (src k)) ∧
     exec (.vextr d a b) s =
       .next ((s.setRs d (if k < s.vl then BitVec.ofNat 64 (s.elem a.toNat k w) else 0)).setVstart 0).retire ∧
     exec (.vins d a b) s =
       .next ((if k < s.vl then s.setElem d.toNat k w (s.rs a).toNat else s).setVstart 0).retire)

/-- R126 and R127: a scan writes element i with the running combination of the selected elements up to i, from the identity
or, at a vstart above 0, from the element before; a reduction writes d with the combination of all selected elements below n,
from the identity or, at a vstart above 0, of those from vstart on with the partial result in d, sign-extended for integers;
at a vstart above 0 that is not below n it leaves d. -/
def Obligations.ScansAndReductions : Prop :=
  ∀ (d a : Reg) (m : MReg) (s : State), VectorReady s →
    let scan := fun (w one : Nat) (comb : RMode → Nat → Nat → Nat) =>
      let r := (List.range' s.vstart (s.count w - s.vstart)).foldl
        (fun (p : State × Nat) i =>
          let y := if p.1.maskBit m.toNat i w then comb p.1.mode p.2 (p.1.elem a.toNat i w) else p.2
          (p.1.setElem d.toNat i w y, y))
        (s, if s.vstart = 0 then one else s.elem d.toNat (s.vstart - 1) w)
      Host.Outcome.next (φ := Fault) (ρ := Refusal) (r.1.setVstart 0).retire
    let red := fun (w one : Nat) (ext : Nat → Word) (comb : RMode → Nat → Nat → Nat) =>
      let y := (List.range' s.vstart (s.count w - s.vstart)).foldl
        (fun y i => if s.maskBit m.toNat i w then comb s.mode y (s.elem a.toNat i w) else y)
        (if s.vstart = 0 then one else (s.rs d).toNat % 2 ^ w)
      Host.Outcome.next (φ := Fault) (ρ := Refusal)
        ((if s.vstart = 0 ∨ s.vstart < s.count w then s.setRs d (ext y) else s).setVstart 0).retire
    exec (.vscanI32 d a m) s = scan 32 0 (fun _ x y => (x + y) % 2 ^ 32) ∧
    exec (.vscanI64 d a m) s = scan 64 0 (fun _ x y => (x + y) % 2 ^ 64) ∧
    exec (.vscanF32 d a m) s = scan 32 (2 ^ 31) (fun r x y => (f32.sum r [f32.decode x, f32.decode y]).1) ∧
    exec (.vredsumI32 d a m) s = red 32 0 (fun x => sext64 x 32) (fun _ x y => (x + y) % 2 ^ 32) ∧
    exec (.vredsumI64 d a m) s = red 64 0 (fun x => sext64 x 64) (fun _ x y => (x + y) % 2 ^ 64) ∧
    exec (.vredsumF32 d a m) s =
      red 32 (2 ^ 31) (fun x => zext64 x 32) (fun r x y => (f32.sum r [f32.decode x, f32.decode y]).1) ∧
    exec (.vredmaxI32 d a m) s =
      red 32 (2 ^ 31) (fun x => sext64 x 32) (fun _ x y => if sextNat x 32 < sextNat y 32 then y else x) ∧
    exec (.vredmaxF32 d a m) s = red 32 0xFF80_0000 (fun x => zext64 x 32) (fun _ x y => (f32.minmax true x y).1)

/-- R128 and R130–R133: VCVT converts each element between its formats by rm; VHAD and VHADC write the rounded sum and
difference of each pair at the stage's distance, in registers or in the converter buffer: VHADC opens a chain by copying the
whole register group into the buffer, and takes no vstart (log entry 62); VCVTB writes each element's quantised code and its
block's scale, from registers or from the buffer of an open chain, which it closes; VGAUSS writes the generator's value for
the element's counter. -/
def Obligations.ConversionsAndGroups : Prop :=
  ∀ (d a b : Reg) (m : MReg) (j : BitVec 5) (k f : BitVec 4) (r : BitVec 2) (s : State), VectorReady s →
    let sf := CvtFmt.ofCode k
    let df := CvtFmt.ofCode f
    let w := Nat.max sf.width df.width
    let dist := 2 ^ j.toNat
    exec (.vcvt d a k r m f) s = .next (eachElement s (s.count w) w m (fun u i =>
      let y := convert sf df (u.cvtMode r) (Config.stochasticDraw u.draws).toNat (u.elem a.toNat i sf.width)
      let u := if r = 2 then { u with draws := u.draws + 1 } else u
      (u.raise y.2).setElem d.toNat i df.width y.1)).retire ∧
    exec (.vhad d a m j) s = .next (eachElement s s.vl 32 m (fun u i =>
      if i / dist % 2 = 0 ∧ i + dist < s.vl then
        let x := f32.decode (u.me.groupElem a.toNat i)
        let y := f32.decode (u.me.groupElem a.toNat (i + dist))
        let p := f32.sum u.mode [x, y]
        let q := f32.sum u.mode [x, y.negate]
        let v := u.raise (p.2 ||| q.2)
        v.setMe ((v.me.setGroupElem d.toNat i p.1).setGroupElem d.toNat (i + dist) q.1)
      else u)).retire ∧
    (a ≠ 0 → exec (.vhadc a j) s = .next (((List.range s.vl).foldl (State.convPair s.vl dist)
      (s.setConv ⟨true, 1, s.me.groupBits a.toNat⟩)).setVstart 0).retire) ∧
    (s.conv.opened = true → s.conv.stages < 12 → exec (.vhadc 0 j) s =
      .next (((List.range s.vl).foldl (State.convPair s.vl dist)
        (s.setConv { s.conv with stages := s.conv.stages + 1 })).setVstart 0).retire) ∧
    (a ≠ 0 → exec (.vcvtb d a j) s = .next ((((List.range' s.vstart (s.vl - s.vstart)).foldl
      (State.quantElem d.toNat (fun i => s.me.groupElem a.toNat i) s.vl (if j = 0 then .rne else .sr)) s).setVstart
        0).retire)) ∧
    (s.conv.opened = true → exec (.vcvtb d 0 j) s = .next ((((List.range' s.vstart (s.vl - s.vstart)).foldl
      (State.quantElem d.toNat (fun i => elemOf s.conv.buf i 32) s.vl (if j = 0 then .rne else .sr)) s).setVstart
        0).setConv Converter.reset).retire) ∧
    exec (.vgauss d a b m) s = .next (eachElement s (s.count 32) 32 m (fun u i =>
      u.setElem d.toNat i 32 (gauss (u.rs a).toNat (((u.rs b).toNat + i) % 2 ^ 64) (u.rs (b + 1)).toNat))).retire

/-- R118: SETVL and SETVLI set vsew by their type and vl to the lesser of the requested count and VLMAX, which d receives; they
need no vector set, and a hart whose registers named are not bound (R113) goes on. No CLAIM is still to write vl (R288). -/
def Obligations.VectorLength : Prop :=
  ∀ (d a : Reg) (n : BitVec 11) (t : BitVec 3) (s : State), ByHart s → Named s [d, a] → s.vlPending = false → t.toNat ≤ 4 →
    let w := if t.toNat = 4 then 4 else 8 * 2 ^ t.toNat
    let done := fun (i : Instr) (r : Nat) =>
      exec i s = .next ((s.setMe { s.me with
        vsew := BitVec.ofNat 7 w
        vl := BitVec.ofNat 13 (min r (16384 / w)) }).setRs d (BitVec.ofNat 64 (min r (16384 / w)))).retire
    decode (0#1 ++ 0#11 ++ t ++ a ++ d ++ 0x3D#7 : BitVec 32) = .ok (.setvl d a t) ∧
    decode (1#1 ++ n ++ t ++ a ++ d ++ 0x3D#7 : BitVec 32) = .ok (.setvli d a n t) ∧
    done (.setvl d a t) (s.rs a).toNat ∧ done (.setvli d a n t) ((s.rs a).toNat + n.toNat)

/-- R140–R142: VLOOP keeps the next k words, all of the lanes' majors, for replay; VAGAIN issues them again from its own
address; VFETCH checks the block at s1 and issues its words. An empty replay traps ILLEGAL_INSTR.

R148: VRELEASE without a set does nothing (on a hart that never held one: log entry 84); with one that nothing holds, it gives
the set up and clears vdirty. -/
def Obligations.BlocksAndRelease : Prop :=
  (∀ (k : BitVec 5) (a : Reg) (s : State), VectorReady s →
     let keep := fun (ws : List IWord) => s.setVset (fun v => { v with replay := ws, resume := none })
     (∀ ws, capture s (k.toNat + 1) (s.pc.toNat + 4) = .ok ws → exec (.vloop k) s = .next ((keep ws).setVstart 0).retire) ∧
     (∀ v, s.me.vset = some v → v.replay ≠ [] → exec .vagain s = .next (s.setMe { s.me with
       vqueue := v.replay, vset := some { v with resume := none } })) ∧
     (∀ v, s.me.vset = some v → v.replay = [] →
       exec .vagain s = .next (State.takeTrap s (.at .illegalInstr (s.word.setWidth 64)) s)) ∧
     (∀ ws, s.block (s.rs a) = .ok ws → exec (.vfetch a) s =
       .next ((keep ws).setMe { (keep ws).me with vqueue := ws }))) ∧
  (∀ s : State, ByHart s →
     (s.me.vset = none → exec .vrelease s = .next s.retire) ∧
     (VectorReady s → s.ops = [] → s.me.tileProg = none → (∀ t ∈ s.me.joining, t.stop = none) →
       ∃ u, exec .vrelease s = .next u ∧ u.me.vset = none ∧ u.me.vdirty = 0 ∧ u.me.sregs = s.me.sregs ∧ u.mem = s.mem))

/-- R143, R146, R147: TFETCH on a hart starts one strand in each lane that the mask selects, at the address in the first 64
bits of the lane's slice, and keeps those of an earlier TFETCH for the next VJOIN; STOP has no effect on a hart but a zero
vstart (R112) and stops a strand; VJOIN, with every strand stopped, none on a fault and no TFETCH queued, merges their flags
and goes on, whatever else the lanes are still to take; where one stopped on a fault it traps STRAND_STOP, naming the lowest
such lane with its cause, tval and position. -/
def Obligations.Strands : Prop :=
  ∀ (a : Reg) (m : MReg) (s : State),
    (VectorReady s →
      exec (.tfetch a m) s = .next (((s.setVset (fun v => { v with
        strands := ((List.range 32).filter (fun j => (s.me.mreg m.toNat).getLsbD j)).map (s.newStrand a)
        unjoined := v.unjoined ++ v.strands })).dropUnder (Reader.isStrand s.cur.owner)).setVstart 0).retire ∧
      exec .stop s = .next (s.setVstart 0).retire) ∧
    (ByHart s → s.me.vset.isSome = true → (∀ e ∈ s.me.lanes, isTfetch e.word = false) → (∀ t ∈ s.me.strands, t.running = false) →
      let flags := s.me.joining.foldl (fun f t => f ||| t.flags) 0 ||| s.me.fflags
      ((∀ t ∈ s.me.joining, t.stop = none) →
        ∃ u, exec .vjoin s = .next u ∧ u.me.joining = [] ∧ u.me.fflags = flags ∧ u.me.pc = s.me.retire.pc ∧ u.mem = s.mem) ∧
      (∀ x i, x ∈ s.me.joining → x.stop = some i → x.lane < 32 → s.quiet s.cur.owner = true → s.me.vqueue = [] →
        (∀ y ∈ s.me.joining, y.stop.isSome = true → y = x ∨ x.lane < y.lane) →
        ∃ u, exec .vjoin s = .next u ∧ u.me.joining = [] ∧ u.me.fflags = flags ∧ bitsOf u.me.tcause 0 8 = 12 ∧
          bitsOf u.me.tcause 8 8 = i.cause.code ∧ bitsOf u.me.tcause 16 3 = 4 ∧ bitsOf u.me.tcause 21 5 = x.lane ∧
          bitsOf u.me.tcause 32 32 = i.pc.toNat ∧ u.me.tval = i.tval ∧ bitsOf u.me.tstart 0 32 = i.vstart.toNat ∧
          u.mem = s.mem)) ∧
    (∀ h j, s.cur = .strand h j → s.me.vset.isSome = true → s.binds = [] → s.me.pending = 0 → s.me.vpending = 0 →
      exec .stop s = .next (s.setMe (s.me.setStrand j { s.me.strand j with running := false, block := [] })))

/-- R134–R137: with nothing in flight, and every processed element at a place of this chip, a vector load writes each
processed element of vd with what memory holds at its address, by unit stride, by stride or by index; VLDFF then clears ffe,
or, where an element after its first fails, writes those below it, names its cause and number in ffe and makes vl that number.

R134–R136 and R138: with nothing in flight, and every processed element at a place of this chip, a vector store writes each
processed element of vd to its address, in rising order; VSTXADD adds, with elements of one address summed first.

The frame of a unit-stride vector store: every byte of memory that no processed element's place covers reads as before; the
scalars, the vectors and the flags keep their values. -/
def Obligations.VectorMemory : Prop :=
  (∀ (d b c x : Reg) (m : MReg) (h : HReg) (q : Nat) (s : State), VectorReady s → Handle s h q → s.ops = [] →
     s.late = false →
     let unit := fun (i : Nat) => s.rs b + BitVec.ofNat 64 (i * s.vsew / 8)
     let stride := fun (i : Nat) => s.rs b + BitVec.ofNat 64 i * s.rs c
     let index := fun (i : Nat) => s.rs b + BitVec.ofNat 64 (s.elem x.toNat i (max s.vsew 32))
     let elems := fun (n : Nat) (f : Nat → Word) => s.velems .vload s.elemBytes n m f
     let loaded := fun (es : List VElem) => es.foldl (State.loadElem d) s
     let few := min s.vl (16384 / max s.vsew 32)
     (AllHere (elems s.vl unit) →
       exec (.vld d b m h) s = .next ((loaded (elems s.vl unit)).setVstart 0).retire ∧
       exec (.vldff d b m h) s = .next (((loaded (elems s.vl unit)).setMe
         { (loaded (elems s.vl unit)).me with ffe := 0 }).setVstart 0).retire) ∧
     (∀ first e rest f, elems s.vl unit = first ++ e :: rest → first ≠ [] → AllHere first → e.at_ = .error f →
       exec (.vldff d b m h) s = .next (((loaded first).setMe { (loaded first).me with
         ffe := BitVec.ofNat 64 (2 ^ 63 + f.cause.code * 2 ^ 16 + e.i), vl := BitVec.ofNat 13 e.i }).setVstart 0).retire) ∧
     (AllHere (elems s.vl stride) → s.vsew ≠ 4 →
       exec (.vlds d b c m h) s = .next ((loaded (elems s.vl stride)).setVstart 0).retire) ∧
     (AllHere (elems few index) → s.vsew ≠ 4 →
       exec (.vldx d b x m h) s = .next ((loaded (elems few index)).setVstart 0).retire)) ∧
  (∀ (d b c x : Reg) (m : MReg) (h : HReg) (q : Nat) (s : State), VectorReady s → Handle s h q → s.ops = [] →
     s.late = false →
     let unit := fun (i : Nat) => s.rs b + BitVec.ofNat 64 (i * s.vsew / 8)
     let stride := fun (i : Nat) => s.rs b + BitVec.ofNat 64 i * s.rs c
     let index := fun (i : Nat) => s.rs b + BitVec.ofNat 64 (s.elem x.toNat i (max s.vsew 32))
     let elems := fun (acc : Access) (n : Nat) (f : Nat → Word) => s.velems acc s.elemBytes n m f
     let pairs := fun (es : List VElem) => es.map (fun e => (e, s.elem d.toNat e.i s.vsew))
     let few := min s.vl (16384 / max s.vsew 32)
     let done := fun (add : Bool) (ps : List (VElem × Nat)) => Host.Outcome.next (φ := Fault) (ρ := Refusal)
       ((ps.foldl (State.storeElem add) s).setVstart 0).retire
     (AllHere (elems .vstore s.vl unit) → exec (.vst d b m h) s = done false (pairs (elems .vstore s.vl unit))) ∧
     (AllHere (elems .vstore s.vl stride) → s.vsew ≠ 4 →
       exec (.vsts d b c m h) s = done false (pairs (elems .vstore s.vl stride))) ∧
     (AllHere (elems .vstore few index) → s.vsew ≠ 4 →
       exec (.vstx d b x m h) s = done false (pairs (elems .vstore few index))) ∧
     (AllHere (elems .vadd few index) → 32 ≤ s.vsew →
       exec (.vstxadd d b x m h) s = done true (mergeAdds s.vsew (pairs (elems .vadd few index))))) ∧
  (∀ (d b : Reg) (m : MReg) (h : HReg) (q : Nat) (s t : State), Canonical s → VectorReady s → Handle s h q → s.ops = [] →
     s.late = false →
     let es := s.velems .vstore s.elemBytes s.vl m (fun i => s.rs b + BitVec.ofNat 64 (i * s.vsew / 8))
     AllHere es → exec (.vst d b m h) s = .next t →
     (∀ k, (∀ e ∈ es, ∀ pl, e.at_ = .ok pl → k < pl.key ∨ pl.key + s.elemBytes ≤ k) → byteAt t k = byteAt s k) ∧
     (∀ r, t.rs r = s.rs r) ∧ (∀ v, t.me.vreg v = s.me.vreg v) ∧ (∀ v, t.me.mreg v = s.me.mreg v) ∧
     t.me.fflags = s.me.fflags ∧ t.vstart = 0)

/-! ## Runs, streams and copies -/

/-- R160 and R164: ROPEN creates a run in the lowest FREE entry from 2 on, with the next generation, the layout of s1 and its
first extents drawn from its home die's pool, and gives its handle; RLEN gives the published mark and RINFO the run's figures.

R161–R163: a publication, a sealing and a freeing of a run enter their handle's sequencer as operations, behind what precedes
them, and the hart goes on.

R161–R163 and R247: an issued publication, sealing or freeing that nothing precedes is performed: P becomes the complete
prefix and never less; a sealed run's P is its L; a freed run's entry is FREE with its generation kept, and its pages are in
its home die's pool again; and the operation is no more. A sealing with an append binding or an append pending, and a freeing
of a run that something names, end in RUN_STATE with the handle, deferred, and leave the run. That a freed run's bytes read
zero (log entries 5 and 32) and that a sealing that fails leaves P (log entry 86) are the model's choices. -/
def Obligations.RunInstructions : Prop :=
  (∀ (d a b : Reg) (h : HReg) (q : Nat) (s : State), ByHart s → Named s [d, a, b] →
     (∀ e r pool, layoutOk (s.rs a) = true → s.ctx.freeEntry = some e →
       growTo (s.ctx.poolAt (s.me.core / 64) + 1) { Run.reset with
         gen := (s.ctx.run e).gen + 1, layout := s.rs a, state := .opened, home := s.me.core / 64 }
         (s.ctx.poolAt (s.me.core / 64)) (s.rs b).toNat = some (r, pool) →
       exec (.ropen d a b) s = .next ((s.mapRun s.group.ctx e r).setRs d (runHandle s e r)).retire ∧
       ((s.ctx.run e).mapped = [] → s.ctx.stained = [] →
         s.mapRun s.group.ctx e r = s.setCtxAt s.group.ctx ((s.ctx.setRun e r).setPool (s.me.core / 64) pool))) ∧
     (∀ e, runHandleOk s s.ctx (s.rs a) = true → e = handleEntry (s.rs a) → 2 ≤ e →
       (Handle s h q → Prompt s q [] →
         exec (.rlen d a h) s = .next (s.setRs d (BitVec.ofNat 64 (s.ctx.run e).pub)).retire) ∧
       ∃ v, exec (.rinfo d a b) s = .next (s.setRs d v).retire ∧
         (s.rs b = 0 → v = (s.ctx.run e).layout) ∧ (s.rs b = 1 → v = BitVec.ofNat 64 (s.ctx.run e).pub) ∧
         (s.rs b = 2 → v = BitVec.ofNat 64 (s.ctx.run e).len) ∧
         (s.rs b = 3 → v = if (s.ctx.run e).state = .sealed then 2 else 1) ∧
         (s.rs b = 4 → v = BitVec.ofNat 64 (s.ctx.run e).capacity) ∧
         (s.rs b = 5 → v = BitVec.ofNat 64 (s.completeTo s.group.ctx e)) ∧ (5 < (s.rs b).toNat → v = 0))) ∧
  (∀ (a : Reg) (h : HReg) (q : Nat) (s : State), ByHart s → Named s [a] → Handle s h q →
     runHandleOk s s.ctx (s.rs a) = true → 2 ≤ handleEntry (s.rs a) →
     exec (.rpub a h) s = .next (s.addOp q .copy (.publish (s.rs a))).retire ∧
     exec (.rseal a h) s = .next (s.addOp q .copy (.sealRun (s.rs a))).retire ∧
     exec (.rfree a h) s = .next (s.addOp q .copy (.freeRun (s.rs a))).retire) ∧
  (∀ (s : State) (o : Op) (w : Word), s.opAt o.id = some o → o.phase = .queued → (∀ p ∈ o.preds, s.alive p = false) →
     runHandleOk s (s.ctxAt o.ctx) w = true →
     let e := handleEntry w
     2 ≤ e → (s.runAt o.ctx e).state = .opened →
     (o.kind = .publish w → ∃ t, exec (.rpubPerformed o.id) s = .next t ∧ t.alive o.id = false ∧
       (t.runAt o.ctx e).pub = max (s.runAt o.ctx e).pub (s.completeTo o.ctx e)) ∧
     (o.kind = .sealRun w → s.appendPending o.ctx e o.id = false →
       ∃ t, exec (.rsealPerformed o.id) s = .next t ∧ t.alive o.id = false ∧
         (t.runAt o.ctx e).state = .sealed ∧ (t.runAt o.ctx e).pub = (s.runAt o.ctx e).len) ∧
     (∀ k : HartId, o.issuer = .hart k → lookup? s.harts k.key ≠ none →
       let refused := fun (i : Instr) => ∃ t, exec i s = .next t ∧ t.alive o.id = false ∧ t.runAt o.ctx e = s.runAt o.ctx e ∧
         t.mem = s.mem ∧ (t.hart k).reports = (s.hart k).reports ++ [⟨.runState, w, 0, .none, 0, true⟩]
       (o.kind = .sealRun w → s.appendPending o.ctx e o.id = true → refused (.rsealPerformed o.id)) ∧
       (o.kind = .freeRun w → s.runNamed o.ctx e o.id = true → refused (.rfreePerformed o.id))) ∧
     (o.kind = .freeRun w → s.runNamed o.ctx e o.id = false → (s.runAt o.ctx e).host = false →
       ∃ t, exec (.rfreePerformed o.id) s = .next t ∧ t.alive o.id = false ∧
         (t.runAt o.ctx e).state = .free ∧ (t.runAt o.ctx e).gen = (s.runAt o.ctx e).gen ∧
         (t.ctxAt o.ctx).poolAt (s.runAt o.ctx e).home =
           (s.ctxAt o.ctx).poolAt (s.runAt o.ctx e).home + (s.runAt o.ctx e).units ∧
         ∀ k < 2 ^ 42, byteAt t (runKey o.ctx e k) = 0))

/-- R165, R169 and R170: SBIND of v24–v31 to a run binds the register, for appends when s2 is all ones, else for reads from
record s2 on, and the register reads zero; SPOS gives a binding's position, SSKIP moves a reader's by s1 bytes, and SUNBIND
ends a binding; on an unbound register SUNBIND does nothing.

R165, R166 and R168: a VADD whose first source is bound as a read cursor, with every element that it takes published and
sound, takes element i from the run's bytes after its position, whether or not the mask selects it, and leaves the
position past the last. R113: without a vector set it traps VDEAD with the lowest register that it names, and a bound
register named where none may stand traps RUN_STATE with its run's handle. -/
def Obligations.Streams : Prop :=
  (∀ (d a b : Reg) (h : HReg) (q : Nat) (s : State), ByHart s → Named s [a, b] → Handle s h q → s.me.vset.isSome = true →
     s.me.strands = [] → s.me.vpending = 0 → s.me.lanes = [] →
     (∀ e, 24 ≤ d.toNat → s.bindOf d.toNat = none → runHandleOk s s.ctx (s.rs a) = true → e = handleEntry (s.rs a) → 2 ≤ e →
       (s.rs b = BitVec.allOnes 64 → (s.ctx.run e).state = .opened →
         exec (.sbind d a b h) s =
           .next (s.bind d ⟨d.toNat, .append, s.rs a, q, 0, [], ⟨0, 0, []⟩,
             extentIndex (s.ctx.run e).mapped ((s.ctx.run e).len * (s.ctx.run e).size),
             (vecGet Die.reset s.dies (s.ctx.run e).home).mapGen⟩).retire) ∧
       (s.rs b ≠ BitVec.allOnes 64 → exec (.sbind d a b h) s =
         .next (s.bind d ⟨d.toNat, .read, s.rs a, q, (s.rs b).toNat * (s.ctx.run e).size, [], ⟨0, 0, []⟩, 0, 0⟩).retire)) ∧
     (∀ c, s.bindOf d.toNat = some c →
       (∀ x : Reg, Named s [x] → exec (.spos x d) s = .next (s.setRs x (BitVec.ofNat 64 c.pos)).retire) ∧
       (c.kind = .read ∨ c.kind = .patRead →
         exec (.sskip d a) s = .next (s.setBind { c with
           pos := c.pos + (s.rs a).toNat, part := c.part.drop (s.rs a).toNat }).retire) ∧
       exec (.sunbind d h) s = .next (s.unbind c).retire) ∧
     (s.bindOf d.toNat = none → exec (.sunbind d h) s = .next s.retire)) ∧
  (∀ (d a b : Reg) (m : MReg) (t : BitVec 2) (s : State), ByHart s →
     (∀ c : Binding, s.me.vset.isSome = true → s.binds = [c] → s.me.pending = 0 → s.me.vpending = 0 → s.me.strands = [] →
       s.userJob = false → s.me.lanes = [] → s.replaying s.me.core s.cur.owner = false → s.vlPending = false → c.kind = .read →
        c.reg = a.toNat → a ≠ b → a ≠ d → d ≠ 0 → s.me.vstart = 0 → Ordered s c.seq →
       let w := 8 * 2 ^ t.toNat
       let n := min s.vl (16384 / w)
       let at_ := fun (i : Nat) => { c with pos := c.pos + i * (w / 8), part := c.part.drop (i * (w / 8)) }
       (∀ i < n, s.avail (at_ i) (w / 8) = .ready) →
       ∃ u, exec (.vadd d a b 0 m t) s = .next u ∧ u.vstart = 0 ∧ u.binds = [at_ n] ∧
         ∀ i < n, s.maskBit m.toNat i w = true →
           u.elem d.toNat i w = (s.peek (at_ i) (w / 8) + s.elem b.toNat i w) % 2 ^ w) ∧
     (s.me.vset = none →
       exec (.vadd d a b 0 m t) s =
         .next (State.takeTrap s (.at .vdead (BitVec.ofNat 64 (min d.toNat (min a.toNat b.toNat)))) s)) ∧
     (∀ c : Binding, s.me.vset.isSome = true → s.binds = [c] → c.kind = .read → c.reg = d.toNat →
       exec (.vadd d a b 0 m t) s = .next (State.takeTrap s (.at .runState c.handle) s)))

/-- R172 and R174: a descriptor in space 0 that nothing of the hart is still to write reads as its bytes, and a copy's descriptor
whose reserved fields, unit, dimensions, base and extreme units pass their checks gives its fields.

R175–R178: a copy whose descriptor, run and semaphore pass their checks enters its handle's sequencer as an
operation that holds the descriptor as it was at issue, and the hart goes on.

R175–R178, R227 and R247: a copy or an OSLD out of a run that nothing precedes is performed by taking P of its run; a
fill takes nothing; an RCOPYOUT whose units lie on this chip reads them in order, posts T and takes the next positions of its
run, and an RCOPYRR those for every record below its source's P; each then has its writing still to do.

R175, R178 and R179: a performed RCOPYIN or RFILL whose units all lie on this chip writes each unit, ends and posts T: byte j of the
pattern's stream becomes run byte o + j below P × S, and otherwise byte j mod 4 of the fill word, the later unit's where two name a
byte; bytes of memory outside its units read as before.

R155, R176 and R177: an RCOPYOUT or RCOPYRR that has taken positions with room for all of its records writes them there and ends;
every other byte of memory reads as before. -/
def Obligations.Copies : Prop :=
  ((∀ (p : Word) (n : Nat) (bs : List Byte) (s : State), Descriptor s p n bs → readDesc p n s = .ok bs s) ∧
   (∀ (acc : Access) (offset : Bool) (p : Word) (head bs : List Byte) (s : State), Descriptor s p 32 head →
     let n := descField head 30 1
     n ≤ 16 → Descriptor s p (32 + 16 * n) bs → patternOk bs n = true →
     (if offset = true then descField bs 8 8 % 4 = 0 else descField bs 8 8 = 0) →
     checkPattern acc (descPattern bs n) s = .ok () s →
     readCopy acc offset p s =
       .ok ⟨descWord bs 0, descField bs 8 8, BitVec.ofNat 32 (descField bs 24 4), descPattern bs n⟩ s)) ∧
  (∀ (a b : Reg) (h : HReg) (q : Nat) (s : State), ByHart s → Named s [a, b] → Handle s h q →
     (∀ (d : CopyDesc) (sem : Option Nat),
       (s.rs b = BitVec.allOnes 64 ∧ sem = none) ∨ ((s.rs b).toNat < 64 ∧ sem = some (s.rs b).toNat) →
       let e := handleEntry d.run
       let held := runHandleOk s s.ctx d.run = true ∧ 2 ≤ e
       (readCopy .patWrite true (s.rs a) s = .ok d s → held →
         exec (.rcopyin a b h) s = .next (s.addOp q .copy (.copyIn d sem)).retire) ∧
       (readCopy .patRead false (s.rs a) s = .ok d s → held → (s.ctx.run e).state = .opened →
         d.pat.total % (s.ctx.run e).size = 0 →
         exec (.rcopyout a b h) s = .next (s.addOp q .copy (.copyOut d sem)).retire) ∧
       (readCopy .patWrite false (s.rs a) s = .ok d s →
         exec (.rfill a b h) s = .next (s.addOp q .copy (.fill d sem)).retire)) ∧
     (runHandleOk s s.ctx (s.rs a) = true → runHandleOk s s.ctx (s.rs b) = true → 2 ≤ handleEntry (s.rs a) →
       2 ≤ handleEntry (s.rs b) → handleEntry (s.rs a) ≠ handleEntry (s.rs b) →
       (s.ctx.run (handleEntry (s.rs b))).state = .opened →
       (s.ctx.run (handleEntry (s.rs a))).size = (s.ctx.run (handleEntry (s.rs b))).size →
       exec (.rcopyrr a b h) s = .next (s.addOp q .copy (.copyRun (s.rs a) (s.rs b))).retire)) ∧
  (∀ (s : State) (o : Op), s.opAt o.id = some o → o.phase = .queued → (∀ p ∈ o.preds, s.alive p = false) →
     (∀ d sem, o.kind = .copyIn d sem ∨ (∃ x, o.kind = .osld x sem ∧ d.run = x.run) →
       let r := s.runAt o.ctx (handleEntry d.run)
       exec (.copyPerformed o.id) s = .next (s.setOp { o with
         phase := .working, preds := [], counts := (BitVec.ofNat 64 (r.pub * r.size), 0, 0) })) ∧
     (∀ d sem, o.kind = .fill d sem →
       exec (.copyPerformed o.id) s = .next (s.setOp { o with phase := .working, preds := [] })) ∧
     (let takes := fun (dst : Word) (data : List Byte) (t : State) =>
        let e := handleEntry dst
        let r := s.runAt o.ctx e
        let k := data.length / r.size
        (t.runAt o.ctx e).len = r.len + k ∧ t.mem = s.mem ∧
          ∃ p, t.opAt o.id = some p ∧ p.phase = .working ∧ p.kind = o.kind ∧ p.taken = [⟨BitVec.ofNat 64 e, r.len, r.len, k, data⟩]
      (∀ d sem (core off : Nat → Nat), o.kind = .copyOut d sem → o.taken = [] →
        (s.runAt o.ctx (handleEntry d.run)).state = .opened → 0 < (s.runAt o.ctx (handleEntry d.run)).size →
        (s.runAt o.ctx (handleEntry d.run)).size ≤ d.pat.total → o.core < 512 →
        (∀ u < d.pat.units, s.unitAt o .patRead d.pat u = .ok (.ls (core u) (off u))) →
        let data := (List.range d.pat.units).flatMap (fun u => Memory.readBytes s.mem (lsKey (core u) (off u)) d.pat.unit)
        ∃ t, exec (.copyPerformed o.id) s = .next t ∧ takes d.run data t ∧
          ∀ n < 64, sem = some n → (t.coreAt o.core).sem n =
            BitVec.ofNat 64 (min (((s.coreAt o.core).sem n).toNat + d.pat.total) (2 ^ 64 - 1))) ∧
      (∀ a b, o.kind = .copyRun a b → o.taken = [] → (s.runAt o.ctx (handleEntry b)).state = .opened →
        0 < (s.runAt o.ctx (handleEntry b)).size →
        (s.runAt o.ctx (handleEntry a)).size = (s.runAt o.ctx (handleEntry b)).size → 0 < (s.runAt o.ctx (handleEntry a)).pub →
        let n := (s.runAt o.ctx (handleEntry a)).pub * (s.runAt o.ctx (handleEntry a)).size
        s.badIn o.ctx (handleEntry a) 0 n = none →
        ∃ t, exec (.copyPerformed o.id) s = .next t ∧ takes b (s.runBytes o.ctx (handleEntry a) 0 n) t))) ∧
  (∀ (s : State) (o : Op) (d : CopyDesc) (sem : Option Nat) (core off : Nat → Nat), Canonical s → s.opAt o.id = some o →
     o.phase = .working → s.late = false → o.counts.2.1 = 0 → d.pat.unit % 4 = 0 → o.core < 512 →
     (∀ u < d.pat.units, s.unitAt o .patWrite d.pat u = .ok (.ls (core u) (off u))) →
     let key := fun (u : Nat) => lsKey (core u) (off u)
     let within_ := fun (u k : Nat) => key u ≤ k ∧ k < key u + d.pat.unit
     let ends := fun (byte : Nat → Byte) => ∃ t, exec (.copyComplete o.id) s = .next t ∧ t.alive o.id = false ∧
       (∀ k, (∀ u < d.pat.units, ¬within_ u k) → byteAt t k = byteAt s k) ∧
       (∀ u k, u < d.pat.units → within_ u k → (∀ v < d.pat.units, u < v → ¬within_ v k) →
         byteAt t k = byte (u * d.pat.unit + (k - key u))) ∧
       (∀ n < 64, sem = some n → (t.coreAt o.core).sem n =
         BitVec.ofNat 64 (min (((s.coreAt o.core).sem n).toNat + d.pat.total) (2 ^ 64 - 1)))
     let fill := fun (j : Nat) => BitVec.ofNat 8 (bitsOf d.fill (8 * (j % 4)) 8)
     (o.kind = .fill d sem → ends fill) ∧
     (o.kind = .copyIn d sem →
       s.badIn o.ctx (handleEntry d.run) d.off (min (d.off + d.pat.total) o.counts.1.toNat) = none →
       ends (fun j => if d.off + j < o.counts.1.toNat then s.runByte o.ctx (handleEntry d.run) (d.off + j) else fill j))) ∧
  (∀ (s : State) (o : Op) (x : Taken), Canonical s → s.opAt o.id = some o → o.phase = .working → s.steps = none →
     o.taken = [x] → (∃ d sem, o.kind = .copyOut d sem) ∨ (∃ a b, o.kind = .copyRun a b ∧ o.counts.2.1 = 0) →
     let e := x.run.toNat
     let r := s.runAt o.ctx e
     let at_ := x.first * r.size
     r.host = false → 0 < r.size → (x.first + x.count) * r.size ≤ r.capacity → x.data.length = x.count * r.size →
     s.refusing o.ctx e at_ (at_ + x.count * r.size) = none → s.stale o e at_ = false →
     ∃ t, exec (.copyComplete o.id) s = .next t ∧ t.alive o.id = false ∧
       (∀ j < x.data.length, byteAt t (runKey o.ctx e (at_ + j)) = x.data.getD j 0) ∧
       (∀ k, (∀ j < x.data.length, k ≠ runKey o.ctx e (at_ + j)) → byteAt t k = byteAt s k))

/-- R181–R183 and R190: a job's descriptor, and RPART's table, read as their bytes at issue; a merge-engine job whose
descriptor, runs and combine pass their checks enters its handle's sequencer with its descriptor while its context's share of
the die's queue has room, and its hart waits while it has not. The share is the model's (log entry 68).

R183 and R184: an issued job that nothing precedes starts: with sound inputs and destinations that take its records, each
destination receives the records that the job emits for it, in emission order, unpublished, and the job counts its records and
works on; an RSORT whose input has a poisoned line emits nothing and stops with status 2 and the first unread position. A
started job completes: it writes its descriptor's fields, publishes its destinations and is no more; a stopped one reports its
cause to its issuer and publishes nothing. One that seals waits until every position of its destinations is complete, and one with a
USER combine while its hart's set is not HELD (R188).

R185, R186 and R190–R192, for sound inputs: RSORT emits its input's records by key, equal keys in input order; RMERGE the
groups of equal keys in rising order, each as its combine word gives; RPART each record to the destination whose number is
that of the split keys at or below its key; RTAG each record with its position's tag after or before it; RJOIN a record for
each build record that matches a probe record, and a miss record where none does.

R187: what a group emits under codes 0 to 6. That an RJOIN which does not stop counts both of its inputs as read whole, and that a
group of one record keeps its own value, is log entry 58.

The stable sort of R185: a stable sort by key keeps every record, puts the keys in order and keeps records of equal keys in
the order in which they were. -/
def Obligations.MergeJobs : Prop :=
  ((∀ (k : JobKind) (p : Word) (head bs : List Byte) (s : State), Descriptor s p 64 head →
     let m := descField head 63 1
     let a := descField head 56 2
     let dest := descWord head 32
     jobFieldsOk k (descField head 4 4) m a (descField head 58 2) (descField head 60 2) (descField head 62 1)
       (descWord head 40) (descWord head 48) = true →
     Descriptor s p (64 + 8 * m) bs →
     let j : JobDesc := ⟨k, p, descField head 4 4, dest, descWord head 40, descWord head 48, a, descField head 58 2,
       descField head 60 2, descField head 62 1, (List.range m).map (fun i => descWord bs (64 + 8 * i)), [dest], [], s.frm⟩
     (k ≠ .part → readJob k p s = .ok j s) ∧
     (∀ table, k = .part → Descriptor s dest (16 * a - 8) table →
       readJob k p s = .ok { j with
         dests := (List.range a).map (fun i => descWord table (8 * i))
         splits := (List.range (a - 1)).map (fun i => descWord table (8 * a + 8 * i)) } s)) ∧
   (∀ (a : Reg) (h : HReg) (q : Nat) (k : JobKind) (j : JobDesc) (s : State), ByHart s → Named s [a] → Handle s h q →
     readJob k (s.rs a) s = .ok j s → checkRuns (j.inputs ++ j.dests) s = .ok () s →
     (∀ w ∈ j.inputs ++ j.dests, ptrSpace w ≠ 6) → jobFault s j = none → checkUser j s = .ok () s →
     let i : Instr := match k with
       | .sort => .rsort a h
       | .merge => .rmerge a h
       | .part => .rpart a h
       | .tag => .rtag a h
       | .join => .rjoin a h
     let queued := s.jobsOf s.group.ctx (s.me.core / 64)
     let share := s.jobShare s.group.ctx (s.me.core / 64)
     1 ≤ share ∧ (queued < share → exec i s = .next (s.addOp q .copy (.job j)).retire) ∧
     (share ≤ queued → exec i s = .next (s.setMe { s.me with state := .wait })))) ∧
  (∀ (s : State) (o : Op) (j : JobDesc), Canonical s → s.opAt o.id = some o → o.kind = .job j →
     (o.phase = .queued → (∀ p ∈ o.preds, s.alive p = false) → (combCode j.comb ≠ 7 ∨ j.kind ≠ .merge) →
       (∀ u r, s.runJob o j = (u, r) → r.stop = none → (j.dests.map handleEntry).Nodup →
         let entry := fun (k : Nat) => handleEntry (j.dests.getD k 0)
         let mine := fun (k : Nat) => (r.emits.filter (fun p => p.1 = k)).map Prod.snd
         (∀ p ∈ r.emits, p.1 < j.dests.length ∧ p.2.length = (s.runAt o.ctx (entry p.1)).size) →
         (∀ k < j.dests.length, Takes s o (entry k) (mine k).length) →
         ∃ t p, exec (.mergeJobStart o.id) s = .next t ∧ t.opAt o.id = some p ∧ p.phase = .working ∧ p.kind = o.kind ∧
           p.counts = (BitVec.ofNat 64 r.reads.length, BitVec.ofNat 64 r.emits.length, BitVec.ofNat 64 r.miss) ∧
           ∀ k < j.dests.length, Appended s t o.ctx (entry k) (mine k) ∧
             (t.runAt o.ctx (entry k)).pub = (s.runAt o.ctx (entry k)).pub) ∧
       (∀ l, j.kind = .sort →
         let e := handleEntry (j.inputs.headD 0)
         let r := s.runAt o.ctx e
         s.badIn o.ctx e 0 (r.pub * r.size) = some l →
         ∃ t p, exec (.mergeJobStart o.id) s = .next t ∧ t.opAt o.id = some p ∧
           p.phase = .stopped .poison (BitVec.ofNat 64 (64 * l / r.size)) 2 ∧ t.mem = s.mem ∧
           ∀ x, (t.runAt o.ctx x).len = (s.runAt o.ctx x).len)) ∧
     (s.jobRuns o j = false ∨ (o.phase = .working ∧ bitOf (BitVec.ofNat 64 j.flags) 0 = true ∧ s.allComplete o.ctx j.dests = false) →
       exec (.mergeJobComplete o.id) s = .next s) ∧
     (o.phase = .working → s.jobRuns o j = true → bitOf (BitVec.ofNat 64 j.flags) 0 = false →
       exec (.mergeJobComplete o.id) s =
         .next ((j.dests.foldl (State.publishDest false o.ctx) ((s.jobFields o j 0).jobFlags o)).endOp o)) ∧
     (∀ c v n, o.phase = .stopped c v n → s.jobRuns o j = true →
       exec (.mergeJobStop o.id) s =
         .next ((((s.jobFields o j n).jobFlags o).endOp o).reportOp o c v false))) ∧
  (∀ (s : State) (o : Op) (j : JobDesc),
     let run := fun (w : Word) => s.runAt o.ctx (handleEntry w)
     let recs := fun (w : Word) => s.recordsBelow o.ctx (handleEntry w) (run w).pub
     let first := j.inputs.headD 0
     let code := keyCode (run first).layout
     let key := recKey code
     let sound := fun (w : Word) => s.badIn o.ctx (handleEntry w) 0 ((run w).pub * (run w).size) = none
     let inOrder := fun (w : Word) => keyCode (run w).layout = code ∧ (recs w).Pairwise (fun x y => key x ≤ key y)
     let emits := fun (reads : List (List Byte)) (p : List (Nat × List Byte) → Nat → Prop) =>
       ∃ r, s.runJob o j = (s, r) ∧ r.stop = none ∧ r.reads = reads ∧ p r.emits r.miss
     (j.kind = .sort → sound first → emits (recs first) (fun es _ =>
       let out := es.map Prod.snd
       (∀ p ∈ es, p.1 = 0) ∧ out.Perm (recs first) ∧ out.Pairwise (fun x y => key x ≤ key y) ∧
         ∀ k, out.filter (fun b => key b = k) = (recs first).filter (fun b => key b = k))) ∧
     (j.kind = .part → sound first → emits (recs first) (fun es _ =>
       let split := fun (w : Word) => keyOrder code (w.toNat % 2 ^ (8 * keyBytes code))
       ∀ k, (es.filter (fun p => p.1 = k)).map Prod.snd =
         (recs first).filter (fun b => (j.splits.filter (fun w => decide (split w ≤ key b))).length = k))) ∧
     (j.kind = .tag → sound first → emits (recs first) (fun es _ =>
       (∀ p ∈ es, p.1 = 0) ∧ es.length = (recs first).length ∧ ∀ n < es.length,
         let tag := natLe j.a ((j.tagBase.toNat + n) % 2 ^ (8 * j.a))
         let b := (recs first).getD n []
         (es.map Prod.snd).getD n [] = if j.b = 0 then b ++ tag else tag ++ b)) ∧
     (j.kind = .merge → combCode j.comb < 7 → (∀ w ∈ j.inputs, sound w ∧ inOrder w) →
       let all := j.inputs.flatMap recs
       ∃ r, s.runJob o j = (s, r) ∧ r.stop = none ∧ r.reads.Perm all ∧ (∀ p ∈ r.emits, p.1 = 0) ∧
         ∃ ks : List Nat, ks.Pairwise (fun x y => x < y) ∧ (∀ k, k ∈ ks ↔ ∃ b ∈ all, key b = k) ∧
           r.emits.map Prod.snd = ks.flatMap (fun k => combine j.comb (all.filter (fun b => key b = k)))) ∧
     (j.kind = .join →
       let other := j.inputs.getD 1 0
       sound first → inOrder first → sound other → inOrder other →
         let group := fun (p : List Byte) => (recs other).filter (fun b => key b = key p)
         ∃ r, s.runJob o j = (s, r) ∧ r.stop = none ∧ r.reads.Perm (recs first ++ recs other) ∧ (∀ p ∈ r.emits, p.1 = 0) ∧
           r.miss = ((recs first).filter (fun p => (group p).isEmpty)).length ∧
           r.emits.map Prod.snd = (recs first).flatMap (fun p =>
             let carry := (p.drop j.a).take j.b
             if (group p).isEmpty = true then [carry ++ List.replicate (4 * j.e) 0 ++ natLe 4 1]
             else (group p).map (fun b => carry ++ (b.drop j.c).take (4 * j.e) ++ natLe 4 0)))) ∧
  (∀ (w : Word) (x : List Byte) (g : List (List Byte)),
     let t := combType w
     let n := if t = 2 ∨ t = 3 then 8 else 4
     let off := combOff w
     let value := fun (b : List Byte) => leNat ((b.drop off).take n)
     let vals := (x :: g).map value
     let emit := fun (v : Nat) => combine w (x :: g) = [x.take off ++ natLe n v ++ x.drop (off + n)]
     let order := fun (v : Nat) => if t = 0 ∨ t = 2 then sextNat v (8 * n) else (v : Int)
     combine w [] = [] ∧
     (combCode w = 0 → combine w (x :: g) = x :: g) ∧ (combCode w = 1 → combine w (x :: g) = [x]) ∧
     (combCode w = 2 → combine w (x :: g) = [g.getLastD x]) ∧
     (combCode w = 6 → emit ((g.length + 1) % 2 ^ (8 * n))) ∧
     (t < 4 → (∀ b ∈ x :: g, off + n ≤ b.length) →
       (combCode w = 3 → emit (vals.sum % 2 ^ (8 * n))) ∧
       (combCode w = 4 → ∃ v ∈ vals, emit v ∧ ∀ y ∈ vals, order v ≤ order y) ∧
       (combCode w = 5 → ∃ v ∈ vals, emit v ∧ ∀ y ∈ vals, order y ≤ order v)) ∧
     (t = 4 →
       let fold := fun (f : Nat → Nat → Nat) => emit ((g.map value).foldl f (value x))
       (combCode w = 3 → fold (fun y z => (f32.sum .rne [f32.decode y, f32.decode z]).1)) ∧
       (combCode w = 4 → fold (fun y z => (f32.minmax false y z).1)) ∧
       (combCode w = 5 → fold (fun y z => (f32.minmax true y z).1)))) ∧
  (∀ (α : Type) (key : α → Int) (l : List α),
     let r := stableSort (fun x y => decide (key x ≤ key y)) l
     r.Perm l ∧ r.Pairwise (fun x y => key x ≤ key y) ∧ ∀ k, r.filter (fun x => key x = k) = l.filter (fun x => key x = k))

/-- R180: VLDW takes the window of a run's elements that holds the least outstanding index, aligned to its own length: each
element of vd is the run's element there, zero where the published bytes end first; the outstanding indices inside the window
lose their mask bits, the other bits stand, vstart is 0, and nothing else of the hart's registers, no run and no byte of
memory changes. With no outstanding index it goes on with vstart 0 alone. A window with a poisoned line traps POISON, with the
index of the window's first element in that line, and vd and the mask stand.

R189, R193 and R194: RCOMB gives the combine word of a legal block; CSET configures routing on the issuer's die; CSNAP copies
counters into elements of vd from 0 on, with zeros after them, and sets those counters to zero and no other. -/
def Obligations.GatherAndRouting : Prop :=
  (∀ (d a : Reg) (m : MReg) (h : HReg) (q : Nat) (s : State), VectorReady s → Handle s h q → Ordered s q →
     d ≠ 0 → d ≠ 31 → m ≠ 0 → m.toNat < 24 → s.vsew ∈ [8, 16, 32, 64] → runHandleOk s s.ctx (s.rs a) = true →
     (handleEntry (s.rs a) ≠ 1 ∨ s.me.priv = .s) →
     let e := handleEntry (s.rs a)
     let w := s.vsew
     let wl := 16384 / w
     let published := (s.ctx.run e).pub * (s.ctx.run e).size
     let idx := fun (i : Nat) => elemOf (s.me.vreg (d.toNat + 1)) i 32
     let asks := fun (i : Nat) => i < min s.vl 512 ∧ (s.me.mreg m.toNat).getLsbD i = true
     ((∀ i, ¬asks i) → exec (.vldw d a m h) s = .next (s.setVstart 0).retire) ∧
     (∀ k, asks k → (∀ i, asks i → idx k ≤ idx i) →
       let b := idx k - idx k % wl
       let bad := s.badIn s.group.ctx e (b * w / 8) (min ((b + wl) * w / 8) published)
       (bad = none → ∃ t, exec (.vldw d a m h) s = .next t ∧ t.vstart = 0 ∧ t.me.pc = s.me.retire.pc ∧
         (∀ i < wl, elemOf (t.me.vreg d.toNat) i w =
           if (b + i) * w / 8 + w / 8 ≤ published then leNat (s.runBytes s.group.ctx e ((b + i) * w / 8) (w / 8)) else 0) ∧
         (∀ i < 4096, (t.me.mreg m.toNat).getLsbD i =
           ((s.me.mreg m.toNat).getLsbD i && !decide (asks i ∧ b ≤ idx i ∧ idx i < b + wl))) ∧
         (∀ r : Reg, r ≠ d → t.me.vreg r.toNat = s.me.vreg r.toNat) ∧
         (∀ x : MReg, x ≠ m → t.me.mreg x.toNat = s.me.mreg x.toNat) ∧ t.mem = s.mem ∧ t.ctxs = s.ctxs ∧ t.ops = s.ops) ∧
       (∀ l, bad = some l → exec (.vldw d a m h) s =
         .next (State.takeTrap s (.at .poison (BitVec.ofNat 64 (max b (64 * l * 8 / w)))) (s.poisonLine s.group.ctx e l))))) ∧
  (∀ (d a b : Reg) (h : HReg) (q : Nat) (s : State), VectorReady s → Handle s h q →
     (∀ ws, s.userBlock (s.rs a) = .ok ws → (s.rs b).toNat < 2 ^ 32 → bitsOf (s.rs b) 0 8 = 0 → bitsOf (s.rs b) 8 8 ≤ 4 →
       exec (.rcomb d a b) s =
         .next (s.setRs d (BitVec.ofNat 64 (2 ^ 63 + (s.rs a).toNat * 2 ^ 32 + (s.rs b).toNat + 7))).retire) ∧
     (Prompt s q [] →
       (let w := s.rs a
        bitsOf w 40 24 = 0 → bitsOf w 16 16 % 4 = 0 → bitsOf w 0 8 + bitsOf w 8 8 + 1 ≤ min s.ctx.routes 256 →
         exec (.cset a h) s = .next (s.setCtx { s.ctx with
           routing := insertKey s.ctx.routing s.group.die
             ⟨bitsOf w 0 8, bitsOf w 8 8 + 1, bitsOf w 16 16, bitsOf w 32 8⟩ }).retire) ∧
       (let w := s.rs a
        let n := bitsOf w 8 8 + 1
        let k := s.group.die * 256 + bitsOf w 0 8
        bitsOf w 0 8 + n ≤ min s.ctx.routes 256 → d ≠ 0 →
         ∃ t, exec (.csnap d a h) s = .next t ∧ t.mem = s.mem ∧
           (∀ i < 256, elemOf (t.me.vreg d.toNat) i 64 = if i < n then (s.ctx.routeAt (k + i)).toNat else 0) ∧
           (∀ i, t.ctx.routeAt i = if k ≤ i ∧ i < k + n then 0 else s.ctx.routeAt i))))

/-- R336, R341 and R344–R345: NMC of a run of 64-byte commands takes the hart's next token, which d receives, and enters its
handle's sequencer; with eight jobs of the hart unfinished it waits; NMSTAT gives a job's status by its token; SCAN and SCANTH
enter theirs, and SCANTH's d waits for its count.

R336 and R341: a near-memory job that nothing precedes is performed: its commands are applied in record order until one stops
it; its status says that it is done with their number, or that it stopped, with the cause and the element, which its issuer is
told; and it is no more. Where the move bounds what is done it goes on later with the element that comes next (R254).

R338: a command that passes its checks, meets no failing line and no refusal, and reads no element that it wrote before gives
each target element the value of R338's table from the element as it was and its source element; no other byte changes.

R343–R345: a scan that nothing precedes reads its source's records below P. SCAN appends one 16-byte record for each record
that passes, in rising position: the value, four zero bytes and the position; it publishes its destination, and seals it when
its flag asks. SCANTH appends nothing, and d receives the number that pass. Both write status 0 and the numbers of records
examined and emitted into the descriptor, and are no more. A poisoned line stops SCANTH: d is zero, and the issuer is told
POISON with the first record not read. -/
def Obligations.NearMemory : Prop :=
  (∀ (d a b : Reg) (h : HReg) (q : Nat) (s : State), ByHart s → Named s [d, a, b] → Handle s h q →
     (runHandleOk s s.ctx (s.rs a) = true → (handleEntry (s.rs a) ≠ 1 ∨ s.me.priv = .s) → ptrSpace (s.rs a) ≠ 6 →
       (s.ctx.run (handleEntry (s.rs a))).size = 64 →
       (s.nmRunning s.cur.owner < 8 →
         ∃ t u : State, exec (.nmc d a b h) s = .next t ∧ t = (u.setRs d (s.me.nmIssued.setWidth 64)).retire ∧
           u.ops = (s.addOp q .copy (.nmc (s.rs a) (s.rs b).toNat s.me.nmIssued)).ops ∧
           u.me.nmIssued = s.me.nmIssued + 1 ∧ u.mem = s.mem) ∧
       (8 ≤ s.nmRunning s.cur.owner → exec (.nmc d a b h) s = .next (s.setMe { s.me with state := .wait }))) ∧
     (Prompt s q [] → ∀ j ∈ s.me.nmJobs, (∀ k ∈ s.me.nmJobs, k.token = j.token → k = j) → s.rs a = j.token.setWidth 64 →
       exec (.nmstat d a h) s = .next (s.setRs d j.status).retire) ∧
     (∀ x, readScan true (s.rs a) s = .ok x s →
       exec (.scan a h) s = .next (s.addOp q .copy (.scan x none)).retire) ∧
     (∀ x, readScan false (s.rs a) s = .ok x s →
       exec (.scanth d a h) s = .next ((s.addOp q .copy (.scan x (some d))).markPending d).retire)) ∧
  (∀ (s u : State) (o p : Op) (run : Word) (first k : Nat) (token : BitVec 32), s.opAt o.id = some o → o.phase = .queued →
     (∀ p ∈ o.preds, s.alive p = false) → o.kind = .nmc run first token → s.late = false →
     let pub := (s.runAt o.ctx (handleEntry run)).pub
     let all := State.runCommands run ((List.range (min pub (first + 16384) - first)).map (first + ·)) 0 0
       { o with phase := .working, preds := [], counts := (0, 0, BitVec.ofNat 64 pub) } s
     pub < 2 ^ 64 →
     (all = (u, p, .ended k none) →
       exec (.nmcJobRun o.id) s = .next ((u.setNmStatus o.issuer.owner o.id (nmStatus 2 0 k 0)).endOp o)) ∧
     (∀ x, all = (u, p, .ended k (some x)) → exec (.nmcJobRun o.id) s =
       .next (((u.setNmStatus o.issuer.owner o.id (nmStatus 3 x.cause.code k x.element)).endOp o).reportOp o x.cause x.tval
         false)) ∧
     (∀ i, all = (u, p, .later k i) → exec (.nmcJobRun o.id) s =
       .next (u.setOp { p with counts := (BitVec.ofNat 64 k, BitVec.ofNat 64 i, BitVec.ofNat 64 pub) }))) ∧
  (∀ (s : State) (o : Op) (run : Word) (pos : Nat), Canonical s → s.steps = none → s.lineBad o.ctx (handleEntry run) pos = false →
     let c := nmCommand (s.record o.ctx (handleEntry run) pos)
     let te := handleEntry c.target
     let se := handleEntry c.source
     let inMemory := fun (e : Nat) => (s.runAt o.ctx e).host = false ∧ (s.runAt o.ctx e).pub * (s.runAt o.ctx e).size ≤ 2 ^ 42
     let val := fun (x : State) (e k : Nat) => leNat (x.runBytes o.ctx e (4 * k) 4)
     let mul := fun (x y : Nat) => (f32.mul .rne (f32.decode x) (f32.decode y)).1
     s.commandFault o.ctx run c = none → inMemory te → (c.sourced = true → inMemory se) → (∀ off, s.stale o te off = false) →
     (∀ i < c.n, s.commandBad o.ctx c i = none) →
     (c.sourced = true → te = se → ∀ i j, i < j → j < c.n → c.e0 + i ≠ c.j0 + j) →
     ∃ t p, s.runCommand o run pos 0 = (t, p, .applied) ∧
       (∀ i < c.n,
         let old := val s te (c.e0 + i)
         let src := val s se (c.j0 + i)
         let new := val t te (c.e0 + i)
         (c.op = 0 → new = old) ∧
         (c.op = 1 → new = (f32.sum .rne [f32.decode (mul old c.a), (f32.decode (mul c.b src)).negate]).1 % 2 ^ 32) ∧
         (c.op = 2 → new = (f32.sum .rne [f32.decode old, f32.decode (mul c.a src)]).1 % 2 ^ 32) ∧
         (c.op = 3 → new = (old + src) % 2 ^ 32) ∧ (c.op = 4 → new = (f32.minmax true old src).1 % 2 ^ 32) ∧
         (c.op = 5 → new = src) ∧ (c.op = 6 → new = c.a) ∧ (c.op = 7 → new = mul old c.a % 2 ^ 32)) ∧
       (∀ k, (∀ j < 4 * c.n, k ≠ runKey o.ctx te (4 * c.e0 + j)) → byteAt t k = byteAt s k)) ∧
  (∀ (s : State) (o : Op) (k : HartId) (d : ScanDesc) (dest : Option Reg), Canonical s → s.opAt o.id = some o →
     o.phase = .queued → (∀ p ∈ o.preds, s.alive p = false) → (∀ p ∈ s.ops, p.taken = []) → o.kind = .scan d dest →
     o.issuer = .hart k → lookup? s.harts k.key ≠ none →
     let g := s.groupAt k.group
     let at_ := lsKey (s.hart k).core (g.bases.getD (s.hart k).rank.toNat 0 + ptrOff d.ptr)
     ptrSpace d.ptr = 0 → ptrOff d.ptr % 8 = 0 → g.code ≤ ptrOff d.ptr → ptrOff d.ptr + 48 ≤ g.range →
     ptrOff d.ptr + 48 ≤ Config.lsBytes → at_ + 48 ≤ 2 ^ 64 →
     let e := handleEntry d.src
     let r := s.runAt o.ctx e
     let order := keyOrder (scanKey d.type)
     let value := fun (i : Nat) => ((s.record o.ctx e i).drop d.voff).take 4
     let passes := fun (i : Nat) =>
       order (d.thr.toNat % 2 ^ 32) < order (leNat (value i)) ∨
         (bitOf (BitVec.ofNat 64 d.flags) 0 = true ∧ order (leNat (value i)) = order (d.thr.toNat % 2 ^ 32))
     let hits := (List.range r.pub).filter (fun i => decide (passes i))
     let fields := fun (t : State) (status examined emitted : Nat) =>
       Memory.readBytes t.mem (at_ + 24) 4 = natLe 4 status ∧ Memory.readBytes t.mem (at_ + 32) 8 = natLe 8 examined ∧
         Memory.readBytes t.mem (at_ + 40) 8 = natLe 8 emitted
     d.voff + 4 ≤ r.size →
     (s.badIn o.ctx e 0 (r.pub * r.size) = none →
       (dest = none →
         let to_ := handleEntry d.dst
         Takes s o to_ hits.length → (s.runAt o.ctx to_).size = 16 → (s.runAt o.ctx to_).pub ≤ (s.runAt o.ctx to_).len →
         ∃ t, exec (.scanRun o.id) s = .next t ∧ t.alive o.id = false ∧ fields t 0 r.pub hits.length ∧
           Appended s t o.ctx to_ (hits.map (fun i => value i ++ natLe 4 0 ++ natLe 8 i)) ∧
           (t.runAt o.ctx to_).pub = (t.runAt o.ctx to_).len ∧
           (t.runAt o.ctx to_).state = if bitOf (BitVec.ofNat 64 d.flags) 1 = true then .sealed else .opened) ∧
       (∀ x, dest = some x →
         ∃ t, exec (.scanRun o.id) s = .next t ∧ t.alive o.id = false ∧ fields t 0 r.pub 0 ∧
           bitOf (t.hart k).pending x.toNat = false ∧
           (x ≠ 0 → vecGet 0 (t.hart k).sregs x.toNat = BitVec.ofNat 64 hits.length))) ∧
     (∀ x l, dest = some x → s.badIn o.ctx e 0 (r.pub * r.size) = some l →
       ∃ t, exec (.scanRun o.id) s = .next t ∧ t.alive o.id = false ∧ (x ≠ 0 → vecGet 0 (t.hart k).sregs x.toNat = 0) ∧
         (t.hart k).reports = (s.hart k).reports ++ [⟨.poison, BitVec.ofNat 64 (64 * l / r.size), 0, .none, 0, true⟩]))

/-! ## The tile engine -/

/-- R213 and R59: an outer product adds to every selected cell (r, c) of the tile the k products of elements k·r + i of vs1 and
k·c + i of vs2 that lie below vl, all summed exactly with the cell and rounded once; the cells that no such pair reaches keep
their values. -/
def Obligations.OuterProducts : Prop :=
  ∀ (d : BitVec 3) (a b : Reg) (mc mr : MReg) (s : State), VectorReady s → EngineFree s →
    let x := s.tile d
    let done := fun (w k : Nat) (f : Option Fmt) =>
      let terms := fun (r c : Nat) => (List.range k).filter (fun i =>
        r * k + i < min s.vl (128 * k) ∧ c * k + i < min s.vl (x.cols * k))
      Host.Outcome.next (φ := Fault) (ρ := Refusal) (s.setTile d (x.update (s.lineOn mr)
        (fun r c => s.lineOn mc c && !(terms r c).isEmpty)
        (fun r c cell => TileFmt.update ⟨w, k, f⟩ cell ((terms r c).map (fun i =>
          (elemOf (s.me.vreg a.toNat) (r * k + i) w, elemOf (s.me.vreg b.toNat) (c * k + i) w)))))).retire
    (x.c64 = true → exec (.opaF64 d a b mc mr) s = done 64 1 (some f64)) ∧
    (x.c64 = false →
      exec (.opaF32 d a b mc mr) s = done 32 1 (some f32) ∧
      exec (.opaBf16 d a b mc mr) s = done 16 2 (some bf16) ∧
      exec (.opaF16 d a b mc mr) s = done 16 2 (some f16) ∧
      exec (.opaE4m3 d a b mc mr) s = done 8 4 (some e4m3) ∧
      exec (.opaE5m2 d a b mc mr) s = done 8 4 (some e5m2) ∧
      exec (.opaE2m1 d a b mc mr) s = done 4 8 (some e2m1) ∧
      exec (.opaI8 d a b mc mr) s = done 8 4 (none))

/-- R214–R217: on a free engine, with no copy or load in flight and every block of its run or pattern there, a streamed
product runs its K steps: each pops the next block and adds to every cell of a selected row the step's products of the block
and the operand store, dense, perturbed by the generator under the core's key, or sparse by its metadata, rounded once. -/
def Obligations.StreamedProducts : Prop :=
  ∀ (d : BitVec 3) (v a b : Reg) (r : MReg) (bd : Binding) (s : State) (i : Instr) (f : MmsForm), ByHart s → EngineFree s →
    s.ops = [] → s.steps = none → vnamed ⟨[a, b], [v], [], [], [r]⟩ s = .ok () s → s.bindOf v.toNat = some bd → s.me.kstart = 0 →
    s.me.mmspKey = none → (s.tile d).c64 = false → mmsShape f (s.rs a) (s.rs b) = true →
    let x0 := bitsOf (s.rs a) 0 14
    let y0 := bitsOf (s.rs a) 32 14
    let k := bitsOf (s.rs b) 0 15
    let at_ := fun (st : Nat) => { bd with pos := bd.pos + st * f.bytes, part := bd.part.drop (st * f.bytes) }
    (i, f) ∈ [(.mmsBf16 d v a b r, ⟨.dense, ⟨16, 2, some bf16⟩, 1⟩), (.mmsE4m3 d v a b r, ⟨.dense, ⟨8, 4, some e4m3⟩, 1⟩),
      (.mmsE2m1 d v a b r, ⟨.dense, ⟨4, 8, some e2m1⟩, 1⟩), (.mmsI8 d v a b r, ⟨.dense, ⟨8, 4, none⟩, 1⟩),
      (.mmspBf16 d v a b r, ⟨.perturbed, ⟨16, 1, some bf16⟩, 1⟩), (.mmspE4m3 d v a b r, ⟨.perturbed, ⟨8, 1, some e4m3⟩, 1⟩),
      (.mmssBf16 d v a b r, ⟨.sparse, ⟨16, 8, some bf16⟩, 2⟩), (.mmssE4m3 d v a b r, ⟨.sparse, ⟨8, 8, some e4m3⟩, 1⟩)] →
    (f.kind = .sparse → s.illegalCode y0 0 k = none) → (∀ st < k, s.avail (at_ st) f.bytes = .ready) →
    exec i s = .next ((((List.range k).foldl (fun u st =>
      (u.setBind (at_ (st + 1))).setTile d ((u.tile d).update (s.lineOn r) (fun _ _ => true)
        (s.mmsCell f s.core.key (bitsOf (s.rs b) 32 32) x0 y0 st (s.peek (at_ st) f.bytes)))) s).setKstart 0).setHeldKey
        none).retire

/-- R219–R222: SCACC adds each cell of a partial tile, scaled by its row's and its column's block and band scales; TZERO zeroes
the selected cells, or the whole tile when it changes mode; TMOV moves four rows of cells into a register and TWR a
register's elements into cells.

R223–R226: with nothing in flight and every cell at a place of this chip, TST and TRD store the cells of the selected rows from
kstart on, by stride or by an index per row, and TLDT loads them; kstart is 0 at the end. -/
def Obligations.TileCells : Prop :=
  (∀ (d p : BitVec 3) (a b q v o : Reg) (c r m : MReg) (s : State), VectorReady s → EngineFree s →
     let x := s.tile d
     let y := s.tile p
     let r0 := (s.rs a).toNat
     let lane := fun (i : Nat) => elemOf (s.me.vreg q.toNat) i 16
     (x.c64 = false → y.c64 = false → exec (.scacc d p a b q) s =
       .next (s.setTile d (x.update (fun _ => true) (fun _ _ => true) (fun i j cell => scaledCell cell (y.cell i j)
         (sideScale (elemOf (s.me.vreg a.toNat) i 8) (lane (i / 64)))
         (sideScale (elemOf (s.me.vreg b.toNat) j 8) (lane (2 + j / 64)))))).retire) ∧
     (o = 0 ∨ o = 1 → exec (.tzero d o c r) s = .next (s.setTile d
       (if decide (o = 1) ≠ x.c64 ∨ ((List.range 128).all (s.lineOn r) && (List.range x.cols).all (s.lineOn c)) = true
        then { Tile.reset with c64 := decide (o = 1) }
        else x.update (s.lineOn r) (fun _ j => s.lineOn c j) (fun _ _ _ => 0))).retire) ∧
     (r0 % 4 = 0 → r0 < 128 →
       exec (.tmov d v a m) s = .next (eachElement s (min s.vl (4 * x.cols)) x.bits m (fun u i =>
         u.setElem v.toNat i x.bits (x.cell (r0 + i / x.cols) (i % x.cols)))).retire ∧
       exec (.twr d v a m) s = .next (s.setTile d (((List.range (min s.vl (4 * x.cols))).filter
         (fun i => s.maskBit m.toNat i x.bits)).foldl
           (fun t i => t.setCell (r0 + i / x.cols) (i % x.cols) (elemOf (s.me.vreg v.toNat) i x.bits)) x)).retire)) ∧
  (∀ (d : BitVec 3) (b c v : Reg) (m r : MReg) (h : HReg) (q : Nat) (s : State), VectorReady s → EngineFree s → s.ops = [] →
     Handle s h q →
     let x := s.tile d
     let w := x.bits / 8
     let stride := fun (i j : Nat) => s.rs b + BitVec.ofNat 64 i * s.rs c + BitVec.ofNat 64 (j * w)
     let index := fun (i j : Nat) =>
       s.rs b + BitVec.ofNat 64 (elemOf (s.me.vreg v.toNat) i 64) + BitVec.ofNat 64 (j * w)
     let column := fun (i j : Nat) => s.rs b + BitVec.ofNat 64 j * s.rs c + BitVec.ofNat 64 (i * w)
     let stored := fun (es : List VElem) => Host.Outcome.next (φ := Fault) (ρ := Refusal) ((es.foldl (fun u e => match e.at_ with
       | .ok (.remote _ _ _ _) => u
       | .ok pl => u.storeAt pl w (x.cell (e.i / x.cols) (e.i % x.cols))
       | .error _ => u) s).setKstart 0).retire
     let drained := s.cellsAt .vstore w x.cols (s.drainRows r) (List.range x.cols) stride
     let scattered := s.cellsAt .vstore w x.cols (s.drainRows r) ((List.range x.cols).filter (s.lineOn m)) index
     let loaded := s.cellsAt .vload w x.cols ((List.range 128).filter (s.lineOn r)) (List.range (min s.vl x.cols)) column
     (AllHere drained → exec (.tst d b c r h) s = stored drained) ∧
     (AllHere scattered → h = 0 → exec (.trd d b v m r) s = stored scattered) ∧
     (AllHere loaded → exec (.tldt d b c r h) s = .next ((s.setTile d (loaded.foldl (fun t e => match e.at_ with
       | .ok (.remote _ _ _ _) => t
       | .ok pl => t.setCell (e.i / x.cols) (e.i % x.cols) (s.loadAt pl w)
       | .error _ => t.setCell (e.i / x.cols) (e.i % x.cols) 0) x)).setKstart 0).retire))

/-- R227 and R228: an OSLD whose descriptor, run and semaphore pass their checks enters its handle's sequencer; OSMETA reads a
row's index entry, reads the perturbation key, or replaces it and gives the old one; another selector gives zero.

R227 and R211: a performed OSLD whose run bytes are sound fills its rows with run bytes below the P that it took and with
its fill word beyond, sets each row's index entry and is no more; the end
of an engine's ramp ends its slow rate and changes no cell. -/
def Obligations.OperandStore : Prop :=
  (∀ (a b x : Reg) (h : HReg) (q : Nat) (d : OsDesc) (sem : Option Nat) (bs : List Byte) (s : State), ByHart s →
     Named s [x, a, b] → s.hasTile = true →
     (Handle s h q → Descriptor s (s.rs a) 40 bs →
       d = ⟨descWord bs 0, descField bs 8 8, descField bs 16 8, BitVec.ofNat 32 (descField bs 24 4), descField bs 28 2,
         descField bs 30 2⟩ →
       descField bs 32 8 = 0 → d.off % 4 = 0 → d.stride % 4 = 0 → 1 ≤ d.rows → d.row + d.rows ≤ 16384 →
       runHandleOk s s.ctx d.run = true → (handleEntry d.run ≠ 1 ∨ s.me.priv = .s) → checkSem (s.rs b) s = .ok sem s →
       exec (.osld a b h) s = .next (s.addOp q .copy (.osld d sem)).retire) ∧
     (s.osldPending 0 16384 = false →
       (s.rs b = 0 → exec (.osmeta x a b) s = .next (s.setRs x (lookupD 0 s.core.ibase (bitsOf (s.rs a) 0 14))).retire) ∧
       (s.rs b = 1 → exec (.osmeta x a b) s = .next (s.setRs x s.core.key).retire) ∧
       (s.rs b = 2 →
         exec (.osmeta x a b) s = .next (((s.setCore { s.core with key := s.rs a }).setRs x s.core.key).retire)) ∧
       (2 < (s.rs b).toNat → exec (.osmeta x a b) s = .next (s.setRs x 0).retire))) ∧
  (∀ (s : State) (o : Op) (d : OsDesc) (core : Nat),
     (Canonical s → s.opAt o.id = some o → o.phase = .working → o.kind = .osld d none → o.core < 512 →
       d.row + d.rows ≤ 16384 →
       (∀ t < d.rows, s.badIn o.ctx (handleEntry d.run) (d.off + t * d.stride)
         (min (d.off + t * d.stride + 512) o.counts.1.toNat) = none) →
       ∃ t, exec (.osldPerformed o.id) s = .next t ∧ t.alive o.id = false ∧
         (∀ k < d.rows, lookupD 0 (t.coreAt o.core).ibase (d.row + k) =
           BitVec.ofNat 64 ((d.off + k * d.stride) / 4)) ∧
         (∀ k < d.rows, ∀ j < 512, byteAt t (osKey o.core (512 * (d.row + k) + j)) =
           let x := d.off + k * d.stride + j
           if x < o.counts.1.toNat then s.runByte o.ctx (handleEntry d.run) x else fillByte d.fill j)) ∧
     ((s.coreAt core).tile.ramp = true →
       ∃ t, exec (.tileRampEnd core) s = .next t ∧ (t.coreAt core).tile.ramp = false ∧
         (t.coreAt core).tile.tiles = (s.coreAt core).tile.tiles ∧ t.mem = s.mem))

/-! ## Handles, semaphores and barriers -/

/-- R233–R242: HNEW, HFORK, HSCOPE and HJOIN allocate the lowest FREE sequencer of the core, LIVE with the next generation and
the scope that the instruction gives, and preceded by what its sources' next operation would follow; the destination names it;
while none is FREE they wait for one that is RETIRING, and trap HANDLE_EXHAUSTED without one, and so do HEXP and HIMP. HRET empties
its register and drops the reference, a broken import's too; HWAIT goes on when all that had entered when it issued is performed
for every observer within the handle's scope, and else waits. A destination of h0, HIMP's too, or an HRET of h0 is illegal (R237).

R233 and R235: what an allocation leaves: the destination names the sequencer, which is LIVE with one reference, the scope
given and the next generation, never 0, and nothing entered.

R243 and R244: HEXP moves what its handle follows to a new EXPORTED sequencer and gives d its value; HIMP of a value of this
chip whose exporter is in scope makes a LIVE handle, broken when the exporter's is, and leaves the exporter RETIRING or FREE;
a value whose reserved bits are not zero traps HANDLE_BAD with the value. -/
def Obligations.Handles : Prop :=
  (∀ (d a b : HReg) (k : BitVec 5) (q o p : Nat) (s : State), ByHart s → Handle s a o → Handle s b p →
     let x := s.core.seqr o
     let y := s.core.seqr p
     let follows := fun (n : Nat) => s.predsAt s.me.core n
     (d ≠ 0 → s.core.freeSeqr = some q →
       exec (.hnew d k) s = .next (s.newHandle d q (k.setWidth 3) [] none).retire ∧
       exec (.hfork d a) s = .next (s.newHandle d q x.scope (follows o) none).retire ∧
       exec (.hscope d a k) s = .next (s.newHandle d q (k.setWidth 3) (follows o) none).retire ∧
       exec (.hjoin d a b) s = .next (s.newHandle d q (if x.scope.toNat < y.scope.toNat then y.scope else x.scope)
         (follows o ++ follows p).eraseDups none).retire) ∧
     (let awaited := s.me.hwait.getD (x.entered.filter s.alive)
      let held := s.holds s.cur.owner (s.scopeOf s.cur.owner o)
      ((∀ n ∈ awaited, held n = false) → exec (.hwait a) s = .next (s.setMe { s.me with hwait := none }).retire) ∧
      ((∃ n ∈ awaited, held n = true) →
        exec (.hwait a) s = .next (s.setMe { s.me with hwait := some awaited }).enterWait)) ∧
     (∀ i ∈ [Instr.hnew d k, .hfork d a, .hscope d a k, .hjoin d a b], d ≠ 0 → s.core.freeSeqr = none →
       ((∃ y ∈ s.core.seqs.toList, y.state = .retiring) → exec i s = .next s.enterWait) ∧
       ((∀ y ∈ s.core.seqs.toList, y.state ≠ .retiring) →
         exec i s = .next (State.takeTrap s (.at .handleExhausted 0) s))) ∧
     (∀ i ∈ [Instr.hnew 0 k, .hfork 0 a, .hscope 0 a k, .hjoin 0 a b, .hret 0],
       exec i s = .next (State.takeTrap s (.at .illegalInstr (s.word.setWidth 64)) s))) ∧
  (∀ (a : HReg) (o : Nat) (s : State), ByHart s → a ≠ 0 → vecGet none s.hregs a.toNat = some o →
     exec (.hret a) s = .next ((s.setHreg a none).dropRef s.me.core o).retire) ∧
  (∀ (d : HReg) (q : Nat) (sc : BitVec 3) (before : List Nat) (s : State), ByHart s → q < 64 →
     vecGet none s.hregs d.toNat = none →
     let t := s.newHandle d q sc before none
     vecGet none t.hregs d.toNat = some q ∧ (t.core.seqr q).state = .live ∧ (t.core.seqr q).scope = sc ∧
     (t.core.seqr q).refs = 1 ∧ (t.core.seqr q).entered = [] ∧ (t.core.seqr q).before = before ∧ (t.core.seqr q).gen ≠ 0 ∧
     ((s.core.seqr q).gen + 1 ≠ 0 → (t.core.seqr q).gen = (s.core.seqr q).gen + 1) ∧
     (∀ r, r ≠ q → t.core.seqr r = s.core.seqr r)) ∧
  (∀ (d : Reg) (h a : HReg) (v : Reg) (q o c : Nat) (s : State), ByHart s → Named s [d, v] → h ≠ 0 →
     (Handle s a o → s.core.freeSeqr = some q →
       let t := s.setCore (s.core.allocSeqr q .exported (s.core.seqr o).scope (s.predsAt s.me.core o) none s.cur.owner.key)
       exec (.hexp d a) s = .next (t.setRs d (t.handleValue q)).retire) ∧
     (let w := s.rs v
      (∀ i : Instr, (i = .hexp d a ∧ Handle s a o) ∨
          (i = .himp h v ∧ bitsOf w 32 4 = 0 ∧ bitsOf w 36 3 ≤ 5 ∧ w ≠ 0 ∧ bitsOf w 54 10 = s.chipId.toNat ∧
            s.importable w = some c) →
         s.core.freeSeqr = none →
         ((∃ y ∈ s.core.seqs.toList, y.state = .retiring) → exec i s = .next s.enterWait) ∧
         ((∀ y ∈ s.core.seqs.toList, y.state ≠ .retiring) →
           exec i s = .next (State.takeTrap s (.at .handleExhausted 0) s))) ∧
      exec (.himp 0 v) s = .next (State.takeTrap s (.at .illegalInstr (s.word.setWidth 64)) s) ∧
      (bitsOf w 32 4 = 0 → bitsOf w 36 3 ≤ 5 → w ≠ 0 → bitsOf w 54 10 = s.chipId.toNat → s.importable w = some c →
         s.core.freeSeqr = some q →
         exec (.himp h v) s =
           .next (((s.newHandle h q (BitVec.ofNat 3 (bitsOf w 36 3)) (s.predsAt c (bitsOf w 39 6))
             ((s.coreAt c).seqr (bitsOf w 39 6)).broken).retireExport c (bitsOf w 39 6)).retire)) ∧
      (bitsOf w 32 4 ≠ 0 ∨ 5 < bitsOf w 36 3 →
         exec (.himp h v) s = .next (State.takeTrap s (.at .handleBad w) s))))

/-- R301–R303 and R247: SEMACQ of an amount that the semaphore holds, with no one waiting and what precedes it performed,
takes it and gives d the value found; else the hart joins the waiters, behind those that wait, and waits; an amount of 0
reads, whatever precedes it. SEMREL adds to the semaphore and sets bit 0 of the event latch of each bound hart of its core
(R101), also where the sum passes the range: then the value stands and its issuer is told SEM_OVERFLOW; but a SEMREL of 0 sets
no latch bit (log entry 45). SEMRD reads it.

R301: the waiter at the head of a semaphore's queue that finds enough, with what precedes it performed, takes it: its hart
goes on after the SEMACQ with the value found in d, and waits no more. -/
def Obligations.Semaphores : Prop :=
  (∀ (d a b : Reg) (h : HReg) (q : Nat) (s : State), ByHart s → Named s [d, a, b] → Handle s h q →
     let n := (s.rs a).toNat
     n < 64 →
     let v := s.core.sem n
     let x := s.rs b
     (x ≠ 0 → Ordered s q → (∀ w ∈ s.core.waiters, w.sem ≠ n ∧ w.who ≠ s.cur) → x.toNat ≤ v.toNat →
       exec (.semacq d a b h) s =
         .next ((s.setCore { s.core with sems := vecSet s.core.sems n (v - x) }).setRs d v).retire) ∧
     (x ≠ 0 → (∀ w ∈ s.core.waiters, w.who ≠ s.cur) →
       ((∃ id ∈ s.predsAt s.me.core q, s.holds s.cur.owner (s.scopeOf s.cur.owner q) id = true) ∨
         (∃ w ∈ s.core.waiters, w.sem = n) ∨ v.toNat < x.toNat) →
       exec (.semacq d a b h) s = .next ((s.setCore { s.core with
         waiters := s.core.waiters ++ [⟨n, s.cur, x, d, q, s.predsAt s.me.core q⟩] }).enterWait)) ∧
     (x = 0 → exec (.semacq d a b h) s = .next (s.setRs d v).retire) ∧
     (Prompt s q [] →
       exec (.semrd d a h) s = .next (s.setRs d v).retire ∧
       (x = 0 → exec (.semrel a b h) s = .next s.retire) ∧
       (x ≠ 0 →
         ∃ t, exec (.semrel a b h) s = .next t ∧ t.mem = s.mem ∧ (∀ r, t.rs r = s.rs r) ∧
           (∀ k < 64, k ≠ n → t.core.sem k = s.core.sem k) ∧
           (∀ k : HartId, k.rank < 64 → k.hart < 8 → lookup? s.harts k.key ≠ none → (s.hart k).core = s.me.core →
             (s.hart k).state ∉ [.free, .saved, .halted] → (t.hart k).latch.getLsbD 0 = true) ∧
           (v.toNat + x.toNat < 2 ^ 64 → t.core.sem n = v + x) ∧
           (2 ^ 64 ≤ v.toNat + x.toNat → lookup? s.harts s.cur.owner.key ≠ none →
             t.core.sem n = v ∧
               t.me.reports = s.me.reports ++ [⟨.semOverflow, BitVec.ofNat 64 n, 0, .none, 0, true⟩])))) ∧
  (∀ (core n : Nat) (w : SemWaiter) (k : HartId) (s : State), (s.coreAt core).headWaiter n = some w →
     w.amount.toNat ≤ ((s.coreAt core).sem n).toNat → (∀ p ∈ w.preds, s.alive p = false) → w.who = .hart k →
     (s.hart k).state = .wait → n < 64 → w.dest ≠ 0 →
     ∃ t, exec (.semaphoreGrant core n) s = .next t ∧
       (t.coreAt core).sem n = (s.coreAt core).sem n - w.amount ∧ (t.hart k).state = .run ∧
       (t.hart k).pc = (s.hart k).pc + 4 ∧ vecGet 0 (t.hart k).sregs w.dest.toNat = (s.coreAt core).sem n ∧
       (∀ x ∈ (t.coreAt core).waiters, x.who ≠ w.who))

/-- R316–R320: BARINIT with a valid word arms a barrier that is not armed, breaks and arms again one that is armed with
another word, and changes nothing where the word is the same; the first arrival of a member is noted and gives the phase as
its token, a second one gives the phase again; BARWAIT goes on once the phase has passed its token and waits before; BARARW
does both: it records its token while it waits, and one that finds its record waits on that token and does not arrive again;
BARQ reads the status. BARARR, whose arrival something precedes under its handle that the harts of the group have not all seen
(R321), or that the move leaves for later, goes on and arrives later (log entry 48); BARARW, whose arrival waits, needs what
precedes it performed. -/
def Obligations.Barriers : Prop :=
  ∀ (d a b : Reg) (h : HReg) (q : Nat) (s : State), ByHart s → Named s [d, a, b] → Handle s h q →
    let n := (s.rs a).toNat
    let g := s.cur.owner.group
    let x := s.barrier g n
    let me := s.cur.owner
    n < 32 →
    (barValid (s.rs b) s.group.harts = true →
      (x.state ≠ .armed → exec (.barinit a b) s = .next (s.armBarrier g n (s.rs b)).retire) ∧
      (x.state = .armed → x.cfg = s.rs b → exec (.barinit a b) s = .next s.retire) ∧
      (x.state = .armed → x.cfg ≠ s.rs b →
        exec (.barinit a b) s = .next ((s.breakBarrier g n).armBarrier g n (s.rs b)).retire)) ∧
    (x.state = .armed → barMember x.cfg me = true → s.late = true ∨
        (∃ id ∈ s.predsAt s.me.core q, s.holds s.cur.owner (max 2 (s.scopeOf s.cur.owner q)) id = true) →
      ∃ t, exec (.bararr d a h) s = .next t ∧ (∃ o, t.ops = s.ops ++ [o] ∧ o.entered = q ∧ o.preds = s.predsAt s.me.core q) ∧
        t.groups = s.groups ∧ t.me.pc = s.me.retire.pc ∧ (d ≠ 0 → bitOf t.me.pending d.toNat = true)) ∧
    (x.state = .armed → barMember x.cfg me = true → Ordered s q → s.late = false →
      (x.arrived.contains me.num = false → exec (.bararr d a h) s =
        .next (((s.setBarrier g n { x with arrived := x.arrived ++ [me.num] }).testBarrier g n).setRs d
          (x.phase.setWidth 64)).retire) ∧
      (x.arrived.contains me.num = true →
        exec (.bararr d a h) s = .next (s.setRs d (x.phase.setWidth 64)).retire)) ∧
    (let s0 := s.setMe { s.me with barRec := none }
     let u := (s0.setBarrier g n { x with arrived := x.arrived ++ [me.num] }).testBarrier g n
     (x.state = .armed → barMember x.cfg me = true → Ordered s q → x.arrived.contains me.num = false →
       (∀ t, s.me.barRec ≠ some (n, t)) → (u.barrier g n).state = .armed →
       (tokenBelow (u.barrier g n).phase x.phase = false → exec (.bararw d a h) s =
         .next (((u.setMe { u.me with barRec := some (n, x.phase) }).enterWait))) ∧
       (tokenBelow (u.barrier g n).phase x.phase = true →
         exec (.bararw d a h) s = .next (u.setRs d (x.phase.setWidth 64)).retire)) ∧
     (∀ tok, x.state = .armed → s.me.barRec = some (n, tok) →
       (tokenBelow x.phase tok = false → exec (.bararw d a h) s =
         .next ((s0.setMe { s0.me with barRec := some (n, tok) }).enterWait)) ∧
       (tokenBelow x.phase tok = true → exec (.bararw d a h) s = .next (s0.setRs d (tok.setWidth 64)).retire))) ∧
    (x.state = .armed → tokenBelow x.phase ((s.rs b).setWidth 32) = true → exec (.barwait a b h) s = .next s.retire) ∧
    (x.state = .armed → tokenBelow x.phase ((s.rs b).setWidth 32) = false →
      exec (.barwait a b h) s = .next (s.setMe { s.me with state := .wait })) ∧
    exec (.barq d a) s = .next (s.setRs d (s.barrierStatus g n)).retire

/-! ## Queues, kernels and groups -/

/-- R286–R288: LAUNCH of a record that the queue accepts creates its kernel and gives d its reference; of one that it refuses,
traps LAUNCH_REFUSED with the reason, which STATE holds; KSTAT gives a kernel's status word; CLAIM takes the lesser of s2,
what its counter has left and a register's elements, gives d the old value and sets vl. -/
def Obligations.LaunchAndClaim : Prop :=
  ∀ (d a b : Reg) (h : HReg) (n : Nat) (bs : List Byte) (s : State), ByHart s → Named s [d, a, b] → Handle s h n →
    let q := (s.rs b).toNat
    let c := s.group.ctx
    (Descriptor s (s.rs a) 64 bs → s.ctx.refusal q (recordWords bs) = 0 →
      ∀ y, s.ctx.queue? q = some y →
        exec (.launch d a b h) s = .next ((((s.addLaunch n q (y.accepted + 1)).acceptLaunch c q (recordWords bs)
          (some s.cur.owner) (s.predsAt s.me.core n)).setRs d (BitVec.ofNat 64 (q * 2 ^ 32 + y.seq.toNat))).retire)) ∧
    (∀ r, Descriptor s (s.rs a) 64 bs → s.ctx.refusal q (recordWords bs) = r → r ≠ 0 →
      exec (.launch d a b h) s = .next (State.takeTrap s (.at .launchRefused (BitVec.ofNat 64 r)) (s.refuseLaunch c q r))) ∧
    (Prompt s n [] → exec (.kstat d a h) s = .next (s.setRs d (s.ctx.kernelStatus (s.rs a))).retire) ∧
    (∀ k, Prompt s n [] → s.vlPending = false → ptrSpace (s.rs a) = 3 → place s .amo 8 8 (s.rs a) = .ok (.iter k false) →
      let v := (s.ctx.iterAt k).1
      let g := min (min (s.rs b).toNat ((s.ctx.iterAt k).2.toNat - v.toNat)) (16384 / s.vsew)
      ∃ t, exec (.claim d a b h) s = .next t ∧ (d ≠ 0 → t.rs d = v) ∧ t.me.vl = BitVec.ofNat 13 g ∧
        (t.ctx.iterAt k).1 = BitVec.ofNat 64 (v.toNat + g) ∧ (t.ctx.iterAt k).2 = (s.ctx.iterAt k).2 ∧ t.mem = s.mem)

/-- R270, R272, R276: SUBMIT presents the staged record, which the queue accepts or refuses with its reason; BLOCK, OPEN and
DRAIN move a queue between its states, DRAIN to BLOCKED at once when nothing is left; CLEAR reopens a queue in ERROR;
DISCARD reopens one in ERROR or BLOCKED. A queue of a SUSPENDED context changes nothing. That DRAIN of a queue whose DONE is its SEQ
leaves it BLOCKED at once is log entry 44.

R275 and R286: the next launch of a queue that may start becomes eligible, and its LAUNCH counts as a store no more. -/
def Obligations.QueueControl : Prop :=
  (∀ (c q : Nat) (s : State) (y : Queue), (s.ctxAt c).queue? q = some y →
     let put := fun (z : Queue) => Host.Outcome.next (φ := Fault) (ρ := Refusal) (s.setCtxAt c ((s.ctxAt c).setQueue q z))
     ((s.ctxAt c).refusal q y.stage = 0 → exec (.submit c q) s = .next (s.acceptLaunch c q y.stage none [])) ∧
     ((s.ctxAt c).refusal q y.stage ≠ 0 →
       exec (.submit c q) s = .next (s.refuseLaunch c q ((s.ctxAt c).refusal q y.stage))) ∧
     ((s.ctxAt c).state ≠ .suspended →
       (y.state = .opened → exec (.ctrlBlock c q) s = put { y with state := .blocked }) ∧
       (y.state = .blocked → exec (.ctrlOpen c q) s = put { y with state := .opened }) ∧
       (y.state = .opened ∨ y.state = .blocked →
         exec (.ctrlDrain c q) s = put { y with state := if y.done = y.seq then .blocked else .draining }) ∧
       (y.state = .error → exec (.ctrlClear c q) s = put { y with state := .opened, leftError := y.accepted }) ∧
       (y.state = .error ∨ y.state = .blocked →
         exec (.ctrlDiscard c q) s = .next (((y.kernels.filter (fun k => k.state == .queued)).foldl
           (fun u k => (u.endLaunch c q k.ord).wakeLauncher k) (s.setCtxAt c ((s.ctxAt c).setQueue q y.discard))).settleQueues
             c))) ∧
     ((s.ctxAt c).state = .suspended →
       exec (.ctrlBlock c q) s = .next s ∧ exec (.ctrlOpen c q) s = .next s ∧ exec (.ctrlDrain c q) s = .next s ∧
       exec (.ctrlClear c q) s = .next s ∧ exec (.ctrlDiscard c q) s = .next s)) ∧
  (∀ (c q : Nat) (s : State) (y : Queue) (k : Kernel), (s.ctxAt c).queue? q = some y → y.next? = some k →
     k.eligible = false → s.mayStartLaunch c y k = true → (s.ctxAt c).state ≠ .suspended →
     exec (.launchEligible c q) s =
       .next ((s.setCtxAt c ((s.ctxAt c).setQueue q (y.setKernel { k with eligible := true }))).endLaunch c q k.ord))

/-- R305–R307: GINFO writes d with what s1 selects of the group; GEXIT, with nothing of its hart left to wait for and no other
hart of the group still in BOUND, halts its hart and stops every other one, whatever those have still in flight or bound (log
entry 77); HYIELD without a request writes 0, and with one on a group that can be saved it pre-empts the group, the hart's PC
past it.

R298 and R291: a group that is EXITING with every operation complete ends the bindings, handles and sets that its harts still
have and, once what those append is complete too, releases everything with its status; Kennel's kill, of its own accord, of a
group of an ACTIVE context ends the group with status 1, and one of a group that is still QUEUED counts it as exited (log
entry 30). -/
def Obligations.GroupInstructions : Prop :=
  (∀ (d a : Reg) (s : State), ByHart s → Named s [d, a] →
     (∃ v, exec (.ginfo d a) s = .next (s.setRs d v).retire ∧
       (s.rs a = 0 → v = BitVec.ofNat 64 s.group.index) ∧ (s.rs a = 1 → v = BitVec.ofNat 64 (bitsOf s.group.word0 0 16 + 1)) ∧
       (s.rs a = 2 → v = BitVec.ofNat 64 (s.group.queue * 2 ^ 32 + s.group.seq.toNat)) ∧ (s.rs a = 3 → v = BitVec.ofNat 64 s.group.harts) ∧
       (s.rs a = 4 → v = BitVec.ofNat 64 s.group.range) ∧ (s.rs a = 5 → v = BitVec.ofNat 64 s.group.die) ∧
       (s.rs a = 6 → v = s.group.word0) ∧ (6 < (s.rs a).toNat → v = 0)) ∧
     (s.me.tileProg = none → s.me.streamProg = none → s.me.strands = [] → s.me.lanes = [] →
       (∀ o ∈ s.ops, o.issuer.owner ≠ s.cur.owner) →
       ((∀ h ∈ s.others, (s.hart h).state ≠ .bound) → exec .gexit s =
         .next ((s.others.foldl State.stopHart (s.haltHart s.cur.owner)).checkExit s.cur.owner.group)) ∧
       ((∃ h ∈ s.others, (s.hart h).state = .bound) → exec .gexit s = .next (s.setMe { s.me with state := .wait }))) ∧
     (s.group.request = false → exec (.hyield d) s = .next (s.setRs d 0).retire) ∧
     (s.group.request = true → s.preemptable s.cur.owner.group = true →
       exec (.hyield d) s =
         .next ((s.retire.setMe { s.retire.me with yieldDest := some d }).preempt s.cur.owner.group))) ∧
  (∀ (g : Nat) (s : State),
     ((s.groupAt g).state = .exiting → s.groupOps g = [] → (∀ h ∈ s.membersOf g, (s.hart h).lanes = []) →
       let u := ((s.membersOf g).filter (fun h => (s.hart h).vset.isSome)).foldl State.endHart s
       (u.groupOps g = [] → exec (.groupExitComplete g) s = .next (u.releaseGroup g (u.groupAt g).status)) ∧
       (u.groupOps g ≠ [] → exec (.groupExitComplete g) s = .next u) ∧
       ((∀ h ∈ s.membersOf g, (s.hart h).vset = none) → u = s)) ∧
     ((s.groupAt g).state ≠ .gone → (s.ctxAt (s.groupAt g).ctx).state = .active →
       exec (.kennelKillGroup (s.groupAt g).ctx (.bound g) none) s = .next (s.killGroup g none 1)) ∧
     (∀ (c q ord : Nat) (k : Kernel), s.queuedGroup c q ord = some k →
       ((s.ctxAt c).state = .active ∨ (s.ctxAt c).state = .idle) →
       exec (.kennelKillGroup c (.queued q ord) none) s = .next (s.killQueued c q k)))

/-- R282–R284: Kennel writes and clears a die's standing bind records; dispatch binds the next group of a launch that a record
offers; Kennel binds one where no record names its queue.

R106, R149 and R171: an eviction saves a RETAINED set, whose registers and masks that vdirty does not mark read zero
afterwards and whose reads load again what they had loaded ahead; R294: the harts of a rank leave BOUND for RUN together,
after those of the ranks below.

R295, R297, R307, and R291's states: a request on a group in RUN is noted; at the end of its grace the group is saved: it is
in SAVING, its request met, and each of its harts that had not halted is SAVED with its set RETAINED; when no load and no
vector or tile instruction of its harts is in flight the save completes and the group is SAVED; a SAVED group of an ACTIVE
context whose cores have room resumes in RUN. -/
def Obligations.GroupsMove : Prop :=
  ((∀ (die slot : Nat) (s : State), die < 8 →
     ∃ t, exec (.bindRecordWrite die slot none) s = .next t ∧
       lookup? (vecGet Die.reset t.dies die).slots slot = none ∧ t.mem = s.mem ∧ t.harts = s.harts) ∧
   (∀ (die slot : Nat) (r : BindRecord) (s : State), die < 8 → slot < 64 →
     ({ s with dies := vecSet s.dies die { vecGet Die.reset s.dies die with
         slots := eraseKey (vecGet Die.reset s.dies die).slots slot } } : State).recordOk die r = true →
     ∃ t, exec (.bindRecordWrite die slot (some r)) s = .next t ∧
       lookup? (vecGet Die.reset t.dies die).slots slot = some r ∧ t.harts = s.harts) ∧
   (∀ (die slot : Nat) (r : BindRecord) (k : Kernel) (img : Image) (l : List (Nat × Nat)) (s : State),
     lookup? (vecGet Die.reset s.dies die).slots slot = some r →
     ((s.ctxAt r.ctx).queue? r.queue).bind Queue.binding? = some k → (s.ctxAt r.ctx).imageOf k = some img →
     s.offer r k = some l → (s.ctxAt r.ctx).binds = true →
     (s.nextQueue r.ctx (s.virtDie r.ctx (r.cores.headD 0))).getD r.queue = r.queue →
     ∃ t, exec (.groupBind die slot) s = .next t ∧ t.nextGroup = s.nextGroup + 1 ∧
       (t.groupAt s.nextGroup).ctx = r.ctx ∧ (t.groupAt s.nextGroup).cores = l.map Prod.fst) ∧
   (∀ (c q die : Nat) (cores : List Nat) (k : Kernel) (img : Image) (s : State),
     ((s.ctxAt c).queue? q).bind Queue.binding? = some k → (s.ctxAt c).imageOf k = some img → (s.ctxAt c).binds = true →
     (∀ d ∈ s.dies.toList, ∀ p ∈ d.slots, ¬(p.2.ctx = c ∧ p.2.queue = q)) → s.fits c q die k = true →
     s.nextQueue c die = some q → cores.length = launchCores k.words → cores = cores.eraseDups →
     (∀ x ∈ cores, x ∈ s.open_ c q die k) →
     ∃ t, exec (.kennelBindGroup c q die cores) s = .next t ∧ t.nextGroup = s.nextGroup + 1 ∧
       (t.groupAt s.nextGroup).ctx = c ∧ (t.groupAt s.nextGroup).cores = cores)) ∧
  ((∀ (h : HartId) (v : VSet) (s : State), (s.hart h).state = .saved → (s.hart h).vset = some v → v.state = .retained →
     ∃ t, exec (.vectorSetEvict h) s = .next t ∧
       let w := v.evict (s.hart h).vdirty ((s.hart h).lanes.flatMap Queued.names)
       (t.hart h).vset = some w ∧ w.state = .evicted ∧
       (∀ k < 32, vecGet 0 w.hi k = if bitOf (s.hart h).vdirty k then vecGet 0 v.hi k else 0) ∧
       (∀ k < 24, vecGet 0 w.masks k = if bitOf (s.hart h).vdirty (32 + k) then vecGet 0 v.masks k else 0) ∧
       (∀ b ∈ v.binds, (b.kind = .read ∨ b.kind = .patRead) → (s.hart h).lanes = [] → { b with part := [] } ∈ w.binds)) ∧
   (∀ (g rank : Nat) (s : State), (s.groupAt g).state = .run → rank < (s.groupAt g).cores.length →
     rank ∉ (s.groupAt g).started → (∀ r < rank, r ∈ (s.groupAt g).started) →
     ∃ t, exec (.hartStart g rank) s = .next t ∧ (t.groupAt g).started = (s.groupAt g).started ++ [rank] ∧
       (∀ h ∈ s.membersOf g, h.rank = rank → (s.hart h).state = .bound → (t.hart h).state = .run) ∧
       t.mem = s.mem ∧ t.cores = s.cores)) ∧
  (∀ (g : Nat) (s : State),
     ((s.groupAt g).state = .run →
       exec (.kennelPreemptRequest g) s = .next (s.setGroupAt g { s.groupAt g with request := true })) ∧
     ((s.groupAt g).request = true → s.preemptable g = true →
       ∃ t, exec (.preemptGraceExpiry g) s = .next t ∧ (t.groupAt g).state = .saving ∧ (t.groupAt g).request = false ∧
         (∀ h ∈ s.membersOf g, (s.hart h).state ≠ .halted → (t.hart h).state = .saved ∧
           ∀ v, (s.hart h).vset = some v → (t.hart h).vset = some { v with state := .retained }) ∧ t.mem = s.mem) ∧
     ((s.groupAt g).state = .saving → (∀ h ∈ s.membersOf g, (s.hart h).pending = 0 ∧ (s.hart h).vpending = 0 ∧ (s.hart h).lanes = [] ∧
         ∀ o ∈ s.ops, o.issuer.owner = h → o.kind.fillsSet = false ∧ o.kind.isTileLoad = false ∧ (o.issuer = .hart h → o.loads = false)) →
       (s.ctxAt (s.groupAt g).ctx).suspending = false →
       ∃ t, exec (.saveComplete g) s = .next t ∧ (t.groupAt g).state = .saved) ∧
     ((s.groupAt g).state = .saved → (s.ctxAt (s.groupAt g).ctx).state = .active →
       (s.ctxAt (s.groupAt g).ctx).suspending = false → (∀ h ∈ s.membersOf g, (s.hart h).trapHeld = false) →
       (s.groupAt g).cores.all (s.resumable g) = true →
       ∃ t, exec (.groupResume g) s = .next t ∧ (t.groupAt g).state = .run ∧ (t.groupAt g).started = [] ∧
         t.mem = s.mem))

/-! ## Waits, traps and contexts -/

/-- R85, R68, R69, R101, R111, R115 and R206: a report that a hart takes is a trap with the report's cause and tval, once no
load is pending and its vector instructions have completed; where no stream element holds the hart, the report is gone and
nothing else of the hart's data changes. A hart in WAIT, whichever blocking instruction it is held in, goes on when that
instruction, tested afresh, does, and leaves what it leaves; it stays as it is while the instruction still waits (log entry
26). One held because a queue is full goes on when that queue has room. A WFE whose latch is set by then gives it to d. A
WFE's timeout sets latch bit 4. A hart that the next element of a stream held goes on when the register has it, and not
before. -/
def Obligations.WaitsThatEnd : Prop :=
  ∀ (h : HartId) (s : State),
    let x := s.hart h
    let u := s.testing h
    (∀ k r, x.reports[k]? = some r → (x.state = .run ∨ x.state = .wait) → s.quiet h = true →
      ∃ t, exec (.deferredTrap h k) s = .next t ∧ (t.hart h).tval = r.tval ∧ bitsOf (t.hart h).tcause 0 8 = r.cause.code ∧
        (x.stalled = none → (t.hart h).reports = x.reports.eraseIdx k ∧ (t.hart h).sregs = x.sregs ∧ t.mem = s.mem)) ∧
    (x.state = .wait → x.reports = [] → (x.vqueue ≠ [] ∨ blocking u.word = none) →
      (s.queueRoom h = true → exec (.hartWaitEnds h) s = .next (s.setHart h { x with state := .run })) ∧
      (s.queueRoom h = false → exec (.hartWaitEnds h) s = .next s)) ∧
    (∀ (i : Instr) (a b c d : Reg) (k l m : HReg) (t : State), x.state = .wait → x.reports = [] → x.vqueue = [] → u.word = encode i →
      i ∈ [.waitc a b c d, .fork a b, .rdv, .wfe d a, .halth, .vjoin, .vrelease, .rsort a k, .rmerge a k, .rpart a k, .rtag a k,
        .rjoin a k, .nmc d a b k, .hnew k a, .hfork k l, .hjoin k l m, .hwait k, .hscope k l a, .hexp d k, .himp k a,
        .semacq d a b k, .gexit, .barwait a b k, .bararw d a k, .xtkwait a b k] →
      exec i u = .next t →
      ((t.hart h).state ≠ .wait → t ≠ u → exec (.hartWaitEnds h) s = .next { t with cur := s.cur, word := s.word }) ∧
      ((t.hart h).state = .wait ∨ t = u → exec (.hartWaitEnds h) s = .next s)) ∧
    (∀ d a : Reg, x.state = .wait → x.reports = [] → x.vqueue = [] → u.word = encode (.wfe d a) → Named u [d, a] →
      (x.latch ≠ 0 →
        ∃ t, exec (.hartWaitEnds h) s = .next t ∧ (t.hart h).state = .run ∧ (t.hart h).pc = x.pc + 4 ∧
          (t.hart h).latch = 0 ∧ (d ≠ 0 → vecGet 0 (t.hart h).sregs d.toNat = x.latch.setWidth 64) ∧ t.mem = s.mem) ∧
      (x.latch = 0 → exec (.hartWaitEnds h) s = .next s)) ∧
    (∀ n, x.state = .wait → x.wfeAt = some n → n ≤ s.cycle →
      exec (.wfeTimeout h) s = .next (s.setHart h { x with latch := x.latch ||| 16 })) ∧
    (∀ r b, x.stalled = some r → ({ s with cur := .hart h } : State).bindOf r = some b →
      (s.streamReady h b = true → exec (.streamStallEnd h) s = .next (s.setHart h { x with stalled := none })) ∧
      (s.streamReady h b = false → exec (.streamStallEnd h) s = .next s))

/-- R98, R264 and R265: Kennel settles a service request from S: service 1 kills the group with its status, 2 appends a note
to the fault run and publishes it, 3 grows the pool when it may and answers 1 or 0 in s2, an unknown one answers with all
ones, and the hart goes on at S after its SYSC; it grows the pool for a POOL_EMPTY and the ROPEN issues again, kills the group
where it may not, or reflects that trap to the handler. A machine check kills the group, or resets the context where the state
is shared. The service's number is read from s1 (log entry 19), the pool that grows is that of the hart's die (log entry 32),
the tcause of a NOTE's record and the die of GROW are the hart's (log entry 28), Kennel always grows a pool when it may and
kills with status 1 (log entry 27), and a record whose pages cannot be had is not appended (log entry 33). -/
def Obligations.EscalatedTraps : Prop :=
  ∀ (h : HartId) (s : State),
    let x := s.hart h
    let g := s.groupAt h.group
    let number := vecGet 0 x.sregs 1
    let arg := vecGet 0 x.sregs 2
    (x.trapHeld = true → (s.ctxAt g.ctx).state = .active → bitsOf x.tcause 0 8 = 9 → bitOf x.tcause 19 = true →
      (number = 1 →
        exec (.kennelResumeHart h) s = .next (s.killGroup h.group (some h) (BitVec.ofNat 8 (128 + arg.toNat % 128)))) ∧
      (number = 3 →
        let n := (arg.toNat + 2 ^ 21 - 1) / 2 ^ 21
        let die := x.core / 64
        ∃ t, exec (.kennelResumeHart h) s = .next t ∧ (t.hart h).pc = x.tpc + 4 ∧ (t.hart h).priv = .s ∧
          (t.hart h).trapHeld = false ∧
          vecGet 0 (t.hart h).sregs 2 = (if s.mayGrow g.ctx die n = true then 1 else 0) ∧
          (t.ctxAt g.ctx).poolAt die = (s.ctxAt g.ctx).poolAt die + if s.mayGrow g.ctx die n = true then n else 0) ∧
      (number = 2 → Canonical s →
        let r := s.runAt g.ctx 0
        let more := (r.grown ((r.len + 1) * 32)).units - r.units
        r.state = .opened → r.size = 32 → r.host = false → r.pub ≤ r.len → (r.len + 1) * 32 ≤ 2 ^ 42 →
        (∀ o ∈ s.ops, o.taken = []) → s.lineBad g.ctx 0 (r.len / 2) = false →
        (more = 0 ∨ (r.home < 8 ∧ (s.ctxAt g.ctx).stained = [] ∧
          more ≤ (s.ctxAt g.ctx).poolAt r.home + (vecGet Die.reset s.dies r.home).units)) →
        ∃ t, exec (.kennelResumeHart h) s = .next t ∧ (t.hart h).pc = x.tpc + 4 ∧ (t.hart h).priv = .s ∧
          (t.hart h).trapHeld = false ∧ (t.hart h).sregs = x.sregs ∧ (t.runAt g.ctx 0).len = r.len + 1 ∧
          (t.runAt g.ctx 0).pub = r.len + 1 ∧
          t.record g.ctx 0 r.len = natLe 8 (s.ctxAt g.ctx).faults ++ natLe 8 x.tcause.toNat ++ natLe 8 arg.toNat ++
            natLe 4 x.tpc.toNat ++ natLe 1 h.hart ++ natLe 1 h.rank ++ natLe 1 g.die ++ natLe 1 4) ∧
      (3 < number.toNat →
        ∃ t, exec (.kennelResumeHart h) s = .next t ∧ (t.hart h).pc = x.tpc + 4 ∧ (t.hart h).priv = .s ∧
          (t.hart h).trapHeld = false ∧ vecGet 0 (t.hart h).sregs 2 = BitVec.allOnes 64 ∧ t.ctxs = s.ctxs)) ∧
    (x.trapHeld = true → x.state = .suspended → (s.ctxAt g.ctx).state = .active → bitsOf x.tcause 0 8 = 29 →
      let pages := s.supply g.ctx (x.core / 64)
        (reservationUnits (reserveOf (({ s with cur := .hart h } : State).codeWord x.tpc.toNat) x.sregs))
      (∀ u, pages = .ok u →
        ∃ t, exec (.kennelResumeHart h) s = .next t ∧ (t.hart h).state = .run ∧ (t.hart h).trapHeld = false ∧
          (t.hart h).pc = x.pc ∧ (t.hart h).sregs = x.sregs ∧ t.ctxs = u.ctxs) ∧
      (∀ n, pages = .error n → exec (.kennelResumeHart h) s = .next (s.killGroup h.group (some h) 1))) ∧
    (∀ e, x.trapHeld = true → x.state = .suspended → bitsOf x.tcause 0 8 = 29 → bitOf x.tcause 19 = false →
      g.handler = some e →
      ∃ t, exec (.kennelReflectTrap h) s = .next t ∧ (t.hart h).state = .run ∧ (t.hart h).priv = .s ∧
        (t.hart h).pc = BitVec.ofNat 64 e ∧ (t.hart h).tpc = x.tpc ∧ (t.hart h).tcause = x.tcause ∧ t.mem = s.mem) ∧
    (∀ unit : Word, lookup? s.harts h.key ≠ none → (s.ctxAt g.ctx).state = .active →
      (∃ t, exec (.machineCheck h unit false) s = .next t ∧ lookup? t.groups h.group = none) ∧
      (∃ t, exec (.machineCheck h unit true) s = .next t ∧ (t.ctxAt g.ctx).state = .resetting))

/-- R258, R261, R266 and R325: Kennel suspends a context by asking each of its groups in RUN to be saved, and resumes it;
moves page units between a die and the pool's part on it (log entry 32); changes an IDLE context's cores, counters and queues,
with the cores that it gives up zeroed and no routing configured where counters are reassigned (R193); and a context that has
been cleared is no more, its runs and its cores zero. -/
def Obligations.ContextChanges : Prop :=
  ∀ (c : Nat) (s : State),
    let x := s.ctxAt c
    (x.state = .active → x.suspending = false →
      ∃ t, exec (.kennelSuspendContext c true) s = .next t ∧
        ((t.ctxAt c).suspending = true ∨ (t.ctxAt c).state = .suspended) ∧
        (∀ g y, lookup? s.groups g = some y → y.ctx = c → y.state = .run → (t.groupAt g).request = true) ∧
        t.harts = s.harts ∧ t.mem = s.mem) ∧
    (x.state = .suspended →
      exec (.kennelSuspendContext c false) s = .next ((s.setCtxAt c { x with state := .active }).settleQueues c)) ∧
    (∀ die n, (x.state = .idle ∨ x.state = .active ∨ x.state = .suspended) →
      let d := vecGet Die.reset s.dies die
      (s.mayGrow c die n = true →
        ∃ t, exec (.kennelGrowPool c die n) s = .next t ∧ (t.ctxAt c).poolAt die = x.poolAt die + n ∧
          (∀ k, k ≠ die → (t.ctxAt c).poolAt k = x.poolAt k) ∧
          (vecGet Die.reset t.dies die).units = d.units - n ∧ t.mem = s.mem) ∧
      (n ≤ x.poolAt die → die < 8 →
        ∃ t, exec (.kennelShrinkPool c die n) s = .next t ∧ (t.ctxAt c).poolAt die = x.poolAt die - n ∧
          (∀ k, k ≠ die → (t.ctxAt c).poolAt k = x.poolAt k) ∧
          (vecGet Die.reset t.dies die).units = d.units + n ∧ t.mem = s.mem)) ∧
    (∀ part iters routes queues, x.state = .idle → s.partOk x.vf c part = true → iters ≤ 256 → routes ≤ 256 →
      s.countersFree c part iters routes = true → 1 ≤ queues → s.queuesHeld c + queues ≤ 4096 →
      (∀ p ∈ x.queues, queues ≤ p.1 → p.2.held = 0) →
      ∃ t, exec (.repartition c part iters routes queues) s = .next t ∧ (t.ctxAt c).part = part ∧
        (t.ctxAt c).iters = iters ∧ (t.ctxAt c).routes = routes ∧ (routes ≠ x.routes → (t.ctxAt c).routing = []) ∧
        ∀ core ∈ s.allCores c, core ∉ t.allCores c →
          t.coreAt core = Core.reset ∧ ∀ k < 2 ^ 21, byteAt t (lsKey core k) = 0) ∧
    (x.state = .resetting →
      ∃ t, exec (.clearingComplete c) s = .next t ∧ lookup? t.ctxs c = none ∧
        (∀ k < 2 ^ 60, byteAt t (runKey c 0 0 + k) = 0) ∧
        (∀ core ∈ s.allCores c, t.coreAt core = Core.reset ∧ ∀ k < 2 ^ 21, byteAt t (lsKey core k) = 0))

/-- R328, R330 and R334: where an append waits for pages, its run gets extents from the pool up to the end of the first record
that the append is to write, and the append goes on, or the group is killed when there are none to be had (log entry 27); a
soft error damages a line's symbols; a scrub corrects a line or poisons it; a failed TSV group is marked; a retired channel
advances its die's map generation. -/
def Obligations.MemoryErrorsAndExtents : Prop :=
  (∀ (s : State) (o : Op) (t : Taken) (ts : List Taken), s.opAt o.id = some o → o.phase = .extent → o.taken = t :: ts →
    let e := t.run.toNat
    let r := s.runAt o.ctx e
    let grown := r.grown ((t.first + 1) * r.size)
    r.host = false → (∀ d chip, o.kind ≠ .send d chip) →
    (t.first + 1) * r.size ≤ grown.capacity ∧
    (∀ u, s.supply o.ctx r.home (grown.units - r.units) = .ok u →
      exec (.extentResume o.id) s = .next ((u.mapRun o.ctx e grown).goOn o) ∧
      ((u.mapRun o.ctx e grown).runAt o.ctx e).mapped = grown.mapped) ∧
    (∀ n, s.supply o.ctx r.home (grown.units - r.units) = .error n → (s.ctxAt o.ctx).state = .active →
      exec (.extentResume o.id) s = .next (s.killForExtent o t))) ∧
  (∀ (l : RunLine) (symbols : List Nat) (s : State), s.deviceLine l = true →
    ((∀ k ∈ symbols, k < 72) →
      ∃ t, exec (.softError l symbols) s = .next t ∧
        (∀ k ∈ symbols, k ∈ lookupD [] (t.runAt l.ctx l.run).damage l.line) ∧ t.mem = s.mem) ∧
    (s.uncorrectable l.ctx l.run l.line = true →
      ∃ t, exec (.scrub l) s = .next t ∧ l.line ∈ (t.runAt l.ctx l.run).poison ∧ t.mem = s.mem) ∧
    (s.uncorrectable l.ctx l.run l.line = false →
      ∃ t, exec (.scrub l) s = .next t ∧ lookup? (t.runAt l.ctx l.run).damage l.line = none ∧
        (t.runAt l.ctx l.run).poison = (s.runAt l.ctx l.run).poison ∧ t.mem = s.mem)) ∧
  (∀ (die stack tsv channel : Nat) (s : State), die < 8 →
    let d := vecGet Die.reset s.dies die
    (stack < 3 → tsv < 18 → (stack, tsv) ∉ d.tsv →
      exec (.tsvGroupMarkedFailed die stack tsv) s =
        .next { s with dies := vecSet s.dies die { d with tsv := d.tsv ++ [(stack, tsv)] } }) ∧
    (channel < 96 → d.retired.length < 2 → channel ∉ d.retired →
      ∃ t, exec (.channelRetire die channel) s = .next t ∧
        (vecGet Die.reset t.dies die).mapGen = d.mapGen + 1 ∧
        (vecGet Die.reset t.dies die).retired = d.retired ++ [channel] ∧ t.mem = s.mem ∧ t.harts = s.harts))

/-! ## The host and the physical function -/

/-- R369 and R370: a command that is written to CSUBMIT while its function is not busy runs on the context that it names and
leaves CSTATUS busy with its result; here those that make, suspend, resume and end contexts. One written while the function is
busy is ignored and sets overrun; busy clears once the command's effects are there: at once, or when the context that it
deletes or suspends is so, or when the append that it makes has completed and its records are published.

The model's own, and no rule's: result 1 for a context that does not exist, result 3 for CTXSUSP and CTXRES in another state
and for an RWRITE whose context is reset before its append ends (log entry 36). -/
def Obligations.ContextCommands : Prop :=
  ∀ (vf : Nat) (s : State),
    let v := s.vfAt vf
    let ran := fun (t : State) (result : Nat) (value : Word) =>
      (t.vfAt vf).busy = true ∧ (t.vfAt vf).result = BitVec.ofNat 8 result ∧ (t.vfAt vf).cresult = value ∧
        (t.vfAt vf).seq = v.next ∧ (t.vfAt vf).next = v.next + 1
    let op := fun (n : Nat) => v.enabled = true ∧ bitsOf (v.arg 0) 0 8 = n
    (∀ (n : Nat) (img : Image) (i : Instr),
      (n, i) ∈ [(1, .ctxnew vf), (2, .ctxdel vf), (3, .ctxsusp vf), (4, .ctxres vf), (5, .loadImage vf img),
        (6, .unload vf), (7, .rnew vf), (8, .hrun vf), (9, .hpub vf), (10, .rread vf), (11, .rwrite vf), (12, .setctr vf),
        (13, .session vf), (14, .hext vf)] →
      op n → v.busy = true → exec i s = .next (s.setVfAt vf { v with overrun := true })) ∧
    (let done := { v with busy := false, waits := none }
     v.busy = true →
      (v.waits = none → exec (.commandDone vf) s = .next (s.setVfAt vf done)) ∧
      (∀ c, v.waits = some (.context c) →
        ((s.ctxAt c).state ≠ .resetting → (s.ctxAt c).suspending = false →
          exec (.commandDone vf) s = .next (s.setVfAt vf done)) ∧
        ((s.ctxAt c).vf = vf → ((s.ctxAt c).state = .resetting ∨ (s.ctxAt c).suspending = true) →
          exec (.commandDone vf) s = .next s)) ∧
      (∀ c run id, v.waits = some (.append c run id) →
        (s.alive id = false → runHandleOk s (s.ctxAt c) run = true →
          exec (.commandDone vf) s = .next ((s.publish c (handleEntry run)).setVfAt vf done)) ∧
        (s.alive id = false → runHandleOk s (s.ctxAt c) run = false →
          exec (.commandDone vf) s = .next (s.setVfAt vf done)) ∧
        (s.alive id = true → exec (.commandDone vf) s = .next s) ∧
        (∀ k, (v.dropWait k).waits = if k = c then none else some (.append c run id)) ∧ (v.dropWait c).result = 3)) ∧
    (v.busy = false →
      (∀ a, op 1 → newContext vf v s = a → a.result = 0 →
        ∃ t k x, exec (.ctxnew vf) s = .next t ∧ ran t 0 a.value ∧ lookup? t.ctxs k = some x ∧ lookup? s.ctxs k = none ∧
          x.vf = vf ∧ x.ctxid.setWidth 64 = a.value ∧ x.state = .idle ∧ x.table = (v.arg 2).toNat ∧
          x.queues.length = (v.arg 3).toNat ∧ x.iters = bitsOf (v.arg 5) 0 9 ∧ x.routes = bitsOf (v.arg 5) 16 9 ∧
          ∀ d < 8, (x.part.getD d []).length = bitsOf (v.arg 1) (8 * d) 8) ∧
      (∀ c, s.ctxNamed vf (v.arg 1) = some c → (s.ctxAt c).state ≠ .resetting →
        (op 2 → ∃ t, exec (.ctxdel vf) s = .next t ∧ ran t 0 0 ∧ (t.vfAt vf).waits = some (.context c) ∧
          (t.ctxAt c).state = .resetting ∧ ∀ p ∈ t.groups, p.2.ctx ≠ c) ∧
        (op 3 → (s.ctxAt c).state = .active → (s.ctxAt c).suspending = false →
          ∃ t, exec (.ctxsusp vf) s = .next t ∧ ran t 0 0 ∧ (t.vfAt vf).waits = some (.context c) ∧
            ((t.ctxAt c).suspending = true ∨ (t.ctxAt c).state = .suspended) ∧ t.mem = s.mem) ∧
        (op 4 → (s.ctxAt c).state = .suspended →
          ∃ t, exec (.ctxres vf) s = .next t ∧ ran t 0 0 ∧ (t.ctxAt c).state = .active ∧ t.mem = s.mem) ∧
        (op 3 → (s.ctxAt c).state ≠ .active → ∃ t, exec (.ctxsusp vf) s = .next t ∧ ran t 3 0 ∧ t.ctxs = s.ctxs) ∧
        (op 4 → (s.ctxAt c).state ≠ .suspended → ∃ t, exec (.ctxres vf) s = .next t ∧ ran t 3 0 ∧ t.ctxs = s.ctxs)) ∧
      (s.ctxNamed vf (v.arg 1) = none →
        (op 2 → ∃ t, exec (.ctxdel vf) s = .next t ∧ ran t 1 0 ∧ t.ctxs = s.ctxs) ∧
        (op 3 → ∃ t, exec (.ctxsusp vf) s = .next t ∧ ran t 1 0 ∧ t.ctxs = s.ctxs)))

/-- R370 and R371: the commands on images, runs, counters and sessions of the context that they name: LOAD gives an image its
number, UNLOAD takes an unused one away, RNEW and HRUN give the handle of a new OPEN run of the layout asked for, HEXT adds
an extent to a host run, HPUB moves its length, RREAD gives the host records below P, RWRITE appends the host's, and waits
where a host run has no room for them, SETCTR writes both words of a counter, SESSION permits a session. R367 and R381: what goes
beyond a limit of the function gives result 4.

The model's own, and no rule's: when HPUB, HEXT and RWRITE wait and what they give (log entry 36), LOAD's lowest free image number
and the image as contents (log entry 37), and the lowest FREE entry for a run that LOAD, RNEW or HRUN makes (log entry 78). -/
def Obligations.RunCommands : Prop :=
  ∀ (vf c : Nat) (s : State),
    let v := s.vfAt vf
    let x := s.ctxAt c
    let ran := fun (t : State) (value : Word) =>
      (t.vfAt vf).busy = true ∧ (t.vfAt vf).result = 0 ∧ (t.vfAt vf).cresult = value ∧ (t.vfAt vf).seq = v.next
    let op := fun (n : Nat) => bitsOf (v.arg 0) 0 8 = n
    let e := handleEntry (v.arg 2)
    let r := s.runAt c e
    v.enabled = true → v.busy = false → s.ctxNamed vf (v.arg 1) = some c → x.state ≠ .resetting →
    (∀ img n, op 5 → img.ok = true → img.runs = [] → leastBelow 65536 (fun k => (lookup? x.images k).isNone) = some n →
      ∃ t i, exec (.loadImage vf img) s = .next t ∧ ran t (BitVec.ofNat 64 n) ∧ lookup? (t.ctxAt c).images n = some i ∧
        i.code = img.code ∧ i.entries = img.entries ∧ i.shandler = img.shandler ∧ t.mem = s.mem) ∧
    (op 6 → lookup? x.images (v.arg 2).toNat ≠ none → s.imageUsed c (v.arg 2).toNat = false →
      ∃ t, exec (.unload vf) s = .next t ∧ ran t 0 ∧ lookup? (t.ctxAt c).images (v.arg 2).toNat = none ∧ t.mem = s.mem) ∧
    (∀ u k, op 7 → layoutOk (v.arg 2) = true → (v.arg 3).toNat < 8 →
      s.newRun c (v.arg 2) (v.arg 3).toNat (v.arg 4).toNat = .ok (u, k) →
      ∃ t w, exec (.rnew vf) s = .next t ∧ ran t w ∧ handleEntry w = k % 2 ^ 18 ∧ (t.runAt c k).state = .opened ∧
        (t.runAt c k).layout = v.arg 2 ∧ (t.runAt c k).home = (v.arg 3).toNat ∧ (t.runAt c k).gen = (s.runAt c k).gen + 1 ∧
        (t.runAt c k).pub = 0 ∧ t.mem = s.mem) ∧
    (∀ u k, op 8 → layoutOk (v.arg 2) = true → (v.arg 3).toNat % 4096 = 0 → 64 ≤ (v.arg 4).toNat →
      s.newRun c (v.arg 2) 0 0 = .ok (u, k) →
      ∃ t w, exec (.hrun vf) s = .next t ∧ ran t w ∧ (t.runAt c k).host = true ∧ (t.runAt c k).layout = v.arg 2 ∧
        (t.runAt c k).hostExt = [((v.arg 3).toNat + 64, (v.arg 4).toNat - 64)] ∧
        (∀ j < 64, byteAt t (hostKey (v.arg 3).toNat + j) = 0)) ∧
    (runHandleOk s x (v.arg 2) = true →
      (op 9 → r.host = true → (v.arg 3).toNat * r.size ≤ r.capacity → r.state = .opened →
        ∃ t, exec (.hpub vf) s = .next t ∧ ran t 0 ∧ (t.runAt c e).len = max r.len (v.arg 3).toNat ∧
          r.pub ≤ (t.runAt c e).pub) ∧
      (let first := (v.arg 3).toNat
       let n := min (v.arg 4).toNat (r.pub - first)
       let bytes := s.runBytes c e (first * r.size) (n * r.size)
       op 10 → s.badIn c e (first * r.size) ((first + n) * r.size) = none →
        exec (.rread vf) s = .next
          (({ s with mem := Memory.writeBytes s.mem (hostKey (v.arg 5).toNat) bytes } : State).setVfAt vf
            { v with
              seq := v.next, next := v.next + 1, busy := true, overrun := false, result := 0,
              cresult := BitVec.ofNat 64 n, waits := none })) ∧
      (let n := (v.arg 4).toNat
       let need := (r.len + n) * r.size
       let more := if r.host then 0 else (growFree (need / 2 ^ 21 + 1) r need).units - r.units
       let landed := fun (u : State) =>
        u.landRun c (v.arg 2) (Memory.readBytes u.mem (hostKey (v.arg 3).toNat) (n * r.size)) true false
       op 11 →
        (e < 2 → ∃ t, exec (.rwrite vf) s = .next t ∧ (t.vfAt vf).busy = true ∧ (t.vfAt vf).result = 4 ∧ t.mem = s.mem) ∧
        (2 ≤ e → r.state = .opened →
          (∀ u y, s.supply c r.home more = .ok u → landed u = (y, .done) →
            ∃ t, exec (.rwrite vf) s = .next t ∧ ran t (v.arg 4) ∧ (t.vfAt vf).waits = none ∧ t.mem = y.mem ∧
              t.runAt c e = y.runAt c e) ∧
          (∀ u y, s.supply c r.home more = .ok u → landed u = (y, .full) →
            ∃ t, exec (.rwrite vf) s = .next t ∧ ran t (v.arg 4) ∧ (t.vfAt vf).waits = some (.append c (v.arg 2) u.nextOp) ∧
              ∃ o, t.opAt u.nextOp = some o ∧ o.phase = .extent) ∧
          (∀ k, s.supply c r.home more = .error k →
            ∃ t, exec (.rwrite vf) s = .next t ∧ (t.vfAt vf).busy = true ∧ (t.vfAt vf).result = BitVec.ofNat 8 k ∧
              t.mem = s.mem))) ∧
      (op 14 → r.host = true → (v.arg 3).toNat % 4096 = 0 → s.ops = [] →
        ∃ t, exec (.hext vf) s = .next t ∧ (t.vfAt vf).busy = true ∧ (t.vfAt vf).result = 0 ∧
          (t.runAt c e).hostExt = r.hostExt ++ [((v.arg 3).toNat, (v.arg 4).toNat)] ∧ t.mem = s.mem)) ∧
    (op 12 → (v.arg 2).toNat < 8 → (x.part.getD (v.arg 2).toNat []).isEmpty = false → (v.arg 3).toNat < x.iters →
      ∃ t, exec (.setctr vf) s = .next t ∧ ran t 0 ∧
        (t.ctxAt c).iterAt ((v.arg 2).toNat * 256 + (v.arg 3).toNat) = (v.arg 4, v.arg 5) ∧ t.mem = s.mem) ∧
    (let chip := BitVec.ofNat 10 (v.arg 2).toNat
     op 13 → (v.arg 2).toNat < 1024 → chip ≠ s.chipId → (v.arg 3).toNat < 512 →
      (∀ y ∈ x.sessions, y.chip ≠ chip) → chip ∈ v.limits.peers →
      ∃ t, exec (.session vf) s = .next t ∧ ran t 0 ∧ ((t.ctxAt c).session chip).peer = (v.arg 3).toNat ∧
        ((t.ctxAt c).session chip).state = .closed ∧ t.mem = s.mem)

/-- R271, R369, R268 and R372: a host write of 8 bytes lands in CSTAGE, in a queue's STAGE or, as a command without a row of
its own, in a CSTATUS of result 1; an unaligned write changes nothing. A request for measurements or for the certificate is
answered on the function's mailbox.

R367 and R374–R376: the physical function enables its first n virtual functions, sets a function's limits and sets the power
cap between 3.5 and 5.0 kW; the governor sets a die's issue rate to the largest n of 16 that keeps the demand within the die's
share; a hot die's share is halved until it has cooled; a function-level reset resets each context of its function.

The model's own, and no rule's: an opcode without a row gives result 1 (log entry 36), and the share as an exact part of what
the cap leaves (log entry 40). -/
def Obligations.HostAndPhysicalFunction : Prop :=
  (∀ (vf off : Nat) (x : Word) (s : State),
     let v := s.vfAt vf
     v.enabled = true →
     (off % 8 = 0 → off < 0x40 →
       exec (.registerWrite vf 0 off x) s = .next (s.setVfAt vf { v with cstage := vecSet v.cstage (off / 8) x })) ∧
     (∀ c q y, off % 8 = 0 → off % 0x1000 < 0x40 → s.ctxNamed vf (BitVec.ofNat 64 (off / 0x100_0000)) = some c →
       q = off / 0x1000 % 0x1000 → (s.ctxAt c).queue? q = some y →
       exec (.registerWrite vf 2 off x) s =
         .next (s.setCtxAt c ((s.ctxAt c).setQueue q { y with stage := vecSet y.stage (off % 0x1000 / 8) x }))) ∧
     (v.busy = false → (bitsOf (v.arg 0) 0 8 = 0 ∨ 14 < bitsOf (v.arg 0) 0 8) →
       ∃ t, exec (.registerWrite vf 0 0x40 x) s = .next t ∧ (t.vfAt vf).busy = true ∧ (t.vfAt vf).result = 1 ∧
         t.ctxs = s.ctxs ∧ t.mem = s.mem) ∧
     (off % 8 ≠ 0 → off ≠ 0x40 → exec (.registerWrite vf 0 off x) s = .next s) ∧
     (∃ t r, exec (.getMeasurements vf) s = .next t ∧ (t.vfAt vf).mailbox = v.mailbox ++ [r] ∧ r.body = s.blocks vf ∧
       r.body.length = 5 ∧ t.ctxs = s.ctxs) ∧
     (∃ t r, exec (.getCertificate vf) s = .next t ∧ (t.vfAt vf).mailbox = v.mailbox ++ [r] ∧
       r.cert = Config.certificate 0 ∧ t.ctxs = s.ctxs)) ∧
  (∀ s : State,
     (s.pf.ready = true →
       (∀ n, s.pf.vfs ≤ n → n ≤ 256 →
         ∃ t, exec (.pfEnableVfs n) s = .next t ∧ t.pf.vfs = n ∧ (∀ k < n, (t.vfAt k).enabled = true) ∧ t.mem = s.mem) ∧
       (∀ vf l, vf < 256 →
         ∃ t, exec (.pfSetLimits vf l) s = .next t ∧ (t.vfAt vf).limits = l ∧ t.ctxs = s.ctxs ∧ t.mem = s.mem) ∧
       (∀ mw, (3500000 ≤ mw ∧ mw ≤ 5000000 →
           exec (.pfSetPowerCap mw) s = .next { s with pf := { s.pf with capMw := mw } }) ∧
         (mw < 3500000 ∨ 5000000 < mw → exec (.pfSetPowerCap mw) s = .next s))) ∧
     (∀ k, k < 8 →
       let d := vecGet Die.reset s.dies k
       let put := fun (x : Die) => Host.Outcome.next (φ := Fault) (ρ := Refusal) { s with dies := vecSet s.dies k x }
       (∀ demand, ∃ n ≤ 16, exec (.governorTick k demand) s = put { d with rate := n } ∧
         -- n sixteenths of the demand against an eighth of what is left of the cap, or half an eighth; all of it sixteenfold.
         let share := (s.pf.capMw - 3000000) * if d.hot = true then 1 else 2
         (0 < demand → demand * n ≤ share ∧ (n < 16 → share < demand * (n + 1)))) ∧
       (d.hot = false → exec (.thermalLimit k) s = put { d with hot := true }) ∧
       (d.hot = true → exec (.thermalBelow k) s = put { d with hot := false })) ∧
     (∀ vf, (s.vfAt vf).enabled = true →
       ∃ t, exec (.vfFlr vf) s = .next t ∧ ∀ p ∈ s.ctxs, p.2.vf = vf → p.2.standing = true →
         (t.ctxAt p.1).state = .resetting))

/-- R372 and R373: the ROM lets Kennel run, and Kennel the base-die firmware, only where the image's key is the ROM's, its signature
holds and its security version is at least the fuses'; a reset stops at step 1 or 2 where it does not, or at the earlier step
n that fails. A reset that stops nowhere leaves a chip that reports ready; one that stops reports its step and is not ready; each
leaves no context, hart, group or operation, and the stores zero once step 3 is done. R376: a thermal stop loses every context.

The model's own, and no rule's: the host's memory stays as it was (log entry 39); the stations are DOWN after a reset that stops at
step 4 or before, and after a thermal stop (log entry 38). -/
def Obligations.Resets : Prop :=
  ∀ (chip : BitVec 10) (s : State),
    let lost := fun (t : State) => t.ctxs = [] ∧ t.harts = [] ∧ t.groups = [] ∧ t.ops = [] ∧ t.cores = [] ∧ t.vfs = [] ∧
      (∀ k, hostKey 0 ≤ k → byteAt t k = byteAt s k)
    let links := fun (t : State) (x : LinkState) => ∀ k < 16, (vecGet Station.reset t.stations k).state = x
    let bad := fun (i : Firmware) =>
      i.key ≠ s.boot.rom ∨ Config.signedBy i.key i.body i.sign = false ∨ i.version < s.boot.fuses
    let image := if bad s.boot.kennel then 1 else if bad s.boot.base then 2 else 0
    let stop := fun (fails : Option Nat) => match fails with
      | none => image
      | some n => if image = 0 then n else min image n
    (∀ fails, (∀ n, fails = some n → 1 ≤ n ∧ n ≤ 5) → ∀ i ∈ [Instr.coldReset fails chip, Instr.pfHotReset fails chip],
      ∃ t, exec i s = .next t ∧ lost t ∧ t.chipId = chip ∧ t.boot = s.boot ∧
        t.pf = ⟨stop fails, decide (stop fails = 0), 0, 5000000⟩ ∧
        (stop fails = 0 ∨ 4 ≤ stop fails → ∀ k < hostKey 0, byteAt t k = 0) ∧
        links t (if stop fails = 0 ∨ stop fails = 5 then .up else .down)) ∧
    (∀ d < 8, ∃ t, exec (.thermalStop d) s = .next t ∧ lost t ∧ t.pf.ready = false ∧ links t .down)

/-! ## Links -/

/-- R348–R350: a station trains from DOWN to UP at full width or to NARROW at two lanes or one; a lane that fails is replaced by
an unused spare, else the width halves, and without a lane left the link is DOWN; Watchdog moves a weak lane onto an unused
spare; a repaired flit counts as a replay.

R361: a dispenser calls the next ticket when its slots are free, and calls past one that is there no longer; a called
ticket that has not been used within its limit is given up. -/
def Obligations.StationsAndTickets : Prop :=
  (∀ (st : Nat) (s : State), st < 16 →
     let x := vecGet Station.reset s.stations st
     let put := fun (y : Station) => Host.Outcome.next (φ := Fault) (ρ := Refusal)
       { s with stations := vecSet s.stations st y }
     let live := x.state = .up ∨ x.state = .narrow
     (x.state = .down → exec (.linkTrainStart st) s = put { x with state := .training }) ∧
     (x.state = .training →
       exec (.linkTrainUp st) s = put { x with state := .up, lanes := 4, spareUsed := false } ∧
       ∀ n, n = 1 ∨ n = 2 → exec (.linkTrainNarrow st n) s = put { x with state := .narrow, lanes := n, spareUsed := true }) ∧
     (x.state = .up → x.spareUsed = false → exec (.laneFail st) s = put { x with spareUsed := true }) ∧
     (live → ¬(x.state = .up ∧ x.spareUsed = false) → 2 ≤ x.lanes →
       exec (.laneFail st) s = put { x with state := .narrow, lanes := x.lanes / 2, spareUsed := true }) ∧
     (live → ¬(x.state = .up ∧ x.spareUsed = false) → x.lanes < 2 →
       exec (.laneFail st) s = put { x with state := .down, lanes := 0 }) ∧
     (x.state ≠ .down → exec (.linkDown st) s = put { x with state := .down, lanes := 0 }) ∧
     (x.state = .up → x.spareUsed = false → exec (.watchdogSample st true) s = put { x with spareUsed := true }) ∧
     (live → exec (.linkLevelReplay st true) s = put { x with replays := x.replays + 1 })) ∧
  (∀ (c die : Nat) (s : State),
     let x := s.ctxAt c
     let d := x.dispenser die
     let free := min 16384 (Config.recvShare c die) - s.slotsBusy c die
     (d.waiting = none → d.called ≠ d.next →
       exec (.ticketCall c die) s = .next (s.setDispenser c die { d with called := d.called + 1 })) ∧
     (∀ t, d.waiting = some t →
       (t.slots ≤ free →
         ∃ u, exec (.ticketCall c die) s = .next u ∧ ((u.ctxAt c).dispenser die).called = d.called + 1 ∧
           (∀ k ∈ ((u.ctxAt c).dispenser die).tickets, k.number = t.number → k.called = true) ∧ u.mem = s.mem) ∧
       (free < t.slots → exec (.ticketCall c die) s = .next s)) ∧
     (∀ n, (∃ t ∈ d.tickets, t.number = n ∧ t.called = true ∧ t.consumed = false) →
       ∃ u, exec (.ticketTimeout c die n) s = .next u ∧
         (∀ k ∈ ((u.ctxAt c).dispenser die).tickets, k.number ≠ n) ∧ u.mem = s.mem))

/-- R351, R353, R354 and R362: a permitted session is opened; a peer that is gone, a route lost for 10 ms and a CLOSE make it
GONE, and it is dropped once nothing addresses it; a RET acknowledges every message with a number before its own, and confirms
refusal records, which are kept no longer. The RET that an end sends gives the messages that it has applied, those that it has
refused, what it has seen, and the records not yet confirmed; the DONEs that have fallen due are sent with it. A message of a
reserved type is counted and discarded. R348: nothing arrives or is returned while no station carries traffic.

The model's own, and no rule's: the fourth field of a RET, what its sender has seen, the messages that a return takes with it,
and each DONE in a message of its own (log entry 49). -/
def Obligations.Sessions : Prop :=
  ∀ (c peer : Nat) (chip : BitVec 10) (m : Msg) (s : State), m.ctx = c → m.chip = chip →
    let x := s.ctxAt c
    let y := x.session chip
    let gone := fun (i : Instr) => ∃ t, exec i s = .next t ∧ ((t.ctxAt c).session chip).state = .gone ∧
      ((t.ctxAt c).session chip).sent = []
    ((x.state = .idle ∨ x.state = .active ∨ x.state = .suspended) → chip ≠ s.chipId →
      (∃ t ∈ x.sessions, t.chip = chip ∧ t.peer = peer ∧ t.state = .closed) →
      ∃ t, exec (.sessionOpen c chip peer) s = .next t ∧ ((t.ctxAt c).session chip).state = .opened ∧
        ((t.ctxAt c).session chip).peer = peer ∧ ((t.ctxAt c).session chip).sent = [] ∧ t.mem = s.mem) ∧
    (y.state = .opened → gone (.sessionPeerGone c chip) ∧ gone (.sessionRouteTimeout c chip) ∧
      (∀ r, m.body = .close r → s.linked = true → gone (.closeMsg m))) ∧
    (s.linked = false → exec (.closeMsg m) s = .next s ∧ exec (.retMsg m) s = .next s ∧ exec (.retSend c chip) s = .next s) ∧
    (y.state = .gone → (∀ o ∈ s.ops, o.ctx = c → o.addresses chip = false) →
      ∃ t, exec (.sessionSettled c chip) s = .next t ∧ (∀ z ∈ (t.ctxAt c).sessions, z.chip ≠ chip) ∧ t.mem = s.mem) ∧
    (∀ n : BitVec 8, m.body = .reserved n → n = 0 ∨ 12 ≤ n.toNat → s.linked = true →
      exec (.reservedMessage m) s = .next { s with discarded := s.discarded + 1 }) ∧
    (y.state = .opened → s.linked = true → ∃ t r, exec (.retSend c chip) s = .next t ∧ t.mem = s.mem ∧ t.ops = s.ops ∧
      ((t.ctxAt c).session chip).ret = some r ∧
      r.body = .ret y.applied (y.confirmed + y.refused.length) y.seenF y.refused ∧
      ((t.ctxAt c).session chip).owed = y.owed.filter (fun p => p.2.any s.alive) ∧
      ((t.ctxAt c).session chip).sent.map Msg.body = y.sent.map Msg.body ++
        (y.owed.filter (fun p => !(p.2.any s.alive))).map (fun p => .done p.1)) ∧
    (∀ a f seen recs, m.body = .ret a f seen recs → y.state = .opened → s.linked = true → f ≤ y.seenF →
      ∃ t, exec (.retMsg m) s = .next t ∧
        ((t.ctxAt c).session chip).sent = y.sent.filter (fun k => !((0 : BitVec 32).slt (BitVec.ofNat 32 a - k.seq))) ∧
        ((t.ctxAt c).session chip).confirmed = max y.confirmed seen ∧
        ((t.ctxAt c).session chip).refused = y.refused.drop (seen - y.confirmed))

/-- R352–R354: a sequenced message for which there is room and whose turn it is has its body's effect and is counted, and a
refusal is kept for the next return; one that must wait, and one that is early, is held and does nothing else; a repeat is
dropped, and one that finds no room stays in the link.

What each body does. R357: a REQ stores, adds or loads its elements in order, up to the first that its target refuses, and
sends back the values loaded; a request of an instruction that was stopped does nothing. R250 and R358: a TRAIN is kept, and
its TAIL writes all of it or, where it has another count or an element is refused, nothing. R360: a piece of a bulk send
writes its bytes; the last piece for a run appends the whole. R357: an RDATA gives a vector register its elements. R361: a
TKREQ takes a ticket, whose number goes back, cancelled at once where it is larger than the share, or ends one; a TKCALL calls
or cancels the ticket of the harts that hold it. R362: a NOTE writes its word; a DONE ends the import of its value, or is kept
for one. R348: none arrives while no station carries traffic.

The model's own, and no rule's: a ticket number goes back as an RDATA and a TKREQ that names a ticket ends it (log entries 34
and 50), a send to a run is appended whole at its last piece (log entry 51), and what the bodies hold (log entry 49). -/
def Obligations.SequencedMessages : Prop :=
  ∀ (m : Msg) (i : Instr) (s : State),
    (match m.body with
      | .req _ => i = .reqMsg m
      | .train _ => i = .trainMsg m
      | .tail _ _ _ _ => i = .tailMsg m
      | .data _ => i = .dataMsg m
      | .rdata _ => i = .rdataMsg m
      | .tkreq _ _ _ => i = .tkreqMsg m
      | .tkcall _ _ _ => i = .tkcallMsg m
      | .note _ _ _ => i = .noteMsg m
      | .done _ => i = .doneMsg m
      | _ => False) →
    let x := s.ctxAt m.ctx
    let y := x.session m.chip
    let holding := s.setCtxAt m.ctx (x.setSession { y with held := y.held ++ [m] })
    let turn := BitVec.ofNat 32 y.applied
    let after := fun (t : State) => (t.ctxAt m.ctx).session m.chip
    let applies := fun (P : State → Session → Prop) =>
      ∃ t, exec i s = .next t ∧ (after t).applied = y.applied + 1 ∧ P t (after t)
    let sends := fun (z : Session) (l : List MsgBody) => z.sent.map Msg.body = y.sent.map Msg.body ++ l
    let refuses := fun (z : Session) (e : Cause) (w : Word) => z.refused = y.refused ++ [⟨m.seq, e, w⟩]
    let trainOf := fun (z : Session) (tag : BitVec 32) => (((z.trains.find? (fun p => p.1 == tag)).map Prod.snd).getD []).flatten
    -- An element that its target takes, written or added where it lies.
    let put := fun (add : Bool) (w i : Nat) (v : Word) (u : State) (l : Except Cause Place) => match l with
      | .error _ => u
      | .ok p => u.storeVec p w i (if add then (u.loadVec p w i + v.toNat) % 2 ^ w else v.toNat)
    let at_ := fun (core off n : Nat) (write : Bool) =>
      (s.landing m.ctx (core / 64) (core % 64) off n write).map (fun k => Place.ls k off)
    y.state = .opened →
    (s.linked = false → exec i s = .next s) ∧
    (s.linked = true → m.seq ≠ turn → (m.seq - turn).toNat < 2 ^ 31 → (∀ k ∈ y.held, k.seq ≠ m.seq ∧ k.seq ≠ turn) →
      exec i s = .next (if s.takesMsg m then holding else s)) ∧
    (2 ^ 31 ≤ (m.seq - turn).toNat → exec i s = .next s) ∧
    (s.takesMsg m = false → exec i s = .next s) ∧
    (s.linked = true → m.seq = turn → y.held = [] → s.takesMsg m = true →
      (∀ v out, holding.applyBody m = (v, out) → out ≠ .later → (after v).chip = m.chip →
        ∃ t, exec i s = .next t ∧ t.mem = v.mem ∧ t.ops = v.ops ∧ t.harts = v.harts ∧
          (after t).applied = (after v).applied + 1 ∧ (∀ k ∈ (after t).held, k.seq ≠ m.seq) ∧
          (∀ e w, out = .refused e w → (after t).refused = (after v).refused ++ [⟨m.seq, e, w⟩])) ∧
      (∀ v, holding.applyBody m = (v, .later) → exec i s = .next holding) ∧
      (∀ (r : ReqPacket) (a b : List (Nat × Nat × Word)), m.body = .req r →
        let lands := fun (e : Nat × Nat × Word) => at_ r.core e.2.1 (if r.width = 4 then 1 else r.width / 8) r.store
        let loaded := a.map (fun e => (e.1, BitVec.ofNat 64 (match lands e with
          | .ok p => s.loadVec p r.width e.1
          | .error _ => 0)))
        (y.stopped.contains m.tag = true → applies (fun t z => t.mem = s.mem ∧ sends z [])) ∧
        (y.stopped.contains m.tag = false → r.elems = a ++ b → (∀ e ∈ a, ∃ p, lands e = .ok p) →
          (r.store = true → (b = [] ∨ ∃ e c, b.head? = some e ∧ lands e = .error c) →
            applies (fun t z => t.mem = (a.foldl (fun u e => put r.add r.width e.1 e.2.2 u (lands e)) s).mem ∧ sends z [])) ∧
          (r.store = false → (b = [] ∨ ∃ e c, b.head? = some e ∧ lands e = .error c) →
            applies (fun t z => t.mem = s.mem ∧ sends z ((pieces loaded).map .rdata))) ∧
          (∀ e c, b.head? = some e → lands e = .error c →
            applies (fun _ z => refuses z c (BitVec.ofNat 64 e.1) ∧ z.stopped = y.stopped ++ [m.tag])))) ∧
      (∀ es, m.body = .train es →
        applies (fun t z => t.mem = s.mem ∧ trainOf z m.tag = trainOf y m.tag ++ es ∧
          ∀ tag, tag ≠ m.tag → trainOf z tag = trainOf y tag)) ∧
      (∀ (count : BitVec 32) (core : Nat) (add : Bool) (w : Nat), m.body = .tail count core add w →
        let es := trainOf y m.tag
        let lands := fun (e : TrainElem) => at_ core e.off (max 1 (w / 8)) true
        (es.length ≠ count.toNat →
          applies (fun t z => t.mem = s.mem ∧ trainOf z m.tag = [] ∧ refuses z .badAddr (BitVec.ofNat 64 es.length))) ∧
        (es.length = count.toNat → (∀ e ∈ es, ∃ p, lands e = .ok p) →
          applies (fun t z => trainOf z m.tag = [] ∧ z.refused = y.refused ∧
            t.mem = (es.zipIdx.foldl (fun u e => put add w e.2 e.1.data u (lands e.1)) s).mem)) ∧
        (∀ a e b c, es.length = count.toNat → es = a ++ e :: b → (∀ d ∈ a, ∃ p, lands d = .ok p) → lands e = .error c →
          applies (fun t z => t.mem = s.mem ∧ trainOf z m.tag = [] ∧ refuses z c (BitVec.ofNat 64 a.length)))) ∧
      (∀ d, m.body = .data d → y.stopped.contains m.tag = false → d.ticket = none →
        (∀ k, ptrSpace d.dst ≠ 5 → d.last = false → d.bytes.length % 4 = 0 →
          (∀ j < d.bytes.length / 4, s.landing m.ctx (ptrDie d.dst) (ptrCore d.dst) (ptrOff d.dst + d.off + 4 * j) 4 true = .ok k) →
          s.physCore m.ctx (ptrDie d.dst) (ptrCore d.dst) = some k →
          applies (fun t _ => t.mem = Memory.writeBytes s.mem (lsKey k (ptrOff d.dst + d.off)) d.bytes)) ∧
        (ptrSpace d.dst = 5 → d.last = false → applies (fun t _ => t.mem = s.mem)) ∧
        (∀ u, ptrSpace d.dst = 5 → d.last = true →
          s.landRun m.ctx d.dst (((y.parts.find? (fun p => p.1 == m.tag)).map Prod.snd).getD [] ++ d.bytes) m.publish m.wake =
            (u, .done) →
          applies (fun t _ => t.mem = u.mem ∧
            t.runAt m.ctx (handleEntry d.dst) = u.runAt m.ctx (handleEntry d.dst)))) ∧
      (∀ es o h chip (vd : Reg) elems w, m.body = .rdata es → s.opAt m.tag.toNat = some o →
        o.kind = .remoteVec chip (some vd) elems w false → o.issuer = .hart h → lookup? s.harts h.key ≠ none →
        (s.hart h).vset ≠ none → vd ≠ 0 →
        applies (fun t _ => (t.hart h).vreg vd.toNat =
          es.foldl (fun v e => setElemOf v e.1 w e.2.toNat) ((s.hart h).vreg vd.toNat) ∧ t.mem = s.mem)) ∧
      (∀ die n, m.body = .tkreq die n none →
        let d := x.dispenser die
        let excess := decide (min 16384 (Config.recvShare m.ctx die) < slotsOf n)
        ((x.part.getD die []).isEmpty = true → applies (fun t z => refuses z .badAddr 0 ∧ t.mem = s.mem)) ∧
        ((x.part.getD die []).isEmpty = false →
          applies (fun t z => ((t.ctxAt m.ctx).dispenser die).next = d.next + 1 ∧
            ((t.ctxAt m.ctx).dispenser die).tickets =
              d.tickets ++ (if excess then [] else [⟨d.next, m.chip, m.tag, slotsOf n, false, false⟩]) ∧
            sends z ([.rdata [(0, d.next.setWidth 64)]] ++ if excess then [.tkcall die d.next true] else [])))) ∧
      (∀ die bytes n, m.body = .tkreq die bytes (some n) →
        applies (fun t _ => ((t.ctxAt m.ctx).dispenser die).tickets =
          (x.dispenser die).tickets.filter (fun k => !(k.chip == m.chip && k.number == n)))) ∧
      (∀ die n cancelled, m.body = .tkcall die n cancelled →
        applies (fun t _ => t.harts.length = s.harts.length ∧ ∀ p ∈ t.harts, (s.groupAt (p.1 / 512)).ctx = m.ctx →
          ∀ k ∈ p.2.tickets, k.chip = m.chip → k.die = die → k.number = n →
            (if cancelled then k.cancelled else k.called) = true)) ∧
      (∀ p v b, m.body = .note p v b →
        (∀ k, s.landing m.ctx (ptrDie p) (ptrCore p) (ptrOff p) 8 true = .ok k →
          applies (fun t _ => t.mem = Memory.writeBytes s.mem (lsKey k (ptrOff p)) (natLe 8 v.toNat))) ∧
        (∀ e, s.landing m.ctx (ptrDie p) (ptrCore p) (ptrOff p) 8 true = .error e →
          applies (fun t z => refuses z e p ∧ t.mem = s.mem))) ∧
      (∀ v, m.body = .done v →
        let mine := fun (o : Op) => o.ctx == m.ctx && o.kind == .imported m.chip v
        (∀ o, s.ops.find? mine = some o → applies (fun t _ => t.opAt o.id = none ∧ t.mem = s.mem)) ∧
        (s.ops.find? mine = none → applies (fun t z => z.dones = y.dones ++ [v] ∧ t.mem = s.mem))))

/-- R349 and R356: a UALink read, write or atomic on an OPEN session is performed at the bytes of its window and answered with
the old data; one that its target refuses, one without a session, and any other than a whole message on the message window is
answered with an error; one of a lost peer is discarded. A completion gives its data, extended, to the register that waits for
it, or zero with a report where it was refused, and its operation is no more.

R360–R363: XSEND of a sound descriptor, to another core or chip or to a run of this chip, enters its handle's sequencer;
XTICKET takes a ticket of this chip's own dispenser at once, or asks another chip for one, d waiting for its number; XTKWAIT
goes on once its ticket is called, waits before, and traps TICKET_CANCELLED for a ticket that the hart does not hold; XNOTE
writes a word here or sends a NOTE, and XPASS does so with an exported value; XQUERY reads a session's state, this chip's
number, the stations in UP and in NARROW, the tickets held, and the operations to a chip. R348: no request or completion
arrives while no station carries traffic.

The model's own, and no rule's: the cause that an error completion has (log entry 52), what XQUERY's selector 4 counts, and a
remote ticket's number as a load (log entry 50). -/
def Obligations.LinkRequests : Prop :=
  ((∀ (r : UaReq) (s : State),
     let answer := fun (t : State) (v : Nat) (e : Option Cause) => Host.Outcome.next (φ := Fault) (ρ := Refusal)
       { t with uaDone := s.uaDone ++ [⟨r.chip, r.tag, BitVec.ofNat 64 v, e⟩] }
     let m := 2 ^ (8 * r.bytes)
     let state := ((s.ctxAt r.ctx).session r.chip).state
     (s.linked = false → exec (.ualinkRead r) s = .next s ∧ exec (.ualinkWrite r) s = .next s ∧ exec (.ualinkAtomic r) s = .next s) ∧
     (s.linked = true → state = .opened → r.window = .store →
       (∀ k, s.landing r.ctx r.die r.core r.off r.bytes (r.kind != .read) = .ok k →
         let old := s.loadAt (.ls k r.off) r.bytes
         (r.kind = .read → exec (.ualinkRead r) s = answer s old none) ∧
         (r.kind = .write → exec (.ualinkWrite r) s =
           answer (s.storeAt (.ls k r.off) r.bytes (r.data.toNat % m)) old none) ∧
         (∀ n c, r.kind = .amo n c → exec (.ualinkAtomic r) s =
           answer (s.storeAt (.ls k r.off) r.bytes
             ((AmoOp.ofPos n).apply (8 * r.bytes) old (r.data.toNat % m) (c.toNat % m))) old none)) ∧
       (∀ e, s.landing r.ctx r.die r.core r.off r.bytes (r.kind != .read) = .error e →
         (r.kind = .read → exec (.ualinkRead r) s = answer s 0 (some e)) ∧
         (r.kind = .write → exec (.ualinkWrite r) s = answer s 0 (some e)) ∧
         (∀ n c, r.kind = .amo n c → exec (.ualinkAtomic r) s = answer s 0 (some e)))) ∧
     (s.linked = true → state = .closed ∨ (state = .opened ∧ r.window = .message) →
       (r.kind = .read → exec (.ualinkRead r) s = answer s 0 (some .badAddr)) ∧
       (r.kind = .write → exec (.ualinkWrite r) s = answer s 0 (some .badAddr)) ∧
       (∀ n c, r.kind = .amo n c → exec (.ualinkAtomic r) s = answer s 0 (some .badAddr))) ∧
     (state = .gone → exec (.ualinkRead r) s = .next s ∧ exec (.ualinkWrite r) s = .next s ∧
       exec (.ualinkAtomic r) s = .next s)) ∧
   (∀ (d : UaDone) (r : UaReq) (o : Op) (h : HartId) (x : LoadDest) (s : State),
     s.linked = true → s.uaOut.find? (fun r => r.chip == d.chip && r.tag == d.tag) = some r → s.opAt d.tag = some o →
     o.kind = .remote d.chip (some x) → o.issuer = .hart h → lookup? s.harts h.key ≠ none →
     ∃ t, exec (.ualinkCompletion d) s = .next t ∧ t.opAt d.tag = none ∧
       (x.reg ≠ 0 → vecGet 0 (t.hart h).sregs x.reg.toNat =
         if d.err = none then extend x.bytes x.signed d.data.toNat else 0) ∧
       (t.hart h).reports = (s.hart h).reports ++ (match d.err with
         | none => []
         | some e => [⟨e, r.pointer, 0, .none, 0, true⟩]) ∧
       bitOf (t.hart h).pending x.reg.toNat = false ∧ (t.hart h).pc = (s.hart h).pc ∧ t.mem = s.mem)) ∧
  (∀ (d a b : Reg) (h : HReg) (q : Nat) (s : State), ByHart s → Named s [d, a, b] → Handle s h q →
     let p := s.rs a
     let chip := ptrChip p
     (∀ bs pl, Descriptor s p 32 bs → sendOk bs = true → s.rs b = BitVec.allOnes 64 →
       place s .table (descField bs 16 4) 1 (descWord bs 8) = .ok pl →
       let dst := descWord bs 0
       let run := s.ctx.run (handleEntry dst)
       (ptrSpace dst = 7 ∧ ∃ y, farPointer dst (descField bs 16 4) 4 s = .ok y s) ∨
         (ptrSpace dst = 5 ∧ ptrChip dst = s.chipId ∧ runHandleOk s s.ctx dst = true ∧ 2 ≤ handleEntry dst ∧
           run.state = .opened ∧ descField bs 16 4 % run.size = 0) →
       let u := s.addOp q .copy (.send (sendDesc bs none) (ptrChip (descWord bs 0)))
       exec (.xsend a b h) s = .next ({ u with ops := u.ops.map (fun o =>
         if o.id == s.nextOp then { o with counts := (BitVec.ofNat 64 s.nextOp, 0, 0) } else o) } : State).retire) ∧
     (farDie p s = .ok () s → s.heldTickets s.cur.owner < 16 →
       (∀ u n excess, chip = s.chipId → Prompt s q [] →
         s.takeTicket s.group.ctx (ptrDie p) chip (BitVec.ofNat 32 s.cur.owner.key) (s.rs b).toNat = (u, n, excess) →
         exec (.xticket d a b h) s = .next ((u.setMe { u.me with
           tickets := u.me.tickets ++ [⟨chip, ptrDie p, n, false, excess, false⟩] }).setRs d (n.setWidth 64)).retire) ∧
       (chip ≠ s.chipId → s.late = false → s.sentTo (s.predsAt s.me.core q) chip = true →
         let u := s.addRemote q .load (.ticket chip (ptrDie p) d) s.nextOp
         exec (.xticket d a b h) s = .next ((u.send u.group.ctx chip u.lastOp false false
           (.tkreq (ptrDie p) (s.rs b).toNat none)).markPending d).retire)) ∧
     (farDie p s = .ok () s →
       (∀ t, s.me.ticketAt chip (some (ptrDie p)) (s.rs b) = some t → t.lost = false → t.cancelled = false →
         (t.called = true → exec (.xtkwait a b h) s = .next s.retire) ∧
         (t.called = false → exec (.xtkwait a b h) s = .next (s.setMe { s.me with state := .wait }))) ∧
       (s.me.ticketAt chip (some (ptrDie p)) (s.rs b) = none →
         exec (.xtkwait a b h) s = .next (State.takeTrap s (.at .ticketCancelled (s.rs b)) s))) ∧
     (∀ c off, farPointer p 8 8 s = .ok (.ok (.ls c off)) s → Prompt s q [] →
       exec (.xnote a b h) s = .next (s.landNote s.group.ctx p (s.rs b)).1.retire ∧
       (s.exportedHere (s.rs b) = true →
         exec (.xpass a b h) s = .next (s.landNote s.group.ctx p (s.rs b)).1.retire)) ∧
     (∀ k die c off, farPointer p 8 8 s = .ok (.ok (.remote k die c off)) s → s.late = false →
       s.sentTo (s.predsAt s.me.core q) k = true →
       let u := s.addRemote q .store (.remote k none) s.nextOp
       let sent := fun (pass : Bool) => Host.Outcome.next (φ := Fault) (ρ := Refusal)
         (u.send u.group.ctx k u.lastOp true false (.note p (s.rs b) pass)).retire
       exec (.xnote a b h) s = sent false ∧ (s.exportedHere (s.rs b) = true → exec (.xpass a b h) s = sent true)) ∧
     (bitsOf p 10 54 = 0 →
       ∃ v, exec (.xquery d a b) s = .next (s.setRs d v).retire ∧
         (s.rs b = 0 → v = match (s.ctx.session (p.setWidth 10)).state with
           | .closed => 0
           | .opened => 1
           | .gone => 2) ∧
         (s.rs b = 1 → v = s.chipId.setWidth 64) ∧
         (s.rs b = 2 → v.toNat < 2 ^ 32 ∧ ∀ k < 16,
           bitOf v k = decide ((vecGet Station.reset s.stations k).state = .up) ∧
             bitOf v (16 + k) = decide ((vecGet Station.reset s.stations k).state = .narrow)) ∧
         (s.rs b = 4 → v = BitVec.ofNat 64 ((s.ops.filter (fun o => decide (o.ctx = s.group.ctx) &&
           decide (o.core = s.me.core) && o.addresses (p.setWidth 10))).length + s.ticketWaits (p.setWidth 10))) ∧
         (s.rs b = 3 → v = BitVec.ofNat 64 (min 16 s.me.tickets.length)) ∧
         (4 < (s.rs b).toNat → v = 0)))

/-! ## Rounding -/

/-- R46, R47, R51–R53 and R55, in exact rational arithmetic. A result rounded under RNE is a value of the format nearest the exact
one, the even of two as near; under RZ the largest in magnitude that is no larger, under RD the largest that is not above, under
RU the least that is not below. NX is raised where it differs from the exact value, and UF where it is tiny after rounding too.
Overflow, judged by the rounding with an unbounded exponent, gives an infinity or the largest finite value by mode, always the
latter in e4m3 and e2m1, with OF and NX. Stochastic rounding takes the neighbour away from zero when its draw is below the
fraction of 65536, and is RNE above the largest finite value.

A sum, a product, a product with an addend and a quotient of numbers are the exact results so rounded, once. An exact sum of
zero is the zero of its terms' one sign, else −0 under RD and +0 otherwise. A NaN operand gives the canonical NaN, with NV for a
signalling one; infinities of both signs, ∞ × 0, 0 / 0 and ∞ / ∞ give it with NV; a number by zero gives an infinity with DZ. NaN
becomes +0 in e2m1 with NV, and ∞ saturates in e4m3 and e2m1. -/
def Obligations.RoundingIsExact : Prop :=
  let val := fun (v : FVal) => match v with
    | .num neg m e => (if neg then -1 else 1 : ℚ) * m * (2 : ℚ) ^ e
    | _ => 0
  let ofCode := fun (f : Fmt) (c : Nat) (z : ℚ) => c < 2 ^ f.width ∧ ∃ n m e, f.decode c = .num n m e ∧ z = val (.num n m e)
  let largest := fun (f : Fmt) => val (f.decode f.top)
  let ulp := fun (f : Fmt) => match f.decode f.top with
    | .num _ _ e => (2 : ℚ) ^ e
    | _ => 0
  let rounds := fun (f : Fmt) (mode : RMode) (x : ℚ) (r : Nat × FFlags) =>
    let away := (mode = .ru ∧ 0 < x) ∨ (mode = .rd ∧ x < 0)
    let overflows := if mode = .rne then largest f + ulp f / 2 < |x| ∨ (|x| = largest f + ulp f / 2 ∧ f.top % 2 = 1)
      else if away then largest f < |x| else largest f + ulp f ≤ |x|
    let normal := (2 : ℚ) ^ (1 - (f.bias : Int))
    let least := normal / 2 ^ f.frac
    let tiny := if mode = .rne then |x| < normal - least / 4 else if away then |x| ≤ normal - least / 2 else |x| < normal
    (overflows → r = (f.signed (decide (x < 0)) (f.top + if f.kind = .ieee ∧ (mode = .rne ∨ away) then 1 else 0),
      flagOF ||| flagNX)) ∧
    (¬overflows → f.neg r.1 = decide (x < 0) ∧ ∃ y, ofCode f r.1 y ∧
      r.2 = (if y = x then 0 else flagNX ||| flagIf (decide tiny) flagUF) ∧
      ∀ c z, ofCode f c z → match mode with
        | .rne => |x - y| ≤ |x - z| ∧ (|x - z| = |x - y| → z ≠ y → r.1 % 2 = 0)
        | .rz => |y| ≤ |x| ∧ (|z| ≤ |x| → |z| ≤ |y|)
        | .rd => y ≤ x ∧ (z ≤ x → z ≤ y)
        | .ru => x ≤ y ∧ (x ≤ z → y ≤ z)
        | .sr => True)
  let wide := [f64, f32, f16, bf16]
  (∀ f ∈ wide ++ [e5m2, e4m3, e2m1], ∀ (neg : Bool) (m : Nat) (e : Int), 0 < m →
    let x := val (.num neg m e)
    (∀ mode, mode ≠ .sr → rounds f mode x (f.round mode neg m e false 0) ∧
      f.ofVal mode (.num neg m e) 0 = f.round mode neg m e false 0) ∧
    (∀ draw, (largest f < |x| → (f.round .sr neg m e false draw).1 = (f.round .rne neg m e false 0).1) ∧
      (|x| ≤ largest f → ∀ lo hi, let c := (f.round .rz neg m e false 0).1
        ofCode f c lo → (x = lo → (f.round .sr neg m e false draw).1 = c) ∧
          (x ≠ lo → ofCode f (c + 1) hi → (f.round .sr neg m e false draw).1 =
            c + if draw < ⌊(|x| - |lo|) / (|hi| - |lo|) * 65536⌋₊ then 1 else 0)))) ∧
  (∀ f ∈ wide ++ [e5m2, e4m3, e2m1], ∀ (mode : RMode) (s n : Bool) (draw : Nat),
    f.ofVal mode (.nan s) draw = (f.nan, flagIf (s || f.kind == .finite) flagNV) ∧
    f.ofVal mode (.inf n) draw =
      if f.kind = .ieee then (f.signed n (f.top + 1), 0) else (f.signed n f.top, flagOF ||| flagNX)) ∧
  (∀ f ∈ wide, ∀ (mode : RMode), mode ≠ .sr →
    (∀ (ts : List FVal),
      ((∃ a ∈ ts, a.isNan = true) → f.sum mode ts = (f.nan, flagIf (ts.any FVal.signals) flagNV)) ∧
      ((∀ a ∈ ts, a.isNan = false) → FVal.inf true ∈ ts → FVal.inf false ∈ ts → f.sum mode ts = (f.nan, flagNV)) ∧
      (∀ n, (∀ a ∈ ts, a.isNan = false) → FVal.inf n ∈ ts → FVal.inf (!n) ∉ ts → f.sum mode ts = (f.infinity n, 0)) ∧
      ((∀ a ∈ ts, ∃ n m e, a = .num n m e) →
        ((ts.map val).sum ≠ 0 → rounds f mode (ts.map val).sum (f.sum mode ts)) ∧
        ((ts.map val).sum = 0 → ts ≠ [] →
          (∀ n, (∀ a ∈ ts, ∃ e, a = .num n 0 e) → f.sum mode ts = (f.zero n, 0)) ∧
          ((∀ n, ¬∀ a ∈ ts, ∃ e, a = .num n 0 e) → f.sum mode ts = (f.zero (mode == .rd), 0))))) ∧
    (∀ (n k : Bool) (m l : Nat) (e d : Int),
      let a := FVal.num n m e
      let b := FVal.num k l d
      (0 < m → 0 < l → rounds f mode (val a * val b) (f.mul mode a b) ∧ rounds f mode (val a / val b) (f.div mode a b 0)) ∧
      (m = 0 ∨ l = 0 → f.mul mode a b = (f.zero (n != k), 0)) ∧
      (∀ c, (∃ j p g, c = .num j p g) → val a * val b + val c ≠ 0 → rounds f mode (val a * val b + val c) (f.fma mode a b c)) ∧
      (0 < m → l = 0 → f.div mode a b 0 = (f.infinity (n != k), flagDZ)) ∧ (m = 0 → l = 0 → f.div mode a b 0 = (f.nan, flagNV)) ∧
      (m = 0 → 0 < l → f.div mode a b 0 = (f.zero (n != k), 0)) ∧
      f.div mode (.inf n) b 0 = (f.infinity (n != k), 0) ∧ f.div mode a (.inf k) 0 = (f.zero (n != k), 0) ∧
      f.div mode (.inf n) (.inf k) 0 = (f.nan, flagNV) ∧ f.mul mode (.inf n) (.inf k) = (f.infinity (n != k), 0) ∧
      (l = 0 → f.mul mode (.inf n) b = (f.nan, flagNV)) ∧ (0 < l → f.mul mode (.inf n) b = (f.infinity (n != k), 0))) ∧
    (∀ (s : Bool) (b : FVal), f.mul mode (.nan s) b = (f.nan, flagIf (s || b.signals) flagNV) ∧
      f.mul mode b (.nan s) = (f.nan, flagIf (s || b.signals) flagNV) ∧
      f.div mode (.nan s) b 0 = (f.nan, flagIf (s || b.signals) flagNV) ∧
      f.div mode b (.nan s) 0 = (f.nan, flagIf (s || b.signals) flagNV)))
end

