-- ==== Sys2Proof/Laws/Mem.lean ====
section
/-!
SUPPORT. What each memory operation does and that it keeps the canonical form; keyed lists.
-/

namespace Sys2Proof.Machine

/-! ## The canonical form -/

theorem Memory.wfFrom_mono {lo hi : Nat} (h : lo ≤ hi) {m : Memory} (hm : Memory.wfFrom hi m = true) :
    Memory.wfFrom lo m = true := by
  cases m with
  | nil => rfl
  | cons c t =>
    simp only [Memory.wfFrom, Bool.and_eq_true, decide_eq_true_eq] at hm ⊢
    exact ⟨⟨by omega, hm.1.2⟩, hm.2⟩

theorem Memory.wfFrom_cons {lo k : Nat} {b : Byte} {t : Memory} :
    Memory.wfFrom lo ((k, b) :: t) = true ↔ lo ≤ k ∧ b ≠ Memory.unlisted ∧ Memory.wfFrom (k + 1) t = true := by
  simp [Memory.wfFrom, and_assoc]

theorem Memory.wfFrom_write {lo k : Nat} {b : Byte} {m : Memory} (hm : Memory.wfFrom lo m = true) (hk : lo ≤ k) :
    Memory.wfFrom lo (Memory.write m k b) = true := by
  induction m generalizing lo with
  | nil =>
    unfold Memory.write
    split
    · rfl
    · exact Memory.wfFrom_cons.2 ⟨hk, by assumption, rfl⟩
  | cons c t ih =>
    obtain ⟨j, x⟩ := c
    obtain ⟨h1, h2, h3⟩ := Memory.wfFrom_cons.1 hm
    unfold Memory.write
    split
    · split
      · exact hm
      · exact Memory.wfFrom_cons.2 ⟨hk, by assumption, Memory.wfFrom_cons.2 ⟨by omega, h2, h3⟩⟩
    · split
      · subst k
        split
        · exact Memory.wfFrom_mono (by omega) h3
        · exact Memory.wfFrom_cons.2 ⟨hk, by assumption, h3⟩
      · exact Memory.wfFrom_cons.2 ⟨h1, h2, ih h3 (by omega)⟩

/-- A write keeps the canonical form. -/
theorem Memory.wf_write {m : Memory} (hm : Memory.wf m = true) (k : Nat) (b : Byte) :
    Memory.wf (Memory.write m k b) = true := Memory.wfFrom_write hm (Nat.zero_le k)

/-- A write of several bytes keeps the canonical form. -/
theorem Memory.wf_writeBytes {m : Memory} (hm : Memory.wf m = true) (k : Nat) (bs : List Byte) :
    Memory.wf (Memory.writeBytes m k bs) = true := by
  induction bs generalizing m k with
  | nil => exact hm
  | cons b t ih => exact ih (Memory.wf_write hm k b) (k + 1)

theorem Memory.wfFrom_filter {lo : Nat} {m : Memory} (hm : Memory.wfFrom lo m = true) (p : Host.Cell → Bool) :
    Memory.wfFrom lo (m.filter p) = true := by
  induction m generalizing lo with
  | nil => rfl
  | cons c t ih =>
    obtain ⟨j, x⟩ := c
    obtain ⟨h1, h2, h3⟩ := Memory.wfFrom_cons.1 hm
    rw [List.filter_cons]
    split
    · exact Memory.wfFrom_cons.2 ⟨h1, h2, ih h3⟩
    · exact Memory.wfFrom_mono (by omega) (ih h3)

/-- Leaving entries out keeps the canonical form. -/
theorem Memory.wf_filter {m : Memory} (hm : Memory.wf m = true) (p : Host.Cell → Bool) :
    Memory.wf (m.filter p) = true := Memory.wfFrom_filter hm p

/-- Clearing a range keeps the canonical form. -/
theorem Memory.wf_clear {m : Memory} (hm : Memory.wf m = true) (k n : Nat) :
    Memory.wf (Memory.clear m k n) = true := Memory.wf_filter hm _

/-- Memory right after reset is in its canonical form. -/
theorem reset_mem_wf : Memory.wf State.reset.mem = true := rfl

/-! ## Reading after writing -/

theorem Memory.read_of_wfFrom {lo k : Nat} {m : Memory} (hm : Memory.wfFrom lo m = true) (hk : k < lo) :
    Memory.read m k = Memory.unlisted := by
  induction m generalizing lo with
  | nil => rfl
  | cons c t ih =>
    obtain ⟨j, x⟩ := c
    obtain ⟨h1, _, h3⟩ := Memory.wfFrom_cons.1 hm
    have hj : j ≠ k := by omega
    simpa [Memory.read, hj] using ih h3 (by omega)

theorem Memory.read_write_from {lo k : Nat} {m : Memory} (hm : Memory.wfFrom lo m = true) (b : Byte) (j : Nat) :
    Memory.read (Memory.write m k b) j = if j = k then b else Memory.read m j := by
  induction m generalizing lo with
  | nil =>
    simp only [Memory.write]
    split
    · rename_i hb
      simp [Memory.read, hb]
    · by_cases h : j = k
      · simp [Memory.read, h]
      · have h' : k ≠ j := Ne.symm h
        simp [Memory.read, h, h']
  | cons c t ih =>
    obtain ⟨a, x⟩ := c
    obtain ⟨h1, h2, h3⟩ := Memory.wfFrom_cons.1 hm
    have ht := Memory.read_of_wfFrom (k := k) h3
    unfold Memory.write
    split
    · rename_i hka
      have hak : a ≠ k := by omega
      split
      · rename_i hb
        by_cases h : j = k
        · subst h
          simp [Memory.read, hak, ht (by omega), hb]
        · simp [h]
      · by_cases h : j = k
        · simp [Memory.read, h]
        · have h' : k ≠ j := Ne.symm h
          simp [Memory.read, h, h']
    · split
      · rename_i hk
        subst hk
        split
        · rename_i hb
          by_cases h : j = k
          · subst h
            simp [ht (by omega), hb]
          · have h' : k ≠ j := Ne.symm h
            simp [Memory.read, h, h']
        · by_cases h : j = k
          · simp [Memory.read, h]
          · have h' : k ≠ j := Ne.symm h
            simp [Memory.read, h, h']
      · rename_i hk
        by_cases ha : a = j
        · have hj : j ≠ k := by omega
          simp [Memory.read, ha, hj]
        · simp [Memory.read, ha, ih h3]

/-- A byte read after a write: what was written under that key, and every other byte as before. -/
theorem Memory.read_write {m : Memory} (hm : Memory.wf m = true) (k : Nat) (b : Byte) (j : Nat) :
    Memory.read (Memory.write m k b) j = if j = k then b else Memory.read m j := Memory.read_write_from hm b j

/-- Bytes outside a written range read as before. -/
theorem Memory.read_writeBytes_outside {m : Memory} (hm : Memory.wf m = true) (k : Nat) (bs : List Byte) (j : Nat)
    (h : j < k ∨ k + bs.length ≤ j) : Memory.read (Memory.writeBytes m k bs) j = Memory.read m j := by
  induction bs generalizing m k with
  | nil => rfl
  | cons b t ih =>
    have hl : j < k ∨ k + (t.length + 1) ≤ j := by simpa using h
    have hj : j ≠ k := by omega
    rw [Memory.writeBytes, ih (Memory.wf_write hm k b) (k + 1) (by omega), Memory.read_write hm, if_neg hj]

/-- A byte inside a written range reads as what was written there. -/
theorem Memory.read_writeBytes_inside {m : Memory} (hm : Memory.wf m = true) (k : Nat) (bs : List Byte) (i : Nat)
    (h : i < bs.length) : Memory.read (Memory.writeBytes m k bs) (k + i) = bs[i] := by
  induction bs generalizing m k i with
  | nil => simp at h
  | cons b t ih =>
    cases i with
    | zero =>
      rw [Memory.writeBytes, Memory.read_writeBytes_outside (Memory.wf_write hm k b) (k + 1) t (k + 0) (by omega),
        Memory.read_write hm]
      simp
    | succ i =>
      have := ih (Memory.wf_write hm k b) (k + 1) i (by simpa using h)
      rw [Memory.writeBytes]
      simpa [Nat.add_comm, Nat.add_left_comm] using this

/-- The bytes just written are what a read of as many gives. -/
theorem Memory.readBytes_writeBytes {m : Memory} (hm : Memory.wf m = true) (k : Nat) (bs : List Byte) :
    Memory.readBytes (Memory.writeBytes m k bs) k bs.length = bs := by
  induction bs generalizing m k with
  | nil => rfl
  | cons b t ih =>
    have h0 := Memory.read_writeBytes_inside hm k (b :: t) 0 (by simp)
    simp only [List.length_cons, Memory.readBytes]
    rw [show Memory.read (Memory.writeBytes m k (b :: t)) k = b by simpa using h0]
    rw [Memory.writeBytes, ih (Memory.wf_write hm k b)]

theorem Memory.eq_of_read_from {lo : Nat} {m n : Memory} (hm : Memory.wfFrom lo m = true)
    (hn : Memory.wfFrom lo n = true) (h : ∀ k, Memory.read m k = Memory.read n k) : m = n := by
  induction m generalizing lo n with
  | nil =>
    cases n with
    | nil => rfl
    | cons d u =>
      obtain ⟨i, y⟩ := d
      obtain ⟨_, h2, _⟩ := Memory.wfFrom_cons.1 hn
      exact absurd (h i).symm (by simpa [Memory.read] using h2)
  | cons c t ih =>
    obtain ⟨j, x⟩ := c
    obtain ⟨h1, h2, h3⟩ := Memory.wfFrom_cons.1 hm
    cases n with
    | nil => exact absurd (h j) (by simpa [Memory.read] using h2)
    | cons d u =>
      obtain ⟨i, y⟩ := d
      obtain ⟨g1, g2, g3⟩ := Memory.wfFrom_cons.1 hn
      have hij : i = j := by
        rcases Nat.lt_trichotomy i j with hl | he | hg
        · have hji : j ≠ i := by omega
          have := h i
          simp only [Memory.read, if_neg hji, if_true] at this
          rw [Memory.read_of_wfFrom h3 (by omega)] at this
          exact absurd this.symm g2
        · exact he
        · have hij : i ≠ j := by omega
          have := h j
          simp only [Memory.read, if_neg hij, if_true] at this
          rw [Memory.read_of_wfFrom g3 (by omega)] at this
          exact absurd this h2
      subst hij
      have hxy : x = y := by simpa [Memory.read] using h i
      subst hxy
      have : t = u := by
        refine ih h3 g3 (fun k => ?_)
        by_cases hk : i = k
        · subst hk
          rw [Memory.read_of_wfFrom h3 (by omega), Memory.read_of_wfFrom g3 (by omega)]
        · simpa [Memory.read, hk] using h k
      rw [this]

/-- Canonical memories that read alike are equal. -/
theorem Memory.eq_of_read {m n : Memory} (hm : Memory.wf m = true) (hn : Memory.wf n = true)
    (h : ∀ k, Memory.read m k = Memory.read n k) : m = n := Memory.eq_of_read_from hm hn h

/-! ## Keyed lists -/

@[simp] theorem lookupD_insertKey_self {α : Type} (d : α) (l : List (Nat × α)) (k : Nat) (x : α) :
    lookupD d (insertKey l k x) k = x := by
  induction l with
  | nil => simp [insertKey, lookupD]
  | cons p t ih =>
    obtain ⟨j, y⟩ := p
    unfold insertKey
    split
    · simp [lookupD]
    · split
      · simp [lookupD]
      · rename_i h
        have h' : j ≠ k := Ne.symm h
        simp [lookupD, h', ih]

theorem lookupD_insertKey_ne {α : Type} (d : α) (l : List (Nat × α)) {k j : Nat} (x : α) (h : j ≠ k) :
    lookupD d (insertKey l k x) j = lookupD d l j := by
  have hkj : k ≠ j := Ne.symm h
  induction l with
  | nil => simp [insertKey, lookupD, hkj]
  | cons p t ih =>
    obtain ⟨i, y⟩ := p
    unfold insertKey
    split
    · simp [lookupD, hkj]
    · split
      · rename_i hi
        have hij : i ≠ j := by omega
        simp [lookupD, hkj, hij]
      · simp [lookupD, ih]

@[simp] theorem insertKey_insertKey {α : Type} (l : List (Nat × α)) (k : Nat) (x y : α) :
    insertKey (insertKey l k x) k y = insertKey l k y := by
  induction l with
  | nil => simp [insertKey]
  | cons p t ih =>
    obtain ⟨j, z⟩ := p
    by_cases h1 : k < j
    · simp [insertKey, h1]
    · by_cases h2 : k = j
      · subst h2
        simp [insertKey]
      · simp [insertKey, h1, h2, ih]

theorem vecGet_vecSet {α : Type} {n : Nat} (d : α) (v : Vector α n) (k j : Nat) (x : α) :
    vecGet d (vecSet v k x) j = if j = k ∧ k < n then x else vecGet d v j := by
  obtain ⟨a, rfl⟩ := v
  simp only [vecGet, vecSet, Vector.toList, Vector.toArray_setIfInBounds, Array.toList_setIfInBounds,
    List.getD_eq_getElem?_getD, List.getElem?_set]
  by_cases h : k = j
  · subst h
    by_cases hk : k < a.size
    · simp [hk]
    · simp [hk]
  · have : ¬ j = k := fun e => h e.symm
    simp [h, this]

end Sys2Proof.Machine
end

