-- ==== Sys2Proof/Laws/State.lean ====
section
/-!
SUPPORT. What each update of the state leaves in each field, and what the accessors of harts, cores, groups, contexts and
virtual functions read after it.
-/

namespace Sys2Proof.Machine

/-! ## One lemma per field per update -/

@[simp] theorem State.setHart_chipId (s : State) (h : HartId) (x : Hart) : (s.setHart h x).chipId = s.chipId := rfl
@[simp] theorem State.setHart_cycle (s : State) (h : HartId) (x : Hart) : (s.setHart h x).cycle = s.cycle := rfl
@[simp] theorem State.setHart_draws (s : State) (h : HartId) (x : Hart) : (s.setHart h x).draws = s.draws := rfl
@[simp] theorem State.setHart_mem (s : State) (h : HartId) (x : Hart) : (s.setHart h x).mem = s.mem := rfl
@[simp] theorem State.setHart_cores (s : State) (h : HartId) (x : Hart) : (s.setHart h x).cores = s.cores := rfl
@[simp] theorem State.setHart_harts (s : State) (h : HartId) (x : Hart) : (s.setHart h x).harts = insertKey s.harts h.key x := rfl
@[simp] theorem State.setHart_groups (s : State) (h : HartId) (x : Hart) : (s.setHart h x).groups = s.groups := rfl
@[simp] theorem State.setHart_ctxs (s : State) (h : HartId) (x : Hart) : (s.setHart h x).ctxs = s.ctxs := rfl
@[simp] theorem State.setHart_vfs (s : State) (h : HartId) (x : Hart) : (s.setHart h x).vfs = s.vfs := rfl
@[simp] theorem State.setHart_dies (s : State) (h : HartId) (x : Hart) : (s.setHart h x).dies = s.dies := rfl
@[simp] theorem State.setHart_stations (s : State) (h : HartId) (x : Hart) : (s.setHart h x).stations = s.stations := rfl
@[simp] theorem State.setHart_pf (s : State) (h : HartId) (x : Hart) : (s.setHart h x).pf = s.pf := rfl
@[simp] theorem State.setHart_boot (s : State) (h : HartId) (x : Hart) : (s.setHart h x).boot = s.boot := rfl
@[simp] theorem State.setHart_ops (s : State) (h : HartId) (x : Hart) : (s.setHart h x).ops = s.ops := rfl
@[simp] theorem State.setHart_nextOp (s : State) (h : HartId) (x : Hart) : (s.setHart h x).nextOp = s.nextOp := rfl
@[simp] theorem State.setHart_nextGroup (s : State) (h : HartId) (x : Hart) : (s.setHart h x).nextGroup = s.nextGroup := rfl
@[simp] theorem State.setHart_uaOut (s : State) (h : HartId) (x : Hart) : (s.setHart h x).uaOut = s.uaOut := rfl
@[simp] theorem State.setHart_uaDone (s : State) (h : HartId) (x : Hart) : (s.setHart h x).uaDone = s.uaDone := rfl
@[simp] theorem State.setHart_discarded (s : State) (h : HartId) (x : Hart) : (s.setHart h x).discarded = s.discarded := rfl
@[simp] theorem State.setHart_cur (s : State) (h : HartId) (x : Hart) : (s.setHart h x).cur = s.cur := rfl
@[simp] theorem State.setHart_word (s : State) (h : HartId) (x : Hart) : (s.setHart h x).word = s.word := rfl
@[simp] theorem State.setHart_late (s : State) (h : HartId) (x : Hart) : (s.setHart h x).late = s.late := rfl
@[simp] theorem State.setHart_steps (s : State) (h : HartId) (x : Hart) : (s.setHart h x).steps = s.steps := rfl
@[simp] theorem State.setHart_hidden (s : State) (h : HartId) (x : Hart) : (s.setHart h x).hidden = s.hidden := rfl
@[simp] theorem State.setHart_under (s : State) (h : HartId) (x : Hart) : (s.setHart h x).under = s.under := rfl
@[simp] theorem State.setHart_agenda (s : State) (h : HartId) (x : Hart) : (s.setHart h x).agenda = s.agenda := rfl

@[simp] theorem State.setCoreAt_chipId (s : State) (c : Nat) (x : Core) : (s.setCoreAt c x).chipId = s.chipId := rfl
@[simp] theorem State.setCoreAt_cycle (s : State) (c : Nat) (x : Core) : (s.setCoreAt c x).cycle = s.cycle := rfl
@[simp] theorem State.setCoreAt_draws (s : State) (c : Nat) (x : Core) : (s.setCoreAt c x).draws = s.draws := rfl
@[simp] theorem State.setCoreAt_mem (s : State) (c : Nat) (x : Core) : (s.setCoreAt c x).mem = s.mem := rfl
@[simp] theorem State.setCoreAt_cores (s : State) (c : Nat) (x : Core) : (s.setCoreAt c x).cores = insertKey s.cores c x := rfl
@[simp] theorem State.setCoreAt_harts (s : State) (c : Nat) (x : Core) : (s.setCoreAt c x).harts = s.harts := rfl
@[simp] theorem State.setCoreAt_groups (s : State) (c : Nat) (x : Core) : (s.setCoreAt c x).groups = s.groups := rfl
@[simp] theorem State.setCoreAt_ctxs (s : State) (c : Nat) (x : Core) : (s.setCoreAt c x).ctxs = s.ctxs := rfl
@[simp] theorem State.setCoreAt_vfs (s : State) (c : Nat) (x : Core) : (s.setCoreAt c x).vfs = s.vfs := rfl
@[simp] theorem State.setCoreAt_dies (s : State) (c : Nat) (x : Core) : (s.setCoreAt c x).dies = s.dies := rfl
@[simp] theorem State.setCoreAt_stations (s : State) (c : Nat) (x : Core) : (s.setCoreAt c x).stations = s.stations := rfl
@[simp] theorem State.setCoreAt_pf (s : State) (c : Nat) (x : Core) : (s.setCoreAt c x).pf = s.pf := rfl
@[simp] theorem State.setCoreAt_boot (s : State) (c : Nat) (x : Core) : (s.setCoreAt c x).boot = s.boot := rfl
@[simp] theorem State.setCoreAt_ops (s : State) (c : Nat) (x : Core) : (s.setCoreAt c x).ops = s.ops := rfl
@[simp] theorem State.setCoreAt_nextOp (s : State) (c : Nat) (x : Core) : (s.setCoreAt c x).nextOp = s.nextOp := rfl
@[simp] theorem State.setCoreAt_nextGroup (s : State) (c : Nat) (x : Core) : (s.setCoreAt c x).nextGroup = s.nextGroup := rfl
@[simp] theorem State.setCoreAt_uaOut (s : State) (c : Nat) (x : Core) : (s.setCoreAt c x).uaOut = s.uaOut := rfl
@[simp] theorem State.setCoreAt_uaDone (s : State) (c : Nat) (x : Core) : (s.setCoreAt c x).uaDone = s.uaDone := rfl
@[simp] theorem State.setCoreAt_discarded (s : State) (c : Nat) (x : Core) : (s.setCoreAt c x).discarded = s.discarded := rfl
@[simp] theorem State.setCoreAt_cur (s : State) (c : Nat) (x : Core) : (s.setCoreAt c x).cur = s.cur := rfl
@[simp] theorem State.setCoreAt_word (s : State) (c : Nat) (x : Core) : (s.setCoreAt c x).word = s.word := rfl
@[simp] theorem State.setCoreAt_late (s : State) (c : Nat) (x : Core) : (s.setCoreAt c x).late = s.late := rfl
@[simp] theorem State.setCoreAt_steps (s : State) (c : Nat) (x : Core) : (s.setCoreAt c x).steps = s.steps := rfl
@[simp] theorem State.setCoreAt_hidden (s : State) (c : Nat) (x : Core) : (s.setCoreAt c x).hidden = s.hidden := rfl
@[simp] theorem State.setCoreAt_under (s : State) (c : Nat) (x : Core) : (s.setCoreAt c x).under = s.under := rfl
@[simp] theorem State.setCoreAt_agenda (s : State) (c : Nat) (x : Core) : (s.setCoreAt c x).agenda = s.agenda := rfl

@[simp] theorem State.setGroupAt_chipId (s : State) (g : Nat) (x : Group) : (s.setGroupAt g x).chipId = s.chipId := rfl
@[simp] theorem State.setGroupAt_cycle (s : State) (g : Nat) (x : Group) : (s.setGroupAt g x).cycle = s.cycle := rfl
@[simp] theorem State.setGroupAt_draws (s : State) (g : Nat) (x : Group) : (s.setGroupAt g x).draws = s.draws := rfl
@[simp] theorem State.setGroupAt_mem (s : State) (g : Nat) (x : Group) : (s.setGroupAt g x).mem = s.mem := rfl
@[simp] theorem State.setGroupAt_cores (s : State) (g : Nat) (x : Group) : (s.setGroupAt g x).cores = s.cores := rfl
@[simp] theorem State.setGroupAt_harts (s : State) (g : Nat) (x : Group) : (s.setGroupAt g x).harts = s.harts := rfl
@[simp] theorem State.setGroupAt_groups (s : State) (g : Nat) (x : Group) : (s.setGroupAt g x).groups = insertKey s.groups g x := rfl
@[simp] theorem State.setGroupAt_ctxs (s : State) (g : Nat) (x : Group) : (s.setGroupAt g x).ctxs = s.ctxs := rfl
@[simp] theorem State.setGroupAt_vfs (s : State) (g : Nat) (x : Group) : (s.setGroupAt g x).vfs = s.vfs := rfl
@[simp] theorem State.setGroupAt_dies (s : State) (g : Nat) (x : Group) : (s.setGroupAt g x).dies = s.dies := rfl
@[simp] theorem State.setGroupAt_stations (s : State) (g : Nat) (x : Group) : (s.setGroupAt g x).stations = s.stations := rfl
@[simp] theorem State.setGroupAt_pf (s : State) (g : Nat) (x : Group) : (s.setGroupAt g x).pf = s.pf := rfl
@[simp] theorem State.setGroupAt_boot (s : State) (g : Nat) (x : Group) : (s.setGroupAt g x).boot = s.boot := rfl
@[simp] theorem State.setGroupAt_ops (s : State) (g : Nat) (x : Group) : (s.setGroupAt g x).ops = s.ops := rfl
@[simp] theorem State.setGroupAt_nextOp (s : State) (g : Nat) (x : Group) : (s.setGroupAt g x).nextOp = s.nextOp := rfl
@[simp] theorem State.setGroupAt_nextGroup (s : State) (g : Nat) (x : Group) : (s.setGroupAt g x).nextGroup = s.nextGroup := rfl
@[simp] theorem State.setGroupAt_uaOut (s : State) (g : Nat) (x : Group) : (s.setGroupAt g x).uaOut = s.uaOut := rfl
@[simp] theorem State.setGroupAt_uaDone (s : State) (g : Nat) (x : Group) : (s.setGroupAt g x).uaDone = s.uaDone := rfl
@[simp] theorem State.setGroupAt_discarded (s : State) (g : Nat) (x : Group) : (s.setGroupAt g x).discarded = s.discarded := rfl
@[simp] theorem State.setGroupAt_cur (s : State) (g : Nat) (x : Group) : (s.setGroupAt g x).cur = s.cur := rfl
@[simp] theorem State.setGroupAt_word (s : State) (g : Nat) (x : Group) : (s.setGroupAt g x).word = s.word := rfl
@[simp] theorem State.setGroupAt_late (s : State) (g : Nat) (x : Group) : (s.setGroupAt g x).late = s.late := rfl
@[simp] theorem State.setGroupAt_steps (s : State) (g : Nat) (x : Group) : (s.setGroupAt g x).steps = s.steps := rfl
@[simp] theorem State.setGroupAt_hidden (s : State) (g : Nat) (x : Group) : (s.setGroupAt g x).hidden = s.hidden := rfl
@[simp] theorem State.setGroupAt_under (s : State) (g : Nat) (x : Group) : (s.setGroupAt g x).under = s.under := rfl
@[simp] theorem State.setGroupAt_agenda (s : State) (g : Nat) (x : Group) : (s.setGroupAt g x).agenda = s.agenda := rfl

@[simp] theorem State.setCtxAt_chipId (s : State) (c : Nat) (x : Ctx) : (s.setCtxAt c x).chipId = s.chipId := rfl
@[simp] theorem State.setCtxAt_cycle (s : State) (c : Nat) (x : Ctx) : (s.setCtxAt c x).cycle = s.cycle := rfl
@[simp] theorem State.setCtxAt_draws (s : State) (c : Nat) (x : Ctx) : (s.setCtxAt c x).draws = s.draws := rfl
@[simp] theorem State.setCtxAt_mem (s : State) (c : Nat) (x : Ctx) : (s.setCtxAt c x).mem = s.mem := rfl
@[simp] theorem State.setCtxAt_cores (s : State) (c : Nat) (x : Ctx) : (s.setCtxAt c x).cores = s.cores := rfl
@[simp] theorem State.setCtxAt_harts (s : State) (c : Nat) (x : Ctx) : (s.setCtxAt c x).harts = s.harts := rfl
@[simp] theorem State.setCtxAt_groups (s : State) (c : Nat) (x : Ctx) : (s.setCtxAt c x).groups = s.groups := rfl
@[simp] theorem State.setCtxAt_ctxs (s : State) (c : Nat) (x : Ctx) : (s.setCtxAt c x).ctxs = insertKey s.ctxs c x := rfl
@[simp] theorem State.setCtxAt_vfs (s : State) (c : Nat) (x : Ctx) : (s.setCtxAt c x).vfs = s.vfs := rfl
@[simp] theorem State.setCtxAt_dies (s : State) (c : Nat) (x : Ctx) : (s.setCtxAt c x).dies = s.dies := rfl
@[simp] theorem State.setCtxAt_stations (s : State) (c : Nat) (x : Ctx) : (s.setCtxAt c x).stations = s.stations := rfl
@[simp] theorem State.setCtxAt_pf (s : State) (c : Nat) (x : Ctx) : (s.setCtxAt c x).pf = s.pf := rfl
@[simp] theorem State.setCtxAt_boot (s : State) (c : Nat) (x : Ctx) : (s.setCtxAt c x).boot = s.boot := rfl
@[simp] theorem State.setCtxAt_ops (s : State) (c : Nat) (x : Ctx) : (s.setCtxAt c x).ops = s.ops := rfl
@[simp] theorem State.setCtxAt_nextOp (s : State) (c : Nat) (x : Ctx) : (s.setCtxAt c x).nextOp = s.nextOp := rfl
@[simp] theorem State.setCtxAt_nextGroup (s : State) (c : Nat) (x : Ctx) : (s.setCtxAt c x).nextGroup = s.nextGroup := rfl
@[simp] theorem State.setCtxAt_uaOut (s : State) (c : Nat) (x : Ctx) : (s.setCtxAt c x).uaOut = s.uaOut := rfl
@[simp] theorem State.setCtxAt_uaDone (s : State) (c : Nat) (x : Ctx) : (s.setCtxAt c x).uaDone = s.uaDone := rfl
@[simp] theorem State.setCtxAt_discarded (s : State) (c : Nat) (x : Ctx) : (s.setCtxAt c x).discarded = s.discarded := rfl
@[simp] theorem State.setCtxAt_cur (s : State) (c : Nat) (x : Ctx) : (s.setCtxAt c x).cur = s.cur := rfl
@[simp] theorem State.setCtxAt_word (s : State) (c : Nat) (x : Ctx) : (s.setCtxAt c x).word = s.word := rfl
@[simp] theorem State.setCtxAt_late (s : State) (c : Nat) (x : Ctx) : (s.setCtxAt c x).late = s.late := rfl
@[simp] theorem State.setCtxAt_steps (s : State) (c : Nat) (x : Ctx) : (s.setCtxAt c x).steps = s.steps := rfl
@[simp] theorem State.setCtxAt_hidden (s : State) (c : Nat) (x : Ctx) : (s.setCtxAt c x).hidden = s.hidden := rfl
@[simp] theorem State.setCtxAt_under (s : State) (c : Nat) (x : Ctx) : (s.setCtxAt c x).under = s.under := rfl
@[simp] theorem State.setCtxAt_agenda (s : State) (c : Nat) (x : Ctx) : (s.setCtxAt c x).agenda = s.agenda := rfl

@[simp] theorem State.setVfAt_chipId (s : State) (v : Nat) (x : VFunc) : (s.setVfAt v x).chipId = s.chipId := rfl
@[simp] theorem State.setVfAt_cycle (s : State) (v : Nat) (x : VFunc) : (s.setVfAt v x).cycle = s.cycle := rfl
@[simp] theorem State.setVfAt_draws (s : State) (v : Nat) (x : VFunc) : (s.setVfAt v x).draws = s.draws := rfl
@[simp] theorem State.setVfAt_mem (s : State) (v : Nat) (x : VFunc) : (s.setVfAt v x).mem = s.mem := rfl
@[simp] theorem State.setVfAt_cores (s : State) (v : Nat) (x : VFunc) : (s.setVfAt v x).cores = s.cores := rfl
@[simp] theorem State.setVfAt_harts (s : State) (v : Nat) (x : VFunc) : (s.setVfAt v x).harts = s.harts := rfl
@[simp] theorem State.setVfAt_groups (s : State) (v : Nat) (x : VFunc) : (s.setVfAt v x).groups = s.groups := rfl
@[simp] theorem State.setVfAt_ctxs (s : State) (v : Nat) (x : VFunc) : (s.setVfAt v x).ctxs = s.ctxs := rfl
@[simp] theorem State.setVfAt_vfs (s : State) (v : Nat) (x : VFunc) : (s.setVfAt v x).vfs = insertKey s.vfs v x := rfl
@[simp] theorem State.setVfAt_dies (s : State) (v : Nat) (x : VFunc) : (s.setVfAt v x).dies = s.dies := rfl
@[simp] theorem State.setVfAt_stations (s : State) (v : Nat) (x : VFunc) : (s.setVfAt v x).stations = s.stations := rfl
@[simp] theorem State.setVfAt_pf (s : State) (v : Nat) (x : VFunc) : (s.setVfAt v x).pf = s.pf := rfl
@[simp] theorem State.setVfAt_boot (s : State) (v : Nat) (x : VFunc) : (s.setVfAt v x).boot = s.boot := rfl
@[simp] theorem State.setVfAt_ops (s : State) (v : Nat) (x : VFunc) : (s.setVfAt v x).ops = s.ops := rfl
@[simp] theorem State.setVfAt_nextOp (s : State) (v : Nat) (x : VFunc) : (s.setVfAt v x).nextOp = s.nextOp := rfl
@[simp] theorem State.setVfAt_nextGroup (s : State) (v : Nat) (x : VFunc) : (s.setVfAt v x).nextGroup = s.nextGroup := rfl
@[simp] theorem State.setVfAt_uaOut (s : State) (v : Nat) (x : VFunc) : (s.setVfAt v x).uaOut = s.uaOut := rfl
@[simp] theorem State.setVfAt_uaDone (s : State) (v : Nat) (x : VFunc) : (s.setVfAt v x).uaDone = s.uaDone := rfl
@[simp] theorem State.setVfAt_discarded (s : State) (v : Nat) (x : VFunc) : (s.setVfAt v x).discarded = s.discarded := rfl
@[simp] theorem State.setVfAt_cur (s : State) (v : Nat) (x : VFunc) : (s.setVfAt v x).cur = s.cur := rfl
@[simp] theorem State.setVfAt_word (s : State) (v : Nat) (x : VFunc) : (s.setVfAt v x).word = s.word := rfl
@[simp] theorem State.setVfAt_late (s : State) (v : Nat) (x : VFunc) : (s.setVfAt v x).late = s.late := rfl
@[simp] theorem State.setVfAt_steps (s : State) (v : Nat) (x : VFunc) : (s.setVfAt v x).steps = s.steps := rfl
@[simp] theorem State.setVfAt_hidden (s : State) (v : Nat) (x : VFunc) : (s.setVfAt v x).hidden = s.hidden := rfl
@[simp] theorem State.setVfAt_under (s : State) (v : Nat) (x : VFunc) : (s.setVfAt v x).under = s.under := rfl
@[simp] theorem State.setVfAt_agenda (s : State) (v : Nat) (x : VFunc) : (s.setVfAt v x).agenda = s.agenda := rfl

@[simp] theorem State.setOp_chipId (s : State) (o : Op) : (s.setOp o).chipId = s.chipId := rfl
@[simp] theorem State.setOp_cycle (s : State) (o : Op) : (s.setOp o).cycle = s.cycle := rfl
@[simp] theorem State.setOp_draws (s : State) (o : Op) : (s.setOp o).draws = s.draws := rfl
@[simp] theorem State.setOp_mem (s : State) (o : Op) : (s.setOp o).mem = s.mem := rfl
@[simp] theorem State.setOp_cores (s : State) (o : Op) : (s.setOp o).cores = s.cores := rfl
@[simp] theorem State.setOp_harts (s : State) (o : Op) : (s.setOp o).harts = s.harts := rfl
@[simp] theorem State.setOp_groups (s : State) (o : Op) : (s.setOp o).groups = s.groups := rfl
@[simp] theorem State.setOp_ctxs (s : State) (o : Op) : (s.setOp o).ctxs = s.ctxs := rfl
@[simp] theorem State.setOp_vfs (s : State) (o : Op) : (s.setOp o).vfs = s.vfs := rfl
@[simp] theorem State.setOp_dies (s : State) (o : Op) : (s.setOp o).dies = s.dies := rfl
@[simp] theorem State.setOp_stations (s : State) (o : Op) : (s.setOp o).stations = s.stations := rfl
@[simp] theorem State.setOp_pf (s : State) (o : Op) : (s.setOp o).pf = s.pf := rfl
@[simp] theorem State.setOp_boot (s : State) (o : Op) : (s.setOp o).boot = s.boot := rfl
@[simp] theorem State.setOp_ops (s : State) (o : Op) : (s.setOp o).ops = s.ops.map (fun p => if p.id == o.id then o else p) := rfl
@[simp] theorem State.setOp_nextOp (s : State) (o : Op) : (s.setOp o).nextOp = s.nextOp := rfl
@[simp] theorem State.setOp_nextGroup (s : State) (o : Op) : (s.setOp o).nextGroup = s.nextGroup := rfl
@[simp] theorem State.setOp_uaOut (s : State) (o : Op) : (s.setOp o).uaOut = s.uaOut := rfl
@[simp] theorem State.setOp_uaDone (s : State) (o : Op) : (s.setOp o).uaDone = s.uaDone := rfl
@[simp] theorem State.setOp_discarded (s : State) (o : Op) : (s.setOp o).discarded = s.discarded := rfl
@[simp] theorem State.setOp_cur (s : State) (o : Op) : (s.setOp o).cur = s.cur := rfl
@[simp] theorem State.setOp_word (s : State) (o : Op) : (s.setOp o).word = s.word := rfl
@[simp] theorem State.setOp_late (s : State) (o : Op) : (s.setOp o).late = s.late := rfl
@[simp] theorem State.setOp_steps (s : State) (o : Op) : (s.setOp o).steps = s.steps := rfl
@[simp] theorem State.setOp_hidden (s : State) (o : Op) : (s.setOp o).hidden = s.hidden := rfl
@[simp] theorem State.setOp_under (s : State) (o : Op) : (s.setOp o).under = s.under := rfl
@[simp] theorem State.setOp_agenda (s : State) (o : Op) : (s.setOp o).agenda = s.agenda := rfl

/-! ## Updates through the issuer -/

@[simp] theorem State.setMe_chipId (s : State) (x : Hart) : (s.setMe x).chipId = s.chipId := rfl
@[simp] theorem State.setMe_cycle (s : State) (x : Hart) : (s.setMe x).cycle = s.cycle := rfl
@[simp] theorem State.setMe_draws (s : State) (x : Hart) : (s.setMe x).draws = s.draws := rfl
@[simp] theorem State.setMe_mem (s : State) (x : Hart) : (s.setMe x).mem = s.mem := rfl
@[simp] theorem State.setMe_cores (s : State) (x : Hart) : (s.setMe x).cores = s.cores := rfl
@[simp] theorem State.setMe_groups (s : State) (x : Hart) : (s.setMe x).groups = s.groups := rfl
@[simp] theorem State.setMe_ctxs (s : State) (x : Hart) : (s.setMe x).ctxs = s.ctxs := rfl
@[simp] theorem State.setMe_vfs (s : State) (x : Hart) : (s.setMe x).vfs = s.vfs := rfl
@[simp] theorem State.setMe_dies (s : State) (x : Hart) : (s.setMe x).dies = s.dies := rfl
@[simp] theorem State.setMe_stations (s : State) (x : Hart) : (s.setMe x).stations = s.stations := rfl
@[simp] theorem State.setMe_pf (s : State) (x : Hart) : (s.setMe x).pf = s.pf := rfl
@[simp] theorem State.setMe_boot (s : State) (x : Hart) : (s.setMe x).boot = s.boot := rfl
@[simp] theorem State.setMe_ops (s : State) (x : Hart) : (s.setMe x).ops = s.ops := rfl
@[simp] theorem State.setMe_nextOp (s : State) (x : Hart) : (s.setMe x).nextOp = s.nextOp := rfl
@[simp] theorem State.setMe_nextGroup (s : State) (x : Hart) : (s.setMe x).nextGroup = s.nextGroup := rfl
@[simp] theorem State.setMe_uaOut (s : State) (x : Hart) : (s.setMe x).uaOut = s.uaOut := rfl
@[simp] theorem State.setMe_uaDone (s : State) (x : Hart) : (s.setMe x).uaDone = s.uaDone := rfl
@[simp] theorem State.setMe_discarded (s : State) (x : Hart) : (s.setMe x).discarded = s.discarded := rfl
@[simp] theorem State.setMe_cur (s : State) (x : Hart) : (s.setMe x).cur = s.cur := rfl
@[simp] theorem State.setMe_word (s : State) (x : Hart) : (s.setMe x).word = s.word := rfl
@[simp] theorem State.setMe_late (s : State) (x : Hart) : (s.setMe x).late = s.late := rfl
@[simp] theorem State.setMe_steps (s : State) (x : Hart) : (s.setMe x).steps = s.steps := rfl
@[simp] theorem State.setMe_hidden (s : State) (x : Hart) : (s.setMe x).hidden = s.hidden := rfl
@[simp] theorem State.setMe_under (s : State) (x : Hart) : (s.setMe x).under = s.under := rfl
@[simp] theorem State.setMe_agenda (s : State) (x : Hart) : (s.setMe x).agenda = s.agenda := rfl

@[simp] theorem State.setCore_chipId (s : State) (x : Core) : (s.setCore x).chipId = s.chipId := rfl
@[simp] theorem State.setCore_cycle (s : State) (x : Core) : (s.setCore x).cycle = s.cycle := rfl
@[simp] theorem State.setCore_draws (s : State) (x : Core) : (s.setCore x).draws = s.draws := rfl
@[simp] theorem State.setCore_mem (s : State) (x : Core) : (s.setCore x).mem = s.mem := rfl
@[simp] theorem State.setCore_harts (s : State) (x : Core) : (s.setCore x).harts = s.harts := rfl
@[simp] theorem State.setCore_groups (s : State) (x : Core) : (s.setCore x).groups = s.groups := rfl
@[simp] theorem State.setCore_ctxs (s : State) (x : Core) : (s.setCore x).ctxs = s.ctxs := rfl
@[simp] theorem State.setCore_vfs (s : State) (x : Core) : (s.setCore x).vfs = s.vfs := rfl
@[simp] theorem State.setCore_dies (s : State) (x : Core) : (s.setCore x).dies = s.dies := rfl
@[simp] theorem State.setCore_stations (s : State) (x : Core) : (s.setCore x).stations = s.stations := rfl
@[simp] theorem State.setCore_pf (s : State) (x : Core) : (s.setCore x).pf = s.pf := rfl
@[simp] theorem State.setCore_boot (s : State) (x : Core) : (s.setCore x).boot = s.boot := rfl
@[simp] theorem State.setCore_ops (s : State) (x : Core) : (s.setCore x).ops = s.ops := rfl
@[simp] theorem State.setCore_nextOp (s : State) (x : Core) : (s.setCore x).nextOp = s.nextOp := rfl
@[simp] theorem State.setCore_nextGroup (s : State) (x : Core) : (s.setCore x).nextGroup = s.nextGroup := rfl
@[simp] theorem State.setCore_uaOut (s : State) (x : Core) : (s.setCore x).uaOut = s.uaOut := rfl
@[simp] theorem State.setCore_uaDone (s : State) (x : Core) : (s.setCore x).uaDone = s.uaDone := rfl
@[simp] theorem State.setCore_discarded (s : State) (x : Core) : (s.setCore x).discarded = s.discarded := rfl
@[simp] theorem State.setCore_cur (s : State) (x : Core) : (s.setCore x).cur = s.cur := rfl
@[simp] theorem State.setCore_word (s : State) (x : Core) : (s.setCore x).word = s.word := rfl
@[simp] theorem State.setCore_late (s : State) (x : Core) : (s.setCore x).late = s.late := rfl
@[simp] theorem State.setCore_steps (s : State) (x : Core) : (s.setCore x).steps = s.steps := rfl
@[simp] theorem State.setCore_hidden (s : State) (x : Core) : (s.setCore x).hidden = s.hidden := rfl
@[simp] theorem State.setCore_under (s : State) (x : Core) : (s.setCore x).under = s.under := rfl
@[simp] theorem State.setCore_agenda (s : State) (x : Core) : (s.setCore x).agenda = s.agenda := rfl

@[simp] theorem State.setGroup_chipId (s : State) (x : Group) : (s.setGroup x).chipId = s.chipId := rfl
@[simp] theorem State.setGroup_cycle (s : State) (x : Group) : (s.setGroup x).cycle = s.cycle := rfl
@[simp] theorem State.setGroup_draws (s : State) (x : Group) : (s.setGroup x).draws = s.draws := rfl
@[simp] theorem State.setGroup_mem (s : State) (x : Group) : (s.setGroup x).mem = s.mem := rfl
@[simp] theorem State.setGroup_cores (s : State) (x : Group) : (s.setGroup x).cores = s.cores := rfl
@[simp] theorem State.setGroup_harts (s : State) (x : Group) : (s.setGroup x).harts = s.harts := rfl
@[simp] theorem State.setGroup_ctxs (s : State) (x : Group) : (s.setGroup x).ctxs = s.ctxs := rfl
@[simp] theorem State.setGroup_vfs (s : State) (x : Group) : (s.setGroup x).vfs = s.vfs := rfl
@[simp] theorem State.setGroup_dies (s : State) (x : Group) : (s.setGroup x).dies = s.dies := rfl
@[simp] theorem State.setGroup_stations (s : State) (x : Group) : (s.setGroup x).stations = s.stations := rfl
@[simp] theorem State.setGroup_pf (s : State) (x : Group) : (s.setGroup x).pf = s.pf := rfl
@[simp] theorem State.setGroup_boot (s : State) (x : Group) : (s.setGroup x).boot = s.boot := rfl
@[simp] theorem State.setGroup_ops (s : State) (x : Group) : (s.setGroup x).ops = s.ops := rfl
@[simp] theorem State.setGroup_nextOp (s : State) (x : Group) : (s.setGroup x).nextOp = s.nextOp := rfl
@[simp] theorem State.setGroup_nextGroup (s : State) (x : Group) : (s.setGroup x).nextGroup = s.nextGroup := rfl
@[simp] theorem State.setGroup_uaOut (s : State) (x : Group) : (s.setGroup x).uaOut = s.uaOut := rfl
@[simp] theorem State.setGroup_uaDone (s : State) (x : Group) : (s.setGroup x).uaDone = s.uaDone := rfl
@[simp] theorem State.setGroup_discarded (s : State) (x : Group) : (s.setGroup x).discarded = s.discarded := rfl
@[simp] theorem State.setGroup_cur (s : State) (x : Group) : (s.setGroup x).cur = s.cur := rfl
@[simp] theorem State.setGroup_word (s : State) (x : Group) : (s.setGroup x).word = s.word := rfl
@[simp] theorem State.setGroup_late (s : State) (x : Group) : (s.setGroup x).late = s.late := rfl
@[simp] theorem State.setGroup_steps (s : State) (x : Group) : (s.setGroup x).steps = s.steps := rfl
@[simp] theorem State.setGroup_hidden (s : State) (x : Group) : (s.setGroup x).hidden = s.hidden := rfl
@[simp] theorem State.setGroup_under (s : State) (x : Group) : (s.setGroup x).under = s.under := rfl
@[simp] theorem State.setGroup_agenda (s : State) (x : Group) : (s.setGroup x).agenda = s.agenda := rfl

@[simp] theorem State.setCtx_chipId (s : State) (x : Ctx) : (s.setCtx x).chipId = s.chipId := rfl
@[simp] theorem State.setCtx_cycle (s : State) (x : Ctx) : (s.setCtx x).cycle = s.cycle := rfl
@[simp] theorem State.setCtx_draws (s : State) (x : Ctx) : (s.setCtx x).draws = s.draws := rfl
@[simp] theorem State.setCtx_mem (s : State) (x : Ctx) : (s.setCtx x).mem = s.mem := rfl
@[simp] theorem State.setCtx_cores (s : State) (x : Ctx) : (s.setCtx x).cores = s.cores := rfl
@[simp] theorem State.setCtx_harts (s : State) (x : Ctx) : (s.setCtx x).harts = s.harts := rfl
@[simp] theorem State.setCtx_groups (s : State) (x : Ctx) : (s.setCtx x).groups = s.groups := rfl
@[simp] theorem State.setCtx_vfs (s : State) (x : Ctx) : (s.setCtx x).vfs = s.vfs := rfl
@[simp] theorem State.setCtx_dies (s : State) (x : Ctx) : (s.setCtx x).dies = s.dies := rfl
@[simp] theorem State.setCtx_stations (s : State) (x : Ctx) : (s.setCtx x).stations = s.stations := rfl
@[simp] theorem State.setCtx_pf (s : State) (x : Ctx) : (s.setCtx x).pf = s.pf := rfl
@[simp] theorem State.setCtx_boot (s : State) (x : Ctx) : (s.setCtx x).boot = s.boot := rfl
@[simp] theorem State.setCtx_ops (s : State) (x : Ctx) : (s.setCtx x).ops = s.ops := rfl
@[simp] theorem State.setCtx_nextOp (s : State) (x : Ctx) : (s.setCtx x).nextOp = s.nextOp := rfl
@[simp] theorem State.setCtx_nextGroup (s : State) (x : Ctx) : (s.setCtx x).nextGroup = s.nextGroup := rfl
@[simp] theorem State.setCtx_uaOut (s : State) (x : Ctx) : (s.setCtx x).uaOut = s.uaOut := rfl
@[simp] theorem State.setCtx_uaDone (s : State) (x : Ctx) : (s.setCtx x).uaDone = s.uaDone := rfl
@[simp] theorem State.setCtx_discarded (s : State) (x : Ctx) : (s.setCtx x).discarded = s.discarded := rfl
@[simp] theorem State.setCtx_cur (s : State) (x : Ctx) : (s.setCtx x).cur = s.cur := rfl
@[simp] theorem State.setCtx_word (s : State) (x : Ctx) : (s.setCtx x).word = s.word := rfl
@[simp] theorem State.setCtx_late (s : State) (x : Ctx) : (s.setCtx x).late = s.late := rfl
@[simp] theorem State.setCtx_steps (s : State) (x : Ctx) : (s.setCtx x).steps = s.steps := rfl
@[simp] theorem State.setCtx_hidden (s : State) (x : Ctx) : (s.setCtx x).hidden = s.hidden := rfl
@[simp] theorem State.setCtx_under (s : State) (x : Ctx) : (s.setCtx x).under = s.under := rfl
@[simp] theorem State.setCtx_agenda (s : State) (x : Ctx) : (s.setCtx x).agenda = s.agenda := rfl

/-! ## Accessors after updates -/

@[simp] theorem State.hart_setHart (s : State) (h : HartId) (x : Hart) : (s.setHart h x).hart h = x := by
  simp [State.hart]
theorem State.hart_setHart_ne (s : State) {i j : HartId} (x : Hart) (h : j.key ≠ i.key) : (s.setHart i x).hart j = s.hart j :=
  lookupD_insertKey_ne _ _ x h
@[simp] theorem State.hart_setCoreAt (s : State) (i : Nat) (x : Core) (h : HartId) : (s.setCoreAt i x).hart h = s.hart h := rfl
@[simp] theorem State.hart_setGroupAt (s : State) (i : Nat) (x : Group) (h : HartId) : (s.setGroupAt i x).hart h = s.hart h := rfl
@[simp] theorem State.hart_setCtxAt (s : State) (i : Nat) (x : Ctx) (h : HartId) : (s.setCtxAt i x).hart h = s.hart h := rfl
@[simp] theorem State.hart_setVfAt (s : State) (i : Nat) (x : VFunc) (h : HartId) : (s.setVfAt i x).hart h = s.hart h := rfl

@[simp] theorem State.coreAt_setCoreAt (s : State) (c : Nat) (x : Core) : (s.setCoreAt c x).coreAt c = x := by
  simp [State.coreAt]
theorem State.coreAt_setCoreAt_ne (s : State) {i j : Nat} (x : Core) (h : j ≠ i) : (s.setCoreAt i x).coreAt j = s.coreAt j :=
  lookupD_insertKey_ne _ _ x h
@[simp] theorem State.coreAt_setHart (s : State) (i : HartId) (x : Hart) (c : Nat) : (s.setHart i x).coreAt c = s.coreAt c := rfl
@[simp] theorem State.coreAt_setGroupAt (s : State) (i : Nat) (x : Group) (c : Nat) : (s.setGroupAt i x).coreAt c = s.coreAt c := rfl
@[simp] theorem State.coreAt_setCtxAt (s : State) (i : Nat) (x : Ctx) (c : Nat) : (s.setCtxAt i x).coreAt c = s.coreAt c := rfl
@[simp] theorem State.coreAt_setVfAt (s : State) (i : Nat) (x : VFunc) (c : Nat) : (s.setVfAt i x).coreAt c = s.coreAt c := rfl

@[simp] theorem State.groupAt_setGroupAt (s : State) (g : Nat) (x : Group) : (s.setGroupAt g x).groupAt g = x := by
  simp [State.groupAt]
theorem State.groupAt_setGroupAt_ne (s : State) {i j : Nat} (x : Group) (h : j ≠ i) : (s.setGroupAt i x).groupAt j = s.groupAt j :=
  lookupD_insertKey_ne _ _ x h
@[simp] theorem State.groupAt_setHart (s : State) (i : HartId) (x : Hart) (g : Nat) : (s.setHart i x).groupAt g = s.groupAt g := rfl
@[simp] theorem State.groupAt_setCoreAt (s : State) (i : Nat) (x : Core) (g : Nat) : (s.setCoreAt i x).groupAt g = s.groupAt g := rfl
@[simp] theorem State.groupAt_setCtxAt (s : State) (i : Nat) (x : Ctx) (g : Nat) : (s.setCtxAt i x).groupAt g = s.groupAt g := rfl
@[simp] theorem State.groupAt_setVfAt (s : State) (i : Nat) (x : VFunc) (g : Nat) : (s.setVfAt i x).groupAt g = s.groupAt g := rfl

@[simp] theorem State.ctxAt_setCtxAt (s : State) (c : Nat) (x : Ctx) : (s.setCtxAt c x).ctxAt c = x := by
  simp [State.ctxAt]
theorem State.ctxAt_setCtxAt_ne (s : State) {i j : Nat} (x : Ctx) (h : j ≠ i) : (s.setCtxAt i x).ctxAt j = s.ctxAt j :=
  lookupD_insertKey_ne _ _ x h
@[simp] theorem State.ctxAt_setHart (s : State) (i : HartId) (x : Hart) (c : Nat) : (s.setHart i x).ctxAt c = s.ctxAt c := rfl
@[simp] theorem State.ctxAt_setCoreAt (s : State) (i : Nat) (x : Core) (c : Nat) : (s.setCoreAt i x).ctxAt c = s.ctxAt c := rfl
@[simp] theorem State.ctxAt_setGroupAt (s : State) (i : Nat) (x : Group) (c : Nat) : (s.setGroupAt i x).ctxAt c = s.ctxAt c := rfl
@[simp] theorem State.ctxAt_setVfAt (s : State) (i : Nat) (x : VFunc) (c : Nat) : (s.setVfAt i x).ctxAt c = s.ctxAt c := rfl

@[simp] theorem State.vfAt_setVfAt (s : State) (v : Nat) (x : VFunc) : (s.setVfAt v x).vfAt v = x := by
  simp [State.vfAt]
theorem State.vfAt_setVfAt_ne (s : State) {i j : Nat} (x : VFunc) (h : j ≠ i) : (s.setVfAt i x).vfAt j = s.vfAt j :=
  lookupD_insertKey_ne _ _ x h
@[simp] theorem State.vfAt_setHart (s : State) (i : HartId) (x : Hart) (v : Nat) : (s.setHart i x).vfAt v = s.vfAt v := rfl
@[simp] theorem State.vfAt_setCoreAt (s : State) (i : Nat) (x : Core) (v : Nat) : (s.setCoreAt i x).vfAt v = s.vfAt v := rfl
@[simp] theorem State.vfAt_setGroupAt (s : State) (i : Nat) (x : Group) (v : Nat) : (s.setGroupAt i x).vfAt v = s.vfAt v := rfl
@[simp] theorem State.vfAt_setCtxAt (s : State) (i : Nat) (x : Ctx) (v : Nat) : (s.setCtxAt i x).vfAt v = s.vfAt v := rfl

@[simp] theorem State.me_setMe (s : State) (x : Hart) : (s.setMe x).me = x := State.hart_setHart s s.cur.owner x

@[simp] theorem State.setMe_setMe (s : State) (x y : Hart) : (s.setMe x).setMe y = s.setMe y := by
  simp [State.setMe, State.setHart]

@[simp] theorem State.core_setMe_core (s : State) (x : Hart) (h : x.core = s.me.core) : (s.setMe x).core = s.core := by
  simp only [State.core, State.me_setMe, h]
  rfl

@[simp] theorem State.group_setMe (s : State) (x : Hart) : (s.setMe x).group = s.group := rfl

@[simp] theorem State.ctx_setMe (s : State) (x : Hart) : (s.setMe x).ctx = s.ctx := rfl

@[simp] theorem State.me_setCoreAt (s : State) (c : Nat) (x : Core) : (s.setCoreAt c x).me = s.me := rfl

@[simp] theorem State.me_setCtxAt (s : State) (c : Nat) (x : Ctx) : (s.setCtxAt c x).me = s.me := rfl

@[simp] theorem State.me_setGroupAt (s : State) (g : Nat) (x : Group) : (s.setGroupAt g x).me = s.me := rfl

@[simp] theorem State.core_setCore (s : State) (x : Core) : (s.setCore x).core = x := by
  simp [State.setCore, State.core]

@[simp] theorem State.group_setGroup (s : State) (x : Group) : (s.setGroup x).group = x := by
  simp [State.setGroup, State.group]

@[simp] theorem State.ctx_setCtx (s : State) (x : Ctx) : (s.setCtx x).ctx = x := by
  simp only [State.setCtx, State.ctx, State.group, State.groupAt_setCtxAt, State.setCtxAt_cur]
  exact State.ctxAt_setCtxAt s _ x

end Sys2Proof.Machine
end

