-- ==== Sys2Proof/Laws/Issue.lean ====
section
/-!
SUPPORT. How a computation over the state runs, how an instruction ends, and the checks at issue when they pass.
-/

namespace Sys2Proof.Machine

/-! ## Computations -/

@[simp] theorem run_bind {α β : Type} (m : M α) (f : α → M β) (s : State) :
    (m >>= f) s = match m s with
      | .ok a t => f a t
      | .error e t => .error e t := by
  show EStateM.bind m f s = _
  unfold EStateM.bind
  cases m s <;> rfl

@[simp] theorem run_map {α β : Type} (g : α → β) (m : M α) (s : State) :
    (g <$> m) s = match m s with
      | .ok a t => .ok (g a) t
      | .error e t => .error e t := by
  show EStateM.map g m s = _
  unfold EStateM.map
  cases m s <;> rfl

@[simp] theorem run_pure {α : Type} (a : α) (s : State) : (pure a : M α) s = .ok a s := rfl

@[simp] theorem run_get (s : State) : (get : M State) s = .ok s s := rfl

@[simp] theorem run_set (t s : State) : (set t : M PUnit) s = .ok ⟨⟩ t := rfl

@[simp] theorem run_act (f : State → State) (s : State) : act f s = .ok () (f s) := rfl

@[simp] theorem run_throw {α : Type} (e : Stop) (s : State) : (throw e : M α) s = .error e s := rfl

@[simp] theorem run_trap {α : Type} (c : Cause) (v : Word) (s : State) :
    (trap c v : M α) s = .error (.trap (.at c v)) s := rfl

/-! ## How an instruction ends -/

@[simp] theorem finish_seq (s0 s : State) : finish s0 (.ok .seq s) = s.retire := rfl

@[simp] theorem finish_goto (s0 s : State) (pc : Word) : finish s0 (.ok (.goto pc) s) = s.goto pc := rfl

@[simp] theorem finish_stay (s0 s : State) : finish s0 (.ok .stay s) = s := rfl

@[simp] theorem finish_trap (s0 s : State) (t : TrapInfo) : finish s0 (.error (.trap t) s) = State.takeTrap s0 t s := rfl

@[simp] theorem finish_wait (s0 s : State) : finish s0 (.error .wait s) = s0.enterWait := rfl

@[simp] theorem finish_stall (s0 s : State) : finish s0 (.error .stall s) = s0 := rfl

@[simp] theorem finish_queue (s0 s : State) (names rows : List Nat) (op : Option Needs) :
    finish s0 (.error (.queue names rows op) s) = s.enqueueLane names rows op := rfl

@[simp] theorem finish_defer (s0 s : State) (n : Needs) : finish s0 (.error (.defer n) s) = s0.deferTo n := rfl

/-- An instruction word always answers a next state: a trap of R93 is one. -/
theorem issue_goesOn (a : Accept) (m : M Flow) (s : State) : GoesOn (issue a m s) := by
  unfold issue
  split <;> exact ⟨_, rfl⟩

/-- An event always answers a next state. -/
theorem event_goesOn (ok : Bool) (f : State → State) (s : State) : GoesOn (event ok f s) := ⟨_, rfl⟩

theorem opEvent_goesOn (id : Nat) (f : Op → State → Option State) (s : State) : GoesOn (opEvent id f s) := by
  unfold opEvent
  split <;> exact ⟨_, rfl⟩

/-- A hart's word runs its own checks and effects (R42). -/
theorem issue_run {s : State} (h : ByHart s) (a : Accept) (m : M Flow) : issue a m s = .next (run m s) := by
  obtain ⟨k, hk⟩ := h
  simp [issue, hk, Issuer.accepts]

/-- A hart's word ends as its checks and effects do (R42). -/
theorem issue_hart {s : State} (h : ByHart s) (a : Accept) {m : M Flow} {r : EStateM.Result Stop State Flow} (hm : m s = r) :
    issue a m s = .next (finish s r) := by
  rw [issue_run h]
  obtain ⟨k, hk⟩ := h
  unfold run
  rw [hk, hm]

/-- A hart's word that completes without a stop (R42). -/
theorem issue_ok {s t : State} (h : ByHart s) (a : Accept) {m : M Flow} {f : Flow} (hm : m s = .ok f t) :
    issue a m s = .next (finish s (.ok f t)) := issue_hart h a hm

/-- An issuer that does not accept a word traps ILLEGAL_INSTR with the word (R42, R43). -/
theorem issue_refused {a : Accept} {s : State} (h : s.cur.accepts a = false) (m : M Flow) :
    issue a m s = .next (State.takeTrap s (.at .illegalInstr (s.word.setWidth 64)) s) := by
  simp [issue, h]

theorem event_true {ok : Bool} (h : ok = true) (f : State → State) (s : State) : event ok f s = .next (f s) := by
  simp [event, h]

theorem event_false {ok : Bool} (h : ok = false) (f : State → State) (s : State) : event ok f s = .next s := by
  simp [event, h]

/-! ## The checks at issue -/

theorem mem_insertSorted {α : Type} (le : α → α → Bool) (x y : α) (l : List α) :
    y ∈ insertSorted le x l ↔ y = x ∨ y ∈ l := by
  induction l with
  | nil => simp [insertSorted]
  | cons z t ih =>
    unfold insertSorted
    split
    · simp only [List.mem_cons, ih]
      exact or_left_comm
    · simp only [List.mem_cons]

theorem mem_stableSort {α : Type} (le : α → α → Bool) (l : List α) (y : α) : y ∈ stableSort le l ↔ y ∈ l := by
  have h : ∀ (l acc : List α), y ∈ l.foldl (fun a x => insertSorted le x a) acc ↔ y ∈ acc ∨ y ∈ l := by
    intro l
    induction l with
    | nil => simp
    | cons z t ih =>
      intro acc
      simp only [List.foldl_cons, ih, mem_insertSorted, List.mem_cons]
      exact ⟨fun h => h.elim (fun h => h.elim (fun h => .inr (.inl h)) .inl) (fun h => .inr (.inr h)),
        fun h => h.elim (fun h => .inl (.inr h)) (fun h => h.elim (fun h => .inl (.inl h)) .inr)⟩
  simpa [stableSort] using h l []

/-- A register list that may be named passes the check of R73 and R85. -/
theorem named_ok {s : State} {rs : List Reg} (h : Named s rs) : named rs s = .ok () s := by
  have hb : s.boundAmong rs = none := by
    simp only [State.boundAmong, List.findSome?_eq_none_iff, mem_stableSort, List.mem_map]
    rintro _ ⟨r, hr, rfl⟩
    exact (h r hr).1
  have hp : s.pendingAmong rs = false := by
    simp only [State.pendingAmong, List.any_eq_false]
    intro r hr
    simp [(h r hr).2.1]
  have hq : s.queueNames rs = false := by
    unfold State.queueNames
    split
    · simp only [List.any_eq_false]
      intro e he hx
      obtain ⟨r, hr, hn⟩ := List.any_eq_true.1 hx
      have := List.all_eq_true.1 (h r hr).2.2 e he
      simp_all
    · rfl
  unfold named
  simp only [run_bind, run_get]
  cases s.cur <;> simp [hb, hp, hq]

@[simp] theorem named_nil (s : State) : named [] s = .ok () s := named_ok (by intro r h; cases h)

/-- A handle that names a sequencer passes the check of R236. -/
theorem seqOf_ok {s : State} {h : HReg} {q : Nat} (hh : ByHart s) (hq : Handle s h q) : seqOf h s = .ok q s := by
  obtain ⟨k, hk⟩ := hh
  simp [seqOf, hk, hq.1, hq.2]

/-- Nothing that precedes is unperformed: the instruction does not wait. -/
theorem settled_ok {s : State} {q : Nat} (least : Nat) (h : Ordered s q) : settled q least s = .ok () s := by
  have : s.predsAt s.me.core q = [] := h
  simp [settled, this]

/-- What no operation unperformed precedes follows at once (R247, R356). -/
theorem follows_nil {s : State} {n : Needs} (h : HartId) (hc : n.chips = []) : s.follows h n [] = true := by
  simp [State.follows, hc]

/-- A hart that has seen what others have written in some words is not behind there (R249). -/
theorem behind_of {s : State} {n : Needs} {h : HartId}
    (hh : ∀ x ∈ s.hidden, x.hart = h → n.touch.contains (x.key / 8) = false) : s.behind h n = false := by
  unfold State.behind
  rw [Bool.and_eq_false_iff]
  refine .inr (List.any_eq_false.2 fun x hx => ?_)
  simp only [Bool.and_eq_true, beq_iff_eq]
  rintro ⟨⟨hk, ht⟩, -⟩
  rw [hh x hx hk] at ht
  cases ht

/-- An operation on this chip that nothing holds is performed in the step that issues it. -/
theorem ready_ok {s : State} {q : Nat} {n : Needs} (h : Prompt s q n.touch) (hq : n.q = some q) (hc : n.chips = [])
    (ht : n.tile = false) : ready n s = .ok () s := by
  obtain ⟨ho, hw, hs, hl⟩ := h
  have hp : s.precede n = [] := by
    unfold State.precede
    rw [hq]
    exact ho
  have : s.performsNow n = true := by simp [State.performsNow, follows_nil _ hc, behind_of hs, hl, hp, hw, ht]
  simp only [ready, run_bind, run_get]
  cases s.cur <;> simp [this]

/-- An instruction that something holds ends its checks there, to be performed later. -/
theorem ready_defer {s : State} {n : Needs} (h : ByHart s) (hp : s.performsNow n = false) : ready n s = .error (.defer n) s := by
  obtain ⟨k, hk⟩ := h
  simp only [ready, run_bind, run_get]
  rw [hk]
  simp [hp]

/-- What a hart leaves that issues an instruction to be performed later. -/
theorem issue_defer {s t : State} (h : ByHart s) (a : Accept) {m : M Flow} {n : Needs} (hm : m s = .error (.defer n) t) :
    issue a m s = .next (s.deferTo n) := issue_hart h a hm

theorem setVstart_keeps (s : State) (i : Nat) : (s.setVstart i).ops = s.ops ∧ (s.setVstart i).mem = s.mem := by
  unfold State.setVstart
  split <;> exact ⟨rfl, rfl⟩

theorem setKstart_keeps (s : State) (i : Nat) : (s.setKstart i).ops = s.ops ∧ (s.setKstart i).mem = s.mem := by
  unfold State.setKstart
  split <;> exact ⟨rfl, rfl⟩

theorem retire_keeps (s : State) : s.retire.ops = s.ops ∧ s.retire.mem = s.mem := by
  unfold State.retire
  split <;> exact ⟨rfl, rfl⟩

/-- Marking what an instruction waits for changes no operation and no byte of memory. -/
theorem issued_keeps (s : State) (n : Needs) : (s.issued n).ops = s.ops ∧ (s.issued n).mem = s.mem := by
  unfold State.issued
  simp only [(retire_keeps _).1, (retire_keeps _).2]
  split <;> split <;> split <;>
    simp only [(setKstart_keeps _ _).1, (setKstart_keeps _ _).2, (setVstart_keeps _ _).1, (setVstart_keeps _ _).2, State.setMe_ops,
      State.setMe_mem, and_self]

/-- An instruction to be performed later is one more operation in flight, behind what precedes it under its handle, and changes no
byte of memory (R245, R246). -/
theorem deferTo_next {s : State} {n : Needs} {q : Nat} (h : ByHart s) (ht : n.tile = false) (hq : n.q = some q) :
    (∃ o, (s.deferTo n).ops = s.ops ++ [o] ∧ o.entered = q ∧ o.preds = s.predsAt s.me.core q ∧ o.issuer = s.cur) ∧
      (s.deferTo n).mem = s.mem := by
  obtain ⟨k, hk⟩ := h
  have hp : s.precede n = s.predsAt s.me.core q := by simp [State.precede, hq]
  have hd : s.deferTo n = (s.pushLate n).issued n := by simp [State.deferTo, hk, State.tileFull, ht]
  rw [hd, (issued_keeps _ n).1, (issued_keeps _ n).2]
  unfold State.pushLate
  simp only [hq, ht]
  exact ⟨⟨_, rfl, rfl, by simp [State.newOp, hp], rfl⟩, rfl⟩

/-- A transfer to a word of the code area passes its check (R78). -/
theorem checkTarget_ok {s : State} {t : Word} (h : s.inCode t = true) : checkTarget t s = .ok () s := by
  simp [checkTarget, h]

/-! ## Scalar arithmetic -/

/-- A scalar instruction writes d and goes to the next word. -/
theorem alu_next {s : State} {d : Reg} {srcs : List Reg} (hh : ByHart s) (hn : Named s (d :: srcs)) (f : State → Word) :
    alu d srcs f s = .next (s.setRs d (f s)).retire := by
  exact issue_ok (f := .seq) hh _ (by simp [named_ok hn])

/-! ## The issuer's scalars -/

@[simp] theorem rs_zero (s : State) : s.rs 0 = 0 := rfl

@[simp] theorem setRs_zero (s : State) (x : Word) : s.setRs 0 x = s := rfl

/-- A scalar written by a hart reads as written, and every other scalar as before. -/
theorem rs_setRs {s : State} (hh : ByHart s) {d : Reg} (x : Word) (hd : d ≠ 0) (r : Reg) :
    (s.setRs d x).rs r = if r = d then x else s.rs r := by
  obtain ⟨h, hc⟩ := hh
  have hset : s.setRs d x = s.setMe { s.me with sregs := vecSet s.me.sregs d.toNat x } := by
    simp only [State.setRs, if_neg hd, hc]
  by_cases hr : r = 0
  · rw [hr, if_neg (Ne.symm hd)]
    rfl
  · have hlt : d.toNat < 32 := d.isLt
    have hn : r.toNat = d.toNat ↔ r = d := BitVec.toNat_inj
    rw [hset]
    simp only [State.rs, if_neg hr, State.setMe_cur, hc, State.me_setMe, vecGet_vecSet, hlt, hn, and_true]

@[simp] theorem deliver_mem (s : State) (who : Issuer) (d : Reg) (x : Word) : (s.deliver who d x).mem = s.mem := by
  unfold State.deliver
  split
  · split <;> rfl
  · rfl

@[simp] theorem setRs_mem (s : State) (d : Reg) (x : Word) : (s.setRs d x).mem = s.mem := by
  unfold State.setRs
  split
  · rfl
  · split
    all_goals first
      | rfl
      | split <;> simp

@[simp] theorem retire_mem (s : State) : s.retire.mem = s.mem := by
  unfold State.retire
  split <;> rfl

@[simp] theorem goto_mem (s : State) (pc : Word) : (s.goto pc).mem = s.mem := by
  unfold State.goto
  split <;> rfl

@[simp] theorem takeTrap_mem (s0 s : State) (t : TrapInfo) (h : s0.mem = s.mem) :
    (State.takeTrap s0 t s).mem = s.mem := by
  unfold State.takeTrap
  split
  · split
    · rfl
    · exact h
  all_goals rfl

end Sys2Proof.Machine
end

