-- ==== Sys2Proof/Laws/Loop.lean ====
section
/-!
SUPPORT. The element loop of R15 where no register is bound to a stream: it runs to its end and is a fold over the elements.
-/

namespace Sys2Proof.Machine

theorem bindOf_of_binds {s : State} (h : s.binds = []) (r : Nat) : s.bindOf r = none := by simp [State.bindOf, h]

@[simp] theorem bitOf_zero {w : Nat} (k : Nat) : bitOf (BitVec.ofNat w 0) k = false := by simp [bitOf]

/-- Where nothing waits and nothing is bound, every scalar may be named. -/
theorem VectorReady.named {s : State} (h : VectorReady s) (rs : List Reg) : Named s rs := by
  intro r _
  obtain ⟨_, _, hb, hp, _, _, _, hl, _⟩ := h
  exact ⟨bindOf_of_binds hb _, by rw [hp]; exact bitOf_zero _, by simp [hl]⟩

/-- A hart whose vector set is ready passes the checks of R113. -/
theorem vchecks_ok {s : State} (h : VectorReady s) (v : VNames) : vchecks v s = .ok () s := by
  obtain ⟨⟨k, hk⟩, hv, hb, hp, _, _, _, _, _, hc⟩ := h
  have hm : s.misused v = none := by
    simp only [State.misused, hb]
    rfl
  have hn : s.me.vset ≠ none := by
    intro h
    simp [h] at hv
  have hw : s.vwaits v = false := by simp [State.vwaits, State.pendingAmong, hp, hc]
  simp [vchecks, hm, hn, hk, hw]

/-- The lanes take the instruction of such a hart as it issues (R111). -/
theorem lanesWait_ok {s : State} (h : VectorReady s) (v : VNames) : s.lanesWait v = false := by
  obtain ⟨⟨k, hk⟩, _, _, _, hvp, hs, hu, hl, hr, _⟩ := h
  have hk' : (s.hart k) = s.me := by simp [State.me, hk, Issuer.owner]
  have hr' : s.replaying s.me.core k = false := by simpa [hk, Issuer.owner] using hr
  simp [State.lanesWait, State.lanesHold, hk, hvp, State.lanesBusy, State.userHolds, hu, hk', hl, hs, hr']

theorem lanesTake_ok {s : State} (h : VectorReady s) (v : VNames) (rows : List Nat) : lanesTake v rows s = .ok () s := by
  simp [lanesTake, lanesWait_ok h]

/-- A hart whose vector set is ready passes the checks of a vector instruction, and the lanes take it at once. -/
theorem vnamed_ok {s : State} (h : VectorReady s) (v : VNames) : vnamed v s = .ok () s := by
  simp [vnamed, vchecks_ok h, lanesWait_ok h]

theorem vlane_ok {s : State} (h : VectorReady s) (v : VNames) : vlane v s = .ok () s := by
  simp [vlane, vchecks_ok h, lanesTake_ok h]

theorem noNibbles_ok {s : State} (h : s.binds = []) (rs : List (Reg × Nat)) : noNibbles rs s = .ok () s := by
  have : (rs.filter (fun p => p.2 = 4)).findSome? (fun p => s.bindOf p.1.toNat) = none := by
    exact List.findSome?_eq_none_iff.2 (fun p _ => bindOf_of_binds h _)
  simp only [noNibbles, run_bind, run_get, this]
  rfl

theorem bindsOpen_ok {s : State} (h : s.binds = []) (rs : List (Reg × Nat)) : bindsOpen rs s = .ok () s := by
  have : rs.findSome? (fun p => (s.bindOf p.1.toNat).bind (fun b =>
      if b.kind = .append ∧ (s.ctx.run (handleEntry b.handle)).state = .sealed then some b else none)) = none :=
    List.findSome?_eq_none_iff.2 (fun p _ => by rw [bindOf_of_binds h]; rfl)
  simp only [bindsOpen, run_bind, run_get, this]
  rfl

theorem bindsSettled_ok {s : State} (h : s.binds = []) (rs : List Reg) : bindsSettled rs s = .ok () s := by
  simp [bindsSettled, bindOf_of_binds h]

theorem boundSources_nil {s : State} (h : s.binds = []) (rs : List (Reg × Nat)) : s.boundSources rs = [] := by
  simp only [State.boundSources, bindOf_of_binds h, Option.isSome_none, Bool.false_and, Bool.false_eq_true, if_false]
  induction rs with
  | nil => rfl
  | cons p t ih => exact ih

/-- A register that is not bound pops nothing, so no load stands before the instruction (R166). -/
theorem streams_ok {s : State} (h : VectorReady s) (v : VNames) (srcs dst : List (Reg × Nat)) (w : Nat) :
    streams v srcs dst w s = .ok () s := by
  have hb : s.binds = [] := h.2.2.1
  simp [streams, vchecks_ok h, noNibbles_ok hb, bindsOpen_ok hb, streamsTake, lanesWait_ok h, bindsSettled_ok hb,
    boundSources_nil hb, loadPatterns]

theorem needRoom_ok {s : State} (h : s.binds = []) (dst : List (Reg × Nat)) (i : Nat) :
    needRoom dst i s = .ok () s := by
  simp [needRoom, bindOf_of_binds h]

/-- A loop whose body always completes is a fold. -/
theorem loopFrom_ok (P : State → Prop) (f : Nat → M Unit) (g : State → Nat → State)
    (hf : ∀ i t, P t → f i t = .ok () (g t i)) (hg : ∀ i t, P t → P (g t i)) (n i : Nat) (s : State) (hs : P s) :
    loopFrom f n i s = .ok () ((List.range' i n).foldl g s) := by
  induction n generalizing i s with
  | zero => rfl
  | succ n ih => simp [loopFrom, hf i s hs, ih (i + 1) (g s i) (hg i s hs), List.range'_succ]

/-! ## Elements keep the bindings -/

/-- The bindings that a vector set holds. -/
def bindsIn (v : Option VSet) : List Binding := (v.map VSet.binds).getD []

theorem binds_eq (s : State) : s.binds = bindsIn s.me.vset := by
  unfold State.binds
  cases s.me.vset <;> rfl

theorem binds_setMe (s : State) (x : Hart) : (s.setMe x).binds = bindsIn x.vset := by
  rw [binds_eq, State.me_setMe]

theorem setVreg_binds (h : Hart) (n : Nat) (x : BitVec 16384) : bindsIn (h.setVreg n x).vset = bindsIn h.vset := by
  unfold Hart.setVreg
  by_cases hn : n = 0
  · rw [if_pos hn]
  · rw [if_neg hn]
    split
    · rfl
    · rename_i v hv
      rw [hv]
      rfl

@[simp] theorem setElem_binds (s : State) (v i w x : Nat) : (s.setElem v i w x).binds = s.binds := by
  rw [State.setElem, binds_setMe, setVreg_binds, binds_eq]

theorem setMreg_binds (h : Hart) (n : Nat) (x : BitVec 4096) : bindsIn (h.setMreg n x).vset = bindsIn h.vset := by
  unfold Hart.setMreg
  by_cases hn : n = 0
  · rw [if_pos hn]
  · rw [if_neg hn]
    split
    · rfl
    · rename_i v hv
      rw [hv]
      rfl

@[simp] theorem setMaskBit_binds (s : State) (m i w : Nat) (b : Bool) : (s.setMaskBit m i w b).binds = s.binds := by
  rw [State.setMaskBit, binds_setMe, setMreg_binds, binds_eq]

theorem setStrand_binds (h : Hart) (j : Nat) (x : Strand) : bindsIn (h.setStrand j x).vset = bindsIn h.vset := by
  unfold Hart.setStrand
  split
  · rfl
  · rename_i v hv
    rw [hv]
    rfl

@[simp] theorem raise_binds (s : State) (f : BitVec 5) : (s.raise f).binds = s.binds := by
  unfold State.raise
  split
  · rw [binds_setMe, setStrand_binds, binds_eq]
  · rw [binds_setMe, binds_eq]

/-- An element of an unbound destination goes to its register. -/
@[simp] theorem setVstart_binds (s : State) (i : Nat) : (s.setVstart i).binds = s.binds := by
  unfold State.setVstart
  split
  · rename_i h e _
    rw [binds_setMe, binds_eq]
    cases e <;> rfl
  · rw [binds_setMe, setStrand_binds, binds_eq]
  · rfl
  · rw [binds_setMe, binds_eq]

theorem putElem_free {s : State} (h : s.binds = []) (vd : Reg) (i w x : Nat) :
    s.putElem vd i w x = s.setElem vd.toNat i w x := by
  simp [State.putElem, bindOf_of_binds h]

/-! ## The element loop -/

/-- An element of an instruction whose registers are not bound does its work when it is processed. -/
theorem element_free {s : State} (hb : s.binds = []) (dst : List (Reg × Nat)) (mk : MReg) (w : Nat)
    (f : List (Nat × Nat) → Nat → M Unit) (g : State → Nat → State) (i : Nat) (hf : f [] i s = .ok () (g s i)) :
    element [] dst mk w f i s = .ok () (if s.maskBit mk.toNat i w then g s i else s) := by
  cases hm : s.maskBit mk.toNat i w <;> simp [element, needSources, popSources, hm, needRoom_ok hb, hf]

/-- The loop of an arithmetic instruction whose registers are not bound is R15's loop. -/
theorem arith_free {s : State} (h : VectorReady s) (v : VNames) (srcs dst : List (Reg × Nat)) (mk : MReg) (w : Nat)
    (f : List (Nat × Nat) → Nat → M Unit) (g : State → Nat → State)
    (hf : ∀ i t, t.binds = [] → f [] i t = .ok () (g t i)) (hg : ∀ i t, t.binds = [] → (g t i).binds = []) :
    arith v srcs dst mk w f s = .ok () (eachElement s (s.count w) w mk g) := by
  have hb : s.binds = [] := h.2.2.1
  have hg' : ∀ (i : Nat) (t : State), t.binds = [] → (if t.maskBit mk.toNat i w then g t i else t).binds = [] := by
    intro i t ht
    split
    · exact hg i t ht
    · exact ht
  have hl := loopFrom_ok (fun t => t.binds = []) (element [] dst mk w f) (fun t i => if t.maskBit mk.toNat i w then g t i else t)
    (fun i t ht => element_free ht dst mk w f g i (hf i t ht)) hg' (s.count w - s.vstart) s.vstart s hb
  have he : (eachElement s (s.count w) w mk g).binds = [] := by
    unfold eachElement
    rw [setVstart_binds]
    exact List.foldlRecOn (motive := fun (t : State) => t.binds = []) _ _ hb (fun t ht i _ => hg' i t ht)
  simp only [arith, run_bind, run_get, streams_ok h, boundSources_nil hb, elements, run_act, hl]
  change EStateM.Result.ok () (State.flushBinds (eachElement s (s.count w) w mk g)) = _
  rw [State.flushBinds, he]
  rfl

/-! ## Element-wise arithmetic -/

/-- A two-source element-wise instruction on unbound registers. -/
theorem vop_next {s : State} (h : VectorReady s) (ws wd : Nat) (d a b : Reg) (nb : BitVec 2) (mk : MReg)
    (f : State → Nat → Nat → Nat → Nat × FFlags) :
    vop ws wd d a b nb mk f s = .next (eachElement s (s.count (Nat.max ws wd)) (Nat.max ws wd) mk (fun t i =>
      let r := f t (t.elem a.toNat i ws) (if nb = 0 then t.elem b.toNat i ws else t.src2 nb b i ws)
        (t.elem d.toNat i wd)
      (t.raise r.2).setElem d.toNat i wd r.1)).retire := by
  unfold vop
  refine issue_ok (f := .seq) h.1 _ ?_
  simp only [run_bind]
  rw [arith_free h _ _ _ _ _ _ (fun t i =>
      let r := f t (t.elem a.toNat i ws) (if nb = 0 then t.elem b.toNat i ws else t.src2 nb b i ws)
        (t.elem d.toNat i wd)
      (t.raise r.2).setElem d.toNat i wd r.1)]
  · simp
  · intro i t ht
    have hr : ∀ x, (t.raise x).binds = [] := fun x => by simp [ht]
    simp [putElem_free (hr _), State.source, State.source2, lookup?]
  · intro i t ht
    simp [ht]

/-- A one-source element-wise instruction on unbound registers. -/
theorem vop1_next {s : State} (h : VectorReady s) (ws wd : Nat) (d a : Reg) (mk : MReg)
    (f : State → Nat → Nat × FFlags) :
    vop1 ws wd d a mk f s = .next (eachElement s (s.count (Nat.max ws wd)) (Nat.max ws wd) mk (fun t i =>
      let r := f t (t.elem a.toNat i ws)
      (t.raise r.2).setElem d.toNat i wd r.1)).retire := by
  unfold vop1
  refine issue_ok (f := .seq) h.1 _ ?_
  simp only [run_bind]
  rw [arith_free h _ _ _ _ _ _ (fun t i =>
      let r := f t (t.elem a.toNat i ws)
      (t.raise r.2).setElem d.toNat i wd r.1)]
  · simp
  · intro i t ht
    have hr : ∀ x, (t.raise x).binds = [] := fun x => by simp [ht]
    simp [putElem_free (hr _), State.source, lookup?]
  · intro i t ht
    simp [ht]

end Sys2Proof.Machine
end

