-- ==== Sys2Proof/Laws/PerInstr.lean ====
section
/-!
SUPPORT. Reading the fields of an encoded word gives the instruction back, for each constructor: the part of the round trip
that each format settles by itself. What `decode` adds, that the word encodes again as itself and is well-formed, is not
said here.
-/

section

set_option Elab.async false

namespace Sys2Proof.Laws

/-- A field that holds `x`. -/
theorem fld_eq (k n lo : Nat) (x : BitVec k) (h : n / 2 ^ lo % 2 ^ k = x.toNat) : fld k n lo = x :=
  BitVec.eq_of_toNat_eq (by rw [fld, BitVec.toNat_ofNat, h])

/-! ## The major of a word names its function table -/

theorem decodeFields_major01 (w : IWord) (h : w.toNat % 128 = 1) : decodeFields w = major01 w.toNat := by
  unfold decodeFields
  simp only [h]

theorem decodeFields_major02 (w : IWord) (h : w.toNat % 128 = 2) : decodeFields w = major02 w.toNat := by
  unfold decodeFields
  simp only [h]

theorem decodeFields_major17 (w : IWord) (h : w.toNat % 128 = 23) : decodeFields w = major17 w.toNat := by
  unfold decodeFields
  simp only [h]

theorem decodeFields_major1C (w : IWord) (h : w.toNat % 128 = 28) : decodeFields w = major1C w.toNat := by
  unfold decodeFields
  simp only [h]

theorem decodeFields_major1D (w : IWord) (h : w.toNat % 128 = 29) : decodeFields w = major1D w.toNat := by
  unfold decodeFields
  simp only [h]

theorem decodeFields_major20 (w : IWord) (t : Nat) (ht : t < 4) (h : w.toNat % 128 = 32 + t) :
    decodeFields w = major20 w.toNat := by
  unfold decodeFields laneFields
  match t, ht with
  | 0, _ | 1, _ | 2, _ | 3, _ => simp only [h]

theorem decodeFields_major24 (w : IWord) (t : Nat) (ht : t < 4) (h : w.toNat % 128 = 36 + t) :
    decodeFields w = major24 w.toNat := by
  unfold decodeFields laneFields
  match t, ht with
  | 0, _ | 1, _ | 2, _ | 3, _ => simp only [h]

theorem decodeFields_major28 (w : IWord) (h : w.toNat % 128 = 40) : decodeFields w = major28 w.toNat := by
  unfold decodeFields laneFields
  simp only [h]

theorem decodeFields_major29 (w : IWord) (h : w.toNat % 128 = 41) : decodeFields w = major29 w.toNat := by
  unfold decodeFields laneFields
  simp only [h]

theorem decodeFields_major2A (w : IWord) (h : w.toNat % 128 = 42) : decodeFields w = major2A w.toNat := by
  unfold decodeFields laneFields
  simp only [h]

theorem decodeFields_major2B (w : IWord) (h : w.toNat % 128 = 43) : decodeFields w = major2B w.toNat := by
  unfold decodeFields laneFields
  simp only [h]

theorem decodeFields_major2C (w : IWord) (h : w.toNat % 128 = 44) : decodeFields w = major2C w.toNat := by
  unfold decodeFields laneFields
  simp only [h]

theorem decodeFields_major2D (w : IWord) (h : w.toNat % 128 = 45) : decodeFields w = major2D w.toNat := by
  unfold decodeFields laneFields
  simp only [h]

theorem decodeFields_major2E (w : IWord) (h : w.toNat % 128 = 46) : decodeFields w = major2E w.toNat := by
  unfold decodeFields laneFields
  simp only [h]

theorem decodeFields_major2F (w : IWord) (h : w.toNat % 128 = 47) : decodeFields w = major2F w.toNat := by
  unfold decodeFields laneFields
  simp only [h]

theorem decodeFields_major30 (w : IWord) (h : w.toNat % 128 = 48) : decodeFields w = major30 w.toNat := by
  unfold decodeFields laneFields
  simp only [h]

theorem decodeFields_major31 (w : IWord) (h : w.toNat % 128 = 49) : decodeFields w = major31 w.toNat := by
  unfold decodeFields laneFields
  simp only [h]

theorem decodeFields_major32 (w : IWord) (h : w.toNat % 128 = 50) : decodeFields w = major32 w.toNat := by
  unfold decodeFields laneFields
  simp only [h]

theorem decodeFields_major33 (w : IWord) (h : w.toNat % 128 = 51) : decodeFields w = major33 w.toNat := by
  unfold decodeFields laneFields
  simp only [h]

theorem decodeFields_major34 (w : IWord) (h : w.toNat % 128 = 52) : decodeFields w = major34 w.toNat := by
  unfold decodeFields laneFields
  simp only [h]

theorem decodeFields_major35 (w : IWord) (h : w.toNat % 128 = 53) : decodeFields w = major35 w.toNat := by
  unfold decodeFields laneFields
  simp only [h]

theorem decodeFields_major37 (w : IWord) (h : w.toNat % 128 = 55) : decodeFields w = major37 w.toNat := by
  unfold decodeFields
  simp only [h]

theorem decodeFields_major38 (w : IWord) (h : w.toNat % 128 = 56) : decodeFields w = major38 w.toNat := by
  unfold decodeFields
  simp only [h]

theorem decodeFields_major39 (w : IWord) (h : w.toNat % 128 = 57) : decodeFields w = major39 w.toNat := by
  unfold decodeFields
  simp only [h]

theorem decodeFields_major3A (w : IWord) (h : w.toNat % 128 = 58) : decodeFields w = major3A w.toNat := by
  unfold decodeFields
  simp only [h]

theorem decodeFields_major3B (w : IWord) (h : w.toNat % 128 = 59) : decodeFields w = major3B w.toNat := by
  unfold decodeFields
  simp only [h]

theorem decodeFields_major3C (w : IWord) (h : w.toNat % 128 = 60) : decodeFields w = major3C w.toNat := by
  unfold decodeFields
  simp only [h]

theorem decodeFields_major3D (w : IWord) (h : w.toNat % 128 = 61) : decodeFields w = major3D w.toNat := by
  unfold decodeFields
  simp only [h]

theorem decodeFields_major40 (w : IWord) (h : w.toNat % 128 = 64) : decodeFields w = major40 w.toNat := by
  unfold decodeFields
  simp only [h]

theorem decodeFields_major41 (w : IWord) (h : w.toNat % 128 = 65) : decodeFields w = major41 w.toNat := by
  unfold decodeFields
  simp only [h]

theorem decodeFields_major42 (w : IWord) (h : w.toNat % 128 = 66) : decodeFields w = major42 w.toNat := by
  unfold decodeFields
  simp only [h]

theorem decodeFields_major43 (w : IWord) (h : w.toNat % 128 = 67) : decodeFields w = major43 w.toNat := by
  unfold decodeFields
  simp only [h]

theorem decodeFields_major44 (w : IWord) (h : w.toNat % 128 = 68) : decodeFields w = major44 w.toNat := by
  unfold decodeFields
  simp only [h]

theorem decodeFields_major45 (w : IWord) (h : w.toNat % 128 = 69) : decodeFields w = major45 w.toNat := by
  unfold decodeFields
  simp only [h]

theorem decodeFields_major46 (w : IWord) (h : w.toNat % 128 = 70) : decodeFields w = major46 w.toNat := by
  unfold decodeFields
  simp only [h]

theorem decodeFields_major4C (w : IWord) (h : w.toNat % 128 = 76) : decodeFields w = major4C w.toNat := by
  unfold decodeFields
  simp only [h]

theorem decodeFields_major4D (w : IWord) (h : w.toNat % 128 = 77) : decodeFields w = major4D w.toNat := by
  unfold decodeFields
  simp only [h]

theorem decodeFields_major50 (w : IWord) (h : w.toNat % 128 = 80) : decodeFields w = major50 w.toNat := by
  unfold decodeFields
  simp only [h]

theorem decodeFields_major51 (w : IWord) (h : w.toNat % 128 = 81) : decodeFields w = major51 w.toNat := by
  unfold decodeFields
  simp only [h]

theorem decodeFields_major52 (w : IWord) (h : w.toNat % 128 = 82) : decodeFields w = major52 w.toNat := by
  unfold decodeFields
  simp only [h]

theorem decodeFields_major53 (w : IWord) (h : w.toNat % 128 = 83) : decodeFields w = major53 w.toNat := by
  unfold decodeFields
  simp only [h]

theorem decodeFields_major54 (w : IWord) (h : w.toNat % 128 = 84) : decodeFields w = major54 w.toNat := by
  unfold decodeFields
  simp only [h]

theorem decodeFields_major55 (w : IWord) (h : w.toNat % 128 = 85) : decodeFields w = major55 w.toNat := by
  unfold decodeFields
  simp only [h]

theorem decodeFields_major56 (w : IWord) (h : w.toNat % 128 = 86) : decodeFields w = major56 w.toNat := by
  unfold decodeFields
  simp only [h]

theorem decodeFields_major57 (w : IWord) (h : w.toNat % 128 = 87) : decodeFields w = major57 w.toNat := by
  unfold decodeFields
  simp only [h]

theorem decodeFields_major58 (w : IWord) (h : w.toNat % 128 = 88) : decodeFields w = major58 w.toNat := by
  unfold decodeFields
  simp only [h]

theorem decodeFields_major59 (w : IWord) (h : w.toNat % 128 = 89) : decodeFields w = major59 w.toNat := by
  unfold decodeFields
  simp only [h]

theorem decodeFields_major5A (w : IWord) (h : w.toNat % 128 = 90) : decodeFields w = major5A w.toNat := by
  unfold decodeFields
  simp only [h]

theorem decodeFields_major60 (w : IWord) (h : w.toNat % 128 = 96) : decodeFields w = major60 w.toNat := by
  unfold decodeFields
  simp only [h]

theorem decodeFields_major64 (w : IWord) (h : w.toNat % 128 = 100) : decodeFields w = major64 w.toNat := by
  unfold decodeFields
  simp only [h]

theorem decodeFields_major68 (w : IWord) (h : w.toNat % 128 = 104) : decodeFields w = major68 w.toNat := by
  unfold decodeFields
  simp only [h]

theorem decodeFields_major6C (w : IWord) (h : w.toNat % 128 = 108) : decodeFields w = major6C w.toNat := by
  unfold decodeFields
  simp only [h]

theorem decodeFields_major70 (w : IWord) (h : w.toNat % 128 = 112) : decodeFields w = major70 w.toNat := by
  unfold decodeFields
  simp only [h]

theorem decodeFields_major74 (w : IWord) (h : w.toNat % 128 = 116) : decodeFields w = major74 w.toNat := by
  unfold decodeFields
  simp only [h]

/-! ## The fields of each format -/

theorem fields0 (maj fn : Nat) (hm : maj < 128) (hf : fn < 1024) (x0 : BitVec 5) (x1 : BitVec 5) (x2 : BitVec 5) (w : IWord)
    (hw : w = BitVec.ofNat 32 (maj + fn * 4194304 + x0.toNat * 128 + x1.toNat * 4096 + x2.toNat * 131072)) :
    w.toNat % 128 = maj ∧
    w.toNat / 4194304 % 1024 = fn ∧
    fld 5 w.toNat 7 = x0 ∧
    fld 5 w.toNat 12 = x1 ∧
    fld 5 w.toNat 17 = x2 := by
  have h0 := x0.isLt
  have h1 := x1.isLt
  have h2 := x2.isLt
  have hn : w.toNat = maj + fn * 4194304 + x0.toNat * 128 + x1.toNat * 4096 + x2.toNat * 131072 := by
    rw [hw, BitVec.toNat_ofNat]
    omega
  rw [hn]
  exact ⟨by omega, by omega, fld_eq _ _ _ _ (by omega), fld_eq _ _ _ _ (by omega), fld_eq _ _ _ _ (by omega)⟩

theorem fields1 (maj fn : Nat) (hm : maj < 128) (hf : fn < 1024) (x0 : BitVec 5) (x1 : BitVec 5) (w : IWord)
    (hw : w = BitVec.ofNat 32 (maj + fn * 4194304 + x0.toNat * 128 + x1.toNat * 4096)) :
    w.toNat % 128 = maj ∧
    w.toNat / 4194304 % 1024 = fn ∧
    fld 5 w.toNat 7 = x0 ∧
    fld 5 w.toNat 12 = x1 := by
  have h0 := x0.isLt
  have h1 := x1.isLt
  have hn : w.toNat = maj + fn * 4194304 + x0.toNat * 128 + x1.toNat * 4096 := by
    rw [hw, BitVec.toNat_ofNat]
    omega
  rw [hn]
  exact ⟨by omega, by omega, fld_eq _ _ _ _ (by omega), fld_eq _ _ _ _ (by omega)⟩

theorem fields2 (maj : Nat) (hm : maj < 128) (x0 : BitVec 5) (x1 : BitVec 5) (x2 : BitVec 15) (w : IWord)
    (hw : w = BitVec.ofNat 32 (maj + x0.toNat * 128 + x1.toNat * 4096 + x2.toNat * 131072)) :
    w.toNat % 128 = maj ∧
    fld 5 w.toNat 7 = x0 ∧
    fld 5 w.toNat 12 = x1 ∧
    fld 15 w.toNat 17 = x2 := by
  have h0 := x0.isLt
  have h1 := x1.isLt
  have h2 := x2.isLt
  have hn : w.toNat = maj + x0.toNat * 128 + x1.toNat * 4096 + x2.toNat * 131072 := by
    rw [hw, BitVec.toNat_ofNat]
    omega
  rw [hn]
  exact ⟨by omega, fld_eq _ _ _ _ (by omega), fld_eq _ _ _ _ (by omega), fld_eq _ _ _ _ (by omega)⟩

theorem fields3 (maj : Nat) (hm : maj < 128) (x0 : BitVec 5) (x1 : BitVec 5) (x2 : BitVec 6) (w : IWord)
    (hw : w = BitVec.ofNat 32 (maj + x0.toNat * 128 + x1.toNat * 4096 + x2.toNat * 131072)) :
    w.toNat % 128 = maj ∧
    fld 5 w.toNat 7 = x0 ∧
    fld 5 w.toNat 12 = x1 ∧
    fld 6 w.toNat 17 = x2 := by
  have h0 := x0.isLt
  have h1 := x1.isLt
  have h2 := x2.isLt
  have hn : w.toNat = maj + x0.toNat * 128 + x1.toNat * 4096 + x2.toNat * 131072 := by
    rw [hw, BitVec.toNat_ofNat]
    omega
  rw [hn]
  exact ⟨by omega, fld_eq _ _ _ _ (by omega), fld_eq _ _ _ _ (by omega), fld_eq _ _ _ _ (by omega)⟩

theorem fields4 (maj : Nat) (hm : maj < 128) (x0 : BitVec 5) (x1 : BitVec 20) (w : IWord)
    (hw : w = BitVec.ofNat 32 (maj + x0.toNat * 128 + x1.toNat * 4096)) :
    w.toNat % 128 = maj ∧
    fld 5 w.toNat 7 = x0 ∧
    fld 20 w.toNat 12 = x1 := by
  have h0 := x0.isLt
  have h1 := x1.isLt
  have hn : w.toNat = maj + x0.toNat * 128 + x1.toNat * 4096 := by
    rw [hw, BitVec.toNat_ofNat]
    omega
  rw [hn]
  exact ⟨by omega, fld_eq _ _ _ _ (by omega), fld_eq _ _ _ _ (by omega)⟩

theorem fields5 (maj : Nat) (hm : maj < 128) (x0 : BitVec 5) (x1 : BitVec 5) (x2 : BitVec 5) (x3 : BitVec 10) (w : IWord)
    (hw : w = BitVec.ofNat 32 (maj + x0.toNat * 128 + x1.toNat * 4096 + x2.toNat * 131072 + x3.toNat * 4194304)) :
    w.toNat % 128 = maj ∧
    fld 5 w.toNat 7 = x0 ∧
    fld 5 w.toNat 12 = x1 ∧
    fld 5 w.toNat 17 = x2 ∧
    fld 10 w.toNat 22 = x3 := by
  have h0 := x0.isLt
  have h1 := x1.isLt
  have h2 := x2.isLt
  have h3 := x3.isLt
  have hn : w.toNat = maj + x0.toNat * 128 + x1.toNat * 4096 + x2.toNat * 131072 + x3.toNat * 4194304 := by
    rw [hw, BitVec.toNat_ofNat]
    omega
  rw [hn]
  exact ⟨by omega, fld_eq _ _ _ _ (by omega), fld_eq _ _ _ _ (by omega), fld_eq _ _ _ _ (by omega), fld_eq _ _ _ _ (by omega)⟩

theorem fields6 (maj : Nat) (hm : maj < 128) (x0 : BitVec 5) (x1 : BitVec 5) (x2 : BitVec 5) (x3 : BitVec 5) (w : IWord)
    (hw : w = BitVec.ofNat 32 (maj + x0.toNat * 128 + x1.toNat * 4096 + x2.toNat * 131072 + x3.toNat * 4194304)) :
    w.toNat % 128 = maj ∧
    fld 5 w.toNat 7 = x0 ∧
    fld 5 w.toNat 12 = x1 ∧
    fld 5 w.toNat 17 = x2 ∧
    fld 5 w.toNat 22 = x3 := by
  have h0 := x0.isLt
  have h1 := x1.isLt
  have h2 := x2.isLt
  have h3 := x3.isLt
  have hn : w.toNat = maj + x0.toNat * 128 + x1.toNat * 4096 + x2.toNat * 131072 + x3.toNat * 4194304 := by
    rw [hw, BitVec.toNat_ofNat]
    omega
  rw [hn]
  exact ⟨by omega, fld_eq _ _ _ _ (by omega), fld_eq _ _ _ _ (by omega), fld_eq _ _ _ _ (by omega), fld_eq _ _ _ _ (by omega)⟩

theorem fields7 (maj fn : Nat) (hm : maj < 128) (hf : fn < 1024) (x0 : BitVec 5) (x1 : BitVec 5) (w : IWord)
    (hw : w = BitVec.ofNat 32 (maj + fn * 4194304 + x0.toNat * 4096 + x1.toNat * 131072)) :
    w.toNat % 128 = maj ∧
    w.toNat / 4194304 % 1024 = fn ∧
    fld 5 w.toNat 12 = x0 ∧
    fld 5 w.toNat 17 = x1 := by
  have h0 := x0.isLt
  have h1 := x1.isLt
  have hn : w.toNat = maj + fn * 4194304 + x0.toNat * 4096 + x1.toNat * 131072 := by
    rw [hw, BitVec.toNat_ofNat]
    omega
  rw [hn]
  exact ⟨by omega, by omega, fld_eq _ _ _ _ (by omega), fld_eq _ _ _ _ (by omega)⟩

theorem fields8 (maj fn : Nat) (hm : maj < 128) (hf : fn < 1024) (w : IWord)
    (hw : w = BitVec.ofNat 32 (maj + fn * 4194304)) :
    w.toNat % 128 = maj ∧
    w.toNat / 4194304 % 1024 = fn := by
  have hn : w.toNat = maj + fn * 4194304 := by
    rw [hw, BitVec.toNat_ofNat]
    omega
  rw [hn]
  exact ⟨by omega, by omega⟩

theorem fields9 (maj fn : Nat) (hm : maj < 128) (hf : fn < 1024) (x0 : BitVec 5) (w : IWord)
    (hw : w = BitVec.ofNat 32 (maj + fn * 4194304 + x0.toNat * 128)) :
    w.toNat % 128 = maj ∧
    w.toNat / 4194304 % 1024 = fn ∧
    fld 5 w.toNat 7 = x0 := by
  have h0 := x0.isLt
  have hn : w.toNat = maj + fn * 4194304 + x0.toNat * 128 := by
    rw [hw, BitVec.toNat_ofNat]
    omega
  rw [hn]
  exact ⟨by omega, by omega, fld_eq _ _ _ _ (by omega)⟩

theorem fields10 (maj : Nat) (hm : maj < 128) (x0 : BitVec 5) (x1 : BitVec 5) (x2 : BitVec 4) (x3 : BitVec 3) (x4 : BitVec 8) (w : IWord)
    (hw : w = BitVec.ofNat 32 (maj + x0.toNat * 128 + x1.toNat * 4096 + x2.toNat * 131072 + x3.toNat * 2097152 + x4.toNat * 16777216)) :
    w.toNat % 128 = maj ∧
    fld 5 w.toNat 7 = x0 ∧
    fld 5 w.toNat 12 = x1 ∧
    fld 4 w.toNat 17 = x2 ∧
    fld 3 w.toNat 21 = x3 ∧
    fld 8 w.toNat 24 = x4 := by
  have h0 := x0.isLt
  have h1 := x1.isLt
  have h2 := x2.isLt
  have h3 := x3.isLt
  have h4 := x4.isLt
  have hn : w.toNat = maj + x0.toNat * 128 + x1.toNat * 4096 + x2.toNat * 131072 + x3.toNat * 2097152 + x4.toNat * 16777216 := by
    rw [hw, BitVec.toNat_ofNat]
    omega
  rw [hn]
  exact ⟨by omega, fld_eq _ _ _ _ (by omega), fld_eq _ _ _ _ (by omega), fld_eq _ _ _ _ (by omega), fld_eq _ _ _ _ (by omega), fld_eq _ _ _ _ (by omega)⟩

theorem fields11 (maj fn : Nat) (hm : maj < 128) (hf : fn < 1024) (x0 : BitVec 5) (w : IWord)
    (hw : w = BitVec.ofNat 32 (maj + fn * 4194304 + x0.toNat * 4096)) :
    w.toNat % 128 = maj ∧
    w.toNat / 4194304 % 1024 = fn ∧
    fld 5 w.toNat 12 = x0 := by
  have h0 := x0.isLt
  have hn : w.toNat = maj + fn * 4194304 + x0.toNat * 4096 := by
    rw [hw, BitVec.toNat_ofNat]
    omega
  rw [hn]
  exact ⟨by omega, by omega, fld_eq _ _ _ _ (by omega)⟩

theorem fields12 (maj fn : Nat) (hm : maj < 128) (hf : fn < 8) (x0 : BitVec 5) (x1 : BitVec 12) (w : IWord)
    (hw : w = BitVec.ofNat 32 (maj + fn * 536870912 + x0.toNat * 128 + x1.toNat * 131072)) :
    w.toNat % 128 = maj ∧
    w.toNat / 536870912 % 8 = fn ∧
    fld 5 w.toNat 7 = x0 ∧
    fld 12 w.toNat 17 = x1 := by
  have h0 := x0.isLt
  have h1 := x1.isLt
  have hn : w.toNat = maj + fn * 536870912 + x0.toNat * 128 + x1.toNat * 131072 := by
    rw [hw, BitVec.toNat_ofNat]
    omega
  rw [hn]
  exact ⟨by omega, by omega, fld_eq _ _ _ _ (by omega), fld_eq _ _ _ _ (by omega)⟩

theorem fields13 (maj fn : Nat) (hm : maj < 128) (hf : fn < 8) (x0 : BitVec 5) (x1 : BitVec 12) (w : IWord)
    (hw : w = BitVec.ofNat 32 (maj + fn * 536870912 + x0.toNat * 4096 + x1.toNat * 131072)) :
    w.toNat % 128 = maj ∧
    w.toNat / 536870912 % 8 = fn ∧
    fld 5 w.toNat 12 = x0 ∧
    fld 12 w.toNat 17 = x1 := by
  have h0 := x0.isLt
  have h1 := x1.isLt
  have hn : w.toNat = maj + fn * 536870912 + x0.toNat * 4096 + x1.toNat * 131072 := by
    rw [hw, BitVec.toNat_ofNat]
    omega
  rw [hn]
  exact ⟨by omega, by omega, fld_eq _ _ _ _ (by omega), fld_eq _ _ _ _ (by omega)⟩

theorem fields14 (maj fn : Nat) (hm : maj % 4 = 0 ∧ maj < 128) (hf : fn < 8) (x0 : BitVec 2) (x1 : BitVec 5) (x2 : BitVec 5) (x3 : BitVec 5) (x4 : BitVec 5) (x5 : BitVec 2) (w : IWord)
    (hw : w = BitVec.ofNat 32 (maj + fn * 536870912 + x0.toNat * 1 + x1.toNat * 128 + x2.toNat * 4096 + x3.toNat * 131072 + x4.toNat * 4194304 + x5.toNat * 134217728)) :
    w.toNat % 128 = maj + x0.toNat ∧
    w.toNat / 536870912 % 8 = fn ∧
    fld 2 w.toNat 0 = x0 ∧
    fld 5 w.toNat 7 = x1 ∧
    fld 5 w.toNat 12 = x2 ∧
    fld 5 w.toNat 17 = x3 ∧
    fld 5 w.toNat 22 = x4 ∧
    fld 2 w.toNat 27 = x5 := by
  have h0 := x0.isLt
  have h1 := x1.isLt
  have h2 := x2.isLt
  have h3 := x3.isLt
  have h4 := x4.isLt
  have h5 := x5.isLt
  have hn : w.toNat = maj + fn * 536870912 + x0.toNat * 1 + x1.toNat * 128 + x2.toNat * 4096 + x3.toNat * 131072 + x4.toNat * 4194304 + x5.toNat * 134217728 := by
    rw [hw, BitVec.toNat_ofNat]
    omega
  rw [hn]
  exact ⟨by omega, by omega, fld_eq _ _ _ _ (by omega), fld_eq _ _ _ _ (by omega), fld_eq _ _ _ _ (by omega), fld_eq _ _ _ _ (by omega), fld_eq _ _ _ _ (by omega), fld_eq _ _ _ _ (by omega)⟩

theorem fields15 (maj fn : Nat) (hm : maj < 128) (hf : fn < 8) (x0 : BitVec 5) (x1 : BitVec 5) (x2 : BitVec 5) (x3 : BitVec 5) (x4 : BitVec 2) (w : IWord)
    (hw : w = BitVec.ofNat 32 (maj + fn * 536870912 + x0.toNat * 128 + x1.toNat * 4096 + x2.toNat * 131072 + x3.toNat * 4194304 + x4.toNat * 134217728)) :
    w.toNat % 128 = maj ∧
    w.toNat / 536870912 % 8 = fn ∧
    fld 5 w.toNat 7 = x0 ∧
    fld 5 w.toNat 12 = x1 ∧
    fld 5 w.toNat 17 = x2 ∧
    fld 5 w.toNat 22 = x3 ∧
    fld 2 w.toNat 27 = x4 := by
  have h0 := x0.isLt
  have h1 := x1.isLt
  have h2 := x2.isLt
  have h3 := x3.isLt
  have h4 := x4.isLt
  have hn : w.toNat = maj + fn * 536870912 + x0.toNat * 128 + x1.toNat * 4096 + x2.toNat * 131072 + x3.toNat * 4194304 + x4.toNat * 134217728 := by
    rw [hw, BitVec.toNat_ofNat]
    omega
  rw [hn]
  exact ⟨by omega, by omega, fld_eq _ _ _ _ (by omega), fld_eq _ _ _ _ (by omega), fld_eq _ _ _ _ (by omega), fld_eq _ _ _ _ (by omega), fld_eq _ _ _ _ (by omega)⟩

theorem fields16 (maj fn : Nat) (hm : maj < 128) (hf : fn < 8) (x0 : BitVec 5) (x1 : BitVec 5) (x2 : BitVec 5) (w : IWord)
    (hw : w = BitVec.ofNat 32 (maj + fn * 536870912 + x0.toNat * 128 + x1.toNat * 4096 + x2.toNat * 4194304)) :
    w.toNat % 128 = maj ∧
    w.toNat / 536870912 % 8 = fn ∧
    fld 5 w.toNat 7 = x0 ∧
    fld 5 w.toNat 12 = x1 ∧
    fld 5 w.toNat 22 = x2 := by
  have h0 := x0.isLt
  have h1 := x1.isLt
  have h2 := x2.isLt
  have hn : w.toNat = maj + fn * 536870912 + x0.toNat * 128 + x1.toNat * 4096 + x2.toNat * 4194304 := by
    rw [hw, BitVec.toNat_ofNat]
    omega
  rw [hn]
  exact ⟨by omega, by omega, fld_eq _ _ _ _ (by omega), fld_eq _ _ _ _ (by omega), fld_eq _ _ _ _ (by omega)⟩

theorem fields17 (maj fn : Nat) (hm : maj < 128) (hf : fn < 8) (x0 : BitVec 5) (x1 : BitVec 5) (x2 : BitVec 5) (w : IWord)
    (hw : w = BitVec.ofNat 32 (maj + fn * 536870912 + x0.toNat * 128 + x1.toNat * 131072 + x2.toNat * 4194304)) :
    w.toNat % 128 = maj ∧
    w.toNat / 536870912 % 8 = fn ∧
    fld 5 w.toNat 7 = x0 ∧
    fld 5 w.toNat 17 = x1 ∧
    fld 5 w.toNat 22 = x2 := by
  have h0 := x0.isLt
  have h1 := x1.isLt
  have h2 := x2.isLt
  have hn : w.toNat = maj + fn * 536870912 + x0.toNat * 128 + x1.toNat * 131072 + x2.toNat * 4194304 := by
    rw [hw, BitVec.toNat_ofNat]
    omega
  rw [hn]
  exact ⟨by omega, by omega, fld_eq _ _ _ _ (by omega), fld_eq _ _ _ _ (by omega), fld_eq _ _ _ _ (by omega)⟩

theorem fields18 (maj fn : Nat) (hm : maj < 128) (hf : fn < 8) (x0 : BitVec 5) (x1 : BitVec 5) (x2 : BitVec 5) (x3 : BitVec 5) (w : IWord)
    (hw : w = BitVec.ofNat 32 (maj + fn * 536870912 + x0.toNat * 128 + x1.toNat * 4096 + x2.toNat * 131072 + x3.toNat * 4194304)) :
    w.toNat % 128 = maj ∧
    w.toNat / 536870912 % 8 = fn ∧
    fld 5 w.toNat 7 = x0 ∧
    fld 5 w.toNat 12 = x1 ∧
    fld 5 w.toNat 17 = x2 ∧
    fld 5 w.toNat 22 = x3 := by
  have h0 := x0.isLt
  have h1 := x1.isLt
  have h2 := x2.isLt
  have h3 := x3.isLt
  have hn : w.toNat = maj + fn * 536870912 + x0.toNat * 128 + x1.toNat * 4096 + x2.toNat * 131072 + x3.toNat * 4194304 := by
    rw [hw, BitVec.toNat_ofNat]
    omega
  rw [hn]
  exact ⟨by omega, by omega, fld_eq _ _ _ _ (by omega), fld_eq _ _ _ _ (by omega), fld_eq _ _ _ _ (by omega), fld_eq _ _ _ _ (by omega)⟩

theorem fields19 (maj fn : Nat) (hm : maj < 128) (hf : fn < 8) (x0 : BitVec 5) (x1 : BitVec 5) (x2 : BitVec 5) (w : IWord)
    (hw : w = BitVec.ofNat 32 (maj + fn * 536870912 + x0.toNat * 128 + x1.toNat * 4096 + x2.toNat * 131072)) :
    w.toNat % 128 = maj ∧
    w.toNat / 536870912 % 8 = fn ∧
    fld 5 w.toNat 7 = x0 ∧
    fld 5 w.toNat 12 = x1 ∧
    fld 5 w.toNat 17 = x2 := by
  have h0 := x0.isLt
  have h1 := x1.isLt
  have h2 := x2.isLt
  have hn : w.toNat = maj + fn * 536870912 + x0.toNat * 128 + x1.toNat * 4096 + x2.toNat * 131072 := by
    rw [hw, BitVec.toNat_ofNat]
    omega
  rw [hn]
  exact ⟨by omega, by omega, fld_eq _ _ _ _ (by omega), fld_eq _ _ _ _ (by omega), fld_eq _ _ _ _ (by omega)⟩

theorem fields20 (maj : Nat) (hm : maj < 128) (x0 : BitVec 5) (x1 : BitVec 5) (x2 : BitVec 4) (x3 : BitVec 4) (x4 : BitVec 2) (x5 : BitVec 5) (w : IWord)
    (hw : w = BitVec.ofNat 32 (maj + x0.toNat * 128 + x1.toNat * 4096 + x2.toNat * 131072 + x3.toNat * 2097152 + x4.toNat * 33554432 + x5.toNat * 134217728)) :
    w.toNat % 128 = maj ∧
    fld 5 w.toNat 7 = x0 ∧
    fld 5 w.toNat 12 = x1 ∧
    fld 4 w.toNat 17 = x2 ∧
    fld 4 w.toNat 21 = x3 ∧
    fld 2 w.toNat 25 = x4 ∧
    fld 5 w.toNat 27 = x5 := by
  have h0 := x0.isLt
  have h1 := x1.isLt
  have h2 := x2.isLt
  have h3 := x3.isLt
  have h4 := x4.isLt
  have h5 := x5.isLt
  have hn : w.toNat = maj + x0.toNat * 128 + x1.toNat * 4096 + x2.toNat * 131072 + x3.toNat * 2097152 + x4.toNat * 33554432 + x5.toNat * 134217728 := by
    rw [hw, BitVec.toNat_ofNat]
    omega
  rw [hn]
  exact ⟨by omega, fld_eq _ _ _ _ (by omega), fld_eq _ _ _ _ (by omega), fld_eq _ _ _ _ (by omega), fld_eq _ _ _ _ (by omega), fld_eq _ _ _ _ (by omega), fld_eq _ _ _ _ (by omega)⟩

theorem fields21 (maj fn : Nat) (hm : maj < 128) (hf : fn < 8) (x0 : BitVec 5) (x1 : BitVec 5) (w : IWord)
    (hw : w = BitVec.ofNat 32 (maj + fn * 536870912 + x0.toNat * 4096 + x1.toNat * 131072)) :
    w.toNat % 128 = maj ∧
    w.toNat / 536870912 % 8 = fn ∧
    fld 5 w.toNat 12 = x0 ∧
    fld 5 w.toNat 17 = x1 := by
  have h0 := x0.isLt
  have h1 := x1.isLt
  have hn : w.toNat = maj + fn * 536870912 + x0.toNat * 4096 + x1.toNat * 131072 := by
    rw [hw, BitVec.toNat_ofNat]
    omega
  rw [hn]
  exact ⟨by omega, by omega, fld_eq _ _ _ _ (by omega), fld_eq _ _ _ _ (by omega)⟩

theorem fields22 (maj fn : Nat) (hm : maj < 128) (hf : fn < 2) (x0 : BitVec 5) (x1 : BitVec 5) (x2 : BitVec 5) (x3 : BitVec 4) (w : IWord)
    (hw : w = BitVec.ofNat 32 (maj + fn * 2147483648 + x0.toNat * 128 + x1.toNat * 4096 + x2.toNat * 4194304 + x3.toNat * 134217728)) :
    w.toNat % 128 = maj ∧
    w.toNat / 2147483648 % 2 = fn ∧
    fld 5 w.toNat 7 = x0 ∧
    fld 5 w.toNat 12 = x1 ∧
    fld 5 w.toNat 22 = x2 ∧
    fld 4 w.toNat 27 = x3 := by
  have h0 := x0.isLt
  have h1 := x1.isLt
  have h2 := x2.isLt
  have h3 := x3.isLt
  have hn : w.toNat = maj + fn * 2147483648 + x0.toNat * 128 + x1.toNat * 4096 + x2.toNat * 4194304 + x3.toNat * 134217728 := by
    rw [hw, BitVec.toNat_ofNat]
    omega
  rw [hn]
  exact ⟨by omega, by omega, fld_eq _ _ _ _ (by omega), fld_eq _ _ _ _ (by omega), fld_eq _ _ _ _ (by omega), fld_eq _ _ _ _ (by omega)⟩

theorem fields23 (maj fn : Nat) (hm : maj < 128) (hf : fn < 2) (x0 : BitVec 5) (x1 : BitVec 5) (x2 : BitVec 5) (x3 : BitVec 5) (x4 : BitVec 4) (w : IWord)
    (hw : w = BitVec.ofNat 32 (maj + fn * 2147483648 + x0.toNat * 128 + x1.toNat * 4096 + x2.toNat * 131072 + x3.toNat * 4194304 + x4.toNat * 134217728)) :
    w.toNat % 128 = maj ∧
    w.toNat / 2147483648 % 2 = fn ∧
    fld 5 w.toNat 7 = x0 ∧
    fld 5 w.toNat 12 = x1 ∧
    fld 5 w.toNat 17 = x2 ∧
    fld 5 w.toNat 22 = x3 ∧
    fld 4 w.toNat 27 = x4 := by
  have h0 := x0.isLt
  have h1 := x1.isLt
  have h2 := x2.isLt
  have h3 := x3.isLt
  have h4 := x4.isLt
  have hn : w.toNat = maj + fn * 2147483648 + x0.toNat * 128 + x1.toNat * 4096 + x2.toNat * 131072 + x3.toNat * 4194304 + x4.toNat * 134217728 := by
    rw [hw, BitVec.toNat_ofNat]
    omega
  rw [hn]
  exact ⟨by omega, by omega, fld_eq _ _ _ _ (by omega), fld_eq _ _ _ _ (by omega), fld_eq _ _ _ _ (by omega), fld_eq _ _ _ _ (by omega), fld_eq _ _ _ _ (by omega)⟩

theorem fields24 (maj fn : Nat) (hm : maj < 128) (hf : fn < 8) (x0 : BitVec 5) (w : IWord)
    (hw : w = BitVec.ofNat 32 (maj + fn * 536870912 + x0.toNat * 4096)) :
    w.toNat % 128 = maj ∧
    w.toNat / 536870912 % 8 = fn ∧
    fld 5 w.toNat 12 = x0 := by
  have h0 := x0.isLt
  have hn : w.toNat = maj + fn * 536870912 + x0.toNat * 4096 := by
    rw [hw, BitVec.toNat_ofNat]
    omega
  rw [hn]
  exact ⟨by omega, by omega, fld_eq _ _ _ _ (by omega)⟩

theorem fields25 (maj fn : Nat) (hm : maj < 128) (hf : fn < 8) (x0 : BitVec 5) (x1 : BitVec 5) (w : IWord)
    (hw : w = BitVec.ofNat 32 (maj + fn * 536870912 + x0.toNat * 4096 + x1.toNat * 4194304)) :
    w.toNat % 128 = maj ∧
    w.toNat / 536870912 % 8 = fn ∧
    fld 5 w.toNat 12 = x0 ∧
    fld 5 w.toNat 22 = x1 := by
  have h0 := x0.isLt
  have h1 := x1.isLt
  have hn : w.toNat = maj + fn * 536870912 + x0.toNat * 4096 + x1.toNat * 4194304 := by
    rw [hw, BitVec.toNat_ofNat]
    omega
  rw [hn]
  exact ⟨by omega, by omega, fld_eq _ _ _ _ (by omega), fld_eq _ _ _ _ (by omega)⟩

theorem fields26 (maj fn : Nat) (hm : maj < 128) (hf : fn < 8) (w : IWord)
    (hw : w = BitVec.ofNat 32 (maj + fn * 536870912)) :
    w.toNat % 128 = maj ∧
    w.toNat / 536870912 % 8 = fn := by
  have hn : w.toNat = maj + fn * 536870912 := by
    rw [hw, BitVec.toNat_ofNat]
    omega
  rw [hn]
  exact ⟨by omega, by omega⟩

theorem fields27 (maj fn : Nat) (hm : maj < 128) (hf : fn < 8) (x0 : BitVec 5) (w : IWord)
    (hw : w = BitVec.ofNat 32 (maj + fn * 536870912 + x0.toNat * 131072)) :
    w.toNat % 128 = maj ∧
    w.toNat / 536870912 % 8 = fn ∧
    fld 5 w.toNat 17 = x0 := by
  have h0 := x0.isLt
  have hn : w.toNat = maj + fn * 536870912 + x0.toNat * 131072 := by
    rw [hw, BitVec.toNat_ofNat]
    omega
  rw [hn]
  exact ⟨by omega, by omega, fld_eq _ _ _ _ (by omega)⟩

theorem fields28 (maj fn : Nat) (hm : maj < 128) (hf : fn < 2) (x0 : BitVec 5) (x1 : BitVec 5) (x2 : BitVec 3) (w : IWord)
    (hw : w = BitVec.ofNat 32 (maj + fn * 2147483648 + x0.toNat * 128 + x1.toNat * 4096 + x2.toNat * 131072)) :
    w.toNat % 128 = maj ∧
    w.toNat / 2147483648 % 2 = fn ∧
    fld 5 w.toNat 7 = x0 ∧
    fld 5 w.toNat 12 = x1 ∧
    fld 3 w.toNat 17 = x2 := by
  have h0 := x0.isLt
  have h1 := x1.isLt
  have h2 := x2.isLt
  have hn : w.toNat = maj + fn * 2147483648 + x0.toNat * 128 + x1.toNat * 4096 + x2.toNat * 131072 := by
    rw [hw, BitVec.toNat_ofNat]
    omega
  rw [hn]
  exact ⟨by omega, by omega, fld_eq _ _ _ _ (by omega), fld_eq _ _ _ _ (by omega), fld_eq _ _ _ _ (by omega)⟩

theorem fields29 (maj fn : Nat) (hm : maj < 128) (hf : fn < 2) (x0 : BitVec 5) (x1 : BitVec 5) (x2 : BitVec 3) (x3 : BitVec 11) (w : IWord)
    (hw : w = BitVec.ofNat 32 (maj + fn * 2147483648 + x0.toNat * 128 + x1.toNat * 4096 + x2.toNat * 131072 + x3.toNat * 1048576)) :
    w.toNat % 128 = maj ∧
    w.toNat / 2147483648 % 2 = fn ∧
    fld 5 w.toNat 7 = x0 ∧
    fld 5 w.toNat 12 = x1 ∧
    fld 3 w.toNat 17 = x2 ∧
    fld 11 w.toNat 20 = x3 := by
  have h0 := x0.isLt
  have h1 := x1.isLt
  have h2 := x2.isLt
  have h3 := x3.isLt
  have hn : w.toNat = maj + fn * 2147483648 + x0.toNat * 128 + x1.toNat * 4096 + x2.toNat * 131072 + x3.toNat * 1048576 := by
    rw [hw, BitVec.toNat_ofNat]
    omega
  rw [hn]
  exact ⟨by omega, by omega, fld_eq _ _ _ _ (by omega), fld_eq _ _ _ _ (by omega), fld_eq _ _ _ _ (by omega), fld_eq _ _ _ _ (by omega)⟩

theorem fields30 (maj fn : Nat) (hm : maj < 128) (hf : fn < 64) (x0 : BitVec 5) (x1 : BitVec 5) (x2 : BitVec 5) (w : IWord)
    (hw : w = BitVec.ofNat 32 (maj + fn * 67108864 + x0.toNat * 128 + x1.toNat * 65536 + x2.toNat * 2097152)) :
    w.toNat % 128 = maj ∧
    w.toNat / 67108864 % 64 = fn ∧
    fld 5 w.toNat 7 = x0 ∧
    fld 5 w.toNat 16 = x1 ∧
    fld 5 w.toNat 21 = x2 := by
  have h0 := x0.isLt
  have h1 := x1.isLt
  have h2 := x2.isLt
  have hn : w.toNat = maj + fn * 67108864 + x0.toNat * 128 + x1.toNat * 65536 + x2.toNat * 2097152 := by
    rw [hw, BitVec.toNat_ofNat]
    omega
  rw [hn]
  exact ⟨by omega, by omega, fld_eq _ _ _ _ (by omega), fld_eq _ _ _ _ (by omega), fld_eq _ _ _ _ (by omega)⟩

theorem fields31 (maj fn : Nat) (hm : maj < 128) (hf : fn < 64) (x0 : BitVec 4) (x1 : BitVec 5) (w : IWord)
    (hw : w = BitVec.ofNat 32 (maj + fn * 67108864 + x0.toNat * 4096 + x1.toNat * 65536)) :
    w.toNat % 128 = maj ∧
    w.toNat / 67108864 % 64 = fn ∧
    fld 4 w.toNat 12 = x0 ∧
    fld 5 w.toNat 16 = x1 := by
  have h0 := x0.isLt
  have h1 := x1.isLt
  have hn : w.toNat = maj + fn * 67108864 + x0.toNat * 4096 + x1.toNat * 65536 := by
    rw [hw, BitVec.toNat_ofNat]
    omega
  rw [hn]
  exact ⟨by omega, by omega, fld_eq _ _ _ _ (by omega), fld_eq _ _ _ _ (by omega)⟩

theorem fields32 (maj fn : Nat) (hm : maj < 128) (hf : fn < 64) (x0 : BitVec 5) (x1 : BitVec 4) (x2 : BitVec 5) (w : IWord)
    (hw : w = BitVec.ofNat 32 (maj + fn * 67108864 + x0.toNat * 128 + x1.toNat * 4096 + x2.toNat * 65536)) :
    w.toNat % 128 = maj ∧
    w.toNat / 67108864 % 64 = fn ∧
    fld 5 w.toNat 7 = x0 ∧
    fld 4 w.toNat 12 = x1 ∧
    fld 5 w.toNat 16 = x2 := by
  have h0 := x0.isLt
  have h1 := x1.isLt
  have h2 := x2.isLt
  have hn : w.toNat = maj + fn * 67108864 + x0.toNat * 128 + x1.toNat * 4096 + x2.toNat * 65536 := by
    rw [hw, BitVec.toNat_ofNat]
    omega
  rw [hn]
  exact ⟨by omega, by omega, fld_eq _ _ _ _ (by omega), fld_eq _ _ _ _ (by omega), fld_eq _ _ _ _ (by omega)⟩

theorem fields33 (maj fn : Nat) (hm : maj < 128) (hf : fn < 64) (x0 : BitVec 5) (x1 : BitVec 4) (x2 : BitVec 5) (x3 : BitVec 5) (w : IWord)
    (hw : w = BitVec.ofNat 32 (maj + fn * 67108864 + x0.toNat * 128 + x1.toNat * 4096 + x2.toNat * 65536 + x3.toNat * 2097152)) :
    w.toNat % 128 = maj ∧
    w.toNat / 67108864 % 64 = fn ∧
    fld 5 w.toNat 7 = x0 ∧
    fld 4 w.toNat 12 = x1 ∧
    fld 5 w.toNat 16 = x2 ∧
    fld 5 w.toNat 21 = x3 := by
  have h0 := x0.isLt
  have h1 := x1.isLt
  have h2 := x2.isLt
  have h3 := x3.isLt
  have hn : w.toNat = maj + fn * 67108864 + x0.toNat * 128 + x1.toNat * 4096 + x2.toNat * 65536 + x3.toNat * 2097152 := by
    rw [hw, BitVec.toNat_ofNat]
    omega
  rw [hn]
  exact ⟨by omega, by omega, fld_eq _ _ _ _ (by omega), fld_eq _ _ _ _ (by omega), fld_eq _ _ _ _ (by omega), fld_eq _ _ _ _ (by omega)⟩

theorem fields34 (maj fn : Nat) (hm : maj < 128) (hf : fn < 64) (x0 : BitVec 5) (x1 : BitVec 4) (w : IWord)
    (hw : w = BitVec.ofNat 32 (maj + fn * 67108864 + x0.toNat * 128 + x1.toNat * 4096)) :
    w.toNat % 128 = maj ∧
    w.toNat / 67108864 % 64 = fn ∧
    fld 5 w.toNat 7 = x0 ∧
    fld 4 w.toNat 12 = x1 := by
  have h0 := x0.isLt
  have h1 := x1.isLt
  have hn : w.toNat = maj + fn * 67108864 + x0.toNat * 128 + x1.toNat * 4096 := by
    rw [hw, BitVec.toNat_ofNat]
    omega
  rw [hn]
  exact ⟨by omega, by omega, fld_eq _ _ _ _ (by omega), fld_eq _ _ _ _ (by omega)⟩

theorem fields35 (maj fn : Nat) (hm : maj < 128) (hf : fn < 64) (x0 : BitVec 5) (x1 : BitVec 5) (w : IWord)
    (hw : w = BitVec.ofNat 32 (maj + fn * 67108864 + x0.toNat * 128 + x1.toNat * 65536)) :
    w.toNat % 128 = maj ∧
    w.toNat / 67108864 % 64 = fn ∧
    fld 5 w.toNat 7 = x0 ∧
    fld 5 w.toNat 16 = x1 := by
  have h0 := x0.isLt
  have h1 := x1.isLt
  have hn : w.toNat = maj + fn * 67108864 + x0.toNat * 128 + x1.toNat * 65536 := by
    rw [hw, BitVec.toNat_ofNat]
    omega
  rw [hn]
  exact ⟨by omega, by omega, fld_eq _ _ _ _ (by omega), fld_eq _ _ _ _ (by omega)⟩

theorem fields36 (maj fn : Nat) (hm : maj < 128) (hf : fn < 64) (x0 : BitVec 4) (x1 : BitVec 5) (x2 : BitVec 5) (w : IWord)
    (hw : w = BitVec.ofNat 32 (maj + fn * 67108864 + x0.toNat * 4096 + x1.toNat * 65536 + x2.toNat * 2097152)) :
    w.toNat % 128 = maj ∧
    w.toNat / 67108864 % 64 = fn ∧
    fld 4 w.toNat 12 = x0 ∧
    fld 5 w.toNat 16 = x1 ∧
    fld 5 w.toNat 21 = x2 := by
  have h0 := x0.isLt
  have h1 := x1.isLt
  have h2 := x2.isLt
  have hn : w.toNat = maj + fn * 67108864 + x0.toNat * 4096 + x1.toNat * 65536 + x2.toNat * 2097152 := by
    rw [hw, BitVec.toNat_ofNat]
    omega
  rw [hn]
  exact ⟨by omega, by omega, fld_eq _ _ _ _ (by omega), fld_eq _ _ _ _ (by omega), fld_eq _ _ _ _ (by omega)⟩

theorem fields37 (maj fn : Nat) (hm : maj < 128) (hf : fn < 4) (x0 : BitVec 3) (x1 : BitVec 5) (x2 : BitVec 5) (x3 : BitVec 5) (x4 : BitVec 5) (w : IWord)
    (hw : w = BitVec.ofNat 32 (maj + fn * 1073741824 + x0.toNat * 128 + x1.toNat * 1024 + x2.toNat * 32768 + x3.toNat * 1048576 + x4.toNat * 33554432)) :
    w.toNat % 128 = maj ∧
    w.toNat / 1073741824 % 4 = fn ∧
    fld 3 w.toNat 7 = x0 ∧
    fld 5 w.toNat 10 = x1 ∧
    fld 5 w.toNat 15 = x2 ∧
    fld 5 w.toNat 20 = x3 ∧
    fld 5 w.toNat 25 = x4 := by
  have h0 := x0.isLt
  have h1 := x1.isLt
  have h2 := x2.isLt
  have h3 := x3.isLt
  have h4 := x4.isLt
  have hn : w.toNat = maj + fn * 1073741824 + x0.toNat * 128 + x1.toNat * 1024 + x2.toNat * 32768 + x3.toNat * 1048576 + x4.toNat * 33554432 := by
    rw [hw, BitVec.toNat_ofNat]
    omega
  rw [hn]
  exact ⟨by omega, by omega, fld_eq _ _ _ _ (by omega), fld_eq _ _ _ _ (by omega), fld_eq _ _ _ _ (by omega), fld_eq _ _ _ _ (by omega), fld_eq _ _ _ _ (by omega)⟩

theorem fields38 (maj fn : Nat) (hm : maj < 128) (hf : fn < 4) (x0 : BitVec 3) (x1 : BitVec 5) (x2 : BitVec 5) (x3 : BitVec 5) (x4 : BitVec 3) (w : IWord)
    (hw : w = BitVec.ofNat 32 (maj + fn * 1073741824 + x0.toNat * 128 + x1.toNat * 1024 + x2.toNat * 32768 + x3.toNat * 1048576 + x4.toNat * 33554432)) :
    w.toNat % 128 = maj ∧
    w.toNat / 1073741824 % 4 = fn ∧
    fld 3 w.toNat 7 = x0 ∧
    fld 5 w.toNat 10 = x1 ∧
    fld 5 w.toNat 15 = x2 ∧
    fld 5 w.toNat 20 = x3 ∧
    fld 3 w.toNat 25 = x4 := by
  have h0 := x0.isLt
  have h1 := x1.isLt
  have h2 := x2.isLt
  have h3 := x3.isLt
  have h4 := x4.isLt
  have hn : w.toNat = maj + fn * 1073741824 + x0.toNat * 128 + x1.toNat * 1024 + x2.toNat * 32768 + x3.toNat * 1048576 + x4.toNat * 33554432 := by
    rw [hw, BitVec.toNat_ofNat]
    omega
  rw [hn]
  exact ⟨by omega, by omega, fld_eq _ _ _ _ (by omega), fld_eq _ _ _ _ (by omega), fld_eq _ _ _ _ (by omega), fld_eq _ _ _ _ (by omega), fld_eq _ _ _ _ (by omega)⟩

theorem fields39 (maj fn : Nat) (hm : maj < 128) (hf : fn < 4) (x0 : BitVec 3) (x1 : BitVec 5) (x2 : BitVec 5) (x3 : BitVec 5) (w : IWord)
    (hw : w = BitVec.ofNat 32 (maj + fn * 1073741824 + x0.toNat * 128 + x1.toNat * 1024 + x2.toNat * 1048576 + x3.toNat * 33554432)) :
    w.toNat % 128 = maj ∧
    w.toNat / 1073741824 % 4 = fn ∧
    fld 3 w.toNat 7 = x0 ∧
    fld 5 w.toNat 10 = x1 ∧
    fld 5 w.toNat 20 = x2 ∧
    fld 5 w.toNat 25 = x3 := by
  have h0 := x0.isLt
  have h1 := x1.isLt
  have h2 := x2.isLt
  have h3 := x3.isLt
  have hn : w.toNat = maj + fn * 1073741824 + x0.toNat * 128 + x1.toNat * 1024 + x2.toNat * 1048576 + x3.toNat * 33554432 := by
    rw [hw, BitVec.toNat_ofNat]
    omega
  rw [hn]
  exact ⟨by omega, by omega, fld_eq _ _ _ _ (by omega), fld_eq _ _ _ _ (by omega), fld_eq _ _ _ _ (by omega), fld_eq _ _ _ _ (by omega)⟩

theorem fields40 (maj fn : Nat) (hm : maj < 128) (hf : fn < 4) (x0 : BitVec 3) (x1 : BitVec 5) (x2 : BitVec 5) (x3 : BitVec 5) (w : IWord)
    (hw : w = BitVec.ofNat 32 (maj + fn * 1073741824 + x0.toNat * 128 + x1.toNat * 1024 + x2.toNat * 32768 + x3.toNat * 1048576)) :
    w.toNat % 128 = maj ∧
    w.toNat / 1073741824 % 4 = fn ∧
    fld 3 w.toNat 7 = x0 ∧
    fld 5 w.toNat 10 = x1 ∧
    fld 5 w.toNat 15 = x2 ∧
    fld 5 w.toNat 20 = x3 := by
  have h0 := x0.isLt
  have h1 := x1.isLt
  have h2 := x2.isLt
  have h3 := x3.isLt
  have hn : w.toNat = maj + fn * 1073741824 + x0.toNat * 128 + x1.toNat * 1024 + x2.toNat * 32768 + x3.toNat * 1048576 := by
    rw [hw, BitVec.toNat_ofNat]
    omega
  rw [hn]
  exact ⟨by omega, by omega, fld_eq _ _ _ _ (by omega), fld_eq _ _ _ _ (by omega), fld_eq _ _ _ _ (by omega), fld_eq _ _ _ _ (by omega)⟩

theorem fields41 (maj fn : Nat) (hm : maj < 128) (hf : fn < 4) (x0 : BitVec 3) (x1 : BitVec 4) (x2 : BitVec 5) (x3 : BitVec 5) (x4 : BitVec 5) (w : IWord)
    (hw : w = BitVec.ofNat 32 (maj + fn * 1073741824 + x0.toNat * 128 + x1.toNat * 1024 + x2.toNat * 32768 + x3.toNat * 1048576 + x4.toNat * 33554432)) :
    w.toNat % 128 = maj ∧
    w.toNat / 1073741824 % 4 = fn ∧
    fld 3 w.toNat 7 = x0 ∧
    fld 4 w.toNat 10 = x1 ∧
    fld 5 w.toNat 15 = x2 ∧
    fld 5 w.toNat 20 = x3 ∧
    fld 5 w.toNat 25 = x4 := by
  have h0 := x0.isLt
  have h1 := x1.isLt
  have h2 := x2.isLt
  have h3 := x3.isLt
  have h4 := x4.isLt
  have hn : w.toNat = maj + fn * 1073741824 + x0.toNat * 128 + x1.toNat * 1024 + x2.toNat * 32768 + x3.toNat * 1048576 + x4.toNat * 33554432 := by
    rw [hw, BitVec.toNat_ofNat]
    omega
  rw [hn]
  exact ⟨by omega, by omega, fld_eq _ _ _ _ (by omega), fld_eq _ _ _ _ (by omega), fld_eq _ _ _ _ (by omega), fld_eq _ _ _ _ (by omega), fld_eq _ _ _ _ (by omega)⟩

theorem fields42 (maj fn : Nat) (hm : maj < 128) (hf : fn < 1024) (x0 : BitVec 4) (x1 : BitVec 5) (w : IWord)
    (hw : w = BitVec.ofNat 32 (maj + fn * 4194304 + x0.toNat * 128 + x1.toNat * 4096)) :
    w.toNat % 128 = maj ∧
    w.toNat / 4194304 % 1024 = fn ∧
    fld 4 w.toNat 7 = x0 ∧
    fld 5 w.toNat 12 = x1 := by
  have h0 := x0.isLt
  have h1 := x1.isLt
  have hn : w.toNat = maj + fn * 4194304 + x0.toNat * 128 + x1.toNat * 4096 := by
    rw [hw, BitVec.toNat_ofNat]
    omega
  rw [hn]
  exact ⟨by omega, by omega, fld_eq _ _ _ _ (by omega), fld_eq _ _ _ _ (by omega)⟩

theorem fields43 (maj fn : Nat) (hm : maj < 128) (hf : fn < 1024) (x0 : BitVec 4) (x1 : BitVec 4) (w : IWord)
    (hw : w = BitVec.ofNat 32 (maj + fn * 4194304 + x0.toNat * 128 + x1.toNat * 4096)) :
    w.toNat % 128 = maj ∧
    w.toNat / 4194304 % 1024 = fn ∧
    fld 4 w.toNat 7 = x0 ∧
    fld 4 w.toNat 12 = x1 := by
  have h0 := x0.isLt
  have h1 := x1.isLt
  have hn : w.toNat = maj + fn * 4194304 + x0.toNat * 128 + x1.toNat * 4096 := by
    rw [hw, BitVec.toNat_ofNat]
    omega
  rw [hn]
  exact ⟨by omega, by omega, fld_eq _ _ _ _ (by omega), fld_eq _ _ _ _ (by omega)⟩

theorem fields44 (maj fn : Nat) (hm : maj < 128) (hf : fn < 1024) (x0 : BitVec 4) (x1 : BitVec 4) (x2 : BitVec 4) (w : IWord)
    (hw : w = BitVec.ofNat 32 (maj + fn * 4194304 + x0.toNat * 128 + x1.toNat * 4096 + x2.toNat * 131072)) :
    w.toNat % 128 = maj ∧
    w.toNat / 4194304 % 1024 = fn ∧
    fld 4 w.toNat 7 = x0 ∧
    fld 4 w.toNat 12 = x1 ∧
    fld 4 w.toNat 17 = x2 := by
  have h0 := x0.isLt
  have h1 := x1.isLt
  have h2 := x2.isLt
  have hn : w.toNat = maj + fn * 4194304 + x0.toNat * 128 + x1.toNat * 4096 + x2.toNat * 131072 := by
    rw [hw, BitVec.toNat_ofNat]
    omega
  rw [hn]
  exact ⟨by omega, by omega, fld_eq _ _ _ _ (by omega), fld_eq _ _ _ _ (by omega), fld_eq _ _ _ _ (by omega)⟩

theorem fields45 (maj fn : Nat) (hm : maj < 128) (hf : fn < 1024) (x0 : BitVec 4) (w : IWord)
    (hw : w = BitVec.ofNat 32 (maj + fn * 4194304 + x0.toNat * 4096)) :
    w.toNat % 128 = maj ∧
    w.toNat / 4194304 % 1024 = fn ∧
    fld 4 w.toNat 12 = x0 := by
  have h0 := x0.isLt
  have hn : w.toNat = maj + fn * 4194304 + x0.toNat * 4096 := by
    rw [hw, BitVec.toNat_ofNat]
    omega
  rw [hn]
  exact ⟨by omega, by omega, fld_eq _ _ _ _ (by omega)⟩

theorem fields46 (maj fn : Nat) (hm : maj < 128) (hf : fn < 1024) (x0 : BitVec 4) (x1 : BitVec 4) (x2 : BitVec 5) (w : IWord)
    (hw : w = BitVec.ofNat 32 (maj + fn * 4194304 + x0.toNat * 128 + x1.toNat * 4096 + x2.toNat * 131072)) :
    w.toNat % 128 = maj ∧
    w.toNat / 4194304 % 1024 = fn ∧
    fld 4 w.toNat 7 = x0 ∧
    fld 4 w.toNat 12 = x1 ∧
    fld 5 w.toNat 17 = x2 := by
  have h0 := x0.isLt
  have h1 := x1.isLt
  have h2 := x2.isLt
  have hn : w.toNat = maj + fn * 4194304 + x0.toNat * 128 + x1.toNat * 4096 + x2.toNat * 131072 := by
    rw [hw, BitVec.toNat_ofNat]
    omega
  rw [hn]
  exact ⟨by omega, by omega, fld_eq _ _ _ _ (by omega), fld_eq _ _ _ _ (by omega), fld_eq _ _ _ _ (by omega)⟩

theorem fields47 (maj fn : Nat) (hm : maj < 128) (hf : fn < 1024) (x0 : BitVec 5) (x1 : BitVec 4) (w : IWord)
    (hw : w = BitVec.ofNat 32 (maj + fn * 4194304 + x0.toNat * 128 + x1.toNat * 4096)) :
    w.toNat % 128 = maj ∧
    w.toNat / 4194304 % 1024 = fn ∧
    fld 5 w.toNat 7 = x0 ∧
    fld 4 w.toNat 12 = x1 := by
  have h0 := x0.isLt
  have h1 := x1.isLt
  have hn : w.toNat = maj + fn * 4194304 + x0.toNat * 128 + x1.toNat * 4096 := by
    rw [hw, BitVec.toNat_ofNat]
    omega
  rw [hn]
  exact ⟨by omega, by omega, fld_eq _ _ _ _ (by omega), fld_eq _ _ _ _ (by omega)⟩

theorem fields48 (maj fn : Nat) (hm : maj < 128) (hf : fn < 32) (x0 : BitVec 5) (x1 : BitVec 5) (x2 : BitVec 5) (x3 : BitVec 4) (x4 : BitVec 1) (w : IWord)
    (hw : w = BitVec.ofNat 32 (maj + fn * 134217728 + x0.toNat * 128 + x1.toNat * 4096 + x2.toNat * 131072 + x3.toNat * 4194304 + x4.toNat * 67108864)) :
    w.toNat % 128 = maj ∧
    w.toNat / 134217728 % 32 = fn ∧
    fld 5 w.toNat 7 = x0 ∧
    fld 5 w.toNat 12 = x1 ∧
    fld 5 w.toNat 17 = x2 ∧
    fld 4 w.toNat 22 = x3 ∧
    fld 1 w.toNat 26 = x4 := by
  have h0 := x0.isLt
  have h1 := x1.isLt
  have h2 := x2.isLt
  have h3 := x3.isLt
  have h4 := x4.isLt
  have hn : w.toNat = maj + fn * 134217728 + x0.toNat * 128 + x1.toNat * 4096 + x2.toNat * 131072 + x3.toNat * 4194304 + x4.toNat * 67108864 := by
    rw [hw, BitVec.toNat_ofNat]
    omega
  rw [hn]
  exact ⟨by omega, by omega, fld_eq _ _ _ _ (by omega), fld_eq _ _ _ _ (by omega), fld_eq _ _ _ _ (by omega), fld_eq _ _ _ _ (by omega), fld_eq _ _ _ _ (by omega)⟩

theorem fields49 (maj fn : Nat) (hm : maj < 128) (hf : fn < 64) (w : IWord)
    (hw : w = BitVec.ofNat 32 (maj + fn * 67108864)) :
    w.toNat % 128 = maj ∧
    w.toNat / 67108864 % 64 = fn := by
  have hn : w.toNat = maj + fn * 67108864 := by
    rw [hw, BitVec.toNat_ofNat]
    omega
  rw [hn]
  exact ⟨by omega, by omega⟩

theorem fields50 (maj fn : Nat) (hm : maj < 128) (hf : fn < 64) (x0 : BitVec 5) (w : IWord)
    (hw : w = BitVec.ofNat 32 (maj + fn * 67108864 + x0.toNat * 128)) :
    w.toNat % 128 = maj ∧
    w.toNat / 67108864 % 64 = fn ∧
    fld 5 w.toNat 7 = x0 := by
  have h0 := x0.isLt
  have hn : w.toNat = maj + fn * 67108864 + x0.toNat * 128 := by
    rw [hw, BitVec.toNat_ofNat]
    omega
  rw [hn]
  exact ⟨by omega, by omega, fld_eq _ _ _ _ (by omega)⟩

theorem fields51 (maj fn : Nat) (hm : maj < 128) (hf : fn < 64) (x0 : BitVec 5) (x1 : BitVec 5) (w : IWord)
    (hw : w = BitVec.ofNat 32 (maj + fn * 67108864 + x0.toNat * 65536 + x1.toNat * 2097152)) :
    w.toNat % 128 = maj ∧
    w.toNat / 67108864 % 64 = fn ∧
    fld 5 w.toNat 16 = x0 ∧
    fld 5 w.toNat 21 = x1 := by
  have h0 := x0.isLt
  have h1 := x1.isLt
  have hn : w.toNat = maj + fn * 67108864 + x0.toNat * 65536 + x1.toNat * 2097152 := by
    rw [hw, BitVec.toNat_ofNat]
    omega
  rw [hn]
  exact ⟨by omega, by omega, fld_eq _ _ _ _ (by omega), fld_eq _ _ _ _ (by omega)⟩

end Sys2Proof.Laws

namespace Sys2Proof.Laws.FieldsRead

open Sys2Proof.Machine

/-- Reading the fields of an instruction's word gives the instruction. -/
def Statement (i : Instr) : Prop := i.isWord = true → decodeFields (encode i) = some i

theorem add (d : BitVec 5) (a : BitVec 5) (b : BitVec 5) : Statement (.add d a b) := fun _ => by
  have h := fields0 1 0 (by decide) (by decide) d a b (encode (.add d a b)) rfl
  rw [decodeFields_major01 _ h.1, major01]
  simp only [h.2.1, h.2.2.1, h.2.2.2.1, h.2.2.2.2]

theorem sub (d : BitVec 5) (a : BitVec 5) (b : BitVec 5) : Statement (.sub d a b) := fun _ => by
  have h := fields0 1 1 (by decide) (by decide) d a b (encode (.sub d a b)) rfl
  rw [decodeFields_major01 _ h.1, major01]
  simp only [h.2.1, h.2.2.1, h.2.2.2.1, h.2.2.2.2]

theorem and (d : BitVec 5) (a : BitVec 5) (b : BitVec 5) : Statement (.and d a b) := fun _ => by
  have h := fields0 1 2 (by decide) (by decide) d a b (encode (.and d a b)) rfl
  rw [decodeFields_major01 _ h.1, major01]
  simp only [h.2.1, h.2.2.1, h.2.2.2.1, h.2.2.2.2]

theorem or (d : BitVec 5) (a : BitVec 5) (b : BitVec 5) : Statement (.or d a b) := fun _ => by
  have h := fields0 1 3 (by decide) (by decide) d a b (encode (.or d a b)) rfl
  rw [decodeFields_major01 _ h.1, major01]
  simp only [h.2.1, h.2.2.1, h.2.2.2.1, h.2.2.2.2]

theorem xor (d : BitVec 5) (a : BitVec 5) (b : BitVec 5) : Statement (.xor d a b) := fun _ => by
  have h := fields0 1 4 (by decide) (by decide) d a b (encode (.xor d a b)) rfl
  rw [decodeFields_major01 _ h.1, major01]
  simp only [h.2.1, h.2.2.1, h.2.2.2.1, h.2.2.2.2]

theorem andn (d : BitVec 5) (a : BitVec 5) (b : BitVec 5) : Statement (.andn d a b) := fun _ => by
  have h := fields0 1 5 (by decide) (by decide) d a b (encode (.andn d a b)) rfl
  rw [decodeFields_major01 _ h.1, major01]
  simp only [h.2.1, h.2.2.1, h.2.2.2.1, h.2.2.2.2]

theorem sll (d : BitVec 5) (a : BitVec 5) (b : BitVec 5) : Statement (.sll d a b) := fun _ => by
  have h := fields0 1 6 (by decide) (by decide) d a b (encode (.sll d a b)) rfl
  rw [decodeFields_major01 _ h.1, major01]
  simp only [h.2.1, h.2.2.1, h.2.2.2.1, h.2.2.2.2]

theorem srl (d : BitVec 5) (a : BitVec 5) (b : BitVec 5) : Statement (.srl d a b) := fun _ => by
  have h := fields0 1 7 (by decide) (by decide) d a b (encode (.srl d a b)) rfl
  rw [decodeFields_major01 _ h.1, major01]
  simp only [h.2.1, h.2.2.1, h.2.2.2.1, h.2.2.2.2]

theorem sra (d : BitVec 5) (a : BitVec 5) (b : BitVec 5) : Statement (.sra d a b) := fun _ => by
  have h := fields0 1 8 (by decide) (by decide) d a b (encode (.sra d a b)) rfl
  rw [decodeFields_major01 _ h.1, major01]
  simp only [h.2.1, h.2.2.1, h.2.2.2.1, h.2.2.2.2]

theorem rol (d : BitVec 5) (a : BitVec 5) (b : BitVec 5) : Statement (.rol d a b) := fun _ => by
  have h := fields0 1 9 (by decide) (by decide) d a b (encode (.rol d a b)) rfl
  rw [decodeFields_major01 _ h.1, major01]
  simp only [h.2.1, h.2.2.1, h.2.2.2.1, h.2.2.2.2]

theorem ror (d : BitVec 5) (a : BitVec 5) (b : BitVec 5) : Statement (.ror d a b) := fun _ => by
  have h := fields0 1 10 (by decide) (by decide) d a b (encode (.ror d a b)) rfl
  rw [decodeFields_major01 _ h.1, major01]
  simp only [h.2.1, h.2.2.1, h.2.2.2.1, h.2.2.2.2]

theorem slt (d : BitVec 5) (a : BitVec 5) (b : BitVec 5) : Statement (.slt d a b) := fun _ => by
  have h := fields0 1 11 (by decide) (by decide) d a b (encode (.slt d a b)) rfl
  rw [decodeFields_major01 _ h.1, major01]
  simp only [h.2.1, h.2.2.1, h.2.2.2.1, h.2.2.2.2]

theorem sltn (d : BitVec 5) (a : BitVec 5) (b : BitVec 5) : Statement (.sltn d a b) := fun _ => by
  have h := fields0 1 12 (by decide) (by decide) d a b (encode (.sltn d a b)) rfl
  rw [decodeFields_major01 _ h.1, major01]
  simp only [h.2.1, h.2.2.1, h.2.2.2.1, h.2.2.2.2]

theorem min (d : BitVec 5) (a : BitVec 5) (b : BitVec 5) : Statement (.min d a b) := fun _ => by
  have h := fields0 1 13 (by decide) (by decide) d a b (encode (.min d a b)) rfl
  rw [decodeFields_major01 _ h.1, major01]
  simp only [h.2.1, h.2.2.1, h.2.2.2.1, h.2.2.2.2]

theorem max (d : BitVec 5) (a : BitVec 5) (b : BitVec 5) : Statement (.max d a b) := fun _ => by
  have h := fields0 1 14 (by decide) (by decide) d a b (encode (.max d a b)) rfl
  rw [decodeFields_major01 _ h.1, major01]
  simp only [h.2.1, h.2.2.1, h.2.2.2.1, h.2.2.2.2]

theorem minn (d : BitVec 5) (a : BitVec 5) (b : BitVec 5) : Statement (.minn d a b) := fun _ => by
  have h := fields0 1 15 (by decide) (by decide) d a b (encode (.minn d a b)) rfl
  rw [decodeFields_major01 _ h.1, major01]
  simp only [h.2.1, h.2.2.1, h.2.2.2.1, h.2.2.2.2]

theorem maxn (d : BitVec 5) (a : BitVec 5) (b : BitVec 5) : Statement (.maxn d a b) := fun _ => by
  have h := fields0 1 16 (by decide) (by decide) d a b (encode (.maxn d a b)) rfl
  rw [decodeFields_major01 _ h.1, major01]
  simp only [h.2.1, h.2.2.1, h.2.2.2.1, h.2.2.2.2]

theorem mul (d : BitVec 5) (a : BitVec 5) (b : BitVec 5) : Statement (.mul d a b) := fun _ => by
  have h := fields0 2 0 (by decide) (by decide) d a b (encode (.mul d a b)) rfl
  rw [decodeFields_major02 _ h.1, major02]
  simp only [h.2.1, h.2.2.1, h.2.2.2.1, h.2.2.2.2]

theorem mulh (d : BitVec 5) (a : BitVec 5) (b : BitVec 5) : Statement (.mulh d a b) := fun _ => by
  have h := fields0 2 1 (by decide) (by decide) d a b (encode (.mulh d a b)) rfl
  rw [decodeFields_major02 _ h.1, major02]
  simp only [h.2.1, h.2.2.1, h.2.2.2.1, h.2.2.2.2]

theorem mulhn (d : BitVec 5) (a : BitVec 5) (b : BitVec 5) : Statement (.mulhn d a b) := fun _ => by
  have h := fields0 2 2 (by decide) (by decide) d a b (encode (.mulhn d a b)) rfl
  rw [decodeFields_major02 _ h.1, major02]
  simp only [h.2.1, h.2.2.1, h.2.2.2.1, h.2.2.2.2]

theorem div (d : BitVec 5) (a : BitVec 5) (b : BitVec 5) : Statement (.div d a b) := fun _ => by
  have h := fields0 2 3 (by decide) (by decide) d a b (encode (.div d a b)) rfl
  rw [decodeFields_major02 _ h.1, major02]
  simp only [h.2.1, h.2.2.1, h.2.2.2.1, h.2.2.2.2]

theorem divn (d : BitVec 5) (a : BitVec 5) (b : BitVec 5) : Statement (.divn d a b) := fun _ => by
  have h := fields0 2 4 (by decide) (by decide) d a b (encode (.divn d a b)) rfl
  rw [decodeFields_major02 _ h.1, major02]
  simp only [h.2.1, h.2.2.1, h.2.2.2.1, h.2.2.2.2]

theorem rem (d : BitVec 5) (a : BitVec 5) (b : BitVec 5) : Statement (.rem d a b) := fun _ => by
  have h := fields0 2 5 (by decide) (by decide) d a b (encode (.rem d a b)) rfl
  rw [decodeFields_major02 _ h.1, major02]
  simp only [h.2.1, h.2.2.1, h.2.2.2.1, h.2.2.2.2]

theorem remn (d : BitVec 5) (a : BitVec 5) (b : BitVec 5) : Statement (.remn d a b) := fun _ => by
  have h := fields0 2 6 (by decide) (by decide) d a b (encode (.remn d a b)) rfl
  rw [decodeFields_major02 _ h.1, major02]
  simp only [h.2.1, h.2.2.1, h.2.2.2.1, h.2.2.2.2]

theorem clz (d : BitVec 5) (a : BitVec 5) : Statement (.clz d a) := fun _ => by
  have h := fields1 2 7 (by decide) (by decide) d a (encode (.clz d a)) rfl
  rw [decodeFields_major02 _ h.1, major02]
  simp only [h.2.1, h.2.2.1, h.2.2.2]

theorem ctz (d : BitVec 5) (a : BitVec 5) : Statement (.ctz d a) := fun _ => by
  have h := fields1 2 8 (by decide) (by decide) d a (encode (.ctz d a)) rfl
  rw [decodeFields_major02 _ h.1, major02]
  simp only [h.2.1, h.2.2.1, h.2.2.2]

theorem popc (d : BitVec 5) (a : BitVec 5) : Statement (.popc d a) := fun _ => by
  have h := fields1 2 9 (by decide) (by decide) d a (encode (.popc d a)) rfl
  rw [decodeFields_major02 _ h.1, major02]
  simp only [h.2.1, h.2.2.1, h.2.2.2]

theorem brev (d : BitVec 5) (a : BitVec 5) : Statement (.brev d a) := fun _ => by
  have h := fields1 2 10 (by decide) (by decide) d a (encode (.brev d a)) rfl
  rw [decodeFields_major02 _ h.1, major02]
  simp only [h.2.1, h.2.2.1, h.2.2.2]

theorem addi (d : BitVec 5) (a : BitVec 5) (i : BitVec 15) : Statement (.addi d a i) := fun _ => by
  have h := fields2 3 (by decide) d a i (encode (.addi d a i)) rfl
  unfold decodeFields
  simp only [h.1, h.2.1, h.2.2.1, h.2.2.2]

theorem andi (d : BitVec 5) (a : BitVec 5) (i : BitVec 15) : Statement (.andi d a i) := fun _ => by
  have h := fields2 4 (by decide) d a i (encode (.andi d a i)) rfl
  unfold decodeFields
  simp only [h.1, h.2.1, h.2.2.1, h.2.2.2]

theorem ori (d : BitVec 5) (a : BitVec 5) (i : BitVec 15) : Statement (.ori d a i) := fun _ => by
  have h := fields2 5 (by decide) d a i (encode (.ori d a i)) rfl
  unfold decodeFields
  simp only [h.1, h.2.1, h.2.2.1, h.2.2.2]

theorem xori (d : BitVec 5) (a : BitVec 5) (i : BitVec 15) : Statement (.xori d a i) := fun _ => by
  have h := fields2 6 (by decide) d a i (encode (.xori d a i)) rfl
  unfold decodeFields
  simp only [h.1, h.2.1, h.2.2.1, h.2.2.2]

theorem slli (d : BitVec 5) (a : BitVec 5) (n : BitVec 6) : Statement (.slli d a n) := fun _ => by
  have h := fields3 7 (by decide) d a n (encode (.slli d a n)) rfl
  unfold decodeFields
  simp only [h.1, h.2.1, h.2.2.1, h.2.2.2]

theorem srli (d : BitVec 5) (a : BitVec 5) (n : BitVec 6) : Statement (.srli d a n) := fun _ => by
  have h := fields3 8 (by decide) d a n (encode (.srli d a n)) rfl
  unfold decodeFields
  simp only [h.1, h.2.1, h.2.2.1, h.2.2.2]

theorem srai (d : BitVec 5) (a : BitVec 5) (n : BitVec 6) : Statement (.srai d a n) := fun _ => by
  have h := fields3 9 (by decide) d a n (encode (.srai d a n)) rfl
  unfold decodeFields
  simp only [h.1, h.2.1, h.2.2.1, h.2.2.2]

theorem slti (d : BitVec 5) (a : BitVec 5) (i : BitVec 15) : Statement (.slti d a i) := fun _ => by
  have h := fields2 10 (by decide) d a i (encode (.slti d a i)) rfl
  unfold decodeFields
  simp only [h.1, h.2.1, h.2.2.1, h.2.2.2]

theorem lui (d : BitVec 5) (i : BitVec 20) : Statement (.lui d i) := fun _ => by
  have h := fields4 11 (by decide) d i (encode (.lui d i)) rfl
  unfold decodeFields
  simp only [h.1, h.2.1, h.2.2]

theorem auipc (d : BitVec 5) (i : BitVec 20) : Statement (.auipc d i) := fun _ => by
  have h := fields4 12 (by decide) d i (encode (.auipc d i)) rfl
  unfold decodeFields
  simp only [h.1, h.2.1, h.2.2]

theorem beq (a : BitVec 5) (b : BitVec 5) (o : BitVec 15) : Statement (.beq a b o) := fun _ => by
  have h := fields2 13 (by decide) a b o (encode (.beq a b o)) rfl
  unfold decodeFields
  simp only [h.1, h.2.1, h.2.2.1, h.2.2.2]

theorem bne (a : BitVec 5) (b : BitVec 5) (o : BitVec 15) : Statement (.bne a b o) := fun _ => by
  have h := fields2 14 (by decide) a b o (encode (.bne a b o)) rfl
  unfold decodeFields
  simp only [h.1, h.2.1, h.2.2.1, h.2.2.2]

theorem blt (a : BitVec 5) (b : BitVec 5) (o : BitVec 15) : Statement (.blt a b o) := fun _ => by
  have h := fields2 15 (by decide) a b o (encode (.blt a b o)) rfl
  unfold decodeFields
  simp only [h.1, h.2.1, h.2.2.1, h.2.2.2]

theorem bge (a : BitVec 5) (b : BitVec 5) (o : BitVec 15) : Statement (.bge a b o) := fun _ => by
  have h := fields2 16 (by decide) a b o (encode (.bge a b o)) rfl
  unfold decodeFields
  simp only [h.1, h.2.1, h.2.2.1, h.2.2.2]

theorem bltn (a : BitVec 5) (b : BitVec 5) (o : BitVec 15) : Statement (.bltn a b o) := fun _ => by
  have h := fields2 17 (by decide) a b o (encode (.bltn a b o)) rfl
  unfold decodeFields
  simp only [h.1, h.2.1, h.2.2.1, h.2.2.2]

theorem bgen (a : BitVec 5) (b : BitVec 5) (o : BitVec 15) : Statement (.bgen a b o) := fun _ => by
  have h := fields2 18 (by decide) a b o (encode (.bgen a b o)) rfl
  unfold decodeFields
  simp only [h.1, h.2.1, h.2.2.1, h.2.2.2]

theorem jal (d : BitVec 5) (o : BitVec 20) : Statement (.jal d o) := fun _ => by
  have h := fields4 19 (by decide) d o (encode (.jal d o)) rfl
  unfold decodeFields
  simp only [h.1, h.2.1, h.2.2]

theorem jalr (d : BitVec 5) (a : BitVec 5) (i : BitVec 15) : Statement (.jalr d a i) := fun _ => by
  have h := fields2 20 (by decide) d a i (encode (.jalr d a i)) rfl
  unfold decodeFields
  simp only [h.1, h.2.1, h.2.2.1, h.2.2.2]

theorem jtab (d : BitVec 5) (a : BitVec 5) (b : BitVec 5) (n : BitVec 10) : Statement (.jtab d a b n) := fun _ => by
  have h := fields5 21 (by decide) d a b n (encode (.jtab d a b n)) rfl
  unfold decodeFields
  simp only [h.1, h.2.1, h.2.2.1, h.2.2.2.1, h.2.2.2.2]

theorem waitc (s : BitVec 5) (c : BitVec 5) (l : BitVec 5) (t : BitVec 5) : Statement (.waitc s c l t) := fun _ => by
  have h := fields6 22 (by decide) l s c t (encode (.waitc s c l t)) rfl
  unfold decodeFields
  simp only [h.1, h.2.1, h.2.2.1, h.2.2.2.1, h.2.2.2.2]

theorem fork (a : BitVec 5) (b : BitVec 5) : Statement (.fork a b) := fun _ => by
  have h := fields7 23 0 (by decide) (by decide) a b (encode (.fork a b)) rfl
  rw [decodeFields_major17 _ h.1, major17]
  simp only [h.2.1, h.2.2.1, h.2.2.2]

theorem rdv : Statement (.rdv) := fun _ => by
  have h := fields8 23 1 (by decide) (by decide) (encode (.rdv)) rfl
  rw [decodeFields_major17 _ h.1, major17]
  simp only [h.2]

theorem rdcyc (d : BitVec 5) : Statement (.rdcyc d) := fun _ => by
  have h := fields9 23 2 (by decide) (by decide) d (encode (.rdcyc d)) rfl
  rw [decodeFields_major17 _ h.1, major17]
  simp only [h.2.1, h.2.2]

theorem loop (a : BitVec 5) (c : BitVec 5) : Statement (.loop a c) := fun _ => by
  have h := fields1 23 3 (by decide) (by decide) c a (encode (.loop a c)) rfl
  rw [decodeFields_major17 _ h.1, major17]
  simp only [h.2.1, h.2.2.1, h.2.2.2]

theorem endloop (c : BitVec 5) : Statement (.endloop c) := fun _ => by
  have h := fields9 23 4 (by decide) (by decide) c (encode (.endloop c)) rfl
  rw [decodeFields_major17 _ h.1, major17]
  simp only [h.2.1, h.2.2]

theorem ld (d : BitVec 5) (b : BitVec 5) (i : BitVec 8) (w : BitVec 3) (h : BitVec 4) : Statement (.ld d b i w h) := fun _ => by
  have h := fields10 24 (by decide) d b h w i (encode (.ld d b i w h)) rfl
  unfold decodeFields
  simp only [h.1, h.2.1, h.2.2.1, h.2.2.2.1, h.2.2.2.2.1, h.2.2.2.2.2]

theorem st (d : BitVec 5) (b : BitVec 5) (i : BitVec 8) (w : BitVec 3) (h : BitVec 4) : Statement (.st d b i w h) := fun _ => by
  have h := fields10 25 (by decide) d b h w i (encode (.st d b i w h)) rfl
  unfold decodeFields
  simp only [h.1, h.2.1, h.2.2.1, h.2.2.2.1, h.2.2.2.2.1, h.2.2.2.2.2]

theorem trap (a : BitVec 5) : Statement (.trap a) := fun _ => by
  have h := fields11 28 0 (by decide) (by decide) a (encode (.trap a)) rfl
  rw [decodeFields_major1C _ h.1, major1C]
  simp only [h.2.1, h.2.2]

theorem eret : Statement (.eret) := fun _ => by
  have h := fields8 28 1 (by decide) (by decide) (encode (.eret)) rfl
  rw [decodeFields_major1C _ h.1, major1C]
  simp only [h.2]

theorem sysc (a : BitVec 5) : Statement (.sysc a) := fun _ => by
  have h := fields11 28 2 (by decide) (by decide) a (encode (.sysc a)) rfl
  rw [decodeFields_major1C _ h.1, major1C]
  simp only [h.2.1, h.2.2]

theorem brk : Statement (.brk) := fun _ => by
  have h := fields8 28 3 (by decide) (by decide) (encode (.brk)) rfl
  rw [decodeFields_major1C _ h.1, major1C]
  simp only [h.2]

theorem wfe (d : BitVec 5) (a : BitVec 5) : Statement (.wfe d a) := fun _ => by
  have h := fields1 28 4 (by decide) (by decide) d a (encode (.wfe d a)) rfl
  rw [decodeFields_major1C _ h.1, major1C]
  simp only [h.2.1, h.2.2.1, h.2.2.2]

theorem halth : Statement (.halth) := fun _ => by
  have h := fields8 28 5 (by decide) (by decide) (encode (.halth)) rfl
  rw [decodeFields_major1C _ h.1, major1C]
  simp only [h.2]

theorem csrr (d : BitVec 5) (c : BitVec 12) : Statement (.csrr d c) := fun _ => by
  have h := fields12 29 0 (by decide) (by decide) d c (encode (.csrr d c)) rfl
  rw [decodeFields_major1D _ h.1, major1D]
  simp only [h.2.1, h.2.2.1, h.2.2.2]

theorem csrw (a : BitVec 5) (c : BitVec 12) : Statement (.csrw a c) := fun _ => by
  have h := fields13 29 1 (by decide) (by decide) a c (encode (.csrw a c)) rfl
  rw [decodeFields_major1D _ h.1, major1D]
  simp only [h.2.1, h.2.2.1, h.2.2.2]

theorem csrset (a : BitVec 5) (c : BitVec 12) : Statement (.csrset a c) := fun _ => by
  have h := fields13 29 2 (by decide) (by decide) a c (encode (.csrset a c)) rfl
  rw [decodeFields_major1D _ h.1, major1D]
  simp only [h.2.1, h.2.2.1, h.2.2.2]

theorem csrclr (a : BitVec 5) (c : BitVec 12) : Statement (.csrclr a c) := fun _ => by
  have h := fields13 29 3 (by decide) (by decide) a c (encode (.csrclr a c)) rfl
  rw [decodeFields_major1D _ h.1, major1D]
  simp only [h.2.1, h.2.2.1, h.2.2.2]

theorem vadd (d : BitVec 5) (a : BitVec 5) (b : BitVec 5) (n : BitVec 2) (m : BitVec 5) (t : BitVec 2) : Statement (.vadd d a b n m t) := fun _ => by
  have h := fields14 32 0 (by decide) (by decide) t d a b m n (encode (.vadd d a b n m t)) rfl
  rw [decodeFields_major20 _ _ t.isLt h.1, major20]
  simp only [h.2.1, h.2.2.1, h.2.2.2.1, h.2.2.2.2.1, h.2.2.2.2.2.1, h.2.2.2.2.2.2.1, h.2.2.2.2.2.2.2]

theorem vsub (d : BitVec 5) (a : BitVec 5) (b : BitVec 5) (n : BitVec 2) (m : BitVec 5) (t : BitVec 2) : Statement (.vsub d a b n m t) := fun _ => by
  have h := fields14 32 1 (by decide) (by decide) t d a b m n (encode (.vsub d a b n m t)) rfl
  rw [decodeFields_major20 _ _ t.isLt h.1, major20]
  simp only [h.2.1, h.2.2.1, h.2.2.2.1, h.2.2.2.2.1, h.2.2.2.2.2.1, h.2.2.2.2.2.2.1, h.2.2.2.2.2.2.2]

theorem vmul (d : BitVec 5) (a : BitVec 5) (b : BitVec 5) (n : BitVec 2) (m : BitVec 5) (t : BitVec 2) : Statement (.vmul d a b n m t) := fun _ => by
  have h := fields14 32 2 (by decide) (by decide) t d a b m n (encode (.vmul d a b n m t)) rfl
  rw [decodeFields_major20 _ _ t.isLt h.1, major20]
  simp only [h.2.1, h.2.2.1, h.2.2.2.1, h.2.2.2.2.1, h.2.2.2.2.2.1, h.2.2.2.2.2.2.1, h.2.2.2.2.2.2.2]

theorem vmulh (d : BitVec 5) (a : BitVec 5) (b : BitVec 5) (n : BitVec 2) (m : BitVec 5) (t : BitVec 2) : Statement (.vmulh d a b n m t) := fun _ => by
  have h := fields14 32 3 (by decide) (by decide) t d a b m n (encode (.vmulh d a b n m t)) rfl
  rw [decodeFields_major20 _ _ t.isLt h.1, major20]
  simp only [h.2.1, h.2.2.1, h.2.2.2.1, h.2.2.2.2.1, h.2.2.2.2.2.1, h.2.2.2.2.2.2.1, h.2.2.2.2.2.2.2]

theorem vmin (d : BitVec 5) (a : BitVec 5) (b : BitVec 5) (n : BitVec 2) (m : BitVec 5) (t : BitVec 2) : Statement (.vmin d a b n m t) := fun _ => by
  have h := fields14 32 4 (by decide) (by decide) t d a b m n (encode (.vmin d a b n m t)) rfl
  rw [decodeFields_major20 _ _ t.isLt h.1, major20]
  simp only [h.2.1, h.2.2.1, h.2.2.2.1, h.2.2.2.2.1, h.2.2.2.2.2.1, h.2.2.2.2.2.2.1, h.2.2.2.2.2.2.2]

theorem vmax (d : BitVec 5) (a : BitVec 5) (b : BitVec 5) (n : BitVec 2) (m : BitVec 5) (t : BitVec 2) : Statement (.vmax d a b n m t) := fun _ => by
  have h := fields14 32 5 (by decide) (by decide) t d a b m n (encode (.vmax d a b n m t)) rfl
  rw [decodeFields_major20 _ _ t.isLt h.1, major20]
  simp only [h.2.1, h.2.2.1, h.2.2.2.1, h.2.2.2.2.1, h.2.2.2.2.2.1, h.2.2.2.2.2.2.1, h.2.2.2.2.2.2.2]

theorem vminn (d : BitVec 5) (a : BitVec 5) (b : BitVec 5) (n : BitVec 2) (m : BitVec 5) (t : BitVec 2) : Statement (.vminn d a b n m t) := fun _ => by
  have h := fields14 32 6 (by decide) (by decide) t d a b m n (encode (.vminn d a b n m t)) rfl
  rw [decodeFields_major20 _ _ t.isLt h.1, major20]
  simp only [h.2.1, h.2.2.1, h.2.2.2.1, h.2.2.2.2.1, h.2.2.2.2.2.1, h.2.2.2.2.2.2.1, h.2.2.2.2.2.2.2]

theorem vmaxn (d : BitVec 5) (a : BitVec 5) (b : BitVec 5) (n : BitVec 2) (m : BitVec 5) (t : BitVec 2) : Statement (.vmaxn d a b n m t) := fun _ => by
  have h := fields14 32 7 (by decide) (by decide) t d a b m n (encode (.vmaxn d a b n m t)) rfl
  rw [decodeFields_major20 _ _ t.isLt h.1, major20]
  simp only [h.2.1, h.2.2.1, h.2.2.2.1, h.2.2.2.2.1, h.2.2.2.2.2.1, h.2.2.2.2.2.2.1, h.2.2.2.2.2.2.2]

theorem vand (d : BitVec 5) (a : BitVec 5) (b : BitVec 5) (n : BitVec 2) (m : BitVec 5) (t : BitVec 2) : Statement (.vand d a b n m t) := fun _ => by
  have h := fields14 36 0 (by decide) (by decide) t d a b m n (encode (.vand d a b n m t)) rfl
  rw [decodeFields_major24 _ _ t.isLt h.1, major24]
  simp only [h.2.1, h.2.2.1, h.2.2.2.1, h.2.2.2.2.1, h.2.2.2.2.2.1, h.2.2.2.2.2.2.1, h.2.2.2.2.2.2.2]

theorem vor (d : BitVec 5) (a : BitVec 5) (b : BitVec 5) (n : BitVec 2) (m : BitVec 5) (t : BitVec 2) : Statement (.vor d a b n m t) := fun _ => by
  have h := fields14 36 1 (by decide) (by decide) t d a b m n (encode (.vor d a b n m t)) rfl
  rw [decodeFields_major24 _ _ t.isLt h.1, major24]
  simp only [h.2.1, h.2.2.1, h.2.2.2.1, h.2.2.2.2.1, h.2.2.2.2.2.1, h.2.2.2.2.2.2.1, h.2.2.2.2.2.2.2]

theorem vxor (d : BitVec 5) (a : BitVec 5) (b : BitVec 5) (n : BitVec 2) (m : BitVec 5) (t : BitVec 2) : Statement (.vxor d a b n m t) := fun _ => by
  have h := fields14 36 2 (by decide) (by decide) t d a b m n (encode (.vxor d a b n m t)) rfl
  rw [decodeFields_major24 _ _ t.isLt h.1, major24]
  simp only [h.2.1, h.2.2.1, h.2.2.2.1, h.2.2.2.2.1, h.2.2.2.2.2.1, h.2.2.2.2.2.2.1, h.2.2.2.2.2.2.2]

theorem vsll (d : BitVec 5) (a : BitVec 5) (b : BitVec 5) (n : BitVec 2) (m : BitVec 5) (t : BitVec 2) : Statement (.vsll d a b n m t) := fun _ => by
  have h := fields14 36 3 (by decide) (by decide) t d a b m n (encode (.vsll d a b n m t)) rfl
  rw [decodeFields_major24 _ _ t.isLt h.1, major24]
  simp only [h.2.1, h.2.2.1, h.2.2.2.1, h.2.2.2.2.1, h.2.2.2.2.2.1, h.2.2.2.2.2.2.1, h.2.2.2.2.2.2.2]

theorem vsrl (d : BitVec 5) (a : BitVec 5) (b : BitVec 5) (n : BitVec 2) (m : BitVec 5) (t : BitVec 2) : Statement (.vsrl d a b n m t) := fun _ => by
  have h := fields14 36 4 (by decide) (by decide) t d a b m n (encode (.vsrl d a b n m t)) rfl
  rw [decodeFields_major24 _ _ t.isLt h.1, major24]
  simp only [h.2.1, h.2.2.1, h.2.2.2.1, h.2.2.2.2.1, h.2.2.2.2.2.1, h.2.2.2.2.2.2.1, h.2.2.2.2.2.2.2]

theorem vsra (d : BitVec 5) (a : BitVec 5) (b : BitVec 5) (n : BitVec 2) (m : BitVec 5) (t : BitVec 2) : Statement (.vsra d a b n m t) := fun _ => by
  have h := fields14 36 5 (by decide) (by decide) t d a b m n (encode (.vsra d a b n m t)) rfl
  rw [decodeFields_major24 _ _ t.isLt h.1, major24]
  simp only [h.2.1, h.2.2.1, h.2.2.2.1, h.2.2.2.2.1, h.2.2.2.2.2.1, h.2.2.2.2.2.2.1, h.2.2.2.2.2.2.2]

theorem vadds (d : BitVec 5) (a : BitVec 5) (b : BitVec 5) (n : BitVec 2) (m : BitVec 5) (t : BitVec 2) : Statement (.vadds d a b n m t) := fun _ => by
  have h := fields14 36 6 (by decide) (by decide) t d a b m n (encode (.vadds d a b n m t)) rfl
  rw [decodeFields_major24 _ _ t.isLt h.1, major24]
  simp only [h.2.1, h.2.2.1, h.2.2.2.1, h.2.2.2.2.1, h.2.2.2.2.2.1, h.2.2.2.2.2.2.1, h.2.2.2.2.2.2.2]

theorem vsubs (d : BitVec 5) (a : BitVec 5) (b : BitVec 5) (n : BitVec 2) (m : BitVec 5) (t : BitVec 2) : Statement (.vsubs d a b n m t) := fun _ => by
  have h := fields14 36 7 (by decide) (by decide) t d a b m n (encode (.vsubs d a b n m t)) rfl
  rw [decodeFields_major24 _ _ t.isLt h.1, major24]
  simp only [h.2.1, h.2.2.1, h.2.2.2.1, h.2.2.2.2.1, h.2.2.2.2.2.1, h.2.2.2.2.2.2.1, h.2.2.2.2.2.2.2]

theorem vwaddI8 (d : BitVec 5) (a : BitVec 5) (b : BitVec 5) (n : BitVec 2) (m : BitVec 5) : Statement (.vwaddI8 d a b n m) := fun _ => by
  have h := fields15 40 0 (by decide) (by decide) d a b m n (encode (.vwaddI8 d a b n m)) rfl
  rw [decodeFields_major28 _ h.1, major28]
  simp only [h.2.1, h.2.2.1, h.2.2.2.1, h.2.2.2.2.1, h.2.2.2.2.2.1, h.2.2.2.2.2.2]

theorem vwaddI16 (d : BitVec 5) (a : BitVec 5) (b : BitVec 5) (n : BitVec 2) (m : BitVec 5) : Statement (.vwaddI16 d a b n m) := fun _ => by
  have h := fields15 40 1 (by decide) (by decide) d a b m n (encode (.vwaddI16 d a b n m)) rfl
  rw [decodeFields_major28 _ h.1, major28]
  simp only [h.2.1, h.2.2.1, h.2.2.2.1, h.2.2.2.2.1, h.2.2.2.2.2.1, h.2.2.2.2.2.2]

theorem vwaddI32 (d : BitVec 5) (a : BitVec 5) (b : BitVec 5) (n : BitVec 2) (m : BitVec 5) : Statement (.vwaddI32 d a b n m) := fun _ => by
  have h := fields15 40 2 (by decide) (by decide) d a b m n (encode (.vwaddI32 d a b n m)) rfl
  rw [decodeFields_major28 _ h.1, major28]
  simp only [h.2.1, h.2.2.1, h.2.2.2.1, h.2.2.2.2.1, h.2.2.2.2.2.1, h.2.2.2.2.2.2]

theorem vwaddN8 (d : BitVec 5) (a : BitVec 5) (b : BitVec 5) (n : BitVec 2) (m : BitVec 5) : Statement (.vwaddN8 d a b n m) := fun _ => by
  have h := fields15 40 3 (by decide) (by decide) d a b m n (encode (.vwaddN8 d a b n m)) rfl
  rw [decodeFields_major28 _ h.1, major28]
  simp only [h.2.1, h.2.2.1, h.2.2.2.1, h.2.2.2.2.1, h.2.2.2.2.2.1, h.2.2.2.2.2.2]

theorem vwaddN16 (d : BitVec 5) (a : BitVec 5) (b : BitVec 5) (n : BitVec 2) (m : BitVec 5) : Statement (.vwaddN16 d a b n m) := fun _ => by
  have h := fields15 40 4 (by decide) (by decide) d a b m n (encode (.vwaddN16 d a b n m)) rfl
  rw [decodeFields_major28 _ h.1, major28]
  simp only [h.2.1, h.2.2.1, h.2.2.2.1, h.2.2.2.2.1, h.2.2.2.2.2.1, h.2.2.2.2.2.2]

theorem vwaddN32 (d : BitVec 5) (a : BitVec 5) (b : BitVec 5) (n : BitVec 2) (m : BitVec 5) : Statement (.vwaddN32 d a b n m) := fun _ => by
  have h := fields15 40 5 (by decide) (by decide) d a b m n (encode (.vwaddN32 d a b n m)) rfl
  rw [decodeFields_major28 _ h.1, major28]
  simp only [h.2.1, h.2.2.1, h.2.2.2.1, h.2.2.2.2.1, h.2.2.2.2.2.1, h.2.2.2.2.2.2]

theorem vwmacI8 (d : BitVec 5) (a : BitVec 5) (b : BitVec 5) (n : BitVec 2) (m : BitVec 5) : Statement (.vwmacI8 d a b n m) := fun _ => by
  have h := fields15 40 6 (by decide) (by decide) d a b m n (encode (.vwmacI8 d a b n m)) rfl
  rw [decodeFields_major28 _ h.1, major28]
  simp only [h.2.1, h.2.2.1, h.2.2.2.1, h.2.2.2.2.1, h.2.2.2.2.2.1, h.2.2.2.2.2.2]

theorem vwmacI16 (d : BitVec 5) (a : BitVec 5) (b : BitVec 5) (n : BitVec 2) (m : BitVec 5) : Statement (.vwmacI16 d a b n m) := fun _ => by
  have h := fields15 40 7 (by decide) (by decide) d a b m n (encode (.vwmacI16 d a b n m)) rfl
  rw [decodeFields_major28 _ h.1, major28]
  simp only [h.2.1, h.2.2.1, h.2.2.2.1, h.2.2.2.2.1, h.2.2.2.2.2.1, h.2.2.2.2.2.2]

theorem vfaddF64 (d : BitVec 5) (a : BitVec 5) (b : BitVec 5) (n : BitVec 2) (m : BitVec 5) : Statement (.vfaddF64 d a b n m) := fun _ => by
  have h := fields15 41 0 (by decide) (by decide) d a b m n (encode (.vfaddF64 d a b n m)) rfl
  rw [decodeFields_major29 _ h.1, major29]
  simp only [h.2.1, h.2.2.1, h.2.2.2.1, h.2.2.2.2.1, h.2.2.2.2.2.1, h.2.2.2.2.2.2]

theorem vfsubF64 (d : BitVec 5) (a : BitVec 5) (b : BitVec 5) (n : BitVec 2) (m : BitVec 5) : Statement (.vfsubF64 d a b n m) := fun _ => by
  have h := fields15 41 1 (by decide) (by decide) d a b m n (encode (.vfsubF64 d a b n m)) rfl
  rw [decodeFields_major29 _ h.1, major29]
  simp only [h.2.1, h.2.2.1, h.2.2.2.1, h.2.2.2.2.1, h.2.2.2.2.2.1, h.2.2.2.2.2.2]

theorem vfmulF64 (d : BitVec 5) (a : BitVec 5) (b : BitVec 5) (n : BitVec 2) (m : BitVec 5) : Statement (.vfmulF64 d a b n m) := fun _ => by
  have h := fields15 41 2 (by decide) (by decide) d a b m n (encode (.vfmulF64 d a b n m)) rfl
  rw [decodeFields_major29 _ h.1, major29]
  simp only [h.2.1, h.2.2.1, h.2.2.2.1, h.2.2.2.2.1, h.2.2.2.2.2.1, h.2.2.2.2.2.2]

theorem vfmaF64 (d : BitVec 5) (a : BitVec 5) (b : BitVec 5) (n : BitVec 2) (m : BitVec 5) : Statement (.vfmaF64 d a b n m) := fun _ => by
  have h := fields15 41 3 (by decide) (by decide) d a b m n (encode (.vfmaF64 d a b n m)) rfl
  rw [decodeFields_major29 _ h.1, major29]
  simp only [h.2.1, h.2.2.1, h.2.2.2.1, h.2.2.2.2.1, h.2.2.2.2.2.1, h.2.2.2.2.2.2]

theorem vfminF64 (d : BitVec 5) (a : BitVec 5) (b : BitVec 5) (n : BitVec 2) (m : BitVec 5) : Statement (.vfminF64 d a b n m) := fun _ => by
  have h := fields15 41 4 (by decide) (by decide) d a b m n (encode (.vfminF64 d a b n m)) rfl
  rw [decodeFields_major29 _ h.1, major29]
  simp only [h.2.1, h.2.2.1, h.2.2.2.1, h.2.2.2.2.1, h.2.2.2.2.2.1, h.2.2.2.2.2.2]

theorem vfmaxF64 (d : BitVec 5) (a : BitVec 5) (b : BitVec 5) (n : BitVec 2) (m : BitVec 5) : Statement (.vfmaxF64 d a b n m) := fun _ => by
  have h := fields15 41 5 (by decide) (by decide) d a b m n (encode (.vfmaxF64 d a b n m)) rfl
  rw [decodeFields_major29 _ h.1, major29]
  simp only [h.2.1, h.2.2.1, h.2.2.2.1, h.2.2.2.2.1, h.2.2.2.2.2.1, h.2.2.2.2.2.2]

theorem vfdivF64 (d : BitVec 5) (a : BitVec 5) (b : BitVec 5) (n : BitVec 2) (m : BitVec 5) : Statement (.vfdivF64 d a b n m) := fun _ => by
  have h := fields15 41 6 (by decide) (by decide) d a b m n (encode (.vfdivF64 d a b n m)) rfl
  rw [decodeFields_major29 _ h.1, major29]
  simp only [h.2.1, h.2.2.1, h.2.2.2.1, h.2.2.2.2.1, h.2.2.2.2.2.1, h.2.2.2.2.2.2]

theorem vfsqrtF64 (d : BitVec 5) (a : BitVec 5) (m : BitVec 5) : Statement (.vfsqrtF64 d a m) := fun _ => by
  have h := fields16 41 7 (by decide) (by decide) d a m (encode (.vfsqrtF64 d a m)) rfl
  rw [decodeFields_major29 _ h.1, major29]
  simp only [h.2.1, h.2.2.1, h.2.2.2.1, h.2.2.2.2]

theorem vfaddF32 (d : BitVec 5) (a : BitVec 5) (b : BitVec 5) (n : BitVec 2) (m : BitVec 5) : Statement (.vfaddF32 d a b n m) := fun _ => by
  have h := fields15 42 0 (by decide) (by decide) d a b m n (encode (.vfaddF32 d a b n m)) rfl
  rw [decodeFields_major2A _ h.1, major2A]
  simp only [h.2.1, h.2.2.1, h.2.2.2.1, h.2.2.2.2.1, h.2.2.2.2.2.1, h.2.2.2.2.2.2]

theorem vfsubF32 (d : BitVec 5) (a : BitVec 5) (b : BitVec 5) (n : BitVec 2) (m : BitVec 5) : Statement (.vfsubF32 d a b n m) := fun _ => by
  have h := fields15 42 1 (by decide) (by decide) d a b m n (encode (.vfsubF32 d a b n m)) rfl
  rw [decodeFields_major2A _ h.1, major2A]
  simp only [h.2.1, h.2.2.1, h.2.2.2.1, h.2.2.2.2.1, h.2.2.2.2.2.1, h.2.2.2.2.2.2]

theorem vfmulF32 (d : BitVec 5) (a : BitVec 5) (b : BitVec 5) (n : BitVec 2) (m : BitVec 5) : Statement (.vfmulF32 d a b n m) := fun _ => by
  have h := fields15 42 2 (by decide) (by decide) d a b m n (encode (.vfmulF32 d a b n m)) rfl
  rw [decodeFields_major2A _ h.1, major2A]
  simp only [h.2.1, h.2.2.1, h.2.2.2.1, h.2.2.2.2.1, h.2.2.2.2.2.1, h.2.2.2.2.2.2]

theorem vfmaF32 (d : BitVec 5) (a : BitVec 5) (b : BitVec 5) (n : BitVec 2) (m : BitVec 5) : Statement (.vfmaF32 d a b n m) := fun _ => by
  have h := fields15 42 3 (by decide) (by decide) d a b m n (encode (.vfmaF32 d a b n m)) rfl
  rw [decodeFields_major2A _ h.1, major2A]
  simp only [h.2.1, h.2.2.1, h.2.2.2.1, h.2.2.2.2.1, h.2.2.2.2.2.1, h.2.2.2.2.2.2]

theorem vfminF32 (d : BitVec 5) (a : BitVec 5) (b : BitVec 5) (n : BitVec 2) (m : BitVec 5) : Statement (.vfminF32 d a b n m) := fun _ => by
  have h := fields15 42 4 (by decide) (by decide) d a b m n (encode (.vfminF32 d a b n m)) rfl
  rw [decodeFields_major2A _ h.1, major2A]
  simp only [h.2.1, h.2.2.1, h.2.2.2.1, h.2.2.2.2.1, h.2.2.2.2.2.1, h.2.2.2.2.2.2]

theorem vfmaxF32 (d : BitVec 5) (a : BitVec 5) (b : BitVec 5) (n : BitVec 2) (m : BitVec 5) : Statement (.vfmaxF32 d a b n m) := fun _ => by
  have h := fields15 42 5 (by decide) (by decide) d a b m n (encode (.vfmaxF32 d a b n m)) rfl
  rw [decodeFields_major2A _ h.1, major2A]
  simp only [h.2.1, h.2.2.1, h.2.2.2.1, h.2.2.2.2.1, h.2.2.2.2.2.1, h.2.2.2.2.2.2]

theorem vfdivF32 (d : BitVec 5) (a : BitVec 5) (b : BitVec 5) (n : BitVec 2) (m : BitVec 5) : Statement (.vfdivF32 d a b n m) := fun _ => by
  have h := fields15 42 6 (by decide) (by decide) d a b m n (encode (.vfdivF32 d a b n m)) rfl
  rw [decodeFields_major2A _ h.1, major2A]
  simp only [h.2.1, h.2.2.1, h.2.2.2.1, h.2.2.2.2.1, h.2.2.2.2.2.1, h.2.2.2.2.2.2]

theorem vfsqrtF32 (d : BitVec 5) (a : BitVec 5) (m : BitVec 5) : Statement (.vfsqrtF32 d a m) := fun _ => by
  have h := fields16 42 7 (by decide) (by decide) d a m (encode (.vfsqrtF32 d a m)) rfl
  rw [decodeFields_major2A _ h.1, major2A]
  simp only [h.2.1, h.2.2.1, h.2.2.2.1, h.2.2.2.2]

theorem vfaddBf16 (d : BitVec 5) (a : BitVec 5) (b : BitVec 5) (n : BitVec 2) (m : BitVec 5) : Statement (.vfaddBf16 d a b n m) := fun _ => by
  have h := fields15 43 0 (by decide) (by decide) d a b m n (encode (.vfaddBf16 d a b n m)) rfl
  rw [decodeFields_major2B _ h.1, major2B]
  simp only [h.2.1, h.2.2.1, h.2.2.2.1, h.2.2.2.2.1, h.2.2.2.2.2.1, h.2.2.2.2.2.2]

theorem vfsubBf16 (d : BitVec 5) (a : BitVec 5) (b : BitVec 5) (n : BitVec 2) (m : BitVec 5) : Statement (.vfsubBf16 d a b n m) := fun _ => by
  have h := fields15 43 1 (by decide) (by decide) d a b m n (encode (.vfsubBf16 d a b n m)) rfl
  rw [decodeFields_major2B _ h.1, major2B]
  simp only [h.2.1, h.2.2.1, h.2.2.2.1, h.2.2.2.2.1, h.2.2.2.2.2.1, h.2.2.2.2.2.2]

theorem vfmulBf16 (d : BitVec 5) (a : BitVec 5) (b : BitVec 5) (n : BitVec 2) (m : BitVec 5) : Statement (.vfmulBf16 d a b n m) := fun _ => by
  have h := fields15 43 2 (by decide) (by decide) d a b m n (encode (.vfmulBf16 d a b n m)) rfl
  rw [decodeFields_major2B _ h.1, major2B]
  simp only [h.2.1, h.2.2.1, h.2.2.2.1, h.2.2.2.2.1, h.2.2.2.2.2.1, h.2.2.2.2.2.2]

theorem vfmaBf16 (d : BitVec 5) (a : BitVec 5) (b : BitVec 5) (n : BitVec 2) (m : BitVec 5) : Statement (.vfmaBf16 d a b n m) := fun _ => by
  have h := fields15 43 3 (by decide) (by decide) d a b m n (encode (.vfmaBf16 d a b n m)) rfl
  rw [decodeFields_major2B _ h.1, major2B]
  simp only [h.2.1, h.2.2.1, h.2.2.2.1, h.2.2.2.2.1, h.2.2.2.2.2.1, h.2.2.2.2.2.2]

theorem vfminBf16 (d : BitVec 5) (a : BitVec 5) (b : BitVec 5) (n : BitVec 2) (m : BitVec 5) : Statement (.vfminBf16 d a b n m) := fun _ => by
  have h := fields15 43 4 (by decide) (by decide) d a b m n (encode (.vfminBf16 d a b n m)) rfl
  rw [decodeFields_major2B _ h.1, major2B]
  simp only [h.2.1, h.2.2.1, h.2.2.2.1, h.2.2.2.2.1, h.2.2.2.2.2.1, h.2.2.2.2.2.2]

theorem vfmaxBf16 (d : BitVec 5) (a : BitVec 5) (b : BitVec 5) (n : BitVec 2) (m : BitVec 5) : Statement (.vfmaxBf16 d a b n m) := fun _ => by
  have h := fields15 43 5 (by decide) (by decide) d a b m n (encode (.vfmaxBf16 d a b n m)) rfl
  rw [decodeFields_major2B _ h.1, major2B]
  simp only [h.2.1, h.2.2.1, h.2.2.2.1, h.2.2.2.2.1, h.2.2.2.2.2.1, h.2.2.2.2.2.2]

theorem vfdivBf16 (d : BitVec 5) (a : BitVec 5) (b : BitVec 5) (n : BitVec 2) (m : BitVec 5) : Statement (.vfdivBf16 d a b n m) := fun _ => by
  have h := fields15 43 6 (by decide) (by decide) d a b m n (encode (.vfdivBf16 d a b n m)) rfl
  rw [decodeFields_major2B _ h.1, major2B]
  simp only [h.2.1, h.2.2.1, h.2.2.2.1, h.2.2.2.2.1, h.2.2.2.2.2.1, h.2.2.2.2.2.2]

theorem vfsqrtBf16 (d : BitVec 5) (a : BitVec 5) (m : BitVec 5) : Statement (.vfsqrtBf16 d a m) := fun _ => by
  have h := fields16 43 7 (by decide) (by decide) d a m (encode (.vfsqrtBf16 d a m)) rfl
  rw [decodeFields_major2B _ h.1, major2B]
  simp only [h.2.1, h.2.2.1, h.2.2.2.1, h.2.2.2.2]

theorem vfaddF16 (d : BitVec 5) (a : BitVec 5) (b : BitVec 5) (n : BitVec 2) (m : BitVec 5) : Statement (.vfaddF16 d a b n m) := fun _ => by
  have h := fields15 44 0 (by decide) (by decide) d a b m n (encode (.vfaddF16 d a b n m)) rfl
  rw [decodeFields_major2C _ h.1, major2C]
  simp only [h.2.1, h.2.2.1, h.2.2.2.1, h.2.2.2.2.1, h.2.2.2.2.2.1, h.2.2.2.2.2.2]

theorem vfsubF16 (d : BitVec 5) (a : BitVec 5) (b : BitVec 5) (n : BitVec 2) (m : BitVec 5) : Statement (.vfsubF16 d a b n m) := fun _ => by
  have h := fields15 44 1 (by decide) (by decide) d a b m n (encode (.vfsubF16 d a b n m)) rfl
  rw [decodeFields_major2C _ h.1, major2C]
  simp only [h.2.1, h.2.2.1, h.2.2.2.1, h.2.2.2.2.1, h.2.2.2.2.2.1, h.2.2.2.2.2.2]

theorem vfmulF16 (d : BitVec 5) (a : BitVec 5) (b : BitVec 5) (n : BitVec 2) (m : BitVec 5) : Statement (.vfmulF16 d a b n m) := fun _ => by
  have h := fields15 44 2 (by decide) (by decide) d a b m n (encode (.vfmulF16 d a b n m)) rfl
  rw [decodeFields_major2C _ h.1, major2C]
  simp only [h.2.1, h.2.2.1, h.2.2.2.1, h.2.2.2.2.1, h.2.2.2.2.2.1, h.2.2.2.2.2.2]

theorem vfmaF16 (d : BitVec 5) (a : BitVec 5) (b : BitVec 5) (n : BitVec 2) (m : BitVec 5) : Statement (.vfmaF16 d a b n m) := fun _ => by
  have h := fields15 44 3 (by decide) (by decide) d a b m n (encode (.vfmaF16 d a b n m)) rfl
  rw [decodeFields_major2C _ h.1, major2C]
  simp only [h.2.1, h.2.2.1, h.2.2.2.1, h.2.2.2.2.1, h.2.2.2.2.2.1, h.2.2.2.2.2.2]

theorem vfminF16 (d : BitVec 5) (a : BitVec 5) (b : BitVec 5) (n : BitVec 2) (m : BitVec 5) : Statement (.vfminF16 d a b n m) := fun _ => by
  have h := fields15 44 4 (by decide) (by decide) d a b m n (encode (.vfminF16 d a b n m)) rfl
  rw [decodeFields_major2C _ h.1, major2C]
  simp only [h.2.1, h.2.2.1, h.2.2.2.1, h.2.2.2.2.1, h.2.2.2.2.2.1, h.2.2.2.2.2.2]

theorem vfmaxF16 (d : BitVec 5) (a : BitVec 5) (b : BitVec 5) (n : BitVec 2) (m : BitVec 5) : Statement (.vfmaxF16 d a b n m) := fun _ => by
  have h := fields15 44 5 (by decide) (by decide) d a b m n (encode (.vfmaxF16 d a b n m)) rfl
  rw [decodeFields_major2C _ h.1, major2C]
  simp only [h.2.1, h.2.2.1, h.2.2.2.1, h.2.2.2.2.1, h.2.2.2.2.2.1, h.2.2.2.2.2.2]

theorem vfdivF16 (d : BitVec 5) (a : BitVec 5) (b : BitVec 5) (n : BitVec 2) (m : BitVec 5) : Statement (.vfdivF16 d a b n m) := fun _ => by
  have h := fields15 44 6 (by decide) (by decide) d a b m n (encode (.vfdivF16 d a b n m)) rfl
  rw [decodeFields_major2C _ h.1, major2C]
  simp only [h.2.1, h.2.2.1, h.2.2.2.1, h.2.2.2.2.1, h.2.2.2.2.2.1, h.2.2.2.2.2.2]

theorem vfsqrtF16 (d : BitVec 5) (a : BitVec 5) (m : BitVec 5) : Statement (.vfsqrtF16 d a m) := fun _ => by
  have h := fields16 44 7 (by decide) (by decide) d a m (encode (.vfsqrtF16 d a m)) rfl
  rw [decodeFields_major2C _ h.1, major2C]
  simp only [h.2.1, h.2.2.1, h.2.2.2.1, h.2.2.2.2]

theorem vfrecip (d : BitVec 5) (a : BitVec 5) (m : BitVec 5) : Statement (.vfrecip d a m) := fun _ => by
  have h := fields16 45 0 (by decide) (by decide) d a m (encode (.vfrecip d a m)) rfl
  rw [decodeFields_major2D _ h.1, major2D]
  simp only [h.2.1, h.2.2.1, h.2.2.2.1, h.2.2.2.2]

theorem vfrsqrt (d : BitVec 5) (a : BitVec 5) (m : BitVec 5) : Statement (.vfrsqrt d a m) := fun _ => by
  have h := fields16 45 1 (by decide) (by decide) d a m (encode (.vfrsqrt d a m)) rfl
  rw [decodeFields_major2D _ h.1, major2D]
  simp only [h.2.1, h.2.2.1, h.2.2.2.1, h.2.2.2.2]

theorem vfexp2 (d : BitVec 5) (a : BitVec 5) (m : BitVec 5) : Statement (.vfexp2 d a m) := fun _ => by
  have h := fields16 45 2 (by decide) (by decide) d a m (encode (.vfexp2 d a m)) rfl
  rw [decodeFields_major2D _ h.1, major2D]
  simp only [h.2.1, h.2.2.1, h.2.2.2.1, h.2.2.2.2]

theorem vflog2 (d : BitVec 5) (a : BitVec 5) (m : BitVec 5) : Statement (.vflog2 d a m) := fun _ => by
  have h := fields16 45 3 (by decide) (by decide) d a m (encode (.vflog2 d a m)) rfl
  rw [decodeFields_major2D _ h.1, major2D]
  simp only [h.2.1, h.2.2.1, h.2.2.2.1, h.2.2.2.2]

theorem vfabs (d : BitVec 5) (a : BitVec 5) (m : BitVec 5) : Statement (.vfabs d a m) := fun _ => by
  have h := fields16 45 4 (by decide) (by decide) d a m (encode (.vfabs d a m)) rfl
  rw [decodeFields_major2D _ h.1, major2D]
  simp only [h.2.1, h.2.2.1, h.2.2.2.1, h.2.2.2.2]

theorem vfneg (d : BitVec 5) (a : BitVec 5) (m : BitVec 5) : Statement (.vfneg d a m) := fun _ => by
  have h := fields16 45 5 (by decide) (by decide) d a m (encode (.vfneg d a m)) rfl
  rw [decodeFields_major2D _ h.1, major2D]
  simp only [h.2.1, h.2.2.1, h.2.2.2.1, h.2.2.2.2]

theorem vfclass (d : BitVec 5) (a : BitVec 5) (m : BitVec 5) : Statement (.vfclass d a m) := fun _ => by
  have h := fields16 45 6 (by decide) (by decide) d a m (encode (.vfclass d a m)) rfl
  rw [decodeFields_major2D _ h.1, major2D]
  simp only [h.2.1, h.2.2.1, h.2.2.2.1, h.2.2.2.2]

theorem vfsgnj (d : BitVec 5) (a : BitVec 5) (b : BitVec 5) (n : BitVec 2) (m : BitVec 5) : Statement (.vfsgnj d a b n m) := fun _ => by
  have h := fields15 45 7 (by decide) (by decide) d a b m n (encode (.vfsgnj d a b n m)) rfl
  rw [decodeFields_major2D _ h.1, major2D]
  simp only [h.2.1, h.2.2.1, h.2.2.2.1, h.2.2.2.2.1, h.2.2.2.2.2.1, h.2.2.2.2.2.2]

theorem vcmpeqI8 (d : BitVec 5) (a : BitVec 5) (b : BitVec 5) (n : BitVec 2) (m : BitVec 5) : Statement (.vcmpeqI8 d a b n m) := fun _ => by
  have h := fields15 46 0 (by decide) (by decide) d a b m n (encode (.vcmpeqI8 d a b n m)) rfl
  rw [decodeFields_major2E _ h.1, major2E]
  simp only [h.2.1, h.2.2.1, h.2.2.2.1, h.2.2.2.2.1, h.2.2.2.2.2.1, h.2.2.2.2.2.2]

theorem vcmpneI8 (d : BitVec 5) (a : BitVec 5) (b : BitVec 5) (n : BitVec 2) (m : BitVec 5) : Statement (.vcmpneI8 d a b n m) := fun _ => by
  have h := fields15 46 1 (by decide) (by decide) d a b m n (encode (.vcmpneI8 d a b n m)) rfl
  rw [decodeFields_major2E _ h.1, major2E]
  simp only [h.2.1, h.2.2.1, h.2.2.2.1, h.2.2.2.2.1, h.2.2.2.2.2.1, h.2.2.2.2.2.2]

theorem vcmpltI8 (d : BitVec 5) (a : BitVec 5) (b : BitVec 5) (n : BitVec 2) (m : BitVec 5) : Statement (.vcmpltI8 d a b n m) := fun _ => by
  have h := fields15 46 2 (by decide) (by decide) d a b m n (encode (.vcmpltI8 d a b n m)) rfl
  rw [decodeFields_major2E _ h.1, major2E]
  simp only [h.2.1, h.2.2.1, h.2.2.2.1, h.2.2.2.2.1, h.2.2.2.2.2.1, h.2.2.2.2.2.2]

theorem vcmpleI8 (d : BitVec 5) (a : BitVec 5) (b : BitVec 5) (n : BitVec 2) (m : BitVec 5) : Statement (.vcmpleI8 d a b n m) := fun _ => by
  have h := fields15 46 3 (by decide) (by decide) d a b m n (encode (.vcmpleI8 d a b n m)) rfl
  rw [decodeFields_major2E _ h.1, major2E]
  simp only [h.2.1, h.2.2.1, h.2.2.2.1, h.2.2.2.2.1, h.2.2.2.2.2.1, h.2.2.2.2.2.2]

theorem vcmpltnI8 (d : BitVec 5) (a : BitVec 5) (b : BitVec 5) (n : BitVec 2) (m : BitVec 5) : Statement (.vcmpltnI8 d a b n m) := fun _ => by
  have h := fields15 46 4 (by decide) (by decide) d a b m n (encode (.vcmpltnI8 d a b n m)) rfl
  rw [decodeFields_major2E _ h.1, major2E]
  simp only [h.2.1, h.2.2.1, h.2.2.2.1, h.2.2.2.2.1, h.2.2.2.2.2.1, h.2.2.2.2.2.2]

theorem vcmplenI8 (d : BitVec 5) (a : BitVec 5) (b : BitVec 5) (n : BitVec 2) (m : BitVec 5) : Statement (.vcmplenI8 d a b n m) := fun _ => by
  have h := fields15 46 5 (by decide) (by decide) d a b m n (encode (.vcmplenI8 d a b n m)) rfl
  rw [decodeFields_major2E _ h.1, major2E]
  simp only [h.2.1, h.2.2.1, h.2.2.2.1, h.2.2.2.2.1, h.2.2.2.2.2.1, h.2.2.2.2.2.2]

theorem vboundI8 (d : BitVec 5) (b : BitVec 5) (m : BitVec 5) : Statement (.vboundI8 d b m) := fun _ => by
  have h := fields17 46 6 (by decide) (by decide) d b m (encode (.vboundI8 d b m)) rfl
  rw [decodeFields_major2E _ h.1, major2E]
  simp only [h.2.1, h.2.2.1, h.2.2.2.1, h.2.2.2.2]

theorem vcmpeqI16 (d : BitVec 5) (a : BitVec 5) (b : BitVec 5) (n : BitVec 2) (m : BitVec 5) : Statement (.vcmpeqI16 d a b n m) := fun _ => by
  have h := fields15 47 0 (by decide) (by decide) d a b m n (encode (.vcmpeqI16 d a b n m)) rfl
  rw [decodeFields_major2F _ h.1, major2F]
  simp only [h.2.1, h.2.2.1, h.2.2.2.1, h.2.2.2.2.1, h.2.2.2.2.2.1, h.2.2.2.2.2.2]

theorem vcmpneI16 (d : BitVec 5) (a : BitVec 5) (b : BitVec 5) (n : BitVec 2) (m : BitVec 5) : Statement (.vcmpneI16 d a b n m) := fun _ => by
  have h := fields15 47 1 (by decide) (by decide) d a b m n (encode (.vcmpneI16 d a b n m)) rfl
  rw [decodeFields_major2F _ h.1, major2F]
  simp only [h.2.1, h.2.2.1, h.2.2.2.1, h.2.2.2.2.1, h.2.2.2.2.2.1, h.2.2.2.2.2.2]

theorem vcmpltI16 (d : BitVec 5) (a : BitVec 5) (b : BitVec 5) (n : BitVec 2) (m : BitVec 5) : Statement (.vcmpltI16 d a b n m) := fun _ => by
  have h := fields15 47 2 (by decide) (by decide) d a b m n (encode (.vcmpltI16 d a b n m)) rfl
  rw [decodeFields_major2F _ h.1, major2F]
  simp only [h.2.1, h.2.2.1, h.2.2.2.1, h.2.2.2.2.1, h.2.2.2.2.2.1, h.2.2.2.2.2.2]

theorem vcmpleI16 (d : BitVec 5) (a : BitVec 5) (b : BitVec 5) (n : BitVec 2) (m : BitVec 5) : Statement (.vcmpleI16 d a b n m) := fun _ => by
  have h := fields15 47 3 (by decide) (by decide) d a b m n (encode (.vcmpleI16 d a b n m)) rfl
  rw [decodeFields_major2F _ h.1, major2F]
  simp only [h.2.1, h.2.2.1, h.2.2.2.1, h.2.2.2.2.1, h.2.2.2.2.2.1, h.2.2.2.2.2.2]

theorem vcmpltnI16 (d : BitVec 5) (a : BitVec 5) (b : BitVec 5) (n : BitVec 2) (m : BitVec 5) : Statement (.vcmpltnI16 d a b n m) := fun _ => by
  have h := fields15 47 4 (by decide) (by decide) d a b m n (encode (.vcmpltnI16 d a b n m)) rfl
  rw [decodeFields_major2F _ h.1, major2F]
  simp only [h.2.1, h.2.2.1, h.2.2.2.1, h.2.2.2.2.1, h.2.2.2.2.2.1, h.2.2.2.2.2.2]

theorem vcmplenI16 (d : BitVec 5) (a : BitVec 5) (b : BitVec 5) (n : BitVec 2) (m : BitVec 5) : Statement (.vcmplenI16 d a b n m) := fun _ => by
  have h := fields15 47 5 (by decide) (by decide) d a b m n (encode (.vcmplenI16 d a b n m)) rfl
  rw [decodeFields_major2F _ h.1, major2F]
  simp only [h.2.1, h.2.2.1, h.2.2.2.1, h.2.2.2.2.1, h.2.2.2.2.2.1, h.2.2.2.2.2.2]

theorem vboundI16 (d : BitVec 5) (b : BitVec 5) (m : BitVec 5) : Statement (.vboundI16 d b m) := fun _ => by
  have h := fields17 47 6 (by decide) (by decide) d b m (encode (.vboundI16 d b m)) rfl
  rw [decodeFields_major2F _ h.1, major2F]
  simp only [h.2.1, h.2.2.1, h.2.2.2.1, h.2.2.2.2]

theorem vcmpeqI32 (d : BitVec 5) (a : BitVec 5) (b : BitVec 5) (n : BitVec 2) (m : BitVec 5) : Statement (.vcmpeqI32 d a b n m) := fun _ => by
  have h := fields15 48 0 (by decide) (by decide) d a b m n (encode (.vcmpeqI32 d a b n m)) rfl
  rw [decodeFields_major30 _ h.1, major30]
  simp only [h.2.1, h.2.2.1, h.2.2.2.1, h.2.2.2.2.1, h.2.2.2.2.2.1, h.2.2.2.2.2.2]

theorem vcmpneI32 (d : BitVec 5) (a : BitVec 5) (b : BitVec 5) (n : BitVec 2) (m : BitVec 5) : Statement (.vcmpneI32 d a b n m) := fun _ => by
  have h := fields15 48 1 (by decide) (by decide) d a b m n (encode (.vcmpneI32 d a b n m)) rfl
  rw [decodeFields_major30 _ h.1, major30]
  simp only [h.2.1, h.2.2.1, h.2.2.2.1, h.2.2.2.2.1, h.2.2.2.2.2.1, h.2.2.2.2.2.2]

theorem vcmpltI32 (d : BitVec 5) (a : BitVec 5) (b : BitVec 5) (n : BitVec 2) (m : BitVec 5) : Statement (.vcmpltI32 d a b n m) := fun _ => by
  have h := fields15 48 2 (by decide) (by decide) d a b m n (encode (.vcmpltI32 d a b n m)) rfl
  rw [decodeFields_major30 _ h.1, major30]
  simp only [h.2.1, h.2.2.1, h.2.2.2.1, h.2.2.2.2.1, h.2.2.2.2.2.1, h.2.2.2.2.2.2]

theorem vcmpleI32 (d : BitVec 5) (a : BitVec 5) (b : BitVec 5) (n : BitVec 2) (m : BitVec 5) : Statement (.vcmpleI32 d a b n m) := fun _ => by
  have h := fields15 48 3 (by decide) (by decide) d a b m n (encode (.vcmpleI32 d a b n m)) rfl
  rw [decodeFields_major30 _ h.1, major30]
  simp only [h.2.1, h.2.2.1, h.2.2.2.1, h.2.2.2.2.1, h.2.2.2.2.2.1, h.2.2.2.2.2.2]

theorem vcmpltnI32 (d : BitVec 5) (a : BitVec 5) (b : BitVec 5) (n : BitVec 2) (m : BitVec 5) : Statement (.vcmpltnI32 d a b n m) := fun _ => by
  have h := fields15 48 4 (by decide) (by decide) d a b m n (encode (.vcmpltnI32 d a b n m)) rfl
  rw [decodeFields_major30 _ h.1, major30]
  simp only [h.2.1, h.2.2.1, h.2.2.2.1, h.2.2.2.2.1, h.2.2.2.2.2.1, h.2.2.2.2.2.2]

theorem vcmplenI32 (d : BitVec 5) (a : BitVec 5) (b : BitVec 5) (n : BitVec 2) (m : BitVec 5) : Statement (.vcmplenI32 d a b n m) := fun _ => by
  have h := fields15 48 5 (by decide) (by decide) d a b m n (encode (.vcmplenI32 d a b n m)) rfl
  rw [decodeFields_major30 _ h.1, major30]
  simp only [h.2.1, h.2.2.1, h.2.2.2.1, h.2.2.2.2.1, h.2.2.2.2.2.1, h.2.2.2.2.2.2]

theorem vboundI32 (d : BitVec 5) (b : BitVec 5) (m : BitVec 5) : Statement (.vboundI32 d b m) := fun _ => by
  have h := fields17 48 6 (by decide) (by decide) d b m (encode (.vboundI32 d b m)) rfl
  rw [decodeFields_major30 _ h.1, major30]
  simp only [h.2.1, h.2.2.1, h.2.2.2.1, h.2.2.2.2]

theorem vcmpeqI64 (d : BitVec 5) (a : BitVec 5) (b : BitVec 5) (n : BitVec 2) (m : BitVec 5) : Statement (.vcmpeqI64 d a b n m) := fun _ => by
  have h := fields15 49 0 (by decide) (by decide) d a b m n (encode (.vcmpeqI64 d a b n m)) rfl
  rw [decodeFields_major31 _ h.1, major31]
  simp only [h.2.1, h.2.2.1, h.2.2.2.1, h.2.2.2.2.1, h.2.2.2.2.2.1, h.2.2.2.2.2.2]

theorem vcmpneI64 (d : BitVec 5) (a : BitVec 5) (b : BitVec 5) (n : BitVec 2) (m : BitVec 5) : Statement (.vcmpneI64 d a b n m) := fun _ => by
  have h := fields15 49 1 (by decide) (by decide) d a b m n (encode (.vcmpneI64 d a b n m)) rfl
  rw [decodeFields_major31 _ h.1, major31]
  simp only [h.2.1, h.2.2.1, h.2.2.2.1, h.2.2.2.2.1, h.2.2.2.2.2.1, h.2.2.2.2.2.2]

theorem vcmpltI64 (d : BitVec 5) (a : BitVec 5) (b : BitVec 5) (n : BitVec 2) (m : BitVec 5) : Statement (.vcmpltI64 d a b n m) := fun _ => by
  have h := fields15 49 2 (by decide) (by decide) d a b m n (encode (.vcmpltI64 d a b n m)) rfl
  rw [decodeFields_major31 _ h.1, major31]
  simp only [h.2.1, h.2.2.1, h.2.2.2.1, h.2.2.2.2.1, h.2.2.2.2.2.1, h.2.2.2.2.2.2]

theorem vcmpleI64 (d : BitVec 5) (a : BitVec 5) (b : BitVec 5) (n : BitVec 2) (m : BitVec 5) : Statement (.vcmpleI64 d a b n m) := fun _ => by
  have h := fields15 49 3 (by decide) (by decide) d a b m n (encode (.vcmpleI64 d a b n m)) rfl
  rw [decodeFields_major31 _ h.1, major31]
  simp only [h.2.1, h.2.2.1, h.2.2.2.1, h.2.2.2.2.1, h.2.2.2.2.2.1, h.2.2.2.2.2.2]

theorem vcmpltnI64 (d : BitVec 5) (a : BitVec 5) (b : BitVec 5) (n : BitVec 2) (m : BitVec 5) : Statement (.vcmpltnI64 d a b n m) := fun _ => by
  have h := fields15 49 4 (by decide) (by decide) d a b m n (encode (.vcmpltnI64 d a b n m)) rfl
  rw [decodeFields_major31 _ h.1, major31]
  simp only [h.2.1, h.2.2.1, h.2.2.2.1, h.2.2.2.2.1, h.2.2.2.2.2.1, h.2.2.2.2.2.2]

theorem vcmplenI64 (d : BitVec 5) (a : BitVec 5) (b : BitVec 5) (n : BitVec 2) (m : BitVec 5) : Statement (.vcmplenI64 d a b n m) := fun _ => by
  have h := fields15 49 5 (by decide) (by decide) d a b m n (encode (.vcmplenI64 d a b n m)) rfl
  rw [decodeFields_major31 _ h.1, major31]
  simp only [h.2.1, h.2.2.1, h.2.2.2.1, h.2.2.2.2.1, h.2.2.2.2.2.1, h.2.2.2.2.2.2]

theorem vboundI64 (d : BitVec 5) (b : BitVec 5) (m : BitVec 5) : Statement (.vboundI64 d b m) := fun _ => by
  have h := fields17 49 6 (by decide) (by decide) d b m (encode (.vboundI64 d b m)) rfl
  rw [decodeFields_major31 _ h.1, major31]
  simp only [h.2.1, h.2.2.1, h.2.2.2.1, h.2.2.2.2]

theorem vfcmpeqF32 (d : BitVec 5) (a : BitVec 5) (b : BitVec 5) (n : BitVec 2) (m : BitVec 5) : Statement (.vfcmpeqF32 d a b n m) := fun _ => by
  have h := fields15 50 0 (by decide) (by decide) d a b m n (encode (.vfcmpeqF32 d a b n m)) rfl
  rw [decodeFields_major32 _ h.1, major32]
  simp only [h.2.1, h.2.2.1, h.2.2.2.1, h.2.2.2.2.1, h.2.2.2.2.2.1, h.2.2.2.2.2.2]

theorem vfcmpltF32 (d : BitVec 5) (a : BitVec 5) (b : BitVec 5) (n : BitVec 2) (m : BitVec 5) : Statement (.vfcmpltF32 d a b n m) := fun _ => by
  have h := fields15 50 1 (by decide) (by decide) d a b m n (encode (.vfcmpltF32 d a b n m)) rfl
  rw [decodeFields_major32 _ h.1, major32]
  simp only [h.2.1, h.2.2.1, h.2.2.2.1, h.2.2.2.2.1, h.2.2.2.2.2.1, h.2.2.2.2.2.2]

theorem vfcmpleF32 (d : BitVec 5) (a : BitVec 5) (b : BitVec 5) (n : BitVec 2) (m : BitVec 5) : Statement (.vfcmpleF32 d a b n m) := fun _ => by
  have h := fields15 50 2 (by decide) (by decide) d a b m n (encode (.vfcmpleF32 d a b n m)) rfl
  rw [decodeFields_major32 _ h.1, major32]
  simp only [h.2.1, h.2.2.1, h.2.2.2.1, h.2.2.2.2.1, h.2.2.2.2.2.1, h.2.2.2.2.2.2]

theorem vfcmpunF32 (d : BitVec 5) (a : BitVec 5) (b : BitVec 5) (n : BitVec 2) (m : BitVec 5) : Statement (.vfcmpunF32 d a b n m) := fun _ => by
  have h := fields15 50 3 (by decide) (by decide) d a b m n (encode (.vfcmpunF32 d a b n m)) rfl
  rw [decodeFields_major32 _ h.1, major32]
  simp only [h.2.1, h.2.2.1, h.2.2.2.1, h.2.2.2.2.1, h.2.2.2.2.2.1, h.2.2.2.2.2.2]

theorem vfcmpeqF64 (d : BitVec 5) (a : BitVec 5) (b : BitVec 5) (n : BitVec 2) (m : BitVec 5) : Statement (.vfcmpeqF64 d a b n m) := fun _ => by
  have h := fields15 50 4 (by decide) (by decide) d a b m n (encode (.vfcmpeqF64 d a b n m)) rfl
  rw [decodeFields_major32 _ h.1, major32]
  simp only [h.2.1, h.2.2.1, h.2.2.2.1, h.2.2.2.2.1, h.2.2.2.2.2.1, h.2.2.2.2.2.2]

theorem vfcmpltF64 (d : BitVec 5) (a : BitVec 5) (b : BitVec 5) (n : BitVec 2) (m : BitVec 5) : Statement (.vfcmpltF64 d a b n m) := fun _ => by
  have h := fields15 50 5 (by decide) (by decide) d a b m n (encode (.vfcmpltF64 d a b n m)) rfl
  rw [decodeFields_major32 _ h.1, major32]
  simp only [h.2.1, h.2.2.1, h.2.2.2.1, h.2.2.2.2.1, h.2.2.2.2.2.1, h.2.2.2.2.2.2]

theorem vfcmpleF64 (d : BitVec 5) (a : BitVec 5) (b : BitVec 5) (n : BitVec 2) (m : BitVec 5) : Statement (.vfcmpleF64 d a b n m) := fun _ => by
  have h := fields15 50 6 (by decide) (by decide) d a b m n (encode (.vfcmpleF64 d a b n m)) rfl
  rw [decodeFields_major32 _ h.1, major32]
  simp only [h.2.1, h.2.2.1, h.2.2.2.1, h.2.2.2.2.1, h.2.2.2.2.2.1, h.2.2.2.2.2.2]

theorem vfcmpunF64 (d : BitVec 5) (a : BitVec 5) (b : BitVec 5) (n : BitVec 2) (m : BitVec 5) : Statement (.vfcmpunF64 d a b n m) := fun _ => by
  have h := fields15 50 7 (by decide) (by decide) d a b m n (encode (.vfcmpunF64 d a b n m)) rfl
  rw [decodeFields_major32 _ h.1, major32]
  simp only [h.2.1, h.2.2.1, h.2.2.2.1, h.2.2.2.2.1, h.2.2.2.2.2.1, h.2.2.2.2.2.2]

theorem mand (d : BitVec 5) (a : BitVec 5) (b : BitVec 5) (m : BitVec 5) : Statement (.mand d a b m) := fun _ => by
  have h := fields18 51 0 (by decide) (by decide) d a b m (encode (.mand d a b m)) rfl
  rw [decodeFields_major33 _ h.1, major33]
  simp only [h.2.1, h.2.2.1, h.2.2.2.1, h.2.2.2.2.1, h.2.2.2.2.2]

theorem mor (d : BitVec 5) (a : BitVec 5) (b : BitVec 5) (m : BitVec 5) : Statement (.mor d a b m) := fun _ => by
  have h := fields18 51 1 (by decide) (by decide) d a b m (encode (.mor d a b m)) rfl
  rw [decodeFields_major33 _ h.1, major33]
  simp only [h.2.1, h.2.2.1, h.2.2.2.1, h.2.2.2.2.1, h.2.2.2.2.2]

theorem mxor (d : BitVec 5) (a : BitVec 5) (b : BitVec 5) (m : BitVec 5) : Statement (.mxor d a b m) := fun _ => by
  have h := fields18 51 2 (by decide) (by decide) d a b m (encode (.mxor d a b m)) rfl
  rw [decodeFields_major33 _ h.1, major33]
  simp only [h.2.1, h.2.2.1, h.2.2.2.1, h.2.2.2.2.1, h.2.2.2.2.2]

theorem mandn (d : BitVec 5) (a : BitVec 5) (b : BitVec 5) (m : BitVec 5) : Statement (.mandn d a b m) := fun _ => by
  have h := fields18 51 3 (by decide) (by decide) d a b m (encode (.mandn d a b m)) rfl
  rw [decodeFields_major33 _ h.1, major33]
  simp only [h.2.1, h.2.2.1, h.2.2.2.1, h.2.2.2.2.1, h.2.2.2.2.2]

theorem mnot (d : BitVec 5) (a : BitVec 5) (m : BitVec 5) : Statement (.mnot d a m) := fun _ => by
  have h := fields16 51 4 (by decide) (by decide) d a m (encode (.mnot d a m)) rfl
  rw [decodeFields_major33 _ h.1, major33]
  simp only [h.2.1, h.2.2.1, h.2.2.2.1, h.2.2.2.2]

theorem mpopc (d : BitVec 5) (a : BitVec 5) (m : BitVec 5) : Statement (.mpopc d a m) := fun _ => by
  have h := fields16 51 5 (by decide) (by decide) d a m (encode (.mpopc d a m)) rfl
  rw [decodeFields_major33 _ h.1, major33]
  simp only [h.2.1, h.2.2.1, h.2.2.2.1, h.2.2.2.2]

theorem mfirst (d : BitVec 5) (a : BitVec 5) (m : BitVec 5) : Statement (.mfirst d a m) := fun _ => by
  have h := fields16 51 6 (by decide) (by decide) d a m (encode (.mfirst d a m)) rfl
  rw [decodeFields_major33 _ h.1, major33]
  simp only [h.2.1, h.2.2.1, h.2.2.2.1, h.2.2.2.2]

theorem msetvl (d : BitVec 5) (a : BitVec 5) (m : BitVec 5) : Statement (.msetvl d a m) := fun _ => by
  have h := fields16 51 7 (by decide) (by decide) d a m (encode (.msetvl d a m)) rfl
  rw [decodeFields_major33 _ h.1, major33]
  simp only [h.2.1, h.2.2.1, h.2.2.2.1, h.2.2.2.2]

theorem vpermx (d : BitVec 5) (a : BitVec 5) (b : BitVec 5) (n : BitVec 2) (m : BitVec 5) : Statement (.vpermx d a b n m) := fun _ => by
  have h := fields15 52 0 (by decide) (by decide) d a b m n (encode (.vpermx d a b n m)) rfl
  rw [decodeFields_major34 _ h.1, major34]
  simp only [h.2.1, h.2.2.1, h.2.2.2.1, h.2.2.2.2.1, h.2.2.2.2.2.1, h.2.2.2.2.2.2]

theorem vslideup (d : BitVec 5) (a : BitVec 5) (b : BitVec 5) (m : BitVec 5) : Statement (.vslideup d a b m) := fun _ => by
  have h := fields18 52 1 (by decide) (by decide) d a b m (encode (.vslideup d a b m)) rfl
  rw [decodeFields_major34 _ h.1, major34]
  simp only [h.2.1, h.2.2.1, h.2.2.2.1, h.2.2.2.2.1, h.2.2.2.2.2]

theorem vslidedn (d : BitVec 5) (a : BitVec 5) (b : BitVec 5) (m : BitVec 5) : Statement (.vslidedn d a b m) := fun _ => by
  have h := fields18 52 2 (by decide) (by decide) d a b m (encode (.vslidedn d a b m)) rfl
  rw [decodeFields_major34 _ h.1, major34]
  simp only [h.2.1, h.2.2.1, h.2.2.2.1, h.2.2.2.2.1, h.2.2.2.2.2]

theorem vcompress (d : BitVec 5) (a : BitVec 5) (m : BitVec 5) : Statement (.vcompress d a m) := fun _ => by
  have h := fields16 52 3 (by decide) (by decide) d a m (encode (.vcompress d a m)) rfl
  rw [decodeFields_major34 _ h.1, major34]
  simp only [h.2.1, h.2.2.1, h.2.2.2.1, h.2.2.2.2]

theorem vexpand (d : BitVec 5) (a : BitVec 5) (m : BitVec 5) : Statement (.vexpand d a m) := fun _ => by
  have h := fields16 52 4 (by decide) (by decide) d a m (encode (.vexpand d a m)) rfl
  rw [decodeFields_major34 _ h.1, major34]
  simp only [h.2.1, h.2.2.1, h.2.2.2.1, h.2.2.2.2]

theorem vbcast (d : BitVec 5) (a : BitVec 5) (b : BitVec 5) (m : BitVec 5) : Statement (.vbcast d a b m) := fun _ => by
  have h := fields18 52 5 (by decide) (by decide) d a b m (encode (.vbcast d a b m)) rfl
  rw [decodeFields_major34 _ h.1, major34]
  simp only [h.2.1, h.2.2.1, h.2.2.2.1, h.2.2.2.2.1, h.2.2.2.2.2]

theorem vextr (d : BitVec 5) (a : BitVec 5) (b : BitVec 5) : Statement (.vextr d a b) := fun _ => by
  have h := fields19 52 6 (by decide) (by decide) d a b (encode (.vextr d a b)) rfl
  rw [decodeFields_major34 _ h.1, major34]
  simp only [h.2.1, h.2.2.1, h.2.2.2.1, h.2.2.2.2]

theorem vins (d : BitVec 5) (a : BitVec 5) (b : BitVec 5) : Statement (.vins d a b) := fun _ => by
  have h := fields19 52 7 (by decide) (by decide) d a b (encode (.vins d a b)) rfl
  rw [decodeFields_major34 _ h.1, major34]
  simp only [h.2.1, h.2.2.1, h.2.2.2.1, h.2.2.2.2]

theorem vscanI32 (d : BitVec 5) (a : BitVec 5) (m : BitVec 5) : Statement (.vscanI32 d a m) := fun _ => by
  have h := fields16 53 0 (by decide) (by decide) d a m (encode (.vscanI32 d a m)) rfl
  rw [decodeFields_major35 _ h.1, major35]
  simp only [h.2.1, h.2.2.1, h.2.2.2.1, h.2.2.2.2]

theorem vscanI64 (d : BitVec 5) (a : BitVec 5) (m : BitVec 5) : Statement (.vscanI64 d a m) := fun _ => by
  have h := fields16 53 1 (by decide) (by decide) d a m (encode (.vscanI64 d a m)) rfl
  rw [decodeFields_major35 _ h.1, major35]
  simp only [h.2.1, h.2.2.1, h.2.2.2.1, h.2.2.2.2]

theorem vscanF32 (d : BitVec 5) (a : BitVec 5) (m : BitVec 5) : Statement (.vscanF32 d a m) := fun _ => by
  have h := fields16 53 2 (by decide) (by decide) d a m (encode (.vscanF32 d a m)) rfl
  rw [decodeFields_major35 _ h.1, major35]
  simp only [h.2.1, h.2.2.1, h.2.2.2.1, h.2.2.2.2]

theorem vredsumI32 (d : BitVec 5) (a : BitVec 5) (m : BitVec 5) : Statement (.vredsumI32 d a m) := fun _ => by
  have h := fields16 53 3 (by decide) (by decide) d a m (encode (.vredsumI32 d a m)) rfl
  rw [decodeFields_major35 _ h.1, major35]
  simp only [h.2.1, h.2.2.1, h.2.2.2.1, h.2.2.2.2]

theorem vredsumI64 (d : BitVec 5) (a : BitVec 5) (m : BitVec 5) : Statement (.vredsumI64 d a m) := fun _ => by
  have h := fields16 53 4 (by decide) (by decide) d a m (encode (.vredsumI64 d a m)) rfl
  rw [decodeFields_major35 _ h.1, major35]
  simp only [h.2.1, h.2.2.1, h.2.2.2.1, h.2.2.2.2]

theorem vredsumF32 (d : BitVec 5) (a : BitVec 5) (m : BitVec 5) : Statement (.vredsumF32 d a m) := fun _ => by
  have h := fields16 53 5 (by decide) (by decide) d a m (encode (.vredsumF32 d a m)) rfl
  rw [decodeFields_major35 _ h.1, major35]
  simp only [h.2.1, h.2.2.1, h.2.2.2.1, h.2.2.2.2]

theorem vredmaxI32 (d : BitVec 5) (a : BitVec 5) (m : BitVec 5) : Statement (.vredmaxI32 d a m) := fun _ => by
  have h := fields16 53 6 (by decide) (by decide) d a m (encode (.vredmaxI32 d a m)) rfl
  rw [decodeFields_major35 _ h.1, major35]
  simp only [h.2.1, h.2.2.1, h.2.2.2.1, h.2.2.2.2]

theorem vredmaxF32 (d : BitVec 5) (a : BitVec 5) (m : BitVec 5) : Statement (.vredmaxF32 d a m) := fun _ => by
  have h := fields16 53 7 (by decide) (by decide) d a m (encode (.vredmaxF32 d a m)) rfl
  rw [decodeFields_major35 _ h.1, major35]
  simp only [h.2.1, h.2.2.1, h.2.2.2.1, h.2.2.2.2]

theorem vcvt (d : BitVec 5) (a : BitVec 5) (s : BitVec 4) (r : BitVec 2) (m : BitVec 5) (f : BitVec 4) : Statement (.vcvt d a s r m f) := fun _ => by
  have h := fields20 54 (by decide) d a s f r m (encode (.vcvt d a s r m f)) rfl
  unfold decodeFields
  simp only [h.1, h.2.1, h.2.2.1, h.2.2.2.1, h.2.2.2.2.1, h.2.2.2.2.2.1, h.2.2.2.2.2.2]

theorem vhad (d : BitVec 5) (a : BitVec 5) (m : BitVec 5) (j : BitVec 5) : Statement (.vhad d a m j) := fun _ => by
  have h := fields18 55 0 (by decide) (by decide) d a j m (encode (.vhad d a m j)) rfl
  rw [decodeFields_major37 _ h.1, major37]
  simp only [h.2.1, h.2.2.1, h.2.2.2.1, h.2.2.2.2.1, h.2.2.2.2.2]

theorem vhadc (a : BitVec 5) (j : BitVec 5) : Statement (.vhadc a j) := fun _ => by
  have h := fields21 55 1 (by decide) (by decide) a j (encode (.vhadc a j)) rfl
  rw [decodeFields_major37 _ h.1, major37]
  simp only [h.2.1, h.2.2.1, h.2.2.2]

theorem vcvtb (d : BitVec 5) (a : BitVec 5) (o : BitVec 5) : Statement (.vcvtb d a o) := fun _ => by
  have h := fields19 55 2 (by decide) (by decide) d a o (encode (.vcvtb d a o)) rfl
  rw [decodeFields_major37 _ h.1, major37]
  simp only [h.2.1, h.2.2.1, h.2.2.2.1, h.2.2.2.2]

theorem vgauss (d : BitVec 5) (a : BitVec 5) (b : BitVec 5) (m : BitVec 5) : Statement (.vgauss d a b m) := fun _ => by
  have h := fields18 55 3 (by decide) (by decide) d a b m (encode (.vgauss d a b m)) rfl
  rw [decodeFields_major37 _ h.1, major37]
  simp only [h.2.1, h.2.2.1, h.2.2.2.1, h.2.2.2.2.1, h.2.2.2.2.2]

theorem vld (d : BitVec 5) (b : BitVec 5) (m : BitVec 5) (h : BitVec 4) : Statement (.vld d b m h) := fun _ => by
  have h := fields22 56 0 (by decide) (by decide) d b m h (encode (.vld d b m h)) rfl
  rw [decodeFields_major38 _ h.1, major38]
  simp only [h.2.1, h.2.2.1, h.2.2.2.1, h.2.2.2.2.1, h.2.2.2.2.2]

theorem vlds (d : BitVec 5) (b : BitVec 5) (s : BitVec 5) (m : BitVec 5) (h : BitVec 4) : Statement (.vlds d b s m h) := fun _ => by
  have h := fields23 56 1 (by decide) (by decide) d b s m h (encode (.vlds d b s m h)) rfl
  rw [decodeFields_major38 _ h.1, major38]
  simp only [h.2.1, h.2.2.1, h.2.2.2.1, h.2.2.2.2.1, h.2.2.2.2.2.1, h.2.2.2.2.2.2]

theorem vldx (d : BitVec 5) (b : BitVec 5) (x : BitVec 5) (m : BitVec 5) (h : BitVec 4) : Statement (.vldx d b x m h) := fun _ => by
  have h := fields23 57 0 (by decide) (by decide) d b x m h (encode (.vldx d b x m h)) rfl
  rw [decodeFields_major39 _ h.1, major39]
  simp only [h.2.1, h.2.2.1, h.2.2.2.1, h.2.2.2.2.1, h.2.2.2.2.2.1, h.2.2.2.2.2.2]

theorem vldff (d : BitVec 5) (b : BitVec 5) (m : BitVec 5) (h : BitVec 4) : Statement (.vldff d b m h) := fun _ => by
  have h := fields22 57 1 (by decide) (by decide) d b m h (encode (.vldff d b m h)) rfl
  rw [decodeFields_major39 _ h.1, major39]
  simp only [h.2.1, h.2.2.1, h.2.2.2.1, h.2.2.2.2.1, h.2.2.2.2.2]

theorem vst (d : BitVec 5) (b : BitVec 5) (m : BitVec 5) (h : BitVec 4) : Statement (.vst d b m h) := fun _ => by
  have h := fields22 58 0 (by decide) (by decide) d b m h (encode (.vst d b m h)) rfl
  rw [decodeFields_major3A _ h.1, major3A]
  simp only [h.2.1, h.2.2.1, h.2.2.2.1, h.2.2.2.2.1, h.2.2.2.2.2]

theorem vsts (d : BitVec 5) (b : BitVec 5) (s : BitVec 5) (m : BitVec 5) (h : BitVec 4) : Statement (.vsts d b s m h) := fun _ => by
  have h := fields23 58 1 (by decide) (by decide) d b s m h (encode (.vsts d b s m h)) rfl
  rw [decodeFields_major3A _ h.1, major3A]
  simp only [h.2.1, h.2.2.1, h.2.2.2.1, h.2.2.2.2.1, h.2.2.2.2.2.1, h.2.2.2.2.2.2]

theorem vstx (d : BitVec 5) (b : BitVec 5) (x : BitVec 5) (m : BitVec 5) (h : BitVec 4) : Statement (.vstx d b x m h) := fun _ => by
  have h := fields23 59 0 (by decide) (by decide) d b x m h (encode (.vstx d b x m h)) rfl
  rw [decodeFields_major3B _ h.1, major3B]
  simp only [h.2.1, h.2.2.1, h.2.2.2.1, h.2.2.2.2.1, h.2.2.2.2.2.1, h.2.2.2.2.2.2]

theorem vstxadd (d : BitVec 5) (b : BitVec 5) (x : BitVec 5) (m : BitVec 5) (h : BitVec 4) : Statement (.vstxadd d b x m h) := fun _ => by
  have h := fields23 59 1 (by decide) (by decide) d b x m h (encode (.vstxadd d b x m h)) rfl
  rw [decodeFields_major3B _ h.1, major3B]
  simp only [h.2.1, h.2.2.1, h.2.2.2.1, h.2.2.2.2.1, h.2.2.2.2.2.1, h.2.2.2.2.2.2]

theorem vfetch (a : BitVec 5) : Statement (.vfetch a) := fun _ => by
  have h := fields24 60 0 (by decide) (by decide) a (encode (.vfetch a)) rfl
  rw [decodeFields_major3C _ h.1, major3C]
  simp only [h.2.1, h.2.2]

theorem tfetch (a : BitVec 5) (m : BitVec 5) : Statement (.tfetch a m) := fun _ => by
  have h := fields25 60 1 (by decide) (by decide) a m (encode (.tfetch a m)) rfl
  rw [decodeFields_major3C _ h.1, major3C]
  simp only [h.2.1, h.2.2.1, h.2.2.2]

theorem stop : Statement (.stop) := fun _ => by
  have h := fields26 60 2 (by decide) (by decide) (encode (.stop)) rfl
  rw [decodeFields_major3C _ h.1, major3C]
  simp only [h.2]

theorem vjoin : Statement (.vjoin) := fun _ => by
  have h := fields26 60 3 (by decide) (by decide) (encode (.vjoin)) rfl
  rw [decodeFields_major3C _ h.1, major3C]
  simp only [h.2]

theorem vrelease : Statement (.vrelease) := fun _ => by
  have h := fields26 60 4 (by decide) (by decide) (encode (.vrelease)) rfl
  rw [decodeFields_major3C _ h.1, major3C]
  simp only [h.2]

theorem vloop (k : BitVec 5) : Statement (.vloop k) := fun _ => by
  have h := fields27 60 5 (by decide) (by decide) k (encode (.vloop k)) rfl
  rw [decodeFields_major3C _ h.1, major3C]
  simp only [h.2.1, h.2.2]

theorem vagain : Statement (.vagain) := fun _ => by
  have h := fields26 60 6 (by decide) (by decide) (encode (.vagain)) rfl
  rw [decodeFields_major3C _ h.1, major3C]
  simp only [h.2]

theorem setvl (d : BitVec 5) (a : BitVec 5) (t : BitVec 3) : Statement (.setvl d a t) := fun _ => by
  have h := fields28 61 0 (by decide) (by decide) d a t (encode (.setvl d a t)) rfl
  rw [decodeFields_major3D _ h.1, major3D]
  simp only [h.2.1, h.2.2.1, h.2.2.2.1, h.2.2.2.2]

theorem setvli (d : BitVec 5) (a : BitVec 5) (n : BitVec 11) (t : BitVec 3) : Statement (.setvli d a n t) := fun _ => by
  have h := fields29 61 1 (by decide) (by decide) d a t n (encode (.setvli d a n t)) rfl
  rw [decodeFields_major3D _ h.1, major3D]
  simp only [h.2.1, h.2.2.1, h.2.2.2.1, h.2.2.2.2.1, h.2.2.2.2.2]

theorem ropen (d : BitVec 5) (a : BitVec 5) (b : BitVec 5) : Statement (.ropen d a b) := fun _ => by
  have h := fields30 64 0 (by decide) (by decide) d a b (encode (.ropen d a b)) rfl
  rw [decodeFields_major40 _ h.1, major40]
  simp only [h.2.1, h.2.2.1, h.2.2.2.1, h.2.2.2.2]

theorem rpub (a : BitVec 5) (h : BitVec 4) : Statement (.rpub a h) := fun _ => by
  have h := fields31 64 1 (by decide) (by decide) h a (encode (.rpub a h)) rfl
  rw [decodeFields_major40 _ h.1, major40]
  simp only [h.2.1, h.2.2.1, h.2.2.2]

theorem rseal (a : BitVec 5) (h : BitVec 4) : Statement (.rseal a h) := fun _ => by
  have h := fields31 64 2 (by decide) (by decide) h a (encode (.rseal a h)) rfl
  rw [decodeFields_major40 _ h.1, major40]
  simp only [h.2.1, h.2.2.1, h.2.2.2]

theorem rfree (a : BitVec 5) (h : BitVec 4) : Statement (.rfree a h) := fun _ => by
  have h := fields31 64 3 (by decide) (by decide) h a (encode (.rfree a h)) rfl
  rw [decodeFields_major40 _ h.1, major40]
  simp only [h.2.1, h.2.2.1, h.2.2.2]

theorem rlen (d : BitVec 5) (a : BitVec 5) (h : BitVec 4) : Statement (.rlen d a h) := fun _ => by
  have h := fields32 64 4 (by decide) (by decide) d h a (encode (.rlen d a h)) rfl
  rw [decodeFields_major40 _ h.1, major40]
  simp only [h.2.1, h.2.2.1, h.2.2.2.1, h.2.2.2.2]

theorem rinfo (d : BitVec 5) (a : BitVec 5) (b : BitVec 5) : Statement (.rinfo d a b) := fun _ => by
  have h := fields30 64 5 (by decide) (by decide) d a b (encode (.rinfo d a b)) rfl
  rw [decodeFields_major40 _ h.1, major40]
  simp only [h.2.1, h.2.2.1, h.2.2.2.1, h.2.2.2.2]

theorem sbind (d : BitVec 5) (a : BitVec 5) (b : BitVec 5) (h : BitVec 4) : Statement (.sbind d a b h) := fun _ => by
  have h := fields33 65 0 (by decide) (by decide) d h a b (encode (.sbind d a b h)) rfl
  rw [decodeFields_major41 _ h.1, major41]
  simp only [h.2.1, h.2.2.1, h.2.2.2.1, h.2.2.2.2.1, h.2.2.2.2.2]

theorem sunbind (d : BitVec 5) (h : BitVec 4) : Statement (.sunbind d h) := fun _ => by
  have h := fields34 65 1 (by decide) (by decide) d h (encode (.sunbind d h)) rfl
  rw [decodeFields_major41 _ h.1, major41]
  simp only [h.2.1, h.2.2.1, h.2.2.2]

theorem sskip (d : BitVec 5) (a : BitVec 5) : Statement (.sskip d a) := fun _ => by
  have h := fields35 65 2 (by decide) (by decide) d a (encode (.sskip d a)) rfl
  rw [decodeFields_major41 _ h.1, major41]
  simp only [h.2.1, h.2.2.1, h.2.2.2]

theorem spos (d : BitVec 5) (a : BitVec 5) : Statement (.spos d a) := fun _ => by
  have h := fields35 65 3 (by decide) (by decide) d a (encode (.spos d a)) rfl
  rw [decodeFields_major41 _ h.1, major41]
  simp only [h.2.1, h.2.2.1, h.2.2.2]

theorem rcopyin (a : BitVec 5) (b : BitVec 5) (h : BitVec 4) : Statement (.rcopyin a b h) := fun _ => by
  have h := fields36 66 0 (by decide) (by decide) h a b (encode (.rcopyin a b h)) rfl
  rw [decodeFields_major42 _ h.1, major42]
  simp only [h.2.1, h.2.2.1, h.2.2.2.1, h.2.2.2.2]

theorem rcopyout (a : BitVec 5) (b : BitVec 5) (h : BitVec 4) : Statement (.rcopyout a b h) := fun _ => by
  have h := fields36 66 1 (by decide) (by decide) h a b (encode (.rcopyout a b h)) rfl
  rw [decodeFields_major42 _ h.1, major42]
  simp only [h.2.1, h.2.2.1, h.2.2.2.1, h.2.2.2.2]

theorem rcopyrr (a : BitVec 5) (b : BitVec 5) (h : BitVec 4) : Statement (.rcopyrr a b h) := fun _ => by
  have h := fields36 66 2 (by decide) (by decide) h a b (encode (.rcopyrr a b h)) rfl
  rw [decodeFields_major42 _ h.1, major42]
  simp only [h.2.1, h.2.2.1, h.2.2.2.1, h.2.2.2.2]

theorem rfill (a : BitVec 5) (b : BitVec 5) (h : BitVec 4) : Statement (.rfill a b h) := fun _ => by
  have h := fields36 66 3 (by decide) (by decide) h a b (encode (.rfill a b h)) rfl
  rw [decodeFields_major42 _ h.1, major42]
  simp only [h.2.1, h.2.2.1, h.2.2.2.1, h.2.2.2.2]

theorem rsort (a : BitVec 5) (h : BitVec 4) : Statement (.rsort a h) := fun _ => by
  have h := fields31 67 0 (by decide) (by decide) h a (encode (.rsort a h)) rfl
  rw [decodeFields_major43 _ h.1, major43]
  simp only [h.2.1, h.2.2.1, h.2.2.2]

theorem rmerge (a : BitVec 5) (h : BitVec 4) : Statement (.rmerge a h) := fun _ => by
  have h := fields31 67 1 (by decide) (by decide) h a (encode (.rmerge a h)) rfl
  rw [decodeFields_major43 _ h.1, major43]
  simp only [h.2.1, h.2.2.1, h.2.2.2]

theorem rpart (a : BitVec 5) (h : BitVec 4) : Statement (.rpart a h) := fun _ => by
  have h := fields31 67 2 (by decide) (by decide) h a (encode (.rpart a h)) rfl
  rw [decodeFields_major43 _ h.1, major43]
  simp only [h.2.1, h.2.2.1, h.2.2.2]

theorem rtag (a : BitVec 5) (h : BitVec 4) : Statement (.rtag a h) := fun _ => by
  have h := fields31 67 3 (by decide) (by decide) h a (encode (.rtag a h)) rfl
  rw [decodeFields_major43 _ h.1, major43]
  simp only [h.2.1, h.2.2.1, h.2.2.2]

theorem rjoin (a : BitVec 5) (h : BitVec 4) : Statement (.rjoin a h) := fun _ => by
  have h := fields31 67 4 (by decide) (by decide) h a (encode (.rjoin a h)) rfl
  rw [decodeFields_major43 _ h.1, major43]
  simp only [h.2.1, h.2.2.1, h.2.2.2]

theorem vldw (d : BitVec 5) (a : BitVec 5) (b : BitVec 5) (h : BitVec 4) : Statement (.vldw d a b h) := fun _ => by
  have h := fields33 68 0 (by decide) (by decide) d h a b (encode (.vldw d a b h)) rfl
  rw [decodeFields_major44 _ h.1, major44]
  simp only [h.2.1, h.2.2.1, h.2.2.2.1, h.2.2.2.2.1, h.2.2.2.2.2]

theorem cset (a : BitVec 5) (h : BitVec 4) : Statement (.cset a h) := fun _ => by
  have h := fields31 69 0 (by decide) (by decide) h a (encode (.cset a h)) rfl
  rw [decodeFields_major45 _ h.1, major45]
  simp only [h.2.1, h.2.2.1, h.2.2.2]

theorem csnap (d : BitVec 5) (a : BitVec 5) (h : BitVec 4) : Statement (.csnap d a h) := fun _ => by
  have h := fields32 69 1 (by decide) (by decide) d h a (encode (.csnap d a h)) rfl
  rw [decodeFields_major45 _ h.1, major45]
  simp only [h.2.1, h.2.2.1, h.2.2.2.1, h.2.2.2.2]

theorem rcomb (d : BitVec 5) (a : BitVec 5) (b : BitVec 5) : Statement (.rcomb d a b) := fun _ => by
  have h := fields30 70 0 (by decide) (by decide) d a b (encode (.rcomb d a b)) rfl
  rw [decodeFields_major46 _ h.1, major46]
  simp only [h.2.1, h.2.2.1, h.2.2.2.1, h.2.2.2.2]

theorem nmc (d : BitVec 5) (a : BitVec 5) (b : BitVec 5) (h : BitVec 4) : Statement (.nmc d a b h) := fun _ => by
  have h := fields33 76 0 (by decide) (by decide) d h a b (encode (.nmc d a b h)) rfl
  rw [decodeFields_major4C _ h.1, major4C]
  simp only [h.2.1, h.2.2.1, h.2.2.2.1, h.2.2.2.2.1, h.2.2.2.2.2]

theorem nmstat (d : BitVec 5) (a : BitVec 5) (h : BitVec 4) : Statement (.nmstat d a h) := fun _ => by
  have h := fields32 76 1 (by decide) (by decide) d h a (encode (.nmstat d a h)) rfl
  rw [decodeFields_major4C _ h.1, major4C]
  simp only [h.2.1, h.2.2.1, h.2.2.2.1, h.2.2.2.2]

theorem scan (a : BitVec 5) (h : BitVec 4) : Statement (.scan a h) := fun _ => by
  have h := fields31 77 0 (by decide) (by decide) h a (encode (.scan a h)) rfl
  rw [decodeFields_major4D _ h.1, major4D]
  simp only [h.2.1, h.2.2.1, h.2.2.2]

theorem scanth (d : BitVec 5) (a : BitVec 5) (h : BitVec 4) : Statement (.scanth d a h) := fun _ => by
  have h := fields32 77 1 (by decide) (by decide) d h a (encode (.scanth d a h)) rfl
  rw [decodeFields_major4D _ h.1, major4D]
  simp only [h.2.1, h.2.2.1, h.2.2.2.1, h.2.2.2.2]

theorem opaF64 (d : BitVec 3) (a : BitVec 5) (b : BitVec 5) (c : BitVec 5) (r : BitVec 5) : Statement (.opaF64 d a b c r) := fun _ => by
  have h := fields37 80 0 (by decide) (by decide) d a b r c (encode (.opaF64 d a b c r)) rfl
  rw [decodeFields_major50 _ h.1, major50]
  simp only [h.2.1, h.2.2.1, h.2.2.2.1, h.2.2.2.2.1, h.2.2.2.2.2.1, h.2.2.2.2.2.2]

theorem opaF32 (d : BitVec 3) (a : BitVec 5) (b : BitVec 5) (c : BitVec 5) (r : BitVec 5) : Statement (.opaF32 d a b c r) := fun _ => by
  have h := fields37 80 1 (by decide) (by decide) d a b r c (encode (.opaF32 d a b c r)) rfl
  rw [decodeFields_major50 _ h.1, major50]
  simp only [h.2.1, h.2.2.1, h.2.2.2.1, h.2.2.2.2.1, h.2.2.2.2.2.1, h.2.2.2.2.2.2]

theorem opaBf16 (d : BitVec 3) (a : BitVec 5) (b : BitVec 5) (c : BitVec 5) (r : BitVec 5) : Statement (.opaBf16 d a b c r) := fun _ => by
  have h := fields37 81 0 (by decide) (by decide) d a b r c (encode (.opaBf16 d a b c r)) rfl
  rw [decodeFields_major51 _ h.1, major51]
  simp only [h.2.1, h.2.2.1, h.2.2.2.1, h.2.2.2.2.1, h.2.2.2.2.2.1, h.2.2.2.2.2.2]

theorem opaF16 (d : BitVec 3) (a : BitVec 5) (b : BitVec 5) (c : BitVec 5) (r : BitVec 5) : Statement (.opaF16 d a b c r) := fun _ => by
  have h := fields37 81 1 (by decide) (by decide) d a b r c (encode (.opaF16 d a b c r)) rfl
  rw [decodeFields_major51 _ h.1, major51]
  simp only [h.2.1, h.2.2.1, h.2.2.2.1, h.2.2.2.2.1, h.2.2.2.2.2.1, h.2.2.2.2.2.2]

theorem opaE4m3 (d : BitVec 3) (a : BitVec 5) (b : BitVec 5) (c : BitVec 5) (r : BitVec 5) : Statement (.opaE4m3 d a b c r) := fun _ => by
  have h := fields37 82 0 (by decide) (by decide) d a b r c (encode (.opaE4m3 d a b c r)) rfl
  rw [decodeFields_major52 _ h.1, major52]
  simp only [h.2.1, h.2.2.1, h.2.2.2.1, h.2.2.2.2.1, h.2.2.2.2.2.1, h.2.2.2.2.2.2]

theorem opaE5m2 (d : BitVec 3) (a : BitVec 5) (b : BitVec 5) (c : BitVec 5) (r : BitVec 5) : Statement (.opaE5m2 d a b c r) := fun _ => by
  have h := fields37 82 1 (by decide) (by decide) d a b r c (encode (.opaE5m2 d a b c r)) rfl
  rw [decodeFields_major52 _ h.1, major52]
  simp only [h.2.1, h.2.2.1, h.2.2.2.1, h.2.2.2.2.1, h.2.2.2.2.2.1, h.2.2.2.2.2.2]

theorem opaE2m1 (d : BitVec 3) (a : BitVec 5) (b : BitVec 5) (c : BitVec 5) (r : BitVec 5) : Statement (.opaE2m1 d a b c r) := fun _ => by
  have h := fields37 83 0 (by decide) (by decide) d a b r c (encode (.opaE2m1 d a b c r)) rfl
  rw [decodeFields_major53 _ h.1, major53]
  simp only [h.2.1, h.2.2.1, h.2.2.2.1, h.2.2.2.2.1, h.2.2.2.2.2.1, h.2.2.2.2.2.2]

theorem opaI8 (d : BitVec 3) (a : BitVec 5) (b : BitVec 5) (c : BitVec 5) (r : BitVec 5) : Statement (.opaI8 d a b c r) := fun _ => by
  have h := fields37 83 1 (by decide) (by decide) d a b r c (encode (.opaI8 d a b c r)) rfl
  rw [decodeFields_major53 _ h.1, major53]
  simp only [h.2.1, h.2.2.1, h.2.2.2.1, h.2.2.2.2.1, h.2.2.2.2.2.1, h.2.2.2.2.2.2]

theorem mmsBf16 (d : BitVec 3) (v : BitVec 5) (a : BitVec 5) (b : BitVec 5) (r : BitVec 5) : Statement (.mmsBf16 d v a b r) := fun _ => by
  have h := fields37 84 0 (by decide) (by decide) d v a b r (encode (.mmsBf16 d v a b r)) rfl
  rw [decodeFields_major54 _ h.1, major54]
  simp only [h.2.1, h.2.2.1, h.2.2.2.1, h.2.2.2.2.1, h.2.2.2.2.2.1, h.2.2.2.2.2.2]

theorem mmsE4m3 (d : BitVec 3) (v : BitVec 5) (a : BitVec 5) (b : BitVec 5) (r : BitVec 5) : Statement (.mmsE4m3 d v a b r) := fun _ => by
  have h := fields37 84 1 (by decide) (by decide) d v a b r (encode (.mmsE4m3 d v a b r)) rfl
  rw [decodeFields_major54 _ h.1, major54]
  simp only [h.2.1, h.2.2.1, h.2.2.2.1, h.2.2.2.2.1, h.2.2.2.2.2.1, h.2.2.2.2.2.2]

theorem mmsE2m1 (d : BitVec 3) (v : BitVec 5) (a : BitVec 5) (b : BitVec 5) (r : BitVec 5) : Statement (.mmsE2m1 d v a b r) := fun _ => by
  have h := fields37 84 2 (by decide) (by decide) d v a b r (encode (.mmsE2m1 d v a b r)) rfl
  rw [decodeFields_major54 _ h.1, major54]
  simp only [h.2.1, h.2.2.1, h.2.2.2.1, h.2.2.2.2.1, h.2.2.2.2.2.1, h.2.2.2.2.2.2]

theorem mmsI8 (d : BitVec 3) (v : BitVec 5) (a : BitVec 5) (b : BitVec 5) (r : BitVec 5) : Statement (.mmsI8 d v a b r) := fun _ => by
  have h := fields37 84 3 (by decide) (by decide) d v a b r (encode (.mmsI8 d v a b r)) rfl
  rw [decodeFields_major54 _ h.1, major54]
  simp only [h.2.1, h.2.2.1, h.2.2.2.1, h.2.2.2.2.1, h.2.2.2.2.2.1, h.2.2.2.2.2.2]

theorem mmspBf16 (d : BitVec 3) (v : BitVec 5) (a : BitVec 5) (b : BitVec 5) (r : BitVec 5) : Statement (.mmspBf16 d v a b r) := fun _ => by
  have h := fields37 85 0 (by decide) (by decide) d v a b r (encode (.mmspBf16 d v a b r)) rfl
  rw [decodeFields_major55 _ h.1, major55]
  simp only [h.2.1, h.2.2.1, h.2.2.2.1, h.2.2.2.2.1, h.2.2.2.2.2.1, h.2.2.2.2.2.2]

theorem mmspE4m3 (d : BitVec 3) (v : BitVec 5) (a : BitVec 5) (b : BitVec 5) (r : BitVec 5) : Statement (.mmspE4m3 d v a b r) := fun _ => by
  have h := fields37 85 1 (by decide) (by decide) d v a b r (encode (.mmspE4m3 d v a b r)) rfl
  rw [decodeFields_major55 _ h.1, major55]
  simp only [h.2.1, h.2.2.1, h.2.2.2.1, h.2.2.2.2.1, h.2.2.2.2.2.1, h.2.2.2.2.2.2]

theorem mmssBf16 (d : BitVec 3) (v : BitVec 5) (a : BitVec 5) (b : BitVec 5) (r : BitVec 5) : Statement (.mmssBf16 d v a b r) := fun _ => by
  have h := fields37 86 0 (by decide) (by decide) d v a b r (encode (.mmssBf16 d v a b r)) rfl
  rw [decodeFields_major56 _ h.1, major56]
  simp only [h.2.1, h.2.2.1, h.2.2.2.1, h.2.2.2.2.1, h.2.2.2.2.2.1, h.2.2.2.2.2.2]

theorem mmssE4m3 (d : BitVec 3) (v : BitVec 5) (a : BitVec 5) (b : BitVec 5) (r : BitVec 5) : Statement (.mmssE4m3 d v a b r) := fun _ => by
  have h := fields37 86 1 (by decide) (by decide) d v a b r (encode (.mmssE4m3 d v a b r)) rfl
  rw [decodeFields_major56 _ h.1, major56]
  simp only [h.2.1, h.2.2.1, h.2.2.2.1, h.2.2.2.2.1, h.2.2.2.2.2.1, h.2.2.2.2.2.2]

theorem scacc (d : BitVec 3) (p : BitVec 3) (a : BitVec 5) (b : BitVec 5) (q : BitVec 5) : Statement (.scacc d p a b q) := fun _ => by
  have h := fields38 87 0 (by decide) (by decide) d a b q p (encode (.scacc d p a b q)) rfl
  rw [decodeFields_major57 _ h.1, major57]
  simp only [h.2.1, h.2.2.1, h.2.2.2.1, h.2.2.2.2.1, h.2.2.2.2.2.1, h.2.2.2.2.2.2]

theorem tzero (d : BitVec 3) (o : BitVec 5) (c : BitVec 5) (r : BitVec 5) : Statement (.tzero d o c r) := fun _ => by
  have h := fields39 88 0 (by decide) (by decide) d o r c (encode (.tzero d o c r)) rfl
  rw [decodeFields_major58 _ h.1, major58]
  simp only [h.2.1, h.2.2.1, h.2.2.2.1, h.2.2.2.2.1, h.2.2.2.2.2]

theorem tmov (d : BitVec 3) (v : BitVec 5) (s : BitVec 5) (m : BitVec 5) : Statement (.tmov d v s m) := fun _ => by
  have h := fields40 88 1 (by decide) (by decide) d v s m (encode (.tmov d v s m)) rfl
  rw [decodeFields_major58 _ h.1, major58]
  simp only [h.2.1, h.2.2.1, h.2.2.2.1, h.2.2.2.2.1, h.2.2.2.2.2]

theorem trd (d : BitVec 3) (b : BitVec 5) (x : BitVec 5) (c : BitVec 5) (r : BitVec 5) : Statement (.trd d b x c r) := fun _ => by
  have h := fields37 88 2 (by decide) (by decide) d b x r c (encode (.trd d b x c r)) rfl
  rw [decodeFields_major58 _ h.1, major58]
  simp only [h.2.1, h.2.2.1, h.2.2.2.1, h.2.2.2.2.1, h.2.2.2.2.2.1, h.2.2.2.2.2.2]

theorem twr (d : BitVec 3) (v : BitVec 5) (s : BitVec 5) (m : BitVec 5) : Statement (.twr d v s m) := fun _ => by
  have h := fields40 88 3 (by decide) (by decide) d v s m (encode (.twr d v s m)) rfl
  rw [decodeFields_major58 _ h.1, major58]
  simp only [h.2.1, h.2.2.1, h.2.2.2.1, h.2.2.2.2.1, h.2.2.2.2.2]

theorem tst (d : BitVec 3) (b : BitVec 5) (s : BitVec 5) (r : BitVec 5) (h : BitVec 4) : Statement (.tst d b s r h) := fun _ => by
  have h := fields41 89 0 (by decide) (by decide) d h b s r (encode (.tst d b s r h)) rfl
  rw [decodeFields_major59 _ h.1, major59]
  simp only [h.2.1, h.2.2.1, h.2.2.2.1, h.2.2.2.2.1, h.2.2.2.2.2.1, h.2.2.2.2.2.2]

theorem tldt (d : BitVec 3) (b : BitVec 5) (s : BitVec 5) (r : BitVec 5) (h : BitVec 4) : Statement (.tldt d b s r h) := fun _ => by
  have h := fields41 89 1 (by decide) (by decide) d h b s r (encode (.tldt d b s r h)) rfl
  rw [decodeFields_major59 _ h.1, major59]
  simp only [h.2.1, h.2.2.1, h.2.2.2.1, h.2.2.2.2.1, h.2.2.2.2.2.1, h.2.2.2.2.2.2]

theorem osld (a : BitVec 5) (b : BitVec 5) (h : BitVec 4) : Statement (.osld a b h) := fun _ => by
  have h := fields36 90 0 (by decide) (by decide) h a b (encode (.osld a b h)) rfl
  rw [decodeFields_major5A _ h.1, major5A]
  simp only [h.2.1, h.2.2.1, h.2.2.2.1, h.2.2.2.2]

theorem osmeta (d : BitVec 5) (a : BitVec 5) (b : BitVec 5) : Statement (.osmeta d a b) := fun _ => by
  have h := fields30 90 1 (by decide) (by decide) d a b (encode (.osmeta d a b)) rfl
  rw [decodeFields_major5A _ h.1, major5A]
  simp only [h.2.1, h.2.2.1, h.2.2.2.1, h.2.2.2.2]

theorem hnew (d : BitVec 4) (s : BitVec 5) : Statement (.hnew d s) := fun _ => by
  have h := fields42 96 0 (by decide) (by decide) d s (encode (.hnew d s)) rfl
  rw [decodeFields_major60 _ h.1, major60]
  simp only [h.2.1, h.2.2.1, h.2.2.2]

theorem hfork (d : BitVec 4) (a : BitVec 4) : Statement (.hfork d a) := fun _ => by
  have h := fields43 96 1 (by decide) (by decide) d a (encode (.hfork d a)) rfl
  rw [decodeFields_major60 _ h.1, major60]
  simp only [h.2.1, h.2.2.1, h.2.2.2]

theorem hjoin (d : BitVec 4) (a : BitVec 4) (b : BitVec 4) : Statement (.hjoin d a b) := fun _ => by
  have h := fields44 96 2 (by decide) (by decide) d a b (encode (.hjoin d a b)) rfl
  rw [decodeFields_major60 _ h.1, major60]
  simp only [h.2.1, h.2.2.1, h.2.2.2.1, h.2.2.2.2]

theorem hret (a : BitVec 4) : Statement (.hret a) := fun _ => by
  have h := fields45 96 3 (by decide) (by decide) a (encode (.hret a)) rfl
  rw [decodeFields_major60 _ h.1, major60]
  simp only [h.2.1, h.2.2]

theorem hwait (a : BitVec 4) : Statement (.hwait a) := fun _ => by
  have h := fields45 96 4 (by decide) (by decide) a (encode (.hwait a)) rfl
  rw [decodeFields_major60 _ h.1, major60]
  simp only [h.2.1, h.2.2]

theorem hscope (d : BitVec 4) (a : BitVec 4) (s : BitVec 5) : Statement (.hscope d a s) := fun _ => by
  have h := fields46 96 5 (by decide) (by decide) d a s (encode (.hscope d a s)) rfl
  rw [decodeFields_major60 _ h.1, major60]
  simp only [h.2.1, h.2.2.1, h.2.2.2.1, h.2.2.2.2]

theorem hexp (d : BitVec 5) (a : BitVec 4) : Statement (.hexp d a) := fun _ => by
  have h := fields47 96 6 (by decide) (by decide) d a (encode (.hexp d a)) rfl
  rw [decodeFields_major60 _ h.1, major60]
  simp only [h.2.1, h.2.2.1, h.2.2.2]

theorem himp (d : BitVec 4) (a : BitVec 5) : Statement (.himp d a) := fun _ => by
  have h := fields42 96 7 (by decide) (by decide) d a (encode (.himp d a)) rfl
  rw [decodeFields_major60 _ h.1, major60]
  simp only [h.2.1, h.2.2.1, h.2.2.2]

theorem amoadd (d : BitVec 5) (a : BitVec 5) (b : BitVec 5) (x : BitVec 1) (h : BitVec 4) : Statement (.amoadd d a b x h) := fun _ => by
  have h := fields48 100 0 (by decide) (by decide) d a b h x (encode (.amoadd d a b x h)) rfl
  rw [decodeFields_major64 _ h.1, major64]
  simp only [h.2.1, h.2.2.1, h.2.2.2.1, h.2.2.2.2.1, h.2.2.2.2.2.1, h.2.2.2.2.2.2]

theorem amoand (d : BitVec 5) (a : BitVec 5) (b : BitVec 5) (x : BitVec 1) (h : BitVec 4) : Statement (.amoand d a b x h) := fun _ => by
  have h := fields48 100 1 (by decide) (by decide) d a b h x (encode (.amoand d a b x h)) rfl
  rw [decodeFields_major64 _ h.1, major64]
  simp only [h.2.1, h.2.2.1, h.2.2.2.1, h.2.2.2.2.1, h.2.2.2.2.2.1, h.2.2.2.2.2.2]

theorem amoor (d : BitVec 5) (a : BitVec 5) (b : BitVec 5) (x : BitVec 1) (h : BitVec 4) : Statement (.amoor d a b x h) := fun _ => by
  have h := fields48 100 2 (by decide) (by decide) d a b h x (encode (.amoor d a b x h)) rfl
  rw [decodeFields_major64 _ h.1, major64]
  simp only [h.2.1, h.2.2.1, h.2.2.2.1, h.2.2.2.2.1, h.2.2.2.2.2.1, h.2.2.2.2.2.2]

theorem amoxor (d : BitVec 5) (a : BitVec 5) (b : BitVec 5) (x : BitVec 1) (h : BitVec 4) : Statement (.amoxor d a b x h) := fun _ => by
  have h := fields48 100 3 (by decide) (by decide) d a b h x (encode (.amoxor d a b x h)) rfl
  rw [decodeFields_major64 _ h.1, major64]
  simp only [h.2.1, h.2.2.1, h.2.2.2.1, h.2.2.2.2.1, h.2.2.2.2.2.1, h.2.2.2.2.2.2]

theorem amomin (d : BitVec 5) (a : BitVec 5) (b : BitVec 5) (x : BitVec 1) (h : BitVec 4) : Statement (.amomin d a b x h) := fun _ => by
  have h := fields48 100 4 (by decide) (by decide) d a b h x (encode (.amomin d a b x h)) rfl
  rw [decodeFields_major64 _ h.1, major64]
  simp only [h.2.1, h.2.2.1, h.2.2.2.1, h.2.2.2.2.1, h.2.2.2.2.2.1, h.2.2.2.2.2.2]

theorem amomax (d : BitVec 5) (a : BitVec 5) (b : BitVec 5) (x : BitVec 1) (h : BitVec 4) : Statement (.amomax d a b x h) := fun _ => by
  have h := fields48 100 5 (by decide) (by decide) d a b h x (encode (.amomax d a b x h)) rfl
  rw [decodeFields_major64 _ h.1, major64]
  simp only [h.2.1, h.2.2.1, h.2.2.2.1, h.2.2.2.2.1, h.2.2.2.2.2.1, h.2.2.2.2.2.2]

theorem amominn (d : BitVec 5) (a : BitVec 5) (b : BitVec 5) (x : BitVec 1) (h : BitVec 4) : Statement (.amominn d a b x h) := fun _ => by
  have h := fields48 100 6 (by decide) (by decide) d a b h x (encode (.amominn d a b x h)) rfl
  rw [decodeFields_major64 _ h.1, major64]
  simp only [h.2.1, h.2.2.1, h.2.2.2.1, h.2.2.2.2.1, h.2.2.2.2.2.1, h.2.2.2.2.2.2]

theorem amomaxn (d : BitVec 5) (a : BitVec 5) (b : BitVec 5) (x : BitVec 1) (h : BitVec 4) : Statement (.amomaxn d a b x h) := fun _ => by
  have h := fields48 100 7 (by decide) (by decide) d a b h x (encode (.amomaxn d a b x h)) rfl
  rw [decodeFields_major64 _ h.1, major64]
  simp only [h.2.1, h.2.2.1, h.2.2.2.1, h.2.2.2.2.1, h.2.2.2.2.2.1, h.2.2.2.2.2.2]

theorem amoswap (d : BitVec 5) (a : BitVec 5) (b : BitVec 5) (x : BitVec 1) (h : BitVec 4) : Statement (.amoswap d a b x h) := fun _ => by
  have h := fields48 100 8 (by decide) (by decide) d a b h x (encode (.amoswap d a b x h)) rfl
  rw [decodeFields_major64 _ h.1, major64]
  simp only [h.2.1, h.2.2.1, h.2.2.2.1, h.2.2.2.2.1, h.2.2.2.2.2.1, h.2.2.2.2.2.2]

theorem amocas (d : BitVec 5) (a : BitVec 5) (b : BitVec 5) (x : BitVec 1) (h : BitVec 4) : Statement (.amocas d a b x h) := fun _ => by
  have h := fields48 100 9 (by decide) (by decide) d a b h x (encode (.amocas d a b x h)) rfl
  rw [decodeFields_major64 _ h.1, major64]
  simp only [h.2.1, h.2.2.1, h.2.2.2.1, h.2.2.2.2.1, h.2.2.2.2.2.1, h.2.2.2.2.2.2]

theorem launch (d : BitVec 5) (a : BitVec 5) (b : BitVec 5) (h : BitVec 4) : Statement (.launch d a b h) := fun _ => by
  have h := fields33 104 0 (by decide) (by decide) d h a b (encode (.launch d a b h)) rfl
  rw [decodeFields_major68 _ h.1, major68]
  simp only [h.2.1, h.2.2.1, h.2.2.2.1, h.2.2.2.2.1, h.2.2.2.2.2]

theorem kstat (d : BitVec 5) (a : BitVec 5) (h : BitVec 4) : Statement (.kstat d a h) := fun _ => by
  have h := fields32 104 1 (by decide) (by decide) d h a (encode (.kstat d a h)) rfl
  rw [decodeFields_major68 _ h.1, major68]
  simp only [h.2.1, h.2.2.1, h.2.2.2.1, h.2.2.2.2]

theorem claim (d : BitVec 5) (a : BitVec 5) (b : BitVec 5) (h : BitVec 4) : Statement (.claim d a b h) := fun _ => by
  have h := fields33 104 2 (by decide) (by decide) d h a b (encode (.claim d a b h)) rfl
  rw [decodeFields_major68 _ h.1, major68]
  simp only [h.2.1, h.2.2.1, h.2.2.2.1, h.2.2.2.2.1, h.2.2.2.2.2]

theorem semacq (d : BitVec 5) (a : BitVec 5) (b : BitVec 5) (h : BitVec 4) : Statement (.semacq d a b h) := fun _ => by
  have h := fields33 108 0 (by decide) (by decide) d h a b (encode (.semacq d a b h)) rfl
  rw [decodeFields_major6C _ h.1, major6C]
  simp only [h.2.1, h.2.2.1, h.2.2.2.1, h.2.2.2.2.1, h.2.2.2.2.2]

theorem semrel (a : BitVec 5) (b : BitVec 5) (h : BitVec 4) : Statement (.semrel a b h) := fun _ => by
  have h := fields36 108 1 (by decide) (by decide) h a b (encode (.semrel a b h)) rfl
  rw [decodeFields_major6C _ h.1, major6C]
  simp only [h.2.1, h.2.2.1, h.2.2.2.1, h.2.2.2.2]

theorem semrd (d : BitVec 5) (a : BitVec 5) (h : BitVec 4) : Statement (.semrd d a h) := fun _ => by
  have h := fields32 108 2 (by decide) (by decide) d h a (encode (.semrd d a h)) rfl
  rw [decodeFields_major6C _ h.1, major6C]
  simp only [h.2.1, h.2.2.1, h.2.2.2.1, h.2.2.2.2]

theorem ginfo (d : BitVec 5) (a : BitVec 5) : Statement (.ginfo d a) := fun _ => by
  have h := fields35 108 3 (by decide) (by decide) d a (encode (.ginfo d a)) rfl
  rw [decodeFields_major6C _ h.1, major6C]
  simp only [h.2.1, h.2.2.1, h.2.2.2]

theorem gexit : Statement (.gexit) := fun _ => by
  have h := fields49 108 4 (by decide) (by decide) (encode (.gexit)) rfl
  rw [decodeFields_major6C _ h.1, major6C]
  simp only [h.2]

theorem hyield (d : BitVec 5) : Statement (.hyield d) := fun _ => by
  have h := fields50 108 5 (by decide) (by decide) d (encode (.hyield d)) rfl
  rw [decodeFields_major6C _ h.1, major6C]
  simp only [h.2.1, h.2.2]

theorem barinit (a : BitVec 5) (b : BitVec 5) : Statement (.barinit a b) := fun _ => by
  have h := fields51 112 0 (by decide) (by decide) a b (encode (.barinit a b)) rfl
  rw [decodeFields_major70 _ h.1, major70]
  simp only [h.2.1, h.2.2.1, h.2.2.2]

theorem bararr (d : BitVec 5) (a : BitVec 5) (h : BitVec 4) : Statement (.bararr d a h) := fun _ => by
  have h := fields32 112 1 (by decide) (by decide) d h a (encode (.bararr d a h)) rfl
  rw [decodeFields_major70 _ h.1, major70]
  simp only [h.2.1, h.2.2.1, h.2.2.2.1, h.2.2.2.2]

theorem barwait (a : BitVec 5) (b : BitVec 5) (h : BitVec 4) : Statement (.barwait a b h) := fun _ => by
  have h := fields36 112 2 (by decide) (by decide) h a b (encode (.barwait a b h)) rfl
  rw [decodeFields_major70 _ h.1, major70]
  simp only [h.2.1, h.2.2.1, h.2.2.2.1, h.2.2.2.2]

theorem bararw (d : BitVec 5) (a : BitVec 5) (h : BitVec 4) : Statement (.bararw d a h) := fun _ => by
  have h := fields32 112 3 (by decide) (by decide) d h a (encode (.bararw d a h)) rfl
  rw [decodeFields_major70 _ h.1, major70]
  simp only [h.2.1, h.2.2.1, h.2.2.2.1, h.2.2.2.2]

theorem barq (d : BitVec 5) (a : BitVec 5) : Statement (.barq d a) := fun _ => by
  have h := fields35 112 4 (by decide) (by decide) d a (encode (.barq d a)) rfl
  rw [decodeFields_major70 _ h.1, major70]
  simp only [h.2.1, h.2.2.1, h.2.2.2]

theorem xsend (a : BitVec 5) (b : BitVec 5) (h : BitVec 4) : Statement (.xsend a b h) := fun _ => by
  have h := fields36 116 0 (by decide) (by decide) h a b (encode (.xsend a b h)) rfl
  rw [decodeFields_major74 _ h.1, major74]
  simp only [h.2.1, h.2.2.1, h.2.2.2.1, h.2.2.2.2]

theorem xticket (d : BitVec 5) (a : BitVec 5) (b : BitVec 5) (h : BitVec 4) : Statement (.xticket d a b h) := fun _ => by
  have h := fields33 116 1 (by decide) (by decide) d h a b (encode (.xticket d a b h)) rfl
  rw [decodeFields_major74 _ h.1, major74]
  simp only [h.2.1, h.2.2.1, h.2.2.2.1, h.2.2.2.2.1, h.2.2.2.2.2]

theorem xtkwait (a : BitVec 5) (b : BitVec 5) (h : BitVec 4) : Statement (.xtkwait a b h) := fun _ => by
  have h := fields36 116 2 (by decide) (by decide) h a b (encode (.xtkwait a b h)) rfl
  rw [decodeFields_major74 _ h.1, major74]
  simp only [h.2.1, h.2.2.1, h.2.2.2.1, h.2.2.2.2]

theorem xpass (a : BitVec 5) (b : BitVec 5) (h : BitVec 4) : Statement (.xpass a b h) := fun _ => by
  have h := fields36 116 3 (by decide) (by decide) h a b (encode (.xpass a b h)) rfl
  rw [decodeFields_major74 _ h.1, major74]
  simp only [h.2.1, h.2.2.1, h.2.2.2.1, h.2.2.2.2]

theorem xnote (a : BitVec 5) (b : BitVec 5) (h : BitVec 4) : Statement (.xnote a b h) := fun _ => by
  have h := fields36 116 4 (by decide) (by decide) h a b (encode (.xnote a b h)) rfl
  rw [decodeFields_major74 _ h.1, major74]
  simp only [h.2.1, h.2.2.1, h.2.2.2.1, h.2.2.2.2]

theorem xquery (d : BitVec 5) (a : BitVec 5) (b : BitVec 5) : Statement (.xquery d a b) := fun _ => by
  have h := fields30 116 5 (by decide) (by decide) d a b (encode (.xquery d a b)) rfl
  rw [decodeFields_major74 _ h.1, major74]
  simp only [h.2.1, h.2.2.1, h.2.2.2.1, h.2.2.2.2]

theorem deferredTrap (h : HartId) (k : Nat) : Statement (.deferredTrap h k) := fun h => nomatch h

theorem hartWaitEnds (h : HartId) : Statement (.hartWaitEnds h) := fun h => nomatch h

theorem wfeTimeout (h : HartId) : Statement (.wfeTimeout h) := fun h => nomatch h

theorem semaphoreGrant (core sem : Nat) : Statement (.semaphoreGrant core sem) := fun h => nomatch h

theorem streamStallEnd (h : HartId) : Statement (.streamStallEnd h) := fun h => nomatch h

theorem rpubPerformed (op : Nat) : Statement (.rpubPerformed op) := fun h => nomatch h

theorem rsealPerformed (op : Nat) : Statement (.rsealPerformed op) := fun h => nomatch h

theorem rfreePerformed (op : Nat) : Statement (.rfreePerformed op) := fun h => nomatch h

theorem copyPerformed (op : Nat) : Statement (.copyPerformed op) := fun h => nomatch h

theorem copyComplete (op : Nat) : Statement (.copyComplete op) := fun h => nomatch h

theorem osldPerformed (op : Nat) : Statement (.osldPerformed op) := fun h => nomatch h

theorem mergeJobStart (op : Nat) : Statement (.mergeJobStart op) := fun h => nomatch h

theorem mergeJobComplete (op : Nat) : Statement (.mergeJobComplete op) := fun h => nomatch h

theorem mergeJobStop (op : Nat) : Statement (.mergeJobStop op) := fun h => nomatch h

theorem extentResume (op : Nat) : Statement (.extentResume op) := fun h => nomatch h

theorem nmcJobRun (op : Nat) : Statement (.nmcJobRun op) := fun h => nomatch h

theorem scanRun (op : Nat) : Statement (.scanRun op) := fun h => nomatch h

theorem hartStart (g rank : Nat) : Statement (.hartStart g rank) := fun h => nomatch h

theorem tileRampEnd (core : Nat) : Statement (.tileRampEnd core) := fun h => nomatch h

theorem launchEligible (ctx queue : Nat) : Statement (.launchEligible ctx queue) := fun h => nomatch h

theorem groupBind (die slot : Nat) : Statement (.groupBind die slot) := fun h => nomatch h

theorem kennelBindGroup (ctx queue die : Nat) (cores : List Nat) : Statement (.kennelBindGroup ctx queue die cores) := fun h => nomatch h

theorem bindRecordWrite (die slot : Nat) (rec : Option BindRecord) : Statement (.bindRecordWrite die slot rec) := fun h => nomatch h

theorem kennelPreemptRequest (g : Nat) : Statement (.kennelPreemptRequest g) := fun h => nomatch h

theorem preemptGraceExpiry (g : Nat) : Statement (.preemptGraceExpiry g) := fun h => nomatch h

theorem saveComplete (g : Nat) : Statement (.saveComplete g) := fun h => nomatch h

theorem groupResume (g : Nat) : Statement (.groupResume g) := fun h => nomatch h

theorem vectorSetEvict (h : HartId) : Statement (.vectorSetEvict h) := fun h => nomatch h

theorem groupExitComplete (g : Nat) : Statement (.groupExitComplete g) := fun h => nomatch h

theorem kennelKillGroup (ctx : Nat) (t : KillTarget) (who : Option HartId) : Statement (.kennelKillGroup ctx t who) := fun h => nomatch h

theorem kennelResumeHart (h : HartId) : Statement (.kennelResumeHart h) := fun h => nomatch h

theorem kennelReflectTrap (h : HartId) : Statement (.kennelReflectTrap h) := fun h => nomatch h

theorem kennelSuspendContext (ctx : Nat) (suspend : Bool) : Statement (.kennelSuspendContext ctx suspend) := fun h => nomatch h

theorem repartition (ctx : Nat) (part : List (List Nat)) (iters routes queues : Nat) : Statement (.repartition ctx part iters routes queues) := fun h => nomatch h

theorem kennelGrowPool (ctx die units : Nat) : Statement (.kennelGrowPool ctx die units) := fun h => nomatch h

theorem kennelShrinkPool (ctx die units : Nat) : Statement (.kennelShrinkPool ctx die units) := fun h => nomatch h

theorem machineCheck (h : HartId) (unit : Word) (shared : Bool) : Statement (.machineCheck h unit shared) := fun h => nomatch h

theorem scrub (l : RunLine) : Statement (.scrub l) := fun h => nomatch h

theorem channelRetire (die channel : Nat) : Statement (.channelRetire die channel) := fun h => nomatch h

theorem submit (ctx queue : Nat) : Statement (.submit ctx queue) := fun h => nomatch h

theorem ctrlBlock (ctx queue : Nat) : Statement (.ctrlBlock ctx queue) := fun h => nomatch h

theorem ctrlOpen (ctx queue : Nat) : Statement (.ctrlOpen ctx queue) := fun h => nomatch h

theorem ctrlDrain (ctx queue : Nat) : Statement (.ctrlDrain ctx queue) := fun h => nomatch h

theorem ctrlClear (ctx queue : Nat) : Statement (.ctrlClear ctx queue) := fun h => nomatch h

theorem ctrlDiscard (ctx queue : Nat) : Statement (.ctrlDiscard ctx queue) := fun h => nomatch h

theorem registerWrite (vf bar off : Nat) (value : Word) : Statement (.registerWrite vf bar off value) := fun h => nomatch h

theorem ctxnew (vf : Nat) : Statement (.ctxnew vf) := fun h => nomatch h

theorem ctxdel (vf : Nat) : Statement (.ctxdel vf) := fun h => nomatch h

theorem ctxsusp (vf : Nat) : Statement (.ctxsusp vf) := fun h => nomatch h

theorem ctxres (vf : Nat) : Statement (.ctxres vf) := fun h => nomatch h

theorem loadImage (vf : Nat) (img : Image) : Statement (.loadImage vf img) := fun h => nomatch h

theorem unload (vf : Nat) : Statement (.unload vf) := fun h => nomatch h

theorem rnew (vf : Nat) : Statement (.rnew vf) := fun h => nomatch h

theorem hrun (vf : Nat) : Statement (.hrun vf) := fun h => nomatch h

theorem hpub (vf : Nat) : Statement (.hpub vf) := fun h => nomatch h

theorem rread (vf : Nat) : Statement (.rread vf) := fun h => nomatch h

theorem rwrite (vf : Nat) : Statement (.rwrite vf) := fun h => nomatch h

theorem setctr (vf : Nat) : Statement (.setctr vf) := fun h => nomatch h

theorem session (vf : Nat) : Statement (.session vf) := fun h => nomatch h

theorem hext (vf : Nat) : Statement (.hext vf) := fun h => nomatch h

theorem commandDone (vf : Nat) : Statement (.commandDone vf) := fun h => nomatch h

theorem getMeasurements (vf : Nat) : Statement (.getMeasurements vf) := fun h => nomatch h

theorem getCertificate (vf : Nat) : Statement (.getCertificate vf) := fun h => nomatch h

theorem pfEnableVfs (n : Nat) : Statement (.pfEnableVfs n) := fun h => nomatch h

theorem pfSetLimits (vf : Nat) (l : Limits) : Statement (.pfSetLimits vf l) := fun h => nomatch h

theorem pfSetPowerCap (mw : Nat) : Statement (.pfSetPowerCap mw) := fun h => nomatch h

theorem coldReset (fails : Option Nat) (chip : BitVec 10) : Statement (.coldReset fails chip) := fun h => nomatch h

theorem pfHotReset (fails : Option Nat) (chip : BitVec 10) : Statement (.pfHotReset fails chip) := fun h => nomatch h

theorem vfFlr (vf : Nat) : Statement (.vfFlr vf) := fun h => nomatch h

theorem governorTick (die demand : Nat) : Statement (.governorTick die demand) := fun h => nomatch h

theorem thermalLimit (die : Nat) : Statement (.thermalLimit die) := fun h => nomatch h

theorem thermalBelow (die : Nat) : Statement (.thermalBelow die) := fun h => nomatch h

theorem thermalStop (die : Nat) : Statement (.thermalStop die) := fun h => nomatch h

theorem linkTrainStart (st : Nat) : Statement (.linkTrainStart st) := fun h => nomatch h

theorem linkTrainUp (st : Nat) : Statement (.linkTrainUp st) := fun h => nomatch h

theorem linkTrainNarrow (st lanes : Nat) : Statement (.linkTrainNarrow st lanes) := fun h => nomatch h

theorem laneFail (st : Nat) : Statement (.laneFail st) := fun h => nomatch h

theorem linkDown (st : Nat) : Statement (.linkDown st) := fun h => nomatch h

theorem watchdogSample (st : Nat) (weak : Bool) : Statement (.watchdogSample st weak) := fun h => nomatch h

theorem sessionOpen (ctx : Nat) (chip : BitVec 10) (peer : Nat) : Statement (.sessionOpen ctx chip peer) := fun h => nomatch h

theorem sessionPeerGone (ctx : Nat) (chip : BitVec 10) : Statement (.sessionPeerGone ctx chip) := fun h => nomatch h

theorem sessionRouteTimeout (ctx : Nat) (chip : BitVec 10) : Statement (.sessionRouteTimeout ctx chip) := fun h => nomatch h

theorem sessionSettled (ctx : Nat) (chip : BitVec 10) : Statement (.sessionSettled ctx chip) := fun h => nomatch h

theorem reqMsg (m : Msg) : Statement (.reqMsg m) := fun h => nomatch h

theorem trainMsg (m : Msg) : Statement (.trainMsg m) := fun h => nomatch h

theorem tailMsg (m : Msg) : Statement (.tailMsg m) := fun h => nomatch h

theorem dataMsg (m : Msg) : Statement (.dataMsg m) := fun h => nomatch h

theorem rdataMsg (m : Msg) : Statement (.rdataMsg m) := fun h => nomatch h

theorem tkreqMsg (m : Msg) : Statement (.tkreqMsg m) := fun h => nomatch h

theorem tkcallMsg (m : Msg) : Statement (.tkcallMsg m) := fun h => nomatch h

theorem noteMsg (m : Msg) : Statement (.noteMsg m) := fun h => nomatch h

theorem doneMsg (m : Msg) : Statement (.doneMsg m) := fun h => nomatch h

theorem retMsg (m : Msg) : Statement (.retMsg m) := fun h => nomatch h

theorem closeMsg (m : Msg) : Statement (.closeMsg m) := fun h => nomatch h

theorem reservedMessage (m : Msg) : Statement (.reservedMessage m) := fun h => nomatch h

theorem retSend (ctx : Nat) (chip : BitVec 10) : Statement (.retSend ctx chip) := fun h => nomatch h

theorem ualinkRead (r : UaReq) : Statement (.ualinkRead r) := fun h => nomatch h

theorem ualinkWrite (r : UaReq) : Statement (.ualinkWrite r) := fun h => nomatch h

theorem ualinkAtomic (r : UaReq) : Statement (.ualinkAtomic r) := fun h => nomatch h

theorem ualinkCompletion (d : UaDone) : Statement (.ualinkCompletion d) := fun h => nomatch h

theorem ticketCall (ctx die : Nat) : Statement (.ticketCall ctx die) := fun h => nomatch h

theorem ticketTimeout (ctx die : Nat) (number : BitVec 32) : Statement (.ticketTimeout ctx die number) := fun h => nomatch h

theorem illegalWord (w : IWord) : Statement (.illegalWord w) := fun h => nomatch h

theorem linkLevelReplay (st : Nat) (repaired : Bool) : Statement (.linkLevelReplay st repaired) := fun h => nomatch h

theorem softError (l : RunLine) (symbols : List Nat) : Statement (.softError l symbols) := fun h => nomatch h

theorem tsvGroupMarkedFailed (die stack tsv : Nat) : Statement (.tsvGroupMarkedFailed die stack tsv) := fun h => nomatch h

theorem clearingComplete (ctx : Nat) : Statement (.clearingComplete ctx) := fun h => nomatch h

end Sys2Proof.Laws.FieldsRead

end
end

