-- ==== Sys2Proof/Laws/Views.lean ====
section
/-!
SUPPORT. What making a move in someone's view does: it keeps memory's canonical form and, where nothing has been left for anyone to see
later, it changes nothing.
-/

namespace Sys2Proof.Machine

/-! ## Memory's canonical form -/

/-- Writes folded over a memory keep its canonical form. -/
theorem Memory.wf_foldl {α : Type} (f : Memory → α → Memory) (hf : ∀ m x, Memory.wf m = true → Memory.wf (f m x) = true)
    (l : List α) {m : Memory} (hm : Memory.wf m = true) : Memory.wf (l.foldl f m) = true := by
  induction l generalizing m with
  | nil => exact hm
  | cons x t ih => exact ih (hf m x hm)

theorem seenMem_wf {s : State} (h : Memory.wf s.mem = true) (k : HartId) : Memory.wf (s.seenMem k) = true :=
  Memory.wf_foldl _ (fun _ x hm => Memory.wf_write hm x.key x.old) _ h

theorem settleByte_wf (mem seen : Memory) {m : Memory} (hm : Memory.wf m = true) (k : Nat) :
    Memory.wf (settleByte mem seen m k) = true := by
  unfold settleByte
  split
  · exact Memory.wf_write hm _ _
  · exact hm

/-- An element group of a hart's vector register leaves memory. -/
@[simp] theorem setGroup_mem (s : State) (h : HartId) (reg g : Nat) (v : BitVec 128) : (s.setGroup_ h reg g v).mem = s.mem := rfl

theorem underOf_mem (r : Reader) (l : List Under) (s : State) :
    (l.foldl (fun s u => s.setGroup_ r.hart u.reg u.group u.old) s).mem = s.mem := by
  induction l generalizing s with
  | nil => rfl
  | cons u t ih => exact ih _

/-- The state that a move is made in has its memory in canonical form. -/
theorem viewed_wf {s : State} (h : Memory.wf s.mem = true) (m : Move) : Memory.wf (s.viewed m).mem = true := by
  have seen : ∀ k : HartId, Memory.wf (if s.hidden.isEmpty then s else { s with mem := s.seenMem k }).mem = true := by
    intro k
    split
    · exact h
    · exact seenMem_wf h k
  unfold State.viewed
  cases s.observer m <;> cases m.reader <;> simp only [underOf_mem] <;> first | exact h | exact seen _

theorem settleGroup_mem (s t : State) (u : Under) : (s.settleGroup t u).mem = t.mem := by
  unfold State.settleGroup
  dsimp only
  split
  · rfl
  · split <;> rfl

theorem settleGroups_mem (s : State) (l : List Under) (t : State) : (l.foldl (State.settleGroup s) t).mem = t.mem := by
  induction l generalizing t with
  | nil => rfl
  | cons u l ih => rw [List.foldl_cons, ih, settleGroup_mem]

/-- The state after a move made in a view has its memory in canonical form. -/
theorem unviewed_wf (s : State) {t : State} (h : Memory.wf t.mem = true) (m : Move) : Memory.wf (s.unviewed t m).mem = true := by
  have settled : ∀ (k : HartId) (u : State), Memory.wf u.mem = true →
      Memory.wf ((((s.hiddenFrom k).map Hidden.key).eraseDups).foldl (settleByte s.mem (s.seenMem k)) u.mem) = true :=
    fun k u hu => Memory.wf_foldl _ (fun _ x hm => settleByte_wf _ _ hm x) _ hu
  have groups : Memory.wf (match m.reader with
      | some r => (s.underOf r).foldl (State.settleGroup s) t
      | none => t).mem = true := by
    cases m.reader with
    | none => exact h
    | some r => exact (settleGroups_mem s _ t).symm ▸ h
  unfold State.unviewed
  cases s.observer m with
  | none => exact groups
  | some k =>
    dsimp only
    split
    · exact groups
    · exact settled k _ groups

/-- Marking writes for later leaves memory. -/
@[simp] theorem hide_mem (s t : State) (m : Move) (words : List (HartId × Nat)) (groups : List (Reader × Nat × Nat)) :
    (s.hide t m words groups).mem = t.mem := by
  unfold State.hide
  cases m.op?.bind t.opAt <;> cases m.reader <;> rfl

@[simp] theorem reveal_mem (s : State) (id : Nat) (h : HartId) (word : Nat) : (s.reveal id h word).mem = s.mem := rfl

/-! ## Nothing left to see -/

/-- Where every write has been seen by everyone, a move is made in the state itself. -/
theorem viewed_of_seen {s : State} (h : s.hidden = []) (hu : s.under = []) (m : Move) : s.viewed m = s := by
  unfold State.viewed
  cases s.observer m <;> cases m.reader <;> simp [h, hu, State.underOf]

theorem unviewed_of_seen {s : State} (h : s.hidden = []) (hu : s.under = []) (t : State) (m : Move) : s.unviewed t m = t := by
  unfold State.unviewed
  cases s.observer m <;> cases m.reader <;> simp [h, hu, State.underOf]

end Sys2Proof.Machine
end

