-- ==== Sys2Proof/Tests/Slice0.lean ====
section
/-!
SUPPORT. Tests: terms that are not well-formed, words written out from the spec's encodings, one-step tests of instructions with
results worked out by hand from the rules, and for every statement with hypotheses a state and operands that meet them.
-/

namespace Sys2Proof.Tests

open Sys2Proof Sys2Proof.Machine

set_option Elab.async false

/-! ## The small states that the tests use -/

/-- One hart at P, with a vector set, h0 and the tile engine, in a group of one core with a 4 KiB code area of zeros. -/
def base : State := { State.reset.loaded 0 with cur := .hart loadedId, agenda := [] }

/-- The hart of `base` changed. -/
def me (f : Hart → Hart) : State := base.setMe (f base.me)

/-- `base` with scalars set. -/
def regs (l : List (Reg × Word)) : State := l.foldl (fun s p => s.setRs p.1 p.2) base

/-- The state that an instruction leaves. -/
def after (i : Instr) (s : State) : State :=
  match exec i s with
  | .next t => t
  | _ => s

/-- Whether an instruction leaves a state. -/
def leaves (i : Instr) (s t : State) : Bool :=
  match exec i s with
  | .next u => decide (u = t)
  | _ => false

/-- An OPEN run of 64-byte records with an n64 key, one extent, 4 records appended and 2 published. -/
def run : Run :=
  { Run.reset with gen := 1, layout := BitVec.ofNat 64 (64 + 2 * 2 ^ 12), state := .opened, mapped := [2 ^ 21], len := 4, pub := 2 }

/-- `base` with that run in entry 2, and one like it in entry 3. -/
def runs : State := base.setCtx ((base.ctx.setRun 2 run).setRun 3 run)

/-- The handle of entry 2. -/
def handle : Word := runHandle runs 2 run

/-- The handle of entry 3. -/
def handle3 : Word := runHandle runs 3 run

/-- A queued operation of the hart of `base`. -/
def op (k : OpKind) : Op := ⟨0, none, .hart loadedId, 0, 0, 0, 0, .copy, 0, [], .queued, [], (0, 0, 0), [], [], k⟩

/-- Whether a check passes with a value and leaves the state as it is. -/
def passes {α : Type} [DecidableEq α] (m : M α) (x : α) (s : State) : Bool :=
  match m s with
  | .ok y t => decide (y = x) && decide (t = s)
  | .error _ _ => false

theorem of_passes {α : Type} [DecidableEq α] {m : M α} {x : α} {s : State} (h : passes m x s = true) : m s = .ok x s := by
  unfold passes at h
  split at h
  · simp only [Bool.and_eq_true, decide_eq_true_eq] at h
    simp_all
  · exact absurd h (by decide)

/-- Whether a result is a value. -/
def gives {ε α : Type} [DecidableEq α] (r : Except ε α) (x : α) : Bool :=
  match r with
  | .ok y => decide (y = x)
  | .error _ => false

theorem of_gives {ε α : Type} [DecidableEq α] {r : Except ε α} {x : α} (h : gives r x = true) : r = .ok x := by
  unfold gives at h
  split at h
  · simp_all
  · exact absurd h (by decide)

/-- Whether a result is an error. -/
def fails {ε α : Type} [DecidableEq ε] (r : Except ε α) (x : ε) : Bool :=
  match r with
  | .ok _ => false
  | .error y => decide (y = x)

theorem of_fails {ε α : Type} [DecidableEq ε] {r : Except ε α} {x : ε} (h : fails r x = true) : r = .error x := by
  unfold fails at h
  split at h
  · exact absurd h (by decide)
  · simp_all

/-! ## Terms that are not well-formed, one for each check -/

/-- A term that is refused, as a term and, where it has a word, by the decoder. -/
noncomputable def refused (i : Instr) : Bool :=
  !i.wf && (match decode (encode i) with
    | .error .illegalField => true
    | _ => false)

theorem test_refused_masks :
    refused (.vadd 1 2 3 0 24 2) = true ∧ refused (.vcmpeqI8 24 2 3 0 0) = true ∧ refused (.mand 1 24 2 0) = true ∧
    refused (.mand 1 2 24 0) = true ∧ refused (.mpopc 1 24 0) = true ∧ refused (.vldw 1 2 24 0) = true ∧
    refused (.opaF32 0 1 2 24 0) = true ∧ refused (.opaF32 0 1 2 0 24) = true ∧ refused (.mmsI8 0 1 2 0 31) = true ∧
    refused (.tst 0 1 2 24 0) = true := by
  decide +kernel

theorem test_refused_numbers :
    refused (.jtab 1 2 3 0) = true ∧ refused (.loop 1 8) = true ∧ refused (.endloop 31) = true ∧ refused (.ld 1 2 0 7 0) = true ∧
    refused (.st 1 2 0 4 0) = true ∧ refused (.csrr 1 0x000) = true ∧ refused (.csrw 1 0x00A) = true ∧
    refused (.csrset 1 0x014) = true ∧ refused (.csrclr 1 0x104) = true ∧ refused (.setvl 1 2 5) = true ∧
    refused (.setvli 1 2 0 7) = true ∧ refused (.hnew 1 6) = true ∧ refused (.hscope 1 2 31) = true := by
  decide +kernel

theorem test_refused_vectors :
    refused (.vcvt 1 2 8 0 0 8) = true ∧ refused (.vcvt 1 2 0 2 0 1) = true ∧ refused (.vhad 9 8 0 0) = true ∧
    refused (.vhad 8 9 0 0) = true ∧ refused (.vhad 8 16 0 12) = true ∧ refused (.vhadc 1 0) = true ∧
    refused (.vhadc 8 12) = true ∧ refused (.vcvtb 0 8 0) = true ∧ refused (.vcvtb 31 8 0) = true ∧
    refused (.vcvtb 1 8 2) = true ∧ refused (.vcvtb 1 9 0) = true ∧ refused (.vgauss 1 2 31 0) = true ∧
    refused (.tzero 0 2 0 0) = true := by
  decide +kernel

theorem test_well_formed :
    (Instr.vadd 1 2 3 0 23 2).wf = true ∧ (Instr.loop 1 7).wf = true ∧ (Instr.csrr 1 0x103).wf = true ∧
    (Instr.ld 1 2 0 6 0).wf = true ∧ (Instr.vhad 8 24 0 11).wf = true ∧ (Instr.hnew 1 5).wf = true := by
  decide +kernel

/-! ## Words written out from the encoding table -/

theorem test_words_of_major_01_0 :
    decode 0b0000000000_10101_00110_10011_0000001#32 = .ok (.add 19 6 21) ∧
    decode 0b0000000001_10101_00110_10011_0000001#32 = .ok (.sub 19 6 21) ∧
    decode 0b0000000010_10101_00110_10011_0000001#32 = .ok (.and 19 6 21) ∧
    decode 0b0000000011_10101_00110_10011_0000001#32 = .ok (.or 19 6 21) ∧
    decode 0b0000000100_10101_00110_10011_0000001#32 = .ok (.xor 19 6 21) ∧
    decode 0b0000000101_10101_00110_10011_0000001#32 = .ok (.andn 19 6 21) ∧
    decode 0b0000000110_10101_00110_10011_0000001#32 = .ok (.sll 19 6 21) ∧
    decode 0b0000000111_10101_00110_10011_0000001#32 = .ok (.srl 19 6 21) ∧
    decode 0b0000001000_10101_00110_10011_0000001#32 = .ok (.sra 19 6 21) ∧
    decode 0b0000001001_10101_00110_10011_0000001#32 = .ok (.rol 19 6 21) ∧
    decode 0b0000001010_10101_00110_10011_0000001#32 = .ok (.ror 19 6 21) ∧
    decode 0b0000001011_10101_00110_10011_0000001#32 = .ok (.slt 19 6 21) ∧
    decode 0b0000001100_10101_00110_10011_0000001#32 = .ok (.sltn 19 6 21) ∧
    decode 0b0000001101_10101_00110_10011_0000001#32 = .ok (.min 19 6 21) ∧
    decode 0b0000001110_10101_00110_10011_0000001#32 = .ok (.max 19 6 21) ∧
    decode 0b0000001111_10101_00110_10011_0000001#32 = .ok (.minn 19 6 21) := by
  refine ⟨?_, ?_, ?_, ?_, ?_, ?_, ?_, ?_, ?_, ?_, ?_, ?_, ?_, ?_, ?_, ?_⟩ <;> rfl

theorem test_words_of_major_01_1 :
    decode 0b0000010000_10101_00110_10011_0000001#32 = .ok (.maxn 19 6 21) := by
  rfl

theorem test_words_of_major_02 :
    decode 0b0000000000_10101_00110_10011_0000010#32 = .ok (.mul 19 6 21) ∧
    decode 0b0000000001_10101_00110_10011_0000010#32 = .ok (.mulh 19 6 21) ∧
    decode 0b0000000010_10101_00110_10011_0000010#32 = .ok (.mulhn 19 6 21) ∧
    decode 0b0000000011_10101_00110_10011_0000010#32 = .ok (.div 19 6 21) ∧
    decode 0b0000000100_10101_00110_10011_0000010#32 = .ok (.divn 19 6 21) ∧
    decode 0b0000000101_10101_00110_10011_0000010#32 = .ok (.rem 19 6 21) ∧
    decode 0b0000000110_10101_00110_10011_0000010#32 = .ok (.remn 19 6 21) ∧
    decode 0b000000011100000_00110_10011_0000010#32 = .ok (.clz 19 6) ∧
    decode 0b000000100000000_00110_10011_0000010#32 = .ok (.ctz 19 6) ∧
    decode 0b000000100100000_00110_10011_0000010#32 = .ok (.popc 19 6) ∧
    decode 0b000000101000000_00110_10011_0000010#32 = .ok (.brev 19 6) := by
  refine ⟨?_, ?_, ?_, ?_, ?_, ?_, ?_, ?_, ?_, ?_, ?_⟩ <;> rfl

theorem test_words_of_major_03 :
    decode 0b010110010101011_00110_10011_0000011#32 = .ok (.addi 19 6 11435) := by
  rfl

theorem test_words_of_major_04 :
    decode 0b010110010101011_00110_10011_0000100#32 = .ok (.andi 19 6 11435) := by
  rfl

theorem test_words_of_major_05 :
    decode 0b010110010101011_00110_10011_0000101#32 = .ok (.ori 19 6 11435) := by
  rfl

theorem test_words_of_major_06 :
    decode 0b010110010101011_00110_10011_0000110#32 = .ok (.xori 19 6 11435) := by
  rfl

theorem test_words_of_major_07 :
    decode 0b000000000_101011_00110_10011_0000111#32 = .ok (.slli 19 6 43) := by
  rfl

theorem test_words_of_major_08 :
    decode 0b000000000_101011_00110_10011_0001000#32 = .ok (.srli 19 6 43) := by
  rfl

theorem test_words_of_major_09 :
    decode 0b000000000_101011_00110_10011_0001001#32 = .ok (.srai 19 6 43) := by
  rfl

theorem test_words_of_major_0A :
    decode 0b010110010101011_00110_10011_0001010#32 = .ok (.slti 19 6 11435) := by
  rfl

theorem test_words_of_major_0B :
    decode 0b10011010110010101011_10011_0001011#32 = .ok (.lui 19 634027) := by
  rfl

theorem test_words_of_major_0C :
    decode 0b10011010110010101011_10011_0001100#32 = .ok (.auipc 19 634027) := by
  rfl

theorem test_words_of_major_0D :
    decode 0b010110010101011_00110_10011_0001101#32 = .ok (.beq 19 6 11435) := by
  rfl

theorem test_words_of_major_0E :
    decode 0b010110010101011_00110_10011_0001110#32 = .ok (.bne 19 6 11435) := by
  rfl

theorem test_words_of_major_0F :
    decode 0b010110010101011_00110_10011_0001111#32 = .ok (.blt 19 6 11435) := by
  rfl

theorem test_words_of_major_10 :
    decode 0b010110010101011_00110_10011_0010000#32 = .ok (.bge 19 6 11435) := by
  rfl

theorem test_words_of_major_11 :
    decode 0b010110010101011_00110_10011_0010001#32 = .ok (.bltn 19 6 11435) := by
  rfl

theorem test_words_of_major_12 :
    decode 0b010110010101011_00110_10011_0010010#32 = .ok (.bgen 19 6 11435) := by
  rfl

theorem test_words_of_major_13 :
    decode 0b10011010110010101011_10011_0010011#32 = .ok (.jal 19 634027) := by
  rfl

theorem test_words_of_major_14 :
    decode 0b010110010101011_00110_10011_0010100#32 = .ok (.jalr 19 6 11435) := by
  rfl

theorem test_words_of_major_15 :
    decode 0b0010101011_10101_00110_10011_0010101#32 = .ok (.jtab 19 6 21 171) := by
  rfl

theorem test_words_of_major_16 :
    decode 0b00000_01001_10101_00110_10011_0010110#32 = .ok (.waitc 6 21 19 9) := by
  rfl

theorem test_words_of_major_17 :
    decode 0b0000000000_00110_10011_000000010111#32 = .ok (.fork 19 6) ∧
    decode 0b00000000010000000000000000010111#32 = .ok (.rdv) ∧
    decode 0b00000000100000000000_10011_0010111#32 = .ok (.rdcyc 19) ∧
    decode 0b000000001100000_00110_00110_0010111#32 = .ok (.loop 6 6) ∧
    decode 0b00000001000000000000_00110_0010111#32 = .ok (.endloop 6) := by
  refine ⟨?_, ?_, ?_, ?_, ?_⟩ <;> rfl

theorem test_words_of_major_18 :
    decode 0b10101011_101_1101_00110_10011_0011000#32 = .ok (.ld 19 6 171 5 13) := by
  rfl

theorem test_words_of_major_19 :
    decode 0b10101011_010_1101_00110_10011_0011001#32 = .ok (.st 19 6 171 2 13) := by
  rfl

theorem test_words_of_major_1C :
    decode 0b000000000000000_10011_000000011100#32 = .ok (.trap 19) ∧
    decode 0b00000000010000000000000000011100#32 = .ok (.eret) ∧
    decode 0b000000001000000_10011_000000011100#32 = .ok (.sysc 19) ∧
    decode 0b00000000110000000000000000011100#32 = .ok (.brk) ∧
    decode 0b000000010000000_00110_10011_0011100#32 = .ok (.wfe 19 6) ∧
    decode 0b00000001010000000000000000011100#32 = .ok (.halth) := by
  refine ⟨?_, ?_, ?_, ?_, ?_, ?_⟩ <;> rfl

theorem test_words_of_major_1D :
    decode 0b000_000100000011_00000_10011_0011101#32 = .ok (.csrr 19 259) ∧
    decode 0b001_000000010011_10011_000000011101#32 = .ok (.csrw 19 19) ∧
    decode 0b010_000000001001_10011_000000011101#32 = .ok (.csrset 19 9) ∧
    decode 0b011_000000000001_10011_000000011101#32 = .ok (.csrclr 19 1) := by
  refine ⟨?_, ?_, ?_, ?_⟩ <;> rfl

theorem test_words_of_major_20 :
    decode 0b000_10_01001_10101_00110_10011_01000_10#32 = .ok (.vadd 19 6 21 2 9 2) ∧
    decode 0b001_10_01001_10101_00110_10011_01000_10#32 = .ok (.vsub 19 6 21 2 9 2) ∧
    decode 0b010_10_01001_10101_00110_10011_01000_10#32 = .ok (.vmul 19 6 21 2 9 2) ∧
    decode 0b011_10_01001_10101_00110_10011_01000_10#32 = .ok (.vmulh 19 6 21 2 9 2) ∧
    decode 0b100_10_01001_10101_00110_10011_01000_10#32 = .ok (.vmin 19 6 21 2 9 2) ∧
    decode 0b101_10_01001_10101_00110_10011_01000_10#32 = .ok (.vmax 19 6 21 2 9 2) ∧
    decode 0b110_10_01001_10101_00110_10011_01000_10#32 = .ok (.vminn 19 6 21 2 9 2) ∧
    decode 0b111_10_01001_10101_00110_10011_01000_10#32 = .ok (.vmaxn 19 6 21 2 9 2) := by
  refine ⟨?_, ?_, ?_, ?_, ?_, ?_, ?_, ?_⟩ <;> rfl

theorem test_words_of_major_24 :
    decode 0b000_10_01001_10101_00110_10011_01001_10#32 = .ok (.vand 19 6 21 2 9 2) ∧
    decode 0b001_10_01001_10101_00110_10011_01001_10#32 = .ok (.vor 19 6 21 2 9 2) ∧
    decode 0b010_10_01001_10101_00110_10011_01001_10#32 = .ok (.vxor 19 6 21 2 9 2) ∧
    decode 0b011_10_01001_10101_00110_10011_01001_10#32 = .ok (.vsll 19 6 21 2 9 2) ∧
    decode 0b100_10_01001_10101_00110_10011_01001_10#32 = .ok (.vsrl 19 6 21 2 9 2) ∧
    decode 0b101_10_01001_10101_00110_10011_01001_10#32 = .ok (.vsra 19 6 21 2 9 2) ∧
    decode 0b110_10_01001_10101_00110_10011_01001_10#32 = .ok (.vadds 19 6 21 2 9 2) ∧
    decode 0b111_10_01001_10101_00110_10011_01001_10#32 = .ok (.vsubs 19 6 21 2 9 2) := by
  refine ⟨?_, ?_, ?_, ?_, ?_, ?_, ?_, ?_⟩ <;> rfl

theorem test_words_of_major_28 :
    decode 0b000_10_01001_10101_00110_10011_0101000#32 = .ok (.vwaddI8 19 6 21 2 9) ∧
    decode 0b001_10_01001_10101_00110_10011_0101000#32 = .ok (.vwaddI16 19 6 21 2 9) ∧
    decode 0b010_10_01001_10101_00110_10011_0101000#32 = .ok (.vwaddI32 19 6 21 2 9) ∧
    decode 0b011_10_01001_10101_00110_10011_0101000#32 = .ok (.vwaddN8 19 6 21 2 9) ∧
    decode 0b100_10_01001_10101_00110_10011_0101000#32 = .ok (.vwaddN16 19 6 21 2 9) ∧
    decode 0b101_10_01001_10101_00110_10011_0101000#32 = .ok (.vwaddN32 19 6 21 2 9) ∧
    decode 0b110_10_01001_10101_00110_10011_0101000#32 = .ok (.vwmacI8 19 6 21 2 9) ∧
    decode 0b111_10_01001_10101_00110_10011_0101000#32 = .ok (.vwmacI16 19 6 21 2 9) := by
  refine ⟨?_, ?_, ?_, ?_, ?_, ?_, ?_, ?_⟩ <;> rfl

theorem test_words_of_major_29 :
    decode 0b000_10_01001_10101_00110_10011_0101001#32 = .ok (.vfaddF64 19 6 21 2 9) ∧
    decode 0b001_10_01001_10101_00110_10011_0101001#32 = .ok (.vfsubF64 19 6 21 2 9) ∧
    decode 0b010_10_01001_10101_00110_10011_0101001#32 = .ok (.vfmulF64 19 6 21 2 9) ∧
    decode 0b011_10_01001_10101_00110_10011_0101001#32 = .ok (.vfmaF64 19 6 21 2 9) ∧
    decode 0b100_10_01001_10101_00110_10011_0101001#32 = .ok (.vfminF64 19 6 21 2 9) ∧
    decode 0b101_10_01001_10101_00110_10011_0101001#32 = .ok (.vfmaxF64 19 6 21 2 9) ∧
    decode 0b110_10_01001_10101_00110_10011_0101001#32 = .ok (.vfdivF64 19 6 21 2 9) ∧
    decode 0b11100_10101_00000_00110_10011_0101001#32 = .ok (.vfsqrtF64 19 6 21) := by
  refine ⟨?_, ?_, ?_, ?_, ?_, ?_, ?_, ?_⟩ <;> rfl

theorem test_words_of_major_2A :
    decode 0b000_10_01001_10101_00110_10011_0101010#32 = .ok (.vfaddF32 19 6 21 2 9) ∧
    decode 0b001_10_01001_10101_00110_10011_0101010#32 = .ok (.vfsubF32 19 6 21 2 9) ∧
    decode 0b010_10_01001_10101_00110_10011_0101010#32 = .ok (.vfmulF32 19 6 21 2 9) ∧
    decode 0b011_10_01001_10101_00110_10011_0101010#32 = .ok (.vfmaF32 19 6 21 2 9) ∧
    decode 0b100_10_01001_10101_00110_10011_0101010#32 = .ok (.vfminF32 19 6 21 2 9) ∧
    decode 0b101_10_01001_10101_00110_10011_0101010#32 = .ok (.vfmaxF32 19 6 21 2 9) ∧
    decode 0b110_10_01001_10101_00110_10011_0101010#32 = .ok (.vfdivF32 19 6 21 2 9) ∧
    decode 0b11100_10101_00000_00110_10011_0101010#32 = .ok (.vfsqrtF32 19 6 21) := by
  refine ⟨?_, ?_, ?_, ?_, ?_, ?_, ?_, ?_⟩ <;> rfl

theorem test_words_of_major_2B :
    decode 0b000_10_01001_10101_00110_10011_0101011#32 = .ok (.vfaddBf16 19 6 21 2 9) ∧
    decode 0b001_10_01001_10101_00110_10011_0101011#32 = .ok (.vfsubBf16 19 6 21 2 9) ∧
    decode 0b010_10_01001_10101_00110_10011_0101011#32 = .ok (.vfmulBf16 19 6 21 2 9) ∧
    decode 0b011_10_01001_10101_00110_10011_0101011#32 = .ok (.vfmaBf16 19 6 21 2 9) ∧
    decode 0b100_10_01001_10101_00110_10011_0101011#32 = .ok (.vfminBf16 19 6 21 2 9) ∧
    decode 0b101_10_01001_10101_00110_10011_0101011#32 = .ok (.vfmaxBf16 19 6 21 2 9) ∧
    decode 0b110_10_01001_10101_00110_10011_0101011#32 = .ok (.vfdivBf16 19 6 21 2 9) ∧
    decode 0b11100_10101_00000_00110_10011_0101011#32 = .ok (.vfsqrtBf16 19 6 21) := by
  refine ⟨?_, ?_, ?_, ?_, ?_, ?_, ?_, ?_⟩ <;> rfl

theorem test_words_of_major_2C :
    decode 0b000_10_01001_10101_00110_10011_0101100#32 = .ok (.vfaddF16 19 6 21 2 9) ∧
    decode 0b001_10_01001_10101_00110_10011_0101100#32 = .ok (.vfsubF16 19 6 21 2 9) ∧
    decode 0b010_10_01001_10101_00110_10011_0101100#32 = .ok (.vfmulF16 19 6 21 2 9) ∧
    decode 0b011_10_01001_10101_00110_10011_0101100#32 = .ok (.vfmaF16 19 6 21 2 9) ∧
    decode 0b100_10_01001_10101_00110_10011_0101100#32 = .ok (.vfminF16 19 6 21 2 9) ∧
    decode 0b101_10_01001_10101_00110_10011_0101100#32 = .ok (.vfmaxF16 19 6 21 2 9) ∧
    decode 0b110_10_01001_10101_00110_10011_0101100#32 = .ok (.vfdivF16 19 6 21 2 9) ∧
    decode 0b11100_10101_00000_00110_10011_0101100#32 = .ok (.vfsqrtF16 19 6 21) := by
  refine ⟨?_, ?_, ?_, ?_, ?_, ?_, ?_, ?_⟩ <;> rfl

theorem test_words_of_major_2D :
    decode 0b00000_10101_00000_00110_10011_0101101#32 = .ok (.vfrecip 19 6 21) ∧
    decode 0b00100_10101_00000_00110_10011_0101101#32 = .ok (.vfrsqrt 19 6 21) ∧
    decode 0b01000_10101_00000_00110_10011_0101101#32 = .ok (.vfexp2 19 6 21) ∧
    decode 0b01100_10101_00000_00110_10011_0101101#32 = .ok (.vflog2 19 6 21) ∧
    decode 0b10000_10101_00000_00110_10011_0101101#32 = .ok (.vfabs 19 6 21) ∧
    decode 0b10100_10101_00000_00110_10011_0101101#32 = .ok (.vfneg 19 6 21) ∧
    decode 0b11000_10101_00000_00110_10011_0101101#32 = .ok (.vfclass 19 6 21) ∧
    decode 0b111_10_01001_10101_00110_10011_0101101#32 = .ok (.vfsgnj 19 6 21 2 9) := by
  refine ⟨?_, ?_, ?_, ?_, ?_, ?_, ?_, ?_⟩ <;> rfl

theorem test_words_of_major_2E :
    decode 0b000_10_01001_10101_00110_10011_0101110#32 = .ok (.vcmpeqI8 19 6 21 2 9) ∧
    decode 0b001_10_01001_10101_00110_10011_0101110#32 = .ok (.vcmpneI8 19 6 21 2 9) ∧
    decode 0b010_10_01001_10101_00110_10011_0101110#32 = .ok (.vcmpltI8 19 6 21 2 9) ∧
    decode 0b011_10_01001_10101_00110_10011_0101110#32 = .ok (.vcmpleI8 19 6 21 2 9) ∧
    decode 0b100_10_01001_10101_00110_10011_0101110#32 = .ok (.vcmpltnI8 19 6 21 2 9) ∧
    decode 0b101_10_01001_10101_00110_10011_0101110#32 = .ok (.vcmplenI8 19 6 21 2 9) ∧
    decode 0b11000_10101_00110_00000_10011_0101110#32 = .ok (.vboundI8 19 6 21) := by
  refine ⟨?_, ?_, ?_, ?_, ?_, ?_, ?_⟩ <;> rfl

theorem test_words_of_major_2F :
    decode 0b000_10_01001_10101_00110_10011_0101111#32 = .ok (.vcmpeqI16 19 6 21 2 9) ∧
    decode 0b001_10_01001_10101_00110_10011_0101111#32 = .ok (.vcmpneI16 19 6 21 2 9) ∧
    decode 0b010_10_01001_10101_00110_10011_0101111#32 = .ok (.vcmpltI16 19 6 21 2 9) ∧
    decode 0b011_10_01001_10101_00110_10011_0101111#32 = .ok (.vcmpleI16 19 6 21 2 9) ∧
    decode 0b100_10_01001_10101_00110_10011_0101111#32 = .ok (.vcmpltnI16 19 6 21 2 9) ∧
    decode 0b101_10_01001_10101_00110_10011_0101111#32 = .ok (.vcmplenI16 19 6 21 2 9) ∧
    decode 0b11000_10101_00110_00000_10011_0101111#32 = .ok (.vboundI16 19 6 21) := by
  refine ⟨?_, ?_, ?_, ?_, ?_, ?_, ?_⟩ <;> rfl

theorem test_words_of_major_30 :
    decode 0b000_10_01001_10101_00110_10011_0110000#32 = .ok (.vcmpeqI32 19 6 21 2 9) ∧
    decode 0b001_10_01001_10101_00110_10011_0110000#32 = .ok (.vcmpneI32 19 6 21 2 9) ∧
    decode 0b010_10_01001_10101_00110_10011_0110000#32 = .ok (.vcmpltI32 19 6 21 2 9) ∧
    decode 0b011_10_01001_10101_00110_10011_0110000#32 = .ok (.vcmpleI32 19 6 21 2 9) ∧
    decode 0b100_10_01001_10101_00110_10011_0110000#32 = .ok (.vcmpltnI32 19 6 21 2 9) ∧
    decode 0b101_10_01001_10101_00110_10011_0110000#32 = .ok (.vcmplenI32 19 6 21 2 9) ∧
    decode 0b11000_10101_00110_00000_10011_0110000#32 = .ok (.vboundI32 19 6 21) := by
  refine ⟨?_, ?_, ?_, ?_, ?_, ?_, ?_⟩ <;> rfl

theorem test_words_of_major_31 :
    decode 0b000_10_01001_10101_00110_10011_0110001#32 = .ok (.vcmpeqI64 19 6 21 2 9) ∧
    decode 0b001_10_01001_10101_00110_10011_0110001#32 = .ok (.vcmpneI64 19 6 21 2 9) ∧
    decode 0b010_10_01001_10101_00110_10011_0110001#32 = .ok (.vcmpltI64 19 6 21 2 9) ∧
    decode 0b011_10_01001_10101_00110_10011_0110001#32 = .ok (.vcmpleI64 19 6 21 2 9) ∧
    decode 0b100_10_01001_10101_00110_10011_0110001#32 = .ok (.vcmpltnI64 19 6 21 2 9) ∧
    decode 0b101_10_01001_10101_00110_10011_0110001#32 = .ok (.vcmplenI64 19 6 21 2 9) ∧
    decode 0b11000_10101_00110_00000_10011_0110001#32 = .ok (.vboundI64 19 6 21) := by
  refine ⟨?_, ?_, ?_, ?_, ?_, ?_, ?_⟩ <;> rfl

theorem test_words_of_major_32 :
    decode 0b000_10_01001_10101_00110_10011_0110010#32 = .ok (.vfcmpeqF32 19 6 21 2 9) ∧
    decode 0b001_10_01001_10101_00110_10011_0110010#32 = .ok (.vfcmpltF32 19 6 21 2 9) ∧
    decode 0b010_10_01001_10101_00110_10011_0110010#32 = .ok (.vfcmpleF32 19 6 21 2 9) ∧
    decode 0b011_10_01001_10101_00110_10011_0110010#32 = .ok (.vfcmpunF32 19 6 21 2 9) ∧
    decode 0b100_10_01001_10101_00110_10011_0110010#32 = .ok (.vfcmpeqF64 19 6 21 2 9) ∧
    decode 0b101_10_01001_10101_00110_10011_0110010#32 = .ok (.vfcmpltF64 19 6 21 2 9) ∧
    decode 0b110_10_01001_10101_00110_10011_0110010#32 = .ok (.vfcmpleF64 19 6 21 2 9) ∧
    decode 0b111_10_01001_10101_00110_10011_0110010#32 = .ok (.vfcmpunF64 19 6 21 2 9) := by
  refine ⟨?_, ?_, ?_, ?_, ?_, ?_, ?_, ?_⟩ <;> rfl

theorem test_words_of_major_33 :
    decode 0b00000_01001_10101_00110_10011_0110011#32 = .ok (.mand 19 6 21 9) ∧
    decode 0b00100_01001_10101_00110_10011_0110011#32 = .ok (.mor 19 6 21 9) ∧
    decode 0b01000_01001_10101_00110_10011_0110011#32 = .ok (.mxor 19 6 21 9) ∧
    decode 0b01100_01001_10101_00110_10011_0110011#32 = .ok (.mandn 19 6 21 9) ∧
    decode 0b10000_10101_00000_00110_10011_0110011#32 = .ok (.mnot 19 6 21) ∧
    decode 0b10100_10101_00000_00110_10011_0110011#32 = .ok (.mpopc 19 6 21) ∧
    decode 0b11000_10101_00000_00110_10011_0110011#32 = .ok (.mfirst 19 6 21) ∧
    decode 0b11100_10101_00000_00110_10011_0110011#32 = .ok (.msetvl 19 6 21) := by
  refine ⟨?_, ?_, ?_, ?_, ?_, ?_, ?_, ?_⟩ <;> rfl

theorem test_words_of_major_34 :
    decode 0b000_10_01001_10101_00110_10011_0110100#32 = .ok (.vpermx 19 6 21 2 9) ∧
    decode 0b00100_01001_10101_00110_10011_0110100#32 = .ok (.vslideup 19 6 21 9) ∧
    decode 0b01000_01001_10101_00110_10011_0110100#32 = .ok (.vslidedn 19 6 21 9) ∧
    decode 0b01100_10101_00000_00110_10011_0110100#32 = .ok (.vcompress 19 6 21) ∧
    decode 0b10000_10101_00000_00110_10011_0110100#32 = .ok (.vexpand 19 6 21) ∧
    decode 0b10100_01001_10101_00110_10011_0110100#32 = .ok (.vbcast 19 6 21 9) ∧
    decode 0b1100000000_10101_00110_10011_0110100#32 = .ok (.vextr 19 6 21) ∧
    decode 0b1110000000_10101_00110_10011_0110100#32 = .ok (.vins 19 6 21) := by
  refine ⟨?_, ?_, ?_, ?_, ?_, ?_, ?_, ?_⟩ <;> rfl

theorem test_words_of_major_35 :
    decode 0b00000_10101_00000_00110_10011_0110101#32 = .ok (.vscanI32 19 6 21) ∧
    decode 0b00100_10101_00000_00110_10011_0110101#32 = .ok (.vscanI64 19 6 21) ∧
    decode 0b01000_10101_00000_00110_10011_0110101#32 = .ok (.vscanF32 19 6 21) ∧
    decode 0b01100_10101_00000_00110_10011_0110101#32 = .ok (.vredsumI32 19 6 21) ∧
    decode 0b10000_10101_00000_00110_10011_0110101#32 = .ok (.vredsumI64 19 6 21) ∧
    decode 0b10100_10101_00000_00110_10011_0110101#32 = .ok (.vredsumF32 19 6 21) ∧
    decode 0b11000_10101_00000_00110_10011_0110101#32 = .ok (.vredmaxI32 19 6 21) ∧
    decode 0b11100_10101_00000_00110_10011_0110101#32 = .ok (.vredmaxF32 19 6 21) := by
  refine ⟨?_, ?_, ?_, ?_, ?_, ?_, ?_, ?_⟩ <;> rfl

theorem test_words_of_major_36 :
    decode 0b01100_10_1101_1001_00110_10011_0110110#32 = .ok (.vcvt 19 6 9 2 12 13) := by
  rfl

theorem test_words_of_major_37 :
    decode 0b00000_01001_01011_01000_10000_0110111#32 = .ok (.vhad 16 8 9 11) ∧
    decode 0b0010000000_00101_11000_000000110111#32 = .ok (.vhadc 24 5) ∧
    decode 0b0100000000_00001_01000_10011_0110111#32 = .ok (.vcvtb 19 8 1) ∧
    decode 0b01100_01001_10101_00110_10011_0110111#32 = .ok (.vgauss 19 6 21 9) := by
  refine ⟨?_, ?_, ?_, ?_⟩ <;> rfl

theorem test_words_of_major_38 :
    decode 0b0_1111_10101_00000_00110_10011_0111000#32 = .ok (.vld 19 6 21 15) ∧
    decode 0b1_0001_01001_10101_00110_10011_0111000#32 = .ok (.vlds 19 6 21 9 1) := by
  refine ⟨?_, ?_⟩ <;> rfl

theorem test_words_of_major_39 :
    decode 0b0_0001_01001_10101_00110_10011_0111001#32 = .ok (.vldx 19 6 21 9 1) ∧
    decode 0b1_1111_10101_00000_00110_10011_0111001#32 = .ok (.vldff 19 6 21 15) := by
  refine ⟨?_, ?_⟩ <;> rfl

theorem test_words_of_major_3A :
    decode 0b0_1111_10101_00000_00110_10011_0111010#32 = .ok (.vst 19 6 21 15) ∧
    decode 0b1_0001_01001_10101_00110_10011_0111010#32 = .ok (.vsts 19 6 21 9 1) := by
  refine ⟨?_, ?_⟩ <;> rfl

theorem test_words_of_major_3B :
    decode 0b0_0001_01001_10101_00110_10011_0111011#32 = .ok (.vstx 19 6 21 9 1) ∧
    decode 0b1_0001_01001_10101_00110_10011_0111011#32 = .ok (.vstxadd 19 6 21 9 1) := by
  refine ⟨?_, ?_⟩ <;> rfl

theorem test_words_of_major_3C :
    decode 0b000000000000000_10011_000000111100#32 = .ok (.vfetch 19) ∧
    decode 0b00100_00110_00000_10011_000000111100#32 = .ok (.tfetch 19 6) ∧
    decode 0b01000000000000000000000000111100#32 = .ok (.stop) ∧
    decode 0b01100000000000000000000000111100#32 = .ok (.vjoin) ∧
    decode 0b10000000000000000000000000111100#32 = .ok (.vrelease) ∧
    decode 0b1010000000_10011_00000000000111100#32 = .ok (.vloop 19) ∧
    decode 0b11000000000000000000000000111100#32 = .ok (.vagain) := by
  refine ⟨?_, ?_, ?_, ?_, ?_, ?_, ?_⟩ <;> rfl

theorem test_words_of_major_3D :
    decode 0b000000000000_100_00110_10011_0111101#32 = .ok (.setvl 19 6 4) ∧
    decode 0b1_10010101011_011_00110_10011_0111101#32 = .ok (.setvli 19 6 1195 3) := by
  refine ⟨?_, ?_⟩ <;> rfl

theorem test_words_of_major_40 :
    decode 0b000000_10101_00110_0000_10011_1000000#32 = .ok (.ropen 19 6 21) ∧
    decode 0b00000100000_00110_1001_000001000000#32 = .ok (.rpub 6 9) ∧
    decode 0b00001000000_00110_1001_000001000000#32 = .ok (.rseal 6 9) ∧
    decode 0b00001100000_00110_1001_000001000000#32 = .ok (.rfree 6 9) ∧
    decode 0b00010000000_10101_1011_10011_1000000#32 = .ok (.rlen 19 21 11) ∧
    decode 0b000101_10101_00110_0000_10011_1000000#32 = .ok (.rinfo 19 6 21) := by
  refine ⟨?_, ?_, ?_, ?_, ?_, ?_⟩ <;> rfl

theorem test_words_of_major_41 :
    decode 0b000000_01001_10101_1011_10011_1000001#32 = .ok (.sbind 19 21 9 11) ∧
    decode 0b0000010000000000_1011_10011_1000001#32 = .ok (.sunbind 19 11) ∧
    decode 0b00001000000_00110_0000_10011_1000001#32 = .ok (.sskip 19 6) ∧
    decode 0b00001100000_00110_0000_10011_1000001#32 = .ok (.spos 19 6) := by
  refine ⟨?_, ?_, ?_, ?_⟩ <;> rfl

theorem test_words_of_major_42 :
    decode 0b000000_10101_00110_1001_000001000010#32 = .ok (.rcopyin 6 21 9) ∧
    decode 0b000001_10101_00110_1001_000001000010#32 = .ok (.rcopyout 6 21 9) ∧
    decode 0b000010_10101_00110_1001_000001000010#32 = .ok (.rcopyrr 6 21 9) ∧
    decode 0b000011_10101_00110_1001_000001000010#32 = .ok (.rfill 6 21 9) := by
  refine ⟨?_, ?_, ?_, ?_⟩ <;> rfl

theorem test_words_of_major_43 :
    decode 0b00000000000_00110_1001_000001000011#32 = .ok (.rsort 6 9) ∧
    decode 0b00000100000_00110_1001_000001000011#32 = .ok (.rmerge 6 9) ∧
    decode 0b00001000000_00110_1001_000001000011#32 = .ok (.rpart 6 9) ∧
    decode 0b00001100000_00110_1001_000001000011#32 = .ok (.rtag 6 9) ∧
    decode 0b00010000000_00110_1001_000001000011#32 = .ok (.rjoin 6 9) := by
  refine ⟨?_, ?_, ?_, ?_, ?_⟩ <;> rfl

theorem test_words_of_major_44 :
    decode 0b000000_01001_10101_1011_10011_1000100#32 = .ok (.vldw 19 21 9 11) := by
  rfl

theorem test_words_of_major_45 :
    decode 0b00000000000_00110_1001_000001000101#32 = .ok (.cset 6 9) ∧
    decode 0b00000100000_10101_1011_10011_1000101#32 = .ok (.csnap 19 21 11) := by
  refine ⟨?_, ?_⟩ <;> rfl

theorem test_words_of_major_46 :
    decode 0b000000_10101_00110_0000_10011_1000110#32 = .ok (.rcomb 19 6 21) := by
  rfl

theorem test_words_of_major_4C :
    decode 0b000000_01001_10101_1011_10011_1001100#32 = .ok (.nmc 19 21 9 11) ∧
    decode 0b00000100000_10101_1011_10011_1001100#32 = .ok (.nmstat 19 21 11) := by
  refine ⟨?_, ?_⟩ <;> rfl

theorem test_words_of_major_4D :
    decode 0b00000000000_00110_1001_000001001101#32 = .ok (.scan 6 9) ∧
    decode 0b00000100000_10101_1011_10011_1001101#32 = .ok (.scanth 19 21 11) := by
  refine ⟨?_, ?_⟩ <;> rfl

theorem test_words_of_major_50 :
    decode 0b00_01001_10101_00110_10011_101_1010000#32 = .ok (.opaF64 5 19 6 9 21) ∧
    decode 0b01_01001_10101_00110_10011_101_1010000#32 = .ok (.opaF32 5 19 6 9 21) := by
  refine ⟨?_, ?_⟩ <;> rfl

theorem test_words_of_major_51 :
    decode 0b00_01001_10101_00110_10011_101_1010001#32 = .ok (.opaBf16 5 19 6 9 21) ∧
    decode 0b01_01001_10101_00110_10011_101_1010001#32 = .ok (.opaF16 5 19 6 9 21) := by
  refine ⟨?_, ?_⟩ <;> rfl

theorem test_words_of_major_52 :
    decode 0b00_01001_10101_00110_10011_101_1010010#32 = .ok (.opaE4m3 5 19 6 9 21) ∧
    decode 0b01_01001_10101_00110_10011_101_1010010#32 = .ok (.opaE5m2 5 19 6 9 21) := by
  refine ⟨?_, ?_⟩ <;> rfl

theorem test_words_of_major_53 :
    decode 0b00_01001_10101_00110_10011_101_1010011#32 = .ok (.opaE2m1 5 19 6 9 21) ∧
    decode 0b01_01001_10101_00110_10011_101_1010011#32 = .ok (.opaI8 5 19 6 9 21) := by
  refine ⟨?_, ?_⟩ <;> rfl

theorem test_words_of_major_54 :
    decode 0b00_01001_10101_00110_10011_101_1010100#32 = .ok (.mmsBf16 5 19 6 21 9) ∧
    decode 0b01_01001_10101_00110_10011_101_1010100#32 = .ok (.mmsE4m3 5 19 6 21 9) ∧
    decode 0b10_01001_10101_00110_10011_101_1010100#32 = .ok (.mmsE2m1 5 19 6 21 9) ∧
    decode 0b11_01001_10101_00110_10011_101_1010100#32 = .ok (.mmsI8 5 19 6 21 9) := by
  refine ⟨?_, ?_, ?_, ?_⟩ <;> rfl

theorem test_words_of_major_55 :
    decode 0b00_01001_10101_00110_10011_101_1010101#32 = .ok (.mmspBf16 5 19 6 21 9) ∧
    decode 0b01_01001_10101_00110_10011_101_1010101#32 = .ok (.mmspE4m3 5 19 6 21 9) := by
  refine ⟨?_, ?_⟩ <;> rfl

theorem test_words_of_major_56 :
    decode 0b00_01001_10101_00110_10011_101_1010110#32 = .ok (.mmssBf16 5 19 6 21 9) ∧
    decode 0b01_01001_10101_00110_10011_101_1010110#32 = .ok (.mmssE4m3 5 19 6 21 9) := by
  refine ⟨?_, ?_⟩ <;> rfl

theorem test_words_of_major_57 :
    decode 0b0000_101_10101_00110_10011_101_1010111#32 = .ok (.scacc 5 5 19 6 21) := by
  rfl

theorem test_words_of_major_58 :
    decode 0b00_10101_00110_00000_00001_101_1011000#32 = .ok (.tzero 5 1 21 6) ∧
    decode 0b0100000_10101_00110_10011_101_1011000#32 = .ok (.tmov 5 19 6 21) ∧
    decode 0b10_01001_10101_00110_10011_101_1011000#32 = .ok (.trd 5 19 6 9 21) ∧
    decode 0b1100000_10101_00110_10011_101_1011000#32 = .ok (.twr 5 19 6 21) := by
  refine ⟨?_, ?_, ?_, ?_⟩ <;> rfl

theorem test_words_of_major_59 :
    decode 0b00_01001_10101_00110_0_1001_101_1011001#32 = .ok (.tst 5 6 21 9 9) ∧
    decode 0b01_01001_10101_00110_0_1001_101_1011001#32 = .ok (.tldt 5 6 21 9 9) := by
  refine ⟨?_, ?_⟩ <;> rfl

theorem test_words_of_major_5A :
    decode 0b000000_10101_00110_1001_000001011010#32 = .ok (.osld 6 21 9) ∧
    decode 0b000001_10101_00110_0000_10011_1011010#32 = .ok (.osmeta 19 6 21) := by
  refine ⟨?_, ?_⟩ <;> rfl

theorem test_words_of_major_60 :
    decode 0b000000000000000_00101_0_1001_1100000#32 = .ok (.hnew 9 5) ∧
    decode 0b0000000001000000_1011_0_1001_1100000#32 = .ok (.hfork 9 11) ∧
    decode 0b00000000100_1101_0_1011_0_1001_1100000#32 = .ok (.hjoin 9 11 13) ∧
    decode 0b0000000011000000_1001_000001100000#32 = .ok (.hret 9) ∧
    decode 0b0000000100000000_1001_000001100000#32 = .ok (.hwait 9) ∧
    decode 0b0000000101_00100_0_1011_0_1001_1100000#32 = .ok (.hscope 9 11 4) ∧
    decode 0b0000000110000000_1011_10011_1100000#32 = .ok (.hexp 19 11) ∧
    decode 0b000000011100000_00110_0_1001_1100000#32 = .ok (.himp 9 6) := by
  refine ⟨?_, ?_, ?_, ?_, ?_, ?_, ?_, ?_⟩ <;> rfl

theorem test_words_of_major_64 :
    decode 0b00000_1_1111_10101_00110_10011_1100100#32 = .ok (.amoadd 19 6 21 1 15) ∧
    decode 0b00001_1_1111_10101_00110_10011_1100100#32 = .ok (.amoand 19 6 21 1 15) ∧
    decode 0b00010_1_1111_10101_00110_10011_1100100#32 = .ok (.amoor 19 6 21 1 15) ∧
    decode 0b00011_1_1111_10101_00110_10011_1100100#32 = .ok (.amoxor 19 6 21 1 15) ∧
    decode 0b00100_1_1111_10101_00110_10011_1100100#32 = .ok (.amomin 19 6 21 1 15) ∧
    decode 0b00101_1_1111_10101_00110_10011_1100100#32 = .ok (.amomax 19 6 21 1 15) ∧
    decode 0b00110_1_1111_10101_00110_10011_1100100#32 = .ok (.amominn 19 6 21 1 15) ∧
    decode 0b00111_1_1111_10101_00110_10011_1100100#32 = .ok (.amomaxn 19 6 21 1 15) ∧
    decode 0b01000_1_1111_10101_00110_10011_1100100#32 = .ok (.amoswap 19 6 21 1 15) ∧
    decode 0b01001_1_1111_10101_00110_10011_1100100#32 = .ok (.amocas 19 6 21 1 15) := by
  refine ⟨?_, ?_, ?_, ?_, ?_, ?_, ?_, ?_, ?_, ?_⟩ <;> rfl

theorem test_words_of_major_68 :
    decode 0b000000_01001_10101_1011_10011_1101000#32 = .ok (.launch 19 21 9 11) ∧
    decode 0b00000100000_10101_1011_10011_1101000#32 = .ok (.kstat 19 21 11) ∧
    decode 0b000010_01001_10101_1011_10011_1101000#32 = .ok (.claim 19 21 9 11) := by
  refine ⟨?_, ?_, ?_⟩ <;> rfl

theorem test_words_of_major_6C :
    decode 0b000000_01001_10101_1011_10011_1101100#32 = .ok (.semacq 19 21 9 11) ∧
    decode 0b000001_10101_00110_1001_000001101100#32 = .ok (.semrel 6 21 9) ∧
    decode 0b00001000000_10101_1011_10011_1101100#32 = .ok (.semrd 19 21 11) ∧
    decode 0b00001100000_00110_0000_10011_1101100#32 = .ok (.ginfo 19 6) ∧
    decode 0b00010000000000000000000001101100#32 = .ok (.gexit) ∧
    decode 0b00010100000000000000_10011_1101100#32 = .ok (.hyield 19) := by
  refine ⟨?_, ?_, ?_, ?_, ?_, ?_⟩ <;> rfl

theorem test_words_of_major_70 :
    decode 0b000000_00110_10011_0000000001110000#32 = .ok (.barinit 19 6) ∧
    decode 0b00000100000_10101_1011_10011_1110000#32 = .ok (.bararr 19 21 11) ∧
    decode 0b000010_10101_00110_1001_000001110000#32 = .ok (.barwait 6 21 9) ∧
    decode 0b00001100000_10101_1011_10011_1110000#32 = .ok (.bararw 19 21 11) ∧
    decode 0b00010000000_00110_0000_10011_1110000#32 = .ok (.barq 19 6) := by
  refine ⟨?_, ?_, ?_, ?_, ?_⟩ <;> rfl

theorem test_words_of_major_74 :
    decode 0b000000_10101_00110_1001_000001110100#32 = .ok (.xsend 6 21 9) ∧
    decode 0b000001_01001_10101_1011_10011_1110100#32 = .ok (.xticket 19 21 9 11) ∧
    decode 0b000010_10101_00110_1001_000001110100#32 = .ok (.xtkwait 6 21 9) ∧
    decode 0b000011_10101_00110_1001_000001110100#32 = .ok (.xpass 6 21 9) ∧
    decode 0b000100_10101_00110_1001_000001110100#32 = .ok (.xnote 6 21 9) ∧
    decode 0b000101_10101_00110_0000_10011_1110100#32 = .ok (.xquery 19 6 21) := by
  refine ⟨?_, ?_, ?_, ?_, ?_, ?_⟩ <;> rfl

/-! ## States that meet the statements' hypotheses -/

theorem base_hart : ByHart base := ⟨loadedId, rfl⟩

theorem base_handle : Handle base 0 0 := by unfold Handle; decide +kernel

theorem base_ready : VectorReady base := ⟨base_hart, by decide +kernel⟩

theorem base_engine : EngineFree base :=
  ⟨by decide +kernel, by decide +kernel, fun _ => by rfl, by decide +kernel, by decide +kernel⟩

/-- StepRunsTheDecodedInstruction: a placed ADDI. -/
theorem witness_step :
    let s := State.reset.withFetchWord 32 0x00280083
    s.agenda = .issue (.hart loadedId) :: [] ∧ (s.hart loadedId).state = .run ∧ (s.hart loadedId).reports = [] ∧
      (s.hart loadedId).stalled = none ∧ (s.hart loadedId).vqueue = [] ∧
      ({ s with cur := .hart loadedId } : State).inCode (s.hart loadedId).pc = true := by
  decide +kernel

theorem witness_step_decodes :
    decode (({ State.reset.withFetchWord 32 0x000A0083 with cur := .hart loadedId } : State).codeWord 0) =
      .ok (.addi 1 0 5) := by rfl

/-- DecodeOfEncode. -/
theorem witness_encode : (Instr.vadd 1 2 3 0 5 2).isWord = true ∧ (Instr.vadd 1 2 3 0 5 2).wf = true := by decide

/-- StepKeepsMemoryCanonical. -/
theorem witness_canonical : Canonical base ∧ step State.reset = .next { State.reset with cycle := 1 } := by
  refine ⟨?_, rfl⟩
  unfold Canonical
  decide +kernel

/-- ScalarArithmetic, Branches, JumpsAndTables, TrapInstructions, WaitingAndHalting: scalars that may be named. -/
theorem witness_named : Named base [1, 2, 3] := by unfold Named; decide +kernel

/-- ScalarFrame. -/
theorem witness_frame : ∃ t, exec (.add 1 2 3) base = .next t := ⟨_, rfl⟩

/-- Branches: a taken branch inside the code area, at its last word, past it, and one not taken. -/
theorem witness_branch :
    (base.rs 1 = base.rs 2 ∧ (base.pc + (4 : BitVec 15).signExtend 64 * 4).toNat + 4 ≤ base.codeSize) ∧
    (base.pc + (1023 : BitVec 15).signExtend 64 * 4).toNat + 4 = base.codeSize ∧
    ¬(base.pc + (1024 : BitVec 15).signExtend 64 * 4).toNat + 4 ≤ base.codeSize ∧ ¬((base.rs 1).toNat < (base.rs 2).toNat) := by
  decide +kernel

/-- JumpsAndTables: a target that is aligned and one that is not; an entry read at an index below n, and an index at n. -/
theorem witness_jump :
    (base.rs 1 + (8 : BitVec 15).signExtend 64).toNat % 4 = 0 ∧ (base.rs 1 + (6 : BitVec 15).signExtend 64).toNat % 4 ≠ 0 ∧
    (base.rs 1).toNat < (1 : BitVec 10).toNat ∧
    (0 : BitVec 10).toNat ≤ (base.rs 1).toNat ∧ ptrSpace (2#4 ++ 0#60 : Word) = 2 := by
  decide +kernel

theorem witness_table : place (regs [(2, 4096)]) .table 4 4 4096 = .ok (.ls 0 4096) := by rfl

/-- LoopsForksAndWaits: an armed counter with one round and with two to go, an inactive one, and a loop to skip. -/
theorem witness_loop :
    let s := (me (fun h => { h with loops := vecSet h.loops 0 ⟨1, 8, true⟩ })).setLoop 1 ⟨2, 8, true⟩
    (vecGet LoopCtr.reset s.loops 0).active = true ∧ (vecGet LoopCtr.reset s.loops 0).count - 1 = 0 ∧
    (vecGet LoopCtr.reset s.loops 1).count - 1 ≠ 0 ∧ (vecGet LoopCtr.reset s.loops 2).active = false ∧
    ((base.rs 1).setWidth 32 : BitVec 32) = 0 ∧
    ({ base with mem := Memory.writeBytes [] (lsKey 0 4) (natLe 4 (encode (.endloop 3)).toNat) } : State).findEndloop 3
      ((4096 - 4) / 4) 4 = some 8 := by
  decide +kernel

theorem witness_waitc :
    base.outstanding base.cur.owner (fun c => c == .copy) = 0 ∧
    ({ base with ops := [op (.publish handle)] } : State).outstanding loadedId (fun c => c == .copy) = 1 := by
  decide +kernel

/-- The program of one word that RDV finds ended, and one that runs. -/
def prog (ended : Bool) : SeqProg := { SeqProg.reset with ended := ended }

theorem witness_fork :
    let s := regs [(2, 0x1_0000_0000)]
    s.rs 1 = 0 ∧ s.rs 2 = BitVec.ofNat 64 (1 * 2 ^ 32 + 0) ∧ 0 + 4 * 1 ≤ s.codeSize ∧ s.core.streamFork = none ∧
    (me (fun h => { h with streamProg := some (prog true) })).me.streamProg = some (prog true) ∧ (prog true).stop = none ∧
    (me (fun h => { h with streamProg := some (prog false) })).me.streamProg = some (prog false) ∧
    base.me.tileProg = none ∧ base.me.streamProg = none := by
  decide +kernel

/-- The hart of `base` in a group with a handler at 0x40. -/
def handled : State := base.setGroup { base.group with handler := some 0x40 }

/-- `base` at S. -/
def atS : State := me (fun h => { h with priv := .s, tpc := 0x80, tcause := 8, tstart := 0x5_0000_0003 })

/-- TrapEntry: at P with a handler, at S, without one, and with a load pending. -/
theorem witness_trap :
    ByHart handled ∧ handled.me.pending = 0 ∧ handled.me.vqueue = [] ∧ handled.me.pc.toNat < 2 ^ 21 ∧ handled.me.priv = .p ∧
    handled.group.handler = some 0x40 ∧ atS.me.priv = .s ∧ base.group.handler = none ∧
    (me (fun h => { h with pending := 2 })).me.pending ≠ 0 := by
  refine ⟨⟨loadedId, rfl⟩, ?_⟩
  decide +kernel

/-- TrapInstructions: a sequencer and a strand that come to a scalar word. -/
theorem witness_refused :
    ({ base with cur := .seq loadedId .stream } : State).cur = .seq loadedId .stream ∧
    ∃ x ∈ (me (fun h => { h with vset := some { VSet.reset with strands := [⟨3, 0, [], 0, 0, 8, 0, 0, 0, none, true⟩] } })).me.strands,
      x.lane = 3 := by
  refine ⟨rfl, ?_⟩
  decide +kernel

/-- ReturnFromTrap: at S and at P. -/
theorem witness_eret : atS.me.priv = .s ∧ base.me.priv = .p := by decide +kernel

/-- WaitingAndHalting: a latch that is set, and one that is not. -/
theorem witness_wfe :
    (me (fun h => { h with latch := 4 })).me.latch ≠ 0 ∧ base.me.latch = 0 ∧ base.me.wfeAt = none ∧ base.ops = [] ∧
    base.me.tileProg = none ∧ base.binds = [] ∧ base.me.strands = [] := by
  decide +kernel

/-- ControlRegisters: a CSR of each list, at P and at S. -/
theorem witness_csr :
    base.ops = [] ∧ (3 : BitVec 12).toNat ∈ [3, 4, 5, 6, 7, 8] ∧ (0x103 : BitVec 12).toNat ∈ [0x100, 0x101, 0x102, 0x103] ∧
    atS.me.priv = .s ∧ base.me.priv = .p ∧ Named atS [1] := by
  refine ⟨rfl, by decide, by decide, by decide +kernel, by decide +kernel, ?_⟩
  unfold Named
  decide +kernel

/-- ScalarMemory, MemoryFrames: a place at the start of the data area and one at the range's last word. -/
theorem witness_place :
    place (regs [(2, 4096)]) .load 8 8 ((regs [(2, 4096)]).rs 2 + (0 : BitVec 8).signExtend 64 * 8) = .ok (.ls 0 4096) := by
  rfl

theorem witness_place_store : place base .store 4 4 0x3_FFFC = .ok (.ls 0 0x3_FFFC) := by rfl

theorem witness_place_amo : place base .amo 8 8 4096 = .ok (.ls 0 4096) := by rfl

theorem witness_ordered : Ordered base 0 := by unfold Ordered; decide +kernel

/-- OperandChecks: each trap of the order of R26. -/
theorem witness_checks :
    ptrSpace (5#4 ++ 0#60 : Word) ∉ [0, 1, 2, 3, 4, 7] ∧ ptrSpace (3#4 ++ 0#60 : Word) = 3 ∧ (2 : BitVec 3).toNat % 4 ≠ 3 := by
  decide

theorem witness_checks_space0 :
    ptrOff (4097 : Word) % 4 ≠ 0 ∧ ptrSpace (4097 : Word) ∈ [0, 1, 4, 7] ∧ base.group.range < ptrOff (0x4_0000 : Word) + 4 ∧
    ptrOff (0x4_0000 : Word) % 4 = 0 ∧ ptrOff (4092 : Word) + 4 ≤ base.group.range ∧
    ptrOff (4092 : Word) < base.group.code := by
  decide +kernel

/-- OperandChecks: a word that is no run handle, and an empty handle register. -/
theorem witness_bad_handles :
    runHandleOk runs runs.ctx 0 = false ∧ runHandleOk runs runs.ctx (handle + 2 ^ 18) = false := by decide +kernel

theorem witness_empty_handle : vecGet none base.hregs (1 : HReg).toNat = none := by decide +kernel

/-- `base` with vl and vsew. -/
def vecs (n w : Nat) (l : List (Nat × BitVec 16384)) : State :=
  let h := { base.me with vl := BitVec.ofNat 13 n, vsew := BitVec.ofNat 7 w }
  base.setMe (l.foldl (fun h p => h.setVreg p.1 p.2) h)

/-- VectorElements, VectorIntegers and the others over a ready hart: with elements to process, some beyond vl. -/
theorem witness_vector : VectorReady (vecs 3 32 []) ∧ (vecs 3 32 []).me.vstart = 0 ∧ (2 : Nat) < min (vecs 3 32 []).vl (16384 / 32) := by
  refine ⟨⟨⟨loadedId, rfl⟩, ?_⟩, ?_⟩ <;> decide +kernel

theorem witness_vadd : ∃ u, exec (.vadd 1 2 3 0 0 2) (vecs 3 32 []) = .next u := ⟨_, rfl⟩

theorem witness_registers : base.me.vset.isSome = true ∧ 0 < (31 : Nat) ∧ (31 : Nat) < 32 := by decide +kernel

/-- ConversionsAndGroups: a converter buffer open after its first stage. -/
theorem witness_converter :
    let s := base.setConv ⟨true, 1, 0⟩
    s.conv.opened = true ∧ s.conv.stages < 12 ∧ (8 : Reg) ≠ 0 := by
  decide +kernel

theorem witness_converter_ready : VectorReady (base.setConv ⟨true, 1, 0⟩) := ⟨⟨loadedId, rfl⟩, by decide +kernel⟩

/-- VectorLength: the last type that R36 lists. -/
theorem witness_setvl : (4 : BitVec 3).toNat ≤ 4 ∧ Named base [1, 2] := by
  refine ⟨by decide, ?_⟩
  unfold Named
  decide +kernel

/-- A code area that holds one VADD after the word at 0. -/
def block : State :=
  { base with mem := Memory.writeBytes [] (lsKey 0 4) (natLe 4 (encode (.vadd 1 2 3 0 0 2)).toNat) }

/-- BlocksAndRelease: words to keep, a replay that holds one, an empty one, and a hart without a set. -/
theorem witness_capture : capture block 1 4 = .ok [encode (.vadd 1 2 3 0 0 2)] := by rfl

theorem witness_block :
    ({ block with mem := Memory.writeBytes block.mem (lsKey 0 8) (natLe 4 (encode .stop).toNat) } : State).block 4 =
      .ok [encode (.vadd 1 2 3 0 0 2), encode .stop] := by
  rfl

theorem witness_replay :
    (me (fun h => { h with vset := some { VSet.reset with replay := [1] } })).me.vset = some { VSet.reset with replay := [1] } ∧
    base.me.vset = some VSet.reset ∧ VSet.reset.replay = [] ∧ (me (fun h => { h with vset := none })).me.vset = none ∧
    base.ops = [] ∧ base.me.tileProg = none := by
  decide +kernel

/-- Strands: stopped strands, and one that runs. -/
theorem witness_strands :
    let s := me (fun h => { h with vset := some { VSet.reset with strands := [⟨3, 0, [], 0, 0, 8, 0, 0, 0, none, false⟩] } })
    s.me.vset.isSome = true ∧ (∀ t ∈ s.me.strands, t.running = false ∧ t.stop = none) ∧ s.binds = [] ∧ s.me.pending = 0 := by
  decide +kernel

/-- VectorMemory: elements that all lie in the data area. -/
theorem witness_elements :
    (vecs 2 32 []).velems .vload (vecs 2 32 []).elemBytes 2 0 (fun i => 0x1000 + BitVec.ofNat 64 (i * 32 / 8)) ≠ [] := by
  decide +kernel

theorem witness_all_here :
    AllHere ((vecs 2 32 []).velems .vload (vecs 2 32 []).elemBytes 2 0 (fun i => 0x1000 + BitVec.ofNat 64 (i * 32 / 8))) := by
  intro e he
  have h : (vecs 2 32 []).velems .vload (vecs 2 32 []).elemBytes 2 0 (fun i => 0x1000 + BitVec.ofNat 64 (i * 32 / 8)) =
      [⟨0, 0x1000, .ok (.ls 0 0x1000)⟩, ⟨1, 0x1004, .ok (.ls 0 0x1004)⟩] := by rfl
  rw [h] at he
  simp at he
  rcases he with rfl | rfl
  · exact ⟨_, rfl, by simp⟩
  · exact ⟨_, rfl, by simp⟩

theorem witness_wide : (vecs 2 32 []).vsew ≠ 4 ∧ 32 ≤ (vecs 2 32 []).vsew := by decide +kernel

/-- Bytes at offset 0x1000 of the range: the start of the data area. -/
def data (s : State) (bs : List Byte) : State := { s with mem := Memory.writeBytes s.mem (lsKey 0 0x1000) bs }

/-- `runs` with scalars set. -/
def rregs (l : List (Reg × Word)) (s : State) : State := l.foldl (fun s p => s.setRs p.1 p.2) s

/-- RunInstructions: a layout and an entry to create; a live run; what is issued. -/
theorem witness_ropen :
    layoutOk (BitVec.ofNat 64 (64 + 2 * 2 ^ 12)) = true ∧ runs.ctx.freeEntry = some 4 ∧
    growTo (runs.ctx.pool + 1) { Run.reset with
      gen := (runs.ctx.run 4).gen + 1, layout := BitVec.ofNat 64 (64 + 2 * 2 ^ 12), state := .opened, home := runs.me.core / 64 }
      runs.ctx.pool 0 = some ({ Run.reset with gen := 1, layout := BitVec.ofNat 64 (64 + 2 * 2 ^ 12), state := .opened }, 0) ∧
    runHandleOk runs runs.ctx handle = true ∧ handleEntry handle = 2 := by
  decide +kernel

/-- RunInstructions: a publication, a sealing and a freeing that nothing precedes. -/
theorem witness_marks :
    let s := { runs with ops := [op (.publish handle)] }
    let u := { runs with ops := [op (.sealRun handle)] }
    let v := { runs with ops := [op (.freeRun handle)] }
    s.opAt 0 = some (op (.publish handle)) ∧ (op (.publish handle)).phase = .queued ∧ (op (.publish handle)).preds = [] ∧
    runHandleOk s (s.ctxAt 0) handle = true ∧ (s.runAt 0 2).state = .opened ∧ u.appendPending 0 2 0 = false ∧
    v.runNamed 0 2 0 = false ∧ (v.runAt 0 2).host = false := by
  decide +kernel

/-- Streams: a register to bind, one bound to a run with two records to read, and one that is unbound. -/
def bound : State :=
  (me (fun h => { h with vset := some { VSet.reset with binds := [⟨24, .read, handle, 0, 0, [], ⟨0, 0, []⟩, 0, 0⟩] } })).setCtx runs.ctx

theorem witness_bind :
    24 ≤ (24 : Reg).toNat ∧ runs.bindOf 24 = none ∧ (runs.ctx.run 2).state = .opened ∧ runs.me.strands = [] ∧
    bound.bindOf 24 = some ⟨24, .read, handle, 0, 0, [], ⟨0, 0, []⟩, 0, 0⟩ ∧ bound.predsAt bound.me.core 0 = [] ∧
    bound.bindOf 25 = none ∧ bound.me.vset.isSome = true ∧ bound.me.vpending = 0 := by
  decide +kernel

theorem witness_bound_named : Named bound [1, 2] := by unfold Named; decide +kernel

theorem witness_stream :
    let s := bound.setMe { bound.me with vl := 32 }
    bound.userJob = false ∧ (24 : Reg) ≠ 25 ∧ (24 : Reg) ≠ 1 ∧ min s.vl (16384 / 32) = 32 ∧
    s.avail ⟨24, .read, handle, 0, 31 * 4, [], ⟨0, 0, []⟩, 0, 0⟩ 4 = .ready := by
  decide +kernel

/-- A pattern of two units of 4 bytes, 8 bytes apart, at 0x2000, and a copy of it from entry 2. -/
def copy : CopyDesc := ⟨handle, 0, 7, ⟨0x2000, 4, [(2, 8)]⟩⟩

/-- Its descriptor. -/
def copyBytes : List Byte :=
  natLe 8 handle.toNat ++ natLe 8 0 ++ natLe 8 0x2000 ++ natLe 4 7 ++ natLe 2 4 ++ natLe 1 1 ++ natLe 1 0 ++
    natLe 4 2 ++ natLe 4 0 ++ natLe 8 8

/-- `runs` with that descriptor, and in s1 its address. -/
def copying : State := rregs [(1, 0x1000), (2, BitVec.allOnes 64)] (data runs copyBytes)

theorem witness_copy_in : readCopy .patWrite true 0x1000 copying = .ok copy copying := of_passes (by decide +kernel)

theorem witness_copy_fill : readCopy .patWrite false 0x1000 copying = .ok copy copying := of_passes (by decide +kernel)

/-- The same with 64 units of 4 bytes: whole records for RCOPYOUT. -/
def copyOut : State :=
  data runs (natLe 8 handle.toNat ++ natLe 8 0 ++ natLe 8 0x2000 ++ natLe 4 0 ++ natLe 2 64 ++ natLe 1 1 ++ natLe 1 0 ++
    natLe 4 2 ++ natLe 4 0 ++ natLe 8 64)

theorem witness_copy_out : readCopy .patRead false 0x1000 copyOut = .ok ⟨handle, 0, 0, ⟨0x2000, 64, [(2, 64)]⟩⟩ copyOut := of_passes (by decide +kernel)

theorem witness_copy :
    runHandleOk copying copying.ctx handle = true ∧ 2 ≤ handleEntry handle ∧ runHandleOk copying copying.ctx handle3 = true ∧
    handleEntry handle ≠ handleEntry handle3 ∧ (copying.ctx.run 2).state = .opened ∧
    (⟨0x2000, 64, [(2, 64)]⟩ : Pattern).total % (copying.ctx.run 2).size = 0 := by
  decide +kernel

theorem witness_semaphore : checkSem (BitVec.allOnes 64) copying = .ok none copying ∧ checkSem 63 copying = .ok (some 63) copying :=
  ⟨of_passes (by decide +kernel), of_passes (by decide +kernel)⟩

/-- Copies: a copy, and a fill, that nothing precedes; and a fill that is performed. -/
theorem witness_copies :
    let s := { runs with ops := [op (.copyIn copy none)] }
    let u := { runs with ops := [op (.fill copy none)] }
    let v := { runs with ops := [{ op (.fill copy none) with phase := .working }] }
    s.opAt 0 = some (op (.copyIn copy none)) ∧ (op (.copyIn copy none)).kind = .copyIn copy none ∧
    u.opAt 0 = some (op (.fill copy none)) ∧ v.opAt 0 = some { op (.fill copy none) with phase := .working } := by
  decide +kernel

theorem witness_fill_units :
    let s := { runs with ops := [{ op (.fill copy none) with phase := .working }] }
    s.unitAt (op (.fill copy none)) .patWrite copy.pat 0 = .ok (.ls 0 0x2000) ∧
      s.unitAt (op (.fill copy none)) .patWrite copy.pat 1 = .ok (.ls 0 0x2008) ∧ copy.pat.units = 2 :=
  ⟨of_gives (by decide +kernel), of_gives (by decide +kernel), rfl⟩

/-- An RSORT of entry 2 into entry 3. -/
def sort : JobDesc := ⟨.sort, 0x1000, 0, handle3, 0, 0, 0, 0, 0, 0, [handle], [handle3], [], 0⟩

/-- `runs` with its descriptor. -/
def sorting : State :=
  rregs [(1, 0x1000)] (data runs (List.replicate 32 0 ++ natLe 8 handle3.toNat ++ List.replicate 23 0 ++ [1] ++
    natLe 8 handle.toNat))

theorem witness_job_read : readJob .sort 0x1000 sorting = .ok sort sorting := of_passes (by decide +kernel)

theorem witness_job_checks : checkRuns (sort.inputs ++ sort.dests) sorting = .ok () sorting ∧ checkUser sort sorting = .ok () sorting :=
  ⟨of_passes (by decide +kernel), of_passes (by decide +kernel)⟩

theorem witness_job_fault : jobFault sorting sort = none := by decide +kernel

/-- The share of the one context that has cores on a die is the whole queue. -/
theorem job_share (s : State) (h : (s.ctxs.map Prod.fst).filter (fun k => k != 0 && s.coresOn k 0) = []) : s.jobShare 0 0 = 256 := by
  unfold State.jobShare
  rw [h]
  simp only [List.length_nil, List.map_nil, List.sum_nil, Nat.add_zero, Nat.mul_div_cancel _ (Nat.succ_pos _)]
  rfl

theorem witness_job_room : sorting.jobsOf 0 0 < sorting.jobShare 0 0 := by
  rw [job_share sorting (by decide +kernel)]
  decide +kernel

theorem witness_job_spaces : ∀ w ∈ sort.inputs ++ sort.dests, ptrSpace w ≠ 6 := by
  intro w hw
  simp only [sort, List.cons_append, List.nil_append, List.mem_cons, List.not_mem_nil, or_false] at hw
  rcases hw with rfl | rfl <;> decide +kernel

/-- `sorting` with the die's queue full of jobs whose descriptors lie elsewhere. -/
def full : State := { sorting with ops := List.replicate 256 (op (.job { sort with ptr := 0x3000 })) }

theorem witness_job_full : full.jobShare 0 0 ≤ full.jobsOf 0 0 ∧ jobFault full sort = none := by
  rw [job_share full (by decide +kernel)]
  decide +kernel

theorem witness_job_full_read : readJob .sort 0x1000 full = .ok sort full := of_passes (by decide +kernel)

theorem witness_jobs :
    let s := { sorting with ops := [op (.job sort)] }
    s.opAt 0 = some (op (.job sort)) ∧ combCode sort.comb ≠ 7 ∧ bitOf (BitVec.ofNat 64 sort.flags) 0 = false ∧
    ({ op (.job sort) with phase := .working } : Op).phase = .working ∧
    ({ op (.job sort) with phase := .stopped .poison 0 1 } : Op).phase = .stopped .poison 0 1 := by
  decide +kernel

/-- GatherAndRouting: no index, a block of a STOP, a routing word of one counter and a context with counters. -/
theorem witness_gather :
    let s := rregs [(1, handle)] (runs.setMe { runs.me with vl := 0, vsew := 32 })
    (1 : Reg) ≠ 0 ∧ (1 : Reg) ≠ 31 ∧ (1 : MReg) ≠ 0 ∧ s.vsew ≠ 4 ∧ runHandleOk s s.ctx (s.rs 1) = true ∧
    s.windowIdx 1 (min s.vl 512) = [] := by
  decide +kernel

theorem witness_user_block :
    ({ block with mem := Memory.writeBytes block.mem (lsKey 0 8) (natLe 4 (encode .stop).toNat) } : State).userBlock 8 =
      .ok [] :=
  of_gives (by decide +kernel)

theorem witness_routing :
    let s := (regs [(1, 0x0000_0004_0000)]).setCtx { base.ctx with routes := 1 }
    bitsOf (s.rs 1) 40 24 = 0 ∧ bitsOf (s.rs 1) 16 16 % 4 = 0 ∧
    bitsOf (s.rs 1) 0 8 + bitsOf (s.rs 1) 8 8 + 1 ≤ min s.ctx.routes 256 := by
  decide +kernel

/-- NearMemory: a run of commands, a job of a token, and a scan of entry 2 into a run of 16-byte records. -/
theorem witness_nmc :
    runHandleOk runs runs.ctx handle = true ∧ ptrSpace handle ≠ 6 ∧ (runs.ctx.run 2).size = 64 ∧
    runs.nmRunning runs.cur.owner < 8 := by
  decide +kernel

theorem witness_nmstat :
    let s := me (fun h => { h with nmJobs := [⟨1, 0, 0⟩] })
    (⟨1, 0, 0⟩ : NmJob) ∈ s.me.nmJobs ∧ (1 : BitVec 32).setWidth 64 = (1 : Word) := by
  decide +kernel

/-- A scan of entry 2. -/
def scan : ScanDesc := ⟨0x1000, handle, 0, 5, 8, 1, 0⟩

/-- `runs` with its descriptor. -/
def scanning : State := data runs (natLe 8 handle.toNat ++ natLe 8 0 ++ natLe 8 5 ++ natLe 4 0 ++ natLe 2 8 ++ natLe 1 1 ++ natLe 1 0 ++
  List.replicate 16 0)

theorem witness_scan : readScan false 0x1000 scanning = .ok scan scanning := of_passes (by decide +kernel)

theorem witness_scan_emit :
    ∃ s d, readScan true 0x1000 s = .ok d s := by
  let h4 := runHandle runs 4 { run with layout := BitVec.ofNat 64 (16 + 1 * 2 ^ 12) }
  let s := (data runs (natLe 8 handle.toNat ++ natLe 8 h4.toNat ++ natLe 8 5 ++ natLe 4 0 ++ natLe 2 8 ++ natLe 1 1 ++
    natLe 1 0 ++ List.replicate 16 0)).setCtx (runs.ctx.setRun 4 { run with layout := BitVec.ofNat 64 (16 + 1 * 2 ^ 12) })
  exact ⟨s, ⟨0x1000, handle, h4, 5, 8, 1, 0⟩, of_passes (by decide +kernel)⟩

theorem witness_near_memory :
    let s := { runs with ops := [op (.nmc handle 2 1)] }
    s.opAt 0 = some (op (.nmc handle 2 1)) ∧ s.nmRange 0 2 2 = [] ∧
    ({ runs with ops := [op (.scan scan none)] } : State).opAt 0 = some (op (.scan scan none)) := by
  decide +kernel

/-- OuterProducts and TileCells: a tile in each mode, and rows for TMOV. -/
theorem witness_tiles :
    (base.tile 0).c64 = false ∧ ((base.setTile 1 { Tile.reset with c64 := true }).tile 1).c64 = true ∧
    (124 : Nat) % 4 = 0 ∧ (124 : Nat) < 128 ∧ base.ops = [] := by
  decide +kernel

theorem witness_tile_ready : VectorReady (base.setTile 1 { Tile.reset with c64 := true }) := ⟨⟨loadedId, rfl⟩, by decide +kernel⟩

/-- StreamedProducts: one step of a bound register with its block published. -/
theorem witness_mms :
    let s := rregs [(1, 0), (2, 1)] bound
    mmsShape ⟨.dense, ⟨8, 4, none⟩, 1⟩ (s.rs 1) (s.rs 2) = true ∧ s.me.kstart = 0 ∧ s.me.mmspKey = none ∧
    (s.tile 0).c64 = false ∧ s.bindOf 24 = some ⟨24, .read, handle, 0, 0, [], ⟨0, 0, []⟩, 0, 0⟩ ∧ bitsOf (s.rs 2) 0 15 = 1 ∧
    s.ops = [] := by
  decide +kernel

theorem witness_mms_named :
    vnamed ⟨[1, 2], [24], [], [], [0]⟩ (rregs [(1, 0), (2, 1)] bound) = .ok () (rregs [(1, 0), (2, 1)] bound) :=
  of_passes (by decide +kernel)

theorem witness_mms_ready :
    let s := rregs [(1, 0), (2, 0)] bound
    bitsOf (s.rs 2) 0 15 = 0 ∧ mmsShape ⟨.sparse, ⟨8, 8, some e4m3⟩, 1⟩ (s.rs 1) (s.rs 2) = true ∧
    s.illegalCode 0 0 0 = none := by
  decide +kernel

/-- OperandStore: an OSLD of one row, the last; no load in flight; one that is performed; an engine in its ramp. -/
def osld : OsDesc := ⟨handle, 0, 512, 0, 16383, 1⟩

/-- Its descriptor. -/
def osldBytes : List Byte :=
  natLe 8 handle.toNat ++ natLe 8 0 ++ natLe 8 512 ++ natLe 4 0 ++ natLe 2 16383 ++ natLe 2 1 ++ natLe 8 0

theorem witness_osld :
    readDesc 0x1000 40 (data runs osldBytes) = .ok osldBytes (data runs osldBytes) := of_passes (by decide +kernel)

theorem witness_osld_fields :
    osld = ⟨descWord osldBytes 0, descField osldBytes 8 8, descField osldBytes 16 8, BitVec.ofNat 32 (descField osldBytes 24 4),
      descField osldBytes 28 2, descField osldBytes 30 2⟩ ∧ descField osldBytes 32 8 = 0 ∧ osld.row + osld.rows ≤ 16384 ∧
    base.hasTile = true ∧ base.osldPending 0 16384 = false := by
  decide +kernel

theorem witness_osld_performed :
    let o := { op (.osld osld none) with phase := .working, counts := (128, 0, 0) }
    let s := { runs with ops := [o] }
    s.opAt 0 = some o ∧ s.badIn 0 (handleEntry osld.run) 0 (min 512 (128 : Word).toNat) = none ∧
    ((base.setCore { base.core with tile := { base.core.tile with ramp := true } }).coreAt 0).tile.ramp = true := by
  decide +kernel

/-- Handles: a free sequencer, an operation that entered h0's and none; a value that is exported here, and one that no export
has. -/
theorem witness_handles :
    base.core.freeSeqr = some 1 ∧ (base.core.seqr 0).entered = [] ∧
    (let s := base.addOp 0 .copy (.publish handle)
     ∃ n ∈ (s.core.seqr 0).entered, s.alive n = true) := by
  refine ⟨by decide +kernel, by decide +kernel, 0, by decide +kernel, by decide +kernel⟩

theorem witness_allocate : vecGet none base.hregs (1 : HReg).toNat = none ∧ (63 : Nat) < 64 := by decide +kernel

/-- `base` with its default handle's order exported by sequencer 1, and its value in s1. -/
def exported : State :=
  let t := base.setCore (base.core.allocSeqr 1 .exported 1 [] none base.cur.owner.key)
  t.setRs 1 (t.handleValue 1)

theorem witness_import :
    bitsOf (exported.rs 1) 32 4 = 0 ∧ bitsOf (exported.rs 1) 36 3 ≤ 5 ∧ exported.rs 1 ≠ 0 ∧
    bitsOf (exported.rs 1) 54 10 = exported.chipId.toNat ∧ exported.core.freeSeqr = some 2 ∧
    bitsOf (0x1_0000_0000 : Word) 32 4 ≠ 0 := by
  decide +kernel

theorem witness_importable : exported.importable (exported.rs 1) = some 0 := by decide +kernel

/-- Semaphores: an amount at the value, one above it, none, the last semaphore; and a waiter that can be served. -/
theorem witness_semaphores :
    let s := (regs [(1, 63), (2, 5), (3, 6)]).setCore { base.core with sems := vecSet base.core.sems 63 5 }
    (s.rs 1).toNat < 64 ∧ s.core.waiters = [] ∧ (s.rs 2).toNat ≤ (s.core.sem 63).toNat ∧
    (s.core.sem 63).toNat < (s.rs 3).toNat ∧ s.rs 2 ≠ 0 ∧ s.rs 0 = 0 ∧ (s.core.sem 63).toNat + (s.rs 2).toNat < 2 ^ 64 := by
  decide +kernel

theorem witness_grant :
    let w : SemWaiter := ⟨63, .hart loadedId, 5, 1, 0, []⟩
    let s := (me (fun h => { h with state := .wait })).setCore
      { base.core with sems := vecSet base.core.sems 63 5, waiters := [w] }
    (s.coreAt 0).headWaiter 63 = some w ∧ w.amount.toNat ≤ ((s.coreAt 0).sem 63).toNat ∧ (s.hart loadedId).state = .wait := by
  decide +kernel

/-- Barriers: a counted barrier of two, armed; the word that arms it; its member that has arrived and one that has not. -/
def barred : State :=
  ((regs [(1, 31), (2, 0x8000_0002)]).setGroup { base.group with harts := 2 }).armBarrier 0 31 0x8000_0002

theorem witness_barriers :
    (barred.rs 1).toNat < 32 ∧ (barred.barrier 0 31).state = .armed ∧ (barred.barrier 0 30).state ≠ .armed ∧
    (barred.barrier 0 31).arrived.contains loadedId.num = false ∧ barred.me.barRec = none := by
  decide +kernel

theorem witness_barrier_word :
    barValid (barred.rs 2) barred.group.harts = true ∧ (barred.barrier 0 31).cfg = barred.rs 2 ∧
    barMember (barred.barrier 0 31).cfg loadedId = true := by
  decide +kernel

theorem witness_barrier_tokens :
    tokenBelow (barred.barrier 0 31).phase (0xFFFF_FFFF : BitVec 32) = true ∧
    tokenBelow (barred.barrier 0 31).phase (0 : BitVec 32) = false := by
  decide +kernel

theorem witness_arrivals :
    let x := barred.barrier 0 31
    let u := (barred.setBarrier 0 31 { x with arrived := x.arrived ++ [0] }).testBarrier 0 31
    (u.barrier 0 31).state = .armed ∧ tokenBelow (u.barrier 0 31).phase x.phase = false ∧
    (let one := (regs [(1, 31)]).armBarrier 0 31 0x8000_0001
     let y := one.barrier 0 31
     let v := (one.setBarrier 0 31 { y with arrived := [0] }).testBarrier 0 31
     (v.barrier 0 31).state = .armed ∧ tokenBelow (v.barrier 0 31).phase y.phase = true) := by
  decide +kernel

/-! ## Queues, groups, contexts, the host and the links -/

/-- An image of one word with two kernels. -/
def img : Image := { Image.reset with code := [0], entries := [0, 0] }

/-- `base` on a partition of cores 0 and 1 of die 0, with a queue and that image. -/
def qctx : Ctx := { base.ctx with part := [[0, 1], [], [], [], [], [], [], []], queues := [(0, Queue.reset)], images := [(0, img)] }

/-- `base` with that context, on a virtual function of the two cores. -/
def queued : State := (base.setVfAt 0 { base.vfAt 0 with cmap := [[0, 1], [], [], [], [], [], [], []] }).setCtx qctx

/-- The launch record of zeros with one hart: image 0, kernel 0, a group of one core on die 0. -/
def words : Vector Word 8 := Vector.replicate 8 0

/-- A launch of it. -/
def launch : Kernel := ⟨0, 1, words, .queued, 0, 0, 0, false, none, [], 0, none, false⟩

/-- `queued` with that launch in the queue, and the queue in a state. -/
def withQueue (y : Queue) : State := queued.setCtx { qctx with queues := [(0, y)] }

/-- LaunchAndClaim: a record of zeros accepted, and refused by a queue that is not there. -/
theorem witness_record : readDesc 0x1000 64 queued = .ok (List.replicate 64 0) queued := of_passes (by decide +kernel)

theorem witness_launch :
    let s := regs [(1, 0x1000)]
    let u := ((regs [(1, 0x1000), (2, 7)]).setCtx qctx)
    (s.setCtx qctx).ctx.refusal 0 (recordWords (List.replicate 64 0)) = 0 ∧
    (s.setCtx qctx).ctx.queue? 0 = some Queue.reset ∧
    u.ctx.refusal 7 (recordWords (List.replicate 64 0)) = 2 ∧ u.rs 1 = 0x1000 := by
  decide +kernel

theorem witness_launch_record :
    let u := ((regs [(1, 0x1000), (2, 7)]).setCtx qctx)
    readDesc (u.rs 1) 64 u = .ok (List.replicate 64 0) u :=
  of_passes (by decide +kernel)

/-- The pointer of iteration counter 255 of die 0. -/
def counter : Word := 3 * 2 ^ 60 + 0x1_0000 + 255 * 16

theorem witness_claim :
    let s := (regs [(1, counter)]).setCtx { base.ctx with iters := 256 }
    ptrSpace (s.rs 1) = 3 ∧ gives (place s .amo 8 8 (s.rs 1)) (.iter 255 false) = true := by
  decide +kernel

/-- QueueControl: a staged record that is accepted and one that is refused, and a queue in each state. -/
theorem witness_queue :
    (queued.ctxAt 0).queue? 0 = some Queue.reset ∧ (queued.ctxAt 0).refusal 0 Queue.reset.stage = 0 ∧
    (queued.ctxAt 0).state ≠ .suspended ∧
    ((withQueue { Queue.reset with state := .draining }).ctxAt 0).refusal 0 Queue.reset.stage ≠ 0 ∧
    ∀ st ∈ [QueueState.opened, .blocked, .error],
      ((withQueue { Queue.reset with state := st }).ctxAt 0).queue? 0 = some { Queue.reset with state := st } := by
  decide +kernel

theorem witness_queue_suspended :
    let s := base.setCtx { qctx with state := .suspended }
    (s.ctxAt 0).queue? 0 = some Queue.reset ∧ (s.ctxAt 0).state = .suspended := by
  decide +kernel

theorem witness_eligible :
    let y := { Queue.reset with kernels := [launch] }
    let s := withQueue y
    (s.ctxAt 0).queue? 0 = some y ∧ y.next? = some launch ∧ launch.eligible = false ∧
    s.mayStartLaunch 0 y launch = true ∧ (s.ctxAt 0).state ≠ .suspended := by
  decide +kernel

/-- GroupInstructions: a hart that may leave its group, one whose group is asked to leave, and a group that ends. -/
theorem witness_gexit :
    base.me.tileProg = none ∧ base.me.streamProg = none ∧ base.me.strands = [] ∧
    (∀ o ∈ base.ops, o.issuer.owner ≠ base.cur.owner) ∧ base.group.request = false := by
  decide +kernel

/-- `base` with its group changed. -/
def grouped (f : Group → Group) : State := base.setGroupAt 0 (f (base.groupAt 0))

theorem witness_hyield :
    let s := grouped (fun g => { g with request := true })
    s.group.request = true ∧ s.preemptable s.cur.owner.group = true := by
  decide +kernel

theorem witness_exiting :
    let s := grouped (fun g => { g with state := .exiting })
    (s.groupAt 0).state = .exiting ∧ s.groupOps 0 = [] ∧ (base.groupAt 0).state ≠ .gone ∧
    (base.ctxAt (base.groupAt 0).ctx).state = .active := by
  decide +kernel

/-- GroupsMove: a record that Kennel may write for core 1, a launch to bind by it and by Kennel. -/
def rec : BindRecord := ⟨0, 0, 0, 0, [1], 1, 1, false, false, [0]⟩

def binding : State := withQueue { Queue.reset with kernels := [{ launch with eligible := true }] }

theorem witness_record_ok :
    ({ binding with dies := vecSet binding.dies 0 { vecGet Die.reset binding.dies 0 with
        slots := eraseKey (vecGet Die.reset binding.dies 0).slots 63 } } : State).recordOk 0 rec = true := by
  decide +kernel

theorem witness_group_bind :
    let s := { binding with dies := vecSet binding.dies 0 { Die.reset with slots := [(63, rec)] } }
    lookup? (vecGet Die.reset s.dies 0).slots 63 = some rec ∧
    ((s.ctxAt 0).queue? 0).bind Queue.binding? = some { launch with eligible := true } ∧
    (s.ctxAt 0).imageOf { launch with eligible := true } = some img ∧
    s.offer rec { launch with eligible := true } = some [(1, 0)] ∧ (s.ctxAt 0).binds = true ∧
    (s.nextQueue 0 (s.virtDie 0 1)).getD 0 = 0 := by
  decide +kernel

theorem witness_kennel_bind :
    (∀ d ∈ binding.dies.toList, ∀ p ∈ d.slots, ¬(p.2.ctx = 0 ∧ p.2.queue = 0)) ∧
    binding.fits 0 0 0 { launch with eligible := true } = true ∧ binding.nextQueue 0 0 = some 0 ∧
    [1].length = launchCores words ∧ [1] = [1].eraseDups ∧
    ∀ x ∈ [1], x ∈ binding.open_ 0 0 0 { launch with eligible := true } := by
  decide +kernel

theorem witness_evict :
    let v := { VSet.reset with state := .retained }
    let s := me (fun h => { h with state := .saved, vset := some v })
    (s.hart loadedId).state = .saved ∧ (s.hart loadedId).vset = some v ∧ v.state = .retained := by
  decide +kernel

theorem witness_start :
    let s := grouped (fun g => { g with started := [] })
    (s.groupAt 0).state = .run ∧ 0 < (s.groupAt 0).cores.length ∧ 0 ∉ (s.groupAt 0).started ∧
    ∀ r < 0, r ∈ (s.groupAt 0).started := by
  decide +kernel

theorem witness_preempt :
    let s := grouped (fun g => { g with request := true })
    let t := grouped (fun g => { g with state := .saving })
    let u := grouped (fun g => { g with state := .saved })
    (s.groupAt 0).request = true ∧ s.preemptable 0 = true ∧ (t.groupAt 0).state = .saving ∧
    (∀ h ∈ t.membersOf 0, (t.hart h).pending = 0 ∧ (t.hart h).vpending = 0) ∧
    (t.ctxAt (t.groupAt 0).ctx).suspending = false ∧ (u.groupAt 0).state = .saved ∧
    (u.ctxAt (u.groupAt 0).ctx).state = .active ∧ (u.ctxAt (u.groupAt 0).ctx).suspending = false ∧
    (∀ h ∈ u.membersOf 0, (u.hart h).trapHeld = false) ∧ (u.groupAt 0).cores.all (u.resumable 0) = true := by
  decide +kernel

/-- WaitsThatEnd: a hart with a report, one that waits in a WFE (with the latch set and not), and one that times out. -/
theorem witness_report :
    let r : Report := ⟨.badAddr, 5, 0, .badAddr, 0, true⟩
    let s := me (fun h => { h with reports := [r] })
    (s.hart loadedId).reports[0]? = some r ∧ (s.hart loadedId).state = .run ∧ (s.hart loadedId).pending = 0 ∧
    (s.hart loadedId).vpending = 0 := by
  decide +kernel

/-- A hart in WAIT at a WFE, with its latch. -/
def waiting (latch : BitVec 5) : State :=
  let s := me (fun h => { h with state := .wait, wfeAt := some 0, latch := latch })
  { s with mem := Memory.writeBytes s.mem (lsKey 0 0) (natLe 4 (encode (.wfe 4 1)).toNat) }

theorem witness_wait :
    (∀ l ∈ [(0 : BitVec 5), 2], ((waiting l).hart loadedId).state = .wait ∧ ((waiting l).hart loadedId).reports = [] ∧
      ((waiting l).hart loadedId).vqueue = [] ∧ ((waiting l).testing loadedId).word = encode (.wfe 4 1) ∧
      ((waiting l).hart loadedId).latch = l) ∧
    ((waiting 0).hart loadedId).wfeAt = some 0 ∧ 0 ≤ (waiting 0).cycle := by
  decide +kernel

theorem witness_wait_named : Named ((waiting 0).testing loadedId) [4, 1] ∧ Named ((waiting 2).testing loadedId) [4, 1] := by
  unfold Named
  decide +kernel

theorem witness_stall_end :
    let b : Binding := ⟨24, .read, handle, 0, 0, [], ⟨0, 0, []⟩, 0, 0⟩
    let held := fun (x : Binding) => (me (fun h => { h with
      vset := some { VSet.reset with binds := [x] }, stalled := some 24 })).setCtx runs.ctx
    let asks := fun (x : Binding) => ((held x).hart loadedId).stalled = some 24 ∧
      ({ held x with cur := .hart loadedId } : State).bindOf 24 = some x
    asks b ∧ (held b).streamReady loadedId b = true ∧ asks { b with pos := 128 } ∧
      (held b).streamReady loadedId { b with pos := 128 } = false := by
  decide +kernel

/-- EscalatedTraps: a hart held by a SYSC from S of a service, by a POOL_EMPTY, and one whose group has a handler. -/
def served (n arg : Word) : State :=
  me (fun h => { h with
    state := .suspended, trapHeld := true, tpc := 8, tcause := 9 + 2 ^ 19,
    sregs := vecSet (vecSet h.sregs 1 n) 2 arg })

theorem witness_services :
    let asks := fun (n : Word) => ((served n 5).hart loadedId).trapHeld = true ∧
      ((served n 5).ctxAt ((served n 5).groupAt loadedId.group).ctx).state = .active ∧
      bitsOf ((served n 5).hart loadedId).tcause 0 8 = 9 ∧ bitOf ((served n 5).hart loadedId).tcause 19 = true ∧
      vecGet 0 ((served n 5).hart loadedId).sregs 1 = n
    asks 1 ∧ asks 3 ∧ asks 4 := by
  decide +kernel

/-- A hart that a POOL_EMPTY of its RUN_OPEN at 0 holds. -/
def empty : State :=
  me (fun h => { h with state := .suspended, trapHeld := true, tcause := 29 })

theorem witness_pool_empty :
    let s := empty
    let t := s.setGroupAt 0 { s.groupAt 0 with handler := some 64 }
    (s.hart loadedId).trapHeld = true ∧ (s.hart loadedId).state = .suspended ∧ bitsOf (s.hart loadedId).tcause 0 8 = 29 ∧
    bitOf (t.hart loadedId).tcause 19 = false ∧ (t.groupAt 0).handler = some 64 ∧
    lookup? s.harts loadedId.key ≠ none ∧ (s.ctxAt (s.groupAt 0).ctx).state = .active := by
  decide +kernel

/-- The pages that a function of no limits and a full pool gives, and those that a function of limits 0 does not. -/
theorem witness_pages :
    let pages := fun (s : State) => s.supply 0 ((s.hart loadedId).core / 64) (reservationUnits
      (reserveOf (({ s with cur := .hart loadedId } : State).codeWord (s.hart loadedId).tpc.toNat) (s.hart loadedId).sregs))
    gives (pages empty) empty = true ∧ fails (empty.supply 0 0 1) 4 = true := by
  decide +kernel

/-- ContextChanges: a context in each state, a pool that may grow and one that may shrink, and a new partition. -/
theorem witness_suspend :
    (base.ctxAt 0).state = .active ∧ (base.ctxAt 0).suspending = false ∧
    lookup? base.groups 0 = some loadedGroup ∧ loadedGroup.ctx = 0 ∧ loadedGroup.state = .run ∧
    ((base.setCtx { base.ctx with state := .suspended }).ctxAt 0).state = .suspended ∧
    ((base.setCtx { base.ctx with state := .resetting }).ctxAt 0).state = .resetting := by
  decide +kernel

/-- `base` with limits on its function that allow everything, and a core on each of two dies. -/
def limited : State :=
  base.setVfAt 0 { base.vfAt 0 with
    limits := ⟨64, 256, 256, 2 ^ 40, 4096, 512, [5]⟩, cmap := [[0], [64], [], [], [], [], [], []] }

theorem witness_pool :
    let s := limited.setCtx { base.ctx with pools := [(7, 4)] }
    limited.mayGrow 0 7 3 = true ∧ 4 ≤ (s.ctxAt 0).poolAt 7 ∧ (s.ctxAt 0).state = .active := by
  decide +kernel

theorem witness_partition :
    let s := limited.setCtx { base.ctx with state := .idle }
    (s.ctxAt 0).state = .idle ∧ s.partOk (s.ctxAt 0).vf 0 [[], [0], [], [], [], [], [], []] = true ∧
    s.countersFree 0 [[], [0], [], [], [], [], [], []] 256 256 = true ∧ s.queuesHeld 0 + 1 ≤ 4096 ∧
    (∀ p ∈ (s.ctxAt 0).queues, 1 ≤ p.1 → p.2.held = 0) ∧
    s.allCores 0 = [0] := by
  decide +kernel

/-- MemoryErrorsAndExtents: an append that waits for an extent, with a pool and without one. -/
def extending : Op :=
  { op (.publish handle) with phase := .extent, taken := [⟨2, 32768, 32768, 1, List.replicate 64 0⟩] }

theorem witness_extent :
    let full := { run with len := 32768, pub := 4 }
    let r := base.ctx.setRun 2 full
    let s := { base.setCtx { r with pools := [(0, 1000)] } with ops := [extending] }
    let t := { base.setCtx r with ops := [extending] }
    s.opAt extending.id = some extending ∧ extending.phase = .extent ∧
    extending.taken = [⟨2, 32768, 32768, 1, List.replicate 64 0⟩] ∧
    (s.runAt 0 2).host = false ∧ gives (s.supply 0 0 (extentUnits (s.runAt 0 2).nextExtent)) s = true ∧
    fails (t.supply 0 0 (extentUnits (t.runAt 0 2).nextExtent)) 4 = true ∧ (t.ctxAt 0).state = .active := by
  decide +kernel

theorem witness_damage :
    let bad := base.setCtx (base.ctx.setRun 2 { run with damage := [(0, [0, 1, 2, 3, 4, 5, 6, 7, 8])] })
    runs.deviceLine ⟨0, 2, 0⟩ = true ∧ (∀ k ∈ [0, 71], k < 72) ∧ runs.uncorrectable 0 2 0 = false ∧
    bad.deviceLine ⟨0, 2, 0⟩ = true ∧ bad.uncorrectable 0 2 0 = true := by
  decide +kernel

theorem witness_channels :
    (2, 17) ∉ (vecGet Die.reset base.dies 7).tsv ∧ (vecGet Die.reset base.dies 7).retired.length < 2 ∧
    95 ∉ (vecGet Die.reset base.dies 7).retired := by
  decide +kernel

/-- ContextCommands and RunCommands: `limited` with a command staged: its number and its arguments. -/
def staged (s : State) (l : List Word) : State :=
  s.setVfAt 0 { s.vfAt 0 with cstage := Vector.ofFn (fun k => l.getD k.val 0) }

/-- A new context of one core of die 0 with a table of two entries and one queue. -/
def asked : State :=
  staged (limited.setVfAt 0 { limited.vfAt 0 with cmap := [[0, 1], [], [], [], [], [], [], []] }) [1, 1, 2, 1, 0, 0]

theorem witness_command :
    (asked.vfAt 0).enabled = true ∧ bitsOf ((asked.vfAt 0).arg 0) 0 8 = 1 ∧ (asked.vfAt 0).busy = false ∧
    (newContext 0 (asked.vfAt 0) asked).result = 0 ∧
    ((asked.setVfAt 0 { asked.vfAt 0 with busy := true }).vfAt 0).busy = true ∧
    ((asked.setVfAt 0 { asked.vfAt 0 with busy := true }).vfAt 0).waits = none := by
  decide +kernel

theorem witness_context_named :
    let s := staged base [2, 0]
    let u := staged (base.setCtx { base.ctx with state := .suspended }) [4, 0]
    s.ctxNamed 0 ((s.vfAt 0).arg 1) = some 0 ∧ (s.ctxAt 0).state = .active ∧ (s.ctxAt 0).suspending = false ∧
    bitsOf ((s.vfAt 0).arg 0) 0 8 = 2 ∧ (s.vfAt 0).enabled = true ∧ (s.vfAt 0).busy = false ∧
    u.ctxNamed 0 ((u.vfAt 0).arg 1) = some 0 ∧ (u.ctxAt 0).state = .suspended ∧
    (staged base [2, 1]).ctxNamed 0 (((staged base [2, 1]).vfAt 0).arg 1) = none := by
  decide +kernel

theorem witness_images :
    let s := staged base [5, 0]
    let t := staged (base.setCtx { base.ctx with images := [(9, img)] }) [6, 0, 9]
    img.ok = true ∧ img.runs = [] ∧ leastBelow 65536 (fun k => (lookup? (s.ctxAt 0).images k).isNone) = some 0 ∧
    lookup? (t.ctxAt 0).images 9 ≠ none ∧ t.imageUsed 0 9 = false ∧ s.ctxNamed 0 ((s.vfAt 0).arg 1) = some 0 := by
  decide +kernel

theorem witness_new_runs :
    layoutOk (BitVec.ofNat 64 (64 + 2 * 2 ^ 12)) = true ∧
    (∀ d ∈ [0, 7], ∃ a, base.newRun 0 (BitVec.ofNat 64 (64 + 2 * 2 ^ 12)) d 0 = .ok a) := by
  refine ⟨by decide +kernel, fun d hd => ?_⟩
  simp at hd
  rcases hd with rfl | rfl
  · exact ⟨_, rfl⟩
  · exact ⟨_, rfl⟩

theorem witness_run_commands :
    let hosted := base.setCtx (base.ctx.setRun 2 { run with host := true, hostExt := [(64, 8128)] })
    let u := staged base [12, 0, 0, 255, 1, 2]
    let s := u.setCtx { u.ctx with iters := 256 }
    runHandleOk runs (runs.ctxAt 0) handle = true ∧ runs.badIn 0 2 64 128 = none ∧
    (hosted.runAt 0 2).host = true ∧ 127 * (hosted.runAt 0 2).size ≤ (hosted.runAt 0 2).capacity ∧
    runHandleOk hosted (hosted.ctxAt 0) handle = true ∧
    gives (runs.supply 0 0
      ((growFree ((4 + 2) * 64 / 2 ^ 21 + 1) (runs.runAt 0 2) ((4 + 2) * 64)).units - (runs.runAt 0 2).units)) runs = true ∧
    fails (runs.supply 0 0 1) 4 = true ∧
    (hosted.landRun 0 handle (Memory.readBytes hosted.mem (hostKey 0) (200 * 64)) true false).2 = .full ∧
    (runs.landRun 0 handle (Memory.readBytes runs.mem (hostKey 0) (2 * 64)) true false).2 = .done ∧
    ((s.ctxAt 0).part.getD 0 []).isEmpty = false ∧ 255 < (s.ctxAt 0).iters ∧
    (5 : BitVec 10) ≠ limited.chipId ∧ (5 : BitVec 10) ∈ (limited.vfAt 0).limits.peers ∧
    (limited.ctxAt 0).sessions = [] := by
  decide +kernel

/-- HostAndPhysicalFunction: a function that is on, a queue of its context, and a chip that is ready. -/
theorem witness_host :
    (queued.vfAt 0).enabled = true ∧ (queued.vfAt 0).busy = false ∧
    queued.ctxNamed 0 (BitVec.ofNat 64 (0x38 / 0x100_0000)) = some 0 ∧ 0x38 / 0x1000 % 0x1000 = 0 ∧
    (queued.ctxAt 0).queue? 0 = some Queue.reset ∧ bitsOf ((queued.vfAt 0).arg 0) 0 8 = 0 ∧ base.pf.ready = true ∧
    base.pf.vfs ≤ 256 ∧ (vecGet Die.reset base.dies 7).hot = false := by
  decide +kernel

/-- StationsAndTickets: a station in each state. -/
def stationed (x : Station) : State := { base with stations := vecSet base.stations 15 x }

theorem witness_station :
    let st := fun (x : Station) => vecGet Station.reset (stationed x).stations 15
    (st ⟨.down, 0, false, 0⟩).state = .down ∧ (st ⟨.training, 0, false, 0⟩).state = .training ∧
    (st Station.reset).state = .up ∧ (st Station.reset).spareUsed = false ∧
    (st ⟨.up, 4, true, 0⟩).spareUsed = true ∧ (st ⟨.narrow, 1, true, 0⟩).lanes < 2 := by
  decide +kernel

/-- `base` with a dispenser of die 0 that has given out a ticket of no slots. -/
def dispensing (n c : BitVec 32) (called : Bool) (l : List Ticket) : State :=
  base.setDispenser 0 0 ⟨n, c, l.map (fun t => { t with called := called })⟩

def ticket : Ticket := ⟨0, 0x3FF, 0, 0, false, false⟩

theorem witness_tickets :
    let x := fun (s : State) => (s.ctxAt 0).dispenser 0
    (x (dispensing 1 0 false [])).waiting = none ∧ (x (dispensing 1 0 false [])).called ≠ (x (dispensing 1 0 false [])).next ∧
    (x (dispensing 1 0 false [ticket])).waiting = some ticket ∧
    ticket.slots ≤ min 16384 (Config.recvShare 0 0) - (dispensing 1 0 false [ticket]).slotsBusy 0 0 ∧
    ∃ t ∈ (x (dispensing 1 0 true [ticket])).tickets, t.number = 0 ∧ t.called = true ∧ t.consumed = false := by
  refine ⟨by decide +kernel, by decide +kernel, by decide +kernel, Nat.zero_le _, ⟨{ ticket with called := true }, ?_⟩⟩
  decide +kernel

theorem witness_ticket_waits (n : Nat) :
    let s := dispensing 1 0 false [{ ticket with slots := 16385 }]
    ((s.ctxAt 0).dispenser 0).waiting = some { ticket with slots := 16385 } ∧
    min 16384 n - s.slotsBusy 0 0 < 16385 := by
  refine ⟨by decide +kernel, by dsimp only; omega⟩

/-- Sessions: chip 5, in a state. -/
def session (st : SessState) : Session :=
  ⟨5, 3, st, 0, [], 0, [], 0, 0, [], [], [], [], [], [], [], none⟩

def linked (st : SessState) : State := base.setCtx { base.ctx with sessions := [session st] }

theorem witness_sessions :
    let x := fun (st : SessState) => ((linked st).ctxAt 0).session 5
    ((linked .closed).ctxAt 0).state = .active ∧ (5 : BitVec 10) ≠ base.chipId ∧
    (∃ t ∈ ((linked .closed).ctxAt 0).sessions, t.chip = 5 ∧ t.peer = 3 ∧ t.state = .closed) ∧
    (x .opened).state = .opened ∧ (x .gone).state = .gone ∧ (∀ o ∈ (linked .gone).ops, o.ctx = 0 → o.kind.chip? ≠ some 5) ∧
    0 ≤ (x .opened).seenF := by
  refine ⟨by decide +kernel, by decide +kernel, ⟨session .closed, by decide +kernel⟩, by decide +kernel⟩

/-- SequencedMessages: a NOTE of chip 5 whose turn it is, and one that is early and one that comes again. -/
def note (n : BitVec 32) : Msg := ⟨0, 5, n, 9, true, false, .note 0x7000_0000_0000_2000 77 false⟩

theorem witness_message :
    let s := linked .opened
    let y := (s.ctxAt 0).session 5
    let holding := s.setCtxAt 0 ((s.ctxAt 0).setSession { y with held := y.held ++ [note 0] })
    y.state = .opened ∧ (note 0).seq = BitVec.ofNat 32 y.applied ∧ y.held = [] ∧ (holding.applyBody (note 0)).2 ≠ .later ∧
    (((holding.applyBody (note 0)).1.ctxAt 0).session 5).chip = 5 ∧
    ((note 7).seq - BitVec.ofNat 32 y.applied).toNat < 2 ^ 31 ∧
    2 ^ 31 ≤ ((note 0xFFFF_FFFF).seq - BitVec.ofNat 32 y.applied).toNat := by
  decide +kernel

theorem witness_landing :
    (linked .opened).landing 0 (ptrDie 0x7000_0000_0000_2000) (ptrCore 0x7000_0000_0000_2000)
      (ptrOff 0x7000_0000_0000_2000) 8 true = .ok 0 :=
  of_gives (by decide +kernel)

/-- LinkRequests: a request that lands and one that does not, and a load whose completion arrives. -/
theorem witness_request : (linked .opened).landing 0 0 0 0x2000 8 true = .ok 0 := of_gives (by decide +kernel)

theorem witness_refusal :
    (match (linked .opened).landing 0 0 63 0x2000 8 true with
      | .error e => decide (e = .badAddr)
      | .ok _ => false) = true := by
  decide +kernel

/-- A load of 8 bytes into s4 that chip 5 has been asked for. -/
def loading : State :=
  { (linked .opened).setMe { base.me with pending := 16 } with
    ops := [op (.remote 5 (some ⟨4, 8, false⟩))], uaOut := [⟨.store, 0, 5, 0, .read, 0, 0, 0x2000, 8, 0⟩] }

theorem witness_completion :
    loading.uaOut.find? (fun r => r.chip == 5 && r.tag == 0) = some ⟨.store, 0, 5, 0, .read, 0, 0, 0x2000, 8, 0⟩ ∧
    loading.opAt 0 = some (op (.remote 5 (some ⟨4, 8, false⟩))) ∧ lookup? loading.harts loadedId.key ≠ none := by
  decide +kernel

/-- A descriptor at 0x1000 of a send of 64 bytes to offset 0x2000 of core 0. -/
def sending : State :=
  rregs [(1, 0x1000), (2, BitVec.allOnes 64)]
    (data base (natLe 8 0x7FFC_0000_0000_2000 ++ natLe 8 0x3000 ++ natLe 4 64 ++ natLe 4 (2 ^ 32 - 1) ++ natLe 8 0))

/-- The pointer of offset 0x2000 of core 0 here, and on chip 5. -/
def near : Word := 0x7FFC_0000_0000_2000

def far : Word := 0x7014_0000_0000_2000

theorem witness_send :
    sendOk (Memory.readBytes sending.mem (lsKey 0 0x1000) 32) = true ∧
    gives (place sending .table 64 1 0x3000) (.ls 0 0x3000) = true ∧ ptrSpace near = 7 ∧ sending.rs 2 = BitVec.allOnes 64 := by
  decide +kernel

theorem witness_send_read :
    readDesc 0x1000 32 sending = .ok (Memory.readBytes sending.mem (lsKey 0 0x1000) 32) sending :=
  of_passes (by decide +kernel)

theorem witness_send_target : farPointer near 64 4 sending = .ok (.ok (.ls 0 0x2000)) sending := by rfl

theorem witness_tickets_asked :
    farDie near base = .ok () base ∧ base.heldTickets base.cur.owner < 16 ∧ ptrChip near = base.chipId ∧
    farDie far (linked .opened) = .ok () (linked .opened) ∧ ptrChip far ≠ base.chipId ∧
    (linked .opened).late = false ∧
    (linked .opened).sentTo ((linked .opened).predsAt (linked .opened).me.core 0) 5 = true := by
  refine ⟨of_passes (by decide +kernel), by decide +kernel, by decide +kernel, of_passes (by decide +kernel), by decide +kernel⟩

theorem witness_ticket_held :
    let t : Held := ⟨0x3FF, 0, 7, true, false, false⟩
    let s := me (fun h => { h with tickets := [t] })
    s.me.ticketAt 0x3FF (some 0) 7 = some t ∧ base.me.ticketAt 0x3FF (some 0) 7 = none := by
  decide +kernel

theorem witness_note : farPointer near 8 8 base = .ok (.ok (.ls 0 0x2000)) base := by rfl

theorem witness_remote_note :
    farPointer far 8 8 (linked .opened) = .ok (.ok (.remote 5 0 0 0x2000)) (linked .opened) := by rfl

theorem witness_passed :
    let s := base.setCore (base.core.allocSeqr 2 .exported 3 [] none 0)
    s.exportedHere (s.handleValue 2) = true ∧ bitsOf (5 : Word) 10 54 = 0 := by
  decide +kernel

/-! ## States that meet the hypotheses of further clauses -/

/-- A load of the word at 0x1000 into s3 that has issued and waits to be performed. -/
def later : State :=
  { after (.ld 3 1 0 3 0) { rregs [(1, 0x1000)] base with late := true, word := encode (.ld 3 1 0 3 0) } with
    late := false, agenda := [.perform 0] }

/-- StepRunsTheDecodedInstruction: an access left for later, one that is performed, and a word that the lanes come to. -/
theorem witness_later :
    ∃ o x, ({ later with agenda := [], cycle := later.cycle + 1 } : State).lateAt 0 = .ready o x ∧
      decode x.word = .ok (.ld 3 1 0 3 0) ∧ later.agenda = .perform 0 :: [] :=
  ⟨_, _, rfl, rfl, rfl⟩

/-- A VADD in the vector instruction queue. -/
def entry : Queued := ⟨encode (.vadd 3 1 2 0 0 2), [3, 1, 2], 2, 32, 0, 0, 0, [], 0, false, .execute⟩

/-- A hart whose vector instruction queue holds that word. -/
def laned : State := { me (fun h => { h with lanes := [entry] }) with agenda := [.lanes loadedId] }

theorem witness_lanes :
    laned.laneHead loadedId = some entry ∧ laned.agenda = .lanes loadedId :: [] ∧ entry.work = .execute ∧ laned.hidden = [] ∧
      laned.under = [] := by decide +kernel

theorem witness_lanes_run : decode entry.word = .ok (.vadd 3 1 2 0 0 2) ∧
    ∃ u, exec (.vadd 3 1 2 0 0 2) ({ laned with agenda := [], cycle := 1 }.laneState loadedId entry) = .next u :=
  ⟨rfl, _, rfl⟩

/-- LoopsForksAndWaits: a tile program to fork, one that must wait for the engine, and programs that have ended, run and stopped. -/
theorem witness_fork_tile :
    let s := regs [(1, 0x1_0000_0000)]
    let t := { s with ops := [{ op (.publish 0) with cls := .tile }] }
    s.rs 1 = BitVec.ofNat 64 (1 * 2 ^ 32 + 0) ∧ s.rs 2 = 0 ∧ s.hasTile = true ∧ s.core.tile.forked = none ∧
    s.outstanding s.cur.owner (fun c => c == .tile) = 0 ∧ s.tileFree (List.range 1024) = true ∧
    t.outstanding t.cur.owner (fun c => c == .tile) ≠ 0 ∧
    s.me.pending = 0 ∧ s.me.vpending = 0 ∧ s.me.lanes = [] ∧ s.vlPending = false := by
  decide +kernel

theorem witness_fork_busy :
    let s := { regs [(2, 0x1_0000_0000)] with ops := [op (.publish 0)] }
    s.core.streamFork = none ∧ s.outstanding s.cur.owner (fun c => c == .copy) ≠ 0 := by
  decide +kernel

/-- A program that has stopped on a BAD_ADDR. -/
def stopped : SeqProg := { prog true with stop := some ⟨.badAddr, 5, 8, 0, 0⟩ }

/-- A hart with forked programs. -/
def forked (t x : Option SeqProg) : State := me (fun h => { h with tileProg := t, streamProg := x })

theorem witness_rdv :
    (∀ p ∈ [prog true, prog false, stopped], (forked (some p) none).me.tileProg = some p ∧ (forked (some p) none).me.streamProg = none ∧
      (forked none (some p)).me.streamProg = some p) ∧
    (prog true).ended = true ∧ (prog false).ended = false ∧ stopped.stop = some ⟨.badAddr, 5, 8, 0, 0⟩ ∧ stopped.suspended = false ∧
    (forked (some stopped) (some stopped)).quiet loadedId = true ∧ (forked (some stopped) (some stopped)).me.vqueue = [] := by
  decide +kernel

/-- TrapEntry: a word in the vector instruction queue, and a vector instruction in flight. -/
theorem witness_not_quiet :
    (me (fun h => { h with lanes := [⟨0, [], 0, 32, 0, 0, 0, [], 0, false, .execute⟩] })).me.lanes ≠ [] ∧
    (me (fun h => { h with vpending := 2 })).me.vpending ≠ 0 ∧
    ∃ o ∈ ({ base with ops := [op (.remoteVec 5 none [] 32 false)] } : State).ops,
      o.issuer.owner = base.cur.owner ∧ o.kind.vector = true := by
  refine ⟨by decide +kernel, by decide +kernel, op (.remoteVec 5 none [] 32 false), by decide +kernel, by decide +kernel, rfl⟩

/-- TrapInstructions: a quiet hart; a scalar word in a sequencer of each engine, and in a strand. -/
theorem witness_refused_words :
    let x := encode (.add 1 2 3)
    let m := major x
    handled.quiet handled.cur.owner = true ∧ m = 1 ∧
    (∀ e ∈ [Eng.tile, .stream], ({ base with cur := .seq loadedId e, word := x } : State).cur = .seq loadedId e) ∧
    ({ me (fun h => { h with vset := some { VSet.reset with strands := [⟨3, 0, [], 0, 0, 8, 0, 0, 0, none, true⟩] } }) with
      cur := .strand loadedId 3, word := x } : State).me.vset.isSome = true := by
  decide +kernel

theorem witness_refused_decodes : decode (encode (.add 1 2 3)) = .ok (.add 1 2 3) := rfl

/-- ScalarMemory, MemoryFrames and others: an access that is performed at once, and one that the move leaves for later. -/
theorem witness_prompt : Prompt base 0 [512, 513] ∧ ¬Prompt { base with late := true } 0 [512] := by
  unfold Prompt Ordered
  decide +kernel

/-- ScalarMemory: a load that has issued and is performed. -/
theorem witness_performed :
    let s := { after (.ld 3 1 0 3 0) { rregs [(1, 0x1000)] base with late := true, word := encode (.ld 3 1 0 3 0) } with
      late := false, cur := .late loadedId 0 }
    ∃ o x, s.opAt 0 = some o ∧ o.id = 0 ∧ o.kind = .late x ∧ o.issuer = .hart loadedId ∧ lookup? s.harts loadedId.key ≠ none ∧
      s.hasParts 0 = false ∧ vecGet 0 x.sregs 1 = 0x1000 ∧ place s .load 8 8 0x1000 = .ok (.ls 0 0x1000) :=
  ⟨_, _, rfl, rfl, rfl, rfl, by decide +kernel, by decide +kernel, by decide +kernel, rfl⟩

/-- VectorLength, VectorMemory: no CLAIM in flight, and nothing left for later. -/
theorem witness_not_late : base.vlPending = false ∧ base.late = false ∧ base.me.lanes = [] := by decide +kernel

/-- Strands: one that has stopped on a fault, of an earlier TFETCH, and one that has ended. -/
theorem witness_join :
    let x : Strand := ⟨3, 0, [], 0, 0, 8, 0, 0, 0, some ⟨.badAddr, 5, 8, 2, 0⟩, false⟩
    let y : Strand := ⟨2, 0, [], 0, 0, 8, 0, 0, 4, none, false⟩
    let s := me (fun h => { h with vset := some { VSet.reset with strands := [y], unjoined := [x] } })
    x ∈ s.me.joining ∧ x.stop = some ⟨.badAddr, 5, 8, 2, 0⟩ ∧ (∀ t ∈ s.me.strands, t.running = false) ∧
    s.quiet s.cur.owner = true ∧ s.me.vqueue = [] ∧ s.me.lanes = [] ∧
    ∀ t ∈ s.me.joining, t.stop.isSome = true → t = x ∨ x.lane < t.lane := by
  decide +kernel

/-- RunInstructions: the pool of the hart's die. -/
theorem witness_ropen_pool :
    growTo (runs.ctx.poolAt (runs.me.core / 64) + 1) { Run.reset with
      gen := (runs.ctx.run 4).gen + 1, layout := BitVec.ofNat 64 (64 + 2 * 2 ^ 12), state := .opened, home := runs.me.core / 64 }
      (runs.ctx.poolAt (runs.me.core / 64)) 0 =
        some ({ Run.reset with gen := 1, layout := BitVec.ofNat 64 (64 + 2 * 2 ^ 12), state := .opened }, 0) ∧
    Named runs [1, 2, 3] := by
  unfold Named
  decide +kernel

/-- Streams: a hart with nothing in its lanes, one without a set, and a bound register as a destination. -/
theorem witness_stream_hart :
    runs.me.vset.isSome = true ∧ runs.me.lanes = [] ∧ bound.me.lanes = [] ∧ (me (fun h => { h with vset := none })).me.vset = none ∧
    bound.binds = [⟨24, .read, handle, 0, 0, [], ⟨0, 0, []⟩, 0, 0⟩] ∧ bound.me.strands = [] ∧
    bound.replaying bound.me.core bound.cur.owner = false ∧ bound.vlPending = false ∧ bound.me.vstart = 0 := by
  decide +kernel

theorem witness_stream_ordered : Ordered bound 0 := by unfold Ordered; decide +kernel

/-- Copies: the descriptor of `copy`, its head and the whole. -/
theorem witness_descriptor :
    Descriptor copying 0x1000 32 (copyBytes.take 32) ∧ Descriptor copying 0x1000 48 copyBytes ∧
    descField (copyBytes.take 32) 30 1 = 1 ∧ descField copyBytes 8 8 % 4 = 0 ∧ descField copyBytes 8 8 = 0 := by
  unfold Descriptor
  decide +kernel

theorem witness_pattern :
    patternOk copyBytes 1 = true ∧ checkPattern .patWrite (descPattern copyBytes 1) copying = .ok () copying :=
  ⟨by decide +kernel, of_passes (by decide +kernel)⟩

/-- A copy of 16 units of 4 bytes out of the range, a record in all, and the run's own copy, that nothing precedes. -/
def lineOut : CopyDesc := ⟨handle, 0, 0, ⟨0x2000, 4, [(16, 4)]⟩⟩

def copyingOut : State := { runs with ops := [op (.copyOut lineOut (some 5))] }

theorem witness_copy_starts :
    (copyingOut.runAt 0 (handleEntry lineOut.run)).state = .opened ∧ 0 < (copyingOut.runAt 0 (handleEntry lineOut.run)).size ∧
    (copyingOut.runAt 0 (handleEntry lineOut.run)).size ≤ lineOut.pat.total ∧ (op (.copyOut lineOut (some 5))).taken = [] ∧
    (∀ u < lineOut.pat.units, gives (copyingOut.unitAt (op (.copyOut lineOut (some 5))) .patRead lineOut.pat u)
      (.ls 0 (0x2000 + 4 * u)) = true) ∧
    (runs.runAt 0 (handleEntry handle3)).state = .opened ∧ 0 < (runs.runAt 0 2).pub ∧
    (runs.runAt 0 2).size = (runs.runAt 0 3).size ∧ runs.badIn 0 2 0 128 = none := by
  decide +kernel

/-- A copy that has taken P of its run and has its units to write; one that has taken a position. -/
theorem witness_copy_ends :
    let o := { op (.copyIn copy (some 5)) with phase := .working, counts := (128, 0, 0) }
    let s := { runs with ops := [o] }
    s.opAt 0 = some o ∧ o.counts.2.1 = 0 ∧ copy.pat.unit % 4 = 0 ∧ o.core < 512 ∧
    (∀ u < copy.pat.units, gives (s.unitAt o .patWrite copy.pat u) (.ls 0 (0x2000 + 8 * u)) = true) ∧
    s.badIn 0 (handleEntry copy.run) copy.off (min (copy.off + copy.pat.total) o.counts.1.toNat) = none := by
  decide +kernel

theorem witness_copy_taken :
    let x : Taken := ⟨2, 4, 4, 1, List.replicate 64 7⟩
    let o := { op (.copyOut lineOut none) with phase := .working, taken := [x] }
    let s := { runs with ops := [o] }
    let r := s.runAt 0 2
    s.opAt 0 = some o ∧ o.taken = [x] ∧ r.host = false ∧ 0 < r.size ∧ (x.first + x.count) * r.size ≤ r.capacity ∧
    x.data.length = x.count * r.size ∧ s.refusing 0 2 256 320 = none ∧ s.stale o 2 256 = false ∧ s.steps = none := by
  decide +kernel

theorem runs_canonical : Canonical runs ∧ Canonical copying := by unfold Canonical; decide +kernel

/-- MergeJobs: the descriptor of `sort`, its head and the whole. -/
theorem witness_job_descriptor :
    let head := Memory.readBytes sorting.mem (lsKey 0 0x1000) 64
    Descriptor sorting 0x1000 64 head ∧ descField head 63 1 = 1 ∧
    Descriptor sorting 0x1000 72 (Memory.readBytes sorting.mem (lsKey 0 0x1000) 72) ∧
    jobFieldsOk .sort (descField head 4 4) 1 (descField head 56 2) (descField head 58 2) (descField head 60 2) (descField head 62 1)
      (descWord head 40) (descWord head 48) = true := by
  unfold Descriptor
  decide +kernel

/-- A partition into two runs at the key 7. -/
def part : JobDesc := ⟨.part, 0x1000, 0, 0x2000, 0, 0, 2, 0, 0, 0, [handle], [handle, handle3], [7], 0⟩

def parting : State :=
  let s := data runs (List.replicate 32 0 ++ natLe 8 0x2000 ++ List.replicate 16 0 ++ natLe 2 2 ++ List.replicate 5 0 ++ [1] ++
    natLe 8 handle.toNat)
  { s with mem := Memory.writeBytes s.mem (lsKey 0 0x2000) (natLe 8 handle.toNat ++ natLe 8 handle3.toNat ++ natLe 8 7) }

theorem witness_part :
    let head := Memory.readBytes parting.mem (lsKey 0 0x1000) 64
    Descriptor parting 0x1000 64 head ∧
    Descriptor parting 0x1000 72 (Memory.readBytes parting.mem (lsKey 0 0x1000) 72) ∧
    descWord head 32 = 0x2000 ∧ descField head 56 2 = 2 ∧
    Descriptor parting 0x2000 24 (Memory.readBytes parting.mem (lsKey 0 0x2000) 24) ∧
    jobFieldsOk .part (descField head 4 4) 1 2 (descField head 58 2) (descField head 60 2) (descField head 62 1)
      (descWord head 40) (descWord head 48) = true := by
  unfold Descriptor
  decide +kernel

/-- A run without a poisoned or damaged line, of a die with fewer than three failed TSV groups, has no failing line. -/
theorem lines_sound (s : State) (c e : Nat) (h : (s.runAt c e).poison = [] ∧ (s.runAt c e).damage = [] ∧
    (vecGet Die.reset s.dies (s.runAt c e).home).tsv.length < 3) (line : Nat) : s.lineBad c e line = false := by
  obtain ⟨p, d, t⟩ := h
  unfold State.lineBad State.uncorrectable
  simp [p, d, t, lookupD]

/-- An operation that has translated nothing yet meets no refusal. -/
theorem stale_none (s : State) (o : Op) (e : Nat) (h : lookup? o.maps e = none) (off : Nat) : s.stale o e off = false := by
  unfold State.stale
  simp [h]

theorem takes_of (s : State) (o : Op) (e n : Nat)
    (h : s.late = false ∧ s.steps = none ∧ (s.runAt o.ctx e).state = .opened ∧ (s.runAt o.ctx e).host = false ∧
      0 < (s.runAt o.ctx e).size ∧ ((s.runAt o.ctx e).len + n) * (s.runAt o.ctx e).size ≤ (s.runAt o.ctx e).capacity ∧
      (s.runAt o.ctx e).capacity ≤ 2 ^ 42)
    (l : (s.runAt o.ctx e).poison = [] ∧ (s.runAt o.ctx e).damage = [] ∧
      (vecGet Die.reset s.dies (s.runAt o.ctx e).home).tsv.length < 3)
    (m : lookup? o.maps e = none) : Takes s o e n :=
  ⟨⟨h.1, h.2.1⟩, h.2.2.1, h.2.2.2.1, h.2.2.2.2.1, h.2.2.2.2.2.1, h.2.2.2.2.2.2, lines_sound _ _ _ l, stale_none _ _ _ m⟩

/-- A started RSORT emits its two records into entry 3, which takes them; one whose input's first line is poisoned stops. -/
theorem witness_job_starts :
    let o := op (.job sort)
    let s := { sorting with ops := [o] }
    (s.runJob o sort).2.stop = none ∧ (sort.dests.map handleEntry).Nodup ∧
    (∀ p ∈ (s.runJob o sort).2.emits, p.1 < sort.dests.length ∧ p.2.length = (s.runAt 0 3).size) ∧
    Takes s o 3 ((s.runJob o sort).2.emits.filter (fun p => p.1 = 0)).length := by
  refine ⟨by decide +kernel, by decide +kernel, by decide +kernel, takes_of _ _ _ _ (by decide +kernel) (by decide +kernel) (by decide +kernel)⟩

theorem witness_job_poisoned :
    let s := sorting.setCtx (sorting.ctx.setRun 2 { run with poison := [0] })
    s.badIn 0 (handleEntry (sort.inputs.headD 0)) 0 ((s.runAt 0 2).pub * (s.runAt 0 2).size) = some 0 := by
  decide +kernel

/-- The inputs of each kind of job, sound and in order: two runs whose records are all zero. -/
theorem witness_job_inputs :
    ∀ e ∈ [2, 3], runs.badIn 0 e 0 ((runs.runAt 0 e).pub * (runs.runAt 0 e).size) = none ∧
      keyCode (runs.runAt 0 e).layout = keyCode (runs.runAt 0 2).layout ∧
      (runs.recordsBelow 0 e (runs.runAt 0 e).pub).Pairwise (fun x y =>
        recKey (keyCode (runs.runAt 0 2).layout) x ≤ recKey (keyCode (runs.runAt 0 2).layout) y) := by
  decide +kernel

/-- Combine words of each code and type whose value lies in the record. -/
theorem witness_combine :
    (∀ c < 7, combCode (BitVec.ofNat 64 c) = c) ∧ combType 0 < 4 ∧ (∃ w : Word, combType w = 4) ∧ combOff 0 + 4 ≤ (natLe 8 1).length := by
  refine ⟨by decide +kernel, by decide +kernel, ?_, by decide +kernel⟩
  exact ⟨BitVec.ofNat 64 (4 * 2 ^ 8), by decide +kernel⟩

/-- GatherAndRouting: one outstanding index, below P, and one whose window's line is poisoned. -/
def gathering (poison : List Nat) : State :=
  let s := rregs [(1, handle)] (vecs 1 32 [(3, 5)])
  (s.setCtx (s.ctx.setRun 2 { run with poison := poison })).setMe (s.me.setMreg 1 1)

theorem witness_window :
    ∀ p ∈ [[], [0]], let s := gathering p
      s.vsew ∈ [8, 16, 32, 64] ∧ runHandleOk s s.ctx (s.rs 1) = true ∧ handleEntry (s.rs 1) ≠ 1 ∧
      0 < min s.vl 512 ∧ (s.me.mreg 1).getLsbD 0 = true ∧ elemOf (s.me.vreg 3) 0 32 = 5 ∧
      s.badIn s.group.ctx 2 0 (min (512 * 32 / 8) 128) = p.head? := by
  decide +kernel

theorem witness_window_ready : VectorReady (gathering [0]) := ⟨⟨loadedId, rfl⟩, by decide +kernel⟩

theorem witness_combine_word :
    (8 : Word).toNat < 2 ^ 32 ∧ bitsOf (0x0000_0400 : Word) 0 8 = 0 ∧ bitsOf (0x0000_0400 : Word) 8 8 ≤ 4 := by decide

/-- NearMemory: eight jobs that run, and a job of a command that is performed, and of one that stops at a poisoned record. -/
theorem witness_nmc_full :
    let s := { runs with ops := (List.range 8).map (fun k => { op (.nmc handle 0 1) with id := k }) }
    8 ≤ s.nmRunning s.cur.owner := by
  decide +kernel

/-- A command of each code on two elements of entry 3, with two others of it as its source. -/
def command (k : Nat) : List Byte :=
  natLe 1 k ++ natLe 3 0 ++ natLe 4 2 ++ natLe 8 handle3.toNat ++ natLe 8 0 ++
    natLe 8 (if 1 ≤ k ∧ k ≤ 5 then handle3.toNat else 0) ++ natLe 8 (if 1 ≤ k ∧ k ≤ 5 then 10 else 0) ++ List.replicate 24 0

/-- Entry 3 with 4-byte updatable elements, and that command in both records of entry 2 below P. -/
def updating (k : Nat) (poison : List Nat) : State :=
  let t := { run with layout := BitVec.ofNat 64 (4 + 2 ^ 16), len := 32, pub := 32 }
  let s := base.setCtx ((base.ctx.setRun 2 { run with poison := poison }).setRun 3 t)
  { s with mem := Memory.writeBytes s.mem (runKey 0 2 0) (command k ++ command k), ops := [op (.nmc handle 0 1)] }

/-- What the job of `updating` makes of the commands of entry 2. -/
def commands (s : State) (l : List Nat) : State × Op × NmDone :=
  State.runCommands handle l 0 0 { op (.nmc handle 0 1) with phase := .working, preds := [], counts := (0, 0, 2) } s

theorem witness_nmc_stop :
    let s := updating 6 [0]
    let r := commands s [0, 1]
    (match r.2.2 with
      | .ended k x => decide (k = 0) && x.isSome
      | .later _ _ => false) = true := by
  decide +kernel

theorem witness_nmc_command :
    ∀ k ∈ List.range 8, let s := updating k []
      let c := nmCommand (s.record 0 2 0)
      s.commandFault 0 handle c = none ∧ s.lineBad 0 2 0 = false ∧ c.op = k ∧ c.n = 2 ∧ handleEntry c.target = 3 ∧
      (s.runAt 0 3).host = false ∧ (s.runAt 0 3).pub * (s.runAt 0 3).size ≤ 2 ^ 42 ∧
      s.steps = none ∧ s.late = false ∧ (∀ i < c.n, s.commandBad 0 c i = none) ∧
      c.e0 = 0 ∧ (c.sourced = true → handleEntry c.source = 3 ∧ c.j0 = 10) := by
  decide +kernel

/-- A job of two such commands completes. -/
theorem witness_nmc_done :
    let s := updating 6 []
    s.opAt 0 = some (op (.nmc handle 0 1)) ∧ (s.runAt 0 2).pub = 2 ∧ (match (commands s [0, 1]).2.2 with
      | .ended k x => decide (k = 2) && x.isNone
      | .later _ _ => false) = true := by
  decide +kernel

/-- A job whose move is bounded to one element goes on later with the second. -/
theorem witness_nmc_later :
    let s := { updating 6 [] with steps := some 1 }
    (match (commands s [0, 1]).2.2 with
      | .ended _ _ => false
      | .later k i => decide (k = 0 ∧ i = 1)) = true := by
  decide +kernel

/-- NearMemory: a scan, and a count of one, that nothing precedes: of sound records, and of poisoned ones. -/
def scanned (dest : Option Reg) (poison : List Nat) : State :=
  let s := (data runs (List.replicate 48 0)).setCtx ((runs.ctx.setRun 2 { run with poison := poison }).setRun 4
    { run with layout := BitVec.ofNat 64 (16 + 2 ^ 12), len := 2, pub := 2 })
  { s with ops := [op (.scan { scan with dst := runHandle runs 4 run } dest)] }

theorem witness_scan_run :
    let d := { scan with dst := runHandle runs 4 run }
    let s := scanned none []
    s.opAt 0 = some (op (.scan d none)) ∧ (s.hart loadedId).core = 0 ∧ (s.groupAt 0).bases.getD 0 0 = 0 ∧
    ptrSpace d.ptr = 0 ∧ ptrOff d.ptr % 8 = 0 ∧ (s.groupAt 0).code ≤ ptrOff d.ptr ∧ ptrOff d.ptr + 48 ≤ (s.groupAt 0).range ∧
    lsKey 0 (ptrOff d.ptr) + 48 ≤ 2 ^ 64 ∧ d.voff + 4 ≤ (s.runAt 0 2).size ∧ (∀ p ∈ s.ops, p.taken = []) ∧
    s.badIn 0 2 0 128 = none ∧ handleEntry d.dst = 4 ∧ (s.runAt 0 4).size = 16 ∧ (s.runAt 0 4).pub ≤ (s.runAt 0 4).len ∧
    ((scanned (some 7) [0]).badIn 0 2 0 128 = some 0) := by
  decide +kernel

theorem witness_scan_takes : ∀ n ≤ 2, Takes (scanned none []) (op (.scan { scan with dst := runHandle runs 4 run } none)) 4 n := by
  intro n hn
  exact takes_of _ _ _ _ (by revert n; decide +kernel) (by decide +kernel) (by decide +kernel)

theorem scanned_canonical : Canonical (scanned none []) ∧ Canonical (scanned (some 7) [0]) := by unfold Canonical; decide +kernel

/-- TileCells: cells that lie here, of the last row. -/
theorem witness_cells :
    let es := base.cellsAt .vstore 4 1 [127] [0] (fun _ _ => 0x1000)
    es.length = 1 ∧ ∀ e ∈ es, gives e.at_ (.ls 0 0x1000) = true := by
  decide +kernel

/-- OperandStore: the descriptor of `osld`. -/
theorem witness_osld_descriptor : Descriptor (data runs osldBytes) 0x1000 40 osldBytes := by unfold Descriptor; decide +kernel

theorem witness_osld_bytes :
    let o := { op (.osld { osld with stride := 512, row := 0, rows := 2 } none) with phase := .working, counts := (128, 0, 0) }
    let s := { runs with ops := [o] }
    s.opAt 0 = some o ∧ ∀ t < 2, s.badIn 0 2 (0 + t * 512) (min (0 + t * 512 + 512) 128) = none := by
  decide +kernel

/-- Handles: an HWAIT that waits for an operation, for one that is performed, and for those that it began with. -/
theorem witness_hwait :
    let s := base.addOp 0 .copy (.publish handle)
    (∃ n ∈ s.me.hwait.getD ((s.core.seqr 0).entered.filter s.alive), s.alive n = true) ∧
    (∀ n ∈ base.me.hwait.getD ((base.core.seqr 0).entered.filter base.alive), base.alive n = false) ∧
    (me (fun h => { h with hwait := some [7] })).me.hwait = some [7] ∧ base.alive 7 = false := by
  refine ⟨⟨0, by decide +kernel, by decide +kernel⟩, ?_⟩
  decide +kernel

/-- Every sequencer of the core taken, one of them RETIRING or none. -/
def taken (st : SeqState) : State :=
  base.setCore { base.core with
    seqs := vecSet (Vector.replicate 64 { base.core.seqr 0 with state := .live, refs := 1 }) 9 { base.core.seqr 0 with state := st } }

theorem witness_exhausted :
    (taken .retiring).core.freeSeqr = none ∧ (taken .live).core.freeSeqr = none ∧
    ((taken .retiring).core.seqr 9).state = .retiring ∧ ∀ y ∈ (taken .live).core.seqs.toList, y.state ≠ .retiring := by
  decide +kernel

theorem witness_hret :
    let s := me (fun h => { h with hregs := vecSet h.hregs 1 (some 9) })
    (1 : HReg) ≠ 0 ∧ vecGet none s.hregs 1 = some 9 ∧ 5 < bitsOf (6 * 2 ^ 36 : Word) 36 3 := by
  decide +kernel

/-- Semaphores: an amount that must wait for what precedes it, and for one that waits; a grant with something performed before it. -/
theorem witness_semacq_waits :
    let s := base.addOp 0 .copy (.publish handle)
    (∃ p ∈ s.predsAt s.me.core 0, s.alive p = true) ∧ (s.core.waiters).all (fun w => decide (w.who ≠ s.cur)) = true ∧
    ∃ w ∈ ({ base.core with waiters := [⟨63, .hart ⟨0, 0, 1⟩, 5, 1, 0, []⟩] } : Core).waiters, w.sem = 63 ∧ w.who ≠ base.cur := by
  refine ⟨⟨0, by decide +kernel, by decide +kernel⟩, by decide +kernel, ⟨63, .hart ⟨0, 0, 1⟩, 5, 1, 0, []⟩, by decide +kernel⟩

theorem witness_semacq_behind : ¬Ordered (base.addOp 0 .copy (.publish handle)) 0 := by unfold Ordered; decide +kernel

theorem witness_granted :
    let w : SemWaiter := ⟨63, .hart loadedId, 5, 1, 0, [7]⟩
    (∀ p ∈ w.preds, base.alive p = false) ∧ w.who = .hart loadedId ∧ w.dest ≠ 0 ∧
    lookup? base.harts loadedId.key ≠ none ∧ 2 ^ 64 ≤ (BitVec.allOnes 64).toNat + (1 : Word).toNat := by
  decide +kernel

/-- Barriers: a member that arrives again, and a BARARW that finds its record. -/
theorem witness_barrier_again :
    let x := barred.barrier 0 31
    let s := barred.setBarrier 0 31 { x with arrived := [0] }
    (s.barrier 0 31).arrived.contains loadedId.num = true := by
  decide +kernel

theorem witness_barrier_record :
    let r := barred.setMe { barred.me with barRec := some (31, 0) }
    r.me.barRec = some (31, 0) ∧ (r.barrier 0 31).state = .armed ∧ tokenBelow (r.barrier 0 31).phase (0 : BitVec 32) = false := by
  decide +kernel

theorem witness_barrier_other : (barred.barrier 0 31).cfg ≠ 0x8000_0001 := by decide +kernel

/-- LaunchAndClaim: the record of zeros as a descriptor. -/
theorem witness_launch_descriptor :
    let s := (regs [(1, 0x1000)]).setCtx qctx
    Descriptor s 0x1000 64 (List.replicate 64 0) ∧ s.vlPending = false := by
  unfold Descriptor
  decide +kernel

/-- QueueControl: a queue with nothing left, and one with a launch left. -/
theorem witness_drain :
    Queue.reset.done = Queue.reset.seq ∧ ({ Queue.reset with seq := 1, kernels := [launch] } : Queue).done ≠ 1 := by
  decide +kernel

/-- GroupInstructions: no hart of the group in BOUND; a group that is still QUEUED. -/
theorem witness_others :
    base.me.lanes = [] ∧ (∀ h ∈ base.others, (base.hart h).state ≠ .bound) ∧
    (binding.queuedGroup 0 0 1).isSome = true ∧ (binding.ctxAt 0).state = .active := by
  decide +kernel

/-- GroupsMove: a save with nothing in flight. -/
theorem witness_save :
    let t := grouped (fun g => { g with state := .saving })
    ∀ h ∈ t.membersOf 0, (t.hart h).pending = 0 ∧ (t.hart h).vpending = 0 ∧ (t.hart h).lanes = [] ∧
      ∀ o ∈ t.ops, o.issuer.owner = h → o.kind.fillsSet = false ∧ o.kind.isTileLoad = false ∧
        (o.issuer = .hart h → o.loads = false) := by
  decide +kernel

/-- WaitsThatEnd: a hart that waits in another blocking instruction whose wait has ended, and one whose wait has not. -/
def halting (ops : List Op) : State :=
  let s := me (fun h => { h with state := .wait })
  { s with mem := Memory.writeBytes s.mem (lsKey 0 0) (natLe 4 (encode .halth).toNat), ops := ops }

theorem witness_halth :
    ∀ l ∈ [[], [op (.publish handle)]], let s := halting l
      (s.hart loadedId).state = .wait ∧ (s.hart loadedId).reports = [] ∧ (s.testing loadedId).word = encode .halth ∧
      ((after .halth (s.testing loadedId)).hart loadedId).state = if l = [] then .halted else .wait := by
  decide +kernel

theorem witness_halth_next : ∀ l, ∃ t, exec .halth ((halting l).testing loadedId) = .next t := by
  intro l
  show ∃ t, execHalth ((halting l).testing loadedId) = .next t
  unfold execHalth
  exact ⟨_, rfl⟩

theorem witness_reported :
    let s := me (fun h => { h with reports := [⟨.badAddr, 5, 0, .badAddr, 0, true⟩] })
    s.quiet loadedId = true ∧ (s.hart loadedId).stalled = none := by
  decide +kernel

/-- EscalatedTraps: a note asked for, with an OPEN fault run, and a service that Kennel does not know. -/
def noting : State :=
  let s := served 2 5
  s.setCtx (s.ctx.setRun 0 { Run.reset with
    layout := BitVec.ofNat 64 (32 + 2 ^ 12), state := .opened, mapped := [2 ^ 21], len := 4, pub := 2 })

theorem witness_note_run :
    (noting.runAt 0 0).state = .opened ∧ (noting.runAt 0 0).size = 32 ∧ (noting.runAt 0 0).host = false ∧
    (noting.runAt 0 0).pub ≤ (noting.runAt 0 0).len ∧ ((noting.runAt 0 0).len + 1) * 32 ≤ 2 ^ 42 ∧
    (∀ o ∈ noting.ops, o.taken = []) ∧ vecGet 0 (noting.hart loadedId).sregs 1 = 2 ∧
    3 < (vecGet 0 ((served 7 5).hart loadedId).sregs 1).toNat := by
  decide +kernel

theorem noting_canonical : Canonical noting := by unfold Canonical; decide +kernel

/-- ContextCommands: a command that waits for a context, and for an append. -/
theorem witness_command_waits :
    let waits := fun (w : HostWait) (s : State) => s.setVfAt 0 { s.vfAt 0 with busy := true, waits := some w }
    let c := waits (.context 0) base
    let d := waits (.context 0) (base.setCtx { base.ctx with state := .resetting })
    let a := waits (.append 0 2 7) base
    let b := waits (.append 0 2 0) { runs with ops := [op (.publish handle)] }
    (c.vfAt 0).waits = some (.context 0) ∧ (c.ctxAt 0).state ≠ .resetting ∧ (c.ctxAt 0).suspending = false ∧
    (d.ctxAt 0).vf = 0 ∧ (d.ctxAt 0).state = .resetting ∧
    (a.vfAt 0).waits = some (.append 0 2 7) ∧ a.alive 7 = false ∧ (b.vfAt 0).waits = some (.append 0 2 0) ∧ b.alive 0 = true := by
  decide +kernel

/-- RunCommands: an append to a run that Kennel alone fills, and a host run to be extended. -/
theorem witness_reserved_run :
    let r := runHandle (base.setCtx (base.ctx.setRun 1 run)) 1 run
    handleEntry r < 2 ∧ runHandleOk (base.setCtx (base.ctx.setRun 1 run)) (base.setCtx (base.ctx.setRun 1 run)).ctx r = true ∧
    (0x3000 : Word).toNat % 4096 = 0 ∧ 64 ≤ (8192 : Word).toNat ∧ runs.ops = [] := by
  decide +kernel

/-- Resets: an image that the ROM's key signs and one that it does not, in each step that may fail. -/
theorem witness_boot :
    (({ base.boot.kennel with key := base.boot.rom + 1 } : Firmware).key ≠ base.boot.rom) ∧ ∀ n ∈ [1, 5], 1 ≤ n ∧ n ≤ 5 := by
  decide +kernel

/-- Sessions: one that owes a DONE which has fallen due; a return; and a message of a reserved type. -/
theorem witness_returns :
    let s := base.setCtx { base.ctx with sessions := [{ session .opened with owed := [(9, [7])], refused := [⟨1, .badAddr, 2⟩] }] }
    ((s.ctxAt 0).session 5).state = .opened ∧ (s.alive 7 = false) ∧ 1 ≤ ((s.ctxAt 0).session 5).refused.length ∧
    (12 : BitVec 8).toNat ≥ 12 := by
  decide +kernel

/-- SequencedMessages: a message of an open session whose turn it is. -/
def msg (b : MsgBody) : Msg := ⟨0, 5, 0, 9, false, false, b⟩

/-- A message whose turn it is and which is applied at once finds a place, whatever the share is. -/
theorem takes_turn (s : State) (m : Msg)
    (h : (m.seq == BitVec.ofNat 32 ((s.ctxAt m.ctx).session m.chip).applied && (s.applyMsg m).isSome && (match m.body with
      | .train _ => false
      | _ => true)) = true) : s.takesMsg m = true := by
  unfold State.takesMsg
  exact (Bool.or_eq_true _ _).mpr (.inr h)

/-- A request of two words at 0x2000 of core 0, and of a core that the context does not have. -/
def request (core : Nat) (store : Bool) : ReqPacket := ⟨core, store, false, 32, 2, 0, [true, true], .unit 0x2000, [7, 8]⟩

theorem witness_req :
    (∀ st ∈ [true, false], ((request 0 st).elems.map (fun e => e.2.1) = [0x2000, 0x2004])) ∧
    (∀ off ∈ [0x2000, 0x2004], gives ((linked .opened).landing 0 0 0 off 4 true) 0 = true ∧
      gives ((linked .opened).landing 0 0 0 off 4 false) 0 = true) ∧
    fails ((linked .opened).landing 0 0 63 0x2000 4 true) .badAddr = true ∧
    ((linked .opened).ctxAt 0).session 5 = session .opened := by
  decide +kernel

theorem witness_req_taken : ∀ core ∈ [0, 63], ∀ st ∈ [true, false],
    (linked .opened).takesMsg (msg (.req (request core st))) = true := by
  intro c hc st hs
  refine takes_turn _ _ ?_
  revert st; revert c
  decide +kernel

/-- A train's element is taken where the share has room for it on each die. -/
theorem witness_train (h : ∀ d < 8, 1 ≤ shareOf 0 d) : (linked .opened).takesMsg (msg (.train [⟨0x2000, 7⟩])) = true := by
  have k : (List.range 8).all (fun die => !(linked .opened).msgOn die (msg (.train [⟨0x2000, 7⟩])) ||
      decide ((linked .opened).slotsBusy 0 die + (msg (.train [⟨0x2000, 7⟩])).slots ≤ shareOf 0 die)) = true := by
    rw [List.all_eq_true]
    intro d hd
    have e : ∀ d < 8, (linked .opened).slotsBusy 0 d + (msg (.train [⟨0x2000, 7⟩])).slots = 1 := by decide +kernel
    rw [e d (List.mem_range.mp hd)]
    simp [h d (List.mem_range.mp hd)]
  unfold State.takesMsg State.hasRoom
  exact (Bool.or_eq_true _ _).mpr (.inl ((Bool.or_eq_true _ _).mpr (.inr k)))

/-- A train that waits for its TAIL. -/
def training (off : Nat) : State :=
  base.setCtx { base.ctx with sessions := [{ session .opened with trains := [(9, [[⟨0x2000, 7⟩, ⟨off, 8⟩]])] }] }

theorem witness_tail :
    ((((((training 0x2004).ctxAt 0).session 5).trains.find? (fun p => p.1 == 9)).map Prod.snd).getD []).flatten =
      [⟨0x2000, 7⟩, ⟨0x2004, 8⟩] ∧
    (2 : BitVec 32).toNat = 2 ∧ (3 : BitVec 32).toNat ≠ 2 ∧
    fails ((training 0x20_0000).landing 0 0 0 0x20_0000 4 true) .badAddr = true := by
  decide +kernel

theorem witness_tail_taken : (training 0x2004).takesMsg (msg (.tail 2 0 false 32)) = true := takes_turn _ _ (by decide +kernel)

theorem witness_tail_count : (training 0x2004).takesMsg (msg (.tail 3 0 false 32)) = true := takes_turn _ _ (by decide +kernel)

theorem witness_tail_refused : (training 0x20_0000).takesMsg (msg (.tail 2 0 false 32)) = true := takes_turn _ _ (by decide +kernel)

/-- A full share: a called ticket has reserved more than any share is. -/
theorem witness_no_room :
    let s := (base.setDispenser 0 0 ⟨1, 1, [{ ticket with slots := 16385, called := true }]⟩)
    (s.setCtx { s.ctx with sessions := [session .opened] }).takesMsg (msg (.train [⟨0x2000, 7⟩])) = false := by
  intro s
  unfold State.takesMsg State.hasRoom
  have e : (s.setCtx { s.ctx with sessions := [session .opened] }).slotsBusy 0 0 + (msg (.train [⟨0x2000, 7⟩])).slots = 16386 := by
    decide +kernel
  have o : (s.setCtx { s.ctx with sessions := [session .opened] }).msgOn 0 (msg (.train [⟨0x2000, 7⟩])) = true := by
    decide +kernel
  have l : shareOf 0 0 ≤ 16384 := Nat.min_le_left _ _
  simp only [Bool.or_eq_false_iff, Bool.and_eq_false_imp]
  refine ⟨⟨rfl, ?_⟩, fun _ => rfl⟩
  rw [List.all_eq_false]
  refine ⟨0, by decide, ?_⟩
  have : (msg (.train [⟨0x2000, 7⟩])).ctx = 0 := rfl
  rw [this, e, o]
  simp
  omega

/-- A piece of a bulk send: to the store of core 0, and the last one for entry 2. -/
def piece (dst : Word) (last : Bool) : DataPiece := ⟨dst, 0, List.replicate 64 7, last, 64, none, none⟩

/-- `runs` with the open session. -/
def landing : State := runs.setCtx { runs.ctx with sessions := [session .opened] }

theorem witness_data :
    (∀ j < 16, gives (landing.landing 0 (ptrDie near) (ptrCore near) (ptrOff near + 0 + 4 * j) 4 true) 0 = true) ∧
    landing.physCore 0 (ptrDie near) (ptrCore near) = some 0 ∧ ptrSpace near ≠ 5 ∧ ptrSpace handle = 5 ∧
    (landing.landRun 0 handle (List.replicate 64 7) false false).2 = .done := by
  decide +kernel

theorem witness_data_taken :
    landing.takesMsg (msg (.data (piece near false))) = true ∧ landing.takesMsg (msg (.data (piece handle false))) = true ∧
    landing.takesMsg (msg (.data (piece handle true))) = true :=
  ⟨takes_turn _ _ (by decide +kernel), takes_turn _ _ (by decide +kernel), takes_turn _ _ (by decide +kernel)⟩

/-- A vector load that waits for its elements. -/
def awaiting : State := { linked .opened with ops := [{ op (.remoteVec 5 (some 3) [(0, 0x2000)] 32 false) with id := 9 }] }

theorem witness_rdata :
    awaiting.opAt 9 = some { op (.remoteVec 5 (some 3) [(0, 0x2000)] 32 false) with id := 9 } ∧
    (awaiting.hart loadedId).vset ≠ none ∧ lookup? awaiting.harts loadedId.key ≠ none ∧
    (msg (.rdata [(0, 7)])).tag.toNat = 9 := by
  decide +kernel

theorem witness_rdata_taken : awaiting.takesMsg (msg (.rdata [(0, 7)])) = true := takes_turn _ _ (by decide +kernel)

/-- A request for a ticket of a die of the context's and of another's, and the end of one; calls; a NOTE; a DONE. -/
theorem witness_ticket_messages :
    (((linked .opened).ctxAt 0).part.getD 7 []).isEmpty = true ∧ (((linked .opened).ctxAt 0).part.getD 0 []).isEmpty = false := by
  decide +kernel

theorem witness_other_bodies :
    (linked .opened).takesMsg (msg (.tkcall 0 7 false)) = true ∧ (linked .opened).takesMsg (msg (.note near 5 false)) = true ∧
    (linked .opened).takesMsg (msg (.note 0x70FC_0000_0000_2000 5 false)) = true ∧
    (linked .opened).takesMsg (msg (.tkreq 0 0 (some 3))) = true ∧ (linked .opened).takesMsg (msg (.tkreq 7 64 none)) = true ∧
    (linked .opened).takesMsg (msg (.done 9)) = true :=
  ⟨takes_turn _ _ (by decide +kernel), takes_turn _ _ (by decide +kernel), takes_turn _ _ (by decide +kernel),
    takes_turn _ _ (by decide +kernel), takes_turn _ _ (by decide +kernel), takes_turn _ _ (by decide +kernel)⟩

/-- SequencedMessages: a repeat's, an early and a gone session's; a hart that holds a ticket, and an import that waits for its DONE. -/
theorem witness_ticket_call :
    let s := { (linked .opened).setMe { (linked .opened).me with tickets := [⟨5, 0, 7, false, false, false⟩] } with
      ops := [op (.imported 5 9)] }
    s.harts.any (fun p => decide ((s.groupAt (p.1 / 512)).ctx = 0) &&
      p.2.tickets.any (fun k => decide (k.chip = 5 ∧ k.die = 0 ∧ k.number = 7))) = true ∧
    s.ops.find? (fun o => o.ctx == 0 && o.kind == .imported 5 9) = some (op (.imported 5 9)) ∧
    (linked .opened).ops.find? (fun o => o.ctx == 0 && o.kind == .imported 5 9) = none := by
  decide +kernel

/-- LinkRequests: a session in each state, a completion that brings a refusal, and a send to another core and to a run. -/
theorem witness_request_states :
    ∀ st ∈ [SessState.opened, .closed, .gone], (((linked st).ctxAt 0).session 5).state = st := by
  decide +kernel

theorem witness_send_core :
    let bs := Memory.readBytes sending.mem (lsKey 0 0x1000) 32
    Descriptor sending 0x1000 32 bs ∧ descWord bs 0 = near ∧ descField bs 16 4 = 64 ∧ sending.rs 2 = BitVec.allOnes 64 ∧
    gives (place sending .table (descField bs 16 4) 1 (descWord bs 8)) (.ls 0 0x3000) = true := by
  unfold Descriptor
  decide +kernel

/-- The same to entry 2. -/
def sendingRun : State :=
  rregs [(1, 0x1000), (2, BitVec.allOnes 64)]
    (data runs (natLe 8 handle.toNat ++ natLe 8 0x3000 ++ natLe 4 64 ++ natLe 4 (2 ^ 32 - 1) ++ natLe 8 0))

theorem witness_send_run :
    let bs := Memory.readBytes sendingRun.mem (lsKey 0 0x1000) 32
    Descriptor sendingRun 0x1000 32 bs ∧ sendOk bs = true ∧ descWord bs 0 = handle ∧ ptrSpace handle = 5 ∧
    ptrChip handle = sendingRun.chipId ∧ runHandleOk sendingRun sendingRun.ctx handle = true ∧ 2 ≤ handleEntry handle ∧
    (sendingRun.ctx.run 2).state = .opened ∧ descField bs 16 4 % (sendingRun.ctx.run 2).size = 0 := by
  unfold Descriptor
  decide +kernel

/-- A ticket that is called, one that is not, and one lost; the pass of a value to another chip. -/
theorem witness_tickets_held :
    let t : Held := ⟨0x3FF, 0, 7, false, false, false⟩
    let s := me (fun h => { h with tickets := [t] })
    s.me.ticketAt 0x3FF (some 0) 7 = some t ∧ t.lost = false ∧ t.cancelled = false ∧ t.called = false ∧
    (linked .opened).late = false ∧ (linked .opened).sentTo ((linked .opened).predsAt (linked .opened).me.core 0) 5 = true := by
  decide +kernel

/-- RoundingIsExact: values that are exact, tiny and too large in each format, and sums of them that are zero and that are not. -/
theorem witness_rounding :
    (0 < (3 : Nat)) ∧ (FVal.nan true).isNan = true ∧ (FVal.num false 3 (-1)).isNan = false ∧
    FVal.inf false ∈ [FVal.inf false, .num true 1 0] ∧ FVal.inf true ∉ [FVal.inf false, .num true 1 0] ∧
    (f32.decode 0x3F80_0000).isNan = false ∧ f64.width = 64 := by
  decide

/-! ## States that meet the hypotheses of the clauses on order, queues and bounds -/

/-- StepRunsTheDecodedInstruction: a move that is bounded, and one whose write the second hart of the core sees later. -/
theorem witness_moves :
    ({ base with agenda := [.bounded 1 (.perform 0)] } : State).agenda = .bounded 1 (.perform 0) :: [] ∧
    ({ later with agenda := [.hiding [(⟨0, 0, 1⟩, 512)] [] (.perform 0)] } : State).agenda =
      .hiding [(⟨0, 0, 1⟩, 512)] [] (.perform 0) :: [] ∧ base.hidden = [] ∧ base.under = [] := by
  decide +kernel

/-- LoopsForksAndWaits: both programs to fork, and a core that must wait; programs that have both ended, and one that has stopped beside
one that has ended. -/
theorem witness_fork_both :
    let s := regs [(1, 0x1_0000_0000), (2, 0x1_0000_0004)]
    s.rs 2 = BitVec.ofNat 64 (1 * 2 ^ 32 + 4) ∧ 4 + 4 * 1 ≤ s.codeSize ∧ s.hasTile = true ∧ s.core.tile.forked = none ∧
    s.core.streamFork = none ∧ s.outstanding s.cur.owner (fun c => c == .tile) = 0 ∧ s.tileFree (List.range 1024) = true ∧
    s.outstanding s.cur.owner (fun c => c == .copy) = 0 ∧
    ({ s with ops := [op (.publish 0)] } : State).outstanding s.cur.owner (fun c => c == .copy) ≠ 0 := by
  decide +kernel

theorem witness_rdv_both :
    ∀ p ∈ [prog true, stopped], ∀ q ∈ [prog true, stopped], (forked (some p) (some q)).me.tileProg = some p ∧
      (forked (some p) (some q)).me.streamProg = some q ∧ (prog true).stop = none ∧
      (forked (some p) (some q)).quiet loadedId = true ∧ (forked (some p) (some q)).me.vqueue = [] := by
  decide +kernel

/-- `base` with a load into s0 in flight. -/
def toZero : State := { base with ops := [{ op (.remote 5 (some ⟨0, 8, false⟩)) with cls := .load }] }

/-- TrapEntry: that load. -/
theorem witness_not_quiet_zero :
    ∃ o ∈ toZero.ops, o.issuer.owner = toZero.cur.owner ∧ o.issuer = toZero.cur ∧ o.loads = true ∧ toZero.me.pending = 0 :=
  ⟨_, List.mem_singleton_self _, by decide +kernel⟩

/-- WaitingAndHalting: a hart with a binding and a handle in h1 that no other register names. -/
theorem witness_halth_handles :
    let s := (bound.setHreg 1 (some 9)).setCore (bound.core.allocSeqr 9 .live 1 [] none 0)
    s.binds ≠ [] ∧ s.me.tileProg = none ∧ s.me.streamProg = none ∧ s.me.strands = [] ∧ s.me.lanes = [] ∧
    (∀ o ∈ s.ops, o.issuer.owner ≠ s.cur.owner) ∧ vecGet none s.me.hregs 1 = some 9 ∧ (s.core.seqr 9).refs ≤ 1 := by
  decide +kernel

/-- A store of the hart's own to the word at 0x1000 of its range that waits, behind a copy. -/
def storing : State :=
  after (.st 3 1 0 3 0) { rregs [(1, 0x1000)] (base.addOp 0 .copy (.publish handle)) with word := encode (.st 3 1 0 3 0) }

/-- ScalarMemory: an access that something before it under its handle holds, one to a word that waits, and a store behind a write that
its hart has still to see. -/
theorem witness_held :
    (∃ id ∈ storing.predsAt storing.me.core 0, storing.holds storing.cur.owner (storing.scopeOf storing.cur.owner 0) id = true) ∧
    storing.touching storing.cur.owner [512] storing.nextOp = true ∧
    (let s := { base.addOp 0 .copy (.publish handle) with hidden := [⟨loadedId, 0, lsKey 0 0x1000, 0⟩] }
     ∃ x ∈ s.hidden, x.hart = s.cur.owner ∧ [512].contains (x.key / 8) = true ∧ s.alive x.op = true) := by
  refine ⟨⟨0, by decide +kernel, by decide +kernel⟩, by decide +kernel, ⟨_, List.mem_singleton_self _, ?_⟩⟩
  decide +kernel

/-- ScalarMemory: a load that is performed in a move which leaves something for later. -/
theorem witness_performed_late :
    let s := { after (.ld 3 1 0 3 0) { rregs [(1, 0x1000)] base with late := true, word := encode (.ld 3 1 0 3 0) } with
      cur := .late loadedId 0 }
    s.late = true ∧ (s.opAt 0).isSome = true ∧ s.hasParts 0 = false := by
  decide +kernel

/-- ScansAndReductions: a vstart above 0, below n and at it. -/
theorem witness_reduction_resumed :
    ∀ k ∈ [(1 : BitVec 12), 3], VectorReady ((vecs 3 32 []).setMe { (vecs 3 32 []).me with vstart := k }) ∧
      (k = 1 → ((vecs 3 32 []).setMe { (vecs 3 32 []).me with vstart := k }).vstart < (vecs 3 32 []).count 32) := by
  intro k hk
  refine ⟨⟨⟨loadedId, rfl⟩, ?_⟩, ?_⟩ <;> revert k <;> decide +kernel

/-- VectorMemory: a VLDFF whose second element lies beyond the range. -/
theorem witness_first_fault :
    let s := vecs 2 32 []
    let es := s.velems .vload s.elemBytes s.vl 0 (fun i => 0x3_FFFC + BitVec.ofNat 64 (i * s.vsew / 8))
    ∃ f, es = [⟨0, 0x3_FFFC, .ok (.ls 0 0x3_FFFC)⟩] ++ ⟨1, 0x4_0000, .error f⟩ :: [] := by
  exact ⟨_, rfl⟩

/-- BlocksAndRelease, Strands: a hart with a TFETCH joined and words of the lanes left. -/
theorem witness_join_queued :
    let s := me (fun h => { h with lanes := [entry] })
    s.me.lanes ≠ [] ∧ (∀ e ∈ s.me.lanes, isTfetch e.word = false) ∧ (∀ t ∈ s.me.strands, t.running = false) := by
  decide +kernel

/-- RunInstructions: a sealing that finds an append binding, and a freeing of a run that a binding names. -/
theorem witness_marks_refused :
    let b := fun (k : BindKind) => (me (fun h => { h with vset := some { VSet.reset with binds := [⟨24, k, handle, 0, 0, [], ⟨0, 0, []⟩, 0, 0⟩] } })).setCtx
      runs.ctx
    let s := { b .append with ops := [op (.sealRun handle)] }
    let u := { b .read with ops := [op (.freeRun handle)] }
    s.appendPending 0 2 0 = true ∧ u.runNamed 0 2 0 = true ∧ (op (.sealRun handle)).issuer = .hart loadedId ∧
    lookup? s.harts loadedId.key ≠ none ∧ (s.runAt 0 2).state = .opened ∧ (base.ctx.run 4).mapped = [] ∧ base.ctx.stained = [] := by
  decide +kernel

/-- MergeJobs: a job of a USER combine whose hart's set is saved, and one that seals and has positions still to complete. -/
theorem witness_job_held :
    let j := { sort with kind := .merge, comb := 7 }
    let s := { sorting.setMe { sorting.me with vset := some { VSet.reset with state := .retained } } with ops := [op (.job j)] }
    let o := { op (.job { sort with flags := 1 }) with phase := .working, taken := [⟨3, 4, 4, 1, List.replicate 64 0⟩] }
    let t := { sorting.setCtx (sorting.ctx.setRun 3 { run with len := 5 }) with ops := [o] }
    s.jobRuns (op (.job j)) j = false ∧ t.allComplete 0 sort.dests = false ∧ bitOf (BitVec.ofNat 64 1) 0 = true ∧
    t.jobRuns o { sort with flags := 1 } = true := by
  decide +kernel

/-- Handles: an HWAIT held by an operation that some observer within its scope has still to see, and one that only others have. -/
theorem witness_hwait_scope :
    let s := (base.setCore (base.core.allocSeqr 0 .live 2 [] none 0)).addOp 0 .store (.publish handle)
    let t := { s with ops := s.ops.map (fun (o : Op) => { o with phase := .spread }), hidden := [⟨⟨1, 0, 0⟩, 0, lsKey 0 0x1000, 0⟩] }
    s.holds loadedId (s.scopeOf loadedId 0) 0 = true ∧ t.holds loadedId (t.scopeOf loadedId 0) 0 = false ∧ t.alive 0 = true := by
  decide +kernel

theorem witness_exhausted_import :
    let s := (taken .live).setRs 1 (exported.rs 1)
    let t := s.setCore { s.core with seqs := vecSet s.core.seqs 1 { exported.core.seqr 1 with owner := base.cur.owner.key } }
    t.core.freeSeqr = none ∧ t.importable (t.rs 1) = some 0 ∧ bitsOf (t.rs 1) 32 4 = 0 ∧
    (∀ y ∈ t.core.seqs.toList, y.state ≠ .retiring) := by
  decide +kernel

/-- Semaphores and Barriers: an amount held by what precedes it, and an arrival that is. -/
theorem witness_behind :
    let s := barred.addOp 0 .copy (.publish handle)
    (∃ id ∈ s.predsAt s.me.core 0, s.holds s.cur.owner (s.scopeOf s.cur.owner 0) id = true) ∧
    (∃ id ∈ s.predsAt s.me.core 0, s.holds s.cur.owner (max 2 (s.scopeOf s.cur.owner 0)) id = true) ∧
    (s.barrier 0 31).state = .armed := by
  refine ⟨⟨0, by decide +kernel, by decide +kernel⟩, ⟨0, by decide +kernel, by decide +kernel⟩, by decide +kernel⟩

/-- GroupInstructions: a group with a hart in BOUND, and one that leaves with a set still held. -/
theorem witness_bound_other :
    let s := (grouped (fun g => { g with harts := 2 })).setHart ⟨0, 0, 1⟩ { base.me with state := .bound }
    ⟨0, 0, 1⟩ ∈ s.others ∧ (s.hart ⟨0, 0, 1⟩).state = .bound := by
  decide +kernel

theorem witness_exiting_sets :
    let s := grouped (fun g => { g with state := .exiting })
    (∀ h ∈ s.membersOf 0, (s.hart h).lanes = []) ∧
    (((s.membersOf 0).filter (fun h => (s.hart h).vset.isSome)).foldl State.endHart s).groupOps 0 = [] := by
  decide +kernel

/-- GroupsMove: a set with a read binding to evict, and a save that no operation holds. -/
theorem witness_evict_binding :
    let b : Binding := ⟨24, .read, handle, 0, 0, [7], ⟨0, 0, []⟩, 0, 0⟩
    let v := { VSet.reset with state := .retained, binds := [b] }
    let s := me (fun h => { h with state := .saved, vset := some v })
    b ∈ v.binds ∧ b.kind = .read ∧ (s.hart loadedId).lanes = [] := by
  decide +kernel

/-- WaitsThatEnd: a hart that the room of the vector instruction queue holds. -/
def crowded (n : Nat) : State :=
  me (fun h => { h with state := .wait, vqueue := [encode (.vadd 3 1 2 0 0 2)], lanes := List.replicate n entry })

theorem witness_room :
    ((crowded 64).hart loadedId).state = .wait ∧ ((crowded 64).hart loadedId).vqueue ≠ [] ∧ (crowded 64).queueRoom loadedId = false ∧
    (crowded 63).queueRoom loadedId = true ∧ blocking (encode (.vadd 3 1 2 0 0 2)) = none := by
  decide +kernel

/-- EscalatedTraps: a fault run with room, and one whose record needs a page that the pool has. -/
theorem witness_note_pages :
    let r := noting.runAt 0 0
    let s := noting.setCtx { (noting.ctx.setRun 0 { r with mapped := [] }) with pools := [(0, 1)] }
    (r.grown ((r.len + 1) * 32)).units - r.units = 0 ∧ noting.lineBad 0 0 (r.len / 2) = false ∧
    ((s.runAt 0 0).grown (((s.runAt 0 0).len + 1) * 32)).units - (s.runAt 0 0).units = 1 ∧ (s.ctxAt 0).poolAt 0 = 1 ∧
    (s.ctxAt 0).stained = [] := by
  decide +kernel

/-- MemoryErrorsAndExtents: the pages that the first record still to be written needs. -/
theorem witness_extent_pages :
    let full := { run with len := 32768, pub := 4 }
    let s := { base.setCtx { base.ctx.setRun 2 full with pools := [(0, 1)] } with ops := [extending] }
    let r := s.runAt 0 2
    let n := (r.grown ((32768 + 1) * r.size)).units - r.units
    n = 1 ∧ gives (s.supply 0 0 n) s = true ∧
    fails (({ base.setCtx (base.ctx.setRun 2 full) with ops := [extending] } : State).supply 0 0 n) 4 = true := by
  decide +kernel

/-- ContextCommands: an append to a run that is there, and to one that is not, complete and not. -/
theorem witness_append_waits :
    let waits := fun (w : HostWait) (s : State) => s.setVfAt 0 { s.vfAt 0 with busy := true, waits := some w }
    let a := waits (.append 0 handle 7) runs
    let b := waits (.append 0 0 7) runs
    (a.vfAt 0).waits = some (.append 0 handle 7) ∧ a.alive 7 = false ∧ runHandleOk a (a.ctxAt 0) handle = true ∧
    (b.vfAt 0).waits = some (.append 0 0 7) ∧ runHandleOk b (b.ctxAt 0) 0 = false := by
  decide +kernel

/-- Sessions, SequencedMessages, LinkRequests: a chip with a station that carries traffic, and one with none. -/
theorem witness_linked :
    (linked .opened).linked = true ∧ loading.linked = true ∧
    ({ linked .opened with stations := Vector.replicate 16 Station.untrained } : State).linked = false ∧
    (∀ o ∈ (linked .gone).ops, o.ctx = 0 → o.addresses 5 = false) := by
  decide +kernel
/-! ## One step of an instruction, worked out by hand from its rule -/

/-- The scalar that an instruction leaves in a register. -/
def left (i : Instr) (s : State) (r : Reg) : Word := (after i s).rs r

/-- An element that an instruction leaves in a vector register. -/
def elem (i : Instr) (s : State) (r : Reg) (k w : Nat) : Nat := elemOf ((after i s).me.vreg r.toNat) k w

/-- R74: a sum wraps. -/
theorem test_add_wraps : left (.add 3 1 2) (regs [(1, BitVec.allOnes 64), (2, 2)]) 3 = 1 := by decide +kernel

/-- R73: s0 reads as zero and discards a write, and the hart goes on. -/
theorem test_s0_discards :
    left (.add 0 1 2) (regs [(1, 5), (2, 2)]) 0 = 0 ∧ (after (.add 0 1 2) (regs [(1, 5), (2, 2)])).pc = 4 := by decide +kernel

/-- R74: SLT is signed, SLTN is not. -/
theorem test_slt : left (.slt 3 1 2) (regs [(1, BitVec.allOnes 64), (2, 1)]) 3 = 1 := by decide +kernel

theorem test_sltn : left (.sltn 3 1 2) (regs [(1, BitVec.allOnes 64), (2, 1)]) 3 = 0 := by decide +kernel

/-- R74: an arithmetic shift uses the low six bits of s2. -/
theorem test_sra : left (.sra 3 1 2) (regs [(1, 0xFFFF_FFFF_FFFF_FFF0), (2, 66)]) 3 = 0xFFFF_FFFF_FFFF_FFFC := by
  decide +kernel

theorem test_ror : left (.ror 3 1 2) (regs [(1, 3), (2, 1)]) 3 = 0x8000_0000_0000_0001 := by decide +kernel

/-- R75: the high half of the product of n64s, and of i64s. -/
theorem test_mulhn : left (.mulhn 3 1 1) (regs [(1, BitVec.allOnes 64)]) 3 = 0xFFFF_FFFF_FFFF_FFFE := by decide +kernel

theorem test_mulh : left (.mulh 3 1 1) (regs [(1, BitVec.allOnes 64)]) 3 = 0 := by decide +kernel

/-- R75: division truncates toward zero; its corners are fixed. -/
theorem test_div : left (.div 3 1 2) (regs [(1, BitVec.ofInt 64 (-7)), (2, 2)]) 3 = BitVec.ofInt 64 (-3) := by decide +kernel

theorem test_div_corners :
    left (.div 3 1 0) (regs [(1, 7)]) 3 = BitVec.allOnes 64 ∧
    left (.div 3 1 2) (regs [(1, 2 ^ 63), (2, BitVec.allOnes 64)]) 3 = 2 ^ 63 := by decide +kernel

theorem test_rem : left (.rem 3 1 2) (regs [(1, BitVec.ofInt 64 (-7)), (2, 2)]) 3 = BitVec.ofInt 64 (-1) := by decide +kernel

theorem test_remn_zero : left (.remn 3 1 0) (regs [(1, 7)]) 3 = 7 := by decide +kernel

theorem test_clz_zero : left (.clz 3 0) base 3 = 64 := by decide +kernel

theorem test_brev : left (.brev 3 1) (regs [(1, 1)]) 3 = 2 ^ 63 := by decide +kernel

/-- R76: an immediate is sign-extended from its 15 bits. -/
theorem test_addi : left (.addi 3 1 0x7FFE) (regs [(1, 1)]) 3 = BitVec.allOnes 64 := by decide +kernel

/-- R79: a branch back by one word from 8, and one that is not taken. -/
theorem test_beq :
    let s := me (fun h => { h with pc := 8 })
    (after (.beq 0 0 0x7FFF) s).pc = 4 ∧ (after (.bne 0 0 0x7FFF) s).pc = 12 := by decide +kernel

/-- R80: the target is read before d is written. -/
theorem test_jalr :
    let s := regs [(5, 64)]
    (after (.jalr 5 5 0) s).pc = 64 ∧ (after (.jalr 5 5 0) s).rs 5 = 4 := by decide +kernel

theorem test_jal : (after (.jal 1 2) base).pc = 8 ∧ (after (.jal 1 2) base).rs 1 = 4 := by decide +kernel

/-- R83: a store of four bytes, least first, and the loads of a signed byte and of all four. -/
theorem test_st :
    (Memory.readBytes (after (.st 2 1 0 2 0) (regs [(1, 0x1000), (2, 0x1_8081_8283)])).mem (lsKey 0 0x1000) 5) =
      [0x83, 0x82, 0x81, 0x80, 0] := by decide +kernel

theorem test_ld_signed : left (.ld 3 1 0 0 0) (rregs [(1, 0x1000)] (data base [0x83, 0x82])) 3 = BitVec.ofInt 64 (-125) := by
  decide +kernel

/-- R256: an atomic gives the old value and leaves the sum. -/
theorem test_amoadd :
    let t := after (.amoadd 3 1 2 1 0) (rregs [(1, 0x1000), (2, 5)] (data base [7]))
    t.rs 3 = 7 ∧ Memory.readBytes t.mem (lsKey 0 0x1000) 2 = [12, 0] := by decide +kernel

/-- R100 and R95: a trap at P with a handler enters it at S; the cause, PC and operand are kept. -/
theorem test_trap :
    let t := after (.trap 1) ((handled.setRs 1 99).setMe { (handled.setRs 1 99).me with pc := 0x20 })
    t.me.priv = .s ∧ t.pc = 0x40 ∧ t.me.tpc = 0x20 ∧ t.me.tval = 99 := by decide +kernel

/-- R97: ERET gives back the PC, the level of the trap's prior bit and both start registers. -/
theorem test_eret :
    let t := after .eret atS
    t.pc = 0x80 ∧ t.me.priv = .p ∧ t.me.vstart = 3 ∧ t.me.kstart = 5 := by decide +kernel

theorem test_eret_at_p : (after .eret handled).me.priv = .s ∧ (after .eret handled).pc = 0x40 := by decide +kernel

/-- R104 and R38: vsew reads 32; tcause is not for P. -/
theorem test_csrr : left (.csrr 3 2) (me (fun h => { h with vsew := 32 })) 3 = 32 := by decide +kernel

theorem test_csrr_at_p : (after (.csrr 3 0x100) handled).pc = 0x40 := by decide +kernel

/-- R101: a WFE with a latch set gives it and clears it. -/
theorem test_wfe :
    let t := after (.wfe 3 0) (me (fun h => { h with latch := 6 }))
    t.rs 3 = 6 ∧ t.me.latch = 0 ∧ t.pc = 4 := by decide +kernel

/-- R118: 300 elements of 64 bits asked for; a register holds 256. -/
theorem test_setvl :
    let t := after (.setvl 3 1 3) (regs [(1, 300)])
    t.rs 3 = 256 ∧ t.vl = 256 ∧ t.vsew = 64 := by decide +kernel

/-- R119: an i32 sum wraps within its element; elements from vl on stay. -/
def sum : State := vecs 2 32 [(1, 0x5_0000_0006_0000_0007), (2, 0x1_FFFF_FFFF_0000_0002), (3, 0xAA_0000_0000_0000_0000)]

theorem test_vadd :
    elem (.vadd 3 1 2 0 0 2) sum 3 0 32 = 9 ∧ elem (.vadd 3 1 2 0 0 2) sum 3 1 32 = 5 ∧
    elem (.vadd 3 1 2 0 0 2) sum 3 2 32 = 0xAA := by decide +kernel

theorem test_vsub_first : elem (.vsub 3 2 1 0 0 2) sum 3 0 32 = 0xFFFF_FFFB := by decide +kernel

/-- R119: the saturating sum of 100 and 100 as i8. -/
theorem test_vadds : elem (.vadds 3 1 1 0 0 0) (vecs 1 8 [(1, 100)]) 3 0 8 = 127 := by decide +kernel

/-- R121: 1 + 2 = 3, 1 / 3 rounded to nearest, 0 / 0 the canonical NaN with its flag. -/
theorem test_vfadd : elem (.vfaddF32 3 1 2 0 0) (vecs 1 32 [(1, 0x3F80_0000), (2, 0x4000_0000)]) 3 0 32 = 0x4040_0000 := by
  decide +kernel

theorem test_vfdiv :
    elem (.vfdivF32 3 1 2 0 0) (vecs 1 32 [(1, 0x3F80_0000), (2, 0x4040_0000)]) 3 0 32 = 0x3EAA_AAAB ∧
    elem (.vfdivF32 3 1 2 0 0) (vecs 1 32 []) 3 0 32 = 0x7FC0_0000 := by decide +kernel

/-- R121: a fused product and sum rounds once: 3 × 2 + 1 = 7. -/
theorem test_vfma :
    elem (.vfmaF32 3 1 2 0 0) (vecs 1 32 [(1, 0x4040_0000), (2, 0x4000_0000), (3, 0x3F80_0000)]) 3 0 32 = 0x40E0_0000 := by
  decide +kernel

/-- R123: a signed comparison sets the bits of a mask. -/
theorem test_vcmplt :
    let t := after (.vcmpltI32 4 1 2 0 0) (vecs 3 32 [(1, 0x7_FFFF_FFFF_0000_0001), (2, 0x7_0000_0000_0000_0002)])
    (List.range 3).map (fun k => t.maskBit 4 k 32) = [true, true, false] := by decide +kernel

/-- R127: the sum of three elements, in element 0. -/
theorem test_vredsum : elem (.vredsumI32 3 1 0) (vecs 3 32 [(1, 0x3_0000_0002_0000_0001)]) 3 0 32 = 6 := by decide +kernel

/-- R126: each element becomes the sum up to and with itself. -/
theorem test_vscan : elem (.vscanI32 3 1 0) (vecs 3 32 [(1, 0x3_0000_0002_0000_0001)]) 3 1 32 = 3 := by
  decide +kernel

/-- R128: 2.5 to an integer rounds to even, 2. -/
theorem test_vcvt : elem (.vcvt 3 1 9 0 0 2) (vecs 1 32 [(1, 0x4020_0000)]) 3 0 32 = 2 := by decide +kernel

/-- R301: an amount that is there is taken, and d has the value found. -/
theorem test_semacq :
    let s := (regs [(1, 63), (2, 5)]).setCore { base.core with sems := vecSet base.core.sems 63 9 }
    let t := after (.semacq 3 1 2 0) s
    t.rs 3 = 9 ∧ t.core.sem 63 = 4 := by decide +kernel

/-- R305: the harts per core of the group. -/
theorem test_ginfo : left (.ginfo 3 1) (regs [(1, 3)]) 3 = 1 := by decide +kernel

/-- R238: a new handle has the lowest free sequencer of its core. -/
theorem test_hnew : vecGet none (after (.hnew 2 5) base).hregs 2 = some 1 := by decide +kernel

/-- R288: a CLAIM of 10 of the 3 that are left. -/
theorem test_claim :
    let s := (regs [(1, counter), (2, 10)]).setCtx { base.ctx with iters := 256, iter := [(255, (5, 8))] }
    let t := after (.claim 3 1 2 0) s
    t.rs 3 = 5 ∧ t.vl = 3 := by decide +kernel

/-- R164: the length of a run in records. -/
theorem test_rlen : left (.rlen 3 1 0) (rregs [(1, handle)] runs) 3 = 2 := by decide +kernel

/-- R85 and R248: a load that is left for later leaves s3 pending and the hart at its next word; performed, it gives its value. -/
theorem test_ld_later :
    let s := { rregs [(1, 0x1000)] (data base [0x2A]) with late := true, word := encode (.ld 3 1 0 3 0) }
    let t := { after (.ld 3 1 0 3 0) s with late := false }
    bitOf t.me.pending 3 = true ∧ t.pc = 4 ∧ vecGet 0 ((after (.ld 3 1 0 3 0) { t with cur := .late loadedId 0 }).hart loadedId).sregs 3 = 0x2A := by
  decide +kernel

/-- R111: a word of the vector instruction queue is executed with the vl of its issue, and the hart keeps its own. -/
theorem test_lanes :
    let s := { vecs 0 32 [(1, 0x5_0000_0006), (2, 0x1_0000_0002)] with agenda := [.lanes loadedId] }
    let s := s.setMe { s.me with lanes := [entry] }
    (match step s with
      | .next t => elemOf ((t.hart loadedId).vreg 3) 1 32 = 6 && (t.hart loadedId).vl == 0 && (t.hart loadedId).lanes.isEmpty
      | _ => false) = true := by
  decide +kernel

/-- R47 and R55: a VCVTB that reads a signalling NaN raises NV. -/
theorem test_vcvtb_nan : (after (.vcvtb 1 8 0) (vecs 32 32 [(8, 0x7F80_0001)])).me.fflags = 16 := by decide +kernel

/-- R101 and R302: a SEMREL past the range leaves the value, reports, and sets bit 0 of the latch. -/
theorem test_semrel_overflow :
    let s := (regs [(1, 63), (2, 2)]).setCore { base.core with sems := vecSet base.core.sems 63 (BitVec.allOnes 64) }
    let t := after (.semrel 1 2 0) s
    t.core.sem 63 = BitVec.allOnes 64 ∧ t.me.latch = 1 ∧ t.me.reports.map Report.cause = [.semOverflow] := by
  decide +kernel

/-- R247: a SEMACQ does not take its count before what precedes it is performed. -/
theorem test_semacq_waits :
    let s := (((regs [(1, 63), (2, 5)]).setCore { base.core with sems := vecSet base.core.sems 63 9 }).addOp 0 .copy
      (.publish handle))
    let t := after (.semacq 3 1 2 0) s
    t.me.state = .wait ∧ t.core.sem 63 = 9 := by
  decide +kernel

/-- R89: after RDV a program that is forked again is another: an error of the old one's copy goes to the hart. -/
theorem test_old_program :
    let o := { op (.copyIn copy none) with issuer := .seq loadedId .stream, prog := 3 }
    let s := forked none (some { prog false with id := 4 })
    let t := s.reportOp o .badAddr 5 false
    (t.me.prog .stream).stop = none ∧ t.me.reports.map Report.cause = [.engineStop] := by
  decide +kernel

/-- R319: a BARARW that traps keeps no record. -/
theorem test_bararw_trap :
    let s := me (fun h => { h with barRec := some (31, 0) })
    (after (.bararw 3 1 1) s).me.barRec = none := by
  decide +kernel

/-- R344 and R345: a count of the records that pass: the one value above the threshold of 5. -/
theorem test_scanth :
    let s := scanned (some 7) []
    let s := { s with mem := Memory.writeBytes s.mem (runKey 0 2 72) (natLe 4 6) }
    left (.scanRun 0) s 7 = 1 := by
  decide +kernel

/-- R181 and R185: an RSORT emits its records by key. -/
theorem test_rsort :
    let s := { sorting with ops := [op (.job sort)] }
    let s := { s with mem := Memory.writeBytes s.mem (runKey 0 2 0) (natLe 8 9 ++ List.replicate 56 0 ++ natLe 8 2) }
    (s.runJob (op (.job sort)) sort).2.emits.map (fun p => leNat (p.2.take 8)) = [2, 9] := by
  decide +kernel

end Sys2Proof.Tests
end

section
/-!
SUPPORT. Scalar arithmetic and branches (R74–R76, R79): the words of formats S and I and of the branches decode to their
instructions, what a register instruction and a branch leave, and the functions that the arithmetic tables name.
-/

namespace Sys2Proof.Machine

/-! ## Words written field by field -/

/-- A decoded word is the encoding of its instruction (R31, R40). -/
theorem encode_of_decode {w : IWord} {i : Instr} (h : decode w = .ok i) : encode i = w := by
  unfold decode at h
  split at h
  · cases h
  · split at h
    · cases h
    · rename_i hw
      split at h
      · cases h
        exact not_not.1 hw
      · cases h

/-- A well-formed instruction whose fields read back is what its word decodes to. -/
theorem decode_of_fieldsRead {w : IWord} {i : Instr} (hr : Laws.FieldsRead.Statement i) (hw : i.isWord = true)
    (hf : i.wf = true) (he : encode i = w) : decode w = .ok i := by
  subst he
  simp [decode, hr hw, hf]

/-- A field over lower ones adds its value at its place. -/
theorem toNat_append_eq_add {n k : Nat} (x : BitVec n) (y : BitVec k) :
    (x ++ y).toNat = x.toNat * 2 ^ k + y.toNat := by
  rw [BitVec.toNat_append, ← Nat.shiftLeft_add_eq_or_of_lt y.isLt, Nat.shiftLeft_eq]

/-- A word of format S (R32). -/
theorem sWord_eq (m f : Nat) (hm : m < 128) (_hf : f < 1024) (d a b : Reg) :
    (BitVec.ofNat 10 f ++ b ++ a ++ d ++ BitVec.ofNat 7 m : BitVec 32) =
      BitVec.ofNat 32 (m + f * 4194304 + d.toNat * 128 + a.toNat * 4096 + b.toNat * 131072) := by
  apply BitVec.eq_of_toNat_eq
  have := d.isLt
  have := a.isLt
  have := b.isLt
  simp only [toNat_append_eq_add, BitVec.toNat_ofNat]
  omega

/-- A word with a 15-bit field over two registers: format I, and the branches (R32). -/
theorem iWord_eq (m : Nat) (hm : m < 128) (i : BitVec 15) (d a : Reg) :
    (i ++ a ++ d ++ BitVec.ofNat 7 m : BitVec 32) =
      BitVec.ofNat 32 (m + d.toNat * 128 + a.toNat * 4096 + i.toNat * 131072) := by
  apply BitVec.eq_of_toNat_eq
  have := d.isLt
  have := a.isLt
  have := i.isLt
  simp only [toNat_append_eq_add, BitVec.toNat_ofNat]
  omega

/-- An S-format word whose fields are an instruction's decodes to it (R32, R39). -/
theorem decode_sWord {m f : Nat} {d a b : Reg} {i : Instr} (hr : Laws.FieldsRead.Statement i)
    (he : encode i = BitVec.ofNat 32 (m + f * 4194304 + d.toNat * 128 + a.toNat * 4096 + b.toNat * 131072))
    (hm : m < 128 := by decide) (hf : f < 1024 := by decide) (hw : i.isWord = true := by rfl)
    (hi : i.wf = true := by rfl) :
    decode (BitVec.ofNat 10 f ++ b ++ a ++ d ++ BitVec.ofNat 7 m : BitVec 32) = .ok i :=
  decode_of_fieldsRead hr hw hi (he.trans (sWord_eq m f hm hf d a b).symm)

/-- A word with a 15-bit field over two registers, whose fields are an instruction's, decodes to it (R32, R39). -/
theorem decode_iWord {m : Nat} {n : BitVec 15} {d a : Reg} {i : Instr} (hr : Laws.FieldsRead.Statement i)
    (he : encode i = BitVec.ofNat 32 (m + d.toNat * 128 + a.toNat * 4096 + n.toNat * 131072))
    (hm : m < 128 := by decide) (hw : i.isWord = true := by rfl) (hi : i.wf = true := by rfl) :
    decode (n ++ a ++ d ++ BitVec.ofNat 7 m : BitVec 32) = .ok i :=
  decode_of_fieldsRead hr hw hi (he.trans (iWord_eq m hm n d a).symm)

/-- The shift amount of an immediate shift is the low six bits of its 15-bit field, the rest of which is unused (R76). -/
theorem decode_shiftWord {m : Nat} {n : BitVec 6} {d a : Reg} {i : Instr} (hr : Laws.FieldsRead.Statement i)
    (he : encode i = BitVec.ofNat 32 (m + d.toNat * 128 + a.toNat * 4096 + n.toNat * 131072))
    (hm : m < 128 := by decide) (hw : i.isWord = true := by rfl) (hi : i.wf = true := by rfl) :
    decode (0#9 ++ n ++ a ++ d ++ BitVec.ofNat 7 m : BitVec 32) = .ok i := by
  have hn : (0#9 ++ n).toNat = n.toNat := by
    rw [toNat_append_eq_add]
    simp
  exact decode_iWord (n := 0#9 ++ n) hr (hn ▸ he) hm hw hi

/-- What holds of every entry of a table, entry by entry. -/
theorem forall_mem_table_cons {α β : Type} {x : α} {y : β} {l : List (α × β)} {P : α → β → Prop} :
    (∀ u v, (u, v) ∈ (x, y) :: l → P u v) ↔ P x y ∧ ∀ u v, (u, v) ∈ l → P u v := by
  simp [or_imp, forall_and]

theorem forall_mem_table_nil {α β : Type} {P : α → β → Prop} :
    (∀ u v, (u, v) ∈ ([] : List (α × β)) → P u v) ↔ True := by
  simp

/-! ## Register instructions -/

section

variable {s : State} {d a b : Reg}

/-- A two-source instruction of a hart writes d with its function of the sources (R74, R75). -/
theorem alu2_next (f : Word → Word → Word) (hh : ByHart s) (hn : Named s [d, a, b]) :
    alu2 d a b f s = .next (s.setRs d (f (s.rs a) (s.rs b))).retire := alu_next hh hn _

/-- A one-source instruction of a hart writes d with its function of the source (R75, R76). -/
theorem alu1_next (f : Word → Word) (hh : ByHart s) (hn : Named s [d, a]) :
    alu1 d a f s = .next (s.setRs d (f (s.rs a))).retire := alu_next hh hn _

/-- The same, with the value as another term. -/
theorem alu2_next_of_eq (f : Word → Word → Word) (hh : ByHart s) (hn : Named s [d, a, b]) {v : Word}
    (hv : f (s.rs a) (s.rs b) = v) : alu2 d a b f s = .next (s.setRs d v).retire := hv ▸ alu2_next f hh hn

theorem alu1_next_of_eq (f : Word → Word) (hh : ByHart s) (hn : Named s [d, a]) {v : Word}
    (hv : f (s.rs a) = v) : alu1 d a f s = .next (s.setRs d v).retire := hv ▸ alu1_next f hh hn

end

/-! ## Comparisons -/

/-- A choice by the signed comparison of words is one by their integers. -/
theorem ite_slt {α : Type} (x y : Word) (p q : α) :
    (if x.slt y then p else q) = if x.toInt < y.toInt then p else q := by
  simp only [BitVec.slt_iff_toInt_lt]

theorem min_signed_eq (x y : Word) : (if y.slt x then y else x) = if x.toInt ≤ y.toInt then x else y := by
  simp only [BitVec.slt_iff_toInt_lt, ← Int.not_le, ite_not]

/-- Where MAX's two integers are equal, so are its words. -/
theorem max_signed_eq (x y : Word) : (if x.slt y then y else x) = if x.toInt ≤ y.toInt then y else x := by
  obtain h | h | h := Int.lt_trichotomy x.toInt y.toInt
  · rw [if_pos (BitVec.slt_iff_toInt_lt.2 h), if_pos (Int.le_of_lt h)]
  · rw [BitVec.eq_of_toInt_eq h, ite_self, ite_self]
  · rw [if_neg (mt BitVec.slt_iff_toInt_lt.1 (Int.lt_asymm h)), if_neg (Int.not_le.2 h)]

/-- A choice by the unsigned comparison of words is one by the numbers that they hold. -/
theorem ite_ult {α : Type} (x y : Word) (p q : α) :
    (if x.ult y then p else q) = if x.toNat < y.toNat then p else q := by
  simp only [BitVec.ult_iff_toNat_lt]

theorem min_unsigned_eq (x y : Word) : (if y.ult x then y else x) = if x.toNat ≤ y.toNat then x else y := by
  simp only [BitVec.ult_iff_toNat_lt, ← Nat.not_le, ite_not]

theorem max_unsigned_eq (x y : Word) : (if x.ult y then y else x) = if x.toNat ≤ y.toNat then y else x := by
  obtain h | h | h := Nat.lt_trichotomy x.toNat y.toNat
  · rw [if_pos (BitVec.ult_iff_toNat_lt.2 h), if_pos (Nat.le_of_lt h)]
  · rw [BitVec.eq_of_toNat_eq h, ite_self, ite_self]
  · rw [if_neg (mt BitVec.ult_iff_toNat_lt.1 (Nat.lt_asymm h)), if_neg (Nat.not_le.2 h)]

theorem not_slt_iff (x y : Word) : (!x.slt y) = true ↔ y.toInt ≤ x.toInt := by
  rw [Bool.not_eq_true', ← Bool.not_eq_true, BitVec.slt_iff_toInt_lt, Int.not_lt]

theorem not_ult_iff (x y : Word) : (!x.ult y) = true ↔ y.toNat ≤ x.toNat := by
  rw [Bool.not_eq_true', ← Bool.not_eq_true, BitVec.ult_iff_toNat_lt, Nat.not_lt]

/-! ## Products, quotients and remainders -/

theorem mul_eq_ofNat (x y : Word) : x * y = BitVec.ofNat 64 (x.toNat * y.toNat) := by
  apply BitVec.eq_of_toNat_eq
  simp

/-- The quotient truncated toward zero, as a word, is the library's signed division. -/
theorem ofInt_tdiv (x y : Word) : BitVec.ofInt 64 (x.toInt.tdiv y.toInt) = x.sdiv y :=
  BitVec.eq_of_toInt_eq (by rw [BitVec.toInt_ofInt, BitVec.toInt_sdiv])

theorem ofInt_tmod (x y : Word) : BitVec.ofInt 64 (x.toInt.tmod y.toInt) = x.srem y := by
  apply BitVec.eq_of_toInt_eq
  rw [BitVec.toInt_ofInt, ← BitVec.toInt_srem, BitVec.toInt_bmod_cancel]

theorem divSigned_of_zero (x : Word) {y : Word} (hy : y = 0) : divSigned x y = BitVec.allOnes 64 := if_pos hy

theorem divSigned_of_ne_zero (x : Word) {y : Word} (hy : y ≠ 0) : divSigned x y = x.sdiv y := by
  rw [divSigned, if_neg hy, ofInt_tdiv]

theorem divSigned_intMin_neg_one : divSigned (BitVec.intMin 64) (BitVec.allOnes 64) = BitVec.intMin 64 := by decide

/-- The quotient of R75 is truncated toward zero, but where it has no word. -/
theorem toInt_divSigned {x y : Word} (hy : y ≠ 0) (h : ¬(x = BitVec.intMin 64 ∧ y = BitVec.allOnes 64)) :
    (divSigned x y).toInt = x.toInt.tdiv y.toInt := by
  rw [divSigned_of_ne_zero x hy, BitVec.toInt_sdiv_of_ne_or_ne]
  rwa [BitVec.neg_one_eq_allOnes, ← not_and_or]

theorem remSigned_of_zero (x : Word) {y : Word} (hy : y = 0) : remSigned x y = x := if_pos hy

theorem remSigned_intMin_neg_one : remSigned (BitVec.intMin 64) (BitVec.allOnes 64) = 0 := by decide

/-- The remainder of R75 is what the truncated quotient leaves. -/
theorem toInt_remSigned {x y : Word} (hy : y ≠ 0) :
    (remSigned x y).toInt = x.toInt - y.toInt * x.toInt.tdiv y.toInt := by
  rw [remSigned, if_neg hy, ofInt_tmod, BitVec.toInt_srem, Int.tmod_def]

/-- An unsigned quotient or remainder that is no greater than its word has that value. -/
theorem toNat_ite_zero {y z : Word} {n : Nat} (hy : y ≠ 0) {x : Word} (hn : n ≤ x.toNat) :
    (if y = 0 then z else BitVec.ofNat 64 n).toNat = n := by
  rw [if_neg hy, BitVec.toNat_ofNat, Nat.mod_eq_of_lt (Nat.lt_of_le_of_lt hn x.isLt)]

/-! ## Bit counts and reversal -/

/-- `leadingZeros` counts the zero bits from bit n − 1 down to the first one bit. -/
theorem leadingZeros_spec (x : Word) (n : Nat) :
    leadingZeros x n ≤ n ∧ (∀ k, n - leadingZeros x n ≤ k → k < n → x.getLsbD k = false) ∧
      (leadingZeros x n < n → x.getLsbD (n - 1 - leadingZeros x n) = true) := by
  induction n with
  | zero => simp [leadingZeros]
  | succ n ih =>
    obtain ⟨hle, hzero, hone⟩ := ih
    unfold leadingZeros
    split
    · rename_i hx
      exact ⟨by omega, fun k h1 h2 => by omega, fun _ => hx⟩
    · rename_i hx
      refine ⟨by omega, fun k h1 h2 => ?_, fun h => ?_⟩
      · obtain rfl | hk := Nat.lt_succ_iff_lt_or_eq.1 h2 |>.symm
        · simpa using hx
        · exact hzero k (by omega) hk
      · have := hone (by omega)
        rwa [show n + 1 - 1 - (1 + leadingZeros x n) = n - 1 - leadingZeros x n by omega]

/-- `trailingZeros` counts the zero bits from bit 64 − n up to the first one bit. -/
theorem trailingZeros_spec (x : Word) (n : Nat) (hn : n ≤ 64) :
    trailingZeros x n ≤ n ∧ (∀ k < trailingZeros x n, x.getLsbD (64 - n + k) = false) ∧
      (trailingZeros x n < n → x.getLsbD (64 - n + trailingZeros x n) = true) := by
  induction n with
  | zero => simp [trailingZeros]
  | succ n ih =>
    obtain ⟨hle, hzero, hone⟩ := ih (by omega)
    unfold trailingZeros
    split
    · rename_i hx
      exact ⟨by omega, fun k h => by omega, fun _ => by rwa [show 64 - (n + 1) + 0 = 63 - n by omega]⟩
    · rename_i hx
      refine ⟨by omega, fun k h => ?_, fun h => ?_⟩
      · cases k with
        | zero => simpa [show 64 - (n + 1) = 63 - n by omega] using hx
        | succ k =>
          rw [show 64 - (n + 1) + (k + 1) = 64 - n + k by omega]
          exact hzero k (by omega)
      · rw [show 64 - (n + 1) + (1 + trailingZeros x n) = 64 - n + trailingZeros x n by omega]
        exact hone (by omega)

/-- `oneBits` is the number of one bits below n. -/
theorem oneBits_eq_length {w : Nat} (x : BitVec w) (n : Nat) :
    oneBits x n = ((List.range n).filter (fun k => x.getLsbD k)).length := by
  induction n with
  | zero => rfl
  | succ n ih =>
    rw [oneBits, ih, List.range_succ, List.filter_append, List.length_append, Nat.add_comm]
    cases h : x.getLsbD n <;> simp [h]

/-- The lowest n bits lie reversed in the highest n: the result is a multiple of 2^(64 − n). -/
theorem two_pow_dvd_bitReverse (x : Word) (n : Nat) (hn : n ≤ 64) : 2 ^ (64 - n) ∣ bitReverse x n := by
  induction n with
  | zero => simp [bitReverse]
  | succ n ih =>
    have hhigh : 2 ^ (64 - (n + 1)) ∣ bitReverse x n := (Nat.pow_dvd_pow 2 (by omega)).trans (ih (by omega))
    rw [bitReverse, show 63 - n = 64 - (n + 1) by omega]
    exact Nat.dvd_add (by split <;> simp) hhigh

/-- Bit 63 − k of the reversal of the lowest n bits is bit k (R75). -/
theorem testBit_bitReverse (x : Word) (n k : Nat) (hn : n ≤ 64) (hk : k < n) :
    (bitReverse x n).testBit (63 - k) = x.getLsbD k := by
  induction n with
  | zero => omega
  | succ n ih =>
    obtain ⟨q, hq⟩ := two_pow_dvd_bitReverse x n (by omega)
    have hlow : (if x.getLsbD n then 2 ^ (63 - n) else 0) < 2 ^ (64 - n) := by
      split
      · exact Nat.pow_lt_pow_right (by decide) (by omega)
      · exact Nat.two_pow_pos _
    rw [bitReverse, hq, Nat.add_comm, Nat.testBit_two_pow_mul_add q hlow]
    obtain rfl | hlt := Nat.lt_succ_iff_lt_or_eq.1 hk |>.symm
    · rw [if_pos (by omega)]
      cases x.getLsbD k <;> simp
    · rw [if_neg (by omega), ← ih (by omega) hlt, hq, Nat.testBit_two_pow_mul,
        decide_eq_true (show 63 - k ≥ 64 - n by omega), Bool.true_and]

theorem getLsbD_bitReverse (x : Word) {k : Nat} (hk : k < 64) :
    (BitVec.ofNat 64 (bitReverse x 64)).getLsbD (63 - k) = x.getLsbD k := by
  rw [BitVec.getLsbD_ofNat, testBit_bitReverse x 64 k (Nat.le_refl 64) hk, decide_eq_true (by omega), Bool.true_and]

/-! ## Branches -/

section

variable {s : State} {a b : Reg} {o : BitVec 15} {test : Word → Word → Bool}

/-- A transfer to outside the code area traps FETCH_BOUND with the target (R78). -/
theorem checkTarget_trap {t : Word} (h : s.inCode t = false) :
    checkTarget t s = .error (.trap (.at .fetchBound t)) s := by
  simp [checkTarget, h]

/-- A branch whose comparison does not hold goes to the next word (R79). -/
theorem branch_not_taken (hh : ByHart s) (hn : Named s [a, b]) (ht : test (s.rs a) (s.rs b) = false) :
    branch a b o test s = .next s.retire :=
  issue_ok (f := .seq) hh _ (by simp only [run_bind, run_get, run_pure, named_ok hn, ht, Bool.false_eq_true, if_false])

/-- A branch whose comparison holds goes to its target in the code area (R79). -/
theorem branch_taken (hh : ByHart s) (hn : Named s [a, b]) (ht : test (s.rs a) (s.rs b) = true)
    (hc : s.inCode (s.pc + o.signExtend 64 * 4) = true) :
    branch a b o test s = .next (s.goto (s.pc + o.signExtend 64 * 4)) :=
  issue_ok (f := .goto _) hh _ (by simp only [run_bind, run_get, run_pure, named_ok hn, ht, if_true, checkTarget_ok hc])

/-- A branch whose comparison holds and whose target lies outside the code area traps FETCH_BOUND (R78). -/
theorem branch_trap (hh : ByHart s) (hn : Named s [a, b]) (ht : test (s.rs a) (s.rs b) = true)
    (hc : s.inCode (s.pc + o.signExtend 64 * 4) = false) :
    branch a b o test s =
      .next (State.takeTrap s (.at .fetchBound (s.pc + o.signExtend 64 * 4)) s) :=
  issue_hart (r := .error (.trap _) s) hh _
    (by simp only [run_bind, run_get, named_ok hn, ht, if_true, checkTarget_trap hc])

/-- The three ways of a branch whose test decides `p` (R78, R79). -/
theorem branch_cases {p : Prop} (test : Word → Word → Bool) (hh : ByHart s) (hn : Named s [a, b])
    (hp : test (s.rs a) (s.rs b) = true ↔ p) :
    let dest := s.pc + o.signExtend 64 * 4
    (¬p → branch a b o test s = .next s.retire) ∧
    (p → dest.toNat + 4 ≤ s.codeSize → branch a b o test s = .next (s.goto dest)) ∧
    (p → ¬(dest.toNat + 4 ≤ s.codeSize) → branch a b o test s = .next (State.takeTrap s (.at .fetchBound dest) s)) :=
  ⟨fun h => branch_not_taken hh hn (Bool.not_eq_true _ ▸ mt hp.1 h),
    fun h hc => branch_taken hh hn (hp.2 h) (decide_eq_true hc),
    fun h hc => branch_trap hh hn (hp.2 h) (decide_eq_false hc)⟩

end

/-! ## ERET -/

/-- ERET at S returns as R97 says. -/
theorem execEret_of_priv_s {s : State} (hh : ByHart s) (hp : s.me.priv = .s) :
    execEret s = .next (s.setMe s.me.eret) :=
  issue_ok (f := .stay) (t := s.setMe s.me.eret) hh _ (by simp [hp])

/-- ERET at P traps PRIVILEGE with its word (R97). -/
theorem execEret_of_priv_p {s : State} (hh : ByHart s) (hp : s.me.priv = .p) :
    execEret s = .next (State.takeTrap s (.at .privilege (s.word.setWidth 64)) s) :=
  issue_hart (r := .error (.trap _) s) hh _ (by simp [hp])

theorem eret_vstart (h : Hart) : h.eret.vstart = h.tstart.setWidth 12 := by
  show BitVec.ofNat 12 h.tstart.toNat = _
  exact BitVec.ofNat_toNat ..

theorem eret_kstart (h : Hart) : h.eret.kstart = (h.tstart >>> 32).setWidth 32 := by
  apply BitVec.eq_of_toNat_eq
  show (BitVec.ofNat 32 (h.tstart.toNat / 2 ^ 32)).toNat = _
  simp [Nat.shiftRight_eq_div_pow]

/-- The only word of ERET (R32, R40). -/
theorem decode_eq_eret_iff (w : IWord) :
    decode w = .ok .eret ↔ w = BitVec.ofNat 10 1 ++ 0#5 ++ 0#5 ++ 0#5 ++ 0x1C#7 := by
  have hw : encode .eret = BitVec.ofNat 10 1 ++ 0#5 ++ 0#5 ++ 0#5 ++ 0x1C#7 := by decide
  rw [← hw]
  exact ⟨fun h => (encode_of_decode h).symm, fun h => h ▸ decode_of_fieldsRead Laws.FieldsRead.eret rfl rfl rfl⟩

end Sys2Proof.Machine
end

section
/-! SUPPORT. The statements about scalar arithmetic, branches and the return from a trap. -/

namespace Sys2Proof.Proofs

open Machine Laws

/-- Settles O14: ERET is the encoding of its word alone, and its two ways are those of `execEret`. -/
theorem returnFromTrap : Obligations.ReturnFromTrap := by
  unfold Obligations.ReturnFromTrap
  refine ⟨decode_eq_eret_iff, fun s hh => ⟨fun hs => ?_, fun hp => execEret_of_priv_p hh hp⟩⟩
  refine ⟨s.setMe s.me.eret, execEret_of_priv_s hh hs, ?_⟩
  rw [State.me_setMe, eret_vstart, eret_kstart]
  exact ⟨rfl, rfl, rfl, rfl, rfl, rfl, rfl, rfl⟩

/-- Settles O9: each branch is `branch` with a test that decides its comparison. -/
theorem branches : Obligations.Branches := by
  unfold Obligations.Branches
  intro a b o s hh hn x y dest m i p hmem
  simp only [List.mem_cons, Prod.mk.injEq, List.not_mem_nil, or_false] at hmem
  obtain ⟨rfl, rfl, rfl⟩ | ⟨rfl, rfl, rfl⟩ | ⟨rfl, rfl, rfl⟩ | ⟨rfl, rfl, rfl⟩ | ⟨rfl, rfl, rfl⟩ |
    ⟨rfl, rfl, rfl⟩ := hmem
  · exact ⟨decode_iWord (FieldsRead.beq a b o) rfl, branch_cases (fun x y => x == y) hh hn beq_iff_eq⟩
  · exact ⟨decode_iWord (FieldsRead.bne a b o) rfl, branch_cases (fun x y => x != y) hh hn bne_iff_ne⟩
  · exact ⟨decode_iWord (FieldsRead.blt a b o) rfl, branch_cases BitVec.slt hh hn BitVec.slt_iff_toInt_lt⟩
  · exact ⟨decode_iWord (FieldsRead.bge a b o) rfl, branch_cases (fun x y => !x.slt y) hh hn (not_slt_iff x y)⟩
  · exact ⟨decode_iWord (FieldsRead.bltn a b o) rfl, branch_cases BitVec.ult hh hn BitVec.ult_iff_toNat_lt⟩
  · exact ⟨decode_iWord (FieldsRead.bgen a b o) rfl, branch_cases (fun x y => !x.ult y) hh hn (not_ult_iff x y)⟩

/-- Settles O7: each instruction is `alu2` or `alu1` of a function whose value is the table's. -/
theorem scalarArithmetic : Obligations.ScalarArithmetic := by
  unfold Obligations.ScalarArithmetic
  refine ⟨?registers, ?products, ?unary, ?immediates⟩
  case registers =>
    intro d a b s hh hn
    refine ⟨?_, alu2_next (· + ·) hh hn, alu2_next (· - ·) hh hn, alu2_next (· &&& ·) hh hn,
      alu2_next (· ||| ·) hh hn, alu2_next (· ^^^ ·) hh hn, alu2_next (fun x y => x &&& ~~~y) hh hn,
      alu2_next (fun x y => x <<< amount y) hh hn, alu2_next (fun x y => x >>> amount y) hh hn,
      alu2_next (fun x y => x.sshiftRight (amount y)) hh hn, alu2_next (fun x y => x.rotateLeft (amount y)) hh hn,
      alu2_next (fun x y => x.rotateRight (amount y)) hh hn,
      alu2_next_of_eq (fun x y => if x.slt y then 1 else 0) hh hn (ite_slt ..),
      alu2_next_of_eq (fun x y => if x.ult y then 1 else 0) hh hn (ite_ult ..),
      alu2_next_of_eq (fun x y => if y.slt x then y else x) hh hn (min_signed_eq ..),
      alu2_next_of_eq (fun x y => if x.slt y then y else x) hh hn (max_signed_eq ..),
      alu2_next_of_eq (fun x y => if y.ult x then y else x) hh hn (min_unsigned_eq ..),
      alu2_next_of_eq (fun x y => if x.ult y then y else x) hh hn (max_unsigned_eq ..)⟩
    simp only [forall_mem_table_cons, forall_mem_table_nil, and_true]
    exact ⟨decode_sWord (FieldsRead.add d a b) rfl, decode_sWord (FieldsRead.sub d a b) rfl,
      decode_sWord (FieldsRead.and d a b) rfl, decode_sWord (FieldsRead.or d a b) rfl,
      decode_sWord (FieldsRead.xor d a b) rfl, decode_sWord (FieldsRead.andn d a b) rfl,
      decode_sWord (FieldsRead.sll d a b) rfl, decode_sWord (FieldsRead.srl d a b) rfl,
      decode_sWord (FieldsRead.sra d a b) rfl, decode_sWord (FieldsRead.rol d a b) rfl,
      decode_sWord (FieldsRead.ror d a b) rfl, decode_sWord (FieldsRead.slt d a b) rfl,
      decode_sWord (FieldsRead.sltn d a b) rfl, decode_sWord (FieldsRead.min d a b) rfl,
      decode_sWord (FieldsRead.max d a b) rfl, decode_sWord (FieldsRead.minn d a b) rfl,
      decode_sWord (FieldsRead.maxn d a b) rfl⟩
  case products =>
    intro d a b s hh hn
    refine ⟨?_, alu2_next_of_eq (· * ·) hh hn (mul_eq_ofNat ..),
      alu2_next (fun x y => BitVec.ofInt 64 (x.toInt * y.toInt / 2 ^ 64)) hh hn,
      alu2_next (fun x y => BitVec.ofNat 64 (x.toNat * y.toNat / 2 ^ 64)) hh hn,
      ⟨_, alu2_next divSigned hh hn, divSigned_of_zero _, ?_, fun h => toInt_divSigned h.1 h.2⟩,
      ⟨_, alu2_next (fun x y => if y = 0 then BitVec.allOnes 64 else BitVec.ofNat 64 (x.toNat / y.toNat)) hh hn,
        fun hy => if_pos hy, fun hy => toNat_ite_zero hy (Nat.div_le_self ..)⟩,
      ⟨_, alu2_next remSigned hh hn, remSigned_of_zero _, ?_, toInt_remSigned⟩,
      ⟨_, alu2_next (fun x y => if y = 0 then x else BitVec.ofNat 64 (x.toNat % y.toNat)) hh hn,
        fun hy => if_pos hy, fun hy => toNat_ite_zero hy (Nat.mod_le ..)⟩⟩
    · simp only [forall_mem_table_cons, forall_mem_table_nil, and_true]
      exact ⟨decode_sWord (FieldsRead.mul d a b) rfl, decode_sWord (FieldsRead.mulh d a b) rfl,
        decode_sWord (FieldsRead.mulhn d a b) rfl, decode_sWord (FieldsRead.div d a b) rfl,
        decode_sWord (FieldsRead.divn d a b) rfl, decode_sWord (FieldsRead.rem d a b) rfl,
        decode_sWord (FieldsRead.remn d a b) rfl⟩
    · rintro ⟨hx, hy⟩
      rw [hx, hy, divSigned_intMin_neg_one]
    · rintro ⟨hx, hy⟩
      rw [hx, hy, remSigned_intMin_neg_one]
  case unary =>
    intro d a s hh hn
    obtain ⟨hl, hlz, hlo⟩ := leadingZeros_spec (s.rs a) 64
    obtain ⟨ht, htz, hto⟩ := trailingZeros_spec (s.rs a) 64 (Nat.le_refl 64)
    simp only [Nat.sub_self, Nat.zero_add] at htz hto
    refine ⟨?_, ⟨_, hl, alu1_next (fun x => BitVec.ofNat 64 (leadingZeros x 64)) hh hn, hlz, hlo⟩,
      ⟨_, ht, alu1_next (fun x => BitVec.ofNat 64 (trailingZeros x 64)) hh hn, htz, hto⟩,
      alu1_next_of_eq (fun x => BitVec.ofNat 64 (oneBits x 64)) hh hn (congrArg _ (oneBits_eq_length _ 64)),
      ⟨_, alu1_next (fun x => BitVec.ofNat 64 (bitReverse x 64)) hh hn, fun k hk => ?_⟩⟩
    · simp only [forall_mem_table_cons, forall_mem_table_nil, and_true]
      exact ⟨decode_sWord (b := 0#5) (FieldsRead.clz d a) rfl, decode_sWord (b := 0#5) (FieldsRead.ctz d a) rfl,
        decode_sWord (b := 0#5) (FieldsRead.popc d a) rfl, decode_sWord (b := 0#5) (FieldsRead.brev d a) rfl⟩
    · exact getLsbD_bitReverse _ hk
  case immediates =>
    intro d a i n s hh hn
    refine ⟨?_, ?_, alu1_next (fun x => x + i.signExtend 64) hh hn,
      alu1_next (fun x => x &&& i.signExtend 64) hh hn, alu1_next (fun x => x ||| i.signExtend 64) hh hn,
      alu1_next (fun x => x ^^^ i.signExtend 64) hh hn, alu1_next (fun x => x <<< n.toNat) hh hn,
      alu1_next (fun x => x >>> n.toNat) hh hn, alu1_next (fun x => x.sshiftRight n.toNat) hh hn,
      alu1_next_of_eq (fun x => if x.slt (i.signExtend 64) then 1 else 0) hh hn (ite_slt ..)⟩
    · simp only [forall_mem_table_cons, forall_mem_table_nil, and_true]
      exact ⟨decode_iWord (FieldsRead.addi d a i) rfl, decode_iWord (FieldsRead.andi d a i) rfl,
        decode_iWord (FieldsRead.ori d a i) rfl, decode_iWord (FieldsRead.xori d a i) rfl,
        decode_iWord (FieldsRead.slti d a i) rfl⟩
    · simp only [forall_mem_table_cons, forall_mem_table_nil, and_true]
      exact ⟨decode_shiftWord (FieldsRead.slli d a n) rfl, decode_shiftWord (FieldsRead.srli d a n) rfl,
        decode_shiftWord (FieldsRead.srai d a n) rfl⟩

end Sys2Proof.Proofs
end

section
/-!
SUPPORT. SETVL and SETVLI (R118): their words decode to them, and what each leaves is `setLength` of the count that it requests.
-/

namespace Sys2Proof.Machine

/-! ## Words -/

/-- SETVL's choice bit and its unused bits are zero (R118). -/
theorem decode_setvl (d a : Reg) {t : BitVec 3} (ht : t.toNat ≤ 4) :
    decode (0#1 ++ 0#11 ++ t ++ a ++ d ++ 0x3D#7 : BitVec 32) = .ok (.setvl d a t) := by
  have he : 61 + d.toNat * 128 + a.toNat * 4096 + t.toNat * 131072 =
      61 + d.toNat * 128 + a.toNat * 4096 + (0#1 ++ 0#11 ++ t).toNat * 131072 := by
    simp only [toNat_append_eq_add, BitVec.toNat_ofNat]
    omega
  exact decode_iWord (Laws.FieldsRead.setvl d a t) (congrArg (BitVec.ofNat 32) he)
    (hi := decide_eq_true (Nat.lt_succ_of_le ht))

/-- SETVLI's choice bit is one, and its immediate lies below it (R118). -/
theorem decode_setvli (d a : Reg) (n : BitVec 11) {t : BitVec 3} (ht : t.toNat ≤ 4) :
    decode (1#1 ++ n ++ t ++ a ++ d ++ 0x3D#7 : BitVec 32) = .ok (.setvli d a n t) := by
  have he : 2147483709 + d.toNat * 128 + a.toNat * 4096 + t.toNat * 131072 + n.toNat * 1048576 =
      61 + d.toNat * 128 + a.toNat * 4096 + (1#1 ++ n ++ t).toNat * 131072 := by
    simp only [toNat_append_eq_add, BitVec.toNat_ofNat]
    omega
  exact decode_iWord (Laws.FieldsRead.setvli d a n t) (congrArg (BitVec.ofNat 32) he)
    (hi := decide_eq_true (Nat.lt_succ_of_le ht))

/-! ## Effects -/

section

variable {s : State} {d a : Reg} (t : BitVec 3)

/-- SETVL asks for the count in s1 (R118). -/
theorem execSetvl_next (hh : ByHart s) (hn : Named s [d, a]) (hv : s.vlPending = false) :
    execSetvl d a t s = .next (setLength d (s.rs a).toNat t s).retire :=
  issue_ok (f := .seq) hh _ (by simp [named_ok hn, hv])

/-- SETVLI asks for the count in s1 and its immediate more (R118). -/
theorem execSetvli_next (n : BitVec 11) (hh : ByHart s) (hn : Named s [d, a]) (hv : s.vlPending = false) :
    execSetvli d a n t s = .next (setLength d ((s.rs a).toNat + n.toNat) t s).retire :=
  issue_ok (f := .seq) hh _ (by simp [named_ok hn, hv])

end

end Sys2Proof.Machine
end

section
/-! SUPPORT. The statement about the vector length. -/

namespace Sys2Proof.Proofs

open Machine

/-- Settles O27: the words decode to the two instructions, and `setLength` is what the statement writes out. -/
theorem vectorLength : Obligations.VectorLength := by
  unfold Obligations.VectorLength
  intro d a n t s hh hn hv ht
  exact ⟨decode_setvl d a ht, decode_setvli d a n ht, execSetvl_next t hh hn hv, execSetvli_next t n hh hn hv⟩

end Sys2Proof.Proofs
end

section
/-!
SUPPORT. The machine as a whole: every well-formed instruction decodes from its word (R31, R32, R39), and every word and every event
answers a next state (R93, R95).
-/

namespace Sys2Proof.Laws.FieldsRead

/-- Every word's fields read back: one law for each constructor. -/
theorem all (i : Instr) : Statement i :=
  i.casesOn (motive := Statement)
    add sub and or xor andn sll srl sra rol ror slt sltn min max minn maxn mul mulh mulhn div divn rem remn clz ctz
    popc brev addi andi ori xori slli srli srai slti lui auipc beq bne blt bge bltn bgen jal jalr jtab waitc fork
    rdv rdcyc loop endloop ld st trap eret sysc brk wfe halth csrr csrw csrset csrclr vadd vsub vmul vmulh vmin vmax
    vminn vmaxn vand vor vxor vsll vsrl vsra vadds vsubs vwaddI8 vwaddI16 vwaddI32 vwaddN8 vwaddN16 vwaddN32 vwmacI8
    vwmacI16 vfaddF64 vfsubF64 vfmulF64 vfmaF64 vfminF64 vfmaxF64 vfdivF64 vfsqrtF64 vfaddF32 vfsubF32 vfmulF32
    vfmaF32 vfminF32 vfmaxF32 vfdivF32 vfsqrtF32 vfaddBf16 vfsubBf16 vfmulBf16 vfmaBf16 vfminBf16 vfmaxBf16
    vfdivBf16 vfsqrtBf16 vfaddF16 vfsubF16 vfmulF16 vfmaF16 vfminF16 vfmaxF16 vfdivF16 vfsqrtF16 vfrecip vfrsqrt
    vfexp2 vflog2 vfabs vfneg vfclass vfsgnj vcmpeqI8 vcmpneI8 vcmpltI8 vcmpleI8 vcmpltnI8 vcmplenI8 vboundI8
    vcmpeqI16 vcmpneI16 vcmpltI16 vcmpleI16 vcmpltnI16 vcmplenI16 vboundI16 vcmpeqI32 vcmpneI32 vcmpltI32 vcmpleI32
    vcmpltnI32 vcmplenI32 vboundI32 vcmpeqI64 vcmpneI64 vcmpltI64 vcmpleI64 vcmpltnI64 vcmplenI64 vboundI64
    vfcmpeqF32 vfcmpltF32 vfcmpleF32 vfcmpunF32 vfcmpeqF64 vfcmpltF64 vfcmpleF64 vfcmpunF64 mand mor mxor mandn mnot
    mpopc mfirst msetvl vpermx vslideup vslidedn vcompress vexpand vbcast vextr vins vscanI32 vscanI64 vscanF32
    vredsumI32 vredsumI64 vredsumF32 vredmaxI32 vredmaxF32 vcvt vhad vhadc vcvtb vgauss vld vlds vldx vldff vst vsts
    vstx vstxadd vfetch tfetch stop vjoin vrelease vloop vagain setvl setvli ropen rpub rseal rfree rlen rinfo sbind
    sunbind sskip spos rcopyin rcopyout rcopyrr rfill rsort rmerge rpart rtag rjoin vldw cset csnap rcomb nmc nmstat
    scan scanth opaF64 opaF32 opaBf16 opaF16 opaE4m3 opaE5m2 opaE2m1 opaI8 mmsBf16 mmsE4m3 mmsE2m1 mmsI8 mmspBf16
    mmspE4m3 mmssBf16 mmssE4m3 scacc tzero tmov trd twr tst tldt osld osmeta hnew hfork hjoin hret hwait hscope hexp
    himp amoadd amoand amoor amoxor amomin amomax amominn amomaxn amoswap amocas launch kstat claim semacq semrel
    semrd ginfo gexit hyield barinit bararr barwait bararw barq xsend xticket xtkwait xpass xnote xquery
    deferredTrap hartWaitEnds wfeTimeout semaphoreGrant streamStallEnd rpubPerformed rsealPerformed rfreePerformed
    copyPerformed copyComplete osldPerformed mergeJobStart mergeJobComplete mergeJobStop extentResume nmcJobRun
    scanRun hartStart tileRampEnd launchEligible groupBind kennelBindGroup bindRecordWrite kennelPreemptRequest
    preemptGraceExpiry saveComplete groupResume vectorSetEvict groupExitComplete kennelKillGroup kennelResumeHart
    kennelReflectTrap kennelSuspendContext repartition kennelGrowPool kennelShrinkPool machineCheck scrub
    channelRetire submit ctrlBlock ctrlOpen ctrlDrain ctrlClear ctrlDiscard registerWrite ctxnew ctxdel ctxsusp
    ctxres loadImage unload rnew hrun hpub rread rwrite setctr session hext commandDone getMeasurements
    getCertificate pfEnableVfs pfSetLimits pfSetPowerCap coldReset pfHotReset vfFlr governorTick thermalLimit
    thermalBelow thermalStop linkTrainStart linkTrainUp linkTrainNarrow laneFail linkDown watchdogSample sessionOpen
    sessionPeerGone sessionRouteTimeout sessionSettled reqMsg trainMsg tailMsg dataMsg rdataMsg tkreqMsg tkcallMsg
    noteMsg doneMsg retMsg closeMsg reservedMessage retSend ualinkRead ualinkWrite ualinkAtomic ualinkCompletion
    ticketCall ticketTimeout illegalWord linkLevelReplay softError tsvGroupMarkedFailed clearingComplete

end Sys2Proof.Laws.FieldsRead

namespace Sys2Proof.Machine

/-- Whatever the checks of a word say, its issuer ends it (R93). -/
theorem exec_word_goesOn {i : Instr} (h : i.isWord = true) (s : State) : GoesOn (exec i s) := by
  cases i
  all_goals first
    | exact issue_goesOn ..
    | cases h

theorem execDeferredTrap_goesOn (h : HartId) (k : Nat) (s : State) : GoesOn (execDeferredTrap h k s) := by
  unfold execDeferredTrap
  dsimp only
  split <;> exact ⟨_, rfl⟩

theorem execGroupBind_goesOn (die slot : Nat) (s : State) : GoesOn (execGroupBind die slot s) := by
  unfold execGroupBind
  dsimp only
  repeat' split
  all_goals exact ⟨_, rfl⟩

theorem execKennelBindGroup_goesOn (c q die : Nat) (cores : List Nat) (s : State) :
    GoesOn (execKennelBindGroup c q die cores s) := by
  unfold execKennelBindGroup
  repeat' split
  all_goals exact ⟨_, rfl⟩

theorem execBindRecordWrite_goesOn (die slot : Nat) (r : Option BindRecord) (s : State) :
    GoesOn (execBindRecordWrite die slot r s) := by
  unfold execBindRecordWrite
  cases r <;> exact ⟨_, rfl⟩

theorem execKennelKillGroup_goesOn (c : Nat) (t : KillTarget) (who : Option HartId) (s : State) :
    GoesOn (execKennelKillGroup c t who s) := by
  unfold execKennelKillGroup
  repeat' split
  all_goals exact ⟨_, rfl⟩

theorem execRegisterWrite_goesOn (vf bar off : Nat) (v : Word) (s : State) : GoesOn (execRegisterWrite vf bar off v s) := by
  unfold execRegisterWrite
  dsimp only
  split <;> exact ⟨_, rfl⟩

theorem bringUp_goesOn (fails : Option Nat) (chip : BitVec 10) (s : State) : GoesOn (bringUp fails chip s) := by
  unfold bringUp
  split <;> exact ⟨_, rfl⟩

theorem execRetMsg_goesOn (m : Msg) (s : State) : GoesOn (execRetMsg m s) := by
  unfold execRetMsg
  split <;> exact ⟨_, rfl⟩

theorem execCloseMsg_goesOn (m : Msg) (s : State) : GoesOn (execCloseMsg m s) := by
  unfold execCloseMsg
  split <;> exact ⟨_, rfl⟩

theorem execReservedMessage_goesOn (m : Msg) (s : State) : GoesOn (execReservedMessage m s) := by
  unfold execReservedMessage
  split <;> exact ⟨_, rfl⟩

theorem execUalinkCompletion_goesOn (d : UaDone) (s : State) : GoesOn (execUalinkCompletion d s) := by
  unfold execUalinkCompletion
  repeat' split
  all_goals exact ⟨_, rfl⟩

theorem execTicketCall_goesOn (c die : Nat) (s : State) : GoesOn (execTicketCall c die s) := by
  unfold execTicketCall
  dsimp only
  split <;> exact ⟨_, rfl⟩

theorem execTicketTimeout_goesOn (c die : Nat) (n : BitVec 32) (s : State) : GoesOn (execTicketTimeout c die n s) := by
  unfold execTicketTimeout
  dsimp only
  split <;> exact ⟨_, rfl⟩

/-- An event changes the state where it may happen, and leaves it where it may not. -/
theorem exec_event_goesOn {i : Instr} (hw : i.isWord = false) (s : State) : GoesOn (exec i s) := by
  cases i
  case deferredTrap h k => exact execDeferredTrap_goesOn h k s
  case groupBind die slot => exact execGroupBind_goesOn die slot s
  case kennelBindGroup c q die cores => exact execKennelBindGroup_goesOn c q die cores s
  case bindRecordWrite die slot r => exact execBindRecordWrite_goesOn die slot r s
  case kennelKillGroup c t who => exact execKennelKillGroup_goesOn c t who s
  case registerWrite vf bar off v => exact execRegisterWrite_goesOn vf bar off v s
  case coldReset fails chip | pfHotReset fails chip => exact bringUp_goesOn fails chip s
  case retMsg m => exact execRetMsg_goesOn m s
  case closeMsg m => exact execCloseMsg_goesOn m s
  case reservedMessage m => exact execReservedMessage_goesOn m s
  case ualinkCompletion d => exact execUalinkCompletion_goesOn d s
  case ticketCall c die => exact execTicketCall_goesOn c die s
  case ticketTimeout c die n => exact execTicketTimeout_goesOn c die n s
  case rpubPerformed | rsealPerformed | rfreePerformed | copyPerformed | copyComplete | osldPerformed | mergeJobStart |
      mergeJobComplete | mergeJobStop | extentResume | nmcJobRun | scanRun =>
    dsimp only [exec, execRpubPerformed, execRsealPerformed, execRfreePerformed, execCopyPerformed, execCopyComplete,
      execOsldPerformed, execMergeJobStart, execMergeJobComplete, execMergeJobStop, execExtentResume, execNmcJobRun, execScanRun]
    exact opEvent_goesOn ..
  all_goals first
    | cases hw; done
    | exact ⟨_, rfl⟩

end Sys2Proof.Machine
end

section
/-! SUPPORT. The statements about the decoder and about every instruction's answer. -/

namespace Sys2Proof.Proofs

open Machine Laws

/-- Settles O3: the fields of every word read back, so that `decode` checks a word against its own encoding. -/
theorem decodeOfEncode : Obligations.DecodeOfEncode := by
  unfold Obligations.DecodeOfEncode
  exact fun i hw hf => decode_of_fieldsRead (FieldsRead.all i) hw hf rfl

/-- Settles O6: words end as `issue` ends them, and events as `event` and `opEvent` do. -/
theorem everyInstructionGoesOn : Obligations.EveryInstructionGoesOn := by
  unfold Obligations.EveryInstructionGoesOn
  intro i s
  cases h : i.isWord
  · exact exec_event_goesOn h s
  · exact exec_word_goesOn h s

end Sys2Proof.Proofs
end

section
/-! SUPPORT. Moves, and the words written out. -/

namespace Sys2Proof.Machine

/-- Where all of the words of its code are there, a hart that nothing holds issues the word at its PC (R78). -/
theorem hartTurn_word {s : State} {h : HartId} (hr : (s.hart h).state = .run) (hp : (s.hart h).reports = [])
    (hs : (s.hart h).stalled = none) (hq : (s.hart h).vqueue = [])
    (hc : ({ s with cur := .hart h } : State).inCode (s.hart h).pc = true) :
    s.turn (.hart h) = .word (({ s with cur := .hart h } : State).codeWord (s.hart h).pc.toNat) := by
  simp [State.turn, State.hartTurn, hr, hp, hs, State.fetchTurn, hq, hc]

/-- A word that decodes is executed by its issuer (R39, R42). -/
theorem runWord_ok {i : Issuer} {w : IWord} {s : State} {x : Instr} (h : decode w = .ok x) :
    runWord i w s = exec x { s with cur := i, word := w } := by
  simp [runWord, h]

/-- The turn of a hart that nothing holds executes the instruction at its PC. -/
theorem issueMove_hart {s : State} {h : HartId} {i : Instr} (hr : (s.hart h).state = .run) (hp : (s.hart h).reports = [])
    (hs : (s.hart h).stalled = none) (hq : (s.hart h).vqueue = [])
    (hc : ({ s with cur := .hart h } : State).inCode (s.hart h).pc = true)
    (hd : decode (({ s with cur := .hart h } : State).codeWord (s.hart h).pc.toNat) = .ok i) :
    issueMove (.hart h) s =
      exec i { s with cur := .hart h, word := ({ s with cur := .hart h } : State).codeWord (s.hart h).pc.toNat } := by
  rw [issueMove, hartTurn_word hr hp hs hq hc]
  exact runWord_ok hd

/-- The first move of the agenda is the next step. -/
theorem step_agenda {s : State} {m : Move} {rest : List Move} (h : s.agenda = m :: rest) :
    step s = move m { s with agenda := rest, cycle := s.cycle + 1 } := by
  simp [step, h]

theorem opAt_of_lateAt_ready {s : State} {id : Nat} {o : Op} {y : Late} (h : s.lateAt id = .ready o y) :
    s.opAt id = some o ∧ o.kind = .late y ∧ o.phase = .queued := by
  unfold State.lateAt at h
  split at h
  · cases h
  · rename_i p hp
    split at h
    · split at h
      · cases h
      · rename_i hk hq
        split at h
        · cases h
        · split at h
          · cases h
            exact ⟨hp, hk, not_not.1 hq⟩
          · cases h
    · cases h

/-- An instruction that has issued and may be performed is executed for its issuer (R248). -/
theorem performMove_ready {s : State} {id : Nat} {o : Op} {y : Late} {i : Instr} (h : s.lateAt id = .ready o y)
    (hd : decode y.word = .ok i) :
    performMove id s = exec i { s with cur := .late o.issuer.owner id, word := y.word } := by
  obtain ⟨ho, hk, hp⟩ := opAt_of_lateAt_ready h
  have hn : (s.opAt id).bind s.drive = none := by simp [ho, State.drive, hk, hp]
  rw [performMove, hn, h]
  exact runWord_ok hd

/-- The lanes execute the word at the head of a hart's queue (R111). -/
theorem lanesMove_head {s u : State} {h : HartId} {e : Queued} {i : Instr} (he : s.laneHead h = some e)
    (hw : e.work = .execute ∨ ∃ n, e.work = .bound n) (hd : decode e.word = .ok i)
    (hx : exec i (s.laneState h e) = .next u) : lanesMove h s = .next (s.laneDone u h e) := by
  have hr : runWord (.queued h) e.word (s.laneState h e) = .next u := (runWord_ok hd).trans hx
  unfold lanesMove
  obtain hw | ⟨n, hw⟩ := hw <;> simp only [he, hw, hr]

end Sys2Proof.Machine
end

section
/-! SUPPORT. The statements settled: Moves, and the words written out. -/

namespace Sys2Proof.Proofs

open Machine

/-- Settles O1: an issuer's turn, an operation's and the lanes' come to `runWord`, and the rest is what `move` says. -/
theorem stepRunsTheDecodedInstruction : Obligations.StepRunsTheDecodedInstruction := by
  unfold Obligations.StepRunsTheDecodedInstruction
  intro s h rest i t
  refine ⟨?issue, ?perform, ?lanes, ?bounded, ?hidden, ?seen⟩
  case issue =>
    intro m x w hr hp hs hq hc hd
    refine ⟨fun ha => ?_, fun ha => ?_⟩
    · rw [step_agenda ha]
      exact congrArg (after _) (issueMove_hart (s := t.viewed m) hr hp hs hq hc hd)
    · rw [step_agenda ha]
      exact congrArg (fun r => after _ (unmarked r)) (issueMove_hart (s := { t.viewed m with late := true }) hr hp hs hq hc hd)
  case perform =>
    intro id o y m x ha hl hd
    rw [step_agenda ha]
    exact congrArg (after _) (performMove_ready hl hd)
  case lanes =>
    intro e u m x ha he hw hd hx
    rw [step_agenda ha]
    exact congrArg (after _) (lanesMove_head he hw hd hx)
  case bounded =>
    intro n m ha
    rw [step_agenda ha]
    rfl
  case hidden =>
    intro words groups m ha
    rw [step_agenda ha]
    rfl
  case seen => exact fun m u hh hu => ⟨viewed_of_seen (s := t) hh hu m, unviewed_of_seen (s := t) hh hu u m⟩

/-- Settles O2: `decode` evaluates on each word. -/
theorem wordsDecodeToTheirInstructions : Obligations.WordsDecodeToTheirInstructions :=
  ⟨rfl, rfl, rfl, rfl, rfl, rfl, rfl, rfl, rfl, rfl, rfl⟩

end Sys2Proof.Proofs
end

section
/-! SUPPORT. The statements settled: The state right after reset. -/

namespace Sys2Proof.Proofs

open Machine

/-- Settles O5: reset writes these values out. -/
theorem resetState : Obligations.ResetState := by
  unfold Obligations.ResetState
  refine ⟨⟨?device, ?empty, ?stations, ?dies, ?cores, ?hart⟩, ?memory⟩
  case device => exact ⟨rfl, rfl, rfl, rfl, fun _ => rfl⟩
  case empty => exact ⟨rfl, rfl, rfl, rfl⟩
  case stations => decide
  case dies => decide
  case cores => exact fun _ => ⟨rfl, (by decide : ∀ n < 64, Core.reset.sem n = 0)⟩
  case hart =>
    exact ⟨rfl, by decide, rfl, rfl, rfl, rfl, rfl, rfl, rfl, rfl, rfl, rfl, rfl, rfl, rfl, rfl, rfl, by decide⟩
  case memory => exact ⟨reset_mem_wf, fun _ => rfl⟩

end Sys2Proof.Proofs
end

section
/-! SUPPORT. Where a scalar result goes, and what it leaves (R73). -/

namespace Sys2Proof.Machine

/-! ## Where a scalar result goes -/

/-- What may be named may be named with fewer registers. -/
theorem named_subset {s : State} {rs rs' : List Reg} (h : Named s rs) (hs : rs' ⊆ rs) : Named s rs' :=
  fun r hr => h r (hs hr)

/-- A scalar that a hart writes is one of its registers (R73). -/
theorem setRs_hart {s : State} (hh : ByHart s) {d : Reg} (hd : d ≠ 0) (x : Word) :
    s.setRs d x = s.setMe { s.me with sregs := vecSet s.me.sregs d.toNat x } := by
  obtain ⟨h, hc⟩ := hh
  simp only [State.setRs, if_neg hd, hc]

theorem retire_hart {s : State} (hh : ByHart s) : s.retire = s.setMe s.me.retire := by
  obtain ⟨h, hc⟩ := hh
  simp only [State.retire, hc]

@[simp] theorem goto_hart {s : State} (hh : ByHart s) (pc : Word) : s.goto pc = s.setMe { s.me with pc := pc } := by
  obtain ⟨h, hc⟩ := hh
  simp only [State.goto, hc]

/-- With no replay under way the next word is the one behind (R141). -/
theorem Hart.retire_of_vqueue {h : Hart} (hq : h.vqueue = []) : h.retire = { h with pc := h.pc + 4 } := by
  simp [Hart.retire, hq]

/-- Going to the next word changes the PC and what is left of a replay. -/
theorem Hart.retire_eq (h : Hart) : ∃ p q b, h.retire = { h with pc := p, vqueue := q, body := b } := by
  unfold Hart.retire
  split
  · exact ⟨_, _, _, rfl⟩
  · exact ⟨_, _, _, rfl⟩
  · exact ⟨_, _, _, rfl⟩

/-- A hart that writes a scalar is still the issuer. -/
theorem byHart_setRs {s : State} (hh : ByHart s) (d : Reg) (x : Word) : ByHart (s.setRs d x) := by
  by_cases hd : d = 0
  · rwa [hd, setRs_zero]
  · rw [setRs_hart hh hd]
    exact hh

/-- The hart that has written a scalar differs from what it was in its scalars. -/
theorem me_setRs {s : State} (hh : ByHart s) (d : Reg) (x : Word) : ∃ v, (s.setRs d x).me = { s.me with sregs := v } := by
  by_cases hd : d = 0
  · exact ⟨s.me.sregs, by rw [hd, setRs_zero]⟩
  · exact ⟨_, by rw [setRs_hart hh hd, State.me_setMe]⟩

/-- A scalar read by a hart depends on its scalar registers only. -/
theorem rs_eq_of_sregs {s t : State} (hs : ByHart s) (ht : ByHart t) (h : t.me.sregs = s.me.sregs) (r : Reg) :
    t.rs r = s.rs r := by
  obtain ⟨i, hi⟩ := hs
  obtain ⟨j, hj⟩ := ht
  simp only [State.rs, hi, hj, h]

theorem rs_setRs_ne {s : State} (hh : ByHart s) {d r : Reg} (x : Word) (hr : r ≠ d) : (s.setRs d x).rs r = s.rs r := by
  by_cases hd : d = 0
  · rw [hd, setRs_zero]
  · rw [rs_setRs hh x hd, if_neg hr]

/-- What an update of the issuer's hart alone leaves of everything else. -/
structure OthersKept (s t : State) : Prop where
  mem : t.mem = s.mem
  cores : t.cores = s.cores
  groups : t.groups = s.groups
  ctxs : t.ctxs = s.ctxs
  ops : t.ops = s.ops
  harts : ∀ h, h.key ≠ s.cur.owner.key → t.hart h = s.hart h

theorem OthersKept.refl (s : State) : OthersKept s s := ⟨rfl, rfl, rfl, rfl, rfl, fun _ _ => rfl⟩

theorem OthersKept.setMe {s t : State} (h : OthersKept s t) (hc : t.cur = s.cur) (x : Hart) : OthersKept s (t.setMe x) := by
  obtain ⟨hm, ho, hg, hx, hp, hh⟩ := h
  exact ⟨hm, ho, hg, hx, hp, fun k hk => (State.hart_setHart_ne t x (hc ▸ hk)).trans (hh k hk)⟩

theorem cur_setRs {s : State} (hh : ByHart s) (d : Reg) (x : Word) : (s.setRs d x).cur = s.cur := by
  by_cases hd : d = 0
  · rw [hd, setRs_zero]
  · rw [setRs_hart hh hd, State.setMe_cur]

/-- Writing d and going on changes the issuer's hart alone (R73). -/
theorem othersKept_setRs_retire {s : State} (hh : ByHart s) (d : Reg) (x : Word) :
    OthersKept s (s.setRs d x).retire := by
  have hw : OthersKept s (s.setRs d x) := by
    by_cases hd : d = 0
    · rw [hd, setRs_zero]
      exact OthersKept.refl s
    · rw [setRs_hart hh hd]
      exact (OthersKept.refl s).setMe rfl _
  rw [retire_hart (byHart_setRs hh d x)]
  exact hw.setMe (cur_setRs hh d x) _

/-- Writing d and going on changes of the hart its scalars, its PC and what is left of a replay (R73). -/
theorem me_setRs_retire {s : State} (hh : ByHart s) (d : Reg) (x : Word) :
    ∃ v p q b, (s.setRs d x).retire.me = { s.me with sregs := v, pc := p, vqueue := q, body := b } := by
  obtain ⟨v, hv⟩ := me_setRs hh d x
  obtain ⟨p, q, b, hr⟩ := Hart.retire_eq (s.setRs d x).me
  exact ⟨v, p, q, b, by rw [retire_hart (byHart_setRs hh d x), State.me_setMe, hr, hv]⟩

theorem rs_retire {s : State} (hh : ByHart s) (r : Reg) : s.retire.rs r = s.rs r := by
  rw [retire_hart hh]
  obtain ⟨p, q, b, hr⟩ := Hart.retire_eq s.me
  exact rs_eq_of_sregs (t := s.setMe s.me.retire) hh hh (by rw [State.me_setMe, hr]) r

end Sys2Proof.Machine
end

section
/-! SUPPORT. The statements settled: Where a scalar result goes, and what it leaves (R73). -/

namespace Sys2Proof.Proofs

open Machine

/-- Every register instruction writes d with some value and goes to the next word (R73): R74–R76 say with which. -/
theorem registerResult {s : State} (hh : ByHart s) {d a b : Reg} (hn : Named s [d, a, b]) (n : BitVec 15) (k : BitVec 6)
    (u : BitVec 20) :
    ∀ i ∈ [Instr.add d a b, .sub d a b, .and d a b, .or d a b, .xor d a b, .andn d a b, .sll d a b, .srl d a b, .sra d a b,
        .rol d a b, .ror d a b, .slt d a b, .sltn d a b, .min d a b, .max d a b, .minn d a b, .maxn d a b, .mul d a b,
        .mulh d a b, .mulhn d a b, .div d a b, .divn d a b, .rem d a b, .remn d a b, .clz d a, .ctz d a, .popc d a,
        .brev d a, .addi d a n, .andi d a n, .ori d a n, .xori d a n, .slli d a k, .srli d a k, .srai d a k, .slti d a n,
        .lui d u, .auipc d u, .rdcyc d],
      ∃ v, exec i s = .next (s.setRs d v).retire := by
  obtain ⟨hregs, hprods, hunary, himms⟩ := scalarArithmetic
  have hn2 : Named s [d, a] := named_subset hn (by simp)
  have hn1 : Named s [d] := named_subset hn (by simp)
  obtain ⟨-, add, sub, and, or, xor, andn, sll, srl, sra, rol, ror, slt, sltn, min, max, minn, maxn⟩ := hregs d a b s hh hn
  obtain ⟨-, mul, mulh, mulhn, ⟨q, div, -⟩, ⟨qn, divn, -⟩, ⟨r, rem, -⟩, ⟨rn, remn, -⟩⟩ := hprods d a b s hh hn
  obtain ⟨-, ⟨z, -, clz, -⟩, ⟨y, -, ctz, -⟩, popc, ⟨v, brev, -⟩⟩ := hunary d a s hh hn2
  obtain ⟨-, -, addi, andi, ori, xori, slli, srli, srai, slti⟩ := himms d a n k s hh hn2
  simp only [List.forall_mem_cons, List.not_mem_nil, false_implies, implies_true, and_true]
  exact ⟨⟨_, add⟩, ⟨_, sub⟩, ⟨_, and⟩, ⟨_, or⟩, ⟨_, xor⟩, ⟨_, andn⟩, ⟨_, sll⟩, ⟨_, srl⟩, ⟨_, sra⟩, ⟨_, rol⟩, ⟨_, ror⟩,
    ⟨_, slt⟩, ⟨_, sltn⟩, ⟨_, min⟩, ⟨_, max⟩, ⟨_, minn⟩, ⟨_, maxn⟩, ⟨_, mul⟩, ⟨_, mulh⟩, ⟨_, mulhn⟩, ⟨_, div⟩, ⟨_, divn⟩,
    ⟨_, rem⟩, ⟨_, remn⟩, ⟨_, clz⟩, ⟨_, ctz⟩, ⟨_, popc⟩, ⟨_, brev⟩, ⟨_, addi⟩, ⟨_, andi⟩, ⟨_, ori⟩, ⟨_, xori⟩, ⟨_, slli⟩,
    ⟨_, srli⟩, ⟨_, srai⟩, ⟨_, slti⟩, ⟨_, alu_next hh hn1 fun _ => upper u⟩,
    ⟨_, alu_next hh hn1 fun s => s.pc + upper u⟩, ⟨_, alu_next hh hn1 fun s => BitVec.ofNat 64 s.cycle⟩⟩

/-- Settles O8: each of the instructions leaves `(s.setRs d v).retire` for its value v. -/
theorem scalarFrame : Obligations.ScalarFrame := by
  unfold Obligations.ScalarFrame
  refine ⟨fun s d r x hh => ⟨rfl, rfl, fun hd => rs_setRs hh x hd r, fun hq => ?_⟩, ?frame⟩
  · rw [retire_hart hh, Hart.retire_of_vqueue hq]
  case frame =>
    intro s t d a b n k u i hi hh hn ht
    obtain ⟨v, hv⟩ := registerResult hh hn n k u i hi
    obtain rfl : (s.setRs d v).retire = t := Host.Outcome.next.inj (hv.symm.trans ht)
    obtain ⟨hm, ho, hg, hx, hp, hk⟩ := othersKept_setRs_retire hh d v
    obtain ⟨w, p, q, b, hme⟩ := me_setRs_retire hh d v
    refine ⟨fun k => by rw [byteAt, hm, byteAt], ho, hg, hx, hp, hk, fun r hr => ?_, ?_⟩
    · rw [rs_retire (byHart_setRs hh d v), rs_setRs_ne hh v hr]
    · rw [binds_eq, binds_eq, hme]
      exact ⟨fun _ => rfl, rfl, rfl, rfl, rfl, rfl, rfl, rfl⟩

end Sys2Proof.Proofs
end

section
/-! SUPPORT. Jumps and tables (R77, R80, R81). -/

namespace Sys2Proof.Machine

/-! ## Sign extension -/

/-- The low n bits of a number, sign-extended, are the word of n bits that it gives, sign-extended. -/
theorem sextNat_eq_toInt (x n : Nat) : sextNat x n = (BitVec.ofNat n x).toInt := by
  simp only [sextNat, BitVec.toInt, BitVec.toNat_ofNat, Nat.cast_pow, Nat.cast_ofNat]

theorem sext64_eq_signExtend (x n : Nat) : sext64 x n = (BitVec.ofNat n x).signExtend 64 := by
  rw [sext64, sextNat_eq_toInt, BitVec.signExtend]

/-- The immediate of LUI and AUIPC is its 20 bits over 12 zeros (R77). -/
theorem upper_eq_signExtend (u : BitVec 20) : upper u = (u ++ (0 : BitVec 12)).signExtend 64 := by
  have hu : BitVec.ofNat 32 (u.toNat * 2 ^ 12) = u ++ (0 : BitVec 12) := by
    apply BitVec.eq_of_toNat_eq
    have := u.isLt
    have hz : (0 : BitVec 12).toNat = 0 := rfl
    rw [toNat_append_eq_add, BitVec.toNat_ofNat, hz]
    omega
  rw [upper, sext64_eq_signExtend, hu]

/-! ## Jumps -/

section

variable {s : State} {d a b : Reg}

/-- A jump in the code area writes the link and goes there (R80). -/
theorem execJal_ok (o : BitVec 20) (hh : ByHart s) (hn : Named s [d]) (hc : s.inCode (s.pc + o.signExtend 64 * 4) = true) :
    execJal d o s = .next ((s.setRs d (s.pc + 4)).goto (s.pc + o.signExtend 64 * 4)) :=
  issue_ok (f := .goto _) hh _ (by simp only [run_bind, run_get, run_set, run_pure, named_ok hn, checkTarget_ok hc])

theorem execJal_trap (o : BitVec 20) (hh : ByHart s) (hn : Named s [d]) (hc : s.inCode (s.pc + o.signExtend 64 * 4) = false) :
    execJal d o s = .next (State.takeTrap s (.at .fetchBound (s.pc + o.signExtend 64 * 4)) s) :=
  issue_hart (r := .error (.trap _) s) hh _ (by simp only [run_bind, run_get, named_ok hn, checkTarget_trap hc])

theorem execJalr_ok (i : BitVec 15) (hh : ByHart s) (hn : Named s [d, a]) (hm : (s.rs a + i.signExtend 64).toNat % 4 = 0)
    (hc : s.inCode (s.rs a + i.signExtend 64) = true) :
    execJalr d a i s = .next ((s.setRs d (s.pc + 4)).goto (s.rs a + i.signExtend 64)) :=
  issue_ok (f := .goto _) hh _ (by
    simp only [run_bind, run_get, run_set, run_pure, named_ok hn, hm, ne_eq, not_true_eq_false, if_false, checkTarget_ok hc])

theorem execJalr_fetchBound (i : BitVec 15) (hh : ByHart s) (hn : Named s [d, a])
    (hm : (s.rs a + i.signExtend 64).toNat % 4 = 0) (hc : s.inCode (s.rs a + i.signExtend 64) = false) :
    execJalr d a i s = .next (State.takeTrap s (.at .fetchBound (s.rs a + i.signExtend 64)) s) :=
  issue_hart (r := .error (.trap _) s) hh _ (by simp only [run_bind, run_get, named_ok hn, hm, ne_eq, not_true_eq_false, if_false,
    checkTarget_trap hc])

theorem execJalr_misaligned (i : BitVec 15) (hh : ByHart s) (hn : Named s [d, a])
    (hm : (s.rs a + i.signExtend 64).toNat % 4 ≠ 0) :
    execJalr d a i s = .next (State.takeTrap s (.at .misaligned (s.rs a + i.signExtend 64)) s) :=
  issue_hart (r := .error (.trap _) s) hh _ (by simp only [run_bind, run_get, run_trap, named_ok hn, if_pos hm])

/-! ## Tables -/

/-- Nothing of the hart is still to write the bytes that its instruction reads (R84, R251). -/
theorem ownWrites_ok {pl : Place} {n : Nat}
    (ho : s.ops.any (fun o => o.issuer.owner == s.cur.owner && s.writesAt o pl.key n) = false)
    (ht : s.touching s.cur.owner (pl.touch n) s.nextOp = false) : ownWrites pl n s = .ok () s := by
  simp only [ownWrites, run_bind, run_get, ho, ht, Bool.or_self, Bool.false_eq_true, if_false, run_pure]

/-- The checks of R26 begin with the space. -/
theorem place_badSpace {acc : Access} {n al : Nat} {p : Word} (h : acc.spaces.contains (ptrSpace p) = false) :
    place s acc n al p = .error ⟨.badSpace, some p, false⟩ := by
  simp only [place, h, Bool.not_false, Bool.true_or, if_true]

variable (n : BitVec 10)

/-- The pointer to JTAB's entry (R81). -/
def tableEntry (s : State) (a b : Reg) : Word := s.rs b + BitVec.ofNat 64 (4 * (s.rs a).toNat)

theorem execJtab_beyond (hh : ByHart s) (hn : Named s [d, a, b]) (hk : n.toNat ≤ (s.rs a).toNat) :
    execJtab d a b n s = .next (s.setRs d (s.pc + 4)).retire :=
  issue_ok (f := .seq) hh _ (by simp [named_ok hn, hk])

theorem execJtab_ok {pl : Place} (hh : ByHart s) (hn : Named s [d, a, b]) (hk : (s.rs a).toNat < n.toNat)
    (hp : place s .table 4 4 (tableEntry s a b) = .ok pl) (hw : ownWrites pl 4 s = .ok () s)
    (hm : (s.pc + sext64 (s.loadAt pl 4) 32).toNat % 4 = 0) (hc : s.inCode (s.pc + sext64 (s.loadAt pl 4) 32) = true) :
    execJtab d a b n s = .next ((s.setRs d (s.pc + 4)).goto (s.pc + sext64 (s.loadAt pl 4) 32)) := by
  rw [tableEntry] at hp
  exact issue_ok (f := .goto _) hh _ (by
    simp only [run_bind, run_get, run_set, run_pure, named_ok hn, if_neg (Nat.not_le.2 hk), hp, hw, hm, ne_eq, not_true_eq_false,
      if_false, checkTarget_ok hc])

theorem execJtab_trap {f : PtrFault} (hh : ByHart s) (hn : Named s [d, a, b]) (hk : (s.rs a).toNat < n.toNat)
    (hp : place s .table 4 4 (tableEntry s a b) = .error f) :
    execJtab d a b n s = .next (State.takeTrap s (.at f.cause (f.word s)) s) := by
  rw [tableEntry] at hp
  exact issue_hart (r := .error (.trap _) s) hh _ (by simp [named_ok hn, Nat.not_le.2 hk, hp])

end

/-! ## Words -/

/-- A word with a 20-bit field over one register (R32). -/
theorem uWord_eq (m : Nat) (hm : m < 128) (u : BitVec 20) (d : Reg) :
    (u ++ d ++ BitVec.ofNat 7 m : BitVec 32) = BitVec.ofNat 32 (m + d.toNat * 128 + u.toNat * 4096) := by
  apply BitVec.eq_of_toNat_eq
  have := d.isLt
  have := u.isLt
  simp only [toNat_append_eq_add, BitVec.toNat_ofNat]
  omega

theorem decode_lui (d : Reg) (u : BitVec 20) : decode (u ++ d ++ 0x0B#7 : BitVec 32) = .ok (.lui d u) :=
  decode_of_fieldsRead (Laws.FieldsRead.lui d u) rfl rfl (uWord_eq 0x0B (by decide) u d).symm

theorem decode_auipc (d : Reg) (u : BitVec 20) : decode (u ++ d ++ 0x0C#7 : BitVec 32) = .ok (.auipc d u) :=
  decode_of_fieldsRead (Laws.FieldsRead.auipc d u) rfl rfl (uWord_eq 0x0C (by decide) u d).symm

end Sys2Proof.Machine
end

section
/-! SUPPORT. The statements settled: Jumps and tables (R77, R80, R81). -/

namespace Sys2Proof.Proofs

open Machine

/-- Settles O10: each way through the three jumps, by its check. -/
theorem jumpsAndTables : Obligations.JumpsAndTables := by
  unfold Obligations.JumpsAndTables
  refine ⟨?upper, ?jumps, ?table⟩
  case upper =>
    intro d u s hh hn up
    have hu : up = upper u := (upper_eq_signExtend u).symm
    rw [hu]
    exact ⟨decode_lui d u, decode_auipc d u, alu_next hh hn fun _ => upper u, alu_next hh hn fun s => s.pc + upper u⟩
  case jumps =>
    intro d a o i s hh hn t u
    have hn1 : Named s [d] := fun r hr => hn r (by simp_all)
    exact ⟨fun hc => execJal_ok o hh hn1 (decide_eq_true hc), fun hc => execJal_trap o hh hn1 (decide_eq_false hc),
      fun hm hc => execJalr_ok i hh hn hm (decide_eq_true hc), fun hm hc => execJalr_fetchBound i hh hn hm (decide_eq_false hc),
      fun hm => execJalr_misaligned i hh hn hm⟩
  case table =>
    intro d a b n s hh hn k
    refine ⟨fun hk => execJtab_beyond n hh hn hk, fun pl hk hp ho ht hm hc => ?_, fun hs hk => ?_⟩
    · rw [← sext64_eq_signExtend] at hm hc ⊢
      exact execJtab_ok n hh hn hk hp (ownWrites_ok ho ht) hm (decide_eq_true hc)
    · refine execJtab_trap (f := ⟨.badSpace, some (tableEntry s a b), false⟩) n hh hn hk (place_badSpace ?_)
      simp only [List.mem_cons, List.not_mem_nil, or_false] at hs
      change [0, 1, 4].contains (ptrSpace (s.rs b + BitVec.ofNat 64 (4 * k))) = false
      simp only [List.contains_eq_mem, List.mem_cons, List.not_mem_nil, or_false, decide_eq_false_iff_not]
      omega

end Sys2Proof.Proofs
end

section
/-! SUPPORT. Traps, and the words that an issuer does not accept (R42, R93–R97, R100). -/

namespace Sys2Proof.Machine

/-! ## Taking a trap -/

/-- A quiet hart takes its trap (R95). -/
theorem takeTrap_hart {s : State} (hh : ByHart s) (hq : s.quiet s.cur.owner = true) (t : TrapInfo) :
    State.takeTrap s t s = s.setMe (s.me.takeTrap t s.group) := by
  obtain ⟨h, hc⟩ := hh
  rw [hc] at hq
  simp only [State.takeTrap, hc]
  exact if_pos hq

/-- A hart that is not quiet leaves its instruction as it was (R95, step 1). -/
theorem takeTrap_of_not_quiet {s u : State} (hh : ByHart u) (hc : s.cur = u.cur) (hq : s.quiet s.cur.owner = false)
    (t : TrapInfo) : State.takeTrap s t u = s := by
  obtain ⟨h, hu⟩ := hh
  rw [hc, hu] at hq
  simp only [State.takeTrap, hu]
  exact if_neg (Bool.eq_false_iff.1 hq)

theorem quiet_false_iff (s : State) (h : HartId) :
    s.quiet h = false ↔ (s.hart h).pending ≠ 0 ∨ (s.hart h).vpending ≠ 0 ∨ (s.hart h).lanes ≠ [] ∨
      ∃ o ∈ s.ops, o.issuer.owner = h ∧ (o.kind.vector = true ∨ (o.issuer = .hart h ∧ o.loads = true)) := by
  simp only [State.quiet, Bool.and_eq_false_iff, beq_eq_false_iff_ne, List.isEmpty_eq_false_iff, Bool.not_eq_false',
    List.any_eq_true, Bool.and_eq_true, beq_iff_eq, Bool.or_eq_true, or_assoc, ne_eq]

/-- Two words side by side (R95, tstart). -/
theorem ofNat_mul_add_eq_shiftLeft_or {n m : Nat} (x : BitVec n) (y : BitVec m) (hn : n ≤ 32) (hm : m ≤ 32) :
    BitVec.ofNat 64 (x.toNat * 2 ^ 32 + y.toNat) = x.setWidth 64 <<< 32 ||| y.setWidth 64 := by
  have hx : x.toNat < 2 ^ 32 := Nat.lt_of_lt_of_le x.isLt (Nat.pow_le_pow_right (by decide) hn)
  have hy : y.toNat < 2 ^ 32 := Nat.lt_of_lt_of_le y.isLt (Nat.pow_le_pow_right (by decide) hm)
  apply BitVec.eq_of_toNat_eq
  simp only [BitVec.toNat_ofNat, BitVec.toNat_or, BitVec.toNat_shiftLeft, BitVec.toNat_setWidth, Nat.shiftLeft_eq]
  rw [Nat.mod_eq_of_lt (by omega : x.toNat < 2 ^ 64), Nat.mod_eq_of_lt (by omega : y.toNat < 2 ^ 64),
    Nat.mod_eq_of_lt (by omega : x.toNat * 2 ^ 32 < 2 ^ 64), Nat.mod_eq_of_lt (by omega : x.toNat * 2 ^ 32 + y.toNat < 2 ^ 64),
    ← Nat.shiftLeft_eq, Nat.shiftLeft_add_eq_or_of_lt hy]

/-- The lower of two words side by side. -/
theorem setWidth_or_shiftLeft (x : BitVec 32) (y : BitVec 12) :
    (x.setWidth 64 <<< 32 ||| y.setWidth 64).setWidth 12 = y := by
  apply BitVec.eq_of_getLsbD_eq
  intro i hi
  simp only [BitVec.getLsbD_setWidth, BitVec.getLsbD_or, BitVec.getLsbD_shiftLeft, hi, decide_true, Bool.true_and,
    show i < 32 by omega, show i < 64 by omega, Bool.not_true, Bool.and_false, Bool.false_or, Bool.false_and]

/-- The upper of two words side by side. -/
theorem shiftRight_shiftLeft_or (x : BitVec 32) (y : BitVec 12) :
    ((x.setWidth 64 <<< 32 ||| y.setWidth 64) >>> 32).setWidth 32 = x := by
  apply BitVec.eq_of_getLsbD_eq
  intro i hi
  have hy : y.getLsbD (32 + i) = false := BitVec.getLsbD_of_ge _ _ (by omega)
  simp only [BitVec.getLsbD_setWidth, BitVec.getLsbD_ushiftRight, BitVec.getLsbD_or, BitVec.getLsbD_shiftLeft, hi, hy,
    decide_true, Bool.true_and, show 32 + i < 64 by omega, show ¬32 + i < 32 by omega, decide_false, Bool.not_false,
    Nat.add_sub_cancel_left, show i < 64 by omega, Bool.and_false, Bool.or_false]

/-- The tcause of a trap at issue is its code, and the level before (R96). -/
theorem tcauseOf_at (c : Cause) (v : Word) (l : Priv) :
    tcauseOf (.at c v) l = BitVec.ofNat 64 (c.code + if l = .s then 2 ^ 19 else 0) := by
  simp [tcauseOf, TrapInfo.at, Cause.code, Nat.add_comm]

section

variable {h : Hart} (c : Cause) (v : Word) (g : Group)

/-- The hart with the trap CSRs of a trap at issue, of a word that no replay holds (R95, R96). -/
def Hart.trapped (h : Hart) (c : Cause) (v : Word) : Hart :=
  { h with
    tcause := BitVec.ofNat 64 (c.code + if h.priv = .s then 2 ^ 19 else 0)
    tpc := h.pc
    tval := v
    tstart := h.kstart.setWidth 64 <<< 32 ||| h.vstart.setWidth 64
    mmspKey := none }

theorem trapCsrs_at (hq : h.vqueue = []) (hp : h.pc.toNat < 2 ^ 21) :
    { h.trapCsrs (.at c v) with mmspKey := none } = h.trapped c v := by
  have hpc : BitVec.ofNat 64 (h.pc.toNat % 2 ^ 21) = h.pc := by rw [Nat.mod_eq_of_lt hp, BitVec.ofNat_toNat, BitVec.setWidth_eq]
  have hts := ofNat_mul_add_eq_shiftLeft_or h.kstart h.vstart (by decide) (by decide)
  have ht : (if h.vqueue.isEmpty || (TrapInfo.at c v).deferred then TrapInfo.at c v else { TrapInfo.at c v with source := 1 }) =
      .at c v := by simp [hq]
  simp only [Hart.trapCsrs, ht, tcauseOf_at, hpc]
  rw [Hart.trapped, ← hts]
  rfl

/-- A trap that goes to the group's handler enters it at S (R95, step 4). -/
theorem hart_takeTrap_enters {e : Nat} (hq : h.vqueue = []) (hp : h.pc.toNat < 2 ^ 21) (hl : h.priv = .p)
    (hg : g.handler = some e) (hc : c.toF = false) :
    h.takeTrap (.at c v) g = { h.trapped c v with
      state := .run, priv := .s, pc := BitVec.ofNat 64 e, wfeAt := none, hwait := none, stalled := none } := by
  have he : escalates (.at c v) (h.trapped c v) g = false := by simp [escalates, TrapInfo.at, hc, Hart.trapped, hl, hg]
  have hd : (h.trapped c v).dropQueue = h.trapped c v := by simp [Hart.dropQueue, Hart.trapped, hq]
  unfold Hart.takeTrap
  simp only [trapCsrs_at c v hq hp, he, Bool.false_eq_true, if_false, Hart.enterS, hd, hg, Option.getD_some]

/-- A trap that goes to F leaves the hart SUSPENDED at its level (R94). -/
theorem hart_takeTrap_escalates (hq : h.vqueue = []) (hp : h.pc.toNat < 2 ^ 21)
    (he : h.priv = .s ∨ g.handler = none ∨ c.toF = true) :
    h.takeTrap (.at c v) g = { h.trapped c v with
      state := .suspended, wfeAt := none, hwait := none, stalled := none, trapHeld := true, body := false } := by
  have he : escalates (.at c v) (h.trapped c v) g = true := by
    simp only [escalates, TrapInfo.at, Hart.trapped, Bool.or_eq_true, beq_iff_eq, Option.isNone_iff_eq_none]
    tauto
  unfold Hart.takeTrap
  simp -zeta only [trapCsrs_at c v hq hp]
  exact if_pos he

end

/-- The causes of R93 that go to F. -/
theorem toF_eq_true_iff (c : Cause) : c.toF = true ↔ c ∈ [Cause.extent, .poolEmpty, .machineCheck] := by
  cases c <;> decide

end Sys2Proof.Machine
end

section
/-! SUPPORT. The statements settled: Traps, and the words that an issuer does not accept (R42, R93–R97, R100). -/

namespace Sys2Proof.Proofs

open Machine

/-- Settles O12: the hart takes its trap as `Hart.takeTrap` says, in one of two ways, and `Hart.eret` reads what that wrote. -/
theorem trapEntry : Obligations.TrapEntry := by
  unfold Obligations.TrapEntry
  refine ⟨?entry, ?waits, ?undone⟩
  case entry =>
    intro c v s hh hq hv hp t x
    have ht : t = s.setMe (s.me.takeTrap (.at c v) s.group) := takeTrap_hart hh hq _
    have hx : x = s.me.takeTrap (.at c v) s.group := by rw [show x = t.me from rfl, ht, State.me_setMe]
    have hm : t.mem = s.mem := by rw [ht, State.setMe_mem]
    rw [← toF_eq_true_iff, hx]
    by_cases he : s.me.priv = .s ∨ s.group.handler = none ∨ c.toF = true
    · rw [hart_takeTrap_escalates c v _ hv hp he]
      exact ⟨rfl, rfl, rfl, rfl, rfl, rfl, rfl, rfl, hm, fun e h1 h2 h3 => by simp_all, fun _ => ⟨rfl, rfl, rfl⟩⟩
    · simp only [not_or, Bool.not_eq_true] at he
      obtain ⟨hl, hg, hc⟩ := he
      obtain ⟨e, hg⟩ := Option.ne_none_iff_exists'.1 hg
      have hl : s.me.priv = .p := by cases h : s.me.priv <;> simp_all
      rw [hart_takeTrap_enters c v _ hv hp hl hg hc]
      refine ⟨rfl, rfl, rfl, rfl, rfl, rfl, rfl, rfl, hm, fun e' _ h2 _ => ?_, fun h => by simp_all⟩
      rw [Option.some.inj (hg.symm.trans h2)]
      exact ⟨rfl, rfl, rfl⟩
  case waits =>
    intro t s u hu hc h
    have hq : s.quiet s.cur.owner = false := by
      rw [quiet_false_iff]
      obtain ⟨k, hk⟩ := hu
      rw [hc, hk] at h ⊢
      simpa [State.me, hc, hk, Issuer.owner] using h
    exact takeTrap_of_not_quiet hu hc hq t
  case undone =>
    intro c v s e hh hq hv hp hl hg hc
    rw [← toF_eq_true_iff, Bool.not_eq_true] at hc
    have ht := takeTrap_hart hh hq (.at c v)
    rw [hart_takeTrap_enters c v _ hv hp hl hg hc] at ht
    refine ⟨_, execEret_of_priv_s (ht ▸ hh) (by rw [ht, State.me_setMe]), ?_⟩
    have hr : bitOf (BitVec.ofNat 64 (c.code + if s.me.priv = .s then 2 ^ 19 else 0)) 19 = false := by
      rw [if_neg (by rw [hl]; decide)]
      cases c <;> decide
    simp only [State.me_setMe, ht, eret_vstart, eret_kstart]
    refine ⟨rfl, (if_neg (Bool.eq_false_iff.1 hr)).trans hl.symm, ?_, ?_, rfl, rfl, rfl, rfl, rfl⟩
    · exact setWidth_or_shiftLeft ..
    · exact shiftRight_shiftLeft_or ..

end Sys2Proof.Proofs
end

section
/-! SUPPORT. Traps, and the words that an issuer does not accept (R42, R93–R97, R100). -/

namespace Sys2Proof.Machine

/-! ## Who accepts which words -/

/-- An instruction that runs its checks and effects for the issuers of a class, and traps for every other (R42). -/
def IssuedBy (a : Accept) (i : Instr) : Prop := ∃ m : State → M Flow, ∀ s, exec i s = issue a (m s) s

section

variable {n : Nat} {i : Instr}

/-- The lanes' majors (R42). -/
noncomputable def laneMajors : List (Nat → Option Instr) := [
  major20, major24, major28, major29, major2A, major2B, major2C, major2D, major2E, major2F, major30, major31, major32,
  major33, major34, major35, major37]

theorem laneMajors_issued {f : Nat → Option Instr} (hf : f ∈ laneMajors) (h : f n = some i) : IssuedBy .lanes i := by
  simp only [laneMajors, List.mem_cons, List.not_mem_nil, or_false] at hf
  obtain rfl | rfl | rfl | rfl | rfl | rfl | rfl | rfl | rfl | rfl | rfl | rfl | rfl | rfl | rfl | rfl | rfl := hf
  all_goals
    simp only [
      major20, major24, major28, major29, major2A, major2B, major2C, major2D, major2E, major2F, major30, major31, major32,
      major33, major34, major35, major37] at h
    split at h <;> cases h <;> exact ⟨_, fun _ => rfl⟩

/-- The stream sequencer's majors (R42). -/
noncomputable def streamMajors : List (Nat → Option Instr) := [
  major40, major41, major42, major43, major44, major45, major46, major4C, major4D, major5A]

theorem streamMajors_issued {f : Nat → Option Instr} (hf : f ∈ streamMajors) (h : f n = some i) : IssuedBy .stream i := by
  simp only [streamMajors, List.mem_cons, List.not_mem_nil, or_false] at hf
  obtain rfl | rfl | rfl | rfl | rfl | rfl | rfl | rfl | rfl | rfl := hf
  all_goals
    simp only [
      major40, major41, major42, major43, major44, major45, major46, major4C, major4D, major5A] at h
    split at h <;> cases h <;> exact ⟨_, fun _ => rfl⟩

/-- The tile sequencer's majors (R42). -/
noncomputable def tileMajors : List (Nat → Option Instr) := [
  major50, major51, major52, major53, major54, major55, major56, major57, major58, major59]

theorem tileMajors_issued {f : Nat → Option Instr} (hf : f ∈ tileMajors) (h : f n = some i) : IssuedBy .tile i := by
  simp only [tileMajors, List.mem_cons, List.not_mem_nil, or_false] at hf
  obtain rfl | rfl | rfl | rfl | rfl | rfl | rfl | rfl | rfl | rfl := hf
  all_goals
    simp only [
      major50, major51, major52, major53, major54, major55, major56, major57, major58, major59] at h
    split at h <;> cases h <;> exact ⟨_, fun _ => rfl⟩

/-- The majors of which a hart alone takes every word. -/
noncomputable def hartMajors : List (Nat → Option Instr) := [
  major01, major02, major1C, major1D, major38, major39, major3A, major3B, major3D, major64, major68, major70, major74]

theorem hartMajors_issued {f : Nat → Option Instr} (hf : f ∈ hartMajors) (h : f n = some i) : IssuedBy .hart i := by
  simp only [hartMajors, List.mem_cons, List.not_mem_nil, or_false] at hf
  obtain rfl | rfl | rfl | rfl | rfl | rfl | rfl | rfl | rfl | rfl | rfl | rfl | rfl := hf
  all_goals
    simp only [
      major01, major02, major1C, major1D, major38, major39, major3A, major3B, major3D, major64, major68, major70, major74] at h
    split at h <;> cases h <;> exact ⟨_, fun _ => rfl⟩

theorem major60_issued (h : major60 n = some i) : IssuedBy .engines i := by
  unfold major60 at h
  split at h <;> cases h <;> exact ⟨_, fun _ => rfl⟩

/-- The order words and the loop words, which both engine sequencers take (R42). -/
def Orders (w : IWord) : Prop :=
  major w = 0x60 ∨ (major w = 0x6C ∧ w.toNat / 2 ^ 26 < 2) ∨
    (major w = 0x17 ∧ (w.toNat / 2 ^ 22 = 3 ∨ w.toNat / 2 ^ 22 = 4))

/-- The words that a tile sequencer takes besides (R42). -/
def TileWord (w : IWord) : Prop := 0x50 ≤ major w ∧ major w ≤ 0x59

/-- The words that a stream sequencer takes besides (R42). -/
def StreamWord (w : IWord) : Prop := (0x40 ≤ major w ∧ major w ≤ 0x46) ∨ major w = 0x4C ∨ major w = 0x4D ∨ major w = 0x5A

/-- The words that the lanes take (R42). -/
def LaneWord (w : IWord) : Prop :=
  (0x20 ≤ major w ∧ major w ≤ 0x35) ∨ major w = 0x37 ∨
    (major w = 0x3C ∧ (w.toNat / 2 ^ 29 = 1 ∨ w.toNat / 2 ^ 29 = 2))

/-- What a class of words says of the word. -/
def Accept.Holds (w : IWord) : Accept → Prop
  | .hart => True
  | .lanes => LaneWord w
  | .tile => TileWord w
  | .stream => StreamWord w
  | .engines => Orders w

theorem major17_issued {w : IWord} (hm : major w = 0x17) (h : major17 w.toNat = some i) :
    ∃ a : Accept, a.Holds w ∧ IssuedBy a i := by
  have hw : w.toNat / 4194304 % 1024 = w.toNat / 2 ^ 22 := Nat.mod_eq_of_lt (by omega)
  unfold major17 at h
  rw [hw] at h
  split at h
  case h_4 hf =>
    cases h
    exact ⟨.engines, .inr (.inr ⟨hm, .inl hf⟩), _, fun _ => rfl⟩
  case h_5 hf =>
    cases h
    exact ⟨.engines, .inr (.inr ⟨hm, .inr hf⟩), _, fun _ => rfl⟩
  all_goals cases h
  all_goals exact ⟨.hart, trivial, _, fun _ => rfl⟩

theorem major3C_issued {w : IWord} (hm : major w = 0x3C) (h : major3C w.toNat = some i) :
    ∃ a : Accept, a.Holds w ∧ IssuedBy a i := by
  have hw : w.toNat / 536870912 % 8 = w.toNat / 2 ^ 29 := Nat.mod_eq_of_lt (by omega)
  unfold major3C at h
  rw [hw] at h
  split at h
  case h_2 hf =>
    cases h
    exact ⟨.lanes, .inr (.inr ⟨hm, .inl hf⟩), _, fun _ => rfl⟩
  case h_3 hf =>
    cases h
    exact ⟨.lanes, .inr (.inr ⟨hm, .inr hf⟩), _, fun _ => rfl⟩
  all_goals cases h
  all_goals exact ⟨.hart, trivial, _, fun _ => rfl⟩

theorem major6C_issued {w : IWord} (hm : major w = 0x6C) (h : major6C w.toNat = some i) :
    ∃ a : Accept, a.Holds w ∧ IssuedBy a i := by
  have hw : w.toNat / 67108864 % 64 = w.toNat / 2 ^ 26 := Nat.mod_eq_of_lt (by omega)
  unfold major6C at h
  rw [hw] at h
  split at h
  case h_1 hf =>
    cases h
    exact ⟨.engines, .inr (.inl ⟨hm, by omega⟩), _, fun _ => rfl⟩
  case h_2 hf =>
    cases h
    exact ⟨.engines, .inr (.inl ⟨hm, by omega⟩), _, fun _ => rfl⟩
  all_goals cases h
  all_goals exact ⟨.hart, trivial, _, fun _ => rfl⟩

theorem laneFields_issued {w : IWord} (h : laneFields w = some i) : ∃ a : Accept, a.Holds w ∧ IssuedBy a i := by
  unfold laneFields at h
  dsimp only at h
  split at h
  case h_23 => cases h
  all_goals
    next hm =>
      exact ⟨.lanes, .inl ⟨by rw [major]; omega, by rw [major]; omega⟩, laneMajors_issued (by simp [laneMajors]) h⟩

/-- Every decoded instruction is issued by the class of its word's major (R42). -/
theorem decodeFields_issued {w : IWord} (h : decodeFields w = some i) : ∃ a : Accept, a.Holds w ∧ IssuedBy a i := by
  unfold decodeFields at h
  dsimp only at h
  split at h
  case h_3 | h_4 | h_5 | h_6 | h_7 | h_8 | h_9 | h_10 | h_11 | h_12 | h_13 | h_14 | h_15 | h_16 | h_17 | h_18 | h_19 |
      h_20 | h_21 | h_22 | h_24 | h_25 | h_28 =>
    cases h
    exact ⟨.hart, trivial, _, fun _ => rfl⟩
  case h_1 | h_2 | h_26 | h_27 | h_30 | h_31 | h_32 | h_33 | h_35 | h_57 | h_58 | h_60 | h_61 =>
    exact ⟨.hart, trivial, hartMajors_issued (by simp [hartMajors]) h⟩
  case h_29 hm => exact ⟨.lanes, .inr (.inl hm), laneMajors_issued (by simp [laneMajors]) h⟩
  case h_45 | h_46 | h_47 | h_48 | h_49 | h_50 | h_51 | h_52 | h_53 | h_54 hm =>
    exact ⟨.tile, ⟨by rw [major]; omega, by rw [major]; omega⟩, tileMajors_issued (by simp [tileMajors]) h⟩
  case h_36 | h_37 | h_38 | h_39 | h_40 | h_41 | h_42 | h_43 | h_44 | h_55 hm =>
    exact ⟨.stream, by rw [Accept.Holds, StreamWord, major]; omega, streamMajors_issued (by simp [streamMajors]) h⟩
  case h_56 hm => exact ⟨.engines, .inl hm, major60_issued h⟩
  case h_23 hm => exact major17_issued hm h
  case h_34 hm => exact major3C_issued hm h
  case h_59 hm => exact major6C_issued hm h
  case h_62 => exact laneFields_issued h

end

end Sys2Proof.Machine
end

section
/-! SUPPORT. Traps, and the words that an issuer does not accept (R42, R93–R97, R100). -/

namespace Sys2Proof.Machine

/-! ## Words that an issuer does not accept -/

@[simp] theorem Hart.prog_setProg (h : Hart) (e : Eng) (p : SeqProg) : (h.setProg e p).prog e = p := by
  cases e <;> rfl

theorem Hart.lane_strand {h : Hart} {j : Nat} (hs : ∃ y ∈ h.strands, y.lane = j) : (h.strand j).lane = j := by
  obtain ⟨y, hy, hj⟩ := hs
  unfold Hart.strand
  cases hf : h.strands.find? (fun t => t.lane = j) with
  | none => exact absurd hj (by simpa using List.find?_eq_none.1 hf y hy)
  | some z => simpa using List.find?_some hf

/-- A lane's strand, replaced by one of that lane, is that one. -/
theorem Hart.strand_setStrand {h : Hart} {j : Nat} {x : Strand} (hv : h.vset.isSome = true)
    (hs : ∃ y ∈ h.strands, y.lane = j) (hx : x.lane = j) : (h.setStrand j x).strand j = x := by
  obtain ⟨v, hv⟩ := Option.isSome_iff_exists.1 hv
  have hl : ∀ l : List Strand, (∃ y ∈ l, y.lane = j) →
      (l.map (fun t => if t.lane = j then x else t)).find? (fun t => t.lane = j) = some x := by
    intro l hl
    induction l with
    | nil => simp at hl
    | cons y t ih =>
      by_cases hy : y.lane = j
      · simp [hy, hx]
      · obtain ⟨z, hz, hj⟩ := hl
        obtain rfl | hz := List.mem_cons.1 hz
        · exact absurd hj hy
        · simp [hy, ih ⟨z, hz, hj⟩]
  have hstr : h.strands = v.strands := by simp [Hart.strands, hv]
  simp [Hart.setStrand, Hart.strand, Hart.strands, hv, hl v.strands (hstr ▸ hs)]

theorem decodeFields_of_decode {w : IWord} {i : Instr} (h : decode w = .ok i) : decodeFields w = some i := by
  unfold decode at h
  split at h
  · cases h
  · rename_i hf
    split at h
    · cases h
    · split at h
      · cases h
        exact hf
      · cases h

theorem refused_by_seq {w : IWord} {a : Accept} {h : HartId} {e : Eng} (ha : a.Holds w)
    (hn : ¬(Orders w ∨ (e = .tile ∧ TileWord w) ∨ (e = .stream ∧ StreamWord w))) : (Issuer.seq h e).accepts a = false := by
  cases a with
  | hart => cases e <;> rfl
  | lanes => cases e <;> rfl
  | tile =>
    cases e with
    | tile => exact absurd (.inr (.inl ⟨rfl, ha⟩)) hn
    | stream => rfl
  | stream =>
    cases e with
    | tile => rfl
    | stream => exact absurd (.inr (.inr ⟨rfl, ha⟩)) hn
  | engines => exact absurd (.inl ha) hn

theorem refused_by_strand {w : IWord} {a : Accept} {h : HartId} {j : Nat} (ha : a.Holds w) (hn : ¬LaneWord w) :
    (Issuer.strand h j).accepts a = false := by
  cases a with
  | lanes => exact absurd ha hn
  | hart | tile | stream | engines => rfl

/-! ## The trap instructions -/

section

variable {s : State} {a : Reg}

theorem execTrap_next (hh : ByHart s) (hn : Named s [a]) :
    execTrap a s = .next (State.takeTrap s (.at .trapInstr (s.rs a)) s) :=
  issue_hart (r := .error (.trap _) s) hh _ (by simp only [run_bind, run_get, run_trap, named_ok hn])

theorem execSysc_next (hh : ByHart s) (hn : Named s [a]) :
    execSysc a s = .next (State.takeTrap s (.at .syscall (s.rs a)) s) :=
  issue_hart (r := .error (.trap _) s) hh _ (by simp only [run_bind, run_get, run_trap, named_ok hn])

theorem execBrk_next (hh : ByHart s) : execBrk s = .next (State.takeTrap s (.at .breakpoint 0) s) :=
  issue_hart (r := .error (.trap _) s) hh _ rfl

end

/-- The cause field of a trap at issue (R96). -/
theorem bitsOf_tcause (c : Cause) (l : Priv) : bitsOf (BitVec.ofNat 64 (c.code + if l = .s then 2 ^ 19 else 0)) 0 8 = c.code := by
  cases l <;> cases c <;> decide

/-- What a quiet hart's trap at issue leaves, whether it enters the handler or goes to F (R94, R95). -/
theorem takeTrap_leaves {s : State} (c : Cause) (v : Word) (hh : ByHart s) (hq : s.quiet s.cur.owner = true) (hv : s.me.vqueue = [])
    (hp : s.me.pc.toNat < 2 ^ 21) (hc : c.toF = false) :
    let t := State.takeTrap s (.at c v) s
    bitsOf t.me.tcause 0 8 = c.code ∧ t.me.tval = v ∧ t.me.tpc = s.me.pc ∧ t.me.sregs = s.me.sregs ∧ t.mem = s.mem ∧
      (∀ e, s.me.priv = .p → s.group.handler = some e → t.me.priv = .s ∧ t.me.pc = BitVec.ofNat 64 e ∧ t.me.state = .run) ∧
      (s.me.priv = .s ∨ s.group.handler = none → t.me.priv = s.me.priv ∧ t.me.state = .suspended ∧ t.me.trapHeld = true) := by
  intro t
  have ht : t = s.setMe (s.me.takeTrap (.at c v) s.group) := takeTrap_hart hh hq _
  have hm : t.mem = s.mem := by rw [ht, State.setMe_mem]
  by_cases he : s.me.priv = .s ∨ s.group.handler = none
  · rw [hart_takeTrap_escalates c v _ hv hp (or_assoc.1 (.inl he))] at ht
    rw [ht, State.me_setMe]
    exact ⟨bitsOf_tcause c _, rfl, rfl, rfl, rfl, fun e h1 h2 => by simp_all, fun _ => ⟨rfl, rfl, rfl⟩⟩
  · obtain ⟨hl, hg⟩ := not_or.1 he
    obtain ⟨e, hg⟩ := Option.ne_none_iff_exists'.1 hg
    have hl : s.me.priv = .p := by cases h : s.me.priv <;> simp_all
    rw [hart_takeTrap_enters c v _ hv hp hl hg hc] at ht
    rw [ht, State.me_setMe]
    refine ⟨bitsOf_tcause c _, rfl, rfl, rfl, rfl, fun e' _ h2 => ?_, fun h => absurd h he⟩
    rw [Option.some.inj (hg.symm.trans h2)]
    exact ⟨rfl, rfl, rfl⟩

end Sys2Proof.Machine
end

section
/-! SUPPORT. The statements settled: Traps, and the words that an issuer does not accept (R42, R93–R97, R100). -/

namespace Sys2Proof.Proofs

open Machine

/-- Settles O13: each word's own trap, and the trap of a word whose class its issuer does not take. -/
theorem trapInstructions : Obligations.TrapInstructions := by
  unfold Obligations.TrapInstructions
  refine ⟨fun a w s hh hn => ⟨execTrap_next hh hn, execSysc_next hh hn, execBrk_next hh, rfl⟩, ?leaves, ?refused⟩
  case leaves =>
    intro a w i code v s hh hn hq hv hp hi
    simp only [List.mem_cons, Prod.mk.injEq, List.not_mem_nil, or_false] at hi
    obtain ⟨rfl, rfl, rfl⟩ | ⟨rfl, rfl, rfl⟩ | ⟨rfl, rfl, rfl⟩ | ⟨rfl, rfl, rfl⟩ := hi
    · exact ⟨_, execTrap_next hh hn, takeTrap_leaves .trapInstr _ hh hq hv hp rfl⟩
    · exact ⟨_, execSysc_next hh hn, takeTrap_leaves .syscall _ hh hq hv hp rfl⟩
    · exact ⟨_, execBrk_next hh, takeTrap_leaves .breakpoint _ hh hq hv hp rfl⟩
    · exact ⟨State.takeTrap s (.at .illegalInstr (w.setWidth 64)) s, rfl, takeTrap_leaves .illegalInstr _ hh hq hv hp rfl⟩
  case refused =>
    intro x i s h hd hw m order
    obtain ⟨a, ha, f, hf⟩ := decodeFields_issued (decodeFields_of_decode hd)
    refine ⟨fun e hc hn => ?_, fun j hc hv hs hn => ?_⟩
    · have hr := issue_refused (hc ▸ refused_by_seq ha hn : s.cur.accepts a = false) (f s)
      refine ⟨_, (hf s).trans hr, ?_⟩
      simp only [State.takeTrap, hc, hw, State.me_setMe, Hart.prog_setProg]
      exact ⟨rfl, rfl, rfl⟩
    · have hr := issue_refused (hc ▸ refused_by_strand ha hn : s.cur.accepts a = false) (f s)
      refine ⟨_, (hf s).trans hr, ?_⟩
      have hl : ((s.me.strand j).takeTrap (.at .illegalInstr (x.setWidth 64))).lane = j := Hart.lane_strand hs
      simp only [State.takeTrap, hc, hw, State.me_setMe, Hart.strand_setStrand hv hs hl]
      exact ⟨rfl, rfl, rfl, rfl⟩

end Sys2Proof.Proofs
end

section
/-! SUPPORT. CSR accesses (R38, R104). -/

namespace Sys2Proof.Machine

/-! ## The checks of a CSR access -/

section

variable {s : State} {c : BitVec 12} {d : Reg}

/-- The checks of a known CSR at a level that may access it, with nothing to wait for (R38, R104). -/
theorem csrCheck_ok {write : Bool} (hn : Named s [d]) (hk : csrKnown c = true) (hw : write = true → csrWritable c s.me.priv = true)
    (ht : csrTrap c = true → s.me.priv = .s) (hb : s.csrBusy c = false) : csrCheck c write d s = .ok () s := by
  have h1 : (!csrKnown c || (write && !csrWritable c s.me.priv)) = false := by
    cases write <;> simp_all
  have h2 : (csrTrap c && s.me.priv == .p) = false := by
    cases h : csrTrap c
    · rfl
    · simp [ht h]
  simp only [csrCheck, run_bind, run_get, run_pure, h1, h2, hb, named_ok hn, Bool.false_eq_true, if_false]

/-- A CSR that the issuer may not write (R38). -/
theorem csrCheck_illegal (hw : csrWritable c s.me.priv = false) :
    csrCheck c true d s = .error (.trap (.at .illegalInstr (s.word.setWidth 64))) s := by
  have h : (!csrKnown c || (true && !csrWritable c s.me.priv)) = true := by simp [hw]
  simp only [csrCheck, run_bind, run_get, run_trap, h, if_true]

/-- A trap CSR at P (R38). -/
theorem csrCheck_privilege (write : Bool) (ht : csrTrap c = true) (hp : s.me.priv = .p) :
    csrCheck c write d s = .error (.trap (.at .privilege (s.word.setWidth 64))) s := by
  have h1 : (!csrKnown c || (write && !csrWritable c s.me.priv)) = false := by simp [csrKnown, csrWritable, ht]
  have h2 : (csrTrap c && s.me.priv == .p) = true := by simp [ht, hp]
  simp only [csrCheck, run_bind, run_get, run_trap, h1, h2, Bool.false_eq_true, if_false, if_true]

theorem csrBusy_of_idle (ho : s.ops = []) (hl : s.me.lanes = []) : s.csrBusy c = false := by
  have hv : s.vlPending = false := by
    unfold State.vlPending
    split
    · simp [ho]
    · rfl
  simp [State.csrBusy, ho, hl, hv]

/-! ## The instructions -/

theorem execCsrr_ok (hh : ByHart s) (hc : csrCheck c false d s = .ok () s) :
    execCsrr d c s = .next (s.setRs d (s.me.csr c)).retire :=
  issue_ok (f := .seq) hh _ (by simp only [run_bind, run_act, run_pure, hc])

theorem execCsrr_trap {i : TrapInfo} (hh : ByHart s) (hc : csrCheck c false d s = .error (.trap i) s) :
    execCsrr d c s = .next (State.takeTrap s i s) :=
  issue_hart (r := .error (.trap i) s) hh _ (by simp only [run_bind, hc])

theorem csrUpdate_ok (f : Word → Word → Word) (hh : ByHart s) (hc : csrCheck c true d s = .ok () s) :
    csrUpdate d c f s = .next (s.setMe (s.me.setCsr c (f (s.me.csr c) (s.rs d)))).retire :=
  issue_ok (f := .seq) hh _ (by simp only [run_bind, run_act, run_pure, hc])

theorem csrUpdate_trap {i : TrapInfo} (f : Word → Word → Word) (hh : ByHart s) (hc : csrCheck c true d s = .error (.trap i) s) :
    csrUpdate d c f s = .next (State.takeTrap s i s) :=
  issue_hart (r := .error (.trap i) s) hh _ (by simp only [run_bind, hc])

end

/-! ## The bits that a CSR keeps -/

/-- The low n bits of a word are what its mask keeps. -/
theorem setWidth_setWidth_eq_and (x : Word) {n : Nat} (hn : n ≤ 64) :
    (x.setWidth n).setWidth 64 = x &&& BitVec.ofNat 64 (2 ^ n - 1) := by
  have hp : 2 ^ n ≤ 2 ^ 64 := Nat.pow_le_pow_right (by decide) hn
  have hlt : 2 ^ n - 1 < 2 ^ 64 := by omega
  apply BitVec.eq_of_toNat_eq
  rw [BitVec.toNat_setWidth, BitVec.toNat_setWidth, BitVec.toNat_and, BitVec.toNat_ofNat, Nat.mod_eq_of_lt hlt,
    Nat.and_two_pow_sub_one_eq_mod]
  exact Nat.mod_eq_of_lt (Nat.lt_of_lt_of_le (Nat.mod_lt _ (Nat.two_pow_pos n)) hp)

/-- The PC of a trap is kept below the code area's largest size (R104). -/
theorem ofNat_mod_eq_and (x : Word) : BitVec.ofNat 64 (x.toNat % 2 ^ 21) = x &&& 0x1F_FFFF := by
  refine Eq.trans ?_ (setWidth_setWidth_eq_and x (n := 21) (by decide))
  apply BitVec.eq_of_toNat_eq
  simp

theorem edgeField_lt {a b : Nat} (ha : a < 4) (hb : b < 4) : edgeField a b < 4 := by
  unfold edgeField
  split <;> assumption

theorem bitsOf_lt {w : Nat} (x : BitVec w) (lo n : Nat) : bitsOf x lo n < 2 ^ n := Nat.mod_lt _ (Nat.two_pow_pos n)

/-- Each field of nbedge is written by itself (R108). -/
theorem bitsOf_edgeWrite (old : BitVec 4) (x : Word) :
    ∀ k ∈ [0, 2], bitsOf ((edgeWrite old x).setWidth 64) k 2 = edgeField (bitsOf old k 2) (bitsOf x k 2) := by
  have hlo := edgeField_lt (bitsOf_lt old 0 2) (bitsOf_lt x 0 2)
  have hhi := edgeField_lt (bitsOf_lt old 2 2) (bitsOf_lt x 2 2)
  intro k hk
  obtain rfl | rfl : k = 0 ∨ k = 2 := by simpa using hk
  all_goals
    simp only [bitsOf, edgeWrite, BitVec.toNat_setWidth, BitVec.toNat_ofNat] at hlo hhi ⊢
    omega

end Sys2Proof.Machine
end

section
/-! SUPPORT. The statements settled: CSR accesses (R38, R104). -/

namespace Sys2Proof.Proofs

open Machine

/-- Settles O16: the accesses that pass `csrCheck`, the bits of each CSR, and the two traps. -/
theorem controlRegisters : Obligations.ControlRegisters := by
  unfold Obligations.ControlRegisters
  refine ⟨fun d s hh hn ho hl => ⟨fun c hc => ?read, fun c hc => ?write, fun h x => ?bits⟩,
    fun d c s hh hn => ⟨fun hc hp => ?privilege, fun hc => ?illegal⟩⟩
  case read =>
    simp only [List.mem_cons, List.not_mem_nil, or_false] at hc
    refine execCsrr_ok hh (csrCheck_ok hn ?_ (by simp) ?_ (csrBusy_of_idle ho hl))
    · simp only [csrKnown, csrTrap, Bool.or_eq_true, decide_eq_true_eq]
      omega
    · simp only [csrTrap, decide_eq_true_eq]
      exact fun h => hc.elim (fun hc => by omega) And.right
  case write =>
    simp only [List.mem_cons, List.not_mem_nil, or_false] at hc
    have h9 : c = 9 ↔ c.toNat = 9 := BitVec.toNat_inj.symm
    have hk : csrCheck c true d s = .ok () s := by
      refine csrCheck_ok hn ?_ (fun _ => ?_) ?_ (csrBusy_of_idle ho hl)
      · simp only [csrKnown, csrTrap, Bool.or_eq_true, decide_eq_true_eq]
        omega
      · simp only [csrWritable, csrTrap, Bool.or_eq_true, Bool.and_eq_true, decide_eq_true_eq, beq_iff_eq, h9]
        obtain hc | ⟨hc, hs⟩ := hc
        · omega
        · simp only [hs, and_true]
          omega
      · simp only [csrTrap, decide_eq_true_eq]
        exact fun h => hc.elim (fun hc => by omega) And.right
    exact ⟨csrUpdate_ok (fun _ x => x) hh hk, csrUpdate_ok (· ||| ·) hh hk, csrUpdate_ok (fun v x => v &&& ~~~x) hh hk⟩
  case bits =>
    exact ⟨setWidth_setWidth_eq_and x (by decide), setWidth_setWidth_eq_and x (by decide), rfl,
      setWidth_setWidth_eq_and x (by decide), setWidth_setWidth_eq_and x (by decide), bitsOf_edgeWrite h.nbedge x, rfl, rfl,
      ofNat_mod_eq_and x, rfl, rfl⟩
  case privilege =>
    have ht : csrTrap c = true := by
      simp only [List.mem_cons, List.not_mem_nil, or_false] at hc
      simp only [csrTrap, decide_eq_true_eq]
      omega
    have hw := csrCheck_privilege (d := d) true ht hp
    exact ⟨execCsrr_trap hh (csrCheck_privilege false ht hp), csrUpdate_trap (fun _ x => x) hh hw,
      csrUpdate_trap (· ||| ·) hh hw, csrUpdate_trap (fun v x => v &&& ~~~x) hh hw⟩
  case illegal =>
    have h9 : c = 9 ↔ c.toNat = 9 := BitVec.toNat_inj.symm
    have hw : csrCheck c true d s = .error (.trap (.at .illegalInstr (s.word.setWidth 64))) s := by
      simp only [List.mem_cons, List.not_mem_nil, or_false] at hc
      apply csrCheck_illegal
      simp only [csrWritable, csrTrap, Bool.or_eq_false_iff, Bool.and_eq_false_iff, decide_eq_false_iff_not,
        beq_eq_false_iff_ne, ne_eq, h9]
      obtain hc | ⟨hc, hp⟩ := hc
      · exact ⟨⟨by omega, .inl (by omega)⟩, by omega⟩
      · exact ⟨⟨by omega, .inr (by rw [hp]; decide)⟩, by omega⟩
    exact ⟨csrUpdate_trap (fun _ x => x) hh hw,
      csrUpdate_trap (· ||| ·) hh hw, csrUpdate_trap (fun v x => v &&& ~~~x) hh hw⟩

end Sys2Proof.Proofs
end

section
/-! SUPPORT. Scalar loads, stores and atomics (R83–R85, R248, R256). -/

namespace Sys2Proof.Machine

/-! ## Numbers and their bytes -/

@[simp] theorem length_natLe (n x : Nat) : (natLe n x).length = n := by
  induction n generalizing x with
  | zero => rfl
  | succ n ih => simp [natLe, ih]

/-- The bytes of a number give back what of it they hold (R45). -/
theorem leNat_natLe (n x : Nat) : leNat (natLe n x) = x % 2 ^ (8 * n) := by
  induction n generalizing x with
  | zero => simp [natLe, leNat, Nat.mod_one]
  | succ n ih =>
    rw [natLe, leNat, ih, BitVec.toNat_ofNat, show 8 * (n + 1) = 8 + 8 * n by omega, Nat.pow_add, Nat.mod_mul]

/-! ## Places -/

/-- A place of this chip (R23). -/
def Place.here (pl : Place) : Prop := ∀ chip die core off, pl ≠ .remote chip die core off

theorem accBytes_eq (w : BitVec 3) : accBytes w = 2 ^ (w.toNat % 4) := by
  have hw := w.isLt
  have h : w.toNat % 4 = 0 ∨ w.toNat % 4 = 1 ∨ w.toNat % 4 = 2 ∨ w.toNat % 4 = 3 := by omega
  unfold accBytes
  obtain h | h | h | h := h <;> simp [h]

/-- What a load of n bytes writes (R83). -/
theorem extend_accSigned (n : Nat) (w : BitVec 3) (v : Nat) :
    extend n (accSigned w) v =
      if w.toNat < 4 then BitVec.ofInt 64 (sextNat v (8 * n)) else BitVec.ofNat 64 (v % 2 ^ (8 * n)) := by
  simp only [extend, accSigned, decide_eq_true_eq, sext64, zext64]

/-- What a store to a place of this chip leaves is what a load of as many bytes there then gives (R83). -/
theorem loadAt_storeAt_ls {s : State} (hs : Memory.wf s.mem = true) (c o n v : Nat) :
    (s.storeAt (.ls c o) n v).loadAt (.ls c o) n = v % 2 ^ (8 * n) := by
  have h := Memory.readBytes_writeBytes hs (lsKey c o) (natLe n v)
  rw [length_natLe] at h
  simp only [State.storeAt, State.loadAt, Place.key, h, leNat_natLe]

theorem loadAt_storeAt_os {s : State} (hs : Memory.wf s.mem = true) (c o n v : Nat) :
    (s.storeAt (.os c o) n v).loadAt (.os c o) n = v % 2 ^ (8 * n) := by
  have h := Memory.readBytes_writeBytes hs (osKey c o) (natLe n v)
  rw [length_natLe] at h
  simp only [State.storeAt, State.loadAt, Place.key, h, leNat_natLe]

/-! ## What a store leaves -/

section

variable (s : State) (pl : Place) (n v : Nat)

@[simp] theorem State.storeAt_cur : (s.storeAt pl n v).cur = s.cur := by
  cases pl <;> rfl

@[simp] theorem State.storeAt_harts : (s.storeAt pl n v).harts = s.harts := by
  cases pl <;> rfl

@[simp] theorem State.storeAt_hart (k : HartId) : (s.storeAt pl n v).hart k = s.hart k := by
  cases pl <;> rfl

@[simp] theorem State.storeAt_ops : (s.storeAt pl n v).ops = s.ops := by
  cases pl <;> rfl

@[simp] theorem State.storeAt_me : (s.storeAt pl n v).me = s.me := by
  cases pl <;> rfl

/-- A store changes the bytes at its place alone (R83). -/
theorem read_storeAt {s : State} (hs : Memory.wf s.mem = true) {k : Nat} (hk : k < pl.key ∨ pl.key + n ≤ k) :
    Memory.read (s.storeAt pl n v).mem k = Memory.read s.mem k := by
  have hw := Memory.read_writeBytes_outside hs pl.key (natLe n v) k (by simpa using hk)
  cases pl with
  | ls c o => exact hw
  | os c o => exact hw
  | sem | iter | rout | remote => rfl

/-- A store to a counter of space 3 leaves memory (R25). -/
theorem storeAt_mem_of_counter (hl : ∀ c o, pl ≠ .ls c o) (ho : ∀ c o, pl ≠ .os c o) : (s.storeAt pl n v).mem = s.mem := by
  cases pl with
  | ls c o => exact absurd rfl (hl c o)
  | os c o => exact absurd rfl (ho c o)
  | sem | iter | rout | remote => rfl

end

/-! ## Performed at issue -/

section

variable {s : State} {d a b : Reg} {h : HReg} {q : Nat} {pl : Place}

/-- The needs of an access to a place of this chip. -/
def Needs.access (q : Nat) (cls : OpClass) (dest : Option Reg) (touch : List Nat) : Needs :=
  { Needs.of q cls dest with touch := touch }

theorem ready_access {cls : OpClass} {dest : Option Reg} {touch : List Nat} (hp : Prompt s q touch) :
    ready (.access q cls dest touch) s = .ok () s := ready_ok hp rfl rfl rfl

/-- What an instruction does once its checks have passed: `f`, or what `ready` has found instead. -/
def afterReady (n : Needs) (f : State → State) (s : State) : EStateM.Result Stop State Flow :=
  match ready n s with
  | .ok _ t => .ok .seq (f t)
  | .error e t => .error e t

/-- A load from a place of this chip comes to the test of what precedes it (R83). -/
theorem execLd_here (i : BitVec 8) (w : BitVec 3) (hl : pl.here) (hn : named [d, b] s = .ok () s) (hq : seqOf h s = .ok q s)
    (hp : place s .load (accBytes w) (accBytes w) (accPtr s b i (accBytes w)) = .ok pl) :
    ∃ m, execLd d b i w h s = issue .hart m s ∧ m s = afterReady (.access q .load (some d) (pl.touch (accBytes w)))
      (fun _ => s.setRs d (extend (accBytes w) (accSigned w) (s.loadAt pl (accBytes w)))) s := by
  refine ⟨_, rfl, ?_⟩
  simp only [run_bind, run_get, hn, hq, hp]
  cases pl with
  | remote chip die core off => exact absurd rfl (hl chip die core off)
  | ls | os | sem | iter | rout =>
    simp only [run_bind, run_set, run_pure]
    unfold afterReady Needs.access
    cases ready _ s <;> rfl

/-- A store to a place of this chip comes to the test of what precedes it (R83). -/
theorem execSt_here (i : BitVec 8) (w : BitVec 3) (hl : pl.here) (hn : named [d, b] s = .ok () s) (hq : seqOf h s = .ok q s)
    (hp : place s .store (accBytes w) (accBytes w) (accPtr s b i (accBytes w)) = .ok pl) :
    ∃ m, execSt d b i w h s = issue .hart m s ∧ m s = afterReady (.access q .store none (pl.touch (accBytes w)))
      (fun _ => s.storeAt pl (accBytes w) ((s.rs d).toNat % 2 ^ (8 * accBytes w))) s := by
  refine ⟨_, rfl, ?_⟩
  simp only [run_bind, run_get, hn, hq, hp]
  cases pl with
  | remote chip die core off => exact absurd rfl (hl chip die core off)
  | ls | os | sem | iter | rout =>
    simp only [run_bind, run_set, run_pure]
    unfold afterReady Needs.access
    cases ready _ s <;> rfl

/-- Bytes of an atomic (R256). -/
def amoBytes (x : BitVec 1) : Nat := if x = 1 then 8 else 4

/-- An atomic at a place of this chip comes to the test of what precedes it (R256). -/
theorem amo_here (o : AmoOp) (x : BitVec 1) (hl : pl.here) (hn : named [d, a, b] s = .ok () s) (hq : seqOf h s = .ok q s)
    (hp : place s .amo (amoBytes x) (amoBytes x) (s.rs a) = .ok pl) :
    ∃ m, amo o d a b x h s = issue .hart m s ∧ m s = afterReady (.access q .both (some d) (pl.touch (amoBytes x)))
      (fun _ => (s.storeAt pl (amoBytes x) (o.apply (8 * amoBytes x) (s.loadAt pl (amoBytes x))
          ((s.rs b).toNat % 2 ^ (8 * amoBytes x)) ((s.rs d).toNat % 2 ^ (8 * amoBytes x)))).setRs d
        (sext64 (s.loadAt pl (amoBytes x)) (8 * amoBytes x))) s := by
  refine ⟨_, rfl, ?_⟩
  rw [amoBytes] at hp
  simp only [run_bind, run_get, hn, hq, hp]
  cases pl with
  | remote chip die core off => exact absurd rfl (hl chip die core off)
  | ls | os | sem | iter | rout =>
    simp only [run_bind, run_set, run_pure]
    unfold afterReady Needs.access amoBytes
    cases ready _ s <;> rfl

theorem afterReady_ok {n : Needs} (f : State → State) (hr : ready n s = .ok () s) : afterReady n f s = .ok .seq (f s) := by
  simp only [afterReady, hr]

theorem afterReady_defer {n : Needs} (f : State → State) (hr : ready n s = .error (.defer n) s) :
    afterReady n f s = .error (.defer n) s := by
  simp only [afterReady, hr]

theorem ready_cases (hh : ByHart s) (n : Needs) : ready n s = .ok () s ∨ ready n s = .error (.defer n) s := by
  cases hp : s.performsNow n with
  | false => exact .inr (ready_defer hh hp)
  | true =>
    obtain ⟨k, hk⟩ := hh
    exact .inl (by simp [ready, hk, hp])

theorem byHart_storeAt {n v : Nat} (hh : ByHart s) : ByHart (s.storeAt pl n v) := by
  obtain ⟨k, hk⟩ := hh
  exact ⟨k, (State.storeAt_cur s pl n v).trans hk⟩

/-! ## Held, to be performed later -/

/-- An access that something precedes and holds, that the hart's earlier one holds, or that the move leaves for later, waits
(R84, R247, R248). -/
theorem performsNow_of_held {n : Needs} (hq : n.q = some q) (hn : n.near = true) (hc : n.cls ≠ .barrier)
    (h : s.late = true ∨ s.touching s.cur.owner n.touch s.nextOp = true ∨
      ∃ id ∈ s.predsAt s.me.core q, s.holds s.cur.owner (s.scopeOf s.cur.owner q) id = true) : s.performsNow n = false := by
  obtain h | h | ⟨id, hi, hh⟩ := h
  · simp [State.performsNow, h]
  · simp [State.performsNow, h]
  · have hf : s.follows s.cur.owner n (s.precede n) = false := by
      have hs : s.scopeFor s.cur.owner n = s.scopeOf s.cur.owner q := by simp [State.scopeFor, hq, hc]
      have ha : (s.precede n).any (s.holds s.cur.owner (s.scopeFor s.cur.owner n)) = true := by
        rw [hs, State.precede, hq]
        exact List.any_eq_true.2 ⟨id, hi, hh⟩
      simp [State.follows, hn, ha]
    simp [State.performsNow, hf]

/-- A store to a word where the hart has still to see another's write waits (R249). -/
theorem performsNow_of_behind {n : Needs} (hc : n.cls ≠ .load)
    (h : ∃ x ∈ s.hidden, x.hart = s.cur.owner ∧ n.touch.contains (x.key / 8) = true ∧ s.alive x.op = true) :
    s.performsNow n = false := by
  obtain ⟨x, hx, hh, ht, ha⟩ := h
  have hb : s.behind s.cur.owner n = true := by
    rw [State.behind, Bool.and_eq_true]
    refine ⟨by simpa using hc, List.any_eq_true.2 ⟨x, hx, ?_⟩⟩
    simp only [hh, ht, ha, beq_self_eq_true, Bool.and_self]
  simp [State.performsNow, hb]

/-- The PC of the next word moves by 4, but inside a replay (R141). -/
theorem Hart.retire_pc (h : Hart) : h.retire.pc = if h.vqueue.length ≤ 1 then h.pc + 4 else h.pc := by
  rcases hq : h.vqueue with _ | ⟨x, _ | ⟨y, t⟩⟩ <;> simp [Hart.retire, hq]

theorem Hart.retire_fields (h : Hart) : h.retire.sregs = h.sregs ∧ h.retire.pending = h.pending := by
  obtain ⟨p, v, y, hr⟩ := Hart.retire_eq h
  rw [hr]
  exact ⟨rfl, rfl⟩

theorem Hart.mark_eq (h : Hart) (d : Reg) : ∃ p, h.mark d = { h with pending := p } := by
  unfold Hart.mark
  split
  · exact ⟨h.pending, rfl⟩
  · exact ⟨_, rfl⟩

/-- A marked register is pending. -/
theorem Hart.bitOf_mark {h : Hart} {d : Reg} (hd : d ≠ 0) : bitOf (h.mark d).pending d.toNat = true := by
  have hlt : d.toNat < 32 := d.isLt
  rw [Hart.mark, if_neg hd, bitOf, BitVec.getLsbD_or, BitVec.getLsbD_ofNat, Nat.testBit_two_pow_self, decide_eq_true hlt,
    Bool.and_self, Bool.or_true]

theorem me_retire_setMe {u : State} (hu : ByHart u) (x : Hart) : (u.setMe x).retire.me = x.retire := by
  rw [retire_hart (s := u.setMe x) hu, State.me_setMe, State.me_setMe]

/-- An access that a hart issues to be performed later (R85, R248). -/
theorem deferTo_eq {cls : OpClass} {dest : Option Reg} {touch : List Nat} (hh : ByHart s) :
    ∃ u : State, u.cur = s.cur ∧ s.deferTo (.access q cls dest touch) = (u.setMe ((dest.map s.me.mark).getD s.me)).retire := by
  obtain ⟨k, hk⟩ := hh
  have hi : ∀ u : State, u.cur = .hart k → u.issued (.access q cls dest touch) =
      (u.setMe ((dest.map u.me.mark).getD u.me)).retire := by
    intro u hu
    unfold State.issued
    rw [hu]
    cases dest <;> rfl
  have hc : (s.pushLate (.access q cls dest touch)).cur = s.cur := by
    simp [State.pushLate, Needs.access, Needs.of, State.pushOp, State.enter]
  have hm : (s.pushLate (.access q cls dest touch)).me = s.me := by
    simp [State.pushLate, Needs.access, Needs.of, State.pushOp, State.enter, State.me, State.hart]
  refine ⟨_, hc, ?_⟩
  rw [← hm, ← hi _ (hc.trans hk)]
  simp [State.deferTo, hk, State.tileFull, Needs.access, Needs.of, Needs.nothing]

/-- The hart past such an access, its destination waiting. -/
theorem deferTo_me {cls : OpClass} {dest : Option Reg} {touch : List Nat} (hh : ByHart s) :
    (s.deferTo (.access q cls dest touch)).me = ((dest.map s.me.mark).getD s.me).retire := by
  obtain ⟨u, hc, hd⟩ := deferTo_eq (q := q) (cls := cls) (dest := dest) (touch := touch) hh
  have hu : ByHart u := by rwa [ByHart, hc]
  rw [hd, me_retire_setMe hu]

theorem byHart_deferTo {cls : OpClass} {dest : Option Reg} {touch : List Nat} (hh : ByHart s) :
    ByHart (s.deferTo (.access q cls dest touch)) := by
  obtain ⟨u, hc, hd⟩ := deferTo_eq (q := q) (cls := cls) (dest := dest) (touch := touch) hh
  have hu : ByHart u := by rwa [ByHart, hc]
  rw [hd, retire_hart (s := State.setMe _ _) hu]
  exact hu

/-- An access that waits, in flight behind what precedes it, with its destination pending and memory as it was (R84, R85, R245,
R246, R248). -/
theorem deferTo_access {cls : OpClass} {dest : Option Reg} {touch : List Nat} (hh : ByHart s) :
    let t := s.deferTo (.access q cls dest touch)
    ((∃ o, t.ops = s.ops ++ [o] ∧ o.entered = q ∧ o.preds = s.predsAt s.me.core q ∧ o.issuer = s.cur) ∧
      t.me.pc = s.me.retire.pc ∧ t.me.sregs = s.me.sregs ∧ t.mem = s.mem) ∧
    t.me.pending = ((dest.map s.me.mark).getD s.me).pending := by
  intro t
  have hme : t.me = ((dest.map s.me.mark).getD s.me).retire := deferTo_me hh
  obtain ⟨ho, hm⟩ := deferTo_next (n := .access q cls dest touch) hh rfl rfl
  have hx : ∃ p, (dest.map s.me.mark).getD s.me = { s.me with pending := p } := by
    cases dest with
    | none => exact ⟨s.me.pending, rfl⟩
    | some d => exact Hart.mark_eq s.me d
  obtain ⟨p, hx⟩ := hx
  obtain ⟨hs, hp⟩ := Hart.retire_fields ((dest.map s.me.mark).getD s.me)
  rw [hme, hs, hp, Hart.retire_pc, Hart.retire_pc, hx]
  exact ⟨⟨ho, rfl, rfl, hm⟩, rfl⟩

end

/-! ## Performed later (R248) -/

/-- The operation of a number, replaced. -/
theorem opAt_setOp {s : State} {o x : Op} (h : s.opAt o.id = some x) : (s.setOp o).opAt o.id = some o := by
  unfold State.opAt State.setOp at *
  generalize s.ops = l at h ⊢
  induction l with
  | nil => simp at h
  | cons y t ih =>
    by_cases hy : y.id = o.id
    · simp [hy]
    · simp [hy] at h ⊢
      simpa using ih h

theorem opAt_filter {l : List Op} (id : Nat) (p : Op → Bool) (hp : ∀ o, o.id = id → p o = false) :
    (l.filter p).find? (fun o => o.id == id) = none := by
  simp only [List.find?_eq_none, List.mem_filter, beq_iff_eq]
  rintro o ⟨_, ho⟩ hid
  rw [hp o hid] at ho
  cases ho

/-- An operation that has ended is in flight no more. -/
theorem opAt_endOp (s : State) (o : Op) : (s.endOp o).opAt o.id = none := by
  have h : ∀ l : List Op, (l.filter (fun p => p.id != o.id)).find? (fun p => p.id == o.id) = none :=
    fun l => opAt_filter o.id _ (by simp)
  have hs : ∀ t c, (State.settleCore t c).opAt o.id = t.opAt o.id := fun _ _ => rfl
  rw [State.endOp, hs]
  unfold State.endParent State.opAt
  split
  · split
    · exact h _
    · rw [List.filter_filter]
      exact opAt_filter o.id _ (fun p hp => by simp [hp])
  · exact h _

@[simp] theorem hart_endOp (s : State) (o : Op) (h : HartId) : (s.endOp o).hart h = s.hart h := by
  unfold State.endOp State.endParent
  split
  · split <;> rfl
  · rfl

@[simp] theorem mem_endOp (s : State) (o : Op) : (s.endOp o).mem = s.mem := by
  unfold State.endOp State.endParent
  split
  · split <;> rfl
  · rfl

/-- A register that waits for nothing waits for nothing after another has its data. -/
theorem bitOf_and_not {x : BitVec 32} (y : BitVec 32) {k : Nat} (h : bitOf x k = false) : bitOf (x &&& y) k = false := by
  simp only [bitOf, BitVec.getLsbD_and] at h ⊢
  rw [h, Bool.false_and]

theorem bitOf_and_not_self (x : BitVec 32) (k : Nat) : bitOf (x &&& ~~~(BitVec.ofNat 32 (2 ^ k))) k = false := by
  by_cases hk : k < 32
  · simp only [bitOf, BitVec.getLsbD_and, BitVec.getLsbD_not, BitVec.getLsbD_ofNat, Nat.testBit_two_pow_self, hk, decide_true,
      Bool.and_self, Bool.not_true, Bool.and_false]
  · exact BitVec.getLsbD_of_ge _ _ (by omega)

theorem State.hart_eq_of_key (s : State) {h k : HartId} (hk : h.key = k.key) : s.hart h = s.hart k := by
  simp only [State.hart, hk]

/-- What an operation that has been performed gives free keeps every scalar, and marks none. -/
theorem freeDest_hart (s : State) (o : Op) (n : Needs) (h : HartId) :
    ∃ y : BitVec 32, ((s.freeDest o n).hart h).pending = (s.hart h).pending &&& y ∧
      ((s.freeDest o n).hart h).sregs = (s.hart h).sregs := by
  have same : ∃ y : BitVec 32, (s.hart h).pending = (s.hart h).pending &&& y ∧ (s.hart h).sregs = (s.hart h).sregs :=
    ⟨BitVec.allOnes 32, BitVec.and_allOnes.symm, rfl⟩
  unfold State.freeDest
  split
  · rename_i k _
    split
    · exact same
    · by_cases hk : h.key = k.key
      · rw [State.hart_eq_of_key _ hk, State.hart_eq_of_key s hk, State.hart_setHart]
        cases n.dest <;> cases n.vdest
        · exact ⟨BitVec.allOnes 32, BitVec.and_allOnes.symm, rfl⟩
        · exact ⟨_, rfl, rfl⟩
        · exact ⟨_, rfl, rfl⟩
        · exact ⟨_, BitVec.and_assoc .., rfl⟩
      · rw [State.hart_setHart_ne _ _ hk]
        exact same
  · exact same

@[simp] theorem freeDest_mem (s : State) (o : Op) (n : Needs) : (s.freeDest o n).mem = s.mem := by
  unfold State.freeDest
  split
  · split <;> rfl
  · rfl

@[simp] theorem freeDest_ops (s : State) (o : Op) (n : Needs) : (s.freeDest o n).ops = s.ops := by
  unfold State.freeDest
  split
  · split <;> rfl
  · rfl

@[simp] theorem freeDest_late (s : State) (o : Op) (n : Needs) : (s.freeDest o n).late = s.late := by
  unfold State.freeDest
  split
  · split <;> rfl
  · rfl

/-- What an instruction leaves that has been performed, with no part of it on its way: it is in flight no more, or for the observers
still to come (R248). -/
theorem endLate_leaves {s : State} {o : Op} (ho : s.opAt o.id = some o) (hp : s.hasParts o.id = false) (h : HartId) :
    let t := s.endLate o
    t.mem = s.mem ∧ (if s.late then ∃ y, t.opAt o.id = some y ∧ y.phase = .spread else t.opAt o.id = none) ∧
      ∃ y : BitVec 32, (t.hart h).pending = (s.hart h).pending &&& y ∧ (t.hart h).sregs = (s.hart h).sregs := by
  have hfree : ∃ u : State, u.mem = s.mem ∧ u.ops = s.ops ∧ u.late = s.late ∧
      (∃ y : BitVec 32, (u.hart h).pending = (s.hart h).pending &&& y ∧ (u.hart h).sregs = (s.hart h).sregs) ∧
      s.endLate o = if u.late then u.setOp { o with phase := .spread } else u.endOp o := by
    unfold State.endLate
    simp only [hp, Bool.false_eq_true, if_false]
    split
    · exact ⟨_, freeDest_mem .., freeDest_ops .., freeDest_late .., freeDest_hart .., rfl⟩
    · exact ⟨s, rfl, rfl, rfl, ⟨BitVec.allOnes 32, BitVec.and_allOnes.symm, rfl⟩, rfl⟩
  obtain ⟨u, hm, hops, hl, hy, he⟩ := hfree
  have hu : u.opAt o.id = some o := by rwa [State.opAt, hops]
  intro t
  have ht : t = if u.late then u.setOp { o with phase := .spread } else u.endOp o := he
  rw [ht, ← hl]
  cases u.late
  · simp only [Bool.false_eq_true, if_false]
    exact ⟨(mem_endOp u o).trans hm, opAt_endOp u o, by simpa using hy⟩
  · simp only [if_true]
    exact ⟨hm, ⟨_, opAt_setOp (o := { o with phase := .spread }) hu, rfl⟩, hy⟩

/-! ## An access that its issuer performs later -/

section

variable {s : State} {k : HartId} {id : Nat}

/-- An issuer's instruction that is performed later runs its checks and effects for it (R248). -/
theorem issue_late (hc : s.cur = .late k id) (a : Accept) {m : M Flow} {r : EStateM.Result Stop State Flow} (hm : m s = r) :
    issue a m s = .next (finishLate s id r) := by
  simp only [issue, hc, Issuer.accepts, run, hm, if_true]

theorem named_late (hc : s.cur = .late k id) (rs : List Reg) : named rs s = .ok () s := by
  simp only [named, run_bind, run_get, hc, run_pure]

theorem seqOf_late {o : Op} (hc : s.cur = .late k id) (ho : s.opAt id = some o) (h : HReg) : seqOf h s = .ok o.entered s := by
  simp [seqOf, hc, ho]

theorem ready_late (hc : s.cur = .late k id) (n : Needs) : ready n s = .ok () s := by
  simp only [ready, run_bind, run_get, hc, run_pure]

/-- The scalar that such an instruction reads is what it captured at issue (R248). -/
theorem rs_late {o : Op} {x : Late} (hc : s.cur = .late k id) (ho : s.opAt id = some o) (hk : o.kind = .late x) (b : Reg) :
    s.rs b = if b = 0 then 0 else vecGet 0 x.sregs b.toNat := by
  simp [State.rs, hc, State.held, ho, hk, OpKind.held]

/-- Data delivered to the hart that waits for it (R85). -/
theorem setRs_late {o : Op} {d : Reg} (hc : s.cur = .late k id) (ho : s.opAt id = some o) (hi : o.issuer = .hart k)
    (hl : lookup? s.harts k.key ≠ none) (hd : d ≠ 0) (v : Word) : s.setRs d v = s.setHart k ((s.hart k).arrive d v) := by
  rw [State.setRs, if_neg hd]
  simp [hc, ho, State.deliver, hi, hl, Option.isNone_iff_eq_none]

/-- A load that its issuer performs later has left, or waits for observers still to come, and its data is there (R85, R248). -/
theorem finishLate_setRs {o : Op} (hc : s.cur = .late k id) (ho : s.opAt id = some o) (hid : o.id = id)
    (hi : o.issuer = .hart k) (hl : lookup? s.harts k.key ≠ none) (hp : s.hasParts id = false) (d : Reg) (v : Word) :
    let t := finishLate s id (.ok .seq (s.setRs d v))
    t.mem = s.mem ∧ (if s.late then ∃ y, t.opAt id = some y ∧ y.phase = .spread else t.opAt id = none) ∧
      (d ≠ 0 → bitOf (t.hart k).pending d.toNat = false ∧ vecGet 0 (t.hart k).sregs d.toNat = v) := by
  subst hid
  have hu : (s.setRs d v).ops = s.ops ∧ (s.setRs d v).late = s.late := by
    by_cases hd : d = 0
    · rw [hd, setRs_zero]
      exact ⟨rfl, rfl⟩
    · rw [setRs_late hc ho hi hl hd]
      exact ⟨rfl, rfl⟩
  obtain ⟨hops, hlate⟩ := hu
  have hou : (s.setRs d v).opAt o.id = some o := by rwa [State.opAt, hops]
  have hpu : (s.setRs d v).hasParts o.id = false := by rwa [State.hasParts, hops]
  obtain ⟨hm, hx, y, hy, hs⟩ := endLate_leaves hou hpu k
  have he : finishLate s o.id (.ok .seq (s.setRs d v)) = (s.setRs d v).endLate o := by simp [finishLate, hou]
  rw [he, ← hlate]
  refine ⟨hm.trans (setRs_mem ..), hx, fun hd => ?_⟩
  rw [hy, hs, setRs_late hc ho hi hl hd, State.hart_setHart]
  refine ⟨bitOf_and_not _ (bitOf_and_not_self _ _), ?_⟩
  have hlt : d.toNat < 32 := d.isLt
  simp only [Hart.arrive, if_neg hd, vecGet_vecSet, hlt, and_self, if_true]

end

end Sys2Proof.Machine
end

section
/-! SUPPORT. The statements settled: Scalar loads, stores and atomics (R83–R85, R248, R256). -/

namespace Sys2Proof.Proofs

open Machine

/-- Settles O18: a store leaves `storeAt`, and a load its register or one more operation. -/
theorem memoryFrames : Obligations.MemoryFrames := by
  unfold Obligations.MemoryFrames
  refine ⟨?store, ?load, fun s c o n v hs => ⟨loadAt_storeAt_ls hs c o n v, loadAt_storeAt_os hs c o n v⟩⟩
  case store =>
    intro d b i w h q s t pl hs hh hn hq hl n hp hpl ht
    simp only [n, ← accBytes_eq] at hp hpl ⊢
    obtain ⟨m, he, hm⟩ := execSt_here i w hl (named_ok hn) (seqOf_ok hh hq) hpl
    rw [afterReady_ok _ (ready_access hp)] at hm
    obtain rfl : _ = t := Host.Outcome.next.inj ((he.trans (issue_ok hh _ hm)).symm.trans ht)
    rw [finish_seq]
    refine ⟨fun k hk => ?_, fun h1 h2 k => ?_, fun r => ?_, ?_⟩
    · rw [byteAt, retire_mem]
      exact read_storeAt pl _ _ hs hk
    · rw [byteAt, retire_mem, storeAt_mem_of_counter s pl _ _ h1 h2, byteAt]
    · rw [rs_retire (byHart_storeAt hh)]
      exact rs_eq_of_sregs hh (byHart_storeAt hh) (by rw [State.storeAt_me]) r
    · obtain ⟨x, y, z, hr⟩ := Hart.retire_eq s.me
      rw [retire_hart (byHart_storeAt hh), State.me_setMe, State.storeAt_me, hr, State.setMe_ops, State.storeAt_ops]
      refine ⟨fun _ => rfl, rfl, rfl, fun k hk => ?_⟩
      exact (State.hart_setHart_ne _ _ (by rwa [State.storeAt_cur])).trans (State.storeAt_hart ..)
  case load =>
    intro d b i w h q s t pl hh hn hq hl hpl ht
    simp only [← accBytes_eq] at hpl
    obtain ⟨m, he, hm⟩ := execLd_here i w hl (named_ok hn) (seqOf_ok hh hq) hpl
    obtain hr | hr := ready_cases hh (.access q .load (some d) (pl.touch (accBytes w)))
    · rw [afterReady_ok _ hr] at hm
      obtain rfl : _ = t := Host.Outcome.next.inj ((he.trans (issue_ok hh _ hm)).symm.trans ht)
      rw [finish_seq]
      exact ⟨fun k => by rw [byteAt, retire_mem, setRs_mem, byteAt],
        fun r hrd => by rw [rs_retire (byHart_setRs hh d _), rs_setRs_ne hh _ hrd]⟩
    · rw [afterReady_defer _ hr] at hm
      obtain rfl : _ = t := Host.Outcome.next.inj ((he.trans (issue_defer hh _ hm)).symm.trans ht)
      obtain ⟨⟨-, -, hs, hmem⟩, -⟩ := deferTo_access (q := q) (cls := .load) (dest := some d) (touch := pl.touch (accBytes w)) hh
      exact ⟨fun k => by rw [byteAt, hmem, byteAt], fun r _ => rs_eq_of_sregs hh (byHart_deferTo hh) hs r⟩

/-- Settles O17: a load, a store and an atomic come to `afterReady`, which performs them now or leaves them for later. -/
theorem scalarMemory : Obligations.ScalarMemory := by
  unfold Obligations.ScalarMemory
  refine ⟨?atIssue, ?later, ?atomics⟩
  case atIssue =>
    intro d b i w h q s pl hh hn hq hl n p
    have hn' := named_ok hn
    have hq' := seqOf_ok hh hq
    simp only [n, p, ← accBytes_eq, ← extend_accSigned]
    refine ⟨fun hp => ⟨fun hpl => ?_, fun hpl => ?_⟩, fun hheld hpl => ?_, fun hheld hpl => ?_⟩
    · obtain ⟨m, he, hm⟩ := execLd_here i w hl hn' hq' hpl
      exact he.trans (issue_ok hh _ (hm.trans (afterReady_ok _ (ready_access hp))))
    · obtain ⟨m, he, hm⟩ := execSt_here i w hl hn' hq' hpl
      exact he.trans (issue_ok hh _ (hm.trans (afterReady_ok _ (ready_access hp))))
    · obtain ⟨m, he, hm⟩ := execLd_here i w hl hn' hq' hpl
      have hr := ready_defer hh (performsNow_of_held (n := .access q .load (some d) (pl.touch (accBytes w))) rfl rfl nofun hheld)
      obtain ⟨hw, hpend⟩ := deferTo_access (q := q) (cls := .load) (dest := some d) (touch := pl.touch (accBytes w)) hh
      refine ⟨_, he.trans (issue_defer hh _ (hm.trans (afterReady_defer _ hr))), hw, fun hd => ?_⟩
      rw [hpend]
      exact Hart.bitOf_mark hd
    · obtain ⟨m, he, hm⟩ := execSt_here i w hl hn' hq' hpl
      have hnow : s.performsNow (.access q .store none (pl.touch (accBytes w))) = false :=
        hheld.elim (fun h => performsNow_of_held rfl rfl nofun h) (fun h => performsNow_of_behind nofun h)
      obtain ⟨hw, hpend⟩ := deferTo_access (q := q) (cls := .store) (dest := none) (touch := pl.touch (accBytes w)) hh
      exact ⟨_, he.trans (issue_defer hh _ (hm.trans (afterReady_defer _ (ready_defer hh hnow)))), hw, hpend⟩
  case later =>
    intro d b i w h k id o x s pl hc ho hid hk hi hlk hparts hl n hpl
    rw [← rs_late hc ho hk] at hpl
    simp only [n, ← accBytes_eq, ← extend_accSigned] at hpl ⊢
    obtain ⟨m, he, hm⟩ := execLd_here i w hl (named_late hc _) (seqOf_late hc ho h) hpl
    have hm' := hm.trans (afterReady_ok _ (ready_late hc _))
    exact ⟨_, he.trans (issue_late hc _ hm'), finishLate_setRs hc ho hid hi hlk hparts d _⟩
  case atomics =>
    intro d a b x h q s pl hh hn hq hl n hp m old v sg done hpl
    have hx : ∀ o : AmoOp, amo o d a b x h s = done (o.apply (8 * n) old v ((s.rs d).toNat % m)) := by
      intro o
      obtain ⟨f, he, hm⟩ := amo_here o x hl (named_ok hn) (seqOf_ok hh hq) hpl
      exact he.trans (issue_ok hh _ (hm.trans (afterReady_ok _ (ready_access hp))))
    exact ⟨hx .add, hx .and, hx .or, hx .xor, hx .min, hx .max, hx .minn, hx .maxn, hx .swap, hx .cas⟩

end Sys2Proof.Proofs
end

section
/-! SUPPORT. The operand checks (R26, R152, R236). -/

namespace Sys2Proof.Machine

/-! ## The operand checks -/

section

variable {s : State} {d a b : Reg} {h : HReg} {q : Nat}

theorem accPtr_eq (s : State) (b : Reg) (i : BitVec 8) (n : Nat) :
    accPtr s b i n = s.rs b + i.signExtend 64 * BitVec.ofNat 64 n := rfl

/-- A load whose pointer fails its check at issue traps (R26). -/
theorem execLd_trap {f : PtrFault} (i : BitVec 8) (w : BitVec 3) (hh : ByHart s) (hn : Named s [d, b]) (hq : Handle s h q)
    (hp : place s .load (accBytes w) (accBytes w) (accPtr s b i (accBytes w)) = .error f) (hf : f.late = false) :
    execLd d b i w h s = .next (State.takeTrap s (.at f.cause (f.word s)) s) :=
  issue_hart (r := .error (.trap _) s) hh _
    (by simp only [run_bind, run_get, run_trap, named_ok hn, seqOf_ok hh hq, hp, refuse, hf, Bool.false_eq_true, if_false])

theorem execSt_trap {f : PtrFault} (i : BitVec 8) (w : BitVec 3) (hh : ByHart s) (hn : Named s [d, b]) (hq : Handle s h q)
    (hp : place s .store (accBytes w) (accBytes w) (accPtr s b i (accBytes w)) = .error f) (hf : f.late = false) :
    execSt d b i w h s = .next (State.takeTrap s (.at f.cause (f.word s)) s) :=
  issue_hart (r := .error (.trap _) s) hh _
    (by simp only [run_bind, run_get, run_trap, named_ok hn, seqOf_ok hh hq, hp, refuse, hf, Bool.false_eq_true, if_false])

/-- A handle register that names no sequencer (R236). -/
theorem seqOf_handleBad (hh : ByHart s) (hq : vecGet none s.hregs h.toNat = none) :
    seqOf h s = .error (.trap (.at .handleBad 0)) s := by
  obtain ⟨k, hk⟩ := hh
  simp only [seqOf, run_bind, run_get, hk, hq, run_trap]

/-- A word that is no handle of a live run of the context (R152). -/
theorem checkRun_trap {w : Word} (hw : runHandleOk s s.ctx w = false) :
    checkRun w s = .error (.trap (.at .runHandle w)) s := by
  simp [checkRun, hw]

/-! ## The order of R26 -/

variable {acc : Access} {n : Nat} {p : Word}

/-- A space that is not permitted, or a counter that the access is not as wide as (R24, R26). -/
theorem place_badSpace_of {al : Nat} (h : acc.spaces.contains (ptrSpace p) = false ∨ (ptrSpace p = 3 ∧ n ≠ 8)) :
    place s acc n al p = .error ⟨.badSpace, some p, false⟩ := by
  have hb : (!acc.spaces.contains (ptrSpace p) || (ptrSpace p == 3 && n != 8)) = true := by
    obtain h | ⟨h3, h8⟩ := h
    · simp only [h, Bool.not_false, Bool.true_or]
    · simp only [h3, beq_self_eq_true, bne_iff_ne.2 h8, Bool.and_self, Bool.or_true]
  rw [place, if_pos hb]

/-- An offset that is no multiple of the width, in a space that is permitted (R26). -/
theorem place_misaligned {al : Nat} (hc : acc.spaces.contains (ptrSpace p) = true) (h2 : ptrSpace p ≠ 2) (h3 : ptrSpace p ≠ 3)
    (ha : ptrOff p % al ≠ 0) : place s acc n al p = .error ⟨.misaligned, some p, false⟩ := by
  simp [place, ha, h2, h3]
  simpa using hc

theorem place_badAddr {al : Nat} (hc : acc.spaces.contains 0 = true) (h0 : ptrSpace p = 0) (ha : ptrOff p % al = 0)
    (hr : s.group.range < ptrOff p + n) : place s acc n al p = .error ⟨.badAddr, some p, false⟩ := by
  simp [place, ha, h0, Nat.not_le.2 hr]
  simpa using hc

theorem place_codeWrite {al : Nat} (hc : acc.spaces.contains 0 = true) (hw : acc.write = true) (h0 : ptrSpace p = 0)
    (ha : ptrOff p % al = 0) (hr : ptrOff p + n ≤ s.group.range) (hx : ptrOff p < s.group.code) :
    place s acc n al p = .error ⟨.codeWrite, some p, false⟩ := by
  simp [place, ha, h0, hr, hw, hx]
  simpa using hc

end

end Sys2Proof.Machine
end

section
/-! SUPPORT. The statements settled: The operand checks (R26, R152, R236). -/

namespace Sys2Proof.Proofs

open Machine

/-- Settles O19: the checks of `place` in their order, and those of `checkRun` and `seqOf` where they stand first. -/
theorem operandChecks : Obligations.OperandChecks := by
  unfold Obligations.OperandChecks
  refine ⟨?pointers, ?runs, ?handles⟩
  case pointers =>
    intro d b i w h q s hh hn hq n p traps
    have both : ∀ c, place s .load n n p = .error ⟨c, some p, false⟩ → place s .store n n p = .error ⟨c, some p, false⟩ →
        exec (.ld d b i w h) s = traps c ∧ exec (.st d b i w h) s = traps c := by
      intro c hl hs
      have hl' : place s .load (accBytes w) (accBytes w) (accPtr s b i (accBytes w)) = .error ⟨c, some p, false⟩ := by
        rw [accPtr_eq, accBytes_eq]
        exact hl
      have hs' : place s .store (accBytes w) (accBytes w) (accPtr s b i (accBytes w)) = .error ⟨c, some p, false⟩ := by
        rw [accPtr_eq, accBytes_eq]
        exact hs
      exact ⟨execLd_trap i w hh hn hq hl' rfl, execSt_trap i w hh hn hq hs' rfl⟩
    have spaces : ∀ {k : Nat}, [0, 1, 2, 3, 4, 7].contains k = true ↔ k ∈ [0, 1, 2, 3, 4, 7] := by simp
    refine ⟨fun hsp => ?space, fun hsp ha => ?aligned, fun h0 ha hr => ?range, fun h0 ha hr hx => ?code⟩
    case space =>
      have h8 : w.toNat % 4 ≠ 3 → n ≠ 8 := by
        intro hw
        have : w.toNat % 4 = 0 ∨ w.toNat % 4 = 1 ∨ w.toNat % 4 = 2 := by omega
        obtain h | h | h := this <;> simp [n, h]
      have hsp' : [0, 1, 2, 3, 4, 7].contains (ptrSpace p) = false ∨ (ptrSpace p = 3 ∧ n ≠ 8) :=
        hsp.imp (fun h => Bool.eq_false_iff.2 (mt spaces.1 h)) (And.imp_right h8)
      exact both _ (place_badSpace_of hsp') (place_badSpace_of hsp')
    case aligned =>
      simp only [List.mem_cons, List.not_mem_nil, or_false] at hsp
      have hc : [0, 1, 2, 3, 4, 7].contains (ptrSpace p) = true := spaces.2 (by simp; omega)
      exact both _ (place_misaligned hc (by omega) (by omega) ha) (place_misaligned hc (by omega) (by omega) ha)
    case range => exact both _ (place_badAddr rfl h0 ha hr) (place_badAddr rfl h0 ha hr)
    case code =>
      refine execSt_trap (f := ⟨.codeWrite, some p, false⟩) i w hh hn hq ?_ rfl
      rw [accPtr_eq, accBytes_eq]
      exact place_codeWrite rfl rfl h0 ha hr hx
  case runs =>
    intro d a b h q s hh hn hq hw traps
    have hc := checkRun_trap hw
    have hs := seqOf_ok hh hq
    have na : named [a] s = .ok () s := named_ok (named_subset hn (by simp))
    have nda : named [d, a] s = .ok () s := named_ok (named_subset hn (by simp))
    have nab : named [a, b] s = .ok () s := named_ok (named_subset hn (by simp))
    and_intros
    all_goals exact issue_hart (r := .error (.trap _) s) hh _ (by simp only [run_bind, run_get, na, nda, nab, named_ok hn, hs, hc])
  case handles =>
    intro d a b i w x h s hh hn hq traps
    have hb := seqOf_handleBad hh hq
    have na : named [a] s = .ok () s := named_ok (named_subset hn (by simp))
    have nda : named [d, a] s = .ok () s := named_ok (named_subset hn (by simp))
    have nab : named [a, b] s = .ok () s := named_ok (named_subset hn (by simp))
    have ndb : named [d, b] s = .ok () s := named_ok (named_subset hn (by simp))
    and_intros
    all_goals exact issue_hart (r := .error (.trap _) s) hh _ (by simp only [run_bind, na, nda, nab, ndb, named_ok hn, hb])

end Sys2Proof.Proofs
end

section
/-! SUPPORT. Vector arithmetic and compares (R15, R110, R112, R119–R123). -/

namespace Sys2Proof.Machine

/-! ## Element loops whose bodies agree -/

@[simp] theorem setElem_cur (s : State) (v i w x : Nat) : (s.setElem v i w x).cur = s.cur := rfl

@[simp] theorem setMaskBit_cur (s : State) (m i w : Nat) (b : Bool) : (s.setMaskBit m i w b).cur = s.cur := rfl

@[simp] theorem raise_cur (s : State) (f : FFlags) : (s.raise f).cur = s.cur := by
  unfold State.raise
  split <;> rfl

/-- Loops over elements whose bodies agree wherever a property holds that each element keeps. -/
theorem eachElement_congr {s : State} (P : State → Prop) (hs : P s) {n w : Nat} {mk : MReg} {f g : State → Nat → State}
    (h : ∀ i t, P t → f t i = g t i) (hP : ∀ i t, P t → P (g t i)) : eachElement s n w mk f = eachElement s n w mk g := by
  unfold eachElement
  congr 1
  generalize List.range' s.vstart (n - s.vstart) = l
  induction l generalizing s with
  | nil => rfl
  | cons i l ih =>
    simp only [List.foldl_cons]
    by_cases hm : s.maskBit mk.toNat i w = true
    · rw [if_pos hm, if_pos hm, h i s hs]
      exact ih (hP i s hs)
    · rw [if_neg hm, if_neg hm]
      exact ih hs

/-- A hart that raises no flag is as it was. -/
theorem raise_zero {s : State} (hh : ByHart s) : s.raise 0 = s.setMe s.me := by
  obtain ⟨k, hk⟩ := hh
  have h0 : s.me.fflags ||| 0 = s.me.fflags := BitVec.or_zero
  simp only [State.raise, hk, h0]

theorem setElem_raise_zero {s : State} (hh : ByHart s) (v i w x : Nat) : (s.raise 0).setElem v i w x = s.setElem v i w x := by
  rw [raise_zero hh, State.setElem, State.me_setMe, State.setMe_setMe]
  rfl

theorem setMaskBit_raise_zero {s : State} (hh : ByHart s) (m i w : Nat) (b : Bool) :
    (s.raise 0).setMaskBit m i w b = s.setMaskBit m i w b := by
  rw [raise_zero hh, State.setMaskBit, State.me_setMe, State.setMe_setMe]
  rfl

/-! ## Instructions that raise no flag -/

section

variable {s : State} (d a b : Reg) (n : BitVec 2) (m : MReg)

/-- The second source of a two-source instruction that pops nothing (R34). -/
def State.second (s : State) (n : BitVec 2) (b : Reg) (i w : Nat) : Nat :=
  if n = 0 then s.elem b.toNat i w else s.src2 n b i w

/-- A two-source instruction whose result raises no flag writes it (R15, R119, R120). -/
theorem vop_next_of_noFlags (h : VectorReady s) (ws wd : Nat) (f : Nat → Nat → Nat → Nat) :
    vop ws wd d a b n m (fun _ x y c => (f x y c, 0)) s =
      .next (eachElement s (s.count (Nat.max ws wd)) (Nat.max ws wd) m (fun u i =>
        u.setElem d.toNat i wd (f (u.elem a.toNat i ws) (u.second n b i ws) (u.elem d.toNat i wd)))).retire := by
  rw [vop_next h]
  congr 2
  exact eachElement_congr ByHart h.1 (fun i t ht => setElem_raise_zero ht ..) (fun i t ht => ht)

/-- An integer instruction writes its function of its elements, modulo 2^w (R119). -/
theorem vint_next (h : VectorReady s) (t : BitVec 2) (f : Nat → Nat → Nat → Int) :
    vint f d a b n m t s = .next (eachElement s (s.count (8 * 2 ^ t.toNat)) (8 * 2 ^ t.toNat) m (fun u i =>
      u.setElem d.toNat i (8 * 2 ^ t.toNat)
        (f (8 * 2 ^ t.toNat) (u.elem a.toNat i (8 * 2 ^ t.toNat)) (u.second n b i (8 * 2 ^ t.toNat)) %
          2 ^ (8 * 2 ^ t.toNat)).toNat)).retire := by
  have hm : Nat.max (intWidth t) (intWidth t) = intWidth t := Nat.max_self _
  have hv := vop_next_of_noFlags d a b n m h (intWidth t) (intWidth t)
    (fun x y _ => (f (intWidth t) x y % 2 ^ intWidth t).toNat)
  rw [hm] at hv
  exact hv

/-- A floating-point instruction writes its function of its elements and raises its flags (R121). -/
theorem vfp_next (h : VectorReady s) (t : Fmt) (f : Fmt → RMode → Nat → Nat → Nat → Nat × FFlags) :
    vfp t f d a b n m s = .next (eachElement s (s.count t.width) t.width m (fun u i =>
      let v := f t u.mode (u.elem a.toNat i t.width) (u.second n b i t.width) (u.elem d.toNat i t.width)
      (u.raise v.2).setElem d.toNat i t.width v.1)).retire := by
  have hm : Nat.max t.width t.width = t.width := Nat.max_self _
  exact (vop_next h _ _ d a b n m _).trans (by rw [hm]; rfl)

theorem vfp1_next (h : VectorReady s) (t : Fmt) (f : Fmt → RMode → Nat → Nat × FFlags) :
    vfp1 t f d a m s = .next (eachElement s (s.count t.width) t.width m (fun u i =>
      let v := f t u.mode (u.elem a.toNat i t.width)
      (u.raise v.2).setElem d.toNat i t.width v.1)).retire := by
  have hm : Nat.max t.width t.width = t.width := Nat.max_self _
  exact (vop1_next h _ _ d a m _).trans (by rw [hm])

/-! ## Compares -/

variable (e : MReg)

/-- A compare writes its function of its elements to the mask bit and raises its flags (R123). -/
theorem vcmp_next (h : VectorReady s) (w : Nat) (f : Nat → Nat → Bool × FFlags) :
    vcmp w e a b n m f s = .next (eachElement s (s.count w) w m (fun u i =>
      let r := f (u.elem a.toNat i w) (u.second n b i w)
      (u.raise r.2).setMaskBit e.toNat i w r.1)).retire := by
  unfold vcmp
  refine issue_ok (f := .seq) h.1 _ ?_
  simp only [run_bind]
  rw [arith_free h _ _ _ _ _ _ (fun t i =>
      let r := f (t.elem a.toNat i w) (t.second n b i w)
      (t.raise r.2).setMaskBit e.toNat i w r.1)]
  · simp
  · intro i t ht
    simp [State.source, State.source2, lookup?, State.second]
  · intro i t ht
    simp [ht]

theorem vcmpInt_next (h : VectorReady s) (w : Nat) (f : Nat → Nat → Bool) :
    vcmpInt w f e a b n m s = .next (eachElement s (s.count w) w m (fun u i =>
      u.setMaskBit e.toNat i w (f (u.elem a.toNat i w) (u.second n b i w)))).retire := by
  refine (vcmp_next a b n m e h w _).trans ?_
  congr 2
  exact eachElement_congr ByHart h.1 (fun i t ht => setMaskBit_raise_zero ht ..) (fun i t ht => ht)

theorem vcmpInt_next_of_eq (h : VectorReady s) (w : Nat) (f g : Nat → Nat → Bool) (hfg : ∀ x y, f x y = g x y) :
    vcmpInt w f e a b n m s = .next (eachElement s (s.count w) w m (fun u i =>
      u.setMaskBit e.toNat i w (g (u.elem a.toNat i w) (u.second n b i w)))).retire := by
  rw [← funext fun x => funext (hfg x)]
  exact vcmpInt_next a b n m e h w f

/-- A floating-point compare (R123). -/
theorem vcmpFp_next (h : VectorReady s) (t : Fmt) (quiet : Bool) (f g : Option Ordering → Bool) (hfg : ∀ x, f x = g x) :
    vcmpFp t quiet f e a b n m s = .next (eachElement s (s.count t.width) t.width m (fun u i =>
      let p := t.decode (u.elem a.toNat i t.width)
      let q := t.decode (u.second n b i t.width)
      let nan := p.isNan || q.isNan
      (u.raise (if p.signals || q.signals || (nan && !quiet) then 16 else 0)).setMaskBit e.toNat i t.width
        (g (if nan then none else some (p.cmp q))))).retire := by
  rw [← funext hfg]
  exact vcmp_next a b n m e h t.width _

end

end Sys2Proof.Machine
end

section
/-! SUPPORT. The statements settled: Vector arithmetic and compares (R15, R110, R112, R119–R123). -/

namespace Sys2Proof.Proofs

open Machine

/-- Settles O20: each instruction is `vint` or `vop` of a function whose value is the table's. -/
theorem vectorIntegers : Obligations.VectorIntegers := by
  unfold Obligations.VectorIntegers
  refine ⟨?integers, ?widening⟩
  case integers =>
    intro d a b n m t s h w done
    have next := vint_next d a b n m h t
    exact ⟨next fun _ x y => (x : Int) + y, next fun _ x y => (x : Int) - y, next fun _ x y => (x : Int) * y,
      next fun w x y => sextNat x w * sextNat y w / 2 ^ w, next fun w x y => min (sextNat x w) (sextNat y w),
      next fun w x y => max (sextNat x w) (sextNat y w), next fun _ x y => ((min x y : Nat) : Int),
      next fun _ x y => ((max x y : Nat) : Int), next fun _ x y => ((x &&& y : Nat) : Int),
      next fun _ x y => ((x ||| y : Nat) : Int), next fun _ x y => ((x ^^^ y : Nat) : Int),
      next fun w x y => ((x * 2 ^ (y % w) : Nat) : Int), next fun w x y => ((x / 2 ^ (y % w) : Nat) : Int),
      next fun w x y => sextNat x w / 2 ^ (y % w), next fun w x y => clampSigned w (sextNat x w + sextNat y w),
      next fun w x y => clampSigned w (sextNat x w - sextNat y w)⟩
  case widening =>
    intro d a b n m s h done
    have next := fun ws wd (f : Nat → Nat → Nat → Int) =>
      vop_next_of_noFlags d a b n m h ws wd (fun x y c => (f x y c % 2 ^ wd).toNat)
    exact ⟨next 8 32 fun x y _ => sextNat x 8 + sextNat y 8, next 16 32 fun x y _ => sextNat x 16 + sextNat y 16,
      next 32 64 fun x y _ => sextNat x 32 + sextNat y 32, next 8 32 fun x y _ => (x : Int) + y,
      next 16 32 fun x y _ => (x : Int) + y, next 32 64 fun x y _ => (x : Int) + y,
      next 8 32 fun x y c => (c : Int) + sextNat x 8 * sextNat y 8, next 16 32 fun x y c => (c : Int) + sextNat x 16 * sextNat y 16⟩

/-- Settles O21: each instruction is `vfp` or `vfp1` of the operation that the statement names. -/
theorem vectorFloats : Obligations.VectorFloats := by
  unfold Obligations.VectorFloats
  refine ⟨?formats, ?functions⟩
  case formats =>
    intro d a b n m s h done done1
    have two := fun t f => vfp_next d a b n m h t f
    have one := fun t => vfp1_next d a m h t fSqrt
    exact ⟨two f64 fAdd, two f64 fSub, two f64 fMul, two f64 fFma, two f64 fMin, two f64 fMax, two f64 fDiv, one f64,
      two f32 fAdd, two f32 fSub, two f32 fMul, two f32 fFma, two f32 fMin, two f32 fMax, two f32 fDiv, one f32,
      two bf16 fAdd, two bf16 fSub, two bf16 fMul, two bf16 fFma, two bf16 fMin, two bf16 fMax, two bf16 fDiv, one bf16,
      two f16 fAdd, two f16 fSub, two f16 fMul, two f16 fFma, two f16 fMin, two f16 fMax, two f16 fDiv, one f16⟩
  case functions =>
    intro d a b n m s h done1
    have one := fun f => vfp1_next d a m h f32 f
    exact ⟨one fun t r x => t.div r (.num false 1 0) (t.decode x) 0, one fun t r x => t.rsqrt r (t.decode x),
      one fun t r x => t.exp2 r (t.decode x), one fun t r x => t.log2 r (t.decode x), one fun _ _ x => (x % 2 ^ 31, 0),
      one fun _ _ x => (x ^^^ 2 ^ 31, 0), one fun t _ x => (2 ^ t.classBit x, 0),
      vfp_next d a b n m h f32 fun _ _ x y _ => (x % 2 ^ 31 + y / 2 ^ 31 * 2 ^ 31, 0)⟩

end Sys2Proof.Proofs
end

section
/-! SUPPORT. Vector arithmetic and compares (R15, R110, R112, R119–R123). -/

namespace Sys2Proof.Machine

/-! ## Elements of a register (R15, R45) -/

/-- The bits of a number with w of them replaced. -/
theorem testBit_replace (n p w y k : Nat) :
    (n - n / 2 ^ p % 2 ^ w * 2 ^ p + y % 2 ^ w * 2 ^ p).testBit k =
      if p ≤ k ∧ k < p + w then y.testBit (k - p) else n.testBit k := by
  have hn : n = 2 ^ p * (2 ^ w * (n / 2 ^ p / 2 ^ w) + n / 2 ^ p % 2 ^ w) + n % 2 ^ p := by
    rw [Nat.div_add_mod, Nat.div_add_mod]
  have hlt : n % 2 ^ p < 2 ^ p := Nat.mod_lt _ (Nat.two_pow_pos p)
  have hw : ∀ x, x % 2 ^ w < 2 ^ w := fun x => Nat.mod_lt _ (Nat.two_pow_pos w)
  have hnew : n - n / 2 ^ p % 2 ^ w * 2 ^ p + y % 2 ^ w * 2 ^ p =
      2 ^ p * (2 ^ w * (n / 2 ^ p / 2 ^ w) + y % 2 ^ w) + n % 2 ^ p := by
    rw [Nat.mul_add] at hn
    rw [Nat.mul_add, Nat.mul_comm (n / 2 ^ p % 2 ^ w), Nat.mul_comm (y % 2 ^ w)]
    omega
  rw [hnew, Nat.testBit_two_pow_mul_add _ hlt, Nat.testBit_two_pow_mul_add _ (hw y)]
  conv => rhs; rw [hn, Nat.testBit_two_pow_mul_add _ hlt, Nat.testBit_two_pow_mul_add _ (hw _)]
  by_cases hk : k < p
  · rw [if_pos hk, if_neg (by omega), if_pos hk]
  · by_cases hkw : k - p < w
    · rw [if_neg hk, if_pos hkw, if_pos (by omega), Nat.testBit_mod_two_pow, decide_eq_true hkw, Bool.true_and]
    · rw [if_neg hk, if_neg hkw, if_neg (by omega), if_neg hk, if_neg hkw]

theorem testBit_elemOf {n : Nat} (v : BitVec n) (i w k : Nat) :
    (elemOf v i w).testBit k = (decide (k < w) && v.toNat.testBit (i * w + k)) := by
  rw [elemOf, Nat.testBit_mod_two_pow, Nat.testBit_div_two_pow, Nat.add_comm]

/-- An element replaced reads as what it was replaced with, and every other as before. -/
theorem elemOf_setElemOf {n : Nat} (v : BitVec n) {i w : Nat} (x j : Nat) (hi : i * w + w ≤ n) :
    elemOf (setElemOf v i w x) j w = if j = i then x % 2 ^ w else elemOf v j w := by
  apply Nat.eq_of_testBit_eq
  intro k
  rw [testBit_elemOf, setElemOf, BitVec.toNat_ofNat, Nat.testBit_mod_two_pow, testBit_replace]
  by_cases hk : k < w
  · by_cases hj : j = i
    · subst hj
      rw [if_pos (by omega), if_pos rfl, Nat.testBit_mod_two_pow, decide_eq_true (by omega : j * w + k < n), Bool.true_and,
        Nat.add_sub_cancel_left]
    · have hout : ¬(i * w ≤ j * w + k ∧ j * w + k < i * w + w) := by
        rintro ⟨h1, h2⟩
        obtain h | h := Nat.lt_or_gt_of_ne hj
        · have := Nat.mul_le_mul_right w (Nat.succ_le_of_lt h)
          rw [Nat.succ_mul] at this
          omega
        · have := Nat.mul_le_mul_right w (Nat.succ_le_of_lt h)
          rw [Nat.succ_mul] at this
          omega
      rw [if_neg hout, if_neg hj, testBit_elemOf]
      by_cases hn : j * w + k < n
      · rw [decide_eq_true hn, Bool.true_and]
      · rw [Nat.testBit_lt_two_pow (Nat.lt_of_lt_of_le v.isLt (Nat.pow_le_pow_right (by decide) (by omega)))]
        simp
  · rw [decide_eq_false hk, Bool.false_and]
    split
    · rw [Nat.testBit_mod_two_pow, decide_eq_false hk, Bool.false_and]
    · rw [testBit_elemOf, decide_eq_false hk, Bool.false_and]

/-! ## A vector register written (R110, R149) -/

section

variable {h : Hart} {n : Nat} (x : BitVec 16384)

theorem Hart.setVreg_of_some {v : VSet} (hv : h.vset = some v) (hn : n ≠ 0) :
    h.setVreg n x = { h with
      sregs := vecSet h.sregs n (BitVec.ofNat 64 x.toNat)
      vset := some { v with hi := vecSet v.hi n (BitVec.ofNat 16320 (x.toNat / 2 ^ 64)) }
      vdirty := h.vdirty ||| BitVec.ofNat 64 (2 ^ n) } := by
  simp only [Hart.setVreg, if_neg hn, hv]

theorem Hart.setVreg_zero : h.setVreg 0 x = h := rfl

/-- The upper and the lower bits of a register together. -/
theorem ofNat_upper_lower {n a b : Nat} (hn : n = a + b) (x : BitVec n) :
    BitVec.ofNat n ((BitVec.ofNat b (x.toNat / 2 ^ a)).toNat * 2 ^ a + (BitVec.ofNat a x.toNat).toNat) = x := by
  subst hn
  rw [BitVec.toNat_ofNat, BitVec.toNat_ofNat, Nat.mod_eq_of_lt (Nat.div_lt_of_lt_mul (Nat.pow_add 2 a b ▸ x.isLt)),
    Nat.div_add_mod', BitVec.ofNat_toNat, BitVec.setWidth_eq]

/-- A register reads what was written to it, and every other as before. -/
theorem Hart.vreg_setVreg (hv : h.vset.isSome = true) (hn : n ≠ 0) (hlt : n < 32) (k : Nat) :
    (h.setVreg n x).vreg k = if k = n then x else h.vreg k := by
  obtain ⟨v, hv⟩ := Option.isSome_iff_exists.1 hv
  rw [Hart.setVreg_of_some x hv hn]
  by_cases hk : k = n
  · subst hk
    simp only [Hart.vreg, if_neg hn, vecGet_vecSet, hlt, and_self, if_true]
    exact ofNat_upper_lower (a := 64) (b := 16320) rfl x
  · by_cases hk0 : k = 0
    · rw [if_neg hk, hk0]
      simp only [Hart.vreg, if_true]
    · simp only [Hart.vreg, if_neg hk0, vecGet_vecSet, hk, false_and, if_false, hv]

theorem Hart.mreg_setVreg (k : Nat) : (h.setVreg n x).mreg k = h.mreg k := by
  unfold Hart.setVreg
  split
  · rfl
  · split
    · rfl
    · rename_i v hv
      simp only [Hart.mreg, hv]

theorem Hart.isSome_vset_setVreg : (h.setVreg n x).vset.isSome = h.vset.isSome := by
  unfold Hart.setVreg
  split
  · rfl
  · split
    · rfl
    · rename_i v hv
      simp only [hv, Option.isSome_some]

end

/-! ## Elements of a hart -/

section

variable {s : State} {w : Nat}

theorem gidx_hart (hh : ByHart s) (i : Nat) : s.gidx i w = i := by
  obtain ⟨k, hk⟩ := hh
  simp only [State.gidx, hk]

theorem elem_hart (hh : ByHart s) (r i : Nat) : s.elem r i w = elemOf (s.me.vreg r) i w := by
  rw [State.elem, gidx_hart hh]
  obtain ⟨k, hk⟩ := hh
  simp only [State.vregOf, hk]

theorem maskBit_hart (hh : ByHart s) (m i : Nat) : s.maskBit m i w = (m == 0 || (s.me.mreg m).getLsbD i) := by
  rw [State.maskBit, gidx_hart hh]
  obtain ⟨k, hk⟩ := hh
  simp only [State.mregOf, hk]

theorem mul_add_le_of_lt_div {i w n : Nat} (hi : i < n / w) : i * w + w ≤ n := by
  calc i * w + w = (i + 1) * w := (Nat.succ_mul i w).symm
    _ ≤ n / w * w := Nat.mul_le_mul_right w hi
    _ ≤ n := Nat.div_mul_le_self n w

/-- An element that a hart writes reads as written, and every other as before (R15, R112). -/
theorem elem_setElem (hh : ByHart s) (hv : s.me.vset.isSome = true) {d i : Nat} (hd : d ≠ 0) (hlt : d < 32) (hi : i < 16384 / w)
    (x r j : Nat) : (s.setElem d i w x).elem r j w = if r = d ∧ j = i then x % 2 ^ w else s.elem r j w := by
  rw [elem_hart hh, elem_hart (s := s.setElem d i w x) hh, State.setElem, State.me_setMe, gidx_hart hh,
    Hart.vreg_setVreg _ hv hd hlt]
  by_cases hr : r = d
  · subst hr
    simp only [if_true, true_and]
    exact elemOf_setElemOf _ _ _ (mul_add_le_of_lt_div hi)
  · simp only [hr, if_false, false_and]

theorem maskBit_setElem (hh : ByHart s) (d i x m j : Nat) : (s.setElem d i w x).maskBit m j w = s.maskBit m j w := by
  rw [maskBit_hart hh, maskBit_hart (s := s.setElem d i w x) hh, State.setElem, State.me_setMe, Hart.mreg_setVreg]

theorem isSome_vset_setElem (d i x : Nat) : (s.setElem d i w x).me.vset.isSome = s.me.vset.isSome := by
  rw [State.setElem, State.me_setMe, Hart.isSome_vset_setVreg]

/-- The elements of a hart depend on its scalars and its vector set. -/
theorem elem_eq_of_me {t : State} (hs : ByHart s) (ht : ByHart t) (hv : t.me.vset = s.me.vset) (hr : t.me.sregs = s.me.sregs)
    (r i : Nat) : t.elem r i w = s.elem r i w := by
  rw [elem_hart hs, elem_hart ht, Hart.vreg, Hart.vreg, hv, hr]

theorem elem_setMe (hh : ByHart s) {x : Hart} (hv : x.vset = s.me.vset) (hr : x.sregs = s.me.sregs) (r i : Nat) :
    (s.setMe x).elem r i w = s.elem r i w :=
  elem_eq_of_me (t := s.setMe x) hh hh (by rw [State.me_setMe, hv]) (by rw [State.me_setMe, hr]) r i

theorem setVstart_hart (hh : ByHart s) (i : Nat) : s.setVstart i = s.setMe { s.me with vstart := BitVec.ofNat 12 i } := by
  obtain ⟨k, hk⟩ := hh
  simp only [State.setVstart, hk]

/-- What a hart leaves that ends an element loop and goes on. -/
theorem setVstart_retire_me (hh : ByHart s) (i : Nat) :
    (s.setVstart i).retire = s.setMe ({ s.me with vstart := BitVec.ofNat 12 i } : Hart).retire := by
  rw [setVstart_hart hh, retire_hart (s := s.setMe _) hh, State.me_setMe, State.setMe_setMe]

@[simp] theorem Hart.retire_vset (h : Hart) : h.retire.vset = h.vset := by
  unfold Hart.retire
  split <;> rfl

@[simp] theorem Hart.retire_sregs (h : Hart) : h.retire.sregs = h.sregs := by
  unfold Hart.retire
  split <;> rfl

@[simp] theorem Hart.retire_vstart (h : Hart) : h.retire.vstart = h.vstart := by
  unfold Hart.retire
  split <;> rfl

theorem elem_setVstart_retire (hh : ByHart s) (r i : Nat) : (s.setVstart 0).retire.elem r i w = s.elem r i w := by
  rw [setVstart_retire_me hh]
  exact elem_setMe hh (Hart.retire_vset { s.me with vstart := BitVec.ofNat 12 0 })
    (Hart.retire_sregs { s.me with vstart := BitVec.ofNat 12 0 }) r i

theorem vstart_setVstart_retire (hh : ByHart s) : (s.setVstart 0).retire.vstart = 0 := by
  rw [setVstart_retire_me hh]
  obtain ⟨k, hk⟩ := hh
  simp [State.vstart, hk]

/-- What has been done of an element-wise instruction when the elements below n have had their turn: those that the mask selects hold the
value of the elements as they were, and every other element of every register is as it was. -/
structure Done (s t : State) (w m d n : Nat) (f : Nat → Nat) : Prop where
  cur : t.cur = s.cur
  set : t.me.vset.isSome = true
  mask : ∀ j, t.maskBit m j w = s.maskBit m j w
  written : ∀ j < n, s.maskBit m j w = true → t.elem d j w = f j
  kept : ∀ r j, (r ≠ d ∨ n ≤ j ∨ s.maskBit m j w = false) → t.elem r j w = s.elem r j w

/-- An element-wise instruction over the elements below n, whichever register it writes (R15, R112). -/
theorem done_foldl {m : MReg} {d : Nat} (g : State → Nat → Nat) (f : Nat → Nat) (hh : ByHart s) (hv : s.me.vset.isSome = true)
    (hd : d ≠ 0) (hlt : d < 32)
    (hf : ∀ t i, ByHart t → (∀ r, t.elem r i w = s.elem r i w) → g t i % 2 ^ w = f i) (n : Nat) (hn : n ≤ 16384 / w) :
    Done s ((List.range n).foldl (fun t i => if t.maskBit m.toNat i w then t.setElem d i w (g t i) else t) s) w m.toNat d n f := by
  induction n with
  | zero => exact ⟨rfl, hv, fun _ => rfl, by simp, fun _ _ _ => rfl⟩
  | succ n ih =>
    obtain ⟨hc, hset, hmask, hwr, hk⟩ := ih (by omega)
    rw [List.range_succ, List.foldl_append]
    generalize (List.range n).foldl (fun t i => if t.maskBit m.toNat i w then t.setElem d i w (g t i) else t) s = t at *
    have ht : ByHart t := by rwa [ByHart, hc]
    have hval := hf t n ht (fun r => hk r n (.inr (.inl (Nat.le_refl n))))
    simp only [List.foldl_cons, List.foldl_nil, hmask]
    by_cases hm : s.maskBit m.toNat n w = true
    · rw [if_pos hm]
      have he := elem_setElem ht hset hd hlt (by omega : n < 16384 / w) (g t n)
      refine ⟨hc, (isSome_vset_setElem ..).trans hset, fun j => (maskBit_setElem ht ..).trans (hmask j), fun j hj hmj => ?_,
        fun r j hr => ?_⟩
      · rw [he]
        by_cases hjn : j = n
        · rw [if_pos ⟨rfl, hjn⟩, hval, hjn]
        · rw [if_neg (by simp [hjn])]
          exact hwr j (by omega) hmj
      · rw [he, if_neg, hk r j (hr.imp_right (.imp_left (by omega)))]
        rintro ⟨rfl, rfl⟩
        obtain h | h | h := hr
        · exact h rfl
        · omega
        · rw [hm] at h
          cases h
    · rw [if_neg hm]
      refine ⟨hc, hset, hmask, fun j hj hmj => hwr j ?_ hmj, fun r j hr => hk r j ?_⟩
      · obtain h | rfl := Nat.lt_succ_iff_lt_or_eq.1 hj
        · exact h
        · exact absurd hmj hm
      · obtain h | h | h := hr
        · exact .inl h
        · exact .inr (.inl (by omega))
        · exact .inr (.inr h)

end

end Sys2Proof.Machine
end

section
/-! SUPPORT. The statements settled: Vector arithmetic and compares (R15, R110, R112, R119–R123). -/

namespace Sys2Proof.Proofs

open Machine

/-- Settles O22: `Done` of the sum after the elements below n, and what a written register reads. -/
theorem vectorElements : Obligations.VectorElements := by
  unfold Obligations.VectorElements
  refine ⟨?sum, ?write⟩
  case write =>
    intro h n k x hv hn hlt hk g
    have hn0 : n ≠ 0 := by omega
    have hr := Hart.vreg_setVreg x hv hn0 hlt
    obtain ⟨v, hv'⟩ := Option.isSome_iff_exists.1 hv
    have hg : g = _ := Hart.setVreg_of_some x hv' hn0
    have h64 : BitVec.ofNat 64 x.toNat = BitVec.ofNat 64 (x.toNat % 2 ^ 64) := by
      apply BitVec.eq_of_toNat_eq
      simp
    refine ⟨(hr n).trans (if_pos rfl), ?_, fun hkn => (hr k).trans (if_neg hkn), by rw [hg], if_pos rfl, rfl,
      fun j => Hart.mreg_setVreg x j, rfl⟩
    rw [hg]
    simp only [vecGet_vecSet, hlt, and_self, if_true, h64]
  case sum =>
    intro d a b m t s u i h hd hs hu w n
    have hh := h.1
    obtain rfl := Host.Outcome.next.inj (hu.symm.trans (vint_next d a b 0 m h t fun _ x y => (x : Int) + y))
    have hv0 : s.vstart = 0 := by
      obtain ⟨k, hk⟩ := hh
      simp [State.vstart, hk, hs]
    have hc : s.count w = n := by
      obtain ⟨k, hk⟩ := hh
      simp [State.count, State.share, hk, n, min_def]
    have hval : ∀ (t : State) (j : Nat), ByHart t → (∀ r, t.elem r j w = s.elem r j w) →
        (((t.elem a.toNat j w : Int) + t.second 0 b j w) % 2 ^ w).toNat % 2 ^ w =
          (s.elem a.toNat j w + s.elem b.toNat j w) % 2 ^ w := by
      intro t j _ he
      rw [State.second, if_pos rfl, he, he]
      norm_cast
      exact Nat.mod_mod _ _
    obtain ⟨hcur, hset, hmask, hwr, hkept⟩ := done_foldl (w := w) (m := m) (d := d.toNat) _ _ hh h.2.1
      (fun h0 => hd (BitVec.eq_of_toNat_eq h0)) d.isLt hval n (Nat.min_le_right ..)
    rw [eachElement, hc, hv0, Nat.sub_zero, ← List.range_eq_range']
    have ht := hh
    rw [ByHart, ← hcur] at ht
    have he := fun r j => elem_setVstart_retire (w := w) ht r j
    refine ⟨fun hi hm => ?_, fun hi hm => ?_, vstart_setVstart_retire ht⟩
    · rw [he]
      exact hwr i hi hm
    · rw [he]
      exact hkept _ _ (.inr hm)

end Sys2Proof.Proofs
end

section
/-! SUPPORT. Vector arithmetic and compares (R15, R110, R112, R119–R123). -/

namespace Sys2Proof.Machine

/-! ## VBOUND -/

@[simp] theorem Hart.setMreg_sregs (h : Hart) (n : Nat) (x : BitVec 4096) : (h.setMreg n x).sregs = h.sregs := by
  unfold Hart.setMreg
  split
  · rfl
  · split <;> rfl

@[simp] theorem setMaskBit_sregs (s : State) (m i w : Nat) (b : Bool) : (s.setMaskBit m i w b).me.sregs = s.me.sregs := by
  rw [State.setMaskBit, State.me_setMe, Hart.setMreg_sregs]

/-- VBOUND compares with the scalar as the instruction found it (R123). -/
theorem vbound_next {s : State} (h : VectorReady s) (w : Nat) (e : MReg) (b : Reg) (m : MReg) :
    vbound w e b m s = .next (eachElement s (s.count w) w m (fun u i =>
      u.setMaskBit e.toNat i w (decide (i < (s.rs b).toNat)))).retire := by
  have hloop : vbound w e b m s = .next (eachElement s (s.count w) w m (fun u i =>
      u.setMaskBit e.toNat i w (decide (i < (u.rs b).toNat)))).retire := by
    unfold vbound
    refine issue_ok (f := .seq) h.1 _ ?_
    simp only [run_bind]
    rw [arith_free h _ _ _ _ _ _ (fun t i => t.setMaskBit e.toNat i w (decide (i < (t.rs b).toNat))) (fun _ _ _ => rfl)
      (fun i t ht => by rw [setMaskBit_binds, ht])]
    rfl
  rw [hloop]
  congr 2
  refine eachElement_congr (fun t => t.cur = s.cur ∧ t.me.sregs = s.me.sregs) ⟨rfl, rfl⟩ ?_ ?_
  · rintro i t ⟨hc, hs⟩
    have ht : ByHart t := by
      rw [ByHart, hc]
      exact h.1
    rw [rs_eq_of_sregs h.1 ht hs]
  · rintro i t ⟨hc, hs⟩
    exact ⟨hc, by rw [setMaskBit_sregs, hs]⟩

end Sys2Proof.Machine
end

section
/-! SUPPORT. The statements settled: Vector arithmetic and compares (R15, R110, R112, R119–R123). -/

namespace Sys2Proof.Proofs

open Machine

/-- Settles O23: each compare is `vcmpInt`, `vbound` or `vcmpFp` of the relation that the statement names. -/
theorem vectorCompares : Obligations.VectorCompares := by
  unfold Obligations.VectorCompares
  refine ⟨?integers, ?floats⟩
  case integers =>
    intro d m a b n s h int
    have eq := fun w => vcmpInt_next_of_eq a b n m d h w (fun x y => x == y) (fun x y => decide (x = y)) (fun _ _ => rfl)
    have ne := fun w => vcmpInt_next_of_eq a b n m d h w (fun x y => x != y) (fun x y => decide (x ≠ y))
      (fun x y => by rw [bne, decide_not]; rfl)
    have lt := fun w => vcmpInt_next a b n m d h w (fun x y => decide (sextNat x w < sextNat y w))
    have le := fun w => vcmpInt_next a b n m d h w (fun x y => decide (sextNat x w ≤ sextNat y w))
    have ltn := fun w => vcmpInt_next a b n m d h w (fun x y => decide (x < y))
    have len := fun w => vcmpInt_next a b n m d h w (fun x y => decide (x ≤ y))
    have bound := fun w => vbound_next h w d b m
    exact ⟨eq 8, ne 8, lt 8, le 8, ltn 8, len 8, bound 8, eq 16, ne 16, lt 16, le 16, ltn 16, len 16, bound 16,
      eq 32, ne 32, lt 32, le 32, ltn 32, len 32, bound 32, eq 64, ne 64, lt 64, le 64, ltn 64, len 64, bound 64⟩
  case floats =>
    intro d m a b n s h done
    have eq := fun t => vcmpFp_next a b n m d h t true isEq (fun r => decide (r = some .eq)) (by rintro (_ | _ | _ | _) <;> rfl)
    have lt := fun t => vcmpFp_next a b n m d h t false isLt (fun r => decide (r = some .lt)) (by rintro (_ | _ | _ | _) <;> rfl)
    have le := fun t => vcmpFp_next a b n m d h t false isLe (fun r => decide (r = some .lt ∨ r = some .eq)) (by rintro (_ | _ | _ | _) <;> rfl)
    have un := fun t => vcmpFp_next a b n m d h t true isUn (fun r => decide (r = none)) (by rintro (_ | _ | _ | _) <;> rfl)
    exact ⟨eq f32, lt f32, le f32, un f32, eq f64, lt f64, le f64, un f64⟩

end Sys2Proof.Proofs
end

section
/-! SUPPORT. Mask instructions and permutes (R124, R125). -/

namespace Sys2Proof.Machine

/-! ## Loops whose bodies only change the state -/

/-- An element loop whose body always completes is a fold, and leaves vstart 0 (R112). -/
theorem elements_act (n : Nat) (g : Nat → State → State) (s : State) :
    elements n (fun i => act (g i)) s = .ok () (((List.range' s.vstart (n - s.vstart)).foldl (fun t i => g i t) s).setVstart 0) := by
  have hl := loopFrom_ok (fun _ => True) (fun i => act (g i)) (fun t i => g i t) (fun _ _ _ => rfl) (fun _ _ _ => trivial)
    (n - s.vstart) s.vstart s trivial
  simp only [elements, run_bind, run_get, hl, run_act]

/-- The folds of two bodies that agree on a predicate which the second keeps agree. -/
theorem foldl_eq_of_inv {α β : Type} {f g : β → α → β} (P : β → Prop) (hfg : ∀ t i, P t → f t i = g t i)
    (hP : ∀ t i, P t → P (g t i)) (l : List α) {s : β} (hs : P s) : l.foldl f s = l.foldl g s := by
  induction l generalizing s with
  | nil => rfl
  | cons i l ih => rw [List.foldl_cons, List.foldl_cons, hfg s i hs, ih (hP s i hs)]

/-! ## Mask instructions (R124) -/

theorem countVl_hart {s : State} (hh : ByHart s) : s.countVl = s.vl := by
  obtain ⟨k, hk⟩ := hh
  simp only [State.countVl, State.share, hk]

theorem vsew_hart {s : State} (hh : ByHart s) : s.vsew = s.me.vsew.toNat := by
  obtain ⟨k, hk⟩ := hh
  simp only [State.vsew, hk]

theorem Hart.setMreg_vsew (h : Hart) (n : Nat) (x : BitVec 4096) : (h.setMreg n x).vsew = h.vsew := by
  unfold Hart.setMreg
  split
  · rfl
  · split <;> rfl

theorem vsew_setMaskBit {s : State} (hh : ByHart s) (m i w : Nat) (b : Bool) : (s.setMaskBit m i w b).vsew = s.vsew := by
  rw [vsew_hart (s := s.setMaskBit m i w b) hh, vsew_hart hh, State.setMaskBit, State.me_setMe, Hart.setMreg_vsew]

section

variable {s : State} (d a b m : MReg)

/-- A mask instruction writes the selected bits of md below vl (R124). -/
theorem mlogic_next (h : VectorReady s) (names : List MReg) (f : State → Nat → Nat → Bool) :
    mlogic names d m f s =
      .next (eachElement s s.vl s.vsew m (fun u i => u.setMaskBit d.toNat i s.vsew (f u i s.vsew))).retire := by
  unfold mlogic
  refine issue_ok (f := .seq) h.1 _ ?_
  simp only [run_bind, vlane_ok h, run_get, elements_act, countVl_hart h.1, run_pure]
  congr 2
  refine foldl_eq_of_inv (fun t => ByHart t ∧ t.vsew = s.vsew) ?_ ?_ _ ⟨h.1, rfl⟩
  · rintro t i ⟨_, hw⟩
    rw [hw]
  · rintro t i ⟨ht, hw⟩
    dsimp only
    split
    · exact ⟨ht, by rw [vsew_setMaskBit ht, hw]⟩
    · exact ⟨ht, hw⟩

/-- A mask instruction that writes a scalar gives it its function of the selected bits (R124). -/
theorem mcount_next (h : VectorReady s) (x : Reg) (f : List Nat → Word) :
    mcount x a m f s = .next ((s.setRs x
      (f ((List.range s.vl).filter (fun i => s.maskBit m.toNat i s.vsew && s.maskBit a.toNat i s.vsew)))).setVstart 0).retire := by
  unfold mcount
  refine issue_ok (f := .seq) h.1 _ ?_
  simp only [run_bind, vlane_ok h, run_act, run_pure, State.selected, countVl_hart h.1]

end

/-! ## Permutes (R125) -/

section

variable {s : State} (d a b : Reg) (m : MReg)

/-- A loop over elements of the selected numbers is R15's where its body keeps the masks. -/
theorem selected_foldl (h : ByHart s) (g : Nat → State → State)
    (hg : ∀ i t, ByHart t → ByHart (g i t) ∧ ∀ j, (g i t).maskBit m.toNat j s.vsew = t.maskBit m.toNat j s.vsew) (n : Nat) :
    ((List.range' s.vstart (n - s.vstart)).foldl (fun t i => if s.maskBit m.toNat i s.vsew then g i t else t) s).setVstart 0 =
      eachElement s n s.vsew m (fun u i => g i u) := by
  unfold eachElement
  congr 1
  refine foldl_eq_of_inv (fun t => ByHart t ∧ ∀ j, t.maskBit m.toNat j s.vsew = s.maskBit m.toNat j s.vsew) ?_ ?_ _
    ⟨h, fun _ => rfl⟩
  · rintro t i ⟨_, hm⟩
    rw [hm]
  · rintro t i ⟨ht, hm⟩
    dsimp only
    split
    · obtain ⟨h1, h2⟩ := hg i t ht
      exact ⟨h1, fun j => by rw [h2, hm]⟩
    · exact ⟨ht, hm⟩

/-- A permute writes the selected elements that its function gives a value (R125). -/
theorem permute_next (h : VectorReady s) (v : VNames) (f : State → Nat → Option Nat) :
    permute v d m f s = .next (eachElement s s.vl s.vsew m (fun u i =>
      match f s i with
      | some x => u.setElem d.toNat i s.vsew x
      | none => u)).retire := by
  unfold permute
  refine issue_ok (f := .seq) h.1 _ ?_
  simp only [run_bind, vlane_ok h, run_get, elements_act, countVl_hart h.1, run_pure]
  congr 1
  refine selected_foldl m h.1 (fun i u => match f s i with
      | some x => u.setElem d.toNat i s.vsew x
      | none => u) ?_ s.vl
  intro i t ht
  split
  · exact ⟨ht, fun j => maskBit_setElem ht ..⟩
  · exact ⟨ht, fun _ => rfl⟩

theorem elemOr0_hart (hh : ByHart s) (x : Nat) :
    s.elemOr0 a x = if x < 16384 / s.vsew then s.elem a.toNat x s.vsew else 0 := by
  obtain ⟨k, hk⟩ := hh
  simp only [State.elemOr0, State.vlmax, hk]

/-- A permute that gives every element a value. -/
theorem permute_next_some (h : VectorReady s) (v : VNames) (f : State → Nat → Nat) :
    permute v d m (fun t i => some (f t i)) s =
      .next (eachElement s s.vl s.vsew m (fun u i => u.setElem d.toNat i s.vsew (f s i))).retire :=
  permute_next d m h v _

theorem vcompress_next (h : VectorReady s) :
    execVcompress d a m s = .next (eachElement s s.vl s.vsew m (fun u i =>
      u.setElem d.toNat (s.selectedBelow m i) s.vsew (s.elem a.toNat i s.vsew))).retire := by
  unfold execVcompress
  refine issue_ok (f := .seq) h.1 _ ?_
  simp only [run_bind, vlane_ok h, run_get, elements_act, countVl_hart h.1, run_pure]
  congr 1
  exact selected_foldl m h.1 (fun i u => u.setElem d.toNat (s.selectedBelow m i) s.vsew (s.elem a.toNat i s.vsew))
    (fun i t ht => ⟨ht, fun j => maskBit_setElem ht ..⟩) s.vl

theorem vextr_next (h : VectorReady s) :
    execVextr d a b s = .next ((s.setRs d (if (s.rs b).toNat < s.vl then
      BitVec.ofNat 64 (s.elem a.toNat (s.rs b).toNat s.vsew) else 0)).setVstart 0).retire := by
  unfold execVextr
  refine issue_ok (f := .seq) h.1 _ ?_
  simp only [run_bind, vlane_ok h, run_act, countVl_hart h.1, run_pure]

theorem vins_next (h : VectorReady s) :
    execVins d a b s = .next ((if (s.rs b).toNat < s.vl then
      s.setElem d.toNat (s.rs b).toNat s.vsew (s.rs a).toNat else s).setVstart 0).retire := by
  unfold execVins
  refine issue_ok (f := .seq) h.1 _ ?_
  simp only [run_bind, vlane_ok h, run_act, countVl_hart h.1, run_pure]

end

end Sys2Proof.Machine
end

section
/-! SUPPORT. The statements settled: Mask instructions and permutes (R124, R125). -/

namespace Sys2Proof.Proofs

open Sys2Proof.Machine

/-- Settles O24: each mask instruction and permute is the loop over its elements (`mlogic_next`, `mcount_next`,
`permute_next`), whose sources are those that the instruction found. -/
theorem masksAndPermutes : Obligations.MasksAndPermutes := by
  unfold Obligations.MasksAndPermutes
  refine ⟨?masks, ?permutes⟩
  case masks =>
    intro d a b m x s h w n bits hits count
    have logic2 := fun f : Bool → Bool → Bool =>
      mlogic_next d m h [a, b] (fun t i w => f (t.maskBit a.toNat i w) (t.maskBit b.toNat i w))
    have logic1 := mlogic_next d m h [a] (fun t i w => !t.maskBit a.toNat i w)
    have count1 := fun f => mcount_next a m h x f
    refine ⟨logic2 (· && ·), logic2 (· || ·), logic2 (· != ·), logic2 (fun p q => p && !q), logic1,
      count1 (fun l => BitVec.ofNat 64 l.length), ?first, ?setvl⟩
    case first =>
      refine (count1 (fun l => match l with
        | [] => BitVec.allOnes 64
        | i :: _ => BitVec.ofNat 64 i)).trans ?_
      change count _ = count _
      congr 1
      change (match hits with | [] => _ | i :: _ => _) = _
      cases hits <;> rfl
    case setvl =>
      have hn : (s.selected a m).headD s.countVl = hits.headD n := by
        rw [State.selected, countVl_hart h.1]
      refine (mlogic_next d m h [a] (fun _ i _ => decide (i < (s.selected a m).headD s.countVl))).trans ?_
      rw [hn]
  case permutes =>
    intro d a b n m s h w max_ src each rank k
    have one := fun v f => permute_next_some d m h v f
    have src_eq : ∀ x, s.elemOr0 a x = src x := fun x => elemOr0_hart a h.1 x
    have gather := fun v (f : State → Nat → Nat) => (one v (fun t i => t.elemOr0 a (f t i))).trans
      (by simp only [src_eq]; rfl : _ = each (fun i u => u.setElem d.toNat i w (src (f s i))))
    refine ⟨gather (if n = 3 then ⟨[b], [], [], [d, a], [m]⟩ else ⟨[], [], [], [d, a, b], [m]⟩)
        (fun t i => t.src2 n b i t.vsew), ?up,
      gather ⟨[b], [], [], [d, a], [m]⟩ (fun t i => i + (t.rs b).toNat), vcompress_next d a m h,
      one ⟨[], [], [], [d, a], [m]⟩ (fun t i => t.elem a.toNat (t.selectedBelow m i) t.vsew),
      gather ⟨[b], [], [], [d, a], [m]⟩ (fun t _ => (t.rs b).toNat), vextr_next d a b h, vins_next d a b h⟩
    case up =>
      refine (permute_next d m h ⟨[b], [], [], [d, a], [m]⟩ (fun t i =>
        if (t.rs b).toNat ≤ i then some (t.elem a.toNat (i - (t.rs b).toNat) t.vsew) else none)).trans ?_
      change each _ = each _
      congr 1
      funext i u
      by_cases hk : k ≤ i
      · simp only [k] at hk
        simp only [if_pos hk, k]
        rfl
      · simp only [k] at hk
        simp only [if_neg hk, k]

end Sys2Proof.Proofs
end

section
/-! SUPPORT. Scans and reductions (R126, R127). -/

namespace Sys2Proof.Machine

/-! ## Scans and reductions (R126, R127) -/

section

variable {s : State} (g : Fold) (d a : Reg) (m : MReg)

/-- One element of a scan: the value so far combined with the element where the mask selects it, and written. -/
def Fold.scanStep (p : State × Nat) (i : Nat) : State × Nat :=
  let y := if p.1.maskBit m.toNat i g.w then g.comb p.1.mode p.2 (p.1.elem a.toNat i g.w) else p.2
  (p.1.setElem d.toNat i g.w y, y)

/-- A scan's loop over unbound registers is the fold of its steps. -/
theorem scanLoop_free (hb : s.binds = []) (k i y : Nat) :
    scanLoop g d a m [] k i y s = .ok () ((List.range' i k).foldl (g.scanStep d a m) (s, y)).1 := by
  induction k generalizing i y s with
  | zero => rfl
  | succ k ih =>
    simp only [scanLoop, run_bind, needSources, run_pure, needRoom_ok hb, popSources, run_get, run_set, putElem_free hb,
      State.source, lookup?, List.range'_succ, List.foldl_cons]
    exact ih (by rw [setElem_binds, hb]) ..

theorem scanStep_binds (l : List Nat) (p : State × Nat) : (l.foldl (g.scanStep d a m) p).1.binds = p.1.binds := by
  induction l generalizing p with
  | nil => rfl
  | cons i l ih => rw [List.foldl_cons, ih, Fold.scanStep, setElem_binds]

theorem flushBinds_of_binds (hb : s.binds = []) : s.flushBinds = s := by rw [State.flushBinds, hb, List.foldl_nil]

/-- A scan from the identity, or from the element before vstart (R126). -/
theorem vscan_next (h : VectorReady s) :
    vscan g d a m s = .next (((List.range' s.vstart (s.count g.w - s.vstart)).foldl (g.scanStep d a m)
      (s, if s.vstart = 0 then g.identity else s.elem d.toNat (s.vstart - 1) g.w)).1.setVstart 0).retire := by
  have hb : s.binds = [] := h.2.2.1
  unfold vscan
  refine issue_ok (f := .seq) h.1 _ ?_
  have hf := fun l p => flushBinds_of_binds ((setVstart_binds _ 0).trans ((scanStep_binds g d a m l (s, p)).trans hb))
  simp only [run_bind, streams_ok h, run_get, boundSources_nil hb, bindOf_of_binds hb, Option.isSome_none, Bool.false_and,
    Bool.false_eq_true, if_false, run_pure, scanLoop_free g d a m hb, run_act, hf]

/-- One element of a reduction. -/
def Fold.redStep (s : State) (y i : Nat) : Nat :=
  if s.maskBit m.toNat i g.w then g.comb s.mode y (s.elem a.toNat i g.w) else y

/-- A reduction's loop over an unbound register is the fold of its steps. -/
theorem redLoop_free (k i y : Nat) : redLoop g d a m [] k i y s = .ok ((List.range' i k).foldl (g.redStep a m s) y) s := by
  induction k generalizing i y with
  | zero => rfl
  | succ k ih =>
    rw [redLoop]
    exact ih ..

/-- A reduction from the identity, or from the partial result in d (R127). -/
theorem vred_next (h : VectorReady s) :
    vred g d a m s = .next ((if s.vstart = 0 ∨ s.vstart < s.count g.w then s.setRs d (g.result
      ((List.range' s.vstart (s.count g.w - s.vstart)).foldl (g.redStep a m s)
        (if s.vstart = 0 then g.identity else (s.rs d).toNat % 2 ^ g.w))) else s).setVstart 0).retire := by
  have hb : s.binds = [] := h.2.2.1
  unfold vred
  refine issue_ok (f := .seq) h.1 _ ?_
  simp only [run_bind, streams_ok h, run_get, boundSources_nil hb]
  by_cases hs : s.vstart = 0 ∨ s.vstart < s.count g.w
  · simp only [if_pos hs, run_bind, redLoop_free, run_act, run_pure]
  · simp only [if_neg hs, run_bind, run_act, run_pure]

end

end Sys2Proof.Machine
end

section
/-! SUPPORT. The statements settled: Scans and reductions (R126, R127). -/

namespace Sys2Proof.Proofs

open Sys2Proof.Machine

/-- Settles O25: a scan is the fold of `Fold.scanStep` and a reduction that of `Fold.redStep`. -/
theorem scansAndReductions : Obligations.ScansAndReductions := by
  unfold Obligations.ScansAndReductions
  intro d a m s h scan red
  exact ⟨vscan_next (foldSum 32) d a m h, vscan_next (foldSum 64) d a m h, vscan_next foldSumF d a m h,
    vred_next (foldSum 32) d a m h, vred_next (foldSum 64) d a m h, vred_next foldSumF d a m h,
    vred_next foldMax d a m h, vred_next foldMaxF d a m h⟩

end Sys2Proof.Proofs
end

section
/-! SUPPORT. Conversion, Hadamard stages, block quantisation and the generator (R128–R133). -/

namespace Sys2Proof.Machine

/-! ## Conversion and groups (R128–R133) -/

section

variable {s : State} (d a b : Reg) (m : MReg)

theorem noStrand_ok (hh : ByHart s) : noStrand s = .ok () s := by
  obtain ⟨k, hk⟩ := hh
  simp only [noStrand, run_bind, run_get, hk]
  rfl

/-- The body of VCVT on an unbound source (R128). -/
theorem vcvt_next (h : VectorReady s) (k f : BitVec 4) (r : BitVec 2) :
    execVcvt d a k r m f s =
      .next (eachElement s (s.count (Nat.max (CvtFmt.ofCode k).width (CvtFmt.ofCode f).width))
        (Nat.max (CvtFmt.ofCode k).width (CvtFmt.ofCode f).width) m (fun u i =>
          let y := convert (CvtFmt.ofCode k) (CvtFmt.ofCode f) (u.cvtMode r) (Config.stochasticDraw u.draws).toNat
            (u.elem a.toNat i (CvtFmt.ofCode k).width)
          let u := if r = 2 then { u with draws := u.draws + 1 } else u
          (u.raise y.2).setElem d.toNat i (CvtFmt.ofCode f).width y.1)).retire := by
  unfold execVcvt
  refine issue_ok (f := .seq) h.1 _ ?_
  simp only [run_bind]
  rw [arith_free h _ _ _ _ _ _ _ (fun _ _ _ => rfl)]
  · rfl
  · intro i t ht
    simp only [setElem_binds, raise_binds]
    split
    · exact ht
    · exact ht

/-- VGAUSS reads its three scalars as it found them, and the counter is the element's number (R133). -/
theorem vgauss_next (h : VectorReady s) :
    execVgauss d a b m s = .next (eachElement s (s.count 32) 32 m (fun u i =>
      u.setElem d.toNat i 32 (gauss (u.rs a).toNat (((u.rs b).toNat + i) % 2 ^ 64) (u.rs (b + 1)).toNat))).retire := by
  unfold execVgauss
  refine issue_ok (f := .seq) h.1 _ ?_
  simp only [run_bind]
  rw [arith_free h _ _ _ _ _ _ _ (fun _ _ _ => rfl) (fun i t ht => by rw [setElem_binds, ht])]
  simp only [run_pure]
  refine congrArg _ (eachElement_congr ByHart h.1 ?_ ?_)
  · intro i t ht
    rw [gidx_hart ht]
  · intro i t ht
    exact ht

/-- VHAD processes each selected lower element of a pair (R130). -/
theorem vhad_next (h : VectorReady s) (j : BitVec 5) :
    execVhad d a m j s = .next (eachElement s s.vl 32 m (fun u i =>
      if i / 2 ^ j.toNat % 2 = 0 ∧ i + 2 ^ j.toNat < s.vl then
        let r := hadamard u.mode (u.me.groupElem a.toNat i) (u.me.groupElem a.toNat (i + 2 ^ j.toNat))
        let v := u.raise r.2
        v.setMe ((v.me.setGroupElem d.toNat i r.1.1).setGroupElem d.toNat (i + 2 ^ j.toNat) r.1.2)
      else u)).retire := by
  unfold execVhad
  refine issue_ok (f := .seq) h.1 _ ?_
  simp only [run_bind, noStrand_ok h.1, vlane_ok h, run_get, elements_act, run_pure]
  congr 2
  refine List.foldl_ext _ _ _ fun t i _ => ?_
  by_cases hm : t.maskBit m.toNat i 32 = true
  · simp only [hm, and_true, if_true]
  · simp only [hm, and_false, Bool.false_eq_true, if_false]

/-- A source that is no register of the buffer passes the chain's check. -/
theorem chainOk_ok (hh : ByHart s) {ok : Bool × Nat → Bool} (h : ok s.chain = true) : chainOk ok s = .ok () s := by
  obtain ⟨k, hk⟩ := hh
  simp only [chainOk, run_bind, run_get, hk, if_pos h, run_pure]

/-- With nothing queued, the chain is the buffer's. -/
theorem chain_of_lanes (hl : s.me.lanes = []) : s.chain = (s.conv.opened, s.conv.stages) := by
  rw [State.chain, hl, List.foldl_nil]

theorem vl_hart (hh : ByHart s) : s.vl = s.me.vl.toNat := by
  obtain ⟨k, hk⟩ := hh
  simp only [State.vl, hk]

theorem vl_setConv (hh : ByHart s) (c : Converter) : (s.setConv c).vl = s.vl := by
  rw [vl_hart (s := s.setConv c) hh, vl_hart hh, State.setConv, State.me_setMe]

/-- A chain is opened by a group of registers, or continued in the buffer (R131). -/
theorem vhadc_next (h : VectorReady s) (j : BitVec 5) (hc : a ≠ 0 ∨ (s.conv.opened = true ∧ s.conv.stages < 12)) :
    execVhadc a j s = .next (((List.range s.vl).foldl (State.convPair s.vl (2 ^ j.toNat))
      (if a = 0 then s.setConv { s.conv with stages := s.conv.stages + 1 }
        else s.setConv ⟨true, 1, s.me.groupBits a.toNat⟩)).setVstart 0).retire := by
  have hl : s.me.lanes = [] := h.2.2.2.2.2.2.2.1
  have hchain : (a != 0 || (s.chain.1 && decide (s.chain.2 < 12))) = true := by
    rw [chain_of_lanes hl, Bool.or_eq_true]
    rcases hc with hc | ⟨ho, hs⟩
    · exact .inl (bne_iff_ne.2 hc)
    · exact .inr (by rw [ho, decide_eq_true hs]; rfl)
  unfold execVhadc
  refine issue_ok (f := .seq) h.1 _ ?_
  simp only [run_bind, noStrand_ok h.1, vchecks_ok h]
  rw [chainOk_ok h.1 hchain]
  simp only [lanesTake_ok h, run_get, run_set, run_pure]
  split
  · rw [vl_setConv h.1]
  · rw [vl_setConv h.1]

/-- The elements of VCVTB's source: the converter buffer's, or a group's (R132). -/
def State.cvtbSource (s : State) (a : Reg) (i : Nat) : Nat := if a = 0 then elemOf s.conv.buf i 32 else s.me.groupElem a.toNat i

/-- VCVTB quantises its elements, and closes the chain where they come from the buffer (R132). -/
theorem vcvtb_next (h : VectorReady s) (j : BitVec 5) (hc : a ≠ 0 ∨ s.conv.opened = true) :
    execVcvtb d a j s =
      let t := ((List.range' s.vstart (s.vl - s.vstart)).foldl
        (State.quantElem d.toNat (s.cvtbSource a) s.vl (if j = 0 then .rne else .sr)) s).setVstart 0
      .next (if a = 0 then t.setConv Converter.reset else t).retire := by
  have hl : s.me.lanes = [] := h.2.2.2.2.2.2.2.1
  have hchain : (a != 0 || s.chain.1) = true := by
    rw [chain_of_lanes hl, Bool.or_eq_true]
    rcases hc with hc | ho
    · exact .inl (bne_iff_ne.2 hc)
    · exact .inr ho
  unfold execVcvtb
  refine issue_ok (f := .seq) h.1 _ ?_
  simp only [run_bind, noStrand_ok h.1, vchecks_ok h]
  rw [chainOk_ok h.1 hchain]
  simp only [lanesTake_ok h, run_get, elements_act, run_act, run_pure]
  rfl

end

end Sys2Proof.Machine
end

section
/-! SUPPORT. The statements settled: Conversion, Hadamard stages, block quantisation and the generator (R128–R133). -/

namespace Sys2Proof.Proofs

open Sys2Proof.Machine

/-- Settles O26: the conversions and the generator are loops over unbound elements (`arith_free`); the group instructions pass
the checks of their chain, which is the buffer's while nothing is queued. -/
theorem conversionsAndGroups : Obligations.ConversionsAndGroups := by
  unfold Obligations.ConversionsAndGroups
  intro d a b m j k f r s h sf df w dist
  refine ⟨vcvt_next d a m h k f r, vhad_next d a m h j, ?open_, ?continue_, ?group, ?buffer, vgauss_next d a b m h⟩
  case open_ =>
    intro ha
    refine (vhadc_next a h j (.inl ha)).trans ?_
    rw [if_neg ha]
  case continue_ =>
    intro ho hs
    exact vhadc_next 0 h j (.inr ⟨ho, hs⟩)
  case group =>
    intro ha
    have hsrc : s.cvtbSource a = fun i => s.me.groupElem a.toNat i := funext fun i => if_neg ha
    refine (vcvtb_next d a h j (.inl ha)).trans ?_
    simp only [if_neg ha, hsrc]
  case buffer =>
    intro ho
    exact vcvtb_next d 0 h j (.inr ho)

end Sys2Proof.Proofs
end

section
/-! SUPPORT. The stable sort (R185). -/

namespace Sys2Proof.Machine

/-! ## The stable sort (R185) -/

section

variable {α κ : Type} [LinearOrder κ] (key : α → κ)

theorem perm_insertSorted (le : α → α → Bool) (x : α) (l : List α) : (insertSorted le x l).Perm (x :: l) := by
  induction l with
  | nil => exact .refl _
  | cons y t ih =>
    unfold insertSorted
    split
    · exact (ih.cons y).trans (.swap x y t)
    · exact .refl _

theorem pairwise_insertSorted (x : α) {l : List α} (h : l.Pairwise (fun a b => key a ≤ key b)) :
    (insertSorted (fun a b => decide (key a ≤ key b)) x l).Pairwise (fun a b => key a ≤ key b) := by
  induction l with
  | nil => exact List.pairwise_singleton ..
  | cons y t ih =>
    obtain ⟨hy, ht⟩ := List.pairwise_cons.1 h
    unfold insertSorted
    split
    next hle =>
      refine List.pairwise_cons.2 ⟨fun z hz => ?_, ih ht⟩
      rcases (mem_insertSorted _ _ _ _).1 hz with rfl | hz
      · exact of_decide_eq_true hle
      · exact hy z hz
    next hle =>
      have hxy : key x < key y := lt_of_not_ge fun h => hle (decide_eq_true h)
      refine List.pairwise_cons.2 ⟨fun z hz => ?_, h⟩
      rcases List.mem_cons.1 hz with rfl | hz
      · exact hxy.le
      · exact hxy.le.trans (hy z hz)

/-- A record goes behind those of its key. -/
theorem filter_insertSorted (x : α) {l : List α} (h : l.Pairwise (fun a b => key a ≤ key b)) (k : κ) :
    (insertSorted (fun a b => decide (key a ≤ key b)) x l).filter (fun a => decide (key a = k)) =
      (l ++ [x]).filter (fun a => decide (key a = k)) := by
  induction l with
  | nil => rfl
  | cons y t ih =>
    obtain ⟨hy, ht⟩ := List.pairwise_cons.1 h
    unfold insertSorted
    split
    · rw [List.cons_append, List.filter_cons, List.filter_cons, ih ht]
    next hle =>
      have hxy : key x < key y := lt_of_not_ge fun h => hle (decide_eq_true h)
      by_cases hk : key x = k
      · have hnone : (y :: t).filter (fun a => decide (key a = k)) = [] := by
          refine List.filter_eq_nil_iff.2 fun z hz => ?_
          rcases List.mem_cons.1 hz with rfl | hz
          · simpa only [decide_eq_true_eq] using fun h => (hk ▸ h ▸ hxy).false
          · simpa only [decide_eq_true_eq] using fun h => (hk ▸ h ▸ hxy.trans_le (hy z hz)).false
        rw [List.filter_append, List.filter_cons, hnone, List.nil_append, List.filter_cons, List.filter_nil]
      · rw [List.filter_append, List.filter_cons, if_neg (by simpa using hk), List.filter_cons (x := x),
          if_neg (by simpa using hk), List.filter_nil, List.append_nil]

/-- A stable sort by key keeps every record, puts the keys in order, and keeps records of equal keys in the order in which they
were. -/
theorem stableSort_spec (l : List α) :
    (stableSort (fun a b => decide (key a ≤ key b)) l).Perm l ∧
      (stableSort (fun a b => decide (key a ≤ key b)) l).Pairwise (fun a b => key a ≤ key b) ∧
      ∀ k, (stableSort (fun a b => decide (key a ≤ key b)) l).filter (fun a => decide (key a = k)) =
        l.filter (fun a => decide (key a = k)) := by
  have hfold : ∀ (l acc : List α), acc.Pairwise (fun a b => key a ≤ key b) →
      let r := l.foldl (fun acc x => insertSorted (fun a b => decide (key a ≤ key b)) x acc) acc
      r.Perm (acc ++ l) ∧ r.Pairwise (fun a b => key a ≤ key b) ∧
        ∀ k, r.filter (fun a => decide (key a = k)) = (acc ++ l).filter (fun a => decide (key a = k)) := by
    intro l
    induction l with
    | nil => exact fun acc h => ⟨by rw [List.append_nil]; exact .refl _, h, fun k => by rw [List.append_nil]; rfl⟩
    | cons x l ih =>
      intro acc h r
      obtain ⟨hp, hs, hf⟩ := ih _ (pairwise_insertSorted key x h)
      have hins := perm_insertSorted (fun a b => decide (key a ≤ key b)) x acc
      refine ⟨hp.trans ?_, hs, fun k => ?_⟩
      · exact (hins.append_right l).trans List.perm_middle.symm
      · rw [List.append_cons, List.filter_append, ← filter_insertSorted key x h, ← List.filter_append]
        exact hf k
  exact hfold l [] .nil

/-- The first hit of a search in order is the least one. -/
theorem findSome?_eq_of_least {β : Type} {l : List α} {f : α → Option β} {x : α} (hl : l.Pairwise (fun a b => key a ≤ key b))
    (hx : x ∈ l) (hf : (f x).isSome = true) (hmin : ∀ y ∈ l, (f y).isSome = true → y = x ∨ key x < key y) :
    l.findSome? f = f x := by
  have hsome : (l.findSome? f).isSome = true := List.findSome?_isSome_iff.2 ⟨x, hx, hf⟩
  obtain ⟨b, hb⟩ := Option.isSome_iff_exists.1 hsome
  obtain ⟨l1, a, l2, rfl, ha, hnone⟩ := List.findSome?_eq_some_iff.1 hb
  rcases hmin a (List.mem_append_right _ List.mem_cons_self) (by rw [ha]; rfl) with rfl | hlt
  · rw [hb, ha]
  · exfalso
    rcases List.mem_append.1 hx with h1 | h2
    · rw [hnone x h1] at hf
      cases hf
    · rcases List.mem_cons.1 h2 with rfl | h2
      · exact hlt.false
      · exact (hlt.trans_le ((List.pairwise_cons.1 (List.pairwise_append.1 hl).2.1).1 x h2)).false

end

end Sys2Proof.Machine
end

section
/-! SUPPORT. Replay, fetched blocks and VRELEASE (R140–R142, R148). -/

namespace Sys2Proof.Machine

/-! ## Joining strands (R147) -/

section

variable {s : State}

/-- A hart after the strands of its TFETCHes have been merged (R147). -/
def State.joined (s : State) : State :=
  let flags := s.me.joining.foldl (fun f t => f ||| t.flags) (0 : BitVec 5)
  let t := s.setVset (fun v => { v with strands := [], unjoined := [] })
  t.setMe { t.me with fflags := t.me.fflags ||| flags }

theorem joinStrands_eq (h : s.me.unstopped = false) : joinStrands s =
    (match s.me.strandTrap with
    | some t => .error (.trap t) s.joined
    | none => .ok () s.joined) := by
  simp only [joinStrands, run_bind, run_get, h, Bool.false_eq_true, if_false, run_set]
  split
  next t ht => rw [ht]; rfl
  next ht => rw [ht]; rfl

theorem unstopped_false (hl : ∀ e ∈ s.me.lanes, isTfetch e.word = false) (hr : ∀ t ∈ s.me.strands, t.running = false) :
    s.me.unstopped = false := by
  simp only [Hart.unstopped, Bool.or_eq_false_iff, List.any_eq_false, Bool.not_eq_true]
  exact ⟨hr, hl⟩

theorem strandTrap_none (h : ∀ t ∈ s.me.joining, t.stop = none) : s.me.strandTrap = none := by
  have hf : (stableSort (fun x y : Strand => decide (x.lane ≤ y.lane)) s.me.joining).findSome? (fun x =>
      x.stop.map (fun i => (x.lane, i))) = none :=
    List.findSome?_eq_none_iff.2 fun x hx => by rw [h x ((mem_stableSort _ _ _).1 hx), Option.map_none]
  rw [Hart.strandTrap, hf, Option.map_none]

theorem joined_cur (s : State) : s.joined.cur = s.cur := rfl

theorem joined_mem (s : State) : s.joined.mem = s.mem := rfl

/-- What the merging of strands leaves of the hart. -/
theorem joined_me (s : State) : s.joined.me = { s.me with
    vset := s.me.vset.map (fun v => { v with strands := [], unjoined := [] })
    fflags := s.me.fflags ||| s.me.joining.foldl (fun f t => f ||| t.flags) 0 } := by
  simp only [State.joined, State.setVset, State.me_setMe]

/-! ## Replay and blocks (R140–R142), VRELEASE (R148) -/

theorem vloop_next (h : VectorReady s) (k : BitVec 5) {ws : List IWord} (hw : capture s (k.toNat + 1) (s.pc.toNat + 4) = .ok ws) :
    execVloop k s = .next ((s.setVset (fun v => { v with replay := ws, resume := none })).setVstart 0).retire := by
  refine issue_ok (f := .seq) h.1 _ ?_
  simp only [run_bind, vchecks_ok h, run_get, hw, run_set, run_pure]

theorem vagain_next (h : VectorReady s) {v : VSet} (hv : s.me.vset = some v) (hr : v.replay ≠ []) :
    execVagain s = .next (s.setMe { s.me with vqueue := v.replay, vset := some { v with resume := none } }) := by
  have he : v.replay.isEmpty = false := List.isEmpty_eq_false_iff.2 hr
  refine issue_ok (f := .stay) h.1 _ ?_
  simp only [run_bind, vchecks_ok h, run_get, hv, Option.getD_some, he, Bool.false_eq_true, if_false, run_pure, run_set,
    State.enqueueWords, State.setVset, State.me_setMe, State.setMe_setMe, Option.map_some]
  rfl

theorem vagain_trap (h : VectorReady s) {v : VSet} (hv : s.me.vset = some v) (hr : v.replay = []) :
    execVagain s = .next (State.takeTrap s (.at .illegalInstr (s.word.setWidth 64)) s) := by
  refine issue_hart (r := .error (.trap (.at .illegalInstr (s.word.setWidth 64))) s) h.1 _ ?_
  simp only [run_bind, vchecks_ok h, run_get, hv, Option.getD_some, hr, List.isEmpty_nil, if_true, run_trap]

theorem vscalars_ok (hl : s.me.lanes = []) (rs : List Reg) : vscalars rs s = .ok () s := by
  have hq : s.queueNames rs = false := by
    unfold State.queueNames
    split
    · rw [hl, List.any_nil]
    · rfl
  simp only [vscalars, run_bind, run_get, hq, Bool.false_eq_true, if_false, run_pure]

theorem vfetch_next (h : VectorReady s) (a : Reg) {ws : List IWord} (hw : s.block (s.rs a) = .ok ws) :
    execVfetch a s = .next ((s.setVset (fun v => { v with replay := ws, resume := none })).enqueueWords ws) := by
  refine issue_ok (f := .stay) h.1 _ ?_
  have hl : s.me.lanes = [] := h.2.2.2.2.2.2.2.1
  simp only [run_bind, vchecks_ok h, vscalars_ok hl, run_get, hw, run_set, run_pure]
  rfl

theorem vrelease_none (hh : ByHart s) (hv : s.me.vset = none) : execVrelease s = .next s.retire := by
  refine issue_ok (f := .seq) hh _ ?_
  simp only [run_bind, run_get, hv, Option.isNone_none, if_true, run_pure]

/-- VRELEASE with nothing to wait for and nothing bound gives the set up (R148). -/
theorem vrelease_next (h : VectorReady s) (ho : s.ops = []) (ht : s.me.tileProg = none)
    (hj : ∀ t ∈ s.me.joining, t.stop = none) :
    execVrelease s = .next ((s.joined.setVstart 0).setMe { (s.joined.setVstart 0).me with vset := none, vdirty := 0 }).retire := by
  obtain ⟨hh, hv, hb, _, _, hs, _, hl, _⟩ := h
  have hn : s.me.vset.isNone = false := by rw [← Option.not_isSome, hv]; rfl
  have hu : s.me.unstopped = false := unstopped_false (by simp [hl]) (by simp [hs])
  have hb' : s.joined.binds = [] := by
    rw [binds_eq, joined_me, ← hb, binds_eq]
    cases s.me.vset <;> rfl
  have hw : s.joined.releaseWaits = false := by
    have ho' : s.joined.ops = [] := ho
    have hp : s.joined.me.prog .tile = SeqProg.reset := by
      rw [joined_me, Hart.prog, ht, Option.getD_none]
    have hl' : s.joined.me.lanes = [] := by rw [joined_me, hl]
    rw [State.releaseWaits, ho', hp, hl']
    rfl
  refine issue_ok (f := .seq) hh _ ?_
  simp only [run_bind, run_get, hn, Bool.false_eq_true, if_false, joinStrands_eq hu, strandTrap_none hj, hw, run_pure, run_act,
    State.unbindAll, hb', List.foldl_nil]

end

end Sys2Proof.Machine
end

section
/-! SUPPORT. The statements settled: Replay, fetched blocks and VRELEASE (R140–R142, R148). -/

namespace Sys2Proof.Proofs

open Sys2Proof.Machine

/-- Settles O28: on a ready hart nothing of a replay waits, and VRELEASE's join finds no fault and nothing to end. -/
theorem blocksAndRelease : Obligations.BlocksAndRelease := by
  unfold Obligations.BlocksAndRelease
  refine ⟨?blocks, ?release⟩
  case blocks =>
    intro k a s h keep
    exact ⟨fun ws hw => vloop_next h k hw, fun v hv hr => vagain_next h hv hr, fun v hv hr => vagain_trap h hv hr,
      fun ws hw => vfetch_next h a hw⟩
  case release =>
    intro s hh
    refine ⟨vrelease_none hh, fun h ho ht hj => ⟨_, vrelease_next h ho ht hj, ?_⟩⟩
    have hc : ByHart (s.joined.setVstart 0) := by
      rw [setVstart_hart (s := s.joined) hh]
      exact hh
    rw [me_retire_setMe hc, retire_mem, State.setMe_mem]
    obtain ⟨p, q, b, hr⟩ := Hart.retire_eq { (s.joined.setVstart 0).me with vset := none, vdirty := 0 }
    rw [hr, setVstart_hart (s := s.joined) hh, State.me_setMe, joined_me, State.setMe_mem]
    exact ⟨rfl, rfl, rfl, rfl⟩

end Sys2Proof.Proofs
end

section
/-! SUPPORT. TFETCH, STOP and VJOIN (R143, R146, R147). -/

namespace Sys2Proof.Machine

/-! ## TFETCH, STOP and VJOIN (R143, R146, R147) -/

section

variable {s : State}

@[simp] theorem setVset_cur (s : State) (f : VSet → VSet) : (s.setVset f).cur = s.cur := rfl

theorem tfetch_next (h : VectorReady s) (a : Reg) (m : MReg) :
    execTfetch a m s = .next (((s.setVset (fun v => { v with
      strands := ((List.range 32).filter (fun j => (s.me.mreg m.toNat).getLsbD j)).map (s.newStrand a)
      unjoined := v.unjoined ++ v.strands })).dropUnder (Reader.isStrand s.cur.owner)).setVstart 0).retire := by
  refine issue_ok (f := .seq) h.1 _ ?_
  simp only [run_bind, vlane_ok h, run_get]
  obtain ⟨k, hk⟩ := h.1
  simp only [hk, setVset_cur, run_bind, run_set, run_pure]

theorem stop_next (h : VectorReady s) : execStop s = .next (s.setVstart 0).retire := by
  refine issue_ok (f := .seq) h.1 _ ?_
  simp only [run_bind, vchecks_ok h, run_get]
  obtain ⟨k, hk⟩ := h.1
  simp only [hk, run_bind, run_set, run_pure]

/-- A strand whose registers are neither bound nor waiting passes the checks of R113. -/
theorem vchecks_strand {k : HartId} {j : Nat} (hc : s.cur = .strand k j) (hv : s.me.vset.isSome = true) (hb : s.binds = [])
    (hp : s.me.pending = 0) (v : VNames) : vchecks v s = .ok () s := by
  have hn : s.me.vset.isNone = false := by rw [← Option.not_isSome, hv]; rfl
  have hm : s.misused v = none := by
    simp only [State.misused, hb]
    rfl
  have hl : s.vlPending = false := by simp only [State.vlPending, hc]
  have hw : s.vwaits v = false := by simp [State.vwaits, State.pendingAmong, hp, hl]
  simp only [vchecks, run_bind, run_get, hc, hn, hm, hw, Bool.and_false, Bool.false_eq_true, if_false, run_pure]

/-- A strand's word of the lanes ends as its checks and effects do (R42, R144). -/
theorem issue_strand {k : HartId} {j : Nat} (hc : s.cur = .strand k j) {m : M Flow} {r : EStateM.Result Stop State Flow}
    (hm : m s = r) : issue .lanes m s = .next (finish s r) := by
  have ha : s.cur.accepts .lanes = true := by rw [hc]; rfl
  unfold issue run
  rw [if_pos ha, hm, hc]

theorem stop_strand {k : HartId} {j : Nat} (hc : s.cur = .strand k j) (hv : s.me.vset.isSome = true) (hb : s.binds = [])
    (hp : s.me.pending = 0) : execStop s = .next (s.stopStrand j) := by
  refine issue_strand (r := .ok .stay (s.stopStrand j)) hc ?_
  simp only [run_bind, vchecks_strand hc hv hb hp, run_get]
  simp only [hc, run_bind, run_set, run_pure]

/-- The trap of a VJOIN that met a strand stopped on a fault (R147). -/
def strandFault (h : Hart) (lane : Nat) (i : StopInfo) : TrapInfo where
  cause := .strandStop
  tval := i.tval
  source := 4
  inner := i.cause
  lane := lane
  enginePc := i.pc
  pos := some (BitVec.ofNat 64 (h.kstart.toNat * 2 ^ 32 + i.vstart.toNat))
  deferred := false

/-- The fault that a VJOIN names is that of the lowest lane that stopped on one (R147). -/
theorem strandTrap_some {x : Strand} {i : StopInfo} (hx : x ∈ s.me.joining) (hi : x.stop = some i)
    (hmin : ∀ y ∈ s.me.joining, y.stop.isSome = true → y = x ∨ x.lane < y.lane) :
    s.me.strandTrap = some (strandFault s.me x.lane i) := by
  obtain ⟨hp, hs, _⟩ := stableSort_spec (fun x : Strand => x.lane) s.me.joining
  have hf := findSome?_eq_of_least (fun x : Strand => x.lane) (f := fun x => x.stop.map (fun i => (x.lane, i))) hs
    (hp.mem_iff.2 hx) (by rw [hi]; rfl) (fun y hy h => hmin y (hp.mem_iff.1 hy) (by rwa [Option.isSome_map] at h))
  rw [Hart.strandTrap, hf, hi]
  rfl

theorem vjoin_of (hh : ByHart s) (hv : s.me.vset.isSome = true) (hu : s.me.unstopped = false) :
    execVjoin s = .next (match s.me.strandTrap with
      | some t => State.takeTrap s t s.joined
      | none => (s.joined.setVstart 0).retire) := by
  have hn : s.me.vset.isNone = false := by rw [← Option.not_isSome, hv]; rfl
  unfold execVjoin
  cases ht : s.me.strandTrap with
  | none =>
    refine issue_ok (f := .seq) hh _ ?_
    simp only [run_bind, run_get, hn, Bool.false_eq_true, if_false, run_pure, joinStrands_eq hu, ht, run_act]
  | some t =>
    refine issue_hart (r := .error (.trap t) s.joined) hh _ ?_
    simp only [run_bind, run_get, hn, Bool.false_eq_true, if_false, joinStrands_eq hu, ht]

/-- The merging of strands leaves none to be joined. -/
theorem joined_joining (s : State) : s.joined.me.joining = [] := by
  rw [joined_me, Hart.joining]
  cases s.me.vset <;> rfl

theorem joining_of_vset {h k : Hart} (hv : h.vset = k.vset) : h.joining = k.joining := by
  unfold Hart.joining
  rw [hv]

/-- tcause is the concatenation of its fields (R96). -/
theorem bitsOf_tcauseOf (t : TrapInfo) (l : Priv) (hs : t.source < 8) (hl : t.lane < 32) :
    let c := tcauseOf t l
    bitsOf c 0 8 = t.cause.code ∧ bitsOf c 8 8 = t.inner.code ∧ bitsOf c 16 3 = t.source ∧ bitsOf c 21 5 = t.lane ∧
      bitsOf c 32 32 = t.enginePc.toNat := by
  have hcode : ∀ c : Cause, c.code < 256 := fun c => by cases c <;> decide
  have h1 := hcode t.cause
  have h2 := hcode t.inner
  have h3 := t.enginePc.isLt
  simp only [tcauseOf, bitsOf, BitVec.toNat_ofNat]
  generalize hp : (if t.deferred = true then 2 ^ 20 else 0) = p
  generalize hq : (if l = Priv.s then 2 ^ 19 else 0) = q
  have hp' : p = 0 ∨ p = 2 ^ 20 := by
    rw [← hp]
    split
    · exact .inr rfl
    · exact .inl rfl
  have hq' : q = 0 ∨ q = 2 ^ 19 := by
    rw [← hq]
    split
    · exact .inr rfl
    · exact .inl rfl
  omega

/-- What a trap leaves of a hart with no replay under way. -/
theorem Hart.takeTrap_leaves (h : Hart) (t : TrapInfo) (g : Group) (hq : h.vqueue = []) :
    let k := h.takeTrap t g
    k.vset = h.vset ∧ k.fflags = h.fflags ∧ k.tcause = tcauseOf t h.priv ∧ k.tval = t.tval ∧
      k.tstart = t.pos.getD (BitVec.ofNat 64 (h.kstart.toNat * 2 ^ 32 + h.vstart.toNat)) := by
  have he : h.vqueue.isEmpty = true := by rw [hq]; rfl
  have hcsr : h.trapCsrs t = { h with
      tcause := tcauseOf t h.priv
      tpc := BitVec.ofNat 64 (h.pc.toNat % 2 ^ 21)
      tval := t.tval
      tstart := t.pos.getD (BitVec.ofNat 64 (h.kstart.toNat * 2 ^ 32 + h.vstart.toNat)) } := by
    rw [Hart.trapCsrs, he, Bool.true_or, if_pos rfl]
  rw [Hart.takeTrap, hcsr]
  dsimp only
  split
  · exact ⟨rfl, rfl, rfl, rfl, rfl⟩
  · rw [Hart.enterS, Hart.dropQueue, if_pos he]
    exact ⟨rfl, rfl, rfl, rfl, rfl⟩

end

end Sys2Proof.Machine
end

section
/-! SUPPORT. The statements settled: TFETCH, STOP and VJOIN (R143, R146, R147). -/

namespace Sys2Proof.Proofs

open Sys2Proof.Machine

/-- Settles O29: TFETCH and STOP go on at once, and a VJOIN with every strand stopped merges their flags and ends as the least
lane's fault says. -/
theorem strands : Obligations.Strands := by
  unfold Obligations.Strands
  intro a m s
  refine ⟨fun h => ⟨tfetch_next h a m, stop_next h⟩, ?join, fun k j hc hv hb hp _ => stop_strand hc hv hb hp⟩
  intro hh hv hl hr flags
  have hu := unstopped_false hl hr
  have hexec := vjoin_of hh hv hu
  have hflags : s.joined.me.fflags = flags := by
    rw [joined_me]
    exact BitVec.or_comm ..
  constructor
  · intro hj
    rw [strandTrap_none hj] at hexec
    refine ⟨_, hexec, ?_⟩
    rw [setVstart_retire_me (s := s.joined) hh, State.me_setMe]
    obtain ⟨p, q, b, hk⟩ := Hart.retire_eq { s.joined.me with vstart := BitVec.ofNat 12 0 }
    refine ⟨?_, ?_, ?_, rfl⟩
    · rw [hk]
      exact joined_joining s
    · rw [hk]
      exact hflags
    · rw [Hart.retire_pc, Hart.retire_pc, joined_me]
  · intro x i hx hi hlane hq hvq hmin
    have htrap : State.takeTrap s (strandFault s.me x.lane i) s.joined =
        s.joined.setMe (s.joined.me.takeTrap (strandFault s.me x.lane i) s.joined.group) := by
      obtain ⟨k, hk⟩ := hh
      rw [hk, Issuer.owner] at hq
      simp only [State.takeTrap, joined_cur, hk, if_pos hq]
    simp only [strandTrap_some hx hi hmin, htrap] at hexec
    refine ⟨_, hexec, ?_⟩
    rw [State.me_setMe, State.setMe_mem]
    obtain ⟨hvset, hff, hcause, htval, hstart⟩ := Hart.takeTrap_leaves s.joined.me
      (strandFault s.me x.lane i) s.joined.group (by rw [joined_me, hvq])
    rw [joining_of_vset hvset, hff, hcause, htval, hstart]
    obtain ⟨h1, h2, h3, h4, h5⟩ := bitsOf_tcauseOf
      (strandFault s.me x.lane i) s.joined.me.priv (show 4 < 8 by decide) hlane
    refine ⟨joined_joining s, hflags, h1, h2, h3, h4, h5, rfl, ?_, rfl⟩
    have hlt := i.vstart.isLt
    simp only [strandFault, Option.getD_some, bitsOf, BitVec.toNat_ofNat]
    omega

end Sys2Proof.Proofs
end

section
/-! SUPPORT. Launches, kernels and claims (R286–R288). -/

namespace Sys2Proof.Machine

/-! ## Descriptors (R172, R251) -/

section

variable {s : State}

/-- The place of a descriptor is the hart's own store. -/
theorem place_desc {p : Word} {n : Nat} (h0 : ptrSpace p = 0) (h8 : ptrOff p % 8 = 0) (hr : ptrOff p + n ≤ s.group.range) :
    place s .desc n 8 p = .ok (.ls s.me.core (s.myBase + ptrOff p)) := by
  have hs : 0 ∈ Access.desc.spaces := .head _
  have hw : Access.desc.write = false := rfl
  simp [place, h0, hs, hw, h8, hr]

/-- A descriptor that nothing of the hart is still to write reads as its bytes. -/
theorem readDesc_ok {p : Word} {n : Nat} {bs : List Byte} (h : Descriptor s p n bs) : readDesc p n s = .ok bs s := by
  obtain ⟨h0, h8, hr, hbs, ho, ht⟩ := h
  have hops : s.ops.any (fun o => o.issuer.owner == s.cur.owner &&
      s.writesAt o (Place.ls s.me.core (s.myBase + ptrOff p)).key n) = false := by
    refine List.any_eq_false.2 fun o hm => ?_
    rw [Bool.and_eq_true, beq_iff_eq]
    exact fun ⟨h1, h2⟩ => Bool.false_ne_true ((ho o hm h1).symm.trans h2)
  simp only [readDesc, run_bind, run_get, place_desc h0 h8 hr, ownWrites_ok hops ht, run_pure, hbs]
  rfl

/-! ## Launches, kernels' status and claims (R286–R288) -/

variable {d a b : Reg} {h : HReg} {n : Nat} {bs : List Byte}

theorem launch_next (hh : ByHart s) (hn : Named s [d, a, b]) (hq : Handle s h n) (hd : Descriptor s (s.rs a) 64 bs)
    (hr : s.ctx.refusal (s.rs b).toNat (recordWords bs) = 0) {y : Queue} (hy : s.ctx.queue? (s.rs b).toNat = some y) :
    execLaunch d a b h s = .next ((((s.addLaunch n (s.rs b).toNat (y.accepted + 1)).acceptLaunch s.group.ctx (s.rs b).toNat
      (recordWords bs) (some s.cur.owner) (s.predsAt s.me.core n)).setRs d (kernelRef (s.rs b).toNat y.seq))).retire := by
  refine issue_ok (f := .seq) hh _ ?_
  simp only [run_bind, named_ok hn, seqOf_ok hh hq, run_get, readDesc_ok hd, hr, ne_eq, not_true_eq_false, if_false, hy,
    Option.getD_some, run_act, run_pure]

theorem launch_refused (hh : ByHart s) (hn : Named s [d, a, b]) (hq : Handle s h n) (hd : Descriptor s (s.rs a) 64 bs)
    (hr : s.ctx.refusal (s.rs b).toNat (recordWords bs) ≠ 0) :
    execLaunch d a b h s = .next (State.takeTrap s
      (.at .launchRefused (BitVec.ofNat 64 (s.ctx.refusal (s.rs b).toNat (recordWords bs))))
      (s.refuseLaunch s.group.ctx (s.rs b).toNat (s.ctx.refusal (s.rs b).toNat (recordWords bs)))) := by
  refine issue_hart (r := .error (.trap (.at .launchRefused _)) (s.refuseLaunch s.group.ctx (s.rs b).toNat _)) hh _ ?_
  simp only [run_bind, named_ok hn, seqOf_ok hh hq, run_get, readDesc_ok hd, if_pos hr, run_act, run_trap]

theorem kstat_next (hh : ByHart s) (hn : Named s [d, a]) (hq : Handle s h n) (hp : Prompt s n []) :
    execKstat d a h s = .next (s.setRs d (s.ctx.kernelStatus (s.rs a))).retire := by
  refine issue_ok (f := .seq) hh _ ?_
  simp only [run_bind, named_ok hn, seqOf_ok hh hq, run_get, run_set, run_pure,
    ready_ok (n := .of n .load (some d)) hp rfl rfl rfl]

/-- A claim of `g` numbers from a counter (R288). -/
def State.claimed (s : State) (d : Reg) (k g : Nat) : State :=
  let t := (s.setCtx (s.ctx.setIter k (BitVec.ofNat 64 ((s.ctx.iterAt k).1.toNat + g), (s.ctx.iterAt k).2))).setRs d
    (BitVec.ofNat 64 (s.ctx.iterAt k).1.toNat)
  t.setMe { t.me with vl := BitVec.ofNat 13 g }

theorem claim_next (hh : ByHart s) (hn : Named s [d, a, b]) (hq : Handle s h n) (hp : Prompt s n []) (hv : s.vlPending = false)
    (h3 : ptrSpace (s.rs a) = 3) {k : Nat} (hk : place s .amo 8 8 (s.rs a) = .ok (.iter k false)) :
    execClaim d a b h s = .next (s.claimed d k (Nat.min (Nat.min (s.rs b).toNat
      ((s.ctx.iterAt k).2.toNat - (s.ctx.iterAt k).1.toNat)) (16384 / s.vsew))).retire := by
  refine issue_ok (f := .seq) hh _ ?_
  simp only [run_bind, named_ok hn, seqOf_ok hh hq, run_get, hv, Bool.false_eq_true, if_false, run_pure, if_pos h3, hk,
    ready_ok (n := { Needs.of n .both (some d) with setsVl := true }) hp rfl rfl rfl, run_set]
  rfl

/-- An erased key reads as the default. -/
theorem lookupD_eraseKey_self {α : Type} (x : α) (l : List (Nat × α)) (k : Nat) : lookupD x (eraseKey l k) k = x := by
  induction l with
  | nil => rfl
  | cons p t ih =>
    by_cases hp : p.1 = k
    · rw [eraseKey, List.filter_cons_of_neg (by simpa using hp)]
      exact ih
    · rw [eraseKey, List.filter_cons_of_pos (by simpa using hp), lookupD, if_neg hp]
      exact ih

/-- A counter reads as it was set; a zero one is not listed. -/
theorem iterAt_setIter (x : Ctx) (k : Nat) (v : Word × Word) : (x.setIter k v).iterAt k = v := by
  by_cases hv : v = (0, 0)
  · rw [Ctx.setIter, Ctx.iterAt, if_pos hv, lookupD_eraseKey_self, hv]
  · rw [Ctx.setIter, Ctx.iterAt, if_neg hv, lookupD_insertKey_self]

theorem ctx_setRs (hh : ByHart s) (d : Reg) (x : Word) : (s.setRs d x).ctx = s.ctx := by
  by_cases hd : d = 0
  · rw [hd, setRs_zero]
  · rw [setRs_hart hh hd, State.ctx_setMe]

/-- What a claim leaves (R288). -/
theorem claimed_leaves (hh : ByHart s) (d : Reg) (k g : Nat) :
    let t := (s.claimed d k g).retire
    (d ≠ 0 → t.rs d = (s.ctx.iterAt k).1) ∧ t.me.vl = BitVec.ofNat 13 g ∧
      t.ctx.iterAt k = (BitVec.ofNat 64 ((s.ctx.iterAt k).1.toNat + g), (s.ctx.iterAt k).2) ∧ t.mem = s.mem := by
  intro t
  have hu : ByHart ((s.setCtx (s.ctx.setIter k (BitVec.ofNat 64 ((s.ctx.iterAt k).1.toNat + g), (s.ctx.iterAt k).2))).setRs d
      (BitVec.ofNat 64 (s.ctx.iterAt k).1.toNat)) := byHart_setRs (s := s.setCtx _) hh d _
  obtain ⟨p, q, b, hr⟩ := Hart.retire_eq (s.claimed d k g).me
  have ht : t = (s.claimed d k g).setMe { (s.claimed d k g).me with pc := p, vqueue := q, body := b } := by
    rw [← hr]
    exact retire_hart hu
  have hme : t.me.sregs = ((s.setCtx (s.ctx.setIter k (BitVec.ofNat 64 ((s.ctx.iterAt k).1.toNat + g),
      (s.ctx.iterAt k).2))).setRs d (BitVec.ofNat 64 (s.ctx.iterAt k).1.toNat)).me.sregs := by
    rw [ht, State.me_setMe, State.claimed, State.me_setMe]
  refine ⟨fun hd => ?_, ?_, ?_, ?_⟩
  · rw [rs_eq_of_sregs (s := (s.setCtx _).setRs d _) hu (t := t) (ht ▸ hu) hme,
      rs_setRs (s := s.setCtx _) hh _ hd, if_pos rfl, BitVec.ofNat_toNat, BitVec.setWidth_eq]
  · rw [ht, State.me_setMe, State.claimed, State.me_setMe]
  · rw [ht, State.ctx_setMe, State.claimed, State.ctx_setMe, ctx_setRs (s := s.setCtx _) hh, State.ctx_setCtx, iterAt_setIter]
  · rw [ht, State.setMe_mem, State.claimed, State.setMe_mem, setRs_mem]
    rfl

end

end Sys2Proof.Machine
end

section
/-! SUPPORT. The statements settled: Launches, kernels and claims (R286–R288). -/

namespace Sys2Proof.Proofs

open Sys2Proof.Machine

/-- Settles O44: the record reads as its bytes (`readDesc_ok`), and a claim moves its counter by the least of its three bounds. -/
theorem launchAndClaim : Obligations.LaunchAndClaim := by
  unfold Obligations.LaunchAndClaim
  intro d a b h n bs s hh hn hq q c
  refine ⟨fun hd hr y hy => launch_next hh hn hq hd hr hy, ?refused, ?status, ?claim⟩
  case refused =>
    rintro r hd rfl hr
    exact launch_refused hh hn hq hd hr
  case status =>
    exact kstat_next hh (named_subset hn (by simp)) hq
  case claim =>
    intro k hp hv h3 hk v g
    obtain ⟨h1, h2, h3', h4⟩ := claimed_leaves hh d k g
    exact ⟨_, claim_next hh hn hq hp hv h3 hk, h1, h2, by rw [h3'], by rw [h3'], h4⟩

end Sys2Proof.Proofs
end

section
/-! SUPPORT. Semaphores (R300–R304). -/

namespace Sys2Proof.Machine

/-! ## Latch bits (R101) -/

section

variable {s : State}

theorem mem_of_lookup? {α : Type} {l : List (Nat × α)} {k : Nat} {x : α} (h : lookup? l k = some x) : (k, x) ∈ l := by
  induction l with
  | nil => cases h
  | cons p t ih =>
    obtain ⟨j, y⟩ := p
    rw [lookup?] at h
    split at h
    next hj =>
      cases h
      rw [hj]
      exact .head _
    · exact .tail _ (ih h)

theorem lookupD_eq_getD {α : Type} (d : α) (l : List (Nat × α)) (k : Nat) : lookupD d l k = (lookup? l k).getD d := by
  induction l with
  | nil => rfl
  | cons p t ih =>
    obtain ⟨j, y⟩ := p
    rw [lookupD, lookup?]
    split
    · rfl
    · exact ih

theorem lookup?_insertKey {α : Type} (l : List (Nat × α)) (k j : Nat) (x : α) :
    lookup? (insertKey l k x) j = if j = k then some x else lookup? l j := by
  induction l with
  | nil => simp [insertKey, lookup?, eq_comm]
  | cons p t ih =>
    obtain ⟨i, y⟩ := p
    rw [insertKey]
    split
    · simp only [lookup?, eq_comm]
    · split
      next hk =>
        subst hk
        simp only [lookup?]
        by_cases hj : k = j
        · rw [if_pos hj, if_pos hj.symm]
        · rw [if_neg hj, if_neg (Ne.symm hj), if_neg hj]
      next hk =>
        rw [lookup?, ih, lookup?]
        by_cases hi : i = j
        · rw [if_pos hi, if_pos hi, if_neg (fun h => hk (h ▸ hi).symm)]
        · rw [if_neg hi, if_neg hi]

/-- The name of a hart from its key. -/
theorem hartId_of_key (k : HartId) (hr : k.rank < 64) (hh : k.hart < 8) :
    (⟨k.key / 512, k.key / 8 % 64, k.key % 8⟩ : HartId) = k := by
  obtain ⟨g, r, h⟩ := k
  simp only [HartId.key] at *
  congr 1 <;> omega

/-- What setting a latch bit of some harts leaves: the bit is set in each, and nothing but latches changes. -/
structure Latched (s t : State) (bit : Nat) (hs : List HartId) : Prop where
  hart : ∀ k, ∃ m, t.hart k = { s.hart k with latch := m } ∧
    (((s.hart k).latch.getLsbD bit = true ∨ ∃ h ∈ hs, h.key = k.key) → bit < 5 → m.getLsbD bit = true)
  cur : t.cur = s.cur
  cores : t.cores = s.cores
  mem : t.mem = s.mem
  listed : ∀ k, lookup? s.harts k ≠ none → lookup? t.harts k ≠ none

theorem latched_one (s : State) (bit : Nat) (h : HartId) : Latched s (s.latch bit h) bit [h] where
  hart k := by
    by_cases hk : k.key = h.key
    · refine ⟨(s.hart h).latch ||| BitVec.ofNat 5 (2 ^ bit), ?_, fun _ hb => ?_⟩
      · rw [State.latch, ← State.hart_eq_of_key _ hk.symm, State.hart_setHart, State.hart_eq_of_key s hk.symm]
      · rw [BitVec.getLsbD_or, BitVec.getLsbD_ofNat, Nat.testBit_two_pow_self, decide_eq_true hb]
        simp
    · refine ⟨(s.hart k).latch, State.hart_setHart_ne s _ hk, fun hb _ => ?_⟩
      rcases hb with hb | ⟨i, hi, he⟩
      · exact hb
      · rw [List.mem_singleton.1 hi] at he
        exact absurd he.symm hk
  cur := rfl
  cores := rfl
  mem := rfl
  listed k hk := by
    rw [State.latch, State.setHart_harts, lookup?_insertKey]
    split
    · exact Option.some_ne_none _
    · exact hk

theorem latched_all (bit : Nat) (hs : List HartId) (s : State) : Latched s (s.latchAll bit hs) bit hs := by
  induction hs generalizing s with
  | nil =>
    refine ⟨fun k => ⟨_, rfl, fun h _ => ?_⟩, rfl, rfl, rfl, fun _ h => h⟩
    rcases h with h | ⟨_, h, _⟩
    · exact h
    · cases h
  | cons h hs ih =>
    have h1 := latched_one s bit h
    have h2 := ih (s.latch bit h)
    refine ⟨fun k => ?_, h2.cur.trans h1.cur, h2.cores.trans h1.cores, h2.mem.trans h1.mem,
      fun k hk => h2.listed k (h1.listed k hk)⟩
    obtain ⟨m1, e1, b1⟩ := h1.hart k
    obtain ⟨m2, e2, b2⟩ := h2.hart k
    refine ⟨m2, e2.trans (by rw [e1]), fun hb h5 => b2 ?_ h5⟩
    rcases hb with hb | ⟨i, hi, he⟩
    · exact .inl (by rw [e1]; exact b1 (.inl hb) h5)
    · rcases List.mem_cons.1 hi with rfl | hi
      · exact .inl (by rw [e1]; exact b1 (.inr ⟨_, .head _, he⟩) h5)
      · exact .inr ⟨i, hi, he⟩

end

/-! ## Semaphores (R300–R304) -/

section

variable {s : State} {d a b : Reg} {h : HReg} {q : Nat}

theorem semNumber_ok (hn : (s.rs a).toNat < 64) : semNumber a s = .ok (s.rs a).toNat s := by
  simp only [semNumber, run_bind, run_get, if_pos hn, run_pure]

theorem semrd_next (hh : ByHart s) (hn : Named s [d, a]) (hq : Handle s h q) (h64 : (s.rs a).toNat < 64) (hp : Prompt s q []) :
    execSemrd d a h s = .next (s.setRs d (s.core.sem (s.rs a).toNat)).retire := by
  refine issue_ok (f := .seq) hh _ ?_
  simp only [run_bind, named_ok hn, seqOf_ok hh hq, semNumber_ok h64, ready_ok (n := .of q .load (some d)) hp rfl rfl rfl,
    run_get, run_set, run_pure]

/-- A SEMACQ of 0 reads (R301). -/
theorem semacq_zero (hh : ByHart s) (hn : Named s [d, a, b]) (hq : Handle s h q) (h64 : (s.rs a).toNat < 64) (h0 : s.rs b = 0) :
    execSemacq d a b h s = .next (s.setRs d (s.core.sem (s.rs a).toNat)).retire := by
  refine issue_ok (f := .seq) hh _ ?_
  simp only [run_bind, named_ok hn, seqOf_ok hh hq, semNumber_ok h64, run_get, if_pos h0, run_set, run_pure]

/-- A SEMACQ's own entry among the waiters. -/
def State.semWaiter (s : State) (d a b : Reg) (q : Nat) : SemWaiter :=
  ⟨(s.rs a).toNat, s.cur, s.rs b, d, q, s.predsAt s.me.core q⟩

/-- The core with a waiter behind those that wait. -/
def Core.waiting (c : Core) (w : SemWaiter) : Core := { c with waiters := c.waiters ++ [w] }

/-- What a SEMACQ of a hart that waits nowhere does: it joins the waiters, and takes its amount where it is granted (R301). -/
theorem semacq_eq (hh : ByHart s) (hn : Named s [d, a, b]) (hq : Handle s h q) (h64 : (s.rs a).toNat < 64) (h0 : s.rs b ≠ 0)
    (hw : ∀ w ∈ s.core.waiters, w.who ≠ s.cur) :
    execSemacq d a b h s = .next
      (match (s.core.waiting (s.semWaiter d a b q)).grantable (s.rs a).toNat s.holdsWaiter with
      | some x => if x.who = s.cur then
          ((s.setCore ((s.core.waiting (s.semWaiter d a b q)).takeSem x)).setRs d (s.core.sem (s.rs a).toNat)).retire
        else (s.setCore (s.core.waiting (s.semWaiter d a b q))).enterWait
      | none => (s.setCore (s.core.waiting (s.semWaiter d a b q))).enterWait) := by
  have ha : s.core.waiters.any (fun x => x.who == s.cur) = false :=
    List.any_eq_false.2 fun w hm => by simpa using hw w hm
  cases hg : (s.core.waiting (s.semWaiter d a b q)).grantable (s.rs a).toNat s.holdsWaiter with
  | none =>
    refine issue_ok (f := .stay) hh _ ?_
    simp only [Core.waiting, State.semWaiter] at hg
    simp only [run_bind, named_ok hn, seqOf_ok hh hq, semNumber_ok h64, run_get, if_neg h0, ha, Bool.false_eq_true, if_false, hg,
      run_set, run_pure]
    rfl
  | some x =>
    by_cases hx : x.who = s.cur
    · refine (issue_ok (f := .seq) hh _ ?_).trans (congrArg _ (if_pos hx).symm)
      simp only [Core.waiting, State.semWaiter] at hg
      simp only [run_bind, named_ok hn, seqOf_ok hh hq, semNumber_ok h64, run_get, if_neg h0, ha, Bool.false_eq_true, if_false, hg,
        run_set, run_pure, if_pos hx]
      rfl
    · refine (issue_ok (f := .stay) hh _ ?_).trans (congrArg _ (if_neg hx).symm)
      simp only [Core.waiting, State.semWaiter] at hg
      simp only [run_bind, named_ok hn, seqOf_ok hh hq, semNumber_ok h64, run_get, if_neg h0, ha, Bool.false_eq_true, if_false, hg,
        run_set, run_pure, if_neg hx]
      rfl

theorem find?_semWaiter (s : State) (d a b : Reg) (q : Nat) :
    [s.semWaiter d a b q].find? (fun w => w.sem == (s.rs a).toNat) = some (s.semWaiter d a b q) :=
  List.find?_cons_of_pos (p := fun w : SemWaiter => w.sem == (s.rs a).toNat) (beq_self_eq_true (s.rs a).toNat)

/-- With no one waiting before it, enough there and what precedes it performed, a SEMACQ takes its amount. -/
theorem semacq_takes (hh : ByHart s) (hn : Named s [d, a, b]) (hq : Handle s h q) (h64 : (s.rs a).toNat < 64) (h0 : s.rs b ≠ 0)
    (ho : Ordered s q) (hw : ∀ w ∈ s.core.waiters, w.sem ≠ (s.rs a).toNat ∧ w.who ≠ s.cur)
    (hv : (s.rs b).toNat ≤ (s.core.sem (s.rs a).toNat).toNat) :
    execSemacq d a b h s = .next ((s.setCore { s.core with
      sems := vecSet s.core.sems (s.rs a).toNat (s.core.sem (s.rs a).toNat - s.rs b) }).setRs d
        (s.core.sem (s.rs a).toNat)).retire := by
  have hhead : (s.core.waiting (s.semWaiter d a b q)).headWaiter (s.rs a).toNat = some (s.semWaiter d a b q) := by
    have hnone : s.core.waiters.find? (fun w => w.sem == (s.rs a).toNat) = none :=
      List.find?_eq_none.2 fun w hm => by simpa using (hw w hm).1
    rw [Core.headWaiter, Core.waiting, List.find?_append, hnone, Option.none_or, find?_semWaiter]
  have hheld : s.holdsWaiter (s.semWaiter d a b q) = false := by
    rw [State.holdsWaiter, State.semWaiter, State.heldUp, ho, List.any_nil]
  have hg : (s.core.waiting (s.semWaiter d a b q)).grantable (s.rs a).toNat s.holdsWaiter = some (s.semWaiter d a b q) := by
    rw [Core.grantable, hhead]
    exact if_pos ⟨hv, by rw [hheld]; rfl⟩
  have htake : (s.core.waiting (s.semWaiter d a b q)).takeSem (s.semWaiter d a b q) = { s.core with
      sems := vecSet s.core.sems (s.rs a).toNat (s.core.sem (s.rs a).toNat - s.rs b) } := by
    have hf : (s.core.waiters ++ [s.semWaiter d a b q]).filter (fun x => x.who != s.cur) = s.core.waiters := by
      rw [List.filter_append, List.filter_eq_self.2 fun w hm => bne_iff_ne.2 (hw w hm).2,
        List.filter_cons_of_neg (by simp [State.semWaiter]),
        List.filter_nil, List.append_nil]
    rw [Core.takeSem, Core.waiting]
    simp only [State.semWaiter] at hf ⊢
    rw [hf]
    rfl
  rw [semacq_eq hh hn hq h64 h0 fun w hm => (hw w hm).2, hg]
  simp only [htake]
  exact congrArg _ (if_pos rfl)

/-- Where something holds it up, someone waits before it, or too little is there, a SEMACQ waits behind those that wait. -/
theorem semacq_waits (hh : ByHart s) (hn : Named s [d, a, b]) (hq : Handle s h q) (h64 : (s.rs a).toNat < 64) (h0 : s.rs b ≠ 0)
    (hw : ∀ w ∈ s.core.waiters, w.who ≠ s.cur)
    (hc : (∃ id ∈ s.predsAt s.me.core q, s.holds s.cur.owner (s.scopeOf s.cur.owner q) id = true) ∨
      (∃ w ∈ s.core.waiters, w.sem = (s.rs a).toNat) ∨ (s.core.sem (s.rs a).toNat).toNat < (s.rs b).toNat) :
    execSemacq d a b h s = .next (s.setCore (s.core.waiting (s.semWaiter d a b q))).enterWait := by
  have hmem : ∀ x, (s.core.waiting (s.semWaiter d a b q)).grantable (s.rs a).toNat s.holdsWaiter = some x → x.who ≠ s.cur := by
    intro x hx
    unfold Core.grantable at hx
    split at hx
    next w hhead =>
      split at hx
      next hgr =>
        obtain ⟨hamount, hheld⟩ := hgr
        cases hx
        rw [Core.headWaiter, Core.waiting, List.find?_append, Option.or_eq_some_iff] at hhead
        rcases hhead with hhead | ⟨hnone, hself⟩
        · exact hw _ (List.mem_of_find?_eq_some hhead)
        · obtain rfl : s.semWaiter d a b q = x := by
            rw [find?_semWaiter] at hself
            exact Option.some.inj hself
          exfalso
          rcases hc with ⟨id, hid, hholds⟩ | ⟨w, hm, hsem⟩ | hlt
          · have : s.holdsWaiter (s.semWaiter d a b q) = true := List.any_eq_true.2 ⟨id, hid, hholds⟩
            rw [this] at hheld
            cases hheld
          · exact List.find?_eq_none.1 hnone w hm (beq_iff_eq.2 hsem)
          · exact absurd hamount (BitVec.not_le.2 hlt)
      · cases hx
    · cases hx
  rw [semacq_eq hh hn hq h64 h0 hw]
  split
  next x hx => rw [if_neg (hmem x hx)]
  · rfl

/-- A SEMREL of 0 sets no latch bit (log entry 45). -/
theorem semrel_zero (hh : ByHart s) (hn : Named s [a, b]) (hq : Handle s h q) (h64 : (s.rs a).toNat < 64) (hp : Prompt s q [])
    (h0 : s.rs b = 0) : execSemrel a b h s = .next s.retire := by
  refine issue_ok (f := .seq) hh _ ?_
  simp only [run_bind, named_ok hn, seqOf_ok hh hq, semNumber_ok h64, ready_ok (n := .of q .store none) hp rfl rfl rfl,
    run_get, if_pos h0, run_pure]

/-- The bound harts of the issuer's core, each of which a SEMREL's event reaches (R302). -/
def State.coreHarts (s : State) : List HartId :=
  s.harts.filterMap (fun p =>
    if p.2.core = s.me.core ∧ p.2.state ≠ .saved ∧ p.2.state ≠ .halted ∧ p.2.state ≠ .free then
      some ⟨p.1 / 512, p.1 / 8 % 64, p.1 % 8⟩
    else none)

theorem semrel_next (hh : ByHart s) (hn : Named s [a, b]) (hq : Handle s h q) (h64 : (s.rs a).toNat < 64) (hp : Prompt s q [])
    (h0 : s.rs b ≠ 0) :
    execSemrel a b h s = .next
      (if 2 ^ 64 ≤ (s.core.sem (s.rs a).toNat).toNat + (s.rs b).toNat then
        (s.latchAll 0 s.coreHarts).report (s.latchAll 0 s.coreHarts).cur .semOverflow (BitVec.ofNat 64 (s.rs a).toNat)
          (BitVec.ofNat 32 (s.latchAll 0 s.coreHarts).pc.toNat) false
      else (s.latchAll 0 s.coreHarts).setCore { (s.latchAll 0 s.coreHarts).core with
        sems := vecSet (s.latchAll 0 s.coreHarts).core.sems (s.rs a).toNat
          (BitVec.ofNat 64 ((s.core.sem (s.rs a).toNat).toNat + (s.rs b).toNat)) }).retire := by
  by_cases hov : 2 ^ 64 ≤ (s.core.sem (s.rs a).toNat).toNat + (s.rs b).toNat
  · rw [if_pos hov]
    refine issue_ok (f := .seq) hh _ ?_
    simp only [run_bind, named_ok hn, seqOf_ok hh hq, semNumber_ok h64, ready_ok (n := .of q .store none) hp rfl rfl rfl,
      run_get, if_neg h0, if_pos hov, run_set, run_pure]
    rfl
  · rw [if_neg hov]
    refine issue_ok (f := .seq) hh _ ?_
    simp only [run_bind, named_ok hn, seqOf_ok hh hq, semNumber_ok h64, ready_ok (n := .of q .store none) hp rfl rfl rfl,
      run_get, if_neg h0, if_neg hov, run_set, run_pure]
    rfl

/-- A bound hart of the issuer's core is among those that a SEMREL's event reaches. -/
theorem mem_coreHarts {k : HartId} (hr : k.rank < 64) (hk : k.hart < 8) (hl : lookup? s.harts k.key ≠ none)
    (hc : (s.hart k).core = s.me.core) (hs : (s.hart k).state ∉ [.free, .saved, .halted]) : k ∈ s.coreHarts := by
  obtain ⟨x, hx⟩ := Option.ne_none_iff_exists'.1 hl
  have he : s.hart k = x := by rw [State.hart, lookupD_eq_getD, hx, Option.getD_some]
  rw [he] at hc hs
  simp only [List.mem_cons, List.not_mem_nil, or_false, not_or] at hs
  obtain ⟨h1, h2, h3⟩ := hs
  refine List.mem_filterMap.2 ⟨(k.key, x), mem_of_lookup? hx, ?_⟩
  rw [if_pos ⟨hc, h2, h3, h1⟩, hartId_of_key k hr hk]

theorem me_latched {t : State} {bit : Nat} {hs : List HartId} (hl : Latched s t bit hs) : ∃ m, t.me = { s.me with latch := m } := by
  obtain ⟨m, hm, _⟩ := hl.hart s.cur.owner
  exact ⟨m, by rw [State.me, hl.cur, hm]; rfl⟩

theorem core_latched {t : State} {bit : Nat} {hs : List HartId} (hl : Latched s t bit hs) : t.core = s.core := by
  obtain ⟨m, hm⟩ := me_latched hl
  rw [State.core, hm, State.coreAt, hl.cores]
  rfl

/-- Going to the next word changes a hart's PC and what is left of its replay only. -/
theorem hart_retire (hh : ByHart s) (k : HartId) : ∃ p q b, s.retire.hart k = { s.hart k with pc := p, vqueue := q, body := b } := by
  rw [retire_hart hh]
  by_cases hk : k.key = s.cur.owner.key
  · obtain ⟨p, q, b, hr⟩ := Hart.retire_eq s.me
    exact ⟨p, q, b, by rw [State.hart_eq_of_key _ hk, State.hart_eq_of_key s hk, hr]; exact State.me_setMe ..⟩
  · exact ⟨_, _, _, State.hart_setHart_ne s _ hk⟩

theorem core_retire (hh : ByHart s) : s.retire.core = s.core := by
  obtain ⟨p, q, b, hr⟩ := Hart.retire_eq s.me
  rw [retire_hart hh, hr]
  exact State.core_setMe_core _ _ rfl

/-- A report about what a hart does now goes to that hart, where it is still there (R85). -/
theorem report_hart (hh : ByHart s) (c : Cause) (v : Word) (pc : BitVec 32) :
    s.report s.cur c v pc false = if lookup? s.harts s.cur.owner.key = none then s
      else s.setMe { s.me with reports := s.me.reports ++ [⟨c, v, 0, .none, 0, true⟩] } := by
  obtain ⟨k, hk⟩ := hh
  simp only [State.report, State.reportBy, hk, Option.isNone_iff_eq_none, State.setMe, State.me]
  rfl

theorem mem_report (hh : ByHart s) (c : Cause) (v : Word) (pc : BitVec 32) : (s.report s.cur c v pc false).mem = s.mem := by
  rw [report_hart hh]
  split <;> rfl

/-- What a SEMREL of an amount leaves (R302). -/
theorem semrel_leaves (hh : ByHart s) (hn : Named s [a, b]) (hq : Handle s h q) (h64 : (s.rs a).toNat < 64) (hp : Prompt s q [])
    (h0 : s.rs b ≠ 0) :
    let n := (s.rs a).toNat
    let v := s.core.sem n
    ∃ t, execSemrel a b h s = .next t ∧ t.mem = s.mem ∧ (∀ r, t.rs r = s.rs r) ∧
      (∀ k < 64, k ≠ n → t.core.sem k = s.core.sem k) ∧
      (∀ k : HartId, k.rank < 64 → k.hart < 8 → lookup? s.harts k.key ≠ none → (s.hart k).core = s.me.core →
        (s.hart k).state ∉ [.free, .saved, .halted] → (t.hart k).latch.getLsbD 0 = true) ∧
      (v.toNat + (s.rs b).toNat < 2 ^ 64 → t.core.sem n = v + s.rs b) ∧
      (2 ^ 64 ≤ v.toNat + (s.rs b).toNat → lookup? s.harts s.cur.owner.key ≠ none →
        t.core.sem n = v ∧ t.me.reports = s.me.reports ++ [⟨.semOverflow, BitVec.ofNat 64 n, 0, .none, 0, true⟩]) := by
  intro n v
  refine ⟨_, semrel_next hh hn hq h64 hp h0, ?_⟩
  have hl := latched_all 0 s.coreHarts s
  generalize s.latchAll 0 s.coreHarts = u at hl ⊢
  have hu : ByHart u := by rw [ByHart, hl.cur]; exact hh
  obtain ⟨m, hme⟩ := me_latched hl
  have hcore := core_latched hl
  have hlatch : ∀ k : HartId, k.rank < 64 → k.hart < 8 → lookup? s.harts k.key ≠ none → (s.hart k).core = s.me.core →
      (s.hart k).state ∉ [.free, .saved, .halted] → (u.hart k).latch.getLsbD 0 = true := by
    intro k hr hk hlk hc hs
    obtain ⟨m, he, hb⟩ := hl.hart k
    rw [he]
    exact hb (.inr ⟨k, mem_coreHarts hr hk hlk hc hs, rfl⟩) (by decide)
  -- what a state leaves that differs from this one by reports and by the semaphore only
  have leaves : ∀ x : State, x.cur = u.cur → x.mem = u.mem → (∀ k, ∃ r, x.hart k = { u.hart k with reports := r }) →
      (∀ k < 64, k ≠ n → x.core.sem k = s.core.sem k) →
      x.retire.mem = s.mem ∧ (∀ r, x.retire.rs r = s.rs r) ∧ (∀ k < 64, k ≠ n → x.retire.core.sem k = s.core.sem k) ∧
        (∀ k : HartId, k.rank < 64 → k.hart < 8 → lookup? s.harts k.key ≠ none → (s.hart k).core = s.me.core →
          (s.hart k).state ∉ [.free, .saved, .halted] → (x.retire.hart k).latch.getLsbD 0 = true) := by
    intro x hc hm hx hsem
    have hxh : ByHart x := by rw [ByHart, hc]; exact hu
    refine ⟨by rw [retire_mem, hm, hl.mem], fun r => ?_, fun k h1 h2 => by rw [core_retire hxh, hsem k h1 h2],
      fun k h1 h2 h3 h4 h5 => ?_⟩
    · obtain ⟨r', hr'⟩ := hx x.cur.owner
      have hsr : x.me.sregs = s.me.sregs := by
        rw [State.me, hr', hc]
        exact (by rw [hme] : u.me.sregs = s.me.sregs)
      rw [rs_retire hxh, rs_eq_of_sregs hh hxh hsr]
    · obtain ⟨p, q', b', hr⟩ := hart_retire hxh k
      obtain ⟨r', hr'⟩ := hx k
      rw [hr, hr']
      exact hlatch k h1 h2 h3 h4 h5
  by_cases hov : 2 ^ 64 ≤ v.toNat + (s.rs b).toNat
  · rw [if_pos hov]
    have hx := report_hart hu .semOverflow (BitVec.ofNat 64 n) (BitVec.ofNat 32 u.pc.toNat)
    have hmem := mem_report hu .semOverflow (BitVec.ofNat 64 n) (BitVec.ofNat 32 u.pc.toNat)
    generalize u.report u.cur .semOverflow (BitVec.ofNat 64 n) (BitVec.ofNat 32 u.pc.toNat) false = x at hx hmem ⊢
    have hxc : x.cur = u.cur := by
      rw [hx]
      split <;> rfl
    have hxcore : x.core = s.core := by
      rw [hx, ← hcore]
      split
      · rfl
      · exact State.core_setMe_core _ _ rfl
    have hxh : ByHart x := by rw [ByHart, hxc]; exact hu
    have hxk : ∀ k, ∃ r, x.hart k = { u.hart k with reports := r } := by
      intro k
      rw [hx]
      split
      · exact ⟨_, rfl⟩
      · by_cases hk : k.key = u.cur.owner.key
        · exact ⟨_, by rw [State.hart_eq_of_key _ hk, State.hart_eq_of_key u hk]; exact State.me_setMe ..⟩
        · exact ⟨_, State.hart_setHart_ne u _ hk⟩
    obtain ⟨h1, h2, h3, h4⟩ := leaves x hxc hmem hxk (fun k _ _ => by rw [hxcore])
    refine ⟨h1, h2, h3, h4, fun hlt => absurd hov (by omega), fun _ hlk => ⟨by rw [core_retire hxh, hxcore], ?_⟩⟩
    obtain ⟨p, q', b', hr⟩ := Hart.retire_eq x.me
    rw [retire_hart hxh, State.me_setMe, hr, hx, if_neg (by rw [hl.cur]; exact hl.listed _ hlk), State.me_setMe, hme]
  · rw [if_neg hov]
    have hsem : ∀ k < 64, (u.setCore { u.core with
        sems := vecSet u.core.sems n (BitVec.ofNat 64 (v.toNat + (s.rs b).toNat)) }).core.sem k =
        if k = n then BitVec.ofNat 64 (v.toNat + (s.rs b).toNat) else s.core.sem k := by
      intro k hk
      rw [State.core_setCore, Core.sem, vecGet_vecSet, hcore]
      by_cases hkn : k = n
      · rw [if_pos ⟨hkn, h64⟩, if_pos hkn]
      · rw [if_neg (fun h => hkn h.1), if_neg hkn, Core.sem]
    obtain ⟨h1, h2, h3, h4⟩ := leaves (u.setCore { u.core with
      sems := vecSet u.core.sems n (BitVec.ofNat 64 (v.toNat + (s.rs b).toNat)) }) rfl rfl (fun k => ⟨_, rfl⟩)
      (fun k hk hkn => (hsem k hk).trans (if_neg hkn))
    refine ⟨h1, h2, h3, h4, fun hlt => ?_, fun h => absurd h hov⟩
    rw [core_retire (s := u.setCore _) hu, hsem n h64, if_pos rfl]
    exact BitVec.eq_of_toNat_eq (by rw [BitVec.toNat_ofNat, BitVec.toNat_add])

/-- The waiter at the head of a queue, where it finds enough and nothing holds it up, takes its amount and goes on (R301). -/
theorem semaphoreGrant_next {core n : Nat} {w : SemWaiter} {k : HartId} (hw : (s.coreAt core).headWaiter n = some w)
    (hv : w.amount.toNat ≤ ((s.coreAt core).sem n).toNat) (hp : ∀ p ∈ w.preds, s.alive p = false) (hk : w.who = .hart k)
    (hr : (s.hart k).state = .wait) :
    execSemaphoreGrant core n s = .next ((s.setCoreAt core ((s.coreAt core).takeSem w)).grant w ((s.coreAt core).sem n)) := by
  have hheld : s.holdsWaiter w = false := by
    refine List.any_eq_false.2 fun p hm => ?_
    rw [State.holds, hp p hm, Bool.false_and]
    exact Bool.false_ne_true
  have hg : (s.coreAt core).grantable n s.holdsWaiter = some w := by
    rw [Core.grantable, hw]
    exact if_pos ⟨hv, by rw [hheld]; rfl⟩
  have hin : s.heldIn w = true := by
    simp only [State.heldIn, hk, Issuer.owner, hr]
    rfl
  refine (event_true rfl _ s).trans ?_
  simp only [hg, hin, if_true]

end

end Sys2Proof.Machine
end

section
/-! SUPPORT. The statements settled: Semaphores (R300–R304). -/

namespace Sys2Proof.Proofs

open Sys2Proof.Machine

/-- Settles O42: a SEMACQ joins the waiters and takes its amount where it is granted (`semacq_eq`), a SEMREL changes latches and
its semaphore or the issuer's reports (`semrel_leaves`), and a grant is the head waiter's. -/
theorem semaphores : Obligations.Semaphores := by
  unfold Obligations.Semaphores
  refine ⟨?instructions, ?grant⟩
  case instructions =>
    intro d a b h q s hh hn hq n h64 v x
    have hn2 : Named s [d, a] := named_subset hn (by simp)
    have hn3 : Named s [a, b] := named_subset hn (by simp)
    exact ⟨fun h0 ho hw hv => semacq_takes hh hn hq h64 h0 ho hw hv, fun h0 hw hc => semacq_waits hh hn hq h64 h0 hw hc,
      fun h0 => semacq_zero hh hn hq h64 h0, fun hp => ⟨semrd_next hh hn2 hq h64 hp, fun h0 => semrel_zero hh hn3 hq h64 hp h0,
        fun h0 => semrel_leaves hh hn3 hq h64 hp h0⟩⟩
  case grant =>
    intro core n w k s hw hv hp hk hr h64 hd
    have hsem : w.sem = n := beq_iff_eq.1 (List.find?_some (p := fun w : SemWaiter => w.sem == n) hw)
    refine ⟨_, semaphoreGrant_next hw hv hp hk hr, ?_⟩
    simp only [State.grant, hk, Issuer.owner, State.hart_setHart, State.coreAt_setHart, State.coreAt_setCoreAt, if_neg hd,
      State.hart_setCoreAt]
    refine ⟨?_, trivial, trivial, ?_, fun x hx => ?_⟩
    · rw [Core.takeSem, Core.sem, hsem]
      exact (vecGet_vecSet ..).trans (if_pos ⟨rfl, h64⟩)
    · exact (vecGet_vecSet ..).trans (if_pos ⟨rfl, w.dest.isLt⟩)
    · have := (List.mem_filter.1 hx).2
      rwa [hk, bne_iff_ne] at this

end Sys2Proof.Proofs
end

section
/-! SUPPORT. Barriers (R308–R320). -/

namespace Sys2Proof.Machine

/-! ## Barriers (R308–R320) -/

/-- A fold of steps that keep a part of the state keeps it. -/
theorem foldl_keeps {α β : Type} (p : State → β) {f : State → α → State} (hf : ∀ s x, p (f s x) = p s) (l : List α) (s : State) :
    p (l.foldl f s) = p s := by
  induction l generalizing s with
  | nil => rfl
  | cons x t ih => rw [List.foldl_cons, ih, hf]

@[simp] theorem releaseWaiter_cur (phase : BitVec 32) (b : Nat) (s : State) (h : HartId) :
    (State.releaseWaiter phase b s h).cur = s.cur := by
  unfold State.releaseWaiter
  split
  · split <;> rfl
  · rfl

@[simp] theorem releaseEmpty_cur (b : Nat) (s : State) (h : HartId) : (State.releaseEmpty b s h).cur = s.cur := by
  unfold State.releaseEmpty
  split
  · split
    · exact releaseWaiter_cur ..
    · rfl
  · rfl

@[simp] theorem completePhase_cur (s : State) (g b : Nat) : (s.completePhase g b).cur = s.cur := by
  unfold State.completePhase
  rw [foldl_keeps State.cur (releaseWaiter_cur _ b)]
  exact (latched_all 2 _ _).cur

@[simp] theorem testBarrier_cur (s : State) (g b : Nat) : (s.testBarrier g b).cur = s.cur := by
  unfold State.testBarrier
  dsimp only
  split
  · split
    · split
      · exact completePhase_cur ..
      · rfl
    · have hc : ∀ c : Bool, (if c = true then s.completePhase g b else s).cur = s.cur := by
        intro c
        split
        · exact completePhase_cur ..
        · rfl
      split
      · rw [foldl_keeps State.cur (releaseEmpty_cur b)]
        exact hc _
      · exact hc _
  · rfl

section

variable {s : State} {d a b : Reg} {h : HReg} {q : Nat}

theorem barNumber_ok (hn : (s.rs a).toNat < 32) : barNumber a s = .ok (s.rs a).toNat s := by
  simp only [barNumber, run_bind, run_get, if_pos hn, run_pure]

/-- An access to no word waits for none (R84). -/
theorem touching_nil (k : HartId) (n : Nat) : s.touching k [] n = false := by
  refine List.any_eq_false.2 fun o _ ht => ?_
  obtain ⟨_, hk⟩ := (Bool.and_eq_true ..).mp ht
  split at hk
  · obtain ⟨_, _, hy⟩ := List.any_eq_true.1 hk
    cases hy
  · obtain ⟨_, _, hy⟩ := List.any_eq_true.1 hk
    cases hy
  · cases hk

theorem prompt_nil (ho : Ordered s q) (hl : s.late = false) : Prompt s q [] :=
  ⟨ho, touching_nil .., fun _ _ _ => rfl, hl⟩

theorem barq_next (hh : ByHart s) (hn : Named s [d, a]) (h32 : (s.rs a).toNat < 32) :
    execBarq d a s = .next (s.setRs d (s.barrierStatus s.cur.owner.group (s.rs a).toNat)).retire := by
  refine issue_ok (f := .seq) hh _ ?_
  simp only [run_bind, named_ok hn, barNumber_ok h32, run_get, run_set, run_pure]

/-! ### BARINIT -/

theorem barinit_next (hh : ByHart s) (hn : Named s [a, b]) (h32 : (s.rs a).toNat < 32)
    (hv : barValid (s.rs b) s.group.harts = true)
    (hs : (s.barrier s.cur.owner.group (s.rs a).toNat).state ≠ .armed) :
    execBarinit a b s = .next (s.armBarrier s.cur.owner.group (s.rs a).toNat (s.rs b)).retire := by
  refine issue_ok (f := .seq) hh _ ?_
  simp only [run_bind, named_ok hn, barNumber_ok h32, run_get, hv, Bool.true_eq_false, if_false, if_neg hs, run_set, run_pure]

theorem barinit_same (hh : ByHart s) (hn : Named s [a, b]) (h32 : (s.rs a).toNat < 32)
    (hv : barValid (s.rs b) s.group.harts = true)
    (hs : (s.barrier s.cur.owner.group (s.rs a).toNat).state = .armed)
    (hc : (s.barrier s.cur.owner.group (s.rs a).toNat).cfg = s.rs b) : execBarinit a b s = .next s.retire := by
  refine issue_ok (f := .seq) hh _ ?_
  simp only [run_bind, named_ok hn, barNumber_ok h32, run_get, hv, Bool.true_eq_false, if_false, if_pos hs, if_pos hc, run_pure]

theorem barinit_again (hh : ByHart s) (hn : Named s [a, b]) (h32 : (s.rs a).toNat < 32)
    (hv : barValid (s.rs b) s.group.harts = true)
    (hs : (s.barrier s.cur.owner.group (s.rs a).toNat).state = .armed)
    (hc : (s.barrier s.cur.owner.group (s.rs a).toNat).cfg ≠ s.rs b) :
    execBarinit a b s = .next ((s.breakBarrier s.cur.owner.group (s.rs a).toNat).armBarrier s.cur.owner.group (s.rs a).toNat
      (s.rs b)).retire := by
  refine issue_ok (f := .seq) hh _ ?_
  simp only [run_bind, named_ok hn, barNumber_ok h32, run_get, hv, Bool.true_eq_false, if_false, if_pos hs, if_neg hc, run_set,
    run_pure]

/-! ### Arrivals -/

/-- The barrier of the issuer's group. -/
def State.bar (s : State) (n : Nat) : Barrier := s.barrier s.cur.owner.group n

/-- The state after the issuer's first arrival at a barrier, with its test (R311, R317). -/
def State.arrivedAt (s : State) (n : Nat) : State :=
  (s.setBarrier s.cur.owner.group n { s.bar n with arrived := (s.bar n).arrived ++ [s.cur.owner.num] }).testBarrier
    s.cur.owner.group n

theorem arrives_armed {n : Nat} (hs : (s.bar n).state = .armed) (hm : barMember (s.bar n).cfg s.cur.owner = true) :
    arrives n s = .ok true s := by
  rw [State.bar] at hs hm
  simp only [arrives, run_bind, run_get, hs, hm, if_true, run_pure]

/-- An arrival at an armed barrier gives the phase; a second one is not noted (R317). -/
theorem arrive_armed {n : Nat} (hs : (s.bar n).state = .armed) (hm : barMember (s.bar n).cfg s.cur.owner = true) :
    arrive n s = .ok (s.bar n).phase (if (s.bar n).arrived.contains s.cur.owner.num then s else s.arrivedAt n) := by
  rw [State.arrivedAt]
  rw [State.bar] at hs hm ⊢
  simp only [arrive, run_bind, run_get, hs, hm, if_true]
  split
  · simp only [run_pure]
  · simp only [run_act, run_bind, run_pure]

/-- The needs of an arrival (R317, R321). -/
def arrivalNeeds (q : Nat) (d : Reg) : Needs := .access q .barrier (some d) []

theorem bararr_next (hh : ByHart s) (hn : Named s [d, a]) (hq : Handle s h q) (h32 : (s.rs a).toNat < 32)
    (hs : (s.bar (s.rs a).toNat).state = .armed) (hm : barMember (s.bar (s.rs a).toNat).cfg s.cur.owner = true)
    (hr : ready (arrivalNeeds q d) s = .ok () s) :
    execBararr d a h s = .next ((if (s.bar (s.rs a).toNat).arrived.contains s.cur.owner.num then s
      else s.arrivedAt (s.rs a).toNat).setRs d ((s.bar (s.rs a).toNat).phase.setWidth 64)).retire := by
  refine issue_ok (f := .seq) hh _ ?_
  have hr' : ready { Needs.of q .load (some d) with cls := .barrier } s = .ok () s := hr
  simp only [run_bind, named_ok hn, seqOf_ok hh hq, barNumber_ok h32, arrives_armed hs hm, if_true, hr', arrive_armed hs hm,
    run_act, run_pure]

theorem bararr_defer (hh : ByHart s) (hn : Named s [d, a]) (hq : Handle s h q) (h32 : (s.rs a).toNat < 32)
    (hs : (s.bar (s.rs a).toNat).state = .armed) (hm : barMember (s.bar (s.rs a).toNat).cfg s.cur.owner = true)
    (hr : s.performsNow (arrivalNeeds q d) = false) : execBararr d a h s = .next (s.deferTo (arrivalNeeds q d)) := by
  refine issue_defer (t := s) (n := arrivalNeeds q d) hh _ ?_
  have hr' : ready { Needs.of q .load (some d) with cls := .barrier } s = .error (.defer (arrivalNeeds q d)) s :=
    ready_defer hh hr
  simp only [run_bind, named_ok hn, seqOf_ok hh hq, barNumber_ok h32, arrives_armed hs hm, if_true, hr']

/-! ### Waits -/

theorem passed_armed {n : Nat} {tok : BitVec 32} (hs : (s.bar n).state = .armed) :
    passed n tok s = .ok (tokenBelow (s.bar n).phase tok) s := by
  rw [State.bar] at hs ⊢
  have hf : ¬BarState.armed = BarState.free := nofun
  have he : ¬BarState.armed = BarState.empty := nofun
  have hb : ¬BarState.armed = BarState.broken := nofun
  simp only [passed, run_bind, run_get, hs, if_neg hf, if_neg hb, or_iff_left he]
  cases tokenBelow _ tok <;> rfl

theorem barwait_next (hh : ByHart s) (hn : Named s [a, b]) (hq : Handle s h q) (h32 : (s.rs a).toNat < 32)
    (hs : (s.bar (s.rs a).toNat).state = .armed) :
    execBarwait a b h s = .next (if tokenBelow (s.bar (s.rs a).toNat).phase ((s.rs b).setWidth 32) then s.retire
      else s.enterWait) := by
  cases ht : tokenBelow (s.bar (s.rs a).toNat).phase ((s.rs b).setWidth 32) with
  | true =>
    refine issue_ok (f := .seq) hh _ ?_
    simp only [run_bind, named_ok hn, seqOf_ok hh hq, barNumber_ok h32, run_get, passed_armed hs, ht, if_true, run_pure]
  | false =>
    refine issue_hart (r := .error .wait s) hh _ ?_
    simp only [run_bind, named_ok hn, seqOf_ok hh hq, barNumber_ok h32, run_get, passed_armed hs, ht, Bool.false_eq_true,
      if_false, run_throw]

/-! ### BARARW -/

/-- The hart with its barrier-wait record (R319). -/
def State.withRecord (s : State) (r : Option (Nat × BitVec 32)) : State := s.setMe { s.me with barRec := r }

theorem named_setMe {x : Hart} {rs : List Reg} (hn : Named s rs) (hv : x.vset = s.me.vset)
    (hp : x.pending = s.me.pending) (hl : x.lanes = s.me.lanes) : Named (s.setMe x) rs := by
  intro r hr
  obtain ⟨h1, h2, h3⟩ := hn r hr
  have hb : (s.setMe x).binds = s.binds := by rw [binds_setMe, hv, binds_eq]
  rw [State.me_setMe, hp, hl, State.bindOf, hb]
  exact ⟨h1, h2, h3⟩

theorem handle_setMe (hh : ByHart s) {x : Hart} (hq : Handle s h q) (hr : x.hregs = s.me.hregs) (hc : x.core = s.me.core) :
    Handle (s.setMe x) h q := by
  obtain ⟨k, hk⟩ := hh
  obtain ⟨h1, h2⟩ := hq
  have hc' : (s.setMe x).cur = .hart k := hk
  simp only [State.hregs, hk] at h1
  refine ⟨?_, by rw [State.core_setMe_core _ _ hc]; exact h2⟩
  simp only [State.hregs, hc', State.me_setMe, hr, h1]

theorem ordered_setMe {x : Hart} (ho : Ordered s q) (hc : x.core = s.me.core) : Ordered (s.setMe x) q := by
  rw [Ordered, State.me_setMe, hc]
  exact ho

/-- The end of BARARW on a token: it goes on once the phase has passed it, and records it while it waits (R319). -/
def State.awaited (u : State) (n : Nat) (d : Reg) (tok : BitVec 32) : State :=
  if tokenBelow (u.bar n).phase tok then (u.setRs d (tok.setWidth 64)).retire
  else (u.withRecord (some (n, tok))).enterWait

theorem bararw_eq {u : State} {tok : BitVec 32} (hh : ByHart s) (hn : Named s [d, a]) (hq : Handle s h q)
    (h32 : (s.rs a).toNat < 32) (hs : (u.bar (s.rs a).toNat).state = .armed)
    (ht : (recordedToken s.me.barRec (s.rs a).toNat = some tok ∧ u = s.withRecord none) ∨
      (recordedToken s.me.barRec (s.rs a).toNat = none ∧ settled q 2 (s.withRecord none) = .ok () (s.withRecord none) ∧
        arrive (s.rs a).toNat (s.withRecord none) = .ok tok u)) :
    execBararw d a h s = .next (u.awaited (s.rs a).toNat d tok) := by
  have hn' : Named (s.withRecord none) [d, a] := named_setMe hn rfl rfl rfl
  have hq' : Handle (s.withRecord none) h q := handle_setMe hh hq rfl rfl
  have hrs : (s.withRecord none).rs a = s.rs a :=
    rs_eq_of_sregs (t := s.withRecord none) hh hh (by rw [State.withRecord, State.me_setMe]) a
  have hb : barNumber a (s.withRecord none) = .ok (s.rs a).toNat (s.withRecord none) := by
    rw [← hrs] at h32 ⊢
    exact barNumber_ok h32
  have hseq := seqOf_ok (s := s.withRecord none) hh hq'
  refine (issue_hart hh _ rfl).trans (congrArg _ ?_)
  simp only [run_bind, run_act]
  rw [← State.withRecord, named_ok hn', State.awaited]
  simp only [hseq, hb]
  have hend := passed_armed (tok := tok) hs
  rcases ht with ⟨hrec, rfl⟩ | ⟨hrec, hset, harr⟩
  · simp only [hrec, run_bind, run_pure, hend]
    cases tokenBelow _ tok
    · simp only [Bool.false_eq_true, if_false, run_bind, run_act, run_pure, finish_stay]
      rfl
    · simp only [if_true, run_bind, run_act, run_pure, finish_seq]
  · simp only [hrec, run_bind, hset, harr, hend]
    cases tokenBelow _ tok
    · simp only [Bool.false_eq_true, if_false, run_bind, run_act, run_pure, finish_stay]
      rfl
    · simp only [if_true, run_bind, run_act, run_pure, finish_seq]

theorem recordedToken_none {r : Option (Nat × BitVec 32)} {n : Nat} (h : ∀ t, r ≠ some (n, t)) : recordedToken r n = none := by
  unfold recordedToken
  split
  next m t =>
    by_cases hm : m = n
    · exact absurd (by rw [hm]) (h t)
    · exact if_neg hm
  · rfl

theorem recordedToken_some (n : Nat) (t : BitVec 32) : recordedToken (some (n, t)) n = some t := if_pos rfl

/-- A BARARW without a record that arrives first waits on its phase (R319). -/
theorem bararw_arrives (hh : ByHart s) (hn : Named s [d, a]) (hq : Handle s h q) (h32 : (s.rs a).toNat < 32)
    (hs : (s.bar (s.rs a).toNat).state = .armed) (hm : barMember (s.bar (s.rs a).toNat).cfg s.cur.owner = true) (ho : Ordered s q)
    (hc : (s.bar (s.rs a).toNat).arrived.contains s.cur.owner.num = false) (hr : ∀ t, s.me.barRec ≠ some ((s.rs a).toNat, t))
    (hu : (((s.withRecord none).arrivedAt (s.rs a).toNat).bar (s.rs a).toNat).state = .armed) :
    execBararw d a h s = .next (((s.withRecord none).arrivedAt (s.rs a).toNat).awaited (s.rs a).toNat d
      (s.bar (s.rs a).toNat).phase) := by
  refine bararw_eq hh hn hq h32 hu (.inr ⟨recordedToken_none hr, settled_ok 2 (ordered_setMe ho rfl), ?_⟩)
  refine (arrive_armed (s := s.withRecord none) hs hm).trans ?_
  have hc' : ((s.withRecord none).bar (s.rs a).toNat).arrived.contains (s.withRecord none).cur.owner.num = false := hc
  rw [hc']
  rfl

/-- A BARARW that finds its record waits on the recorded token (R319). -/
theorem bararw_recorded {tok : BitVec 32} (hh : ByHart s) (hn : Named s [d, a]) (hq : Handle s h q) (h32 : (s.rs a).toNat < 32)
    (hs : (s.bar (s.rs a).toNat).state = .armed) (hr : s.me.barRec = some ((s.rs a).toNat, tok)) :
    execBararw d a h s = .next ((s.withRecord none).awaited (s.rs a).toNat d tok) :=
  bararw_eq (u := s.withRecord none) hh hn hq h32 hs (.inl ⟨by rw [hr, recordedToken_some], rfl⟩)

theorem arrivedAt_cur (s : State) (n : Nat) : (s.arrivedAt n).cur = s.cur := testBarrier_cur ..

/-- An arrival that something holds, or that the move leaves for later, does not perform now. -/
theorem performsNow_arrival (hc : s.late = true ∨ ∃ id ∈ s.predsAt s.me.core q,
    s.holds s.cur.owner (max 2 (s.scopeOf s.cur.owner q)) id = true) : s.performsNow (arrivalNeeds q d) = false := by
  rcases hc with hl | ⟨id, hid, hh⟩
  · simp [State.performsNow, hl]
  · have hs : s.scopeFor s.cur.owner (arrivalNeeds q d) = max 2 (s.scopeOf s.cur.owner q) := rfl
    have ha : (s.precede (arrivalNeeds q d)).any (s.holds s.cur.owner (s.scopeFor s.cur.owner (arrivalNeeds q d))) = true :=
      List.any_eq_true.2 ⟨id, hid, by rw [hs]; exact hh⟩
    have hf : s.follows s.cur.owner (arrivalNeeds q d) (s.precede (arrivalNeeds q d)) = false := by
      rw [State.follows, ha]
      rfl
    simp [State.performsNow, hf]

theorem retire_groups (s : State) : s.retire.groups = s.groups := by
  unfold State.retire
  split <;> rfl

/-- What a hart leaves that issues an access to be performed later keeps every group. -/
theorem groups_deferTo {cls : OpClass} {dest : Option Reg} {touch : List Nat} (hh : ByHart s) :
    (s.deferTo (.access q cls dest touch)).groups = s.groups := by
  obtain ⟨k, hk⟩ := hh
  have hi : ∀ u : State, u.cur = .hart k → (u.issued (.access q cls dest touch)).groups = u.groups := by
    intro u hu
    unfold State.issued
    rw [hu]
    cases dest with
    | none => exact retire_groups _
    | some d => exact retire_groups _
  have hd : s.deferTo (.access q cls dest touch) = (s.pushLate (.access q cls dest touch)).issued (.access q cls dest touch) := by
    simp only [State.deferTo, hk]
    exact if_neg Bool.false_ne_true
  have hc : (s.pushLate (.access q cls dest touch)).cur = .hart k := hk
  rw [hd, hi _ hc]
  rfl

end

end Sys2Proof.Machine
end

section
/-! SUPPORT. The statements settled: Barriers (R308–R320). -/

namespace Sys2Proof.Proofs

open Sys2Proof.Machine

/-- Settles O43: an arrival at an armed barrier gives its phase (`arrive_armed`), and a wait on a token ends as the phase says
(`passed_armed`, `State.awaited`). -/
theorem barriers : Obligations.Barriers := by
  unfold Obligations.Barriers
  intro d a b h q s hh hn hq n g x me h32
  have hda : Named s [d, a] := named_subset hn (by simp)
  have hab : Named s [a, b] := named_subset hn (by simp)
  refine ⟨fun hv => ⟨barinit_next hh hab h32 hv, barinit_same hh hab h32 hv, barinit_again hh hab h32 hv⟩, ?held, ?arrives,
    ⟨?first, ?recorded⟩, ?passes, ?waits, barq_next hh hda h32⟩
  case held =>
    intro hs hm hc
    have hnow := performsNow_arrival (d := d) hc
    refine ⟨_, bararr_defer hh hda hq h32 hs hm hnow, ?_⟩
    obtain ⟨⟨o, h1, h2, h3, _⟩, _⟩ := deferTo_next (n := arrivalNeeds q d) hh rfl rfl
    obtain ⟨_, hpend⟩ := deferTo_access (q := q) (cls := .barrier) (dest := some d) (touch := []) hh
    refine ⟨⟨o, h1, h2, h3⟩, groups_deferTo hh, ?_, fun hd => ?_⟩
    · rw [arrivalNeeds, deferTo_me hh, Hart.retire_pc, Hart.retire_pc]
      obtain ⟨p, hp⟩ := Hart.mark_eq s.me d
      rw [Option.map_some, Option.getD_some, hp]
    · rw [arrivalNeeds, hpend]
      exact Hart.bitOf_mark hd
  case arrives =>
    intro hs hm ho hl
    have hnext := bararr_next hh hda hq h32 hs hm (ready_access (prompt_nil ho hl))
    constructor
    · intro hc
      rw [State.bar, hc] at hnext
      exact hnext
    · intro hc
      rw [State.bar, hc] at hnext
      exact hnext
  case first =>
    intro hs hm ho hc hr hu
    have hcur : ((s.withRecord none).arrivedAt n).cur = s.cur := arrivedAt_cur ..
    have hbar : ((s.withRecord none).arrivedAt n).bar n = ((s.withRecord none).arrivedAt n).barrier g n := by rw [State.bar, hcur]
    have hnext := bararw_arrives hh hda hq h32 hs hm ho hc hr (by rw [hbar]; exact hu)
    rw [State.awaited, hbar] at hnext
    constructor
    · intro ht
      exact hnext.trans (congrArg _ (if_neg (fun h => Bool.false_ne_true (ht.symm.trans h))))
    · intro ht
      exact hnext.trans (congrArg _ (if_pos ht))
  case recorded =>
    intro tok hs hr
    have hnext := bararw_recorded hh hda hq h32 hs hr
    constructor
    · intro ht
      exact hnext.trans (congrArg _ (if_neg (fun h => Bool.false_ne_true (ht.symm.trans h))))
    · intro ht
      exact hnext.trans (congrArg _ (if_pos ht))
  case passes =>
    intro hs ht
    exact (barwait_next hh hab hq h32 hs).trans (congrArg _ (if_pos ht))
  case waits =>
    intro hs ht
    refine (barwait_next hh hab hq h32 hs).trans (congrArg _ ((if_neg (fun h => Bool.false_ne_true (ht.symm.trans h))).trans ?_))
    obtain ⟨k, hk⟩ := hh
    simp only [State.enterWait, hk]

end Sys2Proof.Proofs
end

section
/-! SUPPORT. Queues and their control (R269–R276). -/

namespace Sys2Proof.Machine

/-! ## The control values of a queue (R270–R276) -/

section

variable {s : State} {c q : Nat} {y : Queue}

theorem submit_next (hy : (s.ctxAt c).queue? q = some y) :
    execSubmit c q s = .next (if (s.ctxAt c).refusal q y.stage = 0 then s.acceptLaunch c q y.stage none []
      else s.refuseLaunch c q ((s.ctxAt c).refusal q y.stage)) := by
  refine (event_true (by rw [hy]; rfl) _ s).trans ?_
  simp only [hy, Option.getD_some]

/-- A control value whose queue is in a state that it applies to has its effect. -/
theorem control_next {ok : Queue → Bool} (f : Queue → Queue) (hy : (s.ctxAt c).queue? q = some y)
    (hs : (s.ctxAt c).state ≠ .suspended) (hok : ok y = true) :
    control c q ok f s = .next (s.setCtxAt c ((s.ctxAt c).setQueue q (f y))) := by
  refine (event_true ?_ _ s).trans ?_
  · rw [hy, bne_iff_ne.2 hs, Option.map_some, Option.getD_some, hok]
    rfl
  · simp only [hy]

/-- A queue of a SUSPENDED context changes nothing. -/
theorem control_suspended {ok : Queue → Bool} (f : Queue → Queue) (hs : (s.ctxAt c).state = .suspended) :
    control c q ok f s = .next s :=
  event_false (by rw [hs]; rfl) _ s

/-- A queue whose unfinished launches are cancelled (R276). -/
theorem discard_next (hy : (s.ctxAt c).queue? q = some y) (hs : (s.ctxAt c).state ≠ .suspended)
    (hok : (y.state == .error || y.state == .blocked) = true) :
    execCtrlDiscard c q s = .next (((y.kernels.filter (fun k => k.state == .queued)).foldl
      (fun u k => (u.endLaunch c q k.ord).wakeLauncher k) (s.setCtxAt c ((s.ctxAt c).setQueue q y.discard))).settleQueues c) := by
  refine (event_true ?_ _ s).trans ?_
  · rw [hy, bne_iff_ne.2 hs, Option.map_some, Option.getD_some, hok]
    rfl
  · simp only [hy]

theorem discard_suspended (hs : (s.ctxAt c).state = .suspended) : execCtrlDiscard c q s = .next s :=
  event_false (by rw [hs]; rfl) _ s

theorem launchEligible_next {k : Kernel} (hy : (s.ctxAt c).queue? q = some y) (hk : y.next? = some k) (he : k.eligible = false)
    (hm : s.mayStartLaunch c y k = true) (hs : (s.ctxAt c).state ≠ .suspended) :
    execLaunchEligible c q s =
      .next ((s.setCtxAt c ((s.ctxAt c).setQueue q (y.setKernel { k with eligible := true }))).endLaunch c q k.ord) := by
  have hnext : ((s.ctxAt c).queue? q).bind (fun q => q.next?.map (fun k => (q, k))) = some (y, k) := by
    rw [hy, Option.bind_some, hk, Option.map_some]
  unfold execLaunchEligible
  simp only [hnext]
  refine event_true ?_ _ s
  rw [bne_iff_ne.2 hs, Option.map_some, Option.getD_some, he, hm]
  rfl

end

end Sys2Proof.Machine
end

section
/-! SUPPORT. The statements settled: Queues and their control (R269–R276). -/

namespace Sys2Proof.Proofs

open Sys2Proof.Machine

/-- Settles O45: each control value acts on a queue in the states that it applies to (`control_next`), and on none of a SUSPENDED
context (`control_suspended`). -/
theorem queueControl : Obligations.QueueControl := by
  unfold Obligations.QueueControl
  refine ⟨?control, fun c q s y k hy hk he hm hs => launchEligible_next hy hk he hm hs⟩
  intro c q s y hy put
  have hsub := submit_next hy
  refine ⟨fun hr => ?accept, fun hr => ?refuse, fun hs => ⟨fun h => ?block, fun h => ?opens, fun h => ?drain, fun h => ?clear,
    fun h => ?discard⟩, fun hs => ⟨control_suspended _ hs, control_suspended _ hs, control_suspended _ hs, control_suspended _ hs,
    discard_suspended hs⟩⟩
  case accept => exact hsub.trans (congrArg _ (if_pos hr))
  case refuse => exact hsub.trans (congrArg _ (if_neg hr))
  case block => exact control_next _ hy hs (beq_iff_eq.2 h)
  case opens => exact control_next _ hy hs (beq_iff_eq.2 h)
  case drain => exact control_next _ hy hs (by simpa using h)
  case clear => exact control_next _ hy hs (beq_iff_eq.2 h)
  case discard => exact discard_next hy hs (by simpa using h)

end Sys2Proof.Proofs
end

section
/-! SUPPORT. Order handles (R231–R244). -/

namespace Sys2Proof.Machine

/-! ## Handles (R231–R244) -/

section

variable {s : State} {q : Nat}

theorem notH0_ok {h : HReg} (hd : h ≠ 0) : notH0 h s = .ok () s := by
  simp only [notH0, run_bind, run_get, if_neg hd, run_pure]

theorem notH0_trap : notH0 0 s = .error (.trap (.at .illegalInstr (s.word.setWidth 64))) s := by
  simp only [notH0, run_bind, run_get, if_true, run_trap]

theorem freeSequencer_ok (hq : s.core.freeSeqr = some q) : freeSequencer s = .ok q s := by
  simp only [freeSequencer, run_bind, run_get, hq, run_pure]

/-- With none FREE an allocation waits for a RETIRING sequencer, and traps without one (R235). -/
theorem freeSequencer_none (hq : s.core.freeSeqr = none) :
    ((∃ y ∈ s.core.seqs.toList, y.state = .retiring) → freeSequencer s = .error .wait s) ∧
      ((∀ y ∈ s.core.seqs.toList, y.state ≠ .retiring) → freeSequencer s = .error (.trap (.at .handleExhausted 0)) s) := by
  constructor
  · rintro ⟨y, hy, hr⟩
    have ha : s.core.seqs.toList.any (fun x => x.state == .retiring) = true := List.any_eq_true.2 ⟨y, hy, beq_iff_eq.2 hr⟩
    simp only [freeSequencer, run_bind, run_get, hq, ha, if_true, run_throw]
  · intro hr
    have ha : s.core.seqs.toList.any (fun x => x.state == .retiring) = false :=
      List.any_eq_false.2 fun y hy => by simpa using hr y hy
    simp only [freeSequencer, run_bind, run_get, hq, ha, Bool.false_eq_true, if_false, run_trap]

section

variable {d a b : HReg} {k : BitVec 5} {o p : Nat}

theorem hnew_next (hh : ByHart s) (hd : d ≠ 0) (hq : s.core.freeSeqr = some q) :
    execHnew d k s = .next (s.newHandle d q (k.setWidth 3) [] none).retire := by
  refine issue_ok (f := .seq) hh _ ?_
  simp only [run_bind, notH0_ok hd, freeSequencer_ok hq, run_act, run_pure]

theorem derive1_next (hh : ByHart s) (hd : d ≠ 0) (ha : Handle s a o) (hq : s.core.freeSeqr = some q) (f : BitVec 3 → BitVec 3) :
    derive1 d a f s = .next (s.newHandle d q (f (s.core.seqr o).scope) (s.predsAt s.me.core o) none).retire := by
  refine issue_ok (f := .seq) hh _ ?_
  simp only [run_bind, notH0_ok hd, seqOf_ok hh ha, freeSequencer_ok hq, run_act, run_pure, State.following]

theorem wider_eq (x y : BitVec 3) : wider x y = if x.toNat < y.toNat then y else x := by
  rw [wider, BitVec.ult]
  by_cases hxy : x.toNat < y.toNat
  · rw [if_pos hxy, decide_eq_true hxy, if_pos rfl]
  · rw [if_neg hxy, decide_eq_false hxy, if_neg Bool.false_ne_true]

theorem hjoin_next (hh : ByHart s) (hd : d ≠ 0) (ha : Handle s a o) (hb : Handle s b p) (hq : s.core.freeSeqr = some q) :
    execHjoin d a b s = .next (s.newHandle d q (wider (s.core.seqr o).scope (s.core.seqr p).scope)
      (s.predsAt s.me.core o ++ s.predsAt s.me.core p).eraseDups none).retire := by
  refine issue_ok (f := .seq) hh _ ?_
  simp only [run_bind, notH0_ok hd, seqOf_ok hh ha, seqOf_ok hh hb, freeSequencer_ok hq, run_act, run_pure, State.following]

/-- What an instruction does that finds no sequencer FREE (R235). -/
def Unallocated (s : State) (r : Host.Outcome State Fault Refusal) : Prop :=
  ((∃ y ∈ s.core.seqs.toList, y.state = .retiring) → r = .next s.enterWait) ∧
    ((∀ y ∈ s.core.seqs.toList, y.state ≠ .retiring) → r = .next (State.takeTrap s (.at .handleExhausted 0) s))

/-- An instruction whose checks come to the allocation of a sequencer waits or traps as that does. -/
theorem issue_unallocated (hh : ByHart s) {x : Accept} {m : M Flow} (hm : ∀ e, freeSequencer s = .error e s → m s = .error e s)
    (hq : s.core.freeSeqr = none) : Unallocated s (issue x m s) := by
  obtain ⟨hw, ht⟩ := freeSequencer_none hq
  exact ⟨fun h => issue_hart hh x (hm _ (hw h)), fun h => issue_hart hh x (hm _ (ht h))⟩

theorem hnew_unallocated (hh : ByHart s) (hd : d ≠ 0) (hq : s.core.freeSeqr = none) : Unallocated s (execHnew d k s) :=
  issue_unallocated hh (fun e he => by simp only [run_bind, notH0_ok hd, he]) hq

theorem derive1_unallocated (hh : ByHart s) (hd : d ≠ 0) (ha : Handle s a o) (hq : s.core.freeSeqr = none)
    (f : BitVec 3 → BitVec 3) : Unallocated s (derive1 d a f s) :=
  issue_unallocated hh (fun e he => by simp only [run_bind, notH0_ok hd, seqOf_ok hh ha, he]) hq

theorem hjoin_unallocated (hh : ByHart s) (hd : d ≠ 0) (ha : Handle s a o) (hb : Handle s b p) (hq : s.core.freeSeqr = none) :
    Unallocated s (execHjoin d a b s) :=
  issue_unallocated hh (fun e he => by simp only [run_bind, notH0_ok hd, seqOf_ok hh ha, seqOf_ok hh hb, he]) hq

theorem hret_next (hh : ByHart s) (ha : a ≠ 0) (ho : vecGet none s.hregs a.toNat = some o) :
    execHret a s = .next ((s.setHreg a none).dropRef s.me.core o).retire := by
  refine issue_ok (f := .seq) hh _ ?_
  simp only [run_bind, notH0_ok ha, run_get, ho, run_set, run_pure]

theorem hwait_hart (hh : ByHart s) : s.hwait = s.me.hwait := by
  obtain ⟨k, hk⟩ := hh
  simp only [State.hwait, hk]

theorem setHwait_hart (hh : ByHart s) (l : Option (List Nat)) : s.setHwait l = s.setMe { s.me with hwait := l } := by
  obtain ⟨k, hk⟩ := hh
  simp only [State.setHwait, hk]

/-- HWAIT waits while one of the operations that had entered when it issued holds (R242). -/
theorem hwait_next (hh : ByHart s) (ha : Handle s a o) :
    execHwait a s = .next (if s.heldUp s.cur.owner o (s.me.hwait.getD ((s.core.seqr o).entered.filter s.alive)) then
        (s.setMe { s.me with hwait := some (s.me.hwait.getD ((s.core.seqr o).entered.filter s.alive)) }).enterWait
      else (s.setMe { s.me with hwait := none }).retire) := by
  cases hheld : s.heldUp s.cur.owner o (s.me.hwait.getD ((s.core.seqr o).entered.filter s.alive)) with
  | true =>
    refine issue_ok (f := .stay) hh _ ?_
    simp only [run_bind, seqOf_ok hh ha, run_get, hwait_hart hh, hheld, if_true, setHwait_hart hh, run_set, run_pure]
  | false =>
    refine issue_ok (f := .seq) hh _ ?_
    simp only [run_bind, seqOf_ok hh ha, run_get, hwait_hart hh, hheld, Bool.false_eq_true, if_false, setHwait_hart hh, run_set,
      run_pure]

end

/-! ### What an allocation leaves -/

theorem seqr_setSeqr {c : Core} {x : Sequencer} (hq : q < 64) (r : Nat) :
    (c.setSeqr q x).seqr r = if r = q then x else c.seqr r := by
  rw [Core.setSeqr, Core.seqr, vecGet_vecSet]
  by_cases hr : r = q
  · rw [if_pos ⟨hr, hq⟩, if_pos hr]
  · rw [if_neg (fun h => hr h.1), if_neg hr, Core.seqr]

theorem nextGen_ne_zero {w : Nat} (hw : 0 < w) (g : BitVec w) : nextGen g ≠ 0 := by
  unfold nextGen
  split
  · intro h
    have : (1 : Nat) % 2 ^ w = 0 := by simpa [← BitVec.toNat_inj] using h
    rw [Nat.mod_eq_of_lt (Nat.one_lt_two_pow hw.ne')] at this
    cases this
  · assumption

/-- A new handle of a register that was empty: the state that names it. -/
theorem newHandle_hart (hh : ByHart s) {d : HReg} (hd : vecGet none s.hregs d.toNat = none) (scope : BitVec 3) (before : List Nat)
    (broken : Option (BitVec 10)) :
    s.newHandle d q scope before broken =
      (s.setCore (s.core.allocSeqr q .live scope before broken s.cur.owner.key)).setMe
        { s.me with hregs := vecSet s.me.hregs d.toNat (some q) } := by
  obtain ⟨k, hk⟩ := hh
  have hc : ∀ c, (s.setCore c).cur = .hart k := fun _ => hk
  rw [State.newHandle, hd]
  simp only [State.setHreg, State.setHregs, State.noteCreated, State.hregs, hc, State.setMe_cur]
  rfl

/-- What an allocation leaves (R233, R235). -/
theorem newHandle_leaves (hh : ByHart s) {d : HReg} (hq : q < 64) (hd : vecGet none s.hregs d.toNat = none) (scope : BitVec 3)
    (before : List Nat) :
    let t := s.newHandle d q scope before none
    vecGet none t.hregs d.toNat = some q ∧
      t.core.seqr q = ⟨.live, nextGen (s.core.seqr q).gen, scope, 1, s.cur.owner.key, [], before, none⟩ ∧
      ∀ r, r ≠ q → t.core.seqr r = s.core.seqr r := by
  intro t
  have ht : t = _ := newHandle_hart hh hd scope before none
  have hcore : t.core = s.core.allocSeqr q .live scope before none s.cur.owner.key := by
    rw [ht]
    exact (State.core_setMe_core (s.setCore _) { s.me with hregs := vecSet s.me.hregs d.toNat (some q) } rfl).trans
      (State.core_setCore ..)
  refine ⟨?_, ?_, fun r hr => ?_⟩
  · obtain ⟨k, hk⟩ := hh
    have hc : t.cur = .hart k := by
      rw [ht]
      exact hk
    simp only [State.hregs, hc]
    rw [ht, State.me_setMe, vecGet_vecSet, if_pos ⟨rfl, d.isLt⟩]
  · rw [hcore, Core.allocSeqr, seqr_setSeqr hq, if_pos rfl]
    rfl
  · rw [hcore, Core.allocSeqr, seqr_setSeqr hq, if_neg hr]

/-! ### Export and import (R243, R244) -/

section

variable {d v : Reg} {h a : HReg} {o c : Nat}

theorem hexp_next (hh : ByHart s) (hn : Named s [d]) (ha : Handle s a o) (hq : s.core.freeSeqr = some q) :
    let t := s.setCore (s.core.allocSeqr q .exported (s.core.seqr o).scope (s.predsAt s.me.core o) none s.cur.owner.key)
    execHexp d a s = .next (t.setRs d (t.handleValue q)).retire := by
  refine issue_ok (f := .seq) hh _ ?_
  simp only [run_bind, named_ok hn, seqOf_ok hh ha, freeSequencer_ok hq, run_act, run_pure, State.following]

theorem hexp_unallocated (hh : ByHart s) (hn : Named s [d]) (ha : Handle s a o) (hq : s.core.freeSeqr = none) :
    Unallocated s (execHexp d a s) :=
  issue_unallocated hh (fun e he => by simp only [run_bind, named_ok hn, seqOf_ok hh ha, he]) hq

/-- A handle value of this chip whose exporter is in scope. -/
structure Importable (s : State) (w : Word) (c : Nat) : Prop where
  reserved : bitsOf w 32 4 = 0
  scope : bitsOf w 36 3 ≤ 5
  ne : w ≠ 0
  chip : bitsOf w 54 10 = s.chipId.toNat
  core : s.importable w = some c

theorem valueScope_toNat (w : Word) : (valueScope w).toNat = bitsOf w 36 3 := by
  rw [valueScope, BitVec.toNat_ofNat, bitsOf, Nat.mod_mod]

theorem valueChip_of (h : bitsOf (s.rs v) 54 10 = s.chipId.toNat) : valueChip (s.rs v) = s.chipId := by
  rw [valueChip, h, BitVec.ofNat_toNat, BitVec.setWidth_eq]

theorem himp_bad (hh : ByHart s) (hd : h ≠ 0) (hn : Named s [v]) (hw : bitsOf (s.rs v) 32 4 ≠ 0 ∨ 5 < bitsOf (s.rs v) 36 3) :
    execHimp h v s = .next (State.takeTrap s (.at .handleBad (s.rs v)) s) := by
  have hbad : bitsOf (s.rs v) 32 4 ≠ 0 ∨ 5 < (valueScope (s.rs v)).toNat ∨ s.rs v = 0 := by
    rw [valueScope_toNat]
    exact hw.imp_right .inl
  refine issue_hart (r := .error (.trap (.at .handleBad (s.rs v))) s) hh _ ?_
  simp only [run_bind, notH0_ok hd, named_ok hn, run_get, if_pos hbad, run_trap]

/-- An import of a value of this chip makes the handle that its allocation gives (R244). -/
theorem himp_next (hh : ByHart s) (hd : h ≠ 0) (hn : Named s [v]) (hi : Importable s (s.rs v) c) (hq : s.core.freeSeqr = some q) :
    execHimp h v s = .next ((s.newHandle h q (valueScope (s.rs v)) (s.predsAt c (valueSeq (s.rs v)))
      ((s.coreAt c).seqr (valueSeq (s.rs v))).broken).retireExport c (valueSeq (s.rs v))).retire := by
  have hgood : ¬(bitsOf (s.rs v) 32 4 ≠ 0 ∨ 5 < (valueScope (s.rs v)).toNat ∨ s.rs v = 0) := by
    rw [valueScope_toNat]
    exact fun h => h.elim (· hi.reserved) fun h => h.elim (absurd hi.scope ∘ Nat.not_le.2) hi.ne
  refine issue_ok (f := .seq) hh _ ?_
  simp only [run_bind, notH0_ok hd, named_ok hn, run_get, if_neg hgood, run_pure, if_pos (valueChip_of hi.chip), hi.core,
    freeSequencer_ok hq, run_act]

theorem himp_unallocated (hd : h ≠ 0) (hn : Named s [v]) (hi : Importable s (s.rs v) c) (hh : ByHart s)
    (hq : s.core.freeSeqr = none) : Unallocated s (execHimp h v s) := by
  have hgood : ¬(bitsOf (s.rs v) 32 4 ≠ 0 ∨ 5 < (valueScope (s.rs v)).toNat ∨ s.rs v = 0) := by
    rw [valueScope_toNat]
    exact fun h => h.elim (· hi.reserved) fun h => h.elim (absurd hi.scope ∘ Nat.not_le.2) hi.ne
  refine issue_unallocated hh (fun e he => ?_) hq
  simp only [run_bind, notH0_ok hd, named_ok hn, run_get, if_neg hgood, if_pos (valueChip_of hi.chip), hi.core, he]

end

end

end Sys2Proof.Machine
end

section
/-! SUPPORT. The statements settled: Order handles (R231–R244). -/

namespace Sys2Proof.Proofs

open Sys2Proof.Machine

/-- Settles O41: every allocation comes to `freeSequencer`, and leaves what `newHandle_leaves` says. -/
theorem handles : Obligations.Handles := by
  unfold Obligations.Handles
  refine ⟨?instructions, fun a o s hh ha ho => hret_next hh ha ho, ?leaves, ?moves⟩
  case instructions =>
    intro d a b k q o p s hh ha hb x y follows
    refine ⟨fun hd hq => ⟨hnew_next hh hd hq, derive1_next hh hd ha hq id, derive1_next hh hd ha hq (fun _ => k.setWidth 3),
      ?join⟩, ⟨?passes, ?waits⟩,
      ?unallocated, ?illegal⟩
    case join =>
      refine (hjoin_next hh hd ha hb hq).trans ?_
      rw [wider_eq]
    case passes =>
      intro hall
      have hheld : s.heldUp s.cur.owner o (s.me.hwait.getD ((s.core.seqr o).entered.filter s.alive)) = false :=
        List.any_eq_false.2 fun n hn => by rw [hall n hn]; exact Bool.false_ne_true
      exact (hwait_next hh ha).trans (congrArg _ (if_neg (by rw [hheld]; exact Bool.false_ne_true)))
    case waits =>
      rintro ⟨n, hn, hh'⟩
      exact (hwait_next hh ha).trans (congrArg _ (if_pos (List.any_eq_true.2 ⟨n, hn, hh'⟩)))
    case unallocated =>
      intro i hi hd hq
      simp only [List.mem_cons, List.not_mem_nil, or_false] at hi
      rcases hi with rfl | rfl | rfl | rfl
      · exact hnew_unallocated hh hd hq
      · exact derive1_unallocated hh hd ha hq id
      · exact derive1_unallocated hh hd ha hq (fun _ => k.setWidth 3)
      · exact hjoin_unallocated hh hd ha hb hq
    case illegal =>
      intro i hi
      simp only [List.mem_cons, List.not_mem_nil, or_false] at hi
      rcases hi with rfl | rfl | rfl | rfl | rfl
      all_goals
        exact issue_hart (r := .error (.trap (.at .illegalInstr (s.word.setWidth 64))) s) hh _
          (by simp only [run_bind, notH0_trap])
  case leaves =>
    intro d q sc before s hh hq hd t
    obtain ⟨h1, h2, h3⟩ := newHandle_leaves hh hq hd sc before
    rw [h2]
    exact ⟨h1, rfl, rfl, rfl, rfl, rfl, nextGen_ne_zero (by decide) _, fun hg => if_neg hg, h3⟩
  case moves =>
    intro d h a v q o c s hh hn hd
    have hnd : Named s [d] := named_subset hn (by simp)
    have hnv : Named s [v] := named_subset hn (by simp)
    refine ⟨fun ha hq => hexp_next hh hnd ha hq, ?unallocated, ?zero, ?imports, fun hw => himp_bad hh hd hnv hw⟩
    case unallocated =>
      intro i hi hq
      rcases hi with ⟨rfl, ha⟩ | ⟨rfl, hr, hsc, hne, hchip, hcore⟩
      · exact hexp_unallocated hh hnd ha hq
      · exact himp_unallocated hd hnv ⟨hr, hsc, hne, hchip, hcore⟩ hh hq
    case zero =>
      exact issue_hart (r := .error (.trap (.at .illegalInstr (s.word.setWidth 64))) s) hh _
        (by simp only [run_bind, notH0_trap])
    case imports =>
      intro hr hsc hne hchip hcore hq
      exact himp_next hh hd hnv ⟨hr, hsc, hne, hchip, hcore⟩ hq

end Sys2Proof.Proofs
end

section
/-! SUPPORT. Counted loops, waits, FORK and RDV (R86–R92). -/

namespace Sys2Proof.Machine

/-! ## Counted loops and waits (R86, R91) -/

section

variable {s : State} {a b d : Reg} {c : BitVec 5}

theorem loops_hart (hh : ByHart s) : s.loops = s.me.loops := by
  obtain ⟨k, hk⟩ := hh
  simp only [State.loops, hk]

theorem loop_next (hh : ByHart s) (hn : Named s [a]) (hc : (s.rs a).toNat % 2 ^ 32 ≠ 0) :
    execLoop a c s = .next (s.setLoop (c.toNat % 8) ⟨BitVec.ofNat 32 ((s.rs a).toNat % 2 ^ 32), s.pc + 4, true⟩).retire := by
  refine issue_ok (f := .seq) hh _ ?_
  simp only [run_bind, named_ok hn, run_get, if_neg hc, run_set, run_pure]

/-- A LOOP with a zero count goes behind the next ENDLOOP of its counter (R91). -/
theorem loop_zero {t : Nat} (hh : ByHart s) (hn : Named s [a]) (hc : (s.rs a).toNat % 2 ^ 32 = 0)
    (ht : s.findEndloop (c.toNat % 8) ((s.codeEnd - (s.pc + 4).toNat) / 4) (s.pc + 4).toNat = some t) :
    execLoop a c s = .next (s.goto (BitVec.ofNat 64 t)) := by
  refine issue_ok (f := .goto (BitVec.ofNat 64 t)) hh _ ?_
  simp only [run_bind, named_ok hn, run_get, if_pos hc, ht, run_pure]

theorem endloop_next (hh : ByHart s) :
    let x := vecGet LoopCtr.reset s.loops (c.toNat % 8)
    execEndloop c s = .next (if x.active = true then
      if x.count - 1 = 0 then (s.setLoop (c.toNat % 8) { x with count := x.count - 1, active := false }).retire
      else (s.setLoop (c.toNat % 8) { x with count := x.count - 1 }).goto x.start
    else s.retire) := by
  intro x
  by_cases ha : x.active = true
  · by_cases h0 : x.count - 1 = 0
    · refine (issue_ok (f := .seq) hh _ ?_).trans (congrArg _ ((if_pos ha).trans (if_pos h0)).symm)
      simp only [run_bind, run_get]
      simp only [x] at ha h0
      simp only [if_pos ha, if_pos h0, run_bind, run_set, run_pure]
      rfl
    · refine (issue_ok (f := .goto x.start) hh _ ?_).trans (congrArg _ ((if_pos ha).trans (if_neg h0)).symm)
      simp only [run_bind, run_get]
      simp only [x] at ha h0
      simp only [if_pos ha, if_neg h0, run_bind, run_set, run_pure]
      rfl
  · refine (issue_ok (f := .seq) hh _ ?_).trans (congrArg _ (if_neg ha).symm)
    simp only [run_bind, run_get]
    simp only [x] at ha
    simp only [if_neg ha, run_pure]

theorem within_iff (n : Nat) (l : BitVec 5) : within n l = true ↔ l = 31 ∨ n ≤ l.toNat := by
  rw [within, Bool.or_eq_true, beq_iff_eq, decide_eq_true_iff]

theorem enterWait_hart (hh : ByHart s) : s.enterWait = s.setMe { s.me with state := .wait } := by
  obtain ⟨k, hk⟩ := hh
  simp only [State.enterWait, hk]

/-- The condition of a WAITC: no class has more operations outstanding than its limit (R86). -/
def State.waitcMet (s : State) (ns nc nl nt : BitVec 5) : Prop :=
  (nl = 31 ∨ s.outstanding s.cur.owner (fun c => c == .load || c == .both) ≤ nl.toNat) ∧
    (ns = 31 ∨ s.outstanding s.cur.owner (fun c => c == .store || c == .both) ≤ ns.toNat) ∧
    (nc = 31 ∨ s.outstanding s.cur.owner (fun c => c == .copy) ≤ nc.toNat) ∧
    (nt = 31 ∨ s.outstanding s.cur.owner (fun c => c == .tile) ≤ nt.toNat)

theorem waitc_next (hh : ByHart s) (ns nc nl nt : BitVec 5) :
    (s.waitcMet ns nc nl nt → execWaitc ns nc nl nt s = .next s.retire) ∧
      (¬s.waitcMet ns nc nl nt → execWaitc ns nc nl nt s = .next s.enterWait) := by
  have hiff : (within (s.outstanding s.cur.owner (fun c => c == .load || c == .both)) nl &&
      within (s.outstanding s.cur.owner (fun c => c == .store || c == .both)) ns &&
      within (s.outstanding s.cur.owner (fun c => c == .copy)) nc &&
      within (s.outstanding s.cur.owner (fun c => c == .tile)) nt) = true ↔ s.waitcMet ns nc nl nt := by
    simp only [Bool.and_eq_true, within_iff, State.waitcMet, and_assoc]
  constructor
  · intro hm
    refine issue_ok (f := .seq) hh _ ?_
    simp only [run_bind, run_get, if_pos (hiff.2 hm), run_pure]
  · intro hm
    refine issue_hart (r := .error .wait s) hh _ ?_
    simp only [run_bind, run_get, if_neg (fun h => hm (hiff.1 h)), run_throw]

end

/-! ## References to the sequencers of a core (R234) -/

/-- What taking or dropping references leaves: nothing but sequencers of cores changes. -/
structure SeqsOnly (s t : State) : Prop where
  cur : t.cur = s.cur
  harts : t.harts = s.harts
  mem : t.mem = s.mem
  groups : t.groups = s.groups
  nextOp : t.nextOp = s.nextOp
  cores : ∀ c, ∃ v, t.coreAt c = { s.coreAt c with seqs := v }

theorem SeqsOnly.refl (s : State) : SeqsOnly s s := ⟨rfl, rfl, rfl, rfl, rfl, fun _ => ⟨_, rfl⟩⟩

theorem SeqsOnly.trans {s t u : State} (h : SeqsOnly s t) (k : SeqsOnly t u) : SeqsOnly s u where
  cur := k.cur.trans h.cur
  harts := k.harts.trans h.harts
  mem := k.mem.trans h.mem
  groups := k.groups.trans h.groups
  nextOp := k.nextOp.trans h.nextOp
  cores c := by
    obtain ⟨v, hv⟩ := h.cores c
    obtain ⟨w, hw⟩ := k.cores c
    exact ⟨w, by rw [hw, hv]⟩

theorem seqsOnly_setSeqr (s : State) (c q : Nat) (x : Sequencer) : SeqsOnly s (s.setCoreAt c ((s.coreAt c).setSeqr q x)) where
  cur := rfl
  harts := rfl
  mem := rfl
  groups := rfl
  nextOp := rfl
  cores k := by
    by_cases hk : k = c
    · rw [hk, State.coreAt_setCoreAt]
      exact ⟨_, rfl⟩
    · rw [State.coreAt_setCoreAt_ne s _ hk]
      exact ⟨_, rfl⟩

theorem seqsOnly_overHandles {f : State → Nat → Nat → State} (hf : ∀ s c q, SeqsOnly s (f s c q)) (c : Nat)
    (hs : Vector (Option Nat) 16) (s : State) : SeqsOnly s (s.overHandles f c hs) := by
  unfold State.overHandles
  generalize hs.toList = l
  induction l generalizing s with
  | nil => exact .refl s
  | cons x l ih =>
    cases x with
    | none => exact ih s
    | some q => exact (hf s c q).trans (ih _)

theorem seqsOnly_addRefs (c : Nat) (hs : Vector (Option Nat) 16) (s : State) : SeqsOnly s (s.overHandles State.addRef c hs) :=
  seqsOnly_overHandles (fun s c q => seqsOnly_setSeqr s c q _) c hs s

theorem seqsOnly_dropRefs (c : Nat) (hs : Vector (Option Nat) 16) (s : State) : SeqsOnly s (s.overHandles State.dropRef c hs) :=
  seqsOnly_overHandles (fun s c q => seqsOnly_setSeqr s c q _) c hs s

section

variable {s t : State}

theorem SeqsOnly.me (h : SeqsOnly s t) : t.me = s.me := by rw [State.me, h.cur, State.hart, h.harts]; rfl

theorem SeqsOnly.core (h : SeqsOnly s t) : ∃ v, t.core = { s.core with seqs := v } := by
  rw [State.core, h.me]
  exact h.cores _

end

/-! ## FORK (R87) -/

section

variable {s : State} {a b : Reg}

/-- A descriptor of a program in the code area. -/
def ProgramDesc (s : State) (w : Word) (e n : Nat) : Prop :=
  w = BitVec.ofNat 64 (n * 2 ^ 32 + e) ∧ e < 2 ^ 32 ∧ 0 < n ∧ n < 2 ^ 16 ∧ e % 4 = 0 ∧ e + 4 * n ≤ s.codeSize

theorem forkDesc_ok {w : Word} {e n : Nat} (h : ProgramDesc s w e n) : forkDesc w s = .ok (some (e, n)) s := by
  obtain ⟨rfl, he, hn, hn16, he4, hcode⟩ := h
  have hlt : n * 2 ^ 32 + e < 2 ^ 64 := by omega
  have hne : ¬BitVec.ofNat 64 (n * 2 ^ 32 + e) = 0 := by
    intro h
    have := congrArg BitVec.toNat h
    rw [BitVec.toNat_ofNat, Nat.mod_eq_of_lt hlt] at this
    simp only [BitVec.ofNat_eq_ofNat, BitVec.toNat_ofNat, Nat.zero_mod] at this
    omega
  have h1 : bitsOf (BitVec.ofNat 64 (n * 2 ^ 32 + e)) 0 32 = e := by
    rw [bitsOf, BitVec.toNat_ofNat, Nat.mod_eq_of_lt hlt]
    omega
  have h2 : bitsOf (BitVec.ofNat 64 (n * 2 ^ 32 + e)) 32 16 = n := by
    rw [bitsOf, BitVec.toNat_ofNat, Nat.mod_eq_of_lt hlt]
    omega
  have h3 : bitsOf (BitVec.ofNat 64 (n * 2 ^ 32 + e)) 48 16 = 0 := by
    rw [bitsOf, BitVec.toNat_ofNat, Nat.mod_eq_of_lt hlt]
    omega
  have hbad : ¬(bitsOf (BitVec.ofNat 64 (n * 2 ^ 32 + e)) 48 16 ≠ 0 ∨ n = 0 ∨ e % 4 ≠ 0 ∨ s.codeSize < e + 4 * n) := by
    rw [h3]
    omega
  simp only [forkDesc, if_neg hne, run_bind, run_get, h1, h2, if_neg hbad, run_pure]

theorem forkDesc_zero : forkDesc 0 s = .ok none s := rfl

/-- A program that a FORK starts holds the hart's scalars, handles, vl, vsew, frm and nbedge, at its entry (R87). -/
structure Starts (s : State) (p : SeqProg) (e n : Nat) : Prop where
  entry : p.entry = e
  words : p.words = n
  pc : p.pc = e
  sregs : p.sregs = s.me.sregs
  hregs : p.hregs = s.me.hregs
  vl : p.vl = s.me.vl
  vsew : p.vsew = s.me.vsew
  frm : p.frm = s.me.frm
  nbedge : p.nbedge = s.me.nbedge
  ended : p.ended = false
  stop : p.stop = none
  vstart : p.vstart = 0
  kstart : p.kstart = 0

/-- The program that a FORK starts. -/
def State.forked (s : State) (e n : Nat) : SeqProg := { s.me.snapshot e n with id := s.nextOp }

theorem starts_forked (s : State) (e n : Nat) : Starts s (s.forked e n) e n :=
  ⟨rfl, rfl, by simp [State.forked, Hart.snapshot], rfl, rfl, rfl, rfl, rfl, rfl, rfl, rfl, rfl, rfl⟩

/-- The state with an engine's program started, where a descriptor gives one. -/
def State.startIf (s : State) (e : Eng) : Option (Nat × Nat) → State
  | some p => s.startSeq e p.1 p.2
  | none => s

/-- What holds a FORK up that starts some programs (R87). -/
def State.forkWaits (s : State) (t u : Option (Nat × Nat)) : Prop :=
  s.me.pending ≠ 0 ∨ s.me.vpending ≠ 0 ∨ s.me.lanes ≠ [] ∨ s.vlPending = true ∨
    (t.isSome ∧ (s.outstanding s.cur.owner (fun c => c == .tile) ≠ 0 ∨ s.tileFree (List.range 1024) = false)) ∨
    (u.isSome ∧ s.outstanding s.cur.owner (fun c => c == .copy) ≠ 0)

/-- A FORK whose engines are free starts its programs, or waits (R87). -/
theorem fork_next {t u : Option (Nat × Nat)} (hh : ByHart s) (hn : Named s [a, b]) (ht : forkDesc (s.rs a) s = .ok t s)
    (hu : forkDesc (s.rs b) s = .ok u s)
    (hfree : ((t.isSome && (s.core.tile.forked.isSome || !s.hasTile)) || (u.isSome && s.core.streamFork.isSome)) = false) :
    (¬s.forkWaits t u → execFork a b s = .next ((s.startIf .tile t).startIf .stream u).retire) ∧
      (s.forkWaits t u → execFork a b s = .next s.enterWait) := by
  constructor
  · intro hw
    rw [State.forkWaits] at hw
    refine issue_ok (f := .seq) hh _ ?_
    simp only [run_bind, named_ok hn, run_get, ht, hu, hfree, Bool.false_eq_true, if_false, if_neg hw]
    cases t <;> cases u <;> rfl
  · intro hw
    rw [State.forkWaits] at hw
    refine issue_hart (r := .error .wait s) hh _ ?_
    simp only [run_bind, named_ok hn, run_get, ht, hu, hfree, Bool.false_eq_true, if_false, if_pos hw, run_throw]

/-- The engine that a core's record names as forked. -/
def Core.forkOf (c : Core) : Eng → Option HartId
  | .tile => c.tile.forked
  | .stream => c.streamFork

/-- A core's record with an engine forked for a hart, or for none. -/
def Core.setFork (c : Core) (e : Eng) (h : Option HartId) : Core :=
  match e with
  | .tile => { c with tile := { c.tile with forked := h } }
  | .stream => { c with streamFork := h }

theorem Core.forkOf_setFork (c : Core) (e f : Eng) (h : Option HartId) :
    (c.setFork e h).forkOf f = if f = e then h else c.forkOf f := by
  cases e <;> cases f <;> rfl

theorem Hart.core_setProg (h : Hart) (e : Eng) (p : SeqProg) : (h.setProg e p).core = h.core := by
  cases e <;> rfl

theorem Hart.pc_setProg (h : Hart) (e : Eng) (p : SeqProg) : (h.setProg e p).pc = h.pc := by
  cases e <;> rfl

/-- What the start of one engine leaves (R87). -/
theorem startSeq_leaves (s : State) (e : Eng) (entry words : Nat) :
    let t := s.startSeq e entry words
    t.cur = s.cur ∧ t.mem = s.mem ∧ t.me = s.me.setProg e (s.forked entry words) ∧
      ∀ f, t.core.forkOf f = if f = e then some s.cur.owner else s.core.forkOf f := by
  intro t
  let u : State := { s.setMe (s.me.setProg e (s.forked entry words)) with nextOp := s.nextOp + 1 }
  let w := u.setCore (u.core.setFork e (some u.cur.owner))
  have ht : t = w.overHandles State.addRef s.me.core s.me.hregs := by
    simp only [t, State.startSeq]
    cases e <;> rfl
  have hu : u.me = s.me.setProg e (s.forked entry words) := State.me_setMe ..
  have hc : u.core = s.core := State.core_setMe_core s _ (Hart.core_setProg ..)
  have h := seqsOnly_addRefs s.me.core s.me.hregs w
  obtain ⟨v, hv⟩ := h.core
  rw [← ht] at h hv
  refine ⟨h.cur, h.mem, h.me.trans hu, fun f => ?_⟩
  have hf : ∀ (c : Core) (v : Vector Sequencer 64), ({ c with seqs := v } : Core).forkOf f = c.forkOf f := by
    intro c v
    cases f <;> rfl
  rw [hv, hf, State.core_setCore, Core.forkOf_setFork, hc]
  rfl

/-- What the start of one engine leaves beside its program. -/
theorem startIf_none (s : State) (e : Eng) : s.startIf e none = s := rfl

theorem byHart_startSeq (hh : ByHart s) (e : Eng) (entry words : Nat) : ByHart (s.startSeq e entry words) := by
  rw [ByHart, (startSeq_leaves s e entry words).1]
  exact hh

theorem Hart.retire_setProg (h : Hart) (e : Eng) (p : SeqProg) : (h.setProg e p).retire = h.retire.setProg e p := by
  unfold Hart.retire
  cases e
  · simp only [Hart.setProg]
    split <;> rfl
  · simp only [Hart.setProg]
    split <;> rfl

/-- A hart past a FORK that starts one engine. -/
theorem startSeq_retire (hh : ByHart s) (e : Eng) (entry words : Nat) :
    let t := (s.startSeq e entry words).retire
    t.mem = s.mem ∧ t.me = s.me.retire.setProg e (s.forked entry words) ∧
      ∀ f, t.core.forkOf f = if f = e then some s.cur.owner else s.core.forkOf f := by
  obtain ⟨_, hm, hme, hf⟩ := startSeq_leaves s e entry words
  have hh' := byHart_startSeq hh e entry words
  refine ⟨by rw [retire_mem, hm], ?_, fun f => by rw [core_retire hh', hf]⟩
  rw [retire_hart hh', State.me_setMe, hme, Hart.retire_setProg]

/-- A hart past a FORK that starts both engines. -/
theorem startBoth_retire (hh : ByHart s) (e n k m : Nat) :
    let t := ((s.startSeq .tile e n).startSeq .stream k m).retire
    t.mem = s.mem ∧
      t.me = (s.me.retire.setProg .tile (s.forked e n)).setProg .stream ((s.startSeq .tile e n).forked k m) ∧
      (∀ f, t.core.forkOf f = some s.cur.owner) ∧ Starts s ((s.startSeq .tile e n).forked k m) k m := by
  obtain ⟨hc1, hm1, hme1, hf1⟩ := startSeq_leaves s .tile e n
  have hh1 := byHart_startSeq hh .tile e n
  obtain ⟨hm2, hme2, hf2⟩ := startSeq_retire hh1 .stream k m
  refine ⟨hm2.trans hm1, ?_, fun f => ?_, ?_⟩
  · rw [hme2, hme1, Hart.retire_setProg]
  · rw [hf2, hf1, hc1]
    cases f <;> rfl
  · obtain ⟨h1, h2, h3, h4, h5, h6, h7, h8, h9, h10⟩ := starts_forked (s.startSeq .tile e n) k m
    rw [hme1] at h4 h5 h6 h7 h8 h9
    exact ⟨h1, h2, h3, h4, h5, h6, h7, h8, h9, h10, rfl, rfl, rfl⟩

end

/-! ## RDV (R89) -/

section

variable {s : State}

/-- The state with both engines of the hart free. -/
def State.rendezvoused (s : State) : State := (s.freeEngine .tile).freeEngine .stream

/-- Whether both sequencers of a hart have finished (R89). -/
def Hart.finished (h : Hart) : Bool := (h.prog .tile).finished && (h.prog .stream).finished

theorem rdv_waits (hh : ByHart s) (hf : s.me.finished = false) : execRdv s = .next s.enterWait := by
  rw [Hart.finished] at hf
  refine issue_hart (r := .error .wait s) hh _ ?_
  simp only [rendezvous, run_bind, run_get, hf, Bool.false_eq_true, if_false, run_throw]

theorem rdv_next (hh : ByHart s) (hf : s.me.finished = true) (ht : s.me.engineTrap = none) :
    execRdv s = .next s.rendezvoused.retire := by
  rw [Hart.finished] at hf
  refine issue_ok (f := .seq) hh _ ?_
  simp only [rendezvous, run_bind, run_get, hf, if_true, run_set, ht, run_pure]
  rfl

theorem rdv_trap {t : TrapInfo} (hh : ByHart s) (hf : s.me.finished = true) (ht : s.me.engineTrap = some t) :
    execRdv s = .next (State.takeTrap s t s.rendezvoused) := by
  rw [Hart.finished] at hf
  refine issue_hart (r := .error (.trap t) s.rendezvoused) hh _ ?_
  simp only [rendezvous, run_bind, run_get, hf, if_true, run_set, ht, run_throw]
  rfl

/-- The program on one of a hart's engines, if any. -/
def Hart.program? (h : Hart) : Eng → Option SeqProg
  | .tile => h.tileProg
  | .stream => h.streamProg

/-- A hart without a program on one of its engines. -/
def Hart.withoutProg (h : Hart) : Eng → Hart
  | .tile => { h with tileProg := none }
  | .stream => { h with streamProg := none }

theorem Hart.withoutProg_of_none {h : Hart} {e : Eng} (hp : h.program? e = none) : h.withoutProg e = h := by
  cases e with
  | tile =>
    change { h with tileProg := none } = h
    rw [← show h.tileProg = none from hp]
  | stream =>
    change { h with streamProg := none } = h
    rw [← show h.streamProg = none from hp]

/-- What freeing an engine leaves (R89). -/
theorem freeEngine_leaves (s : State) (e : Eng) :
    let t := s.freeEngine e
    t.cur = s.cur ∧ t.mem = s.mem ∧ t.me = s.me.withoutProg e ∧
      ∀ f, t.core.forkOf f = if f = e ∧ (s.me.program? e).isSome then none else s.core.forkOf f := by
  intro t
  cases hp : s.me.program? e with
  | none =>
    have ht : t = s := by
      simp only [t, State.freeEngine]
      cases e with
      | tile => rw [show s.me.tileProg = none from hp]
      | stream => rw [show s.me.streamProg = none from hp]
    rw [ht, Hart.withoutProg_of_none hp]
    exact ⟨rfl, rfl, rfl, fun f => (if_neg (fun h => Bool.false_ne_true h.2)).symm⟩
  | some p =>
    -- the state before the references are dropped
    have hw : ∃ w : State, t = w.overHandles State.dropRef s.me.core p.hregs ∧ w.cur = s.cur ∧ w.mem = s.mem ∧
        w.me = s.me.withoutProg e ∧ w.core = s.core.setFork e none := by
      simp only [t, State.freeEngine]
      cases e with
      | tile =>
        rw [show s.me.tileProg = some p from hp]
        refine ⟨_, rfl, rfl, rfl, State.me_setMe .., ?_⟩
        rw [State.core_setCore]
        exact congrArg (Core.setFork · .tile none) (State.core_setMe_core s { s.me with tileProg := none } rfl)
      | stream =>
        rw [show s.me.streamProg = some p from hp]
        refine ⟨_, rfl, rfl, rfl, State.me_setMe .., ?_⟩
        rw [State.core_setCore]
        exact congrArg (Core.setFork · .stream none) (State.core_setMe_core s { s.me with streamProg := none } rfl)
    obtain ⟨w, ht, hcur, hmem, hme, hcore⟩ := hw
    have h := seqsOnly_dropRefs s.me.core p.hregs w
    obtain ⟨v, hv⟩ := h.core
    rw [← ht] at h hv
    refine ⟨h.cur.trans hcur, h.mem.trans hmem, h.me.trans hme, fun f => ?_⟩
    have hf : ∀ (c : Core) (v : Vector Sequencer 64), ({ c with seqs := v } : Core).forkOf f = c.forkOf f := by
      intro c v
      cases f <;> rfl
    rw [hv, hf, hcore, Core.forkOf_setFork]
    exact ite_congr (by simp) (fun _ => rfl) (fun _ => rfl)

/-- What freeing both engines leaves (R89). -/
theorem rendezvoused_leaves (s : State) :
    let t := s.rendezvoused
    t.cur = s.cur ∧ t.mem = s.mem ∧ t.me = { s.me with tileProg := none, streamProg := none } ∧
      ∀ f, t.core.forkOf f = if (s.me.program? f).isSome then none else s.core.forkOf f := by
  obtain ⟨hc1, hm1, hme1, hf1⟩ := freeEngine_leaves s .tile
  obtain ⟨hc2, hm2, hme2, hf2⟩ := freeEngine_leaves (s.freeEngine .tile) .stream
  refine ⟨hc2.trans hc1, hm2.trans hm1, hme2.trans (by rw [hme1]; rfl), fun f => ?_⟩
  have hp : (s.me.withoutProg .tile).program? .stream = s.me.program? .stream := rfl
  rw [State.rendezvoused, hf2, hf1, hme1, hp]
  cases f with
  | tile => simp
  | stream => simp

/-- A hart past an RDV. -/
theorem rendezvoused_retire (hh : ByHart s) :
    let t := s.rendezvoused.retire
    t.me.tileProg = none ∧ t.me.streamProg = none ∧ t.me.pc = s.me.retire.pc ∧
      ∀ f, t.core.forkOf f = if (s.me.program? f).isSome then none else s.core.forkOf f := by
  obtain ⟨hc, _, hme, hf⟩ := rendezvoused_leaves s
  have hh' : ByHart s.rendezvoused := by rw [ByHart, hc]; exact hh
  obtain ⟨p, q, b, hr⟩ := Hart.retire_eq s.rendezvoused.me
  have hme' : s.rendezvoused.retire.me = s.rendezvoused.me.retire := by rw [retire_hart hh', State.me_setMe]
  intro t
  refine ⟨?_, ?_, ?_, fun f => ?_⟩
  · rw [hme', hr, hme]
  · rw [hme', hr, hme]
  · rw [hme', Hart.retire_pc, Hart.retire_pc, hme]
  · rw [core_retire hh', hf]

theorem Hart.takeTrap_progs (h : Hart) (t : TrapInfo) (g : Group) :
    (h.takeTrap t g).tileProg = h.tileProg ∧ (h.takeTrap t g).streamProg = h.streamProg := by
  have hd : ∀ k : Hart, k.dropQueue.tileProg = k.tileProg ∧ k.dropQueue.streamProg = k.streamProg := by
    intro k
    unfold Hart.dropQueue
    split
    · exact ⟨rfl, rfl⟩
    · exact ⟨rfl, rfl⟩
  obtain ⟨a, b, c, e, hc⟩ : ∃ a b c e, h.trapCsrs t = { h with tcause := a, tpc := b, tval := c, tstart := e } :=
    ⟨_, _, _, _, rfl⟩
  rw [Hart.takeTrap, hc]
  generalize hk : ({ h with tcause := a, tpc := b, tval := c, tstart := e, mmspKey := none } : Hart) = k
  have hp : k.tileProg = h.tileProg ∧ k.streamProg = h.streamProg := by
    rw [← hk]
    exact ⟨rfl, rfl⟩
  split
  · exact hp
  · exact ⟨(hd k).1.trans hp.1, (hd k).2.trans hp.2⟩

/-- The trap of an RDV that meets a stopped sequencer leaves its cause, PC, tval and position (R89, R96). -/
theorem rdv_stops {src : Nat} {i : StopInfo} (hh : ByHart s) (hf : s.me.finished = true)
    (ht : s.me.engineTrap = some (engineStop src i)) (hs : src < 8) (hq : s.quiet s.cur.owner = true) (hv : s.me.vqueue = []) :
    ∃ t, execRdv s = .next t ∧ t.me.tileProg = none ∧ t.me.streamProg = none ∧ bitsOf t.me.tcause 0 8 = 14 ∧
      bitsOf t.me.tcause 8 8 = i.cause.code ∧ bitsOf t.me.tcause 16 3 = src ∧ bitsOf t.me.tcause 32 32 = i.pc.toNat ∧
      t.me.tval = i.tval ∧ bitsOf t.me.tstart 0 32 = i.vstart.toNat ∧ bitsOf t.me.tstart 32 32 = i.kstart.toNat ∧
      t.mem = s.mem := by
  obtain ⟨hc, hm, hme, _⟩ := rendezvoused_leaves s
  have htrap : State.takeTrap s (engineStop src i) s.rendezvoused =
      s.rendezvoused.setMe (s.rendezvoused.me.takeTrap (engineStop src i) s.rendezvoused.group) := by
    obtain ⟨k, hk⟩ := hh
    rw [hk, Issuer.owner] at hq
    simp only [State.takeTrap, hc, hk, if_pos hq]
  refine ⟨_, rdv_trap hh hf ht, ?_⟩
  rw [htrap, State.me_setMe, State.setMe_mem, hm]
  obtain ⟨h1, h2⟩ := Hart.takeTrap_progs s.rendezvoused.me (engineStop src i) s.rendezvoused.group
  obtain ⟨_, _, hcause, htval, hstart⟩ := Hart.takeTrap_leaves s.rendezvoused.me (engineStop src i) s.rendezvoused.group
    (by rw [hme, hv])
  obtain ⟨b1, b2, b3, _, b5⟩ := bitsOf_tcauseOf (engineStop src i) s.rendezvoused.me.priv hs (show 0 < 32 by decide)
  rw [hcause, htval, hstart, h1, h2, hme]
  rw [hme] at b1 b2 b3 b5
  refine ⟨rfl, rfl, b1, b2, b3, b5, rfl, ?_, ?_, rfl⟩
  all_goals
    have h3 := i.vstart.isLt
    have h4 := i.kstart.isLt
    simp only [engineStop, Option.getD_some, bitsOf, BitVec.toNat_ofNat]
    omega

end

end Sys2Proof.Machine
end

section
/-! SUPPORT. The statements settled: Counted loops, waits, FORK and RDV (R86–R92). -/

namespace Sys2Proof.Proofs

open Sys2Proof.Machine

/-- Settles O11: LOOP, ENDLOOP and WAITC by their conditions, FORK by its descriptors (`forkDesc_ok`, `fork_next`), RDV by what the
sequencers have come to (`rdv_waits`, `rdv_next`, `rdv_stops`). -/
theorem loopsForksAndWaits : Obligations.LoopsForksAndWaits := by
  unfold Obligations.LoopsForksAndWaits
  refine ⟨fun d s hh hn => alu_next (srcs := []) hh hn fun s => BitVec.ofNat 64 s.cycle, ?loops, ?waits, ?forks, ?joins⟩
  case loops =>
    intro a c s hh hn hc count x
    have hmod : c.toNat % 8 = c.toNat := Nat.mod_eq_of_lt hc
    have hcount : count = BitVec.ofNat 32 ((s.rs a).toNat % 2 ^ 32) := BitVec.eq_of_toNat_eq (by simp [count])
    have hzero : count = 0 ↔ (s.rs a).toNat % 2 ^ 32 = 0 := by
      rw [← BitVec.toNat_inj, BitVec.toNat_setWidth]
      rfl
    have hend := endloop_next (c := c) hh
    rw [hmod] at hend
    refine ⟨fun h0 => ?_, fun t h0 ht => loop_zero hh hn (hzero.1 h0) (by rw [hmod]; exact ht), fun ha => ?_, fun ha h0 => ?_,
      fun ha h0 => ?_⟩
    · have := loop_next (c := c) hh hn (fun h => h0 (hzero.2 h))
      rwa [hmod, ← hcount] at this
    · exact hend.trans (congrArg _ (if_neg (fun h => Bool.false_ne_true (ha.symm.trans h))))
    · exact hend.trans (congrArg _ ((if_pos ha).trans (if_neg h0)))
    · refine hend.trans (congrArg _ ((if_pos ha).trans ((if_pos h0).trans ?_)))
      rw [h0]
  case waits =>
    intro ns nc nl nt s hh met all
    obtain ⟨h1, h2⟩ := waitc_next hh ns nc nl nt
    exact ⟨h1, fun h => (h2 h).trans (by rw [enterWait_hart hh])⟩
  case forks =>
    intro a b s hh hn hp hv hl hvl desc starts
    have hz : ∀ r, s.rs r = 0 → forkDesc (s.rs r) s = .ok none s := fun r h => by rw [h, forkDesc_zero]
    have hd : ∀ r e n, desc (s.rs r) e n → forkDesc (s.rs r) s = .ok (some (e, n)) s := fun r e n h => forkDesc_ok h
    have hstarts : ∀ (t : State) (p : SeqProg) (e n : Nat), Starts s p e n → t.me.pc = s.me.retire.pc → t.mem = s.mem →
        starts t p e n := by
      rintro t p e n ⟨h1, h2, h3, h4, h5, h6, h7, h8, h9, h10, h11, h12, h13⟩ hpc hm
      exact ⟨h1, h2, h3, h4, h5, h6, h7, h8, h9, h10, h11, h12, h13, hpc, hm⟩
    obtain ⟨rp, rq, rb, hret⟩ := Hart.retire_eq s.me
    have hwait := enterWait_hart hh
    refine ⟨fun ha hb => ?none, fun e n ha hb hf => ⟨fun ho => ?stream, fun ho => ?streamWaits⟩,
      fun e n ha hb ht hf => ⟨fun ho hr => ?tile, fun ho => ?tileWaits⟩,
      fun e n k m ha hb ht hf hg => ⟨fun ho hr hc => ?both, fun ho => ?bothWait⟩⟩
    case none =>
      exact (fork_next hh hn (hz a ha) (hz b hb) rfl).1 (by simp [State.forkWaits, hp, hv, hl, hvl])
    case stream =>
      obtain ⟨hm, hme, hfork⟩ := startSeq_retire hh .stream e n
      refine ⟨_, s.forked e n, (fork_next hh hn (hz a ha) (hd b e n hb) (by rw [hf]; rfl)).1
        (by simp [State.forkWaits, hp, hv, hl, hvl, ho]), ?_, ?_, hstarts _ _ _ _ (starts_forked s e n) ?_ hm, hfork .stream⟩
      · exact congrArg Hart.streamProg hme
      · exact (congrArg Hart.tileProg hme).trans (by rw [hret]; rfl)
      · exact (congrArg Hart.pc hme).trans (Hart.pc_setProg ..)
    case streamWaits =>
      exact ((fork_next hh hn (hz a ha) (hd b e n hb) (by rw [hf]; rfl)).2
        (by simp [State.forkWaits, hp, hv, hl, hvl, ho])).trans (congrArg _ hwait)
    case tile =>
      obtain ⟨hm, hme, hfork⟩ := startSeq_retire hh .tile e n
      refine ⟨_, s.forked e n, (fork_next hh hn (hd a e n ha) (hz b hb) (by rw [hf, ht]; rfl)).1
        (by simp [State.forkWaits, hp, hv, hl, hvl, ho, hr]), ?_, ?_, hstarts _ _ _ _ (starts_forked s e n) ?_ hm, hfork .tile⟩
      · exact congrArg Hart.tileProg hme
      · exact (congrArg Hart.streamProg hme).trans (by rw [hret]; rfl)
      · exact (congrArg Hart.pc hme).trans (Hart.pc_setProg ..)
    case tileWaits =>
      exact ((fork_next hh hn (hd a e n ha) (hz b hb) (by rw [hf, ht]; rfl)).2
        (by simp [State.forkWaits, hp, hv, hl, hvl, ho])).trans (congrArg _ hwait)
    case both =>
      obtain ⟨hm, hme, hfork, hst⟩ := startBoth_retire hh e n k m
      refine ⟨_, s.forked e n, (s.startSeq .tile e n).forked k m,
        (fork_next hh hn (hd a e n ha) (hd b k m hb) (by rw [hf, hg, ht]; rfl)).1
          (by simp [State.forkWaits, hp, hv, hl, hvl, ho, hr, hc]), ?_, ?_, hstarts _ _ _ _ (starts_forked s e n) ?_ hm,
        hstarts _ _ _ _ hst ?_ hm, hfork .tile, hfork .stream⟩
      · exact congrArg Hart.tileProg hme
      · exact congrArg Hart.streamProg hme
      · exact (congrArg Hart.pc hme).trans ((Hart.pc_setProg ..).trans (Hart.pc_setProg ..))
      · exact (congrArg Hart.pc hme).trans ((Hart.pc_setProg ..).trans (Hart.pc_setProg ..))
    case bothWait =>
      refine ((fork_next hh hn (hd a e n ha) (hd b k m hb) (by rw [hf, hg, ht]; rfl)).2 ?_).trans (congrArg _ hwait)
      rcases ho with ho | ho
      · simp [State.forkWaits, hp, hv, hl, hvl, ho]
      · simp [State.forkWaits, hp, hv, hl, hvl, ho]
  case joins =>
    intro s hh
    have hwait := enterWait_hart hh
    obtain ⟨hrt, hrs, hpc, hfork⟩ := rendezvoused_retire hh
    -- the two halves of `Hart.finished`, and its trap, by what stands on each engine
    have hprog : ∀ e p, s.me.program? e = some p → s.me.prog e = p := by
      intro e p hp
      cases e with
      | tile => rw [Hart.prog, show s.me.tileProg = some p from hp]; rfl
      | stream => rw [Hart.prog, show s.me.streamProg = some p from hp]; rfl
    have hnone : ∀ e, s.me.program? e = none → s.me.prog e = SeqProg.reset := by
      intro e hp
      cases e with
      | tile => rw [Hart.prog, show s.me.tileProg = none from hp]; rfl
      | stream => rw [Hart.prog, show s.me.streamProg = none from hp]; rfl
    have hended : ∀ p : SeqProg, p.ended = true → p.finished = true := fun p h => by rw [SeqProg.finished, h]; rfl
    have hstopped : ∀ (p : SeqProg) i, p.stop = some i → p.suspended = false → p.finished = true := fun p i h1 h2 => by
      rw [SeqProg.finished, h1, h2]
      exact Bool.or_true _
    have hrunning : ∀ p : SeqProg, p.ended = false → p.stop = none → p.finished = false := fun p h1 h2 => by
      rw [SeqProg.finished, h1, h2]
      rfl
    have hreset : SeqProg.reset.finished = true := rfl
    have hresetStop : SeqProg.reset.stop = none := rfl
    have hfin : (s.me.prog .tile).finished = true → (s.me.prog .stream).finished = true → s.me.finished = true := by
      intro h1 h2
      rw [Hart.finished, h1, h2]
      rfl
    have htrap : ∀ i j, (s.me.prog .tile).stop = i → (s.me.prog .stream).stop = j → s.me.engineTrap = (match i, j with
        | some i, some j => if (s.me.prog .tile).stopAt ≤ (s.me.prog .stream).stopAt then some (engineStop 2 i)
          else some (engineStop 3 j)
        | some i, none => some (engineStop 2 i)
        | none, some j => some (engineStop 3 j)
        | none, none => none) := by
      rintro i j rfl rfl
      rfl
    refine ⟨fun ht hs => ?noProgram, fun p ht hs he hn => ?streamEnds, fun p ht hs he hn => ?tileEnds,
      fun p q ht hs he hf hn hm => ?bothEnd, fun p hs he hn => ?streamRuns, fun p ht he hn => ?tileRuns, fun hq hv => ?stops⟩
    case noProgram =>
      have h1 := hnone .tile ht
      have h2 := hnone .stream hs
      refine (rdv_next hh (hfin (by rw [h1, hreset]) (by rw [h2, hreset]))
        (htrap none none (by rw [h1, hresetStop]) (by rw [h2, hresetStop]))).trans ?_
      have hr : s.rendezvoused = s := by
        have h1 : s.freeEngine .tile = s := by simp only [State.freeEngine, ht]
        rw [State.rendezvoused, h1]
        simp only [State.freeEngine, hs]
      rw [hr]
    case streamEnds =>
      have h1 := hnone .tile ht
      have h2 := hprog .stream p hs
      refine ⟨_, rdv_next hh (hfin (by rw [h1, hreset]) (by rw [h2, hended p he]))
        (htrap none none (by rw [h1, hresetStop]) (by rw [h2, hn])), hrs, hpc, ?_⟩
      exact (hfork .stream).trans (if_pos (by rw [show s.me.program? .stream = some p from hs]; rfl))
    case tileEnds =>
      have h1 := hprog .tile p ht
      have h2 := hnone .stream hs
      refine ⟨_, rdv_next hh (hfin (by rw [h1, hended p he]) (by rw [h2, hreset]))
        (htrap none none (by rw [h1, hn]) (by rw [h2, hresetStop])), hrt, hpc, ?_⟩
      exact (hfork .tile).trans (if_pos (by rw [show s.me.program? .tile = some p from ht]; rfl))
    case bothEnd =>
      have h1 := hprog .tile p ht
      have h2 := hprog .stream q hs
      refine ⟨_, rdv_next hh (hfin (by rw [h1, hended p he]) (by rw [h2, hended q hf]))
        (htrap none none (by rw [h1, hn]) (by rw [h2, hm])), hrt, hrs, hpc, ?_, ?_⟩
      · exact (hfork .tile).trans (if_pos (by rw [show s.me.program? .tile = some p from ht]; rfl))
      · exact (hfork .stream).trans (if_pos (by rw [show s.me.program? .stream = some q from hs]; rfl))
    case streamRuns =>
      refine (rdv_waits hh ?_).trans (congrArg _ hwait)
      rw [Hart.finished, hprog .stream p hs, hrunning p he hn, Bool.and_false]
    case tileRuns =>
      refine (rdv_waits hh ?_).trans (congrArg _ hwait)
      rw [Hart.finished, hprog .tile p ht, hrunning p he hn, Bool.false_and]
    case stops =>
      intro stops
      have hstops : ∀ src i, src < 8 → s.me.finished = true → s.me.engineTrap = some (engineStop src i) → stops src i :=
        fun src i hs hf ht => rdv_stops hh hf ht hs hq hv
      refine ⟨fun p i ht hs hi hu => ?_, fun p i ht hs hi hu => ?_, fun p q i ht hs hi hu he hn => ?_,
        fun p q i ht hs hi hu he hn => ?_, fun p q i j ht hs hi hj hu hw => ?_⟩
      · have h1 := hnone .tile ht
        have h2 := hprog .stream p hs
        exact hstops 3 i (by decide) (hfin (by rw [h1, hreset]) (by rw [h2, hstopped p i hi hu]))
          (htrap none (some i) (by rw [h1, hresetStop]) (by rw [h2, hi]))
      · have h1 := hprog .tile p ht
        have h2 := hnone .stream hs
        exact hstops 2 i (by decide) (hfin (by rw [h1, hstopped p i hi hu]) (by rw [h2, hreset]))
          (htrap (some i) none (by rw [h1, hi]) (by rw [h2, hresetStop]))
      · have h1 := hprog .tile p ht
        have h2 := hprog .stream q hs
        exact hstops 2 i (by decide) (hfin (by rw [h1, hstopped p i hi hu]) (by rw [h2, hended q he]))
          (htrap (some i) none (by rw [h1, hi]) (by rw [h2, hn]))
      · have h1 := hprog .tile p ht
        have h2 := hprog .stream q hs
        exact hstops 3 i (by decide) (hfin (by rw [h1, hended p he]) (by rw [h2, hstopped q i hi hu]))
          (htrap none (some i) (by rw [h1, hn]) (by rw [h2, hi]))
      · have h1 := hprog .tile p ht
        have h2 := hprog .stream q hs
        have hf := hfin (by rw [h1, hstopped p i hi hu]) (by rw [h2, hstopped q j hj hw])
        have hboth := htrap (some i) (some j) (by rw [h1, hi]) (by rw [h2, hj])
        rw [h1, h2] at hboth
        split
        next hle => exact hstops 2 i (by decide) hf (hboth.trans (if_pos hle))
        next hle => exact hstops 3 j (by decide) hf (hboth.trans (if_neg hle))

end Sys2Proof.Proofs
end

section
/-! SUPPORT. what handing on what a hart has gathered leaves -/

namespace Sys2Proof.Machine

/-! ## What changes memory and contexts only -/

/-- Nothing but memory and the contexts changes. -/
def DataOnly (s t : State) : Prop := ∃ m x, t = { s with mem := m, ctxs := x }

section

variable {s t u : State}

theorem DataOnly.refl (s : State) : DataOnly s s := ⟨_, _, rfl⟩

theorem DataOnly.trans (h : DataOnly s t) (k : DataOnly t u) : DataOnly s u := by
  obtain ⟨m, x, rfl⟩ := h
  obtain ⟨n, y, rfl⟩ := k
  exact ⟨n, y, rfl⟩

theorem DataOnly.foldl {α : Type} {f : State → α → State} (hf : ∀ s x, DataOnly s (f s x)) (l : List α) (s : State) :
    DataOnly s (l.foldl f s) := by
  induction l generalizing s with
  | nil => exact .refl s
  | cons x l ih => exact (hf s x).trans (ih _)

theorem dataOnly_setCtxAt (s : State) (c : Nat) (x : Ctx) : DataOnly s (s.setCtxAt c x) := ⟨_, _, rfl⟩

theorem dataOnly_setRunAt (s : State) (c e : Nat) (r : Run) : DataOnly s (s.setRunAt c e r) := ⟨_, _, rfl⟩

theorem dataOnly_putRunBytes (c e : Nat) (bs : List Byte) (s : State) (off : Nat) : DataOnly s (s.putRunBytes c e off bs) := by
  induction bs generalizing s off with
  | nil => exact .refl s
  | cons b bs ih => exact .trans (t := { s with mem := Memory.write s.mem (runByteKey (s.runAt c e) c e off) b }) ⟨_, _, rfl⟩ (ih ..)

theorem dataOnly_poisonLine (s : State) (c e line : Nat) : DataOnly s (s.poisonLine c e line) := by
  unfold State.poisonLine
  dsimp only
  split
  · exact .refl s
  · exact dataOnly_setRunAt ..

theorem dataOnly_cleanLine (s : State) (c e line : Nat) : DataOnly s (s.cleanLine c e line) := dataOnly_setRunAt ..

theorem dataOnly_cleanRange (s : State) (c e a b : Nat) : DataOnly s (s.cleanRange c e a b) :=
  .foldl (fun s _ => dataOnly_cleanLine s c e _) _ s

theorem dataOnly_putLine (c e : Nat) (s : State) (p : Nat × List Byte) : DataOnly s (State.putLine c e s p) := by
  unfold State.putLine
  split
  · exact dataOnly_poisonLine ..
  · exact (dataOnly_cleanLine ..).trans (dataOnly_putRunBytes ..)

theorem dataOnly_zeroFill (s : State) (c e a b : Nat) : DataOnly s (s.zeroFill c e a b) := by
  refine .foldl (fun t p => ?_) _ s
  split
  · exact .refl t
  · exact dataOnly_putLine ..

theorem dataOnly_wholeRecords (c e a size f : Nat) (s : State) (k : Nat) : DataOnly s (s.wholeRecords c e a size f k).1 := by
  induction f generalizing s k with
  | zero => exact .refl s
  | succ f ih =>
    unfold State.wholeRecords
    split
    · exact .refl s
    next l _ =>
      have h := (dataOnly_poisonLine s c e l).trans (ih (s.poisonLine c e l) ((64 * l - a) / size))
      split
      next heq => rw [heq] at h; exact h
      · exact h

theorem dataOnly_hostWord (s : State) (r : Run) (off v : Nat) : DataOnly s (s.hostWord r off v) := by
  unfold State.hostWord
  split
  · exact .refl s
  · exact ⟨_, _, rfl⟩

theorem dataOnly_setPub (s : State) (c e p : Nat) : DataOnly s (s.setPub c e p) := by
  unfold State.setPub
  dsimp only
  split
  · exact (dataOnly_setRunAt ..).trans (dataOnly_hostWord ..)
  · exact dataOnly_setRunAt ..

theorem dataOnly_publish (s : State) (c e : Nat) : DataOnly s (s.publish c e) := by
  unfold State.publish
  dsimp only
  split
  · exact dataOnly_setPub ..
  · exact .refl s

theorem dataOnly_stallWord (s : State) (c e : Nat) : DataOnly s (s.stallWord c e) := by
  unfold State.stallWord
  dsimp only
  split
  · exact dataOnly_hostWord ..
  · exact .refl s

theorem dataOnly_stallWords (s : State) (c : Nat) (ts : List Taken) : DataOnly s (s.stallWords c ts) :=
  .foldl (fun s _ => dataOnly_stallWord s c _) _ s

theorem dataOnly_storeAt (s : State) (pl : Place) (n v : Nat) : DataOnly s (s.storeAt pl n v) := by
  unfold State.storeAt
  split
  · exact ⟨_, _, rfl⟩
  · exact ⟨_, _, rfl⟩
  · exact dataOnly_setCtxAt ..
  · exact .refl s

theorem dataOnly_takePositions (s : State) (o : Op) (e : Nat) (data : List Byte) : DataOnly s (s.takePositions o e data).1 := by
  unfold State.takePositions
  dsimp only
  split
  · exact .refl s
  · exact dataOnly_setRunAt ..

theorem dataOnly_send (s : State) (c : Nat) (chip : BitVec 10) (tag : Nat) (w p : Bool) (b : MsgBody) :
    DataOnly s (s.send c chip tag w p b) := dataOnly_setCtxAt ..

/-- Writing one block of an append changes memory and contexts, and of the operation what it holds of the block. -/
theorem dataOnly_writeBlock (s : State) (o : Op) (t : Taken) : DataOnly s (s.writeBlock o t).1 := by
  unfold State.writeBlock
  dsimp only
  split
  · exact .refl s
  · split
    · split
      · exact dataOnly_zeroFill ..
      · exact .refl s
    · split
      · exact (((dataOnly_wholeRecords ..).trans (dataOnly_cleanRange ..)).trans (dataOnly_putRunBytes ..)).trans (dataOnly_zeroFill ..)
      · exact ((dataOnly_wholeRecords ..).trans (dataOnly_cleanRange ..)).trans (dataOnly_putRunBytes ..)

theorem dataOnly_writeTaken (ts : List Taken) (s : State) (o : Op) : DataOnly s (s.writeTaken o ts).1 := by
  induction ts generalizing s o with
  | nil => exact .refl s
  | cons t ts ih =>
    have h := dataOnly_writeBlock s o t
    unfold State.writeTaken
    split
    next heq =>
      rw [heq] at h
      exact h.trans (ih ..)
    next heq =>
      rw [heq] at h
      exact h

/-! ## What handing gathered records on leaves (R155, R169) -/

/-- A sequencer keeps its references, and at most becomes FREE from RETIRING (R233). -/
structure SeqrKept (x y : Sequencer) : Prop where
  refs : y.refs = x.refs
  state : y.state = x.state ∨ (x.state = .retiring ∧ y.state = .free)

theorem SeqrKept.refl (x : Sequencer) : SeqrKept x x := ⟨rfl, .inl rfl⟩

theorem SeqrKept.trans {x y z : Sequencer} (h : SeqrKept x y) (k : SeqrKept y z) : SeqrKept x z := by
  refine ⟨k.refs.trans h.refs, ?_⟩
  rcases h.state with h1 | ⟨h1, h2⟩
  · rw [← h1]
    exact k.state
  · rcases k.state with k1 | ⟨k1, _⟩
    · exact .inr ⟨h1, k1.trans h2⟩
    · rw [h2] at k1
      cases k1

theorem seqrKept_settle (x : Sequencer) (alive : Nat → Bool) : SeqrKept x (x.settle alive) := by
  unfold Sequencer.settle
  split
  next h =>
    rw [Bool.and_eq_true, beq_iff_eq] at h
    exact ⟨rfl, .inr ⟨h.1, rfl⟩⟩
  · exact .refl x

/-- A hart keeps all but its reports, its bindings with the registers that are bound, and what its sequencers have come to; no program
starts and no set is given up. -/
structure HartKept (x y : Hart) : Prop where
  fields : ∃ r v p q g d, y = { x with reports := r, vset := v, tileProg := p, streamProg := q, sregs := g, vdirty := d }
  tile : x.tileProg = none → y.tileProg = none
  stream : x.streamProg = none → y.streamProg = none
  set : y.vset.isSome = x.vset.isSome

theorem HartKept.refl (x : Hart) : HartKept x x := ⟨⟨_, _, _, _, _, _, rfl⟩, id, id, rfl⟩

theorem HartKept.trans {x y z : Hart} (h : HartKept x y) (k : HartKept y z) : HartKept x z := by
  obtain ⟨r, v, p, q, g, d, hy⟩ := h.fields
  obtain ⟨r', v', p', q', g', d', hz⟩ := k.fields
  exact ⟨⟨r', v', p', q', g', d', by rw [hz, hy]⟩, fun hx => k.tile (h.tile hx), fun hx => k.stream (h.stream hx), k.set.trans h.set⟩

/-- What handing on what write-bound registers have gathered leaves. -/
structure Handed (s t : State) : Prop where
  cur : t.cur = s.cur
  groups : t.groups = s.groups
  harts : ∀ k, HartKept (s.hart k) (t.hart k)
  tile : ∀ c, (t.coreAt c).tile = (s.coreAt c).tile
  fork : ∀ c, (t.coreAt c).streamFork = (s.coreAt c).streamFork
  seqs : ∀ c q, SeqrKept ((s.coreAt c).seqr q) ((t.coreAt c).seqr q)

theorem Handed.refl (s : State) : Handed s s := ⟨rfl, rfl, fun _ => .refl _, fun _ => rfl, fun _ => rfl, fun _ _ => .refl _⟩

theorem Handed.trans (h : Handed s t) (k : Handed t u) : Handed s u where
  cur := k.cur.trans h.cur
  groups := k.groups.trans h.groups
  harts x := (h.harts x).trans (k.harts x)
  tile c := (k.tile c).trans (h.tile c)
  fork c := (k.fork c).trans (h.fork c)
  seqs c q := (h.seqs c q).trans (k.seqs c q)

theorem Handed.foldl {α : Type} {f : State → α → State} (hf : ∀ s x, Handed s (f s x)) (l : List α) (s : State) :
    Handed s (l.foldl f s) := by
  induction l generalizing s with
  | nil => exact .refl s
  | cons x l ih => exact (hf s x).trans (ih _)

theorem DataOnly.handed (h : DataOnly s t) : Handed s t := by
  obtain ⟨m, x, rfl⟩ := h
  exact ⟨rfl, rfl, fun _ => .refl _, fun _ => rfl, fun _ => rfl, fun _ _ => .refl _⟩

/-- Operations in flight are no part of what is kept. -/
theorem handed_ops (s : State) (l : List Op) (n : Nat) : Handed s { s with ops := l, nextOp := n } :=
  ⟨rfl, rfl, fun _ => .refl _, fun _ => rfl, fun _ => rfl, fun _ _ => .refl _⟩

/-- A core whose engines and whose sequencers, but for their operations, are as they were. -/
theorem handed_setCoreAt {c : Nat} {x : Core} (ht : x.tile = (s.coreAt c).tile) (hf : x.streamFork = (s.coreAt c).streamFork)
    (hs : ∀ q, SeqrKept ((s.coreAt c).seqr q) (x.seqr q)) : Handed s (s.setCoreAt c x) := by
  have hc : ∀ k, (s.setCoreAt c x).coreAt k = if k = c then x else s.coreAt k := by
    intro k
    split
    next h => rw [h, State.coreAt_setCoreAt]
    next h => rw [State.coreAt_setCoreAt_ne s x h]
  refine ⟨rfl, rfl, fun _ => .refl _, fun k => ?_, fun k => ?_, fun k q => ?_⟩
  all_goals
    rw [hc]
    split
    next h => first | rw [h]; exact ht | rw [h]; exact hf | rw [h]; exact hs q
    next h => first | rfl | exact .refl _

/-- A hart that keeps what `HartKept` says. -/
theorem handed_setHart {k : HartId} {x : Hart} (h : HartKept (s.hart k) x) : Handed s (s.setHart k x) where
  cur := rfl
  groups := rfl
  harts j := by
    by_cases hj : j.key = k.key
    · rw [State.hart_eq_of_key s hj, State.hart_eq_of_key (s.setHart k x) hj, State.hart_setHart]
      exact h
    · rw [State.hart_setHart_ne s x hj]
      exact .refl _
  tile _ := rfl
  fork _ := rfl
  seqs _ _ := .refl _

theorem seqr_setSeqr_or (c : Core) (q r : Nat) (x : Sequencer) :
    (c.setSeqr q x).seqr r = c.seqr r ∨ (r = q ∧ (c.setSeqr q x).seqr r = x) := by
  rw [Core.setSeqr, Core.seqr, vecGet_vecSet]
  split
  next h => exact .inr ⟨h.1, rfl⟩
  · exact .inl rfl

theorem handed_setSeqr {c q : Nat} {x : Sequencer} (h : SeqrKept ((s.coreAt c).seqr q) x) :
    Handed s (s.setCoreAt c ((s.coreAt c).setSeqr q x)) := by
  refine handed_setCoreAt rfl rfl fun r => ?_
  rcases seqr_setSeqr_or (s.coreAt c) q r x with hr | ⟨rfl, hr⟩
  · rw [hr]
    exact .refl _
  · rw [hr]
    exact h

theorem handed_settleCore (s : State) (c : Nat) : Handed s (s.settleCore c) := by
  refine handed_setCoreAt rfl rfl fun q => ?_
  have hv : ∀ (v : Vector Sequencer 64), SeqrKept (vecGet Sequencer.reset v q)
      (vecGet Sequencer.reset (v.map (fun x => x.settle s.alive)) q) := by
    intro v
    have hd : Sequencer.reset.settle s.alive = Sequencer.reset := rfl
    rw [vecGet, vecGet, Vector.toList_map]
    simp only [List.getD_eq_getElem?_getD, List.getElem?_map]
    cases hx : v.toList[q]? with
    | none => exact .refl _
    | some x => exact seqrKept_settle x _
  exact hv _

theorem handed_endOp (s : State) (o : Op) : Handed s (s.endOp o) := by
  have hp : ∀ t : State, Handed t (t.endParent o) := by
    intro t
    unfold State.endParent
    split
    · split
      · exact .refl t
      · exact handed_ops t _ _
    · exact .refl t
  exact ((handed_ops s _ s.nextOp).trans (hp _)).trans (handed_settleCore ..)

theorem handed_unqueue (s : State) (who : Issuer) : Handed s (s.unqueue who) :=
  handed_setCoreAt rfl rfl fun _ => .refl _

theorem hartKept_reports (x : Hart) (r : List Report) : HartKept x { x with reports := r } := ⟨⟨_, _, _, _, _, _, rfl⟩, id, id, rfl⟩

theorem handed_reportBy (s : State) (who : Issuer) (prog : Nat) (c : Cause) (v : Word) (pc : BitVec 32) (lane : Bool) :
    Handed s (s.reportBy who prog c v pc lane) := by
  unfold State.reportBy
  dsimp only
  split
  · exact .refl s
  · split
    next k e _ =>
      split
      next h =>
        refine Handed.trans (handed_setHart ?_) (handed_unqueue ..)
        have hf : (s.hart k).forked e = true := by
          rw [Bool.and_eq_true, Bool.and_eq_true] at h
          exact h.1.1
        cases e with
        | tile =>
          refine ⟨⟨_, _, _, _, _, _, rfl⟩, fun hn => ?_, id, rfl⟩
          rw [Hart.forked, show (s.hart k).tileProg = none from hn] at hf
          cases hf
        | stream =>
          refine ⟨⟨_, _, _, _, _, _, rfl⟩, id, fun hn => ?_, rfl⟩
          rw [Hart.forked, show (s.hart k).streamProg = none from hn] at hf
          cases hf
      · exact handed_setHart (hartKept_reports ..)
    · exact handed_setHart (hartKept_reports ..)

theorem handed_report (s : State) (who : Issuer) (c : Cause) (v : Word) (pc : BitVec 32) (lane : Bool) :
    Handed s (s.report who c v pc lane) := by
  unfold State.report
  split
  · split
    · exact handed_reportBy ..
    · exact .refl s
  · exact handed_reportBy ..

theorem hartKept_setVreg (x : Hart) (n : Nat) (v : BitVec 16384) : HartKept x (x.setVreg n v) := by
  unfold Hart.setVreg
  split
  · exact .refl x
  · split
    · exact .refl x
    next h => exact ⟨⟨_, _, _, _, _, _, rfl⟩, id, id, by rw [h]; rfl⟩

theorem hartKept_vset {x : Hart} {v w : VSet} (h : x.vset = some v) : HartKept x { x with vset := some w } :=
  ⟨⟨_, _, _, _, _, _, rfl⟩, id, id, by rw [h]; rfl⟩

theorem handed_setBind (s : State) (b : Binding) : Handed s (s.setBind b) := by
  unfold State.setBind
  split
  · exact .refl s
  next h => exact handed_setHart (hartKept_vset h)

theorem handed_reportOp (s : State) (o : Op) (c : Cause) (v : Word) (lane : Bool) : Handed s (s.reportOp o c v lane) :=
  handed_reportBy ..

theorem handed_pushOp (s : State) (o : Op) : Handed s (s.pushOp o) := handed_ops ..

theorem handed_setOp (s : State) (o : Op) : Handed s (s.setOp o) := handed_ops ..

theorem handed_enter (s : State) (c q : Nat) : Handed s (s.enter c q) := handed_setSeqr ⟨rfl, .inl rfl⟩

theorem handed_addOp (s : State) (q : Nat) (cls : OpClass) (kind : OpKind) : Handed s (s.addOp q cls kind) := by
  unfold State.addOp
  split
  · exact handed_pushOp ..
  · split
    · exact .refl s
    · exact (handed_enter ..).trans (handed_pushOp ..)

theorem handed_driveAppend (s : State) (o : Op) {after : State → State} (ha : ∀ t, Handed t (after t)) :
    Handed s (s.driveAppend o after) := by
  have hw := (dataOnly_writeTaken o.taken s o).handed
  unfold State.driveAppend
  refine Handed.trans ?_ (dataOnly_stallWords ..).handed
  split
  next heq =>
    rw [heq] at hw
    exact hw.trans ((handed_endOp ..).trans (ha _))
  next heq =>
    rw [heq] at hw
    exact hw.trans ((handed_endOp ..).trans (handed_reportOp ..))
  next heq =>
    rw [heq] at hw
    exact hw.trans ((handed_endOp ..).trans (handed_reportOp ..))
  next heq =>
    rw [heq] at hw
    exact hw.trans (handed_setOp ..)

theorem handed_startAppend (s : State) (o : Op) (run : Word) (data : List Byte) : Handed s (s.startAppend o run data) := by
  unfold State.startAppend
  dsimp only
  split
  · exact (dataOnly_takePositions ..).handed.trans (handed_driveAppend _ _ .refl)
  · exact (handed_endOp ..).trans (handed_reportOp ..)

theorem handed_addRemote (s : State) (q : Nat) (cls : OpClass) (kind : OpKind) (group : Nat) :
    Handed s (s.addRemote q cls kind group) :=
  (handed_addOp ..).trans (handed_ops _ _ _)

theorem handed_emit (s : State) (b : Binding) (data : List Byte) : Handed s (s.emit b data) := by
  unfold State.emit
  dsimp only
  split
  · exact handed_report ..
  · refine (handed_addOp s b.seq .uncounted (.append b.handle data)).trans ?_
    generalize s.addOp b.seq .uncounted (.append b.handle data) = t
    split
    · exact .refl _
    · split
      · exact handed_startAppend ..
      · exact handed_setOp ..

theorem handed_flushRecords (s : State) (b : Binding) : Handed s (s.flushRecords b) := by
  unfold State.flushRecords
  dsimp only
  split
  · exact .refl s
  · exact (handed_setBind ..).trans (handed_emit ..)

theorem dataOnly_patPut (s : State) (e : PatByte) : DataOnly s (PatByte.put s e) := by
  unfold PatByte.put
  split
  · exact dataOnly_storeAt ..
  · exact .refl s

theorem handed_sendPat (q group : Nat) (es : List PatByte) (s : State) (t : BitVec 10 × Nat) :
    Handed s (State.sendPat q group es s t) :=
  (handed_addRemote ..).trans (.foldl (fun _ _ => (dataOnly_send ..).handed) _ _)

theorem handed_storePattern (s : State) (b : Binding) : Handed s (s.storePattern b) := by
  unfold State.storePattern
  dsimp only
  refine (DataOnly.foldl dataOnly_patPut (s.patBytes b) s).handed.trans ?_
  refine Handed.trans ?_ (.foldl (fun t x => handed_sendPat _ _ _ t x) _ _)
  split
  · exact handed_report ..
  · exact .refl _

theorem handed_flushPattern (s : State) (b : Binding) : Handed s (s.flushPattern b) := by
  unfold State.flushPattern
  dsimp only
  split
  · exact (handed_setBind ..).trans (handed_storePattern ..)
  · exact (handed_setBind ..).trans (handed_addOp ..)

theorem handed_flush (s : State) (b : Binding) : Handed s (s.flush b) := by
  unfold State.flush
  split
  · split
    · exact handed_setBind ..
    · exact handed_flushRecords ..
  · split
    · exact .refl s
    · split
      · exact handed_setBind ..
      · exact handed_flushPattern ..
  · exact .refl s

theorem handed_flushBinds (s : State) : Handed s s.flushBinds := .foldl handed_flush _ s

/-- The issuer that acts for a hart in between is none of what is kept. -/
theorem Handed.as {i : Issuer} (h : Handed { s with cur := i } t) : Handed s { t with cur := s.cur } :=
  ⟨rfl, h.groups, h.harts, h.tile, h.fork, h.seqs⟩

theorem handed_unbound (s : State) (r : Nat) :
    Handed s (s.setMe ((match s.me.vset with
      | none => s.me
      | some v => { s.me with vset := some { v with binds := v.binds.filter (fun c => c.reg ≠ r) } }).setVreg r 0)) := by
  refine handed_setHart (HartKept.trans ?_ (hartKept_setVreg ..))
  split
  · exact .refl _
  next h => exact hartKept_vset h

theorem handed_unbind (s : State) (b : Binding) : Handed s (s.unbind b) := by
  refine (handed_flush s b).trans (.trans ?_ (handed_unbound _ (((s.flush b).bindOf b.reg).getD b).reg))
  split
  · exact handed_emit ..
  · exact .refl _

theorem handed_unbindAll (s : State) : Handed s s.unbindAll := .foldl handed_unbind _ s

theorem handed_flushStalled (s : State) (h : HartId) : Handed s (s.flushStalled h) := by
  unfold State.flushStalled
  split
  · exact (handed_flushBinds _).as
  · exact .refl s

end

end Sys2Proof.Machine
end

section
/-! SUPPORT. a halting hart -/

namespace Sys2Proof.Machine

/-! ## What a halted hart keeps while its group's barriers see it go (R312) -/

/-- A halted hart stays so, without a vector set it gets none, and its handles and the core's sequencers stay. -/
structure HaltedKept (h : HartId) (s t : State) : Prop where
  state : (t.hart h).state = .halted
  set : (s.hart h).vset = none → (t.hart h).vset = none
  hregs : (t.hart h).hregs = (s.hart h).hregs
  seqs : ∀ c q, SeqrKept ((s.coreAt c).seqr q) ((t.coreAt c).seqr q)

section

variable {s t u : State} {h : HartId}

theorem HaltedKept.refl (hs : (s.hart h).state = .halted) : HaltedKept h s s := ⟨hs, id, rfl, fun _ _ => .refl _⟩

theorem HaltedKept.trans (a : HaltedKept h s t) (b : HaltedKept h t u) : HaltedKept h s u where
  state := b.state
  set hs := b.set (a.set hs)
  hregs := b.hregs.trans a.hregs
  seqs c q := (a.seqs c q).trans (b.seqs c q)

theorem HaltedKept.foldl {α : Type} {f : State → α → State} (hf : ∀ s x, (s.hart h).state = .halted → HaltedKept h s (f s x))
    (l : List α) {s : State} (hs : (s.hart h).state = .halted) : HaltedKept h s (l.foldl f s) := by
  induction l generalizing s with
  | nil => exact .refl hs
  | cons x l ih =>
    have hx := hf s x hs
    exact hx.trans (ih hx.state)

theorem HartKept.set_none {x y : Hart} (h : HartKept x y) (hx : x.vset = none) : y.vset = none := by
  have hi := h.set
  rw [hx] at hi
  exact Option.isNone_iff_eq_none.1 (by rw [← Option.not_isSome, hi]; rfl)

theorem Handed.haltedKept (hd : Handed s t) (hs : (s.hart h).state = .halted) : HaltedKept h s t := by
  obtain ⟨r, v, p, q, g, d, hx⟩ := (hd.harts h).fields
  exact ⟨by rw [hx]; exact hs, (hd.harts h).set_none, by rw [hx], hd.seqs⟩

/-- A change of another hart. -/
theorem haltedKept_setHart {k : HartId} (x : Hart) (hk : h.key ≠ k.key) (hs : (s.hart h).state = .halted) :
    HaltedKept h s (s.setHart k x) := by
  have hh := State.hart_setHart_ne s x hk
  exact ⟨by rw [hh]; exact hs, fun hv => by rw [hh]; exact hv, by rw [hh], fun _ _ => .refl _⟩

/-- A halted hart waits at no barrier. -/
theorem barWait?_halted {k : HartId} (hk : k.key = h.key) (hs : (s.hart h).state = .halted) : s.barWait? k = none := by
  rw [← State.hart_eq_of_key s hk] at hs
  unfold State.barWait?
  dsimp only
  rw [if_pos (.inl (by rw [hs]; decide))]

theorem haltedKept_latchAll (bit : Nat) (l : List HartId) (hs : (s.hart h).state = .halted) :
    HaltedKept h s (s.latchAll bit l) := by
  have hl := latched_all bit l s
  obtain ⟨m, hm, _⟩ := hl.hart h
  refine ⟨by rw [hm]; exact hs, fun hv => by rw [hm]; exact hv, by rw [hm], fun c q => ?_⟩
  rw [State.coreAt, State.coreAt, hl.cores]
  exact .refl _

theorem haltedKept_setBarrier (g b : Nat) (x : Barrier) (hs : (s.hart h).state = .halted) :
    HaltedKept h s (s.setBarrier g b x) := ⟨hs, id, rfl, fun _ _ => .refl _⟩

theorem haltedKept_releaseWaiter (p : BitVec 32) (b : Nat) (k : HartId) (hs : (s.hart h).state = .halted) :
    HaltedKept h s (State.releaseWaiter p b s k) := by
  unfold State.releaseWaiter
  by_cases hk : h.key = k.key
  · rw [barWait?_halted hk.symm hs]
    exact .refl hs
  · split
    · split
      · exact haltedKept_setHart _ hk hs
      · exact .refl hs
    · exact .refl hs

theorem haltedKept_releaseEmpty (b : Nat) (k : HartId) (hs : (s.hart h).state = .halted) :
    HaltedKept h s (State.releaseEmpty b s k) := by
  unfold State.releaseEmpty
  split
  · split
    · exact haltedKept_releaseWaiter _ _ _ hs
    · exact .refl hs
  · exact .refl hs

theorem haltedKept_completePhase (g b : Nat) (hs : (s.hart h).state = .halted) : HaltedKept h s (s.completePhase g b) := by
  have h1 := haltedKept_setBarrier g b { s.barrier g b with phase := (s.barrier g b).phase + 1, arrived := [] } hs
  have h2 := haltedKept_latchAll 2 (s.liveMembers g (s.barrier g b).cfg) h1.state
  exact h1.trans (h2.trans (.foldl (fun _ k hk => haltedKept_releaseWaiter _ b k hk) _ h2.state))

theorem haltedKept_testBarrier (g b : Nat) (hs : (s.hart h).state = .halted) : HaltedKept h s (s.testBarrier g b) := by
  unfold State.testBarrier
  dsimp only
  split
  · split
    · split
      · exact haltedKept_completePhase g b hs
      · exact .refl hs
    · have hc : HaltedKept h s (if ((s.liveMembers g (s.barrier g b).cfg).all fun h => (s.barrier g b).arrived.contains h.num) &&
          !(s.barrier g b).arrived.isEmpty then s.completePhase g b else s) := by
        split
        · exact haltedKept_completePhase g b hs
        · exact .refl hs
      split
      · have hb := fun x => haltedKept_setBarrier g b x hc.state
        exact hc.trans ((hb _).trans (.foldl (fun _ k hk => haltedKept_releaseEmpty b k hk) _ (hb _).state))
      · exact hc
  · exact .refl hs

theorem haltedKept_hartTrap {k : HartId} (hk : h.key ≠ k.key) (i : TrapInfo) (hs : (s.hart h).state = .halted) :
    HaltedKept h s (s.hartTrap k i) := by
  have hf := ((handed_unqueue s (.hart k)).trans (handed_flushStalled _ k)).haltedKept hs
  exact hf.trans (haltedKept_setHart _ hk hf.state)

theorem haltedKept_breakWaiter (b : Nat) {k : HartId} (hk : h.key ≠ k.key) (hs : (s.hart h).state = .halted) :
    HaltedKept h s (State.breakWaiter b s k) := by
  unfold State.breakWaiter
  dsimp only
  have hx := fun x => haltedKept_setHart (s := s) x hk hs
  split
  · exact (hx _).trans (haltedKept_hartTrap hk _ (hx _).state)
  · exact hx _

theorem haltedKept_breakBarrier (g b : Nat) (hs : (s.hart h).state = .halted) : HaltedKept h s (s.breakBarrier g b) := by
  have h1 := haltedKept_setBarrier g b { s.barrier g b with state := .broken } hs
  have h2 := fun l => haltedKept_latchAll 2 l h1.state
  have hw : ∀ (l : List HartId), (∀ k ∈ l, h.key ≠ k.key) → ∀ t : State, (t.hart h).state = .halted →
      HaltedKept h t (l.foldl (State.breakWaiter b) t) := by
    intro l
    induction l with
    | nil => exact fun _ t ht => .refl ht
    | cons k l ih =>
      intro hl t ht
      have hb := haltedKept_breakWaiter b (hl k (List.mem_cons_self ..)) ht
      exact hb.trans (ih (fun j hj => hl j (List.mem_cons_of_mem _ hj)) _ hb.state)
  refine h1.trans ((h2 _).trans (hw _ (fun k hk he => ?_) _ (h2 _).state))
  rw [List.mem_filter, barWait?_halted he.symm hs] at hk
  cases hk.2

theorem haltedKept_leaveBarrier (k : HartId) (b : Nat) (hs : (s.hart h).state = .halted) :
    HaltedKept h s (State.leaveBarrier k s b) := by
  unfold State.leaveBarrier
  dsimp only
  have h1 := fun x => haltedKept_setBarrier (s := s) k.group b x hs
  split
  · split
    · exact (h1 _).trans (haltedKept_breakBarrier _ _ (h1 _).state)
    · exact h1 _
  · exact (h1 _).trans (haltedKept_testBarrier _ _ (h1 _).state)

end

/-! ## What a hart that halts gives up (R103, R234) -/

/-- A sequencer that no handle names any more. -/
def Unnamed (x : Sequencer) : Prop := x.refs ≤ 1 ∧ x.state ∈ [SeqState.retiring, .free]

section

variable {s : State}

theorem SeqrKept.unnamed {x y : Sequencer} (h : SeqrKept x y) (hx : Unnamed x) : Unnamed y := by
  obtain ⟨hr, hs⟩ := hx
  refine ⟨by rw [h.refs]; exact hr, ?_⟩
  rcases h.state with h1 | ⟨_, h2⟩
  · rw [h1]; exact hs
  · rw [h2]; decide

theorem seqr_setSeqr_ite (c : Core) (q r : Nat) (x : Sequencer) :
    (c.setSeqr q x).seqr r = if r = q ∧ q < 64 then x else c.seqr r := by
  rw [Core.setSeqr, Core.seqr, vecGet_vecSet, Core.seqr]

/-- What dropping one reference leaves of each sequencer of each core. -/
theorem seqr_dropRef (s : State) (c q k r : Nat) :
    (((s.coreAt k).seqr r).refs ≤ 1 → (((s.dropRef c q).coreAt k).seqr r).refs ≤ 1) ∧
    (Unnamed ((s.coreAt k).seqr r) → Unnamed (((s.dropRef c q).coreAt k).seqr r)) ∧
    (k = c → r = q → q < 64 → ((s.coreAt k).seqr r).refs ≤ 1 → Unnamed (((s.dropRef c q).coreAt k).seqr r)) := by
  have hlast : ∀ x : Sequencer, x.refs ≤ 1 →
      Unnamed ((if x.refs ≤ 1 then { x with refs := 0, state := .retiring } else { x with refs := x.refs - 1 }).settle s.alive) := by
    intro x hx
    rw [if_pos hx]
    exact (seqrKept_settle _ _).unnamed ⟨Nat.zero_le 1, by simp⟩
  by_cases hk : k = c
  · subst hk
    rw [State.dropRef, State.coreAt_setCoreAt]
    rw [seqr_setSeqr_ite]
    by_cases hr : r = q ∧ q < 64
    · obtain ⟨rfl, hq⟩ := hr
      rw [if_pos ⟨rfl, hq⟩]
      exact ⟨fun h => (hlast _ h).1, fun h => hlast _ h.1, fun _ _ _ h => hlast _ h⟩
    · rw [if_neg hr]
      exact ⟨id, id, fun _ h1 h2 => absurd ⟨h1, h2⟩ hr⟩
  · rw [State.dropRef, State.coreAt_setCoreAt_ne s _ hk]
    exact ⟨id, id, fun h => absurd h hk⟩

/-- What dropping the handles of a list of registers leaves: a sequencer named once, by one of them, is named no more. -/
theorem dropAll_leaves (c k r : Nat) (l : List (Option Nat)) (s : State) (h1 : ((s.coreAt k).seqr r).refs ≤ 1) :
    let t := l.foldl (fun s q => match q with
      | some q => s.dropRef c q
      | none => s) s
    ((t.coreAt k).seqr r).refs ≤ 1 ∧ (Unnamed ((s.coreAt k).seqr r) → Unnamed ((t.coreAt k).seqr r)) ∧
      (k = c → r < 64 → some r ∈ l → Unnamed ((t.coreAt k).seqr r)) := by
  induction l generalizing s with
  | nil => exact ⟨h1, id, fun _ _ h => absurd h List.not_mem_nil⟩
  | cons x l ih =>
    cases x with
    | none =>
      obtain ⟨a, b, d⟩ := ih s h1
      exact ⟨a, b, fun hk hr hm => d hk hr (by simpa using hm)⟩
    | some q =>
      obtain ⟨hone, hstay, hlast⟩ := seqr_dropRef s c q k r
      obtain ⟨a, b, d⟩ := ih (s.dropRef c q) (hone h1)
      refine ⟨a, fun hu => b (hstay hu), fun hk hr hm => ?_⟩
      rcases List.mem_cons.1 hm with he | hm
      · cases he
        exact b (hlast hk rfl hr h1)
      · exact d hk hr hm

theorem seqsOnly_dropAll (c : Nat) (l : List (Option Nat)) (s : State) :
    SeqsOnly s (l.foldl (fun s q => match q with
      | some q => s.dropRef c q
      | none => s) s) := by
  induction l generalizing s with
  | nil => exact .refl s
  | cons x l ih =>
    cases x with
    | none => exact ih s
    | some q => exact (seqsOnly_setSeqr ..).trans (ih _)

theorem vecGet_cleared {x : Option Nat} {k : Nat} (h1 : 1 ≤ k) :
    vecGet none ((Vector.replicate 16 (none : Option Nat)).setIfInBounds 0 x) k = none := by
  have h := vecGet_vecSet (d := none) (Vector.replicate 16 (none : Option Nat)) 0 k x
  rw [vecSet, if_neg (fun h => by omega)] at h
  rw [h, vecGet, Vector.toList_replicate, List.getD_eq_getElem?_getD, List.getElem?_replicate]
  split <;> rfl

theorem mem_drop_of_vecGet {v : Vector (Option Nat) 16} {k q : Nat} (h1 : 1 ≤ k) (h : vecGet none v k = some q) :
    some q ∈ v.toList.drop 1 := by
  obtain ⟨j, rfl⟩ : ∃ j, k = 1 + j := ⟨k - 1, by omega⟩
  rw [vecGet, List.getD_eq_getElem?_getD, ← List.getElem?_drop] at h
  cases hg : (v.toList.drop 1)[j]? with
  | none => rw [hg] at h; cases h
  | some y =>
    rw [hg] at h
    exact List.mem_of_getElem? (hg.trans (congrArg some h))

/-- A hart that has given up its bindings, its handles and its set (R103). -/
theorem endHart_leaves (s : State) (h : HartId) :
    let t := s.endHart h
    t.cur = s.cur ∧ t.groups = s.groups ∧ (t.hart h).vset = none ∧ (t.hart h).core = (s.hart h).core ∧
      ((s.hart h).tileProg = none → (t.hart h).tileProg = none) ∧
      ((s.hart h).streamProg = none → (t.hart h).streamProg = none) ∧
      (∀ k, 1 ≤ k → vecGet none (t.hart h).hregs k = none) ∧
      ∀ k q, 1 ≤ k → vecGet none (s.hart h).hregs k = some q → q < 64 →
        ((s.coreAt (s.hart h).core).seqr q).refs ≤ 1 → Unnamed ((t.coreAt (s.hart h).core).seqr q) := by
  have hd : Handed s { ({ s with cur := .hart h } : State).unbindAll with cur := s.cur } := (handed_unbindAll _).as
  rw [State.endHart]
  dsimp only
  revert hd
  generalize { ({ s with cur := .hart h } : State).unbindAll with cur := s.cur } = u
  intro hd
  obtain ⟨r, v, p, q, g, d, hu⟩ := (hd.harts h).fields
  have hk := hd.harts h
  have hcore : (u.hart h).core = (s.hart h).core := by rw [hu]
  have hregs : (u.hart h).hregs = (s.hart h).hregs := by rw [hu]
  have ho := seqsOnly_dropAll (u.hart h).core ((u.hart h).hregs.toList.drop 1) u
  have hl := fun k r => dropAll_leaves (u.hart h).core k r ((u.hart h).hregs.toList.drop 1) u
  rw [State.dropHandles]
  dsimp only
  revert ho hl
  generalize List.foldl _ u _ = w
  intro ho hl
  have hw : w.hart h = u.hart h := by rw [State.hart, ho.harts]; rfl
  simp only [State.hart_setHart, hw, hregs]
  refine ⟨ho.cur.trans hd.cur, ho.groups.trans hd.groups, trivial, hcore, hk.tile, hk.stream, fun k => vecGet_cleared, ?_⟩
  intro k q h1 hg hq hr
  have hrefs := (hd.seqs (s.hart h).core q).refs
  rw [← hregs] at hg
  exact (hl _ q (hrefs ▸ hr)).2.2 hcore.symm hq (mem_drop_of_vecGet h1 hg)

theorem freeEngine_none {s : State} {e : Eng} (h : s.me.program? e = none) : s.freeEngine e = s := by
  cases e with
  | tile => rw [State.freeEngine, show s.me.tileProg = none from h]
  | stream => rw [State.freeEngine, show s.me.streamProg = none from h]

/-- A hart without programs that halts (R103). -/
theorem stopHart_leaves {s : State} {h : HartId} (ht : (s.hart h).tileProg = none) (hs : (s.hart h).streamProg = none) :
    let t := s.stopHart h
    (t.hart h).state = .halted ∧ ((s.hart h).vset = none → (t.hart h).vset = none) ∧ (t.hart h).hregs = (s.hart h).hregs ∧
      ∀ c q, SeqrKept ((s.coreAt c).seqr q) ((t.coreAt c).seqr q) := by
  have hf : ((State.freeEngine { s with cur := .hart h } .tile).freeEngine .stream) = { s with cur := .hart h } := by
    rw [freeEngine_none (s := { s with cur := .hart h }) (e := .tile) ht,
      freeEngine_none (s := { s with cur := .hart h }) (e := .stream) hs]
  rw [State.stopHart]
  dsimp only
  rw [hf]
  have hd : Handed s (((State.unqueue s (.hart h)).unqueue (.seq h .tile)).unqueue (.seq h .stream)) :=
    ((handed_unqueue ..).trans (handed_unqueue ..)).trans (handed_unqueue ..)
  have he : (((State.unqueue { s with cur := s.cur } (.hart h)).unqueue (.seq h .tile)).unqueue (.seq h .stream)) =
      (((State.unqueue s (.hart h)).unqueue (.seq h .tile)).unqueue (.seq h .stream)) := rfl
  rw [he]
  revert hd
  generalize ((State.unqueue s (.hart h)).unqueue (.seq h .tile)).unqueue (.seq h .stream) = u
  intro hd
  generalize hw : u.setHart h _ = w
  have hx : (w.hart h).state = .halted ∧ ((u.hart h).vset = none → (w.hart h).vset = none) ∧
      (w.hart h).hregs = (u.hart h).hregs ∧ w.cores = u.cores := by
    rw [← hw, State.hart_setHart]
    exact ⟨rfl, fun h => by rw [h]; rfl, rfl, rfl⟩
  obtain ⟨hst, hset, hregs, hcores⟩ := hx
  have hb := HaltedKept.foldl (fun _ b => haltedKept_leaveBarrier h b) (List.range 32) hst
  obtain ⟨r, v, p, q, g, d, hu⟩ := (hd.harts h).fields
  refine ⟨hb.state, fun hv => hb.set (hset ((hd.harts h).set_none hv)), hb.hregs.trans (hregs.trans (by rw [hu])), fun c q => ?_⟩
  have hc := hb.seqs c q
  rw [State.coreAt, hcores] at hc
  exact (hd.seqs c q).trans hc

/-- What HALTH does to its hart, its group, and the sequencers that its handles name (R103). -/
def State.halt (s : State) : State := (s.haltHart s.cur.owner).checkExit s.cur.owner.group

theorem halth_next (hh : ByHart s) (ht : s.me.tileProg = none) (hs : s.me.streamProg = none) (hst : s.me.strands = [])
    (hl : s.me.lanes = []) (ho : ∀ o ∈ s.ops, o.issuer.owner ≠ s.cur.owner) : execHalth s = .next s.halt := by
  refine issue_ok (f := .stay) hh _ ?_
  have hops : (s.groupOps s.cur.owner.group).all (fun o => o.issuer.owner != s.cur.owner) = true := by
    rw [List.all_eq_true]
    exact fun o hm => bne_iff_ne.2 (ho o (List.mem_filter.1 hm).1)
  have hf : s.me.finished = true := by
    rw [Hart.finished, Hart.prog, Hart.prog, ht, hs]
    rfl
  have he : s.me.engineTrap = none := by
    rw [Hart.engineTrap, Hart.prog, Hart.prog, ht, hs]
    rfl
  have hr : s.rendezvoused = s := by
    rw [State.rendezvoused, freeEngine_none (e := .tile) ht, freeEngine_none (e := .stream) hs]
  rw [Hart.finished] at hf
  rw [State.rendezvoused] at hr
  simp only [haltWait, rendezvous, run_bind, run_get, hf, if_true, run_set, he, run_pure, hr, hops, hst, hl, List.any_nil,
    List.isEmpty_nil, Bool.not_true, Bool.or_false, Bool.false_eq_true, if_false, run_act]

theorem checkExit_hart (s : State) (g : Nat) (h : HartId) : (s.checkExit g).hart h = s.hart h := by
  unfold State.checkExit
  split <;> rfl

theorem checkExit_coreAt (s : State) (g c : Nat) : (s.checkExit g).coreAt c = s.coreAt c := by
  unfold State.checkExit
  split <;> rfl

/-- What a HALTH leaves of its hart and of the sequencers that its handles named (R103, R234). -/
theorem halt_leaves (ht : s.me.tileProg = none) (hs : s.me.streamProg = none) :
    let t := s.halt
    (t.hart s.cur.owner).state = .halted ∧ (t.hart s.cur.owner).vset = none ∧
      ∀ k, 1 ≤ k → vecGet none (t.hart s.cur.owner).hregs k = none ∧
        ∀ q, vecGet none s.me.hregs k = some q → q < 64 → (s.core.seqr q).refs ≤ 1 →
          Unnamed ((t.coreAt s.me.core).seqr q) := by
  obtain ⟨_, _, hset, _, htile, hstream, hregs, hseqs⟩ := endHart_leaves s s.cur.owner
  obtain ⟨hstate, hset', hregs', hkept⟩ := stopHart_leaves (htile ht) (hstream hs)
  simp only [State.halt, State.haltHart, checkExit_hart, checkExit_coreAt]
  refine ⟨hstate, hset' hset, fun k hk => ⟨hregs'.symm ▸ hregs k hk, fun q hq hl hr => ?_⟩⟩
  exact (hkept _ q).unnamed (hseqs k q hk hq hl hr)

end

/-! ## WFE (R101) -/

section

variable {s : State}

theorem wfe_next (hh : ByHart s) (d a : Reg) (hn : Named s [d, a]) (hl : s.me.latch ≠ 0) :
    execWfe d a s = .next (((s.setMe { s.me with latch := 0, wfeAt := none }).setRs d (s.me.latch.setWidth 64)).retire) := by
  refine issue_ok (f := .seq) hh _ ?_
  simp only [run_bind, named_ok hn, run_get, hl, if_false, run_set, run_pure]

/-- A WFE that first waits, with its timeout counted from now (R101, R102). -/
theorem wfe_waits (hh : ByHart s) (d a : Reg) (hn : Named s [d, a]) (hl : s.me.latch = 0) (hw : s.me.wfeAt = none) :
    execWfe d a s = .next (s.setMe { s.me with
      state := .wait
      wfeAt := if s.rs a = 0 then none else some (s.cycle + (s.rs a).toNat) }) := by
  refine issue_ok (f := .stay) hh _ ?_
  simp only [run_bind, named_ok hn, run_get, hl, if_true, hw, run_set, run_pure]
  rfl

end

end Sys2Proof.Machine
end

section
/-! SUPPORT. The statements settled: a halting hart -/

namespace Sys2Proof.Proofs

open Sys2Proof.Machine

/-- Settles O15: WFE by the latch; HALTH by what ending its hart, halting it and its group's barriers leave. -/
theorem waitingAndHalting : Obligations.WaitingAndHalting := by
  unfold Obligations.WaitingAndHalting
  intro d a s hh hn
  refine ⟨wfe_next hh d a hn, wfe_waits hh d a hn, fun ht hs hst hl ho => ?_⟩
  obtain ⟨hstate, hset, hregs⟩ := halt_leaves (s := s) ht hs
  exact ⟨s.halt, halth_next hh ht hs hst hl ho, hstate, hset, fun k h1 _ =>
    ⟨(hregs k h1).1, fun q hq hl hr => ((hregs k h1).2 q hq hl hr).2⟩⟩

end Sys2Proof.Proofs
end

section
/-! SUPPORT. the operand store -/

namespace Sys2Proof.Machine

/-! ## Events on an operation -/

section

variable {s : State}

theorem opEvent_at {id : Nat} {o : Op} (ho : s.opAt id = some o) (f : Op → State → Option State) :
    opEvent id f s = .next ((f o s).getD s) := by
  rw [opEvent, ho]

theorem alive_eq_isSome (s : State) (id : Nat) : s.alive id = (s.opAt id).isSome := by
  rw [State.alive, State.opAt, List.isSome_find?]

theorem alive_endOp (s : State) (o : Op) : (s.endOp o).alive o.id = false := by
  rw [alive_eq_isSome, opAt_endOp]
  rfl

theorem ibase_endOp (s : State) (o : Op) (c : Nat) : ((s.endOp o).coreAt c).ibase = (s.coreAt c).ibase := by
  have hs : ∀ t k, ((State.settleCore t k).coreAt c).ibase = (t.coreAt c).ibase := by
    intro t k
    by_cases hk : c = k
    · rw [hk, State.settleCore, State.coreAt_setCoreAt]
    · rw [State.settleCore, State.coreAt_setCoreAt_ne _ _ hk]
  rw [State.endOp, hs, State.endParent]
  split
  · split <;> rfl
  · rfl

theorem checkRun_ok {w : Word} (hw : runHandleOk s s.ctx w = true) (hp : handleEntry w ≠ 1 ∨ s.me.priv = .s) :
    checkRun w s = .ok (handleEntry w) s := by
  have hn : ¬(handleEntry w = 1 ∧ s.me.priv = .p) := fun h => hp.elim (fun h1 => h1 h.1) (fun h1 => by rw [h1] at h; cases h.2)
  simp only [checkRun, run_bind, run_get, hw, if_true, hn, if_false, run_pure]

/-- The line reads of a run depend on its contexts and on the dies. -/
theorem badIn_congr {t : State} (hc : t.ctxs = s.ctxs) (hd : t.dies = s.dies) (c e a b : Nat) : t.badIn c e a b = s.badIn c e a b := by
  have hr : t.runAt c e = s.runAt c e := by rw [State.runAt, State.ctxAt, hc]; rfl
  have hl : ∀ l, t.lineBad c e l = s.lineBad c e l := by
    intro l
    simp only [State.lineBad, State.uncorrectable, hr, hd]
  have hf : ∀ n l, t.firstBad c e l n = s.firstBad c e l n := by
    intro n
    induction n with
    | zero => exact fun _ => rfl
    | succ n ih => exact fun l => by rw [State.firstBad, State.firstBad, hl, ih]
  rw [State.badIn, State.badIn, hr, hf]

end

/-! ## Engine ownership and OSLD's issue (R227) -/

section

variable {s : State}

theorem ownsEngine_ok (ht : s.hasTile = true) : ownsEngine false s = .ok () s := by
  simp only [ownsEngine, run_bind, run_get, ht, Bool.not_true, Bool.false_and, Bool.or_false, Bool.false_eq_true, if_false, run_pure]

theorem osld_next (hh : ByHart s) {a b : Reg} {h : HReg} {q : Nat} {d : OsDesc} {sem : Option Nat} {bs : List Byte}
    (hn : Named s [a, b]) (ht : s.hasTile = true) (hq : Handle s h q) (hbs : Descriptor s (s.rs a) 40 bs)
    (hd : d = ⟨descWord bs 0, descField bs 8 8, descField bs 16 8, BitVec.ofNat 32 (descField bs 24 4), descField bs 28 2,
      descField bs 30 2⟩)
    (h0 : descField bs 32 8 = 0) (ho : d.off % 4 = 0) (hs : d.stride % 4 = 0) (h1 : 1 ≤ d.rows) (hr : d.row + d.rows ≤ 16384)
    (hrun : runHandleOk s s.ctx d.run = true) (hp : handleEntry d.run ≠ 1 ∨ s.me.priv = .s) (hsem : checkSem (s.rs b) s = .ok sem s) :
    execOsld a b h s = .next (s.addOp q .copy (.osld d sem)).retire := by
  refine issue_ok (f := .seq) hh _ ?_
  subst hd
  dsimp only at *
  have hok : ¬(descField bs 32 8 ≠ 0 ∨ descField bs 8 8 % 4 ≠ 0 ∨ descField bs 16 8 % 4 ≠ 0 ∨ Config.osRows ≤ descField bs 28 2 ∨
      descField bs 30 2 < 1 ∨ Config.osRows < descField bs 28 2 + descField bs 30 2) := by
    rw [show Config.osRows = 16384 from rfl]
    omega
  simp only [run_bind, ownsEngine_ok ht, named_ok hn, seqOf_ok hh hq, run_get, readDesc_ok hbs, if_neg hok, run_pure,
    checkRun_ok hrun hp, hsem, enqueue, run_act]

theorem osmeta_next (hh : ByHart s) {x a b : Reg} (hn : Named s [x, a, b]) (ht : s.hasTile = true)
    (hp : s.osldPending 0 16384 = false) :
    (s.rs b = 0 → execOsmeta x a b s = .next (s.setRs x (lookupD 0 s.core.ibase (bitsOf (s.rs a) 0 14))).retire) ∧
    (s.rs b = 1 → execOsmeta x a b s = .next (s.setRs x s.core.key).retire) ∧
    (s.rs b = 2 → execOsmeta x a b s = .next (((s.setCore { s.core with key := s.rs a }).setRs x s.core.key).retire)) ∧
    (2 < (s.rs b).toNat → execOsmeta x a b s = .next (s.setRs x 0).retire) := by
  have hp' : s.osldPending 0 Config.osRows = false := hp
  refine ⟨fun hb => ?_, fun hb => ?_, fun hb => ?_, fun hb => ?_⟩
  · refine issue_ok (f := .seq) hh _ ?_
    simp only [run_bind, ownsEngine_ok ht, named_ok hn, run_get, hp', Bool.false_eq_true, if_false, hb]
    rfl
  · refine issue_ok (f := .seq) hh _ ?_
    simp only [run_bind, ownsEngine_ok ht, named_ok hn, run_get, hp', Bool.false_eq_true, if_false, hb]
    rfl
  · refine issue_ok (f := .seq) hh _ ?_
    simp only [run_bind, ownsEngine_ok ht, named_ok hn, run_get, hp', Bool.false_eq_true, if_false, hb]
    rfl
  · refine issue_ok (f := .seq) hh _ ?_
    simp only [run_bind, ownsEngine_ok ht, named_ok hn, run_get, hp', Bool.false_eq_true, if_false]
    obtain ⟨k, hk⟩ : ∃ k, (s.rs b).toNat = k + 3 := ⟨(s.rs b).toNat - 3, by omega⟩
    rw [hk]
    rfl

end

/-! ## The rows of an OSLD (R227) -/

/-- Byte `j` of row `t` of an OSLD: the run's below the P that it took, the fill word's beyond. -/
def State.osByte (s : State) (o : Op) (d : OsDesc) (t j : Nat) : Byte :=
  let x := d.off + t * d.stride + j
  if x < o.counts.1.toNat then s.runByte o.ctx (handleEntry d.run) x else fillByte d.fill j

section

variable {s : State}

theorem osKey_lt_runByteKey {core off : Nat} (hc : core < 512) (ho : off < 2 ^ 23) (r : Run) (c e x : Nat) :
    osKey core off < runByteKey r c e x := by
  have h : osKey core off < 2 ^ 64 := by
    unfold osKey
    omega
  unfold runByteKey runKey hostKey
  split <;> omega

theorem natMin_eq (a b : Nat) : Nat.min a b = min a b := rfl

theorem osKey_eq (c x : Nat) : osKey c x = osKey c 0 + x := by
  rw [osKey, osKey, Nat.add_zero]

theorem coreAt_withMem (s : State) (m : Memory) (c : Nat) : State.coreAt { s with mem := m } c = s.coreAt c := rfl

/-- What the rows of an OSLD that are left to write leave: the operand store's bytes and the row index entries. -/
structure OsFilled (s u : State) (o : Op) (d : OsDesc) (t k : Nat) : Prop where
  canonical : Canonical u
  rest : ∃ m c, u = { s with mem := m, cores := c }
  base : ∀ r, lookupD 0 (u.coreAt o.core).ibase r =
    if d.row + t ≤ r ∧ r < d.row + t + k then BitVec.ofNat 64 ((d.off + (r - d.row) * d.stride) / 4)
    else lookupD 0 (s.coreAt o.core).ibase r
  inside : ∀ i < k, ∀ j < 512, byteAt u (osKey o.core (512 * (d.row + t + i) + j)) = s.osByte o d (t + i) j
  outside : ∀ x, x < osKey o.core (512 * (d.row + t)) ∨ osKey o.core (512 * (d.row + t + k)) ≤ x → byteAt u x = byteAt s x

/-- One row of an OSLD written, with its index entry. -/
def State.putOsRow (s : State) (o : Op) (d : OsDesc) (t : Nat) : State :=
  let s := { s with mem := Memory.writeBytes s.mem (osKey o.core (512 * (d.row + t))) (s.osRow o d t) }
  let c := s.coreAt o.core
  s.setCoreAt o.core { c with ibase := insertKey c.ibase (d.row + t) (BitVec.ofNat 64 ((d.off + t * d.stride) / 4)) }

theorem osRows_succ {o : Op} {d : OsDesc} {k t : Nat}
    (h : s.badIn o.ctx (handleEntry d.run) (d.off + t * d.stride) (min (d.off + t * d.stride + 512) o.counts.1.toNat) = none) :
    State.osRows o d (k + 1) t s = State.osRows o d k (t + 1) (s.putOsRow o d t) := by
  rw [State.osRows]
  dsimp only
  rw [natMin_eq, h]
  rfl

/-- One row of an OSLD. -/
theorem osFilled_one (o : Op) (d : OsDesc) (t : Nat) (hcan : Canonical s) : OsFilled s (s.putOsRow o d t) o d t 1 := by
  have hmem : (s.putOsRow o d t).mem = Memory.writeBytes s.mem (osKey o.core (512 * (d.row + t))) (s.osRow o d t) := by
    rw [State.putOsRow, State.setCoreAt_mem]
  have hlen : (s.osRow o d t).length = 512 := by rw [State.osRow, List.length_map, List.length_range]
  obtain ⟨B, hB⟩ : ∃ B, ∀ y, osKey o.core y = B + y := ⟨_, osKey_eq _⟩
  refine ⟨?_, ⟨_, _, rfl⟩, fun r => ?_, fun i hi j hj => ?_, fun x hx => ?_⟩
  · rw [Canonical, hmem]
    exact Memory.wf_writeBytes hcan _ _
  · rw [State.putOsRow, State.coreAt_setCoreAt]
    by_cases hr : r = d.row + t
    · rw [if_pos (by omega), hr, lookupD_insertKey_self, show d.row + t - d.row = t by omega]
    · rw [if_neg (by omega), lookupD_insertKey_ne _ _ _ hr, coreAt_withMem]
  · obtain rfl : i = 0 := by omega
    have hr := Memory.read_writeBytes_inside hcan (osKey o.core (512 * (d.row + t))) (s.osRow o d t) j (by rw [hlen]; exact hj)
    rw [byteAt, hmem, show osKey o.core (512 * (d.row + t + 0) + j) = osKey o.core (512 * (d.row + t)) + j by simp only [hB]; omega, hr]
    simp only [State.osRow, List.getElem_map, List.getElem_range, State.osByte]
    rfl
  · rw [byteAt, hmem]
    refine Memory.read_writeBytes_outside hcan _ _ _ ?_
    rw [hlen]
    simp only [hB, Nat.mul_add, Nat.mul_one, ← Nat.add_assoc] at hx ⊢
    omega

theorem osByte_putOsRow {o : Op} {d : OsDesc} {t : Nat} (hc : o.core < 512) (ht : d.row + t < 16384) (hcan : Canonical s) (k j : Nat) :
    (s.putOsRow o d t).osByte o d k j = s.osByte o d k j := by
  have hf := osFilled_one o d t hcan
  obtain ⟨B, hB⟩ : ∃ B, ∀ y, osKey o.core y = B + y := ⟨_, osKey_eq _⟩
  have hrun : ∀ x, (s.putOsRow o d t).runByte o.ctx (handleEntry d.run) x = s.runByte o.ctx (handleEntry d.run) x := by
    intro x
    have hlt := osKey_lt_runByteKey (off := 512 * (d.row + t) + 511) hc (by omega) (s.runAt o.ctx (handleEntry d.run)) o.ctx
      (handleEntry d.run) x
    simp only [hB, Nat.mul_add, ← Nat.add_assoc] at hlt
    have ho := hf.outside (runByteKey (s.runAt o.ctx (handleEntry d.run)) o.ctx (handleEntry d.run) x)
      (.inr (by simp only [hB, Nat.mul_add, Nat.mul_one, ← Nat.add_assoc]; omega))
    obtain ⟨m, c, hv⟩ := hf.rest
    rw [hv] at ho ⊢
    exact ho
  rw [State.osByte, State.osByte, hrun]

/-- Rows written one after another. -/
theorem OsFilled.cons {u : State} {o : Op} {d : OsDesc} {t k : Nat} (hc : o.core < 512) (ht : d.row + t < 16384) (hcan : Canonical s)
    (h : OsFilled (s.putOsRow o d t) u o d (t + 1) k) : OsFilled s u o d t (k + 1) := by
  have h1 := osFilled_one o d t hcan
  obtain ⟨B, hB⟩ : ∃ B, ∀ y, osKey o.core y = B + y := ⟨_, osKey_eq _⟩
  refine ⟨h.canonical, ?_, fun r => ?_, fun i hi j hj => ?_, fun x hx => ?_⟩
  · obtain ⟨m, c, hu⟩ := h.rest
    obtain ⟨m', c', hv⟩ := h1.rest
    rw [hv] at hu
    exact ⟨m, c, hu⟩
  · rw [h.base, h1.base]
    by_cases hr : r = d.row + t
    · rw [if_neg (by omega), if_pos (by omega), if_pos (by omega)]
    · rw [if_neg (c := d.row + t ≤ r ∧ r < d.row + t + 1) (by omega)]
      exact if_congr (by omega) rfl rfl
  · cases i with
    | zero =>
      rw [h.outside _ (.inl (by simp only [hB]; omega))]
      exact h1.inside 0 Nat.one_pos j hj
    | succ i =>
      have hi' := h.inside i (by omega) j hj
      rw [osByte_putOsRow hc ht hcan] at hi'
      rw [show d.row + t + (i + 1) = d.row + (t + 1) + i by omega, hi', show t + 1 + i = t + (i + 1) by omega]
  · rw [h.outside x (by simp only [hB, Nat.mul_add, Nat.mul_one, ← Nat.add_assoc] at hx ⊢; omega)]
    exact h1.outside x (by simp only [hB, Nat.mul_add, Nat.mul_one, ← Nat.add_assoc] at hx ⊢; omega)

theorem osRows_ok (o : Op) (d : OsDesc) (hc : o.core < 512) (k t : Nat) (hcan : Canonical s) (hk : d.row + t + k ≤ 16384)
    (hb : ∀ i < k, s.badIn o.ctx (handleEntry d.run) (d.off + (t + i) * d.stride)
      (min (d.off + (t + i) * d.stride + 512) o.counts.1.toNat) = none) :
    ∃ u, State.osRows o d k t s = (u, none) ∧ OsFilled s u o d t k := by
  induction k generalizing s t with
  | zero =>
    refine ⟨s, rfl, hcan, ⟨_, _, rfl⟩, fun r => ?_, fun i hi => absurd hi (Nat.not_lt_zero i), fun _ _ => rfl⟩
    rw [if_neg (by omega)]
  | succ k ih =>
    have h0 := hb 0 (Nat.succ_pos k)
    rw [Nat.add_zero] at h0
    have hsame : ∀ a b, (s.putOsRow o d t).badIn o.ctx (handleEntry d.run) a b = s.badIn o.ctx (handleEntry d.run) a b := by
      intro a b
      obtain ⟨m, c, hv⟩ := (osFilled_one o d t hcan).rest
      rw [hv]
      exact badIn_congr (s := s) (t := { s with mem := m, cores := c }) rfl rfl ..
    obtain ⟨u, hu, hf⟩ := ih (s := s.putOsRow o d t) (t + 1) (osFilled_one o d t hcan).canonical (by omega) (fun i hi => by
      rw [hsame]
      have := hb (i + 1) (by omega)
      rw [show t + (i + 1) = t + 1 + i by omega] at this
      exact this)
    exact ⟨u, (osRows_succ h0).trans hu, hf.cons hc (by omega) hcan⟩

/-- An OSLD whose run bytes are sound is performed (R227). -/
theorem osldPerformed_next {o : Op} {d : OsDesc} (hcan : Canonical s) (ho : s.opAt o.id = some o) (hp : o.phase = .working)
    (hk : o.kind = .osld d none) (hc : o.core < 512) (hr : d.row + d.rows ≤ 16384)
    (hb : ∀ t < d.rows, s.badIn o.ctx (handleEntry d.run) (d.off + t * d.stride)
      (min (d.off + t * d.stride + 512) o.counts.1.toNat) = none) :
    ∃ u, execOsldPerformed o.id s = .next (u.endOp o) ∧ OsFilled s u o d 0 d.rows := by
  obtain ⟨u, hu, hf⟩ := osRows_ok (s := s) o d hc d.rows 0 hcan (by omega) (fun i hi => by rw [Nat.zero_add]; exact hb i hi)
  refine ⟨u, (opEvent_at ho _).trans ?_, hf⟩
  simp only [hk, hp, if_true, hu, State.postCopy, Option.getD_some]

end

end Sys2Proof.Machine
end

section
/-! SUPPORT. The statements settled: the operand store -/

namespace Sys2Proof.Proofs

open Sys2Proof.Machine

/-- Settles O40: OSLD's checks in order (`osld_next`), OSMETA by its selector, and the rows of a performed OSLD one after another
(`OsFilled`). -/
theorem operandStore : Obligations.OperandStore := by
  unfold Obligations.OperandStore
  refine ⟨fun a b x h q d sem bs s hh hn ht => ⟨?_, osmeta_next hh hn ht⟩, fun s o d core => ⟨?_, fun hr => ?_⟩⟩
  · intro hq hbs hd h0 hoff hst h1 hrow hrun hp hsem
    exact osld_next hh (named_subset hn (List.subset_cons_self ..)) ht hq hbs hd h0 hoff hst h1 hrow hrun hp hsem
  · intro hcan ho hp hk hc hr hb
    obtain ⟨u, hu, hf⟩ := osldPerformed_next hcan ho hp hk hc hr hb
    refine ⟨u.endOp o, hu, alive_endOp u o, fun k hk => ?_, fun k hk j hj => ?_⟩
    · rw [ibase_endOp, hf.base, if_pos (by omega), show d.row + k - d.row = k by omega]
    · have hi := hf.inside k hk j hj
      rw [Nat.zero_add, Nat.add_zero] at hi
      rw [byteAt, mem_endOp]
      exact hi
  · refine ⟨_, rfl, ?_⟩
    simp only [hr, if_true]
    rw [ State.coreAt_setCoreAt]
    exact ⟨rfl, rfl, rfl⟩

end Sys2Proof.Proofs
end

section
/-! SUPPORT. stations and tickets -/

namespace Sys2Proof.Machine

/-! ## Stations (R348, R350) -/

section

variable {s : State} {st : Nat}

/-- A station that is ready for an event changes; the event of one that is not ready leaves the state. -/
theorem station_next (hst : st < 16) {ok : Station → Bool} (hok : ok (vecGet Station.reset s.stations st) = true)
    (f : Station → Station) :
    station st ok f s = .next { s with stations := vecSet s.stations st (f (vecGet Station.reset s.stations st)) } := by
  rw [station, event, decide_eq_true hst, hok]
  rfl

theorem live_of {x : LinkState} (h : x = .up ∨ x = .narrow) : (x == .up || x == .narrow) = true := by
  rcases h with rfl | rfl <;> rfl

theorem laneFail_next (hst : st < 16) (h : (vecGet Station.reset s.stations st).state = .up ∨
      (vecGet Station.reset s.stations st).state = .narrow) :
    let x := vecGet Station.reset s.stations st
    execLaneFail st s = .next { s with
      stations := vecSet s.stations st
        (if x.state = .up ∧ x.spareUsed = false then { x with spareUsed := true }
        else if x.lanes / 2 = 0 then { x with state := .down, lanes := 0 }
        else { x with state := .narrow, lanes := x.lanes / 2, spareUsed := true }) } :=
  station_next hst (live_of h) _

end

/-! ## Ticket dispensers (R361) -/

section

variable {s : State}

theorem dispenser_setDispenser (s : State) (c die : Nat) (d : Dispenser) :
    ((s.setDispenser c die d).ctxAt c).dispenser die = d := by
  rw [State.setDispenser, State.ctxAt_setCtxAt, Ctx.dispenser, lookupD_insertKey_self]

theorem dispenser_send (s : State) (c : Nat) (chip : BitVec 10) (tag : Nat) (w p : Bool) (b : MsgBody) (die : Nat) :
    ((s.send c chip tag w p b).ctxAt c).dispenser die = (s.ctxAt c).dispenser die := by
  rw [State.send, State.ctxAt_setCtxAt]
  rfl

/-- Marking a ticket in the harts that hold it changes harts only. -/
theorem ticketCalled_leaves (s : State) (c : Nat) (chip : BitVec 10) (die : Nat) (n : BitVec 32) (cancelled : Bool) :
    (s.ticketCalled c chip die n cancelled).ctxs = s.ctxs ∧ (s.ticketCalled c chip die n cancelled).mem = s.mem := ⟨rfl, rfl⟩

/-- The holder of a ticket told, here or on another chip, leaves the dispenser and memory. -/
theorem told_leaves (s : State) (c : Nat) (t : Ticket) (die : Nat) (n : BitVec 32) (x : Bool) :
    let u := if t.chip = s.chipId then s.ticketCalled c t.chip die n x
      else s.send c t.chip t.tag.toNat false false (.tkcall die n x)
    (u.ctxAt c).dispenser die = (s.ctxAt c).dispenser die ∧ u.mem = s.mem := by
  dsimp only
  split
  · obtain ⟨hc, hm⟩ := ticketCalled_leaves s c t.chip die n x
    exact ⟨by rw [State.ctxAt, hc]; rfl, hm⟩
  · exact ⟨dispenser_send .., rfl⟩

section

variable {c die : Nat}

theorem ticketCall_past (hw : ((s.ctxAt c).dispenser die).waiting = none)
    (hn : ((s.ctxAt c).dispenser die).called ≠ ((s.ctxAt c).dispenser die).next) :
    execTicketCall c die s = .next (s.setDispenser c die
      { (s.ctxAt c).dispenser die with called := ((s.ctxAt c).dispenser die).called + 1 }) := by
  rw [execTicketCall]
  dsimp only
  rw [hw]
  dsimp only
  rw [event, bne_iff_ne.2 hn]
  rfl

theorem ticketCall_calls {t : Ticket} (hw : ((s.ctxAt c).dispenser die).waiting = some t)
    (hf : t.slots ≤ min 16384 (Config.recvShare c die) - s.slotsBusy c die) :
    ∃ u, execTicketCall c die s = .next u ∧
      ((u.ctxAt c).dispenser die).called = ((s.ctxAt c).dispenser die).called + 1 ∧
      (∀ k ∈ ((u.ctxAt c).dispenser die).tickets, k.number = t.number → k.called = true) ∧ u.mem = s.mem := by
  rw [execTicketCall]
  dsimp only
  rw [hw]
  dsimp only
  rw [event, decide_eq_true (show t.slots ≤ shareOf c die - s.slotsBusy c die from hf), if_pos rfl]
  refine ⟨_, rfl, ?_⟩
  generalize hv : s.setDispenser c die _ = v
  obtain ⟨hd, hm⟩ := told_leaves v c t die t.number false
  rw [hd, hm, ← hv, dispenser_setDispenser]
  refine ⟨rfl, fun k hk hkn => ?_, rfl⟩
  obtain ⟨j, _, rfl⟩ := List.mem_map.1 hk
  split
  · rfl
  next h =>
    rw [if_neg h] at hkn
    exact absurd hkn h

theorem ticketCall_waits {t : Ticket} (hw : ((s.ctxAt c).dispenser die).waiting = some t)
    (hf : min 16384 (Config.recvShare c die) - s.slotsBusy c die < t.slots) : execTicketCall c die s = .next s := by
  rw [execTicketCall]
  dsimp only
  rw [hw]
  dsimp only
  rw [event, decide_eq_false (show ¬t.slots ≤ shareOf c die - s.slotsBusy c die from Nat.not_le.2 hf)]
  rfl

theorem ticketTimeout_next {n : BitVec 32}
    (hn : ∃ t ∈ ((s.ctxAt c).dispenser die).tickets, t.number = n ∧ t.called = true ∧ t.consumed = false) :
    ∃ u, execTicketTimeout c die n s = .next u ∧ (∀ k ∈ ((u.ctxAt c).dispenser die).tickets, k.number ≠ n) ∧ u.mem = s.mem := by
  rw [execTicketTimeout]
  dsimp only
  split
  next hf =>
    obtain ⟨t, ht, hnum, hcall, hcons⟩ := hn
    have h := List.find?_eq_none.1 hf t ht
    rw [hnum, hcall, hcons] at h
    simp at h
  next t hf =>
    refine ⟨_, rfl, ?_⟩
    dsimp only
    rw [if_pos rfl]
    generalize hv : s.setDispenser c die _ = v
    obtain ⟨hd, hm⟩ := told_leaves v c t die n true
    rw [hd, hm, ← hv, dispenser_setDispenser]
    refine ⟨fun k hk => ?_, rfl⟩
    exact bne_iff_ne.1 (List.mem_filter.1 hk).2

end

end

end Sys2Proof.Machine
end

section
/-! SUPPORT. The statements settled: stations and tickets -/

namespace Sys2Proof.Proofs

open Sys2Proof.Machine

/-- Settles O56: the events of a station by its state (`station_next`), and the calls of a dispenser by the ticket that comes next. -/
theorem stationsAndTickets : Obligations.StationsAndTickets := by
  unfold Obligations.StationsAndTickets
  refine ⟨fun st s hst => ?_, fun c die s => ?_⟩
  · intro x put live
    refine ⟨fun h => ?_, fun h => ⟨?_, fun n hn => ?_⟩, fun h hs => ?_, fun h hn hl => ?_, fun h hn hl => ?_, fun h => ?_,
      fun h hs => ?_, fun h => ?_⟩
    · exact station_next (ok := fun x => x.state == .down) hst (beq_iff_eq.2 h) fun x => { x with state := .training }
    · exact station_next (ok := fun x => x.state == .training) hst (beq_iff_eq.2 h) fun x =>
        { x with state := .up, lanes := 4, spareUsed := false }
    · refine station_next (ok := fun x => x.state == .training && (n == 1 || n == 2)) hst ?_ fun x =>
        { x with state := .narrow, lanes := n, spareUsed := true }
      rw [beq_iff_eq.2 (show (vecGet Station.reset s.stations st).state = .training from h)]
      rcases hn with rfl | rfl <;> rfl
    · exact (laneFail_next hst (.inl h)).trans (by rw [if_pos ⟨h, hs⟩])
    · exact (laneFail_next hst h).trans (by rw [if_neg hn, if_neg (Nat.div_pos hl Nat.two_pos).ne'])
    · exact (laneFail_next hst h).trans (by rw [if_neg hn, if_pos (Nat.div_eq_of_lt hl)])
    · exact station_next (ok := fun x => x.state != .down) hst (bne_iff_ne.2 h) fun x =>
        { x with state := .down, lanes := 0 }
    · refine station_next (ok := fun x => true && x.state == .up && !x.spareUsed) hst ?_ fun x =>
        { x with spareUsed := true }
      rw [show (vecGet Station.reset s.stations st).state = .up from h,
        show (vecGet Station.reset s.stations st).spareUsed = false from hs]
      rfl
    · exact station_next (ok := fun x => x.state == .up || x.state == .narrow) hst (live_of h) fun x =>
        { x with replays := x.replays + 1 }
  · intro x d free
    refine ⟨fun hw hn => ?_, fun t hw => ⟨fun hf => ?_, fun hf => ?_⟩, fun n hn => ?_⟩
    · exact ticketCall_past hw hn
    · exact ticketCall_calls hw hf
    · exact ticketCall_waits hw hf
    · exact ticketTimeout_next hn

end Sys2Proof.Proofs
end

section
/-! SUPPORT. resets -/

namespace Sys2Proof.Machine

/-! ## What a reset loses (R373) -/

section

/-- A read after cells have been left out by their keys. -/
theorem read_filter (m : Memory) (p : Nat → Bool) (k : Nat) :
    Memory.read (m.filter (fun c => p c.1)) k = if p k then Memory.read m k else Memory.unlisted := by
  induction m with
  | nil => rw [List.filter_nil, Memory.read, ite_self]
  | cons c m ih =>
    obtain ⟨j, b⟩ := c
    rw [List.filter_cons]
    by_cases hj : j = k
    · subst hj
      split
      next h => rw [Memory.read, if_pos rfl, Memory.read, if_pos rfl]
      next h => rw [ih, if_neg h]
    · rw [show Memory.read ((j, b) :: m) k = Memory.read m k by rw [Memory.read, if_neg hj], ← ih]
      split
      · rw [Memory.read, if_neg hj]
      · rfl

variable {s : State}

/-- What no reset leaves of the chip, and what it does not touch of the host's memory. -/
structure Lost (s t : State) : Prop where
  ctxs : t.ctxs = []
  harts : t.harts = []
  groups : t.groups = []
  ops : t.ops = []
  cores : t.cores = []
  vfs : t.vfs = []
  boot : t.boot = s.boot
  host : ∀ k, hostKey 0 ≤ k → byteAt t k = byteAt s k
  chip : ∀ k < hostKey 0, byteAt t k = 0

theorem lost_cleared (s : State) : Lost s s.cleared := by
  refine ⟨rfl, rfl, rfl, rfl, rfl, rfl, rfl, fun k hk => ?_, fun k hk => ?_⟩
  · exact (read_filter s.mem (fun j => decide (hostKey 0 ≤ j)) k).trans (if_pos (decide_eq_true hk))
  · exact (read_filter s.mem (fun j => decide (hostKey 0 ≤ j)) k).trans (if_neg (by simpa using hk))

theorem vecGet_replicate {α : Type} {n k : Nat} (d x : α) (hk : k < n) : vecGet d (Vector.replicate n x) k = x := by
  rw [vecGet, Vector.toList_replicate, List.getD_eq_getElem?_getD, List.getElem?_replicate, if_pos hk]
  rfl

theorem verifies_eq_false {b : Boot} {i : Firmware} :
    b.verifies i = false ↔ i.key ≠ b.rom ∨ Config.signedBy i.key i.body i.sign = false ∨ i.version < b.fuses := by
  rw [Boot.verifies, Bool.and_eq_false_iff, Bool.and_eq_false_iff, beq_eq_false_iff_ne, decide_eq_false_iff_not, not_le, or_assoc]

/-- The images' step of a bring-up, 0 for none. -/
theorem failing_eq (b : Boot) (x : Nat)
    (hx : x = if b.verifies b.kennel = false then 1 else if b.verifies b.base = false then 2 else 0) :
    b.failing = if x = 0 then none else some x := by
  rw [hx, Boot.failing]
  cases b.verifies b.kennel <;> cases b.verifies b.base <;> rfl

/-- The step at which a bring-up stops, 0 for none: the images', or an earlier one that fails. -/
def stopStep (image : Nat) (fails : Option Nat) : Nat :=
  match fails with
  | none => image
  | some n => if image = 0 then n else min image n

/-- The step at which a bring-up stops is the images', or an earlier one that fails (R373). -/
theorem stopsAt_eq {b : Boot} {x : Nat} (hx : b.failing = if x = 0 then none else some x) (fails : Option Nat)
    (hf : ∀ n, fails = some n → 1 ≤ n ∧ n ≤ 5) :
    b.stopsAt fails = if stopStep x fails = 0 then none else some (stopStep x fails) := by
  unfold Boot.stopsAt stopStep
  rw [hx]
  by_cases h0 : x = 0
  · rw [if_pos h0]
    cases fails with
    | none => exact (if_pos h0).symm
    | some n =>
      have hn := hf n rfl
      have hy : (if x = 0 then n else min x n) ≠ 0 := by rw [if_pos h0]; omega
      exact Eq.trans (congrArg some (if_pos h0).symm) (if_neg hy).symm
  · rw [if_neg h0]
    cases fails with
    | none => exact (if_neg h0).symm
    | some n =>
      have hn := hf n rfl
      have hy : (if x = 0 then n else min x n) ≠ 0 := by rw [if_neg h0]; omega
      exact Eq.trans (congrArg some (if_neg h0).symm) (if_neg hy).symm

/-- A bring-up that runs through, and one that stops at a step. -/
theorem bringUp_next {fails : Option Nat} {y : Nat} (chip : BitVec 10)
    (hs : s.boot.stopsAt fails = if y = 0 then none else some y) (h5 : y ≤ 5) :
    ∃ t, bringUp fails chip s = .next t ∧ Lost s t ∧ t.chipId = chip ∧ t.pf = ⟨y, decide (y = 0), 0, 5000000⟩ ∧
      t.stations = Vector.replicate 16 (if y = 0 ∨ y = 5 then Station.reset else Station.untrained) := by
  have hc := lost_cleared s
  rw [bringUp, hs]
  by_cases h0 : y = 0
  · subst h0
    exact ⟨_, rfl, ⟨hc.ctxs, hc.harts, hc.groups, hc.ops, hc.cores, hc.vfs, hc.boot, hc.host, hc.chip⟩, rfl, rfl, rfl⟩
  · rw [if_neg h0]
    dsimp only
    rw [event, if_pos (decide_eq_true (by omega))]
    refine ⟨_, rfl, ⟨hc.ctxs, hc.harts, hc.groups, hc.ops, hc.cores, hc.vfs, hc.boot, hc.host, hc.chip⟩, rfl, ?_, ?_⟩
    · rw [decide_eq_false h0]
      rfl
    · dsimp only
      split
      next h4 => rw [if_neg (by omega)]
      next h4 => rw [if_pos (by omega)]; rfl

end

end Sys2Proof.Machine
end

section
/-! SUPPORT. The statements settled: resets -/

namespace Sys2Proof.Proofs

open Sys2Proof.Machine

/-- Settles O55: every reset leaves what `lost_cleared` says, with the report of the step at which it stops. -/
theorem resets : Obligations.Resets := by
  unfold Obligations.Resets
  intro chip s lost links bad image stop
  have hlost : ∀ t, Lost s t → lost t := fun t h => ⟨h.ctxs, h.harts, h.groups, h.ops, h.cores, h.vfs, h.host⟩
  refine ⟨fun fails hf i hi => ?_, fun d hd => ?_⟩
  · have hexec : exec i s = bringUp fails chip s := by
      rcases List.mem_pair.1 hi with rfl | rfl <;> rfl
    have himage : s.boot.failing = if image = 0 then none else some image :=
      failing_eq _ _ (if_congr verifies_eq_false.symm rfl (if_congr verifies_eq_false.symm rfl rfl))
    have hstop : s.boot.stopsAt fails = if stop fails = 0 then none else some (stop fails) := stopsAt_eq himage fails hf
    have himg : image ≤ 2 := by
      dsimp only [image]
      split
      · decide
      · split <;> decide
    have h5 : stop fails ≤ 5 := by
      dsimp only [stop]
      split
      · exact himg.trans (by decide)
      next n =>
        have hn := hf n rfl
        split
        · exact hn.2
        · exact (Nat.min_le_right ..).trans hn.2
    obtain ⟨t, ht, hl, hchip, hpf, hst⟩ := bringUp_next chip hstop h5
    refine ⟨t, hexec.trans ht, hlost t hl, hchip, hl.boot, hpf, fun _ => hl.chip, fun k hk => ?_⟩
    rw [hst, vecGet_replicate _ _ hk]
    split <;> rfl
  · refine ⟨_, rfl, ?_⟩
    rw [decide_eq_true hd, if_pos rfl]
    have hc := lost_cleared s
    exact ⟨⟨hc.ctxs, hc.harts, hc.groups, hc.ops, hc.cores, hc.vfs, hc.host⟩, rfl,
      fun k hk => congrArg _ (vecGet_replicate _ _ hk)⟩

end Sys2Proof.Proofs
end

section
/-! SUPPORT. the physical function -/

namespace Sys2Proof.Machine

/-! ## What keeps every context but for its runs and its pages -/

/-- Every context is as it was but for its runs, its pool and the number of its fault records. -/
structure CtxsKept (s t : State) : Prop where
  ctx : ∀ c, ∃ r p g f, t.ctxAt c = { s.ctxAt c with runs := r, pools := p, stained := g, faults := f }

section

variable {s t u : State}

theorem CtxsKept.refl (s : State) : CtxsKept s s := ⟨fun _ => ⟨_, _, _, _, rfl⟩⟩

theorem CtxsKept.trans (h : CtxsKept s t) (k : CtxsKept t u) : CtxsKept s u := by
  refine ⟨fun c => ?_⟩
  obtain ⟨r, p, g, f, hx⟩ := h.ctx c
  obtain ⟨r', p', g', f', hy⟩ := k.ctx c
  exact ⟨r', p', g', f', by rw [hy, hx]⟩

theorem CtxsKept.state (h : CtxsKept s t) (c : Nat) : (t.ctxAt c).state = (s.ctxAt c).state := by
  obtain ⟨r, p, g, f, hx⟩ := h.ctx c
  rw [hx]

theorem CtxsKept.foldl {α : Type} {f : State → α → State} (hf : ∀ s x, CtxsKept s (f s x)) (l : List α) (s : State) :
    CtxsKept s (l.foldl f s) := by
  induction l generalizing s with
  | nil => exact .refl s
  | cons x l ih => exact (hf s x).trans (ih _)

theorem CtxsKept.of_ctxs (h : t.ctxs = s.ctxs) : CtxsKept s t := ⟨fun c => ⟨_, _, _, _, by rw [State.ctxAt, h]; rfl⟩⟩

theorem ctxsKept_setCtxAt {c : Nat} {x : Ctx}
    (h : ∃ r p g f, x = { s.ctxAt c with runs := r, pools := p, stained := g, faults := f }) : CtxsKept s (s.setCtxAt c x) := by
  refine ⟨fun k => ?_⟩
  by_cases hk : k = c
  · rw [hk, State.ctxAt_setCtxAt]
    exact h
  · exact ⟨_, _, _, _, by rw [State.ctxAt_setCtxAt_ne s x hk]⟩

theorem ctxsKept_setRunAt (s : State) (c e : Nat) (r : Run) : CtxsKept s (s.setRunAt c e r) := ctxsKept_setCtxAt ⟨_, _, _, _, rfl⟩

theorem ctxsKept_putRunBytes (c e : Nat) (bs : List Byte) (s : State) (off : Nat) : CtxsKept s (s.putRunBytes c e off bs) := by
  induction bs generalizing s off with
  | nil => exact .refl s
  | cons b bs ih =>
    exact .trans (t := { s with mem := Memory.write s.mem (runByteKey (s.runAt c e) c e off) b }) (.of_ctxs rfl) (ih ..)

theorem ctxsKept_poisonLine (s : State) (c e line : Nat) : CtxsKept s (s.poisonLine c e line) := by
  unfold State.poisonLine
  dsimp only
  split
  · exact .refl s
  · exact ctxsKept_setRunAt ..

theorem ctxsKept_cleanLine (s : State) (c e line : Nat) : CtxsKept s (s.cleanLine c e line) := ctxsKept_setRunAt ..

theorem ctxsKept_putLine (c e : Nat) (s : State) (p : Nat × List Byte) : CtxsKept s (State.putLine c e s p) := by
  unfold State.putLine
  split
  · exact ctxsKept_poisonLine ..
  · exact (ctxsKept_cleanLine ..).trans (ctxsKept_putRunBytes ..)

theorem ctxsKept_putLines (s : State) (c e a : Nat) (bs : List Byte) : CtxsKept s (s.putLines c e a bs) := by
  unfold State.putLines
  split
  · exact ctxsKept_putRunBytes ..
  · exact .foldl (ctxsKept_putLine c e) _ s

theorem ctxsKept_zeroFill (s : State) (c e a b : Nat) : CtxsKept s (s.zeroFill c e a b) := by
  refine .foldl (fun t p => ?_) _ s
  split
  · exact .refl t
  · exact ctxsKept_putLine ..

theorem ctxsKept_hostWord (s : State) (r : Run) (off v : Nat) : CtxsKept s (s.hostWord r off v) := by
  unfold State.hostWord
  split
  · exact .refl s
  · exact .of_ctxs rfl

theorem ctxsKept_publish (s : State) (c e : Nat) : CtxsKept s (s.publish c e) := by
  unfold State.publish State.setPub
  dsimp only
  split
  · split
    · exact (ctxsKept_setRunAt ..).trans (ctxsKept_hostWord ..)
    · exact ctxsKept_setRunAt ..
  · exact .refl s

theorem ctxsKept_stallWords (s : State) (c : Nat) (ts : List Taken) : CtxsKept s (s.stallWords c ts) := by
  refine .foldl (fun s t => ?_) _ s
  unfold State.stallWord
  dsimp only
  split
  · exact ctxsKept_hostWord ..
  · exact .refl s

theorem endOp_ctxs (s : State) (o : Op) : (s.endOp o).ctxs = s.ctxs := by
  rw [State.endOp, State.settleCore, State.setCoreAt_ctxs, State.endParent]
  split
  · split <;> rfl
  · rfl

theorem ctxsKept_abandon (s : State) (o : Op) : CtxsKept s (s.abandon o) := by
  refine CtxsKept.trans (.trans (.foldl (fun t x => ?_) _ s) (.of_ctxs (endOp_ctxs ..))) (ctxsKept_stallWords ..)
  dsimp only
  split
  · exact .refl t
  · exact ctxsKept_zeroFill ..

theorem CtxsKept.dies {d : Vector Die 8} (h : CtxsKept { s with dies := d } t) : CtxsKept s t := ⟨h.ctx⟩

theorem ctxsKept_growPool (s : State) (c die n : Nat) : CtxsKept s (s.growPool c die n) := by
  unfold State.growPool
  dsimp only
  refine CtxsKept.dies (ctxsKept_setCtxAt ?_)
  exact ⟨_, _, _, _, rfl⟩

theorem ctxsKept_drawUnit (s : State) (c die pool : Nat) : CtxsKept s (s.drawUnit c die pool).1 := by
  unfold State.drawUnit
  dsimp only
  split
  · exact .refl s
  · refine .trans (ctxsKept_setCtxAt ?_) (.of_ctxs rfl)
    exact ⟨_, _, _, _, rfl⟩

theorem ctxsKept_backUnits (c e die n u pool : Nat) (s : State) : CtxsKept s (State.backUnits c e die n u pool s) := by
  induction n generalizing u pool s with
  | zero => exact .refl s
  | succ n ih =>
    have hd := ctxsKept_drawUnit s c die pool
    unfold State.backUnits
    split
    next heq =>
      rw [heq] at hd
      exact hd.trans (ih ..)
    next heq =>
      rw [heq] at hd
      exact (hd.trans (ctxsKept_setRunAt ..)).trans (ih ..)

theorem ctxsKept_mapRun (s : State) (c e : Nat) (r : Run) : CtxsKept s (s.mapRun c e r) := by
  unfold State.mapRun
  dsimp only
  have h : CtxsKept s (s.setCtxAt c (((s.ctxAt c).setRun e r).setPool r.home
      ((s.ctxAt c).poolAt r.home - (r.units - ((s.ctxAt c).run e).units)))) := ctxsKept_setCtxAt ⟨_, _, _, _, rfl⟩
  split
  · exact h
  · exact h.trans (ctxsKept_backUnits ..)

theorem ctxsKept_kennelAppend (s : State) (c e : Nat) (data : List Byte) : CtxsKept s (s.kennelAppend c e data) := by
  unfold State.kennelAppend
  dsimp only
  split
  · exact ctxsKept_growPool ..
  · exact (((ctxsKept_growPool ..).trans (ctxsKept_mapRun ..)).trans (ctxsKept_putLines ..)).trans (ctxsKept_publish ..)

theorem ctxsKept_faultRecord (s : State) (c : Nat) (x y : Word) (a b d e f : Nat) :
    CtxsKept s (s.faultRecord c x y a b d e f) :=
  .trans (ctxsKept_setCtxAt (x := { s.ctxAt c with faults := (s.ctxAt c).faults + 1 }) ⟨_, _, _, _, rfl⟩) (ctxsKept_kennelAppend ..)

theorem freeTiles_ctxs (s : State) (g c : Nat) : (s.freeTiles g c).ctxs = s.ctxs := by
  unfold State.freeTiles
  dsimp only
  split <;> rfl

theorem releaseCore_ctxs (g : Nat) (s : State) (c : Nat) : (State.releaseCore g s c).ctxs = s.ctxs := freeTiles_ctxs ..

/-- A context's bind records, operations and cores given up (R266, steps 2 and 3). -/
def State.givenUp (s : State) (c : Nat) : State :=
  let s := { s with
    dies := s.dies.map (fun (d : Die) => { d with slots := d.slots.filter (fun (p : Nat × BindRecord) => p.2.ctx ≠ c) }) }
  let s := (s.ops.filter (fun (o : Op) => o.ctx = c)).foldl State.abandon s
  (s.groups.filter (fun (p : Nat × Group) => p.2.ctx = c)).foldl (fun s p => p.2.cores.foldl (State.releaseCore p.1) s) s

theorem ctxsKept_givenUp (s : State) (c : Nat) : CtxsKept s (s.givenUp c) := by
  refine CtxsKept.dies (.trans (.foldl ctxsKept_abandon _ _) (.foldl (fun s p => ?_) _ _))
  exact .foldl (fun _ _ => .of_ctxs (releaseCore_ctxs ..)) _ s

/-- A reset of a context leaves the states of the others, and its own RESETTING (R266). -/
theorem resetContext_state (s : State) (c k : Nat) :
    ((s.resetContext c (plainReset c)).ctxAt k).state = if k = c then .resetting else (s.ctxAt k).state := by
  have hkept : CtxsKept s ((plainReset c s).givenUp c) :=
    (ctxsKept_faultRecord s c 0 0 0 0 0 0 2).trans (ctxsKept_givenUp ..)
  unfold State.resetContext
  dsimp only
  by_cases hk : k = c
  · rw [if_pos hk, hk, State.ctxAt_setCtxAt]
  · rw [if_neg hk, State.ctxAt_setCtxAt_ne _ _ hk]
    exact hkept.state k

end

/-! ## Register writes, the physical function, power and heat -/

section

variable {s : State}

/-- The registers that a write does not act on as a command. -/
theorem registerWrite_cstage {vf off : Nat} {x : Word} (he : (s.vfAt vf).enabled = true) (h8 : off % 8 = 0) (ho : off < 0x40) :
    execRegisterWrite vf 0 off x s =
      .next (s.setVfAt vf { s.vfAt vf with cstage := vecSet (s.vfAt vf).cstage (off / 8) x }) := by
  rw [execRegisterWrite, if_neg (by omega), event_true (by rw [he, decide_eq_true h8]; rfl), if_pos rfl, if_pos ho]

theorem registerWrite_stage {vf off c q : Nat} {x : Word} {y : Queue} (he : (s.vfAt vf).enabled = true) (h8 : off % 8 = 0)
    (ho : off % 0x1000 < 0x40) (hc : s.ctxNamed vf (BitVec.ofNat 64 (off / 0x100_0000)) = some c) (hq : q = off / 0x1000 % 0x1000)
    (hy : (s.ctxAt c).queue? q = some y) :
    execRegisterWrite vf 2 off x s =
      .next (s.setCtxAt c ((s.ctxAt c).setQueue q { y with stage := vecSet y.stage (off % 0x1000 / 8) x })) := by
  subst hq
  rw [execRegisterWrite, if_neg (by omega), event_true (by rw [he, decide_eq_true h8]; rfl), if_neg (by decide), if_pos ⟨rfl, ho⟩,
    State.onQueue, hc]
  dsimp only
  rw [hy]

theorem registerWrite_unaligned {vf off : Nat} {x : Word} (h8 : off % 8 ≠ 0) (ho : off ≠ 0x40) :
    execRegisterWrite vf 0 off x s = .next s := by
  rw [execRegisterWrite, if_neg (fun h => ho h.2), event_false (by rw [decide_eq_false h8, Bool.and_false])]

/-- A command that a function which is not busy takes (R369). -/
theorem command_next {vf : Nat} {here : Nat → Bool} (f : VFunc → State → Answer) (he : (s.vfAt vf).enabled = true)
    (hh : here (bitsOf ((s.vfAt vf).arg 0) 0 8) = true) (hb : (s.vfAt vf).busy = false) :
    command vf here f s = .next (
      let a := f (s.vfAt vf) s
      let v := a.state.vfAt vf
      a.state.setVfAt vf
        { v with
          seq := v.next
          next := v.next + 1
          busy := true
          overrun := false
          result := BitVec.ofNat 8 a.result
          cresult := a.value
          waits := a.waits }) := by
  rw [command, event_true (by rw [he, hh]; rfl), if_neg (by rw [hb]; exact Bool.false_ne_true)]

theorem registerWrite_unknown {vf : Nat} {x : Word} (he : (s.vfAt vf).enabled = true) (hb : (s.vfAt vf).busy = false)
    (ho : bitsOf ((s.vfAt vf).arg 0) 0 8 = 0 ∨ 14 < bitsOf ((s.vfAt vf).arg 0) 0 8) :
    ∃ t, execRegisterWrite vf 0 0x40 x s = .next t ∧ (t.vfAt vf).busy = true ∧ (t.vfAt vf).result = 1 ∧ t.ctxs = s.ctxs ∧
      t.mem = s.mem := by
  rw [execRegisterWrite, if_pos ⟨rfl, rfl⟩, command_next _ he ?_ hb]
  · refine ⟨_, rfl, ?_⟩
    rw [State.vfAt_setVfAt]
    exact ⟨rfl, rfl, rfl, rfl⟩
  · rw [Bool.or_eq_true, beq_iff_eq, decide_eq_true_eq]
    exact ho

theorem enabled_foldl (l : List Nat) (s : State) (k : Nat) (h : k ∈ l ∨ (s.vfAt k).enabled = true) :
    ((l.foldl State.enableVf s).vfAt k).enabled = true := by
  induction l generalizing s with
  | nil => exact h.resolve_left List.not_mem_nil
  | cons x l ih =>
    refine ih _ ?_
    by_cases hk : k = x
    · exact .inr (by rw [hk, State.enableVf, State.vfAt_setVfAt])
    · rcases h with h | h
      · exact .inl ((List.mem_cons.1 h).resolve_left hk)
      · exact .inr (by rw [State.enableVf, State.vfAt_setVfAt_ne _ _ hk]; exact h)

theorem enableVfs_mem (l : List Nat) (s : State) : (l.foldl State.enableVf s).mem = s.mem := by
  induction l generalizing s with
  | nil => rfl
  | cons x l ih => exact ih _

/-- The rate that the governor sets is the largest of 16 that keeps a demand within a share (R374). -/
theorem rateFor_largest (share demand : Nat) :
    rateFor share demand ≤ 16 ∧
      (0 < demand → demand * rateFor share demand ≤ share ∧
        (rateFor share demand < 16 → share < demand * (rateFor share demand + 1))) := by
  unfold rateFor
  split
  next h => exact ⟨le_refl _, fun _ => ⟨h, fun h => absurd h (Nat.lt_irrefl _)⟩⟩
  next h =>
    have hd : 0 < demand := Nat.pos_of_ne_zero (fun h0 => h (by rw [h0, Nat.zero_mul]; exact Nat.zero_le _))
    refine ⟨Nat.le_of_lt_succ ?_, fun _ => ⟨Nat.mul_div_le _ _, fun _ => Nat.lt_mul_div_succ _ hd⟩⟩
    rw [Nat.div_lt_iff_lt_mul hd]
    omega

theorem die_next {k : Nat} (hk : k < 8) {ok : Die → Bool} (hok : ok (vecGet Die.reset s.dies k) = true) (f : Die → Die) :
    die k ok f s = .next { s with dies := vecSet s.dies k (f (vecGet Die.reset s.dies k)) } := by
  rw [die, event_true (by rw [decide_eq_true hk, hok]; rfl)]

theorem measurements_next {vf : Nat} (he : (s.vfAt vf).enabled = true) :
    ∃ t r, execGetMeasurements vf s = .next t ∧ (t.vfAt vf).mailbox = (s.vfAt vf).mailbox ++ [r] ∧ r.body = s.blocks vf ∧
      r.body.length = 5 ∧ t.ctxs = s.ctxs := by
  refine ⟨_, ⟨s.blocks vf, Config.signature ((s.blocks vf).map BitVec.toNat), []⟩, event_true he _ _, ?_⟩
  rw [State.vfAt_setVfAt]
  exact ⟨rfl, rfl, rfl, rfl⟩

theorem certificate_next {vf : Nat} (he : (s.vfAt vf).enabled = true) :
    ∃ t r, execGetCertificate vf s = .next t ∧ (t.vfAt vf).mailbox = (s.vfAt vf).mailbox ++ [r] ∧ r.cert = Config.certificate 0 ∧
      t.ctxs = s.ctxs := by
  refine ⟨_, ⟨[], 0, Config.certificate 0⟩, event_true he _ _, ?_⟩
  rw [State.vfAt_setVfAt]
  exact ⟨rfl, rfl, rfl⟩

theorem enableVfs_next (hr : s.pf.ready = true) {n : Nat} (h1 : s.pf.vfs ≤ n) (h2 : n ≤ Config.interfaces) :
    ∃ t, execPfEnableVfs n s = .next t ∧ t.pf.vfs = n ∧ (∀ k < n, (t.vfAt k).enabled = true) ∧ t.mem = s.mem :=
  ⟨_, event_true (by rw [hr, decide_eq_true h1, decide_eq_true h2]; rfl) _ _, rfl,
    fun k hk => enabled_foldl _ s k (.inl (List.mem_range.2 hk)), enableVfs_mem _ s⟩

theorem setLimits_next (hr : s.pf.ready = true) {vf : Nat} (l : Limits) (hv : vf < Config.interfaces) :
    ∃ t, execPfSetLimits vf l s = .next t ∧ (t.vfAt vf).limits = l ∧ t.ctxs = s.ctxs ∧ t.mem = s.mem := by
  refine ⟨_, event_true (by rw [hr, decide_eq_true hv]; rfl) _ _, ?_⟩
  rw [State.vfAt_setVfAt]
  exact ⟨rfl, rfl, rfl⟩

theorem setPowerCap_next (hr : s.pf.ready = true) (mw : Nat) :
    (3500000 ≤ mw ∧ mw ≤ 5000000 → execPfSetPowerCap mw s = .next { s with pf := { s.pf with capMw := mw } }) ∧
    (mw < 3500000 ∨ 5000000 < mw → execPfSetPowerCap mw s = .next s) :=
  ⟨fun h => event_true (by rw [hr, decide_eq_true h]; rfl) _ _,
    fun h => event_false (by rw [hr, decide_eq_false (by omega)]; rfl) _ _⟩

/-- Contexts reset one after another are all RESETTING (R373). -/
theorem resets_state (l : List Nat) (s : State) (k : Nat) (h : k ∈ l ∨ (s.ctxAt k).state = .resetting) :
    ((l.foldl (fun s c => s.resetContext c (plainReset c)) s).ctxAt k).state = .resetting := by
  induction l generalizing s with
  | nil => exact h.resolve_left List.not_mem_nil
  | cons x l ih =>
    refine ih _ ?_
    rw [resetContext_state]
    by_cases hk : k = x
    · exact .inr (if_pos hk)
    · rw [if_neg hk]
      exact h.imp_left (fun h => (List.mem_cons.1 h).resolve_left hk)

end

end Sys2Proof.Machine
end

section
/-! SUPPORT. The statements settled: the physical function -/

namespace Sys2Proof.Proofs

open Sys2Proof.Machine

/-- Settles O54: register writes by their offset, the physical function's events, the governor by `rateFor_largest`, and the
resets of a function's contexts one after another (`resets_state`). -/
theorem hostAndPhysicalFunction : Obligations.HostAndPhysicalFunction := by
  unfold Obligations.HostAndPhysicalFunction
  refine ⟨fun vf off x s => ?_, fun s => ⟨fun hr => ⟨fun n h1 h2 => enableVfs_next hr h1 h2, fun vf l hv => setLimits_next hr l hv,
    setPowerCap_next hr⟩, fun k hk => ?_, fun vf he => ?_⟩⟩
  · intro v he
    exact ⟨registerWrite_cstage he, fun c q y h8 ho hc hq hy => registerWrite_stage he h8 ho hc hq hy,
      registerWrite_unknown (x := x) he,
      registerWrite_unaligned, measurements_next he, certificate_next he⟩
  · intro d put
    refine ⟨fun demand => ?_, fun h => ?_, fun h => ?_⟩
    · obtain ⟨h16, hl⟩ := rateFor_largest (s.dieShare d) demand
      exact ⟨_, h16, die_next (ok := fun _ => true) hk rfl fun x => { x with rate := rateFor (s.dieShare x) demand }, hl⟩
    · exact die_next (ok := fun x => !x.hot) hk (by rw [show (vecGet Die.reset s.dies k).hot = false from h]; rfl)
        fun x => { x with hot := true }
    · exact die_next (ok := Die.hot) hk h fun x => { x with hot := false }
  · refine ⟨_, event_true (f := fun s => List.foldl (fun s c => s.resetContext c (plainReset c)) s _) he s, fun p hp hv hs => ?_⟩
    refine resets_state _ s p.1 (.inl (List.mem_map.2 ⟨p, List.mem_filter.2 ⟨hp, ?_⟩, rfl⟩))
    rw [hv, hs, beq_self_eq_true]
    rfl

end Sys2Proof.Proofs
end

section
/-! SUPPORT. sessions -/

namespace Sys2Proof.Machine

/-! ## Sessions of a context (R351) -/

section

variable {s : State}

theorem session_chip {x : Ctx} {chip : BitVec 10} (h : (x.session chip).state ≠ .closed) : (x.session chip).chip = chip := by
  unfold Ctx.session at h ⊢
  cases hf : x.sessions.find? (fun t => t.chip == chip) with
  | none => rw [hf] at h; exact absurd rfl h
  | some t => exact beq_iff_eq.1 (List.find?_some (p := fun t : Session => t.chip == chip) hf)

theorem session_setSession (x : Ctx) (t : Session) : (x.setSession t).session t.chip = t := by
  unfold Ctx.session Ctx.setSession
  dsimp only
  split
  next h =>
    have hfind : ∀ l : List Session, l.any (fun u => u.chip == t.chip) = true →
        (l.map (fun u => if u.chip == t.chip then t else u)).find? (fun u => u.chip == t.chip) = some t := by
      intro l hl
      induction l with
      | nil => cases hl
      | cons u l ih =>
        rw [List.map_cons]
        by_cases hu : (u.chip == t.chip) = true
        · rw [if_pos hu, List.find?_cons_of_pos (by simp)]
        · rw [if_neg hu, List.find?_cons_of_neg (p := fun u : Session => u.chip == t.chip) hu]
          refine ih ?_
          rw [List.any_cons, Bool.eq_false_iff.2 hu, Bool.false_or] at hl
          exact hl
    rw [hfind _ h]
    rfl
  next h =>
    have hn : x.sessions.find? (fun u => u.chip == t.chip) = none := by
      rw [List.find?_eq_none]
      intro u hu he
      exact h (List.any_eq_true.2 ⟨u, hu, he⟩)
    rw [List.find?_append, hn, Option.none_or, List.find?_cons_of_pos (by simp)]
    rfl

theorem session_put (s : State) (c : Nat) (x : Ctx) {t : Session} {chip : BitVec 10} (h : t.chip = chip) :
    ((s.setCtxAt c (x.setSession t)).ctxAt c).session chip = t := by
  rw [State.ctxAt_setCtxAt, ← h, session_setSession]

theorem CtxsKept.session {s t : State} (h : CtxsKept s t) (c : Nat) (chip : BitVec 10) :
    (t.ctxAt c).session chip = (s.ctxAt c).session chip := by
  obtain ⟨r, p, g, f, hx⟩ := h.ctx c
  rw [hx]
  rfl

end

/-! ## What a lost peer's operations leave of the contexts -/

section

variable {s : State}

theorem unqueue_ctxs (s : State) (who : Issuer) : (s.unqueue who).ctxs = s.ctxs := rfl

theorem reportBy_ctxs (s : State) (who : Issuer) (prog : Nat) (c : Cause) (v : Word) (pc : BitVec 32) (lane : Bool) :
    (s.reportBy who prog c v pc lane).ctxs = s.ctxs := by
  unfold State.reportBy
  dsimp only
  split
  · rfl
  · split
    · split <;> rfl
    · rfl

theorem reportOp_ctxs (s : State) (o : Op) (c : Cause) (v : Word) (lane : Bool) : (s.reportOp o c v lane).ctxs = s.ctxs :=
  reportBy_ctxs ..

theorem deliver_ctxs (s : State) (who : Issuer) (d : Reg) (v : Word) : (s.deliver who d v).ctxs = s.ctxs := by
  unfold State.deliver
  split
  · split <;> rfl
  · rfl

theorem onHart_ctxs (s : State) (h : HartId) (f : Hart → Hart) : (s.onHart h f).ctxs = s.ctxs := by
  unfold State.onHart
  split <;> rfl

theorem endOps_ctxs (l : List Op) (s : State) : (l.foldl State.endOp s).ctxs = s.ctxs :=
  foldl_keeps State.ctxs endOp_ctxs l s

theorem endFirstFault_ctxs (s : State) (o : Op) (vd w : Nat) : (s.endFirstFault o vd w).ctxs = s.ctxs := by
  unfold State.endFirstFault
  dsimp only
  split
  · rw [onHart_ctxs, endOps_ctxs]
  · rfl

theorem endPattern_ctxs (s : State) (o : Op) (reg pos : Nat) : (s.endPattern o reg pos).ctxs = s.ctxs := by
  unfold State.endPattern
  dsimp only
  split
  · rw [onHart_ctxs, endOps_ctxs]
  · rfl

theorem checkDone_ctxs (s : State) (id : Nat) : (s.checkDone id).ctxs = s.ctxs := by
  unfold State.checkDone
  split
  · rfl
  · split
    · split
      · exact endFirstFault_ctxs ..
      · dsimp only
        split
        · exact endOp_ctxs ..
        · rw [onHart_ctxs, endOp_ctxs]
      · exact endPattern_ctxs ..
      · exact endOp_ctxs ..
    · rfl

theorem refuseLoad_ctxs (s : State) (o : Op) (vd : Nat) (es : List (Nat × Word)) (w : Nat) (first : Bool) (c : Cause)
    {say : State → State} (hs : ∀ t, (say t).ctxs = t.ctxs) (i : Nat) : (s.refuseLoad o vd es w first c say i).ctxs = s.ctxs := by
  unfold State.refuseLoad
  dsimp only
  split
  · rfl
  · split
    · exact hs _
    · rw [onHart_ctxs, hs]
      rfl

/-- The report of a lost peer, said once for its instruction. -/
theorem said_ctxs (chip : BitVec 10) (o : Op) (t : State) :
    (if t.ops.any (fun p => decide (o.id < p.id) && p.issuer == o.issuer && p.kind.chip? == some chip &&
        p.counts.1 == o.counts.1) then t else t.reportOp o .peerGone (chip.setWidth 64) false).ctxs = t.ctxs := by
  split
  · rfl
  · exact reportOp_ctxs ..

theorem losePeer_ctxs (chip : BitVec 10) (s : State) (o : Op) : (State.losePeer chip s o).ctxs = s.ctxs := by
  unfold State.losePeer
  dsimp only
  split
  · rw [endOp_ctxs, deliver_ctxs, said_ctxs]
  · split
    · rw [checkDone_ctxs, refuseLoad_ctxs _ _ _ _ _ _ _ (said_ctxs chip o)]
    · rw [checkDone_ctxs, said_ctxs]
  · rw [checkDone_ctxs, said_ctxs]
    rfl
  · split
    · rw [endOp_ctxs]
      rfl
    · exact endOp_ctxs ..
  · rw [endOp_ctxs, deliver_ctxs, said_ctxs]
  · rw [endOp_ctxs]
    exact said_ctxs chip o s

theorem leaveTicketWait_ctxs (chip : BitVec 10) (s : State) (h : HartId) : (State.leaveTicketWait chip s h).ctxs = s.ctxs := by
  unfold State.leaveTicketWait
  split
  · exact onHart_ctxs ..
  · rfl

theorem grant_ctxs (s : State) (w : SemWaiter) (v : Word) : (s.grant w v).ctxs = s.ctxs := by
  unfold State.grant
  dsimp only
  split <;> rfl

theorem breakWaiters_ctxs (ids : List Nat) (s : State) (c : Nat) : (State.breakWaiters ids s c).ctxs = s.ctxs := by
  refine (foldl_keeps State.ctxs (fun s w => ?_) _ _).trans rfl
  split
  · exact grant_ctxs ..
  · rfl

theorem breakImports_ctxs (s : State) (c : Nat) (chip : BitVec 10) : (s.breakImports c chip).ctxs = s.ctxs := by
  unfold State.breakImports
  dsimp only
  rw [foldl_keeps State.ctxs (fun s o => by rw [reportOp_ctxs, endOp_ctxs]), foldl_keeps State.ctxs (fun s o => ?_),
    foldl_keeps State.ctxs (fun s c => breakWaiters_ctxs _ s c)]
  split
  · rw [endOp_ctxs, deliver_ctxs]
  · exact endOp_ctxs ..

/-- What a session that becomes GONE leaves of itself (R351, R354). -/
theorem sessionGone_session (c : Nat) (chip : BitVec 10) (h : ((s.ctxAt c).session chip).state = .opened) :
    (((s.sessionGone c chip).ctxAt c).session chip).state = .gone ∧ (((s.sessionGone c chip).ctxAt c).session chip).sent = [] := by
  have hc : ((s.ctxAt c).session chip).chip = chip := session_chip (by rw [h]; decide)
  rw [State.sessionGone, if_pos h, (ctxsKept_faultRecord ..).session, State.loseTickets, State.ctxAt_setCtxAt,
    show ∀ x : Ctx, ∀ f, (x.onDispensers f).session chip = x.session chip from fun _ _ => rfl]
  have hx : ∀ t : State, ∀ f, (t.onHartsOf c f).ctxs = t.ctxs := fun _ _ => rfl
  rw [State.ctxAt, hx, breakImports_ctxs, foldl_keeps State.ctxs (fun s h => leaveTicketWait_ctxs chip s h),
    foldl_keeps State.ctxs (fun s o => losePeer_ctxs chip s o)]
  have hs := session_put s c (s.ctxAt c) (t := { (s.ctxAt c).session chip with
    state := .gone, sent := [], held := [], trains := [], parts := [], owed := [] }) hc
  rw [State.ctxAt] at hs
  rw [hs]
  exact ⟨rfl, rfl⟩

theorem sessionOpen_next (c : Nat) (chip : BitVec 10) (peer : Nat)
    (hs : (s.ctxAt c).state = .idle ∨ (s.ctxAt c).state = .active ∨ (s.ctxAt c).state = .suspended) (hc : chip ≠ s.chipId)
    (hp : ∃ t ∈ (s.ctxAt c).sessions, t.chip = chip ∧ t.peer = peer ∧ t.state = .closed) :
    ∃ t, execSessionOpen c chip peer s = .next t ∧ ((t.ctxAt c).session chip).state = .opened ∧
      ((t.ctxAt c).session chip).peer = peer ∧ ((t.ctxAt c).session chip).sent = [] ∧ t.mem = s.mem := by
  unfold execSessionOpen
  dsimp only
  refine ⟨_, event_true ?_ _ _, ?_⟩
  · rw [Bool.and_eq_true, Bool.and_eq_true, bne_iff_ne, List.any_eq_true]
    refine ⟨⟨by rcases hs with h | h | h <;> rw [h] <;> rfl, hc⟩, ?_⟩
    obtain ⟨t, ht, h1, h2, h3⟩ := hp
    exact ⟨t, ht, by rw [h1, h2, h3]; simp⟩
  · rw [session_put s c (s.ctxAt c) rfl]
    exact ⟨rfl, rfl, rfl, rfl⟩

theorem gone_next {c : Nat} {chip : BitVec 10} (h : ((s.ctxAt c).session chip).state = .opened) {ok : Bool} (hok : ok = true) :
    ∃ t, event ok (fun s => s.sessionGone c chip) s = .next t ∧ ((t.ctxAt c).session chip).state = .gone ∧
      ((t.ctxAt c).session chip).sent = [] :=
  ⟨_, event_true hok _ _, sessionGone_session c chip h⟩

theorem closeMsg_gone {m : Msg} {r : BitVec 8} (hm : m.body = .close r) (hl : s.linked = true)
    (h : ((s.ctxAt m.ctx).session m.chip).state = .opened) :
    ∃ t, execCloseMsg m s = .next t ∧ ((t.ctxAt m.ctx).session m.chip).state = .gone ∧
      ((t.ctxAt m.ctx).session m.chip).sent = [] := by
  rw [execCloseMsg, hm]
  exact gone_next h (by rw [hl, h]; rfl)

theorem unlinked_messages (hl : s.linked = false) (m : Msg) (c : Nat) (chip : BitVec 10) :
    execCloseMsg m s = .next s ∧ execRetMsg m s = .next s ∧ execRetSend c chip s = .next s := by
  refine ⟨?_, ?_, event_false (by rw [hl]; rfl) _ _⟩
  · unfold execCloseMsg
    split
    · exact event_false (by rw [hl]; rfl) _ _
    · rfl
  · unfold execRetMsg
    split
    · exact event_false (by rw [hl]; rfl) _ _
    · rfl

theorem sessionSettled_next {c : Nat} {chip : BitVec 10} (h : ((s.ctxAt c).session chip).state = .gone)
    (ho : ∀ o ∈ s.ops, o.ctx = c → o.addresses chip = false) :
    ∃ t, execSessionSettled c chip s = .next t ∧ (∀ z ∈ (t.ctxAt c).sessions, z.chip ≠ chip) ∧ t.mem = s.mem := by
  refine ⟨_, event_true ?_ _ _, fun z hz => ?_, rfl⟩
  · rw [h, beq_self_eq_true, Bool.true_and, List.all_eq_true]
    intro o hm
    by_cases hc : o.ctx = c
    · rw [ho o hm hc, Bool.not_false, Bool.or_true]
    · rw [bne_iff_ne.2 hc, Bool.true_or]
  · dsimp only at hz
    rw [State.ctxAt_setCtxAt] at hz
    exact bne_iff_ne.1 (List.mem_filter.1 hz).2

theorem reservedMessage_next {m : Msg} {n : BitVec 8} (hm : m.body = .reserved n) (hn : n = 0 ∨ 12 ≤ n.toNat) (hl : s.linked = true) :
    execReservedMessage m s = .next { s with discarded := s.discarded + 1 } := by
  rw [execReservedMessage, hm]
  refine event_true ?_ _ _
  rw [hl, Bool.true_and, Bool.or_eq_true, beq_iff_eq, decide_eq_true_eq]
  exact hn

end

/-! ## Returns (R353) -/

section

variable {s : State} {c : Nat} {chip : BitVec 10}

theorem send_session (s : State) (c : Nat) {chip : BitVec 10} (hc : ((s.ctxAt c).session chip).chip = chip) (tag : Nat) (w p : Bool)
    (b : MsgBody) :
    ((s.send c chip tag w p b).ctxAt c).session chip =
      { (s.ctxAt c).session chip with
        sendSeq := ((s.ctxAt c).session chip).sendSeq + 1
        sent := ((s.ctxAt c).session chip).sent ++
          [⟨c, chip, ((s.ctxAt c).session chip).sendSeq, BitVec.ofNat 32 tag, w, p, b⟩] } := by
  exact session_put s c (s.ctxAt c) hc

/-- DONEs sent one after another join what a session has sent. -/
theorem sendAll_session (s : State) (c : Nat) {chip : BitVec 10} (hc : ((s.ctxAt c).session chip).chip = chip)
    (l : List (Word × List Nat)) :
    ∃ q l', ((l.foldl (fun s p => s.send c chip 0 false false (.done p.1)) s).ctxAt c).session chip =
      { (s.ctxAt c).session chip with sendSeq := q, sent := ((s.ctxAt c).session chip).sent ++ l' } ∧
      l'.map Msg.body = l.map (fun p => .done p.1) := by
  induction l generalizing s with
  | nil => exact ⟨_, [], by rw [List.append_nil]; rfl, rfl⟩
  | cons p l ih =>
    have h1 := send_session s c hc 0 false false (.done p.1)
    obtain ⟨q, l', h2, h3⟩ := ih (s.send c chip 0 false false (.done p.1)) (by rw [h1]; exact hc)
    rw [h1] at h2
    refine ⟨q, ⟨c, chip, ((s.ctxAt c).session chip).sendSeq, BitVec.ofNat 32 0, false, false, .done p.1⟩ :: l', ?_, ?_⟩
    · rw [List.foldl_cons, h2, List.append_assoc, List.singleton_append]
    · rw [List.map_cons, List.map_cons, h3]

theorem sendAll_leaves (s : State) (c : Nat) (chip : BitVec 10) (l : List (Word × List Nat)) :
    DataOnly s (l.foldl (fun s p => s.send c chip 0 false false (.done p.1)) s) ∧
      (l.foldl (fun s p => s.send c chip 0 false false (.done p.1)) s).mem = s.mem :=
  ⟨.foldl (fun _ _ => dataOnly_send ..) l s,
    foldl_keeps State.mem (f := fun s (p : Word × List Nat) => s.send c chip 0 false false (.done p.1)) (fun _ _ => rfl) l s⟩

/-- The DONEs that have fallen due are sent, and owed no more (R362). -/
theorem sendDones_session (hc : ((s.ctxAt c).session chip).chip = chip) :
    let y := (s.ctxAt c).session chip
    ∃ q l', ((s.sendDones c chip).ctxAt c).session chip =
      { y with owed := y.owed.filter (fun p => p.2.any s.alive), sendSeq := q, sent := y.sent ++ l' } ∧
      l'.map Msg.body = (y.owed.filter (fun p => !(p.2.any s.alive))).map (fun p => .done p.1) := by
  have h1 := session_put s c (s.ctxAt c) (t := { (s.ctxAt c).session chip with
    owed := ((s.ctxAt c).session chip).owed.filter (fun p => p.2.any s.alive) }) hc
  obtain ⟨q, l', h2, h3⟩ := sendAll_session _ c (by rw [h1]; exact hc)
    (((s.ctxAt c).session chip).owed.filter (fun p => !(p.2.any s.alive)))
  rw [h1] at h2
  exact ⟨q, l', h2, h3⟩

theorem sendDones_dataOnly (s : State) (c : Nat) (chip : BitVec 10) : DataOnly s (s.sendDones c chip) :=
  (dataOnly_setCtxAt ..).trans (sendAll_leaves ..).1

theorem sendDones_mem (s : State) (c : Nat) (chip : BitVec 10) : (s.sendDones c chip).mem = s.mem := (sendAll_leaves ..).2

theorem DataOnly.ops {s t : State} (h : DataOnly s t) : t.ops = s.ops := by
  obtain ⟨m, x, rfl⟩ := h
  rfl

/-- The return that an end of a session sends, and the DONEs that go with it (R353, R362). -/
theorem retSend_next (ho : ((s.ctxAt c).session chip).state = .opened) (hl : s.linked = true) :
    let y := (s.ctxAt c).session chip
    ∃ t r, execRetSend c chip s = .next t ∧ t.mem = s.mem ∧ t.ops = s.ops ∧
      ((t.ctxAt c).session chip).ret = some r ∧
      r.body = .ret y.applied (y.confirmed + y.refused.length) y.seenF y.refused ∧
      ((t.ctxAt c).session chip).owed = y.owed.filter (fun p => p.2.any s.alive) ∧
      ((t.ctxAt c).session chip).sent.map Msg.body = y.sent.map Msg.body ++
        (y.owed.filter (fun p => !(p.2.any s.alive))).map (fun p => .done p.1) := by
  have hc : ((s.ctxAt c).session chip).chip = chip := session_chip (by rw [ho]; decide)
  obtain ⟨q, l', h2, h3⟩ := sendDones_session (s := s) hc
  refine ⟨_, retOf c (((s.sendDones c chip).ctxAt c).session chip), event_true (by rw [hl, ho]; rfl) _ _,
    sendDones_mem .., (sendDones_dataOnly ..).ops, ?_⟩
  dsimp only
  rw [session_put _ c _ (by rw [h2]; exact hc), h2]
  refine ⟨rfl, rfl, rfl, ?_⟩
  rw [List.map_append, h3]

/-- A return that carries no refusal which this end has not seen (R353). -/
theorem retMsg_next {m : Msg} {a f seen : Nat} {recs : List RefusalRec} (hm : m.body = .ret a f seen recs)
    (ho : ((s.ctxAt m.ctx).session m.chip).state = .opened) (hl : s.linked = true)
    (hf : f ≤ ((s.ctxAt m.ctx).session m.chip).seenF) :
    let y := (s.ctxAt m.ctx).session m.chip
    ∃ t, execRetMsg m s = .next t ∧
      ((t.ctxAt m.ctx).session m.chip).sent = y.sent.filter (fun k => !((0 : BitVec 32).slt (BitVec.ofNat 32 a - k.seq))) ∧
      ((t.ctxAt m.ctx).session m.chip).confirmed = max y.confirmed seen ∧
      ((t.ctxAt m.ctx).session m.chip).refused = y.refused.drop (seen - y.confirmed) := by
  have hc : ((s.ctxAt m.ctx).session m.chip).chip = m.chip := session_chip (by rw [ho]; decide)
  have hfresh : freshRefusals f ((s.ctxAt m.ctx).session m.chip).seenF recs = [] := by
    rw [freshRefusals, Nat.sub_eq_zero_of_le hf, Nat.sub_zero, List.drop_length]
  rw [execRetMsg, hm]
  refine ⟨_, event_true (by rw [hl, ho]; rfl) _ _, ?_⟩
  dsimp only
  rw [hfresh, List.foldl_nil, State.ctxAt, foldl_keeps State.ctxs checkDone_ctxs]
  have h := session_put s m.ctx (s.ctxAt m.ctx) (t := { (s.ctxAt m.ctx).session m.chip with
    sent := ((s.ctxAt m.ctx).session m.chip).sent.filter (fun k => !((0 : BitVec 32).slt (BitVec.ofNat 32 a - k.seq)))
    seenF := Nat.max ((s.ctxAt m.ctx).session m.chip).seenF f
    refused := ((s.ctxAt m.ctx).session m.chip).refused.drop (seen - ((s.ctxAt m.ctx).session m.chip).confirmed)
    confirmed := Nat.max ((s.ctxAt m.ctx).session m.chip).confirmed seen }) hc
  rw [State.ctxAt] at h
  rw [h]
  exact ⟨rfl, rfl, rfl⟩

end

end Sys2Proof.Machine
end

section
/-! SUPPORT. The statements settled: sessions -/

namespace Sys2Proof.Proofs

open Sys2Proof.Machine

/-- Settles O57: each event of a session by what it leaves of the session (`session_put`). -/
theorem sessions : Obligations.Sessions := by
  unfold Obligations.Sessions
  rintro c peer chip m s rfl rfl
  refine ⟨fun hs hc hp => sessionOpen_next _ _ _ hs hc hp, fun ho => ⟨?_, ?_, fun r hm hl => closeMsg_gone hm hl ho⟩,
    fun hl => unlinked_messages hl _ _ _, sessionSettled_next, fun n => reservedMessage_next, retSend_next,
    fun a f seen recs hm ho hl hf => retMsg_next hm ho hl hf⟩
  · exact gone_next ho (beq_iff_eq.2 ho)
  · exact gone_next ho (beq_iff_eq.2 ho)

end Sys2Proof.Proofs
end

section
/-! SUPPORT. the commands on contexts -/

namespace Sys2Proof.Machine

/-! ## What changes memory, contexts and pages only -/

/-- Nothing but memory, the contexts, the dies and the number of Kennel's draws changes. -/
def StoreOnly (s t : State) : Prop := ∃ m x d n, t = { s with mem := m, ctxs := x, dies := d, draws := n }

section

variable {s t u : State}

theorem StoreOnly.refl (s : State) : StoreOnly s s := ⟨_, _, _, _, rfl⟩

theorem StoreOnly.trans (h : StoreOnly s t) (k : StoreOnly t u) : StoreOnly s u := by
  obtain ⟨m, x, d, n, rfl⟩ := h
  obtain ⟨m', x', d', n', rfl⟩ := k
  exact ⟨m', x', d', n', rfl⟩

theorem StoreOnly.foldl {α : Type} {f : State → α → State} (hf : ∀ s x, StoreOnly s (f s x)) (l : List α) (s : State) :
    StoreOnly s (l.foldl f s) := by
  induction l generalizing s with
  | nil => exact .refl s
  | cons x l ih => exact (hf s x).trans (ih _)

theorem DataOnly.store (h : DataOnly s t) : StoreOnly s t := by
  obtain ⟨m, x, rfl⟩ := h
  exact ⟨m, x, _, _, rfl⟩

theorem StoreOnly.vfs (h : StoreOnly s t) : t.vfs = s.vfs := by
  obtain ⟨m, x, d, n, rfl⟩ := h
  rfl

theorem StoreOnly.groups (h : StoreOnly s t) : t.groups = s.groups := by
  obtain ⟨m, x, d, n, rfl⟩ := h
  rfl

theorem StoreOnly.harts (h : StoreOnly s t) : t.harts = s.harts := by
  obtain ⟨m, x, d, n, rfl⟩ := h
  rfl

theorem StoreOnly.ops (h : StoreOnly s t) : t.ops = s.ops := by
  obtain ⟨m, x, d, n, rfl⟩ := h
  rfl

theorem StoreOnly.nextOp (h : StoreOnly s t) : t.nextOp = s.nextOp := by
  obtain ⟨m, x, d, n, rfl⟩ := h
  rfl

theorem storeOnly_growPool (s : State) (c die n : Nat) : StoreOnly s (s.growPool c die n) := ⟨_, _, _, _, rfl⟩

theorem storeOnly_drawUnit (s : State) (c die pool : Nat) : StoreOnly s (s.drawUnit c die pool).1 := by
  unfold State.drawUnit
  dsimp only
  split
  · exact .refl s
  · exact ⟨_, _, _, _, rfl⟩

theorem storeOnly_backUnits (c e die n u pool : Nat) (s : State) : StoreOnly s (State.backUnits c e die n u pool s) := by
  induction n generalizing u pool s with
  | zero => exact .refl s
  | succ n ih =>
    have hd := storeOnly_drawUnit s c die pool
    unfold State.backUnits
    split
    next heq =>
      rw [heq] at hd
      exact hd.trans (ih ..)
    next heq =>
      rw [heq] at hd
      exact (hd.trans (dataOnly_setRunAt ..).store).trans (ih ..)

theorem storeOnly_mapRun (s : State) (c e : Nat) (r : Run) : StoreOnly s (s.mapRun c e r) := by
  unfold State.mapRun
  dsimp only
  split
  · exact (dataOnly_setCtxAt ..).store
  · exact (dataOnly_setCtxAt ..).store.trans (storeOnly_backUnits ..)

theorem dataOnly_putLines (s : State) (c e a : Nat) (bs : List Byte) : DataOnly s (s.putLines c e a bs) := by
  unfold State.putLines
  split
  · exact dataOnly_putRunBytes ..
  · exact .foldl (dataOnly_putLine c e) _ s

theorem storeOnly_kennelAppend (s : State) (c e : Nat) (data : List Byte) : StoreOnly s (s.kennelAppend c e data) := by
  unfold State.kennelAppend
  dsimp only
  split
  · exact storeOnly_growPool ..
  · exact (((storeOnly_growPool ..).trans (storeOnly_mapRun ..)).trans (dataOnly_putLines ..).store).trans (dataOnly_publish ..).store

theorem storeOnly_faultRecord (s : State) (c : Nat) (x y : Word) (a b d e f : Nat) : StoreOnly s (s.faultRecord c x y a b d e f) :=
  (dataOnly_setCtxAt s c { s.ctxAt c with faults := (s.ctxAt c).faults + 1 }).store.trans (storeOnly_kennelAppend ..)

theorem storeOnly_drawPages (c : Nat) (l : List Nat) (n : Nat) (s : State) : StoreOnly s (s.drawPages c l n) := by
  induction l generalizing n s with
  | nil => exact .refl s
  | cons d l ih =>
    unfold State.drawPages
    dsimp only
    split
    · exact ih ..
    · exact (storeOnly_growPool ..).trans (ih ..)

theorem storeOnly_drawParts (s : State) (c : Nat) (own : List Nat) (n : Nat) : StoreOnly s (s.drawParts c own n) :=
  .foldl (fun s d => storeOnly_drawPages c [d] _ s) own s

theorem ctxsKept_drawPages (c : Nat) (l : List Nat) (n : Nat) (s : State) : CtxsKept s (s.drawPages c l n) := by
  induction l generalizing n s with
  | nil => exact .refl s
  | cons d l ih =>
    unfold State.drawPages
    dsimp only
    split
    · exact ih ..
    · exact (ctxsKept_growPool ..).trans (ih ..)

theorem ctxsKept_drawParts (s : State) (c : Nat) (own : List Nat) (n : Nat) : CtxsKept s (s.drawParts c own n) :=
  .foldl (fun s d => ctxsKept_drawPages c [d] _ s) own s

/-- A context that is there stays there. -/
theorem lookup?_setCtxAt_isSome (s : State) (c : Nat) (x : Ctx) {k : Nat} (h : k = c ∨ (lookup? s.ctxs k).isSome = true) :
    (lookup? (s.setCtxAt c x).ctxs k).isSome = true := by
  rw [State.setCtxAt_ctxs, lookup?_insertKey]
  split
  · rfl
  next hk => exact h.resolve_left hk

theorem listed_drawPages (c k : Nat) (l : List Nat) (n : Nat) (s : State) (h : (lookup? s.ctxs k).isSome = true) :
    (lookup? (s.drawPages c l n).ctxs k).isSome = true := by
  induction l generalizing n s with
  | nil => exact h
  | cons d l ih =>
    unfold State.drawPages
    dsimp only
    split
    · exact ih _ _ h
    · exact ih _ _ (lookup?_setCtxAt_isSome _ _ _ (.inr h))

theorem listed_drawParts (c k : Nat) (own : List Nat) (n : Nat) (s : State) (h : (lookup? s.ctxs k).isSome = true) :
    (lookup? (s.drawParts c own n).ctxs k).isSome = true := by
  unfold State.drawParts
  generalize n / own.length = m
  induction own generalizing s with
  | nil => exact h
  | cons d l ih => exact ih _ (listed_drawPages _ _ _ _ _ h)

end

/-! ## Commands of the host (R369) -/

section

variable {s : State} {vf : Nat}

/-- A command that has been performed: the function is busy with its result. -/
structure Ran (s t : State) (vf : Nat) (a : Answer) : Prop where
  busy : (t.vfAt vf).busy = true
  result : (t.vfAt vf).result = BitVec.ofNat 8 a.result
  value : (t.vfAt vf).cresult = a.value
  seq : (t.vfAt vf).seq = (s.vfAt vf).next
  next : (t.vfAt vf).next = (s.vfAt vf).next + 1
  waits : (t.vfAt vf).waits = a.waits
  rest : ∃ x, t = a.state.setVfAt vf x

theorem Ran.ctxs {t : State} {a : Answer} (h : Ran s t vf a) : t.ctxs = a.state.ctxs := by
  obtain ⟨x, hx⟩ := h.rest
  rw [hx]
  rfl

theorem Ran.mem {t : State} {a : Answer} (h : Ran s t vf a) : t.mem = a.state.mem := by
  obtain ⟨x, hx⟩ := h.rest
  rw [hx]
  rfl

theorem Ran.ops {t : State} {a : Answer} (h : Ran s t vf a) : t.ops = a.state.ops := by
  obtain ⟨x, hx⟩ := h.rest
  rw [hx]
  rfl

theorem Ran.groups {t : State} {a : Answer} (h : Ran s t vf a) : t.groups = a.state.groups := by
  obtain ⟨x, hx⟩ := h.rest
  rw [hx]
  rfl

theorem Ran.ctxAt {t : State} {a : Answer} (h : Ran s t vf a) (c : Nat) : t.ctxAt c = a.state.ctxAt c := by
  rw [State.ctxAt, h.ctxs]
  rfl

theorem Ran.runAt {t : State} {a : Answer} (h : Ran s t vf a) (c e : Nat) : t.runAt c e = a.state.runAt c e := by
  rw [State.runAt, h.ctxAt]
  rfl

theorem command_ran {here : Nat → Bool} {f : VFunc → State → Answer} {a : Answer} (he : (s.vfAt vf).enabled = true)
    (hh : here (bitsOf ((s.vfAt vf).arg 0) 0 8) = true) (hb : (s.vfAt vf).busy = false) (ha : f (s.vfAt vf) s = a)
    (hn : (a.state.vfAt vf).next = (s.vfAt vf).next) : ∃ t, command vf here f s = .next t ∧ Ran s t vf a := by
  refine ⟨_, command_next f he hh hb, ?_⟩
  rw [ha]
  constructor
  case rest => exact ⟨_, rfl⟩
  all_goals rw [State.vfAt_setVfAt]
  case seq => exact hn
  case next => exact congrArg (· + 1) hn

theorem command_busy {here : Nat → Bool} {f : VFunc → State → Answer} (he : (s.vfAt vf).enabled = true)
    (hh : here (bitsOf ((s.vfAt vf).arg 0) 0 8) = true) (hb : (s.vfAt vf).busy = true) :
    command vf here f s = .next (s.setVfAt vf { s.vfAt vf with overrun := true }) := by
  rw [command, event_true (by rw [he, hh]; rfl), if_pos hb]

/-- A command on a context that the function has, and that is not RESETTING. -/
theorem onContext_named {f : VFunc → Nat → State → Answer} {v : VFunc} {c : Nat} (hc : s.ctxNamed vf (v.arg 1) = some c)
    (hr : (s.ctxAt c).state ≠ .resetting) : onContext vf f v s = f v c s := by
  rw [onContext, hc]
  exact if_neg hr

theorem onContext_unnamed {f : VFunc → Nat → State → Answer} {v : VFunc} (hc : s.ctxNamed vf (v.arg 1) = none) :
    onContext vf f v s = s.refusal 1 := by
  rw [onContext, hc]

theorem onRun_named {f : VFunc → Nat → Nat → State → Answer} {v : VFunc} {c : Nat} (hc : s.ctxNamed vf (v.arg 1) = some c)
    (hr : (s.ctxAt c).state ≠ .resetting) (hk : runHandleOk s (s.ctxAt c) (v.arg 2) = true) :
    onRun vf f v s = f v c (handleEntry (v.arg 2)) s := by
  rw [onRun, onContext_named hc hr]
  exact if_pos hk

/-! ## The end of a command (R369) -/

theorem commandDone_over (hb : (s.vfAt vf).busy = true) (ho : s.hostWaitOver vf (s.vfAt vf).waits = true) :
    execCommandDone vf s =
      .next ((s.hostWaited (s.vfAt vf).waits).setVfAt vf { s.vfAt vf with busy := false, waits := none }) := by
  rw [execCommandDone, event_true (by rw [hb, ho]; rfl)]

theorem commandDone_waits (ho : s.hostWaitOver vf (s.vfAt vf).waits = false) : execCommandDone vf s = .next s := by
  rw [execCommandDone, event_false (by rw [ho, Bool.and_false])]

theorem commandDone_none (hb : (s.vfAt vf).busy = true) (hw : (s.vfAt vf).waits = none) :
    execCommandDone vf s = .next (s.setVfAt vf { s.vfAt vf with busy := false, waits := none }) := by
  rw [commandDone_over hb (by rw [hw]; rfl), hw]
  rfl

theorem commandDone_context {c : Nat} (hb : (s.vfAt vf).busy = true) (hw : (s.vfAt vf).waits = some (.context c))
    (hr : (s.ctxAt c).state ≠ .resetting) (hs : (s.ctxAt c).suspending = false) :
    execCommandDone vf s = .next (s.setVfAt vf { s.vfAt vf with busy := false, waits := none }) := by
  rw [commandDone_over hb (by rw [hw, State.hostWaitOver, bne_iff_ne.2 hr, hs, Bool.not_false, Bool.and_true, Bool.or_true]), hw]
  rfl

theorem commandDone_held {c : Nat} (hw : (s.vfAt vf).waits = some (.context c)) (hv : (s.ctxAt c).vf = vf)
    (h : (s.ctxAt c).state = .resetting ∨ (s.ctxAt c).suspending = true) : execCommandDone vf s = .next s := by
  refine commandDone_waits ?_
  rw [hw, State.hostWaitOver, hv]
  rcases h with h | h <;> rw [h] <;> simp

theorem commandDone_append {c id : Nat} {run : Word} (hb : (s.vfAt vf).busy = true)
    (hw : (s.vfAt vf).waits = some (.append c run id)) (ha : s.alive id = false) (hr : runHandleOk s (s.ctxAt c) run = true) :
    execCommandDone vf s =
      .next ((s.publish c (handleEntry run)).setVfAt vf { s.vfAt vf with busy := false, waits := none }) := by
  rw [commandDone_over hb (by rw [hw, State.hostWaitOver, ha]; rfl), hw, State.hostWaited, if_pos hr]

theorem commandDone_stale {c id : Nat} {run : Word} (hb : (s.vfAt vf).busy = true)
    (hw : (s.vfAt vf).waits = some (.append c run id)) (ha : s.alive id = false) (hr : runHandleOk s (s.ctxAt c) run = false) :
    execCommandDone vf s = .next (s.setVfAt vf { s.vfAt vf with busy := false, waits := none }) := by
  rw [commandDone_over hb (by rw [hw, State.hostWaitOver, ha]; rfl), hw, State.hostWaited,
    if_neg (by rw [hr]; exact Bool.false_ne_true)]

theorem commandDone_alive {c id : Nat} {run : Word} (hw : (s.vfAt vf).waits = some (.append c run id)) (ha : s.alive id = true) :
    execCommandDone vf s = .next s :=
  commandDone_waits (by rw [hw, State.hostWaitOver, ha]; rfl)

theorem dropWait_append {v : VFunc} {c id : Nat} {run : Word} (hw : v.waits = some (.append c run id)) (k : Nat) :
    (v.dropWait k).waits = if k = c then none else some (.append c run id) := by
  rw [VFunc.dropWait, hw]
  dsimp only
  by_cases hk : k = c
  · rw [if_pos hk, if_pos hk.symm]
  · rw [if_neg hk, if_neg (Ne.symm hk), hw]

theorem dropWait_result {v : VFunc} {c id : Nat} {run : Word} (hw : v.waits = some (.append c run id)) :
    (v.dropWait c).result = 3 := by
  rw [VFunc.dropWait, hw]
  dsimp only
  rw [if_pos rfl]

/-! ## Making a context (R370) -/

theorem leastFrom_some {p : Nat → Bool} {n k x : Nat} (h : leastFrom p n k = some x) : p x = true ∧ k ≤ x ∧ x < k + n := by
  induction n generalizing k with
  | zero => cases h
  | succ n ih =>
    unfold leastFrom at h
    split at h
    next hp =>
      cases h
      exact ⟨hp, le_refl _, by omega⟩
    · obtain ⟨h1, h2, h3⟩ := ih h
      exact ⟨h1, by omega, by omega⟩

theorem leastBelow_some {p : Nat → Bool} {n x : Nat} (h : leastBelow n p = some x) : p x = true ∧ x < n := by
  obtain ⟨h1, _, h2⟩ := leastFrom_some h
  exact ⟨h1, by omega⟩

theorem length_sorted (l : List Nat) : (stableSort (fun a b => decide (a ≤ b)) l).length = l.length :=
  (stableSort_spec id l).1.length_eq

theorem getD_map_range {α : Type} {n k : Nat} (f : Nat → α) (x : α) (h : k < n) : ((List.range n).map f).getD k x = f k := by
  rw [List.getD_eq_getElem?_getD, List.getElem?_map, List.getElem?_range h]
  rfl

/-- The context that CTXNEW makes (R370). -/
structure MadeContext (s t : State) (vf : Nat) (v : VFunc) (value : Word) (k : Nat) (x : Ctx) : Prop where
  vfs : t.vfs = s.vfs
  made : lookup? t.ctxs k = some x
  fresh : lookup? s.ctxs k = none
  function : x.vf = vf
  number : x.ctxid.setWidth 64 = value
  idle : x.state = .idle
  table : x.table = (v.arg 2).toNat
  queues : x.queues.length = (v.arg 3).toNat
  iters : x.iters = bitsOf (v.arg 5) 0 9
  routes : x.routes = bitsOf (v.arg 5) 16 9
  cores : ∀ d < 8, (x.part.getD d []).length = bitsOf (v.arg 1) (8 * d) 8

/-- A context put in place whose pool is then drawn from the dies. -/
theorem drawn_context (s : State) (key n : Nat) (x : Ctx) (own : List Nat) (units : Nat) (dies : List Nat) (m : State → Nat) :
    let u := State.drawParts { s.setCtxAt key x with draws := n } key own units
    let t := u.drawPages key dies (m u)
    t.vfs = s.vfs ∧ ∃ r p g f, lookup? t.ctxs key = some { x with runs := r, pools := p, stained := g, faults := f } := by
  intro u t
  have hs : StoreOnly { s.setCtxAt key x with draws := n } t := (storeOnly_drawParts ..).trans (storeOnly_drawPages ..)
  have hk : CtxsKept { s.setCtxAt key x with draws := n } t := (ctxsKept_drawParts ..).trans (ctxsKept_drawPages ..)
  have hl : (lookup? t.ctxs key).isSome = true :=
    listed_drawPages _ _ _ _ _ (listed_drawParts _ _ _ _ _ (lookup?_setCtxAt_isSome s key x (.inl rfl)))
  refine ⟨hs.vfs, ?_⟩
  obtain ⟨y, hy⟩ := Option.isSome_iff_exists.1 hl
  obtain ⟨r, p, g, f, hx⟩ := hk.ctx key
  rw [State.ctxAt, lookupD_eq_getD, hy] at hx
  refine ⟨r, p, g, f, hy.trans (congrArg some (hx.trans ?_))⟩
  have hc : State.ctxAt { s.setCtxAt key x with draws := n } key = x := State.ctxAt_setCtxAt s key x
  rw [hc]

theorem newContext_made {v : VFunc} (h : (newContext vf v s).result = 0) :
    ∃ k x, MadeContext s (newContext vf v s).state vf v (newContext vf v s).value k x := by
  unfold newContext at h ⊢
  dsimp only at h ⊢
  split at h
  · cases h
  next hok =>
  rw [if_neg hok]
  split at h
  · cases h
  next hal =>
  rw [if_neg hal]
  split at h
  next id key hid hkey =>
    split at h
    · cases h
    next hres =>
      rw [if_neg hres]
      obtain ⟨hfresh, _⟩ := leastBelow_some hkey
      obtain ⟨_, hid⟩ := leastBelow_some hid
      have hcores : ∀ d < 8, v.newCtx.cores.getD d 0 ≤ (s.freeCores vf d).length := by
        intro d hd
        rw [Bool.or_eq_true, Bool.or_eq_true, Bool.or_eq_true, not_or, not_or, not_or] at hres
        obtain ⟨⟨⟨hall, _⟩, _⟩, _⟩ := hres
        rw [Bool.not_eq_true', Bool.not_eq_false, List.all_eq_true] at hall
        have h8 := of_decide_eq_true (hall d (List.mem_range.2 hd))
        rw [getD_map_range _ _ hd] at h8
        exact h8
      obtain ⟨hv, r, p, g, f, hl⟩ := drawn_context s key (s.draws + 1) _ _ _ _ (fun u => v.newCtx.units - (u.ctxAt key).pool)
      refine ⟨key, _, hv, hl, Option.isNone_iff_eq_none.1 hfresh, rfl, ?_, rfl, rfl, ?_, rfl, rfl, fun d hd => ?_⟩
      · show (BitVec.ofNat 9 id).setWidth 64 = BitVec.ofNat 64 id
        refine BitVec.eq_of_toNat_eq ?_
        rw [BitVec.toNat_setWidth, BitVec.toNat_ofNat, BitVec.toNat_ofNat]
        have h512 : id < 512 := hid
        omega
      · rw [newQueues, List.length_map, List.length_range]
        rfl
      · dsimp only
        rw [getD_map_range _ _ hd, length_sorted, List.length_take, getD_map_range _ _ hd]
        have h8 := hcores d hd
        rw [Nat.min_eq_left h8]
        exact getD_map_range _ _ hd
  · cases h

/-! ## Ending, suspending and resuming a context -/

theorem lookupD_map {α : Type} {d : α} {f : α → α} (hf : f d = d) (l : List (Nat × α)) (k : Nat) :
    lookupD d (l.map (fun p => (p.1, f p.2))) k = f (lookupD d l k) := by
  induction l with
  | nil => exact hf.symm
  | cons p l ih =>
    rw [List.map_cons, lookupD, lookupD]
    split
    · rfl
    · exact ih

theorem endOp_vfs (s : State) (o : Op) : (s.endOp o).vfs = s.vfs := by
  rw [State.endOp, State.settleCore, State.setCoreAt_vfs, State.endParent]
  split
  · split <;> rfl
  · rfl

theorem abandon_vfs (s : State) (o : Op) : (s.abandon o).vfs = s.vfs := by
  unfold State.abandon
  dsimp only
  rw [(dataOnly_stallWords ..).store.vfs, endOp_vfs, foldl_keeps State.vfs (fun t x => ?_)]
  split
  · rfl
  · exact (dataOnly_zeroFill ..).store.vfs

theorem releaseCore_vfs (g : Nat) (s : State) (c : Nat) : (State.releaseCore g s c).vfs = s.vfs := by
  have hf : ∀ t : State, (t.freeTiles g c).vfs = t.vfs := by
    intro t
    unfold State.freeTiles
    dsimp only
    split <;> rfl
  exact hf _

theorem givenUp_vfs (s : State) (c : Nat) : (s.givenUp c).vfs = s.vfs := by
  unfold State.givenUp
  dsimp only
  rw [foldl_keeps State.vfs (fun s (p : Nat × Group) => foldl_keeps State.vfs (releaseCore_vfs p.1) p.2.cores s),
    foldl_keeps State.vfs abandon_vfs]

theorem vfAt_resetContext (s : State) (c v : Nat) : (s.resetContext c (plainReset c)).vfAt v = (s.vfAt v).dropWait c := by
  have hv : (s.resetContext c (plainReset c)).vfs = s.vfs.map (fun p => (p.1, p.2.dropWait c)) := by
    have h : ((plainReset c s).givenUp c).vfs = s.vfs := (givenUp_vfs ..).trans (storeOnly_faultRecord ..).vfs
    unfold State.resetContext
    dsimp only
    rw [State.setCtxAt_vfs]
    exact congrArg _ h
  rw [State.vfAt, hv]
  exact lookupD_map rfl ..

theorem dropWait_next (c : Nat) (v : VFunc) : (v.dropWait c).next = v.next := by
  unfold VFunc.dropWait
  split
  · split <;> rfl
  · rfl

theorem resetContext_groups (s : State) (c : Nat) (r : State → State) : ∀ p ∈ (s.resetContext c r).groups, p.2.ctx ≠ c := by
  intro p hp
  exact of_decide_eq_true (List.mem_filter.1 hp).2

/-- A suspension of a context begins, and is over at once when its groups are all saved (R258). -/
theorem suspendContext_leaves (s : State) (c : Nat) :
    ((((s.suspendContext c).ctxAt c).suspending = true) ∨ ((s.suspendContext c).ctxAt c).state = .suspended) ∧
      (s.suspendContext c).mem = s.mem ∧ (s.suspendContext c).vfs = s.vfs := by
  unfold State.suspendContext State.checkSuspend
  dsimp only
  split
  · exact ⟨.inr (by rw [State.ctxAt_setCtxAt]), rfl, rfl⟩
  · refine ⟨.inl ?_, rfl, rfl⟩
    exact congrArg Ctx.suspending (State.ctxAt_setCtxAt s c { s.ctxAt c with suspending := true })

/-- A launch that ends changes no state of a context, no memory and no function. -/
theorem endKernel_leaves (s : State) (c q : Nat) (k : Kernel) :
    ((s.endKernel c q k).ctxAt c).state = (s.ctxAt c).state ∧ (s.endKernel c q k).mem = s.mem ∧ (s.endKernel c q k).vfs = s.vfs := by
  have hw : ∀ t : State, (t.wakeLauncher k).ctxs = t.ctxs ∧ (t.wakeLauncher k).mem = t.mem ∧ (t.wakeLauncher k).vfs = t.vfs := by
    intro t
    unfold State.wakeLauncher
    split
    · exact ⟨rfl, rfl, rfl⟩
    · split <;> exact ⟨rfl, rfl, rfl⟩
  unfold State.endKernel
  split
  · exact ⟨rfl, rfl, rfl⟩
  next x hx =>
    obtain ⟨h1, h2, h3⟩ := hw ((s.setCtxAt c ((s.ctxAt c).setQueue q (x.finish k))).endLaunch c q k.ord)
    refine ⟨?_, h2, h3⟩
    rw [State.ctxAt, h1]
    exact (congrArg Ctx.state (State.ctxAt_setCtxAt s c ((s.ctxAt c).setQueue q (x.finish k)))).trans rfl

theorem cancelWaiters_leaves (f c : Nat) (s : State) :
    ((State.cancelWaiters f c s).ctxAt c).state = (s.ctxAt c).state ∧ (State.cancelWaiters f c s).mem = s.mem ∧
      (State.cancelWaiters f c s).vfs = s.vfs := by
  induction f generalizing s with
  | zero => exact ⟨rfl, rfl, rfl⟩
  | succ f ih =>
    unfold State.cancelWaiters
    split
    · exact ⟨rfl, rfl, rfl⟩
    · split
      · exact ⟨rfl, rfl, rfl⟩
      next q k _ =>
        obtain ⟨h1, h2, h3⟩ := endKernel_leaves s c q { k with state := .cancelled, status := 3 }
        obtain ⟨i1, i2, i3⟩ := ih (s.endKernel c q { k with state := .cancelled, status := 3 })
        exact ⟨i1.trans h1, i2.trans h2, i3.trans h3⟩

theorem resumeContext_leaves (s : State) (c : Nat) :
    ((s.resumeContext c).ctxAt c).state = .active ∧ (s.resumeContext c).mem = s.mem ∧ (s.resumeContext c).vfs = s.vfs := by
  obtain ⟨h1, h2, h3⟩ := cancelWaiters_leaves (((s.setCtxAt c { s.ctxAt c with state := .active }).ctxAt c).launches + 1) c
    (s.setCtxAt c { s.ctxAt c with state := .active })
  exact ⟨h1.trans (by rw [State.ctxAt_setCtxAt]), h2, h3⟩

/-! ## The commands on a context, by its state (R258, R370) -/

section

variable {c : Nat}

theorem ctxdel_ran (he : (s.vfAt vf).enabled = true) (ho : bitsOf ((s.vfAt vf).arg 0) 0 8 = 2) (hb : (s.vfAt vf).busy = false)
    (hc : s.ctxNamed vf ((s.vfAt vf).arg 1) = some c) (hr : (s.ctxAt c).state ≠ .resetting) :
    ∃ t, execCtxdel vf s = .next t ∧ Ran s t vf ⟨s.resetContext c (plainReset c), 0, 0, some (.context c)⟩ :=
  command_ran he (by rw [ho]; rfl) hb (onContext_named hc hr) (by rw [vfAt_resetContext, dropWait_next])

theorem ctxsusp_ran (he : (s.vfAt vf).enabled = true) (ho : bitsOf ((s.vfAt vf).arg 0) 0 8 = 3) (hb : (s.vfAt vf).busy = false)
    (hc : s.ctxNamed vf ((s.vfAt vf).arg 1) = some c) (hr : (s.ctxAt c).state ≠ .resetting) (ha : (s.ctxAt c).state = .active)
    (hs : (s.ctxAt c).suspending = false) :
    ∃ t, execCtxsusp vf s = .next t ∧ Ran s t vf ⟨s.suspendContext c, 0, 0, some (.context c)⟩ :=
  command_ran he (by rw [ho]; rfl) hb ((onContext_named hc hr).trans (if_pos ⟨ha, hs⟩))
    (by rw [State.vfAt, (suspendContext_leaves s c).2.2]; rfl)

theorem ctxsusp_refused (he : (s.vfAt vf).enabled = true) (ho : bitsOf ((s.vfAt vf).arg 0) 0 8 = 3) (hb : (s.vfAt vf).busy = false)
    (hc : s.ctxNamed vf ((s.vfAt vf).arg 1) = some c) (hr : (s.ctxAt c).state ≠ .resetting) (ha : (s.ctxAt c).state ≠ .active) :
    ∃ t, execCtxsusp vf s = .next t ∧ Ran s t vf (s.refusal 3) :=
  command_ran he (by rw [ho]; rfl) hb ((onContext_named hc hr).trans (if_neg fun h => ha h.1)) rfl

theorem ctxres_ran (he : (s.vfAt vf).enabled = true) (ho : bitsOf ((s.vfAt vf).arg 0) 0 8 = 4) (hb : (s.vfAt vf).busy = false)
    (hc : s.ctxNamed vf ((s.vfAt vf).arg 1) = some c) (hr : (s.ctxAt c).state ≠ .resetting) (hs : (s.ctxAt c).state = .suspended) :
    ∃ t, execCtxres vf s = .next t ∧ Ran s t vf ((s.resumeContext c).answer 0) :=
  command_ran he (by rw [ho]; rfl) hb ((onContext_named hc hr).trans (if_pos hs))
    (by rw [State.vfAt, State.answer, (resumeContext_leaves s c).2.2]; rfl)

theorem ctxres_refused (he : (s.vfAt vf).enabled = true) (ho : bitsOf ((s.vfAt vf).arg 0) 0 8 = 4) (hb : (s.vfAt vf).busy = false)
    (hc : s.ctxNamed vf ((s.vfAt vf).arg 1) = some c) (hr : (s.ctxAt c).state ≠ .resetting) (hs : (s.ctxAt c).state ≠ .suspended) :
    ∃ t, execCtxres vf s = .next t ∧ Ran s t vf (s.refusal 3) :=
  command_ran he (by rw [ho]; rfl) hb ((onContext_named hc hr).trans (if_neg hs)) rfl

theorem unnamed_refused {n : Nat} (he : (s.vfAt vf).enabled = true) (ho : bitsOf ((s.vfAt vf).arg 0) 0 8 = n)
    (hb : (s.vfAt vf).busy = false) (hc : s.ctxNamed vf ((s.vfAt vf).arg 1) = none) (f : VFunc → Nat → State → Answer) :
    ∃ t, command vf (· == n) (onContext vf f) s = .next t ∧ Ran s t vf (s.refusal 1) :=
  command_ran he (by rw [ho]; exact beq_self_eq_true n) hb (onContext_unnamed hc) rfl

end

end

end Sys2Proof.Machine
end

section
/-! SUPPORT. The statements settled: the commands on contexts -/

namespace Sys2Proof.Proofs

open Sys2Proof.Machine

/-- Settles O52: a command by what `command_ran` leaves of its answer, the end of one by what it waits for. -/
theorem contextCommands : Obligations.ContextCommands := by
  unfold Obligations.ContextCommands
  intro vf s v ran op
  have hran : ∀ {t : State} {a : Answer}, Ran s t vf a → ran t a.result a.value :=
    fun h => ⟨h.busy, h.result, h.value, h.seq, h.next⟩
  refine ⟨fun n img i hi ho hb => ?_, fun hb => ?_, fun hb => ⟨fun a ho ha h0 => ?_, fun c hc hr => ?_, fun hc => ?_⟩⟩
  · obtain ⟨f, hx⟩ : ∃ f, exec i s = command vf (· == n) f s := by
      simp only [List.mem_cons, Prod.mk.injEq, List.not_mem_nil, or_false] at hi
      rcases hi with ⟨rfl, rfl⟩ | ⟨rfl, rfl⟩ | ⟨rfl, rfl⟩ | ⟨rfl, rfl⟩ | ⟨rfl, rfl⟩ | ⟨rfl, rfl⟩ | ⟨rfl, rfl⟩ | ⟨rfl, rfl⟩ |
        ⟨rfl, rfl⟩ | ⟨rfl, rfl⟩ | ⟨rfl, rfl⟩ | ⟨rfl, rfl⟩ | ⟨rfl, rfl⟩ | ⟨rfl, rfl⟩
      all_goals exact ⟨_, rfl⟩
    exact hx.trans (command_busy ho.1 (by rw [ho.2]; exact beq_self_eq_true n) hb)
  · exact ⟨commandDone_none hb, fun c hw => ⟨commandDone_context hb hw, commandDone_held hw⟩,
      fun c run id hw => ⟨commandDone_append hb hw, commandDone_stale hb hw, commandDone_alive hw,
        dropWait_append hw, dropWait_result hw⟩⟩
  · obtain ⟨k, x, hm⟩ := newContext_made (s := s) (vf := vf) (v := v) (by rw [ha]; exact h0)
    rw [ha] at hm
    obtain ⟨t, ht, hr⟩ := command_ran (here := (· == 1)) (f := newContext vf) ho.1 (by rw [ho.2]; rfl) hb ha
      (by rw [State.vfAt, hm.vfs]; rfl)
    exact ⟨t, k, x, ht, h0 ▸ hran hr, hr.ctxs ▸ hm.made, hm.fresh, hm.function, hm.number, hm.idle, hm.table, hm.queues,
      hm.iters, hm.routes, hm.cores⟩
  · refine ⟨fun ho => ?_, fun ho hs hsus => ?_, fun ho hs => ?_, fun ho hs => ?_, fun ho hs => ?_⟩
    · obtain ⟨t, ht, h⟩ := ctxdel_ran ho.1 ho.2 hb hc hr
      exact ⟨t, ht, hran h, h.waits, by rw [h.ctxAt, resetContext_state, if_pos rfl], h.groups ▸ resetContext_groups s c _⟩
    · obtain ⟨t, ht, h⟩ := ctxsusp_ran ho.1 ho.2 hb hc hr hs hsus
      obtain ⟨hsusp, hmem, _⟩ := suspendContext_leaves s c
      exact ⟨t, ht, hran h, h.waits, by rw [h.ctxAt]; exact hsusp, h.mem.trans hmem⟩
    · obtain ⟨t, ht, h⟩ := ctxres_ran ho.1 ho.2 hb hc hr hs
      obtain ⟨hact, hmem, _⟩ := resumeContext_leaves s c
      exact ⟨t, ht, hran h, by rw [h.ctxAt]; exact hact, h.mem.trans hmem⟩
    · obtain ⟨t, ht, h⟩ := ctxsusp_refused ho.1 ho.2 hb hc hr hs
      exact ⟨t, ht, hran h, h.ctxs⟩
    · obtain ⟨t, ht, h⟩ := ctxres_refused ho.1 ho.2 hb hc hr hs
      exact ⟨t, ht, hran h, h.ctxs⟩
  · refine ⟨fun ho => ?_, fun ho => ?_⟩
    · obtain ⟨t, ht, h⟩ := unnamed_refused (n := 2) ho.1 ho.2 hb hc _
      exact ⟨t, ht, hran h, h.ctxs⟩
    · obtain ⟨t, ht, h⟩ := unnamed_refused (n := 3) ho.1 ho.2 hb hc _
      exact ⟨t, ht, hran h, h.ctxs⟩

end Sys2Proof.Proofs
end

section
/-! SUPPORT. a bounded RWRITE -/

namespace Sys2Proof.Machine

/-! ## An RWRITE in a step that bounds what is done -/

/-- A host run of 64-byte records whose extent has room for two of them. -/
def roomForTwo : Run :=
  { Run.reset with gen := 1, layout := BitVec.ofNat 64 (64 + 2 * 2 ^ 12), state := .opened, host := true, hostExt := [(64, 128)] }

/-- A chip with that run in entry 2, a function whose command is an RWRITE of three records to it, in a move that bounds what
is done to one record. -/
def boundedRwrite : State :=
  let x : Ctx := { Ctx.reset with state := .active, table := 4, runs := [(2, roomForTwo)] }
  let v : VFunc := { VFunc.reset with
    enabled := true
    cstage := #v[11, 0, runHandle State.reset 2 roomForTwo, 0, 3, 0, 0, 0] }
  { (State.reset.setCtxAt 0 x).setVfAt 0 v with steps := some 1 }

theorem boundedRwrite_ready :
    let s := boundedRwrite
    (s.vfAt 0).enabled = true ∧ (s.vfAt 0).busy = false ∧ s.ctxNamed 0 ((s.vfAt 0).arg 1) = some 0 ∧ (s.ctxAt 0).state ≠ .resetting ∧
      runHandleOk s (s.ctxAt 0) ((s.vfAt 0).arg 2) = true ∧ bitsOf ((s.vfAt 0).arg 0) 0 8 = 11 ∧
      handleEntry ((s.vfAt 0).arg 2) = 2 ∧ (s.runAt 0 2).state = .opened := by
  decide +kernel

theorem boundedRwrite_full :
    let s := boundedRwrite
    (s.runAt 0 2).host = true ∧
      (s.landRun 0 ((s.vfAt 0).arg 2) (Memory.readBytes s.mem (hostKey ((s.vfAt 0).arg 3).toNat)
        (((s.vfAt 0).arg 4).toNat * (s.runAt 0 2).size)) true false).2 = .full := by
  decide +kernel

/-- The phase of an operation of a state. -/
def phaseOf (id : Nat) (r : Host.Outcome State Fault Refusal) : Option OpPhase :=
  match r with
  | .next t => (t.opAt id).map Op.phase
  | _ => none

theorem phase_boundedRwrite : phaseOf boundedRwrite.nextOp (exec (.rwrite 0) boundedRwrite) = some .writing := by
  decide +kernel

theorem supply_none (s : State) (c die : Nat) : s.supply c die 0 = .ok s := if_pos (Nat.zero_sub _)

end Sys2Proof.Machine
end

section
/-! SUPPORT. The statements settled: a bounded RWRITE -/

namespace Sys2Proof.Proofs

open Sys2Proof.Machine

/-- Refutes O53: an RWRITE that finds room for some of its records only, in a move that bounds what is done, leaves its append
writing the records that have room, and not waiting for an extent (`boundedRwrite`). -/
theorem not_runCommands : ¬ Obligations.RunCommands := by
  unfold Obligations.RunCommands
  intro h
  have hready := boundedRwrite_ready
  have hroom := boundedRwrite_full
  have hp := phase_boundedRwrite
  revert hready hroom hp
  generalize boundedRwrite = s
  intro ⟨he, hb, hc, hr, hk, ho, hentry, hopen⟩ ⟨hhost, hfull⟩ hp
  obtain ⟨_, _, _, _, hrun, _, _⟩ := h 0 0 s he hb hc hr
  obtain ⟨_, _, hwrite, _⟩ := hrun hk
  obtain ⟨_, hrest⟩ := hwrite ho
  obtain ⟨_, hfull', _⟩ := hrest (by rw [hentry]) (by rw [hentry]; exact hopen)
  obtain ⟨t, ht, _, _, o, hat, hphase⟩ := hfull' s _ (by rw [hentry, hhost]; exact supply_none ..)
    (Prod.ext rfl (by rw [hentry]; exact hfull))
  rw [ht, phaseOf, hat, Option.map_some, hphase] at hp
  cases hp

end Sys2Proof.Proofs
end

section
/-! SUPPORT. extents, soft errors, scrubbing and channels -/

namespace Sys2Proof.Machine

/-! ## Runs whose extents grow (R326, R328) -/

section

variable {s : State}

theorem sum_foldl (l : List Nat) (a : Nat) : l.foldl (· + ·) a = a + l.sum := by
  induction l generalizing a with
  | nil => rfl
  | cons x l ih => rw [List.foldl_cons, ih, List.sum_cons, Nat.add_assoc]

/-- Only the extents of a run that grows change. -/
theorem growFree_fields (f : Nat) (r : Run) (need : Nat) : ∃ m, growFree f r need = { r with mapped := m } := by
  induction f generalizing r with
  | zero => exact ⟨_, rfl⟩
  | succ f ih =>
    unfold growFree
    split
    · exact ⟨_, rfl⟩
    · obtain ⟨m, hm⟩ := ih { r with mapped := r.mapped ++ [r.nextExtent] }
      exact ⟨m, hm⟩

theorem grown_fields (r : Run) (need : Nat) : ∃ m, r.grown need = { r with mapped := m } := growFree_fields ..

/-- Each extent added holds at least 2 MiB. -/
theorem capacity_growFree (f : Nat) {r : Run} (hr : r.host = false) (need : Nat) :
    min need (r.capacity + f * 2 ^ 21) ≤ (growFree f r need).capacity := by
  induction f generalizing r with
  | zero =>
    rw [growFree, Nat.zero_mul]
    exact Nat.min_le_right ..
  | succ f ih =>
    unfold growFree
    split
    next h => exact (Nat.min_le_left ..).trans h
    next h =>
      have hn : 2 ^ 21 ≤ r.nextExtent := by
        unfold Run.nextExtent
        split <;> decide
      have hc : Run.capacity { r with mapped := r.mapped ++ [r.nextExtent] } = r.capacity + r.nextExtent := by
        unfold Run.capacity
        rw [hr, if_neg Bool.false_ne_true, if_neg Bool.false_ne_true, List.foldl_append, List.foldl_cons, List.foldl_nil]
      have h1 := ih (r := { r with mapped := r.mapped ++ [r.nextExtent] }) hr
      rw [hc] at h1
      refine (min_le_min_left _ ?_).trans h1
      rw [Nat.succ_mul, Nat.add_assoc, Nat.add_comm (f * 2 ^ 21)]
      exact Nat.add_le_add_left (Nat.add_le_add_right hn _) _

/-- A run grown for a number of bytes holds them (R328). -/
theorem capacity_grown {r : Run} (hr : r.host = false) (need : Nat) : need ≤ (r.grown need).capacity := by
  have h := capacity_growFree (need / 2 ^ 21 + 1) hr need
  have hn : need ≤ r.capacity + (need / 2 ^ 21 + 1) * 2 ^ 21 := by omega
  rw [Nat.min_eq_left hn] at h
  exact h

theorem runAt_setRunAt (s : State) (c e : Nat) (r : Run) : (s.setRunAt c e r).runAt c e = r := by
  rw [State.runAt, State.setRunAt, State.ctxAt_setCtxAt, Ctx.run, Ctx.setRun, lookupD_insertKey_self]

theorem runAt_drawUnit (s : State) (c die pool e : Nat) : ((s.drawUnit c die pool).1).runAt c e = s.runAt c e := by
  unfold State.drawUnit
  dsimp only
  split
  · rfl
  · refine Eq.trans (congrArg (fun x => Ctx.run x e) (State.ctxAt_setCtxAt ..)) ?_
    rfl

/-- Units that back a run bring poisoned and damaged lines with them, and change nothing else of it. -/
theorem runAt_backUnits (c e die n u pool : Nat) (s : State) :
    ∃ p d, (State.backUnits c e die n u pool s).runAt c e = { s.runAt c e with poison := p, damage := d } := by
  induction n generalizing u pool s with
  | zero => exact ⟨_, _, rfl⟩
  | succ n ih =>
    have hd := runAt_drawUnit s c die pool e
    unfold State.backUnits
    split
    next heq =>
      rw [heq] at hd
      rw [← hd]
      exact ih ..
    next t x heq =>
      rw [heq] at hd
      obtain ⟨p, d, h⟩ := ih (u + 1) (pool - 1) (t.setRunAt c e ((t.runAt c e).stain u x))
      refine ⟨p, d, h.trans ?_⟩
      rw [runAt_setRunAt, ← hd]
      rfl

theorem runAt_mapRun (s : State) (c e : Nat) (r : Run) : ∃ p d, (s.mapRun c e r).runAt c e = { r with poison := p, damage := d } := by
  have h : ∀ n, (s.setCtxAt c (((s.ctxAt c).setRun e r).setPool r.home n)).runAt c e = r := by
    intro n
    rw [State.runAt, State.ctxAt_setCtxAt]
    exact lookupD_insertKey_self ..
  unfold State.mapRun
  dsimp only
  split
  · exact ⟨_, _, h _⟩
  · obtain ⟨p, d, hb⟩ := runAt_backUnits c e r.home (r.units - ((s.ctxAt c).run e).units) ((s.ctxAt c).run e).units
      ((s.ctxAt c).poolAt r.home)
      (s.setCtxAt c (((s.ctxAt c).setRun e r).setPool r.home ((s.ctxAt c).poolAt r.home - (r.units - ((s.ctxAt c).run e).units))))
    exact ⟨p, d, hb.trans (by rw [h])⟩

end

/-! ## Extents for a waiting append (R328) -/

section

variable {s : State} {o : Op} {t : Taken} {ts : List Taken}

theorem awaits_eq (hk : ∀ d chip, o.kind ≠ .send d chip) (hp : o.phase = .extent) (ht : o.taken = t :: ts) : s.awaits o = some t := by
  unfold State.awaits
  split
  next d chip h => exact absurd h (hk d chip)
  · rw [if_pos hp, ht]
    rfl

theorem extentResume_next (ho : s.opAt o.id = some o) (ha : s.awaits o = some t) (hh : (s.runAt o.ctx t.run.toNat).host = false)
    (hk : ∀ d chip, o.kind ≠ .send d chip) {u : State} :
    let r := s.runAt o.ctx t.run.toNat
    let grown := r.grown ((t.first + 1) * r.size)
    s.supply o.ctx r.home (grown.units - r.units) = .ok u →
      execExtentResume o.id s = .next ((u.mapRun o.ctx t.run.toNat grown).goOn o) := by
  intro r grown hs
  refine (opEvent_at ho _).trans ?_
  dsimp only
  rw [ha]
  dsimp only
  rw [if_neg (by rw [hh]; exact Bool.false_ne_true), hs]
  split
  next h1 h2 => exact absurd h2 (hk _ _)
  next h1 _ => cases h1; rfl
  next h1 => cases h1

theorem extentResume_kills (ho : s.opAt o.id = some o) (ha : s.awaits o = some t) (hh : (s.runAt o.ctx t.run.toNat).host = false)
    {n : Nat} (hact : (s.ctxAt o.ctx).state = .active) :
    let r := s.runAt o.ctx t.run.toNat
    let grown := r.grown ((t.first + 1) * r.size)
    s.supply o.ctx r.home (grown.units - r.units) = .error n → execExtentResume o.id s = .next (s.killForExtent o t) := by
  intro r grown hs
  refine (opEvent_at ho _).trans ?_
  dsimp only
  rw [ha]
  dsimp only
  rw [if_neg (by rw [hh]; exact Bool.false_ne_true), hs]
  dsimp only
  rw [if_pos hact]
  rfl

end

/-! ## Soft errors, scrubbing, channels (R330, R334) -/

section

variable {s : State} {l : RunLine}

theorem softError_next (hl : s.deviceLine l = true) {symbols : List Nat} (hk : ∀ k ∈ symbols, k < 72) :
    ∃ t, execSoftError l symbols s = .next t ∧
      (∀ k ∈ symbols, k ∈ lookupD [] (t.runAt l.ctx l.run).damage l.line) ∧ t.mem = s.mem := by
  have hall : (s.deviceLine l && symbols.all (fun k => decide (k < 72))) = true := by
    rw [hl, Bool.true_and, List.all_eq_true]
    exact fun k h => decide_eq_true (hk k h)
  refine ⟨_, event_true hall _ _, fun k h => ?_, rfl⟩
  dsimp only
  rw [runAt_setRunAt, lookupD_insertKey_self, List.mem_eraseDups]
  exact List.mem_append_right _ h

theorem poison_poisonLine (s : State) (c e line : Nat) : line ∈ ((s.poisonLine c e line).runAt c e).poison := by
  unfold State.poisonLine
  dsimp only
  split
  next h => exact List.contains_iff_mem.1 h
  · rw [runAt_setRunAt]
    exact List.mem_append_right _ (List.mem_singleton_self line)

theorem poisonLine_mem (s : State) (c e line : Nat) : (s.poisonLine c e line).mem = s.mem := by
  unfold State.poisonLine
  dsimp only
  split <;> rfl

theorem scrubLine_mem (s : State) (c e line : Nat) : (s.scrubLine c e line).mem = s.mem := by
  unfold State.scrubLine
  dsimp only
  split
  · exact poisonLine_mem ..
  · rfl

theorem scrubLine_dataOnly (s : State) (c e line : Nat) : DataOnly s (s.scrubLine c e line) := by
  unfold State.scrubLine
  dsimp only
  split
  · exact dataOnly_poisonLine ..
  · exact dataOnly_setRunAt ..

theorem lookup?_eraseKey_self {α : Type} (l : List (Nat × α)) (k : Nat) : lookup? (eraseKey l k) k = none := by
  induction l with
  | nil => rfl
  | cons p l ih =>
    obtain ⟨j, x⟩ := p
    unfold eraseKey at ih ⊢
    by_cases hj : j = k
    · rw [List.filter_cons_of_neg (by simpa using hj)]
      exact ih
    · rw [List.filter_cons_of_pos (by simpa using hj), lookup?, if_neg hj]
      exact ih

theorem scrub_poisons (hl : s.deviceLine l = true) (hu : s.uncorrectable l.ctx l.run l.line = true) :
    ∃ t, execScrub l s = .next t ∧ l.line ∈ (t.runAt l.ctx l.run).poison ∧ t.mem = s.mem := by
  refine ⟨_, event_true hl _ _, ?_, scrubLine_mem ..⟩
  rw [State.scrubLine, if_pos hu]
  exact poison_poisonLine ..

theorem scrub_corrects (hl : s.deviceLine l = true) (hu : s.uncorrectable l.ctx l.run l.line = false) :
    ∃ t, execScrub l s = .next t ∧ lookup? (t.runAt l.ctx l.run).damage l.line = none ∧
      (t.runAt l.ctx l.run).poison = (s.runAt l.ctx l.run).poison ∧ t.mem = s.mem := by
  refine ⟨_, event_true hl _ _, ?_, ?_, scrubLine_mem ..⟩
  · rw [State.scrubLine, if_neg (by rw [hu]; exact Bool.false_ne_true), runAt_setRunAt]
    exact lookup?_eraseKey_self ..
  · rw [State.scrubLine, if_neg (by rw [hu]; exact Bool.false_ne_true), runAt_setRunAt]

theorem channelRetire_next {die channel : Nat} (hd : die < 8) (hc : channel < 96)
    (hr : (vecGet Die.reset s.dies die).retired.length < 2) (hn : channel ∉ (vecGet Die.reset s.dies die).retired) :
    ∃ t, execChannelRetire die channel s = .next t ∧
      (vecGet Die.reset t.dies die).mapGen = (vecGet Die.reset s.dies die).mapGen + 1 ∧
      (vecGet Die.reset t.dies die).retired = (vecGet Die.reset s.dies die).retired ++ [channel] ∧ t.mem = s.mem ∧
      t.harts = s.harts := by
  have hok : (decide (die < 8) && decide (channel < Config.channels) && decide ((vecGet Die.reset s.dies die).retired.length < 2) &&
      !(vecGet Die.reset s.dies die).retired.contains channel) = true := by
    rw [decide_eq_true hd, decide_eq_true (show channel < Config.channels from hc), decide_eq_true hr]
    simpa using hn
  have hf : DataOnly s ((s.damagedOn die channel).foldl (fun s l => s.scrubLine l.ctx l.run l.line) s) :=
    .foldl (fun _ _ => scrubLine_dataOnly ..) _ s
  have hm : ((s.damagedOn die channel).foldl (fun s l => s.scrubLine l.ctx l.run l.line) s).mem = s.mem :=
    foldl_keeps State.mem (f := fun s (l : RunLine) => s.scrubLine l.ctx l.run l.line) (fun _ _ => scrubLine_mem ..) _ s
  obtain ⟨m, x, hx⟩ := hf
  unfold execChannelRetire
  dsimp only
  refine ⟨_, event_true hok _ _, ?_, ?_, hm, ?_⟩
  · dsimp only
    rw [vecGet_vecSet, if_pos ⟨rfl, hd⟩]
  · dsimp only
    rw [vecGet_vecSet, if_pos ⟨rfl, hd⟩]
  · dsimp only
    rw [hx]

theorem tsvFailed_next {die stack tsv : Nat} (hd : die < 8) (hs : stack < 3) (ht : tsv < 18)
    (hn : (stack, tsv) ∉ (vecGet Die.reset s.dies die).tsv) :
    execTsvGroupMarkedFailed die stack tsv s = .next { s with
      dies := vecSet s.dies die
        { vecGet Die.reset s.dies die with tsv := (vecGet Die.reset s.dies die).tsv ++ [(stack, tsv)] } } := by
  unfold execTsvGroupMarkedFailed
  refine event_true ?_ _ _
  rw [decide_eq_true hd, decide_eq_true hs, decide_eq_true ht]
  simpa using hn

end

end Sys2Proof.Machine
end

section
/-! SUPPORT. The statements settled: extents, soft errors, scrubbing and channels -/

namespace Sys2Proof.Proofs

open Sys2Proof.Machine

/-- Settles O51: the extents that a waiting append gets hold its record (`capacity_grown`), and what each event leaves of a run's
lines and of a die. -/
theorem memoryErrorsAndExtents : Obligations.MemoryErrorsAndExtents := by
  unfold Obligations.MemoryErrorsAndExtents
  refine ⟨fun s o t ts ho hp ht => ?_, fun l symbols s hl => ⟨softError_next hl, scrub_poisons hl, scrub_corrects hl⟩,
    fun die stack tsv channel s hd => ⟨tsvFailed_next hd, channelRetire_next hd⟩⟩
  intro e r grown hh hk
  have ha := awaits_eq (s := s) hk hp ht
  obtain ⟨m, hm⟩ := grown_fields r ((t.first + 1) * r.size)
  refine ⟨capacity_grown hh _, fun u hu => ⟨extentResume_next ho ha hh hk hu, ?_⟩,
    fun n hn hact => extentResume_kills ho ha hh hact hn⟩
  obtain ⟨p, d, hr⟩ := runAt_mapRun u o.ctx e grown
  rw [hr]

end Sys2Proof.Proofs
end

section
/-! SUPPORT. suspension, pools, repartition and clearing -/

namespace Sys2Proof.Machine

/-! ## Pools (R325) -/

theorem lookupD_eraseKey {α : Type} (d : α) (l : List (Nat × α)) (k j : Nat) :
    lookupD d (eraseKey l k) j = if j = k then d else lookupD d l j := by
  by_cases h : j = k
  · subst h
    rw [if_pos rfl, lookupD_eraseKey_self]
  · rw [if_neg h]
    induction l with
    | nil => rfl
    | cons p l ih =>
      obtain ⟨i, x⟩ := p
      unfold eraseKey at ih ⊢
      by_cases hi : i = k
      · rw [List.filter_cons_of_neg (by simpa using hi), ih, lookupD, if_neg (fun e => h (e.symm.trans hi))]
      · rw [List.filter_cons_of_pos (by simpa using hi), lookupD, lookupD, ih]

theorem poolAt_setPool (x : Ctx) (die n k : Nat) : (x.setPool die n).poolAt k = if k = die then n else x.poolAt k := by
  unfold Ctx.setPool Ctx.poolAt
  dsimp only
  split
  next h => rw [lookupD_eraseKey, h]
  next h =>
    split
    next e => rw [e, lookupD_insertKey_self]
    next e => exact lookupD_insertKey_ne _ _ _ e

/-- Units that leave a pool: what the context keeps, and what no unit changes. -/
structure UnitsOnly (c : Nat) (s t : State) : Prop where
  pools : (t.ctxAt c).pools = (s.ctxAt c).pools
  dies : t.dies = s.dies
  mem : t.mem = s.mem

theorem drawUnit_unitsOnly (c die pool : Nat) (s : State) : UnitsOnly c s (s.drawUnit c die pool).1 := by
  unfold State.drawUnit
  dsimp only
  split
  · exact ⟨rfl, rfl, rfl⟩
  · refine ⟨?_, rfl, rfl⟩
    refine (congrArg Ctx.pools (State.ctxAt_setCtxAt ..)).trans ?_
    rfl

theorem dropUnits_unitsOnly (c die n pool : Nat) (s : State) : UnitsOnly c s (State.dropUnits c die n pool s) := by
  induction n generalizing pool s with
  | zero => exact ⟨rfl, rfl, rfl⟩
  | succ n ih =>
    have h := drawUnit_unitsOnly c die pool s
    have hn := ih (pool - 1) (s.drawUnit c die pool).1
    exact ⟨hn.pools.trans h.pools, hn.dies.trans h.dies, hn.mem.trans h.mem⟩

section
variable {s : State} {c die n : Nat}

theorem growPool_leaves (hd : die < 8) :
    ((s.growPool c die n).ctxAt c).poolAt die = (s.ctxAt c).poolAt die + n ∧
      (∀ k, k ≠ die → ((s.growPool c die n).ctxAt c).poolAt k = (s.ctxAt c).poolAt k) ∧
      (vecGet Die.reset (s.growPool c die n).dies die).units = (vecGet Die.reset s.dies die).units - n ∧
      (s.growPool c die n).mem = s.mem := by
  unfold State.growPool
  simp only [State.ctxAt_setCtxAt, poolAt_setPool, if_pos]
  refine ⟨trivial, fun k hk => if_neg hk, ?_, rfl⟩
  exact (congrArg Die.units (vecGet_vecSet ..)).trans (by rw [if_pos ⟨rfl, hd⟩])

theorem mayGrow_die (h : s.mayGrow c die n = true) : die < 8 := by
  unfold State.mayGrow at h
  rw [Bool.and_eq_true, Bool.and_eq_true] at h
  exact of_decide_eq_true h.1.2

theorem growPool_next (hst : (s.ctxAt c).standing = true) (h : s.mayGrow c die n = true) :
    execKennelGrowPool c die n s = .next (s.growPool c die n) :=
  event_true (by rw [hst, h]; rfl) (fun s => s.growPool c die n) s

theorem shrinkPool_next (hst : (s.ctxAt c).standing = true) (hn : n ≤ (s.ctxAt c).poolAt die) (hd : die < 8) :
    ∃ t, execKennelShrinkPool c die n s = .next t ∧ (t.ctxAt c).poolAt die = (s.ctxAt c).poolAt die - n ∧
      (∀ k, k ≠ die → (t.ctxAt c).poolAt k = (s.ctxAt c).poolAt k) ∧
      (vecGet Die.reset t.dies die).units = (vecGet Die.reset s.dies die).units + n ∧ t.mem = s.mem := by
  obtain ⟨hp, hdies, hm⟩ := dropUnits_unitsOnly c die n ((s.ctxAt c).poolAt die) s
  unfold execKennelShrinkPool
  dsimp only
  refine ⟨_, event_true (by rw [hst, decide_eq_true hn, decide_eq_true hd]; rfl) _ _, ?_, fun k hk => ?_, ?_, hm⟩
  · rw [State.ctxAt_setCtxAt, poolAt_setPool, if_pos rfl]
  · rw [State.ctxAt_setCtxAt, poolAt_setPool, if_neg hk, Ctx.poolAt, hp, Ctx.poolAt]
  · refine (congrArg Die.units (vecGet_vecSet ..)).trans ?_
    rw [if_pos ⟨rfl, hd⟩, hdies]

end

/-! ## A core zeroed (R261, R266) -/

/-- A core that is as reset, with nothing in its local store. -/
structure Zero (t : State) (core : Nat) : Prop where
  reset : t.coreAt core = Core.reset
  store : ∀ k < 2 ^ 21, byteAt t (lsKey core k) = 0

theorem read_clear (m : Memory) (b n k : Nat) :
    Memory.read (Memory.clear m b n) k = if k < b ∨ b + n ≤ k then Memory.read m k else Memory.unlisted := by
  refine (read_filter m (fun k => decide (k < b ∨ b + n ≤ k)) k).trans ?_
  simp only [decide_eq_true_eq]

/-- A cleared key range reads zero where it is cleared and where it already did. -/
theorem read_clear_zero {m : Memory} {b n k : Nat} (h : Memory.read m k = 0 ∨ (b ≤ k ∧ k < b + n)) :
    Memory.read (Memory.clear m b n) k = 0 := by
  rw [read_clear]
  split
  next hk => exact h.resolve_right (by omega)
  next => rfl

theorem read_clear_within (m : Memory) (b : Nat) {n k : Nat} (h : k < n) : Memory.read (Memory.clear m b n) (b + k) = 0 :=
  read_clear_zero (.inr ⟨Nat.le_add_right .., Nat.add_lt_add_left h b⟩)

theorem zeroCore_zero (s : State) (core : Nat) : Zero (s.zeroCore core) core where
  reset := lookupD_eraseKey_self ..
  store k hk := read_clear_zero (.inl (read_clear_zero (.inr (by unfold lsKey Config.lsBytes; omega))))

theorem Zero.zeroCore {s : State} {core : Nat} (h : Zero s core) (other : Nat) : Zero (s.zeroCore other) core where
  reset := by
    refine (lookupD_eraseKey _ s.cores other core).trans ?_
    split
    · rfl
    · exact h.reset
  store k hk := read_clear_zero (.inl (read_clear_zero (.inl (h.store k hk))))

theorem Zero.zeroCores {s : State} {core : Nat} (h : Zero s core) (cores : List Nat) : Zero (cores.foldl State.zeroCore s) core := by
  induction cores generalizing s with
  | nil => exact h
  | cons k cores ih => exact ih (h.zeroCore k)

theorem zeroCores_zero {cores : List Nat} {core : Nat} (hc : core ∈ cores) (s : State) :
    Zero (cores.foldl State.zeroCore s) core := by
  induction cores generalizing s with
  | nil => cases hc
  | cons k cores ih =>
    rw [List.foldl_cons]
    by_cases h : core ∈ cores
    · exact ih h _
    · obtain rfl : core = k := (List.mem_cons.mp hc).resolve_right h
      exact (zeroCore_zero s core).zeroCores cores

theorem zeroCores_leaves (cores : List Nat) (s : State) :
    (cores.foldl State.zeroCore s).ctxs = s.ctxs ∧ (cores.foldl State.zeroCore s).vfs = s.vfs := by
  induction cores generalizing s with
  | nil => exact ⟨rfl, rfl⟩
  | cons k cores ih => exact ih (s.zeroCore k)

/-! ## The events of a context (R258, R261, R266) -/

theorem lookup?_groups_map (f : Group → Group) (l : List (Nat × Group)) (p : Group → Prop) [DecidablePred p] (k : Nat) :
    lookup? (l.map (fun x => if p x.2 then (x.1, f x.2) else x)) k = (lookup? l k).map (fun y => if p y then f y else y) := by
  induction l with
  | nil => rfl
  | cons x l ih =>
    obtain ⟨j, y⟩ := x
    rw [List.map_cons]
    dsimp only
    by_cases hp : p y
    · rw [if_pos hp, lookup?, lookup?, ih]
      split
      · rw [Option.map_some, if_pos hp]
      · rfl
    · rw [if_neg hp, lookup?, lookup?, ih]
      split
      · rw [Option.map_some, if_neg hp]
      · rfl

theorem suspendContext_groups (s : State) (c : Nat) :
    (s.suspendContext c).groups =
        s.groups.map (fun x => if x.2.ctx = c ∧ x.2.state = .run then (x.1, { x.2 with request := true }) else x) ∧
      (s.suspendContext c).harts = s.harts := by
  unfold State.suspendContext State.checkSuspend
  dsimp only
  split <;> exact ⟨rfl, rfl⟩

section
variable {s : State} {c : Nat}

theorem suspend_next (ha : (s.ctxAt c).state = .active) (hs : (s.ctxAt c).suspending = false) :
    execKennelSuspendContext c true s = .next (s.suspendContext c) := by
  unfold execKennelSuspendContext
  dsimp only
  exact event_true (by rw [if_pos rfl, ha, hs]; rfl) _ s

theorem resume_next (ha : (s.ctxAt c).state = .suspended) :
    execKennelSuspendContext c false s = .next (s.resumeContext c) := by
  unfold execKennelSuspendContext
  dsimp only
  exact event_true (by rw [if_neg Bool.false_ne_true, ha]; rfl) _ s

theorem suspendContext_request {g : Nat} {y : Group} (hg : lookup? s.groups g = some y) (hc : y.ctx = c) (hr : y.state = .run) :
    ((s.suspendContext c).groupAt g).request = true := by
  rw [State.groupAt, lookupD_eq_getD, (suspendContext_groups s c).1,
    lookup?_groups_map (fun y => { y with request := true }) s.groups (fun y => y.ctx = c ∧ y.state = .run), hg, Option.map_some,
    if_pos ⟨hc, hr⟩]
  rfl

theorem allCores_zeroCores (cores : List Nat) (s : State) : (cores.foldl State.zeroCore s).allCores c = s.allCores c := by
  obtain ⟨h1, h2⟩ := zeroCores_leaves cores s
  unfold State.allCores State.partCores State.physCore State.ctxAt State.vfAt
  rw [h1, h2]

/-- The cores that a context no longer has are zeroed. -/
theorem zeroCores_left (before : List Nat) (s : State) :
    ∀ core ∈ before, core ∉ ((before.filter fun k => !(s.allCores c).contains k).foldl State.zeroCore s).allCores c →
      Zero ((before.filter fun k => !(s.allCores c).contains k).foldl State.zeroCore s) core := by
  intro core hc hn
  rw [allCores_zeroCores] at hn
  exact zeroCores_zero (List.mem_filter.mpr ⟨hc, by simpa using hn⟩) s

theorem repartition_next {part : List (List Nat)} {iters routes queues : Nat} (hi : (s.ctxAt c).state = .idle)
    (hp : s.partOk (s.ctxAt c).vf c part = true) (h1 : iters ≤ 256) (h2 : routes ≤ 256)
    (hf : s.countersFree c part iters routes = true)
    (h3 : 1 ≤ queues) (h4 : s.queuesHeld c + queues ≤ 4096) (hl : ∀ p ∈ (s.ctxAt c).queues, queues ≤ p.1 → p.2.held = 0) :
    ∃ t, execRepartition c part iters routes queues s = .next t ∧ (t.ctxAt c).part = part ∧ (t.ctxAt c).iters = iters ∧
      (t.ctxAt c).routes = routes ∧ (routes ≠ (s.ctxAt c).routes → (t.ctxAt c).routing = []) ∧
      ∀ core ∈ s.allCores c, core ∉ t.allCores c → t.coreAt core = Core.reset ∧ ∀ k < 2 ^ 21, byteAt t (lsKey core k) = 0 := by
  have hlost : ((s.ctxAt c).queues.filter (fun p => !decide (p.1 < queues))).all (fun p => p.2.held == 0) = true := by
    rw [List.all_eq_true]
    intro p hmem
    obtain ⟨hin, hge⟩ := List.mem_filter.mp hmem
    rw [hl p hin (by simpa using hge)]
    rfl
  have hok : ((s.ctxAt c).state == .idle && s.partOk (s.ctxAt c).vf c part && decide (iters ≤ 256) && decide (routes ≤ 256) &&
      s.countersFree c part iters routes && decide (1 ≤ queues) && decide (s.queuesHeld c + queues ≤ Config.queues) &&
      ((s.ctxAt c).queues.filter (fun p => !decide (p.1 < queues))).all (fun p => p.2.held == 0)) = true := by
    rw [hi, hp, decide_eq_true h1, decide_eq_true h2, hf, decide_eq_true h3,
      decide_eq_true (show s.queuesHeld c + queues ≤ Config.queues from h4), hlost]
    rfl
  unfold execRepartition
  dsimp only
  refine ⟨_, event_true hok _ _, ?_⟩
  unfold State.ctxAt
  rw [(zeroCores_leaves ..).1]
  dsimp only [State.setCtxAt_ctxs]
  rw [lookupD_insertKey_self]
  refine ⟨rfl, rfl, rfl, fun h => if_neg h, fun core hc hn => ?_⟩
  obtain ⟨h1, h2⟩ := zeroCores_left _ _ core hc hn
  exact ⟨h1, h2⟩

theorem clearing_next (hr : (s.ctxAt c).state = .resetting) :
    ∃ t, execClearingComplete c s = .next t ∧ lookup? t.ctxs c = none ∧ (∀ k < 2 ^ 60, byteAt t (runKey c 0 0 + k) = 0) ∧
      (∀ core ∈ s.allCores c, t.coreAt core = Core.reset ∧ ∀ k < 2 ^ 21, byteAt t (lsKey core k) = 0) := by
  have hd : ∀ (l : List (Nat × Nat)) (s : State), (l.foldl (fun s p => s.returnUnits p.1 p.2) s).cores = s.cores ∧
      (l.foldl (fun s p => s.returnUnits p.1 p.2) s).mem = s.mem := fun l => by
    induction l with
    | nil => exact fun s => ⟨rfl, rfl⟩
    | cons p l ih => exact fun s => ih _
  unfold execClearingComplete
  refine ⟨_, event_true (by rw [hr]; rfl) _ _, lookup?_eraseKey_self _ _, fun k hk => ?_, fun core hc => ?_⟩
  · exact read_clear_within _ _ hk
  · obtain ⟨hcore, hmem⟩ := hd ((s.ctxAt c).pools ++ (s.ctxAt c).runs.map (fun p => (p.2.home, p.2.units)))
      ((s.allCores c).foldl State.zeroCore s)
    obtain ⟨h1, h2⟩ := zeroCores_zero hc s
    refine ⟨?_, fun k hk => read_clear_zero (.inl ?_)⟩
    · dsimp only
      rw [State.coreAt, hcore]
      exact h1
    · rw [hmem]
      exact h2 k hk

end

end Sys2Proof.Machine
end

section
/-! SUPPORT. The statements settled: suspension, pools, repartition and clearing -/

namespace Sys2Proof.Proofs

open Sys2Proof.Machine

/-- Settles O50: what each change of a context leaves, with a core that a context gives up zeroed (`zeroCores_left`). -/
theorem contextChanges : Obligations.ContextChanges := by
  unfold Obligations.ContextChanges
  intro c s
  dsimp only
  refine ⟨fun ha hs => ⟨_, suspend_next ha hs, (suspendContext_leaves s c).1, fun g y hg hc hr => suspendContext_request hg hc hr,
    (suspendContext_groups s c).2, (suspendContext_leaves s c).2.1⟩, fun ha => resume_next ha, fun die n hst => ?_, ?_,
    fun hr => clearing_next hr⟩
  · have hst : (s.ctxAt c).standing = true := by
      unfold Ctx.standing
      rcases hst with h | h | h <;> rw [h] <;> rfl
    exact ⟨fun h => ⟨_, growPool_next hst h, growPool_leaves (mayGrow_die h)⟩, fun hn hd => shrinkPool_next hst hn hd⟩
  · intro part iters routes queues hi hp h1 h2 hf h3 h4 hl
    exact repartition_next hi hp h1 h2 hf h3 h4 hl

end Sys2Proof.Proofs
end

section
/-! SUPPORT. run bytes, notes and the traps that Kennel settles -/

namespace Sys2Proof.Machine

/-! ## Bytes of a run in device memory -/

section
variable {s : State} {c e : Nat}

theorem runByteKey_mapped {r : Run} (h : r.host = false) (c e off : Nat) : runByteKey r c e off = runKey c e off := by
  rw [runByteKey, h, if_neg Bool.false_ne_true]

theorem runKey_succ (c e off : Nat) : runKey c e (off + 1) = runKey c e off + 1 := (Nat.add_assoc ..).symm

theorem putRunBytes_mapped (h : (s.runAt c e).host = false) (off : Nat) (bs : List Byte) :
    s.putRunBytes c e off bs = { s with mem := Memory.writeBytes s.mem (runKey c e off) bs } := by
  induction bs generalizing s off with
  | nil => rfl
  | cons b bs ih =>
    rw [State.putRunBytes, runByteKey_mapped h]
    refine (ih (s := { s with mem := Memory.write s.mem (runKey c e off) b }) h (off + 1)).trans ?_
    rw [runKey_succ, Memory.writeBytes]

theorem runBytes_mapped (h : (s.runAt c e).host = false) (off n : Nat) :
    s.runBytes c e off n = Memory.readBytes s.mem (runKey c e off) n := by
  induction n generalizing off with
  | zero => rfl
  | succ n ih => rw [State.runBytes, State.runByte, runByteKey_mapped h, ih, runKey_succ, Memory.readBytes]

/-- Bytes that stay within one line are one part. -/
theorem lineParts_one {a n : Nat} {bs : List Byte} (h0 : bs ≠ []) (h : a % 64 + bs.length ≤ 64) :
    lineParts (n + 2) a bs = [(a, bs)] := by
  have ht : bs.take (64 - a % 64) = bs := List.take_of_length_le (by omega)
  have hd : bs.drop (64 - a % 64) = [] := List.drop_of_length_le (by omega)
  rw [lineParts, if_neg (by simpa using h0), ht, hd, lineParts, List.isEmpty_nil, if_pos rfl]

/-- Whether a line fails rests on the run's tables and on its die's failed groups and channels. -/
theorem lineBad_congr {t : State} {k : Nat} (hr : ∃ m l q, t.runAt c e = { s.runAt c e with mapped := m, len := l, pub := q })
    (hd : ∀ i, ∃ u, vecGet Die.reset t.dies i = { vecGet Die.reset s.dies i with units := u }) : t.lineBad c e k = s.lineBad c e k := by
  obtain ⟨m, l, q, hr⟩ := hr
  obtain ⟨u, hd⟩ := hd (s.runAt c e).home
  unfold State.lineBad State.uncorrectable
  dsimp only
  rw [hr]
  dsimp only
  rw [hd]
  rfl

/-- With no append under way all of a run's records are complete. -/
theorem completeTo_of_idle (h : ∀ o ∈ s.ops, o.taken = []) : s.completeTo c e = (s.runAt c e).len := by
  unfold State.completeTo
  have hf : (s.ops.flatMap fun o => if o.ctx = c then
      o.taken.filterMap (fun t => if t.run.toNat = e ∧ 0 < t.count then some t.first else none) else []) = [] := by
    rw [List.flatMap_eq_nil_iff]
    intro o ho
    rw [h o ho, List.filterMap_nil, ite_self]
  dsimp only
  rw [hf]
  rfl

theorem growPool_dies (s : State) (c die n i : Nat) :
    ∃ u, vecGet Die.reset (s.growPool c die n).dies i = { vecGet Die.reset s.dies i with units := u } := by
  refine (vecGet_vecSet ..).symm ▸ ?_
  split
  next h => exact ⟨_, by rw [h.1]⟩
  next => exact ⟨_, rfl⟩

theorem record_congr {t : State} (hm : t.mem = s.mem) (hr : t.runAt c e = s.runAt c e) (i : Nat) : t.record c e i = s.record c e i := by
  have hb : ∀ n a, t.runBytes c e a n = s.runBytes c e a n := fun n => by
    induction n with
    | zero => exact fun _ => rfl
    | succ n ih =>
      intro a
      rw [State.runBytes, State.runBytes, State.runByte, State.runByte, hm, hr, ih]
  rw [State.record, State.record, hr, hb]

theorem runAt_growPool (s : State) (c die n e : Nat) : (s.growPool c die n).runAt c e = s.runAt c e :=
  (congrArg (fun x => Ctx.run x e) (State.ctxAt_setCtxAt _ c _)).trans rfl

/-- Extents of a pool without stained units bring no line with them. -/
theorem mapRun_plain (r : Run) (h : (s.ctxAt c).stained = [] ∨ r.units - (s.runAt c e).units = 0) :
    ∃ n, s.mapRun c e r = s.setCtxAt c (((s.ctxAt c).setRun e r).setPool r.home n) := by
  unfold State.mapRun
  dsimp only
  rcases h with h | h
  · exact ⟨_, by rw [h]; exact if_pos rfl⟩
  · rw [show ((s.ctxAt c).run e) = s.runAt c e from rfl, h]
    exact ⟨_, by rw [State.backUnits, ite_self]⟩

theorem putLines_one {a : Nat} {bs : List Byte} (hh : (s.runAt c e).host = false) (h0 : bs ≠ []) (hline : a % 64 + bs.length ≤ 64)
    (hbad : s.lineBad c e (a / 64) = false) :
    s.putLines c e a bs = { s.cleanLine c e (a / 64) with mem := Memory.writeBytes s.mem (runKey c e a) bs } := by
  have hc : ((s.cleanLine c e (a / 64)).runAt c e).host = false := by
    rw [State.cleanLine, runAt_setRunAt]
    exact hh
  rw [State.putLines, hh, if_neg Bool.false_ne_true, lineParts_one h0 hline, List.foldl_cons, List.foldl_nil, State.putLine, hbad]
  exact putRunBytes_mapped hc a bs

theorem publish_opened (hst : (s.runAt c e).state = .opened) (hh : (s.runAt c e).host = false) :
    s.publish c e = s.setRunAt c e { s.runAt c e with pub := Nat.max (s.runAt c e).pub (s.completeTo c e) } := by
  rw [State.publish, if_pos hst, State.setPub]
  exact if_neg (by rw [hh]; exact Bool.false_ne_true)

/-- A record of at most a line that Kennel appends to a sound run, which holds it, and which no other append is at work on. -/
theorem kennelAppend_one {data : List Byte} (hm : Canonical s) (hn : data ≠ [])
    (hsize : (s.runAt c e).size = data.length) (hh : (s.runAt c e).host = false) (hst : (s.runAt c e).state = .opened)
    (hp : (s.runAt c e).pub ≤ (s.runAt c e).len) (ho : ∀ o ∈ s.ops, o.taken = [])
    (hline : ((s.runAt c e).len * data.length) % 64 + data.length ≤ 64)
    (hbad : s.lineBad c e ((s.runAt c e).len * data.length / 64) = false)
    (hroom : let r := s.runAt c e
      let more := (r.grown ((r.len + 1) * data.length)).units - r.units
      more = 0 ∨ ((s.ctxAt c).stained = [] ∧ more ≤ (s.ctxAt c).poolAt r.home + (vecGet Die.reset s.dies r.home).units)) :
    ((s.kennelAppend c e data).runAt c e).len = (s.runAt c e).len + 1 ∧
      ((s.kennelAppend c e data).runAt c e).pub = (s.runAt c e).len + 1 ∧
      (s.kennelAppend c e data).record c e (s.runAt c e).len = data := by
  have hpos : 0 < data.length := List.length_pos_iff.mpr hn
  dsimp only at hroom
  unfold State.kennelAppend
  dsimp only
  rw [hsize, Nat.div_self hpos]
  obtain ⟨m, hg⟩ := grown_fields (s.runAt c e) (((s.runAt c e).len + 1) * data.length)
  rw [hg] at hroom ⊢
  generalize hmore : ({ s.runAt c e with mapped := m } : Run).units - (s.runAt c e).units = more at hroom ⊢
  generalize hgrown : s.growPool c (s.runAt c e).home (Nat.min more (vecGet Die.reset s.dies (s.runAt c e).home).units) = u
  have hu : u.ctxAt c = (s.ctxAt c).setPool (s.runAt c e).home ((s.ctxAt c).poolAt (s.runAt c e).home +
      Nat.min more (vecGet Die.reset s.dies (s.runAt c e).home).units) := by
    rw [← hgrown]
    exact State.ctxAt_setCtxAt ..
  have hr : u.runAt c e = s.runAt c e := by rw [State.runAt, hu]; rfl
  have hpool : ¬(u.ctxAt c).poolAt (s.runAt c e).home < more := by
    rw [hu, poolAt_setPool, if_pos rfl, natMin_eq]
    rcases hroom with h | h <;> omega
  obtain ⟨n, hmap⟩ := mapRun_plain (s := u) (c := c) (e := e) { s.runAt c e with mapped := m, len := (s.runAt c e).len + 1 } (by
    rw [hr, hu]
    exact hroom.symm.imp (fun h => h.1) (fun h => hmore.trans h))
  rw [if_neg hpool, hmap]
  generalize hv : u.setCtxAt c _ = v
  have hvr : v.runAt c e = { s.runAt c e with mapped := m, len := (s.runAt c e).len + 1 } := by
    rw [← hv, State.runAt, State.ctxAt_setCtxAt]
    exact lookupD_insertKey_self ..
  have hvm : v.mem = s.mem := by rw [← hv, ← hgrown]; rfl
  have hvo : v.ops = s.ops := by rw [← hv, ← hgrown]; rfl
  have hvb : v.lineBad c e ((s.runAt c e).len * data.length / 64) = false := by
    refine (lineBad_congr ⟨_, _, _, hvr⟩ fun i => ?_).trans hbad
    rw [← hv, ← hgrown]
    exact growPool_dies s c ..
  rw [putLines_one (by rw [hvr]; exact hh) hn hline hvb]
  generalize hw : ({ v.cleanLine c e _ with mem := _ } : State) = w
  have hwr : ∃ p d, w.runAt c e = { s.runAt c e with mapped := m, len := (s.runAt c e).len + 1, poison := p, damage := d } := by
    rw [← hw]
    exact ⟨_, _, (runAt_setRunAt ..).trans (by rw [hvr])⟩
  obtain ⟨p, d, hwr⟩ := hwr
  have hwo : w.completeTo c e = (s.runAt c e).len + 1 := by
    rw [completeTo_of_idle, hwr]
    rw [← hw]
    show ∀ o ∈ v.ops, _
    rw [hvo]
    exact ho
  have hwm : w.mem = Memory.writeBytes s.mem (runKey c e ((s.runAt c e).len * data.length)) data := by rw [← hw, hvm]
  rw [publish_opened (by rw [hwr]; exact hst) (by rw [hwr]; exact hh), State.record, runAt_setRunAt, hwo, hwr]
  refine ⟨rfl, (Nat.max_eq_right (show (s.runAt c e).pub ≤ _ by omega)), ?_⟩
  rw [runBytes_mapped (by rw [runAt_setRunAt]; exact hh)]
  dsimp only
  rw [show Run.size { s.runAt c e with mapped := m, len := _, pub := _, poison := p, damage := d } = data.length from hsize]
  exact (congrArg (fun x => Memory.readBytes x _ _) hwm).trans (Memory.readBytes_writeBytes hm ..)

end

section
variable {s : State} {c : Nat}

/-- A record of the fault run (R264): its number and 24 bytes of what it tells of, appended whole and published. -/
theorem note_recorded {tcause tval : Word} {tpc hart rank die action : Nat} (hm : Canonical s) (hst : (s.runAt c 0).state = .opened)
    (hsize : (s.runAt c 0).size = 32) (hh : (s.runAt c 0).host = false) (hp : (s.runAt c 0).pub ≤ (s.runAt c 0).len)
    (ho : ∀ o ∈ s.ops, o.taken = []) (hbad : s.lineBad c 0 ((s.runAt c 0).len / 2) = false)
    (hroom : let r := s.runAt c 0
      let more := (r.grown ((r.len + 1) * 32)).units - r.units
      more = 0 ∨ (r.home < 8 ∧ (s.ctxAt c).stained = [] ∧ more ≤ (s.ctxAt c).poolAt r.home + (vecGet Die.reset s.dies r.home).units)) :
    let t := s.faultRecord c tcause tval tpc hart rank die action
    (t.runAt c 0).len = (s.runAt c 0).len + 1 ∧ (t.runAt c 0).pub = (s.runAt c 0).len + 1 ∧
      t.record c 0 (s.runAt c 0).len = natLe 8 (s.ctxAt c).faults ++ natLe 8 tcause.toNat ++ natLe 8 tval.toNat ++
        natLe 4 tpc ++ natLe 1 hart ++ natLe 1 rank ++ natLe 1 die ++ natLe 1 action := by
  dsimp only at hroom ⊢
  unfold State.faultRecord
  dsimp only
  generalize hd : (natLe 8 (s.ctxAt c).faults ++ natLe 8 tcause.toNat ++ natLe 8 tval.toNat ++ natLe 4 tpc ++ natLe 1 hart ++
    natLe 1 rank ++ natLe 1 die ++ natLe 1 action) = data
  have hl : data.length = 32 := by
    rw [← hd]
    simp only [List.length_append, length_natLe]
  have hr : (s.setCtxAt c { s.ctxAt c with faults := (s.ctxAt c).faults + 1 }).runAt c 0 = s.runAt c 0 := by
    rw [State.runAt, State.ctxAt_setCtxAt]
    rfl
  have hs : ∀ k, (s.setCtxAt c { s.ctxAt c with faults := (s.ctxAt c).faults + 1 }).lineBad c 0 k = s.lineBad c 0 k := fun k =>
    lineBad_congr ⟨_, _, _, hr⟩ fun i => ⟨_, rfl⟩
  have h := kennelAppend_one (s := s.setCtxAt c { s.ctxAt c with faults := (s.ctxAt c).faults + 1 }) (c := c) (e := 0) (data := data) hm
    (by rintro rfl; cases hl)
  rw [hr, hl, State.ctxAt_setCtxAt, hs] at h
  exact h hsize hh hst hp ho (by omega) (by rw [← hbad]; congr 1; omega)
    (hroom.imp id fun h => ⟨h.2.1, h.2.2⟩)

end

/-! ## A group that ends (R298) -/

theorem endKernel_groups (s : State) (c q : Nat) (k : Kernel) : (s.endKernel c q k).groups = s.groups := by
  unfold State.endKernel
  split
  · rfl
  · unfold State.wakeLauncher
    split
    · rfl
    · split <;> rfl

theorem cancelWaiters_groups (f c : Nat) (s : State) : (State.cancelWaiters f c s).groups = s.groups := by
  induction f generalizing s with
  | zero => rfl
  | succ f ih =>
    unfold State.cancelWaiters
    split
    · rfl
    · split
      · rfl
      · exact (ih _).trans (endKernel_groups ..)

theorem groupEnded_groups (s : State) (x : Group) (status : BitVec 8) : (s.groupEnded x status).groups = s.groups := by
  unfold State.groupEnded
  split
  · rfl
  · split
    · rfl
    · dsimp only
      rw [apply_ite State.groups, State.settleQueues, cancelWaiters_groups, endKernel_groups]
      exact ite_self _

theorem checkIdle_groups (s : State) (c : Nat) : (s.checkIdle c).groups = s.groups := by
  unfold State.checkIdle
  split <;> rfl

theorem checkSuspend_groups (s : State) (c : Nat) : (s.checkSuspend c).groups = s.groups := by
  unfold State.checkSuspend
  split <;> rfl

theorem releaseGroup_gone (s : State) (g : Nat) (status : BitVec 8) : lookup? (s.releaseGroup g status).groups g = none := by
  unfold State.releaseGroup
  dsimp only
  rw [checkSuspend_groups, checkIdle_groups, groupEnded_groups]
  exact lookup?_eraseKey_self ..

/-! ## Kennel's answers to traps (R98, R264, R265) -/

section
variable {h : HartId} {s : State}

theorem resume_held (hx : (s.hart h).trapHeld = true) (hc : (s.ctxAt (s.groupAt h.group).ctx).state = .active) :
    execKennelResumeHart h s = .next (if (s.hart h).trapCode = 9 ∧ (s.hart h).trapPrior = .s then s.serve h
      else if (s.hart h).trapCode = 29 then s.settlePool h else s) := by
  unfold execKennelResumeHart
  dsimp only
  rw [event_true (by rw [hc, hx]; rfl), if_pos hx]

theorem resume_served (hx : (s.hart h).trapHeld = true) (hc : (s.ctxAt (s.groupAt h.group).ctx).state = .active)
    (h9 : bitsOf (s.hart h).tcause 0 8 = 9) (hS : bitOf (s.hart h).tcause 19 = true) :
    execKennelResumeHart h s = .next (s.serve h) := by
  rw [resume_held hx hc, if_pos ⟨h9, by rw [Hart.trapPrior, hS]; rfl⟩]

/-- The hart that goes on after its SYSC, with what it is given. -/
def Hart.served (x : Hart) (r : Option Word) : Hart :=
  { x.settled with
    priv := .s
    pc := x.tpc + 4
    sregs := match r with
      | some r => vecSet x.sregs 2 r
      | none => x.sregs }

theorem Hart.served_leaves (x : Hart) (r : Option Word) :
    (x.served r).pc = x.tpc + 4 ∧ (x.served r).priv = .s ∧ (x.served r).trapHeld = false := ⟨rfl, rfl, rfl⟩

theorem served_s2 (x : Hart) (w : Word) : vecGet 0 (x.served (some w)).sregs 2 = w :=
  (vecGet_vecSet ..).trans (if_pos ⟨rfl, by decide⟩)

theorem serve_kill (hn : vecGet 0 (s.hart h).sregs 1 = 1) :
    s.serve h = s.killGroup h.group (some h) (BitVec.ofNat 8 (128 + (vecGet 0 (s.hart h).sregs 2).toNat % 128)) := by
  unfold State.serve
  dsimp only
  rw [hn]
  rfl

theorem serve_note (hn : vecGet 0 (s.hart h).sregs 1 = 2) :
    ∃ u, u = s.faultRecord (s.groupAt h.group).ctx (s.hart h).tcause (vecGet 0 (s.hart h).sregs 2) (s.hart h).tpc.toNat h.hart h.rank
      (s.groupAt h.group).die 4 ∧ s.serve h = u.setHart h ((u.hart h).served none) := by
  unfold State.serve
  dsimp only
  rw [hn]
  exact ⟨_, rfl, rfl⟩

theorem serve_grow (hn : vecGet 0 (s.hart h).sregs 1 = 3) {n : Nat}
    (hu : n = ((vecGet 0 (s.hart h).sregs 2).toNat + 2 ^ 21 - 1) / 2 ^ 21) :
    s.serve h = if s.mayGrow (s.groupAt h.group).ctx ((s.hart h).core / 64) n = true then
        (s.growPool (s.groupAt h.group).ctx ((s.hart h).core / 64) n).setHart h ((s.hart h).served (some 1))
      else s.setHart h ((s.hart h).served (some 0)) := by
  unfold State.serve
  dsimp only
  rw [← hu]
  have hn : (vecGet 0 (s.hart h).sregs 1).toNat = 3 := congrArg BitVec.toNat hn
  split
  next e => exact absurd (e.symm.trans hn) (by decide)
  next e => exact absurd (e.symm.trans hn) (by decide)
  next => rfl
  next _ _ h3 => exact absurd hn h3

theorem serve_unknown (hn : 3 < (vecGet 0 (s.hart h).sregs 1).toNat) :
    s.serve h = s.setHart h ((s.hart h).served (some (BitVec.allOnes 64))) := by
  unfold State.serve
  dsimp only
  split
  next e => omega
  next e => omega
  next e => omega
  next => rfl

theorem supply_hart {c die n : Nat} {u : State} (hu : s.supply c die n = .ok u) (k : HartId) : u.hart k = s.hart k := by
  unfold State.supply at hu
  dsimp only at hu
  split at hu
  · cases hu
    rfl
  · split at hu
    · cases hu
    · split at hu
      · cases hu
        rfl
      · cases hu

theorem resume_pool (hx : (s.hart h).trapHeld = true) (hc : (s.ctxAt (s.groupAt h.group).ctx).state = .active)
    (h29 : bitsOf (s.hart h).tcause 0 8 = 29) : execKennelResumeHart h s = .next (s.settlePool h) := by
  have h9 : ¬((s.hart h).trapCode = 9 ∧ (s.hart h).trapPrior = .s) := fun e => absurd (e.1.symm.trans h29) (by decide)
  rw [resume_held hx hc, if_neg h9, Hart.trapCode, if_pos h29]

/-- Entering a handler leaves what the trap wrote. -/
theorem Hart.enterS_trap (x : Hart) (e : Nat) : (x.enterS e).tpc = x.tpc ∧ (x.enterS e).tcause = x.tcause := by
  unfold Hart.enterS Hart.dropQueue
  dsimp only
  split <;> exact ⟨rfl, rfl⟩

theorem reflect_next {e : Nat} (hx : (s.hart h).trapHeld = true) (hst : (s.hart h).state = .suspended)
    (h29 : bitsOf (s.hart h).tcause 0 8 = 29) (hP : bitOf (s.hart h).tcause 19 = false)
    (hg : (s.groupAt h.group).handler = some e) :
    ∃ t, execKennelReflectTrap h s = .next t ∧ (t.hart h).state = .run ∧ (t.hart h).priv = .s ∧
      (t.hart h).pc = BitVec.ofNat 64 e ∧ (t.hart h).tpc = (s.hart h).tpc ∧ (t.hart h).tcause = (s.hart h).tcause ∧ t.mem = s.mem := by
  unfold execKennelReflectTrap
  dsimp only
  refine ⟨_, event_true (by rw [hx, Hart.trapCode, h29, Hart.trapPrior, hP, hg]; rfl) _ _, ?_⟩
  obtain ⟨hpc, hcause⟩ := Hart.enterS_trap (s.hart h) e
  rw [State.hart_setHart, hg]
  exact ⟨if_pos hst, rfl, rfl, hpc, hcause, rfl⟩

theorem machineCheck_kills {unit : Word} (hh : lookup? s.harts h.key ≠ none)
    (hc : (s.ctxAt (s.groupAt h.group).ctx).state = .active) :
    ∃ t, execMachineCheck h unit false s = .next t ∧ lookup? t.groups h.group = none := by
  unfold execMachineCheck
  dsimp only
  exact ⟨_, event_true (by rw [hc, Option.isSome_iff_ne_none.mpr hh]; rfl) _ _, releaseGroup_gone ..⟩

theorem machineCheck_resets {unit : Word} (hh : lookup? s.harts h.key ≠ none)
    (hc : (s.ctxAt (s.groupAt h.group).ctx).state = .active) :
    ∃ t, execMachineCheck h unit true s = .next t ∧ (t.ctxAt (s.groupAt h.group).ctx).state = .resetting := by
  unfold execMachineCheck
  dsimp only
  refine ⟨_, event_true (by rw [hc, Option.isSome_iff_ne_none.mpr hh]; rfl) _ _, ?_⟩
  rw [if_pos rfl]
  exact congrArg Ctx.state (State.ctxAt_setCtxAt ..)

end

end Sys2Proof.Machine
end

section
/-! SUPPORT. The statements settled: run bytes, notes and the traps that Kennel settles -/

namespace Sys2Proof.Proofs

open Sys2Proof.Machine

/-- Settles O49: each service by the number in s1, a NOTE's record by `kennelAppend_one`, and each other answer of Kennel's. -/
theorem escalatedTraps : Obligations.EscalatedTraps := by
  unfold Obligations.EscalatedTraps
  intro h s
  dsimp only
  refine ⟨fun hx hc h9 hS => ?_, fun hx hst hc h29 => ?_, fun e hx hst h29 hP hg => reflect_next hx hst h29 hP hg,
    fun unit hh hc => ⟨machineCheck_kills hh hc, machineCheck_resets hh hc⟩⟩
  · rw [show exec (.kennelResumeHart h) s = .next (s.serve h) from resume_served hx hc h9 hS]
    refine ⟨fun hn => congrArg _ (serve_kill hn), fun hn => ?_, fun hn => ?_, fun hn => ?_⟩
    · rw [serve_grow hn rfl]
      split
      next hg =>
        refine ⟨_, rfl, ?_⟩
        rw [State.hart_setHart, State.ctxAt_setHart]
        exact ⟨rfl, rfl, rfl, served_s2 .., (growPool_leaves (mayGrow_die hg)).1⟩
      next =>
        refine ⟨_, rfl, ?_⟩
        rw [State.hart_setHart]
        exact ⟨rfl, rfl, rfl, served_s2 .., rfl⟩
    · intro hm hst h32 hh hp h42 ho hbad hroom
      obtain ⟨u, hu, hserve⟩ := serve_note hn
      rw [hserve]
      refine ⟨_, rfl, ?_⟩
      have hk : u.harts = s.harts := by
        rw [hu]
        exact (storeOnly_faultRecord ..).harts
      rw [State.hart_setHart, show u.hart h = s.hart h by rw [State.hart, hk]; rfl]
      refine ⟨rfl, rfl, rfl, rfl, ?_⟩
      rw [show (u.setHart h ((s.hart h).served none)).runAt (s.groupAt h.group).ctx 0 = u.runAt (s.groupAt h.group).ctx 0 from rfl,
        record_congr (s := u) (t := u.setHart h _) rfl rfl, hu]
      exact note_recorded (tcause := (s.hart h).tcause) (tval := vecGet 0 (s.hart h).sregs 2) (tpc := (s.hart h).tpc.toNat)
        (hart := h.hart) (rank := h.rank) (die := (s.groupAt h.group).die) (action := 4) hm hst h32 hh hp ho hbad hroom
    · refine ⟨_, congrArg _ (serve_unknown hn), ?_⟩
      rw [State.hart_setHart]
      exact ⟨rfl, rfl, rfl, served_s2 .., rfl⟩
  · rw [show exec (.kennelResumeHart h) s = .next (s.settlePool h) from resume_pool hx hc h29]
    unfold State.settlePool
    dsimp only
    refine ⟨fun u hu => ?_, fun n hn => ?_⟩
    · rw [hu]
      refine ⟨_, rfl, ?_⟩
      rw [State.hart_setHart, supply_hart hu, Hart.settled, hst]
      exact ⟨rfl, rfl, rfl, rfl, rfl⟩
    · rw [hn]

end Sys2Proof.Proofs
end

section
/-! SUPPORT. group information, exit, yielding and the end of a group -/

namespace Sys2Proof.Machine

/-! ## GINFO, GEXIT and HYIELD (R305–R307) -/

section
variable {s : State} {d a : Reg}

theorem ginfo_next (hh : ByHart s) (hn : Named s [d, a]) :
    execGinfo d a s = .next (s.setRs d (s.group.info (s.rs a))).retire := by
  refine issue_ok (f := .seq) hh _ ?_
  simp only [run_bind, named_ok hn, run_act, run_pure]

theorem Group.info_beyond {x : Group} {sel : Word} (h : 6 < sel.toNat) : x.info sel = 0 := by
  unfold Group.info
  split
  iterate 7 next e => omega
  next => rfl

/-- HALTH's waits end at once where nothing of the hart is left (R103). -/
theorem haltWait_ok (ht : s.me.tileProg = none) (hs : s.me.streamProg = none) (hst : s.me.strands = []) (hl : s.me.lanes = [])
    (ho : ∀ o ∈ s.ops, o.issuer.owner ≠ s.cur.owner) : haltWait s = .ok () s := by
  have hops : (s.groupOps s.cur.owner.group).all (fun o => o.issuer.owner != s.cur.owner) = true := by
    rw [List.all_eq_true]
    exact fun o hm => bne_iff_ne.2 (ho o (List.mem_filter.1 hm).1)
  have hf : s.me.finished = true := by
    rw [Hart.finished, Hart.prog, Hart.prog, ht, hs]
    rfl
  have he : s.me.engineTrap = none := by
    rw [Hart.engineTrap, Hart.prog, Hart.prog, ht, hs]
    rfl
  have hr : s.rendezvoused = s := by
    rw [State.rendezvoused, freeEngine_none (e := .tile) ht, freeEngine_none (e := .stream) hs]
  rw [Hart.finished] at hf
  rw [State.rendezvoused] at hr
  simp only [haltWait, rendezvous, run_bind, run_get, hf, if_true, run_set, he, run_pure, hr, hops, hst, hl, List.any_nil,
    List.isEmpty_nil, Bool.not_true, Bool.or_false, Bool.false_eq_true, if_false]

section
variable (hh : ByHart s) (ht : s.me.tileProg = none) (hs : s.me.streamProg = none) (hst : s.me.strands = []) (hl : s.me.lanes = [])
  (ho : ∀ o ∈ s.ops, o.issuer.owner ≠ s.cur.owner)
include hh ht hs hst hl ho

theorem gexit_next (hb : ∀ h ∈ s.others, (s.hart h).state ≠ .bound) :
    execGexit s = .next ((s.others.foldl State.stopHart (s.haltHart s.cur.owner)).checkExit s.cur.owner.group) := by
  have hall : s.others.all (fun h => (s.hart h).state != .bound) = true :=
    List.all_eq_true.mpr fun h hm => bne_iff_ne.mpr (hb h hm)
  refine issue_ok (f := .stay) hh _ ?_
  simp only [run_bind, haltWait_ok ht hs hst hl ho, run_get, hall, if_true, run_pure, run_act]
  rfl

theorem gexit_waits (hb : ∃ h ∈ s.others, (s.hart h).state = .bound) : execGexit s = .next (s.setMe { s.me with state := .wait }) := by
  have hall : s.others.all (fun h => (s.hart h).state != .bound) = false := by
    obtain ⟨h, hm, hx⟩ := hb
    rw [List.all_eq_false]
    exact ⟨h, hm, by rw [hx]; decide⟩
  refine (issue_hart (r := .error .wait s) hh _ ?_).trans ?_
  · simp only [run_bind, haltWait_ok ht hs hst hl ho, run_get, hall, Bool.false_eq_true, if_false, run_throw]
  · obtain ⟨k, hk⟩ := hh
    rw [finish, State.enterWait, hk]

end

theorem hyield_alone (hh : ByHart s) (hn : Named s [d]) (hr : s.group.request = false) :
    execHyield d s = .next (s.setRs d 0).retire := by
  refine issue_ok (f := .seq) hh _ ?_
  simp only [run_bind, named_ok hn, run_get, hr, Bool.false_eq_true, if_false, run_set, run_pure]

theorem hyield_saves (hh : ByHart s) (hn : Named s [d]) (hr : s.group.request = true) (hp : s.preemptable s.cur.owner.group = true) :
    execHyield d s = .next ((s.retire.setMe { s.retire.me with yieldDest := some d }).preempt s.cur.owner.group) := by
  refine issue_ok (f := .stay) hh _ ?_
  simp only [run_bind, named_ok hn, run_get, hr, hp, if_true, run_set, run_pure]
  rfl

end

/-! ## A group that ends (R298) -/

section
variable {s : State} {g : Nat}

theorem endHart_lanes (h k : HartId) (hl : (s.hart k).lanes = []) : ((s.endHart h).hart k).lanes = [] := by
  have hd : Handed s { ({ s with cur := .hart h } : State).unbindAll with cur := s.cur } := (handed_unbindAll _).as
  rw [State.endHart]
  dsimp only
  revert hd
  generalize { ({ s with cur := .hart h } : State).unbindAll with cur := s.cur } = u
  intro hd
  obtain ⟨r, v, p, q, g, d, hu⟩ := (hd.harts k).fields
  have hlu : (u.hart k).lanes = [] := by rw [hu]; exact hl
  have hw : ((u.dropHandles h).hart k).lanes = [] := by
    unfold State.dropHandles
    dsimp only
    have ho := seqsOnly_dropAll (u.hart h).core ((u.hart h).hregs.toList.drop 1) u
    revert ho
    generalize List.foldl _ u _ = w
    intro ho
    have hx : ∀ j, w.hart j = u.hart j := fun j => by rw [State.hart, ho.harts]; rfl
    by_cases hk : k.key = h.key
    · rw [State.hart_eq_of_key _ hk, State.hart_setHart, hx, ← State.hart_eq_of_key _ hk]
      exact hlu
    · rw [State.hart_setHart_ne _ _ hk, hx]
      exact hlu
  by_cases hk : k.key = h.key
  · rw [State.hart_eq_of_key _ hk, State.hart_setHart]
  · rw [State.hart_setHart_ne _ _ hk]
    exact hw

/-- The harts of a group whose sets are given up. -/
def State.endSets (s : State) (g : Nat) : State := ((s.membersOf g).filter (fun h => (s.hart h).vset.isSome)).foldl State.endHart s

theorem endHarts_leaves (l : List HartId) (s : State) :
    (l.foldl State.endHart s).groups = s.groups ∧
      ∀ k, (s.hart k).lanes = [] → ((l.foldl State.endHart s).hart k).lanes = [] := by
  induction l generalizing s with
  | nil => exact ⟨rfl, fun _ => id⟩
  | cons h l ih =>
    obtain ⟨hg, hl⟩ := ih (s.endHart h)
    exact ⟨hg.trans (endHart_leaves s h).2.1, fun k hk => hl k (endHart_lanes h k hk)⟩

theorem membersOf_congr {t : State} (h : t.groups = s.groups) : t.membersOf g = s.membersOf g := by
  rw [State.membersOf, State.membersOf, State.groupAt, h]
  rfl

/-- A group is done where its operations are complete and no queue of its harts holds a word. -/
theorem groupDone_eq {t : State} (hl : ∀ h ∈ t.membersOf g, (t.hart h).lanes = []) : t.groupDone g = (t.groupOps g).isEmpty := by
  rw [State.groupDone, List.all_eq_true.mpr fun h hm => by rw [hl h hm]; rfl, Bool.and_true]

theorem groupExit_next (hst : (s.groupAt g).state = .exiting) (ho : s.groupOps g = [])
    (hl : ∀ h ∈ s.membersOf g, (s.hart h).lanes = []) :
    ((s.endSets g).groupOps g = [] →
      execGroupExitComplete g s = .next ((s.endSets g).releaseGroup g ((s.endSets g).groupAt g).status)) ∧
    ((s.endSets g).groupOps g ≠ [] → execGroupExitComplete g s = .next (s.endSets g)) := by
  obtain ⟨hg, hk⟩ := endHarts_leaves ((s.membersOf g).filter (fun h => (s.hart h).vset.isSome)) s
  have hd : (s.endSets g).groupDone g = ((s.endSets g).groupOps g).isEmpty :=
    groupDone_eq fun h hm => hk h (hl h ((membersOf_congr hg) ▸ hm))
  have hx : execGroupExitComplete g s = .next (if (s.endSets g).groupDone g then
      (s.endSets g).releaseGroup g ((s.endSets g).groupAt g).status else s.endSets g) := by
    unfold execGroupExitComplete
    exact event_true (by rw [hst, groupDone_eq hl, ho]; rfl) _ _
  rw [hx, hd]
  refine ⟨fun h => by rw [h, List.isEmpty_nil, if_pos rfl], fun h => ?_⟩
  rw [if_neg (by simpa using h)]

theorem endSets_none (h : ∀ k ∈ s.membersOf g, (s.hart k).vset = none) : s.endSets g = s := by
  rw [State.endSets, List.filter_eq_nil_iff.mpr fun k hk => by rw [h k hk]; decide]
  rfl

theorem killGroup_next (hg : (s.groupAt g).state ≠ .gone) (hc : (s.ctxAt (s.groupAt g).ctx).state = .active) :
    execKennelKillGroup (s.groupAt g).ctx (.bound g) none s = .next (s.killGroup g none 1) := by
  unfold execKennelKillGroup
  dsimp only
  refine event_true ?_ _ _
  rw [hc, bne_iff_ne.mpr hg, beq_self_eq_true]
  rfl

theorem killQueued_next {c q ord : Nat} {k : Kernel} (hk : s.queuedGroup c q ord = some k)
    (hc : (s.ctxAt c).state = .active ∨ (s.ctxAt c).state = .idle) :
    execKennelKillGroup c (.queued q ord) none s = .next (s.killQueued c q k) := by
  unfold execKennelKillGroup
  dsimp only
  rw [hk]
  refine event_true ?_ _ _
  rcases hc with h | h <;> rw [h] <;> rfl

end

end Sys2Proof.Machine
end

section
/-! SUPPORT. The statements settled: group information, exit, yielding and the end of a group -/

namespace Sys2Proof.Proofs

open Sys2Proof.Machine

/-- Settles O46: the instructions by what they wait for, and the end of a group by `groupExit_next`. -/
theorem groupInstructions : Obligations.GroupInstructions := by
  unfold Obligations.GroupInstructions
  refine ⟨fun d a s hh hn => ⟨⟨_, ginfo_next hh hn, ?_⟩, fun ht hs hst hl ho =>
    ⟨gexit_next hh ht hs hst hl ho, gexit_waits hh ht hs hst hl ho⟩, ?_, ?_⟩,
    fun g s => ⟨?_, killGroup_next, fun c q ord k => killQueued_next⟩⟩
  · exact ⟨fun h => by rw [h]; rfl, fun h => by rw [h]; rfl, fun h => by rw [h]; rfl, fun h => by rw [h]; rfl,
      fun h => by rw [h]; rfl, fun h => by rw [h]; rfl, fun h => by rw [h]; rfl, Group.info_beyond⟩
  · exact hyield_alone hh (named_subset hn (List.cons_subset_cons d (List.nil_subset _)))
  · exact hyield_saves hh (named_subset hn (List.cons_subset_cons d (List.nil_subset _)))
  · intro hst ho hl
    exact ⟨(groupExit_next hst ho hl).1, (groupExit_next hst ho hl).2, endSets_none⟩

end Sys2Proof.Proofs
end

section
/-! SUPPORT. waits and reports of a hart -/

namespace Sys2Proof.Machine

open Sys2Proof.Laws

/-! ## The words that a hart in WAIT tests afresh (R69) -/

theorem ofFld {k n lo : Nat} {x : BitVec k} (h : fld k n lo = x) : BitVec.ofNat k (n / 2 ^ lo) = x := h

theorem top22 {w : IWord} {f : Nat} (h : w.toNat / 4194304 % 1024 = f) : w.toNat / 2 ^ 22 = f := by
  have := w.isLt
  omega

theorem top26 {w : IWord} {f : Nat} (h : w.toNat / 67108864 % 64 = f) : w.toNat / 2 ^ 26 = f := by
  have := w.isLt
  omega

theorem top29 {w : IWord} {f : Nat} (h : w.toNat / 536870912 % 8 = f) : w.toNat / 2 ^ 29 = f := by
  have := w.isLt
  omega

theorem blocking_waitc (s c l t : Reg) : blocking (encode (.waitc s c l t)) = some (execWaitc s c l t) := by
  have h := fields6 22 (by decide) l s c t (encode (.waitc s c l t)) rfl
  unfold blocking
  simp only [h.1, ofFld h.2.1, ofFld h.2.2.1, ofFld h.2.2.2.1, ofFld h.2.2.2.2]

theorem blocking_fork (a b : Reg) : blocking (encode (.fork a b)) = some (execFork a b) := by
  have h := fields7 23 0 (by decide) (by decide) a b (encode (.fork a b)) rfl
  unfold blocking
  simp only [h.1, top22 h.2.1, ofFld h.2.2.1, ofFld h.2.2.2]

theorem blocking_rdv : blocking (encode .rdv) = some execRdv := by
  have h := fields8 23 1 (by decide) (by decide) (encode .rdv) rfl
  unfold blocking
  simp only [h.1, top22 h.2]

theorem blocking_wfe (d a : Reg) : blocking (encode (.wfe d a)) = some (execWfe d a) := by
  have h := fields1 28 4 (by decide) (by decide) d a (encode (.wfe d a)) rfl
  unfold blocking
  simp only [h.1, top22 h.2.1, ofFld h.2.2.1, ofFld h.2.2.2]

theorem blocking_halth : blocking (encode .halth) = some execHalth := by
  have h := fields8 28 5 (by decide) (by decide) (encode .halth) rfl
  unfold blocking
  simp only [h.1, top22 h.2]

theorem blocking_vjoin : blocking (encode .vjoin) = some execVjoin := by
  have h := fields26 60 3 (by decide) (by decide) (encode .vjoin) rfl
  unfold blocking
  simp only [h.1, top29 h.2]

theorem blocking_vrelease : blocking (encode .vrelease) = some execVrelease := by
  have h := fields26 60 4 (by decide) (by decide) (encode .vrelease) rfl
  unfold blocking
  simp only [h.1, top29 h.2]

theorem blocking_rsort (a : Reg) (k : HReg) : blocking (encode (.rsort a k)) = some (execRsort a k) := by
  have h := fields31 67 0 (by decide) (by decide) k a (encode (.rsort a k)) rfl
  unfold blocking
  simp only [h.1, top26 h.2.1, ofFld h.2.2.1, ofFld h.2.2.2]

theorem blocking_rmerge (a : Reg) (k : HReg) : blocking (encode (.rmerge a k)) = some (execRmerge a k) := by
  have h := fields31 67 1 (by decide) (by decide) k a (encode (.rmerge a k)) rfl
  unfold blocking
  simp only [h.1, top26 h.2.1, ofFld h.2.2.1, ofFld h.2.2.2]

theorem blocking_rpart (a : Reg) (k : HReg) : blocking (encode (.rpart a k)) = some (execRpart a k) := by
  have h := fields31 67 2 (by decide) (by decide) k a (encode (.rpart a k)) rfl
  unfold blocking
  simp only [h.1, top26 h.2.1, ofFld h.2.2.1, ofFld h.2.2.2]

theorem blocking_rtag (a : Reg) (k : HReg) : blocking (encode (.rtag a k)) = some (execRtag a k) := by
  have h := fields31 67 3 (by decide) (by decide) k a (encode (.rtag a k)) rfl
  unfold blocking
  simp only [h.1, top26 h.2.1, ofFld h.2.2.1, ofFld h.2.2.2]

theorem blocking_rjoin (a : Reg) (k : HReg) : blocking (encode (.rjoin a k)) = some (execRjoin a k) := by
  have h := fields31 67 4 (by decide) (by decide) k a (encode (.rjoin a k)) rfl
  unfold blocking
  simp only [h.1, top26 h.2.1, ofFld h.2.2.1, ofFld h.2.2.2]

theorem blocking_nmc (d a b : Reg) (k : HReg) : blocking (encode (.nmc d a b k)) = some (execNmc d a b k) := by
  have h := fields33 76 0 (by decide) (by decide) d k a b (encode (.nmc d a b k)) rfl
  unfold blocking
  simp only [h.1, top26 h.2.1, ofFld h.2.2.1, ofFld h.2.2.2.1, ofFld h.2.2.2.2.1, ofFld h.2.2.2.2.2, if_true]

theorem blocking_hnew (d : HReg) (s : Reg) : blocking (encode (.hnew d s)) = some (execHnew d s) := by
  have h := fields42 96 0 (by decide) (by decide) d s (encode (.hnew d s)) rfl
  unfold blocking
  simp only [h.1, top22 h.2.1, ofFld h.2.2.1, ofFld h.2.2.2]

theorem blocking_hfork (d a : HReg) : blocking (encode (.hfork d a)) = some (execHfork d a) := by
  have h := fields43 96 1 (by decide) (by decide) d a (encode (.hfork d a)) rfl
  unfold blocking
  simp only [h.1, top22 h.2.1, ofFld h.2.2.1, ofFld h.2.2.2]

theorem blocking_hjoin (d a b : HReg) : blocking (encode (.hjoin d a b)) = some (execHjoin d a b) := by
  have h := fields44 96 2 (by decide) (by decide) d a b (encode (.hjoin d a b)) rfl
  unfold blocking
  simp only [h.1, top22 h.2.1, ofFld h.2.2.1, ofFld h.2.2.2.1, ofFld h.2.2.2.2]

theorem blocking_hwait (a : HReg) : blocking (encode (.hwait a)) = some (execHwait a) := by
  have h := fields45 96 4 (by decide) (by decide) a (encode (.hwait a)) rfl
  unfold blocking
  simp only [h.1, top22 h.2.1, ofFld h.2.2]

theorem blocking_hscope (d a : HReg) (s : Reg) : blocking (encode (.hscope d a s)) = some (execHscope d a s) := by
  have h := fields46 96 5 (by decide) (by decide) d a s (encode (.hscope d a s)) rfl
  unfold blocking
  simp only [h.1, top22 h.2.1, ofFld h.2.2.1, ofFld h.2.2.2.1, ofFld h.2.2.2.2]

theorem blocking_hexp (d : Reg) (a : HReg) : blocking (encode (.hexp d a)) = some (execHexp d a) := by
  have h := fields47 96 6 (by decide) (by decide) d a (encode (.hexp d a)) rfl
  unfold blocking
  simp only [h.1, top22 h.2.1, ofFld h.2.2.1, ofFld h.2.2.2]

theorem blocking_himp (d : HReg) (a : Reg) : blocking (encode (.himp d a)) = some (execHimp d a) := by
  have h := fields42 96 7 (by decide) (by decide) d a (encode (.himp d a)) rfl
  unfold blocking
  simp only [h.1, top22 h.2.1, ofFld h.2.2.1, ofFld h.2.2.2]

theorem blocking_semacq (d a b : Reg) (k : HReg) : blocking (encode (.semacq d a b k)) = some (execSemacq d a b k) := by
  have h := fields33 108 0 (by decide) (by decide) d k a b (encode (.semacq d a b k)) rfl
  unfold blocking
  simp only [h.1, top26 h.2.1, ofFld h.2.2.1, ofFld h.2.2.2.1, ofFld h.2.2.2.2.1, ofFld h.2.2.2.2.2]

theorem blocking_gexit : blocking (encode .gexit) = some execGexit := by
  have h := fields49 108 4 (by decide) (by decide) (encode .gexit) rfl
  unfold blocking
  simp only [h.1, top26 h.2]

theorem blocking_barwait (a b : Reg) (k : HReg) : blocking (encode (.barwait a b k)) = some (execBarwait a b k) := by
  have h := fields36 112 2 (by decide) (by decide) k a b (encode (.barwait a b k)) rfl
  unfold blocking
  simp only [h.1, top26 h.2.1, ofFld h.2.2.1, ofFld h.2.2.2.1, ofFld h.2.2.2.2]

theorem blocking_bararw (d a : Reg) (k : HReg) : blocking (encode (.bararw d a k)) = some (execBararw d a k) := by
  have h := fields32 112 3 (by decide) (by decide) d k a (encode (.bararw d a k)) rfl
  unfold blocking
  simp only [h.1, top26 h.2.1, ofFld h.2.2.1, ofFld h.2.2.2.1, ofFld h.2.2.2.2]

theorem blocking_xtkwait (a b : Reg) (k : HReg) : blocking (encode (.xtkwait a b k)) = some (execXtkwait a b k) := by
  have h := fields36 116 2 (by decide) (by decide) k a b (encode (.xtkwait a b k)) rfl
  unfold blocking
  simp only [h.1, top26 h.2.1, ofFld h.2.2.1, ofFld h.2.2.2.1, ofFld h.2.2.2.2, if_true]

/-- The word of a blocking instruction is tested as that instruction. -/
theorem blocking_exec {i : Instr} {a b c d : Reg} {k l m : HReg}
    (hi : i ∈ [.waitc a b c d, .fork a b, .rdv, .wfe d a, .halth, .vjoin, .vrelease, .rsort a k, .rmerge a k, .rpart a k, .rtag a k,
      .rjoin a k, .nmc d a b k, .hnew k a, .hfork k l, .hjoin k l m, .hwait k, .hscope k l a, .hexp d k, .himp k a,
      .semacq d a b k, .gexit, .barwait a b k, .bararw d a k, .xtkwait a b k]) :
    ∃ f, blocking (encode i) = some f ∧ ∀ u, f u = exec i u := by
  simp only [List.mem_cons, List.not_mem_nil, or_false] at hi
  rcases hi with rfl | rfl | rfl | rfl | rfl | rfl | rfl | rfl | rfl | rfl | rfl | rfl | rfl |
      rfl | rfl | rfl | rfl | rfl | rfl | rfl | rfl | rfl | rfl | rfl | rfl
  exacts [⟨_, blocking_waitc .., fun _ => rfl⟩, ⟨_, blocking_fork .., fun _ => rfl⟩, ⟨_, blocking_rdv, fun _ => rfl⟩,
    ⟨_, blocking_wfe .., fun _ => rfl⟩, ⟨_, blocking_halth, fun _ => rfl⟩, ⟨_, blocking_vjoin, fun _ => rfl⟩,
    ⟨_, blocking_vrelease, fun _ => rfl⟩, ⟨_, blocking_rsort .., fun _ => rfl⟩, ⟨_, blocking_rmerge .., fun _ => rfl⟩,
    ⟨_, blocking_rpart .., fun _ => rfl⟩, ⟨_, blocking_rtag .., fun _ => rfl⟩, ⟨_, blocking_rjoin .., fun _ => rfl⟩,
    ⟨_, blocking_nmc .., fun _ => rfl⟩, ⟨_, blocking_hnew .., fun _ => rfl⟩, ⟨_, blocking_hfork .., fun _ => rfl⟩,
    ⟨_, blocking_hjoin .., fun _ => rfl⟩, ⟨_, blocking_hwait .., fun _ => rfl⟩, ⟨_, blocking_hscope .., fun _ => rfl⟩,
    ⟨_, blocking_hexp .., fun _ => rfl⟩, ⟨_, blocking_himp .., fun _ => rfl⟩, ⟨_, blocking_semacq .., fun _ => rfl⟩,
    ⟨_, blocking_gexit, fun _ => rfl⟩, ⟨_, blocking_barwait .., fun _ => rfl⟩, ⟨_, blocking_bararw .., fun _ => rfl⟩,
    ⟨_, blocking_xtkwait .., fun _ => rfl⟩]

/-! ## A hart in WAIT (R69) -/

section
variable {h : HartId} {s : State}

/-- A hart that tests a blocking instruction: what the instruction leaves where it goes on. -/
theorem unblock_tests {f : State → Host.Outcome State Fault Refusal} {t : State} (hw : (s.hart h).state = .wait)
    (hr : (s.hart h).reports = []) (hq : (s.hart h).vqueue = []) (hb : blocking (s.testing h).word = some f)
    (hf : f (s.testing h) = .next t) :
    execHartWaitEnds h s =
      .next (if (t.hart h).state = .wait ∨ t = s.testing h then s else { t with cur := s.cur, word := s.word }) := by
  have hc : ((s.hart h).state == .wait && (s.hart h).reports.isEmpty) = true := by
    rw [hw, hr]
    rfl
  unfold execHartWaitEnds State.unblock
  dsimp only
  rw [if_pos hc, hq, List.isEmpty_nil, if_pos rfl, hb]
  dsimp only
  rw [hf]
  dsimp only
  split <;> rfl

theorem unblock_issues (hw : (s.hart h).state = .wait) (hr : (s.hart h).reports = [])
    (hq : (s.hart h).vqueue ≠ [] ∨ blocking (s.testing h).word = none) :
    execHartWaitEnds h s = .next (if s.queueRoom h = true then s.setHart h { s.hart h with state := .run } else s) := by
  have hn : (if (s.hart h).vqueue.isEmpty = true then blocking (s.testing h).word else none) = none := by
    rcases hq with hq | hq
    · exact if_neg (by simpa using hq)
    · rw [hq, ite_self]
  have hc : ((s.hart h).state == .wait && (s.hart h).reports.isEmpty) = true := by
    rw [hw, hr]
    rfl
  unfold execHartWaitEnds State.unblock
  dsimp only
  rw [if_pos hc, hn]
  dsimp only
  split <;> rfl

/-! ## Reports (R85, R95) -/

theorem bitsOf_tcauseOf_code (t : TrapInfo) (l : Priv) : bitsOf (tcauseOf t l) 0 8 = t.cause.code := by
  have h : tcauseOf t l = tcauseOf { t with source := t.source % 8, lane := t.lane % 32 } l := by
    unfold tcauseOf
    dsimp only
    rw [Nat.mod_mod, Nat.mod_mod]
  rw [h]
  exact (bitsOf_tcauseOf _ l (Nat.mod_lt _ (by decide)) (Nat.mod_lt _ (by decide))).1

/-- What a trap writes of its cause, and what it leaves. -/
theorem Hart.takeTrap_cause (x : Hart) (t : TrapInfo) (g : Group) :
    (x.takeTrap t g).tval = t.tval ∧ bitsOf (x.takeTrap t g).tcause 0 8 = t.cause.code ∧ (x.takeTrap t g).reports = x.reports ∧
      (x.takeTrap t g).sregs = x.sregs := by
  have hc : (x.trapCsrs t).tval = t.tval ∧ bitsOf (x.trapCsrs t).tcause 0 8 = t.cause.code ∧ (x.trapCsrs t).reports = x.reports ∧
      (x.trapCsrs t).sregs = x.sregs := by
    unfold Hart.trapCsrs
    dsimp only
    split
    · exact ⟨rfl, bitsOf_tcauseOf_code .., rfl, rfl⟩
    · exact ⟨rfl, bitsOf_tcauseOf_code .., rfl, rfl⟩
  unfold Hart.takeTrap
  dsimp only
  split
  · exact hc
  · unfold Hart.enterS Hart.dropQueue
    dsimp only
    split <;> exact hc

theorem deferredTrap_next {k : Nat} {r : Report} (hk : (s.hart h).reports[k]? = some r)
    (hs : (s.hart h).state = .run ∨ (s.hart h).state = .wait) (hq : s.quiet h = true) :
    execDeferredTrap h k s =
      .next ((s.setHart h { s.hart h with reports := (s.hart h).reports.eraseIdx k }).hartTrap h r.trap) := by
  unfold execDeferredTrap
  dsimp only
  rw [hk]
  refine event_true ?_ _ _
  rw [State.takesReports, hq]
  rcases hs with hs | hs <;> rw [hs] <;> rfl

theorem hartTrap_leaves (s : State) (h : HartId) (t : TrapInfo) :
    let u := s.hartTrap h t
    (u.hart h).tval = t.tval ∧ bitsOf (u.hart h).tcause 0 8 = t.cause.code ∧
      ((s.hart h).stalled = none → (u.hart h).reports = (s.hart h).reports ∧ (u.hart h).sregs = (s.hart h).sregs ∧ u.mem = s.mem) := by
  dsimp only
  unfold State.hartTrap
  dsimp only
  rw [State.hart_setHart]
  obtain ⟨h1, h2, h3, h4⟩ := Hart.takeTrap_cause (((s.unqueue (.hart h)).flushStalled h).hart h) t
    (((s.unqueue (.hart h)).flushStalled h).groupAt h.group)
  refine ⟨h1, h2, fun hst => ?_⟩
  have hf : (s.unqueue (.hart h)).flushStalled h = s.unqueue (.hart h) := by
    unfold State.flushStalled
    exact if_neg (by rw [show (s.unqueue (.hart h)).hart h = s.hart h from rfl, hst]; exact Bool.false_ne_true)
  rw [hf] at h3 h4 ⊢
  exact ⟨h3, h4, rfl⟩

/-! ## WFE's latch and stream stalls (R101, R168) -/

theorem testing_hart (s : State) (h : HartId) :
    (s.testing h).me = { s.hart h with state := .run } ∧ (s.testing h).cur = .hart h ∧ (s.testing h).mem = s.mem := by
  refine ⟨?_, rfl, rfl⟩
  exact State.hart_setHart ..

theorem wfe_stays {s : State} (hh : ByHart s) (d a : Reg) (hn : Named s [d, a]) (hl : s.me.latch = 0) :
    ∃ w, execWfe d a s = .next (s.setMe { s.me with state := .wait, wfeAt := w }) := by
  refine ⟨match s.me.wfeAt with
    | some t => some t
    | none => if s.rs a = 0 then none else some (s.cycle + (s.rs a).toNat), issue_ok (f := .stay) hh _ ?_⟩
  simp only [run_bind, named_ok hn, run_get, hl, if_true, run_set, run_pure]
  rfl

/-- A word that a hart with no replay under way has issued. -/
theorem Hart.retire_plain {x : Hart} (hq : x.vqueue = []) : ∃ b, x.retire = { x with pc := x.pc + 4, body := b } := by
  unfold Hart.retire
  rw [hq]
  exact ⟨_, rfl⟩

theorem setRs_me {s : State} (hh : ByHart s) (d : Reg) (x : Word) :
    ∃ v, (s.setRs d x).me = { s.me with sregs := v } ∧ (d ≠ 0 → vecGet 0 v d.toNat = x) ∧ (s.setRs d x).mem = s.mem := by
  by_cases hd : d = 0
  · rw [hd, setRs_zero]
    exact ⟨_, rfl, fun h => absurd rfl h, rfl⟩
  · rw [setRs_hart hh hd]
    exact ⟨_, State.me_setMe .., fun _ => (vecGet_vecSet ..).trans (if_pos ⟨rfl, d.isLt⟩), rfl⟩

/-- A WFE with a latch that is set (R101). -/
theorem wfe_given {u : State} (hh : ByHart u) {d a : Reg} (hn : Named u [d, a]) (hl : u.me.latch ≠ 0) (hq : u.me.vqueue = []) :
    ∃ t v b, execWfe d a u = .next t ∧ t.cur = u.cur ∧ t.mem = u.mem ∧
      t.me = { u.me with latch := 0, wfeAt := none, sregs := v, pc := u.me.pc + 4, body := b } ∧
      (d ≠ 0 → vecGet 0 v d.toNat = u.me.latch.setWidth 64) := by
  have hx := wfe_next hh d a hn hl
  generalize hj : u.setMe { u.me with latch := 0, wfeAt := none } = j at hx
  have hjh : ByHart j := by rw [← hj]; exact hh
  have hjm : j.me = { u.me with latch := 0, wfeAt := none } := by rw [← hj]; exact State.me_setMe ..
  have hjc : j.cur = u.cur := by rw [← hj]; rfl
  have hjmem : j.mem = u.mem := by rw [← hj]; rfl
  obtain ⟨v, hv, hd, hm⟩ := setRs_me hjh d (u.me.latch.setWidth 64)
  have hc := cur_setRs hjh d (u.me.latch.setWidth 64)
  have hk := byHart_setRs hjh d (u.me.latch.setWidth 64)
  generalize j.setRs d (u.me.latch.setWidth 64) = k at hx hv hd hm hc hk
  obtain ⟨b, hret⟩ := Hart.retire_plain (x := k.me) (by rw [hv, hjm]; exact hq)
  rw [retire_hart hk] at hx
  refine ⟨_, v, b, hx, hc.trans hjc, hm.trans hjmem, ?_, hd⟩
  rw [State.me_setMe, hret, hv, hjm]

theorem wfe_tested {d a : Reg} (hw : (s.hart h).state = .wait) (hr : (s.hart h).reports = [])
    (hq : (s.hart h).vqueue = []) (hword : (s.testing h).word = encode (.wfe d a)) (hn : Named (s.testing h) [d, a]) :
    ((s.hart h).latch ≠ 0 →
      ∃ t, execHartWaitEnds h s = .next t ∧ (t.hart h).state = .run ∧ (t.hart h).pc = (s.hart h).pc + 4 ∧
        (t.hart h).latch = 0 ∧ (d ≠ 0 → vecGet 0 (t.hart h).sregs d.toNat = (s.hart h).latch.setWidth 64) ∧ t.mem = s.mem) ∧
    ((s.hart h).latch = 0 → execHartWaitEnds h s = .next s) := by
  obtain ⟨hme, hcur, hmem⟩ := testing_hart s h
  have hh : ByHart (s.testing h) := ⟨h, hcur⟩
  have hb : blocking (s.testing h).word = some (execWfe d a) := by rw [hword, blocking_wfe]
  constructor
  · intro hl
    obtain ⟨t, v, b, ht, htc, htm, htme, hd⟩ := wfe_given hh hn (by rw [hme]; exact hl) (by rw [hme]; exact hq)
    have hx := unblock_tests hw hr hq hb ht
    have hth : t.hart h = t.me := by rw [State.me, htc, hcur]; rfl
    rw [hme] at htme hd
    have hne : ¬((t.hart h).state = .wait ∨ t = s.testing h) := by
      rw [hth, htme]
      rintro (e | e)
      · cases e
      · rw [e, hme] at htme
        exact hl (congrArg Hart.latch htme)
    rw [if_neg hne] at hx
    refine ⟨_, hx, ?_⟩
    rw [show State.hart { t with cur := s.cur, word := s.word } h = t.hart h from rfl, hth, htme]
    exact ⟨rfl, rfl, rfl, hd, htm.trans hmem⟩
  · intro hl
    obtain ⟨w, hx⟩ := wfe_stays hh d a hn (by rw [hme]; exact hl)
    have hs : (((s.testing h).setMe { (s.testing h).me with state := .wait, wfeAt := w }).hart h).state = .wait := by
      rw [State.setMe, hcur]
      exact congrArg Hart.state (State.hart_setHart ..)
    rw [unblock_tests hw hr hq hb hx, if_pos (.inl hs)]

theorem wfeTimeout_next {n : Nat} (hw : (s.hart h).state = .wait) (ha : (s.hart h).wfeAt = some n) (hn : n ≤ s.cycle) :
    execWfeTimeout h s = .next (s.setHart h { s.hart h with latch := (s.hart h).latch ||| 16 }) := by
  unfold execWfeTimeout
  exact event_true (by rw [hw, ha, Option.map_some, decide_eq_true hn]; rfl) _ _

theorem stallEnd_next {r : Nat} {b : Binding} (hr : (s.hart h).stalled = some r)
    (hb : ({ s with cur := .hart h } : State).bindOf r = some b) :
    execStreamStallEnd h s = .next (if s.streamReady h b = true then s.setHart h { s.hart h with stalled := none } else s) := by
  unfold execStreamStallEnd
  dsimp only
  rw [hr]
  dsimp only
  rw [hb]
  rfl

end

end Sys2Proof.Machine
end

section
/-! SUPPORT. The statements settled: waits and reports of a hart -/

namespace Sys2Proof.Proofs

open Sys2Proof.Machine

/-- Settles O48: a report is the trap that it holds (`hartTrap_leaves`), and a wait ends as its instruction, tested afresh, says
(`unblock_tests`). -/
theorem waitsThatEnd : Obligations.WaitsThatEnd := by
  unfold Obligations.WaitsThatEnd
  intro h s
  dsimp only
  refine ⟨fun k r hk hs hq => ?_, fun hw hr hq => ?_, fun i a b c d k l m t hw hr hq hword hi hx => ?_,
    fun d a hw hr hq hword hn => wfe_tested hw hr hq hword hn, fun n hw ha hn => wfeTimeout_next hw ha hn, fun r b hr hb => ?_⟩
  · obtain ⟨h1, h2, h3⟩ := hartTrap_leaves (s.setHart h { s.hart h with reports := (s.hart h).reports.eraseIdx k }) h r.trap
    rw [State.hart_setHart] at h3
    exact ⟨_, deferredTrap_next hk hs hq, h1, h2, h3⟩
  · have hx := unblock_issues hw hr hq
    exact ⟨fun hq => hx.trans (by rw [if_pos hq]), fun hq => hx.trans (by rw [hq]; rfl)⟩
  · obtain ⟨f, hb, hf⟩ := blocking_exec hi
    have hu := unblock_tests hw hr hq (by rw [hword]; exact hb) ((hf _).trans hx)
    exact ⟨fun h1 h2 => hu.trans (by rw [if_neg (not_or.mpr ⟨h1, h2⟩)]), fun h1 => hu.trans (by rw [if_pos h1])⟩
  · have hx := stallEnd_next hr hb
    exact ⟨fun hq => hx.trans (by rw [if_pos hq]), fun hq => hx.trans (by rw [hq]; rfl)⟩

end Sys2Proof.Proofs
end

section
/-! SUPPORT. bind records, starts, saves and resumption of groups -/

namespace Sys2Proof.Machine

/-! ## Bind records and binding (R282) -/

section
variable {s : State}

/-- What binding a group adds: no other field of the groups or of their number changes. -/
structure GroupsKept (s t : State) : Prop where
  groups : t.groups = s.groups
  next : t.nextGroup = s.nextGroup

theorem GroupsKept.trans {s t u : State} (h : GroupsKept s t) (k : GroupsKept t u) : GroupsKept s u :=
  ⟨k.groups.trans h.groups, k.next.trans h.next⟩

theorem GroupsKept.foldl {α : Type} {f : State → α → State} (hf : ∀ s a, GroupsKept s (f s a)) (l : List α) (s : State) :
    GroupsKept s (l.foldl f s) := by
  induction l generalizing s with
  | nil => exact ⟨rfl, rfl⟩
  | cons a l ih => exact (hf s a).trans (ih _)

theorem groupsKept_bindHart (x : Group) (entry : Nat) (words : Vector Word 8) (c : BitVec 9) (s : State) (h : HartId) :
    GroupsKept s (State.bindHart x entry words c s h) := ⟨rfl, rfl⟩

theorem groupsKept_grantTile (g : Nat) (s : State) (c : Nat) : GroupsKept s (State.grantTile g s c) := ⟨rfl, rfl⟩

theorem bindGroup_leaves (s : State) (c queue die : Nat) (k : Kernel) (img : Image) (cores bases : List Nat) :
    (s.bindGroup c queue die k img cores bases).nextGroup = s.nextGroup + 1 ∧
      ((s.bindGroup c queue die k img cores bases).groupAt s.nextGroup).ctx = c ∧
      ((s.bindGroup c queue die k img cores bases).groupAt s.nextGroup).cores = cores := by
  unfold State.bindGroup
  dsimp only
  generalize hu : ({ s with groups := insertKey s.groups s.nextGroup _, nextGroup := s.nextGroup + 1 } : State) = u
  generalize hv : List.foldl (State.bindHart _ _ _ _) u _ = v
  have h1 : GroupsKept u v := hv ▸ .foldl (fun s a => groupsKept_bindHart _ _ _ _ s a) _ u
  have h2 : GroupsKept u (if (launchShape k.words).tile = true then cores.foldl (State.grantTile s.nextGroup) v else v) := by
    split
    · exact h1.trans (.foldl (groupsKept_grantTile _) _ v)
    · exact h1
  generalize (if (launchShape k.words).tile = true then cores.foldl (State.grantTile s.nextGroup) v else v) = w at h2 ⊢
  rw [State.groupAt_setCtxAt, State.groupAt, h2.groups, ← hu, lookupD_insertKey_self]
  exact ⟨h2.next.trans (by rw [← hu]), rfl, rfl⟩

/-- What preparing a range changes: memory alone. -/
theorem prepares_leave (img : Image) (l : List (Nat × Nat)) (s : State) :
    (l.foldl (fun s p => s.prepare img p.1 p.2) s).harts = s.harts ∧
      (l.foldl (fun s p => s.prepare img p.1 p.2) s).nextGroup = s.nextGroup := by
  induction l generalizing s with
  | nil => exact ⟨rfl, rfl⟩
  | cons p l ih => exact ih _

theorem recordCleared_next {die slot : Nat} (hd : die < 8) :
    ∃ t, execBindRecordWrite die slot none s = .next t ∧ lookup? (vecGet Die.reset t.dies die).slots slot = none ∧ t.mem = s.mem ∧
      t.harts = s.harts := by
  unfold execBindRecordWrite
  dsimp only
  refine ⟨_, event_true (decide_eq_true hd) _ _, ?_, rfl, rfl⟩
  dsimp only
  rw [vecGet_vecSet, if_pos ⟨rfl, hd⟩]
  exact lookup?_eraseKey_self ..

theorem recordWritten_next {die slot : Nat} {r : BindRecord} (hd : die < 8) (hs : slot < 64)
    (hr : ({ s with dies := vecSet s.dies die { vecGet Die.reset s.dies die with
        slots := eraseKey (vecGet Die.reset s.dies die).slots slot } } : State).recordOk die r = true) :
    ∃ t, execBindRecordWrite die slot (some r) s = .next t ∧ lookup? (vecGet Die.reset t.dies die).slots slot = some r ∧
      t.harts = s.harts := by
  unfold execBindRecordWrite
  dsimp only
  refine ⟨_, event_true (by rw [decide_eq_true hd, decide_eq_true hs, hr]; rfl) _ _, ?_, (prepares_leave ..).1⟩
  dsimp only
  rw [vecGet_vecSet, if_pos ⟨rfl, hd⟩, lookup?_insertKey, if_pos rfl]

theorem groupBind_next {die slot : Nat} {r : BindRecord} {k : Kernel} {img : Image} {l : List (Nat × Nat)}
    (hr : lookup? (vecGet Die.reset s.dies die).slots slot = some r)
    (hk : ((s.ctxAt r.ctx).queue? r.queue).bind Queue.binding? = some k) (hi : (s.ctxAt r.ctx).imageOf k = some img)
    (ho : s.offer r k = some l) (hb : (s.ctxAt r.ctx).binds = true)
    (hn : (s.nextQueue r.ctx (s.virtDie r.ctx (r.cores.headD 0))).getD r.queue = r.queue) :
    ∃ t, execGroupBind die slot s = .next t ∧ t.nextGroup = s.nextGroup + 1 ∧
      (t.groupAt s.nextGroup).ctx = r.ctx ∧ (t.groupAt s.nextGroup).cores = l.map Prod.fst := by
  unfold execGroupBind
  dsimp only
  rw [hr]
  dsimp only
  rw [hk]
  dsimp only
  rw [hi, ho]
  dsimp only
  exact ⟨_, event_true (by rw [hb, hn]; exact beq_self_eq_true _) _ _, bindGroup_leaves ..⟩

theorem kennelBind_next {c q die : Nat} {cores : List Nat} {k : Kernel} {img : Image}
    (hk : ((s.ctxAt c).queue? q).bind Queue.binding? = some k) (hi : (s.ctxAt c).imageOf k = some img)
    (hb : (s.ctxAt c).binds = true) (hno : ∀ d ∈ s.dies.toList, ∀ p ∈ d.slots, ¬(p.2.ctx = c ∧ p.2.queue = q))
    (hf : s.fits c q die k = true) (hn : s.nextQueue c die = some q) (hl : cores.length = launchCores k.words)
    (hd : cores = cores.eraseDups) (ho : ∀ x ∈ cores, x ∈ s.open_ c q die k) :
    ∃ t, execKennelBindGroup c q die cores s = .next t ∧ t.nextGroup = s.nextGroup + 1 ∧
      (t.groupAt s.nextGroup).ctx = c ∧ (t.groupAt s.nextGroup).cores = cores := by
  have hm : s.dies.toList.any (fun d => d.slots.any (fun p => p.2.ctx == c && p.2.queue == q && (s.offer p.2 k).isSome)) = false := by
    rw [List.any_eq_false]
    intro d hd
    rw [Bool.not_eq_true, List.any_eq_false]
    intro p hp
    have := hno d hd p hp
    simp only [Bool.and_eq_true, beq_iff_eq]
    exact fun h => this h.1
  have hc : cores.all (fun x => (s.open_ c q die k).contains x) = true :=
    List.all_eq_true.mpr fun x hx => List.contains_iff_mem.mpr (ho x hx)
  unfold execKennelBindGroup
  dsimp only
  rw [hk]
  dsimp only
  rw [hi]
  dsimp only
  refine ⟨_, event_true (by rw [hb, hm, hf, hn, decide_eq_true hl, decide_eq_true hd, hc]; simp) _ _, ?_⟩
  generalize hu : List.foldl _ _ (cores.zip _) = u
  have hnext : u.nextGroup = s.nextGroup := by
    rw [← hu]
    exact (prepares_leave ..).2
  rw [← hnext]
  exact bindGroup_leaves ..

end

/-! ## Sets and starts (R106, R294) -/

section
variable {s : State}

theorem saveRecords_storeOnly (s : State) (g rank hart flags : Nat) (dirty : Word) (pc : Nat) :
    StoreOnly s (s.saveRecords g rank hart flags dirty pc) :=
  (dataOnly_setCtxAt s (s.groupAt g).ctx { s.ctxAt (s.groupAt g).ctx with saves := (s.ctxAt (s.groupAt g).ctx).saves + 1 }).store.trans
    (storeOnly_kennelAppend ..)

theorem vecGet_ofFn {α : Type} {n k : Nat} (d : α) (f : Nat → α) (h : k < n) :
    vecGet d (Vector.ofFn (n := n) fun i => f i.val) k = f k := by
  rw [vecGet, List.getD_eq_getElem?_getD, Vector.toList_ofFn, List.getElem?_ofFn, dif_pos h]
  rfl

theorem VSet.evict_leaves (v : VSet) (dirty : Word) (names : List Nat) :
    (v.evict dirty names).state = .evicted ∧
      (∀ k < 32, vecGet 0 (v.evict dirty names).hi k = if bitOf dirty k then vecGet 0 v.hi k else 0) ∧
      (∀ k < 24, vecGet 0 (v.evict dirty names).masks k = if bitOf dirty (32 + k) then vecGet 0 v.masks k else 0) ∧
      ∀ b ∈ v.binds, (b.kind = .read ∨ b.kind = .patRead) → names = [] → { b with part := [] } ∈ (v.evict dirty names).binds := by
  refine ⟨rfl, fun k hk => ?_, fun k hk => ?_, fun b hb hkind hn => ?_⟩
  · exact vecGet_ofFn (n := 32) 0 (fun k => if bitOf dirty k then vecGet 0 v.hi k else 0) hk
  · exact vecGet_ofFn (n := 24) 0 (fun k => if bitOf dirty (32 + k) then vecGet 0 v.masks k else 0) hk
  · refine List.mem_map.mpr ⟨b, hb, ?_⟩
    rw [hn]
    unfold Binding.dropAhead
    rcases hkind with h | h <;> rw [h] <;> rfl

theorem evict_next {h : HartId} {v : VSet} (hs : (s.hart h).state = .saved) (hv : (s.hart h).vset = some v) (hr : v.state = .retained) :
    ∃ t, execVectorSetEvict h s = .next t ∧
      (t.hart h).vset = some (v.evict (s.hart h).vdirty ((s.hart h).lanes.flatMap Queued.names)) := by
  unfold execVectorSetEvict
  refine ⟨_, event_true (by rw [hs, hv, Option.map_some, hr]; rfl) _ _, ?_⟩
  dsimp only
  rw [State.hart, (saveRecords_storeOnly ..).harts]
  refine (congrArg Hart.vset (State.hart_setHart s h _)).trans ?_
  rw [hv]
  rfl

/-- Harts that start together: one that has left BOUND stays in RUN. -/
theorem startHarts_leaves (l : List HartId) (s : State) :
    let t := l.foldl (fun s h => s.setHart h { s.hart h with state := .run }) s
    (∀ h, (h ∈ l ∨ (s.hart h).state = .run) → (t.hart h).state = .run) ∧ t.mem = s.mem ∧ t.cores = s.cores ∧ t.groups = s.groups := by
  induction l generalizing s with
  | nil => exact ⟨fun h hh => hh.resolve_left List.not_mem_nil, rfl, rfl, rfl⟩
  | cons k l ih =>
    obtain ⟨h1, h2, h3, h4⟩ := ih (s.setHart k { s.hart k with state := .run })
    refine ⟨fun h hh => h1 h ?_, h2, h3, h4⟩
    by_cases hk : h.key = k.key
    · right
      rw [State.hart_eq_of_key _ hk, State.hart_setHart]
    · rcases hh with hm | hr
      · exact .inl ((List.mem_cons.mp hm).resolve_left fun e => hk (congrArg HartId.key e))
      · right
        rw [State.hart_setHart_ne _ _ hk]
        exact hr

theorem hartStart_next {g rank : Nat} (hg : (s.groupAt g).state = .run) (hr : rank < (s.groupAt g).cores.length)
    (hn : rank ∉ (s.groupAt g).started) (hb : ∀ r < rank, r ∈ (s.groupAt g).started) :
    ∃ t, execHartStart g rank s = .next t ∧ (t.groupAt g).started = (s.groupAt g).started ++ [rank] ∧
      (∀ h ∈ s.membersOf g, h.rank = rank → (s.hart h).state = .bound → (t.hart h).state = .run) ∧
      t.mem = s.mem ∧ t.cores = s.cores := by
  have hall : (List.range rank).all (fun r => (s.groupAt g).started.contains r) = true :=
    List.all_eq_true.mpr fun r hr => List.contains_iff_mem.mpr (hb r (List.mem_range.mp hr))
  have hnot : (s.groupAt g).started.contains rank = false := by simpa using hn
  obtain ⟨h1, h2, h3, h4⟩ := startHarts_leaves ((s.membersOf g).filter (fun h => h.rank == rank && (s.hart h).state == .bound)) s
  unfold execHartStart
  dsimp only
  refine ⟨_, event_true (by rw [hg, decide_eq_true hr, hnot, hall]; rfl) _ _, ?_, fun h hm hrank hst => ?_, h2, h3⟩
  · rw [State.groupAt_setGroupAt]
  · refine (congrArg Hart.state (State.hart_setGroupAt ..)).trans (h1 h (.inl (List.mem_filter.mpr ⟨hm, ?_⟩)))
    rw [hrank, hst, beq_self_eq_true]
    rfl

end

/-! ## Pre-emption and resumption (R295, R297, R307) -/

section
variable {s : State} {g : Nat}

theorem preemptRequest_next (hg : (s.groupAt g).state = .run) :
    execKennelPreemptRequest g s = .next (s.setGroupAt g { s.groupAt g with request := true }) := by
  unfold execKennelPreemptRequest
  exact event_true (by rw [hg]; rfl) _ _

theorem saveHart_hart (s : State) (h k : HartId) :
    (s.saveHart h).hart k = s.hart k ∨ k.key = h.key ∧ ((s.saveHart h).hart k).state = .saved ∧
      ((s.saveHart h).hart k).vset = (s.hart k).vset.map (fun v => { v with state := .retained }) := by
  unfold State.saveHart
  split
  · exact .inl rfl
  · dsimp only
    by_cases hk : k.key = h.key
    · right
      rw [State.hart_eq_of_key _ hk, State.hart_setHart, State.hart_eq_of_key s hk]
      exact ⟨hk, rfl, rfl⟩
    · left
      rw [State.hart_setHart_ne _ _ hk]
      rfl

theorem saveHart_own (s : State) (h : HartId) (hs : (s.hart h).state ≠ .halted) :
    ((s.saveHart h).hart h).state = .saved ∧
      ((s.saveHart h).hart h).vset = (s.hart h).vset.map (fun v => { v with state := .retained }) := by
  unfold State.saveHart
  rw [if_neg hs]
  dsimp only
  rw [State.hart_setHart]
  exact ⟨rfl, rfl⟩

theorem saveHart_mem (s : State) (h : HartId) : (s.saveHart h).mem = s.mem ∧ (s.saveHart h).groups = s.groups := by
  unfold State.saveHart
  split <;> exact ⟨rfl, rfl⟩

/-- A hart that is saved with its set RETAINED. -/
structure SavedFrom (x y : Hart) : Prop where
  state : y.state = .saved
  vset : y.vset = x.vset.map (fun v => { v with state := .retained })

theorem SavedFrom.saveHart {x : Hart} {k : HartId} (hk : SavedFrom x (s.hart k)) (h : HartId) : SavedFrom x ((s.saveHart h).hart k) := by
  rcases saveHart_hart s h k with he | ⟨_, h1, h2⟩
  · rw [he]
    exact hk
  · refine ⟨h1, h2.trans ?_⟩
    rw [hk.vset, Option.map_map]
    rfl

theorem saveHarts_leaves (l : List HartId) (s : State) :
    (∀ h ∈ l, (s.hart h).state ≠ .halted → SavedFrom (s.hart h) ((l.foldl State.saveHart s).hart h)) ∧
      (∀ h x, SavedFrom x (s.hart h) → SavedFrom x ((l.foldl State.saveHart s).hart h)) ∧
      (l.foldl State.saveHart s).mem = s.mem ∧ (l.foldl State.saveHart s).groups = s.groups := by
  induction l generalizing s with
  | nil => exact ⟨fun h hm => absurd hm List.not_mem_nil, fun _ _ => id, rfl, rfl⟩
  | cons k l ih =>
    obtain ⟨h1, h2, h3, h4⟩ := ih (s.saveHart k)
    obtain ⟨m1, m2⟩ := saveHart_mem s k
    refine ⟨fun h hm hs => ?_, fun h x hx => h2 h x (hx.saveHart k), h3.trans m1, h4.trans m2⟩
    by_cases hk : h = k
    · subst hk
      obtain ⟨a, b⟩ := saveHart_own s h hs
      exact h2 h _ ⟨a, b⟩
    · rcases saveHart_hart s k h with he | ⟨_, a, b⟩
      · have := h1 h ((List.mem_cons.mp hm).resolve_left hk) (by rw [he]; exact hs)
        rw [he] at this
        exact this
      · exact h2 h _ ⟨a, b⟩

theorem preempt_next (hr : (s.groupAt g).request = true) (hp : s.preemptable g = true) :
    ∃ t, execPreemptGraceExpiry g s = .next t ∧ (t.groupAt g).state = .saving ∧ (t.groupAt g).request = false ∧
      (∀ h ∈ s.membersOf g, (s.hart h).state ≠ .halted → (t.hart h).state = .saved ∧
        ∀ v, (s.hart h).vset = some v → (t.hart h).vset = some { v with state := .retained }) ∧ t.mem = s.mem := by
  obtain ⟨h1, _, h3, _⟩ := saveHarts_leaves (s.membersOf g) s
  refine ⟨s.preempt g, event_true (by rw [hr, hp]; rfl) (fun s => s.preempt g) s, ?_, ?_, fun h hm hs => ?_, h3⟩
  · exact congrArg Group.state (State.groupAt_setGroupAt ..)
  · exact congrArg Group.request (State.groupAt_setGroupAt ..)
  · obtain ⟨a, b⟩ := h1 h hm hs
    refine ⟨a, fun v hv => ?_⟩
    rw [hv] at b
    exact b

theorem saveComplete_next (hg : (s.groupAt g).state = .saving)
    (hm : ∀ h ∈ s.membersOf g, (s.hart h).pending = 0 ∧ (s.hart h).vpending = 0 ∧ (s.hart h).lanes = [] ∧
      ∀ o ∈ s.ops, o.issuer.owner = h → o.kind.fillsSet = false ∧ o.kind.isTileLoad = false ∧ (o.issuer = .hart h → o.loads = false)) :
    ∃ t, execSaveComplete g s = .next t ∧ (t.groupAt g).state = .saved := by
  have hall : (s.membersOf g).all s.savedWhole = true := by
    rw [List.all_eq_true]
    intro h hin
    obtain ⟨hp, hv, hl, ho⟩ := hm h hin
    unfold State.savedWhole
    have h1 : s.ops.any (fun o => o.issuer.owner == h && o.kind.fillsSet && !s.inLanes o) = false :=
      List.any_eq_false.mpr fun o hmem => by
        by_cases he : o.issuer.owner = h
        · rw [(ho o hmem he).1]
          simp
        · rw [beq_false_of_ne he]
          simp
    have h2 : s.ops.any (fun o => o.issuer == .hart h && o.loads && !s.inLanes o) = false :=
      List.any_eq_false.mpr fun o hmem => by
        by_cases he : o.issuer = .hart h
        · rw [(ho o hmem (by rw [he]; rfl)).2.2 he]
          simp
        · rw [beq_false_of_ne he]
          simp
    have h3 : s.ops.any (fun o => o.issuer.owner == h && o.kind.isTileLoad && !s.inLanes o) = false :=
      List.any_eq_false.mpr fun o hmem => by
        by_cases he : o.issuer.owner = h
        · rw [(ho o hmem he).2.1]
          simp
        · rw [beq_false_of_ne he]
          simp
    rw [hp, hv, hl, h1, h2, h3]
    rfl
  unfold execSaveComplete
  refine ⟨_, event_true (by rw [hg, hall]; rfl) _ _, ?_⟩
  dsimp only
  rw [State.groupAt, checkSuspend_groups]
  exact congrArg Group.state (State.groupAt_setGroupAt ..)

theorem rebind_mem (s : State) (h : HartId) : (s.rebind h).mem = s.mem := by
  unfold State.rebind
  dsimp only
  split <;> rfl

theorem resumeGroup_next (hg : (s.groupAt g).state = .saved) (hc : (s.ctxAt (s.groupAt g).ctx).state = .active)
    (hs : (s.ctxAt (s.groupAt g).ctx).suspending = false) (ht : ∀ h ∈ s.membersOf g, (s.hart h).trapHeld = false)
    (hr : (s.groupAt g).cores.all (s.resumable g) = true) :
    ∃ t, execGroupResume g s = .next t ∧ (t.groupAt g).state = .run ∧ (t.groupAt g).started = [] ∧ t.mem = s.mem := by
  have hall : (s.membersOf g).all (fun h => !(s.hart h).trapHeld) = true :=
    List.all_eq_true.mpr fun h hm => by rw [ht h hm]; rfl
  unfold execGroupResume
  dsimp only
  refine ⟨_, event_true (by rw [hg, hc, hs, hall, hr]; rfl) _ _, ?_, ?_, ?_⟩
  · exact congrArg Group.state (State.groupAt_setGroupAt ..)
  · exact congrArg Group.started (State.groupAt_setGroupAt ..)
  · have h1 := foldl_keeps State.mem (f := State.rebind) rebind_mem (s.membersOf g) s
    rw [State.setGroupAt_mem]
    split
    · exact (foldl_keeps State.mem (f := State.restoreTiles) (fun _ _ => rfl) ..).trans h1
    · exact h1

end

end Sys2Proof.Machine
end

section
/-! SUPPORT. The statements settled: bind records, starts, saves and resumption of groups -/

namespace Sys2Proof.Proofs

open Sys2Proof.Machine

/-- Settles O47: each event by what it leaves of the groups, the harts and their sets. -/
theorem groupsMove : Obligations.GroupsMove := by
  unfold Obligations.GroupsMove
  refine ⟨⟨fun die slot s hd => recordCleared_next hd, fun die slot r s hd hs hr => recordWritten_next hd hs hr,
    fun die slot r k img l s hr hk hi ho hb hn => groupBind_next hr hk hi ho hb hn,
    fun c q die cores k img s hk hi hb hno hf hn hl hd ho => kennelBind_next hk hi hb hno hf hn hl hd ho⟩,
    ⟨fun h v s hs hv hr => ?_, fun g rank s hg hr hn hb => hartStart_next hg hr hn hb⟩,
    fun g s => ⟨preemptRequest_next, preempt_next, fun hg hm _ => saveComplete_next hg hm, resumeGroup_next⟩⟩
  obtain ⟨t, ht, hset⟩ := evict_next hs hv hr
  obtain ⟨h1, h2, h3, h4⟩ := v.evict_leaves (s.hart h).vdirty ((s.hart h).lanes.flatMap Queued.names)
  exact ⟨t, ht, hset, h1, h2, h3, fun b hb hkind hl => h4 b hb hkind (by rw [hl]; rfl)⟩

end Sys2Proof.Proofs
end

section
/-! SUPPORT. stream registers -/

namespace Sys2Proof.Machine

/-! ## Binding instructions (R165, R169, R170) -/

section
variable {s : State} {d a b : Reg} {h : HReg} {q : Nat}

theorem hartOnly_ok (hh : ByHart s) : hartOnly s = .ok () s := by
  obtain ⟨k, hk⟩ := hh
  simp only [hartOnly, run_bind, run_get, hk, run_pure]

theorem needSet_ok (hv : s.me.vset.isSome = true) (hs : s.me.strands = []) (hp : s.me.vpending = 0) (hl : s.me.lanes = []) :
    needSet d s = .ok () s := by
  have hn : s.me.vset.isNone = false := by
    rw [Option.isSome_iff_exists] at hv
    obtain ⟨v, hv⟩ := hv
    rw [hv]
    rfl
  have hb : bitOf s.me.vpending d.toNat = false := by
    rw [hp]
    exact bitOf_zero _
  simp only [needSet, run_bind, run_get, hn, hs, hb, hl, List.any_nil, List.isEmpty_nil, Bool.not_true, Bool.or_false,
    Bool.false_eq_true, if_false, run_pure]

section
variable (hh : ByHart s) (hv : s.me.vset.isSome = true) (hs : s.me.strands = []) (hp : s.me.vpending = 0) (hl : s.me.lanes = [])
include hh hv hs hp hl

/-- What stands before an SBIND's own checks. -/
theorem sbind_next (hn : Named s [a, b]) (hq : Handle s h q) (hd : 24 ≤ d.toNat) (hb : s.bindOf d.toNat = none)
    (hw : runHandleOk s s.ctx (s.rs a) = true) (he : 2 ≤ handleEntry (s.rs a)) :
    (s.rs b = BitVec.allOnes 64 → (s.ctx.run (handleEntry (s.rs a))).state = .opened →
      execSbind d a b h s = .next (s.bind d ⟨d.toNat, .append, s.rs a, q, 0, [], ⟨0, 0, []⟩,
        extentIndex (s.ctx.run (handleEntry (s.rs a))).mapped
          ((s.ctx.run (handleEntry (s.rs a))).len * (s.ctx.run (handleEntry (s.rs a))).size),
        (vecGet Die.reset s.dies (s.ctx.run (handleEntry (s.rs a))).home).mapGen⟩).retire) ∧
    (s.rs b ≠ BitVec.allOnes 64 → execSbind d a b h s = .next (s.bind d ⟨d.toNat, .read, s.rs a, q,
      (s.rs b).toNat * (s.ctx.run (handleEntry (s.rs a))).size, [], ⟨0, 0, []⟩, 0, 0⟩).retire) := by
  have hsp : ptrSpace (s.rs a) = 5 ∨ ptrSpace (s.rs a) = 6 := by
    unfold runHandleOk at hw
    simp only [Bool.and_eq_true, Bool.or_eq_true, beq_iff_eq] at hw
    tauto
  have hcheck : checkRun (s.rs a) s = .ok (handleEntry (s.rs a)) s := checkRun_ok hw (.inl (by omega))
  have hd' : ¬d.toNat < 24 := by omega
  have he' : ¬handleEntry (s.rs a) < 2 := by omega
  constructor
  · intro hr hst
    refine issue_ok (f := .seq) hh _ ?_
    simp only [run_bind, hartOnly_ok hh, seqOf_ok hh hq, needSet_ok hv hs hp hl, named_ok hn, run_get, hd', hb, Option.isSome_none,
      Bool.false_eq_true, if_false, run_pure, if_pos hsp, hcheck, hr, if_true, hst, he', ne_eq, not_true_eq_false, or_false, run_act]
  · intro hr
    refine issue_ok (f := .seq) hh _ ?_
    simp only [run_bind, hartOnly_ok hh, seqOf_ok hh hq, needSet_ok hv hs hp hl, named_ok hn, run_get, hd', hb, Option.isSome_none,
      Bool.false_eq_true, if_false, run_pure, if_pos hsp, hcheck, hr, run_act]

theorem spos_next {c : Binding} (hb : s.bindOf d.toNat = some c) (x : Reg) (hn : Named s [x]) :
    execSpos x d s = .next (s.setRs x (BitVec.ofNat 64 c.pos)).retire := by
  refine issue_ok (f := .seq) hh _ ?_
  simp only [run_bind, hartOnly_ok hh, needSet_ok hv hs hp hl, named_ok hn, run_get, hb, run_set, run_pure]

theorem sskip_next {c : Binding} (hb : s.bindOf d.toNat = some c) (hn : Named s [a]) (hk : c.kind = .read ∨ c.kind = .patRead) :
    execSskip d a s = .next (s.setBind { c with pos := c.pos + (s.rs a).toNat, part := c.part.drop (s.rs a).toNat }).retire := by
  refine issue_ok (f := .seq) hh _ ?_
  simp only [run_bind, hartOnly_ok hh, needSet_ok hv hs hp hl, named_ok hn, run_get, hb, if_pos hk, run_set, run_pure]

theorem sunbind_next {c : Binding} (hq : Handle s h q) (hb : s.bindOf d.toNat = some c) :
    execSunbind d h s = .next (s.unbind c).retire := by
  refine issue_ok (f := .seq) hh _ ?_
  simp only [run_bind, hartOnly_ok hh, seqOf_ok hh hq, needSet_ok hv hs hp hl, run_get, hb, run_set, run_pure]

theorem sunbind_unbound (hq : Handle s h q) (hb : s.bindOf d.toNat = none) : execSunbind d h s = .next s.retire := by
  refine issue_ok (f := .seq) hh _ ?_
  simp only [run_bind, hartOnly_ok hh, seqOf_ok hh hq, needSet_ok hv hs hp hl, run_get, hb, run_pure]

end

end

/-! ## A sum that reads a bound register (R113, R166) -/

section
variable {s t : State} {d a b : Reg} {m : MReg} {c : Binding}

/-- A state that differs from another in its issuer's registers, and whose one binding is given. -/
structure Reads (s t : State) (c : Binding) : Prop where
  cur : t.cur = s.cur
  mem : t.mem = s.mem
  cores : t.cores = s.cores
  groups : t.groups = s.groups
  ctxs : t.ctxs = s.ctxs
  dies : t.dies = s.dies
  core : t.me.core = s.me.core
  binds : t.binds = [c]

/-- What can be read under a binding, and what is read, rests on memory, runs, dies, the issuer and its core's sequencers. -/
theorem avail_congr (hcur : t.cur = s.cur) (hmem : t.mem = s.mem) (hq : ∀ q, (t.coreAt t.me.core).seqr q = (s.coreAt s.me.core).seqr q)
    (hgroups : t.groups = s.groups) (hctxs : t.ctxs = s.ctxs) (hdies : t.dies = s.dies) (x : Binding) (n : Nat) :
    t.avail x n = s.avail x n ∧ t.peek x n = s.peek x n := by
  have hx : t.bindBroken x = s.bindBroken x := by
    rw [State.bindBroken, State.bindBroken, hq]
  have hg : t.group = s.group := by
    rw [State.group, State.group, State.groupAt, State.groupAt, hgroups, hcur]
  have hc : ∀ k, t.ctxAt k = s.ctxAt k := fun k => by rw [State.ctxAt, State.ctxAt, hctxs]
  have hctx : t.ctx = s.ctx := by rw [State.ctx, State.ctx, hg, hc]
  have hr : ∀ k e, t.runAt k e = s.runAt k e := fun k e => by rw [State.runAt, State.runAt, hc]
  have hl : ∀ k e i, t.lineBad k e i = s.lineBad k e i := fun k e i =>
    lineBad_congr ⟨_, _, _, hr k e⟩ fun j => ⟨_, by rw [hdies]⟩
  have hf : ∀ k e n i, t.firstBad k e i n = s.firstBad k e i n := fun k e n => by
    induction n with
    | zero => exact fun _ => rfl
    | succ n ih =>
      intro i
      rw [State.firstBad, State.firstBad, hl, ih]
  have hb : ∀ k e x y, t.badIn k e x y = s.badIn k e x y := fun k e x y => by rw [State.badIn, State.badIn, hr, hf]
  have hy : ∀ k e n i, t.runBytes k e i n = s.runBytes k e i n := fun k e n => by
    induction n with
    | zero => exact fun _ => rfl
    | succ n ih =>
      intro i
      rw [State.runBytes, State.runBytes, State.runByte, State.runByte, hmem, hr, ih]
  constructor
  · unfold State.avail
    simp only [hx, hctx, hg, hb, hcur]
  · unfold State.peek
    simp only [hx, hg, hy]

/-- Bytes of a run, and whether they can be read, are the same for both. -/
theorem Reads.avail (h : Reads s t c) (x : Binding) (n : Nat) : t.avail x n = s.avail x n ∧ t.peek x n = s.peek x n :=
  avail_congr h.cur h.mem (fun q => by rw [State.coreAt, State.coreAt, h.cores, h.core]) h.groups h.ctxs h.dies x n

theorem Reads.setMe (h : Reads s t c) {x : Hart} {e : Binding} (hc : x.core = t.me.core) (hb : bindsIn x.vset = [e]) :
    Reads s (t.setMe x) e where
  cur := h.cur
  mem := h.mem
  cores := h.cores
  groups := h.groups
  ctxs := h.ctxs
  dies := h.dies
  core := by rw [State.me_setMe, hc, h.core]
  binds := by rw [binds_setMe, hb]

theorem Reads.bindOf (h : Reads s t c) (r : Nat) : t.bindOf r = if c.reg = r then some c else none := by
  rw [State.bindOf, h.binds, List.find?_cons, List.find?_nil]
  by_cases hr : c.reg = r
  · rw [decide_eq_true hr, if_pos hr]
  · rw [decide_eq_false hr, if_neg hr]

/-- The pop of a bound source (R166). -/
theorem setBind_hart (hv : s.me.vset.isSome = true) (x : Binding) :
    ∃ v, s.me.vset = some v ∧
      s.setBind x = s.setMe { s.me with vset := some { v with binds := v.binds.map (fun c => if c.reg = x.reg then x else c) } } := by
  obtain ⟨v, hv⟩ := Option.isSome_iff_exists.mp hv
  exact ⟨v, hv, by rw [State.setBind, hv]⟩

theorem Reads.setBind (h : Reads s t c) (hv : t.me.vset.isSome = true) {x : Binding} (hx : x.reg = c.reg) : Reads s (t.setBind x) x := by
  obtain ⟨v, hset, he⟩ := setBind_hart hv x
  have hb : v.binds = [c] := by
    have := h.binds
    rwa [binds_eq, hset] at this
  rw [he]
  refine h.setMe rfl ?_
  rw [bindsIn, Option.map_some, Option.getD_some, hb, List.map_cons, List.map_nil, if_pos hx.symm]

theorem elem_setBind (hh : ByHart s) (hv : s.me.vset.isSome = true) (x : Binding) (w r j : Nat) :
    (s.setBind x).elem r j w = s.elem r j w ∧ (s.setBind x).maskBit r j w = s.maskBit r j w ∧
      (s.setBind x).me.vset.isSome = true := by
  obtain ⟨v, hset, he⟩ := setBind_hart hv x
  rw [he]
  have hh' : ByHart (s.setMe { s.me with vset := some { v with binds := v.binds.map (fun c => if c.reg = x.reg then x else c) } }) := hh
  refine ⟨?_, ?_, ?_⟩
  · rw [elem_hart hh', elem_hart hh, State.me_setMe, Hart.vreg, Hart.vreg, hset]
  · rw [maskBit_hart hh', maskBit_hart hh, State.me_setMe, Hart.mreg, Hart.mreg, hset]
  · rw [State.me_setMe]
    rfl

theorem Reads.setElem (h : Reads s t c) (r i w x : Nat) : Reads s (t.setElem r i w x) c := by
  refine h.setMe ?_ ?_
  · unfold Hart.setVreg
    split
    · rfl
    · split <;> rfl
  · rw [setVreg_binds, ← binds_eq, h.binds]

section
variable {w n d' m' : Nat} {f : Nat → Nat}

theorem Done.byHart (hs : ByHart s) (h : Done s t w m' d' n f) : ByHart t := by
  rw [ByHart, h.cur]
  exact hs

/-- An element that the mask does not select is done when its turn is over. -/
theorem Done.skip (h : Done s t w m' d' n f) (hm : s.maskBit m' n w = false) : Done s t w m' d' (n + 1) f where
  cur := h.cur
  set := h.set
  mask := h.mask
  written j hj hmj := by
    obtain hlt | rfl := Nat.lt_succ_iff_lt_or_eq.1 hj
    · exact h.written j hlt hmj
    · rw [hm] at hmj
      cases hmj
  kept r j hr := h.kept r j (hr.imp_right (.imp_left (by omega)))

theorem Done.setElem (hs : ByHart s) (h : Done s t w m' d' n f) (hd : d' ≠ 0) (hlt : d' < 32) (hn : n < 16384 / w)
    (hm : s.maskBit m' n w = true) {x : Nat} (hx : x % 2 ^ w = f n) : Done s (t.setElem d' n w x) w m' d' (n + 1) f := by
  have ht := h.byHart hs
  have he := elem_setElem ht h.set hd hlt hn x
  refine ⟨h.cur, (isSome_vset_setElem ..).trans h.set, fun j => (maskBit_setElem ht ..).trans (h.mask j), fun j hj hmj => ?_,
    fun r j hr => ?_⟩
  · rw [he]
    by_cases hjn : j = n
    · rw [if_pos ⟨rfl, hjn⟩, hx, hjn]
    · rw [if_neg (by simp [hjn])]
      exact h.written j (by omega) hmj
  · rw [he, if_neg, h.kept r j (hr.imp_right (.imp_left (by omega)))]
    rintro ⟨rfl, rfl⟩
    obtain h' | h' | h' := hr
    · exact h' rfl
    · omega
    · rw [hm] at h'
      cases h'

theorem Done.setBind (hs : ByHart s) (h : Done s t w m' d' n f) (x : Binding) : Done s (t.setBind x) w m' d' n f := by
  have ht := h.byHart hs
  have he := fun r j => elem_setBind ht h.set x w r j
  refine ⟨?_, (he 0 0).2.2, fun j => (he m' j).2.1.trans (h.mask j), fun j hj hmj => (he d' j).1.trans (h.written j hj hmj),
    fun r j hr => (he r j).1.trans (h.kept r j hr)⟩
  obtain ⟨v, _, hb⟩ := setBind_hart h.set x
  rw [hb]
  exact h.cur

end

/-- A cursor that has gone past `i` elements of `k` bytes. -/
def Binding.past (c : Binding) (k i : Nat) : Binding := { c with pos := c.pos + i * k, part := c.part.drop (i * k) }

theorem Binding.past_succ (c : Binding) (k i : Nat) :
    c.past k (i + 1) = { c.past k i with pos := (c.past k i).pos + k, part := (c.past k i).part.drop k } := by
  unfold Binding.past
  dsimp only
  rw [Nat.succ_mul, List.drop_drop, Nat.add_assoc]

section
variable {w : Nat}

/-- One element of a VADD whose first source is bound: the cursor moves whether or not the mask selects the element (R166). -/
theorem addElement_bound (hh : ByHart s) {i N : Nat} (hN : N ≤ 16384 / w) (hi : i < N) (ha : c.reg = a.toNat) (hab : a ≠ b) (had : a ≠ d)
    (hd : d ≠ 0) (hready : s.avail (c.past (w / 8) i) (w / 8) = .ready)
    (hdone : Done s t w m.toNat d.toNat i fun i => (s.peek (c.past (w / 8) i) (w / 8) + s.elem b.toNat i w) % 2 ^ w)
    (hr : Reads s t (c.past (w / 8) i)) :
    ∃ u, element [(a.toNat, w / 8)] [(d, w)] m w (fun pops i => act (fun s =>
        (s.raise 0).putElem d i w
          (((s.source pops a i w : Int) + (s.source2 pops 0 b i w : Int)) % 2 ^ w).toNat)) i t = .ok () u ∧
      Done s u w m.toNat d.toNat (i + 1) (fun i => (s.peek (c.past (w / 8) i) (w / 8) + s.elem b.toNat i w) % 2 ^ w) ∧
      Reads s u (c.past (w / 8) (i + 1)) := by
  have hba : t.bindOf a.toNat = some (c.past (w / 8) i) := (hr.bindOf _).trans (if_pos ha)
  have hne : ∀ {x : Reg}, a ≠ x → c.reg ≠ x.toNat := fun hx e => hx (BitVec.eq_of_toNat_eq (ha.symm.trans e))
  have hbd : t.bindOf d.toNat = none := (hr.bindOf _).trans (if_neg (hne had))
  have ht := hdone.byHart hh
  have hav : t.avail (c.past (w / 8) i) (w / 8) = .ready := (hr.avail ..).1.trans hready
  have hpk : t.peek (c.past (w / 8) i) (w / 8) = s.peek (c.past (w / 8) i) (w / 8) := (hr.avail ..).2
  have hneed : needSources [(a.toNat, w / 8)] i t = .ok () t := by
    simp only [needSources, run_bind, run_get, hba, hav, run_pure]
  have hroom : needRoom [(d, w)] i t = .ok () t := by
    simp only [needRoom, run_bind, run_get, List.any_cons, List.any_nil, hbd, Bool.or_false, Bool.false_eq_true, if_false, run_pure]
  have hpop : popSources [(a.toNat, w / 8)] t =
      .ok [(a.toNat, s.peek (c.past (w / 8) i) (w / 8))] (t.setBind (c.past (w / 8) (i + 1))) := by
    simp only [popSources, run_bind, run_get, hba, run_set, run_pure, hpk, Binding.past_succ]
  have hr1 : Reads s (t.setBind (c.past (w / 8) (i + 1))) (c.past (w / 8) (i + 1)) := hr.setBind hdone.set rfl
  have hd1 := hdone.setBind hh (c.past (w / 8) (i + 1))
  generalize t.setBind (c.past (w / 8) (i + 1)) = u at hpop hr1 hd1
  have hu := hd1.byHart hh
  have hud : (u.raise 0).bindOf d.toNat = none := by
    rw [raise_zero hu]
    exact ((hr1.setMe (e := c.past (w / 8) (i + 1)) rfl (by rw [← binds_eq, hr1.binds])).bindOf _).trans (if_neg (hne had))
  cases hm : s.maskBit m.toNat i w with
  | false =>
    refine ⟨u, ?_, hd1.skip hm, hr1⟩
    simp only [element, run_bind, hneed, run_get, hdone.mask, hm, Bool.false_eq_true, if_false, run_pure, hpop]
  | true =>
    have hsrc : u.source [(a.toNat, s.peek (c.past (w / 8) i) (w / 8))] a i w = s.peek (c.past (w / 8) i) (w / 8) := by
      rw [State.source, lookup?, if_pos rfl, Option.getD_some]
    have hsrc2 : u.source2 [(a.toNat, s.peek (c.past (w / 8) i) (w / 8))] 0 b i w = s.elem b.toNat i w := by
      rw [State.source2, if_pos rfl, State.source, lookup?, if_neg (fun e => hab (BitVec.eq_of_toNat_eq e)), lookup?, Option.getD_none]
      exact hd1.kept _ _ (.inr (.inl (Nat.le_refl i)))
    refine ⟨u.setElem d.toNat i w ((((s.peek (c.past (w / 8) i) (w / 8) : Nat) : Int) + (s.elem b.toNat i w : Nat)) % 2 ^ w).toNat, ?_,
      hd1.setElem hh (fun h0 => hd (BitVec.eq_of_toNat_eq h0)) d.isLt (by omega) hm ?_, hr1.setElem ..⟩
    · simp only [element, run_bind, hneed, run_get, hdone.mask, hm, if_true, hroom, hpop, run_act, hsrc, hsrc2, State.putElem, hud,
        setElem_raise_zero hu]
    · norm_cast
      exact Nat.mod_mod _ _

/-- The loop of such a VADD. -/
theorem addLoop_bound (hh : ByHart s) {N : Nat} (hN : N ≤ 16384 / w) (ha : c.reg = a.toNat) (hab : a ≠ b) (had : a ≠ d) (hd : d ≠ 0)
    (hready : ∀ i < N, s.avail (c.past (w / 8) i) (w / 8) = .ready) (k i : Nat) (hk : i + k = N)
    (hdone : Done s t w m.toNat d.toNat i fun i => (s.peek (c.past (w / 8) i) (w / 8) + s.elem b.toNat i w) % 2 ^ w)
    (hr : Reads s t (c.past (w / 8) i)) :
    ∃ u, loopFrom (element [(a.toNat, w / 8)] [(d, w)] m w (fun pops i => act (fun s =>
        (s.raise 0).putElem d i w
          (((s.source pops a i w : Int) + (s.source2 pops 0 b i w : Int)) % 2 ^ w).toNat))) k i t = .ok () u ∧
      Done s u w m.toNat d.toNat N (fun i => (s.peek (c.past (w / 8) i) (w / 8) + s.elem b.toNat i w) % 2 ^ w) ∧
      Reads s u (c.past (w / 8) N) := by
  induction k generalizing i t with
  | zero =>
    obtain rfl : i = N := hk
    exact ⟨t, rfl, hdone, hr⟩
  | succ k ih =>
    obtain ⟨u, hu, hdu, hru⟩ := addElement_bound hh hN (by omega : i < N) ha hab had hd (hready i (by omega)) hdone hr
    obtain ⟨v, hv, hdv, hrv⟩ := ih (i + 1) (by omega) hdu hru
    exact ⟨v, by rw [loopFrom, run_bind, hu]; exact hv, hdv, hrv⟩

end

/-! ### What stands before the loop -/

/-- The registers that a VADD of two vectors names. -/
def sumNames (d a b : Reg) (m : MReg) : VNames := ⟨[], [b, a], [d], [], [m]⟩

theorem misused_of_binds (hb : s.binds = [c]) (hh : ByHart s) (hk : c.kind = .read) (hc : ∃ r : Reg, c.reg = r.toNat) :
    s.misused (sumNames d a b m) = if c.reg = d.toNat then some c else none := by
  obtain ⟨k, hcur⟩ := hh
  obtain ⟨r, hr⟩ := hc
  have hrd : (BitVec.ofNat 5 r.toNat == d) = decide (r.toNat = d.toNat) := by
    rw [BitVec.ofNat_toNat, BitVec.setWidth_eq, Bool.eq_iff_iff, beq_iff_eq, decide_eq_true_eq, BitVec.toNat_inj]
  have hs : ∀ f : Binding → Binding → Bool, stableSort f [c] = [c] := fun _ => rfl
  unfold State.misused sumNames
  rw [hb, hcur, hs]
  simp only [List.find?_cons, List.find?_nil, hr, hk, List.contains_cons, List.contains_nil, Bool.or_false,
    Bool.false_or, beq_self_eq_true, Bool.true_or, Bool.not_true, Bool.and_false, Bool.and_true, hrd]
  by_cases h : r.toNat = d.toNat
  · rw [decide_eq_true h, if_pos h]
  · rw [decide_eq_false h, if_neg h]

section
variable (hh : ByHart s)
include hh

theorem vchecks_dead (hv : s.me.vset = none) :
    vchecks (sumNames d a b m) s = .error (.trap (.at .vdead (BitVec.ofNat 64 (min d.toNat (min a.toNat b.toNat))))) s := by
  obtain ⟨k, hcur⟩ := hh
  have ht : (sumNames d a b m).deadTval = some (min d.toNat (min a.toNat b.toNat)) := by
    show some (min (min b.toNat a.toNat) d.toNat) = _
    rw [min_comm b.toNat, min_comm d.toNat]
  simp only [vchecks, run_bind, run_get, hcur, hv, Option.isNone_none, if_true, trapDead, ht, trap, run_throw]

theorem vchecks_misused (hv : s.me.vset.isSome = true) (hm : s.misused (sumNames d a b m) = some c) :
    vchecks (sumNames d a b m) s = .error (.trap (.at .runState c.tval)) s := by
  obtain ⟨k, hcur⟩ := hh
  have hn : s.me.vset.isNone = false := by rw [← Option.not_isSome, hv]; rfl
  simp only [vchecks, run_bind, run_get, hcur, hn, hm, Bool.false_eq_true, if_false, trap, run_throw]

end

section
variable {w : Nat}

/-- A hart whose lanes are free, with one register bound, which a VADD reads. -/
structure OneCursor (s : State) (a : Reg) (c : Binding) : Prop where
  hart : ByHart s
  set : s.me.vset.isSome = true
  binds : s.binds = [c]
  pending : s.me.pending = 0
  vpending : s.me.vpending = 0
  strands : s.me.strands = []
  user : s.userJob = false
  lanes : s.me.lanes = []
  body : s.replaying s.me.core s.cur.owner = false
  vl : s.vlPending = false
  kind : c.kind = .read
  reg : c.reg = a.toNat
  ordered : Ordered s c.seq

theorem OneCursor.bindOf (h : OneCursor s a c) (r : Nat) : s.bindOf r = if a.toNat = r then some c else none := by
  rw [State.bindOf, h.binds, List.find?_cons, List.find?_nil, h.reg]
  by_cases hr : a.toNat = r
  · rw [decide_eq_true hr, if_pos hr]
  · rw [decide_eq_false hr, if_neg hr]

theorem OneCursor.bindOf_ne (h : OneCursor s a c) {r : Reg} (hr : a ≠ r) : s.bindOf r.toNat = none :=
  (h.bindOf _).trans (if_neg fun e => hr (BitVec.eq_of_toNat_eq e))

theorem OneCursor.vchecks (h : OneCursor s a c) (had : a ≠ d) : vchecks (sumNames d a b m) s = .ok () s := by
  have hm : s.misused (sumNames d a b m) = none := by
    rw [misused_of_binds h.binds h.hart h.kind ⟨a, h.reg⟩, h.reg, if_neg fun e => had (BitVec.eq_of_toNat_eq e)]
  have hn : s.me.vset ≠ none := Option.isSome_iff_ne_none.mp h.set
  have hw : s.vwaits (sumNames d a b m) = false := by simp [State.vwaits, State.pendingAmong, h.pending, h.vl]
  obtain ⟨k, hk⟩ := h.hart
  simp [Machine.vchecks, hm, hn, hk, hw]

theorem OneCursor.lanesWait (h : OneCursor s a c) (v : VNames) : s.lanesWait v = false := by
  obtain ⟨k, hk⟩ := h.hart
  have hk' : (s.hart k) = s.me := by simp [State.me, hk, Issuer.owner]
  have hr' : s.replaying s.me.core k = false := by simpa [hk, Issuer.owner] using h.body
  simp [State.lanesWait, State.lanesHold, hk, h.vpending, State.lanesBusy, State.userHolds, h.user, hk', h.lanes, h.strands, hr']

theorem OneCursor.boundSources (h : OneCursor s a c) (hab : a ≠ b) : s.boundSources [(a, w), (b, w)] = [(a.toNat, w / 8)] := by
  have ha : s.bindOf a.toNat = some c := (h.bindOf _).trans (if_pos rfl)
  rw [State.boundSources, List.foldl_cons, List.foldl_cons, List.foldl_nil, h.bindOf_ne hab, ha]
  rfl

theorem OneCursor.streams (h : OneCursor s a c) (hab : a ≠ b) (had : a ≠ d) (hw : w ≠ 4) :
    streams (sumNames d a b m) [(a, w), (b, w)] [(d, w)] w s = .ok () s := by
  have hnib : noNibbles ([(a, w), (b, w)] ++ [(d, w)]) s = .ok () s := by
    simp [noNibbles, hw]
  have hopen : bindsOpen [(d, w)] s = .ok () s := by
    simp [bindsOpen, h.bindOf_ne had]
  have htake : ∀ n, streamsTake (sumNames d a b m) [(a, w), (b, w)] [(d, w)] n s = .ok () s := fun n => by
    simp [streamsTake, h.lanesWait]
  have hsettled : bindsSettled ([(a, w), (b, w)].map Prod.fst) s = .ok () s := by
    have hp : s.predsAt s.me.core c.seq = [] := h.ordered
    simp [bindsSettled, h.bindOf_ne hab, h.bindOf a.toNat, hp, State.heldUp]
  have hload : ∀ n, loadPatterns [(a.toNat, w / 8)] n s = .ok () s := fun n => by
    have hp : s.preload c n (w / 8) = (s, true) := by
      rw [State.preload]
      exact if_pos (.inl (by rw [h.kind]; decide))
    simp [loadPatterns, h.bindOf, hp]
  simp only [Machine.streams, run_bind, h.vchecks had, hnib, hopen, run_get, htake, hsettled, h.boundSources hab, hload]

/-- A VADD whose first source is a read cursor with every element there (R166). -/
theorem vadd_bound (h : OneCursor s a c) {w8 : BitVec 2} (hab : a ≠ b) (had : a ≠ d) (hd : d ≠ 0) (h0 : s.me.vstart = 0) {n : Nat}
    (hw : w = 8 * 2 ^ w8.toNat) (hn : n = min s.vl (16384 / w))
    (hready : ∀ i < n, s.avail (c.past (w / 8) i) (w / 8) = .ready) :
    ∃ u, execVadd d a b 0 m w8 s = .next u ∧ u.vstart = 0 ∧ u.binds = [c.past (w / 8) n] ∧
      ∀ i < n, s.maskBit m.toNat i w = true →
        u.elem d.toNat i w = (s.peek (c.past (w / 8) i) (w / 8) + s.elem b.toNat i w) % 2 ^ w := by
  have hh := h.hart
  have hcount : s.count w = n := by
    obtain ⟨k, hk⟩ := hh
    rw [hn]
    simp [State.count, State.share, hk, min_def]
  have hv0 : s.vstart = 0 := by
    obtain ⟨k, hk⟩ := hh
    simp [State.vstart, hk, h0]
  have hw4 : w ≠ 4 := by
    have := Nat.pow_pos (n := w8.toNat) (show 0 < 2 by decide)
    omega
  have hpast : c.past (w / 8) 0 = c := by
    unfold Binding.past
    rw [Nat.zero_mul]
    rfl
  obtain ⟨u, hu, hdone, hr⟩ := addLoop_bound (s := s) (t := s) (m := m) (w := w) hh (N := n)
    (by rw [hn]; exact min_le_right _ _) h.reg hab had hd hready n 0 (Nat.zero_add n) ⟨rfl, h.set, fun _ => rfl, fun j hj => absurd hj (Nat.not_lt_zero j), fun _ _ _ => rfl⟩
    ⟨rfl, rfl, rfl, rfl, rfl, rfl, rfl, by rw [hpast]; exact h.binds⟩
  have hub := hdone.byHart hh
  have hflush : (u.setVstart 0).flushBinds = u.setVstart 0 := by
    rw [State.flushBinds, setVstart_binds, hr.binds, List.foldl_cons, List.foldl_nil, State.flush,
      show (c.past (w / 8) n).kind = .read from h.kind]
  have hmax : Nat.max w w = w := Nat.max_self w
  refine ⟨(u.setVstart 0).retire, ?_, vstart_setVstart_retire hub, ?_, fun i hi hm => ?_⟩
  · unfold execVadd vint
    dsimp only
    rw [show intWidth w8 = w from hw.symm]
    unfold vop
    rw [hmax, if_pos rfl]
    refine issue_ok (f := .seq) hh _ ?_
    simp only [arith, run_bind, show VNames.addSrc2 ⟨[], [a], [d], [], [m]⟩ 0 b = sumNames d a b m from rfl, h.streams hab had hw4,
      run_get, hcount, h.boundSources hab, elements, hv0, Nat.sub_zero, hu, run_act, hflush, run_pure]
  · rw [setVstart_retire_me hub, binds_setMe, Hart.retire_vset]
    exact (binds_eq u).symm.trans hr.binds
  · rw [elem_setVstart_retire hub]
    exact hdone.written i hi hm

end

theorem vadd_stopped (hh : ByHart s) {v : Cause} {x : Word} {w8 : BitVec 2}
    (h : vchecks (sumNames d a b m) s = .error (.trap (.at v x)) s) :
    execVadd d a b 0 m w8 s = .next (State.takeTrap s (.at v x) s) := by
  unfold execVadd vint vop
  refine issue_hart (r := .error (.trap (.at v x)) s) hh _ ?_
  simp only [arith, streams, run_bind, show VNames.addSrc2 ⟨[], [a], [d], [], [m]⟩ 0 b = sumNames d a b m from rfl, h]

end

end Sys2Proof.Machine
end

section
/-! SUPPORT. The statements settled: stream registers -/

namespace Sys2Proof.Proofs

open Sys2Proof.Machine

/-- Settles O32: the instructions of bindings, and the loop of a VADD that pops its first source (`addLoop_bound`). -/
theorem streams : Obligations.Streams := by
  unfold Obligations.Streams
  refine ⟨fun d a b h q s hh hn hq hv hs hp hl => ⟨?_, fun c hc => ⟨fun x hx => spos_next hh hv hs hp hl hc x hx, fun hk => ?_,
    sunbind_next hh hv hs hp hl hq hc⟩, sunbind_unbound hh hv hs hp hl hq⟩,
    fun d a b m t s hh => ⟨?_, fun hv => vadd_stopped hh (vchecks_dead hh hv), fun c hv hb hk hc => ?_⟩⟩
  · rintro e hd hb hw rfl he
    exact sbind_next hh hv hs hp hl hn hq hd hb hw he
  · exact sskip_next hh hv hs hp hl hc (named_subset hn (List.cons_subset_cons a (List.nil_subset _))) hk
  · intro c hv hb hp hvp hs hu hl hr hvl hk hc hab had hd h0 ho
    dsimp only
    intro hready
    exact vadd_bound ⟨hh, hv, hb, hp, hvp, hs, hu, hl, hr, hvl, hk, hc, ho⟩ hab had hd h0 rfl rfl hready
  · have hm := misused_of_binds (a := a) (b := b) (d := d) (m := m) hb hh hk ⟨d, hc⟩
    rw [if_pos hc] at hm
    have hx := vadd_stopped (w8 := t) hh (vchecks_misused hh hv hm)
    rwa [show c.tval = c.handle by rw [Binding.tval, hk]] at hx

end Sys2Proof.Proofs
end

section
/-! SUPPORT. runs opened, published, sealed and freed -/

namespace Sys2Proof.Machine

/-! ## Instructions of runs (R160, R164) -/

section
variable {s : State} {d a b : Reg} {h : HReg} {q : Nat}

theorem extentUnits_add (n : Nat) {e : Nat} (he : e % 2 ^ 21 = 0) : extentUnits (n + e) = extentUnits n + extentUnits e := by
  unfold extentUnits
  omega

theorem nextExtent_mod (r : Run) : r.nextExtent % 2 ^ 21 = 0 := by
  unfold Run.nextExtent
  split <;> rfl

/-- The units that a run has grown by are those that its pool has lost. -/
theorem growTo_units {f : Nat} {r r' : Run} {pool pool' need : Nat} (h : growTo f r pool need = some (r', pool')) :
    r'.units + pool' = r.units + pool ∧ r'.home = r.home := by
  induction f generalizing r pool with
  | zero =>
    rw [growTo] at h
    split at h
    · cases h
      exact ⟨rfl, rfl⟩
    · cases h
  | succ f ih =>
    rw [growTo] at h
    split at h
    · cases h
      exact ⟨rfl, rfl⟩
    · split at h
      next hle =>
        obtain ⟨h1, h2⟩ := ih h
        refine ⟨h1.trans ?_, h2⟩
        have hu : Run.units { r with mapped := r.mapped ++ [r.nextExtent] } = r.units + extentUnits r.nextExtent := by
          unfold Run.units
          rw [List.foldl_append, List.foldl_cons, List.foldl_nil]
          exact extentUnits_add _ (nextExtent_mod r)
        omega
      next => cases h

theorem ropen_next (hh : ByHart s) (hn : Named s [d, a, b]) {e : Nat} {r : Run} {pool : Nat} (hl : layoutOk (s.rs a) = true)
    (he : s.ctx.freeEntry = some e) (hg : growTo (s.ctx.poolAt (s.me.core / 64) + 1) { Run.reset with
      gen := (s.ctx.run e).gen + 1, layout := s.rs a, state := .opened, home := s.me.core / 64 }
      (s.ctx.poolAt (s.me.core / 64)) (s.rs b).toNat = some (r, pool)) :
    execRopen d a b s = .next ((s.mapRun s.group.ctx e r).setRs d (runHandle s e r)).retire := by
  refine issue_ok (f := .seq) hh _ ?_
  simp only [run_bind, named_ok hn, run_get, hl, if_true, run_pure, he, hg, run_set]

theorem ropen_maps {e : Nat} {r : Run} {pool : Nat} (hg : growTo (s.ctx.poolAt (s.me.core / 64) + 1) { Run.reset with
      gen := (s.ctx.run e).gen + 1, layout := s.rs a, state := .opened, home := s.me.core / 64 }
      (s.ctx.poolAt (s.me.core / 64)) (s.rs b).toNat = some (r, pool)) (hm : (s.ctx.run e).mapped = []) (hs : s.ctx.stained = []) :
    s.mapRun s.group.ctx e r = s.setCtxAt s.group.ctx ((s.ctx.setRun e r).setPool (s.me.core / 64) pool) := by
  obtain ⟨hu, hhome⟩ := growTo_units hg
  have h0 : (s.ctx.run e).units = 0 := by
    rw [Run.units, hm]
    rfl
  have hr : Run.units { Run.reset with
      gen := (s.ctx.run e).gen + 1, layout := s.rs a, state := .opened, home := s.me.core / 64 } = 0 := Nat.zero_div _
  have hpool : s.ctx.poolAt (s.me.core / 64) - (r.units - (s.ctx.run e).units) = pool := by
    rw [h0]
    omega
  unfold State.mapRun
  dsimp only
  rw [show s.ctxAt s.group.ctx = s.ctx from rfl, hs, if_pos (by rfl), hhome, hpool]

theorem rlen_next (hh : ByHart s) (hn : Named s [d, a]) (hq : Handle s h q) (hp : Prompt s q [])
    (hw : runHandleOk s s.ctx (s.rs a) = true) (he : 2 ≤ handleEntry (s.rs a)) :
    execRlen d a h s = .next (s.setRs d (BitVec.ofNat 64 (s.ctx.run (handleEntry (s.rs a))).pub)).retire := by
  refine issue_ok (f := .seq) hh _ ?_
  have hr : ready (.of q .load (some d)) s = .ok () s := ready_ok hp rfl rfl rfl
  simp only [run_bind, named_ok hn, seqOf_ok hh hq, run_get, checkRun_ok hw (.inl (by omega)), hr, run_set, run_pure]

theorem rinfo_next (hh : ByHart s) (hn : Named s [d, a, b]) (hw : runHandleOk s s.ctx (s.rs a) = true)
    (he : 2 ≤ handleEntry (s.rs a)) :
    execRinfo d a b s = .next (s.setRs d (s.runInfo s.group.ctx (handleEntry (s.rs a)) (s.rs b))).retire := by
  refine issue_ok (f := .seq) hh _ ?_
  simp only [run_bind, named_ok hn, run_get, checkRun_ok hw (.inl (by omega)), run_set, run_pure]

theorem runInfo_beyond {c e : Nat} {sel : Word} (h : 5 < sel.toNat) : s.runInfo c e sel = 0 := by
  unfold State.runInfo
  dsimp only
  split
  iterate 6 next e => omega
  next => rfl

theorem markRun_next (hh : ByHart s) (hn : Named s [a]) (hq : Handle s h q) (hw : runHandleOk s s.ctx (s.rs a) = true)
    (he : 2 ≤ handleEntry (s.rs a)) (guard : Bool) (kind : Word → OpKind) :
    markRun a h guard kind s = .next (s.addOp q .copy (kind (s.rs a))).retire := by
  have hg : (guard && decide (handleEntry (s.rs a) < 2)) = false := by
    rw [decide_eq_false (by omega), Bool.and_false]
  refine issue_ok (f := .seq) hh _ ?_
  simp only [run_bind, named_ok hn, seqOf_ok hh hq, run_get, checkRun_ok hw (.inl (by omega)), hg, Bool.false_eq_true, if_false,
    run_pure, enqueue, run_act]

end

/-! ## Publications, sealings and freeings performed (R161–R163) -/

section
variable {s : State} {o : Op} {w : Word}

/-- An operation that nothing precedes may start. -/
theorem mayStart_ok (hp : o.phase = .queued) (hd : ∀ p ∈ o.preds, s.alive p = false) : s.mayStart o = true := by
  have hh : s.heldUp o.issuer.owner o.entered o.preds = false := by
    rw [State.heldUp, List.any_eq_false]
    intro p hmem
    rw [State.holds, hd p hmem, Bool.false_and]
    exact Bool.false_ne_true
  rw [State.mayStart, State.ready, hh, hp]
  rfl

theorem runAt_setPub (c e p : Nat) : (s.setPub c e p).runAt c e = { s.runAt c e with pub := p } := by
  unfold State.setPub
  dsimp only
  split
  · unfold State.hostWord
    split <;> exact runAt_setRunAt ..
  · exact runAt_setRunAt ..

theorem runAt_endOp (c e : Nat) : (s.endOp o).runAt c e = s.runAt c e := by
  rw [State.runAt, State.ctxAt, endOp_ctxs]
  rfl

section
variable (ho : s.opAt o.id = some o) (hp : o.phase = .queued) (hd : ∀ p ∈ o.preds, s.alive p = false)
  (hw : runHandleOk s (s.ctxAt o.ctx) w = true)
include ho hp hd hw

theorem rpub_performed (he : 2 ≤ handleEntry w) (hst : (s.runAt o.ctx (handleEntry w)).state = .opened) (hk : o.kind = .publish w) :
    ∃ t, execRpubPerformed o.id s = .next t ∧ t.alive o.id = false ∧ (t.runAt o.ctx (handleEntry w)).pub =
      max (s.runAt o.ctx (handleEntry w)).pub (s.completeTo o.ctx (handleEntry w)) := by
  have hx : execRpubPerformed o.id s = .next ((s.publish o.ctx (handleEntry w)).endOp o) := by
    unfold execRpubPerformed
    rw [opEvent_at ho, hk]
    dsimp only
    rw [if_pos (mayStart_ok hp hd), State.stillRun, hw, decide_eq_true he, Bool.and_self, if_pos rfl, Option.getD_some]
  refine ⟨_, hx, alive_endOp .., ?_⟩
  rw [runAt_endOp, State.publish, if_pos hst, runAt_setPub]

theorem rseal_performed (hst : (s.runAt o.ctx (handleEntry w)).state = .opened) (hk : o.kind = .sealRun w) :
    execRsealPerformed o.id s = .next (if s.appendPending o.ctx (handleEntry w) o.id = true then
      (s.endOp o).reportOp o .runState w false else (s.sealRun o.ctx (handleEntry w)).endOp o) := by
  unfold execRsealPerformed
  rw [opEvent_at ho, hk]
  dsimp only
  rw [if_pos (mayStart_ok hp hd), State.stillRun, hw, hst, if_pos (by rfl)]
  split <;> rfl

theorem rfree_performed (hk : o.kind = .freeRun w) :
    execRfreePerformed o.id s = .next (if s.runNamed o.ctx (handleEntry w) o.id = true then
      (s.endOp o).reportOp o .runState w false else (s.freeRun o.ctx (handleEntry w)).endOp o) := by
  unfold execRfreePerformed
  rw [opEvent_at ho, hk]
  dsimp only
  rw [if_pos (mayStart_ok hp hd), State.stillRun, hw, if_pos rfl]
  split <;> rfl

end

theorem sealRun_leaves (c e : Nat) :
    ((s.sealRun c e).runAt c e).state = .sealed ∧ ((s.sealRun c e).runAt c e).pub = (s.runAt c e).len := by
  unfold State.sealRun
  dsimp only
  rw [runAt_setRunAt, runAt_setPub]
  exact ⟨rfl, rfl⟩

/-- The refusal that a hart's operation ends with (R85). -/
theorem reported {k : HartId} (hk : o.issuer = .hart k) (hh : lookup? s.harts k.key ≠ none) (c : Cause) :
    let t := (s.endOp o).reportOp o c w false
    t.alive o.id = false ∧ t.ctxs = s.ctxs ∧ t.mem = s.mem ∧
      (t.hart k).reports = (s.hart k).reports ++ [⟨c, w, 0, .none, 0, true⟩] := by
  have hharts : (s.endOp o).harts = s.harts := by
    unfold State.endOp State.endParent
    split
    · split <;> rfl
    · rfl
  have hsome : ¬(lookup? s.harts k.key).isNone = true := fun h => hh (Option.isNone_iff_eq_none.mp h)
  have hx : (s.endOp o).reportOp o c w false =
      (s.endOp o).setHart k { s.hart k with reports := (s.hart k).reports ++ [⟨c, w, 0, .none, 0, true⟩] } := by
    rw [State.reportOp, hk]
    unfold State.reportBy
    dsimp only [Issuer.owner]
    rw [hharts, hart_endOp]
    exact (if_neg hsome).trans rfl
  dsimp only
  rw [hx, State.hart_setHart]
  exact ⟨alive_endOp s o, endOp_ctxs s o, mem_endOp s o, rfl⟩

theorem freeRun_leaves {c e : Nat} (hh : (s.runAt c e).host = false) :
    ((s.freeRun c e).runAt c e).state = .free ∧ ((s.freeRun c e).runAt c e).gen = (s.runAt c e).gen ∧
      ((s.freeRun c e).ctxAt c).poolAt (s.runAt c e).home = (s.ctxAt c).poolAt (s.runAt c e).home + (s.runAt c e).units ∧
      ∀ k < 2 ^ 42, byteAt (s.freeRun c e) (runKey c e k) = 0 := by
  have hx : s.freeRun c e = { s.setCtxAt c
      { (s.ctxAt c).setPool (s.runAt c e).home ((s.ctxAt c).poolAt (s.runAt c e).home + (s.runAt c e).units) with
        runs := insertKey (s.ctxAt c).runs e { Run.reset with gen := (s.runAt c e).gen }
        stained := (s.ctxAt c).stained ++ (s.runAt c e).stains.map (fun t => ((s.runAt c e).home, t)) } with
      mem := Memory.clear s.mem (runKey c e 0) (2 ^ 42) } := by
    unfold State.freeRun
    dsimp only
    exact if_neg (by rw [show (s.ctxAt c).run e = s.runAt c e from rfl, hh]; exact Bool.false_ne_true)
  generalize hy : ({ (s.ctxAt c).setPool _ _ with runs := _, stained := _ } : Ctx) = y at hx
  have hc : (s.freeRun c e).ctxAt c = y := by
    rw [hx]
    exact State.ctxAt_setCtxAt ..
  have hr : (s.freeRun c e).runAt c e = { Run.reset with gen := (s.runAt c e).gen } := by
    rw [State.runAt, hc, ← hy]
    exact lookupD_insertKey_self ..
  rw [hr, hc, hx]
  refine ⟨rfl, rfl, ?_, fun k hk => ?_⟩
  · rw [← hy]
    exact (poolAt_setPool ..).trans (if_pos rfl)
  · rw [show runKey c e k = runKey c e 0 + k by rw [runKey, runKey, Nat.add_zero]]
    exact read_clear_within _ _ hk

end

end Sys2Proof.Machine
end

section
/-! SUPPORT. The statements settled: runs opened, published, sealed and freed -/

namespace Sys2Proof.Proofs

open Sys2Proof.Machine

/-- Settles O31: the instructions of runs, and each operation that nothing precedes by what its run's state says. -/
theorem runInstructions : Obligations.RunInstructions := by
  unfold Obligations.RunInstructions
  refine ⟨fun d a b h q s hh hn => ⟨fun e r pool hl he hg => ⟨ropen_next hh hn hl he hg, ropen_maps hg⟩, ?_⟩,
    fun a h q s hh hn hq hw he => ⟨markRun_next hh hn hq hw he .., markRun_next hh hn hq hw he .., markRun_next hh hn hq hw he ..⟩,
    fun s o w ho hp hd hw => ?_⟩
  · rintro e hw rfl he
    have hda : [d, a] ⊆ [d, a, b] := List.cons_subset_cons d (List.cons_subset_cons a (List.nil_subset _))
    exact ⟨fun hq hp => rlen_next hh (named_subset hn hda) hq hp hw he,
      _, rinfo_next hh hn hw he, fun h => by rw [h]; rfl, fun h => by rw [h]; rfl, fun h => by rw [h]; rfl, fun h => by rw [h]; rfl,
      fun h => by rw [h]; rfl, fun h => by rw [h]; rfl, runInfo_beyond⟩
  · intro e he hst
    refine ⟨rpub_performed ho hp hd hw he hst, fun hk hn => ?_, fun k hi hh => ⟨fun hk hn => ?_, fun hk hn => ?_⟩, fun hk hn hhost => ?_⟩
    · have hx := rseal_performed ho hp hd hw hst hk
      rw [if_neg (by rw [hn]; exact Bool.false_ne_true)] at hx
      obtain ⟨h1, h2⟩ := sealRun_leaves (s := s) o.ctx e
      exact ⟨_, hx, alive_endOp .., by rw [runAt_endOp]; exact h1, by rw [runAt_endOp]; exact h2⟩
    · obtain ⟨h1, h2, h3, h4⟩ := reported (w := w) hi hh .runState
      have hx := rseal_performed ho hp hd hw hst hk
      rw [if_pos hn] at hx
      exact ⟨_, hx, h1, by rw [State.runAt, State.ctxAt, h2]; rfl, h3, h4⟩
    · obtain ⟨h1, h2, h3, h4⟩ := reported (w := w) hi hh .runState
      have hx := rfree_performed ho hp hd hw hk
      rw [if_pos hn] at hx
      exact ⟨_, hx, h1, by rw [State.runAt, State.ctxAt, h2]; rfl, h3, h4⟩
    · have hx := rfree_performed ho hp hd hw hk
      rw [if_neg (by rw [hn]; exact Bool.false_ne_true)] at hx
      obtain ⟨h1, h2, h3, h4⟩ := freeRun_leaves hhost
      refine ⟨_, hx, alive_endOp .., by rw [runAt_endOp]; exact h1, by rw [runAt_endOp]; exact h2, ?_, fun k hk => ?_⟩
      · rw [State.ctxAt, endOp_ctxs]
        exact h3
      · rw [byteAt, mem_endOp]
        exact h4 k hk

end Sys2Proof.Proofs
end

section
/-! SUPPORT. outer products -/

namespace Sys2Proof.Machine

/-! ## Tile instructions of a hart whose engine is free (R200, R206) -/

section
variable {s : State}

theorem vregOf_hart (hh : ByHart s) (n : Nat) : s.vregOf n = s.me.vreg n := by
  obtain ⟨k, hk⟩ := hh
  simp only [State.vregOf, hk]

theorem EngineFree.idle (he : EngineFree s) : s.tileOps s.me.core = [] := by
  obtain ⟨_, _, hf, _⟩ := he
  have := hf []
  rw [State.tileFree, Bool.and_eq_true, Bool.and_eq_true] at this
  exact List.isEmpty_iff.mp this.1.1

/-- A tile has the mode in which an instruction that issues now finds it. -/
theorem tileSeen_eq (hh : ByHart s) (he : EngineFree s) (d : BitVec 3) : s.tileSeen d = s.tile d := by
  obtain ⟨k, hk⟩ := hh
  have hm : s.modeAt d.toNat = (s.tile d).c64 := by
    unfold State.modeAt
    rw [hk]
    dsimp only
    rw [EngineFree.idle he]
    rfl
  rw [State.tileSeen, hm]

theorem tileNames_hart (hh : ByHart s) (v : VNames) : s.tileNames v = v := by
  obtain ⟨k, hk⟩ := hh
  simp only [State.tileNames, hk]

theorem ownsEngine_free (he : EngineFree s) (direct : Bool) : ownsEngine direct s = .ok () s := by
  obtain ⟨ht, hf, _⟩ := he
  simp [ownsEngine, ht, hf]

theorem tileCheck_ok (h : VectorReady s) (he : EngineFree s) (v : VNames) : tileCheck v s = .ok () s := by
  have hl : s.me.lanes = [] := h.2.2.2.2.2.2.2.1
  have hvl : s.vlPending = false := h.2.2.2.2.2.2.2.2.2
  cases hv : v.deadTval.isSome with
  | true =>
    simp only [tileCheck, run_bind, ownsEngine_free he, run_get, tileNames_hart h.1, hv, if_true, vchecks_ok h v, vscalars_ok hl, hvl,
      Bool.false_eq_true, if_false, run_pure]
  | false =>
    simp only [tileCheck, run_bind, ownsEngine_free he, run_get, tileNames_hart h.1, hv, named_ok (VectorReady.named h _), vscalars_ok hl, hvl,
      Bool.false_eq_true, if_false, run_pure]

theorem shape_ok {ok : Bool} (h : ok = true) : shape ok s = .ok () s := by
  simp only [shape, run_bind, run_get, h, if_true, run_pure]

/-- An instruction that touches no memory is performed as it issues. -/
theorem performsNow_tile (he : EngineFree s) {n : Needs} (hq : s.precede n = []) (hc : n.chips = []) (ht : s.touching s.cur.owner n.touch s.nextOp = false)
    (hb : s.behind s.cur.owner n = false) : s.performsNow n = true := by
  obtain ⟨_, _, hf, hl, _⟩ := he
  simp [State.performsNow, hl, hq, follows_nil _ hc, ht, hb, hf]

theorem tileReady_ok (h : VectorReady s) (he : EngineFree s) (v : VNames) {n : Needs} (hq : n.q = none) (hc : n.chips = []) (ht : n.touch = []) :
    tileReady v n s = .ok () s := by
  have hw : s.tileWaits v = false := by
    rw [State.tileWaits, lanesWait_ok h, Bool.and_false]
  have hp : s.performsNow n = true := by
    refine performsNow_tile he ?_ hc ?_ ?_
    · rw [State.precede, hq]
    · rw [ht]
      unfold State.touching
      refine List.any_eq_false.mpr fun o _ => ?_
      rw [Bool.not_eq_true, Bool.and_eq_false_iff]
      right
      split <;> simp
    · rw [State.behind, ht]
      simp
  obtain ⟨k, hk⟩ := h.1
  simp [tileReady, hk, hw, ready, hp]

end

/-! ## Outer products (R213) -/

section
variable {s : State} {d : BitVec 3} {a b : Reg} {mc mr : MReg}

theorem opa_next (h : VectorReady s) (he : EngineFree s) (t : TileFmt) (hc : (s.tile d).c64 = (t.w == 64)) :
    opa t d a b mc mr s = .next (s.setTile d ((s.tile d).update (s.lineOn mr)
        (fun r c => s.lineOn mc c && !((List.range t.k).filter (fun i =>
          r * t.k + i < min s.vl (128 * t.k) ∧ c * t.k + i < min s.vl ((s.tile d).cols * t.k))).isEmpty)
        (fun r c cell => t.update cell (((List.range t.k).filter (fun i =>
          r * t.k + i < min s.vl (128 * t.k) ∧ c * t.k + i < min s.vl ((s.tile d).cols * t.k))).map (fun i =>
          (elemOf (s.me.vreg a.toNat) (r * t.k + i) t.w, elemOf (s.me.vreg b.toNat) (c * t.k + i) t.w)))))).retire := by
  refine issue_ok (f := .seq) h.1 _ ?_
  have hs : ((s.tile d).c64 == (t.w == 64)) = true := by rw [hc, beq_self_eq_true]
  simp only [run_bind, tileCheck_ok h he, run_get, tileSeen_eq h.1 he, shape_ok hs, tileReady_ok h he _ (n := s.tileNeeds d mr none _) rfl rfl rfl,
    run_set, run_pure, vregOf_hart h.1]

end

end Sys2Proof.Machine
end

section
/-! SUPPORT. The statements settled: outer products -/

namespace Sys2Proof.Proofs

open Sys2Proof.Machine

/-- Settles O37: each outer product is `opa` of its format, in a tile of that format's mode. -/
theorem outerProducts : Obligations.OuterProducts := by
  unfold Obligations.OuterProducts
  intro d a b mc mr s h he
  dsimp only
  exact ⟨fun hc => opa_next h he _ hc, fun hc => ⟨opa_next h he _ hc, opa_next h he _ hc, opa_next h he _ hc, opa_next h he _ hc,
    opa_next h he _ hc, opa_next h he _ hc, opa_next h he _ hc⟩⟩

end Sys2Proof.Proofs
end

section
/-! SUPPORT. tiles scaled, zeroed, moved, drained and loaded -/

namespace Sys2Proof.Machine

/-! ## Elements of an access that all lie on this chip (R112, R226) -/

section
variable {es : List VElem} {s : State}

theorem AllHere.head {e : VElem} (h : AllHere (e :: es)) : e.fails = none ∧ e.refused = none ∧ e.dest? = none := by
  obtain ⟨pl, hp, hr⟩ := h e (List.mem_cons_self ..)
  refine ⟨by rw [VElem.fails, hp], by rw [VElem.refused, hp], ?_⟩
  rw [VElem.dest?, hp]
  cases pl with
  | remote chip die core off => exact absurd rfl (hr chip die core off)
  | _ => rfl

theorem AllHere.tail {e : VElem} (h : AllHere (e :: es)) : AllHere es := fun x hx => h x (List.mem_cons_of_mem _ hx)

theorem takeGood_here (h : AllHere es) : takeGood es = es := by
  induction es with
  | nil => rfl
  | cons e es ih =>
    rw [takeGood, (AllHere.head h).1, ih (AllHere.tail h)]
    rfl

theorem firstFailing_here (h : AllHere es) : firstFailing es = none := by
  induction es with
  | nil => rfl
  | cons e es ih => rw [firstFailing, (AllHere.head h).1, ih (AllHere.tail h)]

theorem refused_here (h : AllHere es) : es.findSome? VElem.refused = none := by
  induction es with
  | nil => rfl
  | cons e es ih => rw [List.findSome?_cons, (AllHere.head h).2.1, ih (AllHere.tail h)]

theorem chips_here (h : AllHere es) : es.filterMap (fun e => e.dest?.map Prod.fst) = [] := by
  induction es with
  | nil => rfl
  | cons e es ih => rw [List.filterMap_cons, (AllHere.head h).2.2, Option.map_none, ih (AllHere.tail h)]

theorem destsOf_here (h : AllHere es) (f : VElem → Nat) : destsOf (es.map (fun e => (e, f e))) = [] := by
  unfold destsOf
  generalize ([] : List (BitVec 10 × Nat)) = acc
  induction es generalizing acc with
  | nil => rfl
  | cons e es ih =>
    rw [List.map_cons, List.foldl_cons]
    dsimp only
    rw [(AllHere.head h).2.2]
    exact ih (AllHere.tail h) acc

/-- With nothing in flight an access whose elements all lie here is performed as it issues. -/
theorem elems_quiet (ho : s.ops = []) (h : AllHere es) {q n : Nat} {cls : OpClass} :
    s.precede (Needs.elems q cls n es) = [] ∧ (Needs.elems q cls n es).chips = [] ∧
      (∀ t k, s.touching k t s.nextOp = false) ∧ ∀ k (n : Needs), s.behind k n = false := by
  have ha : ∀ id, s.alive id = false := fun id => by rw [State.alive, ho]; rfl
  refine ⟨?_, ?_, fun t k => by rw [State.touching, ho]; rfl, fun k n => ?_⟩
  · have hf : s.alive = fun _ => false := funext ha
    show s.predsAt s.me.core q = []
    rw [State.predsAt, hf, List.filter_false]
  · show (es.filterMap (fun e => e.dest?.map Prod.fst)).eraseDups = []
    rw [chips_here h]
    rfl
  · rw [State.behind, Bool.and_eq_false_iff]
    right
    refine List.any_eq_false.mpr fun x _ => ?_
    rw [ha, Bool.and_false]
    exact Bool.false_ne_true

end

/-! ## Scaling, zeroing and moving (R219–R222) -/

section
variable {s : State} {d p : BitVec 3} {a b q v o : Reg} {c m r : MReg}

theorem scacc_next (h : VectorReady s) (he : EngineFree s) (hx : (s.tile d).c64 = false) (hy : (s.tile p).c64 = false) :
    execScacc d p a b q s = .next (s.setTile d ((s.tile d).update (fun _ => true) (fun _ _ => true)
      (fun i j cell => scaledCell cell ((s.tile p).cell i j)
        (sideScale (elemOf (s.me.vreg a.toNat) i 8) (elemOf (s.me.vreg q.toNat) (i / 64) 16))
        (sideScale (elemOf (s.me.vreg b.toNat) j 8) (elemOf (s.me.vreg q.toNat) (2 + j / 64) 16))))).retire := by
  refine issue_ok (f := .seq) h.1 _ ?_
  have hs : (!(s.tile d).c64 && !(s.tile p).c64) = true := by rw [hx, hy]; rfl
  simp only [run_bind, tileCheck_ok h he, run_get, tileSeen_eq h.1 he, shape_ok hs, tileReady_ok h he _ (n := s.tileNeeds d 0 none _) rfl rfl rfl,
    run_set, run_pure, vregOf_hart h.1]

theorem tzero_next (h : VectorReady s) (he : EngineFree s) : execTzero d o c r s = .next (s.setTile d
      (if decide (o = 1) ≠ (s.tile d).c64 ∨ ((List.range 128).all (s.lineOn r) && (List.range (s.tile d).cols).all (s.lineOn c)) = true
       then { Tile.reset with c64 := decide (o = 1) }
       else (s.tile d).update (s.lineOn r) (fun _ j => s.lineOn c j) (fun _ _ _ => 0))).retire := by
  refine issue_ok (f := .seq) h.1 _ ?_
  simp only [run_bind, tileCheck_ok h he, run_get, tileSeen_eq h.1 he, tileReady_ok h he _ (n := s.tileNeeds d r _ _) rfl rfl rfl,
    run_set, run_pure]
  rfl

theorem moveReady_ok (h : VectorReady s) (he : EngineFree s) (v : VNames) (rows : List Nat) : moveReady v rows s = .ok () s := by
  have hw : s.tileWaits v = false := by
    rw [State.tileWaits, lanesWait_ok h, Bool.and_false]
  have hheld : s.heldRows s.me.core s.cur.owner = none := by
    obtain ⟨_, _, hf, _⟩ := he
    have := hf []
    rw [State.tileFree, Bool.and_eq_true, Bool.and_eq_true] at this
    exact Option.isNone_iff_eq_none.mp this.1.2
  have hp : s.rowsPending s.me.core s.cur.owner rows s.nextOp = false := by
    rw [State.rowsPending, EngineFree.idle he, hheld]
    rfl
  obtain ⟨k, hk⟩ := h.1
  have hkp : s.rowsPending s.me.core (Issuer.hart k).owner rows s.nextOp = false := hk ▸ hp
  simp [moveReady, hk, hw, hkp]

theorem rowOk_of {w : Word} (h4 : w.toNat % 4 = 0) (h128 : w.toNat < 128) : rowOk w = true := by
  rw [rowOk, h4, decide_eq_true h128]
  rfl

theorem tmov_next (h : VectorReady s) (he : EngineFree s) (h4 : (s.rs a).toNat % 4 = 0) (h128 : (s.rs a).toNat < 128) :
    execTmov d v a m s = .next (eachElement s (min s.vl (4 * (s.tile d).cols)) (s.tile d).bits m (fun u i =>
      u.setElem v.toNat i (s.tile d).bits
        ((s.tile d).cell ((s.rs a).toNat + i / (s.tile d).cols) (i % (s.tile d).cols)))).retire := by
  refine issue_ok (f := .seq) h.1 _ ?_
  simp only [run_bind, tileCheck_ok h he, run_get, shape_ok (rowOk_of h4 h128), moveReady_ok h he, elements_act, run_pure]
  rfl

theorem twr_next (h : VectorReady s) (he : EngineFree s) (h4 : (s.rs a).toNat % 4 = 0) (h128 : (s.rs a).toNat < 128) :
    execTwr d v a m s = .next (s.setTile d (((List.range (min s.vl (4 * (s.tile d).cols))).filter
      (fun i => s.maskBit m.toNat i (s.tile d).bits)).foldl
        (fun t i => t.setCell ((s.rs a).toNat + i / (s.tile d).cols) (i % (s.tile d).cols)
          (elemOf (s.me.vreg v.toNat) i (s.tile d).bits)) (s.tile d))).retire := by
  refine issue_ok (f := .seq) h.1 _ ?_
  simp only [run_bind, tileCheck_ok h he, run_get, shape_ok (rowOk_of h4 h128), tileReady_ok h he _ (n := s.tileNeeds d 0 none _) rfl rfl rfl,
    run_set, run_pure, vregOf_hart h.1]

end

/-! ## Drains and transposing loads (R223–R226) -/

section
variable {s : State} {d : BitVec 3} {b c v : Reg} {m r : MReg} {h : HReg} {q : Nat}

theorem cellsReady_ok (hv : VectorReady s) (names : VNames) (reads : List Nat) (whole : Bool) {n : Needs}
    (hp : s.performsNow n = true) : cellsReady names reads whole false n s = .ok () s := by
  have hw := lanesWait_ok hv names
  obtain ⟨k, hk⟩ := hv.1
  cases hd : names.deadTval.isSome <;> simp [cellsReady, tileNames_hart hv.1, hd, readyWhole, hk, hw, hp]

theorem cellsRefused_ok {es : List VElem} (hh : AllHere es) : cellsRefused es s = .ok () s := by
  rw [cellsRefused, refused_here hh]
  rfl

/-- A store of cells to places of this chip, with nothing in flight. -/
theorem cellStore_ok (hv : VectorReady s) (he : EngineFree s) (ho : s.ops = []) (hq : Handle s h q) (names : VNames) (reads : List Nat)
    (rows cs : State → List Nat) (addr : State → Nat → Nat → Word)
    (hh : AllHere (s.cellsAt .vstore ((s.tile d).bits / 8) (s.tile d).cols (rows s) (cs s) (addr s))) :
    cellStore d h names reads rows cs addr s = .ok .seq (((s.cellsAt .vstore ((s.tile d).bits / 8) (s.tile d).cols (rows s) (cs s)
      (addr s)).foldl (fun u e => match e.at_ with
        | .ok (.remote _ _ _ _) => u
        | .ok pl => u.storeAt pl ((s.tile d).bits / 8) ((s.tile d).cell (e.i / (s.tile d).cols) (e.i % (s.tile d).cols))
        | .error _ => u) s).setKstart 0) := by
  generalize hes : s.cellsAt .vstore ((s.tile d).bits / 8) (s.tile d).cols (rows s) (cs s) (addr s) = es at hh ⊢
  obtain ⟨hp, hc, ht, hb⟩ := elems_quiet ho hh (q := q) (n := (s.tile d).bits / 8) (cls := .tile)
  have hnow : s.performsNow { Needs.elems q .tile ((s.tile d).bits / 8) es with tile := true, cells := true } = true :=
    performsNow_tile he hp hc (ht ..) (hb ..)
  have hdest := destsOf_here hh (fun e => (s.tile d).cell (e.i / (s.tile d).cols) (e.i % (s.tile d).cols))
  simp only [cellStore, run_bind, seqOf_ok hv.1 hq, run_get, tileSeen_eq hv.1 he, hes, takeGood_here hh, firstFailing_here hh,
    Option.isNone_none, cellsReady_ok hv _ _ _ hnow, cellsRefused_ok hh, run_act, hdest, List.foldl_nil, cellsEnd, run_pure,
    List.foldl_map] <;> rfl

theorem tst_next (hv : VectorReady s) (he : EngineFree s) (ho : s.ops = []) (hq : Handle s h q)
    (hh : AllHere (s.cellsAt .vstore ((s.tile d).bits / 8) (s.tile d).cols (s.drainRows r) (List.range (s.tile d).cols)
      (fun i j => s.rs b + BitVec.ofNat 64 i * s.rs c + BitVec.ofNat 64 (j * ((s.tile d).bits / 8))))) :
    execTst d b c r h s = .next (((s.cellsAt .vstore ((s.tile d).bits / 8) (s.tile d).cols (s.drainRows r)
      (List.range (s.tile d).cols) (fun i j => s.rs b + BitVec.ofNat 64 i * s.rs c + BitVec.ofNat 64 (j * ((s.tile d).bits / 8)))).foldl
        (fun u e => match e.at_ with
        | .ok (.remote _ _ _ _) => u
        | .ok pl => u.storeAt pl ((s.tile d).bits / 8) ((s.tile d).cell (e.i / (s.tile d).cols) (e.i % (s.tile d).cols))
        | .error _ => u) s).setKstart 0).retire := by
  refine issue_ok (f := .seq) hv.1 _ ?_
  simp only [run_bind, tileCheck_ok hv he, run_get, tileSeen_eq hv.1 he]
  exact cellStore_ok hv he ho hq _ _ _ _ _ hh

theorem trd_next (hv : VectorReady s) (he : EngineFree s) (ho : s.ops = []) (hq : Handle s 0 q)
    (hh : AllHere (s.cellsAt .vstore ((s.tile d).bits / 8) (s.tile d).cols (s.drainRows r)
      ((List.range (s.tile d).cols).filter (s.lineOn m))
      (fun i j => s.rs b + BitVec.ofNat 64 (elemOf (s.me.vreg v.toNat) i 64) + BitVec.ofNat 64 (j * ((s.tile d).bits / 8))))) :
    execTrd d b v m r s = .next (((s.cellsAt .vstore ((s.tile d).bits / 8) (s.tile d).cols (s.drainRows r)
      ((List.range (s.tile d).cols).filter (s.lineOn m)) (fun i j =>
        s.rs b + BitVec.ofNat 64 (elemOf (s.me.vreg v.toNat) i 64) + BitVec.ofNat 64 (j * ((s.tile d).bits / 8)))).foldl
        (fun u e => match e.at_ with
        | .ok (.remote _ _ _ _) => u
        | .ok pl => u.storeAt pl ((s.tile d).bits / 8) ((s.tile d).cell (e.i / (s.tile d).cols) (e.i % (s.tile d).cols))
        | .error _ => u) s).setKstart 0).retire := by
  refine issue_ok (f := .seq) hv.1 _ ?_
  simp only [run_bind, tileCheck_ok hv he, run_get, tileSeen_eq hv.1 he]
  rw [← vregOf_hart hv.1] at hh ⊢
  exact cellStore_ok hv he ho hq _ _ _ _ _ hh

theorem tldt_next (hv : VectorReady s) (he : EngineFree s) (ho : s.ops = []) (hq : Handle s h q)
    (hh : AllHere (s.cellsAt .vload ((s.tile d).bits / 8) (s.tile d).cols ((List.range 128).filter (s.lineOn r))
      (List.range (min s.vl (s.tile d).cols))
      (fun i j => s.rs b + BitVec.ofNat 64 j * s.rs c + BitVec.ofNat 64 (i * ((s.tile d).bits / 8))))) :
    execTldt d b c r h s = .next ((s.setTile d ((s.cellsAt .vload ((s.tile d).bits / 8) (s.tile d).cols
      ((List.range 128).filter (s.lineOn r)) (List.range (min s.vl (s.tile d).cols))
      (fun i j => s.rs b + BitVec.ofNat 64 j * s.rs c + BitVec.ofNat 64 (i * ((s.tile d).bits / 8)))).foldl
        (fun t e => match e.at_ with
        | .ok (.remote _ _ _ _) => t
        | .ok pl => t.setCell (e.i / (s.tile d).cols) (e.i % (s.tile d).cols) (s.loadAt pl ((s.tile d).bits / 8))
        | .error _ => t.setCell (e.i / (s.tile d).cols) (e.i % (s.tile d).cols) 0) (s.tile d))).setKstart 0).retire := by
  refine issue_ok (f := .seq) hv.1 _ ?_
  generalize hes : s.cellsAt .vload ((s.tile d).bits / 8) (s.tile d).cols _ _ _ = es at hh ⊢
  obtain ⟨hp, hc, ht, hb⟩ := elems_quiet ho hh (q := q) (n := (s.tile d).bits / 8) (cls := .tile)
  have hnow : s.performsNow { Needs.elems q .tile ((s.tile d).bits / 8) es with
      tile := true, cells := true, rows := s.rowsOn d r } = true :=
    performsNow_tile he hp hc (ht ..) (hb ..)
  have hcopy : s.awaitsCopy ((s.tile d).bits / 8) es = false := by
    unfold State.awaitsCopy State.copyPending
    rw [ho]
    refine List.any_eq_false.mpr fun e _ => ?_
    split <;> exact Bool.false_ne_true
  have hdest := destsOf_here hh (fun _ => 0)
  simp only [run_bind, tileCheck_ok hv he, seqOf_ok hv.1 hq, run_get, tileSeen_eq hv.1 he]
  rw [show Nat.min s.vl (s.tile d).cols = min s.vl (s.tile d).cols from rfl, hes]
  simp only [takeGood_here hh, firstFailing_here hh, Option.isNone_none, hcopy, cellsReady_ok hv _ _ _ hnow, cellsRefused_ok hh, run_act,
    hdest, List.foldl_nil, cellsEnd, run_bind, run_pure] <;> rfl

end

end Sys2Proof.Machine
end

section
/-! SUPPORT. The statements settled: tiles scaled, zeroed, moved, drained and loaded -/

namespace Sys2Proof.Proofs

open Sys2Proof.Machine

/-- Settles O39: each instruction passes its checks on a free engine, and an access whose cells all lie here is performed as it issues. -/
theorem tileCells : Obligations.TileCells := by
  unfold Obligations.TileCells
  refine ⟨fun d p a b q v o c r m s h he => ⟨scacc_next h he, fun _ => tzero_next h he, fun h4 h128 =>
    ⟨tmov_next h he h4 h128, twr_next h he h4 h128⟩⟩, fun d b c v m r h q s hv he ho hq => ⟨fun hh => ?_, fun hh h0 => ?_, fun hh => ?_⟩⟩
  · exact tst_next hv he ho hq hh
  · subst h0
    exact trd_next hv he ho hq hh
  · exact tldt_next hv he ho hq hh

end Sys2Proof.Proofs
end

section
/-! SUPPORT. streamed products -/

namespace Sys2Proof.Machine

/-! ## Streamed products whose blocks are all there (R214–R217) -/

section
variable {s u : State} {d : BitVec 3} {v a b : Reg} {r : MReg} {bd : Binding} {f : MmsForm}

/-- One step: the binding goes past the step's block, and the tile takes its products. -/
def mmsStep (s : State) (d : BitVec 3) (r : MReg) (bd : Binding) (f : MmsForm) (m x0 y0 : Nat) (u : State) (st : Nat) : State :=
  (u.setBind (bd.past f.bytes (st + 1))).setTile d ((u.tile d).update (s.lineOn r) (fun _ _ => true)
    (s.mmsCell f s.core.key m x0 y0 st (s.peek (bd.past f.bytes st) f.bytes)))

theorem Binding.past_zero (c : Binding) (k : Nat) : c.past k 0 = c := by
  rw [Binding.past, Nat.zero_mul, Nat.add_zero, List.drop_zero]

/-- What the steps leave of what they read: all but the binding's position and the tile's cells. -/
structure StepsFrom (s u : State) (v : Reg) (c : Binding) : Prop where
  cur : u.cur = s.cur
  mem : u.mem = s.mem
  ops : u.ops = s.ops
  groups : u.groups = s.groups
  ctxs : u.ctxs = s.ctxs
  dies : u.dies = s.dies
  core : u.me.core = s.me.core
  masks : ∀ n, u.me.mreg n = s.me.mreg n
  cores : ∃ x, u.core = { s.core with tile := x }
  binds : u.bindOf v.toNat = some c

theorem StepsFrom.refl (h : s.bindOf v.toNat = some bd) : StepsFrom s s v bd :=
  ⟨rfl, rfl, rfl, rfl, rfl, rfl, rfl, fun _ => rfl, ⟨_, rfl⟩, h⟩

theorem StepsFrom.avail {c : Binding} (h : StepsFrom s u v c) (x : Binding) (n : Nat) :
    u.avail x n = s.avail x n ∧ u.peek x n = s.peek x n := by
  obtain ⟨x', hx⟩ := h.cores
  exact avail_congr h.cur h.mem (fun q => by rw [← State.core, hx]; rfl) h.groups h.ctxs h.dies x n

theorem StepsFrom.lineOn {c : Binding} (hh : ByHart s) (h : StepsFrom s u v c) : u.lineOn r = s.lineOn r := by
  obtain ⟨k, hk⟩ := hh
  funext i
  simp only [State.lineOn, State.mregOf, h.cur, hk, h.masks]

theorem StepsFrom.mmsCell {c : Binding} (h : StepsFrom s u v c) (key : Word) (m x0 y0 st blk : Nat) :
    u.mmsCell f key m x0 y0 st blk = s.mmsCell f key m x0 y0 st blk := by
  have hs : ∀ row col, u.slice row col = s.slice row col := fun row col => by rw [State.slice, State.slice, h.mem, h.core]
  obtain ⟨x, hx⟩ := h.cores
  funext i j cell
  simp only [State.mmsCell, hs, State.sparseCode, State.sparseValue, hx]

theorem vset_of_bindOf {n : Nat} (h : s.bindOf n = some bd) : s.me.vset.isSome = true := by
  rw [State.bindOf, binds_eq, bindsIn] at h
  cases hs : s.me.vset with
  | none => simp [hs] at h
  | some _ => rfl

/-- A binding replaced is what its register then has. -/
theorem bindOf_setBind {c : Binding} (hb : s.bindOf v.toNat = some bd) (hc : c.reg = bd.reg) :
    (s.setBind c).bindOf v.toNat = some c := by
  obtain ⟨w, hw, he⟩ := setBind_hart (vset_of_bindOf hb) c
  have hr : bd.reg = v.toNat := by simpa using List.find?_some hb
  have hmap : ∀ l : List Binding, l.find? (fun x => x.reg = v.toNat) = some bd →
      (l.map (fun x => if x.reg = c.reg then c else x)).find? (fun x => x.reg = v.toNat) = some c := by
    intro l hl
    induction l with
    | nil => simp at hl
    | cons x xs ih =>
      by_cases hx : x.reg = v.toNat
      · simp [hx, hc, hr]
      · have hx' : x.reg ≠ c.reg := by rw [hc, hr]; exact hx
        rw [List.find?_cons_of_neg (by simpa using hx)] at hl
        rw [List.map_cons, if_neg hx', List.find?_cons_of_neg (by simpa using hx), ih hl]
  rw [State.bindOf, binds_eq, hw] at hb
  rw [he, State.bindOf, binds_setMe, bindsIn]
  exact hmap _ hb

theorem StepsFrom.step {c : Binding} (h : StepsFrom s u v c) {c' : Binding} (hc : c'.reg = c.reg) (x : Tile) :
    StepsFrom s ((u.setBind c').setTile d x) v c' := by
  obtain ⟨w, hw, he⟩ := setBind_hart (vset_of_bindOf h.binds) c'
  have hm : ∀ n, (u.setBind c').me.mreg n = s.me.mreg n := fun n => by
    rw [he, State.me_setMe, ← h.masks, Hart.mreg, Hart.mreg, hw]
  have hk : (u.setBind c').me.core = s.me.core := by rw [he, State.me_setMe]; exact h.core
  obtain ⟨y, hy⟩ := h.cores
  refine ⟨?_, ?_, ?_, ?_, ?_, ?_, hk, hm, ?_, ?_⟩
  · rw [he]; exact h.cur
  · rw [he]; exact h.mem
  · rw [he]; exact h.ops
  · rw [he]; exact h.groups
  · rw [he]; exact h.ctxs
  · rw [he]; exact h.dies
  · refine ⟨{ y with tiles := vecSet y.tiles d.toNat x }, ?_⟩
    have hcore : (u.setBind c').coreAt (u.setBind c').me.core = { s.core with tile := y } := by
      rw [hk, ← h.core, ← hy, he]
      rfl
    refine (State.coreAt_setCoreAt _ _ _).trans ?_
    rw [hcore]
  · exact bindOf_setBind h.binds hc

/-- A block that is there needs no more of its pattern. -/
theorem preload_ready {c : Binding} {n : Nat} (h : u.avail c n = .ready) : u.preload c 1 n = (u, true) := by
  unfold State.preload
  refine if_pos ?_
  by_cases hk : c.kind = .patRead
  · by_cases hb : u.bindBroken c = true
    · exact .inr (.inl hb)
    · right; right
      unfold State.avail at h
      rw [if_neg hb, hk] at h
      dsimp only at h
      split at h
      · cases h
      · split at h
        · cases h
        · have : c.patternBytes 1 n ≤ 1 * n := Nat.mul_le_mul_right n (Nat.min_le_left _ _)
          omega
  · exact .inl hk

/-- A step whose block is there is `mmsStep`. -/
theorem mmsSteps_ready (hh : ByHart s) (hops : s.ops = []) (key : Word) (hkey : key = s.core.key) (m x0 y0 : Nat) (n : Nat) :
    ∀ st u, StepsFrom s u v (bd.past f.bytes st) → (∀ i < n, s.avail (bd.past f.bytes (st + i)) f.bytes = .ready) →
      mmsSteps f d v r key m x0 y0 n st u = .ok () ((List.range' st n).foldl (mmsStep s d r bd f m x0 y0) u) := by
  induction n with
  | zero => exact fun _ _ _ _ => rfl
  | succ n ih =>
    intro st u h ha
    have hosld : u.osldPending (x0 + st * f.h) f.h = false := by rw [State.osldPending, h.ops, hops, List.any_nil]
    have hready : u.avail (bd.past f.bytes st) f.bytes = .ready := by rw [(h.avail _ _).1]; exact ha 0 (by omega)
    have hpre := preload_ready hready
    have hstep : mmsStep s d r bd f m x0 y0 u st = (u.setBind { bd.past f.bytes st with
        pos := (bd.past f.bytes st).pos + f.bytes, part := (bd.past f.bytes st).part.drop f.bytes }).setTile d
        ((u.tile d).update (u.lineOn r) (fun _ _ => true) (u.mmsCell f key m x0 y0 st (u.peek (bd.past f.bytes st) f.bytes))) := by
      rw [mmsStep, ← Binding.past_succ, h.lineOn hh, h.mmsCell, (h.avail _ _).2, hkey]
    have hnext : StepsFrom s (mmsStep s d r bd f m x0 y0 u st) v (bd.past f.bytes (st + 1)) :=
      h.step (c' := bd.past f.bytes (st + 1)) rfl _
    rw [List.range'_succ, List.foldl_cons, ← ih (st + 1) _ hnext fun i hi => by
      rw [Nat.add_assoc, Nat.add_comm 1]; exact ha _ (by omega)]
    rw [hstep]
    simp only [mmsSteps, run_bind, run_get, hosld, Bool.false_eq_true, if_false, h.binds, Option.map_some, hpre, Option.getD_some, run_set, if_true,
      hready]

/-- What the checks of a streamed product give when they pass. -/
theorem lanesFree_of_vnamed (hh : ByHart s) {x : VNames} (hn : vnamed x s = .ok () s) :
    vchecks x s = .ok () s ∧ s.lanesWait x = false ∧ s.me.lanes = [] := by
  obtain ⟨k, hk⟩ := hh
  have hv : vchecks x s = .ok () s := by
    cases h : vchecks x s with
    | error e t =>
      rw [vnamed, run_bind, h] at hn
      cases hn
    | ok y t =>
      have : t = s := by
        simp only [vchecks, run_bind, run_get, hk] at h
        split at h
        · cases hd : x.deadTval <;> rw [hd] at h <;> cases h
        · cases hm : s.misused x <;> rw [hm] at h
          · dsimp only at h
            split at h <;> cases h
            rfl
          · cases h
      rw [this]
  have hw : s.lanesWait x = false := by
    rw [vnamed, run_bind, hv] at hn
    simp only [run_bind, run_get] at hn
    split at hn
    · cases hn
    · exact Bool.eq_false_iff.mpr ‹_›
  refine ⟨hv, hw, ?_⟩
  simp only [State.lanesWait, hk, State.lanesHold, Bool.or_eq_false_iff, State.lanesBusy] at hw
  obtain ⟨_, ⟨⟨hl, _⟩, _⟩, _⟩ := hw
  rw [State.me, hk]
  exact List.isEmpty_iff.mp (Bool.not_eq_false' .. |>.mp hl)

theorem bindsSettled_idle (hops : s.ops = []) (rs : List Reg) : bindsSettled rs s = .ok () s := by
  have hp : ∀ q, s.predsAt s.me.core q = [] := fun q => by
    refine List.filter_eq_nil_iff.mpr fun id _ => ?_
    rw [State.alive, hops, List.any_nil]
    exact Bool.false_ne_true
  have hr : (!s.cur.buffered && rs.any (fun r => match s.bindOf r.toNat with
      | some b => (b.kind == .read || b.kind == .patRead) && s.heldUp s.cur.owner b.seq (s.predsAt s.me.core b.seq)
      | none => false)) = false := by
    refine Bool.and_eq_false_iff.mpr (.inr (List.any_eq_false.mpr fun r _ => ?_))
    split
    · rw [hp, State.heldUp, List.any_nil, Bool.and_false]
      exact Bool.false_ne_true
    · exact Bool.false_ne_true
  simp only [bindsSettled, run_bind, run_get]
  rw [if_neg]
  · rfl
  · rw [Bool.not_eq_true]
    exact hr

theorem setHeldKey_none {k : HartId} (hk : s.cur = .hart k) (hkey : s.me.mmspKey = none) :
    (s.setKstart 0).setHeldKey none = s.setKstart 0 := by
  simp only [State.setKstart, State.setHeldKey, hk, State.setMe_cur, State.me_setMe, State.setMe_setMe]
  rw [← hkey]

theorem mms_next (hh : ByHart s) (he : EngineFree s) (hops : s.ops = []) (hnone : s.steps = none)
    (hn : vnamed ⟨[a, b], [v], [], [], [r]⟩ s = .ok () s) (hb : s.bindOf v.toNat = some bd) (hks : s.me.kstart = 0) (hkey : s.me.mmspKey = none)
    (hc : (s.tile d).c64 = false) (hshape : mmsShape f (s.rs a) (s.rs b) = true)
    (hcode : f.kind = .sparse → s.illegalCode (bitsOf (s.rs a) 32 14) 0 (bitsOf (s.rs b) 0 15) = none)
    (ha : ∀ st < bitsOf (s.rs b) 0 15, s.avail (bd.past f.bytes st) f.bytes = .ready) :
    mms f d v a b r s = .next ((((List.range (bitsOf (s.rs b) 0 15)).foldl
      (mmsStep s d r bd f (bitsOf (s.rs b) 32 32) (bitsOf (s.rs a) 0 14) (bitsOf (s.rs a) 32 14)) s).setKstart 0).setHeldKey none).retire := by
  obtain ⟨hvc, hlw, hl⟩ := lanesFree_of_vnamed hh hn
  obtain ⟨k, hk⟩ := hh
  have hh : ByHart s := ⟨k, hk⟩
  have hvl : s.vlPending = false := he.2.2.2.2
  have hcheck : tileCheck ⟨[a, b], [v], [], [], [r]⟩ s = .ok () s := by
    have hd : (VNames.deadTval ⟨[a, b], [v], [], [], [r]⟩).isSome = true := rfl
    simp only [tileCheck, run_bind, ownsEngine_free he, run_get, tileNames_hart hh, hd, if_true, hvc, vscalars_ok hl, hvl,
      Bool.false_eq_true, if_false, run_pure]
  have hw : s.tileWaits ⟨[a, b], [v], [], [], [r]⟩ = false := by
    rw [State.tileWaits, tileNames_hart hh, hlw, Bool.and_false]
  have hheld : s.heldKey = none := by
    rw [State.heldKey, hk]
    exact hkey
  have hfree : (s.heldKey.isNone && !s.tileFree (s.rowsOn d r)) = false := by rw [he.2.2.1, Bool.not_true, Bool.and_false]
  have hkst : s.kstart = 0 := by
    rw [State.kstart, hk]
    dsimp only
    rw [hks]
    rfl
  have hsh : (mmsShape f (s.rs a) (s.rs b) && !(s.tileSeen d).c64) = true := by
    rw [tileSeen_eq hh he, hc, hshape]
    rfl
  have htest : tileCheck ⟨[a, b], [v], [], [], [r]⟩ s = .ok () s ∧ shape (mmsShape f (s.rs a) (s.rs b) && !(s.tileSeen d).c64) s = .ok () s :=
    ⟨hcheck, shape_ok hsh⟩
  have hsteps := mmsSteps_ready (r := r) (d := d) hh hops s.core.key rfl (bitsOf (s.rs b) 32 32) (bitsOf (s.rs a) 0 14) (bitsOf (s.rs a) 32 14)
    (bitsOf (s.rs b) 0 15) 0 s (by rw [Binding.past_zero]; exact StepsFrom.refl hb)
    (by simpa using ha)
  refine issue_ok (f := .seq) hh _ ?_
  simp only [run_bind, htest, run_get, hw, Bool.false_eq_true, if_false, hb, Option.isNone_some, bindsSettled_idle hops, hfree, hkst]
  by_cases hk0 : bitsOf (s.rs b) 0 15 = 0
  · rw [if_pos (Nat.le_of_eq hk0), hk0]
    have hset : (s.setKstart 0).setHeldKey none = s.setKstart 0 := setHeldKey_none hk hkey
    simp only [run_bind, run_set, run_pure, List.range_zero, List.foldl_nil, hset]
  · have hn : Nat.min (bitsOf (s.rs b) 0 15) (bitsOf (s.rs b) 0 15) = bitsOf (s.rs b) 0 15 := Nat.min_self _
    rw [List.range_eq_range']
    rw [if_neg (by omega)]
    by_cases hsp : f.kind = .sparse
    · have hosld : ∀ x y, s.osldPending x y = false := fun x y => by rw [State.osldPending, hops, List.any_nil]
      simp only [hsp, hheld, Option.isNone_none, and_self, if_true, hosld, Bool.false_eq_true, if_false, Nat.sub_zero, hcode hsp,
        hnone, Option.getD_none, hn,
        Option.map_none, run_bind, hsteps, Nat.lt_irrefl, run_act, run_pure]
    · simp only [hsp, false_and, if_false, Nat.sub_zero, hnone, Option.getD_none, hn, hheld, Option.map_none, run_bind, hsteps, Nat.lt_irrefl,
        run_act, run_pure]

end

end Sys2Proof.Machine
end

section
/-! SUPPORT. The statements settled: streamed products -/

namespace Sys2Proof.Proofs

open Sys2Proof.Machine

/-- Settles O38: each streamed product is `mms` of its form, whose loop over ready blocks is the fold of `mmsStep`. -/
theorem streamedProducts : Obligations.StreamedProducts := by
  unfold Obligations.StreamedProducts
  intro d v a b r bd s i f hh he hops hsteps hn hb hks hkey hc hshape
  dsimp only
  intro hi hcode ha
  have hm := mms_next hh he hops hsteps hn hb hks hkey hc hshape hcode ha
  simp only [List.mem_cons, Prod.mk.injEq, List.not_mem_nil, or_false] at hi
  rcases hi with ⟨rfl, rfl⟩ | ⟨rfl, rfl⟩ | ⟨rfl, rfl⟩ | ⟨rfl, rfl⟩ | ⟨rfl, rfl⟩ | ⟨rfl, rfl⟩ | ⟨rfl, rfl⟩ | ⟨rfl, rfl⟩ <;> exact hm

end Sys2Proof.Proofs
end

section
/-! SUPPORT. vector memory -/

namespace Sys2Proof.Machine

/-! ## Vector loads and stores whose elements all lie on this chip (R134–R138) -/

section
variable {s : State} {d b c x : Reg} {m : MReg} {h : HReg} {q : Nat} {es : List VElem}

theorem performed_here (hh : AllHere es) : performed es = es := by
  rw [performed, firstFailing_here hh, takeGood_here hh]

theorem performsNow_quiet {n : Needs} (hl : s.late = false) (hp : s.precede n = []) (hc : n.chips = [])
    (ht : s.touching s.cur.owner n.touch s.nextOp = false) (hb : s.behind s.cur.owner n = false) (hn : n.tile = false) :
    s.performsNow n = true := by
  simp [State.performsNow, hl, hp, follows_nil _ hc, ht, hb, hn]

theorem readyWhole_here (hv : VectorReady s) (ho : s.ops = []) (hl : s.late = false) (hh : AllHere es) (names : VNames) (reads : List Nat)
    (whole : Bool) {n : Nat} {cls : OpClass} {dest : Option Reg} {zero : Nat × List Nat} :
    readyWhole names reads whole false { Needs.elems q cls n es with vdest := dest, vec := true, zero := zero } s = .ok () s := by
  obtain ⟨hp, hc, ht, hb⟩ := elems_quiet ho hh (q := q) (n := n) (cls := cls)
  have hnow := performsNow_quiet (n := { Needs.elems q cls n es with vdest := dest, vec := true, zero := zero }) hl hp hc (ht ..) (hb ..) rfl
  have hw := lanesWait_ok hv names
  obtain ⟨k, hk⟩ := hv.1
  simp only [readyWhole, run_bind, run_get, hk, hw, Bool.false_eq_true, if_false, Bool.not_false, Bool.true_and, hnow, if_true, run_pure]

theorem awaitsCopy_idle (ho : s.ops = []) (n : Nat) : s.awaitsCopy n es = false := by
  unfold State.awaitsCopy State.copyPending
  rw [ho]
  refine List.any_eq_false.mpr fun e _ => ?_
  split <;> exact Bool.false_ne_true

theorem reportRefused_here (hh : AllHere es) : reportRefused es s = .ok () s := by
  rw [reportRefused, refused_here hh]
  rfl

/-- What a VLDFF leaves in ffe and vl (R137). -/
def State.firstFault (s : State) : Option (VElem × PtrFault) → State
  | some (e, f) => s.setMe { s.me with ffe := ffeOf f.cause e.i, vl := BitVec.ofNat 13 e.i }
  | none => s.setMe { s.me with ffe := 0 }

/-- A load that takes elements here alone loads each, whatever has cut a VLDFF short. -/
theorem vload_cut (hv : VectorReady s) (hq : Handle s h q) (ho : s.ops = []) (hl : s.late = false) {ff : Bool} {names : VNames}
    {reads : List Nat} {n : State → Nat} {noE4 : Bool} {addr : State → Nat → Word} {shape : State → Option ReqShape}
    (h4 : noE4 = true → s.vsew ≠ 4) {stop : Option (VElem × PtrFault)}
    (hcut : (if ff = true then ffSplit (s.velems .vload s.elemBytes (n s) m (addr s)) else (s.velems .vload s.elemBytes (n s) m (addr s), none)) =
      (es, stop)) (hh : AllHere es) :
    vload ff d names reads m h n noE4 addr shape s =
      .next ((if ff = true then (es.foldl (State.loadElem d) s).firstFault stop else es.foldl (State.loadElem d) s).setVstart 0).retire := by
  refine issue_ok (f := .seq) hv.1 _ ?_
  have hill : (noE4 && decide (s.vsew = 4)) = false := by
    cases noE4 with
    | false => rfl
    | true => simpa using h4 rfl
  have hff : (ff && s.firstFaulting) = false := by
    rw [State.firstFaulting, ho, List.any_nil, Bool.and_false]
  have hdest : destsOf (es.map (fun e => (e, 0))) = [] := destsOf_here hh (fun _ => 0)
  simp only [run_bind, run_get, hff, Bool.false_eq_true, if_false, vchecks_ok hv, vscalars_ok hv.2.2.2.2.2.2.2.1, hill,
    seqOf_ok hv.1 hq, hcut, performed_here hh, firstFailing_here hh, awaitsCopy_idle ho, readyWhole_here hv ho hl hh, reportRefused_here hh, run_act,
    hdest, List.isEmpty_nil, Bool.not_true, Bool.and_false, List.foldl_nil, if_true, Option.isNone_none, Bool.and_true, failAt]
  cases ff with
  | false => rfl
  | true => cases stop <;> rfl

theorem vload_here (hv : VectorReady s) (hq : Handle s h q) (ho : s.ops = []) (hl : s.late = false) {names : VNames} {reads : List Nat}
    {n : State → Nat} {noE4 : Bool} {addr : State → Nat → Word} {shape : State → Option ReqShape} (h4 : noE4 = true → s.vsew ≠ 4)
    (hh : AllHere (s.velems .vload s.elemBytes (n s) m (addr s))) :
    vload false d names reads m h n noE4 addr shape s =
      .next (((s.velems .vload s.elemBytes (n s) m (addr s)).foldl (State.loadElem d) s).setVstart 0).retire :=
  vload_cut hv hq ho hl h4 rfl hh

/-- What stops a VLDFF at an element after its first (R137). -/
def VElem.stop (e : VElem) : Option (VElem × PtrFault) :=
  match e.at_ with
  | .error f => some (e, f)
  | .ok _ => none

theorem ffSplit_eq (es : List VElem) : ffSplit es = match es.tail.findSome? VElem.stop with
    | some (e, f) => (es.takeWhile (fun x => decide (x.i < e.i)), some (e, f))
    | none => (es, none) := by
  have h : VElem.stop = fun e => (match e.at_ with
      | .error f => some f
      | .ok _ => none : Option PtrFault).map (fun f => (e, f)) := by
    funext e
    rw [VElem.stop]
    cases e.at_ <;> rfl
  rw [h]
  rfl

theorem stop_here (hh : AllHere es) : es.tail.findSome? VElem.stop = none := by
  refine List.findSome?_eq_none_iff.mpr fun e he => ?_
  obtain ⟨pl, hp, _⟩ := hh e (List.mem_of_mem_tail he)
  rw [VElem.stop, hp]

/-- A VLDFF whose elements are all here is not cut short. -/
theorem ffSplit_here (hh : AllHere es) : ffSplit es = (es, none) := by
  rw [ffSplit_eq, stop_here hh]

/-- The first element after an access's first that fails cuts a VLDFF there. -/
theorem ffSplit_cut {first rest : List VElem} {e : VElem} {f : PtrFault} (hi : (first ++ e :: rest).Pairwise (fun x y => x.i < y.i))
    (hne : first ≠ []) (hh : AllHere first) (he : e.at_ = .error f) : ffSplit (first ++ e :: rest) = (first, some (e, f)) := by
  have hs : (first ++ e :: rest).tail.findSome? VElem.stop = some (e, f) := by
    have hstop : e.stop = some (e, f) := by rw [VElem.stop, he]
    rw [List.tail_append_of_ne_nil hne, List.findSome?_append, stop_here hh, List.findSome?_cons, hstop]
    rfl
  have ht : (first ++ e :: rest).takeWhile (fun x => decide (x.i < e.i)) = first := by
    obtain ⟨_, _, hlt⟩ := List.pairwise_append.mp hi
    rw [List.takeWhile_append_of_pos fun x hx => decide_eq_true (hlt x hx e (List.mem_cons_self ..)), List.takeWhile_cons_of_neg,
      List.append_nil]
    simp
  rw [ffSplit_eq, hs]
  exact Prod.ext ht rfl

/-- Elements come in rising order. -/
theorem velems_rising (acc : Access) (nb n : Nat) (addr : Nat → Word) : (s.velems acc nb n m addr).Pairwise (fun x y => x.i < y.i) := by
  rw [State.velems, List.pairwise_map]
  exact List.pairwise_lt_range.filter _

theorem destsOf_nil {ps : List (VElem × Nat)} (hp : ∀ p ∈ ps, p.1.dest? = none) : destsOf ps = [] := by
  rw [destsOf]
  refine List.foldlRecOn (motive := (· = [])) ps _ rfl fun acc hacc p hm => ?_
  rw [hp p hm]
  exact hacc

theorem mem_mergeAdds {w : Nat} {l : List (VElem × Nat)} : ∀ p ∈ mergeAdds w l, ∃ p' ∈ l, p'.1 = p.1 := by
  have hgen : ∀ (k acc : List (VElem × Nat)), (∀ p ∈ acc, ∃ p' ∈ l, p'.1 = p.1) → (∀ p ∈ k, p ∈ l) →
      ∀ p ∈ k.foldl (fun acc e => if acc.any (fun a => a.1.p = e.1.p) then
        acc.map (fun a => if a.1.p = e.1.p then (a.1, (a.2 + e.2) % 2 ^ w) else a) else acc ++ [e]) acc, ∃ p' ∈ l, p'.1 = p.1 := by
    intro k
    induction k with
    | nil => exact fun acc ha _ => ha
    | cons e k ih =>
      intro acc ha hk
      rw [List.foldl_cons]
      refine ih _ ?_ fun p hp => hk p (List.mem_cons_of_mem _ hp)
      split
      · intro p hp
        obtain ⟨a, hma, rfl⟩ := List.mem_map.mp hp
        obtain ⟨p', hp', he⟩ := ha a hma
        refine ⟨p', hp', he.trans ?_⟩
        split <;> rfl
      · intro p hp
        rcases List.mem_append.mp hp with hp | hp
        · exact ha p hp
        · rw [List.mem_singleton.mp hp]
          exact ⟨e, hk e (List.mem_cons_self ..), rfl⟩
  unfold mergeAdds
  split
  · exact fun p hp => absurd hp List.not_mem_nil
  · exact hgen l [] (fun p hp => absurd hp List.not_mem_nil) fun p hp => hp

theorem vstore_here (hv : VectorReady s) (hq : Handle s h q) (ho : s.ops = []) (hl : s.late = false) {form : VForm} {names : VNames}
    {reads : List Nat} {n : State → Nat} {noE4 : Bool} {addr : State → Nat → Word} {shape : State → Option ReqShape}
    (h4 : noE4 = true → s.vsew ≠ 4) (h32 : form = .add → 32 ≤ s.vsew)
    (hh : AllHere (s.velems form.access s.elemBytes (n s) m (addr s))) {ps : List (VElem × Nat)}
    (hps : (if form = .add then mergeAdds s.vsew ((s.velems form.access s.elemBytes (n s) m (addr s)).map (fun e => (e, s.elem d.toNat e.i s.vsew)))
      else (s.velems form.access s.elemBytes (n s) m (addr s)).map (fun e => (e, s.elem d.toNat e.i s.vsew))) = ps) :
    vstore form d names reads m h n noE4 addr shape s = .next ((ps.foldl (State.storeElem (form == .add)) s).setVstart 0).retire := by
  refine issue_ok (f := .seq) hv.1 _ ?_
  generalize hes : s.velems form.access s.elemBytes (n s) m (addr s) = es at hh hps
  have hill : (noE4 && decide (s.vsew = 4) || (form == .add && decide (s.vsew < 32))) = false := by
    rw [Bool.or_eq_false_iff, Bool.and_eq_false_iff, Bool.and_eq_false_iff, decide_eq_false_iff_not, decide_eq_false_iff_not]
    refine ⟨?_, ?_⟩
    · cases noE4 with
      | false => exact .inl rfl
      | true => exact .inr (h4 rfl)
    · by_cases ha : form = .add
      · exact .inr (Nat.not_lt.mpr (h32 ha))
      · exact .inl (beq_eq_false_iff_ne.mpr ha)
  have hdest : destsOf ps = [] := by
    have hmap : ∀ p ∈ es.map (fun e => (e, s.elem d.toNat e.i s.vsew)), p.1.dest? = none := by
      intro p hp
      obtain ⟨e, he, rfl⟩ := List.mem_map.mp hp
      obtain ⟨pl, hpl, hr⟩ := hh e he
      rw [VElem.dest?, hpl]
      cases pl with
      | remote chip die core off => exact absurd rfl (hr chip die core off)
      | _ => rfl
    refine destsOf_nil fun p hp => ?_
    rw [← hps] at hp
    split at hp
    · obtain ⟨p', hp', he⟩ := mem_mergeAdds p hp
      rw [← he]
      exact hmap p' hp'
    · exact hmap p hp
  simp only [run_bind, run_get, Bool.false_eq_true, if_false, vchecks_ok hv, vscalars_ok hv.2.2.2.2.2.2.2.1, hill,
    seqOf_ok hv.1 hq, hes, performed_here hh, firstFailing_here hh, readyWhole_here hv ho hl hh, reportRefused_here hh, run_act, hps,
    hdest, List.foldl_nil, failAt]
  rfl

theorem vst_here (hv : VectorReady s) (hq : Handle s h q) (ho : s.ops = []) (hl : s.late = false) {names : VNames}
    {reads : List Nat} {n : State → Nat} {noE4 : Bool} {addr : State → Nat → Word} {shape : State → Option ReqShape}
    (h4 : noE4 = true → s.vsew ≠ 4) (hh : AllHere (s.velems .vstore s.elemBytes (n s) m (addr s))) :
    vstore .store d names reads m h n noE4 addr shape s =
      .next ((((s.velems .vstore s.elemBytes (n s) m (addr s)).map (fun e => (e, s.elem d.toNat e.i s.vsew))).foldl
        (State.storeElem false) s).setVstart 0).retire :=
  vstore_here (form := .store) (n := n) (addr := addr) hv hq ho hl h4 nofun hh rfl

/-- What a store of elements here leaves: the bytes outside its places, and its hart (R135). -/
structure StoredAt (s t : State) (out : Nat → Prop) : Prop where
  wf : Memory.wf t.mem = true
  me : t.me = s.me
  cur : t.cur = s.cur
  read : ∀ k, out k → Memory.read t.mem k = Memory.read s.mem k

/-- The bytes that no element of a store covers. -/
def Outside (n : Nat) (es : List VElem) (k : Nat) : Prop := ∀ e ∈ es, ∀ pl, e.at_ = .ok pl → k < pl.key ∨ pl.key + n ≤ k

theorem wf_storeAt (hs : Memory.wf s.mem = true) (pl : Place) (n v : Nat) : Memory.wf (s.storeAt pl n v).mem = true := by
  cases pl with
  | ls c o => exact Memory.wf_writeBytes hs _ _
  | os c o => exact Memory.wf_writeBytes hs _ _
  | sem | iter | rout | remote => exact hs

theorem storedAt_storeAt (hs : Memory.wf s.mem = true) (pl : Place) (n v : Nat) :
    StoredAt s (s.storeAt pl n v) (fun k => k < pl.key ∨ pl.key + n ≤ k) where
  wf := wf_storeAt hs pl n v
  me := State.storeAt_me ..
  cur := State.storeAt_cur ..
  read := fun _ hk => read_storeAt _ _ _ hs hk

theorem storedAt_storeElem (hs : Memory.wf s.mem = true) (p : VElem × Nat) :
    StoredAt s (s.storeElem false p) (Outside s.elemBytes [p.1]) := by
  have hrefl : StoredAt s s (Outside s.elemBytes [p.1]) := ⟨hs, rfl, rfl, fun _ _ => rfl⟩
  unfold State.storeElem
  split
  · exact hrefl
  · rename_i pl _ hpl
    rw [State.storeVec]
    have hb := storedAt_storeAt hs pl
    have ho : ∀ k, Outside s.elemBytes [p.1] k → k < pl.key ∨ pl.key + s.elemBytes ≤ k := fun k hk =>
      hk p.1 (List.mem_singleton.mpr rfl) pl hpl
    unfold State.elemBytes at ho
    split
    · rename_i h4
      obtain ⟨hw, hm, hc, hr⟩ := hb 1 _
      exact ⟨hw, hm, hc, fun k hk => hr k (by simpa [h4] using ho k hk)⟩
    · rename_i h4
      obtain ⟨hw, hm, hc, hr⟩ := hb (s.vsew / 8) _
      exact ⟨hw, hm, hc, fun k hk => hr k (by simpa [h4] using ho k hk)⟩
  · exact hrefl

theorem vsew_congr {t : State} (hm : t.me = s.me) (hh : ByHart s) (hc : t.cur = s.cur) : t.vsew = s.vsew := by
  obtain ⟨k, hk⟩ := hh
  simp only [State.vsew, hc, hk, hm]

theorem storedAt_foldl (hh : ByHart s) (ps : List (VElem × Nat)) : ∀ t, Memory.wf t.mem = true → t.me = s.me → t.cur = s.cur →
    StoredAt t (ps.foldl (State.storeElem false) t) (Outside s.elemBytes (ps.map Prod.fst)) := by
  induction ps with
  | nil => exact fun t ht _ _ => ⟨ht, rfl, rfl, fun _ _ => rfl⟩
  | cons p ps ih =>
    intro t ht hm hc
    have hn : t.elemBytes = s.elemBytes := by rw [State.elemBytes, State.elemBytes, vsew_congr hm hh hc]
    obtain ⟨hw, hm1, hc1, hr⟩ := storedAt_storeElem ht p
    rw [hn] at hr
    obtain ⟨hw2, hm2, hc2, hr2⟩ := ih _ hw (hm1.trans hm) (hc1.trans hc)
    rw [List.foldl_cons, List.map_cons]
    refine ⟨hw2, hm2.trans hm1, hc2.trans hc1, fun k hk => ?_⟩
    rw [hr2 k fun e he => hk e (List.mem_cons_of_mem _ he)]
    exact hr k fun e he => hk e (by rw [List.mem_singleton.mp he]; exact List.mem_cons_self ..)

end

end Sys2Proof.Machine
end

section
/-! SUPPORT. The statements settled: vector memory -/

namespace Sys2Proof.Proofs

open Sys2Proof.Machine

/-- Settles O30: with every element here and nothing in flight, an access is the fold over its elements. -/
theorem vectorMemory : Obligations.VectorMemory := by
  unfold Obligations.VectorMemory
  refine ⟨fun d b c x m h q s hv hq ho hl => ?_, fun d b c x m h q s hv hq ho hl => ?_, fun d b m h q s t hs hv hq ho hl => ?_⟩
  case refine_1 =>
    have hn : s.countVl = s.vl := countVl_hart hv.1
    have hno : false = true → s.vsew ≠ 4 := fun h => absurd h Bool.false_ne_true
    dsimp only
    refine ⟨fun hh => ⟨?_, ?_⟩, fun first e rest f hes hne hh he => ?_, fun hh h4 => ?_, fun hh h4 => ?_⟩
    · rw [← hn] at hh ⊢
      exact vload_here hv hq ho hl hno hh
    · rw [← hn] at hh ⊢
      exact vload_cut (ff := true) hv hq ho hl hno (ffSplit_here hh) hh
    · have hi := velems_rising (s := s) (m := m) .vload s.elemBytes s.vl (fun i => s.rs b + BitVec.ofNat 64 (i * s.vsew / 8))
      rw [hes] at hi
      have hcut : (if true = true then ffSplit (s.velems .vload s.elemBytes s.countVl m (addrUnit b s))
          else (s.velems .vload s.elemBytes s.countVl m (addrUnit b s), none)) = (first, some (e, f)) := by
        rw [if_pos rfl, hn]
        exact (congrArg ffSplit hes).trans (ffSplit_cut hi hne hh he)
      exact vload_cut (d := d) (names := ⟨[b], [], [], [d], [m]⟩) (reads := []) (n := State.countVl) (shape := shapeUnit b) hv hq ho hl hno hcut hh
    · rw [← hn] at hh ⊢
      exact vload_here hv hq ho hl (fun _ => h4) hh
    · exact vload_here (n := State.countIdx) hv hq ho hl (fun _ => h4) hh
  case refine_2 =>
    have hn : s.countVl = s.vl := countVl_hart hv.1
    have hno : false = true → s.vsew ≠ 4 := fun h => absurd h Bool.false_ne_true
    dsimp only
    refine ⟨fun hh => ?_, fun hh h4 => ?_, fun hh h4 => ?_, fun hh h32 => ?_⟩
    · rw [← hn] at hh ⊢
      exact vst_here hv hq ho hl hno hh
    · rw [← hn] at hh ⊢
      exact vst_here hv hq ho hl (fun _ => h4) hh
    · exact vst_here (n := State.countIdx) hv hq ho hl (fun _ => h4) hh
    · exact vstore_here (form := .add) (n := State.countIdx) (addr := addrIndex b x) hv hq ho hl (fun _ h4 => by omega) (fun _ => h32) hh rfl
  case refine_3 =>
    dsimp only
    intro hh ht
    have hn : s.countVl = s.vl := countVl_hart hv.1
    rw [← hn] at hh ⊢
    have hex : exec (.vst d b m h) s = _ :=
      vst_here (n := State.countVl) hv hq ho hl (fun h => absurd h Bool.false_ne_true) hh
    cases hex.symm.trans ht
    obtain ⟨_, hm, hc, hr⟩ := storedAt_foldl (s := s) hv.1 ((s.velems .vstore s.elemBytes s.countVl m (addrUnit b s)).map
      (fun e => (e, s.elem d.toNat e.i s.vsew))) s hs rfl rfl
    have hes : ((s.velems .vstore s.elemBytes s.countVl m (addrUnit b s)).map (fun e => (e, s.elem d.toNat e.i s.vsew))).map Prod.fst =
        s.velems .vstore s.elemBytes s.countVl m (addrUnit b s) := by
      rw [List.map_map]
      exact List.map_id _
    rw [hes] at hr
    generalize hu : List.foldl (State.storeElem false) s _ = u at hm hc hr ⊢
    have hh' : ByHart u := by
      obtain ⟨k, hk⟩ := hv.1
      exact ⟨k, hc.trans hk⟩
    obtain ⟨x, y, z, hret⟩ := Hart.retire_eq ({ s.me with vstart := BitVec.ofNat 12 0 } : Hart)
    have hme : (u.setVstart 0).retire.me = ({ s.me with vstart := BitVec.ofNat 12 0 } : Hart).retire := by
      rw [setVstart_retire_me hh', State.me_setMe, hm]
    refine ⟨fun k hk => ?_, fun r => ?_, fun v => ?_, fun v => ?_, ?_, vstart_setVstart_retire hh'⟩
    · rw [byteAt, byteAt, setVstart_retire_me hh']
      exact hr k hk
    · refine rs_eq_of_sregs hv.1 ?_ (by rw [hme, hret]) r
      rw [setVstart_retire_me hh']
      exact hh'
    · rw [hme, hret]
      rfl
    · rw [hme, hret]
      rfl
    · rw [hme, hret]

end Sys2Proof.Proofs
end

section
/-! SUPPORT. windowed gather, combine words and routing -/

namespace Sys2Proof.Machine

/-! ## Elements packed into a number -/

section
variable {X f : Nat → Nat} {w : Nat}

/-- A number that takes one digit after the other stays below the place of the next. -/
theorem packed_lt (h0 : X 0 = 0) (hs : ∀ n, X (n + 1) = X n + f n * 2 ^ (w * n)) (hf : ∀ n, f n < 2 ^ w) (n : Nat) : X n < 2 ^ (w * n) := by
  induction n with
  | zero => simp [h0]
  | succ n ih =>
    rw [hs, Nat.mul_succ, Nat.add_comm (w * n), Nat.pow_add]
    calc X n + f n * 2 ^ (w * n) < 2 ^ (w * n) + f n * 2 ^ (w * n) := Nat.add_lt_add_right ih _
      _ = (f n + 1) * 2 ^ (w * n) := by rw [Nat.add_mul, Nat.one_mul, Nat.add_comm]
      _ ≤ 2 ^ w * 2 ^ (w * n) := Nat.mul_le_mul_right _ (hf n)

/-- Its digits are what it took. -/
theorem packed_digit (h0 : X 0 = 0) (hs : ∀ n, X (n + 1) = X n + f n * 2 ^ (w * n)) (hf : ∀ n, f n < 2 ^ w) (n i : Nat) :
    X n / 2 ^ (w * i) % 2 ^ w = if i < n then f i else 0 := by
  induction n with
  | zero => rw [h0, Nat.zero_div, Nat.zero_mod, if_neg (Nat.not_lt_zero i)]
  | succ n ih =>
    have hlt := packed_lt h0 hs hf n
    rw [hs]
    rcases Nat.lt_trichotomy i n with hi | rfl | hi
    · have hw : 2 ^ (w * n) = 2 ^ (w * i) * (2 ^ w * 2 ^ (w * (n - i - 1))) := by
        rw [← Nat.pow_add, ← Nat.pow_add]
        congr 1
        obtain ⟨j, rfl⟩ : ∃ j, n = i + 1 + j := ⟨n - (i + 1), by omega⟩
        rw [show i + 1 + j - i - 1 = j by omega]
        ring
      rw [hw, Nat.mul_left_comm, Nat.add_mul_div_left _ _ (Nat.two_pow_pos _), Nat.mul_left_comm, Nat.add_mul_mod_self_left, ih,
        if_pos hi, if_pos (by omega)]
    · rw [Nat.add_mul_div_right _ _ (Nat.two_pow_pos _), Nat.div_eq_of_lt hlt, Nat.zero_add, Nat.mod_eq_of_lt (hf i), if_pos (Nat.lt_succ_self i)]
    · have hlt' := packed_lt h0 hs hf (n + 1)
      rw [hs] at hlt'
      rw [Nat.div_eq_of_lt (Nat.lt_of_lt_of_le hlt' (Nat.pow_le_pow_right (by decide) (Nat.mul_le_mul_left w hi))), Nat.zero_mod, if_neg (by omega)]

/-- Elements of a register made of such a number. -/
theorem elemOf_packed (h0 : X 0 = 0) (hs : ∀ n, X (n + 1) = X n + f n * 2 ^ (w * n)) (hf : ∀ n, f n < 2 ^ w) {n N : Nat} (hn : w * n ≤ N) (i : Nat) :
    elemOf (BitVec.ofNat N (X n)) i w = if i < n then f i else 0 := by
  have hlt : X n < 2 ^ N := Nat.lt_of_lt_of_le (packed_lt h0 hs hf n) (Nat.pow_le_pow_right (by decide) hn)
  rw [elemOf, BitVec.toNat_ofNat, Nat.mod_eq_of_lt hlt, Nat.mul_comm i w]
  exact packed_digit h0 hs hf n i

end

/-! ## Mask registers written -/

section
variable {h : Hart} {n : Nat} {x : BitVec 4096}

theorem Hart.mreg_setMreg (hv : h.vset.isSome = true) (hn : n ≠ 0) (hlt : n < 24) (k : Nat) :
    (h.setMreg n x).mreg k = if k = n then x else h.mreg k := by
  obtain ⟨v, hv⟩ := Option.isSome_iff_exists.1 hv
  rw [Hart.setMreg, if_neg hn, hv]
  by_cases hk : k = n
  · subst hk
    simp only [Hart.mreg, if_neg hn, vecGet_vecSet, hlt, and_self, if_true]
  · by_cases hk0 : k = 0
    · rw [if_neg hk, hk0]
      simp only [Hart.mreg, if_true]
    · simp only [Hart.mreg, if_neg hk0, vecGet_vecSet, hk, false_and, if_false, hv]

theorem Hart.vreg_setMreg (k : Nat) : (h.setMreg n x).vreg k = h.vreg k := by
  unfold Hart.setMreg
  split
  · rfl
  · split
    · rfl
    · rename_i v hv
      simp only [Hart.vreg, hv]

theorem Hart.setMreg_eq (h : Hart) (n : Nat) (x : BitVec 4096) : ∃ v z, h.setMreg n x = { h with vset := v, vdirty := z } := by
  unfold Hart.setMreg
  split
  · exact ⟨_, _, rfl⟩
  · split <;> exact ⟨_, _, rfl⟩

theorem Hart.setVreg_eq (h : Hart) (n : Nat) (x : BitVec 16384) :
    ∃ a v z, h.setVreg n x = { h with sregs := a, vset := v, vdirty := z } := by
  unfold Hart.setVreg
  split
  · exact ⟨_, _, _, rfl⟩
  · split <;> exact ⟨_, _, _, rfl⟩

/-- A mask bit cleared, and every other as before. -/
theorem getLsbD_clear (x : BitVec 4096) {i : Nat} (hi : i < 4096) (j : Nat) :
    (setElemOf x i 1 0).getLsbD j = (x.getLsbD j && !decide (j = i)) := by
  have hb : ∀ (y : BitVec 4096) k, y.getLsbD k = decide (elemOf y k 1 = 1) := fun y k => by
    rw [BitVec.getLsbD, Nat.testBit_eq_decide_div_mod_eq, elemOf, Nat.mul_one, Nat.pow_one]
  rw [hb, hb, elemOf_setElemOf x 0 j (by omega)]
  by_cases hj : j = i <;> simp [hj]

theorem getLsbD_clears (l : List Nat) (hl : ∀ i ∈ l, i < 4096) (x : BitVec 4096) (j : Nat) :
    (l.foldl (fun x i => setElemOf x i 1 0) x).getLsbD j = (x.getLsbD j && !decide (j ∈ l)) := by
  induction l generalizing x with
  | nil => simp
  | cons i l ih =>
    rw [List.foldl_cons, ih (fun k hk => hl k (List.mem_cons_of_mem _ hk)), getLsbD_clear x (hl i (List.mem_cons_self ..))]
    simp [List.mem_cons, Bool.and_assoc]

end

/-! ## The windowed gather (R180) -/

section
variable {s : State} {d a : Reg} {m : MReg} {h : HReg} {q : Nat}

theorem minimum?_eq (l : List Nat) : minimum? l = l.min? := by
  cases l <;> rfl

theorem leNat_lt (l : List Byte) : leNat l < 2 ^ (8 * l.length) := by
  induction l with
  | nil => simp [leNat]
  | cons b l ih =>
    have hb := b.isLt
    rw [leNat, List.length_cons, Nat.mul_succ, Nat.pow_add]
    omega

theorem length_runBytes (s : State) (c e n : Nat) : ∀ i, (s.runBytes c e i n).length = n := by
  induction n with
  | zero => exact fun _ => rfl
  | succ n ih => exact fun i => congrArg (· + 1) (ih (i + 1))

/-- The elements of a window: those of the run's published bytes, and zero where they end. -/
theorem elemOf_window (s : State) (e : Nat) {w b n : Nat} (hw : 8 * (w / 8) = w) (hn : w * n ≤ 16384) (i : Nat) :
    elemOf (BitVec.ofNat 16384 (s.window e w b n)) i w = if i < n then
      (if (b + i) * w / 8 + w / 8 ≤ (s.ctx.run e).pub * (s.ctx.run e).size then
        leNat (s.runBytes s.group.ctx e ((b + i) * w / 8) (w / 8)) else 0) else 0 := by
  refine elemOf_packed (X := s.window e w b) (f := fun i => if (b + i) * w / 8 + w / 8 ≤ (s.ctx.run e).pub * (s.ctx.run e).size then
        leNat (s.runBytes s.group.ctx e ((b + i) * w / 8) (w / 8)) else 0) rfl (fun n => ?_) (fun n => ?_) hn i
  · rw [State.window, Nat.mul_comm n w]
    rfl
  · split
    · have := leNat_lt (s.runBytes s.group.ctx e ((b + n) * w / 8) (w / 8))
      rwa [length_runBytes, hw] at this
    · exact Nat.two_pow_pos w

/-- A VLDW that passes the checks of its operands. -/
structure GatherReady (s : State) (d a : Reg) (m : MReg) (h : HReg) (q : Nat) : Prop where
  ready : VectorReady s
  handle : Handle s h q
  ordered : Ordered s q
  dest : d ≠ 0 ∧ d ≠ 31
  mask : m ≠ 0 ∧ m.toNat < 24
  width : s.vsew ≠ 4
  run : runHandleOk s s.ctx (s.rs a) = true
  priv : handleEntry (s.rs a) ≠ 1 ∨ s.me.priv = .s

/-- The indices that a VLDW is still to serve. -/
def State.asked (s : State) (d : Reg) (m : MReg) : List Nat := (s.windowIdx m (Nat.min s.vl 512)).map (fun i => s.elem (d.toNat + 1) i 32)

theorem vldw_none (hg : GatherReady s d a m h q) (ho : s.asked d m = []) : execVldw d a m h s = .next (s.setVstart 0).retire := by
  refine issue_ok (f := .seq) hg.ready.1 _ ?_
  have hmin : minimum? ((s.windowIdx m (Nat.min s.vl 512)).map (fun i => s.elem (d.toNat + 1) i 32)) = none := by rw [← State.asked, ho]; rfl
  simp only [run_bind, hartOnly_ok hg.ready.1, run_get, hg.dest, hg.mask, or_self, if_false, vnamed_ok hg.ready, hg.width, seqOf_ok hg.ready.1 hg.handle,
    checkRun_ok hg.run hg.priv, settled_ok 0 hg.ordered, hmin]
  rfl

/-- The last byte that a window takes of its run. -/
def State.windowEnd (s : State) (e b : Nat) : Nat := Nat.min ((b + 16384 / s.vsew) * s.vsew / 8) ((s.ctx.run e).pub * (s.ctx.run e).size)

/-- The hart after a window is taken: the mask bits of the indices inside are clear, and the destination is the window. -/
def State.gathered (s : State) (d : Reg) (m : MReg) (e b : Nat) : Hart :=
  (s.me.setVreg d.toNat (BitVec.ofNat 16384 (s.window e s.vsew b (16384 / s.vsew)))).setMreg m.toNat
    (((s.windowIdx m (Nat.min s.vl 512)).filter (fun i => decide (b ≤ s.elem (d.toNat + 1) i 32 ∧
      s.elem (d.toNat + 1) i 32 < b + 16384 / s.vsew))).foldl (fun x i => setElemOf x i 1 0) (s.me.mreg m.toNat))

theorem vldw_poison (hg : GatherReady s d a m h q) {lo l : Nat} (ho : minimum? (s.asked d m) = some lo)
    (hb : s.badIn s.group.ctx (handleEntry (s.rs a)) ((lo - lo % (16384 / s.vsew)) * s.vsew / 8)
      (s.windowEnd (handleEntry (s.rs a)) (lo - lo % (16384 / s.vsew))) = some l) :
    execVldw d a m h s = .next (State.takeTrap s (.at .poison (BitVec.ofNat 64 (Nat.max (lo - lo % (16384 / s.vsew)) (64 * l * 8 / s.vsew))))
      (s.poisonLine s.group.ctx (handleEntry (s.rs a)) l)) := by
  rw [State.asked] at ho
  rw [State.windowEnd] at hb
  refine (issue_hart hg.ready.1 _ (r := .error (.trap (.at .poison (BitVec.ofNat 64 (Nat.max (lo - lo % (16384 / s.vsew)) (64 * l * 8 / s.vsew)))))
    (s.poisonLine s.group.ctx (handleEntry (s.rs a)) l)) ?_)
  simp only [run_bind, hartOnly_ok hg.ready.1, run_get, hg.dest, hg.mask, or_self, if_false, vnamed_ok hg.ready, hg.width, seqOf_ok hg.ready.1 hg.handle,
    checkRun_ok hg.run hg.priv, settled_ok 0 hg.ordered, ho, hb, run_act, run_trap]

theorem vldw_next (hg : GatherReady s d a m h q) {lo : Nat} (ho : minimum? (s.asked d m) = some lo)
    (hb : s.badIn s.group.ctx (handleEntry (s.rs a)) ((lo - lo % (16384 / s.vsew)) * s.vsew / 8)
      (s.windowEnd (handleEntry (s.rs a)) (lo - lo % (16384 / s.vsew))) = none) :
    execVldw d a m h s =
      .next ((s.setMe (s.gathered d m (handleEntry (s.rs a)) (lo - lo % (16384 / s.vsew)))).setVstart 0).retire := by
  rw [State.asked] at ho
  rw [State.windowEnd] at hb
  refine issue_ok (f := .seq) hg.ready.1 _ ?_
  simp only [run_bind, hartOnly_ok hg.ready.1, run_get, hg.dest, hg.mask, or_self, if_false, vnamed_ok hg.ready, hg.width, seqOf_ok hg.ready.1 hg.handle,
    checkRun_ok hg.run hg.priv, settled_ok 0 hg.ordered, ho, hb, run_set, run_pure]
  rfl

theorem gathered_eq (s : State) (d : Reg) (m : MReg) (e b : Nat) :
    ∃ x y z, s.gathered d m e b = { s.me with sregs := x, vset := y, vdirty := z } := by
  rw [State.gathered]
  obtain ⟨x, v, z, hv⟩ := Hart.setVreg_eq s.me d.toNat (BitVec.ofNat 16384 (s.window e s.vsew b (16384 / s.vsew)))
  obtain ⟨v', z', hm⟩ := Hart.setMreg_eq (s.me.setVreg d.toNat (BitVec.ofNat 16384 (s.window e s.vsew b (16384 / s.vsew)))) m.toNat
    (((s.windowIdx m (Nat.min s.vl 512)).filter (fun i => decide (b ≤ s.elem (d.toNat + 1) i 32 ∧
      s.elem (d.toNat + 1) i 32 < b + 16384 / s.vsew))).foldl (fun x i => setElemOf x i 1 0) (s.me.mreg m.toNat))
  exact ⟨_, _, _, by rw [hm, hv]⟩

theorem width_of {w : Nat} (hw : w ∈ [8, 16, 32, 64]) : 8 * (w / 8) = w ∧ w * (16384 / w) ≤ 16384 :=
  (show ∀ w ∈ [8, 16, 32, 64], 8 * (w / 8) = w ∧ w * (16384 / w) ≤ 16384 by decide) w hw

/-- The registers after a window is taken. -/
theorem gathered_vreg (hg : GatherReady s d a m h q) (e b k : Nat) : (s.gathered d m e b).vreg k =
    if k = d.toNat then BitVec.ofNat 16384 (s.window e s.vsew b (16384 / s.vsew)) else s.me.vreg k := by
  have hd : d.toNat ≠ 0 := fun h0 => hg.dest.1 (BitVec.eq_of_toNat_eq h0)
  rw [State.gathered, Hart.vreg_setMreg, Hart.vreg_setVreg (hv := hg.ready.2.1) (hn := hd) (hlt := d.isLt)]

theorem gathered_mreg (hg : GatherReady s d a m h q) (e b : Nat) {k : Nat} (hk : k ≠ m.toNat) : (s.gathered d m e b).mreg k = s.me.mreg k := by
  have hm : m.toNat ≠ 0 := fun h0 => hg.mask.1 (BitVec.eq_of_toNat_eq h0)
  rw [State.gathered, Hart.mreg_setMreg (by rw [Hart.isSome_vset_setVreg]; exact hg.ready.2.1) hm hg.mask.2, if_neg hk, Hart.mreg_setVreg]

theorem gathered_mask (hg : GatherReady s d a m h q) (e b j : Nat) : ((s.gathered d m e b).mreg m.toNat).getLsbD j =
    ((s.me.mreg m.toNat).getLsbD j && !decide ((j < min s.vl 512 ∧ (s.me.mreg m.toNat).getLsbD j = true) ∧
      b ≤ elemOf (s.me.vreg (d.toNat + 1)) j 32 ∧ elemOf (s.me.vreg (d.toNat + 1)) j 32 < b + 16384 / s.vsew)) := by
  have hm : m.toNat ≠ 0 := fun h0 => hg.mask.1 (BitVec.eq_of_toNat_eq h0)
  rw [State.gathered, Hart.mreg_setMreg (by rw [Hart.isSome_vset_setVreg]; exact hg.ready.2.1) hm hg.mask.2, if_pos rfl, getLsbD_clears]
  · simp only [List.mem_filter, State.windowIdx, List.mem_range, decide_eq_true_eq, elem_hart hg.ready.1]
  · intro i hi
    have := List.mem_range.mp (List.mem_filter.mp (List.mem_filter.mp hi).1).1
    have : i < 512 := Nat.lt_of_lt_of_le this (Nat.min_le_right _ _)
    omega

end

/-! ## Combine words and routing counters (R189, R193, R194) -/

section
variable {s : State} {d a b : Reg} {h : HReg} {q : Nat}

theorem rcomb_next (hv : VectorReady s) {ws : List IWord} (hb : s.userBlock (s.rs a) = .ok ws) (h32 : (s.rs b).toNat < 2 ^ 32)
    (h0 : bitsOf (s.rs b) 0 8 = 0) (h4 : bitsOf (s.rs b) 8 8 ≤ 4) :
    execRcomb d a b s = .next (s.setRs d (BitVec.ofNat 64 (2 ^ 63 + (s.rs a).toNat * 2 ^ 32 + (s.rs b).toNat + 7))).retire := by
  refine issue_ok (f := .seq) hv.1 _ ?_
  have hc : ¬(2 ^ 32 ≤ (s.rs b).toNat ∨ bitsOf (s.rs b) 0 8 ≠ 0 ∨ 4 < bitsOf (s.rs b) 8 8) := by
    rintro (h | h | h)
    · exact absurd h32 (Nat.not_lt.mpr h)
    · exact h h0
    · exact absurd h4 (Nat.not_le.mpr h)
  simp only [run_bind, hartOnly_ok hv.1, named_ok (VectorReady.named hv _), run_get, hb, if_neg hc, run_set, run_pure]

theorem routesOk_of {n k : Nat} (hn : n + k ≤ min s.ctx.routes 256) : s.routesOk n k = true := by
  rw [State.routesOk, Bool.and_eq_true, decide_eq_true_eq, decide_eq_true_eq]
  exact ⟨Nat.le_trans hn (Nat.min_le_left ..), Nat.le_trans hn (Nat.min_le_right ..)⟩

theorem cset_next (hv : VectorReady s) (hq : Handle s h q) (hp : Prompt s q []) (h40 : bitsOf (s.rs a) 40 24 = 0)
    (h16 : bitsOf (s.rs a) 16 16 % 4 = 0) (hn : bitsOf (s.rs a) 0 8 + bitsOf (s.rs a) 8 8 + 1 ≤ min s.ctx.routes 256) :
    execCset a h s = .next (s.setCtx { s.ctx with
      routing := insertKey s.ctx.routing s.group.die ⟨bitsOf (s.rs a) 0 8, bitsOf (s.rs a) 8 8 + 1, bitsOf (s.rs a) 16 16, bitsOf (s.rs a) 32 8⟩ }).retire := by
  refine issue_ok (f := .seq) hv.1 _ ?_
  rw [Nat.add_assoc] at hn
  simp only [run_bind, named_ok (VectorReady.named hv _), seqOf_ok hv.1 hq, run_get, h40, h16, ne_eq, not_true_eq_false, false_or,
    routesOk_of hn, Bool.true_eq_false, if_false, ready_ok (n := .of q .copy none) hp rfl rfl rfl, run_set, run_pure]

theorem csnap_next (hv : VectorReady s) (hq : Handle s h q) (hp : Prompt s q [])
    (hn : bitsOf (s.rs a) 0 8 + (bitsOf (s.rs a) 8 8 + 1) ≤ min s.ctx.routes 256) :
    execCsnap d a h s = .next ((s.setCtx (s.ctx.clearRoutes (s.group.die * 256 + bitsOf (s.rs a) 0 8) (bitsOf (s.rs a) 8 8 + 1))).setMe
      (s.me.setVreg d.toNat (BitVec.ofNat 16384 (s.ctx.snapshot (s.group.die * 256 + bitsOf (s.rs a) 0 8) (bitsOf (s.rs a) 8 8 + 1))))).retire := by
  refine issue_ok (f := .seq) hv.1 _ ?_
  simp only [run_bind, hartOnly_ok hv.1, vnamed_ok hv, seqOf_ok hv.1 hq, run_get, routesOk_of hn, if_true,
    ready_ok (n := { Needs.of q .load none with vdest := some d, zero := (64, List.range 256) }) hp rfl rfl rfl, run_set, run_pure]

/-- Counters cleared read zero, and every other as before. -/
theorem routeAt_clearRoutes (x : Ctx) (k n i : Nat) :
    (x.clearRoutes k n).routeAt i = if k ≤ i ∧ i < k + n then 0 else x.routeAt i := by
  induction n with
  | zero => rw [Ctx.clearRoutes, if_neg (by omega)]
  | succ n ih =>
    have hs : ((x.clearRoutes k n).setRoute (k + n) 0).routeAt i = if i = k + n then 0 else (x.clearRoutes k n).routeAt i :=
      lookupD_eraseKey ..
    rw [Ctx.clearRoutes, hs, ih]
    by_cases hi : i = k + n
    · rw [if_pos hi, if_pos (by omega)]
    · rw [if_neg hi]
      congr 1
      exact propext (by omega)

theorem elemOf_snapshot (x : Ctx) (k : Nat) {n : Nat} (hn : n ≤ 256) (i : Nat) :
    elemOf (BitVec.ofNat 16384 (x.snapshot k n)) i 64 = if i < n then (x.routeAt (k + i)).toNat else 0 :=
  elemOf_packed (X := x.snapshot k) (f := fun i => (x.routeAt (k + i)).toNat) rfl (fun _ => rfl) (fun i => (x.routeAt (k + i)).isLt) (by omega) i

end

end Sys2Proof.Machine
end

section
/-! SUPPORT. The statements settled: windowed gather, combine words and routing -/

namespace Sys2Proof.Proofs

open Sys2Proof.Machine

/-- Settles O35: a VLDW serves the window of its least index; a snapshot's counters are digits of the register. -/
theorem gatherAndRouting : Obligations.GatherAndRouting := by
  unfold Obligations.GatherAndRouting
  refine ⟨fun d a m h q s hv hq ho hd hd1 hm hm24 hw hr hp => ?_, fun d a b h q s hv hq => ⟨fun ws => rcomb_next hv, fun hp =>
    ⟨cset_next hv hq hp, ?_⟩⟩⟩
  case refine_1 =>
    have hw4 : s.vsew ≠ 4 := by
      rintro h4
      rw [h4] at hw
      exact absurd hw (by decide)
    have hg : GatherReady s d a m h q := ⟨hv, hq, ho, ⟨hd, hd1⟩, ⟨hm, hm24⟩, hw4, hr, hp⟩
    have hask : ∀ i, i ∈ s.windowIdx m (Nat.min s.vl 512) ↔ i < min s.vl 512 ∧ (s.me.mreg m.toNat).getLsbD i = true := fun i => by
      rw [State.windowIdx, List.mem_filter, List.mem_range]
    dsimp only
    refine ⟨fun hn => vldw_none hg ?_, fun k hk hmin => ?_⟩
    · refine List.map_eq_nil_iff.mpr (List.eq_nil_iff_forall_not_mem.mpr fun i hi => hn i ((hask i).mp hi))
    have hlo : minimum? (s.asked d m) = some (elemOf (s.me.vreg (d.toNat + 1)) k 32) := by
      rw [minimum?_eq, List.min?_eq_some_iff]
      refine ⟨List.mem_map.mpr ⟨k, (hask k).mpr hk, elem_hart hv.1 _ _⟩, fun x hx => ?_⟩
      obtain ⟨i, hi, rfl⟩ := List.mem_map.mp hx
      rw [elem_hart hv.1]
      exact hmin i ((hask i).mp hi)
    refine ⟨fun hb => ?_, fun l hb => vldw_poison hg hlo hb⟩
    generalize hb0 : elemOf (s.me.vreg (d.toNat + 1)) k 32 - elemOf (s.me.vreg (d.toNat + 1)) k 32 % (16384 / s.vsew) = b0 at hb
    have hx := vldw_next hg hlo (by rw [hb0]; exact hb)
    rw [hb0] at hx
    obtain ⟨x, y, z, hret⟩ := Hart.retire_eq ({ s.gathered d m (handleEntry (s.rs a)) b0 with vstart := BitVec.ofNat 12 0 } : Hart)
    have hh : ByHart (s.setMe (s.gathered d m (handleEntry (s.rs a)) b0)) := hv.1
    have hme : ((s.setMe (s.gathered d m (handleEntry (s.rs a)) b0)).setVstart 0).retire.me =
        ({ s.gathered d m (handleEntry (s.rs a)) b0 with vstart := BitVec.ofNat 12 0 } : Hart).retire := by
      rw [setVstart_retire_me hh, State.me_setMe, State.me_setMe]
    have hvr : ∀ n, ((s.setMe (s.gathered d m (handleEntry (s.rs a)) b0)).setVstart 0).retire.me.vreg n =
        (s.gathered d m (handleEntry (s.rs a)) b0).vreg n := fun n => by rw [hme, hret]; rfl
    have hmr : ∀ n, ((s.setMe (s.gathered d m (handleEntry (s.rs a)) b0)).setVstart 0).retire.me.mreg n =
        (s.gathered d m (handleEntry (s.rs a)) b0).mreg n := fun n => by rw [hme, hret]; rfl
    refine ⟨_, hx, vstart_setVstart_retire hh, ?_, fun i hi => ?_, fun i _ => ?_, fun r hrd => ?_, fun r hrm => ?_, ?_⟩
    · rw [hme, Hart.retire_pc, Hart.retire_pc]
      obtain ⟨_, _, _, hgat⟩ := gathered_eq s d m (handleEntry (s.rs a)) b0
      rw [hgat]
    · obtain ⟨h8, hn⟩ := width_of hw
      rw [hvr, gathered_vreg hg, if_pos rfl, elemOf_window _ _ h8 hn, if_pos hi]
    · rw [hmr, gathered_mask hg]
    · rw [hvr, gathered_vreg hg, if_neg fun h => hrd (BitVec.eq_of_toNat_eq h)]
    · rw [hmr, gathered_mreg hg _ _ fun h => hrm (BitVec.eq_of_toNat_eq h)]
    · rw [setVstart_retire_me hh]
      exact ⟨rfl, rfl, rfl⟩
  case refine_2 =>
    dsimp only
    intro hn hd
    refine ⟨_, csnap_next hv hq hp hn, ?_⟩
    generalize hu : (s.setCtx (s.ctx.clearRoutes _ _)).setMe _ = u
    have hh : ByHart u := by rw [← hu]; exact hv.1
    obtain ⟨x, y, z, hret⟩ := Hart.retire_eq u.me
    refine ⟨?_, fun i hi => ?_, fun i => ?_⟩
    · rw [retire_mem, ← hu]
      rfl
    · have hvr : u.retire.me.vreg d.toNat = u.me.vreg d.toNat := by
        rw [retire_hart hh, State.me_setMe, hret]
        rfl
      have hd' : d.toNat ≠ 0 := fun h0 => hd (BitVec.eq_of_toNat_eq h0)
      rw [hvr, ← hu, State.me_setMe, Hart.vreg_setVreg (hv := hv.2.1) (hn := hd') (hlt := d.isLt), if_pos rfl,
        elemOf_snapshot _ _ (by omega)]
    · have hc : u.retire.ctx = u.ctx := by
        rw [retire_hart hh]
        rfl
      rw [hc, ← hu, State.ctx_setMe, State.ctx_setCtx, routeAt_clearRoutes]

end Sys2Proof.Proofs
end

section
/-! SUPPORT. copies between runs and patterns -/

namespace Sys2Proof.Machine

/-! ## Copies issued (R172–R178) -/

section
variable {s : State} {a b : Reg} {h : HReg} {q : Nat} {d : CopyDesc} {sem : Option Nat}

theorem readCopy_ok {acc : Access} {offset : Bool} {p : Word} {head bs : List Byte} (hd : Descriptor s p 32 head) (h16 : descField head 30 1 ≤ 16)
    (hb : Descriptor s p (32 + 16 * descField head 30 1) bs) (hp : patternOk bs (descField head 30 1) = true)
    (ho : if offset = true then descField bs 8 8 % 4 = 0 else descField bs 8 8 = 0)
    (hc : checkPattern acc (descPattern bs (descField head 30 1)) s = .ok () s) :
    readCopy acc offset p s =
      .ok ⟨descWord bs 0, descField bs 8 8, BitVec.ofNat 32 (descField bs 24 4), descPattern bs (descField head 30 1)⟩ s := by
  have hoff : (if offset = true then descField bs 8 8 % 4 == 0 else descField bs 8 8 == 0) = true := by
    cases offset <;> simpa using ho
  simp only [readCopy, run_bind, readDesc_ok hd, Nat.not_lt.mpr h16, if_false, readDesc_ok hb, hp, hoff, Bool.and_self, if_true, hc, run_pure]

theorem checkSem_ok (hs : (s.rs b = BitVec.allOnes 64 ∧ sem = none) ∨ ((s.rs b).toNat < 64 ∧ sem = some (s.rs b).toNat)) :
    checkSem (s.rs b) s = .ok sem s := by
  rcases hs with ⟨hb, rfl⟩ | ⟨hb, rfl⟩
  · rw [checkSem, if_pos hb, run_pure]
  · have hn : s.rs b ≠ BitVec.allOnes 64 := fun h => by rw [h] at hb; exact absurd hb (by decide)
    rw [checkSem, if_neg hn, if_pos hb, run_pure]

section
variable (hh : ByHart s) (hn : Named s [a, b]) (hq : Handle s h q)
include hh hn hq

theorem rcopyin_next (hs : checkSem (s.rs b) s = .ok sem s) (hd : readCopy .patWrite true (s.rs a) s = .ok d s)
    (hr : runHandleOk s s.ctx d.run = true) (he : 2 ≤ handleEntry d.run) :
    execRcopyin a b h s = .next (s.addOp q .copy (.copyIn d sem)).retire := by
  refine issue_ok (f := .seq) hh _ ?_
  simp only [run_bind, named_ok hn, seqOf_ok hh hq, run_get, hd, checkRun_ok hr (.inl (by omega)), hs, enqueue, run_act, run_pure]

theorem rcopyout_next (hs : checkSem (s.rs b) s = .ok sem s) (hd : readCopy .patRead false (s.rs a) s = .ok d s)
    (hr : runHandleOk s s.ctx d.run = true) (he : 2 ≤ handleEntry d.run) (ho : (s.ctx.run (handleEntry d.run)).state = .opened)
    (ht : d.pat.total % (s.ctx.run (handleEntry d.run)).size = 0) :
    execRcopyout a b h s = .next (s.addOp q .copy (.copyOut d sem)).retire := by
  refine issue_ok (f := .seq) hh _ ?_
  simp only [run_bind, named_ok hn, seqOf_ok hh hq, run_get, hd, checkRun_ok hr (.inl (by omega)), hs, ho, ht, Nat.not_lt.mpr he, ne_eq,
    not_true_eq_false, or_self, if_false, enqueue, run_act, run_pure]

theorem rfill_next (hs : checkSem (s.rs b) s = .ok sem s) (hd : readCopy .patWrite false (s.rs a) s = .ok d s) :
    execRfill a b h s = .next (s.addOp q .copy (.fill d sem)).retire := by
  refine issue_ok (f := .seq) hh _ ?_
  simp only [run_bind, named_ok hn, seqOf_ok hh hq, run_get, hd, hs, enqueue, run_act, run_pure]

theorem rcopyrr_next (hr : runHandleOk s s.ctx (s.rs a) = true) (hw : runHandleOk s s.ctx (s.rs b) = true) (he : 2 ≤ handleEntry (s.rs a))
    (he' : 2 ≤ handleEntry (s.rs b)) (hne : handleEntry (s.rs a) ≠ handleEntry (s.rs b))
    (ho : (s.ctx.run (handleEntry (s.rs b))).state = .opened)
    (hz : (s.ctx.run (handleEntry (s.rs a))).size = (s.ctx.run (handleEntry (s.rs b))).size) :
    execRcopyrr a b h s = .next (s.addOp q .copy (.copyRun (s.rs a) (s.rs b))).retire := by
  refine issue_ok (f := .seq) hh _ ?_
  simp only [run_bind, named_ok hn, seqOf_ok hh hq, run_get, checkRun_ok hr (.inl (by omega)), checkRun_ok hw (.inl (by omega)), ho, hz,
    Nat.not_lt.mpr he', hne, ne_eq, not_true_eq_false, or_self, if_false, enqueue, run_act, run_pure]

end

end

/-! ## A copy started (R175–R178) -/

section
variable {s : State} {o : Op} {d : CopyDesc} {sem : Option Nat} {core off : Nat → Nat}

theorem sem_unqueue (who : Issuer) (k n : Nat) : ((s.unqueue who).coreAt k).sem n = (s.coreAt k).sem n := by
  rw [State.unqueue]
  by_cases hk : k = (s.hart who.owner).core
  · rw [hk, State.coreAt_setCoreAt]
    rfl
  · rw [State.coreAt_setCoreAt_ne _ _ hk]

/-- What a report changes: harts, and who waits for a core's semaphores. -/
theorem reportBy_eq (who : Issuer) (prog : Nat) (c : Cause) (v : Word) (pc : BitVec 32) (lane : Bool) :
    ∃ x y, s.reportBy who prog c v pc lane = { s with harts := x, cores := y } ∧
      ∀ k n, (lookupD Core.reset y k).sem n = (s.coreAt k).sem n := by
  unfold State.reportBy
  split
  · exact ⟨_, _, rfl, fun _ _ => rfl⟩
  · split
    · dsimp only
      split
      · refine ⟨_, _, rfl, fun k n => ?_⟩
        exact sem_unqueue ..
      · exact ⟨_, _, rfl, fun _ _ => rfl⟩
    · exact ⟨_, _, rfl, fun _ _ => rfl⟩

theorem coreAt_endOp (k : Nat) : ∃ q, (s.endOp o).coreAt k = { s.coreAt k with seqs := q } := by
  have hs : ∀ t c, ∃ q, (State.settleCore t c).coreAt k = { t.coreAt k with seqs := q } := by
    intro t c
    by_cases hk : k = c
    · rw [hk, State.settleCore, State.coreAt_setCoreAt]
      exact ⟨_, rfl⟩
    · rw [State.settleCore, State.coreAt_setCoreAt_ne _ _ hk]
      exact ⟨_, rfl⟩
  have hp : ∀ t : State, (t.endParent o).coreAt k = t.coreAt k := by
    intro t
    rw [State.endParent]
    split
    · split <;> rfl
    · rfl
  rw [State.endOp]
  obtain ⟨q, hq⟩ := hs (State.endParent { s with ops := s.ops.filter (fun p => p.id != o.id) } o) o.core
  exact ⟨q, by rw [hq, hp]; rfl⟩

/-- A core whose semaphore has been posted to (R302). -/
def Core.posted (x : Core) (n amount : Nat) : Core :=
  { x with sems := vecSet x.sems n (BitVec.ofNat 64 (Nat.min ((vecGet 0 x.sems n).toNat + amount) (2 ^ 64 - 1))) }

theorem sem_posted (x : Core) {n : Nat} (hn : n < 64) (amount : Nat) :
    (x.posted n amount).sem n = BitVec.ofNat 64 (min ((x.sem n).toNat + amount) (2 ^ 64 - 1)) := by
  rw [Core.posted, Core.sem, vecGet_vecSet, if_pos ⟨rfl, hn⟩]
  rfl

/-- What a post leaves: the semaphore with its sum, saturated, and everything but it and the issuer's reports. -/
theorem postCopy_eq (amount : Nat) : ∃ x y, s.postCopy o sem amount = { s with harts := x, cores := y } ∧
    ∀ n < 64, sem = some n → (lookupD Core.reset y o.core).sem n =
      BitVec.ofNat 64 (min (((s.coreAt o.core).sem n).toNat + amount) (2 ^ 64 - 1)) := by
  cases sem with
  | none => exact ⟨_, _, rfl, fun n _ h => nomatch h⟩
  | some n =>
    have hset : ((s.setCoreAt o.core ((s.coreAt o.core).posted n amount)).coreAt o.core) = (s.coreAt o.core).posted n amount :=
      State.coreAt_setCoreAt ..
    unfold State.postCopy State.postSem
    dsimp only
    split
    · obtain ⟨x, y, hx, hy⟩ := reportBy_eq (s := s.setCoreAt o.core ((s.coreAt o.core).posted n amount)) o.issuer o.prog .semOverflow
        (BitVec.ofNat 64 n) o.pc false
      refine ⟨x, y, hx, fun m h64 hm => ?_⟩
      cases hm
      rw [hy, hset, sem_posted _ h64]
    · refine ⟨_, _, rfl, fun m h64 hm => ?_⟩
      cases hm
      exact (congrArg (Core.sem · n) hset).trans (sem_posted _ h64 _)

section
variable (ho : s.opAt o.id = some o) (hp : o.phase = .queued) (hd : ∀ p ∈ o.preds, s.alive p = false)
include ho hp hd

theorem copyPerformed_of {t : State} (hk : ∀ d c, o.kind ≠ .send d c) (hs : s.mayStart o = true → s.startCopy o = some t) : exec (.copyPerformed o.id) s = .next t := by
  have h := hs (mayStart_ok hp hd)
  show execCopyPerformed o.id s = .next t
  rw [execCopyPerformed, opEvent_at ho]
  split
  · exact absurd ‹_› (hk _ _)
  · rw [h]
    rfl

theorem copyIn_start {r : Word} (hk : o.kind = .copyIn d sem ∧ r = d.run ∨ ∃ x, o.kind = .osld x sem ∧ r = x.run) :
    exec (.copyPerformed o.id) s = .next (s.setOp { o with
      phase := .working, preds := [],
      counts := (BitVec.ofNat 64 ((s.runAt o.ctx (handleEntry r)).pub * (s.runAt o.ctx (handleEntry r)).size), 0, 0) }) := by
  rcases hk with ⟨hk, rfl⟩ | ⟨x, hk, rfl⟩
  · refine copyPerformed_of ho hp hd (by simp [hk]) fun hm => ?_
    simp only [State.startCopy, hk, hm, if_true]
  · refine copyPerformed_of ho hp hd (by simp [hk]) fun hm => ?_
    simp only [State.startCopy, hk, hm, if_true]

theorem fill_start (hk : o.kind = .fill d sem) :
    exec (.copyPerformed o.id) s = .next (s.setOp { o with phase := .working, preds := [] }) := by
  refine copyPerformed_of ho hp hd (by simp [hk]) fun hm => ?_
  simp only [State.startCopy, hk, hm, if_true]

end

/-- Positions taken for the records of a copy (R155, R176, R177). -/
def TookPositions (s t : State) (o : Op) (dst : Word) (data : List Byte) : Prop :=
  (t.runAt o.ctx (handleEntry dst)).len = (s.runAt o.ctx (handleEntry dst)).len + data.length / (s.runAt o.ctx (handleEntry dst)).size ∧
    t.mem = s.mem ∧ ∃ p, t.opAt o.id = some p ∧ p.phase = .working ∧ p.kind = o.kind ∧
      p.taken = [⟨BitVec.ofNat 64 (handleEntry dst), (s.runAt o.ctx (handleEntry dst)).len, (s.runAt o.ctx (handleEntry dst)).len,
        data.length / (s.runAt o.ctx (handleEntry dst)).size, data⟩]

theorem length_readBytes (m : Memory) (n : Nat) : ∀ k, (Memory.readBytes m k n).length = n := by
  induction n with
  | zero => exact fun _ => rfl
  | succ n ih => exact fun k => congrArg (· + 1) (ih (k + 1))

theorem takePositions_some {e : Nat} {data : List Byte} (hs : (s.runAt o.ctx e).state = .opened)
    (hk : data.length / (s.runAt o.ctx e).size ≠ 0) :
    s.takePositions o e data =
      (s.setRunAt o.ctx e { s.runAt o.ctx e with len := (s.runAt o.ctx e).len + data.length / (s.runAt o.ctx e).size },
        { o with taken := o.taken ++ [⟨BitVec.ofNat 64 e, (s.runAt o.ctx e).len, (s.runAt o.ctx e).len,
          data.length / (s.runAt o.ctx e).size, data⟩] }) := by
  unfold State.takePositions
  exact if_neg fun h => h.elim hk fun h => h hs

/-- An OPEN run takes positions for at least one record. -/
theorem takeCopy_takes (ho : s.opAt o.id = some o) (ht : o.taken = []) {dst : Word} {data : List Byte}
    (hs : (s.runAt o.ctx (handleEntry dst)).state = .opened) (hz : 0 < (s.runAt o.ctx (handleEntry dst)).size)
    (hl : (s.runAt o.ctx (handleEntry dst)).size ≤ data.length) :
    TookPositions s (s.takeCopy o dst data) o dst data ∧ (s.takeCopy o dst data).cores = s.cores := by
  have hopen : (data.isEmpty || (s.runAt o.ctx (handleEntry dst)).state == .opened) = true := by
    rw [hs]
    exact Bool.or_true _
  unfold State.takeCopy
  dsimp only
  rw [if_pos hopen, takePositions_some (o := s.translated o _ _) hs (Nat.ne_of_gt (Nat.div_pos hl hz))]
  refine ⟨⟨?_, rfl, _, opAt_setOp (x := o) ho, rfl, rfl, ?_⟩, rfl⟩
  · exact congrArg Run.len (runAt_setRunAt ..)
  · show o.taken ++ _ = _
    rw [ht]
    rfl

theorem copyOut_start (ho : s.opAt o.id = some o) (hp : o.phase = .queued) (hd : ∀ p ∈ o.preds, s.alive p = false)
    (hk : o.kind = .copyOut d sem) (ht : o.taken = []) (hs : (s.runAt o.ctx (handleEntry d.run)).state = .opened)
    (hz : 0 < (s.runAt o.ctx (handleEntry d.run)).size) (hl : (s.runAt o.ctx (handleEntry d.run)).size ≤ d.pat.total)
    (hu : ∀ u < d.pat.units, s.unitAt o .patRead d.pat u = .ok (.ls (core u) (off u))) :
    ∃ t, exec (.copyPerformed o.id) s = .next t ∧
      TookPositions s t o d.run ((List.range d.pat.units).flatMap (fun u => Memory.readBytes s.mem (lsKey (core u) (off u)) d.pat.unit)) ∧
      ∀ n < 64, sem = some n → (t.coreAt o.core).sem n =
        BitVec.ofNat 64 (min (((s.coreAt o.core).sem n).toNat + d.pat.total) (2 ^ 64 - 1)) := by
  have hdata : (List.range d.pat.units).flatMap (s.unitBytes o d.pat) =
      (List.range d.pat.units).flatMap (fun u => Memory.readBytes s.mem (lsKey (core u) (off u)) d.pat.unit) := by
    refine List.flatMap_congr fun u hm => ?_
    rw [State.unitBytes, hu u (List.mem_range.mp hm)]
  generalize hg : (List.range d.pat.units).flatMap (fun u => Memory.readBytes s.mem (lsKey (core u) (off u)) d.pat.unit) = data at hdata ⊢
  have hlen : data.length = d.pat.total := by
    rw [← hg, List.length_flatMap, Pattern.total]
    simp only [length_readBytes, List.map_const', List.length_range, List.sum_replicate, smul_eq_mul]
    exact Nat.mul_comm ..
  have hbad : s.refusedUnit o .patRead d.pat d.pat.units = none := by
    refine List.findSome?_eq_none_iff.mpr fun u hm => ?_
    rw [hu u (List.mem_range.mp hm)]
  have hfar : s.farUnits o .patRead d.pat d.pat.units = [] := by
    refine List.filterMap_eq_nil_iff.mpr fun u hm => ?_
    rw [hu u (List.mem_range.mp hm)]
  obtain ⟨x, y, hx, hy⟩ := postCopy_eq (s := s) (o := o) (sem := sem) d.pat.total
  obtain ⟨htook, hcores⟩ := takeCopy_takes (s := s.postCopy o sem d.pat.total) (data := data) (by rw [hx]; exact ho) ht
    (by rw [hx]; exact hs) (by rw [hx]; exact hz) (by rw [hx, hlen]; exact hl)
  refine ⟨(s.postCopy o sem d.pat.total).takeCopy o d.run data, copyPerformed_of ho hp hd (by simp [hk]) fun hm => ?_, ?_, fun n hn hsem => ?_⟩
  · simp only [State.startCopy, hk, hm, if_true, hbad, hfar, List.isEmpty_nil, State.copyOutRead, hdata]
  · rw [hx] at htook
    rw [hx]
    exact htook
  · rw [State.coreAt, hcores, hx]
    exact hy n hn hsem

theorem copyRun_start (ho : s.opAt o.id = some o) (hp : o.phase = .queued) (hd : ∀ p ∈ o.preds, s.alive p = false) {a b : Word}
    (hk : o.kind = .copyRun a b) (ht : o.taken = []) (hs : (s.runAt o.ctx (handleEntry b)).state = .opened)
    (hz : 0 < (s.runAt o.ctx (handleEntry b)).size)
    (he : (s.runAt o.ctx (handleEntry a)).size = (s.runAt o.ctx (handleEntry b)).size) (hpub : 0 < (s.runAt o.ctx (handleEntry a)).pub)
    (hb : s.badIn o.ctx (handleEntry a) 0 ((s.runAt o.ctx (handleEntry a)).pub * (s.runAt o.ctx (handleEntry a)).size) = none) :
    ∃ t, exec (.copyPerformed o.id) s = .next t ∧ TookPositions s t o b
      (s.runBytes o.ctx (handleEntry a) 0 ((s.runAt o.ctx (handleEntry a)).pub * (s.runAt o.ctx (handleEntry a)).size)) := by
  refine ⟨_, copyPerformed_of ho hp hd (by simp [hk]) fun hm => ?_, (takeCopy_takes ho ht hs hz ?_).1⟩
  · simp only [State.startCopy, hk, hm, if_true, State.copyRunStart, hb]
  · rw [length_runBytes, he]
    exact Nat.le_mul_of_pos_left _ hpub

end

/-! ## A copy's units written (R175, R178) -/

section
variable {s : State} {o : Op} {p : Pattern} {bytes : Nat → List Byte} {core off : Nat → Nat}

/-- Memory after a number of units are written, in their order. -/
def unitMem (key : Nat → Nat) (bytes : Nat → List Byte) (m : Memory) : Nat → Memory
  | 0 => m
  | n + 1 => Memory.writeBytes (unitMem key bytes m n) (key n) (bytes n)

/-- Units written: a byte is that of the last unit that names it, and bytes outside are as before. -/
theorem unitMem_spec {key : Nat → Nat} {m : Memory} (hm : Memory.wf m = true) (w : Nat) (hb : ∀ u, (bytes u).length = w) (n : Nat) :
    Memory.wf (unitMem key bytes m n) = true ∧
      (∀ k, (∀ u < n, ¬(key u ≤ k ∧ k < key u + w)) → Memory.read (unitMem key bytes m n) k = Memory.read m k) ∧
      ∀ u k, u < n → key u ≤ k ∧ k < key u + w → (∀ v < n, u < v → ¬(key v ≤ k ∧ k < key v + w)) →
        Memory.read (unitMem key bytes m n) k = (bytes u).getD (k - key u) 0 := by
  induction n with
  | zero => exact ⟨hm, fun _ _ => rfl, fun u k hu => absurd hu (Nat.not_lt_zero u)⟩
  | succ n ih =>
    obtain ⟨hw, hout, hin⟩ := ih
    have hstep : ∀ k, ¬(key n ≤ k ∧ k < key n + w) → Memory.read (unitMem key bytes m (n + 1)) k = Memory.read (unitMem key bytes m n) k :=
      fun k hk => Memory.read_writeBytes_outside hw _ _ _ (by rw [hb]; omega)
    refine ⟨Memory.wf_writeBytes hw _ _, fun k hk => ?_, fun u k hu hk hv => ?_⟩
    · rw [hstep k (hk n (Nat.lt_succ_self n)), hout k fun u hu => hk u (Nat.lt_succ_of_lt hu)]
    · rcases Nat.lt_or_eq_of_le (Nat.le_of_lt_succ hu) with hlt | rfl
      · rw [hstep k (hv n (Nat.lt_succ_self n) hlt), hin u k hlt hk fun v hvn => hv v (Nat.lt_succ_of_lt hvn)]
      · have hi : k - key u < (bytes u).length := by rw [hb]; omega
        have := Memory.read_writeBytes_inside hw (key u) (bytes u) (k - key u) hi
        rw [show key u + (k - key u) = k by omega] at this
        rw [unitMem, this, List.getD_eq_getElem _ _ hi]

theorem putUnits_eq (hu : ∀ u < p.units, s.unitAt o .patWrite p u = .ok (.ls (core u) (off u))) (n : Nat) (hn : n ≤ p.units) :
    (List.range n).foldl (State.putUnit o p bytes) s = { s with mem := unitMem (fun u => lsKey (core u) (off u)) bytes s.mem n } := by
  induction n with
  | zero => rfl
  | succ n ih =>
    rw [List.range_succ, List.foldl_append, ih (Nat.le_of_succ_le hn), List.foldl_cons, List.foldl_nil, State.putUnit]
    have : State.unitAt { s with mem := unitMem (fun u => lsKey (core u) (off u)) bytes s.mem n } o .patWrite p n =
        .ok (.ls (core n) (off n)) := (hu n hn)
    rw [this]
    rfl

/-- A copy whose units all lie here writes them, posts and ends. -/
theorem writeUnits_here (hl : s.late = false) (h0 : o.counts.2.1 = 0) {sem : Option Nat}
    (hu : ∀ u < p.units, s.unitAt o .patWrite p u = .ok (.ls (core u) (off u))) :
    s.writeUnits o p bytes p.units sem = (State.postCopy { s with
      mem := unitMem (fun u => lsKey (core u) (off u)) bytes s.mem p.units } o sem p.total).endOp o := by
  have hbad : s.refusedUnit o .patWrite p p.units = none := by
    refine List.findSome?_eq_none_iff.mpr fun u hm => ?_
    rw [hu u (List.mem_range.mp hm)]
  have hfar : s.farUnits o .patWrite p p.units = [] := by
    refine List.filterMap_eq_nil_iff.mpr fun u hm => ?_
    rw [hu u (List.mem_range.mp hm)]
  unfold State.writeUnits
  simp only [hbad, hfar, putUnits_eq hu p.units (Nat.le_refl _), List.isEmpty_nil, hl, Bool.not_false, Bool.and_self, if_true,
    State.copyInEnd, h0]

end

/-! ## A block of records written whole (R155, R158) -/

section
variable {s t u : State} {c e a : Nat} {o : Op} {x : Taken}

theorem runAt_setRunAt_ne (s : State) {c e c' e' : Nat} (r : Run) (h : (c', e') ≠ (c, e)) : (s.setRunAt c e r).runAt c' e' = s.runAt c' e' := by
  rw [State.runAt, State.setRunAt]
  by_cases hc : c' = c
  · subst hc
    have he : e' ≠ e := fun h' => h (by rw [h'])
    rw [State.ctxAt_setCtxAt, Ctx.run, Ctx.setRun, lookupD_insertKey_ne _ _ _ he]
    rfl
  · rw [State.ctxAt_setCtxAt_ne _ _ hc]
    rfl

/-- A line without damage is no worse than one with some. -/
theorem correctable_nil {failed syms : List Nat} (h : correctable failed syms = true) : correctable failed [] = true := by
  rw [correctable, decide_eq_true_eq] at h ⊢
  rw [List.filter_nil, List.length_nil]
  omega

/-- What cleaning lines of a run leaves (R334): no line is worse, and everything but that run's lines is as before. -/
structure LinesCleaned (s u : State) (c e : Nat) : Prop where
  rest : ∃ x, u = { s with ctxs := x }
  run : ∃ q d, u.runAt c e = { s.runAt c e with poison := q, damage := d }
  bad : ∀ line, s.lineBad c e line = false → u.lineBad c e line = false
  others : ∀ c' e', (c', e') ≠ (c, e) → u.runAt c' e' = s.runAt c' e'

theorem LinesCleaned.refl (s : State) (c e : Nat) : LinesCleaned s s c e := ⟨⟨_, rfl⟩, ⟨_, _, rfl⟩, fun _ h => h, fun _ _ _ => rfl⟩

theorem LinesCleaned.trans (h : LinesCleaned s t c e) (k : LinesCleaned t u c e) : LinesCleaned s u c e where
  rest := by
    obtain ⟨x, rfl⟩ := h.rest
    obtain ⟨y, rfl⟩ := k.rest
    exact ⟨y, rfl⟩
  run := by
    obtain ⟨q, d, hr⟩ := h.run
    obtain ⟨q', d', hk⟩ := k.run
    exact ⟨q', d', by rw [hk, hr]⟩
  bad := fun l hl => k.bad l (h.bad l hl)
  others := fun c' e' hn => (k.others c' e' hn).trans (h.others c' e' hn)

theorem linesCleaned_one (s : State) (c e line : Nat) : LinesCleaned s (s.cleanLine c e line) c e where
  rest := ⟨_, rfl⟩
  run := ⟨_, _, runAt_setRunAt ..⟩
  others := fun _ _ h => runAt_setRunAt_ne s _ h
  bad := fun l hl => by
    rw [State.lineBad, Bool.or_eq_false_iff] at hl ⊢
    obtain ⟨hp, hu⟩ := hl
    have hr : (s.cleanLine c e line).runAt c e = { s.runAt c e with
        poison := (s.runAt c e).poison.filter (· ≠ line), damage := eraseKey (s.runAt c e).damage line } := runAt_setRunAt ..
    refine ⟨?_, ?_⟩
    · rw [hr]
      rw [List.contains_eq_mem, decide_eq_false_iff_not] at hp ⊢
      exact fun hm => hp (List.mem_filter.mp hm).1
    · unfold State.uncorrectable at hu ⊢
      dsimp only at hu ⊢
      rw [hr]
      dsimp only
      rw [lookupD_eraseKey]
      by_cases hl : l = line
      · rw [if_pos hl]
        split
        · rfl
        · rename_i hd
          split at hu
          · rename_i hs
            rw [Bool.and_eq_true] at hs
            exact absurd (by rw [Bool.and_eq_true]; exact ⟨rfl, hs.2⟩) hd
          · rw [Bool.not_eq_false'] at hu ⊢
            exact correctable_nil hu
      · rw [if_neg hl]
        exact hu

theorem linesCleaned_range (s : State) (c e a b : Nat) : LinesCleaned s (s.cleanRange c e a b) c e := by
  unfold State.cleanRange
  generalize List.range (linesOf a b).2 = l
  induction l generalizing s with
  | nil => exact .refl ..
  | cons i l ih =>
    rw [List.foldl_cons]
    exact (linesCleaned_one ..).trans (ih _)

/-- What a block of records written to a run of device memory leaves: its bytes, lines that it has cleaned, and everything else. -/
structure BlockWritten (s u : State) (c e a : Nat) (data : List Byte) : Prop where
  rest : ∃ x, u = { s with mem := Memory.writeBytes s.mem (runKey c e a) data, ctxs := x }
  run : ∃ q d, u.runAt c e = { s.runAt c e with poison := q, damage := d }
  bad : ∀ line, s.lineBad c e line = false → u.lineBad c e line = false
  others : ∀ c' e', (c', e') ≠ (c, e) → u.runAt c' e' = s.runAt c' e'

theorem runKey_add (c e a j : Nat) : runKey c e (a + j) = runKey c e a + j := (Nat.add_assoc ..).symm

theorem BlockWritten.inside {data : List Byte} (h : BlockWritten s u c e a data) (hs : Memory.wf s.mem = true) {j : Nat} (hj : j < data.length) :
    Memory.read u.mem (runKey c e (a + j)) = data.getD j 0 := by
  obtain ⟨x, rfl⟩ := h.rest
  rw [runKey_add, List.getD_eq_getElem _ _ hj]
  exact Memory.read_writeBytes_inside hs ..

theorem BlockWritten.outside {data : List Byte} (h : BlockWritten s u c e a data) (hs : Memory.wf s.mem = true) {k : Nat}
    (hk : ∀ j < data.length, k ≠ runKey c e (a + j)) : Memory.read u.mem k = Memory.read s.mem k := by
  obtain ⟨x, rfl⟩ := h.rest
  refine Memory.read_writeBytes_outside hs _ _ _ ?_
  by_contra hn
  have hlt : k - runKey c e a < data.length := by omega
  exact hk _ hlt (by rw [runKey_add]; omega)

theorem LinesCleaned.put (h : LinesCleaned s t c e) (hh : (s.runAt c e).host = false) (a : Nat) (data : List Byte) :
    BlockWritten s (t.putRunBytes c e a data) c e a data := by
  obtain ⟨q, d, hr⟩ := h.run
  have ht : (t.runAt c e).host = false := by rw [hr]; exact hh
  rw [putRunBytes_mapped ht]
  obtain ⟨x, hx⟩ := h.rest
  exact ⟨⟨x, by rw [hx]⟩, ⟨q, d, hr⟩, h.bad, h.others⟩

/-- An operation that has translated a byte of a run meets no refusal there while the map stands (R327, R331). -/
theorem stale_translated {data : List Byte} (hw : BlockWritten s u o.ctx e a data) {f : OpPhase} {at_ e' off : Nat}
    (h : s.stale o e' off = false) : u.stale { u.translated o e at_ with phase := f } e' off = false := by
  by_cases he : e' = e
  · subst he
    unfold State.stale State.translated
    dsimp only
    rw [lookup?_insertKey, if_pos rfl]
    dsimp only
    rw [Bool.and_eq_false_iff]
    right
    rw [bne_self_eq_false]
  · obtain ⟨y, hy⟩ := hw.rest
    have hr := hw.others o.ctx e' (fun h => he (Prod.mk.inj h).2)
    have hd : u.dies = s.dies := by rw [hy]
    unfold State.stale State.translated State.mapGenOf at *
    dsimp only at *
    rw [lookup?_insertKey, if_neg he, hr, hd]
    exact h

/-- A block that its run takes whole, with no bound on what is done (R155, R328, R331, R334). -/
theorem writeBlock_all (hs : s.steps = none) (hh : (s.runAt o.ctx x.run.toNat).host = false) (hz : 0 < (s.runAt o.ctx x.run.toNat).size)
    (hc : (x.first + x.count) * (s.runAt o.ctx x.run.toNat).size ≤ (s.runAt o.ctx x.run.toNat).capacity)
    (hd : x.data.length = x.count * (s.runAt o.ctx x.run.toNat).size)
    (hr : s.refusing o.ctx x.run.toNat (x.first * (s.runAt o.ctx x.run.toNat).size)
      (x.first * (s.runAt o.ctx x.run.toNat).size + x.count * (s.runAt o.ctx x.run.toNat).size) = none)
    (ht : s.stale o x.run.toNat (x.first * (s.runAt o.ctx x.run.toNat).size) = false) :
    ∃ u p y, s.writeBlock o x = (u, p, y, .all) ∧
      BlockWritten s u o.ctx x.run.toNat (x.first * (s.runAt o.ctx x.run.toNat).size) x.data ∧
      (∃ m f, p = { o with maps := m, phase := f }) ∧ ∀ e off, s.stale o e off = false → u.stale p e off = false := by
  unfold State.writeBlock
  dsimp only
  have hroom : Nat.min x.count (((s.runAt o.ctx x.run.toNat).capacity - x.first * (s.runAt o.ctx x.run.toNat).size) /
      (s.runAt o.ctx x.run.toNat).size) = x.count := by
    refine Nat.min_eq_left ((Nat.le_div_iff_mul_le hz).mpr ?_)
    rw [Nat.add_mul] at hc
    omega
  rw [hroom]
  by_cases h0 : x.count = 0
  · rw [if_pos h0, if_pos h0]
    have hdata : x.data = [] := List.length_eq_zero_iff.mp (by rw [hd, h0, Nat.zero_mul])
    exact ⟨s, o, x, rfl, ⟨⟨s.ctxs, by rw [hdata]; rfl⟩, ⟨_, _, rfl⟩, fun _ h => h, fun _ _ _ => rfl⟩, ⟨_, _, rfl⟩, fun _ _ h => h⟩
  · rw [if_neg h0, ht, if_neg Bool.false_ne_true, hs, Option.getD_none, show Nat.min x.count x.count = x.count from Nat.min_self _]
    have hw : s.wholeRecords o.ctx x.run.toNat (x.first * (s.runAt o.ctx x.run.toNat).size) (s.runAt o.ctx x.run.toNat).size (x.count + 1)
        x.count = (s, x.count, none) := by
      rw [State.wholeRecords, hr]
    rw [hw]
    have hput := (linesCleaned_range s o.ctx x.run.toNat (x.first * (s.runAt o.ctx x.run.toNat).size)
      (x.first * (s.runAt o.ctx x.run.toNat).size + x.count * (s.runAt o.ctx x.run.toNat).size)).put hh
      (x.first * (s.runAt o.ctx x.run.toNat).size) (x.data.take (x.count * (s.runAt o.ctx x.run.toNat).size))
    rw [List.take_of_length_le (Nat.le_of_eq hd)] at hput ⊢
    simp only [Nat.sub_self, if_true]
    exact ⟨_, _, _, rfl, hput, ⟨_, _, rfl⟩, fun e off h => stale_translated hput h⟩

end

/-! ## A copy completed (R175–R179) -/

section
variable {s : State} {o : Op} {d : CopyDesc} {sem : Option Nat} {core off : Nat → Nat}

/-- An append of one block that its run takes whole ends with it. -/
theorem driveAppend_all {x : Taken} {u : State} {p : Op} {y : Taken} (hx : o.taken = [x]) (hb : s.writeBlock o x = (u, p, y, .all))
    (hp : ∃ m f, p = { o with maps := m, phase := f }) (hu : (u.runAt o.ctx x.run.toNat).host = false) {after : State → State}
    (ha : ∀ t, after t = t) : s.driveAppend o after = u.endOp o := by
  obtain ⟨m, f, rfl⟩ := hp
  have hw : s.writeTaken o [x] = (u, { o with maps := m, phase := f }, [], .all) := by
    rw [State.writeTaken, hb]
    rfl
  have hend : (u.endOp { o with maps := m, phase := f, taken := [] }) = u.endOp o := rfl
  unfold State.driveAppend
  dsimp only
  rw [hx, hw]
  dsimp only
  rw [ha, hend, State.stallWords, List.foldl_cons, List.foldl_nil, State.stallWord]
  refine if_neg ?_
  rw [runAt_endOp, hu]
  exact Bool.false_ne_true

/-- What a copy leaves whose units all lie here (R175, R178, R179). -/
theorem unitsWritten_leaves (hs : Canonical s) {w : Nat} {bytes : Nat → List Byte} (hb : ∀ u, (bytes u).length = w) (n total : Nat) :
    let t := (State.postCopy { s with mem := unitMem (fun u => lsKey (core u) (off u)) bytes s.mem n } o sem total).endOp o
    t.alive o.id = false ∧ (∀ k, (∀ u < n, ¬(lsKey (core u) (off u) ≤ k ∧ k < lsKey (core u) (off u) + w)) → byteAt t k = byteAt s k) ∧
      (∀ u k, u < n → lsKey (core u) (off u) ≤ k ∧ k < lsKey (core u) (off u) + w →
        (∀ v < n, u < v → ¬(lsKey (core v) (off v) ≤ k ∧ k < lsKey (core v) (off v) + w)) →
        byteAt t k = (bytes u).getD (k - lsKey (core u) (off u)) 0) ∧
      ∀ n < 64, sem = some n → (t.coreAt o.core).sem n =
        BitVec.ofNat 64 (min (((s.coreAt o.core).sem n).toNat + total) (2 ^ 64 - 1)) := by
  dsimp only
  obtain ⟨_, hout, hin⟩ := unitMem_spec (key := fun u => lsKey (core u) (off u)) hs w hb n
  generalize hm : unitMem (fun u => lsKey (core u) (off u)) bytes s.mem n = m at hout hin ⊢
  obtain ⟨x, y, hx, hy⟩ := postCopy_eq (s := { s with mem := m }) (o := o) (sem := sem) total
  refine ⟨alive_endOp _ o, fun k hk => ?_, fun u k hu hk hv => ?_, fun n hn hsem => ?_⟩
  · rw [byteAt, mem_endOp, hx]
    exact hout k hk
  · rw [byteAt, mem_endOp, hx]
    exact hin u k hu hk hv
  · obtain ⟨q, hq⟩ := coreAt_endOp (s := State.postCopy { s with mem := m } o sem total) (o := o) o.core
    rw [hq, hx]
    exact hy n hn hsem

theorem fill_complete (ho : s.opAt o.id = some o) (hp : o.phase = .working) (hl : s.late = false) (h0 : o.counts.2.1 = 0)
    (hu : ∀ u < d.pat.units, s.unitAt o .patWrite d.pat u = .ok (.ls (core u) (off u))) (hk : o.kind = .fill d sem) :
    exec (.copyComplete o.id) s = .next ((State.postCopy { s with
      mem := unitMem (fun u => lsKey (core u) (off u)) (fillBytes d) s.mem d.pat.units } o sem d.pat.total).endOp o) := by
  show execCopyComplete o.id s = _
  refine (opEvent_at ho _).trans ?_
  simp only [hk, hp, if_true, Option.getD_some, writeUnits_here hl h0 hu]

theorem copyIn_complete (ho : s.opAt o.id = some o) (hp : o.phase = .working) (hl : s.late = false) (h0 : o.counts.2.1 = 0)
    (hu : ∀ u < d.pat.units, s.unitAt o .patWrite d.pat u = .ok (.ls (core u) (off u))) (hk : o.kind = .copyIn d sem)
    (hb : s.badIn o.ctx (handleEntry d.run) d.off (min (d.off + d.pat.total) o.counts.1.toNat) = none) :
    exec (.copyComplete o.id) s = .next ((State.postCopy { s with
      mem := unitMem (fun u => lsKey (core u) (off u)) (s.copyBytes o d o.counts.1.toNat) s.mem d.pat.units } o sem d.pat.total).endOp o) := by
  show execCopyComplete o.id s = _
  refine (opEvent_at ho _).trans ?_
  have hb' : s.badIn o.ctx (handleEntry d.run) d.off (Nat.min (d.off + d.pat.total) o.counts.1.toNat) = none := hb
  simp only [hk, hp, if_true, hb', Option.getD_some, writeUnits_here hl h0 hu]

theorem append_complete {x : Taken} (ho : s.opAt o.id = some o) (hp : o.phase = .working) (hx : o.taken = [x])
    (hk : (∃ d sem, o.kind = .copyOut d sem) ∨ (∃ a b, o.kind = .copyRun a b ∧ o.counts.2.1 = 0)) {u : State} {p : Op} {y : Taken}
    (hb : s.writeBlock o x = (u, p, y, .all)) (hpo : ∃ m f, p = { o with maps := m, phase := f })
    (hu : (u.runAt o.ctx x.run.toNat).host = false) : exec (.copyComplete o.id) s = .next (u.endOp o) := by
  show execCopyComplete o.id s = _
  refine (opEvent_at ho _).trans ?_
  rcases hk with ⟨d, sem, hk⟩ | ⟨a, b, hk, h0⟩
  · simp only [hk, hp, Option.getD_some, driveAppend_all hx hb hpo hu (after := fun s => s) fun _ => rfl]
  · have ha : s.driveAppend o (fun s => if o.counts.2.1 = 0 then s else s.reportOp o .poison o.counts.2.2 false) = u.endOp o :=
      driveAppend_all hx hb hpo hu fun t => if_pos h0
    simp only [hk, hp, if_true, Option.getD_some, ha]

end

end Sys2Proof.Machine
end

section
/-! SUPPORT. The statements settled: copies between runs and patterns -/

namespace Sys2Proof.Proofs

open Sys2Proof.Machine

/-- Settles O33: each copy's issue, its start, and what it writes: units in their order, or records at the positions taken. -/
theorem copies : Obligations.Copies := by
  unfold Obligations.Copies
  refine ⟨⟨fun p n bs s hd => readDesc_ok hd, fun acc offset p head bs s hd => ?_⟩, fun a b h q s hh hn hq => ⟨fun d sem hs => ?_, ?_⟩,
    fun s o ho hp hd => ⟨fun d sem hk => ?_, fun d sem hk => fill_start ho hp hd hk, ?_⟩,
    fun s o d sem core off hs ho hp hl h0 _ _ hu => ?_, fun s o x hs ho hp hst hx hk => ?_⟩
  case refine_1 => exact fun h16 hb hp hoff hc => readCopy_ok hd h16 hb hp hoff hc
  case refine_2 =>
    have hsem := checkSem_ok hs
    exact ⟨fun hd hr => rcopyin_next hh hn hq hsem hd hr.1 hr.2, fun hd hr hop ht => rcopyout_next hh hn hq hsem hd hr.1 hr.2 hop ht,
      fun hd => rfill_next hh hn hq hsem hd⟩
  case refine_3 => exact fun hr hw he he' hne hop hz => rcopyrr_next hh hn hq hr hw he he' hne hop hz
  case refine_4 =>
    refine copyIn_start ho hp hd (d := d) (sem := sem) ?_
    rcases hk with hk | ⟨x, hk, hr⟩
    · exact .inl ⟨hk, rfl⟩
    · exact .inr ⟨x, hk, hr⟩
  case refine_5 =>
    exact ⟨fun d sem core off hk ht hs hz hl _ hu => copyOut_start ho hp hd hk ht hs hz hl hu,
      fun a b hk ht hs hz he hpub hb => copyRun_start ho hp hd hk ht hs hz he hpub hb⟩
  case refine_6 =>
    dsimp only
    have hbyte : ∀ {bytes : Nat → List Byte} {f : Nat → Byte}, (∀ u, bytes u = (List.range d.pat.unit).map (fun k => f (u * d.pat.unit + k))) →
        ∀ u k, lsKey (core u) (off u) ≤ k ∧ k < lsKey (core u) (off u) + d.pat.unit →
          (bytes u).getD (k - lsKey (core u) (off u)) 0 = f (u * d.pat.unit + (k - lsKey (core u) (off u))) := by
      intro bytes f hf u k hk
      rw [hf, List.getD_eq_getElem _ _ (by rw [List.length_map, List.length_range]; omega), List.getElem_map, List.getElem_range]
    refine ⟨fun hk => ⟨_, fill_complete ho hp hl h0 hu hk, ?_⟩, fun hk hb => ⟨_, copyIn_complete ho hp hl h0 hu hk hb, ?_⟩⟩
    · obtain ⟨ha, hout, hin, hpost⟩ := unitsWritten_leaves (o := o) (core := core) (off := off) (sem := sem) hs (bytes := fillBytes d)
        (w := d.pat.unit) (fun u => by rw [fillBytes, List.length_map, List.length_range]) d.pat.units d.pat.total
      exact ⟨ha, hout, fun u k hu hk hv => (hin u k hu hk hv).trans (hbyte (fun _ => rfl) u k hk), hpost⟩
    · obtain ⟨ha, hout, hin, hpost⟩ := unitsWritten_leaves (o := o) (core := core) (off := off) (sem := sem) hs
        (bytes := s.copyBytes o d o.counts.1.toNat) (w := d.pat.unit) (fun u => by rw [State.copyBytes, List.length_map, List.length_range])
        d.pat.units d.pat.total
      exact ⟨ha, hout, fun u k hu hk hv => (hin u k hu hk hv).trans (hbyte (f := fun j => if d.off + j < o.counts.1.toNat then
        s.runByte o.ctx (handleEntry d.run) (d.off + j) else fillByte d.fill j) (fun _ => rfl) u k hk), hpost⟩
  case refine_7 =>
    dsimp only
    intro hh hz hc hd hr ht
    obtain ⟨u, p, y, hb, hw, hpo, _⟩ := writeBlock_all hst hh hz hc hd hr ht
    obtain ⟨q, dm, hrun⟩ := hw.run
    obtain ⟨z, hrest⟩ := hw.rest
    refine ⟨_, append_complete ho hp hx hk hb hpo (by rw [hrun]; exact hh), alive_endOp _ o, fun j hj => ?_, fun k hk => ?_⟩
    · exact (congrArg (Memory.read · _) (mem_endOp u o)).trans (hw.inside hs hj)
    · exact (congrArg (Memory.read · _) (mem_endOp u o)).trans (hw.outside hs hk)

end Sys2Proof.Proofs
end

section
/-! SUPPORT. records emitted one by one -/

namespace Sys2Proof.Machine

/-! ## Records emitted one by one (R155, R183) -/

section
variable {s t u : State} {c e : Nat} {o p : Op}

/-- The records of a list that go to an entry, in their order. -/
def mineOf (e : Nat) (l : List (Nat × List Byte)) : List (List Byte) := (l.filter (fun p => p.1 = e)).map Prod.snd

/-- The blocks still to be taken of records that go to entries. -/
def toTake (l : List (Nat × List Byte)) : List Taken := l.map (fun p => ⟨BitVec.ofNat 64 p.1, 0, 0, 0, p.2⟩)

/-- Bytes read one by one are those of a list. -/
theorem readBytes_eq {m : Memory} {l : List Byte} {k : Nat} (h : ∀ j < l.length, Memory.read m (k + j) = l.getD j 0) :
    Memory.readBytes m k l.length = l := by
  induction l generalizing k with
  | nil => rfl
  | cons b l ih =>
    rw [List.length_cons, Memory.readBytes]
    congr 1
    · exact h 0 (Nat.succ_pos _)
    · refine ih fun j hj => ?_
      rw [Nat.add_assoc, Nat.add_comm 1]
      exact h (j + 1) (Nat.succ_lt_succ hj)

/-- A range without a failing line refuses no write. -/
theorem refusing_of_sound (h : ∀ line, s.lineBad c e line = false) (a b : Nat) : s.refusing c e a b = none := by
  unfold State.refusing
  split
  · rfl
  · refine List.find?_eq_none.mpr fun l _ => ?_
    rw [h l, Bool.false_and]
    exact Bool.false_ne_true

theorem stale_congr {off : Nat} (hr : ∃ l q d, t.runAt o.ctx e = { s.runAt o.ctx e with len := l, poison := q, damage := d })
    (hd : t.dies = s.dies) : t.stale o e off = s.stale o e off := by
  obtain ⟨l, q, d, hr⟩ := hr
  unfold State.stale State.mapGenOf
  dsimp only
  rw [hr, hd]

/-- What records emitted to runs leave: their bytes after those that the runs held, and everything else but lines that they clean. -/
structure Emitted (s u : State) (c : Nat) (l : List (Nat × List Byte)) : Prop where
  rest : ∃ m x, u = { s with mem := m, ctxs := x }
  wf : Memory.wf u.mem = true
  run : ∀ e, ∃ q d, u.runAt c e = { s.runAt c e with len := (s.runAt c e).len + (mineOf e l).length, poison := q, damage := d }
  others : ∀ c' e', c' ≠ c ∨ mineOf e' l = [] → u.runAt c' e' = s.runAt c' e'
  low : ∀ k < 2 ^ 64, Memory.read u.mem k = Memory.read s.mem k
  old : ∀ e off, off < (s.runAt c e).len * (s.runAt c e).size → off < 2 ^ 42 →
    Memory.read u.mem (runKey c e off) = Memory.read s.mem (runKey c e off)
  new : ∀ e, ∀ i < (mineOf e l).length, ∀ j < (s.runAt c e).size,
    Memory.read u.mem (runKey c e (((s.runAt c e).len + i) * (s.runAt c e).size + j)) = ((mineOf e l).getD i []).getD j 0

theorem Emitted.nil (s : State) (c : Nat) (h : Memory.wf s.mem = true) : Emitted s s c [] where
  rest := ⟨_, _, rfl⟩
  wf := h
  run := fun _ => ⟨_, _, rfl⟩
  others := fun _ _ _ => rfl
  low := fun _ _ => rfl
  old := fun _ _ _ _ => rfl
  new := fun _ i hi => absurd hi (Nat.not_lt_zero i)

theorem mineOf_cons (e e0 : Nat) (b : List Byte) (l : List (Nat × List Byte)) :
    mineOf e ((e0, b) :: l) = if e0 = e then b :: mineOf e l else mineOf e l := by
  by_cases h : e0 = e <;> simp [mineOf, h]

/-- Two bytes of device memory within their runs' parts are the same byte of the same run only. -/
theorem runKey_ne {e e' off off' : Nat} (h : e ≠ e') (ho : off < 2 ^ 42) (ho' : off' < 2 ^ 42) (c : Nat) : runKey c e off ≠ runKey c e' off' := by
  rw [runKey, runKey]
  omega

/-- What a first record leaves: its run is one record longer, and its bytes are the record's. -/
structure FirstEmitted (s s1 : State) (c e : Nat) (b : List Byte) : Prop where
  rest : ∃ m x, s1 = { s with mem := m, ctxs := x }
  wf : Memory.wf s1.mem = true
  run : ∃ q d, s1.runAt c e = { s.runAt c e with len := (s.runAt c e).len + 1, poison := q, damage := d }
  others : ∀ c' e', (c', e') ≠ (c, e) → s1.runAt c' e' = s.runAt c' e'
  outside : ∀ k, (∀ j < b.length, k ≠ runKey c e ((s.runAt c e).len * (s.runAt c e).size + j)) → Memory.read s1.mem k = Memory.read s.mem k
  inside : ∀ j < b.length, Memory.read s1.mem (runKey c e ((s.runAt c e).len * (s.runAt c e).size + j)) = b.getD j 0

theorem firstEmitted_of {b : List Byte} {s1 : State} (hs : Memory.wf s.mem = true)
    (hr : BlockWritten (s.setRunAt c e { s.runAt c e with len := (s.runAt c e).len + 1 }) s1 c e
      ((s.runAt c e).len * (s.runAt c e).size) b) : FirstEmitted s s1 c e b where
  rest := by
    obtain ⟨x, hx⟩ := hr.rest
    exact ⟨_, _, hx⟩
  wf := by
    obtain ⟨x, hx⟩ := hr.rest
    rw [hx]
    exact Memory.wf_writeBytes hs _ _
  run := by
    obtain ⟨q, d, hq⟩ := hr.run
    rw [runAt_setRunAt] at hq
    exact ⟨q, d, hq⟩
  others := fun c' e' hn => (hr.others c' e' hn).trans (runAt_setRunAt_ne s _ hn)
  outside := fun k hk => hr.outside hs hk
  inside := fun j hj => hr.inside hs hj

/-- A record emitted before others. -/
theorem Emitted.cons {e0 : Nat} {b : List Byte} {l : List (Nat × List Byte)} {s1 : State} (hf : FirstEmitted s s1 c e0 b)
    (hb : b.length = (s.runAt c e0).size) (hcap : ((s.runAt c e0).len + 1) * (s.runAt c e0).size ≤ 2 ^ 42)
    (h : Emitted s1 u c l) : Emitted s u c ((e0, b) :: l) := by
  obtain ⟨q0, d0, hrun⟩ := hf.run
  have hother : ∀ e, e0 ≠ e → s1.runAt c e = s.runAt c e := fun e he => hf.others c e fun hc => he (Prod.mk.inj hc).2.symm
  have hl1 : (s1.runAt c e0).len = (s.runAt c e0).len + 1 := by rw [hrun]
  have hz1 : (s1.runAt c e0).size = (s.runAt c e0).size := by rw [hrun]; rfl
  have hmul := Nat.add_mul (s.runAt c e0).len 1 (s.runAt c e0).size
  rw [Nat.one_mul] at hmul
  refine ⟨?_, h.wf, fun e => ?_, fun c' e' hc => ?_, fun k hk => ?_, fun e off ho h42 => ?_, fun e i hi j hj => ?_⟩
  · obtain ⟨m, x, hx⟩ := hf.rest
    obtain ⟨m', x', hx'⟩ := h.rest
    exact ⟨m', x', by rw [hx', hx]⟩
  · obtain ⟨q, d, hq⟩ := h.run e
    rw [mineOf_cons]
    by_cases he : e0 = e
    · subst he
      rw [if_pos rfl, List.length_cons]
      refine ⟨q, d, ?_⟩
      rw [hq, hrun]
      simp only [Nat.add_assoc, Nat.add_comm 1]
    · rw [if_neg he, ← hother e he]
      exact ⟨q, d, hq⟩
  · rw [mineOf_cons] at hc
    have hne : (c', e') ≠ (c, e0) := by
      rintro hh
      obtain ⟨rfl, rfl⟩ := Prod.mk.inj hh
      rcases hc with hc | hc
      · exact hc rfl
      · rw [if_pos rfl] at hc
        exact List.cons_ne_nil _ _ hc
    refine (h.others c' e' ?_).trans (hf.others c' e' hne)
    refine hc.imp_right fun hc => ?_
    split at hc
    · exact absurd hc (List.cons_ne_nil _ _)
    · exact hc
  · rw [h.low k hk]
    refine hf.outside k fun j _ => ?_
    rw [runKey]
    omega
  · have hlen : (s.runAt c e).len * (s.runAt c e).size ≤ (s1.runAt c e).len * (s1.runAt c e).size := by
      by_cases he : e0 = e
      · subst he
        rw [hrun]
        exact Nat.mul_le_mul_right _ (Nat.le_succ _)
      · rw [hother e he]
    rw [h.old e off (Nat.lt_of_lt_of_le ho hlen) h42]
    refine hf.outside _ fun j hj => ?_
    by_cases he : e0 = e
    · subst he
      rw [runKey, runKey]
      omega
    · exact runKey_ne (Ne.symm he) h42 (by omega) c
  · rw [mineOf_cons] at hi ⊢
    by_cases he : e0 = e
    · subst he
      rw [if_pos rfl] at hi ⊢
      cases i with
      | zero =>
        rw [Nat.add_zero, List.getD_cons_zero, h.old e0 _ (by rw [hl1, hz1]; omega) (by omega)]
        exact hf.inside j (by rw [hb]; exact hj)
      | succ i =>
        have hn := h.new e0 i (Nat.lt_of_succ_lt_succ hi) j (by rw [hz1]; exact hj)
        rw [hl1, hz1] at hn
        rw [List.getD_cons_succ, ← hn, Nat.add_assoc (s.runAt c e0).len, Nat.add_comm 1 i]
    · rw [if_neg he] at hi ⊢
      have hn := h.new e i hi j (by rw [hother e he]; exact hj)
      rwa [hother e he] at hn

/-- A block of one record that goes to an entry, once its position is taken. -/
def oneBlock (e n : Nat) (b : List Byte) : Taken := ⟨BitVec.ofNat 64 e, n, n, 1, b⟩

/-- The state once the position of a run's next record is taken. -/
def State.tookOne (s : State) (c e : Nat) : State := s.setRunAt c e { s.runAt c e with len := (s.runAt c e).len + 1 }

theorem takes_congr {n : Nat} (hw : Whole t) (hr : ∃ q d, t.runAt o.ctx e = { s.runAt o.ctx e with poison := q, damage := d })
    (hb : ∀ line, s.lineBad o.ctx e line = false → t.lineBad o.ctx e line = false)
    (hst : ∀ off, s.stale o e off = false → t.stale p e off = false) (hp : p.ctx = o.ctx) (h : Takes s o e n) : Takes t p e n := by
  obtain ⟨_, hs, hh, hz, hc, h42, hl, hstale⟩ := h
  obtain ⟨q, d, hr⟩ := hr
  rw [Takes, hp, hr]
  exact ⟨hw, hs, hh, hz, hc, h42, fun l => hb l (hl l), fun off => hst off (hstale off)⟩

/-- A run that takes records takes the first of them whole. -/
theorem emit_one {n : Nat} {b : List Byte} (hs : Memory.wf s.mem = true) (ht : Takes s o e (n + 1)) (hb : b.length = (s.runAt o.ctx e).size)
    (he : e < 2 ^ 64) : ∃ s1 p y, (s.tookOne o.ctx e).writeBlock o (oneBlock e (s.runAt o.ctx e).len b) = (s1, p, y, .all) ∧
      FirstEmitted s s1 o.ctx e b ∧ (∃ m f, p = { o with maps := m, phase := f }) ∧ Takes s1 p e n ∧
      ∀ e' n', e' ≠ e → Takes s o e' n' → Takes s1 p e' n' := by
  obtain ⟨hw, hopen, hh, hz, hc, h42, hl, hstale⟩ := ht
  have hx : (oneBlock e (s.runAt o.ctx e).len b).run.toNat = e := by
    show (BitVec.ofNat 64 e).toNat = e
    rw [BitVec.toNat_ofNat, Nat.mod_eq_of_lt he]
  have hrun : (s.tookOne o.ctx e).runAt o.ctx e = { s.runAt o.ctx e with len := (s.runAt o.ctx e).len + 1 } := runAt_setRunAt ..
  have hcap : (s.runAt o.ctx e).capacity = ((s.tookOne o.ctx e).runAt o.ctx e).capacity := by rw [hrun]; rfl
  have hsize : (s.runAt o.ctx e).size = ((s.tookOne o.ctx e).runAt o.ctx e).size := by rw [hrun]; rfl
  have hbad : ∀ line, (s.tookOne o.ctx e).lineBad o.ctx e line = false := fun line =>
    (lineBad_congr ⟨_, _, _, hrun⟩ fun i => ⟨_, rfl⟩).trans (hl line)
  have hst : ∀ e' off, s.stale o e' off = false → (s.tookOne o.ctx e).stale o e' off = false := fun e' off h => by
    by_cases h' : e' = e
    · subst h'
      exact (stale_congr ⟨_, _, _, hrun⟩ rfl).trans h
    · exact (stale_congr ⟨_, _, _, runAt_setRunAt_ne s _ fun hc => h' (Prod.mk.inj hc).2⟩ rfl).trans h
  have hfit : ((s.runAt o.ctx e).len + 1) * (s.runAt o.ctx e).size ≤ (s.runAt o.ctx e).capacity :=
    Nat.le_trans (Nat.mul_le_mul_right _ (by omega)) hc
  obtain ⟨u, p, y, hwb, hbw, hpo, hkeep⟩ := writeBlock_all (s := s.tookOne o.ctx e) (o := o) (x := oneBlock e (s.runAt o.ctx e).len b) hw.2
    (by rw [hx, hrun]; exact hh) (by rw [hx, ← hsize]; exact hz) (by rw [hx, ← hsize, ← hcap]; exact hfit)
    (by rw [hx, ← hsize]; exact hb.trans (Nat.one_mul _).symm) (by rw [hx]; exact refusing_of_sound hbad _ _)
    (by rw [hx]; exact hst e _ (hstale _))
  rw [hx, ← hsize] at hbw
  obtain ⟨z, hz'⟩ := hbw.rest
  obtain ⟨m, f, rfl⟩ := hpo
  have hwhole : Whole u := by
    rw [hz']
    exact hw
  refine ⟨u, _, y, hwb, firstEmitted_of hs hbw, ⟨_, _, rfl⟩, ?_, fun e' n' hne h' => ?_⟩
  · obtain ⟨q, d, hq⟩ := hbw.run
    rw [hrun] at hq
    rw [Takes, hq]
    refine ⟨hwhole, hopen, hh, hz, ?_, h42, fun l => hbw.bad l (hbad l), fun off => hkeep e off (hst e off (hstale off))⟩
    rw [show (s.runAt o.ctx e).len + 1 + n = (s.runAt o.ctx e).len + (n + 1) by omega]
    exact hc
  · have hr : u.runAt o.ctx e' = s.runAt o.ctx e' :=
      (hbw.others o.ctx e' fun hc => hne (Prod.mk.inj hc).2).trans (runAt_setRunAt_ne s _ fun hc => hne (Prod.mk.inj hc).2)
    have hd : u.dies = s.dies := by rw [hz']; rfl
    exact takes_congr hwhole ⟨_, _, hr⟩ (fun l hl => (lineBad_congr ⟨_, _, _, hr⟩ fun i => ⟨_, by rw [hd]⟩).trans hl)
      (fun off h => hkeep e' off (hst e' off h)) rfl h'

/-- Records whose runs take them all are emitted in their order. -/
theorem emitList_all {l : List (Nat × List Byte)} (hs : Memory.wf s.mem = true) (ht : ∀ q ∈ l, Takes s o q.1 (mineOf q.1 l).length)
    (hb : ∀ q ∈ l, q.1 < 2 ^ 64 ∧ q.2.length = (s.runAt o.ctx q.1).size) :
    ∃ u m f, s.emitList o (toTake l) = (u, { o with maps := m, phase := f }, [], .all) ∧ Emitted s u o.ctx l := by
  induction l generalizing s o with
  | nil => exact ⟨s, o.maps, o.phase, rfl, .nil s o.ctx hs⟩
  | cons q l ih =>
    obtain ⟨e, b⟩ := q
    obtain ⟨he, hlen⟩ := hb (e, b) (List.mem_cons_self ..)
    have htk := ht (e, b) (List.mem_cons_self ..)
    dsimp only at he hlen htk
    rw [mineOf_cons, if_pos rfl, List.length_cons] at htk
    obtain ⟨s1, p, y, hw, hf, ⟨m, f, rfl⟩, htake, hothers⟩ := emit_one hs htk hlen he
    obtain ⟨hwhole, hopen, _, hz, hc, h42, _⟩ := htk
    obtain ⟨z1, z2, hrest⟩ := hf.rest
    have hsize : ∀ e', (s1.runAt o.ctx e').size = (s.runAt o.ctx e').size := fun e' => by
      by_cases h' : e' = e
      · subst h'
        obtain ⟨_, _, hq⟩ := hf.run
        rw [hq]
        rfl
      · rw [hf.others o.ctx e' fun h => h' (Prod.mk.inj h).2]
    obtain ⟨u, m', f', hlist, hem⟩ := ih (s := s1) (o := { o with maps := m, phase := f }) hf.wf
      (fun q hq => by
        by_cases h' : q.1 = e
        · rw [h']
          exact htake
        · refine hothers q.1 _ h' ?_
          have := ht q (List.mem_cons_of_mem _ hq)
          rwa [mineOf_cons, if_neg (Ne.symm h')] at this)
      (fun q hq => ⟨(hb q (List.mem_cons_of_mem _ hq)).1, (hb q (List.mem_cons_of_mem _ hq)).2.trans (hsize q.1).symm⟩)
    refine ⟨u, m', f', ?_, hem.cons hf hlen (Nat.le_trans (Nat.mul_le_mul_right _ (by omega)) (Nat.le_trans hc h42))⟩
    have hx : (BitVec.ofNat 64 e).toNat = e := by rw [BitVec.toNat_ofNat, Nat.mod_eq_of_lt he]
    have hsteps : ({ s1 with steps := s1.steps.map (· - 1) } : State) = s1 := by
      rw [hrest]
      show ({ s with mem := z1, ctxs := z2, steps := s.steps.map (· - 1) } : State) = _
      rw [hwhole.2]
      rfl
    have hdiv : b.length / (s.runAt o.ctx e).size = 1 := by rw [hlen, Nat.div_self hz]
    have hw' : (s.setRunAt o.ctx e { s.runAt o.ctx e with len := (s.runAt o.ctx e).len + 1 }).writeBlock o
        ⟨BitVec.ofNat 64 e, (s.runAt o.ctx e).len, (s.runAt o.ctx e).len, 1, b⟩ = (s1, { o with maps := m, phase := f }, y, .all) := hw
    have hst : ¬s.steps = some 0 := by
      rw [hwhole.2]
      exact nofun
    rw [toTake, List.map_cons, State.emitList]
    dsimp only
    have hno : ¬(0 = 0 ∧ (s.runAt o.ctx e).state ≠ .opened) := fun h => h.2 hopen
    rw [if_neg hst, hx, if_neg hno, if_pos rfl, hdiv]
    dsimp only
    rw [hw']
    dsimp only
    rw [hsteps]
    exact hlist

theorem Emitted.appended {l : List (Nat × List Byte)} (h : Emitted s u c l) (hh : (s.runAt c e).host = false)
    (hb : ∀ q ∈ l, q.1 = e → q.2.length = (s.runAt c e).size) : Appended s u c e (mineOf e l) := by
  obtain ⟨q, d, hq⟩ := h.run e
  have hz : (u.runAt c e).size = (s.runAt c e).size := by rw [hq]; rfl
  refine ⟨by rw [hq], fun i hi => ?_⟩
  have hlen : ((mineOf e l).getD i []).length = (s.runAt c e).size := by
    rw [List.getD_eq_getElem _ _ hi]
    have hm := List.getElem_mem hi
    obtain ⟨p, hp, he⟩ := List.mem_map.mp hm
    obtain ⟨hpl, hpe⟩ := List.mem_filter.mp hp
    rw [← he]
    exact hb p hpl (of_decide_eq_true hpe)
  rw [State.record, runBytes_mapped (by rw [hq]; exact hh), hz, ← hlen]
  refine readBytes_eq fun j hj => ?_
  rw [← runKey_add, hlen]
  exact h.new e i hi j (by rwa [hlen] at hj)

theorem runAt_countRouting (m n : Nat) (c e : Nat) : (s.countRouting o m n).runAt c e = s.runAt c e := by
  rw [State.countRouting]
  split
  · rfl
  · have hk : ∀ (ks : List Nat) (x : Ctx), (ks.foldl Ctx.countRoute x).runs = x.runs := by
      intro ks
      induction ks with
      | nil => exact fun _ => rfl
      | cons k ks ih =>
        intro x
        rw [List.foldl_cons, ih, Ctx.countRoute]
        split <;> rfl
    by_cases hc : c = o.ctx
    · rw [State.runAt, hc, State.ctxAt_setCtxAt, Ctx.run, hk]
      rfl
    · rw [State.runAt, State.ctxAt_setCtxAt_ne _ _ hc]
      rfl

theorem countRouting_rest (m n : Nat) : ∃ x, s.countRouting o m n = { s with ctxs := x } := by
  rw [State.countRouting]
  split
  · exact ⟨_, rfl⟩
  · exact ⟨_, rfl⟩

/-- An operation whose emissions have all been made, as it stands then (R184). -/
def Op.emitted (o : Op) (m : List (Nat × Nat × BitVec 16)) : Op :=
  { o with
    maps := m
    taken := []
    preds := []
    phase := if (lookupD 0 o.buf 0).toNat = 0 then .working
      else .stopped (statusCause (lookupD 0 o.buf 0).toNat) (lookupD 0 o.buf 1) (lookupD 0 o.buf 0).toNat }

theorem emitOn_all {l : List (Nat × List Byte)} (hs : Memory.wf s.mem = true) (hto : o.taken = toTake l)
    (ht : ∀ q ∈ l, Takes s o q.1 (mineOf q.1 l).length) (hb : ∀ q ∈ l, q.1 < 2 ^ 64 ∧ q.2.length = (s.runAt o.ctx q.1).size)
    (dests : List Word) : ∃ u m, Emitted s u o.ctx l ∧
      s.emitOn o dests = (u.countRouting o o.counts.2.1.toNat o.counts.1.toNat).setOp (o.emitted m) := by
  obtain ⟨u, m, f, hl, hem⟩ := emitList_all hs ht hb
  refine ⟨u, m, hem, ?_⟩
  have hv : ∀ (ts : List Taken) (v : State), (∀ x ∈ ts, (v.runAt o.ctx x.run.toNat).host = false) → v.stallWords o.ctx ts = v := by
    intro ts v hx
    rw [State.stallWords]
    induction ts with
    | nil => rfl
    | cons x ts ih =>
      rw [List.foldl_cons, State.stallWord, hx x (List.mem_cons_self ..), if_neg Bool.false_ne_true]
      exact ih fun y hy => hx y (List.mem_cons_of_mem _ hy)
  unfold State.emitOn
  dsimp only
  rw [hto, hl]
  dsimp only
  refine (hv _ _ fun x hx => ?_).trans rfl
  obtain ⟨q, hq, rfl⟩ := List.mem_map.mp hx
  have he : (BitVec.ofNat 64 q.1).toNat = q.1 := by rw [BitVec.toNat_ofNat, Nat.mod_eq_of_lt (hb q hq).1]
  obtain ⟨_, _, hrun⟩ := hem.run q.1
  show ((u.countRouting _ _ _).runAt o.ctx (BitVec.ofNat 64 q.1).toNat).host = false
  rw [runAt_countRouting, he, hrun]
  exact (ht q hq).2.2.1

end

end Sys2Proof.Machine
end

section
/-! SUPPORT. near-memory jobs -/

namespace Sys2Proof.Machine

/-! ## Near-memory jobs and scans at issue (R336, R341, R344, R345) -/

section
variable {s : State} {d a b : Reg} {h : HReg} {q : Nat}

/-- An operation that enters a sequencer leaves the hart and memory. -/
theorem addOp_rest (s : State) (q : Nat) (cls : OpClass) (kind : OpKind) :
    ∃ c o n, s.addOp q cls kind = { s with cores := c, ops := o, nextOp := n } := by
  unfold State.addOp
  split
  · exact ⟨_, _, _, rfl⟩
  · split
    · exact ⟨_, _, _, rfl⟩
    · exact ⟨_, _, _, rfl⟩

/-- The hart's job entered with its token, the operation of which is issued from `s` (R336). -/
def State.withJob (t s : State) : State :=
  let jobs := s.me.nmJobs ++ [⟨s.me.nmIssued, s.nextOp, nmStatus 1 0 0 0⟩]
  t.setMe { t.me with nmIssued := s.me.nmIssued + 1, nmJobs := jobs.drop (jobs.length - 8) }

theorem nmc_next (hh : ByHart s) (hn : Named s [d, a, b]) (hq : Handle s h q) (hw : runHandleOk s s.ctx (s.rs a) = true)
    (he : handleEntry (s.rs a) ≠ 1 ∨ s.me.priv = .s) (h6 : ptrSpace (s.rs a) ≠ 6) (hz : (s.ctx.run (handleEntry (s.rs a))).size = 64)
    (hr : s.nmRunning s.cur.owner < 8) :
    ∃ t u : State, exec (.nmc d a b h) s = .next t ∧ t = (u.setRs d (s.me.nmIssued.setWidth 64)).retire ∧
      u.ops = (s.addOp q .copy (.nmc (s.rs a) (s.rs b).toNat s.me.nmIssued)).ops ∧ u.me.nmIssued = s.me.nmIssued + 1 ∧ u.mem = s.mem := by
  obtain ⟨c, o, n, ha⟩ := addOp_rest s q .copy (.nmc (s.rs a) (s.rs b).toNat s.me.nmIssued)
  have hb : ¬8 ≤ s.nmRunning s.cur.owner := Nat.not_le.mpr hr
  refine ⟨_, (s.addOp q .copy (.nmc (s.rs a) (s.rs b).toNat s.me.nmIssued)).withJob s, issue_ok (f := .seq) hh _ ?_, rfl, rfl, ?_, ?_⟩
  · simp only [run_bind, named_ok hn, seqOf_ok hh hq, run_get, checkRun_ok hw he, if_neg h6, hz, ne_eq, not_true_eq_false, if_false,
      if_neg hb, run_pure, enqueue, run_act]
    rfl
  · rw [State.withJob, State.me_setMe]
  · rw [ha]
    rfl

theorem nmc_waits (hh : ByHart s) (hn : Named s [d, a, b]) (hq : Handle s h q) (hw : runHandleOk s s.ctx (s.rs a) = true)
    (he : handleEntry (s.rs a) ≠ 1 ∨ s.me.priv = .s) (h6 : ptrSpace (s.rs a) ≠ 6) (hz : (s.ctx.run (handleEntry (s.rs a))).size = 64)
    (hr : 8 ≤ s.nmRunning s.cur.owner) : exec (.nmc d a b h) s = .next (s.setMe { s.me with state := .wait }) := by
  rw [← enterWait_hart hh]
  refine issue_hart (r := .error .wait s) hh _ ?_
  simp only [run_bind, named_ok hn, seqOf_ok hh hq, run_get, checkRun_ok hw he, if_neg h6, hz, ne_eq, not_true_eq_false, if_false,
    if_pos hr, run_throw]

/-- A token of the hart's jobs finds its only job. -/
theorem find?_job {l : List NmJob} {j : NmJob} (hj : j ∈ l) (h1 : ∀ k ∈ l, k.token = j.token → k = j) :
    l.find? (fun k => k.token.setWidth 64 == j.token.setWidth 64) = some j := by
  have heq : ∀ x y : BitVec 32, x.setWidth 64 = y.setWidth 64 → x = y := fun x y h => by
    have := congrArg (fun z : BitVec 64 => z.setWidth 32) h
    simpa using this
  obtain ⟨k, hk⟩ := Option.isSome_iff_exists.mp ((List.find?_isSome (p := fun k : NmJob => k.token.setWidth 64 == j.token.setWidth 64)).mpr
    ⟨j, hj, beq_self_eq_true _⟩)
  have hf := List.find?_some hk
  rw [hk, h1 k (List.mem_of_find?_eq_some hk) (heq _ _ (eq_of_beq hf))]

theorem nmstat_next (hh : ByHart s) (hn : Named s [d, a]) (hq : Handle s h q) (hp : Prompt s q []) {j : NmJob} (hj : j ∈ s.me.nmJobs)
    (h1 : ∀ k ∈ s.me.nmJobs, k.token = j.token → k = j) (hv : s.rs a = j.token.setWidth 64) :
    exec (.nmstat d a h) s = .next (s.setRs d j.status).retire := by
  refine issue_ok (f := .seq) hh _ ?_
  simp only [run_bind, named_ok hn, seqOf_ok hh hq, ready_ok (n := .of q .load (some d)) hp rfl rfl rfl, run_get, hv, find?_job hj h1,
    run_set, Option.map_some, Option.getD_some, run_pure]

theorem scan_next (hh : ByHart s) (hn : Named s [a]) (hq : Handle s h q) {x : ScanDesc} (hx : readScan true (s.rs a) s = .ok x s) :
    exec (.scan a h) s = .next (s.addOp q .copy (.scan x none)).retire := by
  refine issue_ok (f := .seq) hh _ ?_
  simp only [run_bind, named_ok hn, seqOf_ok hh hq, run_get, hx, enqueue, run_act, run_pure]

theorem scanth_next (hh : ByHart s) (hn : Named s [d, a]) (hq : Handle s h q) {x : ScanDesc}
    (hx : readScan false (s.rs a) s = .ok x s) :
    exec (.scanth d a h) s = .next ((s.addOp q .copy (.scan x (some d))).markPending d).retire := by
  refine issue_ok (f := .seq) hh _ ?_
  simp only [run_bind, named_ok hn, seqOf_ok hh hq, run_get, hx, enqueue, run_act, run_pure]

theorem named_sub (hn : Named s [d, a, b]) : Named s [d, a] := fun r hr => hn r (by simp at hr ⊢; tauto)

end

/-! ## A near-memory job performed (R336, R341) -/

section
variable {s u : State} {o p : Op}

/-- What updating elements keeps of a state and of the operation that does it. -/
structure NmKept (s u : State) (o p : Op) : Prop where
  late : u.late = s.late
  op : ∃ m f, p = { o with maps := m, phase := f }

theorem NmKept.refl (s : State) (o : Op) : NmKept s s o o := ⟨rfl, _, _, rfl⟩

theorem NmKept.trans {t : State} {r : Op} (h : NmKept s t o r) (k : NmKept t u r p) : NmKept s u o p := by
  obtain ⟨hl, m, f, rfl⟩ := h
  obtain ⟨hl', m', f', rfl⟩ := k
  exact ⟨hl'.trans hl, m', f', rfl⟩

theorem late_poisonLine (s : State) (c e l : Nat) : (s.poisonLine c e l).late = s.late := by
  unfold State.poisonLine
  dsimp only
  split <;> rfl

theorem late_putRunBytes (c e : Nat) (bs : List Byte) : ∀ (s : State) (off : Nat), (s.putRunBytes c e off bs).late = s.late := by
  induction bs with
  | nil => exact fun _ _ => rfl
  | cons b bs ih => exact fun s off => ih _ _

theorem late_applyElement (s : State) (ctx : Nat) (c : NmCommand) (i : Nat) : (s.applyElement ctx c i).late = s.late := by
  unfold State.applyElement
  split
  · rfl
  · exact late_putRunBytes _ _ _ _ _

theorem nmKept_applyFrom (c : NmCommand) (k : Nat) : ∀ (i : Nat) (o : Op) (s : State),
    NmKept s (State.applyFrom c k i o s).1 o (State.applyFrom c k i o s).2.1 := by
  induction k with
  | zero => exact fun i o s => .refl s o
  | succ k ih =>
    intro i o s
    unfold State.applyFrom
    dsimp only
    split
    · exact .refl s o
    · split
      · exact ⟨late_poisonLine .., _, _, rfl⟩
      · split
        · split
          · exact .refl s o
          · exact ⟨rfl, _, _, rfl⟩
        · refine NmKept.trans (t := { s.applyElement o.ctx c i with steps := s.steps.map (· - 1) }) ⟨late_applyElement s o.ctx c i, ?_⟩
            (ih _ _ _)
          split
          · exact ⟨_, _, rfl⟩
          · exact ⟨_, _, rfl⟩

theorem nmKept_runCommand (s : State) (o : Op) (run : Word) (pos i : Nat) :
    NmKept s (s.runCommand o run pos i).1 o (s.runCommand o run pos i).2.1 := by
  unfold State.runCommand
  dsimp only
  split
  · exact ⟨late_poisonLine .., _, _, rfl⟩
  · split
    · exact .refl s o
    · exact nmKept_applyFrom ..

theorem nmKept_runCommands (run : Word) (l : List Nat) : ∀ (k i : Nat) (o : Op) (s : State),
    NmKept s (State.runCommands run l k i o s).1 o (State.runCommands run l k i o s).2.1 := by
  induction l with
  | nil => exact fun _ _ o s => .refl s o
  | cons pos l ih =>
    intro k i o s
    have hk := nmKept_runCommand s o run pos i
    unfold State.runCommands
    generalize s.runCommand o run pos i = r at hk ⊢
    obtain ⟨s', o', x⟩ := r
    cases x with
    | applied => exact hk.trans (ih _ _ _ _)
    | later i => exact hk
    | stopped x => exact hk

theorem nmcJobRun_next {run : Word} {first : Nat} {token : BitVec 32} (ho : s.opAt o.id = some o) (hp : o.phase = .queued)
    (hd : ∀ p ∈ o.preds, s.alive p = false) (hk : o.kind = .nmc run first token) :
    exec (.nmcJobRun o.id) s = .next (s.nmGo (s.nmStart o run) run first) := by
  show execNmcJobRun o.id s = _
  refine (opEvent_at ho _).trans ?_
  have hr : s.ready o = true := by
    have := mayStart_ok hp hd
    rw [State.mayStart, hp] at this
    exact this
  simp only [hk, hp, hr, if_true, Option.getD_some]

/-- The record positions of a job's commands: those below P, at most 16384 (R336). -/
def nmPositions (pub first : Nat) : List Nat := (List.range (min pub (first + 16384) - first)).map (first + ·)

theorem nmGo_cases {run : Word} {first : Nat} (hl : s.late = false) (h64 : (s.runAt o.ctx (handleEntry run)).pub < 2 ^ 64) :
    let pub := (s.runAt o.ctx (handleEntry run)).pub
    let all := State.runCommands run (nmPositions pub first) 0 0
      { o with phase := .working, preds := [], counts := (0, 0, BitVec.ofNat 64 pub) } s
    (∀ k, all = (u, p, .ended k none) → s.nmGo (s.nmStart o run) run first =
      (u.setNmStatus o.issuer.owner o.id (nmStatus 2 0 k 0)).endOp o) ∧
    (∀ k x, all = (u, p, .ended k (some x)) → s.nmGo (s.nmStart o run) run first =
      ((u.setNmStatus o.issuer.owner o.id (nmStatus 3 x.cause.code k x.element)).endOp o).reportOp o x.cause x.tval false) ∧
    (∀ k i, all = (u, p, .later k i) → s.nmGo (s.nmStart o run) run first =
      u.setOp { p with counts := (BitVec.ofNat 64 k, BitVec.ofNat 64 i, BitVec.ofNat 64 pub) }) := by
  intro pub all
  have hkept : NmKept s all.1 _ all.2.1 := nmKept_runCommands ..
  have hall : State.runCommands run (((List.range (Nat.min (s.nmStart o run).counts.2.2.toNat (first + 16384) - first)).map
      (first + ·)).drop (s.nmStart o run).counts.1.toNat) (s.nmStart o run).counts.1.toNat (s.nmStart o run).counts.2.1.toNat
      (s.nmStart o run) s = all := by
    have hpub : (s.nmStart o run).counts.2.2.toNat = pub := by
      show (BitVec.ofNat 64 pub).toNat = pub
      rw [BitVec.toNat_ofNat, Nat.mod_eq_of_lt h64]
    rw [hpub]
    rfl
  refine ⟨fun k h => ?_, fun k x h => ?_, fun k i h => ?_⟩
  · unfold State.nmGo
    dsimp only
    rw [hall, h]
    rw [h] at hkept
    obtain ⟨hlate, m, f, rfl⟩ := hkept
    dsimp only at hlate ⊢
    rw [hlate, hl, if_neg Bool.false_ne_true]
    rfl
  · unfold State.nmGo
    dsimp only
    rw [hall, h]
    rw [h] at hkept
    obtain ⟨hlate, m, f, rfl⟩ := hkept
    dsimp only at hlate ⊢
    rw [hlate, hl, if_neg Bool.false_ne_true]
    rfl
  · unfold State.nmGo
    dsimp only
    rw [hall, h]
    rw [h] at hkept
    obtain ⟨hlate, m, f, rfl⟩ := hkept
    rfl

end

end Sys2Proof.Machine
end

section
/-! SUPPORT. near-memory commands -/

namespace Sys2Proof.Machine

/-! ## The elements of a near-memory command (R338–R340) -/

section
variable {s u : State} {o : Op} {c : NmCommand} {x e k v : Nat}

/-- A 4-byte element of a run. -/
def State.elemAt (s : State) (x e k : Nat) : Nat := leNat (s.runBytes x e (4 * k) 4)

theorem elemAt_lt (s : State) (x e k : Nat) : s.elemAt x e k < 2 ^ 32 := by
  have := leNat_lt (s.runBytes x e (4 * k) 4)
  rwa [length_runBytes] at this

theorem readBytes_congr {m m' : Memory} {a n : Nat} (h : ∀ j < n, Memory.read m' (a + j) = Memory.read m (a + j)) :
    Memory.readBytes m' a n = Memory.readBytes m a n := by
  induction n generalizing a with
  | zero => rfl
  | succ n ih =>
    rw [Memory.readBytes, Memory.readBytes, ih fun j hj => ?_]
    · congr 1
      exact h 0 (Nat.succ_pos _)
    · rw [Nat.add_assoc, Nat.add_comm 1]
      exact h (j + 1) (Nat.succ_lt_succ hj)

theorem elemAt_written (hw : BlockWritten s u x e (4 * k) (natLe 4 v)) (hs : Memory.wf s.mem = true) (hh : (s.runAt x e).host = false) :
    u.elemAt x e k = v % 2 ^ 32 := by
  obtain ⟨q, d, hr⟩ := hw.run
  have hu : (u.runAt x e).host = false := by rw [hr]; exact hh
  obtain ⟨y, rfl⟩ := hw.rest
  have hm := Memory.readBytes_writeBytes hs (runKey x e (4 * k)) (natLe 4 v)
  rw [length_natLe] at hm
  rw [State.elemAt, runBytes_mapped hu]
  exact (congrArg leNat hm).trans (leNat_natLe 4 v)

theorem host_written (hw : BlockWritten s u x e (4 * k) (natLe 4 v)) (e' : Nat) : (u.runAt x e').host = (s.runAt x e').host := by
  by_cases he : e' = e
  · obtain ⟨q, d, hr⟩ := hw.run
    rw [he, hr]
  · rw [hw.others x e' fun h => he (Prod.mk.inj h).2]

theorem elemAt_unwritten {e' k' : Nat} (hw : BlockWritten s u x e (4 * k) (natLe 4 v)) (hs : Memory.wf s.mem = true)
    (hh : (s.runAt x e').host = false) (hk : 4 * k + 4 ≤ 2 ^ 42) (hk' : 4 * k' + 4 ≤ 2 ^ 42) (hne : e' = e → k' ≠ k) :
    u.elemAt x e' k' = s.elemAt x e' k' := by
  rw [State.elemAt, State.elemAt, runBytes_mapped hh, runBytes_mapped ((host_written hw e').trans hh)]
  congr 1
  refine readBytes_congr fun j hj => hw.outside hs fun i hi => ?_
  rw [length_natLe] at hi
  rw [← runKey_add]
  by_cases he : e' = e
  · have := hne he
    rw [he, runKey, runKey]
    omega
  · exact runKey_ne he (by omega) (by omega) x

theorem value_unsourced (h : c.sourced = false) (t x y : Nat) : c.value t x = c.value t y := by
  have hs : ¬(1 ≤ c.op ∧ c.op ≤ 5) := of_decide_eq_false h
  have h0 : c.op = 0 ∨ c.op = 6 ∨ ∃ n, c.op = n + 7 := by
    by_cases h7 : 7 ≤ c.op
    · exact .inr (.inr ⟨c.op - 7, by omega⟩)
    · omega
  rcases h0 with h | h | ⟨n, h⟩ <;> simp only [NmCommand.value, h]

/-- The bytes that updating an element writes, and the lines that it cleans. -/
theorem applyElement_written (h0 : c.op ≠ 0) (hh : (s.runAt x (handleEntry c.target)).host = false) (i : Nat) :
    BlockWritten s (s.applyElement x c i) x (handleEntry c.target) (4 * (c.e0 + i))
      (natLe 4 (c.value (s.elemAt x (handleEntry c.target) (c.e0 + i)) (s.elemAt x (handleEntry c.source) (c.j0 + i)))) := by
  have hv : c.value (s.elemAt x (handleEntry c.target) (c.e0 + i)) (s.elemAt x (handleEntry c.source) (c.j0 + i)) =
      c.value (leNat (s.runBytes x (handleEntry c.target) (4 * (c.e0 + i)) 4))
        (if c.sourced then leNat (s.runBytes x (handleEntry c.source) (4 * (c.j0 + i)) 4) else 0) := by
    by_cases hs : c.sourced = true
    · rw [if_pos hs]
      rfl
    · rw [if_neg hs]
      exact value_unsourced (Bool.eq_false_iff.mpr hs) ..
  rw [hv, State.applyElement, if_neg h0]
  exact (linesCleaned_one ..).put hh _ _

/-- Fewer failing lines stop no element that went before (R340). -/
theorem commandBad_mono {i : Nat} (hb : ∀ e line, s.lineBad x e line = false → u.lineBad x e line = false)
    (h : s.commandBad x c i = none) : u.commandBad x c i = none := by
  unfold State.commandBad at h ⊢
  dsimp only at h ⊢
  by_cases h0 : c.op = 0
  · rw [if_pos h0]
  have hsrc : ∀ k, (c.sourced && s.lineBad x (handleEntry c.source) k) = false →
      (c.sourced && u.lineBad x (handleEntry c.source) k) = false := fun k hk => by
    rw [Bool.and_eq_false_iff] at hk ⊢
    exact hk.imp_right (hb _ _)
  have hall : ∀ f : Nat → Nat, (List.range 16).all (fun k => !(c.sourced && s.lineBad x (handleEntry c.source) (f k))) = true →
      (List.range 16).all (fun k => !(c.sourced && u.lineBad x (handleEntry c.source) (f k))) = true := fun f hf => by
    rw [List.all_eq_true] at hf ⊢
    intro k hk
    have := hf k hk
    rw [Bool.not_eq_true'] at this ⊢
    exact hsrc _ this
  rw [if_neg h0] at h ⊢
  split at h
  · exact absurd h (Option.some_ne_none _)
  next h1 =>
    rw [if_neg (by rw [hsrc _ (Bool.eq_false_iff.mpr h1)]; exact Bool.false_ne_true)]
    split at h
    · exact absurd h (Option.some_ne_none _)
    next h2 =>
      rw [if_neg ?_]
      rw [Bool.not_eq_true, Bool.and_eq_false_iff, Bool.not_eq_false', Bool.and_eq_true] at h2 ⊢
      exact h2.imp (hb _ _) fun hw => ⟨hw.1, hall _ hw.2⟩

/-- A command whose elements meet no failing line and no refusal, on runs of device memory, in a move with no bound. -/
structure NmGood (s : State) (o : Op) (c : NmCommand) : Prop where
  steps : s.steps = none
  wf : Memory.wf s.mem = true
  target : (s.runAt o.ctx (handleEntry c.target)).host = false
  source : c.sourced = true → (s.runAt o.ctx (handleEntry c.source)).host = false
  stale : ∀ off, s.stale o (handleEntry c.target) off = false
  bad : ∀ i < c.n, s.commandBad o.ctx c i = none

/-- Where a command's elements lie: within their runs' parts of memory, no source one written before it is read. -/
structure NmApart (c : NmCommand) : Prop where
  target : 4 * (c.e0 + c.n) ≤ 2 ^ 42
  source : c.sourced = true → 4 * (c.j0 + c.n) ≤ 2 ^ 42
  order : c.sourced = true → handleEntry c.target = handleEntry c.source → ∀ i j, i < j → j < c.n → c.e0 + i ≠ c.j0 + j

/-- The operation once it has updated an element. -/
def State.nmAfter (s : State) (o : Op) (c : NmCommand) (i : Nat) : Op :=
  { s.translated o (handleEntry c.target) (4 * (c.e0 + i)) with phase := .working }

theorem NmGood.next (h : NmGood s o c) (h0 : c.op ≠ 0) (i : Nat) : NmGood (s.applyElement o.ctx c i) (s.nmAfter o c i) c := by
  have hw := applyElement_written h0 h.target i
  obtain ⟨y, hy⟩ := hw.rest
  have hbad : ∀ e line, s.lineBad o.ctx e line = false → (s.applyElement o.ctx c i).lineBad o.ctx e line = false := fun e line hl => by
    by_cases he : e = handleEntry c.target
    · rw [he] at hl ⊢
      exact hw.bad line hl
    · exact (lineBad_congr ⟨_, _, _, hw.others o.ctx e fun h => he (Prod.mk.inj h).2⟩ fun j => ⟨_, by rw [hy]⟩).trans hl
  have htr : s.nmAfter o c i = { (s.applyElement o.ctx c i).translated o (handleEntry c.target) (4 * (c.e0 + i)) with phase := .working } := by
    obtain ⟨q, d, hr⟩ := hw.run
    unfold State.nmAfter State.translated State.mapGenOf
    dsimp only
    rw [hr, hy]
  rw [htr]
  refine ⟨by rw [hy]; exact h.steps, ?_, (host_written hw _).trans h.target, fun hs => (host_written hw _).trans (h.source hs),
    fun off => stale_translated hw (h.stale off), fun j hj => commandBad_mono hbad (h.bad j hj)⟩
  rw [hy]
  exact Memory.wf_writeBytes h.wf _ _

/-- What a command's elements from `i` on leave. -/
structure NmApplied (s u : State) (x : Nat) (c : NmCommand) (i : Nat) : Prop where
  elems : ∀ j, i ≤ j → j < c.n → u.elemAt x (handleEntry c.target) (c.e0 + j) =
    c.value (s.elemAt x (handleEntry c.target) (c.e0 + j)) (s.elemAt x (handleEntry c.source) (c.j0 + j)) % 2 ^ 32
  rest : ∀ k, (∀ j < 4 * c.n, k ≠ runKey x (handleEntry c.target) (4 * c.e0 + j)) → Memory.read u.mem k = Memory.read s.mem k
  before : ∀ j < i, u.elemAt x (handleEntry c.target) (c.e0 + j) = s.elemAt x (handleEntry c.target) (c.e0 + j)

/-- A no-op's elements keep their values. -/
theorem nmApplied_nop (s : State) (x i : Nat) (h0 : c.op = 0) : NmApplied s s x c i where
  elems := fun j _ _ => by
    unfold NmCommand.value
    rw [h0]
    exact (Nat.mod_eq_of_lt (elemAt_lt ..)).symm
  rest := fun _ _ => rfl
  before := fun _ _ => rfl

theorem NmApplied.step (h : NmGood s o c) (ha : NmApart c) (h0 : c.op ≠ 0) {i : Nat} (hi : i < c.n)
    (hu : NmApplied (s.applyElement o.ctx c i) u o.ctx c (i + 1)) : NmApplied s u o.ctx c i := by
  have hw := applyElement_written h0 h.target i
  have ht := ha.target
  obtain ⟨helems, hrest, hbefore⟩ := hu
  have hother : ∀ j < c.n, j ≠ i → (s.applyElement o.ctx c i).elemAt o.ctx (handleEntry c.target) (c.e0 + j) =
      s.elemAt o.ctx (handleEntry c.target) (c.e0 + j) := fun j hj hne =>
    elemAt_unwritten hw h.wf h.target (by omega) (by omega) fun _ => by omega
  refine ⟨fun j hij hj => ?_, fun k hk => ?_, fun j hj => (hbefore j (by omega)).trans (hother j (by omega) (by omega))⟩
  · by_cases hji : j = i
    · rw [hji, hbefore i (Nat.lt_succ_self _)]
      exact elemAt_written hw h.wf h.target
    · rw [helems j (by omega) hj]
      have hv : ∀ t, c.value t ((s.applyElement o.ctx c i).elemAt o.ctx (handleEntry c.source) (c.j0 + j)) =
          c.value t (s.elemAt o.ctx (handleEntry c.source) (c.j0 + j)) := fun t => by
        by_cases hs : c.sourced = true
        · have hsb := ha.source hs
          rw [elemAt_unwritten hw h.wf (h.source hs) (by omega) (by omega) fun he => (ha.order hs he.symm i j (by omega) hj).symm]
        · exact value_unsourced (Bool.eq_false_iff.mpr hs) ..
      exact congrArg (· % 2 ^ 32) ((hv _).trans (by rw [hother j hj hji]))
  · rw [hrest k hk]
    refine hw.outside h.wf fun j hj => ?_
    rw [length_natLe] at hj
    rw [show 4 * (c.e0 + i) + j = 4 * c.e0 + (4 * i + j) by omega]
    exact hk (4 * i + j) (by omega)

/-- A no-op's elements change nothing. -/
theorem applyFrom_nop (h0 : c.op = 0) (hs : s.steps = none) (k : Nat) : ∀ i, State.applyFrom c k i o s = (s, o, .applied) := by
  have hbad : ∀ i, s.commandBad o.ctx c i = none := fun i => by rw [State.commandBad, if_pos h0]
  have happly : ∀ i, ({ s.applyElement o.ctx c i with steps := s.steps.map (· - 1) } : State) = s := fun i => by
    rw [State.applyElement, if_pos h0, hs]
    show ({ s with steps := none } : State) = s
    rw [← hs]
  induction k with
  | zero => exact fun _ => rfl
  | succ k ih =>
    intro i
    rw [State.applyFrom]
    dsimp only
    rw [if_neg (by rw [hs]; exact nofun), hbad]
    dsimp only
    rw [if_neg (fun hc => hc.1 h0), if_pos h0, happly, ih]

theorem applyFrom_all (ha : NmApart c) (h0 : c.op ≠ 0) (k : Nat) : ∀ (i : Nat) (o : Op) (s : State), NmGood s o c → i + k = c.n →
    ∃ u p, State.applyFrom c k i o s = (u, p, .applied) ∧ NmApplied s u o.ctx c i := by
  induction k with
  | zero => exact fun i o s _ hi => ⟨s, o, rfl, fun j _ _ => by omega, fun _ _ => rfl, fun _ _ => rfl⟩
  | succ k ih =>
    intro i o s h hi
    have happly : ({ s.applyElement o.ctx c i with steps := s.steps.map (· - 1) } : State) = s.applyElement o.ctx c i := by
      obtain ⟨y, hy⟩ := (applyElement_written h0 h.target i).rest
      rw [hy, h.steps]
      rfl
    obtain ⟨u, p, hu, hap⟩ := ih (i + 1) _ _ (h.next h0 i) (by omega)
    refine ⟨u, p, ?_, hap.step h ha h0 (by omega)⟩
    rw [State.applyFrom]
    dsimp only
    rw [if_neg (by rw [h.steps]; exact nofun), h.bad i (by omega)]
    dsimp only
    rw [h.stale, if_neg (fun hc => Bool.false_ne_true hc.2), if_neg h0, happly]
    exact hu

theorem recWord_lt (bs : List Byte) (off n : Nat) : recWord bs off n < 2 ^ (8 * n) := by
  rw [recWord]
  refine Nat.lt_of_lt_of_le (leNat_lt _) (Nat.pow_le_pow_right (by omega) ?_)
  have := List.length_take_le n (bs.drop off)
  omega

/-- A command that passes its checks lies within its runs (R339). -/
theorem commandFault_none {run : Word} (h : s.commandFault x run c = none) :
    c.op ≤ 7 ∧ 1 ≤ c.n ∧ c.e0 + c.n - 1 < (s.runAt x (handleEntry c.target)).pub * (s.runAt x (handleEntry c.target)).size / 4 ∧
      (c.sourced = true →
        c.j0 + c.n - 1 < (s.runAt x (handleEntry c.source)).pub * (s.runAt x (handleEntry c.source)).size / 4) := by
  unfold State.commandFault at h
  dsimp only at h
  split at h
  · exact absurd h (Option.some_ne_none _)
  next h1 =>
  split at h
  · exact absurd h (Option.some_ne_none _)
  split at h
  · exact absurd h (Option.some_ne_none _)
  split at h
  · exact absurd h (Option.some_ne_none _)
  split at h
  · exact absurd h (Option.some_ne_none _)
  next h5 =>
  split at h
  · exact absurd h (Option.some_ne_none _)
  next h6 =>
  rw [Bool.not_eq_true, Bool.or_eq_false_iff, Bool.or_eq_false_iff, Bool.or_eq_false_iff] at h1
  obtain ⟨⟨⟨h7, _⟩, hn⟩, _⟩ := h1
  have h7 := of_decide_eq_false h7
  have hn := of_decide_eq_false hn
  refine ⟨by omega, by omega, of_decide_eq_true (Bool.not_eq_false _ ▸ h5), fun hs => ?_⟩
  rw [hs, Bool.true_and, Bool.not_eq_true, Bool.not_eq_false'] at h6
  exact of_decide_eq_true h6

/-- A command that passes its checks applies all of its elements (R338–R340). -/
theorem runCommand_applied {run : Word} {pos : Nat} (hcan : Canonical s) (hs : s.steps = none)
    (hl : s.lineBad o.ctx (handleEntry run) pos = false) (hc : c = nmCommand (s.record o.ctx (handleEntry run) pos))
    (hf : s.commandFault o.ctx run c = none)
    (ht : (s.runAt o.ctx (handleEntry c.target)).host = false ∧
      (s.runAt o.ctx (handleEntry c.target)).pub * (s.runAt o.ctx (handleEntry c.target)).size ≤ 2 ^ 42)
    (hsrc : c.sourced = true → (s.runAt o.ctx (handleEntry c.source)).host = false ∧
      (s.runAt o.ctx (handleEntry c.source)).pub * (s.runAt o.ctx (handleEntry c.source)).size ≤ 2 ^ 42)
    (hst : ∀ off, s.stale o (handleEntry c.target) off = false) (hb : ∀ i < c.n, s.commandBad o.ctx c i = none)
    (hord : c.sourced = true → handleEntry c.target = handleEntry c.source → ∀ i j, i < j → j < c.n → c.e0 + i ≠ c.j0 + j) :
    ∃ u p, s.runCommand o run pos 0 = (u, p, .applied) ∧ NmApplied s u o.ctx c 0 := by
  obtain ⟨_, _, hte, hse⟩ := commandFault_none hf
  have hgo : s.runCommand o run pos 0 = State.applyFrom c (c.n - 0) 0 o s := by
    unfold State.runCommand
    dsimp only
    rw [hl, if_neg (fun h => Bool.false_ne_true h.2), if_pos rfl, ← hc, hf]
  rw [hgo]
  by_cases h0 : c.op = 0
  · exact ⟨s, o, applyFrom_nop h0 hs _ _, nmApplied_nop s o.ctx 0 h0⟩
  · refine applyFrom_all ⟨?_, fun h => ?_, hord⟩ h0 _ _ _ _ ⟨hs, hcan, ht.1, fun h => (hsrc h).1, hst, hb⟩ (by omega)
    · have := ht.2
      omega
    · have := (hsrc h).2
      have := hse h
      omega

/-- R338's table. -/
theorem value_of_op (c : NmCommand) (t x : Nat) :
    let mul := fun (x y : Nat) => (f32.mul .rne (f32.decode x) (f32.decode y)).1
    (c.op = 0 → c.value t x = t) ∧
    (c.op = 1 → c.value t x = (f32.sum .rne [f32.decode (mul t c.a), (f32.decode (mul c.b x)).negate]).1) ∧
    (c.op = 2 → c.value t x = (f32.sum .rne [f32.decode t, f32.decode (mul c.a x)]).1) ∧
    (c.op = 3 → c.value t x = (t + x) % 2 ^ 32) ∧ (c.op = 4 → c.value t x = (f32.minmax true t x).1) ∧
    (c.op = 5 → c.value t x = x) ∧ (c.op = 6 → c.value t x = c.a) ∧ (c.op = 7 → c.value t x = mul t c.a) := by
  refine ⟨fun h => ?_, fun h => ?_, fun h => ?_, fun h => ?_, fun h => ?_, fun h => ?_, fun h => ?_, fun h => ?_⟩ <;>
    simp only [NmCommand.value, h]

end

end Sys2Proof.Machine
end

section
/-! SUPPORT. the fields of a descriptor and a destination published -/

namespace Sys2Proof.Machine

/-! ## The fields that an engine stores in a descriptor of its issuer's own (R181, R343) -/

section
variable {s t u : State} {o : Op} {c e n : Nat} {p : Word}

theorem ptr_add {k : Nat} (h : ptrOff p + k < 2 ^ 41) :
    ptrOff (p + BitVec.ofNat 64 k) = ptrOff p + k ∧ ptrSpace (p + BitVec.ofNat 64 k) = ptrSpace p := by
  unfold ptrOff ptrSpace bitsOf at *
  rw [BitVec.toNat_add, BitVec.toNat_ofNat]
  have := p.isLt
  omega

/-- A store of an issuer's own local store, outside its code (R26). -/
theorem place_own {k : HartId} (hk : s.cur = .hart k) {al : Nat} (h0 : ptrSpace p = 0) (ha : ptrOff p % al = 0)
    (hc : (s.groupAt k.group).code ≤ ptrOff p) (hr : ptrOff p + n ≤ (s.groupAt k.group).range) :
    place s .store n al p = .ok (.ls (s.hart k).core ((s.groupAt k.group).bases.getD (s.hart k).rank.toNat 0 + ptrOff p)) := by
  have hg : s.group = s.groupAt k.group := by rw [State.group, hk]; rfl
  have hm : s.me = s.hart k := by rw [State.me, hk]; rfl
  have hsp : 0 ∈ Access.store.spaces := .head _
  have hno : ¬ptrOff p < (s.groupAt k.group).code := Nat.not_lt.mpr hc
  simp [place, h0, hsp, ha, hg, hm, State.myBase, hr, hno]

/-- The key of a place of a hart's own local store that a pointer names (R19). -/
def State.ownKey (s : State) (k : HartId) (p : Word) : Nat :=
  lsKey (s.hart k).core ((s.groupAt k.group).bases.getD (s.hart k).rank.toNat 0 + ptrOff p)

/-- The state with a field stored at a key. -/
def State.putField (s : State) (key : Nat) (bs : List Byte) : State := { s with mem := Memory.writeBytes s.mem key bs }

/-- Memory after fields stored from a key on. -/
def fieldsMem (m : Memory) (key : Nat) (fields : List (Nat × List Byte)) : Memory :=
  fields.foldl (fun m f => Memory.writeBytes m (key + f.1) f.2) m

theorem storeFields_own {k : HartId} {fields : List (Nat × List Byte)} (hk : o.issuer = .hart k) (h0 : ptrSpace p = 0) (h8 : ptrOff p % 8 = 0)
    (hc : (s.groupAt k.group).code ≤ ptrOff p) (hr : ptrOff p + n ≤ (s.groupAt k.group).range) (h41 : ptrOff p + n < 2 ^ 41)
    (hf : ∀ f ∈ fields, f.1 % 4 = 0 ∧ f.1 + f.2.length ≤ n) :
    s.storeFields o p fields = { s with mem := fieldsMem s.mem (s.ownKey k p) fields } := by
  have hpl : ∀ f ∈ fields, place { s with cur := o.issuer } .store f.2.length 4 (p + BitVec.ofNat 64 f.1) =
      .ok (.ls (s.hart k).core ((s.groupAt k.group).bases.getD (s.hart k).rank.toNat 0 + (ptrOff p + f.1))) := fun f hm => by
    obtain ⟨h4, hn⟩ := hf f hm
    obtain ⟨hoff, hsp⟩ := ptr_add (p := p) (k := f.1) (by omega)
    have := place_own (s := { s with cur := o.issuer }) (p := p + BitVec.ofNat 64 f.1) (n := f.2.length) (al := 4) hk (hsp.trans h0)
      (by rw [hoff]; omega) (Nat.le_trans hc (by rw [hoff]; omega)) (Nat.le_trans (by rw [hoff]; omega) hr)
    rw [this, hoff]
    rfl
  have hfold : ∀ (l : List (Nat × List Byte)) (v : State), l.foldl (fun v f => v.putField (s.ownKey k p + f.1) f.2) v =
      { v with mem := fieldsMem v.mem (s.ownKey k p) l } := by
    intro l
    induction l with
    | nil => exact fun _ => rfl
    | cons f l ih => exact fun v => ih _
  unfold State.storeFields
  dsimp only
  split
  next e he =>
    obtain ⟨f, hm, hfe⟩ := List.exists_of_findSome?_eq_some he
    rw [hpl f hm] at hfe
    exact absurd hfe nofun
  next =>
    refine (List.foldl_ext _ (fun v f => v.putField (s.ownKey k p + f.1) f.2) s fun v f hm => ?_).trans (hfold fields s)
    have hkey : (Place.ls (s.hart k).core ((s.groupAt k.group).bases.getD (s.hart k).rank.toNat 0 + (ptrOff p + f.1))).key =
        s.ownKey k p + f.1 := by
      rw [Place.key, State.ownKey, lsKey, lsKey]
      omega
    rw [hpl f hm, State.putField, ← hkey]

theorem natLe_mod (n x : Nat) : natLe n (x % 2 ^ (8 * n)) = natLe n x := by
  induction n generalizing x with
  | zero => rfl
  | succ n ih =>
    rw [natLe, natLe, show 8 * (n + 1) = 8 + 8 * n by omega, Nat.pow_add, Nat.mod_mul]
    rw [show (x % 2 ^ 8 + 2 ^ 8 * (x / 2 ^ 8 % 2 ^ (8 * n))) / 256 = x / 2 ^ 8 % 2 ^ (8 * n) by omega, ih]
    congr 1
    apply BitVec.eq_of_toNat_eq
    rw [BitVec.toNat_ofNat, BitVec.toNat_ofNat]
    omega

/-- Memory after the fields of a scan's descriptor stored (R343). -/
def scanMem (m : Memory) (key status a b : Nat) : Memory := fieldsMem m key [(24, natLe 4 status), (32, natLe 8 a), (40, natLe 8 b)]

theorem scanFields_own {k : HartId} {d : ScanDesc} (hk : o.issuer = .hart k) (h0 : ptrSpace d.ptr = 0) (h8 : ptrOff d.ptr % 8 = 0)
    (hc : (s.groupAt k.group).code ≤ ptrOff d.ptr) (hr : ptrOff d.ptr + 48 ≤ (s.groupAt k.group).range)
    (hls : ptrOff d.ptr + 48 ≤ Config.lsBytes) (status : Nat) :
    s.scanFields o d status = { s with mem := scanMem s.mem (s.ownKey k d.ptr) status o.counts.1.toNat o.counts.2.1.toNat } := by
  refine storeFields_own (n := 48) hk h0 h8 hc hr (Nat.lt_of_le_of_lt hls (by decide)) fun f hf => ?_
  simp only [List.mem_cons, List.not_mem_nil, or_false] at hf
  rcases hf with rfl | rfl | rfl <;> exact ⟨by norm_num, by norm_num [length_natLe]⟩

/-- What the fields of a scan's descriptor read as. -/
structure ScanFields (m m' : Memory) (key status a b : Nat) : Prop where
  status : Memory.readBytes m' (key + 24) 4 = natLe 4 status
  examined : Memory.readBytes m' (key + 32) 8 = natLe 8 a
  emitted : Memory.readBytes m' (key + 40) 8 = natLe 8 b
  outside : ∀ j, j < key ∨ key + 48 ≤ j → Memory.read m' j = Memory.read m j
  wf : Memory.wf m' = true

theorem scanMem_fields {m : Memory} (hm : Memory.wf m = true) (key status a b : Nat) :
    ScanFields m (scanMem m key status a b) key status a b := by
  have h1 := Memory.wf_writeBytes hm (key + 24) (natLe 4 status)
  have h2 := Memory.wf_writeBytes h1 (key + 32) (natLe 8 a)
  have h3 := Memory.wf_writeBytes h2 (key + 40) (natLe 8 b)
  have r1 := Memory.readBytes_writeBytes hm (key + 24) (natLe 4 status)
  have r2 := Memory.readBytes_writeBytes h1 (key + 32) (natLe 8 a)
  have r3 := Memory.readBytes_writeBytes h2 (key + 40) (natLe 8 b)
  have out1 := Memory.read_writeBytes_outside hm (key + 24) (natLe 4 status)
  have out2 := Memory.read_writeBytes_outside h1 (key + 32) (natLe 8 a)
  have out3 := Memory.read_writeBytes_outside h2 (key + 40) (natLe 8 b)
  rw [length_natLe] at r1 r2 r3 out1 out2 out3
  have hx : scanMem m key status a b = Memory.writeBytes (Memory.writeBytes (Memory.writeBytes m (key + 24) (natLe 4 status)) (key + 32)
    (natLe 8 a)) (key + 40) (natLe 8 b) := by
    rw [scanMem, fieldsMem, List.foldl_cons, List.foldl_cons, List.foldl_cons, List.foldl_nil]
  rw [← hx] at h3 r3 out3
  generalize scanMem m key status a b = m3 at *
  clear hx
  generalize Memory.writeBytes (Memory.writeBytes m (key + 24) (natLe 4 status)) (key + 32) (natLe 8 a) = m2 at *
  generalize Memory.writeBytes m (key + 24) (natLe 4 status) = m1 at *
  refine ⟨(readBytes_congr fun j hj => ?_).trans r1, (readBytes_congr fun j hj => ?_).trans r2, r3, fun j hj => ?_, h3⟩
  · rw [out3 _ (by omega), out2 _ (by omega)]
  · rw [out3 _ (by omega)]
  · rw [out3 j (by omega), out2 j (by omega), out1 j (by omega)]

/-! ## A destination published and sealed (R183) -/

theorem setRunAt_setRunAt (s : State) (c e : Nat) (r r' : Run) : (s.setRunAt c e r).setRunAt c e r' = s.setRunAt c e r' := by
  unfold State.setRunAt Ctx.setRun
  rw [State.ctxAt_setCtxAt]
  unfold State.setCtxAt
  dsimp only
  rw [insertKey_insertKey, insertKey_insertKey]

theorem publishDest_opened {w : Word} (seals : Bool) (hst : (s.runAt c (handleEntry w)).state = .opened)
    (hh : (s.runAt c (handleEntry w)).host = false) (hp : (s.runAt c (handleEntry w)).pub ≤ (s.runAt c (handleEntry w)).len)
    (hi : s.completeTo c (handleEntry w) = (s.runAt c (handleEntry w)).len) :
    State.publishDest seals c s w = s.setRunAt c (handleEntry w) { s.runAt c (handleEntry w) with
      pub := (s.runAt c (handleEntry w)).len
      state := if seals = true then .sealed else .opened } := by
  have hpub : s.publish c (handleEntry w) = s.setRunAt c (handleEntry w)
      { s.runAt c (handleEntry w) with pub := (s.runAt c (handleEntry w)).len } := by
    rw [publish_opened hst hh, hi, show Nat.max _ _ = _ from Nat.max_eq_right hp]
  rw [State.publishDest]
  dsimp only
  rw [hpub]
  cases seals with
  | false =>
    rw [if_neg Bool.false_ne_true, if_neg Bool.false_ne_true, ← hst]
  | true =>
    rw [if_pos rfl, if_pos rfl, State.sealRun, State.setPub]
    dsimp only
    rw [runAt_setRunAt, hh, if_neg Bool.false_ne_true, setRunAt_setRunAt, runAt_setRunAt, setRunAt_setRunAt]

theorem appended_congr {l : List (List Byte)} (h : Appended s u c e l)
    (hr : ∃ p st, t.runAt c e = { u.runAt c e with pub := p, state := st }) (hh : (u.runAt c e).host = false)
    (hm : ∀ k, 2 ^ 64 ≤ k → Memory.read t.mem k = Memory.read u.mem k) : Appended s t c e l := by
  obtain ⟨p, st, hr⟩ := hr
  refine ⟨by rw [hr]; exact h.1, fun i hi => (Eq.trans ?_ (h.2 i hi))⟩
  have hz : (t.runAt c e).size = (u.runAt c e).size := by rw [hr]; rfl
  rw [State.record, State.record, hz, runBytes_mapped hh, runBytes_mapped (by rw [hr]; exact hh)]
  refine readBytes_congr fun j _ => hm _ ?_
  rw [runKey]
  omega

end

end Sys2Proof.Machine
end

section
/-! SUPPORT. scans performed -/

namespace Sys2Proof.Machine

/-! ## Scans performed (R344, R345) -/

section
variable {s t u v : State} {o : Op} {c e n : Nat} {d : ScanDesc} {dest : Option Reg} {recs : List (List Byte)} {hits : List Nat}
  {stop : Option JobStop} {l : List (Nat × List Byte)}

/-- The record that a scan emits for one that passes at a position (R344). -/
def scanRecord (d : ScanDesc) (b : List Byte) (q : Nat) : List Byte := (b.drop d.voff).take 4 ++ natLe 4 0 ++ natLe 8 q

/-- The operation of a scan that has read its source. -/
def scanOp (o : Op) (d : ScanDesc) (recs : List (List Byte)) (hits : List Nat) (stop : Option JobStop) (dest : Option Reg) : Op :=
  let out := if dest.isSome then [] else hits.map (fun q => (0, scanRecord d (recs.getD q []) q))
  { o with
    phase := .working
    taken := emission [d.dst] out
    counts := (BitVec.ofNat 64 recs.length, BitVec.ofNat 64 out.length, BitVec.ofNat 64 hits.length)
    buf := emitBuf (stop.getD ⟨0, 0, 0⟩) 0 (hits.map (fun q => (q + 1, hits.length))) []
    kind := .scan d dest }

/-- What a scan's emissions leave, before it ends. -/
structure ScanEmitted (s v : State) (o : Op) (stop : Option JobStop) (l : List (Nat × List Byte)) : Prop where
  harts : v.harts = s.harts
  groups : v.groups = s.groups
  idle : (∀ p ∈ s.ops, p.taken = []) → ∀ p ∈ v.ops, p.taken = []
  emitted : ∃ u, Emitted (s.notePoison o.ctx stop) u o.ctx l ∧ v.mem = u.mem ∧ ∀ e, v.runAt o.ctx e = u.runAt o.ctx e

theorem notePoison_rest (s : State) (c : Nat) (stop : Option JobStop) : ∃ x, s.notePoison c stop = { s with ctxs := x } := by
  unfold State.notePoison State.poisonLine
  dsimp only
  split
  · split
    · split
      · split <;> exact ⟨_, rfl⟩
      · exact ⟨_, rfl⟩
    · exact ⟨_, rfl⟩
  · exact ⟨_, rfl⟩

/-- A scan that nothing precedes emits what passes and ends. -/
theorem scanRun_emits (hcan : Canonical s) (ho : s.opAt o.id = some o) (hp : o.phase = .queued) (hd : ∀ p ∈ o.preds, s.alive p = false)
    (hk : o.kind = .scan d dest) (hr : s.scanRecords o.ctx d = (recs, hits, stop))
    (hl : (scanOp o d recs hits stop dest).taken = toTake l)
    (ht : ∀ q ∈ l, Takes (s.notePoison o.ctx stop) (scanOp o d recs hits stop dest) q.1 (mineOf q.1 l).length)
    (hb : ∀ q ∈ l, q.1 < 2 ^ 64 ∧ q.2.length = ((s.notePoison o.ctx stop).runAt o.ctx q.1).size) :
    ∃ v m, exec (.scanRun o.id) s = .next (v.scanEnd ((scanOp o d recs hits stop dest).emitted m) d dest) ∧ ScanEmitted s v o stop l := by
  obtain ⟨x, hx⟩ := notePoison_rest s o.ctx stop
  have hwf : Memory.wf (s.notePoison o.ctx stop).mem = true := by rw [hx]; exact hcan
  obtain ⟨u, m, hem, heq⟩ := emitOn_all (o := scanOp o d recs hits stop dest) hwf hl ht hb [d.dst]
  obtain ⟨y, z, hu⟩ := hem.rest
  obtain ⟨w, hw⟩ := countRouting_rest (s := u) (o := scanOp o d recs hits stop dest) (scanOp o d recs hits stop dest).counts.2.1.toNat
    (scanOp o d recs hits stop dest).counts.1.toNat
  have hrun : ∀ e, (u.countRouting (scanOp o d recs hits stop dest) (scanOp o d recs hits stop dest).counts.2.1.toNat
      (scanOp o d recs hits stop dest).counts.1.toNat).runAt o.ctx e = u.runAt o.ctx e := fun e => runAt_countRouting ..
  rw [hw] at heq hrun
  have hops : u.ops = s.ops := by rw [hu, hx]
  have hat : State.opAt { u with ctxs := w } o.id = some o := (congrArg (fun l => l.find? fun p => p.id == o.id) hops).trans ho
  refine ⟨State.setOp { u with ctxs := w } ((scanOp o d recs hits stop dest).emitted m), m, ?_, ?_⟩
  rotate_left
  · exact {
      harts := by show u.harts = s.harts; rw [hu, hx]
      groups := by show u.groups = s.groups; rw [hu, hx]
      idle := fun hi p hm => by
        obtain ⟨q, hq, rfl⟩ := List.mem_map.mp hm
        split
        · rfl
        · exact hi q (by rw [← hops]; exact hq)
      emitted := ⟨u, hem, rfl, hrun⟩ }
  · show execScanRun o.id s = _
    refine (opEvent_at ho _).trans ?_
    simp only [hk, mayStart_ok hp hd, if_true, hr]
    generalize hg : State.emitOn _ _ _ = g
    have hat' : (State.setOp { u with ctxs := w } ((scanOp o d recs hits stop dest).emitted m)).opAt o.id =
        some ((scanOp o d recs hits stop dest).emitted m) := opAt_setOp (o := (scanOp o d recs hits stop dest).emitted m) hat
    rw [show g = _ from hg.symm.trans heq, hat']
    rfl

theorem getD_recordsBelow {i : Nat} (hi : i < n) : (s.recordsBelow c e n).getD i [] = s.record c e i := by
  rw [State.recordsBelow, List.getD_eq_getElem _ _ (by rw [List.length_map, List.length_range]; exact hi), List.getElem_map, List.getElem_range]

/-- What a scan's source gives when none of its lines fails (R343). -/
theorem scanRecords_sound (hb : s.badIn c (handleEntry d.src) 0 ((s.runAt c (handleEntry d.src)).pub * (s.runAt c (handleEntry d.src)).size) = none) :
    s.scanRecords c d = (s.recordsBelow c (handleEntry d.src) (s.runAt c (handleEntry d.src)).pub,
      (List.range (s.runAt c (handleEntry d.src)).pub).filter (fun i => d.passes (s.record c (handleEntry d.src) i)), none) := by
  have hx : s.loadInput c false d.src = ⟨s.recordsBelow c (handleEntry d.src) (s.runAt c (handleEntry d.src)).pub, none⟩ := by
    unfold State.loadInput
    dsimp only
    rw [hb]
    rfl
  rw [State.scanRecords, hx]
  have hlen : (s.recordsBelow c (handleEntry d.src) (s.runAt c (handleEntry d.src)).pub).length = (s.runAt c (handleEntry d.src)).pub := by
    rw [State.recordsBelow, List.length_map, List.length_range]
  have hf : ((List.range (s.runAt c (handleEntry d.src)).pub).filter fun q => d.passes
      ((s.recordsBelow c (handleEntry d.src) (s.runAt c (handleEntry d.src)).pub).getD q [])) =
      (List.range (s.runAt c (handleEntry d.src)).pub).filter (fun i => d.passes (s.record c (handleEntry d.src) i)) :=
    List.filter_congr fun i hi => by rw [getD_recordsBelow (List.mem_range.mp hi)]
  dsimp only
  rw [hlen, hf]

/-- A failing line gives the records before it (R184). -/
theorem scanRecords_poisoned {k : Nat} (hb : s.badIn c (handleEntry d.src) 0
      ((s.runAt c (handleEntry d.src)).pub * (s.runAt c (handleEntry d.src)).size) = some k) :
    ∃ recs hits, s.scanRecords c d = (recs, hits, some ⟨2, BitVec.ofNat 64 (64 * k / (s.runAt c (handleEntry d.src)).size), d.src⟩) := by
  unfold State.scanRecords State.loadInput
  dsimp only
  rw [hb]
  exact ⟨_, _, rfl⟩

end

end Sys2Proof.Machine
end

section
/-! SUPPORT. how a scan ends -/

namespace Sys2Proof.Machine

/-! ## How a scan ends (R183, R344, R345) -/

section
variable {s t u v : State} {o : Op} {c e n : Nat} {d : ScanDesc} {dest : Option Reg} {recs : List (List Byte)} {hits : List Nat}
  {stop : Option JobStop} {l : List (Nat × List Byte)} {k : HartId}

theorem mineOf_map (e : Nat) (f : Nat → List Byte) (hits : List Nat) : mineOf e (hits.map fun q => (e, f q)) = hits.map f := by
  rw [mineOf, List.filter_map, List.map_map]
  exact congrArg (List.map f) (List.filter_eq_self.mpr fun q _ => decide_eq_true rfl)

theorem handleEntry_lt (w : Word) : handleEntry w < 2 ^ 64 :=
  Nat.lt_trans (Nat.mod_lt _ (by decide)) (by decide : 2 ^ 18 < 2 ^ 64)

theorem phase_scanned (o : Op) (d : ScanDesc) (recs : List (List Byte)) (hits : List Nat) (dest : Option Reg) (m : List (Nat × Nat × BitVec 16)) :
    ((scanOp o d recs hits none dest).emitted m).phase = .working := rfl

theorem phase_poisoned (o : Op) (d : ScanDesc) (recs : List (List Byte)) (hits : List Nat) (dest : Option Reg) (m : List (Nat × Nat × BitVec 16))
    (x w : Word) : ((scanOp o d recs hits (some ⟨2, x, w⟩) dest).emitted m).phase = .stopped .poison x 2 := rfl

/-- Where a scan's descriptor lies: in the local store of its hart, outside its code. -/
structure OwnDesc (s : State) (k : HartId) (p : Word) : Prop where
  space : ptrSpace p = 0
  aligned : ptrOff p % 8 = 0
  code : (s.groupAt k.group).code ≤ ptrOff p
  range : ptrOff p + 48 ≤ (s.groupAt k.group).range
  store : ptrOff p + 48 ≤ Config.lsBytes
  key : s.ownKey k p + 48 ≤ 2 ^ 64

theorem scanFields_of {o2 : Op} (hg : v.groups = s.groups) (hc : (v.hart k).core = (s.hart k).core) (hr : (v.hart k).rank = (s.hart k).rank)
    (hk : o2.issuer = .hart k) (hd : OwnDesc s k d.ptr) (status : Nat) :
    v.scanFields o2 d status =
      { v with mem := scanMem v.mem (s.ownKey k d.ptr) status o2.counts.1.toNat o2.counts.2.1.toNat } := by
  have hgr : v.groupAt k.group = s.groupAt k.group := by rw [State.groupAt, hg]; rfl
  have hown : v.ownKey k d.ptr = s.ownKey k d.ptr := by rw [State.ownKey, State.ownKey, hc, hr, hgr]
  rw [← hown]
  exact scanFields_own hk hd.space hd.aligned (by rw [hgr]; exact hd.code) (by rw [hgr]; exact hd.range) hd.store status

theorem ScanEmitted.hart (h : ScanEmitted s v o stop l) (k : HartId) : v.hart k = s.hart k := by
  rw [State.hart, h.harts]
  rfl

theorem ScanEmitted.fields {o2 : Op} (h : ScanEmitted s v o stop l) (hk : o2.issuer = .hart k) (hd : OwnDesc s k d.ptr) (status : Nat) :
    v.scanFields o2 d status =
      { v with mem := scanMem v.mem (s.ownKey k d.ptr) status o2.counts.1.toNat o2.counts.2.1.toNat } :=
  scanFields_of h.groups (by rw [h.hart]) (by rw [h.hart]) hk hd status

theorem mem_setRunAt (s : State) (c e : Nat) (r : Run) : (s.setRunAt c e r).mem = s.mem := rfl

theorem natLe_count (n : Nat) : natLe 8 (BitVec.ofNat 64 n).toNat = natLe 8 n := by
  rw [BitVec.toNat_ofNat]
  exact natLe_mod 8 n

theorem passes_eq (d : ScanDesc) (b : List Byte) : d.passes b = decide
    (keyOrder (scanKey d.type) (d.thr.toNat % 2 ^ 32) < keyOrder (scanKey d.type) (leNat ((b.drop d.voff).take 4)) ∨
      (bitOf (BitVec.ofNat 64 d.flags) 0 = true ∧
        keyOrder (scanKey d.type) (leNat ((b.drop d.voff).take 4)) = keyOrder (scanKey d.type) (d.thr.toNat % 2 ^ 32))) := by
  rw [ScanDesc.passes, recWord, Bool.decide_or, Bool.decide_and]
  congr 2
  simp

/-- The fields of a scan's descriptor that the memory of a state holds. -/
def FieldsRead (t : State) (key status examined emitted : Nat) : Prop :=
  Memory.readBytes t.mem (key + 24) 4 = natLe 4 status ∧ Memory.readBytes t.mem (key + 32) 8 = natLe 8 examined ∧
    Memory.readBytes t.mem (key + 40) 8 = natLe 8 emitted

/-- The operation of a scan that has emitted: how it stands, and what it counts. -/
structure Scanned (o o2 : Op) (phase : OpPhase) (a b n : Nat) : Prop where
  id : o2.id = o.id
  ctx : o2.ctx = o.ctx
  issuer : o2.issuer = o.issuer
  phase : o2.phase = phase
  counts : o2.counts = (BitVec.ofNat 64 a, BitVec.ofNat 64 b, BitVec.ofNat 64 n)

theorem natLe_mem (m : Memory) (key status a b : Nat) :
    scanMem m key status (BitVec.ofNat 64 a).toNat (BitVec.ofNat 64 b).toNat = scanMem m key status a b := by
  rw [scanMem, scanMem, natLe_count, natLe_count]

theorem runAt_withMem (v : State) (m : Memory) (c e : Nat) : State.runAt { v with mem := m } c e = v.runAt c e := rfl

theorem allComplete_of_idle (hv : ∀ p ∈ v.ops, p.taken = []) (c : Nat) (w : Word) : v.allComplete c [w] = true := by
  rw [State.allComplete, List.all_cons, completeTo_of_idle hv, beq_self_eq_true]
  rfl

theorem scanEnd_opened (hp : o.phase = .working) (ha : v.allComplete o.ctx [d.dst] = true) :
    v.scanEnd o d none = (State.publishDest (bitOf (BitVec.ofNat 64 d.flags) 1) o.ctx (v.scanFields o d 0) d.dst).endOp o := by
  unfold State.scanEnd
  rw [hp]
  dsimp only
  rw [ha, Bool.not_true, Bool.and_false, if_neg Bool.false_ne_true]

theorem scanEnd_counted {r : Reg} (hp : o.phase = .working) :
    v.scanEnd o d (some r) = ((v.scanFields o d 0).deliver o.issuer r o.counts.2.2).endOp o := by
  unfold State.scanEnd
  rw [hp]

theorem scanEnd_poisoned {r : Reg} {cause : Cause} {w : Word} {status : Nat} (hp : o.phase = .stopped cause w status) :
    v.scanEnd o d (some r) = (((v.deliver o.issuer r 0).scanFields o d status).endOp o).reportOp o cause w false := by
  unfold State.scanEnd
  rw [hp]

variable (hcan : Canonical s) (ho : s.opAt o.id = some o) (hp : o.phase = .queued) (hd : ∀ p ∈ o.preds, s.alive p = false)
  (hk : o.kind = .scan d dest) (hi : o.issuer = .hart k) (hown : OwnDesc s k d.ptr)
include hcan ho hp hd hk hi hown

theorem scan_ends (hdest : dest = none) (hidle : ∀ p ∈ s.ops, p.taken = []) (hv : d.voff + 4 ≤ (s.runAt o.ctx (handleEntry d.src)).size)
    (hb : s.badIn o.ctx (handleEntry d.src) 0 ((s.runAt o.ctx (handleEntry d.src)).pub * (s.runAt o.ctx (handleEntry d.src)).size) = none)
    (hh : hits = (List.range (s.runAt o.ctx (handleEntry d.src)).pub).filter fun i => d.passes (s.record o.ctx (handleEntry d.src) i))
    (ht : Takes s o (handleEntry d.dst) hits.length) (hz : (s.runAt o.ctx (handleEntry d.dst)).size = 16)
    (hpub : (s.runAt o.ctx (handleEntry d.dst)).pub ≤ (s.runAt o.ctx (handleEntry d.dst)).len) :
    ∃ t, exec (.scanRun o.id) s = .next t ∧ t.alive o.id = false ∧
      FieldsRead t (s.ownKey k d.ptr) 0 (s.runAt o.ctx (handleEntry d.src)).pub hits.length ∧
      Appended s t o.ctx (handleEntry d.dst) (hits.map fun i => scanRecord d (s.record o.ctx (handleEntry d.src) i) i) ∧
      (t.runAt o.ctx (handleEntry d.dst)).pub = (t.runAt o.ctx (handleEntry d.dst)).len ∧
      (t.runAt o.ctx (handleEntry d.dst)).state = if bitOf (BitVec.ofNat 64 d.flags) 1 = true then .sealed else .opened := by
  subst hdest
  have hr := scanRecords_sound hb
  rw [← hh] at hr
  obtain ⟨_, hopen, hhost, _⟩ := id ht
  have hl : hits.map (fun q => (handleEntry d.dst, scanRecord d (s.record o.ctx (handleEntry d.src) q) q)) = _ := rfl
  have hmine := mineOf_map (handleEntry d.dst) (fun q => scanRecord d (s.record o.ctx (handleEntry d.src) q) q) hits
  have hlen : ∀ q, (scanRecord d (s.record o.ctx (handleEntry d.src) q) q).length = 16 := fun q => by
    rw [scanRecord, List.length_append, List.length_append, List.length_take, List.length_drop, State.record, length_runBytes, length_natLe,
      length_natLe]
    omega
  have htaken : (scanOp o d (s.recordsBelow o.ctx (handleEntry d.src) (s.runAt o.ctx (handleEntry d.src)).pub) hits none none).taken =
      toTake (hits.map fun q => (handleEntry d.dst, scanRecord d (s.record o.ctx (handleEntry d.src) q) q)) := by
    rw [toTake, List.map_map]
    show emission [d.dst] (hits.map _) = _
    rw [emission, List.map_map]
    refine List.map_congr_left fun q hq => ?_
    have hlt : q < (s.runAt o.ctx (handleEntry d.src)).pub := by
      rw [hh] at hq
      exact List.mem_range.mp (List.mem_filter.mp hq).1
    dsimp only [Function.comp_apply]
    rw [getD_recordsBelow hlt]
    rfl
  obtain ⟨v, m, hexec, hem⟩ := scanRun_emits hcan ho hp hd hk hr htaken
    (fun q hq => by
      obtain ⟨i, _, rfl⟩ := List.mem_map.mp hq
      rw [hmine, List.length_map]
      exact ht)
    (fun q hq => by
      obtain ⟨i, _, rfl⟩ := List.mem_map.mp hq
      exact ⟨handleEntry_lt _, (hlen i).trans hz.symm⟩)
  obtain ⟨u, hemit, hmem, hruns⟩ := hem.emitted
  obtain ⟨q, dm, hrun⟩ := hemit.run (handleEntry d.dst)
  rw [hmine, List.length_map, ← hruns] at hrun
  have hidle' := hem.idle hidle
  have hwf : Memory.wf v.mem = true := by rw [hmem]; exact hemit.wf
  obtain ⟨o2, ho2, hop⟩ : ∃ o2, (scanOp o d (s.recordsBelow o.ctx (handleEntry d.src) (s.runAt o.ctx (handleEntry d.src)).pub) hits none
      none).emitted m = o2 ∧ Scanned o o2 .working (s.runAt o.ctx (handleEntry d.src)).pub hits.length hits.length :=
    ⟨_, rfl, rfl, rfl, rfl, phase_scanned .., by
      show (BitVec.ofNat 64 (List.length _), BitVec.ofNat 64 (List.length (hits.map _)), _) = _
      rw [List.length_map, State.recordsBelow, List.length_map, List.length_range]⟩
  rw [ho2] at hexec
  have hfields := hem.fields (o2 := o2) (hop.issuer.trans hi) hown 0
  rw [hop.counts, natLe_mem] at hfields
  have hwrun : (v.scanFields o2 d 0).runAt o.ctx (handleEntry d.dst) = v.runAt o.ctx (handleEntry d.dst) := by
    rw [hfields, runAt_withMem]
  have hwops : (v.scanFields o2 d 0).ops = v.ops := by rw [hfields]
  have hdone := publishDest_opened (s := v.scanFields o2 d 0) (c := o.ctx) (w := d.dst) (bitOf (BitVec.ofNat 64 d.flags) 1)
    (by rw [hwrun, hrun]; exact hopen) (by rw [hwrun, hrun]; exact hhost) (by rw [hwrun, hrun]; exact Nat.le_trans hpub (Nat.le_add_right ..))
    (completeTo_of_idle (by rw [hwops]; exact hidle'))
  have hend := scanEnd_opened (d := d) (v := v) hop.phase (by rw [hop.ctx]; exact allComplete_of_idle hidle' o.ctx d.dst)
  rw [hop.ctx, hdone, hwrun] at hend
  rw [hend] at hexec
  refine ⟨_, hexec, hop.id ▸ alive_endOp _ o2, ?_⟩
  have hmemo : (v.scanFields o2 d 0).mem = scanMem v.mem (s.ownKey k d.ptr) 0 (s.runAt o.ctx (handleEntry d.src)).pub hits.length := by
    rw [hfields]
  obtain ⟨f0, f1, f2, hout, _⟩ := scanMem_fields hwf (s.ownKey k d.ptr) 0 (s.runAt o.ctx (handleEntry d.src)).pub hits.length
  rw [FieldsRead, mem_endOp, runAt_endOp, runAt_setRunAt, mem_setRunAt, hmemo]
  refine ⟨⟨f0, f1, f2⟩, ?_, rfl, rfl⟩
  have happ := hemit.appended (e := handleEntry d.dst) hhost fun q hq _ => by
    obtain ⟨i, _, rfl⟩ := List.mem_map.mp hq
    exact (hlen i).trans hz.symm
  rw [hmine] at happ
  refine appended_congr happ ⟨(v.runAt o.ctx (handleEntry d.dst)).len, if bitOf (BitVec.ofNat 64 d.flags) 1 = true then .sealed else .opened, ?_⟩
    (by rw [← hruns, hrun]; exact hhost) fun j hj => ?_
  · rw [runAt_endOp, runAt_setRunAt, hruns]
  · rw [mem_endOp, mem_setRunAt, hmemo, hout j (.inr (Nat.le_trans hown.key hj)), hmem]

end

section
variable {s u v : State} {o : Op} {d : ScanDesc} {recs : List (List Byte)} {hits : List Nat} {k : HartId} {x : Reg}

/-- A hart's register that waits for a scan's count has it. -/
theorem deliver_hart (hk : o.issuer = .hart k) (hh : lookup? s.harts k.key ≠ none) (w : Word) :
    s.deliver o.issuer x w = s.setHart k ((s.hart k).arrive x w) := by
  rw [hk, State.deliver]
  exact if_neg fun h => hh (Option.isNone_iff_eq_none.mp h)

theorem sregs_arrive (h : Hart) (x : Reg) (w : Word) (hx : x ≠ 0) : vecGet 0 (h.arrive x w).sregs x.toNat = w := by
  rw [Hart.arrive, if_neg hx]
  exact (vecGet_vecSet ..).trans (if_pos ⟨rfl, x.isLt⟩)

theorem harts_endOp (s : State) (o : Op) : (s.endOp o).harts = s.harts := by
  unfold State.endOp State.endParent
  split
  · split <;> rfl
  · rfl

theorem reportOp_hart (hk : o.issuer = .hart k) (hh : lookup? s.harts k.key ≠ none) (c : Cause) (w : Word) :
    s.reportOp o c w false = s.setHart k { s.hart k with reports := (s.hart k).reports ++ [⟨c, w, 0, .none, 0, true⟩] } := by
  rw [State.reportOp, hk]
  exact (if_neg fun h => hh (Option.isNone_iff_eq_none.mp h)).trans rfl

variable (hcan : Canonical s) (ho : s.opAt o.id = some o) (hp : o.phase = .queued) (hd : ∀ p ∈ o.preds, s.alive p = false)
  (hk : o.kind = .scan d (some x)) (hi : o.issuer = .hart k) (hh : lookup? s.harts k.key ≠ none) (hown : OwnDesc s k d.ptr)
include hcan ho hp hd hk hi hh hown

theorem scanth_ends
    (hb : s.badIn o.ctx (handleEntry d.src) 0 ((s.runAt o.ctx (handleEntry d.src)).pub * (s.runAt o.ctx (handleEntry d.src)).size) = none)
    (hhits : hits = (List.range (s.runAt o.ctx (handleEntry d.src)).pub).filter fun i => d.passes (s.record o.ctx (handleEntry d.src) i)) :
    ∃ t, exec (.scanRun o.id) s = .next t ∧ t.alive o.id = false ∧
      FieldsRead t (s.ownKey k d.ptr) 0 (s.runAt o.ctx (handleEntry d.src)).pub 0 ∧ bitOf (t.hart k).pending x.toNat = false ∧
      (x ≠ 0 → vecGet 0 (t.hart k).sregs x.toNat = BitVec.ofNat 64 hits.length) := by
  have hr := scanRecords_sound hb
  rw [← hhits] at hr
  obtain ⟨v, m, hexec, hem⟩ := scanRun_emits (l := []) hcan ho hp hd hk hr rfl nofun nofun
  obtain ⟨u, hemit, hmem, _⟩ := hem.emitted
  have hwf : Memory.wf v.mem = true := by rw [hmem]; exact hemit.wf
  obtain ⟨o2, ho2, hop⟩ : ∃ o2, (scanOp o d (s.recordsBelow o.ctx (handleEntry d.src) (s.runAt o.ctx (handleEntry d.src)).pub) hits none
      (some x)).emitted m = o2 ∧ Scanned o o2 .working (s.runAt o.ctx (handleEntry d.src)).pub 0 hits.length :=
    ⟨_, rfl, rfl, rfl, rfl, phase_scanned .., by
      show (BitVec.ofNat 64 (List.length _), _, _) = _
      rw [State.recordsBelow, List.length_map, List.length_range]
      rfl⟩
  have hfields := hem.fields (o2 := o2) (hop.issuer.trans hi) hown 0
  rw [hop.counts, natLe_mem] at hfields
  have hmemo : (v.scanFields o2 d 0).mem = scanMem v.mem (s.ownKey k d.ptr) 0 (s.runAt o.ctx (handleEntry d.src)).pub 0 := by
    rw [hfields]
  have hharts : (v.scanFields o2 d 0).harts = s.harts := by rw [hfields, ← hem.harts]
  have hgo := scanEnd_counted (d := d) (v := v) (r := x) hop.phase
  rw [deliver_hart (hop.issuer.trans hi) (by rw [hharts]; exact hh), hop.counts] at hgo
  rw [ho2, hgo] at hexec
  obtain ⟨f0, f1, f2, _⟩ := scanMem_fields hwf (s.ownKey k d.ptr) 0 (s.runAt o.ctx (handleEntry d.src)).pub 0
  refine ⟨_, hexec, hop.id ▸ alive_endOp _ o2, ?_⟩
  rw [FieldsRead, mem_endOp, hart_endOp, State.hart_setHart, State.setHart_mem, hmemo]
  exact ⟨⟨f0, f1, f2⟩, bitOf_and_not_self .., sregs_arrive _ x _⟩

theorem scanth_poisoned {j : Nat}
    (hb : s.badIn o.ctx (handleEntry d.src) 0 ((s.runAt o.ctx (handleEntry d.src)).pub * (s.runAt o.ctx (handleEntry d.src)).size) = some j) :
    ∃ t, exec (.scanRun o.id) s = .next t ∧ t.alive o.id = false ∧ (x ≠ 0 → vecGet 0 (t.hart k).sregs x.toNat = 0) ∧
      (t.hart k).reports = (s.hart k).reports ++
        [⟨.poison, BitVec.ofNat 64 (64 * j / (s.runAt o.ctx (handleEntry d.src)).size), 0, .none, 0, true⟩] := by
  obtain ⟨recs, hits, hr⟩ := scanRecords_poisoned (d := d) hb
  obtain ⟨v, m, hexec, hem⟩ := scanRun_emits (l := []) hcan ho hp hd hk hr rfl nofun nofun
  obtain ⟨o2, ho2, hid, hiss, hphase⟩ : ∃ o2, (scanOp o d recs hits (some ⟨2, BitVec.ofNat 64 (64 * j /
      (s.runAt o.ctx (handleEntry d.src)).size), d.src⟩) (some x)).emitted m = o2 ∧ o2.id = o.id ∧ o2.issuer = o.issuer ∧
      o2.phase = .stopped .poison (BitVec.ofNat 64 (64 * j / (s.runAt o.ctx (handleEntry d.src)).size)) 2 :=
    ⟨_, rfl, rfl, rfl, phase_poisoned ..⟩
  have hi2 := hiss.trans hi
  have hv : lookup? v.harts k.key ≠ none := by rw [hem.harts]; exact hh
  have hgo := scanEnd_poisoned (d := d) (v := v) (r := x) hphase
  have hvk : ∀ y, (v.setHart k y).hart k = y := State.hart_setHart v k
  have hfields := scanFields_of (v := v.setHart k ((v.hart k).arrive x 0)) (o2 := o2) hem.groups (by rw [hvk, ← hem.hart]; rfl)
    (by rw [hvk, ← hem.hart]; rfl) hi2 hown 2
  rw [deliver_hart hi2 hv, hfields] at hgo
  generalize scanMem _ _ _ _ _ = mm at hgo
  have hlive : lookup? (State.endOp { v.setHart k ((v.hart k).arrive x 0) with mem := mm } o2).harts k.key ≠ none := by
    rw [harts_endOp]
    show lookup? (insertKey v.harts k.key ((v.hart k).arrive x 0)) k.key ≠ none
    rw [lookup?_insertKey, if_pos rfl]
    exact nofun
  rw [reportOp_hart hi2 hlive, hart_endOp, show State.hart { v.setHart k ((v.hart k).arrive x 0) with mem := mm } k = _ from hvk _, hem.hart]
    at hgo
  rw [ho2, hgo] at hexec
  refine ⟨_, hexec, hid ▸ alive_endOp _ o2, ?_⟩
  rw [State.hart_setHart]
  exact ⟨sregs_arrive _ x _, rfl⟩

end

end Sys2Proof.Machine
end

section
/-! SUPPORT. The statements settled: near-memory commands and scans -/

namespace Sys2Proof.Proofs
open Sys2Proof.Machine

/-- Settles O36: the issue of jobs and scans, a job by what its commands give, a command's elements one by one, and a scan by the records
of its source. -/
theorem nearMemory : Obligations.NearMemory := by
  unfold Obligations.NearMemory
  refine ⟨fun d a b h q s hh hn hq => ⟨?_, ?_, ?_, ?_⟩, fun s u o p run first k token ho hp hd hk hl => ?_, ?_,
    fun s o k d dest hcan ho hp hd hidle hk hi hlive => ?_⟩
  case refine_1 => exact fun hw he h6 hz => ⟨nmc_next hh hn hq hw he h6 hz, nmc_waits hh hn hq hw he h6 hz⟩
  case refine_2 => exact fun hp j hj h1 hv => nmstat_next hh (named_sub hn) hq hp hj h1 hv
  case refine_3 => exact fun x hx => scan_next hh (named_subset hn (by simp)) hq hx
  case refine_4 => exact fun x hx => scanth_next hh (named_sub hn) hq hx
  case refine_5 =>
    intro pub all h64
    have hgo := nmcJobRun_next ho hp hd hk
    obtain ⟨h1, h2, h3⟩ := nmGo_cases (u := u) (p := p) (run := run) (first := first) hl h64
    exact ⟨fun h => hgo.trans (congrArg _ (h1 k h)), fun x h => hgo.trans (congrArg _ (h2 k x h)),
      fun i h => hgo.trans (congrArg _ (h3 k i h))⟩
  case refine_6 =>
    intro s o run pos hcan hs hl c te se inMemory val mul hf ht hsrc hst hb hord
    obtain ⟨u, p, hu, hap⟩ := runCommand_applied hcan hs hl rfl hf ht hsrc hst hb hord
    refine ⟨u, p, hu, fun i hi => ?_, hap.rest⟩
    intro old src new
    have hnew : new = c.value old src % 2 ^ 32 := hap.elems i (Nat.zero_le _) hi
    have hold : old % 2 ^ 32 = old := Nat.mod_eq_of_lt (elemAt_lt ..)
    have hsrc' : src % 2 ^ 32 = src := Nat.mod_eq_of_lt (elemAt_lt ..)
    have ha : c.a % 2 ^ 32 = c.a := Nat.mod_eq_of_lt (recWord_lt ..)
    obtain ⟨v0, v1, v2, v3, v4, v5, v6, v7⟩ := value_of_op c old src
    rw [hnew]
    exact ⟨fun h => (congrArg (· % 2 ^ 32) (v0 h)).trans hold, fun h => congrArg (· % 2 ^ 32) (v1 h), fun h => congrArg (· % 2 ^ 32) (v2 h),
      fun h => (congrArg (· % 2 ^ 32) (v3 h)).trans (Nat.mod_mod ..), fun h => congrArg (· % 2 ^ 32) (v4 h),
      fun h => (congrArg (· % 2 ^ 32) (v5 h)).trans hsrc', fun h => (congrArg (· % 2 ^ 32) (v6 h)).trans ha,
      fun h => congrArg (· % 2 ^ 32) (v7 h)⟩
  case refine_7 =>
    intro g at_ h0 h8 hc hr hls hkey e r order value passes hits fields hv
    have hown : OwnDesc s k d.ptr := ⟨h0, h8, hc, hr, hls, hkey⟩
    have hhits : hits = (List.range r.pub).filter fun i => d.passes (s.record o.ctx e i) :=
      List.filter_congr fun i _ => (passes_eq d _).symm
    refine ⟨fun hb => ⟨?_, fun x hx => ?_⟩, fun x l hx hb => ?_⟩
    · intro hdest to_ ht hz hpub
      exact scan_ends hcan ho hp hd hk hi hown hdest hidle hv hb hhits ht hz hpub
    · exact scanth_ends hcan ho hp hd (hk.trans (by rw [hx])) hi hlive hown hb hhits
    · exact scanth_poisoned hcan ho hp hd (hk.trans (by rw [hx])) hi hlive hown hb
end Sys2Proof.Proofs
end

section
/-! SUPPORT. what a group emits -/

namespace Sys2Proof.Machine

/-! ## What a group emits (R187) -/

section
variable {w : Word} {x : List Byte} {g : List (List Byte)}

/-- The values of a group's records. -/
def combVals (w : Word) (g : List (List Byte)) : List Nat := g.map (fun b => recWord b (combOff w) (valueBytes (combType w)))

theorem combine_nil (w : Word) : combine w [] = [] := by
  unfold combine
  rfl

theorem combine_all (h : combCode w = 0) : combine w (x :: g) = x :: g := by
  simp only [combine, h]

theorem combine_first (h : combCode w = 1) : combine w (x :: g) = [x] := by
  simp only [combine, h]

theorem combine_last (h : combCode w = 2) : combine w (x :: g) = [g.getLastD x] := by
  simp only [combine, h, List.getLastD_cons]

theorem combine_count (h : combCode w = 6) : combine w (x :: g) =
    [setBytes x (combOff w) (valueBytes (combType w)) ((g.length + 1) % 2 ^ (8 * valueBytes (combType w)))] := by
  simp only [combine, h, List.length_cons]

theorem combine_fold (h : combCode w = 3 ∨ combCode w = 4 ∨ combCode w = 5) : combine w (x :: g) =
    [setBytes x (combOff w) (valueBytes (combType w)) ((combVals w g).foldl (combStep (combCode w) (combType w))
      (recWord x (combOff w) (valueBytes (combType w))))] := by
  rcases h with h | h | h <;> simp only [combine, h, List.map_cons, List.tail_cons, List.headD_cons, combVals]

/-- A field's value counts modulo its width. -/
theorem setBytes_mod (x : List Byte) (off n v : Nat) : setBytes x off n (v % 2 ^ (8 * n)) = setBytes x off n v := by
  rw [setBytes, setBytes, natLe_mod]

theorem foldl_sum_mod (m : Nat) (l : List Nat) (v : Nat) : l.foldl (fun y z => (y + z) % m) v % m = (v :: l).sum % m := by
  induction l generalizing v with
  | nil => rw [List.foldl_nil, List.sum_cons, List.sum_nil, Nat.add_zero]
  | cons z l ih =>
    rw [List.foldl_cons, ih, List.sum_cons, List.sum_cons, List.sum_cons, Nat.mod_add_mod, Nat.add_assoc]

/-- A fold that keeps the lesser of two gives a least value. -/
theorem foldl_least {κ : Type} [LinearOrder κ] (key : Nat → κ) (l : List Nat) (v : Nat) :
    let r := l.foldl (fun y z => if key z < key y then z else y) v
    r ∈ v :: l ∧ ∀ y ∈ v :: l, key r ≤ key y := by
  induction l generalizing v with
  | nil => exact ⟨List.mem_cons_self .., fun y hy => by rw [List.mem_singleton.mp hy]; rfl⟩
  | cons z l ih =>
    intro r
    obtain ⟨hm, hle⟩ := ih (if key z < key v then z else v)
    have hz := hle _ (List.mem_cons_self ..)
    change r ∈ _ at hm
    change key r ≤ _ at hz
    have hrest : ∀ y ∈ l, key r ≤ key y := fun y hy => hle y (List.mem_cons_of_mem _ hy)
    have hvz : key r ≤ key v ∧ key r ≤ key z := by
      split at hz
      · rename_i h
        exact ⟨le_trans hz (le_of_lt h), hz⟩
      · rename_i h
        exact ⟨hz, le_trans hz (not_lt.mp h)⟩
    refine ⟨?_, fun y hy => ?_⟩
    · rcases List.mem_cons.mp hm with h | h
      · rw [h]
        split
        · exact List.mem_cons_of_mem _ (List.mem_cons_self ..)
        · exact List.mem_cons_self ..
      · exact List.mem_cons_of_mem _ (List.mem_cons_of_mem _ h)
    · rcases List.mem_cons.mp hy with rfl | hy
      · exact hvz.1
      · rcases List.mem_cons.mp hy with rfl | hy
        · exact hvz.2
        · exact hrest y hy

/-- The order of an integer value type (R151). -/
def typeOrder (t v : Nat) : Int := if t = 0 ∨ t = 2 then sextNat v (8 * valueBytes t) else (v : Int)

theorem sextNat_le {n m a b : Nat} (hn : n = m + 1) (ha : a < 2 ^ n) (hb : b < 2 ^ n)
    (h : (a + 2 ^ m) % 2 ^ n ≤ (b + 2 ^ m) % 2 ^ n) : sextNat a n ≤ sextNat b n := by
  have hp : 2 ^ n = 2 * 2 ^ m := by rw [hn, Nat.pow_succ']
  have hz : ((2 : Int) ^ n) = 2 * ((2 ^ m : Nat) : Int) := by exact_mod_cast hp
  unfold sextNat
  rw [Nat.mod_eq_of_lt ha, Nat.mod_eq_of_lt hb, hz]
  dsimp only
  rw [hp] at ha hb h ⊢
  generalize 2 ^ m = m at *
  have hmod : ∀ v, v < 2 * m → (v + m) % (2 * m) = if v < m then v + m else v - m := fun v hv => by
    split
    · exact Nat.mod_eq_of_lt (by omega)
    · rw [show v + m = (v - m) + 2 * m by omega, Nat.add_mod_right, Nat.mod_eq_of_lt (by omega)]
  rw [hmod a ha, hmod b hb] at h
  split at h <;> split at h <;> split <;> split <;> omega

theorem valueOrder_signed4 {t : Nat} (h : t = 0) (x : Nat) : valueOrder t x = (x + 2 ^ 31) % 2 ^ 32 := by
  unfold valueOrder
  split
  · rfl
  · exact absurd h (by decide)
  · exact absurd h ‹_›

theorem valueOrder_signed8 {t : Nat} (h : t = 2) (x : Nat) : valueOrder t x = (x + 2 ^ 63) % 2 ^ 64 := by
  unfold valueOrder
  split
  · exact absurd h (by decide)
  · rfl
  · exact absurd h ‹_›

theorem typeOrder_le {t a b : Nat} (ht : t < 4) (ha : a < 2 ^ (8 * valueBytes t)) (hb : b < 2 ^ (8 * valueBytes t))
    (h : valueOrder t a ≤ valueOrder t b) : typeOrder t a ≤ typeOrder t b := by
  unfold typeOrder
  by_cases hs : t = 0 ∨ t = 2
  · rw [if_pos hs, if_pos hs]
    rcases hs with h0 | h2
    · rw [h0, show 8 * valueBytes 0 = 32 from rfl] at ha hb ⊢
      rw [valueOrder_signed4 h0, valueOrder_signed4 h0] at h
      exact sextNat_le (m := 31) rfl ha hb h
    · rw [h2, show 8 * valueBytes 2 = 64 from rfl] at ha hb ⊢
      rw [valueOrder_signed8 h2, valueOrder_signed8 h2] at h
      exact sextNat_le (m := 63) rfl ha hb h
  · have hv : ∀ v, valueOrder t v = v := fun v => by
      unfold valueOrder
      split
      · exact absurd (.inl rfl) hs
      · exact absurd (.inr rfl) hs
      · rfl
    rw [if_neg hs, if_neg hs]
    rw [hv, hv] at h
    exact Int.ofNat_le.mpr h

/-- What a fold under codes 3 to 5 gives over integers: the sum modulo the width, a least, a greatest value. -/
theorem combine_integers (ht : combType w < 4) :
    let n := valueBytes (combType w)
    let emit := fun (v : Nat) => combine w (x :: g) = [setBytes x (combOff w) n v]
    (combCode w = 3 → emit ((combVals w (x :: g)).sum % 2 ^ (8 * n))) ∧
    (combCode w = 4 → ∃ v ∈ combVals w (x :: g), emit v ∧ ∀ y ∈ combVals w (x :: g), typeOrder (combType w) v ≤ typeOrder (combType w) y) ∧
    (combCode w = 5 → ∃ v ∈ combVals w (x :: g), emit v ∧ ∀ y ∈ combVals w (x :: g), typeOrder (combType w) y ≤ typeOrder (combType w) v) := by
  intro n emit
  have h4 : combType w ≠ 4 := by omega
  have hlt : ∀ v ∈ combVals w (x :: g), v < 2 ^ (8 * n) := fun v hv => by
    obtain ⟨b, _, rfl⟩ := List.mem_map.mp hv
    exact recWord_lt ..
  have hval : combVals w (x :: g) = recWord x (combOff w) n :: combVals w g := rfl
  refine ⟨fun h => ?_, fun h => ?_, fun h => ?_⟩
  · show combine w (x :: g) = _
    have hs : combStep 3 (combType w) = fun y z => (y + z) % 2 ^ (8 * valueBytes (combType w)) := by
      funext y z
      simp only [combStep, if_neg h4]
    rw [combine_fold (.inl h), h, hs, hval, setBytes_mod, ← setBytes_mod, foldl_sum_mod, setBytes_mod]
  · have hs : combStep 4 (combType w) = fun y z => if valueOrder (combType w) z < valueOrder (combType w) y then z else y := by
      funext y z
      simp only [combStep, if_neg h4]
    obtain ⟨hm, hle⟩ := foldl_least (valueOrder (combType w)) (combVals w g) (recWord x (combOff w) n)
    refine ⟨_, hm, ?_, fun y hy => typeOrder_le ht (hlt _ hm) (hlt y hy) (hle y hy)⟩
    show combine w (x :: g) = _
    rw [combine_fold (.inr (.inl h)), h, hs]
  · have hs : combStep 5 (combType w) = fun y z => if OrderDual.toDual (valueOrder (combType w) z) < OrderDual.toDual (valueOrder (combType w) y)
        then z else y := by
      funext y z
      simp only [combStep, if_neg h4]
      rfl
    obtain ⟨hm, hle⟩ := foldl_least (fun v => OrderDual.toDual (valueOrder (combType w) v)) (combVals w g) (recWord x (combOff w) n)
    refine ⟨_, hm, ?_, fun y hy => typeOrder_le ht (hlt y hy) (hlt _ hm) (hle y hy)⟩
    show combine w (x :: g) = _
    rw [combine_fold (.inr (.inr h)), h, hs]

/-- What a fold under codes 3 to 5 gives over floating-point values. -/
theorem combine_floats (ht : combType w = 4) :
    let fold := fun (f : Nat → Nat → Nat) =>
      combine w (x :: g) = [setBytes x (combOff w) (valueBytes (combType w)) ((combVals w g).foldl f
        (recWord x (combOff w) (valueBytes (combType w))))]
    (combCode w = 3 → fold (fun y z => (f32.sum .rne [f32.decode y, f32.decode z]).1)) ∧
    (combCode w = 4 → fold (fun y z => (f32.minmax false y z).1)) ∧ (combCode w = 5 → fold (fun y z => (f32.minmax true y z).1)) := by
  intro fold
  have h3 : combStep 3 (combType w) = fun y z => (f32.sum .rne [f32.decode y, f32.decode z]).1 := by
    funext y z
    simp only [combStep, if_pos ht]
  have h4 : combStep 4 (combType w) = fun y z => (f32.minmax false y z).1 := by
    funext y z
    simp only [combStep, if_pos ht]
  have h5 : combStep 5 (combType w) = fun y z => (f32.minmax true y z).1 := by
    funext y z
    simp only [combStep, if_pos ht]
  refine ⟨fun h => ?_, fun h => ?_, fun h => ?_⟩
  · show combine w (x :: g) = _
    rw [combine_fold (.inl h), h, h3]
  · show combine w (x :: g) = _
    rw [combine_fold (.inr (.inl h)), h, h4]
  · show combine w (x :: g) = _
    rw [combine_fold (.inr (.inr h)), h, h5]

end

end Sys2Proof.Machine
end

section
/-! SUPPORT. what a job computes -/

namespace Sys2Proof.Machine

/-! ## What a job computes from sound inputs (R183–R192) -/

section
variable {s : State} {o : Op} {j : JobDesc} {w : Word} {code c : Nat}

/-- The records of a run below its published mark. -/
def State.recsOf (s : State) (c : Nat) (w : Word) : List (List Byte) := s.recordsBelow c (handleEntry w) (s.runAt c (handleEntry w)).pub

/-- No line of a run fails below its published mark. -/
def State.soundRun (s : State) (c : Nat) (w : Word) : Prop :=
  s.badIn c (handleEntry w) 0 ((s.runAt c (handleEntry w)).pub * (s.runAt c (handleEntry w)).size) = none

/-- Records in the order of their keys. -/
def InOrder (code : Nat) (l : List (List Byte)) : Prop := l.Pairwise (fun x y => recKey code x ≤ recKey code y)

theorem orderBreak_none {l : List (List Byte)} (h : InOrder code l) : ∀ i, orderBreak code i l = none := by
  induction l with
  | nil => exact fun _ => rfl
  | cons x t ih =>
    intro i
    cases t with
    | nil => rfl
    | cons y t =>
      obtain ⟨hx, ht⟩ := List.pairwise_cons.mp h
      rw [orderBreak, if_neg (Nat.not_lt.mpr (hx y (List.mem_cons_self ..)))]
      exact ih ht (i + 1)

theorem loadInput_unordered (h : s.soundRun c w) : s.loadInput c false w = ⟨s.recsOf c w, none⟩ := by
  unfold State.loadInput
  dsimp only
  rw [show s.badIn c _ 0 _ = none from h]
  rfl

theorem loadInput_ordered (h : s.soundRun c w) (hk : keyCode (s.runAt c (handleEntry w)).layout = code) (ho : InOrder code (s.recsOf c w)) :
    s.loadInput c true w = ⟨s.recsOf c w, none⟩ := by
  unfold State.loadInput
  dsimp only
  rw [show s.badIn c _ 0 _ = none from h, if_pos rfl, hk]
  dsimp only
  rw [show orderBreak code 0 (s.recordsBelow c _ _) = none from orderBreak_none ho 0]
  rfl

/-- The key code of a job: that of its first input's layout. -/
def State.jobCode (s : State) (o : Op) (j : JobDesc) : Nat := keyCode (s.runAt o.ctx (handleEntry (j.inputs.headD 0))).layout

theorem runJob_sort (hk : j.kind = .sort) (h : s.soundRun o.ctx (j.inputs.headD 0)) :
    let recs := s.recsOf o.ctx (j.inputs.headD 0)
    let sorted := stableSort (fun a b => decide (recKey (s.jobCode o j) a ≤ recKey (s.jobCode o j) b)) recs
    s.runJob o j = (s, ⟨sorted.map (fun b => (0, b)), sorted.map (fun _ => (recs.length, 0)), recs, 0, none, 0⟩) := by
  unfold State.runJob
  rw [hk]
  dsimp only
  rw [loadInput_unordered h]
  rfl

theorem runJob_part (hk : j.kind = .part) (h : s.soundRun o.ctx (j.inputs.headD 0)) :
    let recs := s.recsOf o.ctx (j.inputs.headD 0)
    let split := fun (w : Word) => keyOrder (s.jobCode o j) (w.toNat % 2 ^ (8 * keyBytes (s.jobCode o j)))
    s.runJob o j = (s, ⟨recs.map (fun b => ((j.splits.filter (fun w => decide (split w ≤ recKey (s.jobCode o j) b))).length, b)),
      (List.range recs.length).map (fun q => (q + 1, 0)), recs, 0, none, 0⟩) := by
  unfold State.runJob
  rw [hk]
  dsimp only
  rw [loadInput_unordered h]
  rfl

theorem runJob_tag (hk : j.kind = .tag) (h : s.soundRun o.ctx (j.inputs.headD 0)) :
    let recs := s.recsOf o.ctx (j.inputs.headD 0)
    s.runJob o j = (s, ⟨(List.range recs.length).map (fun q => (0, tagged j q (recs.getD q []))),
      (List.range recs.length).map (fun q => (q + 1, 0)), recs, 0, none, 0⟩) := by
  unfold State.runJob
  rw [hk]
  dsimp only
  rw [loadInput_unordered h]

/-! ### Groups of equal keys (R186) -/

theorem groupKeys_sorted {ms : List MergeRec} (h : ms.Pairwise (fun a b => a.key ≤ b.key)) :
    ∃ ks : List Nat, ks.Pairwise (fun x y => x < y) ∧ (∀ k, k ∈ ks ↔ ∃ r ∈ ms, r.key = k) ∧
      groupKeys ms = ks.map (fun k => ms.filter (fun r => decide (r.key = k))) := by
  induction ms with
  | nil => exact ⟨[], .nil, fun k => ⟨fun h => absurd h List.not_mem_nil, fun ⟨_, hr, _⟩ => absurd hr List.not_mem_nil⟩, rfl⟩
  | cons x t ih =>
    obtain ⟨hx, ht⟩ := List.pairwise_cons.mp h
    obtain ⟨ks, hks, hmem, hg⟩ := ih ht
    have hge : ∀ k ∈ ks, x.key ≤ k := fun k hk => by
      obtain ⟨r, hr, rfl⟩ := (hmem k).mp hk
      exact hx r hr
    have hother : ∀ k, x.key ≠ k → (x :: t).filter (fun r => decide (r.key = k)) = t.filter (fun r => decide (r.key = k)) := fun k hk =>
      List.filter_cons_of_neg (by rw [decide_eq_true_eq]; exact hk)
    have hsame : (x :: t).filter (fun r => decide (r.key = x.key)) = x :: t.filter (fun r => decide (r.key = x.key)) :=
      List.filter_cons_of_pos (decide_eq_true rfl)
    by_cases hin : x.key ∈ ks
    · -- the head of `ks` is the key of `x`, and its group grows
      cases ks with
      | nil => exact absurd hin List.not_mem_nil
      | cons k ks =>
        obtain ⟨hk, hks'⟩ := List.pairwise_cons.mp hks
        have hkx : k = x.key := by
          rcases List.mem_cons.mp hin with h | h
          · exact h.symm
          · have := hk _ h
            have := hge k (List.mem_cons_self ..)
            omega
        subst hkx
        obtain ⟨y, hy, hyk⟩ := (hmem _).mp hin
        obtain ⟨z, g, hz⟩ : ∃ z g, t.filter (fun r => decide (r.key = x.key)) = z :: g :=
          List.exists_cons_of_ne_nil (List.ne_nil_of_mem (List.mem_filter.mpr ⟨hy, decide_eq_true hyk⟩))
        have hzk : x.key = z.key := by
          have : z ∈ t.filter (fun r => decide (r.key = x.key)) := by rw [hz]; exact List.mem_cons_self ..
          exact (of_decide_eq_true (List.mem_filter.mp this).2).symm
        refine ⟨x.key :: ks, hks, fun k => ⟨fun h => ?_, fun ⟨r, hr, hrk⟩ => ?_⟩, ?_⟩
        · obtain ⟨r, hr, hrk⟩ := (hmem k).mp h
          exact ⟨r, List.mem_cons_of_mem _ hr, hrk⟩
        · rcases List.mem_cons.mp hr with rfl | hr
          · exact hrk ▸ hin
          · exact (hmem k).mpr ⟨r, hr, hrk⟩
        · rw [List.map_cons, hz] at hg
          rw [groupKeys, hg]
          dsimp only
          rw [if_pos hzk, List.map_cons, hsame, hz]
          congr 1
          refine List.map_congr_left fun k' hk' => (hother k' ?_).symm
          exact Nat.ne_of_lt (hk k' hk')
    · have hnone : t.filter (fun r => decide (r.key = x.key)) = [] := List.filter_eq_nil_iff.mpr fun r hr hd =>
        hin ((hmem _).mpr ⟨r, hr, of_decide_eq_true hd⟩)
      have hgt : ∀ k ∈ ks, x.key < k := fun k hk => Nat.lt_of_le_of_ne (hge k hk) fun h => hin (h ▸ hk)
      have hrest : ks.map (fun k => (x :: t).filter (fun r => decide (r.key = k))) = ks.map (fun k => t.filter (fun r => decide (r.key = k))) :=
        List.map_congr_left fun k hk => hother k (Nat.ne_of_lt (hgt k hk))
      refine ⟨x.key :: ks, List.pairwise_cons.mpr ⟨hgt, hks⟩, fun k => ⟨fun h => ?_, fun ⟨r, hr, hrk⟩ => ?_⟩, ?_⟩
      · rcases List.mem_cons.mp h with rfl | h
        · exact ⟨x, List.mem_cons_self .., rfl⟩
        · obtain ⟨r, hr, hrk⟩ := (hmem k).mp h
          exact ⟨r, List.mem_cons_of_mem _ hr, hrk⟩
      · rcases List.mem_cons.mp hr with rfl | hr
        · exact hrk ▸ List.mem_cons_self ..
        · exact List.mem_cons_of_mem _ ((hmem k).mpr ⟨r, hr, hrk⟩)
      · rw [List.map_cons, hrest, ← hg, hsame, hnone, groupKeys]
        split
        next y g gs heq =>
          rw [heq]
          refine if_neg fun hxy => hin ((hmem _).mpr ?_)
          rw [hg] at heq
          cases ks with
          | nil => exact absurd heq nofun
          | cons k ks =>
            have hy : y ∈ t.filter (fun r => decide (r.key = k)) := by
              rw [show t.filter _ = y :: g from (List.cons.inj heq).1]
              exact List.mem_cons_self ..
            exact ⟨y, (List.mem_filter.mp hy).1, hxy.symm⟩
        next => rfl

/-! ### Merges (R186) -/

/-- The records of a job's inputs as they enter a merge. -/
def mergeRecs (code : Nat) (ls : List (List (List Byte))) : List MergeRec :=
  (List.range ls.length).flatMap (fun i => (ls.getD i []).map (fun b => ⟨recKey code b, i, b⟩))

theorem map_range_getD {α : Type} (d : α) (l : List α) : (List.range l.length).map (l.getD · d) = l := by
  refine List.ext_getElem (by rw [List.length_map, List.length_range]) fun i h h' => ?_
  rw [List.getElem_map, List.getElem_range, List.getD_eq_getElem _ _ h']

theorem bytes_mergeRecs (code : Nat) (ls : List (List (List Byte))) : (mergeRecs code ls).map MergeRec.bytes = ls.flatten := by
  have hf : ∀ i, ((ls.getD i []).map (fun b => (⟨recKey code b, i, b⟩ : MergeRec))).map MergeRec.bytes = ls.getD i [] := fun i => by
    rw [List.map_map]
    exact List.map_id _
  rw [mergeRecs, List.map_flatMap, List.flatMap_congr fun i _ => hf i, List.flatMap_def, map_range_getD]

theorem key_mergeRecs {code : Nat} {ls : List (List (List Byte))} {r : MergeRec} (h : r ∈ mergeRecs code ls) : r.key = recKey code r.bytes := by
  obtain ⟨i, _, hr⟩ := List.mem_flatMap.mp h
  obtain ⟨b, _, rfl⟩ := List.mem_map.mp hr
  rfl

theorem mergeOrder_sound (code : Nat) (ls : List (List (List Byte))) :
    mergeOrder code (ls.map (fun l => ⟨l, none⟩)) = stableSort (fun a b => decide (a.key ≤ b.key)) (mergeRecs code ls) := by
  have hg : ∀ i, ((ls.map (fun l => (⟨l, none⟩ : JobInput))).getD i ⟨[], none⟩).recs = ls.getD i [] := fun i => by
    rw [List.getD_eq_getElem?_getD, List.getD_eq_getElem?_getD, List.getElem?_map]
    cases ls[i]? <;> rfl
  rw [mergeOrder, List.length_map, mergeRecs]
  congr 1
  exact List.flatMap_congr fun i _ => by rw [hg]

/-- The groups that sound inputs in order are merged into: one for each key, rising, with the records that have it in merge order. -/
theorem mergeGroups (code : Nat) (ls : List (List (List Byte))) :
    let ms := mergeOrder code (ls.map (fun l => ⟨l, none⟩))
    (ms.map MergeRec.bytes).Perm ls.flatten ∧
    ∃ ks : List Nat, ks.Pairwise (fun x y => x < y) ∧ (∀ k, k ∈ ks ↔ ∃ b ∈ ls.flatten, recKey code b = k) ∧
      (groupKeys ms).map (fun g => g.map MergeRec.bytes) = ks.map (fun k => ls.flatten.filter (fun b => decide (recKey code b = k))) := by
  intro ms
  have hms : ms = _ := mergeOrder_sound code ls
  obtain ⟨hperm, hpair, hfilter⟩ := stableSort_spec MergeRec.key (mergeRecs code ls)
  rw [← hms] at hperm hpair hfilter
  have hbytes := bytes_mergeRecs code ls
  obtain ⟨ks, hks, hmem, hg⟩ := groupKeys_sorted hpair
  refine ⟨hbytes ▸ hperm.map _, ks, hks, fun k => (hmem k).trans ⟨?_, ?_⟩, ?_⟩
  · rintro ⟨r, hr, rfl⟩
    have hr' := hperm.mem_iff.mp hr
    exact ⟨r.bytes, hbytes ▸ List.mem_map_of_mem hr', (key_mergeRecs hr').symm⟩
  · rintro ⟨b, hb, rfl⟩
    rw [← hbytes] at hb
    obtain ⟨r, hr, rfl⟩ := List.mem_map.mp hb
    exact ⟨r, hperm.mem_iff.mpr hr, key_mergeRecs hr⟩
  · rw [hg, List.map_map]
    refine List.map_congr_left fun k _ => ?_
    rw [Function.comp_apply, hfilter k, ← hbytes, List.filter_map]
    congr 1
    exact List.filter_congr fun r hr => by rw [key_mergeRecs hr]; rfl

theorem runMerge_sound (hc : combCode j.comb < 7)
    (hin : ∀ w ∈ j.inputs, s.soundRun o.ctx w ∧ keyCode (s.runAt o.ctx (handleEntry w)).layout = s.jobCode o j ∧
      InOrder (s.jobCode o j) (s.recsOf o.ctx w)) :
    let ms := mergeOrder (s.jobCode o j) ((j.inputs.map (s.recsOf o.ctx)).map (fun l => ⟨l, none⟩))
    let groups := (groupKeys ms).map (fun g => g.map MergeRec.bytes)
    s.runMerge o j = (s, ⟨(groups.flatMap (combine j.comb)).map (fun b => (0, b)), mergeSteps (combCode j.comb == 0) 0 groups,
      ms.map MergeRec.bytes, 0, none, 0⟩) := by
  have hins : j.inputs.map (s.loadInput o.ctx true) = (j.inputs.map (s.recsOf o.ctx)).map (fun l => ⟨l, none⟩) := by
    rw [List.map_map]
    refine List.map_congr_left fun w hw => ?_
    obtain ⟨hs, hk, ho⟩ := hin w hw
    exact loadInput_ordered hs hk ho
  have hstops : ∀ ls : List (List (List Byte)), (List.range (ls.map (fun l => (⟨l, none⟩ : JobInput))).length).filterMap (fun i =>
      (((ls.map (fun l => (⟨l, none⟩ : JobInput))).getD i ⟨[], none⟩).stop.map (fun x => (i, x)))) = [] := fun ls => by
    rw [List.filterMap_eq_nil_iff]
    intro i hi
    rw [List.length_map] at hi
    rw [List.getD_eq_getElem _ _ (by rw [List.length_map]; exact List.mem_range.mp hi), List.getElem_map]
    rfl
  unfold State.runMerge
  dsimp only
  rw [hins, hstops, if_neg (Nat.ne_of_lt hc)]
  rfl

/-! ### Joins (R192) -/

/-- What a join emits for a probe record (R192). -/
def joinOut (j : JobDesc) (code : Nat) (build : List (List Byte)) (p : List Byte) : List (List Byte) :=
  let carry := (p.drop j.a).take j.b
  let group := build.filter (fun b => decide (recKey code b = recKey code p))
  if group.isEmpty = true then [carry ++ List.replicate (4 * j.e) 0 ++ natLe 4 1]
  else group.map (fun b => carry ++ (b.drop j.c).take (4 * j.e) ++ natLe 4 0)

/-- The build records up to a key, in a build that is in order: its first ones. -/
theorem filter_prefix {build : List (List Byte)} (hb : InOrder code build) (k : Nat) :
    build.filter (fun b => decide (recKey code b ≤ k)) <+: build := by
  induction build with
  | nil => exact List.nil_prefix
  | cons x t ih =>
    obtain ⟨hx, ht⟩ := List.pairwise_cons.mp hb
    by_cases hk : recKey code x ≤ k
    · rw [List.filter_cons_of_pos (p := fun b => decide (recKey code b ≤ k)) (decide_eq_true hk)]
      exact (List.cons_prefix_cons).mpr ⟨rfl, ih ht⟩
    · rw [List.filter_eq_nil_iff.mpr]
      · exact List.nil_prefix
      · intro b hm hd
        have := of_decide_eq_true hd
        rcases List.mem_cons.mp hm with rfl | hm
        · exact hk this
        · exact hk (Nat.le_trans (hx b hm) this)

theorem group_upTo (build : List (List Byte)) (code k : Nat) :
    (build.filter (fun b => decide (recKey code b ≤ k))).filter (fun b => recKey code b == k) =
      build.filter (fun b => decide (recKey code b = k)) := by
  rw [List.filter_filter]
  refine List.filter_congr fun b _ => ?_
  by_cases h : recKey code b = k
  · rw [h, decide_eq_true (Nat.le_refl k), decide_eq_true rfl, beq_self_eq_true]
    rfl
  · rw [decide_eq_false h, beq_eq_false_iff_ne.mpr h, Bool.false_and]

/-- What a join's work on probe records in order leaves, when its build does not stop it. -/
theorem joinLoop_sound {build : List (List Byte)} (hb : InOrder code build) (probes : List (List Byte)) : ∀ x : Joined, InOrder code probes →
    (∀ p ∈ probes, x.built ≤ (build.filter (fun b => decide (recKey code b ≤ recKey code p))).length) →
    let r := joinLoop j code build false x probes
    r.broken = x.broken ∧ r.emits = x.emits ++ probes.flatMap (joinOut j code build) ∧
      r.misses = x.misses + (probes.filter (fun p => (build.filter (fun b => decide (recKey code b = recKey code p))).isEmpty)).length ∧
      (r.reads ++ build.drop r.built).Perm (x.reads ++ probes ++ build.drop x.built) := by
  induction probes with
  | nil =>
    intro x _ _
    refine ⟨rfl, ?_, rfl, ?_⟩
    · exact (List.append_nil _).symm
    · rw [List.append_nil]
      rfl
  | cons p t ih =>
    intro x hp hbuilt
    obtain ⟨hpt, ht⟩ := List.pairwise_cons.mp hp
    have hpre := filter_prefix hb (recKey code p)
    have hle := hbuilt p (List.mem_cons_self ..)
    generalize hup : build.filter (fun b => decide (recKey code b ≤ recKey code p)) = upTo at hpre hle
    have hgroup := group_upTo build code (recKey code p)
    rw [hup] at hgroup
    rw [joinLoop]
    dsimp only
    rw [hup, Bool.false_and, if_neg Bool.false_ne_true, hgroup]
    have hnext : ∀ q ∈ t, upTo.length ≤ (build.filter (fun b => decide (recKey code b ≤ recKey code q))).length := fun q hq => by
      rw [← hup]
      refine (List.monotone_filter_right _ fun b hd => ?_).length_le
      exact decide_eq_true (Nat.le_trans (of_decide_eq_true hd) (hpt q hq))
    obtain ⟨h1, h2, h3, h4⟩ := ih { x with
      emits := x.emits ++ joinOut j code build p
      steps := x.steps ++ (joinOut j code build p).map (fun _ => ((x.reads ++ p :: upTo.drop x.built).length, x.misses +
        (if (build.filter (fun b => decide (recKey code b = recKey code p))).isEmpty = true then 1 else 0)))
      reads := x.reads ++ p :: upTo.drop x.built
      built := upTo.length
      misses := x.misses + (if (build.filter (fun b => decide (recKey code b = recKey code p))).isEmpty = true then 1 else 0) } ht hnext
    refine ⟨h1, h2.trans ?_, h3.trans ?_, h4.trans ?_⟩
    · rw [List.flatMap_cons, List.append_assoc]
    · dsimp only
      by_cases he : (build.filter (fun b => decide (recKey code b = recKey code p))).isEmpty = true
      · rw [if_pos he, List.filter_cons_of_pos (p := fun p => (build.filter (fun b => decide (recKey code b = recKey code p))).isEmpty) he,
          List.length_cons, Nat.add_assoc, Nat.add_comm 1]
      · rw [if_neg he, List.filter_cons_of_neg (p := fun p => (build.filter (fun b => decide (recKey code b = recKey code p))).isEmpty) he,
          Nat.add_zero]
    · have hdrop : upTo.drop x.built ++ build.drop upTo.length = build.drop x.built := by
        obtain ⟨rest, hrest⟩ := hpre
        rw [← hrest, List.drop_left, List.drop_append_of_le_length hle]
      dsimp only
      rw [← hdrop, List.append_assoc, List.append_assoc, List.append_assoc]
      refine List.Perm.append_left _ ?_
      rw [List.cons_append, List.cons_append]
      refine List.Perm.cons _ ?_
      rw [← List.append_assoc, ← List.append_assoc]
      exact List.Perm.append_right _ List.perm_append_comm

theorem runJob_join (hk : j.kind = .join) (h0 : s.soundRun o.ctx (j.inputs.headD 0)) (h1 : s.soundRun o.ctx (j.inputs.getD 1 0))
    (hc : keyCode (s.runAt o.ctx (handleEntry (j.inputs.getD 1 0))).layout = s.jobCode o j)
    (ho0 : InOrder (s.jobCode o j) (s.recsOf o.ctx (j.inputs.headD 0))) (ho1 : InOrder (s.jobCode o j) (s.recsOf o.ctx (j.inputs.getD 1 0))) :
    let probe := s.recsOf o.ctx (j.inputs.headD 0)
    let build := s.recsOf o.ctx (j.inputs.getD 1 0)
    ∃ r, s.runJob o j = (s, r) ∧ r.stop = none ∧ r.reads.Perm (probe ++ build) ∧ (∀ p ∈ r.emits, p.1 = 0) ∧
      r.miss = (probe.filter (fun p => (build.filter (fun b => decide (recKey (s.jobCode o j) b = recKey (s.jobCode o j) p))).isEmpty)).length ∧
      r.emits.map Prod.snd = probe.flatMap (joinOut j (s.jobCode o j) build) := by
  intro probe build
  obtain ⟨hb, he, hm, hr⟩ := joinLoop_sound (j := j) ho1 probe ⟨[], [], [], 0, 0, false⟩ ho0 fun _ _ => Nat.zero_le _
  have hrun : s.runJob o j = (s, s.runJoin o j) := by
    unfold State.runJob
    rw [hk]
  have hjoin : s.runJoin o j = (let r := joinLoop j (s.jobCode o j) build false ⟨[], [], [], 0, 0, false⟩ probe
      ⟨r.emits.map (fun b => (0, b)), r.steps, r.reads ++ build.drop r.built, r.misses, if r.broken then none else none, 0⟩) := by
    unfold State.runJoin
    dsimp only
    rw [loadInput_ordered h0 rfl ho0, loadInput_ordered h1 hc ho1]
    rfl
  dsimp only at hb he hm hr hjoin
  rw [List.nil_append] at he
  rw [Nat.zero_add] at hm
  rw [List.nil_append, List.drop_zero] at hr
  rw [hjoin] at hrun
  refine ⟨_, hrun, ite_self _, hr, fun p hp => ?_, hm, ?_⟩
  · obtain ⟨b, _, rfl⟩ := List.mem_map.mp hp
    rfl
  · dsimp only
    rw [List.map_map, ← he]
    exact List.map_id _

end

end Sys2Proof.Machine
end

section
/-! SUPPORT. a job issued, started and ended -/

namespace Sys2Proof.Machine

/-! ## A job issued, started and ended (R181–R184) -/

section
variable {s u : State} {o : Op} {j : JobDesc} {k : JobKind} {p : Word} {head bs table : List Byte} {a : Reg} {h : HReg} {q : Nat}

/-- A job's descriptor from its bytes (R181). -/
def jobDesc (s : State) (k : JobKind) (p : Word) (head bs : List Byte) : JobDesc :=
  ⟨k, p, descField head 4 4, descWord head 32, descWord head 40, descWord head 48, descField head 56 2, descField head 58 2,
    descField head 60 2, descField head 62 1, wordsAt bs 64 (descField head 63 1), [descWord head 32], [], s.frm⟩

section
variable (hd : Descriptor s p 64 head) (hok : jobFieldsOk k (descField head 4 4) (descField head 63 1) (descField head 56 2) (descField head 58 2)
  (descField head 60 2) (descField head 62 1) (descWord head 40) (descWord head 48) = true)
  (hb : Descriptor s p (64 + 8 * descField head 63 1) bs)
include hd hok hb

theorem readJob_ok (hk : k ≠ .part) : readJob k p s = .ok (jobDesc s k p head bs) s := by
  unfold readJob
  simp only [run_bind, readDesc_ok hd, hok, if_true, run_pure, readDesc_ok hb, run_get, if_neg hk]
  rfl

theorem readJob_part (hk : k = .part) (ht : Descriptor s (descWord head 32) (16 * descField head 56 2 - 8) table) :
    readJob k p s = .ok { jobDesc s k p head bs with
      dests := wordsAt table 0 (descField head 56 2)
      splits := wordsAt table (8 * descField head 56 2) (descField head 56 2 - 1) } s := by
  unfold readJob
  simp only [run_bind, readDesc_ok hd, hok, if_true, run_pure, readDesc_ok hb, run_get, if_pos hk, readDesc_ok ht]
  rfl

end

section
variable (hh : ByHart s) (hn : Named s [a]) (hq : Handle s h q) (hj : readJob k (s.rs a) s = .ok j s)
  (hc : checkRuns (j.inputs ++ j.dests) s = .ok () s) (h6 : ∀ w ∈ j.inputs ++ j.dests, ptrSpace w ≠ 6) (hf : jobFault s j = none)
  (hu : checkUser j s = .ok () s)
include hh hn hq hj hc h6 hf hu

theorem job_next (hs : s.jobsOf s.group.ctx (s.me.core / 64) < s.jobShare s.group.ctx (s.me.core / 64)) :
    job k a h s = .next (s.addOp q .copy (.job j)).retire := by
  refine issue_ok (f := .seq) hh _ ?_
  have hfind : (j.inputs ++ j.dests).find? (fun w => decide (ptrSpace w = 6)) = none :=
    List.find?_eq_none.mpr fun w hw hd => h6 w hw (of_decide_eq_true hd)
  simp only [run_bind, named_ok hn, seqOf_ok hh hq, run_get, hj, hc, hfind, run_pure, hf, hu, if_neg (Nat.not_le.mpr hs), enqueue, run_act]

theorem job_waits (hs : s.jobShare s.group.ctx (s.me.core / 64) ≤ s.jobsOf s.group.ctx (s.me.core / 64)) :
    job k a h s = .next (s.setMe { s.me with state := .wait }) := by
  rw [← enterWait_hart hh]
  refine issue_hart (r := .error .wait s) hh _ ?_
  have hfind : (j.inputs ++ j.dests).find? (fun w => decide (ptrSpace w = 6)) = none :=
    List.find?_eq_none.mpr fun w hw hd => h6 w hw (of_decide_eq_true hd)
  simp only [run_bind, named_ok hn, seqOf_ok hh hq, run_get, hj, hc, hfind, hf, hu, if_pos hs, run_throw]

end

/-- The operation of a job that has computed what it emits. -/
def jobOp (s : State) (o : Op) (j : JobDesc) (r : JobResult) : Op :=
  { o with
    phase := .working
    taken := emission j.dests r.emits
    counts := (BitVec.ofNat 64 r.reads.length, BitVec.ofNat 64 r.emits.length, BitVec.ofNat 64 r.miss)
    buf := emitBuf (r.stop.getD ⟨0, 0, 0⟩) r.flags r.steps (s.routesOf o j r.reads)
    kind := .job j }

theorem mergeJobStart_next {r : JobResult} (ho : s.opAt o.id = some o) (hk : o.kind = .job j) (hp : o.phase = .queued)
    (hd : ∀ p ∈ o.preds, s.alive p = false) (hc : combCode j.comb ≠ 7 ∨ j.kind ≠ .merge) (hr : s.runJob o j = (u, r)) :
    exec (.mergeJobStart o.id) s = .next ((u.notePoison o.ctx r.stop).emitOn (jobOp s o j r) j.dests) := by
  show execMergeJobStart o.id s = _
  refine (opEvent_at ho _).trans ?_
  have hcond : (s.mayStart o && (combCode j.comb != 7 || j.kind != .merge || s.lanesFree o.issuer.owner)) = true := by
    rw [mayStart_ok hp hd, Bool.true_and, Bool.or_eq_true, Bool.or_eq_true, bne_iff_ne, bne_iff_ne]
    exact .inl hc
  simp only [hk, hcond, if_true, hr]
  rfl

/-- A job without a USER combine computes what it emits from a state that it leaves as it is. -/
theorem runJob_state (hc : combCode j.comb ≠ 7 ∨ j.kind ≠ .merge) : (s.runJob o j).1 = s := by
  unfold State.runJob
  dsimp only
  split
  next hk =>
    have h7 : combCode j.comb ≠ 7 := hc.resolve_right fun h => h hk
    unfold State.runMerge
    dsimp only
    rw [if_neg h7]
  all_goals rfl

/-- A job with nothing to emit leaves its runs and memory as they are. -/
theorem emitOn_nil (ht : o.taken = []) (dests : List Word) :
    s.emitOn o dests = (s.countRouting o o.counts.2.1.toNat o.counts.1.toNat).setOp (o.emitted o.maps) := by
  unfold State.emitOn
  dsimp only
  rw [ht]
  rfl

theorem mergeJobComplete_waits (ho : s.opAt o.id = some o) (hk : o.kind = .job j)
    (h : s.jobRuns o j = false ∨ (o.phase = .working ∧ bitOf (BitVec.ofNat 64 j.flags) 0 = true ∧ s.allComplete o.ctx j.dests = false)) :
    exec (.mergeJobComplete o.id) s = .next s := by
  show execMergeJobComplete o.id s = _
  refine (opEvent_at ho _).trans ?_
  simp only [hk]
  rw [if_neg]
  · rfl
  · rintro ⟨_, hr, hs⟩
    rcases h with h | ⟨_, hb, ha⟩
    · rw [h] at hr
      exact Bool.false_ne_true hr
    · rcases hs with hs | hs
      · rw [hb] at hs
        exact Bool.false_ne_true hs.symm
      · rw [ha] at hs
        exact Bool.false_ne_true hs

theorem mergeJobComplete_next (ho : s.opAt o.id = some o) (hk : o.kind = .job j) (hp : o.phase = .working) (hr : s.jobRuns o j = true)
    (hb : bitOf (BitVec.ofNat 64 j.flags) 0 = false) : exec (.mergeJobComplete o.id) s =
      .next ((j.dests.foldl (State.publishDest false o.ctx) ((s.jobFields o j 0).jobFlags o)).endOp o) := by
  show execMergeJobComplete o.id s = _
  refine (opEvent_at ho _).trans ?_
  simp only [hk]
  rw [if_pos ⟨hp, hr, .inl hb⟩, hb]
  rfl

theorem mergeJobStop_next {c : Cause} {v : Word} {n : Nat} (ho : s.opAt o.id = some o) (hk : o.kind = .job j) (hp : o.phase = .stopped c v n)
    (hr : s.jobRuns o j = true) : exec (.mergeJobStop o.id) s =
      .next ((((s.jobFields o j n).jobFlags o).endOp o).reportOp o c v false) := by
  show execMergeJobStop o.id s = _
  refine (opEvent_at ho _).trans ?_
  simp only [hk, hp, hr, if_true]
  rfl

theorem opAt_congr {t : State} {id : Nat} (h : t.ops = s.ops) : t.opAt id = s.opAt id := by
  unfold State.opAt
  rw [h]

theorem len_poisonLine (s : State) (c e l x : Nat) : ((s.poisonLine c e l).runAt c x).len = (s.runAt c x).len := by
  unfold State.poisonLine
  dsimp only
  split
  · rfl
  · by_cases hx : x = e
    · rw [hx, runAt_setRunAt]
    · rw [runAt_setRunAt_ne s _ fun h => hx (Prod.mk.inj h).2]

theorem len_notePoison (s : State) (c : Nat) (stop : Option JobStop) (x : Nat) :
    ((s.notePoison c stop).runAt c x).len = (s.runAt c x).len := by
  unfold State.notePoison
  dsimp only
  split
  · split
    · split
      · exact len_poisonLine ..
      · rfl
    · rfl
  · rfl

/-- The entry of a job's destination. -/
def JobDesc.entry (j : JobDesc) (k : Nat) : Nat := handleEntry (j.dests.getD k 0)

theorem entry_inj (hn : (j.dests.map handleEntry).Nodup) {i k : Nat} (hi : i < j.dests.length) (hk : k < j.dests.length)
    (h : j.entry i = j.entry k) : i = k := by
  have hget : ∀ n (hn : n < j.dests.length), j.entry n = (j.dests.map handleEntry)[n]'(by rw [List.length_map]; exact hn) := fun n hn => by
    rw [JobDesc.entry, List.getD_eq_getElem _ _ hn, List.getElem_map]
  rw [hget i hi, hget k hk] at h
  exact (List.Nodup.getElem_inj_iff hn).mp h

/-- A job that nothing precedes emits its records to the destinations that take them (R155, R183). -/
theorem jobStart_emits {r : JobResult} (hcan : Canonical s) (ho : s.opAt o.id = some o) (hk : o.kind = .job j) (hp : o.phase = .queued)
    (hd : ∀ p ∈ o.preds, s.alive p = false) (hc : combCode j.comb ≠ 7 ∨ j.kind ≠ .merge) (hr : s.runJob o j = (u, r)) (hs : r.stop = none)
    (hn : (j.dests.map handleEntry).Nodup)
    (hem : ∀ p ∈ r.emits, p.1 < j.dests.length ∧ p.2.length = (s.runAt o.ctx (j.entry p.1)).size)
    (ht : ∀ k < j.dests.length, Takes s o (j.entry k) ((r.emits.filter (fun p => p.1 = k)).map Prod.snd).length) :
    ∃ t p, exec (.mergeJobStart o.id) s = .next t ∧ t.opAt o.id = some p ∧ p.phase = .working ∧ p.kind = o.kind ∧
      p.counts = (BitVec.ofNat 64 r.reads.length, BitVec.ofNat 64 r.emits.length, BitVec.ofNat 64 r.miss) ∧
      ∀ k < j.dests.length, Appended s t o.ctx (j.entry k) ((r.emits.filter (fun p => p.1 = k)).map Prod.snd) ∧
        (t.runAt o.ctx (j.entry k)).pub = (s.runAt o.ctx (j.entry k)).pub := by
  have hu : u = s := by
    have := runJob_state (s := s) (o := o) hc
    rwa [hr] at this
  subst hu
  have hmine : ∀ k < j.dests.length, mineOf (j.entry k) (r.emits.map fun p => (j.entry p.1, p.2)) =
      (r.emits.filter (fun p => p.1 = k)).map Prod.snd := fun k hk => by
    rw [mineOf, List.filter_map, List.map_map]
    refine congrArg (List.map Prod.snd) (List.filter_congr fun p hp => ?_)
    exact decide_eq_decide.mpr ⟨entry_inj hn (hem p hp).1 hk, fun h => congrArg j.entry h⟩
  have htaken : (jobOp u o j r).taken = toTake (r.emits.map fun p => (j.entry p.1, p.2)) := by
    rw [toTake, List.map_map]
    rfl
  obtain ⟨v, m, hv, heq⟩ := emitOn_all (s := u) (o := jobOp u o j r) hcan htaken
    (fun q hq => by
      obtain ⟨p, hp, rfl⟩ := List.mem_map.mp hq
      rw [hmine p.1 (hem p hp).1]
      exact ht p.1 (hem p hp).1)
    (fun q hq => by
      obtain ⟨p, hp, rfl⟩ := List.mem_map.mp hq
      exact ⟨handleEntry_lt _, (hem p hp).2⟩) j.dests
  have hgo := mergeJobStart_next ho hk hp hd hc hr
  rw [hs] at hgo
  obtain ⟨y, z, hvu⟩ := hv.rest
  obtain ⟨w, hw⟩ := countRouting_rest (s := v) (o := jobOp u o j r) (jobOp u o j r).counts.2.1.toNat (jobOp u o j r).counts.1.toNat
  have hrun : ∀ e, (v.countRouting (jobOp u o j r) (jobOp u o j r).counts.2.1.toNat (jobOp u o j r).counts.1.toNat).runAt o.ctx e =
      v.runAt o.ctx e := fun e => runAt_countRouting ..
  rw [hw] at heq hrun
  have hat : State.opAt { v with ctxs := w } o.id = some o := (opAt_congr (by rw [hvu])).trans ho
  refine ⟨State.setOp { v with ctxs := w } ((jobOp u o j r).emitted m), (jobOp u o j r).emitted m, hgo.trans (congrArg _ heq), opAt_setOp hat, ?_,
    hk.symm, rfl, fun k hk => ?_⟩
  · rw [Op.emitted, jobOp, hs]
    rfl
  · obtain ⟨q, d, hq⟩ := hv.run (j.entry k)
    have hhost := (ht k hk).2.2.1
    have happ := hv.appended (e := j.entry k) hhost fun x hx hxe => by
      obtain ⟨p, hp, rfl⟩ := List.mem_map.mp hx
      rw [← hxe]
      exact (hem p hp).2
    rw [hmine k hk] at happ
    have hfinal : (State.setOp { v with ctxs := w } ((jobOp u o j r).emitted m)).runAt o.ctx (j.entry k) = v.runAt o.ctx (j.entry k) := hrun _
    refine ⟨appended_congr happ ⟨_, _, hfinal⟩ (by rw [show (jobOp u o j r).ctx = o.ctx from rfl] at hq; rw [hq]; exact hhost) fun _ _ => rfl, ?_⟩
    rw [hfinal]
    exact (congrArg Run.pub hq).trans rfl

/-- A sort whose input has a failing line emits nothing and stops there (R184). -/
theorem sortStart_poisoned {l : Nat} (ho : s.opAt o.id = some o) (hk : o.kind = .job j) (hp : o.phase = .queued)
    (hd : ∀ p ∈ o.preds, s.alive p = false) (hc : combCode j.comb ≠ 7 ∨ j.kind ≠ .merge) (hs : j.kind = .sort)
    (hb : s.badIn o.ctx (handleEntry (j.inputs.headD 0)) 0 ((s.runAt o.ctx (handleEntry (j.inputs.headD 0))).pub *
      (s.runAt o.ctx (handleEntry (j.inputs.headD 0))).size) = some l) :
    ∃ t p, exec (.mergeJobStart o.id) s = .next t ∧ t.opAt o.id = some p ∧
      p.phase = .stopped .poison (BitVec.ofNat 64 (64 * l / (s.runAt o.ctx (handleEntry (j.inputs.headD 0))).size)) 2 ∧ t.mem = s.mem ∧
      ∀ x, (t.runAt o.ctx x).len = (s.runAt o.ctx x).len := by
  obtain ⟨r, hr, hem, hstop⟩ : ∃ r, s.runJob o j = (s, r) ∧ r.emits = [] ∧ r.stop = some ⟨2, BitVec.ofNat 64 (64 * l /
      (s.runAt o.ctx (handleEntry (j.inputs.headD 0))).size), j.inputs.headD 0⟩ := by
    unfold State.runJob State.loadInput
    rw [hs]
    dsimp only
    rw [hb]
    exact ⟨_, rfl, rfl, rfl⟩
  have hgo := mergeJobStart_next ho hk hp hd hc hr
  obtain ⟨x, hx⟩ := notePoison_rest s o.ctx r.stop
  have hlen : ∀ e, ((s.notePoison o.ctx r.stop).runAt o.ctx e).len = (s.runAt o.ctx e).len :=
    len_notePoison s o.ctx r.stop
  have ht : (jobOp s o j r).taken = [] := by
    show emission j.dests r.emits = []
    rw [hem]
    rfl
  rw [emitOn_nil ht] at hgo
  have hrun : ∀ e, ((s.notePoison o.ctx r.stop).countRouting (jobOp s o j r) (jobOp s o j r).counts.2.1.toNat
      (jobOp s o j r).counts.1.toNat).runAt o.ctx e = (s.notePoison o.ctx r.stop).runAt o.ctx e := fun e => runAt_countRouting ..
  obtain ⟨w, hw⟩ := countRouting_rest (s := s.notePoison o.ctx r.stop) (o := jobOp s o j r) (jobOp s o j r).counts.2.1.toNat
    (jobOp s o j r).counts.1.toNat
  rw [hw] at hgo hrun
  have hat : State.opAt { s.notePoison o.ctx r.stop with ctxs := w } o.id = some o := (opAt_congr (by rw [hx])).trans ho
  refine ⟨_, _, hgo, opAt_setOp (o := (jobOp s o j r).emitted _) hat, ?_, ?_, fun e => ?_⟩
  · rw [Op.emitted, jobOp, hstop]
    rfl
  · show (s.notePoison o.ctx r.stop).mem = s.mem
    rw [hx]
  · exact (congrArg Run.len (hrun e)).trans (hlen e)

end

end Sys2Proof.Machine
end

section
/-! SUPPORT. The statements settled: jobs of the merge engine -/

namespace Sys2Proof.Proofs
open Sys2Proof.Machine

/-- Settles O34: a job's issue, its start by what it computes, its end by its state, what each kind of job computes from sound inputs,
what a group emits, and the stable sort. -/
theorem mergeJobs : Obligations.MergeJobs := by
  unfold Obligations.MergeJobs
  refine ⟨⟨?_, ?_⟩, ?_, fun s o j => ?_, ?_, fun α key l => stableSort_spec key l⟩
  case refine_1 =>
    intro k p head bs s hd m a dest hok hb j
    refine ⟨fun hk => readJob_ok hd hok hb hk, fun table hk ht => (readJob_part hd hok hb hk ht).trans ?_⟩
    have hz : wordsAt table 0 a = (List.range a).map (fun i => descWord table (8 * i)) := by
      rw [wordsAt]
      exact List.map_congr_left fun i _ => by rw [Nat.zero_add]
    rw [hz]
    rfl
  case refine_2 =>
    intro a h q k j s hh hn hq hj hc h6 hf hu i queued share
    have hi : exec i s = job k a h s := by cases k <;> rfl
    rw [hi]
    exact ⟨Nat.le_add_right .., job_next hh hn hq hj hc h6 hf hu, job_waits hh hn hq hj hc h6 hf hu⟩
  case refine_3 =>
    intro s o j hcan ho hk
    refine ⟨fun hp hd hc => ⟨?_, ?_⟩, mergeJobComplete_waits ho hk, mergeJobComplete_next ho hk, fun c v n hp hr => mergeJobStop_next ho hk hp hr⟩
    · intro u r hr hs hnd entry mine hem ht
      exact jobStart_emits hcan ho hk hp hd hc hr hs hnd hem ht
    · intro l hs e r hb
      exact sortStart_poisoned ho hk hp hd hc hs hb
  case refine_4 =>
    intro run recs first code key sound inOrder emits
    refine ⟨fun hk hs => ⟨_, runJob_sort hk hs, rfl, rfl, ?_⟩, fun hk hs => ⟨_, runJob_part hk hs, rfl, rfl, fun k => ?_⟩,
      fun hk hs => ⟨_, runJob_tag hk hs, rfl, rfl, ?_⟩, fun hk hc hin => ?_, fun hk h0 ho0 h1 ho1 => ?_⟩
    · obtain ⟨hperm, hpair, hfilter⟩ := stableSort_spec key (recs first)
      have hmap : ∀ l : List (List Byte), (l.map fun b => ((0 : Nat), b)).map Prod.snd = l := fun l => by
        rw [List.map_map]
        exact List.map_id _
      refine ⟨fun p hp => ?_, ?_⟩
      · obtain ⟨b, _, rfl⟩ := List.mem_map.mp hp
        rfl
      · dsimp only
        rw [hmap]
        exact ⟨hperm, hpair, hfilter⟩
    · dsimp only
      rw [List.filter_map, List.map_map]
      exact List.map_id _
    · refine ⟨fun p hp => ?_, ?_, fun n hn => ?_⟩
      · obtain ⟨b, _, rfl⟩ := List.mem_map.mp hp
        rfl
      · rw [List.length_map, List.length_range]
        rfl
      · dsimp only at hn ⊢
        rw [List.length_map, List.length_range] at hn
        rw [List.map_map, List.getD_eq_getElem _ _ (by rw [List.length_map, List.length_range]; exact hn), List.getElem_map,
          List.getElem_range]
        rfl
    · obtain ⟨hperm, ks, hks, hmem, hgroups⟩ := mergeGroups code (j.inputs.map recs)
      have hrun : s.runJob o j = s.runMerge o j := by
        unfold State.runJob
        rw [hk]
      refine ⟨_, hrun.trans (runMerge_sound hc fun w hw => ⟨(hin w hw).1, (hin w hw).2⟩), rfl, ?_, fun p hp => ?_, ks, hks, ?_, ?_⟩
      · rw [List.flatMap_def]
        exact hperm
      · obtain ⟨b, _, rfl⟩ := List.mem_map.mp hp
        rfl
      · rw [List.flatMap_def]
        exact hmem
      · dsimp only
        rw [List.map_map]
        refine (List.map_id _).trans ?_
        refine (congrArg (List.flatMap (combine j.comb)) hgroups).trans ?_
        rw [List.flatMap_map, List.flatMap_def (l := j.inputs)]
    · exact runJob_join hk h0 h1 ho1.1 ho0.2 ho1.2
  case refine_5 =>
    intro w x g t n off value vals emit order
    exact ⟨combine_nil w, combine_all, combine_first, combine_last, combine_count, fun ht _ => combine_integers ht,
      fun ht => combine_floats ht⟩
end Sys2Proof.Proofs
end

section
/-! SUPPORT. the magnitudes of codes -/

namespace Sys2Proof.Machine

/-! ## The magnitudes of a format's codes (R46) -/

section
variable {f : Fmt} {c sig : Nat} {q : Int}

/-- The exponent of the least bit of a format's subnormals. -/
def Fmt.low (f : Fmt) : Int := 1 - (f.bias : Int) - (f.frac : Int)

/-- The significand of a magnitude code, its exponents unbounded above. -/
def Fmt.sigOf (f : Fmt) (c : Nat) : Nat := if c < 2 ^ f.frac then c else 2 ^ f.frac + c % 2 ^ f.frac

/-- The weight's exponent of a magnitude code's last bit. -/
def Fmt.expOf (f : Fmt) (c : Nat) : Int := if c < 2 ^ f.frac then f.low else f.low + (c / 2 ^ f.frac : Nat) - 1

/-- The magnitude of a magnitude code. -/
def Fmt.mag (f : Fmt) (c : Nat) : ℚ := f.sigOf c * (2 : ℚ) ^ f.expOf c

theorem two_zpow_pos (n : Int) : (0 : ℚ) < 2 ^ n := zpow_pos (by norm_num) n

theorem two_zpow_succ (n : Int) : (2 : ℚ) ^ (n + 1) = 2 * 2 ^ n := by
  rw [zpow_add_one₀ (by norm_num), mul_comm]

theorem two_zpow_add_nat (n : Int) (k : Nat) : (2 : ℚ) ^ (n + k) = 2 ^ k * 2 ^ n := by
  rw [zpow_add₀ (by norm_num), zpow_natCast, mul_comm]

theorem div_of_lt {a r F : Nat} (h : r < F) : (a * F + r) / F = a := by
  rw [Nat.add_comm, Nat.add_mul_div_right _ _ (Nat.zero_lt_of_lt h), Nat.div_eq_of_lt h, Nat.zero_add]

theorem mod_of_lt {a r F : Nat} (h : r < F) : (a * F + r) % F = r := by
  rw [Nat.add_comm, Nat.add_mul_mod_self_right, Nat.mod_eq_of_lt h]

theorem mag_zero (f : Fmt) : f.mag 0 = 0 := by
  rw [Fmt.mag, Fmt.sigOf, if_pos (Nat.two_pow_pos _), Nat.cast_zero, zero_mul]

/-- The next magnitude code is one last bit above. -/
theorem mag_succ (f : Fmt) (c : Nat) : f.mag (c + 1) = f.mag c + 2 ^ f.expOf c := by
  have hF := Nat.two_pow_pos f.frac
  unfold Fmt.mag Fmt.sigOf Fmt.expOf
  generalize 2 ^ f.frac = F at *
  by_cases h1 : c + 1 < F
  · rw [if_pos h1, if_pos h1, if_pos (by omega), if_pos (by omega), Nat.cast_add, Nat.cast_one, add_mul, one_mul]
  · rw [if_neg h1, if_neg h1]
    by_cases h2 : c < F
    · -- the last subnormal: the next code is the first normal, at the same weight
      have hc : c + 1 = F := by omega
      rw [if_pos h2, if_pos h2, hc, Nat.mod_self, Nat.div_self hF, Nat.add_zero, Nat.cast_one, add_sub_cancel_right, ← hc, Nat.cast_add,
        Nat.cast_one, add_mul, one_mul]
    · rw [if_neg h2, if_neg h2]
      obtain ⟨a, r, rfl, hr⟩ : ∃ a r, c = a * F + r ∧ r < F := ⟨c / F, c % F, (Nat.div_add_mod' c F).symm, Nat.mod_lt c hF⟩
      rw [div_of_lt hr, mod_of_lt hr]
      by_cases h3 : r + 1 < F
      · rw [Nat.add_assoc, div_of_lt h3, mod_of_lt h3, ← Nat.add_assoc, Nat.cast_add _ 1, Nat.cast_one, add_mul, one_mul]
      · -- the last code of an exponent: the next one has twice the weight
        have hs : r = F - 1 := by omega
        have hn : a * F + r + 1 = (a + 1) * F + 0 := by rw [Nat.add_mul]; omega
        have he : f.low + ((a + 1 : Nat) : Int) - 1 = (f.low + (a : Int) - 1) + 1 := by push_cast; ring
        rw [hn, div_of_lt hF, mod_of_lt hF, hs, he, two_zpow_succ, Nat.add_zero]
        have hcast : ((F + (F - 1) : Nat) : ℚ) = 2 * F - 1 := by
          rw [← Nat.add_sub_assoc (by omega), Nat.cast_sub (by omega)]
          push_cast
          ring
        rw [hcast]
        ring

theorem mag_strictMono (f : Fmt) : StrictMono f.mag := strictMono_nat_of_lt_succ fun c => by
  rw [mag_succ]
  exact lt_add_of_pos_right _ (two_zpow_pos _)

theorem mag_nonneg (f : Fmt) (c : Nat) : 0 ≤ f.mag c := by
  rw [← mag_zero f]
  exact (mag_strictMono f).monotone (Nat.zero_le c)

/-- Where a significand may stand: below twice the hidden bit, and with it unless at the least weight. -/
structure Fits (f : Fmt) (sig : Nat) (q : Int) : Prop where
  low : f.low ≤ q
  lt : sig < 2 * 2 ^ f.frac
  normal : q = f.low ∨ 2 ^ f.frac ≤ sig

theorem pack_of_fits (h : Fits f sig q) :
    f.sigOf (f.pack sig q) = sig ∧ f.expOf (f.pack sig q) = q ∧ f.pack (sig + 1) q = f.pack sig q + 1 := by
  obtain ⟨hl, hlt, hn⟩ := h
  have hF := Nat.two_pow_pos f.frac
  have hF2 : 2 ^ (f.frac + 1) = 2 * 2 ^ f.frac := Nat.pow_succ'
  have hlow : (1 - (f.bias : Int) - (f.frac : Int)) = f.low := rfl
  unfold Fmt.pack Fmt.sigOf Fmt.expOf
  simp only [hlow, hF2]
  generalize 2 ^ f.frac = F at *
  obtain ⟨k, hk⟩ := Int.eq_ofNat_of_zero_le (sub_nonneg.mpr hl)
  rw [hk, Int.toNat_natCast]
  by_cases h1 : sig < F
  · have hq : q = f.low := hn.resolve_right (Nat.not_le.mpr h1)
    have hk0 : k = 0 := by omega
    rw [if_pos h1, if_pos h1, if_pos h1]
    refine ⟨rfl, hq.symm, ?_⟩
    by_cases h2 : sig + 1 < F
    · rw [if_pos h2]
    · rw [if_neg h2, if_neg (by omega), hk0]
      omega
  · have hdiv : ((k + 1) * F + (sig - F)) / F = k + 1 := by
      rw [Nat.add_comm, Nat.add_mul_div_right _ _ hF, Nat.div_eq_of_lt (by omega), Nat.zero_add]
    have hmod : ((k + 1) * F + (sig - F)) % F = sig - F := by
      rw [Nat.add_comm, Nat.add_mul_mod_self_right, Nat.mod_eq_of_lt (by omega)]
    have hge : F ≤ (k + 1) * F + (sig - F) := by nlinarith
    rw [if_neg h1, if_neg (Nat.not_le.mpr hlt), if_neg (Nat.not_lt.mpr hge), if_neg (Nat.not_lt.mpr hge), hdiv, hmod]
    refine ⟨by omega, ?_, ?_⟩
    · push_cast
      omega
    · rw [if_neg (by omega)]
      by_cases h2 : 2 * F ≤ sig + 1
      · have hs : sig + 1 = 2 * F := by omega
        rw [if_pos h2, hs, Nat.mul_div_cancel_left _ (by decide), Nat.sub_self, Nat.add_zero, Nat.add_mul, Nat.add_mul]
        omega
      · rw [if_neg h2]
        omega

theorem mag_pack (h : Fits f sig q) : f.mag (f.pack sig q) = sig * 2 ^ q := by
  obtain ⟨hs, he, _⟩ := pack_of_fits h
  rw [Fmt.mag, hs, he]

theorem mag_pack_succ (h : Fits f sig q) : f.mag (f.pack sig q + 1) = (sig + 1) * 2 ^ q := by
  obtain ⟨_, he, _⟩ := pack_of_fits h
  rw [mag_succ, mag_pack h, he]
  ring

/-- A code is odd as its significand is. -/
theorem pack_odd (hf : 1 ≤ f.frac) (h : Fits f sig q) : f.pack sig q % 2 = sig % 2 := by
  have h2 : 2 ∣ 2 ^ f.frac := dvd_pow_self 2 (by omega)
  obtain ⟨F, hF⟩ := h2
  have hF2 : 2 ^ (f.frac + 1) = 2 * 2 ^ f.frac := Nat.pow_succ'
  have hlt := h.lt
  unfold Fmt.pack
  dsimp only
  rw [hF2]
  generalize ((q - (1 - (f.bias : Int) - (f.frac : Int))).toNat + 1) = k
  rw [hF] at hlt ⊢
  split
  · rfl
  · rw [if_neg (by omega), show k * (2 * F) = 2 * (k * F) by ring]
    omega

end

end Sys2Proof.Machine
end

section
/-! SUPPORT. rounding at a weight -/

namespace Sys2Proof.Machine

/-! ## A magnitude rounded at a weight (R51–R53) -/

section
variable {X : ℚ} {m lo rem draw k : Nat} {e q : Int} {mode : RMode} {neg sticky : Bool}

/-- An exact magnitude as an integer at a weight, with what may lie below it. -/
structure Holds (X : ℚ) (m : Nat) (e : Int) (sticky : Bool) : Prop where
  le : m * (2 : ℚ) ^ e ≤ X
  lt : X < (m + 1) * (2 : ℚ) ^ e
  sticky : sticky = true ↔ X ≠ m * 2 ^ e

/-- The multiple of a weight at or below a magnitude. -/
structure FloorAt (X : ℚ) (lo : Nat) (q : Int) : Prop where
  le : lo * (2 : ℚ) ^ q ≤ X
  lt : X < (lo + 1) * (2 : ℚ) ^ q

/-- When a mode rounds a magnitude between two multiples of a weight to the upper one. -/
def UpWhen (mode : RMode) (neg : Bool) (X : ℚ) (lo : Nat) (q : Int) (draw : Nat) : Prop :=
  match mode with
  | .rne => (2 * lo + 1) * (2 : ℚ) ^ q < 2 * X ∨ ((2 * lo + 1) * (2 : ℚ) ^ q = 2 * X ∧ lo % 2 = 1)
  | .rz => False
  | .rd => neg = true ∧ X ≠ lo * 2 ^ q
  | .ru => neg = false ∧ X ≠ lo * 2 ^ q
  | .sr => draw < ⌊(X - lo * 2 ^ q) / 2 ^ q * 65536⌋₊

/-- What rounding a magnitude at a weight gives: the multiple below, or the one above where the mode rounds up. -/
def RoundedAt (mode : RMode) (neg : Bool) (X : ℚ) (q : Int) (draw : Nat) (r : Nat × Bool) : Prop :=
  ∃ lo, FloorAt X lo q ∧ ∃ up : Bool, (up = true ↔ UpWhen mode neg X lo q draw) ∧ r = (if up then lo + 1 else lo, decide (X ≠ lo * 2 ^ q))

/-- An exact multiple is not rounded up. -/
theorem not_upWhen_exact (h : X = lo * 2 ^ q) : ¬UpWhen mode neg X lo q draw := by
  have hp := two_zpow_pos q
  unfold UpWhen
  cases mode with
  | rne =>
    rw [h]
    rintro (h | ⟨h, _⟩) <;> nlinarith
  | rz => exact id
  | rd => exact fun hu => hu.2 h
  | ru => exact fun hu => hu.2 h
  | sr =>
    dsimp only
    rw [h, sub_self, zero_div, zero_mul, Nat.floor_zero]
    exact Nat.not_lt_zero _

/-- The multiple of a coarser weight that stands in a magnitude's digits. -/
theorem holds_split (h : Holds X (lo * 2 ^ k + rem) e sticky) (hr : rem < 2 ^ k) (hq : q = e + (k : Int)) :
    FloorAt X lo q ∧ (X ≠ lo * 2 ^ q ↔ rem ≠ 0 ∨ sticky = true) := by
  obtain ⟨hle, hlt, hs⟩ := h
  have hE := two_zpow_pos e
  have hqe : (2 : ℚ) ^ q = 2 ^ k * 2 ^ e := by rw [hq, two_zpow_add_nat]
  have hr' : (rem : ℚ) + 1 ≤ 2 ^ k := by exact_mod_cast hr
  have h0 : (0 : ℚ) ≤ rem := Nat.cast_nonneg _
  push_cast at hle hlt hs
  rw [hqe]
  refine ⟨⟨?_, ?_⟩, ⟨fun hx => ?_, fun hx he => ?_⟩⟩
  · nlinarith
  · nlinarith
  · by_contra hn
    rw [not_or, not_ne_iff] at hn
    obtain ⟨hr0, hst⟩ := hn
    rw [hs, not_ne_iff] at hst
    rw [hr0, Nat.cast_zero, add_zero] at hst
    exact hx (hst.trans (mul_assoc ..))
  · have hre : (rem : ℚ) * 2 ^ e ≤ 0 := by nlinarith
    have hr0 : (rem : ℚ) = 0 := le_antisymm (by nlinarith) h0
    rcases hx with hx | hx
    · exact hx (by exact_mod_cast hr0)
    · refine hs.mp hx ?_
      rw [hr0, he]
      ring

theorem roundsUp_spec (h : Holds X (lo * 2 ^ k + rem) e sticky) (hr : rem < 2 ^ k) (hq : q = e + (k : Int)) (hk : 1 ≤ k)
    (hsr : mode = .sr → sticky = false) : roundsUp mode neg lo rem k sticky draw = true ↔ UpWhen mode neg X lo q draw := by
  obtain ⟨_, hne⟩ := holds_split h hr hq
  have hin : (rem != 0 || sticky) = true ↔ X ≠ lo * 2 ^ q := by
    rw [Bool.or_eq_true, bne_iff_ne]
    exact hne.symm
  have hE := two_zpow_pos e
  have hqe : (2 : ℚ) ^ q = 2 ^ k * 2 ^ e := by rw [hq, two_zpow_add_nat]
  obtain ⟨hle, hlt, hs⟩ := h
  unfold roundsUp UpWhen
  cases mode with
  | rz => exact ⟨fun h => absurd h Bool.false_ne_true, False.elim⟩
  | rd =>
    dsimp only
    rw [Bool.and_eq_true, hin]
  | ru =>
    dsimp only
    rw [Bool.and_eq_true, hin, Bool.not_eq_true']
  | sr =>
    have hx : X = (lo * 2 ^ k + rem : Nat) * 2 ^ e := by
      have : ¬sticky = true := by rw [hsr rfl]; exact Bool.false_ne_true
      rwa [hs, not_ne_iff] at this
    have hfl : ⌊(X - lo * 2 ^ q) / 2 ^ q * 65536⌋₊ = rem * 65536 / 2 ^ k := by
      have hS : (0 : ℚ) < 2 ^ k := by positivity
      have heq : (X - lo * 2 ^ q) / 2 ^ q * 65536 = ((rem * 65536 : Nat) : ℚ) / ((2 ^ k : Nat) : ℚ) := by
        rw [hx, hqe]
        push_cast
        field_simp
        ring
      rw [heq, Nat.floor_div_eq_div]
    dsimp only
    rw [hfl, decide_eq_true_eq]
  | rne =>
    obtain ⟨S, hS⟩ : ∃ S, 2 ^ k = 2 * S := dvd_pow_self 2 (by omega)
    have hSq : (2 : ℚ) ^ k = 2 * S := by exact_mod_cast hS
    push_cast at hle hlt hs
    rw [hSq] at hle hlt hs
    rw [hqe, hSq, hS]
    generalize (2 : ℚ) ^ e = E at *
    rcases Nat.lt_trichotomy rem S with hc | hc | hc
    · -- below the half
      have hc' : (rem : ℚ) + 1 ≤ S := by exact_mod_cast hc
      have hX : 2 * X < (2 * lo + 1) * (2 * S * E) := by nlinarith
      have h1 : ¬2 * rem > 2 * S := by omega
      have h2 : ¬2 * rem = 2 * S := by omega
      simp only [decide_eq_false h1, beq_eq_false_iff_ne.mpr h2, Bool.false_and, Bool.or_false]
      exact ⟨fun h => absurd h Bool.false_ne_true, by rintro (h | ⟨h, _⟩) <;> linarith⟩
    · -- at the half, or above it by less than a digit
      have hX : (2 * lo + 1) * (2 * S * E) ≤ 2 * X := by rw [hc] at hle; nlinarith
      have heq : X = (lo * (2 * S) + rem) * E ↔ (2 * lo + 1) * (2 * S * E) = 2 * X := by
        rw [hc]
        constructor <;> intro h <;> linarith
      have h1 : ¬2 * S > 2 * S := lt_irrefl _
      have hne' : X ≠ (lo * (2 * S) + rem) * E ↔ (2 * lo + 1) * (2 * S * E) < 2 * X := by
        rw [Ne, heq, lt_iff_le_and_ne]
        exact ⟨fun h => ⟨hX, h⟩, fun h => h.2⟩
      rw [hne'] at hs
      simp only [hc, decide_eq_false h1, Bool.false_or, beq_self_eq_true, Bool.true_and, Bool.or_eq_true, hs, beq_iff_eq]
      by_cases hh : (2 * lo + 1) * (2 * S * E) = 2 * X
      · rw [hh]
        simp
      · have := lt_of_le_of_ne hX hh
        simp [this]
    · -- above the half
      have hc' : (S : ℚ) + 1 ≤ rem := by exact_mod_cast hc
      have hX : (2 * lo + 1) * (2 * S * E) < 2 * X := by nlinarith
      have h1 : 2 * rem > 2 * S := by omega
      simp only [decide_eq_true h1, Bool.true_or, hX, true_or]

/-- A magnitude rounded at a weight. -/
theorem roundAt_spec (h : Holds X m e sticky) (hsq : sticky = true → e < q) (hsr : mode = .sr → sticky = false) :
    RoundedAt mode neg X q draw (roundAt mode neg m e q sticky draw) := by
  unfold roundAt
  by_cases hq : q ≤ e
  · -- the weight is at or below the digits': the magnitude is a multiple of it
    have hst : sticky = false := Bool.eq_false_iff.mpr fun h => absurd (hsq h) (not_lt.mpr hq)
    obtain ⟨k, hk⟩ := Int.eq_ofNat_of_zero_le (sub_nonneg.mpr hq)
    have hx : X = ((m * 2 ^ k : Nat) : ℚ) * 2 ^ q := by
      have : ¬sticky = true := by rw [hst]; exact Bool.false_ne_true
      rw [h.sticky, not_ne_iff] at this
      rw [this, show e = q + (k : Int) by omega, two_zpow_add_nat]
      push_cast
      ring
    have hp := two_zpow_pos q
    rw [if_pos hq, hk, Int.toNat_natCast, hst]
    refine ⟨m * 2 ^ k, ⟨hx.ge, by rw [hx]; nlinarith⟩, false, ⟨fun h => absurd h Bool.false_ne_true, fun h => absurd h (not_upWhen_exact hx)⟩, ?_⟩
    rw [if_neg Bool.false_ne_true, decide_eq_false (not_not.mpr hx)]
  · obtain ⟨k, hk⟩ := Int.eq_ofNat_of_zero_le (sub_nonneg.mpr (not_le.mp hq).le)
    have hk1 : 1 ≤ k := by omega
    have hqe : q = e + (k : Int) := by omega
    have hm : m = m / 2 ^ k * 2 ^ k + m % 2 ^ k := (Nat.div_add_mod' m _).symm
    have hr : m % 2 ^ k < 2 ^ k := Nat.mod_lt _ (Nat.two_pow_pos k)
    rw [hm] at h
    obtain ⟨hfl, hne⟩ := holds_split h hr hqe
    rw [if_neg hq, hk, Int.toNat_natCast]
    refine ⟨m / 2 ^ k, hfl, _, roundsUp_spec h hr hqe hk1 hsr, ?_⟩
    have hd : (m % 2 ^ k != 0 || sticky) = decide (X ≠ (m / 2 ^ k : Nat) * 2 ^ q) := by
      rw [Bool.eq_iff_iff, Bool.or_eq_true, bne_iff_ne, decide_eq_true_eq]
      exact hne.symm
    dsimp only
    rw [hd]

end

end Sys2Proof.Machine
end

section
/-! SUPPORT. the codes of formats -/

namespace Sys2Proof.Machine

/-! ## The formats' codes (R46) -/

section
variable {f : Fmt} {c : Nat} {neg : Bool}

/-- The fields of a format fill its width, and its largest finite value is where its kind puts it. -/
structure Fmt.Shaped (f : Fmt) : Prop where
  frac : 1 ≤ f.frac
  exp : 2 ≤ f.exp
  width : f.width = f.exp + f.frac + 1
  top : match f.kind with
    | .ieee => f.top + 1 = (2 ^ f.exp - 1) * 2 ^ f.frac
    | .oneNan => f.top + 2 = 2 ^ f.exp * 2 ^ f.frac
    | .finite => f.top + 1 = 2 ^ f.exp * 2 ^ f.frac

/-- Codes of a magnitude with a sign: their number, and what they decode to. -/
structure Fmt.Coded (f : Fmt) : Prop where
  frac : 1 ≤ f.frac
  half : 2 ^ f.width = 2 * 2 ^ (f.width - 1)
  even : 2 ^ (f.width - 1) % 2 = 0
  normal : 2 ^ f.frac ≤ f.top
  top : f.top < 2 ^ (f.width - 1)
  number : ∀ neg c, c ≤ f.top → f.decode (f.signed neg c) = .num neg (f.sigOf c) (f.expOf c)
  other : ∀ neg c, f.top < c → c < 2 ^ (f.width - 1) → ∀ n m e, f.decode (f.signed neg c) ≠ .num n m e
  sign : ∀ neg c, c < 2 ^ (f.width - 1) → f.neg (f.signed neg c) = neg

theorem signed_lt (h : f.Coded) (hc : c < 2 ^ (f.width - 1)) : f.signed neg c < 2 ^ f.width := by
  have := h.half
  rw [Fmt.signed]
  split <;> omega

/-- The fields of a code (R46). -/
theorem fields_signed (hw : f.width = f.exp + f.frac + 1) (hc : c < 2 ^ (f.width - 1)) :
    f.neg (f.signed neg c) = neg ∧ f.signed neg c % 2 ^ (f.width - 1) = c ∧ f.signed neg c / 2 ^ f.frac % 2 ^ f.exp = c / 2 ^ f.frac ∧
      f.signed neg c % 2 ^ f.frac = c % 2 ^ f.frac := by
  have hx : f.signed neg c = (if neg then 1 else 0) * 2 ^ (f.width - 1) + c := by
    rw [Fmt.signed]
    cases neg <;> simp
  have hp : 2 ^ (f.width - 1) = 2 ^ f.exp * 2 ^ f.frac := by rw [← Nat.pow_add, hw]; rfl
  have hF := Nat.two_pow_pos f.frac
  have hG := Nat.two_pow_pos f.exp
  unfold Fmt.neg
  rw [hx]
  rw [hp] at hc ⊢
  generalize 2 ^ f.frac = F at *
  generalize 2 ^ f.exp = G at *
  have hcF : c / F < G := Nat.div_lt_of_lt_mul (by rwa [Nat.mul_comm])
  refine ⟨?_, mod_of_lt hc, ?_, ?_⟩
  · rw [div_of_lt hc]
    cases neg <;> rfl
  · rw [← Nat.mul_assoc, Nat.add_comm, Nat.add_mul_div_right _ _ hF, Nat.add_comm, Nat.add_comm, Nat.add_mul_mod_self_right,
      Nat.mod_eq_of_lt hcF]
  · rw [← Nat.mul_assoc, Nat.add_comm, Nat.add_mul_mod_self_right]

theorem Fmt.Shaped.coded (h : f.Shaped) : f.Coded := by
  obtain ⟨hf, hexp, hw, htop⟩ := h
  have hp : 2 ^ (f.width - 1) = 2 ^ f.exp * 2 ^ f.frac := by rw [← Nat.pow_add, hw]; rfl
  have hF2 : 2 ≤ 2 ^ f.frac := by calc 2 = 2 ^ 1 := rfl
    _ ≤ 2 ^ f.frac := Nat.pow_le_pow_right (by decide) hf
  have hG4 : 4 ≤ 2 ^ f.exp := by calc 4 = 2 ^ 2 := rfl
    _ ≤ 2 ^ f.exp := Nat.pow_le_pow_right (by decide) hexp
  have hnorm : ∀ c, c < 2 ^ f.exp * 2 ^ f.frac → (c / 2 ^ f.frac = 0 ↔ c < 2 ^ f.frac) := fun c _ =>
    ⟨fun h => (Nat.div_eq_zero_iff.mp h).resolve_left (by omega), Nat.div_eq_of_lt⟩
  have htop' : 2 ^ f.frac ≤ f.top ∧ f.top < 2 ^ f.exp * 2 ^ f.frac := by
    generalize 2 ^ f.frac = F at *
    generalize 2 ^ f.exp = G at *
    have : 4 * F ≤ G * F := Nat.mul_le_mul_right F hG4
    split at htop
    · rw [Nat.sub_mul, Nat.one_mul] at htop
      omega
    · omega
    · omega
  -- which codes decode to numbers, by kind
  have hdec : ∀ neg c, c < 2 ^ (f.width - 1) → (c ≤ f.top → f.decode (f.signed neg c) = .num neg (f.sigOf c) (f.expOf c)) ∧
      (f.top < c → ∀ n m e, f.decode (f.signed neg c) ≠ .num n m e) := fun neg c hc => by
    obtain ⟨h1, h2, h3, h4⟩ := fields_signed (neg := neg) hw hc
    have hn := hnorm c (hp ▸ hc)
    have hnum : (if c / 2 ^ f.frac = 0 then FVal.num neg (c % 2 ^ f.frac) f.low
        else .num neg (2 ^ f.frac + c % 2 ^ f.frac) (f.low + (c / 2 ^ f.frac : Nat) - 1)) = .num neg (f.sigOf c) (f.expOf c) := by
      rw [Fmt.sigOf, Fmt.expOf]
      by_cases hlt : c < 2 ^ f.frac
      · rw [if_pos (hn.mpr hlt), if_pos hlt, if_pos hlt, Nat.mod_eq_of_lt hlt]
      · rw [if_neg fun h => hlt (hn.mp h), if_neg hlt, if_neg hlt]
    have hinf : c / 2 ^ f.frac = 2 ^ f.exp - 1 ↔ (2 ^ f.exp - 1) * 2 ^ f.frac ≤ c := by
      rw [hp] at hc
      generalize 2 ^ f.frac = F at *
      generalize 2 ^ f.exp = G at *
      have hlt : c / F < G := Nat.div_lt_of_lt_mul (by rwa [Nat.mul_comm])
      rw [← Nat.le_div_iff_mul_le (by omega)]
      omega
    unfold Fmt.decode
    dsimp only
    rw [h1, h2, h3, h4]
    split
    next hk =>
      rw [hk] at htop
      dsimp only at htop
      by_cases hx : c / 2 ^ f.frac = 2 ^ f.exp - 1
      · rw [if_pos hx]
        have := hinf.mp hx
        refine ⟨fun hle => by omega, fun _ n m e => ?_⟩
        split <;> exact nofun
      · rw [if_neg hx]
        have : ¬(2 ^ f.exp - 1) * 2 ^ f.frac ≤ c := fun h => hx (hinf.mpr h)
        exact ⟨fun _ => hnum, fun hlt => by omega⟩
    next hk =>
      rw [hk] at htop
      dsimp only at htop
      rw [hp] at hc ⊢
      by_cases hx : c = 2 ^ f.exp * 2 ^ f.frac - 1
      · rw [if_pos hx]
        exact ⟨fun hle => by omega, fun _ n m e => nofun⟩
      · rw [if_neg hx]
        exact ⟨fun _ => hnum, fun hlt => by omega⟩
    next hk =>
      rw [hk] at htop
      dsimp only at htop
      rw [hp] at hc
      exact ⟨fun _ => hnum, fun hlt => by omega⟩
  have hwp : f.width = (f.width - 1) + 1 := by omega
  refine ⟨hf, ?_, ?_, htop'.1, hp ▸ htop'.2, fun neg c hc => (hdec neg c ?_).1 hc, fun neg c hlt hc => (hdec neg c hc).2 hlt,
    fun neg c hc => (fields_signed hw hc).1⟩
  · rw [hwp, Nat.pow_succ', Nat.add_sub_cancel]
  · rw [hw, Nat.add_sub_cancel, Nat.pow_add]
    have : 2 ∣ 2 ^ f.frac := dvd_pow_self 2 (by omega)
    exact Nat.mod_eq_zero_of_dvd (Dvd.dvd.mul_left this _)
  · rw [hp]
    exact Nat.lt_of_le_of_lt hc htop'.2

/-- The formats of R46. -/
def roundingFormats : List Fmt := [f64, f32, f16, bf16, e5m2, e4m3, e2m1]

theorem shaped_formats : ∀ f ∈ roundingFormats, f.Shaped := by
  intro f hf
  simp only [roundingFormats, List.mem_cons, List.not_mem_nil, or_false] at hf
  rcases hf with rfl | rfl | rfl | rfl | rfl | rfl | rfl <;> exact ⟨by decide, by decide, rfl, rfl⟩

end

end Sys2Proof.Machine
end

section
/-! SUPPORT. a magnitude rounded -/

namespace Sys2Proof.Machine

/-! ## A magnitude rounded to a format (R52, R53) -/

section
variable {f : Fmt} {X : ℚ} {m c0 draw : Nat} {e q : Int} {mode : RMode} {neg sticky : Bool}

/-- Whether a directed mode rounds a magnitude of a sign away from zero. -/
def Away (mode : RMode) (neg : Bool) : Prop := (mode = .ru ∧ neg = false) ∨ (mode = .rd ∧ neg = true)

/-- When a magnitude is tiny: less than the least normal after rounding with an unbounded exponent (R52). -/
def Tiny (f : Fmt) (mode : RMode) (neg : Bool) (X : ℚ) : Prop :=
  let normal := (2 : ℚ) ^ (1 - (f.bias : Int))
  let least := normal / 2 ^ f.frac
  (mode = .rne → X < normal - least / 4) ∧ (mode ≠ .rne → Away mode neg → X ≤ normal - least / 2) ∧
    (mode ≠ .rne → ¬Away mode neg → X < normal)

/-- The exponent of a magnitude's highest bit. -/
def topExp (m : Nat) (e : Int) : Int := e + (bitLen m : Int) - 1

theorem topExp_spec (h : Holds X m e sticky) (hm : 0 < m) : (2 : ℚ) ^ topExp m e ≤ X ∧ X < 2 ^ (topExp m e + 1) := by
  have hb : bitLen m = Nat.log2 m + 1 := if_neg (by omega)
  have h1 : 2 ^ Nat.log2 m ≤ m := Nat.log2_self_le (by omega)
  have h2 : m + 1 ≤ 2 ^ (Nat.log2 m + 1) := Nat.lt_log2_self
  have hE := two_zpow_pos e
  have ht : topExp m e = e + (Nat.log2 m : Int) := by rw [topExp, hb]; push_cast; ring
  rw [ht, add_assoc, show (Nat.log2 m : Int) + 1 = ((Nat.log2 m + 1 : Nat) : Int) by push_cast; ring, two_zpow_add_nat, two_zpow_add_nat]
  have h1' : (2 : ℚ) ^ Nat.log2 m ≤ m := by exact_mod_cast h1
  have h2' : (m : ℚ) + 1 ≤ 2 ^ (Nat.log2 m + 1) := by exact_mod_cast h2
  exact ⟨(mul_le_mul_of_nonneg_right h1' hE.le).trans h.le, h.lt.trans_le (mul_le_mul_of_nonneg_right h2' hE.le)⟩

/-- The digits that rounding at a weight keeps, when the weight is a significand's below a magnitude's highest bit. -/
theorem floorAt_normal {lo : Nat} (h : FloorAt X lo q) (ht : (2 : ℚ) ^ (q + f.frac) ≤ X) : 2 ^ f.frac ≤ lo := by
  rw [two_zpow_add_nat] at ht
  have hq := two_zpow_pos q
  have hlt : (2 : ℚ) ^ f.frac * 2 ^ q < (lo + 1) * 2 ^ q := ht.trans_lt h.lt
  have hlt' : (2 : ℚ) ^ f.frac < lo + 1 := lt_of_mul_lt_mul_right hlt hq.le
  have : 2 ^ f.frac < lo + 1 := by exact_mod_cast hlt'
  omega

theorem floorAt_lt {lo : Nat} (h : FloorAt X lo q) (ht : X < (2 : ℚ) ^ (q + f.frac + 1)) : lo < 2 * 2 ^ f.frac := by
  rw [two_zpow_succ, two_zpow_add_nat] at ht
  have hq := two_zpow_pos q
  have hlt : (lo : ℚ) * 2 ^ q < (2 * 2 ^ f.frac) * 2 ^ q := (h.le.trans_lt ht).trans_eq (by ring)
  have hlt' : (lo : ℚ) < 2 * 2 ^ f.frac := lt_of_mul_lt_mul_right hlt hq.le
  exact_mod_cast hlt'

theorem zpow_le_of_le {a b : Int} (h : a ≤ b) : (2 : ℚ) ^ a ≤ 2 ^ b := zpow_le_zpow_right₀ (by norm_num) h

/-- When a mode other than SR rounds up. -/
theorem upWhen_iff {lo : Nat} (hsr : mode ≠ .sr) : UpWhen mode neg X lo q draw ↔
    (mode = .rne ∧ ((2 * lo + 1) * (2 : ℚ) ^ q < 2 * X ∨ ((2 * lo + 1) * (2 : ℚ) ^ q = 2 * X ∧ lo % 2 = 1))) ∨
      (Away mode neg ∧ X ≠ lo * 2 ^ q) := by
  unfold UpWhen Away
  cases mode <;> simp at hsr ⊢

/-- Tininess as the rounding judges it. -/
def isTiny (f : Fmt) (mode : RMode) (neg : Bool) (m : Nat) (e : Int) (sticky : Bool) (draw : Nat) : Bool :=
  decide (topExp m e < f.low + f.frac - 1) || (topExp m e == f.low + f.frac - 1 &&
    decide ((roundAt mode neg m e (topExp m e - f.frac) sticky draw).1 < 2 ^ (f.frac + 1)))

theorem isTiny_iff (hf : 1 ≤ f.frac) (h : Holds X m e sticky) (hm : 0 < m) (hsq : sticky = true → e < topExp m e - f.frac) (hsr : mode ≠ .sr) :
    isTiny f mode neg m e sticky draw = true ↔ Tiny f mode neg X := by
  obtain ⟨hge, hlt⟩ := topExp_spec h hm
  have hL := two_zpow_pos f.low
  obtain ⟨S, hS⟩ : ∃ S, 2 ^ f.frac = 2 * S := dvd_pow_self 2 (by omega)
  have hS1 : 1 ≤ S := by have := Nat.two_pow_pos f.frac; omega
  have hSq : (1 : ℚ) ≤ S := by exact_mod_cast hS1
  have hF : (2 : ℚ) ^ f.frac = 2 * S := by exact_mod_cast hS
  have hN : (2 : ℚ) ^ (1 - (f.bias : Int)) = 2 * S * 2 ^ f.low := by
    rw [← hF, ← two_zpow_add_nat, Fmt.low]
    congr 1
    ring
  have hleast : 2 * S * (2 : ℚ) ^ f.low / (2 * S) = 2 ^ f.low := by field_simp
  unfold Tiny
  dsimp only
  rw [hN, hF, hleast]
  have hSL : (2 : ℚ) ^ f.low ≤ S * 2 ^ f.low := le_mul_of_one_le_left hL.le hSq
  have hNtop : (2 : ℚ) ^ (f.low + f.frac) = 2 * S * 2 ^ f.low := by rw [two_zpow_add_nat, hF]
  have hNhalf : (2 : ℚ) ^ (f.low + f.frac - 1) = S * 2 ^ f.low := by
    have := two_zpow_succ (f.low + f.frac - 1)
    rw [sub_add_cancel, hNtop] at this
    linarith
  unfold isTiny
  rcases lt_trichotomy (topExp m e) (f.low + f.frac - 1) with hc | hc | hc
  · -- well below the least normal
    have hX : X < S * 2 ^ f.low := hlt.trans_le (hNhalf ▸ zpow_le_of_le (by omega))
    rw [decide_eq_true hc, Bool.true_or]
    exact ⟨fun _ => ⟨fun _ => by linarith, fun _ _ => by linarith, fun _ _ => by linarith⟩, fun _ => rfl⟩
  · -- just below it: the rounding decides
    have hX : X < 2 * S * 2 ^ f.low := by
      rw [hc, sub_add_cancel, hNtop] at hlt
      exact hlt
    obtain ⟨lo, hfl, up, hup, hr⟩ := roundAt_spec (mode := mode) (neg := neg) (draw := draw) (q := topExp m e - f.frac) h hsq
      (fun h => absurd h hsr)
    have hlo := floorAt_normal (f := f) hfl (by rw [sub_add_cancel]; exact hge)
    have hlo2 := floorAt_lt (f := f) hfl (by rw [sub_add_cancel]; exact hlt)
    have hq : 2 * (2 : ℚ) ^ (topExp m e - f.frac) = 2 ^ f.low := by
      rw [← two_zpow_succ, hc]
      congr 1
      ring
    obtain ⟨hfle, hflt⟩ := hfl
    rw [upWhen_iff hsr] at hup
    rw [hr, decide_eq_false (by omega), Bool.false_or, hc, beq_self_eq_true, Bool.true_and, decide_eq_true_eq, Nat.pow_succ', hS]
    rw [hc] at hfle hflt hup hq
    generalize (2 : ℚ) ^ (f.low + f.frac - 1 - f.frac) = g at *
    have hg : 0 < g := by linarith
    rw [← hq] at hX ⊢
    rw [hS] at hlo hlo2
    by_cases hl : lo + 1 = 2 * (2 * S)
    · -- the last significand: rounding up gives the least normal
      have hlc : (lo : ℚ) = 4 * S - 1 := by
        have : ((lo + 1 : Nat) : ℚ) = ((2 * (2 * S) : Nat) : ℚ) := by rw [hl]
        push_cast at this
        linarith
      have hodd : lo % 2 = 1 := by omega
      have hiff : ((if up then lo + 1 else lo, decide (X ≠ lo * g)) : Nat × Bool).1 < 2 * (2 * S) ↔ ¬up = true := by
        cases up
        · simp
          omega
        · simp
          omega
      rw [hiff, hup]
      rw [hlc] at hfle hflt ⊢
      constructor
      · intro hn
        rw [not_or] at hn
        obtain ⟨hn1, hn2⟩ := hn
        refine ⟨fun hr => ?_, fun hr ha => ?_, fun _ _ => hX⟩
        · by_contra hle
          rcases lt_or_eq_of_le (show (2 * (4 * (S : ℚ) - 1) + 1) * g ≤ 2 * X by linarith) with h | h
          · exact hn1 ⟨hr, .inl h⟩
          · exact hn1 ⟨hr, .inr ⟨h, hodd⟩⟩
        · by_contra hle
          exact hn2 ⟨ha, fun h => hle (by linarith)⟩
      · rintro ⟨h1, h2, _⟩ (⟨hr, h | ⟨h, _⟩⟩ | ⟨ha, hx⟩)
        · have := h1 hr
          linarith
        · have := h1 hr
          linarith
        · have hr : mode ≠ .rne := by
            rintro rfl
            rcases ha with ⟨h, _⟩ | ⟨h, _⟩ <;> exact absurd h nofun
          have := h2 hr ha
          exact hx (le_antisymm (by linarith) hfle)
    · -- a lower one
      have hlc : (lo : ℚ) + 1 ≤ 4 * S - 1 := by
        have : lo + 1 + 1 ≤ 4 * S := by omega
        have : ((lo + 1 + 1 : Nat) : ℚ) ≤ ((4 * S : Nat) : ℚ) := by exact_mod_cast this
        push_cast at this
        linarith
      have hXl : X < (4 * S - 1) * g := hflt.trans_le (mul_le_mul_of_nonneg_right hlc hg.le)
      refine ⟨fun _ => ⟨fun _ => by linarith, fun _ _ => by linarith, fun _ _ => hX⟩, fun _ => ?_⟩
      dsimp only
      split <;> omega
  · -- at or above it
    have hX : 2 * S * 2 ^ f.low ≤ X := le_trans (by rw [← hNtop]; exact zpow_le_of_le (by omega)) hge
    rw [decide_eq_false (by omega), Bool.false_or, beq_eq_false_iff_ne.mpr (by omega), Bool.false_and]
    refine ⟨fun h => absurd h Bool.false_ne_true, fun ⟨h1, h2, h3⟩ => ?_⟩
    by_cases hr : mode = .rne
    · have := h1 hr
      linarith
    · by_cases ha : Away mode neg
      · have := h2 hr ha
        linarith
      · have := h3 hr ha
        linarith

end

end Sys2Proof.Machine
end

section
/-! SUPPORT. the code that a rounding gives -/

namespace Sys2Proof.Machine

section
variable {f : Fmt} {X : ℚ} {m c0 draw : Nat} {e q : Int} {mode : RMode} {neg sticky : Bool}

/-! ## The code that a rounding gives (R52) -/

/-- A rounding whose mode is fixed. -/
def Fmt.roundIn (f : Fmt) (mode : RMode) (neg : Bool) (m : Nat) (e : Int) (sticky : Bool) (draw : Nat) : Nat × FFlags :=
  let q := max (topExp m e - f.frac) f.low
  let r := roundAt mode neg m e q sticky draw
  if f.top < f.pack r.1 q then (f.overflow mode neg, flagOF ||| flagNX)
  else (f.signed neg (f.pack r.1 q), flagIf r.2 flagNX ||| flagIf (isTiny f mode neg m e sticky draw && r.2) flagUF)

theorem round_eq (hsr : mode ≠ .sr) : f.round mode neg m e sticky draw = f.roundIn mode neg m e sticky draw := by
  unfold Fmt.round
  cases mode with
  | sr => exact absurd rfl hsr
  | rne => rfl
  | rz => rfl
  | rd => rfl
  | ru => rfl

/-- Two magnitudes compared over a common weight. -/
theorem scaled_lt (m n : Nat) (e d : Int) :
    n * 2 ^ (max 0 (d - e)).toNat < m * 2 ^ (e - d).toNat ↔ (n : ℚ) * 2 ^ d < m * 2 ^ e := by
  have key : ∀ (a b : Nat) (k : Int) (x y : Nat), ((a * 2 ^ x : Nat) : ℚ) * 2 ^ k < ((b * 2 ^ y : Nat) : ℚ) * 2 ^ k ↔ a * 2 ^ x < b * 2 ^ y :=
    fun a b k x y => by rw [mul_lt_mul_iff_of_pos_right (two_zpow_pos k), Nat.cast_lt]
  rcases le_total d e with h | h
  · obtain ⟨k, hk⟩ := Int.eq_ofNat_of_zero_le (sub_nonneg.mpr h)
    rw [← key n m d, max_eq_left (by omega), hk, Int.toNat_natCast, Int.toNat_zero, pow_zero, Nat.mul_one,
      show e = d + (k : Int) by omega, two_zpow_add_nat]
    push_cast
    rw [mul_assoc]
  · obtain ⟨k, hk⟩ := Int.eq_ofNat_of_zero_le (sub_nonneg.mpr h)
    rw [← key n m e, max_eq_right (by omega), hk, Int.toNat_natCast, show (e - d).toNat = 0 by omega, pow_zero, Nat.mul_one,
      show d = e + (k : Int) by omega, two_zpow_add_nat]
    push_cast
    rw [mul_assoc]

/-- Stochastic rounding is RNE above the largest finite value (R53). -/
theorem round_sr (hc : f.Coded) : f.round .sr neg m e false draw =
    f.roundIn (if f.mag f.top < m * 2 ^ e then .rne else .sr) neg m e false draw := by
  have hd : f.decode f.top = .num false (f.sigOf f.top) (f.expOf f.top) := hc.number false f.top (Nat.le_refl _)
  have hiff : ((decide (m * 2 ^ (e - f.expOf f.top).toNat > f.sigOf f.top * 2 ^ (max 0 (f.expOf f.top - e)).toNat) ||
      (m * 2 ^ (e - f.expOf f.top).toNat == f.sigOf f.top * 2 ^ (max 0 (f.expOf f.top - e)).toNat && false)) = true) ↔
      f.mag f.top < m * 2 ^ e := by
    rw [Bool.and_false, Bool.or_false, decide_eq_true_eq]
    exact scaled_lt ..
  have hround : f.round .sr neg m e false draw = f.roundIn (if (decide (m * 2 ^ (e - f.expOf f.top).toNat >
      f.sigOf f.top * 2 ^ (max 0 (f.expOf f.top - e)).toNat) || (m * 2 ^ (e - f.expOf f.top).toNat ==
      f.sigOf f.top * 2 ^ (max 0 (f.expOf f.top - e)).toNat && false)) = true then .rne else .sr) neg m e false draw := by
    unfold Fmt.round
    rw [hd]
    rfl
  rw [hround]
  by_cases h : f.mag f.top < m * 2 ^ e
  · rw [if_pos (hiff.mpr h), if_pos h]
  · rw [if_neg fun h' => h (hiff.mp h'), if_neg h]

/-- When a mode rounds a magnitude between a code's and the next one's to the next one. -/
def CodeUp (f : Fmt) (mode : RMode) (neg : Bool) (X : ℚ) (c0 draw : Nat) : Prop :=
  match mode with
  | .rne => f.mag c0 + f.mag (c0 + 1) < 2 * X ∨ (f.mag c0 + f.mag (c0 + 1) = 2 * X ∧ c0 % 2 = 1)
  | .rz => False
  | .rd => neg = true ∧ X ≠ f.mag c0
  | .ru => neg = false ∧ X ≠ f.mag c0
  | .sr => draw < ⌊(X - f.mag c0) / (f.mag (c0 + 1) - f.mag c0) * 65536⌋₊

/-- The code below a magnitude, and whether its rounding goes to the next one. -/
structure Between (f : Fmt) (mode : RMode) (neg : Bool) (X : ℚ) (draw c0 : Nat) (up : Bool) : Prop where
  le : f.mag c0 ≤ X
  lt : X < f.mag (c0 + 1)
  up : up = true ↔ CodeUp f mode neg X c0 draw

theorem roundIn_between (hf : 1 ≤ f.frac) (h : Holds X m e sticky) (hm : 0 < m) (hsq : sticky = true → e < topExp m e - f.frac)
    (hsr : mode = .sr → sticky = false) : ∃ c0 up, Between f mode neg X draw c0 up ∧
      f.roundIn mode neg m e sticky draw =
        if f.top < (if up then c0 + 1 else c0) then (f.overflow mode neg, flagOF ||| flagNX)
        else (f.signed neg (if up then c0 + 1 else c0), flagIf (decide (X ≠ f.mag c0)) flagNX |||
          flagIf (isTiny f mode neg m e sticky draw && decide (X ≠ f.mag c0)) flagUF) := by
  obtain ⟨hge, hlt⟩ := topExp_spec h hm
  obtain ⟨lo, hfl, up, hup, hr⟩ := roundAt_spec (mode := mode) (neg := neg) (draw := draw) (q := max (topExp m e - f.frac) f.low) h
    (fun hs => lt_of_lt_of_le (hsq hs) (le_max_left ..)) hsr
  have hfits : Fits f lo (max (topExp m e - f.frac) f.low) := by
    refine ⟨le_max_right .., floorAt_lt hfl (hlt.trans_le (zpow_le_of_le ?_)), ?_⟩
    · have := le_max_left (topExp m e - f.frac) f.low
      omega
    · rcases le_total (topExp m e - f.frac) f.low with hc | hc
      · exact .inl (max_eq_right hc)
      · refine .inr (floorAt_normal hfl ?_)
        rw [max_eq_left hc, sub_add_cancel]
        exact hge
  generalize hq : max (topExp m e - f.frac) f.low = q at *
  obtain ⟨_, _, hsucc⟩ := pack_of_fits hfits
  have hmag := mag_pack hfits
  have hmag1 := mag_pack_succ hfits
  have hodd := pack_odd hf hfits
  refine ⟨f.pack lo q, up, ⟨hmag ▸ hfl.le, hmag1 ▸ hfl.lt, hup.trans ?_⟩, ?_⟩
  · have hsum : (lo : ℚ) * 2 ^ q + (lo + 1) * 2 ^ q = (2 * lo + 1) * 2 ^ q := by ring
    have hdiff : ((lo : ℚ) + 1) * 2 ^ q - lo * 2 ^ q = 2 ^ q := by ring
    unfold UpWhen CodeUp
    rw [hmag, hmag1, hodd, hsum, hdiff] <;> cases mode <;> rfl
  · unfold Fmt.roundIn
    dsimp only
    rw [hq, hr]
    dsimp only
    rw [hmag]
    cases up
    · rfl
    · rw [if_pos rfl, if_pos rfl, hsucc]

end

end Sys2Proof.Machine
end

section
/-! SUPPORT. results rounded once -/

namespace Sys2Proof.Machine

/-! ## Results rounded once, in exact arithmetic (R51–R53, R55) -/

section
variable {f : Fmt} {X x z : ℚ} {m c c0 draw : Nat} {e : Int} {mode : RMode} {neg up : Bool}

/-- The exact number of a value. -/
def FVal.real (v : FVal) : ℚ :=
  match v with
  | .num neg m e => (if neg then -1 else 1 : ℚ) * m * (2 : ℚ) ^ e
  | _ => 0

/-- A code of a format that stands for a number. -/
def OfCode (f : Fmt) (c : Nat) (z : ℚ) : Prop := c < 2 ^ f.width ∧ ∃ n m e, f.decode c = .num n m e ∧ z = (FVal.num n m e).real

/-- The weight of the last bit of the largest finite value. -/
def Fmt.ulp (f : Fmt) : ℚ :=
  match f.decode f.top with
  | .num _ _ e => (2 : ℚ) ^ e
  | _ => 0

/-- A code and flags are a number rounded once (R52, R55). -/
def Rounds (f : Fmt) (mode : RMode) (x : ℚ) (r : Nat × FFlags) : Prop :=
  let largest := (f.decode f.top).real
  let away := (mode = .ru ∧ 0 < x) ∨ (mode = .rd ∧ x < 0)
  let overflows := if mode = .rne then largest + f.ulp / 2 < |x| ∨ (|x| = largest + f.ulp / 2 ∧ f.top % 2 = 1)
    else if away then largest < |x| else largest + f.ulp ≤ |x|
  let normal := (2 : ℚ) ^ (1 - (f.bias : Int))
  let least := normal / 2 ^ f.frac
  let tiny := if mode = .rne then |x| < normal - least / 4 else if away then |x| ≤ normal - least / 2 else |x| < normal
  (overflows → r = (f.signed (decide (x < 0)) (f.top + if f.kind = .ieee ∧ (mode = .rne ∨ away) then 1 else 0),
    flagOF ||| flagNX)) ∧
  (¬overflows → f.neg r.1 = decide (x < 0) ∧ ∃ y, OfCode f r.1 y ∧
    r.2 = (if y = x then 0 else flagNX ||| flagIf (decide tiny) flagUF) ∧
    ∀ c z, OfCode f c z → match mode with
      | .rne => |x - y| ≤ |x - z| ∧ (|x - z| = |x - y| → z ≠ y → r.1 % 2 = 0)
      | .rz => |y| ≤ |x| ∧ (|z| ≤ |x| → |z| ≤ |y|)
      | .rd => y ≤ x ∧ (z ≤ x → z ≤ y)
      | .ru => x ≤ y ∧ (x ≤ z → y ≤ z)
      | .sr => True)

/-- A number's magnitude with a sign. -/
def withSign (neg : Bool) (X : ℚ) : ℚ := if neg then -X else X

theorem withSign_lt (h : 0 < X) : decide (withSign neg X < 0) = neg := by
  cases neg
  · exact decide_eq_false (not_lt.mpr h.le)
  · exact decide_eq_true (neg_lt_zero.mpr h)

theorem abs_withSign (h : 0 ≤ X) : |withSign neg X| = X := by
  cases neg
  · exact abs_of_nonneg h
  · exact (abs_neg X).trans (abs_of_nonneg h)

theorem away_withSign (h : 0 < X) : (mode = .ru ∧ 0 < withSign neg X) ∨ (mode = .rd ∧ withSign neg X < 0) ↔ Away mode neg := by
  unfold Away withSign
  cases neg
  · simp [h, h.le]
  · simp [h, h.le]

theorem real_num (neg : Bool) (m : Nat) (e : Int) : (FVal.num neg m e).real = withSign neg (m * 2 ^ e) := by
  unfold FVal.real withSign
  cases neg <;> simp

/-- The numbers of a format: the magnitudes of its codes up to the largest, with a sign. -/
theorem ofCode_signed (hc : f.Coded) (hle : c ≤ f.top) : OfCode f (f.signed neg c) (withSign neg (f.mag c)) :=
  ⟨signed_lt hc (Nat.lt_of_le_of_lt hle hc.top), _, _, _, hc.number neg c hle, (real_num ..).symm⟩

theorem ofCode_cases (hc : f.Coded) (h : OfCode f c z) : ∃ n c', c' ≤ f.top ∧ c = f.signed n c' ∧ z = withSign n (f.mag c') := by
  obtain ⟨hlt, n, m, e, hd, hz⟩ := h
  obtain ⟨s, c', hc', rfl⟩ : ∃ s c', c' < 2 ^ (f.width - 1) ∧ c = f.signed s c' := by
    have := hc.half
    by_cases hb : c < 2 ^ (f.width - 1)
    · exact ⟨false, c, hb, rfl⟩
    · exact ⟨true, c - 2 ^ (f.width - 1), by omega, (Nat.add_sub_cancel' (not_lt.mp hb)).symm⟩
  have hle : c' ≤ f.top := by
    by_contra hn
    exact hc.other s c' (not_le.mp hn) hc' n m e hd
  refine ⟨s, c', hle, rfl, hz.trans ?_⟩
  rw [hc.number s c' hle] at hd
  rw [← hd, real_num]
  rfl

theorem ofCode_unique (h : OfCode f c x) (h' : OfCode f c z) : x = z := by
  obtain ⟨_, n, m, e, hd, rfl⟩ := h
  obtain ⟨_, n', m', e', hd', rfl⟩ := h'
  rw [hd] at hd'
  rw [hd']

theorem largest_eq (hc : f.Coded) : (f.decode f.top).real = f.mag f.top := by
  rw [show f.decode f.top = _ from hc.number false f.top (Nat.le_refl _), real_num]
  rfl

theorem ulp_eq (hc : f.Coded) : f.mag (f.top + 1) = f.mag f.top + f.ulp := by
  rw [mag_succ, Fmt.ulp, show f.decode f.top = _ from hc.number false f.top (Nat.le_refl _)]

/-! ### Which rounding overflows -/

/-- Overflow, judged by the rounding with an unbounded exponent (R52). -/
def Overflows (f : Fmt) (mode : RMode) (neg : Bool) (X : ℚ) : Prop :=
  (mode = .rne ∧ (f.mag f.top + f.mag (f.top + 1) < 2 * X ∨ (2 * X = f.mag f.top + f.mag (f.top + 1) ∧ f.top % 2 = 1))) ∨
    (Away mode neg ∧ f.mag f.top < X) ∨ f.mag (f.top + 1) ≤ X

theorem Between.exact_not_up (h : Between f mode neg X draw c0 up) (hx : X = f.mag c0) : up = false := by
  refine Bool.eq_false_iff.mpr fun hu => ?_
  have hlt := (mag_strictMono f) (Nat.lt_succ_self c0)
  have hu := h.up.mp hu
  unfold CodeUp at hu
  cases mode with
  | rne => rcases hu with hu | ⟨hu, _⟩ <;> linarith
  | rz => exact hu
  | rd => exact hu.2 hx
  | ru => exact hu.2 hx
  | sr =>
    dsimp only at hu
    rw [hx, sub_self, zero_div, zero_mul, Nat.floor_zero] at hu
    exact Nat.not_lt_zero _ hu

/-- When a mode other than SR goes to the next code. -/
theorem codeUp_iff (hsr : mode ≠ .sr) : CodeUp f mode neg X c0 draw ↔
    (mode = .rne ∧ (f.mag c0 + f.mag (c0 + 1) < 2 * X ∨ (f.mag c0 + f.mag (c0 + 1) = 2 * X ∧ c0 % 2 = 1))) ∨
      (Away mode neg ∧ X ≠ f.mag c0) := by
  unfold CodeUp Away
  cases mode <;> simp at hsr ⊢

theorem overflows_iff (hsr : mode ≠ .sr) (h : Between f mode neg X draw c0 up) :
    f.top < (if up then c0 + 1 else c0) ↔ Overflows f mode neg X := by
  have hmono := mag_strictMono f
  have hle := h.le
  have hlt := h.lt
  unfold Overflows
  rcases lt_trichotomy f.top c0 with hc | hc | hc
  · have : f.mag (f.top + 1) ≤ f.mag c0 := hmono.monotone hc
    refine ⟨fun _ => .inr (.inr (this.trans hle)), fun _ => ?_⟩
    split <;> omega
  · subst hc
    have hup := h.up
    rw [codeUp_iff hsr] at hup
    have : f.top < (if up then f.top + 1 else f.top) ↔ up = true := by cases up <;> simp
    rw [this, hup]
    constructor
    · rintro (⟨hr, hu⟩ | ⟨ha, hx⟩)
      · exact .inl ⟨hr, hu.imp_right fun h => ⟨h.1.symm, h.2⟩⟩
      · exact .inr (.inl ⟨ha, lt_of_le_of_ne hle (Ne.symm hx)⟩)
    · rintro (⟨hr, hu⟩ | ⟨ha, hx⟩ | hx)
      · exact .inl ⟨hr, hu.imp_right fun h => ⟨h.1.symm, h.2⟩⟩
      · exact .inr ⟨ha, hx.ne'⟩
      · exact absurd hlt (not_lt.mpr hx)
  · have hb : f.mag (c0 + 1) ≤ f.mag f.top := hmono.monotone hc
    have hs := hmono (Nat.lt_succ_self f.top)
    refine ⟨fun hu => ?_, ?_⟩
    · exfalso
      split at hu <;> omega
    · rintro (⟨_, hu | ⟨hu, _⟩⟩ | ⟨_, hx⟩ | hx) <;> linarith

theorem overflow_eq (hsr : mode ≠ .sr) : f.overflow mode neg =
    f.signed neg (f.top + @ite _ (f.kind = .ieee ∧ (mode = .rne ∨ Away mode neg)) (Classical.propDecidable _) 1 0) := by
  unfold Fmt.overflow Fmt.infinity Away
  cases hk : f.kind <;> cases mode <;> cases neg <;> simp at hsr ⊢

/-! ### The nearest and the neighbours in a direction -/

/-- No number of a format lies between a code and the next one, whatever its sign. -/
theorem no_code_between (f : Fmt) (c0 : Nat) (n : Bool) (c : Nat) :
    withSign n (f.mag c) ≤ f.mag c0 ∨ f.mag (c0 + 1) ≤ withSign n (f.mag c) := by
  cases n
  · rcases Nat.lt_or_ge c0 c with hc | hc
    · exact .inr ((mag_strictMono f).monotone hc)
    · exact .inl ((mag_strictMono f).monotone hc)
  · exact .inl (le_trans (neg_nonpos.mpr (mag_nonneg f c)) (mag_nonneg f c0))

theorem withSign_mul (neg n : Bool) (X : ℚ) : withSign neg (withSign n X) = withSign (neg != n) X := by
  cases neg <;> cases n <;> simp [withSign]

/-- What a mode asks of the number that it rounds to, among those that a format has. -/
def Chosen (mode : RMode) (x y z : ℚ) (even : Prop) : Prop :=
  match mode with
  | .rne => |x - y| ≤ |x - z| ∧ (|x - z| = |x - y| → z ≠ y → even)
  | .rz => |y| ≤ |x| ∧ (|z| ≤ |x| → |z| ≤ |y|)
  | .rd => y ≤ x ∧ (z ≤ x → z ≤ y)
  | .ru => x ≤ y ∧ (x ≤ z → y ≤ z)
  | .sr => True

theorem abs_sub_withSign (neg : Bool) (a b : ℚ) : |withSign neg a - withSign neg b| = |a - b| := by
  cases neg
  · rfl
  · show |-a - -b| = _
    rw [neg_sub_neg, abs_sub_comm]

variable {w : ℚ}

/-- Rounding toward zero takes the greatest number that is not above. -/
theorem toward_chosen (hle : f.mag c0 ≤ X) (hlt : X < f.mag (c0 + 1)) (hw : w ≤ f.mag c0 ∨ f.mag (c0 + 1) ≤ w) (hu : up = false) :
    f.mag (if up then c0 + 1 else c0) ≤ X ∧ (w ≤ X → w ≤ f.mag (if up then c0 + 1 else c0)) := by
  rw [hu, if_neg Bool.false_ne_true]
  exact ⟨hle, fun h => hw.resolve_right fun hge => by linarith⟩

/-- Rounding away from zero takes the least number that is not below. -/
theorem away_chosen (hle : f.mag c0 ≤ X) (hlt : X < f.mag (c0 + 1)) (hw : w ≤ f.mag c0 ∨ f.mag (c0 + 1) ≤ w)
    (hu : up = true ↔ X ≠ f.mag c0) :
    X ≤ f.mag (if up then c0 + 1 else c0) ∧ (X ≤ w → f.mag (if up then c0 + 1 else c0) ≤ w) := by
  by_cases hx : X = f.mag c0
  · rw [if_neg fun h => hu.mp h hx, hx]
    exact ⟨le_refl _, id⟩
  · rw [if_pos (hu.mpr hx)]
    have : f.mag c0 < X := lt_of_le_of_ne hle (Ne.symm hx)
    exact ⟨hlt.le, fun h => hw.resolve_left fun hl => by linarith⟩

/-- RNE takes a nearest number, and the even code of two as near. -/
theorem nearest_chosen (hle : f.mag c0 ≤ X) (hlt : X < f.mag (c0 + 1)) (hw : w ≤ f.mag c0 ∨ f.mag (c0 + 1) ≤ w)
    (hu : up = true ↔ f.mag c0 + f.mag (c0 + 1) < 2 * X ∨ (f.mag c0 + f.mag (c0 + 1) = 2 * X ∧ c0 % 2 = 1)) :
    |X - f.mag (if up then c0 + 1 else c0)| ≤ |X - w| ∧
      (|X - w| = |X - f.mag (if up then c0 + 1 else c0)| → w ≠ f.mag (if up then c0 + 1 else c0) →
        (if up then c0 + 1 else c0) % 2 = 0) := by
  have hdist : (w ≤ f.mag c0 → |X - w| = X - w) ∧ (f.mag (c0 + 1) ≤ w → |X - w| = w - X) :=
    ⟨fun h => abs_of_nonneg (by linarith), fun h => by rw [abs_of_nonpos (by linarith)]; ring⟩
  cases up with
  | false =>
    have hn : ¬(f.mag c0 + f.mag (c0 + 1) < 2 * X ∨ (f.mag c0 + f.mag (c0 + 1) = 2 * X ∧ c0 % 2 = 1)) :=
      fun h => Bool.false_ne_true (hu.mpr h)
    rw [not_or] at hn
    obtain ⟨h1, h2⟩ := hn
    rw [if_neg Bool.false_ne_true, abs_of_nonneg (sub_nonneg.mpr hle)]
    rcases hw with hw | hw
    · rw [hdist.1 hw]
      exact ⟨by linarith, fun h hne => absurd (by linarith) hne⟩
    · rw [hdist.2 hw]
      refine ⟨by linarith, fun h _ => ?_⟩
      have : ¬c0 % 2 = 1 := fun ho => h2 ⟨by linarith, ho⟩
      omega
  | true =>
    have hge := hu.mp rfl
    have hge' : f.mag c0 + f.mag (c0 + 1) ≤ 2 * X := hge.elim le_of_lt fun h => h.1.le
    have hb : |X - f.mag (c0 + 1)| = f.mag (c0 + 1) - X := by rw [abs_of_neg (by linarith)]; ring
    rw [if_pos rfl, hb]
    rcases hw with hw | hw
    · rw [hdist.1 hw]
      refine ⟨by linarith, fun h _ => ?_⟩
      have : c0 % 2 = 1 := (hge.resolve_left fun h' => by linarith).2
      omega
    · rw [hdist.2 hw]
      exact ⟨by linarith, fun h hne => absurd (by linarith) hne⟩

theorem between_chosen (hX : 0 ≤ X) (h : Between f mode neg X draw c0 up) (n : Bool) (c : Nat) :
    Chosen mode (withSign neg X) (withSign neg (f.mag (if up then c0 + 1 else c0))) (withSign n (f.mag c))
      ((if up then c0 + 1 else c0) % 2 = 0) := by
  have hle := h.le
  have hlt := h.lt
  have hup := h.up
  have hex := h.exact_not_up
  -- the other number, seen from the sign of the rounded one
  obtain ⟨w, hw, hz⟩ : ∃ w, (w ≤ f.mag c0 ∨ f.mag (c0 + 1) ≤ w) ∧ withSign n (f.mag c) = withSign neg w := by
    refine ⟨withSign (neg != n) (f.mag c), no_code_between f c0 _ c, ?_⟩
    rw [withSign_mul]
    cases neg <;> cases n <;> rfl
  have habs := no_code_between f c0 false c
  rw [show withSign false (f.mag c) = f.mag c from rfl] at habs
  have hc := mag_nonneg f c
  unfold Chosen
  cases mode with
  | sr => trivial
  | rz =>
    have hu : up = false := Bool.eq_false_iff.mpr fun hu => hup.mp hu
    dsimp only
    rw [abs_withSign (mag_nonneg f _), abs_withSign hX, abs_withSign hc, hu, if_neg Bool.false_ne_true]
    refine ⟨hle, fun hcx => habs.resolve_right fun hge => ?_⟩
    linarith
  | rd =>
    have hu : up = true ↔ neg = true ∧ X ≠ f.mag c0 := hup
    dsimp only
    rw [hz]
    cases neg
    · exact toward_chosen hle hlt hw (Bool.eq_false_iff.mpr fun h => Bool.false_ne_true (hu.mp h).1)
    · obtain ⟨h1, h2⟩ := away_chosen hle hlt hw (hu.trans (and_iff_right rfl))
      exact ⟨neg_le_neg h1, fun h => neg_le_neg (h2 (neg_le_neg_iff.mp h))⟩
  | ru =>
    have hu : up = true ↔ neg = false ∧ X ≠ f.mag c0 := hup
    dsimp only
    rw [hz]
    cases neg
    · exact away_chosen hle hlt hw (hu.trans (and_iff_right rfl))
    · obtain ⟨h1, h2⟩ := toward_chosen hle hlt hw (Bool.eq_false_iff.mpr fun h => absurd (hu.mp h).1.symm Bool.false_ne_true)
      exact ⟨neg_le_neg h1, fun h => neg_le_neg (h2 (neg_le_neg_iff.mp h))⟩
  | rne =>
    have hu : up = true ↔ f.mag c0 + f.mag (c0 + 1) < 2 * X ∨ (f.mag c0 + f.mag (c0 + 1) = 2 * X ∧ c0 % 2 = 1) := hup
    dsimp only
    rw [hz, abs_sub_withSign, abs_sub_withSign]
    obtain ⟨h1, h2⟩ := nearest_chosen hle hlt hw hu
    exact ⟨h1, fun h hne => h2 h fun he => hne (by rw [he])⟩

/-! ### The rounding of a magnitude -/

theorem flags_eq (ti ne : Bool) : flagIf ne flagNX ||| flagIf (ti && ne) flagUF = if ne then flagNX ||| flagIf ti flagUF else 0 := by
  cases ti <;> cases ne <;> rfl

theorem signed_even (hc : f.Coded) (neg : Bool) (c : Nat) : f.signed neg c % 2 = c % 2 := by
  have := hc.even
  unfold Fmt.signed
  split <;> omega

theorem withSign_inj {a b : ℚ} (h : withSign neg a = withSign neg b) : a = b := by
  cases neg
  · exact h
  · exact neg_injective h

theorem Between.value_eq_iff (h : Between f mode neg X draw c0 up) : f.mag (if up then c0 + 1 else c0) = X ↔ X = f.mag c0 := by
  constructor
  · intro he
    cases up with
    | false => exact he.symm
    | true => exact absurd h.lt (not_lt.mpr he.le)
  · intro he
    rw [h.exact_not_up he]
    exact he.symm

/-- A magnitude rounded to a format is its number rounded once. -/
theorem round_rounds {sticky : Bool} (hc : f.Coded) (hsr : mode ≠ .sr) (h : Holds X m e sticky) (hm : 0 < m)
    (hsq : sticky = true → e < topExp m e - f.frac) : Rounds f mode (withSign neg X) (f.round mode neg m e sticky draw) := by
  have hX : 0 < X := lt_of_lt_of_le (two_zpow_pos _) (topExp_spec h hm).1
  obtain ⟨c0, up, hb, hr⟩ := roundIn_between (mode := mode) (neg := neg) (draw := draw) hc.frac h hm hsq (fun h => absurd h hsr)
  rw [round_eq hsr, hr]
  have hover := overflows_iff hsr hb
  have hulp := ulp_eq hc
  have hstep := mag_strictMono f (Nat.lt_succ_self f.top)
  unfold Rounds
  intro largest away overflows normal least tiny
  have haway : away ↔ Away mode neg := away_withSign hX
  have hlargest : largest = f.mag f.top := largest_eq hc
  have habs : |withSign neg X| = X := abs_withSign hX.le
  have hoverflows : overflows ↔ Overflows f mode neg X := by
    show (if _ then _ else _) ↔ _
    rw [habs, hlargest]
    unfold Overflows
    split
    next hm =>
      have hna : ¬Away mode neg := by
        rw [hm]
        rintro (⟨h, _⟩ | ⟨h, _⟩) <;> exact absurd h nofun
      constructor
      · rintro (h | ⟨h, ho⟩)
        · exact .inl ⟨hm, .inl (by linarith)⟩
        · exact .inl ⟨hm, .inr ⟨by linarith, ho⟩⟩
      · rintro (⟨_, h | ⟨h, ho⟩⟩ | ⟨h, _⟩ | h)
        · exact .inl (by linarith)
        · exact .inr ⟨by linarith, ho⟩
        · exact absurd h hna
        · exact .inl (by linarith)
    next hm =>
      split
      next ha =>
        refine ⟨fun h => .inr (.inl ⟨haway.mp ha, h⟩), ?_⟩
        rintro (⟨h, _⟩ | ⟨_, h⟩ | h)
        · exact absurd h hm
        · exact h
        · linarith
      next ha =>
        refine ⟨fun h => .inr (.inr (by linarith)), ?_⟩
        rintro (⟨h, _⟩ | ⟨h, _⟩ | h)
        · exact absurd h hm
        · exact absurd (haway.mpr h) ha
        · linarith
  have htiny : tiny ↔ Tiny f mode neg X := by
    show (if _ then _ else _) ↔ _
    rw [habs]
    unfold Tiny
    split
    next hm => exact ⟨fun h => ⟨fun _ => h, fun h => absurd hm h, fun h => absurd hm h⟩, fun h => h.1 hm⟩
    next hm =>
      split
      next ha => exact ⟨fun h => ⟨fun h => absurd h hm, fun _ _ => h, fun _ h => absurd (haway.mp ha) h⟩, fun h => h.2.1 hm (haway.mp ha)⟩
      next ha => exact ⟨fun h => ⟨fun h => absurd h hm, fun _ h => absurd (haway.mpr h) ha, fun _ _ => h⟩,
          fun h => h.2.2 hm fun h => ha (haway.mpr h)⟩
  rw [withSign_lt hX]
  refine ⟨fun ho => ?_, fun ho => ?_⟩
  · rw [if_pos (hover.mpr (hoverflows.mp ho)), overflow_eq hsr]
    congr 3
    refine ite_congr ?_ (fun _ => rfl) fun _ => rfl
    rw [haway]
  · have hno := mt hover.mp (mt hoverflows.mpr ho)
    have hle : (if up then c0 + 1 else c0) ≤ f.top := not_lt.mp hno
    rw [if_neg hno]
    refine ⟨hc.sign _ _ (Nat.lt_of_le_of_lt hle hc.top), withSign neg (f.mag (if up then c0 + 1 else c0)), ofCode_signed hc hle, ?_,
      fun c z hz => ?_⟩
    · have hval : (withSign neg (f.mag (if up then c0 + 1 else c0)) = withSign neg X) ↔ X = f.mag c0 :=
        ⟨fun h => hb.value_eq_iff.mp (withSign_inj h), fun h => by rw [hb.value_eq_iff.mpr h]⟩
      have hti : isTiny f mode neg m e sticky draw = decide tiny := by
        rw [Bool.eq_iff_iff, decide_eq_true_eq, htiny]
        exact isTiny_iff hc.frac h hm hsq hsr
      dsimp only
      rw [flags_eq, hti]
      by_cases hx : X = f.mag c0
      · rw [if_pos (hval.mpr hx), if_neg (by rw [decide_eq_true_eq]; exact not_not.mpr hx)]
      · rw [if_neg (mt hval.mp hx), if_pos (decide_eq_true hx)]
    · obtain ⟨n, c', _, _, rfl⟩ := ofCode_cases hc hz
      have := between_chosen hX.le hb n c'
      rw [← signed_even hc neg] at this
      exact this

end

end Sys2Proof.Machine
end

section
/-! SUPPORT. sums, products and quotients as exact results rounded once (R52, R58). -/

namespace Sys2Proof.Machine

section
variable {f : Fmt} {X x : ℚ} {m c draw : Nat} {e : Int} {mode : RMode} {neg : Bool}

theorem holds_exact (m : Nat) (e : Int) : Holds (m * 2 ^ e) m e false where
  le := le_refl _
  lt := mul_lt_mul_of_pos_right (lt_add_one _) (two_zpow_pos e)
  sticky := ⟨fun h => absurd h Bool.false_ne_true, fun h => absurd rfl h⟩

theorem round_exact (hc : f.Coded) (hsr : mode ≠ .sr) (hm : 0 < m) :
    Rounds f mode (FVal.num neg m e).real (f.round mode neg m e false draw) := by
  rw [real_num]
  exact round_rounds hc hsr (holds_exact m e) hm fun h => absurd h Bool.false_ne_true

/-! ## Stochastic rounding (R53) -/

theorem between_unique {c c' d d' : Nat} {mode' : RMode} {u u' : Bool} (h : Between f mode neg X d c u) (h' : Between f mode' neg X d' c' u') :
    c = c' := by
  have h1 : c < c' + 1 := (mag_strictMono f).lt_iff_lt.mp (h.le.trans_lt h'.lt)
  have h2 : c' < c + 1 := (mag_strictMono f).lt_iff_lt.mp (h'.le.trans_lt h.lt)
  omega

/-- Above the largest finite value stochastic rounding is RNE. -/
theorem round_sr_above (hc : f.Coded) (h : f.mag f.top < m * 2 ^ e) :
    (f.round .sr neg m e false draw).1 = (f.round .rne neg m e false 0).1 := by
  rw [round_sr hc, if_pos h, round_eq (mode := .rne) nofun]
  rfl

/-- Up to the largest finite value it takes the neighbour away from zero when its draw is below the fraction of 65536. -/
theorem round_sr_within {lo hi : ℚ} (hc : f.Coded) (hm : 0 < m) (h : m * 2 ^ e ≤ f.mag f.top)
    (hlo : OfCode f (f.round .rz neg m e false 0).1 lo) :
    (withSign neg (m * 2 ^ e) = lo → (f.round .sr neg m e false draw).1 = (f.round .rz neg m e false 0).1) ∧
    (withSign neg (m * 2 ^ e) ≠ lo → OfCode f ((f.round .rz neg m e false 0).1 + 1) hi → (f.round .sr neg m e false draw).1 =
      (f.round .rz neg m e false 0).1 +
        if draw < ⌊(|withSign neg (m * 2 ^ e)| - |lo|) / (|hi| - |lo|) * 65536⌋₊ then 1 else 0) := by
  have hX : (0 : ℚ) < m * 2 ^ e := mul_pos (by exact_mod_cast hm) (two_zpow_pos e)
  have hmono := mag_strictMono f
  obtain ⟨c0, up, hb, hr⟩ := roundIn_between (mode := .sr) (neg := neg) (draw := draw) hc.frac (holds_exact m e) hm
    (fun h => absurd h Bool.false_ne_true) fun _ => rfl
  obtain ⟨c1, up1, hb1, hr1⟩ := roundIn_between (mode := .rz) (neg := neg) (draw := 0) hc.frac (holds_exact m e) hm
    (fun h => absurd h Bool.false_ne_true) fun _ => rfl
  obtain rfl := between_unique hb1 hb
  have hu1 : up1 = false := Bool.eq_false_iff.mpr fun h => hb1.up.mp h
  have hle : c1 ≤ f.top := hmono.le_iff_le.mp (hb.le.trans h)
  have hrz : (f.round .rz neg m e false 0).1 = f.signed neg c1 := by
    rw [round_eq (mode := .rz) nofun, hr1, hu1, if_neg Bool.false_ne_true, if_neg (not_lt.mpr hle)]
  have hlt : (m : ℚ) * 2 ^ e ≠ f.mag c1 → c1 < f.top := fun hne =>
    hmono.lt_iff_lt.mp ((lt_of_le_of_ne hb.le (Ne.symm hne)).trans_le h)
  have hcode : (if up then c1 + 1 else c1) ≤ f.top := by
    by_cases hx : (m : ℚ) * 2 ^ e = f.mag c1
    · rw [hb.exact_not_up hx]
      exact hle
    · have := hlt hx
      split <;> omega
  have hsr : (f.round .sr neg m e false draw).1 = f.signed neg (if up then c1 + 1 else c1) := by
    rw [round_sr hc, if_neg (not_lt.mpr h), hr, if_neg (not_lt.mpr hcode)]
  rw [hrz] at hlo ⊢
  have hlo' : lo = withSign neg (f.mag c1) := ofCode_unique hlo (ofCode_signed hc hle)
  rw [hsr]
  refine ⟨fun hx => ?_, fun hx hhi => ?_⟩
  · rw [hb.exact_not_up (withSign_inj (hx.trans hlo')), if_neg Bool.false_ne_true]
  · have hne : (m : ℚ) * 2 ^ e ≠ f.mag c1 := fun h => hx (by rw [hlo', h])
    have hsucc : f.signed neg c1 + 1 = f.signed neg (c1 + 1) := by
      unfold Fmt.signed
      split <;> omega
    have hhi' : hi = withSign neg (f.mag (c1 + 1)) := ofCode_unique (hsucc ▸ hhi) (ofCode_signed hc (hlt hne))
    have hup : up = true ↔ draw < ⌊((m : ℚ) * 2 ^ e - f.mag c1) / (f.mag (c1 + 1) - f.mag c1) * 65536⌋₊ := hb.up
    rw [hlo', hhi', abs_withSign hX.le, abs_withSign (mag_nonneg f _), abs_withSign (mag_nonneg f _)]
    cases up with
    | false => rw [if_neg fun h => Bool.false_ne_true (hup.mpr h)]; rfl
    | true => rw [if_pos (hup.mp rfl), if_pos rfl, hsucc]

/-! ## Exact sums (R52) -/

theorem minExp_le (ts : List FVal) (a : Int) : minExp ts a ≤ a ∧ ∀ n m e, FVal.num n m e ∈ ts → m ≠ 0 → minExp ts a ≤ e := by
  induction ts generalizing a with
  | nil => exact ⟨le_refl _, fun _ _ _ h => absurd h List.not_mem_nil⟩
  | cons t ts ih =>
    cases t with
    | nan s =>
      obtain ⟨h1, h2⟩ := ih a
      exact ⟨h1, fun n m e h hm => h2 n m e ((List.mem_cons.mp h).resolve_left nofun) hm⟩
    | inf s =>
      obtain ⟨h1, h2⟩ := ih a
      exact ⟨h1, fun n m e h hm => h2 n m e ((List.mem_cons.mp h).resolve_left nofun) hm⟩
    | num n m e =>
      obtain ⟨h1, h2⟩ := ih (if m = 0 then a else min a e)
      rw [minExp]
      refine ⟨h1.trans ?_, fun n' m' e' h hm => ?_⟩
      · split
        · exact le_refl _
        · exact min_le_left ..
      · rcases List.mem_cons.mp h with h | h
        · cases h
          refine h1.trans ?_
          rw [if_neg hm]
          exact min_le_right ..
        · exact h2 n' m' e' h hm

/-- All of a list's values are numbers. -/
def Numbers (ts : List FVal) : Prop := ∀ a ∈ ts, ∃ n m e, a = FVal.num n m e

theorem sumAt_real {ts : List FVal} {e0 : Int} (h : Numbers ts) (he : ∀ n m e, FVal.num n m e ∈ ts → m ≠ 0 → e0 ≤ e) :
    (sumAt e0 ts : ℚ) * 2 ^ e0 = (ts.map FVal.real).sum := by
  induction ts with
  | nil => rw [sumAt, Int.cast_zero, zero_mul, List.map_nil, List.sum_nil]
  | cons t ts ih =>
    obtain ⟨n, m, e, rfl⟩ := h t (List.mem_cons_self ..)
    have ih := ih (fun a ha => h a (List.mem_cons_of_mem _ ha)) fun n m e hm => he n m e (List.mem_cons_of_mem _ hm)
    have hscale : ((m * 2 ^ (e - e0).toNat : Nat) : ℚ) * 2 ^ e0 = m * 2 ^ e := by
      by_cases hm : m = 0
      · rw [hm, Nat.zero_mul, Nat.cast_zero, zero_mul, zero_mul]
      · obtain ⟨k, hk⟩ := Int.eq_ofNat_of_zero_le (sub_nonneg.mpr (he n m e (List.mem_cons_self ..) hm))
        rw [hk, Int.toNat_natCast, show e = e0 + (k : Int) by omega, two_zpow_add_nat]
        push_cast
        ring
    rw [sumAt, List.map_cons, List.sum_cons, ← ih, real_num, ← hscale]
    unfold withSign
    cases n
    · rw [if_neg Bool.false_ne_true, if_neg Bool.false_ne_true]
      push_cast
      ring
    · rw [if_pos rfl, if_pos rfl]
      push_cast
      ring

theorem not_any_numbers {ts : List FVal} (h : Numbers ts) {p : FVal → Bool} (hp : ∀ n m e, p (.num n m e) = false) : ts.any p = false := by
  rw [List.any_eq_false]
  intro a ha
  obtain ⟨n, m, e, rfl⟩ := h a ha
  rw [hp]
  exact Bool.false_ne_true

/-- A sum of numbers from its exact total. -/
theorem sum_numbers {ts : List FVal} (h : Numbers ts) : f.sum mode ts = (if sumAt (minExp ts 0) ts = 0 then
    (if ts.all (·.isZero true) then f.zero true else if ts.all (·.isZero false) then f.zero false else f.zero (mode == .rd), 0)
    else f.round mode (decide (sumAt (minExp ts 0) ts < 0)) (sumAt (minExp ts 0) ts).natAbs (minExp ts 0) false 0) := by
  unfold Fmt.sum
  rw [not_any_numbers (p := FVal.isNan) h fun _ _ _ => rfl, not_any_numbers (p := (·.isInf true)) h fun _ _ _ => rfl,
    not_any_numbers (p := (·.isInf false)) h fun _ _ _ => rfl]
  rfl

theorem total_real {ts : List FVal} (h : Numbers ts) : (sumAt (minExp ts 0) ts : ℚ) * 2 ^ minExp ts 0 = (ts.map FVal.real).sum :=
  sumAt_real h (minExp_le ts 0).2

theorem total_eq_zero_iff {ts : List FVal} (h : Numbers ts) : sumAt (minExp ts 0) ts = 0 ↔ (ts.map FVal.real).sum = 0 := by
  rw [← total_real h, mul_eq_zero, or_iff_left (two_zpow_pos _).ne', Int.cast_eq_zero]

/-- A sum of numbers is their exact sum rounded once. -/
theorem sum_rounds {ts : List FVal} (hc : f.Coded) (hsr : mode ≠ .sr) (h : Numbers ts) (hs : (ts.map FVal.real).sum ≠ 0) :
    Rounds f mode (ts.map FVal.real).sum (f.sum mode ts) := by
  have ht : sumAt (minExp ts 0) ts ≠ 0 := mt (total_eq_zero_iff h).mp hs
  have hx : (ts.map FVal.real).sum =
      (FVal.num (decide (sumAt (minExp ts 0) ts < 0)) (sumAt (minExp ts 0) ts).natAbs (minExp ts 0)).real := by
    rw [← total_real h, real_num]
    generalize sumAt (minExp ts 0) ts = k
    unfold withSign
    by_cases hk : k < 0
    · rw [decide_eq_true hk, if_pos rfl, Nat.cast_natAbs, abs_of_neg hk]
      push_cast
      ring
    · rw [decide_eq_false hk, if_neg Bool.false_ne_true, Nat.cast_natAbs, abs_of_nonneg (not_lt.mp hk)]
  rw [sum_numbers h, if_neg ht, hx]
  exact round_exact hc hsr (Int.natAbs_pos.mpr ht)

/-- An exact sum of zero is the zero of its terms' one sign, or else by mode. -/
theorem sum_zero {ts : List FVal} (h : Numbers ts) (hs : (ts.map FVal.real).sum = 0) (hne : ts ≠ []) :
    (∀ n, (∀ a ∈ ts, ∃ e, a = .num n 0 e) → f.sum mode ts = (f.zero n, 0)) ∧
      ((∀ n, ¬∀ a ∈ ts, ∃ e, a = .num n 0 e) → f.sum mode ts = (f.zero (mode == .rd), 0)) := by
  have hall : ∀ n, ts.all (·.isZero n) = true ↔ ∀ a ∈ ts, ∃ e, a = FVal.num n 0 e := fun n => by
    rw [List.all_eq_true]
    refine forall₂_congr fun a ha => ?_
    obtain ⟨k, m, e, rfl⟩ := h a ha
    simp only [FVal.isZero, Bool.and_eq_true, beq_iff_eq, FVal.num.injEq]
    exact ⟨fun ⟨h1, h2⟩ => ⟨e, h1, h2, rfl⟩, fun ⟨_, h1, h2, _⟩ => ⟨h1, h2⟩⟩
  rw [sum_numbers h, if_pos ((total_eq_zero_iff h).mpr hs)]
  refine ⟨fun n hn => ?_, fun hn => ?_⟩
  · cases n with
    | true => rw [if_pos ((hall true).mpr hn)]
    | false =>
      have hno : ¬ts.all (·.isZero true) = true := fun ht => by
        obtain ⟨a, ha⟩ := List.exists_mem_of_ne_nil ts hne
        obtain ⟨e, rfl⟩ := hn a ha
        obtain ⟨e', he⟩ := (hall true).mp ht _ ha
        exact absurd he nofun
      rw [if_neg hno, if_pos ((hall false).mpr hn)]
  · rw [if_neg fun ht => hn true ((hall true).mp ht), if_neg fun ht => hn false ((hall false).mp ht)]

/-! ## Products and quotients (R58) -/

theorem real_mul (n k : Bool) (m l : Nat) (e d : Int) :
    (FVal.num n m e).real * (FVal.num k l d).real = (FVal.num (n != k) (m * l) (e + d)).real := by
  simp only [real_num, withSign, zpow_add₀ (two_ne_zero (α := ℚ)), Nat.cast_mul]
  cases n <;> cases k <;> simp <;> ring

theorem mul_numbers (n k : Bool) (m l : Nat) (e d : Int) :
    f.mul mode (.num n m e) (.num k l d) = f.ofVal mode (.num (n != k) (m * l) (e + d)) 0 := by
  unfold Fmt.mul FVal.mul
  exact Prod.ext rfl (BitVec.or_zero ..)

theorem mul_rounds (hc : f.Coded) (hsr : mode ≠ .sr) {n k : Bool} {m l : Nat} {e d : Int} (hm : 0 < m) (hl : 0 < l) :
    Rounds f mode ((FVal.num n m e).real * (FVal.num k l d).real) (f.mul mode (.num n m e) (.num k l d)) := by
  have hp : 0 < m * l := Nat.mul_pos hm hl
  rw [real_mul, mul_numbers, Fmt.ofVal, if_neg hp.ne']
  exact round_exact hc hsr hp

theorem fma_rounds (hc : f.Coded) (hsr : mode ≠ .sr) {n k : Bool} {m l : Nat} {e d : Int} {c : FVal} (hn : ∃ j p g, c = .num j p g)
    (hs : (FVal.num n m e).real * (FVal.num k l d).real + c.real ≠ 0) :
    Rounds f mode ((FVal.num n m e).real * (FVal.num k l d).real + c.real) (f.fma mode (.num n m e) (.num k l d) c) := by
  have hx : (FVal.num n m e).real * (FVal.num k l d).real + c.real =
      (([.num (n != k) (m * l) (e + d), c] : List FVal).map FVal.real).sum := by
    rw [real_mul, List.map_cons, List.map_cons, List.map_nil, List.sum_cons, List.sum_cons, List.sum_nil, add_zero]
  have hf : f.fma mode (.num n m e) (.num k l d) c = f.sum mode [.num (n != k) (m * l) (e + d), c] := by
    unfold Fmt.fma FVal.mul
    exact Prod.ext rfl (BitVec.or_zero ..)
  rw [hx] at hs
  rw [hx, hf]
  refine sum_rounds hc hsr (fun a ha => ?_) hs
  rcases List.mem_cons.mp ha with rfl | ha
  · exact ⟨_, _, _, rfl⟩
  · rw [List.mem_singleton.mp ha]
    exact hn

/-- The integer quotient of a numerator scaled by a power of two, with what it leaves. -/
theorem holds_quotient (m l sh : Nat) (e d : Int) (hl : 0 < l) :
    Holds ((m * 2 ^ e) / (l * 2 ^ d)) (m * 2 ^ sh / l) (e - d - sh) (m * 2 ^ sh % l != 0) := by
  have hl' : (0 : ℚ) < l := by exact_mod_cast hl
  have hE := two_zpow_pos (e - d - sh)
  have hx : (m * (2 : ℚ) ^ e) / (l * 2 ^ d) = ((m * 2 ^ sh : Nat) : ℚ) / l * 2 ^ (e - d - sh) := by
    have h2 : (2 : ℚ) ^ e = 2 ^ sh * 2 ^ d * 2 ^ (e - d - sh) := by
      rw [← zpow_natCast, ← zpow_add₀ (by norm_num), ← zpow_add₀ (by norm_num)]
      congr 1
      ring
    have hd := (two_zpow_pos d).ne'
    rw [h2]
    push_cast
    field_simp
  have hdm : ((m * 2 ^ sh : Nat) : ℚ) = l * (m * 2 ^ sh / l : Nat) + (m * 2 ^ sh % l : Nat) := by
    exact_mod_cast (Nat.div_add_mod (m * 2 ^ sh) l).symm
  have hr0 : (0 : ℚ) ≤ (m * 2 ^ sh % l : Nat) := Nat.cast_nonneg _
  have hrl : ((m * 2 ^ sh % l : Nat) : ℚ) < l := by exact_mod_cast Nat.mod_lt _ hl
  rw [hx, hdm]
  generalize m * 2 ^ sh / l = q at *
  generalize m * 2 ^ sh % l = r at *
  have hsplit : ((l : ℚ) * q + r) / l = q + r / l := by field_simp
  have h0 : 0 ≤ (r : ℚ) / l := div_nonneg hr0 hl'.le
  have h1 : (r : ℚ) / l < 1 := (div_lt_one hl').mpr hrl
  rw [hsplit]
  refine ⟨mul_le_mul_of_nonneg_right (by linarith) hE.le, mul_lt_mul_of_pos_right (by linarith) hE, ?_⟩
  rw [bne_iff_ne, not_iff_not, mul_left_inj' hE.ne', add_eq_left, div_eq_zero_iff, or_iff_left hl'.ne', Nat.cast_eq_zero]

theorem div_rounds (hc : f.Coded) (h160 : f.frac < 160) (hsr : mode ≠ .sr) {n k : Bool} {m l : Nat} {e d : Int} (hm : 0 < m) (hl : 0 < l) :
    Rounds f mode ((FVal.num n m e).real / (FVal.num k l d).real) (f.div mode (.num n m e) (.num k l d) 0) := by
  have hx : (FVal.num n m e).real / (FVal.num k l d).real = withSign (n != k) ((m * 2 ^ e) / (l * 2 ^ d)) := by
    simp only [real_num, withSign]
    cases n <;> cases k <;> simp [neg_div, div_neg]
  have hq : 2 ^ 160 ≤ m * 2 ^ (bitLen l + 160) / l := by
    rw [Nat.le_div_iff_mul_le hl, Nat.pow_add, ← Nat.mul_assoc, Nat.mul_comm]
    refine Nat.mul_le_mul_right _ ?_
    have hb : bitLen l = Nat.log2 l + 1 := if_neg (by omega)
    rw [hb]
    exact (Nat.lt_log2_self (n := l)).le.trans (Nat.le_mul_of_pos_left _ hm)
  have hdiv : f.div mode (.num n m e) (.num k l d) 0 = f.round mode (n != k) (m * 2 ^ (bitLen l + 160) / l) (e - d - (bitLen l + 160 : Nat))
      (m * 2 ^ (bitLen l + 160) % l != 0) 0 := by
    unfold Fmt.div
    dsimp only
    rw [if_neg hl.ne', if_neg hm.ne']
  have hlen : 160 < bitLen (m * 2 ^ (bitLen l + 160) / l) := by
    generalize m * 2 ^ (bitLen l + 160) / l = q at *
    have hb : bitLen q = Nat.log2 q + 1 := if_neg (by have := Nat.two_pow_pos 160; omega)
    rw [hb]
    exact Nat.lt_succ_of_le ((Nat.le_log2 (by have := Nat.two_pow_pos 160; omega)).mpr hq)
  rw [hx, hdiv]
  refine round_rounds hc hsr (holds_quotient m l _ e d hl) (Nat.lt_of_lt_of_le (Nat.two_pow_pos 160) hq) fun _ => ?_
  rw [topExp]
  omega

end

end Sys2Proof.Machine
end

section
/-! SUPPORT. sums, products and quotients as exact results rounded once (R52, R58). -/

namespace Sys2Proof.Machine

section
variable {f : Fmt} {mode : RMode}

/-! ## Values that are no numbers (R52, R58) -/

theorem any_isInf {ts : List FVal} {n : Bool} : ts.any (·.isInf n) = true ↔ FVal.inf n ∈ ts := by
  rw [List.any_eq_true]
  refine ⟨fun ⟨a, ha, hn⟩ => ?_, fun h => ⟨_, h, beq_self_eq_true n⟩⟩
  cases a with
  | inf k => exact beq_iff_eq.mp hn ▸ ha
  | nan _ => exact absurd hn Bool.false_ne_true
  | num _ _ _ => exact absurd hn Bool.false_ne_true

theorem not_any_isNan {ts : List FVal} (h : ∀ a ∈ ts, a.isNan = false) : ¬ts.any FVal.isNan = true := by
  rw [List.any_eq_true]
  exact fun ⟨a, ha, hn⟩ => Bool.false_ne_true ((h a ha).symm.trans hn)

/-- A sum with a NaN among its terms. -/
theorem sum_nan {ts : List FVal} (h : ∃ a ∈ ts, a.isNan = true) : f.sum mode ts = (f.nan, flagIf (ts.any FVal.signals) flagNV) := by
  unfold Fmt.sum
  rw [if_pos (List.any_eq_true.mpr h)]

/-- Infinities of both signs meet. -/
theorem sum_opposed {ts : List FVal} (h : ∀ a ∈ ts, a.isNan = false) (ht : FVal.inf true ∈ ts) (hf : FVal.inf false ∈ ts) :
    f.sum mode ts = (f.nan, flagNV) := by
  unfold Fmt.sum
  rw [if_neg (not_any_isNan h), if_pos (any_isInf.mpr hf), if_pos (any_isInf.mpr ht)]

/-- Infinities of one sign. -/
theorem sum_infinite {ts : List FVal} {n : Bool} (h : ∀ a ∈ ts, a.isNan = false) (hn : FVal.inf n ∈ ts) (ho : FVal.inf (!n) ∉ ts) :
    f.sum mode ts = (f.infinity n, 0) := by
  unfold Fmt.sum
  rw [if_neg (not_any_isNan h)]
  cases n with
  | false => rw [if_pos (any_isInf.mpr hn), if_neg (mt any_isInf.mp (show FVal.inf true ∉ ts from ho))]
  | true => rw [if_neg (mt any_isInf.mp (show FVal.inf false ∉ ts from ho)), if_pos (any_isInf.mpr hn)]

/-- A NaN rounded to a format with infinities, with the product's own flags. -/
theorem ofVal_nan (hk : f.kind = .ieee) (s : Bool) (draw : Nat) : f.ofVal mode (.nan s) draw = (f.nan, flagIf s flagNV) := by
  unfold Fmt.ofVal
  dsimp only
  rw [hk, show (FKind.ieee == FKind.finite) = false from rfl, Bool.or_false]

theorem ofVal_inf (hk : f.kind = .ieee) (n : Bool) (draw : Nat) : f.ofVal mode (.inf n) draw = (f.infinity n, 0) := by
  unfold Fmt.ofVal
  dsimp only
  rw [hk]

/-- A product that is a NaN, or is given with one. -/
theorem mul_of_nan {a b : FVal} {s : Bool} {g : FFlags} (hk : f.kind = .ieee) (h : a.mul b = (.nan s, g)) :
    f.mul mode a b = (f.nan, flagIf s flagNV ||| g) := by
  unfold Fmt.mul
  dsimp only
  rw [h, ofVal_nan hk]

theorem mul_of_inf {a b : FVal} {n : Bool} (hk : f.kind = .ieee) (h : a.mul b = (.inf n, 0)) : f.mul mode a b = (f.infinity n, 0) := by
  unfold Fmt.mul
  dsimp only
  rw [h, ofVal_inf hk]
  exact Prod.ext rfl (BitVec.or_zero ..)

theorem nan_mul_real (s : Bool) (b : FVal) : (FVal.nan s).mul b = (.nan (s || b.signals), flagIf (s || b.signals) flagNV) := by
  cases b with
  | nan t => rfl
  | inf k => rw [show (FVal.inf k).signals = false from rfl, Bool.or_false]; rfl
  | num k m e => rw [show (FVal.num k m e).signals = false from rfl, Bool.or_false]; rfl

theorem mul_nan_real (s : Bool) (b : FVal) : b.mul (.nan s) = (.nan (s || b.signals), flagIf (s || b.signals) flagNV) := by
  cases b with
  | nan t => rw [show (FVal.nan t).signals = t from rfl, Bool.or_comm]; rfl
  | inf k => rw [show (FVal.inf k).signals = false from rfl, Bool.or_false]; rfl
  | num k m e => rw [show (FVal.num k m e).signals = false from rfl, Bool.or_false]; rfl

/-- A NaN operand of a product. -/
theorem mul_nan (hk : f.kind = .ieee) (s : Bool) (b : FVal) : f.mul mode (.nan s) b = (f.nan, flagIf (s || b.signals) flagNV) ∧
    f.mul mode b (.nan s) = (f.nan, flagIf (s || b.signals) flagNV) := by
  rw [mul_of_nan hk (nan_mul_real s b), mul_of_nan hk (mul_nan_real s b), BitVec.or_self]
  exact ⟨rfl, rfl⟩

/-- A NaN operand of a quotient. -/
theorem div_nan (s : Bool) (b : FVal) : f.div mode (.nan s) b 0 = (f.nan, flagIf (s || b.signals) flagNV) ∧
    f.div mode b (.nan s) 0 = (f.nan, flagIf (s || b.signals) flagNV) := by
  cases b with
  | nan t => exact ⟨rfl, by rw [show (FVal.nan t).signals = t from rfl, Bool.or_comm]; rfl⟩
  | inf k => rw [show (FVal.inf k).signals = false from rfl, Bool.or_false]; exact ⟨rfl, rfl⟩
  | num k m e => rw [show (FVal.num k m e).signals = false from rfl, Bool.or_false]; exact ⟨rfl, rfl⟩

/-- A zero operand of a product of numbers. -/
theorem mul_zero_number (n k : Bool) {m l : Nat} (e d : Int) (h : m = 0 ∨ l = 0) :
    f.mul mode (.num n m e) (.num k l d) = (f.zero (n != k), 0) := by
  rw [mul_numbers, Fmt.ofVal, if_pos (Nat.mul_eq_zero.mpr h)]

/-- An infinity times a number. -/
theorem inf_mul_number (hk : f.kind = .ieee) (n k : Bool) (l : Nat) (d : Int) :
    (l = 0 → f.mul mode (.inf n) (.num k l d) = (f.nan, flagNV)) ∧
      (0 < l → f.mul mode (.inf n) (.num k l d) = (f.infinity (n != k), 0)) := by
  have hp : (FVal.inf n).mul (.num k l d) = if l = 0 then (.nan false, flagNV) else (.inf (n != k), 0) := rfl
  refine ⟨fun h => ?_, fun h => ?_⟩
  · rw [if_pos h] at hp
    exact (mul_of_nan hk hp).trans (Prod.ext rfl (BitVec.zero_or ..))
  · rw [if_neg h.ne'] at hp
    exact mul_of_inf hk hp

/-- The quotients of numbers that are not rounded. -/
theorem div_special (n k : Bool) (m l : Nat) (e d : Int) :
    (0 < m → l = 0 → f.div mode (.num n m e) (.num k l d) 0 = (f.infinity (n != k), flagDZ)) ∧
      (m = 0 → l = 0 → f.div mode (.num n m e) (.num k l d) 0 = (f.nan, flagNV)) ∧
      (m = 0 → 0 < l → f.div mode (.num n m e) (.num k l d) 0 = (f.zero (n != k), 0)) := by
  unfold Fmt.div
  dsimp only
  exact ⟨fun hm hl => by rw [if_pos hl, if_neg hm.ne'], fun hm hl => by rw [if_pos hl, if_pos hm],
    fun hm hl => by rw [if_neg hl.ne', if_pos hm]⟩

/-- A stochastic rounding under its draw, by the truncated result and its neighbour. -/
theorem round_stochastic (hc : f.Coded) (neg : Bool) {m : Nat} (e : Int) (hm : 0 < m) (draw : Nat) :
    ((f.decode f.top).real < |(FVal.num neg m e).real| →
      (f.round .sr neg m e false draw).1 = (f.round .rne neg m e false 0).1) ∧
    (|(FVal.num neg m e).real| ≤ (f.decode f.top).real → ∀ lo hi, OfCode f (f.round .rz neg m e false 0).1 lo →
      ((FVal.num neg m e).real = lo → (f.round .sr neg m e false draw).1 = (f.round .rz neg m e false 0).1) ∧
      ((FVal.num neg m e).real ≠ lo → OfCode f ((f.round .rz neg m e false 0).1 + 1) hi → (f.round .sr neg m e false draw).1 =
        (f.round .rz neg m e false 0).1 +
          if draw < ⌊(|(FVal.num neg m e).real| - |lo|) / (|hi| - |lo|) * 65536⌋₊ then 1 else 0)) := by
  have hX : (0 : ℚ) ≤ m * 2 ^ e := mul_nonneg (Nat.cast_nonneg _) (two_zpow_pos e).le
  rw [real_num, largest_eq hc]
  refine ⟨fun h => round_sr_above hc (abs_withSign hX ▸ h), fun h lo hi hlo => ?_⟩
  exact round_sr_within hc hm (abs_withSign hX ▸ h) hlo

/-- The formats of clauses on sums, products and quotients have infinities, and quotients take more bits than they keep. -/
theorem wide_formats {f : Fmt} (hf : f ∈ [f64, f32, f16, bf16]) : f.Coded ∧ f.kind = .ieee ∧ f.frac < 160 := by
  have hc : f.Coded := (shaped_formats f (List.mem_append_left [e5m2, e4m3, e2m1] hf)).coded
  simp only [List.mem_cons, List.not_mem_nil, or_false] at hf
  obtain rfl | rfl | rfl | rfl := hf
  · exact ⟨hc, rfl, by decide⟩
  · exact ⟨hc, rfl, by decide⟩
  · exact ⟨hc, rfl, by decide⟩
  · exact ⟨hc, rfl, by decide⟩

end

end Sys2Proof.Machine
end

section
/-! SUPPORT. The statements settled: sums, products and quotients as exact results rounded once (R52, R58). -/

namespace Sys2Proof.Proofs
open Sys2Proof.Machine

/-- Settles O60: the codes of a format are the magnitudes in order, a rounding takes one of the two around the exact
value, and sums, products and quotients give their exact value to it. -/
theorem roundingIsExact : Obligations.RoundingIsExact := by
  unfold Obligations.RoundingIsExact
  intro val ofCode largest ulp rounds wide
  refine ⟨fun f hf neg m e hm => ?_, fun f hf mode s n draw => ?_, fun f hf mode hsr => ?_⟩
  · have hc := (shaped_formats f hf).coded
    exact ⟨fun mode hsr => ⟨round_exact hc hsr hm, if_neg hm.ne'⟩, round_stochastic hc neg e hm⟩
  · refine ⟨rfl, ?_⟩
    unfold Fmt.ofVal Fmt.infinity
    dsimp only
    cases hk : f.kind <;> rfl
  · obtain ⟨hc, hk, h160⟩ := wide_formats hf
    refine ⟨fun ts => ⟨sum_nan, sum_opposed, fun _ => sum_infinite, fun h => ⟨sum_rounds hc hsr h, sum_zero h⟩⟩,
      fun n k m l e d => ?_, fun s b => ?_⟩
    · obtain ⟨hdz, hnv, hz⟩ := div_special (f := f) (mode := mode) n k m l e d
      obtain ⟨hnan, hinf⟩ := inf_mul_number (mode := mode) hk n k l d
      exact ⟨fun hm hl => ⟨mul_rounds hc hsr hm hl, div_rounds hc h160 hsr hm hl⟩, mul_zero_number n k e d,
        fun _ => fma_rounds hc hsr, hdz, hnv, hz, rfl, rfl, rfl, mul_of_inf hk rfl, hnan, hinf⟩
    · obtain ⟨h1, h2⟩ := mul_nan (mode := mode) hk s b
      obtain ⟨h3, h4⟩ := div_nan (f := f) (mode := mode) s b
      exact ⟨h1, h2, h3, h4⟩

end Sys2Proof.Proofs
end

section
/-! SUPPORT. link requests, tickets, notes and queries (R349, R355, R356, R360 to R363). -/

namespace Sys2Proof.Machine

section
variable {s : State} {r : UaReq}

/-! ## UALink requests of a peer (R349, R355) -/

/-- The answer to a UALink request. -/
def State.answered (s t : State) (r : UaReq) (v : Nat) (e : Option Cause) : State :=
  { t with uaDone := s.uaDone ++ [⟨r.chip, r.tag, BitVec.ofNat 64 v, e⟩] }

/-- What a request does at the bytes of its window. -/
def State.uaPerformed (s : State) (r : UaReq) (k : Nat) (f : UaReq → Nat → Nat → Option Nat) : State :=
  match f r (s.loadAt (.ls k r.off) r.bytes) (r.data.toNat % 2 ^ (8 * r.bytes)) with
  | some v => s.answered (s.storeAt (.ls k r.off) r.bytes v) r (s.loadAt (.ls k r.off) r.bytes) none
  | none => s.answered s r (s.loadAt (.ls k r.off) r.bytes) none

section
variable {ok : UaKind → Bool} {f : UaReq → Nat → Nat → Option Nat}

theorem ualink_unlinked (h : s.linked = false) : ualink ok f r s = .next s :=
  event_false (by rw [h, Bool.and_false, Bool.false_and]) ..

theorem ualink_gone (h : ((s.ctxAt r.ctx).session r.chip).state = .gone) : ualink ok f r s = .next s :=
  event_false (by rw [h]; exact Bool.and_false _) ..

theorem ualink_enabled (hk : ok r.kind = true) (hl : s.linked = true) (hg : ((s.ctxAt r.ctx).session r.chip).state ≠ .gone) :
    (ok r.kind && s.linked && ((s.ctxAt r.ctx).session r.chip).state != .gone) = true := by
  rw [hk, hl, bne_iff_ne.mpr hg]
  rfl

/-- Without an OPEN session, or at the message window, a request is answered with an error. -/
theorem ualink_refused (hk : ok r.kind = true) (hl : s.linked = true)
    (h : ((s.ctxAt r.ctx).session r.chip).state = .closed ∨
      (((s.ctxAt r.ctx).session r.chip).state = .opened ∧ r.window = .message)) :
    ualink ok f r s = .next (s.answered s r 0 (some .badAddr)) := by
  have hg : ((s.ctxAt r.ctx).session r.chip).state ≠ .gone := by
    rcases h with h | h
    · rw [h]; exact nofun
    · rw [h.1]; exact nofun
  have hc : ((s.ctxAt r.ctx).session r.chip).state ≠ .opened ∨ r.window = .message :=
    h.imp (fun h => by rw [h]; exact nofun) And.right
  refine (event_true (ualink_enabled hk hl hg) ..).trans (congrArg _ ?_)
  dsimp only
  rw [if_pos hc]
  rfl

section
variable (hk : ok r.kind = true) (hl : s.linked = true) (ho : ((s.ctxAt r.ctx).session r.chip).state = .opened) (hw : r.window = .store)
include hk hl ho hw

/-- A request on an OPEN session goes to its target, which takes or refuses it. -/
theorem ualink_open : ualink ok f r s = .next (match s.landing r.ctx r.die r.core r.off r.bytes (r.kind != .read) with
    | .error e => s.answered s r 0 (some e)
    | .ok k => s.uaPerformed r k f) := by
  refine (event_true (ualink_enabled hk hl (by rw [ho]; exact nofun)) ..).trans (congrArg _ ?_)
  dsimp only
  rw [if_neg (by rw [ho, hw]; simp)]
  cases r.kind <;> rfl

theorem ualink_error {e : Cause} (h : s.landing r.ctx r.die r.core r.off r.bytes (r.kind != .read) = .error e) :
    ualink ok f r s = .next (s.answered s r 0 (some e)) := by
  rw [ualink_open hk hl ho hw, h]

theorem ualink_lands {k : Nat} (h : s.landing r.ctx r.die r.core r.off r.bytes (r.kind != .read) = .ok k) :
    ualink ok f r s = .next (s.uaPerformed r k f) := by
  rw [ualink_open hk hl ho hw, h]

end
end

theorem exec_ualinkRead : exec (.ualinkRead r) s = ualink (fun k => k == .read) (fun _ _ _ => none) r s := rfl

theorem exec_ualinkWrite : exec (.ualinkWrite r) s = ualink (fun k => k == .write) (fun _ _ v => some v) r s := rfl

/-- Whether a request is an atomic. -/
def UaKind.isAmo (k : UaKind) : Bool :=
  match k with
  | .amo _ _ => true
  | _ => false

/-- What an atomic request writes. -/
def UaReq.amoValue (r : UaReq) (old v : Nat) : Option Nat :=
  match r.kind with
  | .amo n c => some ((AmoOp.ofPos n).apply (8 * r.bytes) old v (c.toNat % 2 ^ (8 * r.bytes)))
  | _ => none

theorem exec_ualinkAtomic : exec (.ualinkAtomic r) s = ualink UaKind.isAmo UaReq.amoValue r s := rfl

/-- The three kinds of request each go by one form. -/
theorem ualinkRequests (r : UaReq) (s : State) :
    let answer := fun (t : State) (v : Nat) (e : Option Cause) => Host.Outcome.next (φ := Fault) (ρ := Refusal)
      { t with uaDone := s.uaDone ++ [⟨r.chip, r.tag, BitVec.ofNat 64 v, e⟩] }
    let m := 2 ^ (8 * r.bytes)
    let state := ((s.ctxAt r.ctx).session r.chip).state
    (s.linked = false → exec (.ualinkRead r) s = .next s ∧ exec (.ualinkWrite r) s = .next s ∧ exec (.ualinkAtomic r) s = .next s) ∧
    (s.linked = true → state = .opened → r.window = .store →
      (∀ k, s.landing r.ctx r.die r.core r.off r.bytes (r.kind != .read) = .ok k →
        let old := s.loadAt (.ls k r.off) r.bytes
        (r.kind = .read → exec (.ualinkRead r) s = answer s old none) ∧
        (r.kind = .write → exec (.ualinkWrite r) s =
          answer (s.storeAt (.ls k r.off) r.bytes (r.data.toNat % m)) old none) ∧
        (∀ n c, r.kind = .amo n c → exec (.ualinkAtomic r) s =
          answer (s.storeAt (.ls k r.off) r.bytes
            ((AmoOp.ofPos n).apply (8 * r.bytes) old (r.data.toNat % m) (c.toNat % m))) old none)) ∧
      (∀ e, s.landing r.ctx r.die r.core r.off r.bytes (r.kind != .read) = .error e →
        (r.kind = .read → exec (.ualinkRead r) s = answer s 0 (some e)) ∧
        (r.kind = .write → exec (.ualinkWrite r) s = answer s 0 (some e)) ∧
        (∀ n c, r.kind = .amo n c → exec (.ualinkAtomic r) s = answer s 0 (some e)))) ∧
    (s.linked = true → state = .closed ∨ (state = .opened ∧ r.window = .message) →
      (r.kind = .read → exec (.ualinkRead r) s = answer s 0 (some .badAddr)) ∧
      (r.kind = .write → exec (.ualinkWrite r) s = answer s 0 (some .badAddr)) ∧
      (∀ n c, r.kind = .amo n c → exec (.ualinkAtomic r) s = answer s 0 (some .badAddr))) ∧
    (state = .gone → exec (.ualinkRead r) s = .next s ∧ exec (.ualinkWrite r) s = .next s ∧
      exec (.ualinkAtomic r) s = .next s) := by
  intro answer m state
  rw [exec_ualinkRead, exec_ualinkWrite, exec_ualinkAtomic]
  refine ⟨fun h => ⟨ualink_unlinked h, ualink_unlinked h, ualink_unlinked h⟩, fun hl ho hw => ⟨fun k hk => ?_, fun e he => ?_⟩,
    fun hl h => ?_, fun h => ⟨ualink_gone h, ualink_gone h, ualink_gone h⟩⟩
  · refine ⟨fun hr => ualink_lands (by rw [hr]; rfl) hl ho hw hk, fun hr => ualink_lands (by rw [hr]; rfl) hl ho hw hk, fun n c hr => ?_⟩
    refine (ualink_lands (by rw [hr]; rfl) hl ho hw hk).trans ?_
    rw [State.uaPerformed, UaReq.amoValue, hr]
    rfl
  · exact ⟨fun hr => ualink_error (by rw [hr]; rfl) hl ho hw he, fun hr => ualink_error (by rw [hr]; rfl) hl ho hw he,
      fun n c hr => ualink_error (by rw [hr]; rfl) hl ho hw he⟩
  · exact ⟨fun hr => ualink_refused (by rw [hr]; rfl) hl h, fun hr => ualink_refused (by rw [hr]; rfl) hl h,
      fun n c hr => ualink_refused (by rw [hr]; rfl) hl h⟩

/-! ## Completions (R356) -/

/-- A completion gives its data or a report to the hart that issued the access, which is no more. -/
theorem completion_ends {d : UaDone} {o : Op} {h : HartId} {x : LoadDest} (hl : s.linked = true)
    (hr : s.uaOut.find? (fun r => r.chip == d.chip && r.tag == d.tag) = some r) (ho : s.opAt d.tag = some o)
    (hk : o.kind = .remote d.chip (some x)) (hi : o.issuer = .hart h) (hh : lookup? s.harts h.key ≠ none) :
    ∃ t, execUalinkCompletion d s = .next t ∧ t.opAt d.tag = none ∧
      (x.reg ≠ 0 → vecGet 0 (t.hart h).sregs x.reg.toNat =
        if d.err = none then extend x.bytes x.signed d.data.toNat else 0) ∧
      (t.hart h).reports = (s.hart h).reports ++ (match d.err with
        | none => []
        | some e => [⟨e, r.pointer, 0, .none, 0, true⟩]) ∧
      bitOf (t.hart h).pending x.reg.toNat = false ∧ (t.hart h).pc = (s.hart h).pc ∧ t.mem = s.mem := by
  have hid : o.id = d.tag := beq_iff_eq.mp (List.find?_some (p := fun p : Op => p.id == d.tag) ho)
  let s1 : State := { s with uaOut := s.uaOut.filter (fun q => !(q.chip == d.chip && q.tag == d.tag)) }
  have hgo : execUalinkCompletion d s = .next ((match d.err with
      | some e => (s1.deliver o.issuer x.reg (if d.err.isSome then 0 else extend x.bytes x.signed d.data.toNat)).reportOp o e r.pointer false
      | none => s1.deliver o.issuer x.reg (if d.err.isSome then 0 else extend x.bytes x.signed d.data.toNat)).endOp o) := by
    simp only [execUalinkCompletion, hr, ho, hk, hl, event, beq_self_eq_true, Bool.and_self, if_true]
    rfl
  have hdel : ∀ w, s1.deliver o.issuer x.reg w = s1.setHart h ((s.hart h).arrive x.reg w) := deliver_hart hi hh
  refine ⟨_, hgo, hid ▸ opAt_endOp .., ?_⟩
  rw [hart_endOp, mem_endOp, hdel]
  cases hd : d.err with
  | none =>
    simp only [State.hart_setHart, Option.isSome_none, Bool.false_eq_true, if_false, if_true]
    exact ⟨sregs_arrive _ _ _, (List.append_nil _).symm, bitOf_and_not_self .., rfl, rfl⟩
  | some e =>
    have hlive : lookup? (s1.setHart h ((s.hart h).arrive x.reg 0)).harts h.key ≠ none := by
      rw [State.setHart_harts, lookup?_insertKey, if_pos rfl]
      exact nofun
    simp only [Option.isSome_some, if_true, reportOp_hart hi hlive, State.hart_setHart, reduceCtorEq, if_false]
    exact ⟨sregs_arrive _ _ _, rfl, bitOf_and_not_self .., rfl, rfl⟩

end

end Sys2Proof.Machine
end

section
/-! SUPPORT. link requests, tickets, notes and queries (R349, R355, R356, R360 to R363). -/

namespace Sys2Proof.Machine

section
variable {s : State} {d a b : Reg} {h : HReg} {q : Nat}

/-! ## Issue of a bulk send (R360) -/

/-- A pointer of space 7 that passes its checks names its space. -/
theorem farPointer_space {p : Word} {n al : Nat} {y : Except PtrFault Place} (hp : farPointer p n al s = .ok y s) : ptrSpace p = 7 := by
  by_contra hne
  simp only [farPointer, run_bind, run_get, if_neg hne] at hp
  exact absurd hp nofun

/-- A destination run of this chip that takes a send passes its check. -/
theorem sendRun_ok {w : Word} {n : Nat} (hc : ptrChip w = s.chipId) (hw : runHandleOk s s.ctx w = true) (h2 : 2 ≤ handleEntry w)
    (ho : (s.ctx.run (handleEntry w)).state = .opened) (hn : n % (s.ctx.run (handleEntry w)).size = 0) :
    sendRun w n s = .ok () s := by
  have hcond : ¬((s.ctx.run (handleEntry w)).state ≠ .opened ∨ handleEntry w < 2 ∨ n % (s.ctx.run (handleEntry w)).size ≠ 0) := by
    rw [not_or, not_or]
    exact ⟨not_not.mpr ho, by omega, not_not.mpr hn⟩
  simp only [sendRun, run_bind, run_get, hc, if_true, checkRun_ok hw (.inl (by omega)), if_neg hcond, run_pure]

/-- What a send is, as an operation in flight. -/
def State.sendIssued (s : State) (q : Nat) (bs : List Byte) : State :=
  let u := s.addOp q .copy (.send (sendDesc bs none) (ptrChip (descWord bs 0)))
  { u with ops := u.ops.map (fun o => if o.id == s.nextOp then { o with counts := (BitVec.ofNat 64 s.nextOp, 0, 0) } else o) }

theorem xsend_issues {bs : List Byte} {pl : Place} (hh : ByHart s) (hn : Named s [a, b]) (hq : Handle s h q)
    (hd : Descriptor s (s.rs a) 32 bs) (hok : sendOk bs = true) (hb : s.rs b = BitVec.allOnes 64)
    (hsrc : place s .table (descField bs 16 4) 1 (descWord bs 8) = .ok pl)
    (hdst : (ptrSpace (descWord bs 0) = 7 ∧ ∃ y, farPointer (descWord bs 0) (descField bs 16 4) 4 s = .ok y s) ∨
      (ptrSpace (descWord bs 0) = 5 ∧ sendRun (descWord bs 0) (descField bs 16 4) s = .ok () s)) :
    execXsend a b h s = .next (s.sendIssued q bs).retire := by
  refine issue_ok (f := .seq) hh _ ?_
  have htk : sendTicket (ptrChip (descWord bs 0)) (s.sendDie (sendDesc bs none)) (s.rs b) s = .ok none s := by
    simp only [sendTicket, run_bind, run_get, hb, if_true, run_pure]
  have hdesc : (sendDesc bs none).dst = descWord bs 0 ∧ (sendDesc bs none).bytes = descField bs 16 4 ∧
      (sendDesc bs none).src = descWord bs 8 := ⟨rfl, rfl, rfl⟩
  simp only [run_bind, named_ok hn, seqOf_ok hh hq, run_get, readDesc_ok hd, hok, if_true, hdesc, hsrc]
  rcases hdst with ⟨h7, y, hy⟩ | ⟨h5, hr⟩
  · simp only [h7, show ((7 : Nat) == 5) = false from rfl, Bool.false_eq_true, if_false, hy, htk, run_bind, run_act, run_pure]
    rfl
  · simp only [h5, beq_self_eq_true, if_true, hr, htk, run_bind, run_act, run_pure]
    rfl

end

end Sys2Proof.Machine
end

section
/-! SUPPORT. link requests, tickets, notes and queries (R349, R355, R356, R360 to R363). -/

namespace Sys2Proof.Machine

section
variable {s : State} {d a b : Reg} {h : HReg} {q : Nat}

/-! ## Tickets (R361) -/

/-- What goes to another chip follows at once what has all been sent there (R356). -/
theorem ready_far {cls : OpClass} {dest : Option Reg} {chip : BitVec 10} (hl : s.late = false)
    (hs : s.sentTo (s.predsAt s.me.core q) chip = true) : ready (.far q cls dest chip) s = .ok () s := by
  have hf : s.follows s.cur.owner (.far q cls dest chip) (s.precede (.far q cls dest chip)) = true := by
    unfold State.follows
    rw [Bool.and_eq_true]
    refine ⟨rfl, ?_⟩
    show [chip].all _ = true
    rw [List.all_cons, List.all_nil, Bool.and_true]
    exact hs
  have hb : s.behind s.cur.owner (.far q cls dest chip) = false := by
    unfold State.behind
    rw [Bool.and_eq_false_iff]
    refine .inr (List.any_eq_false.2 fun x _ hx => ?_)
    simp only [Bool.and_eq_true] at hx
    exact absurd hx.1.2 Bool.false_ne_true
  have hp : s.performsNow (.far q cls dest chip) = true := by
    rw [State.performsNow, hl, hf, hb, show s.touching s.cur.owner (Needs.far q cls dest chip).touch s.nextOp = false from touching_nil ..]
    rfl
  simp only [ready, run_bind, run_get, hp, if_true]
  cases s.cur <;> rfl

theorem xticket_own {u : State} {n : BitVec 32} {excess : Bool} (hh : ByHart s) (hn : Named s [d, a, b]) (hq : Handle s h q)
    (hd : farDie (s.rs a) s = .ok () s) (h16 : s.heldTickets s.cur.owner < 16) (hc : ptrChip (s.rs a) = s.chipId) (hp : Prompt s q [])
    (ht : s.takeTicket s.group.ctx (ptrDie (s.rs a)) (ptrChip (s.rs a)) (BitVec.ofNat 32 s.cur.owner.key) (s.rs b).toNat = (u, n, excess)) :
    execXticket d a b h s = .next ((u.setMe { u.me with
      tickets := u.me.tickets ++ [⟨ptrChip (s.rs a), ptrDie (s.rs a), n, false, excess, false⟩] }).setRs d (n.setWidth 64)).retire := by
  refine issue_ok (f := .seq) hh _ ?_
  have hno : ¬(s.cur = .hart s.cur.owner ∧ 16 ≤ s.heldTickets s.cur.owner) := fun h => by omega
  have hr : ready (.of q .load (some d)) s = .ok () s := ready_ok hp rfl rfl rfl
  simp only [run_bind, named_ok hn, seqOf_ok hh hq, run_get, hd, if_neg hno, run_pure, if_pos hc, hr, ht, run_set]

theorem xticket_far (hh : ByHart s) (hn : Named s [d, a, b]) (hq : Handle s h q)
    (hd : farDie (s.rs a) s = .ok () s) (h16 : s.heldTickets s.cur.owner < 16) (hc : ptrChip (s.rs a) ≠ s.chipId) (hl : s.late = false)
    (hs : s.sentTo (s.predsAt s.me.core q) (ptrChip (s.rs a)) = true) :
    let u := s.addRemote q .load (.ticket (ptrChip (s.rs a)) (ptrDie (s.rs a)) d) s.nextOp
    execXticket d a b h s = .next ((u.send u.group.ctx (ptrChip (s.rs a)) u.lastOp false false
      (.tkreq (ptrDie (s.rs a)) (s.rs b).toNat none)).markPending d).retire := by
  refine issue_ok (f := .seq) hh _ ?_
  have hno : ¬(s.cur = .hart s.cur.owner ∧ 16 ≤ s.heldTickets s.cur.owner) := fun h => by omega
  simp only [run_bind, named_ok hn, seqOf_ok hh hq, run_get, hd, if_neg hno, run_pure, if_neg hc, ready_far hl hs, run_act]

/-- XTKWAIT for a ticket that the hart holds. -/
theorem xtkwait_held {t : Held} (hh : ByHart s) (hn : Named s [a, b]) (hq : Handle s h q) (hd : farDie (s.rs a) s = .ok () s)
    (ht : s.me.ticketAt (ptrChip (s.rs a)) (some (ptrDie (s.rs a))) (s.rs b) = some t) (hlost : t.lost = false)
    (hcan : t.cancelled = false) :
    (t.called = true → execXtkwait a b h s = .next s.retire) ∧
      (t.called = false → execXtkwait a b h s = .next (s.setMe { s.me with state := .wait })) := by
  refine ⟨fun hc => issue_ok (f := .seq) hh _ ?_, fun hc => ?_⟩
  · simp only [run_bind, named_ok hn, seqOf_ok hh hq, run_get, hd, ht, hlost, hcan, hc, Bool.false_eq_true, if_false, if_true, run_pure]
  · refine (issue_hart (r := .error .wait s) hh _ ?_).trans (by rw [finish_wait, enterWait_hart hh])
    simp only [run_bind, named_ok hn, seqOf_ok hh hq, run_get, hd, ht, hlost, hcan, hc, Bool.false_eq_true, if_false, run_throw]

/-- XTKWAIT for a ticket that it does not hold. -/
theorem xtkwait_none (hh : ByHart s) (hn : Named s [a, b]) (hq : Handle s h q) (hd : farDie (s.rs a) s = .ok () s)
    (ht : s.me.ticketAt (ptrChip (s.rs a)) (some (ptrDie (s.rs a))) (s.rs b) = none) :
    execXtkwait a b h s = .next (State.takeTrap s (.at .ticketCancelled (s.rs b)) s) := by
  refine issue_hart (r := .error (.trap (.at .ticketCancelled (s.rs b))) s) hh _ ?_
  simp only [run_bind, named_ok hn, seqOf_ok hh hq, run_get, hd, ht, run_trap]

/-! ## Notes and passes (R362) -/

theorem deliverNote_here {p v : Word} {pass : Bool} {c off : Nat} (hp : farPointer p 8 8 s = .ok (.ok (.ls c off)) s) (hpr : Prompt s q []) :
    deliverNote q p v pass s = .ok () (s.landNote s.group.ctx p v).1 := by
  have hr : ready (.of q .store none) s = .ok () s := ready_ok hpr rfl rfl rfl
  simp only [deliverNote, run_bind, hp, hr, run_act]

theorem deliverNote_far {p v : Word} {pass : Bool} {k : BitVec 10} {die c off : Nat}
    (hp : farPointer p 8 8 s = .ok (.ok (.remote k die c off)) s) (hl : s.late = false) (hs : s.sentTo (s.predsAt s.me.core q) k = true) :
    deliverNote q p v pass s = .ok () ((s.addRemote q .store (.remote k none) s.nextOp).send
      (s.addRemote q .store (.remote k none) s.nextOp).group.ctx k (s.addRemote q .store (.remote k none) s.nextOp).lastOp true false
      (.note p v pass)) := by
  simp only [deliverNote, run_bind, hp, ready_far hl hs, run_act]

theorem xnote_delivers {t : State} (hh : ByHart s) (hn : Named s [a, b]) (hq : Handle s h q)
    (hd : deliverNote q (s.rs a) (s.rs b) false s = .ok () t) : execXnote a b h s = .next t.retire := by
  refine issue_ok (f := .seq) hh _ ?_
  simp only [run_bind, named_ok hn, seqOf_ok hh hq, run_get, hd, run_pure]

theorem xpass_delivers {t : State} {y : Except PtrFault Place} (hh : ByHart s) (hn : Named s [a, b]) (hq : Handle s h q)
    (hp : farPointer (s.rs a) 8 8 s = .ok y s) (he : s.exportedHere (s.rs b) = true)
    (hd : deliverNote q (s.rs a) (s.rs b) true s = .ok () t) : execXpass a b h s = .next t.retire := by
  refine issue_ok (f := .seq) hh _ ?_
  simp only [run_bind, named_ok hn, seqOf_ok hh hq, run_get, hp, he, Bool.or_true, if_true, run_pure, hd]

/-! ## Queries (R363) -/

/-- A sum of distinct powers of two has those bits. -/
theorem sum_bits (p : Nat → Bool) (n : Nat) : (((List.range n).filter p).map (2 ^ ·)).sum < 2 ^ n ∧
    ∀ k < n, ((((List.range n).filter p).map (2 ^ ·)).sum).testBit k = p k := by
  induction n with
  | zero => exact ⟨Nat.zero_lt_one, fun k hk => absurd hk (Nat.not_lt_zero k)⟩
  | succ n ih =>
    obtain ⟨hlt, hbit⟩ := ih
    rw [List.range_succ, List.filter_append, List.map_append, List.sum_append]
    generalize (((List.range n).filter p).map (2 ^ ·)).sum = x at *
    cases hp : p n with
    | false =>
      have h0 : (([n].filter p).map (2 ^ ·)).sum = 0 := by rw [List.filter_cons_of_neg (by rw [hp]; exact Bool.false_ne_true)]; rfl
      rw [h0, Nat.add_zero]
      refine ⟨hlt.trans (Nat.pow_lt_pow_succ Nat.one_lt_two), fun k hk => ?_⟩
      rcases Nat.lt_succ_iff_lt_or_eq.mp hk with hk | rfl
      · exact hbit k hk
      · rw [Nat.testBit_lt_two_pow hlt, hp]
    | true =>
      have h1 : (([n].filter p).map (2 ^ ·)).sum = 2 ^ n := by rw [List.filter_cons_of_pos hp]; exact Nat.add_zero _
      rw [h1, Nat.add_comm]
      refine ⟨by rw [Nat.pow_succ]; omega, fun k hk => ?_⟩
      rcases Nat.lt_succ_iff_lt_or_eq.mp hk with hk | rfl
      · rw [Nat.testBit_two_pow_add_gt hk, hbit k hk]
      · rw [Nat.testBit_two_pow_add_eq, Nat.testBit_lt_two_pow hlt, hp]
        rfl

theorem stationBits_spec (x : LinkState) : s.stationBits x < 2 ^ 16 ∧
    ∀ k < 16, (s.stationBits x).testBit k = decide ((vecGet Station.reset s.stations k).state = x) :=
  sum_bits (fun k => (vecGet Station.reset s.stations k).state == x) 16

theorem linkInfo_stations (chip : BitVec 10) : (s.linkInfo chip 2).toNat < 2 ^ 32 ∧ ∀ k < 16,
    bitOf (s.linkInfo chip 2) k = decide ((vecGet Station.reset s.stations k).state = .up) ∧
      bitOf (s.linkInfo chip 2) (16 + k) = decide ((vecGet Station.reset s.stations k).state = .narrow) := by
  have he : s.linkInfo chip 2 = BitVec.ofNat 64 (s.stationBits .narrow * 2 ^ 16 + s.stationBits .up) := rfl
  obtain ⟨hu, hub⟩ := stationBits_spec (s := s) .up
  obtain ⟨hn, hnb⟩ := stationBits_spec (s := s) .narrow
  rw [he]
  generalize s.stationBits .up = u at *
  generalize s.stationBits .narrow = n at *
  refine ⟨by rw [BitVec.toNat_ofNat]; omega, fun k hk => ?_⟩
  rw [← hub k hk, ← hnb k hk, bitOf, bitOf, BitVec.getLsbD_ofNat, BitVec.getLsbD_ofNat, Nat.mul_comm,
    Nat.testBit_two_pow_mul_add _ hu, Nat.testBit_two_pow_mul_add _ hu, if_pos hk, if_neg (by omega), decide_eq_true (by omega),
    decide_eq_true (by omega), Nat.add_sub_cancel_left]
  exact ⟨rfl, rfl⟩

theorem linkInfo_beyond (chip : BitVec 10) {w : Word} (h : 4 < w.toNat) : s.linkInfo chip w = 0 := by
  unfold State.linkInfo
  generalize w.toNat = n at *
  match n, h with
  | n + 5, _ => rfl

theorem xquery_next (hh : ByHart s) (hn : Named s [d, a, b]) (h0 : bitsOf (s.rs a) 10 54 = 0) :
    execXquery d a b s = .next (s.setRs d (s.linkInfo ((s.rs a).setWidth 10) (s.rs b))).retire := by
  refine issue_ok (f := .seq) hh _ ?_
  simp only [run_bind, named_ok hn, run_get, h0, ne_eq, not_true, if_false, run_set, run_pure]

end

end Sys2Proof.Machine
end

section
/-! SUPPORT. The statements settled: link requests, tickets, notes and queries (R349, R355, R356, R360 to R363). -/

namespace Sys2Proof.Proofs
open Sys2Proof.Machine

/-- Settles O59: each request, completion and fabric instruction, by what its checks find. -/
theorem linkRequests : Obligations.LinkRequests := by
  unfold Obligations.LinkRequests
  refine ⟨⟨ualinkRequests, fun d r o h x s hl hr ho hk hi hh => completion_ends hl hr ho hk hi hh⟩, ?_⟩
  intro d a b h q s hh hn hq p chip
  have hab : Named s [a, b] := named_subset hn (List.subset_cons_self ..)
  refine ⟨?_, ?_, ?_, ?_, ?_, fun h0 => ?_⟩
  · intro bs pl hd hok hb hsrc dst run hdst
    refine xsend_issues hh hab hq hd hok hb hsrc (hdst.imp id ?_)
    exact fun ⟨h5, hc, hw, h2, ho, hm⟩ => ⟨h5, sendRun_ok hc hw h2 ho hm⟩
  · intro hd h16
    refine ⟨fun u n excess hc hp ht => ?_, fun hc hl hs => xticket_far hh hn hq hd h16 hc hl hs⟩
    rw [show chip = ptrChip (s.rs a) from rfl]
    exact xticket_own hh hn hq hd h16 hc hp ht
  · intro hd
    exact ⟨fun t ht hlost hcan => xtkwait_held hh hab hq hd ht hlost hcan, xtkwait_none hh hab hq hd⟩
  · intro c off hp hpr
    exact ⟨xnote_delivers hh hab hq (deliverNote_here hp hpr), fun he => xpass_delivers hh hab hq hp he (deliverNote_here hp hpr)⟩
  · intro k die c off hp hl hs u sent
    exact ⟨xnote_delivers hh hab hq (deliverNote_far hp hl hs),
      fun he => xpass_delivers hh hab hq hp he (deliverNote_far hp hl hs)⟩
  · refine ⟨_, xquery_next hh hn h0, fun hb => ?_, fun hb => ?_, fun hb => ?_, fun hb => ?_, fun hb => ?_, fun hb => linkInfo_beyond _ hb⟩
    · rw [hb]
      rfl
    · rw [hb]
      rfl
    · rw [hb]
      exact linkInfo_stations _
    · rw [hb]
      rfl
    · rw [hb]
      rfl

end Sys2Proof.Proofs
end

section
/-! SUPPORT. a message kept though the statement has it applied (R354, R360). -/

namespace Sys2Proof.Machine

/-! ## A send's last piece where contexts are not listed by rising number -/

/-- A run of 4-byte records without an extent. -/
def emptyRun : Run := { Run.reset with gen := 1, layout := BitVec.ofNat 64 4, state := .opened }

/-- A context with that run in entry 2, one page unit in its pool on die 1, and a session with chip 1. -/
def sparePool : Ctx :=
  { Ctx.reset with
    state := .active
    table := 4
    runs := [(2, emptyRun)]
    pools := [(1, 1)]
    sessions := [{ Session.reset with chip := 1, state := .opened }] }

/-- Contexts 1 and 0 in this order, of a function whose limit is two page units, of which one is taken. -/
def unorderedContexts : State :=
  { State.reset with
    ctxs := [(1, { Ctx.reset with vf := 1 }), (0, sparePool)]
    vfs := [(0, { VFunc.reset with limits := { Limits.reset with pool := 2 ^ 22 } })] }

/-- The last piece of a send of one record to that run. -/
def lastPiece : DataPiece := ⟨runHandle State.reset 2 emptyRun, 0, [0, 0, 0, 0], true, 4, none, none⟩

/-- Its message. -/
def lastMsg : Msg := ⟨0, 1, 0, 0, false, false, .data lastPiece⟩

/-- The state in which the message is kept for its turn. -/
def keptPiece : State :=
  unorderedContexts.setCtxAt 0 (sparePool.setSession { sparePool.session 1 with held := [lastMsg] })

theorem lastPiece_lands : (unorderedContexts.landRun 0 lastPiece.dst lastPiece.bytes false false).2 = .done := by decide +kernel

theorem keptPiece_waits : (keptPiece.applyMsg lastMsg).isNone = true := by decide +kernel

theorem lastPiece_applied : (unorderedContexts.applyMsg lastMsg).isSome = true := by decide +kernel

theorem lastMsg_taken : unorderedContexts.takesMsg lastMsg = true := by
  unfold State.takesMsg
  rw [lastPiece_applied]
  exact Bool.or_true _

/-- A message whose turn it is and whose effect must wait is kept (R354). -/
theorem arrive_kept {s : State} {m : Msg} (hl : s.linked = true) (ho : ((s.ctxAt m.ctx).session m.chip).state = .opened)
    (hseq : m.seq = BitVec.ofNat 32 ((s.ctxAt m.ctx).session m.chip).applied) (hheld : ((s.ctxAt m.ctx).session m.chip).held = [])
    (ht : s.takesMsg m = true)
    (hw : (s.setCtxAt m.ctx ((s.ctxAt m.ctx).setSession { (s.ctxAt m.ctx).session m.chip with held := [m] })).applyMsg m = none) :
    arrive_ true m s =
      .next (s.setCtxAt m.ctx ((s.ctxAt m.ctx).setSession { (s.ctxAt m.ctx).session m.chip with held := [m] })) := by
  have hc := session_chip (x := s.ctxAt m.ctx) (chip := m.chip) (by rw [ho]; exact nofun)
  have hput := session_put s m.ctx (s.ctxAt m.ctx) (t := { (s.ctxAt m.ctx).session m.chip with held := [m] }) hc
  unfold arrive_
  dsimp only
  refine (event_true ?_ ..).trans (congrArg _ ?_)
  · rw [hl, ho, ← hseq, sub_self, hheld, ht]
    rfl
  · rw [hheld, List.nil_append]
    unfold State.applyHeld
    dsimp only
    rw [hput, ← hseq]
    dsimp only
    rw [List.find?_cons_of_pos (p := fun k : Msg => k.seq == m.seq) (beq_self_eq_true m.seq)]
    dsimp only at hw ⊢
    rw [hw]

/-- The message is kept, and its effect does not come. -/
theorem lastMsg_kept : exec (.dataMsg lastMsg) unorderedContexts = .next keptPiece :=
  arrive_kept (by decide +kernel) rfl rfl rfl lastMsg_taken (Option.isNone_iff_eq_none.mp keptPiece_waits)

end Sys2Proof.Machine
end

section
/-! SUPPORT. The statements settled: a message kept though the statement has it applied (R354, R360). -/

namespace Sys2Proof.Proofs
open Sys2Proof.Machine

/-- Refutes O58: where a state does not list its contexts by rising number, as no step leaves them, keeping the last piece of a send
lists its context twice, the function's limit then counts that context's page units twice, and the send that the limit allowed
before finds no pages (`unorderedContexts`). -/
theorem not_sequencedMessages : ¬Obligations.SequencedMessages := by
  unfold Obligations.SequencedMessages
  intro h
  obtain ⟨-, -, -, -, hturn⟩ := h lastMsg (.dataMsg lastMsg) unorderedContexts rfl rfl
  obtain ⟨-, -, -, -, -, hdata, -⟩ := hturn (by decide +kernel) rfl rfl lastMsg_taken
  obtain ⟨-, -, hrun⟩ := hdata lastPiece rfl rfl rfl
  obtain ⟨t, ht, happ, -⟩ := hrun _ (by decide +kernel) rfl (Prod.ext rfl lastPiece_lands)
  rw [lastMsg_kept] at ht
  cases ht
  exact absurd happ (by decide +kernel)

end Sys2Proof.Proofs
end
